-- ==== Sys2Proof/Word.lean ====
section
/-! DEFINITION. Word.lean: the words the PX7256's registers, frames and memories are made of.
A byte and a Trowel register are bit vectors; an instant, a count, an index and a dictionary value are natural
numbers, brought back to their entry's width by the operation that stores them. -/

namespace Sys2Proof

/-- One byte of a frame, a record or a memory. -/
abbrev Byte := BitVec 8

/-- A Trowel register or a state-memory word (R292). -/
abbrev Word32 := BitVec 32

/-- A port, named by its lowest lane (chapter "Scope and conventions", naming rules). -/
abbrev PortId := Fin 256

/-- A tile ID of R23: PT 0x00 to 0x1F, CT 0x20 to 0x2F, ST 0x30 to 0x33, HT 0x34 and 0x35, DT, MT, KT. -/
abbrev TileId := Fin 57

/-- A traffic class; class 7 is the protection class (R22). -/
abbrev ClassId := Fin 8

end Sys2Proof
end

