-- ==== Sys2Proof/Syntax.lean ====
section
/-! DEFINITION. Syntax.lean: the commands the PX7256 takes from outside, one constructor per row of the manual's
command table, and the operand types they carry. The table gives no operand fields: each constructor carries what
its rule says arrives with the event (a port, a frame, a request of the dictionary, a reading). -/

namespace Sys2Proof

/-- How a dictionary request reaches the agent (R530). A BLP session names itself by SessionId, carries its Sequence
and either passes its tag, length and session checks or does not (R542); the mailbox and the core window carry the
frame's own version (R543). A signed command that carries the entry alone has its Counter, and its signatures, target and
times stand or do not (R508); the Keystone firmware writes by itself the entries of access K (R507).
[DESIGN CHOICE: log entry 113] -/
inductive Via where
  | session (sid seq : Nat) (intact : Bool)
  | mailbox (link : Fin 4) (version : Nat)
  | core (n : Fin 96) (version : Nat)
  | signed (counter : Nat) (authentic : Bool)
  | firmware
  deriving DecidableEq, Repr

/-- A dictionary request: its path, and the instant of its acceptance within the course, in 2^-16 ns. -/
structure Req where
  via : Via
  off : Nat
  deriving DecidableEq, Repr

/-- A value as it crosses BLP: its type code and its bytes, most significant first (R536). -/
structure WireValue where
  type : Nat
  bytes : List Byte
  deriving DecidableEq, Repr

/-- A TLV of a PTP message (R83): those the device acts on, those it only forwards, and any other by its type. PATH_TRACE
carries the clock identities the message has passed. -/
inductive PtpTlv where
  | l1Sync
  | pathTrace (clocks : List Nat)
  | alternateOffset (bytes : List Byte)
  | organisation (bytes : List Byte)
  | unknown (type : Nat) (bytes : List Byte)
  deriving DecidableEq, Repr

/-- What the header of a PTP message carries, as far as the port acts on it (R82, R83, R86): whether it passes its
length and header checks, its domain, sequence number, correction in 2^-16 ns, two-step flag, the TLVs attached, and the
port the switch forwards a general message of another domain to. -/
structure PtpHeader where
  valid : Bool
  domain : Nat
  seq : Nat
  correction : Int
  twoStep : Bool
  tlvs : List PtpTlv
  forward : Option PortId
  deriving DecidableEq, Repr

/-- What an Announce tells (R58, R78): the data set the BMCA compares, UTC offset and leap flags. -/
structure AnnounceBody where
  dataSet : List Nat
  utcValid : Bool
  utcOffset : Int
  leap : Int
  deriving DecidableEq, Repr

/-- What a Signaling message carries (R82, R84): the partner's L1_SYNC bits (txCoherent, rxCoherent, congruent all
set or not), and requests of a sync and an announce interval. -/
structure SignalingBody where
  l1Sync : Option Bool
  logSync : Option Int
  logAnnounce : Option Int
  deriving DecidableEq, Repr

/-- A PTP message as the port receives it; `origin`, `receive`, `requestReceipt` and `responseOrigin` are instants in
2^-16 ns, and `egress` is the port and the egress instant when the switch forwards the message. -/
inductive PtpMsg where
  | sync (origin : Nat) (egress : Option (PortId × Nat))
  | followUp (origin : Nat)
  | delayReq (egress : Option (PortId × Nat))
  | delayResp (receive : Nat)
  | pdelayReq (egress : Option (PortId × Nat))
  | pdelayResp (requestReceipt : Nat) (egress : Option (PortId × Nat))
  | pdelayRespFollowUp (responseOrigin : Nat)
  | announce (body : AnnounceBody)
  | signaling (body : SignalingBody)
  | management
  deriving DecidableEq, Repr


/-- A received frame as R168 judges it: its octets from the destination address to the last byte of the FCS, and whether
the FCS is good. -/
structure RxFrame where
  octets : Nat
  fcsGood : Bool
  deriving DecidableEq, Repr

/-- What an LLDPDU of the peer tells (R164, R165): its PFC enables and ETS Recommendation when the TLVs are present,
its willing bit, its chassis MAC address, and its TTL in seconds. -/
structure LldpBody where
  pfc : Option Nat
  ets : Option Nat
  willing : Bool
  chassis : Nat
  ttl : Nat
  deriving DecidableEq, Repr

/-- Where a frame goes (forwarding results, R39, R207): a port, a receive queue by its Dest encoding, or an aligned
queue. -/
inductive Dst where
  | port (p : PortId)
  | queue (dest : Nat)
  | aligned (q : Fin 256)
  deriving DecidableEq, Repr



/-- The header of a Wall PDU, as it arrives (R243). -/
structure WallHeader where
  version : Nat
  wallId : Nat
  deviceId : Nat
  supportedLevel : Nat
  targetLevel : Nat
  levelInForce : Nat
  minSupported : Nat
  minHops : Nat
  state : Nat
  clockIdentity : Nat
  courseLength : Nat
  sequence : Nat
  hopStamp : Nat
  portNumber : Nat
  mode : Nat
  syncGen : Nat
  deriving DecidableEq, Repr

/-- A sync record (R249's layout). -/
structure SyncRecord where
  op : Nat
  flags : Nat
  fid : Nat
  mac : Nat
  owner : Nat
  ownerPort : Nat
  learnTime : Nat
  deriving DecidableEq, Repr

/-- A Trowel engine: 4 × pipeline + number, pipelines 2 × tile (+ 1 for egress). -/
abbrev EngineId := Fin 256

/-- The operand fields of a macro-instruction (R293). -/
structure Macro where
  a : Fin 16
  b : Fin 16
  imm : BitVec 16
  deriving DecidableEq, Repr

/-- Where a look-aside request comes from (R363). -/
inductive LookFrom where
  | slice (link : Fin 4) (n : Fin 4096)
  | core (n : Fin 96)
  | keystone
  deriving DecidableEq, Repr

/-- A look-aside request at the fetch of its descriptor: its source, the service tile its queue is bound to, the 64-byte
descriptor, and, for a core or the Keystone, the source, AAD and tag bytes its own memory holds. -/
structure LookReq where
  origin : LookFrom
  tile : Fin 4
  descriptor : BitVec 512
  source : List Byte
  aad : List Byte
  tag : List Byte
  off : Nat
  deriving DecidableEq, Repr


/-- The fields of a core's Hod command but its Op (R376's command map). -/
structure HodCmd where
  pool : BitVec 8
  count : BitVec 8
  gen : BitVec 8
  newOwner : BitVec 12
  address : BitVec 64
  deriving DecidableEq, Repr

/-- A queue pair of a slice on a function of a link (R396). -/
structure QueueRef where
  link : Fin 4
  fn : Fin 4
  slice : Fin 4096
  q : Fin 64
  deriving DecidableEq, Repr

/-- A request to the peer aperture (R409, R415). -/
inductive PeerAccess where
  | read (len : Nat)
  | write (bytes : List Byte)
  deriving DecidableEq, Repr

/-- The configuration registers of R393 to R395 a request can name. -/
inductive CfgReg where
  | identity | classRevision | command
  | bar (n : Fin 3)
  | powerControl | deviceControl | deviceControl2 | msixControl | aerUncorrectable | aerCorrectable | serial | other
  deriving DecidableEq, Repr

/-- A slice on a function of a link: its slice control block (R427). -/
structure SliceRef where
  link : Fin 4
  fn : Fin 4
  slice : Fin 4096
  deriving DecidableEq, Repr

/-- A submission or completion queue of PF2 (R442, R444): queue `qid` of controller 0 (0 the admin queue), or queue pair q
of a slice controller. -/
inductive NvmeQ where
  | ctrl (link : Fin 4) (qid : Fin 65)
  | slice (link : Fin 4) (n : Fin 4096) (q : Fin 64)
  deriving DecidableEq, Repr

/-- What an SSD's memory request reaches (R464): the PRP range of a backing command, its MSI-X target, or anything
else. -/
inductive SsdTarget where
  | range (id : Nat)
  | msix
  | other
  deriving DecidableEq, Repr

/-- An OPEN (R544): source address, path (0 UDP, 1 monitor), versions offered, signer, and its nonce and public values as
they are carried. -/
structure OpenFrame where
  source : Nat
  path : Fin 2
  versions : BitVec 8
  signer : BitVec 8
  body : List Byte
  off : Nat
  deriving DecidableEq, Repr

/-- An OPEN_FINISH (R544): the SessionId it answers, and the two signatures. -/
structure FinishFrame where
  sid : Nat
  ecdsa : List Byte
  mldsa : List Byte
  off : Nat
  deriving DecidableEq, Repr

/-- What a frame on a management port is, as far as R541 tells frames apart. -/
inductive MgmtKind where
  | arp | neighbour | echo
  /-- UDP to a destination port, from a source address that the frame's IP header gives. -/
  | udp (port : BitVec 16) (source : BitVec 128)
  | other
  deriving DecidableEq, Repr

/-- A frame on a management port (R540): source MAC address, sequence number and LAN (false A) of its redundancy control
trailer, and its kind. -/
structure MgmtFrame where
  source : BitVec 48
  trailer : Option (BitVec 16 × Bool)
  kind : MgmtKind
  deriving DecidableEq, Repr
/-- A register of a BAR of a function of a link (R395): its byte offset. BAR 0 or 2. -/
structure RegRef where
  link : Fin 4
  fn : Fin 4
  bar : Fin 3
  offset : Nat
  deriving DecidableEq, Repr

/-- What a READ or a WRITE with no row of its own names: a dictionary entry, or a register of a BAR. -/
inductive ReadTarget where
  | entry (r : Req) (key : BitVec 24)
  | reg (a : RegRef) (len : Nat) (off : Nat)
  deriving DecidableEq, Repr

/-- What a WRITE with no row of its own names, and what it brings. -/
inductive WriteTarget where
  | entry (r : Req) (key : BitVec 24) (v : WireValue)
  | reg (a : RegRef) (bytes : List Byte) (off : Nat)
  deriving DecidableEq, Repr

/-- What an on-die SRAM word with an uncorrectable error holds (R566). -/
inductive SramContent where
  /-- A word of a buffer, by the network of its traffic, and the frame it belongs to when it is a frame's. -/
  | buffer (network : Fin 6) (frame : Option Nat)
  | freeList (pool : BitVec 8) (unit : BitVec 32)
  | count (pool : BitVec 8) (unit : BitVec 32)
  | store
  | rule (t : Fin 32) (pipeline : Fin 2) (id : BitVec 32)
  | exact (x : Fin 16) (key : BitVec 256)
  | vlan (vid : BitVec 12)
  | group (n : BitVec 14)
  | policer (t : Fin 32) (n : BitVec 11)
  | fdb (fid : BitVec 12) (mac : BitVec 48)
  | engine (e : EngineId)
  | core (n : Fin 96)
  | keystone
  deriving DecidableEq, Repr

/-- What a start-up meets (R511, R513, R538): flash read failures by slot (bit 0 slot A), components of the slots that
fail their digest as they are loaded, configuration words whose copies are both lost, a sensor below 0 °C at the end of
stage 2 (R601), REFCLK_SYS present (R598), a calibration record whose signature fails (R72), namespaces whose journal
holds a record that fails its CRC (R456), codes of fatal conditions the self-test finds again (R570). -/
structure StartUp where
  readBad : BitVec 2
  loadBad : BitVec 2
  lost : List (BitVec 24)
  cold : Bool
  refclkSys : Bool
  calibrationBad : Bool
  journalBad : List (BitVec 16)
  found : List (BitVec 16)
  deriving DecidableEq, Repr

/-- The commands, in the order of the manual's command table. [DESIGN CHOICE: log entry 127] -/
inductive Instr where
  /-- RELEASE_OF_RESET (R593): PWROK and RESET_N have both been high for 6 µs; start-up runs Kiln stages 0 to 4, choosing a slot or entering recovery. -/
  | releaseOfReset (u : StartUp)
  /-- WARM_UP_COMPLETE (R601): Every sensor reads 0 °C or more after a cold start, and stage 3 begins. -/
  | warmUpComplete (u : StartUp)
  /-- RESET_START (R593): PWROK or RESET_N is held low for 6 µs or more and a reset begins; outputs take their reset states. -/
  | resetStart
  /-- RESET_GLITCH (R593): A low of 4 µs or less on PWROK or RESET_N is ignored and counted in ResetGlitches. -/
  | resetGlitch
  /-- RAIL_UNDERVOLTAGE (R592): A rail stays below 92 % of nominal for 2 µs; a reset starts and the rail is recorded. -/
  | railUndervoltage (rail : Fin 9) (held : Bool)
  /-- TEMPERATURE_READ (R73): Every 1,024 courses the sensors are read and the lane calibration constants are recomputed for temperature. -/
  | temperatureRead (tiles : List (BitVec 16)) (hbm : BitVec 16)
  /-- THERMAL_TRIP (R600): A tile's hardware comparator reaches 115 °C; THERM_TRIP_N is driven low until start-up. -/
  | thermalTrip (t : TileId)
  /-- THERMAL_RESET (R600): A junction reaches 125 °C and the device starts a reset with LastResetCause 3. -/
  | thermalReset
  /-- REFCLK_SYS_LOST (R598): REFCLK_SYS becomes absent; the clocks hold and then run from the oscillator, every port goes down with cause 3, and FAULT_N goes low. -/
  | refclkSysLost
  /-- REFCLK_SYS_RESTORED (R598): REFCLK_SYS has been present for 10 ms; FAULT_N is released and bring-up resumes. -/
  | refclkSysRestored
  /-- REFCLK_TIME_LOST (R55): REFCLK_TIME becomes absent or off frequency; the counter runs from REFCLK_SYS unless a syntonised lane is in use. -/
  | refclkTimeLost
  /-- REFCLK_TIME_RETURN (R597): REFCLK_TIME returns, at 10 or 25 MHz, and becomes the frequency reference again. -/
  | refclkTimeReturn (frequency : Nat)
  /-- PERST_RELEASE (R390): PERST0_N of an upstream port rises; the bifurcation strap is sampled and the links are reset and presented. -/
  | perstRelease (port : Fin 2) (strap : Bool)
  /-- HOST_LINK_RESET (R392): A hot reset or link-down of an upstream link resets every function of that link as a function-level reset does. -/
  | hostLinkReset (link : Fin 4)
  /-- COURSE_BOUNDARY (R112): A course boundary passes; every unit runs the 13 steps of boundary work in order. -/
  | courseBoundary
  /-- COURSE_HANDLER (R304): The first engine to reach a frame boundary runs the course handler at dispatch entry 0x00. -/
  | courseHandler (e : EngineId)
  /-- COUNTER_SNAPSHOT (R113): At a multiple of SnapshotInterval every counter copies into its snapshot, and SnapshotCourse is written. -/
  | counterSnapshot
  /-- SAMPLE_MESSAGE (R333): Every SampleInterval courses a port sends its 144-byte sample message to SampleDest. -/
  | sampleMessage (p : PortId)
  /-- PHASE_DETECTOR_READING (R68): A lane's phase detector delivers a reading every 10.24 µs; jumps above 100 ps are discarded. -/
  | phaseDetectorReading (lane : Fin 256) (reading : Fin 1600)
  /-- PPS_EDGE (R61): An edge on PPS_IN0 or PPS_IN1 is filtered, stamped and delivered as a measurement, or as an outlier. -/
  | ppsEdge (input : Fin 2) (off : Nat) (held : Nat)
  /-- SOURCE_TIMEOUT (R59): A source delivers no measurement within SourceTimeout; it restarts qualification, or becomes lost. -/
  | sourceTimeout (source : Nat)
  /-- SOURCE_QUALIFIED (R59): A source has delivered measurements for QualifyTime without an outlier and becomes qualified. -/
  | sourceQualified (source : Nat)
  /-- HOLDOVER_LIMIT (R63): HoldoverElapsed passes HoldoverLimit and the servo enters FREE_RUN. -/
  | holdoverLimit
  /-- LEAP_SECOND (R78): At 00:00:00 UTC after a pending leap, UtcOffset changes; device time does not. -/
  | leapSecond
  /-- SYNC (R82): A Sync message is received and stamped, then used as a measurement or forwarded as a transparent clock. -/
  | sync (p : PortId) (off : Nat) (h : PtpHeader) (origin : Nat) (egress : Option (PortId × Nat))
  /-- FOLLOW_UP (R82): A Follow_Up message is received and completes a two-step Sync. -/
  | followUp (p : PortId) (off : Nat) (h : PtpHeader) (origin : Nat)
  /-- DELAY_REQ (R82): A Delay_Req is received and answered with Delay_Resp. -/
  | delayReq (p : PortId) (off : Nat) (h : PtpHeader) (egress : Option (PortId × Nat))
  /-- DELAY_RESP (R82): A Delay_Resp is received and completes a path-delay measurement. -/
  | delayResp (p : PortId) (off : Nat) (h : PtpHeader) (receive : Nat)
  /-- PDELAY_REQ (R82): A Pdelay_Req is received and answered. -/
  | pdelayReq (p : PortId) (off : Nat) (h : PtpHeader) (egress : Option (PortId × Nat))
  /-- PDELAY_RESP (R82): A Pdelay_Resp is received for the peer-delay measurement. -/
  | pdelayResp (p : PortId) (off : Nat) (h : PtpHeader) (requestReceipt : Nat) (egress : Option (PortId × Nat))
  /-- PDELAY_RESP_FOLLOW_UP (R82): A Pdelay_Resp_Follow_Up is received and completes a two-step peer-delay measurement. -/
  | pdelayRespFollowUp (p : PortId) (off : Nat) (h : PtpHeader) (responseOrigin : Nat)
  /-- ANNOUNCE (R58): An Announce is received; it sets port state, drives profile negotiation, and may give UtcOffset. -/
  | announce (p : PortId) (off : Nat) (h : PtpHeader) (body : AnnounceBody)
  /-- SIGNALING (R84): A Signaling message carrying L1_SYNC or interval requests is received and acted on. -/
  | signaling (p : PortId) (off : Nat) (h : PtpHeader) (body : SignalingBody)
  /-- MANAGEMENT_MESSAGE (R82): A PTP Management message is counted and discarded. -/
  | managementMessage (p : PortId) (off : Nat) (h : PtpHeader)
  /-- SYNC_TRANSMIT (R81): At each sync interval the port sends Sync, one-step or two-step. -/
  | syncTransmit (p : PortId) (off : Nat)
  /-- ANNOUNCE_TRANSMIT (R84): At each announce interval the port sends Announce and re-checks its L1 state. -/
  | announceTransmit (p : PortId) (off : Nat)
  /-- DELAY_REQ_TRANSMIT (R82): The port sends its Delay_Req or Pdelay_Req at its configured interval. -/
  | delayReqTransmit (p : PortId) (off : Nat)
  /-- ANNOUNCE_RECEIPT_TIMEOUT (R58): No valid Announce arrives within AnnounceReceiptTimeout; the port leaves SLAVE and takes the BMCA state. -/
  | announceReceiptTimeout (p : PortId)
  /-- NEGOTIATION_TIME (R84): A profile attempt's NegotiationTime expires; the next profile is tried, or negotiation fails. -/
  | negotiationTime (p : PortId)
  /-- NEGOTIATION_RETRY (R85): 60 s after a failed negotiation, the sequence restarts from order 1. -/
  | negotiationRetry (p : PortId)
  /-- ESMC (R62): An ESMC quality-level message is received and updates SyncE lane selection. -/
  | esmc (p : PortId) (quality : Nat)
  /-- HOLD_OFF_TIME (R62): The SyncE hold-off timer of a failed reference expires and the reference is reselected. -/
  | holdOffTime
  /-- WAIT_TO_RESTORE (R62): The SyncE wait-to-restore timer expires and the restored lane may be selected again. -/
  | waitToRestore (lane : Fin 256)
  /-- TIME_STEP_OFFSET (R64): A signed write of TimeStepOffset is accepted for the next boundary. -/
  | timeStepOffset (r : Req) (v : WireValue)
  /-- TIME_SET (R64): A signed write of TimeSet is accepted while TimeValid is 0, and refused with 0x0A otherwise. -/
  | timeSet (r : Req) (v : WireValue)
  /-- TIO_EDGE (R89): An edge on a capture pin is filtered, stamped and put in the FIFO, or discarded and counted in CaptureOverflow. -/
  | tioEdge (n : Fin 32) (off : Nat) (held : Nat) (rising : Bool)
  /-- EXPECT_TIMEOUT (R90): No edge is accepted within ExpectTimeout courses; TioMissingEdge is reported once per gap. -/
  | expectTimeout (n : Fin 32)
  /-- GEN_COMMIT (R91): A write of GenCommit commits the generation set, which is checked at its boundary and may be refused as a late edge. -/
  | genCommit (r : Req) (n : Fin 32) (v : WireValue)
  /-- GENERATED_EDGE (R91): At its programmed time, a generating pin drives an edge, pulse or PPS. -/
  | generatedEdge (n : Fin 32) (off : Nat)
  /-- TIO_OWNER (R88): A write of TioOwner passes a pin's control and its captures to the dictionary or to a PF3. -/
  | tioOwner (r : Req) (n : Fin 32) (v : WireValue)
  /-- COURSE_COMMIT (R107): The Keystone commits CoursePending, after the budget check at the new length. -/
  | courseCommit (r : Req) (length : Nat)
  /-- OPERATING_MODE (R136): A write of OperatingMode requests a mode change after the checks, or sets the start-up mode only. -/
  | operatingMode (r : Req) (v : WireValue) (coresStopped : Bool)
  /-- PC_MIGRATION_COMPLETE (R140): A pseudo-channel's copy completes; it passes to its new activity and the next migration begins. -/
  | pcMigrationComplete
  /-- SAFE_MODE_ENTER (R145): A signed write of 0x07 to SafeModeCommand requests entry to mode 7. -/
  | safeModeEnter (r : Req)
  /-- SAFE_MODE_LEAVE (R147): A signed write of a target mode to SafeModeCommand in mode 7 is checked as a mode change out of mode 7. -/
  | safeModeLeave (r : Req) (target : BitVec 8) (coresStopped : Bool)
  /-- PORT_ENABLE (R171): A write of PortEnable starts bring-up, or takes the port down with cause 1. -/
  | portEnable (r : Req) (p : PortId) (v : WireValue)
  /-- LANE_GROUPING (R152): A write of LaneGrouping regroups the tile's lanes into ports; changed ports go down with cause 7. -/
  | laneGrouping (r : Req) (t : Fin 32) (v : WireValue)
  /-- CLAUSE_73_PAGE (R158): Clause 73 pages are received and the highest common speed is resolved; training starts. -/
  | clause73Page (p : PortId) (abilities : Nat) (rsFec : Bool) (rs544 : Bool)
  /-- AN_ATTEMPT_TIMEOUT (R160): No Clause 73 page or parallel-detect signal is seen within 500 ms; LinkState becomes 5. -/
  | anAttemptTimeout (p : PortId)
  /-- AN_RETRY_INTERVAL (R160): AnRetryInterval expires and auto-negotiation, or step 4 for a module, is tried again. -/
  | anRetryInterval (p : PortId)
  /-- TRAINING_COMPLETE (R157): Both ends report link training complete; FEC is resolved. -/
  | trainingComplete (p : PortId)
  /-- LOCK_AND_ALIGNMENT (R157): The PCS reaches lock and lane alignment, and up-hold begins. -/
  | lockAndAlignment (p : PortId)
  /-- TRAINING_TIMEOUT (R160): Training or lock does not complete within TrainingTimeout; bring-up restarts. -/
  | trainingTimeout (p : PortId)
  /-- LINK_UP_HOLD (R157): The link stays good for LinkUpHold courses; LinkState becomes 4 and LLDP starts. -/
  | linkUpHold (p : PortId)
  /-- LINK_DOWN_CONDITION (R169): The PCS reports a loss of signal, loss of lock, high error rate or fault sequence. -/
  | linkDownCondition (p : PortId) (off : Nat) (cause : Nat)
  /-- LINK_DOWN_HOLD (R170): LinkDownHold expires; the port stays up if it is good again, else it goes down. -/
  | linkDownHold (p : PortId) (good : Bool)
  /-- LLDPDU (R165): An LLDPDU is received; DCBX resolves PfcOper and PriorityToClassOper from it. -/
  | lldpdu (p : PortId) (off : Nat) (rx : RxFrame) (body : LldpBody)
  /-- LLDP_TX_INTERVAL (R164): The port sends its LLDPDU every LldpTxInterval. -/
  | lldpTxInterval (p : PortId)
  /-- LLDP_TTL_EXPIRY (R167): The peer's DCBX information ages out, and the settings revert to local. -/
  | lldpTtlExpiry (p : PortId)
  /-- PAUSE (R168): A received PAUSE frame is discarded without effect. -/
  | pause (p : PortId) (rx : RxFrame)
  /-- PFC (R191): A received PFC frame pauses or releases the classes of the priorities enabled in PfcOper. -/
  | pfc (p : PortId) (off : Nat) (rx : RxFrame) (enable : Nat) (quanta : List Nat)
  /-- PFC_PAUSE_EXPIRY (R191): A received pause's quanta run out and the class may send again. -/
  | pfcPauseExpiry (p : PortId) (c : ClassId) (off : Nat)
  /-- FRAME_RECEIVE (R79): A frame arrives on a port and is stamped, filtered, parsed, classified, forwarded and learnt. -/
  | frameReceive (p : PortId) (off : Nat) (bytes : List Byte) (fcsGood : Bool)
  /-- FIRST_BRICK_ARRIVAL (R185): A frame's first brick reaches its egress tile; admission is decided, or the frame is parked or dropped. -/
  | firstBrickArrival (id : Nat) (dst : Dst) (off : Nat)
  /-- PFC_REFRESH (R188): Every 2,048 quanta while its cause holds, the PFC XOFF frame is repeated. -/
  | pfcRefresh (p : PortId) (c : ClassId)
  /-- PARKED_FRAME_MOVE (R187): A frame parked in headroom is admitted by its egress queue and moved on VN1. -/
  | parkedFrameMove (p : PortId) (c : ClassId) (off : Nat)
  /-- SELECTION (R318): The transmitter is free and the scheduler selects the launch head, class 7, or a class by level and DRR. -/
  | selection (p : PortId) (off : Nat)
  /-- LAUNCH_DUE (R200): The head of the launch list falls due and is sent, or dropped for a closed gate or lateness. -/
  | launchDue (p : PortId) (off : Nat)
  /-- TRANSMIT_END (R375): A frame's transmission ends; its queue releases its hold and any completion or stamp is reported. -/
  | transmitEnd (p : PortId) (off : Nat)
  /-- GATE_EVENT (R326): A gate control list entry with changed GateStates begins and the scheduler selects again. -/
  | gateEvent (p : PortId) (off : Nat)
  /-- GATE_CONTROL_LIST (R327): A write of GateControlList is staged; a list clearing bit 7 is accepted only when signed. -/
  | gateControlList (r : Req) (p : PortId) (bytes : List Byte)
  /-- POLICER_UPDATE (R338): PolicerUpdate records are staged and applied in step 9 with full buckets. -/
  | policerUpdate (r : Req) (t : Fin 32) (index : BitVec 16) (entry : BitVec 256)
  /-- POLICER_QUERY (R340): A write of a policer index makes the next read return the entry and its bucket levels. -/
  | policerQuery (r : Req) (t : Fin 32) (index : BitVec 16)
  /-- FDB_INSERT_OR_REPLACE (R236): An FdbUpdate operation stages an entry of generation G + 1 in a free way. -/
  | fdbInsertOrReplace (r : Req) (entry : BitVec 128)
  /-- FDB_DELETE (R236): An FdbUpdate operation marks a key for removal at the flip. -/
  | fdbDelete (r : Req) (entry : BitVec 128)
  /-- FDB_PURGE (R236): An FdbUpdate operation deletes non-static learnt and software entries older than generation g. -/
  | fdbPurge (r : Req) (fid : BitVec 12) (gen : BitVec 16)
  /-- FDB_RESTAMP (R236): An FdbUpdate operation raises to g the Gen of older entries. -/
  | fdbRestamp (r : Req) (fid : BitVec 12) (gen : BitVec 16)
  /-- FDB_QUERY (R238): A key written to FdbQuery makes the next read return the visible entry. -/
  | fdbQuery (r : Req) (key : BitVec 128)
  /-- FDB_SWEEP (R232): A bucket range written to FdbSweep makes the next read return keys and Hit bits, and clears those bits. -/
  | fdbSweep (r : Req) (first : BitVec 32) (count : BitVec 16)
  /-- WALL_HELLO (R243): A Wall hello is received; the sender becomes a neighbour, and ID conflicts and WallState are judged. -/
  | wallHello (p : PortId) (off : Nat) (h : WallHeader)
  /-- HELLO_INTERVAL (R243): Every HelloInterval, KT sends a hello on every Wall port that is up. -/
  | helloInterval (off : Nat)
  /-- NEIGHBOUR_LOST (R243): No hello arrives from a neighbour within 3 × HelloInterval and it is lost. -/
  | neighbourLost (p : PortId) (device : Fin 512)
  /-- WALL_SYNC (R249): A sync PDU of type 2 is received and its install and withdraw records are delivered to SyncQueue. -/
  | wallSync (p : PortId) (off : Nat) (h : WallHeader) (records : List SyncRecord)
  /-- SYNC_ACKNOWLEDGEMENT (R249): A sync acknowledgement (type 3) is received and delivered to SyncQueue. -/
  | syncAcknowledgement (p : PortId) (off : Nat) (h : WallHeader)
  /-- RESYNC_REQUEST (R249): A resync request (type 4) is received, asking the device to resend installs for all its stations. -/
  | resyncRequest (p : PortId) (off : Nat) (h : WallHeader)
  /-- NODE_FORGET_TIME (R251): A redundancy source not heard for NodeForgetTime leaves the node table. -/
  | nodeForgetTime (pair : Fin 64) (mac : BitVec 48)
  /-- REDUNDANCY_DEGRADED (R251): Only one port of a redundancy pair has been up for more than NodeForgetTime. -/
  | redundancyDegraded (pair : Fin 64)
  /-- TERNARY_INSERT (R278): A TernaryUpdate insert record stages a new rule under the other epoch. -/
  | ternaryInsert (r : Req) (t : Fin 32) (record : List Byte)
  /-- TERNARY_REPLACE (R278): A TernaryUpdate replace record stages a new version and retires the old one at the flip. -/
  | ternaryReplace (r : Req) (t : Fin 32) (record : List Byte)
  /-- TERNARY_DELETE (R278): A TernaryUpdate delete record clears a rule's Live bit for the next epoch. -/
  | ternaryDelete (r : Req) (t : Fin 32) (pipeline : Fin 2) (rule : BitVec 32)
  /-- TERNARY_QUERY (R286): A RuleId written to TernaryQuery makes the next read return the record, entry index and Live. -/
  | ternaryQuery (r : Req) (t : Fin 32) (rule : BitVec 32)
  /-- EXACT_INSERT_OR_REPLACE (R270): An ExactUpdate record places an entry in a free way of one of its two buckets. -/
  | exactInsertOrReplace (r : Req) (x : Fin 16) (key : BitVec 256) (action : BitVec 256)
  /-- EXACT_DELETE (R270): An ExactUpdate record removes an exact-match entry at the flip. -/
  | exactDelete (r : Req) (x : Fin 16) (key : BitVec 256)
  /-- EXACT_QUERY (R286): A key written to ExactQuery makes the next read return the entry, or Valid 0. -/
  | exactQuery (r : Req) (x : Fin 16) (key : BitVec 256)
  /-- EXACT_SWEEP (R281): A bucket range written to ExactSweep makes the next read return Hit bits, which it clears. -/
  | exactSweep (r : Req) (x : Fin 16) (first : BitVec 32) (count : BitVec 16)
  /-- EPOCH_CLEANUP (R280): C courses after a flip, entries live only in the old epoch are freed and new ones are set to Live 0b11. -/
  | epochCleanup (exact : Bool) (n : Fin 32)
  /-- TROWEL_DISPATCH (R300): A free engine takes the head dispatched frame, class 7 first, and starts its program. -/
  | trowelDispatch (e : EngineId) (off : Nat)
  /-- NOP (R294): Does nothing for one cycle. -/
  | trowelNop (e : EngineId) (m : Macro)
  /-- LDI (R294): Loads the zero-extended immediate into GA. -/
  | trowelLdi (e : EngineId) (m : Macro)
  /-- LDH (R294): Loads the immediate into GA[31:16]. -/
  | trowelLdh (e : EngineId) (m : Macro)
  /-- MOV (R294): Copies GB into GA. -/
  | trowelMov (e : EngineId) (m : Macro)
  /-- ADD (R294): Adds GB to GA and sets Z and C. -/
  | trowelAdd (e : EngineId) (m : Macro)
  /-- SUB (R294): Subtracts GB from GA and sets Z and C. -/
  | trowelSub (e : EngineId) (m : Macro)
  /-- ADDI (R294): Adds the sign-extended immediate to GA and sets the flags. -/
  | trowelAddi (e : EngineId) (m : Macro)
  /-- AND (R294): Sets GA to GA AND GB. -/
  | trowelAnd (e : EngineId) (m : Macro)
  /-- OR (R294): Sets GA to GA OR GB. -/
  | trowelOr (e : EngineId) (m : Macro)
  /-- XOR (R294): Sets GA to GA XOR GB. -/
  | trowelXor (e : EngineId) (m : Macro)
  /-- ANDI (R294): ANDs GA with the zero-extended immediate. -/
  | trowelAndi (e : EngineId) (m : Macro)
  /-- SHL (R294): Shifts GA left by Imm[4:0]. -/
  | trowelShl (e : EngineId) (m : Macro)
  /-- SHR (R294): Shifts GA right, logically, by Imm[4:0]. -/
  | trowelShr (e : EngineId) (m : Macro)
  /-- CMP (R294): Sets the flags from GA − GB. -/
  | trowelCmp (e : EngineId) (m : Macro)
  /-- CMPI (R294): Sets the flags from GA − the zero-extended immediate. -/
  | trowelCmpi (e : EngineId) (m : Macro)
  /-- HASH (R294): Sets GA to the CRC-32C over GA and then GB. -/
  | trowelHash (e : EngineId) (m : Macro)
  /-- LDF (R294): Loads frame-window bytes into GA; an access out of bounds faults. -/
  | trowelLdf (e : EngineId) (m : Macro)
  /-- STF (R294): Stores the low bytes of GA into the frame window. -/
  | trowelStf (e : EngineId) (m : Macro)
  /-- INS (R294): Inserts 1 to 32 zero bytes into the frame. -/
  | trowelIns (e : EngineId) (m : Macro)
  /-- DEL (R294): Removes 1 to 32 bytes from the frame. -/
  | trowelDel (e : EngineId) (m : Macro)
  /-- CSUM (R294): Recomputes the IPv4 checksum, or adjusts the L4 checksum. -/
  | trowelCsum (e : EngineId) (m : Macro)
  /-- TSW (R294): Egress only: at transmission, adds the residence time to a 64-bit field of the frame. -/
  | trowelTsw (e : EngineId) (m : Macro)
  /-- LDM (R294): Loads a metadata field into GA. -/
  | trowelLdm (e : EngineId) (m : Macro)
  /-- STM (R292): Writes GA to a metadata field; a class-7 write by a program not KeystoneOwned is ignored. -/
  | trowelStm (e : EngineId) (m : Macro)
  /-- LDS (R294): Loads a state-memory word into GA. -/
  | trowelLds (e : EngineId) (m : Macro)
  /-- STS (R294): Stores GA into a state-memory word. -/
  | trowelSts (e : EngineId) (m : Macro)
  /-- AAD (R294): Atomically adds GA to a state word and returns the old value. -/
  | trowelAad (e : EngineId) (m : Macro)
  /-- BR (R294): Branches forward when condition A holds. -/
  | trowelBr (e : EngineId) (m : Macro)
  /-- FWD (R295): Replaces the frame's forwarding result with a port, group or queue. -/
  | trowelFwd (e : EngineId) (m : Macro)
  /-- EVT (R295): Sends a 24-byte Trowel event record to TrowelEventDest. -/
  | trowelEvt (e : EngineId) (m : Macro)
  /-- TRAP (R294): Ends the program and traps the frame under reason 8. -/
  | trowelTrap (e : EngineId) (m : Macro)
  /-- DROP (R294): Ends the program and drops the frame. -/
  | trowelDrop (e : EngineId) (m : Macro)
  /-- END (R295): Ends the program; the frame continues with its changes. -/
  | trowelEnd (e : EngineId) (m : Macro)
  /-- LOAD_OR_REPLACE (R297): A ProgramUpdate record stages a program at a dispatch entry, with its WorstPath computed. -/
  | loadOrReplace (r : Req) (t : Fin 32) (pipeline : Fin 2) (entry : Fin 256) (words : List (BitVec 32))
  /-- REMOVE (R297): A ProgramUpdate record empties a dispatch entry that no rule names. -/
  | remove (r : Req) (t : Fin 32) (pipeline : Fin 2) (entry : Fin 256)
  /-- MICROCODE_PATCH (R306): A signed patch is verified and staged in the patch bank not in use. -/
  | microcodePatch (r : Req) (bytes : List Byte)
  /-- PATCH_SWITCH (R307): An engine takes the patch interrupt at an instruction or frame boundary and switches bank; the last switch frees the old bank. -/
  | patchSwitch (e : EngineId)
  /-- STATE_MEMORY (R312): A write of StateMemory sets words of a pipeline's state memory at once. -/
  | stateMemory (r : Req) (t : Fin 32) (pipeline : Fin 2) (address : BitVec 16) (words : List (BitVec 32))
  /-- SPARE_SUBSTITUTION (R309): An engine has an uncorrectable error or overruns; it halts and the spare takes its number. -/
  | spareSubstitution (e : EngineId)
  /-- TROWEL_ENGINE_LOST (R310): A second engine fails with the spare in use; the pipeline runs on three engines. -/
  | trowelEngineLost (e : EngineId)
  /-- KEY_LOAD (R349): A KeyLoad record loads a plain or wrapped key into a slot. -/
  | keyLoad (r : Req) (record : List Byte)
  /-- KEY_ERASE (R350): A write of KeyErase zeroises a slot. -/
  | keyErase (r : Req) (slot : BitVec 16)
  /-- KEY_SLOT_OWNER (R347): A write of KeySlotOwner sets a slot's owner kind and zeroises the slot. -/
  | keySlotOwner (r : Req) (slot : BitVec 16) (kind : BitVec 8) (slice : BitVec 16)
  /-- KEY_SLOT_INFO (R350): A slot written to KeySlotInfo makes the next read return owner, algorithm, check value and uses. -/
  | keySlotInfo (r : Req) (slot : BitVec 16)
  /-- GCM_ENCRYPT (R363): A look-aside descriptor with Op 0x01 performs AES-GCM encryption. -/
  | gcmEncrypt (q : LookReq)
  /-- GCM_DECRYPT (R364): A look-aside descriptor with Op 0x02 performs AES-GCM decryption, zeroing the output on a tag mismatch. -/
  | gcmDecrypt (q : LookReq)
  /-- GMAC_GENERATE (R363): A look-aside descriptor with Op 0x03 generates a GMAC tag. -/
  | gmacGenerate (q : LookReq)
  /-- GMAC_VERIFY (R364): A look-aside descriptor with Op 0x04 verifies a GMAC tag. -/
  | gmacVerify (q : LookReq)
  /-- XTS_ENCRYPT (R364): A look-aside descriptor with Op 0x05 performs AES-XTS encryption by data unit. -/
  | xtsEncrypt (q : LookReq)
  /-- XTS_DECRYPT (R364): A look-aside descriptor with Op 0x06 performs AES-XTS decryption. -/
  | xtsDecrypt (q : LookReq)
  /-- CMAC_GENERATE (R363): A look-aside descriptor with Op 0x07 generates an AES-CMAC tag. -/
  | cmacGenerate (q : LookReq)
  /-- CMAC_VERIFY (R364): A look-aside descriptor with Op 0x08 verifies an AES-CMAC tag. -/
  | cmacVerify (q : LookReq)
  /-- SHA_384 (R363): A look-aside descriptor with Op 0x09 computes a keyless SHA-384 digest. -/
  | sha384 (q : LookReq)
  /-- HMAC_GENERATE (R363): A look-aside descriptor with Op 0x0A generates an HMAC-SHA-384 tag. -/
  | hmacGenerate (q : LookReq)
  /-- HMAC_VERIFY (R364): A look-aside descriptor with Op 0x0B verifies an HMAC tag. -/
  | hmacVerify (q : LookReq)
  /-- UNWRAP_KEY (R364): A look-aside descriptor with Op 0x0C unwraps a key into its target slot, or fails with 0x08. -/
  | unwrapKey (q : LookReq)
  /-- CIPHER_RESUME (R346): A core becomes free and resumes a suspended request ahead of waiting requests. -/
  | cipherResume (t : Fin 4)
  /-- LOOK_ASIDE_COMPLETION (R364): A look-aside request ends and its 16-byte completion record is written. -/
  | lookAsideCompletion (t : Fin 4) (id : Nat)
  /-- ALLOC (R377): A Hod ALLOC takes one unit and names the caller its last owner. -/
  | hodAlloc (n : Fin 96) (c : HodCmd)
  /-- RELEASE (R373): A Hod RELEASE lowers the count; the buffer returns when the count is 0 and FreeArmed is set. -/
  | hodRelease (n : Fin 96) (c : HodCmd)
  /-- FREE (R373): A Hod FREE by the last owner sets FreeArmed, and may return the buffer. -/
  | hodFree (n : Fin 96) (c : HodCmd)
  /-- ADDREF (R377): A Hod ADDREF raises a buffer's count by Count. -/
  | hodAddref (n : Fin 96) (c : HodCmd)
  /-- TRANSFER (R377): A Hod TRANSFER names a new last owner and adjusts the count. -/
  | hodTransfer (n : Fin 96) (c : HodCmd)
  /-- QUERY (R377): A Hod QUERY returns a unit's state and changes nothing. -/
  | hodQuery (n : Fin 96) (c : HodCmd)
  /-- CONFIGURATION_REQUEST (R393): A PCIe configuration request is answered; functions 4 to 7 complete with Unsupported Request. -/
  | configurationRequest (link : Fin 4) (fn : Fin 8) (reg : CfgReg) (value : Option (BitVec 64))
  /-- QUEUE_ENABLE (R399): A write of Enable 1 to a queue context starts the queue pair, or is refused. -/
  | queueEnable (k : QueueRef)
  /-- QUEUE_DISABLE (R399): A write of Enable 0 stops descriptor fetch at once. -/
  | queueDisable (k : QueueRef)
  /-- QUEUE_RESET_COMPLETE (R399): Every DMA request of a stopped queue pair has ended; rings, heads and Halted reset and buffers are reclaimed. -/
  | queueResetComplete (k : QueueRef)
  /-- TX_TAIL (R400): A TxTail doorbell makes transmit descriptors up to the new index available for fetch. -/
  | txTail (k : QueueRef) (index : BitVec 16)
  /-- RX_TAIL (R400): An RxTail doorbell posts receive descriptors. -/
  | rxTail (k : QueueRef) (index : BitVec 16)
  /-- CQ_HEAD (R418): A CqHead doorbell releases completion slots and, with bit 31, arms the interrupt. -/
  | cqHead (k : QueueRef) (index : BitVec 16) (arm : Bool)
  /-- DESCRIPTOR_FETCH (R408): The host tile fetches a transmit descriptor and payload once tracker entries and bricks allow, and forms the frame. -/
  | descriptorFetch (k : QueueRef) (receive : Bool)
  /-- HOST_RECEIVE_DELIVERY (R403): A frame for a host queue is written to a posted buffer, followed by a completion record and an interrupt. -/
  | hostReceiveDelivery (k : QueueRef) (off : Nat) (poisoned : Bool)
  /-- INTERRUPT_COALESCE (R418): At a boundary, the coalescing age or count is reached and the armed interrupt message is sent. -/
  | interruptCoalesce (k : QueueRef)
  /-- EVENT_RING_ENABLE (R413): A write of Enable at PF3 offset 0x0108 starts the event ring at index 0, or stops it. -/
  | eventRingEnable (link : Fin 4) (value : BitVec 32)
  /-- EVENT_HEAD (R406): An EventHead doorbell releases ring space and waiting captures and records are written in timestamp order. -/
  | eventHead (link : Fin 4) (value : BitVec 32)
  /-- TIME_LOW (R405): A read of TimeLow latches TimeMid and TimeHigh for the same instant. -/
  | timeLow (link : Fin 4) (off : Nat)
  /-- PIN_BLOCK_WRITE (R406): A PF3 write to a pin block is checked as its dictionary entry, and WriteStatus reports the outcome. -/
  | pinBlockWrite (link : Fin 4) (n : Fin 32) (offset : Fin 64) (bytes : List Byte) (off : Nat)
  /-- BUS_MASTER_ENABLE_CLEAR (R413): Bus Master Enable is cleared; the function stops issuing requests and its queue pairs halt. -/
  | busMasterEnableClear (link : Fin 4) (fn : Fin 4)
  /-- BUS_MASTER_ENABLE_SET (R413): Bus Master Enable is set again; halted queues stay halted. -/
  | busMasterEnableSet (link : Fin 4) (fn : Fin 4)
  /-- INITIATE_FUNCTION_LEVEL_RESET (R414): A write of Initiate Function Level Reset stops the function and caps its outstanding timeouts at 90 ms. -/
  | initiateFunctionLevelReset (link : Fin 4) (fn : Fin 4)
  /-- FUNCTION_RESET_COMPLETE (R414): The function's requests have drained; queues, slices, keys and buffers are reset and configuration space returns to reset values. -/
  | functionResetComplete (link : Fin 4) (fn : Fin 4)
  /-- PEER_WINDOW_COMMIT (R415): A write of Commit 1 to a peer window requests the commit of its shadow fields. -/
  | peerWindowCommit (link : Fin 4) (w : Fin 64) (off : Nat)
  /-- PEER_APERTURE_REQUEST (R417): A request to BAR4 is matched against the active windows and served, refused with Unsupported Request, or dropped. -/
  | peerApertureRequest (link : Fin 4) (offset : Nat) (requester : Nat) (a : PeerAccess)
  /-- ATOMIC_OP (R409): An inbound AtomicOp completes with Unsupported Request. -/
  | atomicOp (link : Fin 4) (fn : Fin 4)
  /-- POISONED_WRITE (R409): An inbound write with EP set is dropped and logged under AER. -/
  | poisonedWrite (link : Fin 4) (fn : Fin 4)
  /-- VENDOR_DEFINED_MESSAGE (R409): An inbound vendor-defined message is silently dropped and counted. -/
  | vendorDefinedMessage (link : Fin 4) (fn : Fin 4)
  /-- UNEXPECTED_COMPLETION (R409): A completion with no outstanding request of its tag is discarded and counted. -/
  | unexpectedCompletion (link : Fin 4) (fn : Fin 4) (tag : Nat)
  /-- COMPLETION (R410): A completion to a device read arrives; its data is used, or the read fails with the outcome of what it fetched. -/
  | completion (link : Fin 4) (fn : Fin 4) (tag : Nat) (status : Nat) (poisoned : Bool) (data : List Byte)
  /-- COMPLETION_TIMEOUT (R411): A device read's completion timeout is declared and the read fails. -/
  | completionTimeout (link : Fin 4) (tag : Nat)
  /-- SLICE_RESOURCE_SET (R425): A write of SliceResourceSet is checked, then applied and rechecked at its boundary. -/
  | sliceResourceSet (r : Req) (slice : BitVec 16) (record : BitVec 512)
  /-- SLICE_QUERY (R440): A slice written to SliceQuery makes the next read return its record, bindings and holdings. -/
  | sliceQuery (r : Req) (slice : BitVec 16)
  /-- SLICE_STATE (R438): A write of SliceState sets the heads and Phase of a quiesced slice's queue pairs. -/
  | sliceState (r : Req) (slice : BitVec 16) (link : BitVec 8) (fn : BitVec 8) (records : List Byte)
  /-- BOUND (R427): A write of Bound 1 binds a slice's PASID on a function at once, or sets BindRefused. -/
  | bound (k : SliceRef) (pasid : BitVec 20)
  /-- UNBIND (R427): A write of Bound 0 disables the slice's queue pairs on that function and then its dirty log. -/
  | unbind (k : SliceRef)
  /-- SLICE_RESET (R430): A write of Reset 1 resets a bound slice's queues, interrupts, keys, buffers, RDMA and namespaces. -/
  | sliceReset (k : SliceRef)
  /-- SLICE_RESET_COMPLETE (R430): A slice reset finishes within 100 ms and ResetPending clears. -/
  | sliceResetComplete (k : SliceRef)
  /-- QUIESCE (R433): A write of Quiesce 1 stops all fetch for the slice; a write of 0 resumes it. -/
  | quiesce (k : SliceRef) (on : Bool)
  /-- SLICE_QUIESCED (R433): OpsInFlight reaches 0 with all dirty marks written, and Quiesced becomes 1. -/
  | sliceQuiesced (k : SliceRef)
  /-- DIRTY_LOG_ENABLE (R434): A DirtyLogEnable write takes effect at its boundary; the descriptor is read and Bitmap0 made active. -/
  | dirtyLogEnable (k : SliceRef) (on : Bool) (off : Nat)
  /-- DIRTY_FLIP (R436): A write of DirtyFlip 1 swaps the active bitmap at its boundary. -/
  | dirtyFlip (k : SliceRef) (off : Nat)
  /-- FLIP_COMPLETE (R436): Every mark owed to the old bitmap is written and FlipPending clears. -/
  | flipComplete (k : SliceRef)
  /-- CREATE_IO_SQ (R445): The admin command Create I/O Submission Queue of controller 0. -/
  | createIoSq (id : Nat)
  /-- DELETE_IO_SQ (R445): The admin command Delete I/O Submission Queue. -/
  | deleteIoSq (id : Nat)
  /-- CREATE_IO_CQ (R445): The admin command Create I/O Completion Queue. -/
  | createIoCq (id : Nat)
  /-- DELETE_IO_CQ (R445): The admin command Delete I/O Completion Queue. -/
  | deleteIoCq (id : Nat)
  /-- GET_LOG_PAGE (R445): Returns Error Information, SMART / Health, or Commands Supported and Effects; other pages are invalid. -/
  | getLogPage (id : Nat)
  /-- IDENTIFY (R442): Returns controller or namespace data for the controller named by CNTID. -/
  | nvmeIdentify (id : Nat)
  /-- ABORT (R445): The admin command Abort. -/
  | nvmeAbort (id : Nat)
  /-- SET_FEATURES (R445): Sets a supported feature, such as the volatile write cache. -/
  | setFeatures (id : Nat)
  /-- GET_FEATURES (R445): Returns a supported feature, such as the TAI Timestamp. -/
  | getFeatures (id : Nat)
  /-- ASYNCHRONOUS_EVENT_REQUEST (R446): Posts a request that completes on Namespace Attribute Changed or Persistent Internal Error. -/
  | asynchronousEventRequest (id : Nat)
  /-- INVALID_COMMAND_OPCODE (R445): A refused or unknown opcode completes with Invalid Command Opcode. -/
  | invalidCommandOpcode (id : Nat)
  /-- NVME_FLUSH (R461): An NVMe Flush completes when every earlier write to its namespace has been written back. -/
  | nvmeFlush (id : Nat)
  /-- NVME_WRITE (R454): A Write is split into atomic writes, which are staged, committed to the map and written back. -/
  | nvmeWrite (id : Nat)
  /-- NVME_READ (R457): A Read is served unit by unit from staging, zero, or the backing. -/
  | nvmeRead (id : Nat)
  /-- WRITE_ZEROES (R455): A Write Zeroes commits map entries that name no unit. -/
  | writeZeroes (id : Nat)
  /-- DATASET_MANAGEMENT (R455): A Dataset Management Deallocate commits deallocated map entries. -/
  | datasetManagement (id : Nat)
  /-- SQ_TAIL (R444): A slice controller's SqTail doorbell submits commands. -/
  | sqTail (q : NvmeQ) (index : BitVec 16)
  /-- NVME_CQ_HEAD (R444): A slice controller's CqHead doorbell releases completions and may arm the interrupt. -/
  | nvmeCqHead (q : NvmeQ) (index : BitVec 16) (arm : Bool)
  /-- NVME_QUEUE_ENABLE (R444): A write of Enable to a slice controller queue context starts the queue pair, refuses it, or stops it. -/
  | nvmeQueueEnable (k : QueueRef) (on : Bool)
  /-- COMMAND_FETCH (R458): A service tile fetches the next command in round-robin order and requests its range lock. -/
  | commandFetch (t : Fin 4) (off : Nat)
  /-- RANGE_LOCK_GRANT (R459): A waiting range lock becomes compatible with earlier locks and is granted. -/
  | rangeLockGrant (id : Nat)
  /-- WRITE_BACK_COMPLETE (R454): A staged write and its journal record are durable on the backing, and staging is released. -/
  | writeBackComplete (n : Nat) (seq : Nat)
  /-- BACKING_COMPLETION (R465): A backing SSD or remote-target completion arrives and is checked. -/
  | backingCompletion (t : Fin 4) (target : Nat) (id : Nat) (good : Bool) (data : List Byte)
  /-- BACKING_TIMEOUT (R465): A backing command times out; Abort is sent and the command retried up to twice. -/
  | backingTimeout (id : Nat)
  /-- SSD_LINK_UP (R463): A DSP link comes up and the SSD is enumerated, then accepted or refused. -/
  | ssdLinkUp (n : Fin 4) (acceptable : Bool) (exlat : List Nat)
  /-- SSD_INBOUND_REQUEST (R464): An SSD memory request is checked against its PRP ranges and MSI-X target. -/
  | ssdInboundRequest (n : Fin 4) (target : SsdTarget) (nonPosted : Bool)
  /-- SURPRISE_REMOVAL (R467): An SSD is removed and each of its namespaces enters the Failed state. -/
  | surpriseRemoval (n : Fin 4)
  /-- RECONNECT_INTERVAL (R466): A failed remote-target connection is retried every ReconnectInterval. -/
  | reconnectInterval (k : Fin 64) (reached : Bool)
  /-- KEEP_ALIVE (R466): A Keep Alive is sent on the admin queue of a remote target at half its KATO. -/
  | keepAlive (k : Fin 64) (answered : Bool)
  /-- APST_IDLE_TIMER (R471): A controller's idle timer expires and it moves to a lower power state. -/
  | apstIdleTimer (link : Fin 4)
  /-- NAMESPACE_RECORD (R449): A NamespaceRecord set creates, changes, re-attaches or deletes a namespace. -/
  | namespaceRecord (r : Req) (n : BitVec 16) (record : BitVec 384)
  /-- NAMESPACE_READY (R450): A new namespace's mapping has loaded and it stops reporting Namespace Not Ready. -/
  | namespaceReady (n : Nat)
  /-- QP_CREATE (R477): A QP record with Op 1 creates a queue pair owned by a slice. -/
  | qpCreate (r : Req) (record : List Byte)
  /-- QP_MODIFY (R478): A QP record with Op 2 moves a queue pair between states or changes its timers. -/
  | qpModify (r : Req) (record : List Byte)
  /-- QP_DESTROY (R477): A QP record with Op 3 destroys a queue pair. -/
  | qpDestroy (r : Req) (record : List Byte)
  /-- CQ_CREATE (R477): A CQ record creates a completion queue, optionally the slice's event queue. -/
  | cqCreate (r : Req) (record : List Byte)
  /-- CQ_DESTROY (R477): A CQ record destroys a completion queue that no queue pair names. -/
  | cqDestroy (r : Req) (record : List Byte)
  /-- AH_CREATE (R477): An address-handle record creates an address handle. -/
  | ahCreate (r : Req) (record : List Byte)
  /-- AH_DESTROY (R477): An address-handle record destroys an address handle. -/
  | ahDestroy (r : Req) (record : List Byte)
  /-- REGION_REGISTER (R498): A region record registers a memory region with its key and access. -/
  | regionRegister (r : Req) (record : List Byte)
  /-- REGION_DEREGISTER (R499): A region record marks the region invalid at acceptance; the region drains. -/
  | regionDeregister (r : Req) (record : List Byte)
  /-- REGION_FREE (R499): The last placement of a draining region is issued; it becomes free and event 0x04 is raised. -/
  | regionFree (index : Nat)
  /-- RDMA_QUERY (R503): A kind and number written to RdmaQuery make the next read return the object's record and state. -/
  | rdmaQuery (r : Req) (kind : BitVec 8) (number : BitVec 32)
  /-- SEND_QUEUE_TAIL (R479): An RdmaDoorbell of Kind 0 posts send WQEs. -/
  | sendQueueTail (link : Fin 4) (slice : Fin 4096) (number : BitVec 24) (index : BitVec 16)
  /-- RECEIVE_QUEUE_TAIL (R479): An RdmaDoorbell of Kind 1 posts receive WQEs. -/
  | receiveQueueTail (link : Fin 4) (slice : Fin 4096) (number : BitVec 24) (index : BitVec 16)
  /-- COMPLETION_QUEUE_HEAD (R479): An RdmaDoorbell of Kind 2 releases completion slots. -/
  | completionQueueHead (link : Fin 4) (slice : Fin 4096) (number : BitVec 24) (index : BitVec 16)
  /-- COMPLETION_QUEUE_HEAD_ARMED (R479): An RdmaDoorbell of Kind 3 releases slots and arms the interrupt. -/
  | completionQueueHeadArmed (link : Fin 4) (slice : Fin 4096) (number : BitVec 24) (index : BitVec 16)
  /-- SEND (R480): A SEND work request starts and its payload is packetised and paced. -/
  | rdmaSend (qpn : Nat)
  /-- SEND_WITH_IMMEDIATE (R480): A SEND with immediate work request starts. -/
  | sendWithImmediate (qpn : Nat)
  /-- RDMA_WRITE (R480): An RDMA WRITE work request starts. -/
  | rdmaWrite (qpn : Nat)
  /-- RDMA_WRITE_WITH_IMMEDIATE (R480): An RDMA WRITE with immediate work request starts. -/
  | rdmaWriteWithImmediate (qpn : Nat)
  /-- RDMA_READ (R480): An RDMA READ work request starts. -/
  | rdmaRead (qpn : Nat)
  /-- COMPARE_AND_SWAP (R487): A 64-bit compare-and-swap work request starts. -/
  | compareAndSwap (qpn : Nat)
  /-- FETCH_AND_ADD (R487): A 64-bit fetch-and-add work request starts. -/
  | fetchAndAdd (qpn : Nat)
  /-- RDMA_FLUSH (R486): A FLUSH work request for global visibility or persistence starts. -/
  | rdmaFlush (qpn : Nat)
  /-- WAIT (R492): A WAIT WQE holds its send queue until its counter or time condition holds. -/
  | rdmaWait (qpn : Nat)
  /-- WAIT_RELEASE (R492): At a boundary, a WAIT's condition holds and its send queue continues. -/
  | waitRelease (qpn : Nat)
  /-- ROCEV2_PACKET (R482): An arriving RoCEv2 request packet is checked in order and placed, answered, NAKed or discarded. -/
  | rocev2Packet (p : PortId) (off : Nat) (bytes : List Byte)
  /-- ACK (R485): An ACK or read or atomic response arrives at the requester and completes WQEs in order. -/
  | rdmaAck (p : PortId) (off : Nat) (bytes : List Byte)
  /-- NAK_PSN_SEQUENCE_ERROR (R490): A sequence-error NAK arrives and the requester goes back to the named PSN. -/
  | nakPsnSequenceError (p : PortId) (off : Nat) (bytes : List Byte)
  /-- RNR_NAK (R491): An RNR NAK arrives and the requester waits for MinRnrTimer. -/
  | rnrNak (p : PortId) (off : Nat) (bytes : List Byte)
  /-- CNP (R481): A received CNP is discarded and counted. -/
  | rdmaCnp (p : PortId) (off : Nat) (bytes : List Byte)
  /-- LOCAL_ACK_TIMEOUT (R490): The local ACK timeout expires; go-back-N retransmission, or status 7 after RetryCnt. -/
  | localAckTimeout (qpn : Nat)
  /-- RNR_TIMER (R491): The RNR timer expires and the SEND is resent, or completes with status 8. -/
  | rnrTimer (qpn : Nat)
  /-- DELAY_FALLBACK (R497): A one-way queue pair takes no valid sample for DelayFallbackCourses and falls back to round-trip samples. -/
  | delayFallback (qpn : Nat)
  /-- PFC_STORM (R493): A lossless class stays paused for WatchdogTime and enters storm state. -/
  | pfcStorm (p : PortId) (c : ClassId)
  /-- STORM_RESTORE (R493): No pausing PFC is received for RestoreTime and the class leaves storm state. -/
  | stormRestore (p : PortId) (c : ClassId)
  /-- SIGNED_COMMAND (R508): A signed command is framed, verified, checked against counter, target and time, and accepted as a set commit. -/
  | signedCommand (r : Req) (bytes : List Byte) (coresStopped : Bool)
  /-- IMAGE_DOWNLOAD (R523): Segments of ImageDownload erase the named slot and are written to flash as they arrive. -/
  | imageDownload (r : Req) (first : Bool) (last : Bool) (offset : BitVec 32) (total : BitVec 32) (data : List Byte)
  /-- IMAGE_COMMIT (R523): A write of ImageCommit checks the slot; in recovery a valid slot restarts the Kiln. -/
  | imageCommit (r : Req) (slot : BitVec 8)
  /-- SLOT_ERASE (R524): A write of SlotErase erases a slot that is not active. -/
  | slotErase (r : Req) (slot : BitVec 8)
  /-- ACTIVATE_SLOT (R557): A write of ActivateSlot is checked and starts a hitless activation. -/
  | activateSlot (r : Req) (slot : BitVec 8)
  /-- PREPARATION_COMPLETE (R558): The slot is rechecked and changed components are loaded into standby stores, or the activation aborts. -/
  | preparationComplete (readBad : Bool) (loadBad : Bool)
  /-- SWITCH_BOUNDARY (R559): At the second boundary after preparation, the microcode base, tile and compute firmware switch. -/
  | switchBoundary
  /-- TILE_HANDOVER_COMPLETE (R559): A tile's control processor finishes handing its state to the new firmware. -/
  | tileHandoverComplete (t : TileId)
  /-- KEYSTONE_HANDOVER (R560): The Keystone firmware switches while hardware time, courses and PTP stamping run on. -/
  | keystoneHandover
  /-- ACTIVATION_COMPLETE (R561): Every component has switched; ActiveSlot, versions and measurements change and the Alias key is renewed. -/
  | activationComplete
  /-- ACTIVATION_ROLLED_BACK (R562): A component fails its handover; the switched components return to their predecessors. -/
  | activationRolledBack (type : Fin 6) (t : TileId)
  /-- TILE_SLEEP (R519): A write of TileSleep 1 powers down a compute tile whose cores are stopped. -/
  | tileSleep (r : Req) (t : Fin 16) (coresStopped : Bool)
  /-- TILE_WAKE (R519): A write of TileSleep 0 wakes a tile; its boot loader hashes the retained copy. -/
  | tileWake (r : Req) (t : Fin 16)
  /-- FAST_WAKE_DIGEST (R519): The boot loader's digest reaches KT; the cores are released, or the tile is reloaded from the slot. -/
  | fastWakeDigest (t : Fin 16) (digest : List Byte)
  /-- GET_VERSION (R517): The SPDM request GET_VERSION over DOE on PF0. -/
  | spdmGetVersion (link : Fin 4)
  /-- GET_CAPABILITIES (R517): The SPDM request GET_CAPABILITIES. -/
  | spdmGetCapabilities (link : Fin 4)
  /-- NEGOTIATE_ALGORITHMS (R517): The SPDM request NEGOTIATE_ALGORITHMS; only P-384 with SHA-384 is accepted. -/
  | spdmNegotiateAlgorithms (link : Fin 4) (offered : Bool)
  /-- GET_DIGESTS (R517): The SPDM request GET_DIGESTS. -/
  | spdmGetDigests (link : Fin 4)
  /-- GET_CERTIFICATE (R517): The SPDM request GET_CERTIFICATE returns the slot 0 chain. -/
  | spdmGetCertificate (link : Fin 4) (slot : BitVec 8) (offset : BitVec 16) (length : BitVec 16)
  /-- CHALLENGE (R517): The SPDM request CHALLENGE. -/
  | spdmChallenge (link : Fin 4) (slot : BitVec 8) (nonce : BitVec 256)
  /-- GET_MEASUREMENTS (R517): The SPDM request GET_MEASUREMENTS, signed, for index 1 to 9 or all. -/
  | spdmGetMeasurements (link : Fin 4) (index : BitVec 8) (nonce : BitVec 256)
  /-- SPDM_UNSUPPORTED_REQUEST (R517): Any other SPDM request gets ERROR UnsupportedRequest. -/
  | spdmUnsupportedRequest (link : Fin 4) (code : BitVec 8)
  /-- KEYSTONE_REFUSED (R506): A Mortar message naming a KT address outside its allowed types is discarded and counted. -/
  | keystoneRefused (t : TileId)
  /-- OPEN (R544): A station's OPEN is answered with OPEN_REPLY signed by the Alias key, or refused. -/
  | blpOpen (f : OpenFrame)
  /-- OPEN_FINISH (R544): OPEN_FINISH with owner signatures opens a session and derives its keys. -/
  | openFinish (f : FinishFrame)
  /-- OPEN_FINISH_TIMEOUT (R545): OPEN_FINISH does not arrive within 10 s and the handshake state is discarded. -/
  | openFinishTimeout (sid : Nat)
  /-- OPEN_BLOCK_EXPIRY (R545): The 60 s block of OPENs from a refused source address ends. -/
  | openBlockExpiry (source : Nat)
  /-- CLOSE (R546): CLOSE ends a session and discards its staged writes. -/
  | blpClose (r : Req)
  /-- READ (R532): A dictionary READ returns the value in force and Pending. -/
  | blpRead (target : ReadTarget)
  /-- WRITE (R532): A dictionary or register write with no row of its own is checked, then applied or staged, and persisted. -/
  | blpWrite (target : WriteTarget)
  /-- COMMIT (R534): COMMIT submits a context's staged writes as one set commit for a fixed boundary. -/
  | blpCommit (r : Req) (target : BitVec 96)
  /-- DESCRIBE (R542): DESCRIBE returns an entry's type, access, default, range, unit, persistence and effect. -/
  | blpDescribe (r : Req) (key : BitVec 24)
  /-- ABORT_STAGED (R533): ABORT_STAGED discards the context's staged writes. -/
  | abortStaged (r : Req)
  /-- SEG_WRITE (R548): SEG_WRITE carries one segment of a DOMAIN write; the last segment completes the write. -/
  | segWrite (r : Req) (key : BitVec 24) (first : Bool) (last : Bool) (offset : BitVec 32) (total : BitVec 32) (data : List Byte) (coresStopped : Bool)
  /-- SEG_READ (R548): SEG_READ returns up to 1,024 bytes of a DOMAIN value from the copy taken at offset 0. -/
  | segRead (r : Req) (key : BitVec 24) (offset : BitVec 32)
  /-- SUBSCRIBE (R553): SUBSCRIBE starts or stops event notification at MinSeverity. -/
  | blpSubscribe (r : Req) (minSeverity : BitVec 8)
  /-- KEEPALIVE (R542): KEEPALIVE is answered with a status and keeps the session alive. -/
  | blpKeepalive (r : Req)
  /-- NOTIFY (R553): Waiting event records are sent to a subscribed session, at 16 records or a 1,000-course boundary. -/
  | blpNotify (sid : Nat)
  /-- SESSION_IDLE_TIMEOUT (R546): A session receives no request for SessionIdleTimeout and ends. -/
  | sessionIdleTimeout (sid : Nat)
  /-- SESSION_LIFETIME (R546): A session reaches SessionLifetime and ends. -/
  | sessionLifetime (sid : Nat)
  /-- TRANSFER_TIMEOUT (R548): A segmented transfer receives no segment for TransferTimeout and is discarded. -/
  | transferTimeout (ctx : Nat)
  /-- MAILBOX_DOORBELL (R549): A PF0 Doorbell write submits a BLP frame, or sets Refused while Busy. -/
  | mailboxDoorbell (link : Fin 4)
  /-- CORE_WINDOW_REQUEST (R550): A core submits a BLP frame through its dictionary window, as class C. -/
  | coreWindowRequest (n : Fin 96) (length : Nat)
  /-- MGMT_FRAME (R541): A frame on MGMT_A or MGMT_B is de-duplicated, answered, passed to BLP, or discarded. -/
  | mgmtFrame (portB : Bool) (f : MgmtFrame) (off : Nat)
  /-- MGMT_REDUNDANCY_DEGRADED (R540): Only one management port has had link for more than 60 s. -/
  | mgmtRedundancyDegraded (portB : Bool)
  /-- EVENT_READ (R552): A Sequence written to EventRead sets where that context's next read of up to 32 records starts. -/
  | eventRead (r : Req) (sequence : BitVec 64)
  /-- EVENT_SEVERITY (R551): A code written to EventSeverity makes the next read return its severity. -/
  | eventSeverity (r : Req) (code : BitVec 16)
  /-- MORTAR_UNCORRECTABLE (R41): A brick with an uncorrectable error or bad CRC is handled by its network; three in a course set Fault. -/
  | mortarUncorrectable (t : TileId) (network : Fin 6) (frame : Option Nat)
  /-- SRAM_UNCORRECTABLE (R566): Scrub or access finds an uncorrectable SRAM error, handled according to what the word holds. -/
  | sramUncorrectable (t : TileId) (c : SramContent)
  /-- HBM_ERROR (R568): An HBM row reaches its correction threshold or returns an uncorrectable error, and repair starts. -/
  | hbmError (bank : Fin 512) (row : BitVec 20) (uncorrectable : Bool)
  /-- HBM_ROW_REPAIRED (R568): Post-package repair of a row completes, or its units are retired for lack of a spare. -/
  | hbmRowRepaired (bank : Fin 512) (row : BitVec 20) (addresses : List (BitVec 64)) (units : List (BitVec 40))
  /-- CORE_UNCORRECTABLE (R567): A core's L2 or register file fails; it stops and the spare takes its name, or the name is lost. -/
  | coreUncorrectable (n : Fin 96)
  /-- KEYSTONE_LOCKSTEP (R569): The two KT cores disagree; the Keystone firmware restarts and mode 7 follows. -/
  | keystoneLockstep
  /-- KEYSTONE_RESTART_COMPLETE (R569): The Keystone firmware has restarted after a lockstep mismatch, and mode 7 is entered at the next boundary. -/
  | keystoneRestartComplete
  /-- TIME_DISTRIBUTION_FAULT (R569): A tile's copy of the time base differs from KT by more than 1 ns. -/
  | timeDistributionFault (t : TileId) (deviates : Bool)
  /-- TILE_WATCHDOG (R569): A tile firmware watchdog expires; the tile restarts, or a second expiry is fatal. -/
  | tileWatchdog (t : TileId)
  /-- CHARACTER (R577): A character is received on MON_RXD; it is echoed and buffered, or used for auto-baud, or discarded. -/
  | monCharacter (c : BitVec 8) (measured : Nat) (framingError : Bool)
  /-- BREAK (R576): A break of at least 2 ms puts the monitor into auto-baud and level 0. -/
  | monBreak (ms : Nat)
  /-- MONITOR_IDLE_TIMEOUT (R579): MonitorIdleTimeout passes without input; the monitor enters auto-baud and level 0. -/
  | monitorIdleTimeout
  /-- HELP (R581): Lists the commands of the current level. -/
  | monHelp
  /-- ID (R581): Shows DeviceType, serial, versions and slot state. -/
  | monId
  /-- TIME (R581): Shows time, servo state and course. -/
  | monTime
  /-- MODE (R581): Shows the mode, mode change, safe-mode cause and activation status. -/
  | monMode
  /-- EVENTS (R581): Shows the newest n event records. -/
  | monEvents (n : Nat)
  /-- UNLOCK (R580): Sends a challenge nonce for level n, or grants level 2 while no owner key is enrolled. -/
  | monUnlock (n : Nat)
  /-- CHALLENGE_RESPONSE (R580): The signed challenge block is verified and the level raised, or ERR 0x09 with back-off. -/
  | challengeResponse (raw : List Byte)
  /-- CHALLENGE_TIMEOUT (R580): The signed block does not arrive within 60 s, and the UNLOCK fails. -/
  | challengeTimeout
  /-- UNLOCK_BACKOFF_EXPIRY (R580): The UNLOCK back-off period after repeated failures ends. -/
  | unlockBackoffExpiry
  /-- LOCK (R579): Returns the monitor to level 0. -/
  | monLock
  /-- BLP (R583): Enters binary BLP mode. -/
  | monBlp
  /-- BINARY_BLOCK (R583): A framed block is received; in BLP mode it carries one BLP frame, and length 0 ends BLP mode. -/
  | binaryBlock (raw : List Byte)
  /-- BLOCK_TIMEOUT (R583): A block is not completed within 2 s of its first flag and is discarded. -/
  | blockTimeout
  /-- RD (R581): A dictionary read at level 1, answered as a BLP READ. -/
  | monRd (key : BitVec 24)
  /-- TILES (R581): Shows TileStatus of every tile. -/
  | monTiles
  /-- PORTS (R581): Shows the link state of ports a to b. -/
  | monPorts (a : Nat) (b : Nat)
  /-- BUDGET (R581): Shows BudgetReport. -/
  | monBudget
  /-- CAPTURE (R581): Captures the brick tags of the next n bricks of one network at one tile. -/
  | monCapture (id : Nat) (vn : Nat) (n : Nat) (tags : List (BitVec 64))
  /-- ENROL (R582): Enrols owner key 0 from a binary block while no owner key is enrolled. -/
  | monEnrol
  /-- RECOVER (R582): Sets RecoveryRequested so that the next start-up enters recovery. -/
  | monRecover (serial6 : List Byte)
  /-- RECOVER_CANCEL (R582): Clears RecoveryRequested. -/
  | monRecoverCancel
  /-- PARALLEL_DETECTION (R158): A partner sends no Clause 73 pages but a 1000BASE-KX or 10GBASE-KR signal that parallel detection accepts, and the port resolves to that PHY. -/
  | parallelDetection (p : PortId) (speed : Fin 2)
  /-- NAK (R483): A NAK Invalid Request, Remote Access Error or remote operation error arrives at the requester; the WQE completes with status 4, 5 or 6 and the queue pair enters ERR. -/
  | rdmaNak (p : PortId) (off : Nat) (bytes : List Byte)
  /-- DSP_PERST_RELEASE (R594): DSP_PERSTn_N is released 100 ms after DSP_REFCLK is stable on that link, so that the SSD can train. -/
  | dspPerstRelease (n : Fin 4)
  /-- HOST_LINK_UP (R421): An upstream link finishes training at some rate and width, and HostLinkStatus shows it up. -/
  | hostLinkUp (link : Fin 4) (rate : Nat) (width : Nat)
  /-- KEYSTONE_HANDOVER_END (R560): The Keystone handover ends; held PTP messages, Follow_Up messages, BLP requests and events are processed, and the servo evaluates transitions again. -/
  | keystoneHandoverEnd
  /-- RELOAD_COMPLETE (R519): KT finishes reloading a compute tile from the active slot after a digest mismatch, writes the retained copy, and releases the cores. -/
  | reloadComplete (t : Fin 16)
  deriving DecidableEq, Repr

end Sys2Proof
end

