-- ==== Sys2Proof/Machine/Bits.lean ====
section
/-! DEFINITION. Machine/Bits.lean: bit fields, two's complement, byte order (R14) and the two CRCs the manual uses. -/

namespace Sys2Proof.Machine

/-- Bits [hi:lo] of a number, the manual's field notation (R13). -/
def bitField (v hi lo : Nat) : Nat := (v >>> lo) % 2 ^ (hi + 1 - lo)

/-- Bit n of a number. -/
def bitOf (v n : Nat) : Bool := (v >>> n) % 2 == 1

/-- `v` with bit n set to `b`. -/
def withBit (v n : Nat) (b : Bool) : Nat :=
  let cleared := v - (if bitOf v n then 2 ^ n else 0)
  if b then cleared + 2 ^ n else cleared

/-- 1 for true and 0 for false, as a BOOL entry reads. -/
def boolNat (b : Bool) : Nat := if b then 1 else 0

/-- How many of the low `w` bits of `v` are 1. -/
def popCount (w v : Nat) : Nat := ((List.range w).filter (fun n => bitOf v n)).length

/-- The signed number a `w`-bit two's complement pattern stands for. -/
def toSigned (w v : Nat) : Int :=
  if v % 2 ^ w < 2 ^ (w - 1) then ((v % 2 ^ w : Nat) : Int) else ((v % 2 ^ w : Nat) : Int) - ((2 ^ w : Nat) : Int)

/-- The `w`-bit two's complement pattern of a signed number. -/
def ofSigned (w : Nat) (i : Int) : Nat := (i % ((2 ^ w : Nat) : Int)).toNat

/-- The ceiling of a quotient. -/
def ceilDiv (a b : Nat) : Nat := (a + (b - 1)) / b

/-- The number of a byte sequence sent most significant byte first (wire order, R14). [DEDUCED: log entry 27] -/
def beNat (bs : List Byte) : Nat := bs.foldl (fun a b => a * 256 + b.toNat) 0

/-- The number of a little-endian byte sequence (host and core memory order, R14). -/
def leNat : List Byte → Nat
  | [] => 0
  | b :: bs => b.toNat + 256 * leNat bs

/-- `n` bytes of a number, least significant first. -/
def leBytes : Nat → Nat → List Byte
  | 0, _ => []
  | n + 1, v => BitVec.ofNat 8 v :: leBytes n (v / 256)

/-- `n` bytes of a number, most significant first. -/
def beBytes (n v : Nat) : List Byte := (leBytes n v).reverse

/-- `n` bytes of a sequence from offset `o`, shorter where the sequence ends. -/
def slice (bs : List Byte) (o n : Nat) : List Byte := (bs.drop o).take n

/-- The big-endian field of `n` bytes at offset `o`. -/
def beAt (bs : List Byte) (o n : Nat) : Nat := beNat (slice bs o n)

/-- The little-endian field of `n` bytes at offset `o`. [DEDUCED: log entry 27] -/
def leAt (bs : List Byte) (o n : Nat) : Nat := leNat (slice bs o n)

/-- A sequence cut or filled up with zeros to `n` bytes. -/
def sized (n : Nat) (bs : List Byte) : List Byte := (bs ++ List.replicate n 0).take n

/-- Two sequences combined by exclusive or. -/
def xorBytes (a b : List Byte) : List Byte := List.zipWith (fun x y => x ^^^ y) a b

/-- `bs` with the bytes `new` laid over it from offset `o`; it is lengthened with zeros where it ends before. -/
def overlay (bs : List Byte) (o : Nat) (new : List Byte) : List Byte :=
  let head := bs.take o
  head ++ List.replicate (o - head.length) 0 ++ new ++ bs.drop (o + new.length)

/-- The sequence cut into records of `n` bytes, `fuel` of them at most. -/
def chunks (n : Nat) : Nat → List Byte → List (List Byte)
  | 0, _ => []
  | _, [] => []
  | f + 1, bs => bs.take n :: chunks n f (bs.drop n)

/-- One bit step of a reflected CRC with polynomial `poly`. -/
def crcBit (poly c : Nat) : Nat := if c % 2 = 1 then (c / 2) ^^^ poly else c / 2

/-- One byte of a reflected CRC. -/
def crcByte (poly c : Nat) (b : Byte) : Nat :=
  let x := c ^^^ b.toNat
  crcBit poly (crcBit poly (crcBit poly (crcBit poly (crcBit poly (crcBit poly (crcBit poly (crcBit poly x)))))))

/-- CRC-32C (Castagnoli), initial value and final complement all ones. -/
def crc32c (bs : List Byte) : Nat := (bs.foldl (crcByte 0x82F63B78) 0xFFFFFFFF) ^^^ 0xFFFFFFFF

/-- CRC-32 (IEEE 802.3), initial value and final complement all ones. -/
def crc32 (bs : List Byte) : Nat := (bs.foldl (crcByte 0xEDB88320) 0xFFFFFFFF) ^^^ 0xFFFFFFFF

end Sys2Proof.Machine
end

