-- ==== Sys2Proof/Machine/Parse.lean ====
section
/-! DEFINITION. Machine/Parse.lean: the parser of the port tiles and the 640-bit key (chapter "Parsing and
classification", R255 to R265). Offsets count from the first byte of the destination address; a frame's bytes here end
before its FCS. -/

namespace Sys2Proof.Machine

/-- What the parser found in a frame. -/
structure Parsed where
  tagCount : Nat
  outerType : Nat
  pcp : Nat
  dei : Bool
  outerVid : Nat
  innerVid : Nat
  /-- Ethertype after tags, HSR tag and any removed SecTAG. -/
  ethertype : Nat
  packetType : Nat
  status : Nat
  fragment : Bool
  firstFragment : Bool
  ipOptions : Bool
  depth : Bool
  /-- 4 or 6 for an IP packet, else 0. -/
  ip : Nat
  srcIp : Nat
  dstIp : Nat
  dscp : Nat
  ecn : Nat
  protocol : Nat
  ttl : Nat
  fragWord : Nat
  flow : Nat
  srcPort : Nat
  dstPort : Nat
  tcpFlags : Nat
  appId : Nat
  appLength : Nat
  appWord1 : Nat
  appWord2 : Nat
  hsr : Bool
  hsrSequence : Nat
  hsrPath : Nat
  hsrSize : Nat
  /-- Byte offset of the final Ethertype, and the anchors after it (R264). -/
  typeAt : Nat
  l3 : Option Nat
  l4 : Option Nat
  payload : Option Nat
  deriving DecidableEq, Repr

/-- Nothing parsed yet. -/
def Parsed.empty : Parsed :=
  { tagCount := 0, outerType := 0, pcp := 0, dei := false, outerVid := 0, innerVid := 0, ethertype := 0,
    packetType := 0, status := 0, fragment := false, firstFragment := false, ipOptions := false, depth := false,
    ip := 0, srcIp := 0, dstIp := 0, dscp := 0, ecn := 0, protocol := 0, ttl := 0, fragWord := 0, flow := 0,
    srcPort := 0, dstPort := 0, tcpFlags := 0, appId := 0, appLength := 0, appWord1 := 0, appWord2 := 0, hsr := false,
    hsrSequence := 0, hsrPath := 0, hsrSize := 0, typeAt := 12, l3 := none, l4 := none, payload := none }

/-- Bytes the parser reads at most (R255). -/
def parseWindow : Nat := 256

/-- A field of the frame: 0 where it lies wholly or partly beyond byte 256 or beyond the frame (R255, R259). -/
def fieldAt (bs : List Byte) (o n : Nat) : Nat :=
  if o + n ≤ min bs.length parseWindow then beAt bs o n else 0

/-- A header of `n` bytes at `o` cannot be parsed on: cut off at byte 256 of a longer frame (DepthReached, status 0), or
the frame ends inside it (Truncated). `none`: it is whole. -/
def headerCut (bs : List Byte) (o n : Nat) (k : Parsed) : Option Parsed :=
  if o + n ≤ min bs.length parseWindow then none
  else if bs.length > parseWindow then some { k with depth := true }
  else some { k with status := 1 }

/-- One's-complement sum of the 16-bit words of a byte sequence, folded. -/
def onesSum : List Byte → Nat
  | [] => 0
  | [a] => a.toNat * 256
  | a :: b :: t => let s := a.toNat * 256 + b.toNat + onesSum t; if s ≥ 65536 then s - 65535 else s

/-- L4 of an IP packet (R256): `o` its first byte, `ipEnd` the end of the IP payload.
[DESIGN CHOICE: log entry 39] -/
def parseL4 (bs : List Byte) (o ipEnd : Nat) (k0 : Parsed) : Parsed :=
  let k := { k0 with l4 := some o }
  if k.protocol = 17 then
    let k := { k with srcPort := fieldAt bs o 2, dstPort := fieldAt bs (o + 2) 2 }
    match headerCut bs o 8 k with
    | some k => k
    | none =>
      let len := fieldAt bs (o + 4) 2
      let k := { k with payload := some (o + 8) }
      if len < 8 ∨ o + len > ipEnd then { k with status := 6 }
      else if k.dstPort = 319 ∨ k.dstPort = 320 then
        (headerCut bs (o + 8) 34 { k with packetType := 0xB }).getD { k with packetType := 0xB }
      else if k.dstPort = 4791 then
        match headerCut bs (o + 8) 12 { k with packetType := 0xA, tcpFlags := fieldAt bs (o + 8) 1 } with
        | some k => k
        | none => { k with packetType := 0xA, tcpFlags := fieldAt bs (o + 8) 1 }
      else if k.dstPort = 102 then { k with packetType := 0xC }
      else if k.dstPort = 4500 ∧ fieldAt bs (o + 8) 4 ≠ 0 then
        (headerCut bs (o + 8) 8 { k with packetType := 0xD }).getD { k with packetType := 0xD }
      else k
  else if k.protocol = 6 then
    let k := { k with srcPort := fieldAt bs o 2, dstPort := fieldAt bs (o + 2) 2, tcpFlags := fieldAt bs (o + 13) 1 }
    match headerCut bs o 20 k with
    | some k => k
    | none =>
      let off := fieldAt bs (o + 12) 1 / 16
      if off < 5 then { k with status := 6 } else { k with payload := some (o + 4 * off) }
  else if k.protocol = 50 then
    let k := { k with packetType := 0xD, payload := some (o + 8) }
    (headerCut bs o 8 k).getD k
  else k

/-- IPv4 (R256, R259, R261). -/
def parseIpv4 (bs : List Byte) (o : Nat) (k0 : Parsed) : Parsed :=
  let tos := fieldAt bs (o + 1) 1
  let fw := fieldAt bs (o + 6) 2
  let frag := bitOf fw 13 || fw % 8192 != 0
  let ihl := fieldAt bs o 1 % 16
  let total := fieldAt bs (o + 2) 2
  let k := { k0 with ip := 4, l3 := some o, packetType := 1, dscp := tos / 4, ecn := tos % 4, fragWord := fw,
                     ttl := fieldAt bs (o + 8) 1, protocol := fieldAt bs (o + 9) 1, srcIp := fieldAt bs (o + 12) 4,
                     dstIp := fieldAt bs (o + 16) 4, fragment := frag, firstFragment := frag && fw % 8192 == 0,
                     ipOptions := decide (ihl > 5) }
  match headerCut bs o 20 k with
  | some k => k
  | none =>
    if fieldAt bs o 1 / 16 ≠ 4 ∨ ihl < 5 then { k with status := 3 }
    else match headerCut bs o (4 * ihl) k with
    | some k => k
    | none =>
      if total < 4 * ihl ∨ o + total > bs.length ∨ onesSum (slice bs o (4 * ihl)) ≠ 0xFFFF then { k with status := 3 }
      else if frag && fw % 8192 != 0 then k
      else parseL4 bs (o + 4 * ihl) (o + total) k

/-- The extension headers of an IPv6 packet (R256, R259, R261); fuel 5. The fields of a header that is cut, or of a fifth
one, are in the key all the same. -/
def parseExt (bs : List Byte) (ipEnd : Nat) : Nat → Nat → Nat → Parsed → Parsed
  | 0, _, _, k => { k with status := 5 }
  | fuel + 1, o, next, k =>
    if next = 0 ∨ next = 43 ∨ next = 44 ∨ next = 60 then
      let follow := fieldAt bs o 1
      let fw := fieldAt bs (o + 2) 2
      let size := if next = 44 then 8 else 8 + 8 * fieldAt bs (o + 1) 1
      let k := { k with ipOptions := true, protocol := follow, fragment := k.fragment || next == 44
                        firstFragment := k.firstFragment || (next == 44 && fw / 8 == 0) }
      if fuel = 0 then { k with status := 5 }
      else
        match headerCut bs o size k with
        | some k => k
        | none => if next = 44 ∧ fw / 8 ≠ 0 then k else parseExt bs ipEnd fuel (o + size) follow k
    else parseL4 bs o ipEnd { k with protocol := next }

/-- IPv6 (R256, R259). -/
def parseIpv6 (bs : List Byte) (o : Nat) (k0 : Parsed) : Parsed :=
  let w := fieldAt bs o 4
  let len := fieldAt bs (o + 4) 2
  let next := fieldAt bs (o + 6) 1
  let k := { k0 with ip := 6, l3 := some o, packetType := 2, dscp := bitField w 27 22, ecn := bitField w 21 20,
                     flow := bitField w 19 0, ttl := fieldAt bs (o + 7) 1, srcIp := fieldAt bs (o + 8) 16,
                     dstIp := fieldAt bs (o + 24) 16, protocol := next }
  match headerCut bs o 40 k with
  | some k => k
  | none =>
    if w / 2 ^ 28 ≠ 6 ∨ o + 40 + len > bs.length then { k with status := 4 }
    else parseExt bs (o + 40 + len) 5 (o + 40) next k

/-- What follows the final Ethertype `t`, at `o` (R256); `wall` is WallEthertype. -/
def parseType (bs : List Byte) (wall t o : Nat) (k0 : Parsed) : Parsed :=
  let k := { k0 with ethertype := t, typeAt := o - 2 }
  if t = 0x0800 then parseIpv4 bs o k
  else if t = 0x86DD then parseIpv6 bs o k
  else if t = 0x0806 then { k with packetType := 3 }
  else if t = 0x88F7 then
    let k := { k with packetType := 4, appId := fieldAt bs o 1 * 256 + fieldAt bs (o + 4) 1,
                      appLength := fieldAt bs (o + 2) 2, appWord1 := fieldAt bs (o + 6) 2 }
    (headerCut bs o 34 k).getD k
  else if t = 0x88B8 ∨ t = 0x88BA then
    let k := { k with packetType := if t = 0x88B8 then 5 else 6, appId := fieldAt bs o 2,
                      appLength := fieldAt bs (o + 2) 2, appWord1 := fieldAt bs (o + 4) 2,
                      appWord2 := fieldAt bs (o + 6) 2 }
    (headerCut bs o 8 k).getD k
  else if t = wall then
    let k := { k with packetType := 7, appId := fieldAt bs (o + 1) 1 * 256, appLength := fieldAt bs (o + 2) 2,
                      appWord1 := fieldAt bs (o + 4) 2 }
    (headerCut bs o 16 k).getD k
  else if t = 0x88E5 then
    let tci := fieldAt bs o 1
    let k := { k with packetType := 8 }
    match headerCut bs o 6 k with
    | some k => k
    | none => if bitOf tci 7 || (bitOf tci 5 && bs.length < o + 14) then { k with status := 7 } else k
  else k

/-- Tags and the HSR tag (R255, R256): `t` the Ethertype just read, `o` the offset after it; fuel 4. -/
def parseTags (bs : List Byte) (wall : Nat) : Nat → Nat → Nat → Parsed → Parsed
  | 0, t, o, k => parseType bs wall t o k
  | fuel + 1, t, o, k =>
    if (t = 0x8100 ∨ t = 0x88A8) ∧ k.tagCount = 2 then { k with status := 2, ethertype := t, typeAt := o - 2 }
    else if (k.tagCount = 0 ∧ (t = 0x8100 ∨ t = 0x88A8)) ∨ (k.tagCount = 1 ∧ t = 0x8100) then
      let tci := fieldAt bs o 2
      let k := if k.tagCount = 0 then
          { k with tagCount := 1, outerType := t, pcp := tci / 8192, dei := bitOf tci 12, outerVid := tci % 4096 }
        else { k with tagCount := 2, innerVid := tci % 4096 }
      match headerCut bs o 4 k with
      | some k => k
      | none => parseTags bs wall fuel (fieldAt bs (o + 2) 2) (o + 4) k
    else if t = 0x892F ∧ k.hsr = false then
      let w := fieldAt bs o 2
      let k := { k with hsr := true, hsrPath := w / 4096, hsrSize := w % 4096, hsrSequence := fieldAt bs (o + 2) 2 }
      match headerCut bs o 6 k with
      | some k => k
      | none => parseTags bs wall fuel (fieldAt bs (o + 4) 2) (o + 6) k
    else parseType bs wall t o k

/-- Destination address. -/
def frameDa (bs : List Byte) : Nat := beAt bs 0 6

/-- Source address. -/
def frameSa (bs : List Byte) : Nat := beAt bs 6 6

/-- 01-80-C2-00-00-00 to 01-80-C2-00-00-0F. -/
def isLinkLocal (da : Nat) : Bool := da / 16 == 0x0180C200000

/-- The parse of a frame (R255 to R259). -/
def parseFrame (bs : List Byte) (wall : Nat) : Parsed :=
  let k := match headerCut bs 0 14 Parsed.empty with
    | some k => k
    | none => parseTags bs wall 4 (fieldAt bs 12 2) 14 Parsed.empty
  if k.status ≠ 0 then { k with packetType := 0xF }
  else if isLinkLocal (frameDa bs) && !(4 ≤ k.packetType && k.packetType ≤ 7) then { k with packetType := 9 }
  else k

/-- The byte offset an anchor names (R264). -/
def anchorAt (k : Parsed) (a : Nat) : Option Nat :=
  match a with
  | 0 => some 0
  | 1 => some (k.typeAt + 2)
  | 2 => k.l3
  | 3 => k.l4
  | 4 => k.payload
  | _ => none

/-- The value of a user-defined field by its extractor word, and whether it sets DepthReached (R264, R255).
[DESIGN CHOICE: log entry 39] -/
def udfValue (bs : List Byte) (k : Parsed) (u : Nat) : Nat × Bool :=
  match anchorAt k (u / 8192) with
  | none => (0, false)
  | some a =>
    let o := a + u % 256
    (fieldAt bs o 4, decide (o + 4 > parseWindow ∧ bs.length > parseWindow))

/-- Concatenate fields given with their widths, most significant first. -/
def packBits (l : List (Nat × Nat)) : Nat := l.foldl (fun a e => a * 2 ^ e.1 + e.2 % 2 ^ e.1) 0

/-- What goes into a key beside the parse. -/
structure KeyContext where
  port : Nat
  vid : Nat
  portMeta : Nat
  decrypted : Bool
  inner : Bool
  wall : Nat
  udf : List Nat
  deriving DecidableEq, Repr

/-- The 640-bit key (R263); DepthReached follows every user-defined field, also one the layout has no room for (R264). -/
def buildKey (bs : List Byte) (k : Parsed) (c : KeyContext) : Nat :=
  let udfs := c.udf.map (udfValue bs k)
  let u (n : Nat) : Nat × Nat := (32, (udfs.getD n (0, false)).1)
  let app := k.ethertype == 0x88F7 || k.ethertype == 0x88B8 || k.ethertype == 0x88BA || k.ethertype == c.wall
  let depth := k.depth || udfs.any (fun e => e.2)
  let flags := boolNat k.fragment * 128 + boolNat k.firstFragment * 64 + boolNat k.ipOptions * 32
    + boolNat c.decrypted * 16 + boolNat c.inner * 8 + boolNat depth * 4 + k.tagCount
  let head := [(8, c.port), (4, k.packetType), (4, k.status), (8, flags), (3, k.pcp), (1, boolNat k.dei), (12, c.vid),
    (16, k.ethertype), (48, frameDa bs), (48, frameSa bs), (8, c.portMeta), (12, k.innerVid), (4, 0), (6, k.dscp),
    (2, k.ecn), (8, k.protocol)]
  let ten := (List.range 10).map u
  let area :=
    if k.ethertype = 0x0800 then
      [(32, k.srcIp), (32, k.dstIp), (16, k.srcPort), (16, k.dstPort), (8, k.tcpFlags), (8, k.ttl), (16, k.fragWord)]
        ++ ten
    else if k.ethertype = 0x86DD then
      [(128, k.srcIp), (128, k.dstIp), (16, k.srcPort), (16, k.dstPort), (8, k.tcpFlags), (8, k.ttl), (20, k.flow),
       (28, 0), u 0, u 1, u 2]
    else if app then
      [(16, k.appId), (16, k.appLength), (16, k.appWord1), (16, k.appWord2), (16, k.hsrSequence), (4, k.hsrPath),
       (12, k.hsrSize), (32, 0)] ++ ten
    else (List.range 14).map u
  packBits (head ++ area)

end Sys2Proof.Machine
end

