-- ==== Sys2Proof/Config.lean ====
section
/-! DEFINITION. Config.lean: what an implementation or the factory fixes, and the free values: constants with no
body, so nothing in Lean can know a value of them. -/

namespace Sys2Proof.Config

/-- The value a dictionary entry was given at manufacture ("fused", "fixed", "strap") or by the shipped image, by
its key. [DESIGN CHOICE: log entries 6, 126] -/
opaque factory : Nat → Nat

/-- The unit is a PX7256-X (R1 to R6): fused at manufacture. -/
opaque extended : Bool

/-- Bricks a network's input buffer holds at a tile's link (R36): tile, network; the manual gives no sizes.
[DESIGN CHOICE: log entry 132] -/
opaque inputBuffer : Nat → Nat → Nat

/-- Bytes of a line of the system cache (R45); the manual gives no size. [DESIGN CHOICE: log entry 132] -/
opaque cacheLine : Nat

/-- The frequency of the selected source against the time base's reference (R64), in 10^-12: a free value for each
draw. [DESIGN CHOICE: log entry 11] -/
opaque sourceFrequency : Nat → Int

/-- The running estimate a PTP measurement is judged against (R59), which the manual does not define further: a free
value for each draw, in 2^-16 ns. [DESIGN CHOICE: log entry 11] -/
opaque runningEstimate : Nat → Int

/-- The frequency correction the servo's loop computes (R65); the manual gives its bandwidth, not its value: a free
value for each draw. [DESIGN CHOICE: log entry 11] -/
opaque frequencyAdjust : Nat → Int

/-- What the best master clock algorithm of IEEE 1588-2019 (or its telecom alternate) answers for a port that receives
an Announce of this data set: 0 for MASTER, 1 for PASSIVE, 2 or more for SLAVE. [DESIGN CHOICE: log entry 11] -/
opaque bmca : List Nat → Nat

/-- The depth in bytes to which the ingress pipeline must parse a frame for its rules (R178), which the manual bounds by 256
and does not give: by the frame's handle and stamp. [DESIGN CHOICE: log entry 158] -/
opaque parseDepth : Nat → Nat → Nat

/-- Design-nominal receive and transmit constants of a lane of a speed class (5 × lane + class) at a temperature in
1/16 °C (R70 to R73), in 1/1,024 ns. [DESIGN CHOICE: log entry 13] -/
opaque laneConst : Nat → Int → Int × Int

/-- Design-nominal capture and generation constants of a timing pin, and of PPS_IN0 and PPS_IN1 as pins 32 and 33 (R71), in
1/1,024 ns. [DESIGN CHOICE: log entry 13] -/
opaque pinConst : Nat → Int × Int

/-- A value the manual leaves open at one of the points the assumption log names: point, draw number.
[DESIGN CHOICE: log entry 7] -/
opaque openValue : Nat → Nat → Nat

/-- MAC address of a port, which the manual does not place in the dictionary. [DESIGN CHOICE: log entry 25] -/
opaque portMac : Nat → Nat

/-- AES-GCM's counter-mode output (NIST SP 800-38D): encrypt or decrypt, key, IV, input.
[DESIGN CHOICE: log entry 9] -/
opaque gcmCrypt : Bool → List Byte → List Byte → List Byte → List Byte

/-- AES-GCM's tag: key, IV, additional data, ciphertext. [DESIGN CHOICE: log entry 9] -/
opaque gcmTag : List Byte → List Byte → List Byte → List Byte → List Byte

/-- AES-XTS of one data unit (IEEE 1619): encrypt or decrypt, key, data unit number, input.
[DESIGN CHOICE: log entry 9] -/
opaque xts : Bool → List Byte → Nat → List Byte → List Byte

/-- AES-CMAC: key, input. [DESIGN CHOICE: log entry 9] -/
opaque cmac : List Byte → List Byte → List Byte

/-- HMAC-SHA-384: key, input. [DESIGN CHOICE: log entry 9] -/
opaque hmac384 : List Byte → List Byte → List Byte

/-- SHA-384. [DESIGN CHOICE: log entry 9] -/
opaque sha384 : List Byte → List Byte

/-- AES-ECB of one zero block, for check values (R349): key. [DESIGN CHOICE: log entry 9] -/
opaque ecbZero : List Byte → List Byte

/-- AES key unwrap (RFC 3394): key-encryption key, wrapped key; `none` when its integrity check fails.
[DESIGN CHOICE: log entry 9] -/
opaque kwUnwrap : List Byte → List Byte → Option (List Byte)

/-- ESP's AES-GCM or GMAC seal (RFC 4106, RFC 4543): key, integrity only, SPI, sequence number, input; the answer is
IV, payload and ICV. [DESIGN CHOICE: log entry 9] -/
opaque espSeal : List Byte → Bool → Nat → Nat → List Byte → List Byte

/-- ESP's open: key, integrity only, SPI, sequence number, IV with payload and ICV; `none` when the ICV fails.
[DESIGN CHOICE: log entry 9] -/
opaque espOpen : List Byte → Bool → Nat → Nat → List Byte → Option (List Byte)

/-- What ESP's decryption makes of a payload whose ICV fails, by the same arguments. -/
opaque espUnverified : List Byte → Bool → Nat → Nat → List Byte → List Byte

/-- IEC 62351-6: the frame carries the extension, with this KeyId and a good tag of this many bytes under the key.
[DESIGN CHOICE: log entry 9] -/
opaque authGood : List Byte → Nat → Nat → List Byte → Bool

/-- IEC 62351-6: the frame with the extension appended and its reserved fields set. [DESIGN CHOICE: log entry 9] -/
opaque authSign : List Byte → Nat → Nat → List Byte → List Byte

/-- What an AluOp of a microword makes of its sources under Z and C: the result and the flags (R305, which gives the
field and not its codes). [DESIGN CHOICE: log entry 44] -/
opaque microAlu : Nat → Nat → Nat → Bool → Bool → Nat × Bool × Bool

/-- The flags as a register selector reads them, and what one written to it sets (R305).
[DESIGN CHOICE: log entry 44] -/
opaque microFlags : Bool → Bool → Nat

/-- What a word written to the flags selector makes Z and C. [DESIGN CHOICE: log entry 44] -/
opaque microSetFlags : Nat → Bool × Bool

/-- Whether a Condition code of 5 to 7 of a microword holds under Z and C (R305). [DESIGN CHOICE: log entry 44] -/
opaque microCondition : Nat → Bool → Bool → Bool

/-- What a reserved field, selector or operation of a microword yields (R305). [DESIGN CHOICE: log entry 44] -/
opaque microOpen : Nat → Nat

/-- What a unit does (R305, which names the units and not their codes): unit, operand, Imm, and the registers, Z, C, frame
bytes and state memory it finds. [DESIGN CHOICE: log entry 44] -/
opaque microUnit : Nat → Nat → Nat → List Nat × Bool × Bool × List Byte × List (Nat × Nat) →
  List Nat × Bool × Bool × List Byte × List (Nat × Nat)

/-- The microword of a base at an address below 0xE00 (R305): BaseVersion, address. [DESIGN CHOICE: log entry 45] -/
opaque microBase : Nat → Nat → Nat

/-- Cycles of an opcode in the base microcode whose component has this digest (R558).
[DESIGN CHOICE: log entry 45] -/
opaque baseCycles : List Byte → Nat → Option Nat

/-- ECDSA P-384: public key, message, signature. [DESIGN CHOICE: log entry 9] -/
opaque ecdsaGood : List Byte → List Byte → List Byte → Bool

/-- ML-DSA-87: public key, message, signature. [DESIGN CHOICE: log entry 9] -/
opaque mldsaGood : List Byte → List Byte → List Byte → Bool

/-- The fused SHA-384 hash of an image key's (false) or microcode key's (true) half: index, ML-DSA-87 half.
[DESIGN CHOICE: log entry 103] -/
opaque fusedHash : Bool → Nat → Bool → List Byte

/-- The public halves of a microcode key (R306): index, ML-DSA-87 half; the manual gives the fuses their hashes and does
not say where the Keystone holds the keys. [DESIGN CHOICE: log entry 103] -/
opaque microcodeKey : Nat → Bool → List Byte

/-- The unit serial of the calibration record (R71), 30 bytes. [DESIGN CHOICE: log entry 25] -/
opaque unitSerial : List Byte

/-- The persisted value of an entry lies inside the range that the image of these bytes gives it (R557).
[DESIGN CHOICE: log entry 103] -/
opaque imageAdmits : List Byte → Nat → Nat → Bool

/-- Measurement of Kiln stage 0 (R515). -/
opaque romDigest : List Byte

/-- CDI0 (R515). -/
opaque cdi0 : List Byte

/-- The certificates above the Alias certificate: Apfalos root, per-unit CA, DeviceID (R517).
[DESIGN CHOICE: log entry 25] -/
opaque factoryChain : List Byte

/-- The Alias certificate the DeviceID key signs for a CDI and the measurements it carries (R515, R526). -/
opaque aliasCert : List Byte → List Byte → List Byte

/-- A signature by the Alias key of a CDI over a transcript (R544, R517). -/
opaque aliasSign : List Byte → List Byte → List Byte

/-- The two direction keys of a session, by HKDF-SHA-384 from the two secrets its transcript agrees on (R544).
[DESIGN CHOICE: log entry 9] -/
opaque sessionKeys : List Byte → List Byte

/-- What manufacture fuses into the calibration record (R71): the 12 bytes of constants of each lane and pin entry, one
after the other, and the signature. [DESIGN CHOICE: log entry 13] -/
opaque calibration : List Byte

end Sys2Proof.Config
end

