-- ==== Sys2Proof/Machine/Dictionary.lean ====
section
/-! DEFINITION. Machine/Dictionary.lean: the Basine dictionary's entries, from the entry tables of every chapter: a
name for each entry's key, and one row per table row with its type, access, default, range, persistence and effect
(R19). The key of OD 0xIIII.SS is 0xIIIISS; `i` is the instance a table adds to the index (a port, a tile, a pin),
`j` the place within a range of subindexes. -/

namespace Sys2Proof.Machine

/-- The dictionary's data types and their codes (R536). -/
inductive OdType where
  | bool | u8 | u16 | u32 | u64 | i8 | i16 | i32 | i64 | time96 | ts64 | mac48 | ipaddr
  | string (n : Nat)
  | domain
  | key
  deriving DecidableEq, Repr

/-- Who may write an entry, and whether it reads (R19): writer classes M, H, C, K and KS. -/
structure OdAccess where
  reads : Bool
  m : Bool
  h : Bool
  c : Bool
  k : Bool
  ks : Bool
  deriving DecidableEq, Repr

/-- RO. -/
def aRo : OdAccess := ⟨true, false, false, false, false, false⟩
/-- K. -/
def aK : OdAccess := ⟨true, false, false, false, true, false⟩
/-- KS. -/
def aKs : OdAccess := ⟨true, false, false, false, false, true⟩
/-- RW:M. -/
def aM : OdAccess := ⟨true, true, false, false, false, false⟩
/-- RW:M, and KS where the entry's own rule says so. -/
def aMKs : OdAccess := ⟨true, true, false, false, false, true⟩
/-- RW:MH. -/
def aMH : OdAccess := ⟨true, true, true, false, false, false⟩
/-- RW:MHC. -/
def aMHC : OdAccess := ⟨true, true, true, true, false, false⟩
/-- RW:MHC, and KS where the entry's own rule says so. -/
def aMHCKs : OdAccess := ⟨true, true, true, true, false, true⟩
/-- RW:MK. -/
def aMK : OdAccess := ⟨true, true, false, false, true, false⟩
/-- WO:M. -/
def wM : OdAccess := ⟨false, true, false, false, false, false⟩
/-- WO:MH. -/
def wMH : OdAccess := ⟨false, true, true, false, false, false⟩
/-- WO:MHC. -/
def wMHC : OdAccess := ⟨false, true, true, true, false, false⟩
/-- WO:MHC, and KS where the entry's own rule says so. -/
def wMHCKs : OdAccess := ⟨false, true, true, true, false, true⟩

/-- When an accepted write takes effect (R19). -/
inductive OdEffect where
  | none | imm | crs | set | start
  deriving DecidableEq, Repr

/-- An entry's default: a number, one number per subindex of a range, or a value fixed at manufacture or by the
shipped image. -/
inductive OdDefault where
  | lit (v : Nat)
  | subs (l : List Nat)
  | factory
  deriving DecidableEq, Repr

/-- The bounds of an entry that are fixed numbers (R609); `any` where every value of the type is in range or the
entry's own rule judges it. -/
inductive OdRange where
  | any
  | between (lo hi : Int)
  deriving DecidableEq, Repr

/-- One row of an entry table: name, first index, how many indexes, first subindex, how many subindexes. -/
structure OdRow where
  name : String
  base : Nat
  count : Nat
  sub : Nat
  subCount : Nat
  type : OdType
  access : OdAccess
  dflt : OdDefault
  range : OdRange
  persisted : Bool
  effect : OdEffect
  deriving DecidableEq, Repr

/-- OD 0x1000.00 DeviceType (R6, 00_scope.md). -/
abbrev Od.deviceType : Nat := 0x100000
/-- OD 0x1010.01 KilnVersion (R514, 17_keystone_kiln.md). -/
abbrev Od.kilnVersion : Nat := 0x101001
/-- OD 0x1010.02 KeystoneVersion (R514, 17_keystone_kiln.md). -/
abbrev Od.keystoneVersion : Nat := 0x101002
/-- OD 0x1010.03 TileVersion (R514, 17_keystone_kiln.md). -/
abbrev Od.tileVersion : Nat := 0x101003
/-- OD 0x1010.04 MicrocodeVersion (R312, 09_trowel_microcode.md). -/
abbrev Od.microcodeVersion : Nat := 0x101004
/-- OD 0x1100.01 OperatingMode (R148, 04_modes.md). -/
abbrev Od.operatingMode : Nat := 0x110001
/-- OD 0x1100.02 ModeChangeStatus (R148, 04_modes.md). -/
abbrev Od.modeChangeStatus : Nat := 0x110002
/-- OD 0x1100.03 ModeInForce (R148, 04_modes.md). -/
abbrev Od.modeInForce : Nat := 0x110003
/-- OD 0x1100.04 SafeModeCommand (R148, 04_modes.md). -/
abbrev Od.safeModeCommand : Nat := 0x110004
/-- OD 0x1100.05 ModeBeforeSafe (R148, 04_modes.md). -/
abbrev Od.modeBeforeSafe : Nat := 0x110005
/-- OD 0x1100.06 SafeModeCause (R148, 04_modes.md). -/
abbrev Od.safeModeCause : Nat := 0x110006
/-- OD 0x1100.07 RepartitionBound (R148, 04_modes.md). -/
abbrev Od.repartitionBound : Nat := 0x110007
/-- OD 0x1110.01 SealedExemptClasses (R148, 04_modes.md). -/
abbrev Od.sealedExemptClasses : Nat := 0x111001
/-- OD 0x1200.01 BlpVersions (R554, 18_dictionary_management.md). -/
abbrev Od.blpVersions : Nat := 0x120001
/-- OD 0x1200.02 SessionIdleTimeout (R554, 18_dictionary_management.md). -/
abbrev Od.sessionIdleTimeout : Nat := 0x120002
/-- OD 0x1200.03 SessionLifetime (R554, 18_dictionary_management.md). -/
abbrev Od.sessionLifetime : Nat := 0x120003
/-- OD 0x1200.04 TransferTimeout (R554, 18_dictionary_management.md). -/
abbrev Od.transferTimeout : Nat := 0x120004
/-- OD 0x1200.06 SessionTable (R554, 18_dictionary_management.md). -/
abbrev Od.sessionTable : Nat := 0x120006
/-- OD 0x1200.07 CoreDictWindow (R554, 18_dictionary_management.md). -/
abbrev Od.coreDictWindow : Nat := 0x120007
/-- OD 0x1200.08 ConfigErase (R554, 18_dictionary_management.md). -/
abbrev Od.configErase : Nat := 0x120008
/-- OD 0x1300.01 EventRead (R554, 18_dictionary_management.md). -/
abbrev Od.eventRead : Nat := 0x130001
/-- OD 0x1300.02 OldestEvent (R554, 18_dictionary_management.md). -/
abbrev Od.oldestEvent : Nat := 0x130002
/-- OD 0x1300.03 NewestEvent (R554, 18_dictionary_management.md). -/
abbrev Od.newestEvent : Nat := 0x130003
/-- OD 0x1300.05 EventSeverity (R554, 18_dictionary_management.md). -/
abbrev Od.eventSeverity : Nat := 0x130005
/-- OD 0x2000.01 TimeNow (R97, 02_time_base.md). -/
abbrev Od.timeNow : Nat := 0x200001
/-- OD 0x2000.02 TimeStepOffset (R97, 02_time_base.md). -/
abbrev Od.timeStepOffset : Nat := 0x200002
/-- OD 0x2000.03 TimeSet (R97, 02_time_base.md). -/
abbrev Od.timeSet : Nat := 0x200003
/-- OD 0x2010.01 UtcOffset (R97, 02_time_base.md). -/
abbrev Od.utcOffset : Nat := 0x201001
/-- OD 0x2010.02 LeapPending (R97, 02_time_base.md). -/
abbrev Od.leapPending : Nat := 0x201002
/-- OD 0x2100.01 CourseLength (R125, 03_course.md). -/
abbrev Od.courseLength : Nat := 0x210001
/-- OD 0x2100.02 CourseCount (R125, 03_course.md). -/
abbrev Od.courseCount : Nat := 0x210002
/-- OD 0x2100.03 CourseBaseCount (R125, 03_course.md). -/
abbrev Od.courseBaseCount : Nat := 0x210003
/-- OD 0x2100.04 CourseBaseTime (R125, 03_course.md). -/
abbrev Od.courseBaseTime : Nat := 0x210004
/-- OD 0x2100.05 StretchedCourses (R125, 03_course.md). -/
abbrev Od.stretchedCourses : Nat := 0x210005
/-- OD 0x2100.06 CourseCommit (R125, 03_course.md). -/
abbrev Od.courseCommit : Nat := 0x210006
/-- OD 0x2100.07 CoursePending (R125, 03_course.md). -/
abbrev Od.coursePending : Nat := 0x210007
/-- OD 0x2110.01 SnapshotInterval (R125, 03_course.md). -/
abbrev Od.snapshotInterval : Nat := 0x211001
/-- OD 0x2110.02 SnapshotCourse (R125, 03_course.md). -/
abbrev Od.snapshotCourse : Nat := 0x211002
/-- OD 0x2120.01 BudgetReport (R125, 03_course.md). -/
abbrev Od.budgetReport : Nat := 0x212001
/-- OD 0x2130.01 BudgetRefusals (R125, 03_course.md). -/
abbrev Od.budgetRefusals : Nat := 0x213001
/-- OD 0x2200.01 ServoState (R97, 02_time_base.md). -/
abbrev Od.servoState : Nat := 0x220001
/-- OD 0x2200.02 OffsetFromSource (R97, 02_time_base.md). -/
abbrev Od.offsetFromSource : Nat := 0x220002
/-- OD 0x2200.03 FrequencyAdjust (R97, 02_time_base.md). -/
abbrev Od.frequencyAdjust : Nat := 0x220003
/-- OD 0x2200.04 TimeValid (R97, 02_time_base.md). -/
abbrev Od.timeValid : Nat := 0x220004
/-- OD 0x2200.05 Traceable (R97, 02_time_base.md). -/
abbrev Od.traceable : Nat := 0x220005
/-- OD 0x2200.06 SelectedSource (R97, 02_time_base.md). -/
abbrev Od.selectedSource : Nat := 0x220006
/-- OD 0x2200.07 HoldoverElapsed (R97, 02_time_base.md). -/
abbrev Od.holdoverElapsed : Nat := 0x220007
/-- OD 0x2210.01–08 SourcePriority (R97, 02_time_base.md). -/
abbrev Od.sourcePriority (j : Nat) : Nat := 0x221001 + j
/-- OD 0x2210.09 LockThreshold (R97, 02_time_base.md). -/
abbrev Od.lockThreshold : Nat := 0x221009
/-- OD 0x2210.0A UnlockThreshold (R97, 02_time_base.md). -/
abbrev Od.unlockThreshold : Nat := 0x22100A
/-- OD 0x2210.0B SourceTimeout (R97, 02_time_base.md). -/
abbrev Od.sourceTimeout : Nat := 0x22100B
/-- OD 0x2210.0C HoldoverLimit (R97, 02_time_base.md). -/
abbrev Od.holdoverLimit : Nat := 0x22100C
/-- OD 0x2210.0D QualifyTime (R97, 02_time_base.md). -/
abbrev Od.qualifyTime : Nat := 0x22100D
/-- OD 0x2210.0E SlewLimit (R97, 02_time_base.md). -/
abbrev Od.slewLimit : Nat := 0x22100E
/-- OD 0x2220.01 PpsEnable0 (R97, 02_time_base.md). -/
abbrev Od.ppsEnable0 : Nat := 0x222001
/-- OD 0x2220.02 PpsEnable1 (R97, 02_time_base.md). -/
abbrev Od.ppsEnable1 : Nat := 0x222002
/-- OD 0x2220.03 PpsDelay0 (R97, 02_time_base.md). -/
abbrev Od.ppsDelay0 : Nat := 0x222003
/-- OD 0x2220.04 PpsDelay1 (R97, 02_time_base.md). -/
abbrev Od.ppsDelay1 : Nat := 0x222004
/-- OD 0x2220.05 PpsWindow (R97, 02_time_base.md). -/
abbrev Od.ppsWindow : Nat := 0x222005
/-- OD 0x2230.01 SynceEnable (R97, 02_time_base.md). -/
abbrev Od.synceEnable : Nat := 0x223001
/-- OD 0x2230.02–09 SynceLanePriority (R97, 02_time_base.md). -/
abbrev Od.synceLanePriority (j : Nat) : Nat := 0x223002 + j
/-- OD 0x2230.0A EecOption (R97, 02_time_base.md). -/
abbrev Od.eecOption : Nat := 0x22300A
/-- OD 0x2230.0B HoldOffTime (R97, 02_time_base.md). -/
abbrev Od.holdOffTime : Nat := 0x22300B
/-- OD 0x2230.0C WaitToRestore (R97, 02_time_base.md). -/
abbrev Od.waitToRestore : Nat := 0x22300C
/-- OD 0x2400+p.01 PtpEnable (R97, 02_time_base.md). -/
abbrev Od.ptpEnable (i : Nat) : Nat := 0x240001 + 256 * i
/-- OD 0x2400+p.02 ProfilesOffered (R97, 02_time_base.md). -/
abbrev Od.profilesOffered (i : Nat) : Nat := 0x240002 + 256 * i
/-- OD 0x2400+p.03 ProfileInUse (R97, 02_time_base.md). -/
abbrev Od.profileInUse (i : Nat) : Nat := 0x240003 + 256 * i
/-- OD 0x2400+p.04 PortState (R97, 02_time_base.md). -/
abbrev Od.portState (i : Nat) : Nat := 0x240004 + 256 * i
/-- OD 0x2400+p.05 DomainNumber (R97, 02_time_base.md). -/
abbrev Od.domainNumber (i : Nat) : Nat := 0x240005 + 256 * i
/-- OD 0x2400+p.06 Transport (R97, 02_time_base.md). -/
abbrev Od.transport (i : Nat) : Nat := 0x240006 + 256 * i
/-- OD 0x2400+p.07 DelayMechanism (R97, 02_time_base.md). -/
abbrev Od.delayMechanism (i : Nat) : Nat := 0x240007 + 256 * i
/-- OD 0x2400+p.08 LogSyncInterval (R97, 02_time_base.md). -/
abbrev Od.logSyncInterval (i : Nat) : Nat := 0x240008 + 256 * i
/-- OD 0x2400+p.09 LogAnnounceInterval (R97, 02_time_base.md). -/
abbrev Od.logAnnounceInterval (i : Nat) : Nat := 0x240009 + 256 * i
/-- OD 0x2400+p.0A AnnounceReceiptTimeout (R97, 02_time_base.md). -/
abbrev Od.announceReceiptTimeout (i : Nat) : Nat := 0x24000A + 256 * i
/-- OD 0x2400+p.0B TxBoardDelay (R97, 02_time_base.md). -/
abbrev Od.txBoardDelay (i : Nat) : Nat := 0x24000B + 256 * i
/-- OD 0x2400+p.0C RxBoardDelay (R97, 02_time_base.md). -/
abbrev Od.rxBoardDelay (i : Nat) : Nat := 0x24000C + 256 * i
/-- OD 0x2400+p.0D DelayAsymmetry (R97, 02_time_base.md). -/
abbrev Od.delayAsymmetry (i : Nat) : Nat := 0x24000D + 256 * i
/-- OD 0x2400+p.0E MeanPathDelay (R97, 02_time_base.md). -/
abbrev Od.meanPathDelay (i : Nat) : Nat := 0x24000E + 256 * i
/-- OD 0x2400+p.0F OffsetFromMaster (R97, 02_time_base.md). -/
abbrev Od.offsetFromMaster (i : Nat) : Nat := 0x24000F + 256 * i
/-- OD 0x2400+p.10 NegotiationTime (R97, 02_time_base.md). -/
abbrev Od.negotiationTime (i : Nat) : Nat := 0x240010 + 256 * i
/-- OD 0x2400+p.20 PtpRx (R97, 02_time_base.md). -/
abbrev Od.ptpRx (i : Nat) : Nat := 0x240020 + 256 * i
/-- OD 0x2400+p.21 PtpTx (R97, 02_time_base.md). -/
abbrev Od.ptpTx (i : Nat) : Nat := 0x240021 + 256 * i
/-- OD 0x2400+p.22 PtpDiscarded (R97, 02_time_base.md). -/
abbrev Od.ptpDiscarded (i : Nat) : Nat := 0x240022 + 256 * i
/-- OD 0x2400+p.23 PtpUnknownTlv (R97, 02_time_base.md). -/
abbrev Od.ptpUnknownTlv (i : Nat) : Nat := 0x240023 + 256 * i
/-- OD 0x2400+p.24 NegotiationFailures (R97, 02_time_base.md). -/
abbrev Od.negotiationFailures (i : Nat) : Nat := 0x240024 + 256 * i
/-- OD 0x2500.01 CalibrationState (R97, 02_time_base.md). -/
abbrev Od.calibrationState : Nat := 0x250001
/-- OD 0x2500.02 CalibrationRecord (R97, 02_time_base.md). -/
abbrev Od.calibrationRecord : Nat := 0x250002
/-- OD 0x2500.04 AccuracyClass (R97, 02_time_base.md). -/
abbrev Od.accuracyClass : Nat := 0x250004
/-- OD 0x2600+n.01 TioMode (R97, 02_time_base.md). -/
abbrev Od.tioMode (i : Nat) : Nat := 0x260001 + 256 * i
/-- OD 0x2600+n.02 TioOwner (R97, 02_time_base.md). -/
abbrev Od.tioOwner (i : Nat) : Nat := 0x260002 + 256 * i
/-- OD 0x2600+n.03 GlitchFilter (R97, 02_time_base.md). -/
abbrev Od.glitchFilter (i : Nat) : Nat := 0x260003 + 256 * i
/-- OD 0x2600+n.04 InputDelay (R97, 02_time_base.md). -/
abbrev Od.inputDelay (i : Nat) : Nat := 0x260004 + 256 * i
/-- OD 0x2600+n.05 ExpectTimeout (R97, 02_time_base.md). -/
abbrev Od.expectTimeout (i : Nat) : Nat := 0x260005 + 256 * i
/-- OD 0x2600+n.06 StartTime (R97, 02_time_base.md). -/
abbrev Od.startTime (i : Nat) : Nat := 0x260006 + 256 * i
/-- OD 0x2600+n.07 Period (R97, 02_time_base.md). -/
abbrev Od.period (i : Nat) : Nat := 0x260007 + 256 * i
/-- OD 0x2600+n.08 Width (R97, 02_time_base.md). -/
abbrev Od.width (i : Nat) : Nat := 0x260008 + 256 * i
/-- OD 0x2600+n.09 Count (R97, 02_time_base.md). -/
abbrev Od.count (i : Nat) : Nat := 0x260009 + 256 * i
/-- OD 0x2600+n.0A OutputDelay (R97, 02_time_base.md). -/
abbrev Od.outputDelay (i : Nat) : Nat := 0x26000A + 256 * i
/-- OD 0x2600+n.0B CaptureCount (R97, 02_time_base.md). -/
abbrev Od.captureCount (i : Nat) : Nat := 0x26000B + 256 * i
/-- OD 0x2600+n.0C CaptureOverflow (R97, 02_time_base.md). -/
abbrev Od.captureOverflow (i : Nat) : Nat := 0x26000C + 256 * i
/-- OD 0x2600+n.0D LastCapture (R97, 02_time_base.md). -/
abbrev Od.lastCapture (i : Nat) : Nat := 0x26000D + 256 * i
/-- OD 0x2600+n.0E GenCommit (R97, 02_time_base.md). -/
abbrev Od.genCommit (i : Nat) : Nat := 0x26000E + 256 * i
/-- OD 0x3000+p.01 PortEnable (R173, 05_lanes_ports_links.md). -/
abbrev Od.portEnable (i : Nat) : Nat := 0x300001 + 256 * i
/-- OD 0x3000+p.02 MediaType (R173, 05_lanes_ports_links.md). -/
abbrev Od.mediaType (i : Nat) : Nat := 0x300002 + 256 * i
/-- OD 0x3000+p.03 AbilitiesOffered (R173, 05_lanes_ports_links.md). -/
abbrev Od.abilitiesOffered (i : Nat) : Nat := 0x300003 + 256 * i
/-- OD 0x3000+p.04 ForcedSpeed (R173, 05_lanes_ports_links.md). -/
abbrev Od.forcedSpeed (i : Nat) : Nat := 0x300004 + 256 * i
/-- OD 0x3000+p.05 FecMode (R173, 05_lanes_ports_links.md). -/
abbrev Od.fecMode (i : Nat) : Nat := 0x300005 + 256 * i
/-- OD 0x3000+p.06 FecAllowNone (R173, 05_lanes_ports_links.md). -/
abbrev Od.fecAllowNone (i : Nat) : Nat := 0x300006 + 256 * i
/-- OD 0x3000+p.07 TrainingTimeout (R173, 05_lanes_ports_links.md). -/
abbrev Od.trainingTimeout (i : Nat) : Nat := 0x300007 + 256 * i
/-- OD 0x3000+p.08 AnRetryInterval (R173, 05_lanes_ports_links.md). -/
abbrev Od.anRetryInterval (i : Nat) : Nat := 0x300008 + 256 * i
/-- OD 0x3000+p.09 LinkUpHold (R173, 05_lanes_ports_links.md). -/
abbrev Od.linkUpHold (i : Nat) : Nat := 0x300009 + 256 * i
/-- OD 0x3000+p.0A LinkDownHold (R173, 05_lanes_ports_links.md). -/
abbrev Od.linkDownHold (i : Nat) : Nat := 0x30000A + 256 * i
/-- OD 0x3000+p.0B MaxFrameSize (R173, 05_lanes_ports_links.md). -/
abbrev Od.maxFrameSize (i : Nat) : Nat := 0x30000B + 256 * i
/-- OD 0x3000+p.10 DcbxMode (R173, 05_lanes_ports_links.md). -/
abbrev Od.dcbxMode (i : Nat) : Nat := 0x300010 + 256 * i
/-- OD 0x3000+p.11 PfcEnableLocal (R173, 05_lanes_ports_links.md). -/
abbrev Od.pfcEnableLocal (i : Nat) : Nat := 0x300011 + 256 * i
/-- OD 0x3000+p.12 PriorityToClass (R173, 05_lanes_ports_links.md). -/
abbrev Od.priorityToClass (i : Nat) : Nat := 0x300012 + 256 * i
/-- OD 0x3000+p.13 ProtectionPcp (R173, 05_lanes_ports_links.md). -/
abbrev Od.protectionPcp (i : Nat) : Nat := 0x300013 + 256 * i
/-- OD 0x3000+p.14 LldpTxInterval (R173, 05_lanes_ports_links.md). -/
abbrev Od.lldpTxInterval (i : Nat) : Nat := 0x300014 + 256 * i
/-- OD 0x3100+p.01 LinkState (R174, 05_lanes_ports_links.md). -/
abbrev Od.linkState (i : Nat) : Nat := 0x310001 + 256 * i
/-- OD 0x3100+p.02 SpeedInUse (R174, 05_lanes_ports_links.md). -/
abbrev Od.speedInUse (i : Nat) : Nat := 0x310002 + 256 * i
/-- OD 0x3100+p.03 FecInUse (R174, 05_lanes_ports_links.md). -/
abbrev Od.fecInUse (i : Nat) : Nat := 0x310003 + 256 * i
/-- OD 0x3100+p.04 PartnerAbilities (R174, 05_lanes_ports_links.md). -/
abbrev Od.partnerAbilities (i : Nat) : Nat := 0x310004 + 256 * i
/-- OD 0x3100+p.05 SpeedFallbackMask (R174, 05_lanes_ports_links.md). -/
abbrev Od.speedFallbackMask (i : Nat) : Nat := 0x310005 + 256 * i
/-- OD 0x3100+p.06 LinkDownCause (R174, 05_lanes_ports_links.md). -/
abbrev Od.linkDownCause (i : Nat) : Nat := 0x310006 + 256 * i
/-- OD 0x3100+p.07 LastLinkChange (R174, 05_lanes_ports_links.md). -/
abbrev Od.lastLinkChange (i : Nat) : Nat := 0x310007 + 256 * i
/-- OD 0x3100+p.08 PfcOper (R174, 05_lanes_ports_links.md). -/
abbrev Od.pfcOper (i : Nat) : Nat := 0x310008 + 256 * i
/-- OD 0x3100+p.09 PriorityToClassOper (R174, 05_lanes_ports_links.md). -/
abbrev Od.priorityToClassOper (i : Nat) : Nat := 0x310009 + 256 * i
/-- OD 0x3100+p.0A DcbxState (R174, 05_lanes_ports_links.md). -/
abbrev Od.dcbxState (i : Nat) : Nat := 0x31000A + 256 * i
/-- OD 0x3200+t.01 LaneGrouping (R173, 05_lanes_ports_links.md). -/
abbrev Od.laneGrouping (i : Nat) : Nat := 0x320001 + 256 * i
/-- OD 0x3200+t.02 RxPolarity (R173, 05_lanes_ports_links.md). -/
abbrev Od.rxPolarity (i : Nat) : Nat := 0x320002 + 256 * i
/-- OD 0x3200+t.03 TxPolarity (R173, 05_lanes_ports_links.md). -/
abbrev Od.txPolarity (i : Nat) : Nat := 0x320003 + 256 * i
/-- OD 0x4000+p.01 ForwardingMode (R218, 06_switch_core.md). -/
abbrev Od.forwardingMode (i : Nat) : Nat := 0x400001 + 256 * i
/-- OD 0x4000+p.02 Class7ReserveBricks (R218, 06_switch_core.md). -/
abbrev Od.class7ReserveBricks (i : Nat) : Nat := 0x400002 + 256 * i
/-- OD 0x4000+p.03 LaunchTolerance (R218, 06_switch_core.md). -/
abbrev Od.launchTolerance (i : Nat) : Nat := 0x400003 + 256 * i
/-- OD 0x4000+p.04 LaunchHorizon (R218, 06_switch_core.md). -/
abbrev Od.launchHorizon (i : Nat) : Nat := 0x400004 + 256 * i
/-- OD 0x4000+p.10–17 QueueMaxBricks (R218, 06_switch_core.md). -/
abbrev Od.queueMaxBricks (i j : Nat) : Nat := 0x400010 + 256 * i + j
/-- OD 0x4000+p.18–1F AlphaCode (R218, 06_switch_core.md). -/
abbrev Od.alphaCode (i j : Nat) : Nat := 0x400018 + 256 * i + j
/-- OD 0x4000+p.20–27 HeadroomBricks (R218, 06_switch_core.md). -/
abbrev Od.headroomBricks (i j : Nat) : Nat := 0x400020 + 256 * i + j
/-- OD 0x4000+p.28–2F XoffThreshold (R218, 06_switch_core.md). -/
abbrev Od.xoffThreshold (i j : Nat) : Nat := 0x400028 + 256 * i + j
/-- OD 0x4000+p.30–37 XonThreshold (R218, 06_switch_core.md). -/
abbrev Od.xonThreshold (i j : Nat) : Nat := 0x400030 + 256 * i + j
/-- OD 0x4200+t.01 SharedFree (R219, 06_switch_core.md). -/
abbrev Od.sharedFree (i : Nat) : Nat := 0x420001 + 256 * i
/-- OD 0x4200+t.02 Class7Held (R219, 06_switch_core.md). -/
abbrev Od.class7Held (i : Nat) : Nat := 0x420002 + 256 * i
/-- OD 0x4200+t.03 HeadroomHeld (R219, 06_switch_core.md). -/
abbrev Od.headroomHeld (i : Nat) : Nat := 0x420003 + 256 * i
/-- OD 0x4200+t.04 HeadroomAllocated (R219, 06_switch_core.md). -/
abbrev Od.headroomAllocated (i : Nat) : Nat := 0x420004 + 256 * i
/-- OD 0x4300+s.01 MirrorEnable (R219, 06_switch_core.md). -/
abbrev Od.mirrorEnable (i : Nat) : Nat := 0x430001 + 256 * i
/-- OD 0x4300+s.02 IngressPorts (R219, 06_switch_core.md). -/
abbrev Od.ingressPorts (i : Nat) : Nat := 0x430002 + 256 * i
/-- OD 0x4300+s.03 EgressPorts (R219, 06_switch_core.md). -/
abbrev Od.egressPorts (i : Nat) : Nat := 0x430003 + 256 * i
/-- OD 0x4300+s.04 DestKind (R219, 06_switch_core.md). -/
abbrev Od.destKind (i : Nat) : Nat := 0x430004 + 256 * i
/-- OD 0x4300+s.05 Dest (R219, 06_switch_core.md). -/
abbrev Od.dest (i : Nat) : Nat := 0x430005 + 256 * i
/-- OD 0x4300+s.06 MirrorClass (R219, 06_switch_core.md). -/
abbrev Od.mirrorClass (i : Nat) : Nat := 0x430006 + 256 * i
/-- OD 0x4300+s.07 TruncateLength (R219, 06_switch_core.md). -/
abbrev Od.truncateLength (i : Nat) : Nat := 0x430007 + 256 * i
/-- OD 0x4300+s.08 Encapsulate (R219, 06_switch_core.md). -/
abbrev Od.encapsulate (i : Nat) : Nat := 0x430008 + 256 * i
/-- OD 0x4300+s.09 EncapDa (R219, 06_switch_core.md). -/
abbrev Od.encapDa (i : Nat) : Nat := 0x430009 + 256 * i
/-- OD 0x4300+s.0A EncapSa (R219, 06_switch_core.md). -/
abbrev Od.encapSa (i : Nat) : Nat := 0x43000A + 256 * i
/-- OD 0x4300+s.0B EncapEthertype (R219, 06_switch_core.md). -/
abbrev Od.encapEthertype (i : Nat) : Nat := 0x43000B + 256 * i
/-- OD 0x4500.01 StreamTable (R219, 06_switch_core.md). -/
abbrev Od.streamTable : Nat := 0x450001
/-- OD 0x4700+q.01 AlignedEnable (R219, 06_switch_core.md). -/
abbrev Od.alignedEnable (i : Nat) : Nat := 0x470001 + 256 * i
/-- OD 0x4700+q.02 Consumer (R219, 06_switch_core.md). -/
abbrev Od.consumer (i : Nat) : Nat := 0x470002 + 256 * i
/-- OD 0x4700+q.03 HoldCourses (R219, 06_switch_core.md). -/
abbrev Od.holdCourses (i : Nat) : Nat := 0x470003 + 256 * i
/-- OD 0x4700+q.04 MaxRate (R219, 06_switch_core.md). -/
abbrev Od.maxRate (i : Nat) : Nat := 0x470004 + 256 * i
/-- OD 0x4700+q.05 LateAction (R219, 06_switch_core.md). -/
abbrev Od.lateAction (i : Nat) : Nat := 0x470005 + 256 * i
/-- OD 0x4700+q.06 CapacityBytes (R219, 06_switch_core.md). -/
abbrev Od.capacityBytes (i : Nat) : Nat := 0x470006 + 256 * i
/-- OD 0x4700+q.07 RelayTile (R219, 06_switch_core.md). -/
abbrev Od.relayTile (i : Nat) : Nat := 0x470007 + 256 * i
/-- OD 0x4800.01–06 VnSlots (R54, 01_tiles_and_mortar.md). -/
abbrev Od.vnSlots (j : Nat) : Nat := 0x480001 + j
/-- OD 0x4810.01–10 PcActivity (R54, 01_tiles_and_mortar.md). -/
abbrev Od.pcActivity (j : Nat) : Nat := 0x481001 + j
/-- OD 0x4812.01–05 CacheShare (R54, 01_tiles_and_mortar.md). -/
abbrev Od.cacheShare (j : Nat) : Nat := 0x481201 + j
/-- OD 0x4820.01 TileStatus (R54, 01_tiles_and_mortar.md). -/
abbrev Od.tileStatus : Nat := 0x482001
/-- OD 0x4900+n.01 PoolBase (R386, 12_hod.md). -/
abbrev Od.poolBase (i : Nat) : Nat := 0x490001 + 256 * i
/-- OD 0x4900+n.02 UnitSize (R386, 12_hod.md). -/
abbrev Od.unitSize (i : Nat) : Nat := 0x490002 + 256 * i
/-- OD 0x4900+n.03 Capacity (R386, 12_hod.md). -/
abbrev Od.capacity (i : Nat) : Nat := 0x490003 + 256 * i
/-- OD 0x4900+n.04 FreeUnits (R386, 12_hod.md). -/
abbrev Od.freeUnits (i : Nat) : Nat := 0x490004 + 256 * i
/-- OD 0x4900+n.05 LowWater (R386, 12_hod.md). -/
abbrev Od.lowWater (i : Nat) : Nat := 0x490005 + 256 * i
/-- OD 0x4950.01 HodCommandWindow (R386, 12_hod.md). -/
abbrev Od.hodCommandWindow : Nat := 0x495001
/-- OD 0x4950.02 HbmCoreBuffers (R386, 12_hod.md). -/
abbrev Od.hbmCoreBuffers : Nat := 0x495002
/-- OD 0x4960+t.01–06 CoreQuota (R386, 12_hod.md). -/
abbrev Od.coreQuota (i j : Nat) : Nat := 0x496001 + 256 * i + j
/-- OD 0x4960+t.07–0C HbmQuota (R386, 12_hod.md). -/
abbrev Od.hbmQuota (i j : Nat) : Nat := 0x496007 + 256 * i + j
/-- OD 0x5000.01 FdbCurrentGen (R252, 07_forwarding.md). -/
abbrev Od.fdbCurrentGen : Nat := 0x500001
/-- OD 0x5000.02 FdbOldestGen (R252, 07_forwarding.md). -/
abbrev Od.fdbOldestGen : Nat := 0x500002
/-- OD 0x5000.03 FdbOccupancyDie (R252, 07_forwarding.md). -/
abbrev Od.fdbOccupancyDie : Nat := 0x500003
/-- OD 0x5000.04 FdbOccupancyHbm (R252, 07_forwarding.md). -/
abbrev Od.fdbOccupancyHbm : Nat := 0x500004
/-- OD 0x5000.05 FdbUpdate (R252, 07_forwarding.md). -/
abbrev Od.fdbUpdate : Nat := 0x500005
/-- OD 0x5000.06 FdbQuery (R252, 07_forwarding.md). -/
abbrev Od.fdbQuery : Nat := 0x500006
/-- OD 0x5000.07 FdbSweep (R252, 07_forwarding.md). -/
abbrev Od.fdbSweep : Nat := 0x500007
/-- OD 0x5000.08 LearnNotifyDest (R252, 07_forwarding.md). -/
abbrev Od.learnNotifyDest : Nat := 0x500008
/-- OD 0x5000.09 NotifyRate (R252, 07_forwarding.md). -/
abbrev Od.notifyRate : Nat := 0x500009
/-- OD 0x5000.0A StaticViolationAction (R252, 07_forwarding.md). -/
abbrev Od.staticViolationAction : Nat := 0x50000A
/-- OD 0x5100.01 VlanTable (R252, 07_forwarding.md). -/
abbrev Od.vlanTable : Nat := 0x510001
/-- OD 0x5200.01 GroupTable (R252, 07_forwarding.md). -/
abbrev Od.groupTable : Nat := 0x520001
/-- OD 0x5300+p.01 Pvid (R252, 07_forwarding.md). -/
abbrev Od.pvid (i : Nat) : Nat := 0x530001 + 256 * i
/-- OD 0x5300+p.02 IngressFilter (R252, 07_forwarding.md). -/
abbrev Od.ingressFilter (i : Nat) : Nat := 0x530002 + 256 * i
/-- OD 0x5300+p.03 LearnEnable (R252, 07_forwarding.md). -/
abbrev Od.learnEnable (i : Nat) : Nat := 0x530003 + 256 * i
/-- OD 0x5300+p.04 MaxLearned (R252, 07_forwarding.md). -/
abbrev Od.maxLearned (i : Nat) : Nat := 0x530004 + 256 * i
/-- OD 0x5300+p.05 WallPort (R252, 07_forwarding.md). -/
abbrev Od.wallPort (i : Nat) : Nat := 0x530005 + 256 * i
/-- OD 0x5300+p.06 PortMeta (R286, 08_parsing_classification.md). -/
abbrev Od.portMeta (i : Nat) : Nat := 0x530006 + 256 * i
/-- OD 0x5400+t.01 TernaryUpdate (R286, 08_parsing_classification.md). -/
abbrev Od.ternaryUpdate (i : Nat) : Nat := 0x540001 + 256 * i
/-- OD 0x5400+t.02 TernaryQuery (R286, 08_parsing_classification.md). -/
abbrev Od.ternaryQuery (i : Nat) : Nat := 0x540002 + 256 * i
/-- OD 0x5400+t.03 KeystoneEntries (R286, 08_parsing_classification.md). -/
abbrev Od.keystoneEntries (i : Nat) : Nat := 0x540003 + 256 * i
/-- OD 0x5400+t.04 IngressMissAction (R286, 08_parsing_classification.md). -/
abbrev Od.ingressMissAction (i : Nat) : Nat := 0x540004 + 256 * i
/-- OD 0x5400+t.05 EgressMissAction (R286, 08_parsing_classification.md). -/
abbrev Od.egressMissAction (i : Nat) : Nat := 0x540005 + 256 * i
/-- OD 0x5400+t.06 ParseErrorAction (R286, 08_parsing_classification.md). -/
abbrev Od.parseErrorAction (i : Nat) : Nat := 0x540006 + 256 * i
/-- OD 0x5400+t.07 LinkLocalAction (R286, 08_parsing_classification.md). -/
abbrev Od.linkLocalAction (i : Nat) : Nat := 0x540007 + 256 * i
/-- OD 0x5400+t.10–1D Udf (R286, 08_parsing_classification.md). -/
abbrev Od.udf (i j : Nat) : Nat := 0x540010 + 256 * i + j
/-- OD 0x5400+t.20 ExceptionDest (R286, 08_parsing_classification.md). -/
abbrev Od.exceptionDest (i : Nat) : Nat := 0x540020 + 256 * i
/-- OD 0x5400+t.21 ExceptionBurst (R286, 08_parsing_classification.md). -/
abbrev Od.exceptionBurst (i : Nat) : Nat := 0x540021 + 256 * i
/-- OD 0x5400+t.30–37 ExceptionRate (R286, 08_parsing_classification.md). -/
abbrev Od.exceptionRate (i j : Nat) : Nat := 0x540030 + 256 * i + j
/-- OD 0x5500+x.01 ExactKeyProfile (R286, 08_parsing_classification.md). -/
abbrev Od.exactKeyProfile (i : Nat) : Nat := 0x550001 + 256 * i
/-- OD 0x5500+x.02 ExactCapacity (R286, 08_parsing_classification.md). -/
abbrev Od.exactCapacity (i : Nat) : Nat := 0x550002 + 256 * i
/-- OD 0x5500+x.03 ExactUpdate (R286, 08_parsing_classification.md). -/
abbrev Od.exactUpdate (i : Nat) : Nat := 0x550003 + 256 * i
/-- OD 0x5500+x.04 ExactQuery (R286, 08_parsing_classification.md). -/
abbrev Od.exactQuery (i : Nat) : Nat := 0x550004 + 256 * i
/-- OD 0x5500+x.05 ExactSweep (R286, 08_parsing_classification.md). -/
abbrev Od.exactSweep (i : Nat) : Nat := 0x550005 + 256 * i
/-- OD 0x5600+t.01 ProgramUpdate (R312, 09_trowel_microcode.md). -/
abbrev Od.programUpdate (i : Nat) : Nat := 0x560001 + 256 * i
/-- OD 0x5600+t.02 DispatchIngress (R312, 09_trowel_microcode.md). -/
abbrev Od.dispatchIngress (i : Nat) : Nat := 0x560002 + 256 * i
/-- OD 0x5600+t.03 DispatchEgress (R312, 09_trowel_microcode.md). -/
abbrev Od.dispatchEgress (i : Nat) : Nat := 0x560003 + 256 * i
/-- OD 0x5600+t.04 TrowelEventDest (R312, 09_trowel_microcode.md). -/
abbrev Od.trowelEventDest (i : Nat) : Nat := 0x560004 + 256 * i
/-- OD 0x5600+t.05 StateMemory (R312, 09_trowel_microcode.md). -/
abbrev Od.stateMemory (i : Nat) : Nat := 0x560005 + 256 * i
/-- OD 0x5600+t.06 EngineStatus (R312, 09_trowel_microcode.md). -/
abbrev Od.engineStatus (i : Nat) : Nat := 0x560006 + 256 * i
/-- OD 0x5700.01 MicrocodePatch (R312, 09_trowel_microcode.md). -/
abbrev Od.microcodePatch : Nat := 0x570001
/-- OD 0x5700.02 PatchStatus (R312, 09_trowel_microcode.md). -/
abbrev Od.patchStatus : Nat := 0x570002
/-- OD 0x5800.01 WallEnable (R252, 07_forwarding.md). -/
abbrev Od.wallEnable : Nat := 0x580001
/-- OD 0x5800.02 WallId (R252, 07_forwarding.md). -/
abbrev Od.wallId : Nat := 0x580002
/-- OD 0x5800.03 WallDeviceId (R252, 07_forwarding.md). -/
abbrev Od.wallDeviceId : Nat := 0x580003
/-- OD 0x5800.04 WallFeatureLevel (R252, 07_forwarding.md). -/
abbrev Od.wallFeatureLevel : Nat := 0x580004
/-- OD 0x5800.05 WallLevelInForce (R252, 07_forwarding.md). -/
abbrev Od.wallLevelInForce : Nat := 0x580005
/-- OD 0x5800.06 SupportedLevel (R252, 07_forwarding.md). -/
abbrev Od.supportedLevel : Nat := 0x580006
/-- OD 0x5800.07 WallMinSupported (R252, 07_forwarding.md). -/
abbrev Od.wallMinSupported : Nat := 0x580007
/-- OD 0x5800.08 WallState (R252, 07_forwarding.md). -/
abbrev Od.wallState : Nat := 0x580008
/-- OD 0x5800.09 WallSize (R252, 07_forwarding.md). -/
abbrev Od.wallSize : Nat := 0x580009
/-- OD 0x5800.0A HelloInterval (R252, 07_forwarding.md). -/
abbrev Od.helloInterval : Nat := 0x58000A
/-- OD 0x5800.0B WallEthertype (R252, 07_forwarding.md). -/
abbrev Od.wallEthertype : Nat := 0x58000B
/-- OD 0x5800.0C SyncQueue (R252, 07_forwarding.md). -/
abbrev Od.syncQueue : Nat := 0x58000C
/-- OD 0x5810.01 NeighbourTable (R252, 07_forwarding.md). -/
abbrev Od.neighbourTable : Nat := 0x581001
/-- OD 0x5900+r.01 RedMode (R252, 07_forwarding.md). -/
abbrev Od.redMode (i : Nat) : Nat := 0x590001 + 256 * i
/-- OD 0x5900+r.02 PortA (R252, 07_forwarding.md). -/
abbrev Od.portA (i : Nat) : Nat := 0x590002 + 256 * i
/-- OD 0x5900+r.03 PortB (R252, 07_forwarding.md). -/
abbrev Od.portB (i : Nat) : Nat := 0x590003 + 256 * i
/-- OD 0x5900+r.04 EntryForgetTime (R252, 07_forwarding.md). -/
abbrev Od.entryForgetTime (i : Nat) : Nat := 0x590004 + 256 * i
/-- OD 0x5900+r.05 NodeForgetTime (R252, 07_forwarding.md). -/
abbrev Od.nodeForgetTime (i : Nat) : Nat := 0x590005 + 256 * i
/-- OD 0x6000+p.01 ClosingMode (R340, 10_scheduling_shaping.md). -/
abbrev Od.closingMode (i : Nat) : Nat := 0x600001 + 256 * i
/-- OD 0x6000+p.02 LengthOverhead (R340, 10_scheduling_shaping.md). -/
abbrev Od.lengthOverhead (i : Nat) : Nat := 0x600002 + 256 * i
/-- OD 0x6000+p.03 GateEnable (R340, 10_scheduling_shaping.md). -/
abbrev Od.gateEnable (i : Nat) : Nat := 0x600003 + 256 * i
/-- OD 0x6000+p.04 GateControlList (R340, 10_scheduling_shaping.md). -/
abbrev Od.gateControlList (i : Nat) : Nat := 0x600004 + 256 * i
/-- OD 0x6000+p.05 GateStatus (R340, 10_scheduling_shaping.md). -/
abbrev Od.gateStatus (i : Nat) : Nat := 0x600005 + 256 * i
/-- OD 0x6000+p.10–16 Level (R340, 10_scheduling_shaping.md). -/
abbrev Od.level (i j : Nat) : Nat := 0x600010 + 256 * i + j
/-- OD 0x6000+p.18–1E Quantum (R340, 10_scheduling_shaping.md). -/
abbrev Od.quantum (i j : Nat) : Nat := 0x600018 + 256 * i + j
/-- OD 0x6000+p.20–26 ShaperEnable (R340, 10_scheduling_shaping.md). -/
abbrev Od.shaperEnable (i j : Nat) : Nat := 0x600020 + 256 * i + j
/-- OD 0x6000+p.28–2E IdleSlope (R340, 10_scheduling_shaping.md). -/
abbrev Od.idleSlope (i j : Nat) : Nat := 0x600028 + 256 * i + j
/-- OD 0x6000+p.30–36 CreditMax (R340, 10_scheduling_shaping.md). -/
abbrev Od.creditMax (i j : Nat) : Nat := 0x600030 + 256 * i + j
/-- OD 0x6000+p.38–3E Credit (R340, 10_scheduling_shaping.md). -/
abbrev Od.credit (i j : Nat) : Nat := 0x600038 + 256 * i + j
/-- OD 0x6200+p.01 QueueSamples (R340, 10_scheduling_shaping.md). -/
abbrev Od.queueSamples (i : Nat) : Nat := 0x620001 + 256 * i
/-- OD 0x6200+p.02 SampleDest (R340, 10_scheduling_shaping.md). -/
abbrev Od.sampleDest (i : Nat) : Nat := 0x620002 + 256 * i
/-- OD 0x6200+p.03 SampleInterval (R340, 10_scheduling_shaping.md). -/
abbrev Od.sampleInterval (i : Nat) : Nat := 0x620003 + 256 * i
/-- OD 0x6400+t.01 PolicerUpdate (R340, 10_scheduling_shaping.md). -/
abbrev Od.policerUpdate (i : Nat) : Nat := 0x640001 + 256 * i
/-- OD 0x6400+t.02 PolicerQuery (R340, 10_scheduling_shaping.md). -/
abbrev Od.policerQuery (i : Nat) : Nat := 0x640002 + 256 * i
/-- OD 0x7000.01 KeyLoad (R367, 11_cipher.md). -/
abbrev Od.keyLoad : Nat := 0x700001
/-- OD 0x7000.02 KeySlotOwner (R367, 11_cipher.md). -/
abbrev Od.keySlotOwner : Nat := 0x700002
/-- OD 0x7000.03 KeySlotInfo (R367, 11_cipher.md). -/
abbrev Od.keySlotInfo : Nat := 0x700003
/-- OD 0x7000.04 KeyErase (R367, 11_cipher.md). -/
abbrev Od.keyErase : Nat := 0x700004
/-- OD 0x7000.05 VerifyFailAction (R367, 11_cipher.md). -/
abbrev Od.verifyFailAction : Nat := 0x700005
/-- OD 0x7000.06 MkaDest (R367, 11_cipher.md). -/
abbrev Od.mkaDest : Nat := 0x700006
/-- OD 0x7100+p.01 MacsecEnable (R367, 11_cipher.md). -/
abbrev Od.macsecEnable (i : Nat) : Nat := 0x710001 + 256 * i
/-- OD 0x7100+p.02 CipherSuite (R367, 11_cipher.md). -/
abbrev Od.cipherSuite (i : Nat) : Nat := 0x710002 + 256 * i
/-- OD 0x7100+p.03 ConfidentialityOffset (R367, 11_cipher.md). -/
abbrev Od.confidentialityOffset (i : Nat) : Nat := 0x710003 + 256 * i
/-- OD 0x7100+p.04 TxAn (R367, 11_cipher.md). -/
abbrev Od.txAn (i : Nat) : Nat := 0x710004 + 256 * i
/-- OD 0x7100+p.05 TxPortIdentifier (R367, 11_cipher.md). -/
abbrev Od.txPortIdentifier (i : Nat) : Nat := 0x710005 + 256 * i
/-- OD 0x7100+p.06 IncludeSci (R367, 11_cipher.md). -/
abbrev Od.includeSci (i : Nat) : Nat := 0x710006 + 256 * i
/-- OD 0x7100+p.07 ValidateFrames (R367, 11_cipher.md). -/
abbrev Od.validateFrames (i : Nat) : Nat := 0x710007 + 256 * i
/-- OD 0x7100+p.08 ReplayProtect (R367, 11_cipher.md). -/
abbrev Od.replayProtect (i : Nat) : Nat := 0x710008 + 256 * i
/-- OD 0x7100+p.09 ReplayWindow (R367, 11_cipher.md). -/
abbrev Od.replayWindow (i : Nat) : Nat := 0x710009 + 256 * i
/-- OD 0x7100+p.0A–0D RxSci (R367, 11_cipher.md). -/
abbrev Od.rxSci (i j : Nat) : Nat := 0x71000A + 256 * i + j
/-- OD 0x7100+p.0E PnThreshold (R367, 11_cipher.md). -/
abbrev Od.pnThreshold (i : Nat) : Nat := 0x71000E + 256 * i
/-- OD 0x7100+p.10 KsEnable (R367, 11_cipher.md). -/
abbrev Od.ksEnable (i : Nat) : Nat := 0x710010 + 256 * i
/-- OD 0x7100+p.11 KsTxAn (R367, 11_cipher.md). -/
abbrev Od.ksTxAn (i : Nat) : Nat := 0x710011 + 256 * i
/-- OD 0x7100+p.12 KsPortIdentifier (R367, 11_cipher.md). -/
abbrev Od.ksPortIdentifier (i : Nat) : Nat := 0x710012 + 256 * i
/-- OD 0x7200+p.01 MacsecSaTable (R367, 11_cipher.md). -/
abbrev Od.macsecSaTable (i : Nat) : Nat := 0x720001 + 256 * i
/-- OD 0x7300.01 EspSaTable (R367, 11_cipher.md). -/
abbrev Od.espSaTable : Nat := 0x730001
/-- OD 0x7400.01 AuthTable (R367, 11_cipher.md). -/
abbrev Od.authTable : Nat := 0x740001
/-- OD 0x8000.01–04 HostLinkStatus (R421, 13_host_endpoint.md). -/
abbrev Od.hostLinkStatus (j : Nat) : Nat := 0x800001 + j
/-- OD 0x8001.01–02 Bifurcation (R421, 13_host_endpoint.md). -/
abbrev Od.bifurcation (j : Nat) : Nat := 0x800101 + j
/-- OD 0x8010.01–02 PeerRegionBase (R421, 13_host_endpoint.md). -/
abbrev Od.peerRegionBase (j : Nat) : Nat := 0x801001 + j
/-- OD 0x8010.03–04 PeerRegionSize (R421, 13_host_endpoint.md). -/
abbrev Od.peerRegionSize (j : Nat) : Nat := 0x801003 + j
/-- OD 0x8020.01 ProtectionTxQueues (R421, 13_host_endpoint.md). -/
abbrev Od.protectionTxQueues : Nat := 0x802001
/-- OD 0x8030+w.01 PeerWindowActive (R421, 13_host_endpoint.md). -/
abbrev Od.peerWindowActive (i : Nat) : Nat := 0x803001 + 256 * i
/-- OD 0x8100.01 SliceResourceSet (R440, 14_slices.md). -/
abbrev Od.sliceResourceSet : Nat := 0x810001
/-- OD 0x8100.02 SliceQuery (R440, 14_slices.md). -/
abbrev Od.sliceQuery : Nat := 0x810002
/-- OD 0x8100.03 SliceState (R440, 14_slices.md). -/
abbrev Od.sliceState : Nat := 0x810003
/-- OD 0x8101.01 TrackerFree (R440, 14_slices.md). -/
abbrev Od.trackerFree : Nat := 0x810101
/-- OD 0x8101.02 TrackerReservedSum (R440, 14_slices.md). -/
abbrev Od.trackerReservedSum : Nat := 0x810102
/-- OD 0x9000+n.01 NamespaceRecord (R473, 15_storage.md). -/
abbrev Od.namespaceRecord (i : Nat) : Nat := 0x900001 + 256 * i
/-- OD 0x9000+n.02 NamespaceStatus (R473, 15_storage.md). -/
abbrev Od.namespaceStatus (i : Nat) : Nat := 0x900002 + 256 * i
/-- OD 0x9800.01 Ctrl0TrackerMax (R473, 15_storage.md). -/
abbrev Od.ctrl0TrackerMax : Nat := 0x980001
/-- OD 0x9800.02 StagingReserve (R473, 15_storage.md). -/
abbrev Od.stagingReserve : Nat := 0x980002
/-- OD 0x9800.03 BackingTimeout (R473, 15_storage.md). -/
abbrev Od.backingTimeout : Nat := 0x980003
/-- OD 0x9800.04 SliceWriteCache (R473, 15_storage.md). -/
abbrev Od.sliceWriteCache : Nat := 0x980004
/-- OD 0x9800.05 SlicePowerState (R473, 15_storage.md). -/
abbrev Od.slicePowerState : Nat := 0x980005
/-- OD 0x9800.06–09 RangeLocksHeld (R473, 15_storage.md). -/
abbrev Od.rangeLocksHeld (j : Nat) : Nat := 0x980006 + j
/-- OD 0x9900.01 DspBifurcation (R473, 15_storage.md). -/
abbrev Od.dspBifurcation : Nat := 0x990001
/-- OD 0x9900.02–05 SsdStatus (R473, 15_storage.md). -/
abbrev Od.ssdStatus (j : Nat) : Nat := 0x990002 + j
/-- OD 0x9900.06 DspPs1State (R473, 15_storage.md). -/
abbrev Od.dspPs1State : Nat := 0x990006
/-- OD 0x9900.07 DspPs2State (R473, 15_storage.md). -/
abbrev Od.dspPs2State : Nat := 0x990007
/-- OD 0x9A00+k.01 TargetAddress (R473, 15_storage.md). -/
abbrev Od.targetAddress (i : Nat) : Nat := 0x9A0001 + 256 * i
/-- OD 0x9A00+k.02 TargetPort (R473, 15_storage.md). -/
abbrev Od.targetPort (i : Nat) : Nat := 0x9A0002 + 256 * i
/-- OD 0x9A00+k.03 SubsystemNqn (R473, 15_storage.md). -/
abbrev Od.subsystemNqn (i : Nat) : Nat := 0x9A0003 + 256 * i
/-- OD 0x9A00+k.04 HostNqn (R473, 15_storage.md). -/
abbrev Od.hostNqn (i : Nat) : Nat := 0x9A0004 + 256 * i
/-- OD 0x9A00+k.05 TargetNsid (R473, 15_storage.md). -/
abbrev Od.targetNsid (i : Nat) : Nat := 0x9A0005 + 256 * i
/-- OD 0x9A00+k.06 ReconnectInterval (R473, 15_storage.md). -/
abbrev Od.reconnectInterval (i : Nat) : Nat := 0x9A0006 + 256 * i
/-- OD 0xA000.01 RocePcp (R503, 16_rdma.md). -/
abbrev Od.rocePcp : Nat := 0xA00001
/-- OD 0xA000.02 TargetDelay (R503, 16_rdma.md). -/
abbrev Od.targetDelay : Nat := 0xA00002
/-- OD 0xA000.03 RttTarget (R503, 16_rdma.md). -/
abbrev Od.rttTarget : Nat := 0xA00003
/-- OD 0xA000.04 BaseWindow (R503, 16_rdma.md). -/
abbrev Od.baseWindow : Nat := 0xA00004
/-- OD 0xA000.05 AddStep (R503, 16_rdma.md). -/
abbrev Od.addStep : Nat := 0xA00005
/-- OD 0xA000.06 Beta (R503, 16_rdma.md). -/
abbrev Od.beta : Nat := 0xA00006
/-- OD 0xA000.07 MinRate (R503, 16_rdma.md). -/
abbrev Od.minRate : Nat := 0xA00007
/-- OD 0xA000.08 DelayFallbackCourses (R503, 16_rdma.md). -/
abbrev Od.delayFallbackCourses : Nat := 0xA00008
/-- OD 0xA000.0A GsiQueue (R503, 16_rdma.md). -/
abbrev Od.gsiQueue : Nat := 0xA0000A
/-- OD 0xA100.01 QpControl (R503, 16_rdma.md). -/
abbrev Od.qpControl : Nat := 0xA10001
/-- OD 0xA100.02 CqControl (R503, 16_rdma.md). -/
abbrev Od.cqControl : Nat := 0xA10002
/-- OD 0xA100.03 RegionControl (R503, 16_rdma.md). -/
abbrev Od.regionControl : Nat := 0xA10003
/-- OD 0xA100.04 AhControl (R503, 16_rdma.md). -/
abbrev Od.ahControl : Nat := 0xA10004
/-- OD 0xA100.05 RdmaQuery (R503, 16_rdma.md). -/
abbrev Od.rdmaQuery : Nat := 0xA10005
/-- OD 0xA200+p.01 RdmaIpv4 (R503, 16_rdma.md). -/
abbrev Od.rdmaIpv4 (i : Nat) : Nat := 0xA20001 + 256 * i
/-- OD 0xA200+p.02 RdmaIpv6 (R503, 16_rdma.md). -/
abbrev Od.rdmaIpv6 (i : Nat) : Nat := 0xA20002 + 256 * i
/-- OD 0xA300+p.01 PfcWatchdogEnable (R503, 16_rdma.md). -/
abbrev Od.pfcWatchdogEnable (i : Nat) : Nat := 0xA30001 + 256 * i
/-- OD 0xA300+p.02 WatchdogTime (R503, 16_rdma.md). -/
abbrev Od.watchdogTime (i : Nat) : Nat := 0xA30002 + 256 * i
/-- OD 0xA300+p.03 RestoreTime (R503, 16_rdma.md). -/
abbrev Od.restoreTime (i : Nat) : Nat := 0xA30003 + 256 * i
/-- OD 0xA300+p.04 WatchdogAction (R503, 16_rdma.md). -/
abbrev Od.watchdogAction (i : Nat) : Nat := 0xA30004 + 256 * i
/-- OD 0xA300+p.05 WatchdogState (R503, 16_rdma.md). -/
abbrev Od.watchdogState (i : Nat) : Nat := 0xA30005 + 256 * i
/-- OD 0xB100.01 SignedCommand (R528, 17_keystone_kiln.md). -/
abbrev Od.signedCommand : Nat := 0xB10001
/-- OD 0xB100.02 CommandCounter (R528, 17_keystone_kiln.md). -/
abbrev Od.commandCounter : Nat := 0xB10002
/-- OD 0xB100.03 LastCommandStatus (R528, 17_keystone_kiln.md). -/
abbrev Od.lastCommandStatus : Nat := 0xB10003
/-- OD 0xB200.01–04 ImageKeyRevoked (R528, 17_keystone_kiln.md). -/
abbrev Od.imageKeyRevoked (j : Nat) : Nat := 0xB20001 + j
/-- OD 0xB200.05–08 MicrocodeKeyRevoked (R528, 17_keystone_kiln.md). -/
abbrev Od.microcodeKeyRevoked (j : Nat) : Nat := 0xB20005 + j
/-- OD 0xB200.09 FusedSvn (R528, 17_keystone_kiln.md). -/
abbrev Od.fusedSvn : Nat := 0xB20009
/-- OD 0xB200.0A RevokeImageKey (R528, 17_keystone_kiln.md). -/
abbrev Od.revokeImageKey : Nat := 0xB2000A
/-- OD 0xB200.0B RevokeMicrocodeKey (R528, 17_keystone_kiln.md). -/
abbrev Od.revokeMicrocodeKey : Nat := 0xB2000B
/-- OD 0xB200.0C RaiseSvn (R528, 17_keystone_kiln.md). -/
abbrev Od.raiseSvn : Nat := 0xB2000C
/-- OD 0xB210+i.01 OwnerKey (R528, 17_keystone_kiln.md). -/
abbrev Od.ownerKey (i : Nat) : Nat := 0xB21001 + 256 * i
/-- OD 0xB300+t.01 TileSleep (R528, 17_keystone_kiln.md). -/
abbrev Od.tileSleep (i : Nat) : Nat := 0xB30001 + 256 * i
/-- OD 0xB300+t.02 WakeState (R528, 17_keystone_kiln.md). -/
abbrev Od.wakeState (i : Nat) : Nat := 0xB30002 + 256 * i
/-- OD 0xB400.01 Measurements (R528, 17_keystone_kiln.md). -/
abbrev Od.measurements : Nat := 0xB40001
/-- OD 0xB400.02 CertificateChain (R528, 17_keystone_kiln.md). -/
abbrev Od.certificateChain : Nat := 0xB40002
/-- OD 0xB500.01 MgmtMac (R554, 18_dictionary_management.md). -/
abbrev Od.mgmtMac : Nat := 0xB50001
/-- OD 0xB500.02 MgmtIpv4 (R554, 18_dictionary_management.md). -/
abbrev Od.mgmtIpv4 : Nat := 0xB50002
/-- OD 0xB500.03 MgmtIpv4Prefix (R554, 18_dictionary_management.md). -/
abbrev Od.mgmtIpv4Prefix : Nat := 0xB50003
/-- OD 0xB500.04 MgmtGateway (R554, 18_dictionary_management.md). -/
abbrev Od.mgmtGateway : Nat := 0xB50004
/-- OD 0xB500.05 MgmtIpv6 (R554, 18_dictionary_management.md). -/
abbrev Od.mgmtIpv6 : Nat := 0xB50005
/-- OD 0xB500.06 MgmtIpv6Prefix (R554, 18_dictionary_management.md). -/
abbrev Od.mgmtIpv6Prefix : Nat := 0xB50006
/-- OD 0xB500.07 MgmtVid (R554, 18_dictionary_management.md). -/
abbrev Od.mgmtVid : Nat := 0xB50007
/-- OD 0xB500.08 BlpUdpPort (R554, 18_dictionary_management.md). -/
abbrev Od.blpUdpPort : Nat := 0xB50008
/-- OD 0xB500.09 MgmtAllowList (R554, 18_dictionary_management.md). -/
abbrev Od.mgmtAllowList : Nat := 0xB50009
/-- OD 0xC000.01–02 SlotSequence (R512, 17_keystone_kiln.md). -/
abbrev Od.slotSequence (j : Nat) : Nat := 0xC00001 + j
/-- OD 0xC000.03 ActiveSlot (R512, 17_keystone_kiln.md). -/
abbrev Od.activeSlot : Nat := 0xC00003
/-- OD 0xC000.04 SlotCodes (R528, 17_keystone_kiln.md). -/
abbrev Od.slotCodes : Nat := 0xC00004
/-- OD 0xC100.01 ImageDownload (R528, 17_keystone_kiln.md). -/
abbrev Od.imageDownload : Nat := 0xC10001
/-- OD 0xC100.02 ImageCommit (R528, 17_keystone_kiln.md). -/
abbrev Od.imageCommit : Nat := 0xC10002
/-- OD 0xC100.03 ActivateSlot (R528, 17_keystone_kiln.md). -/
abbrev Od.activateSlot : Nat := 0xC10003
/-- OD 0xC100.04 SlotErase (R528, 17_keystone_kiln.md). -/
abbrev Od.slotErase : Nat := 0xC10004
/-- OD 0xC100.05 SlotStatus (R528, 17_keystone_kiln.md). -/
abbrev Od.slotStatus : Nat := 0xC10005
/-- OD 0xC200.01 ActivationStatus (R572, 19_continuous_service.md). -/
abbrev Od.activationStatus : Nat := 0xC20001
/-- OD 0xD000+p.01 RxFrames (R175, 05_lanes_ports_links.md). -/
abbrev Od.rxFrames (i : Nat) : Nat := 0xD00001 + 256 * i
/-- OD 0xD000+p.02 RxOctets (R175, 05_lanes_ports_links.md). -/
abbrev Od.rxOctets (i : Nat) : Nat := 0xD00002 + 256 * i
/-- OD 0xD000+p.03 TxFrames (R175, 05_lanes_ports_links.md). -/
abbrev Od.txFrames (i : Nat) : Nat := 0xD00003 + 256 * i
/-- OD 0xD000+p.04 TxOctets (R175, 05_lanes_ports_links.md). -/
abbrev Od.txOctets (i : Nat) : Nat := 0xD00004 + 256 * i
/-- OD 0xD000+p.05 RxFcsErrors (R175, 05_lanes_ports_links.md). -/
abbrev Od.rxFcsErrors (i : Nat) : Nat := 0xD00005 + 256 * i
/-- OD 0xD000+p.06 RxRunts (R175, 05_lanes_ports_links.md). -/
abbrev Od.rxRunts (i : Nat) : Nat := 0xD00006 + 256 * i
/-- OD 0xD000+p.07 RxOversize (R175, 05_lanes_ports_links.md). -/
abbrev Od.rxOversize (i : Nat) : Nat := 0xD00007 + 256 * i
/-- OD 0xD000+p.08 RxPauseDiscarded (R175, 05_lanes_ports_links.md). -/
abbrev Od.rxPauseDiscarded (i : Nat) : Nat := 0xD00008 + 256 * i
/-- OD 0xD000+p.09 RxPfcFrames (R175, 05_lanes_ports_links.md). -/
abbrev Od.rxPfcFrames (i : Nat) : Nat := 0xD00009 + 256 * i
/-- OD 0xD000+p.0A TxPfcFrames (R175, 05_lanes_ports_links.md). -/
abbrev Od.txPfcFrames (i : Nat) : Nat := 0xD0000A + 256 * i
/-- OD 0xD000+p.0B RxMacControlDiscarded (R175, 05_lanes_ports_links.md). -/
abbrev Od.rxMacControlDiscarded (i : Nat) : Nat := 0xD0000B + 256 * i
/-- OD 0xD000+p.0C RxLldpDiscarded (R175, 05_lanes_ports_links.md). -/
abbrev Od.rxLldpDiscarded (i : Nat) : Nat := 0xD0000C + 256 * i
/-- OD 0xD000+p.0D RxNotUp (R175, 05_lanes_ports_links.md). -/
abbrev Od.rxNotUp (i : Nat) : Nat := 0xD0000D + 256 * i
/-- OD 0xD000+p.0E FecCorrectedCodewords (R175, 05_lanes_ports_links.md). -/
abbrev Od.fecCorrectedCodewords (i : Nat) : Nat := 0xD0000E + 256 * i
/-- OD 0xD000+p.0F FecUncorrectedCodewords (R175, 05_lanes_ports_links.md). -/
abbrev Od.fecUncorrectedCodewords (i : Nat) : Nat := 0xD0000F + 256 * i
/-- OD 0xD000+p.10 FecCorrectedSymbols (R175, 05_lanes_ports_links.md). -/
abbrev Od.fecCorrectedSymbols (i : Nat) : Nat := 0xD00010 + 256 * i
/-- OD 0xD000+p.11 PcsErroredBlocks (R175, 05_lanes_ports_links.md). -/
abbrev Od.pcsErroredBlocks (i : Nat) : Nat := 0xD00011 + 256 * i
/-- OD 0xD000+p.12 LinkUpCount (R175, 05_lanes_ports_links.md). -/
abbrev Od.linkUpCount (i : Nat) : Nat := 0xD00012 + 256 * i
/-- OD 0xD000+p.13 LinkDownEvents (R175, 05_lanes_ports_links.md). -/
abbrev Od.linkDownEvents (i : Nat) : Nat := 0xD00013 + 256 * i
/-- OD 0xD000+p.14 LinkGlitches (R175, 05_lanes_ports_links.md). -/
abbrev Od.linkGlitches (i : Nat) : Nat := 0xD00014 + 256 * i
/-- OD 0xD000+p.15 AnFailures (R175, 05_lanes_ports_links.md). -/
abbrev Od.anFailures (i : Nat) : Nat := 0xD00015 + 256 * i
/-- OD 0xD000+p.16 TrainingFailures (R175, 05_lanes_ports_links.md). -/
abbrev Od.trainingFailures (i : Nat) : Nat := 0xD00016 + 256 * i
/-- OD 0xD000+p.17 LocalFaults (R175, 05_lanes_ports_links.md). -/
abbrev Od.localFaults (i : Nat) : Nat := 0xD00017 + 256 * i
/-- OD 0xD000+p.18 RemoteFaults (R175, 05_lanes_ports_links.md). -/
abbrev Od.remoteFaults (i : Nat) : Nat := 0xD00018 + 256 * i
/-- OD 0xD000+p.20–27 TailDropFrames (R220, 06_switch_core.md). -/
abbrev Od.tailDropFrames (i j : Nat) : Nat := 0xD00020 + 256 * i + j
/-- OD 0xD000+p.28–2F TailDropBricks (R220, 06_switch_core.md). -/
abbrev Od.tailDropBricks (i j : Nat) : Nat := 0xD00028 + 256 * i + j
/-- OD 0xD000+p.30 FlushedFrames (R220, 06_switch_core.md). -/
abbrev Od.flushedFrames (i : Nat) : Nat := 0xD00030 + 256 * i
/-- OD 0xD000+p.31 FlushedBricks (R220, 06_switch_core.md). -/
abbrev Od.flushedBricks (i : Nat) : Nat := 0xD00031 + 256 * i
/-- OD 0xD000+p.32 TxStomped (R220, 06_switch_core.md). -/
abbrev Od.txStomped (i : Nat) : Nat := 0xD00032 + 256 * i
/-- OD 0xD000+p.33 TxPortDown (R220, 06_switch_core.md). -/
abbrev Od.txPortDown (i : Nat) : Nat := 0xD00033 + 256 * i
/-- OD 0xD000+p.34 LaunchLate (R220, 06_switch_core.md). -/
abbrev Od.launchLate (i : Nat) : Nat := 0xD00034 + 256 * i
/-- OD 0xD000+p.35 LaunchGateClosed (R220, 06_switch_core.md). -/
abbrev Od.launchGateClosed (i : Nat) : Nat := 0xD00035 + 256 * i
/-- OD 0xD000+p.36 LaunchBeyondHorizon (R220, 06_switch_core.md). -/
abbrev Od.launchBeyondHorizon (i : Nat) : Nat := 0xD00036 + 256 * i
/-- OD 0xD000+p.37 LaunchListFull (R220, 06_switch_core.md). -/
abbrev Od.launchListFull (i : Nat) : Nat := 0xD00037 + 256 * i
/-- OD 0xD000+p.38 LosslessDrops (R220, 06_switch_core.md). -/
abbrev Od.losslessDrops (i : Nat) : Nat := 0xD00038 + 256 * i
/-- OD 0xD000+p.39 HeadroomFrames (R220, 06_switch_core.md). -/
abbrev Od.headroomFrames (i : Nat) : Nat := 0xD00039 + 256 * i
/-- OD 0xD000+p.3A MirrorDrops (R220, 06_switch_core.md). -/
abbrev Od.mirrorDrops (i : Nat) : Nat := 0xD0003A + 256 * i
/-- OD 0xD000+p.3B HostLoopbackFrames (R220, 06_switch_core.md). -/
abbrev Od.hostLoopbackFrames (i : Nat) : Nat := 0xD0003B + 256 * i
/-- OD 0xD000+p.3C LaunchIgnored (R220, 06_switch_core.md). -/
abbrev Od.launchIgnored (i : Nat) : Nat := 0xD0003C + 256 * i
/-- OD 0xD000+p.40 VlanIngressDrops (R253, 07_forwarding.md). -/
abbrev Od.vlanIngressDrops (i : Nat) : Nat := 0xD00040 + 256 * i
/-- OD 0xD000+p.41 VlanInvalidDrops (R253, 07_forwarding.md). -/
abbrev Od.vlanInvalidDrops (i : Nat) : Nat := 0xD00041 + 256 * i
/-- OD 0xD000+p.42 InvalidSource (R253, 07_forwarding.md). -/
abbrev Od.invalidSource (i : Nat) : Nat := 0xD00042 + 256 * i
/-- OD 0xD000+p.43 FilteredSamePort (R253, 07_forwarding.md). -/
abbrev Od.filteredSamePort (i : Nat) : Nat := 0xD00043 + 256 * i
/-- OD 0xD000+p.44 FdbDropFrames (R253, 07_forwarding.md). -/
abbrev Od.fdbDropFrames (i : Nat) : Nat := 0xD00044 + 256 * i
/-- OD 0xD000+p.45 LearnRateDrops (R253, 07_forwarding.md). -/
abbrev Od.learnRateDrops (i : Nat) : Nat := 0xD00045 + 256 * i
/-- OD 0xD000+p.46 LearnLimitDrops (R253, 07_forwarding.md). -/
abbrev Od.learnLimitDrops (i : Nat) : Nat := 0xD00046 + 256 * i
/-- OD 0xD000+p.47 MovesRefused (R253, 07_forwarding.md). -/
abbrev Od.movesRefused (i : Nat) : Nat := 0xD00047 + 256 * i
/-- OD 0xD000+p.48 MoveSuppressed (R253, 07_forwarding.md). -/
abbrev Od.moveSuppressed (i : Nat) : Nat := 0xD00048 + 256 * i
/-- OD 0xD000+p.49 StaticViolations (R253, 07_forwarding.md). -/
abbrev Od.staticViolations (i : Nat) : Nat := 0xD00049 + 256 * i
/-- OD 0xD000+p.50–56 ParseStatus (R287, 08_parsing_classification.md). -/
abbrev Od.parseStatus (i j : Nat) : Nat := 0xD00050 + 256 * i + j
/-- OD 0xD000+p.57 Fragments (R287, 08_parsing_classification.md). -/
abbrev Od.fragments (i : Nat) : Nat := 0xD00057 + 256 * i
/-- OD 0xD000+p.58 LinkLocalDrops (R287, 08_parsing_classification.md). -/
abbrev Od.linkLocalDrops (i : Nat) : Nat := 0xD00058 + 256 * i
/-- OD 0xD000+p.59 RoceFragmentDrops (R287, 08_parsing_classification.md). -/
abbrev Od.roceFragmentDrops (i : Nat) : Nat := 0xD00059 + 256 * i
/-- OD 0xD000+p.5A CipherFragmentDrops (R287, 08_parsing_classification.md). -/
abbrev Od.cipherFragmentDrops (i : Nat) : Nat := 0xD0005A + 256 * i
/-- OD 0xD000+p.5B InnerDecryptRefused (R287, 08_parsing_classification.md). -/
abbrev Od.innerDecryptRefused (i : Nat) : Nat := 0xD0005B + 256 * i
/-- OD 0xD000+p.60 GuardBandDeferrals (R341, 10_scheduling_shaping.md). -/
abbrev Od.guardBandDeferrals (i : Nat) : Nat := 0xD00060 + 256 * i
/-- OD 0xD000+p.61 GateOverruns (R341, 10_scheduling_shaping.md). -/
abbrev Od.gateOverruns (i : Nat) : Nat := 0xD00061 + 256 * i
/-- OD 0xD000+p.62 SampleDrops (R341, 10_scheduling_shaping.md). -/
abbrev Od.sampleDrops (i : Nat) : Nat := 0xD00062 + 256 * i
/-- OD 0xD000+p.70 MacsecRxOk (R368, 11_cipher.md). -/
abbrev Od.macsecRxOk (i : Nat) : Nat := 0xD00070 + 256 * i
/-- OD 0xD000+p.71 MacsecRxUntagged (R368, 11_cipher.md). -/
abbrev Od.macsecRxUntagged (i : Nat) : Nat := 0xD00071 + 256 * i
/-- OD 0xD000+p.72 MacsecRxNoSci (R368, 11_cipher.md). -/
abbrev Od.macsecRxNoSci (i : Nat) : Nat := 0xD00072 + 256 * i
/-- OD 0xD000+p.73 MacsecRxNotValid (R368, 11_cipher.md). -/
abbrev Od.macsecRxNotValid (i : Nat) : Nat := 0xD00073 + 256 * i
/-- OD 0xD000+p.74 MacsecRxLate (R368, 11_cipher.md). -/
abbrev Od.macsecRxLate (i : Nat) : Nat := 0xD00074 + 256 * i
/-- OD 0xD000+p.75 MacsecTxProtected (R368, 11_cipher.md). -/
abbrev Od.macsecTxProtected (i : Nat) : Nat := 0xD00075 + 256 * i
/-- OD 0xD000+p.76 MacsecTxNoSa (R368, 11_cipher.md). -/
abbrev Od.macsecTxNoSa (i : Nat) : Nat := 0xD00076 + 256 * i
/-- OD 0xD000+p.77 SealedDrops (R368, 11_cipher.md). -/
abbrev Od.sealedDrops (i : Nat) : Nat := 0xD00077 + 256 * i
/-- OD 0xD000+p.78 CipherVerifyFailures (R368, 11_cipher.md). -/
abbrev Od.cipherVerifyFailures (i : Nat) : Nat := 0xD00078 + 256 * i
/-- OD 0xD000+p.79 EspSpiMismatch (R368, 11_cipher.md). -/
abbrev Od.espSpiMismatch (i : Nat) : Nat := 0xD00079 + 256 * i
/-- OD 0xD000+p.7A EspReplay (R368, 11_cipher.md). -/
abbrev Od.espReplay (i : Nat) : Nat := 0xD0007A + 256 * i
/-- OD 0xD000+p.7B EspSeqExhausted (R368, 11_cipher.md). -/
abbrev Od.espSeqExhausted (i : Nat) : Nat := 0xD0007B + 256 * i
/-- OD 0xD000+p.7C CipherOversize (R368, 11_cipher.md). -/
abbrev Od.cipherOversize (i : Nat) : Nat := 0xD0007C + 256 * i
/-- OD 0xD000+p.80 WatchdogDrops (R504, 16_rdma.md). -/
abbrev Od.watchdogDrops (i : Nat) : Nat := 0xD00080 + 256 * i
/-- OD 0xD100+t.01 PolicerCounters (R341, 10_scheduling_shaping.md). -/
abbrev Od.policerCounters (i : Nat) : Nat := 0xD10001 + 256 * i
/-- OD 0xD300+id.01 Suspensions (R368, 11_cipher.md). -/
abbrev Od.suspensions (i : Nat) : Nat := 0xD30001 + 256 * i
/-- OD 0xD300+id.02–05 RequestsAtUrgency (R368, 11_cipher.md). -/
abbrev Od.requestsAtUrgency (i j : Nat) : Nat := 0xD30002 + 256 * i + j
/-- OD 0xD300+id.06 LookAsideErrors (R368, 11_cipher.md). -/
abbrev Od.lookAsideErrors (i : Nat) : Nat := 0xD30006 + 256 * i
/-- OD 0xD400+n.01 Allocations (R387, 12_hod.md). -/
abbrev Od.allocations (i : Nat) : Nat := 0xD40001 + 256 * i
/-- OD 0xD400+n.02 Returns (R387, 12_hod.md). -/
abbrev Od.returns (i : Nat) : Nat := 0xD40002 + 256 * i
/-- OD 0xD400+n.03 AllocFailures (R387, 12_hod.md). -/
abbrev Od.allocFailures (i : Nat) : Nat := 0xD40003 + 256 * i
/-- OD 0xD400+n.04 RefusedCommands (R387, 12_hod.md). -/
abbrev Od.refusedCommands (i : Nat) : Nat := 0xD40004 + 256 * i
/-- OD 0xD400+n.05 HodRxDrops (R387, 12_hod.md). -/
abbrev Od.hodRxDrops (i : Nat) : Nat := 0xD40005 + 256 * i
/-- OD 0xD400+n.06 FreeMin (R387, 12_hod.md). -/
abbrev Od.freeMin (i : Nat) : Nat := 0xD40006 + 256 * i
/-- OD 0xD400+n.07 QuarantinedUnits (R387, 12_hod.md). -/
abbrev Od.quarantinedUnits (i : Nat) : Nat := 0xD40007 + 256 * i
/-- OD 0xD500+f.01 UnexpectedCompletions (R422, 13_host_endpoint.md). -/
abbrev Od.unexpectedCompletions (i : Nat) : Nat := 0xD50001 + 256 * i
/-- OD 0xD500+f.02 CompletionTimeouts (R422, 13_host_endpoint.md). -/
abbrev Od.completionTimeouts (i : Nat) : Nat := 0xD50002 + 256 * i
/-- OD 0xD500+f.03 UrSent (R422, 13_host_endpoint.md). -/
abbrev Od.urSent (i : Nat) : Nat := 0xD50003 + 256 * i
/-- OD 0xD500+f.04 PeerPostedDropped (R422, 13_host_endpoint.md). -/
abbrev Od.peerPostedDropped (i : Nat) : Nat := 0xD50004 + 256 * i
/-- OD 0xD500+f.05 PoisonedReceived (R422, 13_host_endpoint.md). -/
abbrev Od.poisonedReceived (i : Nat) : Nat := 0xD50005 + 256 * i
/-- OD 0xD500+f.06 PoisonForwarded (R422, 13_host_endpoint.md). -/
abbrev Od.poisonForwarded (i : Nat) : Nat := 0xD50006 + 256 * i
/-- OD 0xD500+f.07 BmeDiscards (R422, 13_host_endpoint.md). -/
abbrev Od.bmeDiscards (i : Nat) : Nat := 0xD50007 + 256 * i
/-- OD 0xD500+f.08 RxNoBuffer (R422, 13_host_endpoint.md). -/
abbrev Od.rxNoBuffer (i : Nat) : Nat := 0xD50008 + 256 * i
/-- OD 0xD500+f.09 RxHalted (R422, 13_host_endpoint.md). -/
abbrev Od.rxHalted (i : Nat) : Nat := 0xD50009 + 256 * i
/-- OD 0xD500+f.0A TxOversize (R422, 13_host_endpoint.md). -/
abbrev Od.txOversize (i : Nat) : Nat := 0xD5000A + 256 * i
/-- OD 0xD500+f.0B ClassDowngrades (R422, 13_host_endpoint.md). -/
abbrev Od.classDowngrades (i : Nat) : Nat := 0xD5000B + 256 * i
/-- OD 0xD500+f.0C InterruptsRefused (R422, 13_host_endpoint.md). -/
abbrev Od.interruptsRefused (i : Nat) : Nat := 0xD5000C + 256 * i
/-- OD 0xD500+f.0D MisalignedAccess (R422, 13_host_endpoint.md). -/
abbrev Od.misalignedAccess (i : Nat) : Nat := 0xD5000D + 256 * i
/-- OD 0xD500+f.0E ShadowWriteBusy (R422, 13_host_endpoint.md). -/
abbrev Od.shadowWriteBusy (i : Nat) : Nat := 0xD5000E + 256 * i
/-- OD 0xD500+f.0F MessagesDropped (R422, 13_host_endpoint.md). -/
abbrev Od.messagesDropped (i : Nat) : Nat := 0xD5000F + 256 * i
/-- OD 0xD600.01 SliceCounters (R441, 14_slices.md). -/
abbrev Od.sliceCounters : Nat := 0xD60001
/-- OD 0xD700.01 NamespaceCounters (R474, 15_storage.md). -/
abbrev Od.namespaceCounters : Nat := 0xD70001
/-- OD 0xD710+s.01 LockWaits (R474, 15_storage.md). -/
abbrev Od.lockWaits (i : Nat) : Nat := 0xD71001 + 256 * i
/-- OD 0xD710+s.02 StagingWaits (R474, 15_storage.md). -/
abbrev Od.stagingWaits (i : Nat) : Nat := 0xD71002 + 256 * i
/-- OD 0xD710+s.03 LateBackingCompletions (R474, 15_storage.md). -/
abbrev Od.lateBackingCompletions (i : Nat) : Nat := 0xD71003 + 256 * i
/-- OD 0xD710+s.04 RemoteMalformed (R474, 15_storage.md). -/
abbrev Od.remoteMalformed (i : Nat) : Nat := 0xD71004 + 256 * i
/-- OD 0xD720.01–04 SsdInboundRefused (R474, 15_storage.md). -/
abbrev Od.ssdInboundRefused (j : Nat) : Nat := 0xD72001 + j
/-- OD 0xD740+s.01 IcrcErrors (R504, 16_rdma.md). -/
abbrev Od.icrcErrors (i : Nat) : Nat := 0xD74001 + 256 * i
/-- OD 0xD740+s.02 UnknownQp (R504, 16_rdma.md). -/
abbrev Od.unknownQp (i : Nat) : Nat := 0xD74002 + 256 * i
/-- OD 0xD740+s.03 OutOfSequence (R504, 16_rdma.md). -/
abbrev Od.outOfSequence (i : Nat) : Nat := 0xD74003 + 256 * i
/-- OD 0xD740+s.04 ReplayMiss (R504, 16_rdma.md). -/
abbrev Od.replayMiss (i : Nat) : Nat := 0xD74004 + 256 * i
/-- OD 0xD740+s.05 LateResponses (R504, 16_rdma.md). -/
abbrev Od.lateResponses (i : Nat) : Nat := 0xD74005 + 256 * i
/-- OD 0xD740+s.06 SendStampInvalid (R504, 16_rdma.md). -/
abbrev Od.sendStampInvalid (i : Nat) : Nat := 0xD74006 + 256 * i
/-- OD 0xD740+s.07 DelayFallbacks (R504, 16_rdma.md). -/
abbrev Od.delayFallbacks (i : Nat) : Nat := 0xD74007 + 256 * i
/-- OD 0xD740+s.08 CnpDiscarded (R504, 16_rdma.md). -/
abbrev Od.cnpDiscarded (i : Nat) : Nat := 0xD74008 + 256 * i
/-- OD 0xD740+s.09 QuiesceDiscards (R504, 16_rdma.md). -/
abbrev Od.quiesceDiscards (i : Nat) : Nat := 0xD74009 + 256 * i
/-- OD 0xD740+s.0A ModeDiscards (R504, 16_rdma.md). -/
abbrev Od.modeDiscards (i : Nat) : Nat := 0xD7400A + 256 * i
/-- OD 0xD740+s.0B DoorbellRefused (R504, 16_rdma.md). -/
abbrev Od.doorbellRefused (i : Nat) : Nat := 0xD7400B + 256 * i
/-- OD 0xD740+s.0C AsyncEvents (R504, 16_rdma.md). -/
abbrev Od.asyncEvents (i : Nat) : Nat := 0xD7400C + 256 * i
/-- OD 0xD740+s.0D Retransmissions (R504, 16_rdma.md). -/
abbrev Od.retransmissions (i : Nat) : Nat := 0xD7400D + 256 * i
/-- OD 0xD740+s.0E RnrNaksSent (R504, 16_rdma.md). -/
abbrev Od.rnrNaksSent (i : Nat) : Nat := 0xD7400E + 256 * i
/-- OD 0xD740+s.0F RemoteAccessNaks (R504, 16_rdma.md). -/
abbrev Od.remoteAccessNaks (i : Nat) : Nat := 0xD7400F + 256 * i
/-- OD 0xD740+s.10 DuplicatesAcked (R504, 16_rdma.md). -/
abbrev Od.duplicatesAcked (i : Nat) : Nat := 0xD74010 + 256 * i
/-- OD 0xD800+id.01–06 BricksInjected (R54, 01_tiles_and_mortar.md). -/
abbrev Od.bricksInjected (i j : Nat) : Nat := 0xD80001 + 256 * i + j
/-- OD 0xD800+id.07 LentSlotsUsed (R54, 01_tiles_and_mortar.md). -/
abbrev Od.lentSlotsUsed (i : Nat) : Nat := 0xD80007 + 256 * i
/-- OD 0xD800+id.08 CorrectedErrors (R54, 01_tiles_and_mortar.md). -/
abbrev Od.correctedErrors (i : Nat) : Nat := 0xD80008 + 256 * i
/-- OD 0xD800+id.09 UncorrectedErrors (R54, 01_tiles_and_mortar.md). -/
abbrev Od.uncorrectedErrors (i : Nat) : Nat := 0xD80009 + 256 * i
/-- OD 0xD900+q.01 AlignedReleased (R220, 06_switch_core.md). -/
abbrev Od.alignedReleased (i : Nat) : Nat := 0xD90001 + 256 * i
/-- OD 0xD900+q.02 AlignedLate (R220, 06_switch_core.md). -/
abbrev Od.alignedLate (i : Nat) : Nat := 0xD90002 + 256 * i
/-- OD 0xD900+q.03 AlignedOverflow (R220, 06_switch_core.md). -/
abbrev Od.alignedOverflow (i : Nat) : Nat := 0xD90003 + 256 * i
/-- OD 0xD900+q.04 AlignedRateExceeded (R220, 06_switch_core.md). -/
abbrev Od.alignedRateExceeded (i : Nat) : Nat := 0xD90004 + 256 * i
/-- OD 0xDA00.01 StreamLateFrames (R220, 06_switch_core.md). -/
abbrev Od.streamLateFrames : Nat := 0xDA0001
/-- OD 0xDB00.01 FdbBucketFull (R253, 07_forwarding.md). -/
abbrev Od.fdbBucketFull : Nat := 0xDB0001
/-- OD 0xDB00.02 NotifyDrops (R253, 07_forwarding.md). -/
abbrev Od.notifyDrops : Nat := 0xDB0002
/-- OD 0xDB00.03 HbmLookupOverrun (R253, 07_forwarding.md). -/
abbrev Od.hbmLookupOverrun : Nat := 0xDB0003
/-- OD 0xDB10.01 KeystoneRefused (R528, 17_keystone_kiln.md). -/
abbrev Od.keystoneRefused : Nat := 0xDB1001
/-- OD 0xDB10.02 CommandRejected (R528, 17_keystone_kiln.md). -/
abbrev Od.commandRejected : Nat := 0xDB1002
/-- OD 0xDB30.01 RefusedWrites (R555, 18_dictionary_management.md). -/
abbrev Od.refusedWrites : Nat := 0xDB3001
/-- OD 0xDB30.02 BlpFramesDiscarded (R555, 18_dictionary_management.md). -/
abbrev Od.blpFramesDiscarded : Nat := 0xDB3002
/-- OD 0xDB30.03 OpenFailures (R555, 18_dictionary_management.md). -/
abbrev Od.openFailures : Nat := 0xDB3003
/-- OD 0xDB30.04 Retransmitted (R555, 18_dictionary_management.md). -/
abbrev Od.retransmitted : Nat := 0xDB3004
/-- OD 0xDB30.05 OutOfOrderDiscarded (R555, 18_dictionary_management.md). -/
abbrev Od.outOfOrderDiscarded : Nat := 0xDB3005
/-- OD 0xDB30.06 MailboxRefused (R555, 18_dictionary_management.md). -/
abbrev Od.mailboxRefused : Nat := 0xDB3006
/-- OD 0xDB30.07 ApplyRetries (R555, 18_dictionary_management.md). -/
abbrev Od.applyRetries : Nat := 0xDB3007
/-- OD 0xDB30.08 EventsOverwritten (R555, 18_dictionary_management.md). -/
abbrev Od.eventsOverwritten : Nat := 0xDB3008
/-- OD 0xDB30.09 EventsSuppressed (R555, 18_dictionary_management.md). -/
abbrev Od.eventsSuppressed : Nat := 0xDB3009
/-- OD 0xDB30.0A MgmtDiscarded (R555, 18_dictionary_management.md). -/
abbrev Od.mgmtDiscarded : Nat := 0xDB300A
/-- OD 0xDB30.0B MgmtRateDrops (R555, 18_dictionary_management.md). -/
abbrev Od.mgmtRateDrops : Nat := 0xDB300B
/-- OD 0xDB30.0C PrpDuplicates (R555, 18_dictionary_management.md). -/
abbrev Od.prpDuplicates : Nat := 0xDB300C
/-- OD 0xDB30.0D PrpWrongLan (R555, 18_dictionary_management.md). -/
abbrev Od.prpWrongLan : Nat := 0xDB300D
/-- OD 0xDB50.01 SramCorrected (R573, 19_continuous_service.md). -/
abbrev Od.sramCorrected : Nat := 0xDB5001
/-- OD 0xDB50.02 SramUncorrected (R573, 19_continuous_service.md). -/
abbrev Od.sramUncorrected : Nat := 0xDB5002
/-- OD 0xDB50.03 HbmCorrected (R573, 19_continuous_service.md). -/
abbrev Od.hbmCorrected : Nat := 0xDB5003
/-- OD 0xDB50.04 HbmUncorrected (R573, 19_continuous_service.md). -/
abbrev Od.hbmUncorrected : Nat := 0xDB5004
/-- OD 0xDB50.05 HbmRowsRepaired (R573, 19_continuous_service.md). -/
abbrev Od.hbmRowsRepaired : Nat := 0xDB5005
/-- OD 0xDB50.06 TableEntriesReloaded (R573, 19_continuous_service.md). -/
abbrev Od.tableEntriesReloaded : Nat := 0xDB5006
/-- OD 0xDB50.07 TileFirmwareRestarts (R573, 19_continuous_service.md). -/
abbrev Od.tileFirmwareRestarts : Nat := 0xDB5007
/-- OD 0xDB70.01 MonFramingErrors (R585, 20_lamil_monitor.md). -/
abbrev Od.monFramingErrors : Nat := 0xDB7001
/-- OD 0xDB70.02 MonRxOverflow (R585, 20_lamil_monitor.md). -/
abbrev Od.monRxOverflow : Nat := 0xDB7002
/-- OD 0xDB70.03 MonLineTooLong (R585, 20_lamil_monitor.md). -/
abbrev Od.monLineTooLong : Nat := 0xDB7003
/-- OD 0xDB70.04 MonBaudFailures (R585, 20_lamil_monitor.md). -/
abbrev Od.monBaudFailures : Nat := 0xDB7004
/-- OD 0xDB70.05 MonBlockDiscarded (R585, 20_lamil_monitor.md). -/
abbrev Od.monBlockDiscarded : Nat := 0xDB7005
/-- OD 0xDB70.06 UnlockFailures (R585, 20_lamil_monitor.md). -/
abbrev Od.unlockFailures : Nat := 0xDB7006
/-- OD 0xDB90.01 ResetGlitches (R606, 21_package_power_clocks.md). -/
abbrev Od.resetGlitches : Nat := 0xDB9001
/-- OD 0xDC00.01 WallForeign (R253, 07_forwarding.md). -/
abbrev Od.wallForeign : Nat := 0xDC0001
/-- OD 0xDC00.02 HopStampInvalid (R253, 07_forwarding.md). -/
abbrev Od.hopStampInvalid : Nat := 0xDC0002
/-- OD 0xDC00.03 SyncDiscarded (R253, 07_forwarding.md). -/
abbrev Od.syncDiscarded : Nat := 0xDC0003
/-- OD 0xDC00.04 HelloDiscarded (R253, 07_forwarding.md). -/
abbrev Od.helloDiscarded : Nat := 0xDC0004
/-- OD 0xDD00+r.01 DuplicatesDiscarded (R253, 07_forwarding.md). -/
abbrev Od.duplicatesDiscarded (i : Nat) : Nat := 0xDD0001 + 256 * i
/-- OD 0xDD00+r.02 OutOfWindow (R253, 07_forwarding.md). -/
abbrev Od.outOfWindow (i : Nat) : Nat := 0xDD0002 + 256 * i
/-- OD 0xDD00+r.03 NodeTableFull (R253, 07_forwarding.md). -/
abbrev Od.nodeTableFull (i : Nat) : Nat := 0xDD0003 + 256 * i
/-- OD 0xDD00+r.04 WrongLan (R253, 07_forwarding.md). -/
abbrev Od.wrongLan (i : Nat) : Nat := 0xDD0004 + 256 * i
/-- OD 0xDD00+r.05 HsrRemoved (R253, 07_forwarding.md). -/
abbrev Od.hsrRemoved (i : Nat) : Nat := 0xDD0005 + 256 * i
/-- OD 0xDE00+t.01 RuleCounters (R287, 08_parsing_classification.md). -/
abbrev Od.ruleCounters (i : Nat) : Nat := 0xDE0001 + 256 * i
/-- OD 0xDE00+t.02 IngressMisses (R287, 08_parsing_classification.md). -/
abbrev Od.ingressMisses (i : Nat) : Nat := 0xDE0002 + 256 * i
/-- OD 0xDE00+t.03 EgressMisses (R287, 08_parsing_classification.md). -/
abbrev Od.egressMisses (i : Nat) : Nat := 0xDE0003 + 256 * i
/-- OD 0xDE20+x.01 Hits (R287, 08_parsing_classification.md). -/
abbrev Od.hits (i : Nat) : Nat := 0xDE2001 + 256 * i
/-- OD 0xDE20+x.02 Misses (R287, 08_parsing_classification.md). -/
abbrev Od.misses (i : Nat) : Nat := 0xDE2002 + 256 * i
/-- OD 0xDE20+x.03 ExactOverrun (R287, 08_parsing_classification.md). -/
abbrev Od.exactOverrun (i : Nat) : Nat := 0xDE2003 + 256 * i
/-- OD 0xDE40+t.01–08 ExceptionSent (R287, 08_parsing_classification.md). -/
abbrev Od.exceptionSent (i j : Nat) : Nat := 0xDE4001 + 256 * i + j
/-- OD 0xDE40+t.09–10 ExceptionRateDrops (R287, 08_parsing_classification.md). -/
abbrev Od.exceptionRateDrops (i j : Nat) : Nat := 0xDE4009 + 256 * i + j
/-- OD 0xDF00+t.01 FramesDispatchedIngress (R313, 09_trowel_microcode.md). -/
abbrev Od.framesDispatchedIngress (i : Nat) : Nat := 0xDF0001 + 256 * i
/-- OD 0xDF00+t.02 FramesDispatchedEgress (R313, 09_trowel_microcode.md). -/
abbrev Od.framesDispatchedEgress (i : Nat) : Nat := 0xDF0002 + 256 * i
/-- OD 0xDF00+t.03 ProgramFaultsIngress (R313, 09_trowel_microcode.md). -/
abbrev Od.programFaultsIngress (i : Nat) : Nat := 0xDF0003 + 256 * i
/-- OD 0xDF00+t.04 ProgramFaultsEgress (R313, 09_trowel_microcode.md). -/
abbrev Od.programFaultsEgress (i : Nat) : Nat := 0xDF0004 + 256 * i
/-- OD 0xDF00+t.05 EventsSentIngress (R313, 09_trowel_microcode.md). -/
abbrev Od.eventsSentIngress (i : Nat) : Nat := 0xDF0005 + 256 * i
/-- OD 0xDF00+t.06 EventsSentEgress (R313, 09_trowel_microcode.md). -/
abbrev Od.eventsSentEgress (i : Nat) : Nat := 0xDF0006 + 256 * i
/-- OD 0xDF00+t.07 EventDropsIngress (R313, 09_trowel_microcode.md). -/
abbrev Od.eventDropsIngress (i : Nat) : Nat := 0xDF0007 + 256 * i
/-- OD 0xDF00+t.08 EventDropsEgress (R313, 09_trowel_microcode.md). -/
abbrev Od.eventDropsEgress (i : Nat) : Nat := 0xDF0008 + 256 * i
/-- OD 0xDF00+t.09 ClassWriteRefusedIngress (R313, 09_trowel_microcode.md). -/
abbrev Od.classWriteRefusedIngress (i : Nat) : Nat := 0xDF0009 + 256 * i
/-- OD 0xDF00+t.0A ClassWriteRefusedEgress (R313, 09_trowel_microcode.md). -/
abbrev Od.classWriteRefusedEgress (i : Nat) : Nat := 0xDF000A + 256 * i
/-- OD 0xDF00+t.0B CourseHandlerRunsIngress (R313, 09_trowel_microcode.md). -/
abbrev Od.courseHandlerRunsIngress (i : Nat) : Nat := 0xDF000B + 256 * i
/-- OD 0xDF00+t.0C CourseHandlerRunsEgress (R313, 09_trowel_microcode.md). -/
abbrev Od.courseHandlerRunsEgress (i : Nat) : Nat := 0xDF000C + 256 * i
/-- OD 0xDF00+t.0D EngineSubstitutionsIngress (R313, 09_trowel_microcode.md). -/
abbrev Od.engineSubstitutionsIngress (i : Nat) : Nat := 0xDF000D + 256 * i
/-- OD 0xDF00+t.0E EngineSubstitutionsEgress (R313, 09_trowel_microcode.md). -/
abbrev Od.engineSubstitutionsEgress (i : Nat) : Nat := 0xDF000E + 256 * i
/-- OD 0xE000.01 MonitorLevel (R585, 20_lamil_monitor.md). -/
abbrev Od.monitorLevel : Nat := 0xE00001
/-- OD 0xE000.02 MonitorBaud (R585, 20_lamil_monitor.md). -/
abbrev Od.monitorBaud : Nat := 0xE00002
/-- OD 0xE000.03 MonitorIdleTimeout (R585, 20_lamil_monitor.md). -/
abbrev Od.monitorIdleTimeout : Nat := 0xE00003
/-- OD 0xE000.04 MonitorLevelCap (R585, 20_lamil_monitor.md). -/
abbrev Od.monitorLevelCap : Nat := 0xE00004
/-- OD 0xE000.05 RecoveryRequested (R585, 20_lamil_monitor.md). -/
abbrev Od.recoveryRequested : Nat := 0xE00005
/-- OD 0xE100.01 HbmRepairThreshold (R572, 19_continuous_service.md). -/
abbrev Od.hbmRepairThreshold : Nat := 0xE10001
/-- OD 0xE100.02 HbmSpareRows (R572, 19_continuous_service.md). -/
abbrev Od.hbmSpareRows : Nat := 0xE10002
/-- OD 0xE100.03 RetiredPages (R572, 19_continuous_service.md). -/
abbrev Od.retiredPages : Nat := 0xE10003
/-- OD 0xE200.01 TileTemperature (R606, 21_package_power_clocks.md). -/
abbrev Od.tileTemperature : Nat := 0xE20001
/-- OD 0xE200.02 HbmTemperature (R606, 21_package_power_clocks.md). -/
abbrev Od.hbmTemperature : Nat := 0xE20002
/-- OD 0xE200.03 ThermalAlertLimit (R606, 21_package_power_clocks.md). -/
abbrev Od.thermalAlertLimit : Nat := 0xE20003
/-- OD 0xE200.04 MaxTemperature (R606, 21_package_power_clocks.md). -/
abbrev Od.maxTemperature : Nat := 0xE20004
/-- OD 0xE200.05 RailStatus (R606, 21_package_power_clocks.md). -/
abbrev Od.railStatus : Nat := 0xE20005
/-- OD 0xE200.06 LastResetCause (R606, 21_package_power_clocks.md). -/
abbrev Od.lastResetCause : Nat := 0xE20006
/-- OD 0xE200.07 RefclkTimeFrequency (R606, 21_package_power_clocks.md). -/
abbrev Od.refclkTimeFrequency : Nat := 0xE20007
/-- OD 0xE200.08 RefclkSysState (R606, 21_package_power_clocks.md). -/
abbrev Od.refclkSysState : Nat := 0xE20008

/-- Rows of area 0x1 of the entry tables. -/
def odRows1 : List OdRow := [
  ⟨"DeviceType", 0x1000, 1, 0, 1, .u32, aRo, .factory, .any, false, .none⟩,
  ⟨"KilnVersion", 0x1010, 1, 1, 1, .u32, aRo, .factory, .any, false, .none⟩,
  ⟨"KeystoneVersion", 0x1010, 1, 2, 1, .u32, aRo, .factory, .any, false, .none⟩,
  ⟨"TileVersion", 0x1010, 1, 3, 1, .u32, aRo, .factory, .any, false, .none⟩,
  ⟨"MicrocodeVersion", 0x1010, 1, 4, 1, .u32, aRo, .factory, .any, false, .none⟩,
  ⟨"OperatingMode", 0x1100, 1, 1, 1, .u8, aMK, (.lit 0), .between (0) 6, true, .crs⟩,
  ⟨"ModeChangeStatus", 0x1100, 1, 2, 1, .u32, aRo, (.lit 0), .any, false, .none⟩,
  ⟨"ModeInForce", 0x1100, 1, 3, 1, .u8, aRo, (.lit 0), .any, false, .none⟩,
  ⟨"SafeModeCommand", 0x1100, 1, 4, 1, .u8, aKs, (.lit 0), .between (0) 7, false, .crs⟩,
  ⟨"ModeBeforeSafe", 0x1100, 1, 5, 1, .u8, aRo, (.lit 0), .any, false, .none⟩,
  ⟨"SafeModeCause", 0x1100, 1, 6, 1, .u16, aRo, (.lit 0), .any, false, .none⟩,
  ⟨"RepartitionBound", 0x1100, 1, 7, 1, .u64, aRo, (.lit 0), .any, false, .none⟩,
  ⟨"SealedExemptClasses", 0x1110, 1, 1, 1, .u8, aKs, (.lit 0), .any, true, .crs⟩,
  ⟨"BlpVersions", 0x1200, 1, 1, 1, .u8, aRo, (.lit 6), .any, false, .none⟩,
  ⟨"SessionIdleTimeout", 0x1200, 1, 2, 1, .u32, aM, (.lit 300), .between (10) 86400, true, .crs⟩,
  ⟨"SessionLifetime", 0x1200, 1, 3, 1, .u32, aM, (.lit 86400), .between (600) 604800, true, .crs⟩,
  ⟨"TransferTimeout", 0x1200, 1, 4, 1, .u32, aM, (.lit 5000), .between (100) 60000, true, .crs⟩,
  ⟨"SessionTable", 0x1200, 1, 6, 1, .domain, aRo, (.lit 0), .any, false, .none⟩,
  ⟨"CoreDictWindow", 0x1200, 1, 7, 1, .u64, aRo, .factory, .any, false, .none⟩,
  ⟨"ConfigErase", 0x1200, 1, 8, 1, .bool, aKs, (.lit 0), .between 1 1, true, .start⟩,
  ⟨"EventRead", 0x1300, 1, 1, 1, .domain, aMHC, (.lit 0), .any, false, .imm⟩,
  ⟨"OldestEvent", 0x1300, 1, 2, 1, .u64, aRo, (.lit 0), .any, true, .none⟩,
  ⟨"NewestEvent", 0x1300, 1, 3, 1, .u64, aRo, (.lit 0), .any, true, .none⟩,
  ⟨"EventSeverity", 0x1300, 1, 5, 1, .domain, aMHC, (.lit 0), .any, false, .imm⟩]

/-- Rows of area 0x2 of the entry tables. -/
def odRows2a : List OdRow := [
  ⟨"TimeNow", 0x2000, 1, 1, 1, .time96, aRo, (.lit 0), .any, false, .none⟩,
  ⟨"TimeStepOffset", 0x2000, 1, 2, 1, .i64, aKs, (.lit 0), .any, false, .crs⟩,
  ⟨"TimeSet", 0x2000, 1, 3, 1, .time96, aKs, (.lit 0), .any, false, .crs⟩,
  ⟨"UtcOffset", 0x2010, 1, 1, 1, .i16, aK, (.lit 37), .between (-1000) 1000, true, .imm⟩,
  ⟨"LeapPending", 0x2010, 1, 2, 1, .i8, aK, (.lit 0), .between (-1) 1, false, .imm⟩,
  ⟨"CourseLength", 0x2100, 1, 1, 1, .u32, aK, (.lit 1000), .between 250 1000000, true, .set⟩,
  ⟨"CourseCount", 0x2100, 1, 2, 1, .u64, aRo, (.lit 0), .any, false, .none⟩,
  ⟨"CourseBaseCount", 0x2100, 1, 3, 1, .u64, aRo, (.lit 0), .any, false, .none⟩,
  ⟨"CourseBaseTime", 0x2100, 1, 4, 1, .time96, aRo, (.lit 0), .any, false, .none⟩,
  ⟨"StretchedCourses", 0x2100, 1, 5, 1, .u64, aRo, (.lit 0), .any, false, .none⟩,
  ⟨"CourseCommit", 0x2100, 1, 6, 1, .bool, aK, (.lit 0), .between 1 1, false, .set⟩,
  ⟨"CoursePending", 0x2100, 1, 7, 1, .u32, aRo, (.lit 0), .any, false, .none⟩,
  ⟨"SnapshotInterval", 0x2110, 1, 1, 1, .u32, aM, (.lit 1000), .between 1 4294967295, true, .crs⟩,
  ⟨"SnapshotCourse", 0x2110, 1, 2, 1, .u64, aRo, (.lit 0), .any, false, .none⟩,
  ⟨"BudgetReport", 0x2120, 1, 1, 1, .domain, aRo, (.lit 0), .any, false, .none⟩,
  ⟨"BudgetRefusals", 0x2130, 1, 1, 1, .u64, aRo, (.lit 0), .any, false, .none⟩,
  ⟨"ServoState", 0x2200, 1, 1, 1, .u8, aRo, (.lit 0), .any, false, .none⟩,
  ⟨"OffsetFromSource", 0x2200, 1, 2, 1, .i64, aRo, (.lit 0), .any, false, .none⟩,
  ⟨"FrequencyAdjust", 0x2200, 1, 3, 1, .i32, aRo, (.lit 0), .any, false, .none⟩,
  ⟨"TimeValid", 0x2200, 1, 4, 1, .bool, aRo, (.lit 0), .any, false, .none⟩,
  ⟨"Traceable", 0x2200, 1, 5, 1, .bool, aRo, (.lit 0), .any, false, .none⟩,
  ⟨"SelectedSource", 0x2200, 1, 6, 1, .u16, aRo, (.lit 0), .any, false, .none⟩,
  ⟨"HoldoverElapsed", 0x2200, 1, 7, 1, .u64, aRo, (.lit 0), .any, false, .none⟩,
  ⟨"SourcePriority", 0x2210, 1, 1, 8, .u16, aKs, (.lit 0), .any, true, .crs⟩,
  ⟨"LockThreshold", 0x2210, 1, 9, 1, .u32, aKs, (.lit 10000), .between (1000) 1000000, true, .crs⟩,
  ⟨"UnlockThreshold", 0x2210, 1, 10, 1, .u32, aKs, (.lit 100000), .between 0 10000000, true, .crs⟩,
  ⟨"SourceTimeout", 0x2210, 1, 11, 1, .u32, aKs, (.lit 3000), .between (100) 60000, true, .crs⟩,
  ⟨"HoldoverLimit", 0x2210, 1, 12, 1, .u32, aKs, (.lit 86400), .between (60) 2592000, true, .crs⟩,
  ⟨"QualifyTime", 0x2210, 1, 13, 1, .u32, aKs, (.lit 10000), .between (0) 600000, true, .crs⟩,
  ⟨"SlewLimit", 0x2210, 1, 14, 1, .u32, aKs, (.lit 10000), .between (1) 200000, true, .crs⟩]

/-- Rows of area 0x2 of the entry tables. -/
def odRows2b : List OdRow := [
  ⟨"PpsEnable0", 0x2220, 1, 1, 1, .bool, aKs, (.lit 0), .between 0 1, true, .crs⟩,
  ⟨"PpsEnable1", 0x2220, 1, 2, 1, .bool, aKs, (.lit 0), .between 0 1, true, .crs⟩,
  ⟨"PpsDelay0", 0x2220, 1, 3, 1, .i32, aKs, (.lit 0), .between (-10240000) 10240000, true, .crs⟩,
  ⟨"PpsDelay1", 0x2220, 1, 4, 1, .i32, aKs, (.lit 0), .between (-10240000) 10240000, true, .crs⟩,
  ⟨"PpsWindow", 0x2220, 1, 5, 1, .u32, aKs, (.lit 1000), .between (10) 100000, true, .crs⟩,
  ⟨"SynceEnable", 0x2230, 1, 1, 1, .bool, aKs, (.lit 0), .between 0 1, true, .crs⟩,
  ⟨"SynceLanePriority", 0x2230, 1, 2, 8, .u16, aKs, (.lit 65535), .between 0 65535, true, .crs⟩,
  ⟨"EecOption", 0x2230, 1, 10, 1, .u8, aKs, (.lit 1), .between 1 2, true, .start⟩,
  ⟨"HoldOffTime", 0x2230, 1, 11, 1, .u16, aKs, (.lit 500), .between (300) 1800, true, .crs⟩,
  ⟨"WaitToRestore", 0x2230, 1, 12, 1, .u16, aKs, (.lit 300), .between (0) 720, true, .crs⟩,
  ⟨"PtpEnable", 0x2400, 256, 1, 1, .bool, aKs, (.lit 0), .between 0 1, true, .crs⟩,
  ⟨"ProfilesOffered", 0x2400, 256, 2, 1, .u8, aKs, (.lit 15), .between 1 15, true, .crs⟩,
  ⟨"ProfileInUse", 0x2400, 256, 3, 1, .u8, aRo, (.lit 0), .any, false, .none⟩,
  ⟨"PortState", 0x2400, 256, 4, 1, .u8, aRo, (.lit 1), .any, false, .none⟩,
  ⟨"DomainNumber", 0x2400, 256, 5, 1, .u8, aKs, (.lit 0), .between (0) 255, true, .crs⟩,
  ⟨"Transport", 0x2400, 256, 6, 1, .u8, aKs, (.lit 0), .between 0 2, true, .crs⟩,
  ⟨"DelayMechanism", 0x2400, 256, 7, 1, .u8, aKs, (.lit 1), .between 1 2, true, .crs⟩,
  ⟨"LogSyncInterval", 0x2400, 256, 8, 1, .i8, aKs, (.lit 252), .between (-7) 1, true, .crs⟩,
  ⟨"LogAnnounceInterval", 0x2400, 256, 9, 1, .i8, aKs, (.lit 0), .between (-3) 3, true, .crs⟩,
  ⟨"AnnounceReceiptTimeout", 0x2400, 256, 10, 1, .u8, aKs, (.lit 3), .between (2) 10, true, .crs⟩,
  ⟨"TxBoardDelay", 0x2400, 256, 11, 1, .i32, aKs, (.lit 0), .between (-10240000) 10240000, true, .crs⟩,
  ⟨"RxBoardDelay", 0x2400, 256, 12, 1, .i32, aKs, (.lit 0), .between (-10240000) 10240000, true, .crs⟩,
  ⟨"DelayAsymmetry", 0x2400, 256, 13, 1, .i64, aKs, (.lit 0), .between (-1099511627776) 1099511627776, true, .crs⟩,
  ⟨"MeanPathDelay", 0x2400, 256, 14, 1, .i64, aRo, (.lit 0), .any, false, .none⟩,
  ⟨"OffsetFromMaster", 0x2400, 256, 15, 1, .i64, aRo, (.lit 0), .any, false, .none⟩,
  ⟨"NegotiationTime", 0x2400, 256, 16, 1, .u32, aKs, (.lit 8000), .between (1000) 60000, true, .crs⟩,
  ⟨"PtpRx", 0x2400, 256, 32, 1, .u64, aRo, (.lit 0), .any, false, .none⟩,
  ⟨"PtpTx", 0x2400, 256, 33, 1, .u64, aRo, (.lit 0), .any, false, .none⟩,
  ⟨"PtpDiscarded", 0x2400, 256, 34, 1, .u64, aRo, (.lit 0), .any, false, .none⟩,
  ⟨"PtpUnknownTlv", 0x2400, 256, 35, 1, .u64, aRo, (.lit 0), .any, false, .none⟩]

/-- Rows of area 0x2 of the entry tables. -/
def odRows2c : List OdRow := [
  ⟨"NegotiationFailures", 0x2400, 256, 36, 1, .u64, aRo, (.lit 0), .any, false, .none⟩,
  ⟨"CalibrationState", 0x2500, 1, 1, 1, .u8, aRo, .factory, .any, false, .none⟩,
  ⟨"CalibrationRecord", 0x2500, 1, 2, 1, .domain, aRo, .factory, .any, true, .none⟩,
  ⟨"AccuracyClass", 0x2500, 1, 4, 1, .u16, aRo, .factory, .any, false, .none⟩,
  ⟨"TioMode", 0x2600, 32, 1, 1, .u8, aM, (.lit 0), .between 0 6, true, .crs⟩,
  ⟨"TioOwner", 0x2600, 32, 2, 1, .u8, aM, (.lit 0), .between 0 4, true, .crs⟩,
  ⟨"GlitchFilter", 0x2600, 32, 3, 1, .u8, aMH, (.lit 0), .between (0) 255, true, .crs⟩,
  ⟨"InputDelay", 0x2600, 32, 4, 1, .i32, aMH, (.lit 0), .between (-10240000) 10240000, true, .crs⟩,
  ⟨"ExpectTimeout", 0x2600, 32, 5, 1, .u32, aMH, (.lit 0), .any, true, .crs⟩,
  ⟨"StartTime", 0x2600, 32, 6, 1, .time96, aMHC, (.lit 0), .any, false, .set⟩,
  ⟨"Period", 0x2600, 32, 7, 1, .u64, aMHC, (.lit 65536000000), .between 1310720 65536000000000000, true, .set⟩,
  ⟨"Width", 0x2600, 32, 8, 1, .u32, aMHC, (.lit 100), .between 5 4294967295, true, .set⟩,
  ⟨"Count", 0x2600, 32, 9, 1, .u32, aMHC, (.lit 0), .any, true, .set⟩,
  ⟨"OutputDelay", 0x2600, 32, 10, 1, .i32, aMHC, (.lit 0), .between (-10240000) 10240000, true, .set⟩,
  ⟨"CaptureCount", 0x2600, 32, 11, 1, .u64, aRo, (.lit 0), .any, false, .none⟩,
  ⟨"CaptureOverflow", 0x2600, 32, 12, 1, .u64, aRo, (.lit 0), .any, false, .none⟩,
  ⟨"LastCapture", 0x2600, 32, 13, 1, .time96, aRo, (.lit 0), .any, false, .none⟩,
  ⟨"GenCommit", 0x2600, 32, 14, 1, .bool, wMHC, (.lit 0), .between 1 1, false, .crs⟩]

/-- All rows of area 0x2. -/
def odRows2 : List OdRow := odRows2a ++ odRows2b ++ odRows2c

/-- Rows of area 0x3 of the entry tables. -/
def odRows3 : List OdRow := [
  ⟨"PortEnable", 0x3000, 256, 1, 1, .bool, aM, (.lit 0), .between 0 1, true, .crs⟩,
  ⟨"MediaType", 0x3000, 256, 2, 1, .u8, aM, (.lit 0), .between 0 2, true, .crs⟩,
  ⟨"AbilitiesOffered", 0x3000, 256, 3, 1, .u8, aM, (.lit 255), .between 1 255, true, .crs⟩,
  ⟨"ForcedSpeed", 0x3000, 256, 4, 1, .u8, aM, (.lit 4), .between (0) 7, true, .crs⟩,
  ⟨"FecMode", 0x3000, 256, 5, 1, .u8, aM, (.lit 0), .between 0 3, true, .crs⟩,
  ⟨"FecAllowNone", 0x3000, 256, 6, 1, .bool, aM, (.lit 0), .between 0 1, true, .crs⟩,
  ⟨"TrainingTimeout", 0x3000, 256, 7, 1, .u32, aM, (.lit 3000), .between (500) 30000, true, .crs⟩,
  ⟨"AnRetryInterval", 0x3000, 256, 8, 1, .u32, aM, (.lit 2000), .between (100) 60000, true, .crs⟩,
  ⟨"LinkUpHold", 0x3000, 256, 9, 1, .u32, aM, (.lit 10000), .between (0) 10000000, true, .crs⟩,
  ⟨"LinkDownHold", 0x3000, 256, 10, 1, .u32, aM, (.lit 0), .between (0) 10000, true, .crs⟩,
  ⟨"MaxFrameSize", 0x3000, 256, 11, 1, .u16, aM, (.lit 9216), .between (1518) 16128, true, .crs⟩,
  ⟨"DcbxMode", 0x3000, 256, 16, 1, .u8, aM, (.lit 2), .between 0 2, true, .crs⟩,
  ⟨"PfcEnableLocal", 0x3000, 256, 17, 1, .u8, aM, (.lit 0), .any, true, .crs⟩,
  ⟨"PriorityToClass", 0x3000, 256, 18, 1, .u32, aM, (.lit 16434824), .any, true, .crs⟩,
  ⟨"ProtectionPcp", 0x3000, 256, 19, 1, .u8, aKs, (.lit 7), .between (0) 7, true, .crs⟩,
  ⟨"LldpTxInterval", 0x3000, 256, 20, 1, .u16, aM, (.lit 30), .between (1) 3600, true, .crs⟩,
  ⟨"LinkState", 0x3100, 256, 1, 1, .u8, aRo, (.lit 0), .any, false, .none⟩,
  ⟨"SpeedInUse", 0x3100, 256, 2, 1, .u8, aRo, (.lit 255), .any, false, .none⟩,
  ⟨"FecInUse", 0x3100, 256, 3, 1, .u8, aRo, (.lit 0), .any, false, .none⟩,
  ⟨"PartnerAbilities", 0x3100, 256, 4, 1, .u8, aRo, (.lit 0), .any, false, .none⟩,
  ⟨"SpeedFallbackMask", 0x3100, 256, 5, 1, .u8, aRo, (.lit 0), .any, false, .none⟩,
  ⟨"LinkDownCause", 0x3100, 256, 6, 1, .u8, aRo, (.lit 0), .any, false, .none⟩,
  ⟨"LastLinkChange", 0x3100, 256, 7, 1, .time96, aRo, (.lit 0), .any, false, .none⟩,
  ⟨"PfcOper", 0x3100, 256, 8, 1, .u8, aRo, (.lit 0), .any, false, .none⟩,
  ⟨"PriorityToClassOper", 0x3100, 256, 9, 1, .u32, aRo, (.lit 16434824), .any, false, .none⟩,
  ⟨"DcbxState", 0x3100, 256, 10, 1, .u8, aRo, (.lit 0), .any, false, .none⟩,
  ⟨"LaneGrouping", 0x3200, 32, 1, 1, .u32, aM, (.lit 286331153), .any, true, .crs⟩,
  ⟨"RxPolarity", 0x3200, 32, 2, 1, .u8, aM, (.lit 0), .any, true, .crs⟩,
  ⟨"TxPolarity", 0x3200, 32, 3, 1, .u8, aM, (.lit 0), .any, true, .crs⟩]

/-- Rows of area 0x4 of the entry tables. -/
def odRows4a : List OdRow := [
  ⟨"ForwardingMode", 0x4000, 256, 1, 1, .u8, aM, (.lit 0), .between 0 1, true, .crs⟩,
  ⟨"Class7ReserveBricks", 0x4000, 256, 2, 1, .u16, aKs, (.lit 0), .any, true, .crs⟩,
  ⟨"LaunchTolerance", 0x4000, 256, 3, 1, .u32, aMH, (.lit 0), .between (0) 1000000, true, .crs⟩,
  ⟨"LaunchHorizon", 0x4000, 256, 4, 1, .u32, aMH, (.lit 10000000), .between (1000) 1000000000, true, .crs⟩,
  ⟨"QueueMaxBricks", 0x4000, 256, 16, 7, .u16, aM, (.lit 8192), .between (0) 32768, true, .crs⟩,
  ⟨"QueueMaxBricks", 0x4000, 256, 23, 1, .u16, aKs, (.lit 8192), .between (0) 32768, true, .crs⟩,
  ⟨"AlphaCode", 0x4000, 256, 24, 7, .u8, aM, (.lit 6), .between (0) 9, true, .crs⟩,
  ⟨"AlphaCode", 0x4000, 256, 31, 1, .u8, aKs, (.lit 6), .between (0) 9, true, .crs⟩,
  ⟨"HeadroomBricks", 0x4000, 256, 32, 8, .u16, aM, (.lit 0), .between 0 8192, true, .crs⟩,
  ⟨"XoffThreshold", 0x4000, 256, 40, 8, .u16, aM, (.lit 256), .between (1) 32768, true, .crs⟩,
  ⟨"XonThreshold", 0x4000, 256, 48, 8, .u16, aM, (.lit 128), .between 0 65535, true, .crs⟩,
  ⟨"SharedFree", 0x4200, 32, 1, 1, .u32, aRo, (.lit 0), .any, false, .none⟩,
  ⟨"Class7Held", 0x4200, 32, 2, 1, .u32, aRo, (.lit 0), .any, false, .none⟩,
  ⟨"HeadroomHeld", 0x4200, 32, 3, 1, .u32, aRo, (.lit 0), .any, false, .none⟩,
  ⟨"HeadroomAllocated", 0x4200, 32, 4, 1, .u32, aRo, (.lit 0), .any, false, .none⟩,
  ⟨"MirrorEnable", 0x4300, 8, 1, 1, .bool, aM, (.lit 0), .between 0 1, true, .crs⟩,
  ⟨"IngressPorts", 0x4300, 8, 2, 1, .domain, aM, (.lit 0), .any, true, .crs⟩,
  ⟨"EgressPorts", 0x4300, 8, 3, 1, .domain, aM, (.lit 0), .any, true, .crs⟩,
  ⟨"DestKind", 0x4300, 8, 4, 1, .u8, aM, (.lit 0), .between 0 2, true, .crs⟩,
  ⟨"Dest", 0x4300, 8, 5, 1, .u32, aM, (.lit 0), .any, true, .crs⟩,
  ⟨"MirrorClass", 0x4300, 8, 6, 1, .u8, aM, (.lit 0), .between (0) 6, true, .crs⟩,
  ⟨"TruncateLength", 0x4300, 8, 7, 1, .u16, aM, (.lit 0), .between 0 16128, true, .crs⟩,
  ⟨"Encapsulate", 0x4300, 8, 8, 1, .bool, aM, (.lit 0), .between 0 1, true, .crs⟩,
  ⟨"EncapDa", 0x4300, 8, 9, 1, .mac48, aM, (.lit 0), .any, true, .crs⟩,
  ⟨"EncapSa", 0x4300, 8, 10, 1, .mac48, aM, (.lit 0), .any, true, .crs⟩,
  ⟨"EncapEthertype", 0x4300, 8, 11, 1, .u16, aM, (.lit 34998), .between (1536) 65535, true, .crs⟩,
  ⟨"StreamTable", 0x4500, 1, 1, 1, .domain, aM, (.lit 0), .any, true, .set⟩,
  ⟨"AlignedEnable", 0x4700, 256, 1, 1, .bool, aMH, (.lit 0), .between 0 1, true, .crs⟩,
  ⟨"Consumer", 0x4700, 256, 2, 1, .u32, aMH, (.lit 0), .any, true, .crs⟩,
  ⟨"HoldCourses", 0x4700, 256, 3, 1, .u16, aMH, (.lit 4), .between (1) 4096, true, .crs⟩,
  ⟨"MaxRate", 0x4700, 256, 4, 1, .u16, aMH, (.lit 10), .between (1) 800, true, .crs⟩,
  ⟨"LateAction", 0x4700, 256, 5, 1, .u8, aMH, (.lit 0), .between 0 1, true, .crs⟩]

/-- Rows of area 0x4 of the entry tables. -/
def odRows4b : List OdRow := [
  ⟨"CapacityBytes", 0x4700, 256, 6, 1, .u32, aMH, (.lit 262144), .between 4096 4194304, true, .crs⟩,
  ⟨"RelayTile", 0x4700, 256, 7, 1, .u8, aMH, (.lit 0), .between 0 31, true, .crs⟩,
  ⟨"VnSlots", 0x4800, 1, 1, 6, .u8, aRo, (.subs [4, 44, 8, 4, 2, 2]), .any, false, .none⟩,
  ⟨"PcActivity", 0x4810, 1, 1, 16, .u8, aRo, (.subs [1, 1, 2, 2, 3, 3, 4, 4, 5, 5, 5, 5, 5, 5, 5, 5]), .any, false, .none⟩,
  ⟨"CacheShare", 0x4812, 1, 1, 5, .u16, aRo, (.subs [16, 8, 4, 4, 32]), .any, false, .none⟩,
  ⟨"TileStatus", 0x4820, 1, 1, 1, .domain, aRo, (.lit 0), .any, false, .none⟩,
  ⟨"PoolBase", 0x4900, 66, 1, 1, .u64, aRo, .factory, .any, false, .none⟩,
  ⟨"UnitSize", 0x4900, 64, 2, 1, .u16, aRo, (.lit 256), .any, false, .none⟩,
  ⟨"UnitSize", 0x4940, 2, 2, 1, .u16, aRo, (.lit 4096), .any, false, .none⟩,
  ⟨"Capacity", 0x4900, 66, 3, 1, .u32, aRo, (.lit 0), .any, false, .none⟩,
  ⟨"FreeUnits", 0x4900, 66, 4, 1, .u32, aRo, (.lit 0), .any, false, .none⟩,
  ⟨"LowWater", 0x4900, 32, 5, 1, .u32, aM, (.lit 2048), .any, true, .crs⟩,
  ⟨"LowWater", 0x4920, 16, 5, 1, .u32, aM, (.lit 64), .any, true, .crs⟩,
  ⟨"LowWater", 0x4930, 4, 5, 1, .u32, aM, (.lit 512), .any, true, .crs⟩,
  ⟨"LowWater", 0x4934, 2, 5, 1, .u32, aM, (.lit 3072), .any, true, .crs⟩,
  ⟨"LowWater", 0x4940, 1, 5, 1, .u32, aM, (.lit 45776), .any, true, .crs⟩,
  ⟨"LowWater", 0x4941, 1, 5, 1, .u32, aM, (.lit 16384), .any, true, .crs⟩,
  ⟨"HodCommandWindow", 0x4950, 1, 1, 1, .u64, aRo, .factory, .any, false, .none⟩,
  ⟨"HbmCoreBuffers", 0x4950, 1, 2, 1, .u32, aM, (.lit 262144), .any, true, .crs⟩,
  ⟨"CoreQuota", 0x4960, 16, 1, 6, .u16, aM, (.lit 160), .between (0) 1024, true, .crs⟩,
  ⟨"HbmQuota", 0x4960, 16, 7, 6, .u32, aM, (.lit 16384), .any, true, .crs⟩]

/-- All rows of area 0x4. -/
def odRows4 : List OdRow := odRows4a ++ odRows4b

/-- Rows of area 0x5 of the entry tables. -/
def odRows5a : List OdRow := [
  ⟨"FdbCurrentGen", 0x5000, 1, 1, 1, .u16, aRo, (.lit 0), .any, true, .none⟩,
  ⟨"FdbOldestGen", 0x5000, 1, 2, 1, .u16, aRo, (.lit 0), .any, true, .none⟩,
  ⟨"FdbOccupancyDie", 0x5000, 1, 3, 1, .u32, aRo, (.lit 0), .any, false, .none⟩,
  ⟨"FdbOccupancyHbm", 0x5000, 1, 4, 1, .u32, aRo, (.lit 0), .any, false, .none⟩,
  ⟨"FdbUpdate", 0x5000, 1, 5, 1, .domain, wMHC, (.lit 0), .between (1) 4096, true, .set⟩,
  ⟨"FdbQuery", 0x5000, 1, 6, 1, .domain, aMHC, (.lit 0), .any, false, .imm⟩,
  ⟨"FdbSweep", 0x5000, 1, 7, 1, .domain, aMHC, (.lit 0), .any, false, .imm⟩,
  ⟨"LearnNotifyDest", 0x5000, 1, 8, 1, .u32, aM, (.lit 3221225472), .any, true, .crs⟩,
  ⟨"NotifyRate", 0x5000, 1, 9, 1, .u16, aM, (.lit 16), .between (1) 1024, true, .crs⟩,
  ⟨"StaticViolationAction", 0x5000, 1, 10, 1, .u8, aM, (.lit 0), .between 0 1, true, .crs⟩,
  ⟨"VlanTable", 0x5100, 1, 1, 1, .domain, aM, (.lit 0), .any, true, .set⟩,
  ⟨"GroupTable", 0x5200, 1, 1, 1, .domain, aM, (.lit 0), .any, true, .set⟩,
  ⟨"Pvid", 0x5300, 256, 1, 1, .u16, aM, (.lit 1), .between (1) 4094, true, .crs⟩,
  ⟨"IngressFilter", 0x5300, 256, 2, 1, .bool, aM, (.lit 1), .between 0 1, true, .crs⟩,
  ⟨"LearnEnable", 0x5300, 256, 3, 1, .bool, aM, (.lit 1), .between 0 1, true, .crs⟩,
  ⟨"MaxLearned", 0x5300, 256, 4, 1, .u32, aM, (.lit 0), .between 0 16777216, true, .crs⟩,
  ⟨"WallPort", 0x5300, 256, 5, 1, .bool, aM, (.lit 0), .between 0 1, true, .crs⟩,
  ⟨"PortMeta", 0x5300, 256, 6, 1, .u8, aM, (.lit 0), .between (0) 255, true, .crs⟩,
  ⟨"TernaryUpdate", 0x5400, 32, 1, 1, .domain, wMHCKs, (.lit 0), .between (1) 1024, true, .set⟩,
  ⟨"TernaryQuery", 0x5400, 32, 2, 1, .domain, aMHC, (.lit 0), .any, false, .imm⟩,
  ⟨"KeystoneEntries", 0x5400, 32, 3, 1, .u16, aKs, (.lit 64), .between 0 256, true, .crs⟩,
  ⟨"IngressMissAction", 0x5400, 32, 4, 1, .u8, aM, (.lit 0), .between (0) 2, true, .crs⟩,
  ⟨"EgressMissAction", 0x5400, 32, 5, 1, .u8, aM, (.lit 0), .between (0) 2, true, .crs⟩,
  ⟨"ParseErrorAction", 0x5400, 32, 6, 1, .u8, aM, (.lit 0), .between (0) 2, true, .crs⟩,
  ⟨"LinkLocalAction", 0x5400, 32, 7, 1, .u8, aM, (.lit 0), .between 0 1, true, .crs⟩,
  ⟨"Udf", 0x5400, 32, 16, 14, .u16, aM, (.lit 0), .any, true, .crs⟩,
  ⟨"ExceptionDest", 0x5400, 32, 32, 1, .u32, aM, (.lit 3221225472), .any, true, .crs⟩,
  ⟨"ExceptionBurst", 0x5400, 32, 33, 1, .u16, aM, (.lit 64), .between (1) 4096, true, .crs⟩,
  ⟨"ExceptionRate", 0x5400, 32, 48, 8, .u32, aM, (.lit 10000), .between (0) 10000000, true, .crs⟩,
  ⟨"ExactKeyProfile", 0x5500, 16, 1, 1, .domain, aM, (.lit 0), .any, true, .crs⟩]

/-- Rows of area 0x5 of the entry tables. -/
def odRows5b : List OdRow := [
  ⟨"ExactCapacity", 0x5500, 16, 2, 1, .u32, aM, (.lit 0), .between 0 4294967295, true, .crs⟩,
  ⟨"ExactUpdate", 0x5500, 16, 3, 1, .domain, wMHC, (.lit 0), .between (1) 4096, true, .set⟩,
  ⟨"ExactQuery", 0x5500, 16, 4, 1, .domain, aMHC, (.lit 0), .any, false, .imm⟩,
  ⟨"ExactSweep", 0x5500, 16, 5, 1, .domain, aMHC, (.lit 0), .any, false, .imm⟩,
  ⟨"ProgramUpdate", 0x5600, 32, 1, 1, .domain, wMHCKs, (.lit 0), .between (1) 256, true, .set⟩,
  ⟨"DispatchIngress", 0x5600, 32, 2, 1, .domain, aRo, (.lit 0), .any, false, .none⟩,
  ⟨"DispatchEgress", 0x5600, 32, 3, 1, .domain, aRo, (.lit 0), .any, false, .none⟩,
  ⟨"TrowelEventDest", 0x5600, 32, 4, 1, .u32, aM, (.lit 3221225472), .any, true, .crs⟩,
  ⟨"StateMemory", 0x5600, 32, 5, 1, .domain, aMHCKs, (.lit 0), .any, false, .imm⟩,
  ⟨"EngineStatus", 0x5600, 32, 6, 1, .u16, aRo, (.lit 0), .any, false, .none⟩,
  ⟨"MicrocodePatch", 0x5700, 1, 1, 1, .domain, wMH, (.lit 0), .any, true, .set⟩,
  ⟨"PatchStatus", 0x5700, 1, 2, 1, .u8, aRo, (.lit 0), .any, false, .none⟩,
  ⟨"WallEnable", 0x5800, 1, 1, 1, .bool, aM, (.lit 0), .between 0 1, true, .crs⟩,
  ⟨"WallId", 0x5800, 1, 2, 1, .u16, aM, (.lit 0), .between (0) 65535, true, .crs⟩,
  ⟨"WallDeviceId", 0x5800, 1, 3, 1, .u16, aM, (.lit 0), .between (0) 511, true, .crs⟩,
  ⟨"WallFeatureLevel", 0x5800, 1, 4, 1, .u16, aM, .factory, .any, true, .set⟩,
  ⟨"WallLevelInForce", 0x5800, 1, 5, 1, .u16, aRo, .factory, .any, false, .none⟩,
  ⟨"SupportedLevel", 0x5800, 1, 6, 1, .u16, aRo, .factory, .any, false, .none⟩,
  ⟨"WallMinSupported", 0x5800, 1, 7, 1, .u16, aRo, .factory, .any, false, .none⟩,
  ⟨"WallState", 0x5800, 1, 8, 1, .u8, aRo, (.lit 0), .any, false, .none⟩,
  ⟨"WallSize", 0x5800, 1, 9, 1, .u16, aM, (.lit 1), .between (1) 512, true, .crs⟩,
  ⟨"HelloInterval", 0x5800, 1, 10, 1, .u32, aM, (.lit 100), .between (10) 10000, true, .crs⟩,
  ⟨"WallEthertype", 0x5800, 1, 11, 1, .u16, aM, (.lit 34997), .between (1536) 65535, true, .crs⟩,
  ⟨"SyncQueue", 0x5800, 1, 12, 1, .u32, aM, (.lit 3221225472), .any, true, .crs⟩,
  ⟨"NeighbourTable", 0x5810, 1, 1, 1, .domain, aRo, (.lit 0), .any, false, .none⟩,
  ⟨"RedMode", 0x5900, 64, 1, 1, .u8, aM, (.lit 0), .between 0 2, true, .crs⟩,
  ⟨"PortA", 0x5900, 64, 2, 1, .u8, aM, (.lit 0), .between (0) 255, true, .crs⟩,
  ⟨"PortB", 0x5900, 64, 3, 1, .u8, aM, (.lit 0), .between (0) 255, true, .crs⟩,
  ⟨"EntryForgetTime", 0x5900, 64, 4, 1, .u32, aM, (.lit 400), .between (10) 10000, true, .crs⟩,
  ⟨"NodeForgetTime", 0x5900, 64, 5, 1, .u32, aM, (.lit 60), .between (1) 3600, true, .crs⟩]

/-- All rows of area 0x5. -/
def odRows5 : List OdRow := odRows5a ++ odRows5b

/-- Rows of area 0x6 of the entry tables. -/
def odRows6 : List OdRow := [
  ⟨"ClosingMode", 0x6000, 256, 1, 1, .u8, aM, (.lit 0), .between 0 1, true, .crs⟩,
  ⟨"LengthOverhead", 0x6000, 256, 2, 1, .i8, aM, (.lit 20), .between (-32) 63, true, .crs⟩,
  ⟨"GateEnable", 0x6000, 256, 3, 1, .bool, aMKs, (.lit 0), .between 0 1, true, .crs⟩,
  ⟨"GateControlList", 0x6000, 256, 4, 1, .domain, aMKs, (.lit 0), .any, true, .set⟩,
  ⟨"GateStatus", 0x6000, 256, 5, 1, .domain, aRo, (.lit 0), .any, false, .none⟩,
  ⟨"Level", 0x6000, 256, 16, 7, .u8, aM, (.lit 0), .between (0) 6, true, .crs⟩,
  ⟨"Quantum", 0x6000, 256, 24, 7, .u16, aM, (.lit 2048), .between (256) 65535, true, .crs⟩,
  ⟨"ShaperEnable", 0x6000, 256, 32, 7, .bool, aM, (.lit 0), .between 0 1, true, .crs⟩,
  ⟨"IdleSlope", 0x6000, 256, 40, 7, .u32, aM, (.lit 0), .between (0) 800000000, true, .crs⟩,
  ⟨"CreditMax", 0x6000, 256, 48, 7, .u32, aM, (.lit 16384), .between (0) 1048576, true, .crs⟩,
  ⟨"Credit", 0x6000, 256, 56, 7, .i32, aRo, (.lit 0), .any, false, .none⟩,
  ⟨"QueueSamples", 0x6200, 256, 1, 1, .domain, aRo, (.lit 0), .any, false, .none⟩,
  ⟨"SampleDest", 0x6200, 256, 2, 1, .u32, aMH, (.lit 3221225472), .any, true, .crs⟩,
  ⟨"SampleInterval", 0x6200, 256, 3, 1, .u32, aMH, (.lit 1000), .between 1 4294967295, true, .crs⟩,
  ⟨"PolicerUpdate", 0x6400, 32, 1, 1, .domain, wMHCKs, (.lit 0), .between (1) 2048, true, .set⟩,
  ⟨"PolicerQuery", 0x6400, 32, 2, 1, .domain, aMHC, (.lit 0), .any, false, .imm⟩]

/-- Rows of area 0x7 of the entry tables. -/
def odRows7 : List OdRow := [
  ⟨"KeyLoad", 0x7000, 1, 1, 1, .domain, wMHCKs, (.lit 0), .any, true, .crs⟩,
  ⟨"KeySlotOwner", 0x7000, 1, 2, 1, .domain, wM, (.lit 0), .any, true, .crs⟩,
  ⟨"KeySlotInfo", 0x7000, 1, 3, 1, .domain, aMHC, (.lit 0), .any, false, .imm⟩,
  ⟨"KeyErase", 0x7000, 1, 4, 1, .u16, wMHCKs, (.lit 0), .any, true, .crs⟩,
  ⟨"VerifyFailAction", 0x7000, 1, 5, 1, .u8, aM, (.lit 0), .between 0 1, true, .crs⟩,
  ⟨"MkaDest", 0x7000, 1, 6, 1, .u32, aM, (.lit 3221225472), .any, true, .crs⟩,
  ⟨"MacsecEnable", 0x7100, 256, 1, 1, .bool, aM, (.lit 0), .between 0 1, true, .crs⟩,
  ⟨"CipherSuite", 0x7100, 256, 2, 1, .u8, aM, (.lit 3), .between 1 4, true, .crs⟩,
  ⟨"ConfidentialityOffset", 0x7100, 256, 3, 1, .u8, aM, (.lit 0), .any, true, .crs⟩,
  ⟨"TxAn", 0x7100, 256, 4, 1, .u8, aM, (.lit 0), .between (0) 3, true, .crs⟩,
  ⟨"TxPortIdentifier", 0x7100, 256, 5, 1, .u16, aM, (.lit 1), .between (1) 65535, true, .crs⟩,
  ⟨"IncludeSci", 0x7100, 256, 6, 1, .bool, aM, (.lit 1), .between 0 1, true, .crs⟩,
  ⟨"ValidateFrames", 0x7100, 256, 7, 1, .u8, aM, (.lit 2), .between 1 2, true, .crs⟩,
  ⟨"ReplayProtect", 0x7100, 256, 8, 1, .bool, aM, (.lit 1), .between 0 1, true, .crs⟩,
  ⟨"ReplayWindow", 0x7100, 256, 9, 1, .u32, aM, (.lit 0), .any, true, .crs⟩,
  ⟨"RxSci", 0x7100, 256, 10, 4, .u64, aMKs, (.lit 0), .any, true, .crs⟩,
  ⟨"PnThreshold", 0x7100, 256, 14, 1, .u8, aM, (.lit 192), .between (1) 255, true, .crs⟩,
  ⟨"KsEnable", 0x7100, 256, 16, 1, .bool, aKs, (.lit 0), .between 0 1, true, .crs⟩,
  ⟨"KsTxAn", 0x7100, 256, 17, 1, .u8, aKs, (.lit 0), .between (0) 3, true, .crs⟩,
  ⟨"KsPortIdentifier", 0x7100, 256, 18, 1, .u16, aKs, (.lit 7), .between 1 65535, true, .crs⟩,
  ⟨"MacsecSaTable", 0x7200, 256, 1, 1, .domain, aMKs, (.lit 0), .any, true, .set⟩,
  ⟨"EspSaTable", 0x7300, 1, 1, 1, .domain, aMHC, (.lit 0), .any, true, .set⟩,
  ⟨"AuthTable", 0x7400, 1, 1, 1, .domain, aMHC, (.lit 0), .any, true, .set⟩]

/-- Rows of area 0x8 of the entry tables. -/
def odRows8 : List OdRow := [
  ⟨"HostLinkStatus", 0x8000, 1, 1, 4, .u32, aRo, (.lit 0), .any, false, .none⟩,
  ⟨"Bifurcation", 0x8001, 1, 1, 2, .u8, aRo, .factory, .any, false, .none⟩,
  ⟨"PeerRegionBase", 0x8010, 1, 1, 2, .u64, aM, (.lit 0), .any, true, .crs⟩,
  ⟨"PeerRegionSize", 0x8010, 1, 3, 2, .u64, aM, (.lit 0), .between 0 68719476736, true, .crs⟩,
  ⟨"ProtectionTxQueues", 0x8020, 1, 1, 1, .domain, aKs, (.lit 0), .any, true, .crs⟩,
  ⟨"PeerWindowActive", 0x8030, 128, 1, 1, .domain, aRo, (.lit 0), .any, false, .none⟩,
  ⟨"SliceResourceSet", 0x8100, 1, 1, 1, .domain, wMH, (.lit 0), .any, true, .crs⟩,
  ⟨"SliceQuery", 0x8100, 1, 2, 1, .domain, aMH, (.lit 0), .any, false, .imm⟩,
  ⟨"SliceState", 0x8100, 1, 3, 1, .domain, aMH, (.lit 0), .any, false, .imm⟩,
  ⟨"TrackerFree", 0x8101, 1, 1, 1, .u32, aRo, (.lit 131072), .any, false, .none⟩,
  ⟨"TrackerReservedSum", 0x8101, 1, 2, 1, .u32, aRo, (.lit 0), .any, false, .none⟩]

/-- Rows of area 0x9 of the entry tables. -/
def odRows9 : List OdRow := [
  ⟨"NamespaceRecord", 0x9000, 1025, 1, 1, .domain, aM, (.lit 0), .any, true, .set⟩,
  ⟨"NamespaceStatus", 0x9000, 1025, 2, 1, .u8, aRo, (.lit 0), .any, false, .none⟩,
  ⟨"Ctrl0TrackerMax", 0x9800, 1, 1, 1, .u32, aM, (.lit 8192), .between (1) 131072, true, .crs⟩,
  ⟨"StagingReserve", 0x9800, 1, 2, 1, .u32, aM, (.lit 65536), .between 0 4294967295, true, .crs⟩,
  ⟨"BackingTimeout", 0x9800, 1, 3, 1, .u32, aM, (.lit 2000), .between (100) 60000, true, .crs⟩,
  ⟨"SliceWriteCache", 0x9800, 1, 4, 1, .bool, aMH, (.lit 1), .between 0 1, true, .crs⟩,
  ⟨"SlicePowerState", 0x9800, 1, 5, 1, .u8, aMH, (.lit 0), .between (0) 2, true, .crs⟩,
  ⟨"RangeLocksHeld", 0x9800, 1, 6, 4, .u16, aRo, (.lit 0), .any, false, .none⟩,
  ⟨"DspBifurcation", 0x9900, 1, 1, 1, .u8, aM, (.lit 1), .between 0 1, true, .start⟩,
  ⟨"SsdStatus", 0x9900, 1, 2, 4, .u8, aRo, (.lit 0), .any, false, .none⟩,
  ⟨"DspPs1State", 0x9900, 1, 6, 1, .u8, aM, (.lit 0), .any, true, .crs⟩,
  ⟨"DspPs2State", 0x9900, 1, 7, 1, .u8, aM, (.lit 0), .any, true, .crs⟩,
  ⟨"TargetAddress", 0x9A00, 64, 1, 1, .ipaddr, aM, (.lit 0), .any, true, .crs⟩,
  ⟨"TargetPort", 0x9A00, 64, 2, 1, .u16, aM, (.lit 4420), .between (1) 65535, true, .crs⟩,
  ⟨"SubsystemNqn", 0x9A00, 64, 3, 1, (.string 223), aM, (.lit 0), .any, true, .crs⟩,
  ⟨"HostNqn", 0x9A00, 64, 4, 1, (.string 223), aM, (.lit 0), .any, true, .crs⟩,
  ⟨"TargetNsid", 0x9A00, 64, 5, 1, .u32, aM, (.lit 1), .between (1) 4294967294, true, .crs⟩,
  ⟨"ReconnectInterval", 0x9A00, 64, 6, 1, .u32, aM, (.lit 1000), .between (100) 60000, true, .crs⟩]

/-- Rows of area 0xA of the entry tables. -/
def odRowsA : List OdRow := [
  ⟨"RocePcp", 0xA000, 1, 1, 1, .u8, aM, (.lit 3), .between 0 6, true, .crs⟩,
  ⟨"TargetDelay", 0xA000, 1, 2, 1, .u32, aM, (.lit 2000), .between (200) 1000000, true, .crs⟩,
  ⟨"RttTarget", 0xA000, 1, 3, 1, .u32, aM, (.lit 4000), .between (400) 2000000, true, .crs⟩,
  ⟨"BaseWindow", 0xA000, 1, 4, 1, .u32, aM, (.lit 100000), .between (1000) 10000000, true, .crs⟩,
  ⟨"AddStep", 0xA000, 1, 5, 1, .u32, aM, (.lit 100), .between (1) 10000, true, .crs⟩,
  ⟨"Beta", 0xA000, 1, 6, 1, .u16, aM, (.lit 32768), .between (1) 65535, true, .crs⟩,
  ⟨"MinRate", 0xA000, 1, 7, 1, .u32, aM, (.lit 100), .between (10) 10000, true, .crs⟩,
  ⟨"DelayFallbackCourses", 0xA000, 1, 8, 1, .u32, aM, (.lit 10000), .between (100) 10000000, true, .crs⟩,
  ⟨"GsiQueue", 0xA000, 1, 10, 1, .u32, aM, (.lit 3221225472), .any, true, .crs⟩,
  ⟨"QpControl", 0xA100, 1, 1, 1, .domain, wMHC, (.lit 0), .between (1) 256, true, .crs⟩,
  ⟨"CqControl", 0xA100, 1, 2, 1, .domain, wMHC, (.lit 0), .between (1) 256, true, .crs⟩,
  ⟨"RegionControl", 0xA100, 1, 3, 1, .domain, wMHC, (.lit 0), .between (1) 256, true, .crs⟩,
  ⟨"AhControl", 0xA100, 1, 4, 1, .domain, wMHC, (.lit 0), .between (1) 256, true, .crs⟩,
  ⟨"RdmaQuery", 0xA100, 1, 5, 1, .domain, aMHC, (.lit 0), .any, false, .imm⟩,
  ⟨"RdmaIpv4", 0xA200, 256, 1, 1, .ipaddr, aM, (.lit 0), .any, true, .crs⟩,
  ⟨"RdmaIpv6", 0xA200, 256, 2, 1, .ipaddr, aM, (.lit 0), .any, true, .crs⟩,
  ⟨"PfcWatchdogEnable", 0xA300, 256, 1, 1, .bool, aM, (.lit 1), .between 0 1, true, .crs⟩,
  ⟨"WatchdogTime", 0xA300, 256, 2, 1, .u32, aM, (.lit 100000), .between (1000) 100000000, true, .crs⟩,
  ⟨"RestoreTime", 0xA300, 256, 3, 1, .u32, aM, (.lit 200000), .between (1000) 100000000, true, .crs⟩,
  ⟨"WatchdogAction", 0xA300, 256, 4, 1, .u8, aM, (.lit 0), .between 0 1, true, .crs⟩,
  ⟨"WatchdogState", 0xA300, 256, 5, 1, .u8, aRo, (.lit 0), .any, false, .none⟩]

/-- Rows of area 0xB of the entry tables. -/
def odRowsB : List OdRow := [
  ⟨"SignedCommand", 0xB100, 1, 1, 1, .domain, wMH, (.lit 0), .any, true, .set⟩,
  ⟨"CommandCounter", 0xB100, 1, 2, 1, .u64, aRo, (.lit 0), .any, true, .none⟩,
  ⟨"LastCommandStatus", 0xB100, 1, 3, 1, .u32, aRo, (.lit 0), .any, false, .none⟩,
  ⟨"ImageKeyRevoked", 0xB200, 1, 1, 4, .bool, aRo, .factory, .any, true, .none⟩,
  ⟨"MicrocodeKeyRevoked", 0xB200, 1, 5, 4, .bool, aRo, .factory, .any, true, .none⟩,
  ⟨"FusedSvn", 0xB200, 1, 9, 1, .u8, aRo, .factory, .any, true, .none⟩,
  ⟨"RevokeImageKey", 0xB200, 1, 10, 1, .u8, aKs, (.lit 0), .between 0 3, true, .set⟩,
  ⟨"RevokeMicrocodeKey", 0xB200, 1, 11, 1, .u8, aKs, (.lit 0), .between 0 3, true, .set⟩,
  ⟨"RaiseSvn", 0xB200, 1, 12, 1, .u8, aKs, (.lit 0), .between 1 64, true, .set⟩,
  ⟨"OwnerKey", 0xB210, 8, 1, 1, .domain, aKs, (.lit 0), .any, true, .set⟩,
  ⟨"TileSleep", 0xB300, 16, 1, 1, .bool, aM, (.lit 0), .between 0 1, false, .crs⟩,
  ⟨"WakeState", 0xB300, 16, 2, 1, .u8, aRo, (.lit 0), .any, false, .none⟩,
  ⟨"Measurements", 0xB400, 1, 1, 1, .domain, aRo, (.lit 0), .any, false, .none⟩,
  ⟨"CertificateChain", 0xB400, 1, 2, 1, .domain, aRo, (.lit 0), .any, false, .none⟩,
  ⟨"MgmtMac", 0xB500, 1, 1, 1, .mac48, aRo, .factory, .any, true, .none⟩,
  ⟨"MgmtIpv4", 0xB500, 1, 2, 1, .ipaddr, aMH, (.lit 0), .any, true, .crs⟩,
  ⟨"MgmtIpv4Prefix", 0xB500, 1, 3, 1, .u8, aMH, (.lit 24), .between (8) 30, true, .crs⟩,
  ⟨"MgmtGateway", 0xB500, 1, 4, 1, .ipaddr, aMH, (.lit 0), .any, true, .crs⟩,
  ⟨"MgmtIpv6", 0xB500, 1, 5, 1, .ipaddr, aMH, (.lit 0), .any, true, .crs⟩,
  ⟨"MgmtIpv6Prefix", 0xB500, 1, 6, 1, .u8, aMH, (.lit 64), .between (16) 127, true, .crs⟩,
  ⟨"MgmtVid", 0xB500, 1, 7, 1, .u16, aMH, (.lit 0), .between 0 4094, true, .crs⟩,
  ⟨"BlpUdpPort", 0xB500, 1, 8, 1, .u16, aMH, (.lit 47205), .between (1024) 65535, true, .crs⟩,
  ⟨"MgmtAllowList", 0xB500, 1, 9, 1, .domain, aM, (.lit 0), .any, true, .crs⟩]

/-- Rows of area 0xC of the entry tables. -/
def odRowsC : List OdRow := [
  ⟨"SlotSequence", 0xC000, 1, 1, 2, .u32, aRo, (.lit 0), .any, false, .none⟩,
  ⟨"ActiveSlot", 0xC000, 1, 3, 1, .u8, aRo, (.lit 0), .any, false, .none⟩,
  ⟨"SlotCodes", 0xC000, 1, 4, 1, .u16, aRo, (.lit 0), .any, false, .none⟩,
  ⟨"ImageDownload", 0xC100, 1, 1, 1, .domain, wMH, (.lit 0), .any, true, .imm⟩,
  ⟨"ImageCommit", 0xC100, 1, 2, 1, .u8, wMH, (.lit 0), .between 0 1, true, .imm⟩,
  ⟨"ActivateSlot", 0xC100, 1, 3, 1, .u8, wM, (.lit 0), .between 0 1, false, .crs⟩,
  ⟨"SlotErase", 0xC100, 1, 4, 1, .u8, wM, (.lit 0), .between 0 1, true, .imm⟩,
  ⟨"SlotStatus", 0xC100, 1, 5, 1, .u16, aRo, (.lit 0), .any, false, .none⟩,
  ⟨"ActivationStatus", 0xC200, 1, 1, 1, .u32, aRo, (.lit 0), .any, false, .none⟩]

/-- Rows of area 0xD of the entry tables. -/
def odRowsDa : List OdRow := [
  ⟨"RxFrames", 0xD000, 256, 1, 1, .u64, aRo, (.lit 0), .any, false, .none⟩,
  ⟨"RxOctets", 0xD000, 256, 2, 1, .u64, aRo, (.lit 0), .any, false, .none⟩,
  ⟨"TxFrames", 0xD000, 256, 3, 1, .u64, aRo, (.lit 0), .any, false, .none⟩,
  ⟨"TxOctets", 0xD000, 256, 4, 1, .u64, aRo, (.lit 0), .any, false, .none⟩,
  ⟨"RxFcsErrors", 0xD000, 256, 5, 1, .u64, aRo, (.lit 0), .any, false, .none⟩,
  ⟨"RxRunts", 0xD000, 256, 6, 1, .u64, aRo, (.lit 0), .any, false, .none⟩,
  ⟨"RxOversize", 0xD000, 256, 7, 1, .u64, aRo, (.lit 0), .any, false, .none⟩,
  ⟨"RxPauseDiscarded", 0xD000, 256, 8, 1, .u64, aRo, (.lit 0), .any, false, .none⟩,
  ⟨"RxPfcFrames", 0xD000, 256, 9, 1, .u64, aRo, (.lit 0), .any, false, .none⟩,
  ⟨"TxPfcFrames", 0xD000, 256, 10, 1, .u64, aRo, (.lit 0), .any, false, .none⟩,
  ⟨"RxMacControlDiscarded", 0xD000, 256, 11, 1, .u64, aRo, (.lit 0), .any, false, .none⟩,
  ⟨"RxLldpDiscarded", 0xD000, 256, 12, 1, .u64, aRo, (.lit 0), .any, false, .none⟩,
  ⟨"RxNotUp", 0xD000, 256, 13, 1, .u64, aRo, (.lit 0), .any, false, .none⟩,
  ⟨"FecCorrectedCodewords", 0xD000, 256, 14, 1, .u64, aRo, (.lit 0), .any, false, .none⟩,
  ⟨"FecUncorrectedCodewords", 0xD000, 256, 15, 1, .u64, aRo, (.lit 0), .any, false, .none⟩,
  ⟨"FecCorrectedSymbols", 0xD000, 256, 16, 1, .u64, aRo, (.lit 0), .any, false, .none⟩,
  ⟨"PcsErroredBlocks", 0xD000, 256, 17, 1, .u64, aRo, (.lit 0), .any, false, .none⟩,
  ⟨"LinkUpCount", 0xD000, 256, 18, 1, .u64, aRo, (.lit 0), .any, false, .none⟩,
  ⟨"LinkDownEvents", 0xD000, 256, 19, 1, .u64, aRo, (.lit 0), .any, false, .none⟩,
  ⟨"LinkGlitches", 0xD000, 256, 20, 1, .u64, aRo, (.lit 0), .any, false, .none⟩,
  ⟨"AnFailures", 0xD000, 256, 21, 1, .u64, aRo, (.lit 0), .any, false, .none⟩,
  ⟨"TrainingFailures", 0xD000, 256, 22, 1, .u64, aRo, (.lit 0), .any, false, .none⟩,
  ⟨"LocalFaults", 0xD000, 256, 23, 1, .u64, aRo, (.lit 0), .any, false, .none⟩,
  ⟨"RemoteFaults", 0xD000, 256, 24, 1, .u64, aRo, (.lit 0), .any, false, .none⟩,
  ⟨"TailDropFrames", 0xD000, 256, 32, 8, .u64, aRo, (.lit 0), .any, false, .none⟩,
  ⟨"TailDropBricks", 0xD000, 256, 40, 8, .u64, aRo, (.lit 0), .any, false, .none⟩,
  ⟨"FlushedFrames", 0xD000, 256, 48, 1, .u64, aRo, (.lit 0), .any, false, .none⟩,
  ⟨"FlushedBricks", 0xD000, 256, 49, 1, .u64, aRo, (.lit 0), .any, false, .none⟩,
  ⟨"TxStomped", 0xD000, 256, 50, 1, .u64, aRo, (.lit 0), .any, false, .none⟩,
  ⟨"TxPortDown", 0xD000, 256, 51, 1, .u64, aRo, (.lit 0), .any, false, .none⟩]

/-- Rows of area 0xD of the entry tables. -/
def odRowsDb : List OdRow := [
  ⟨"LaunchLate", 0xD000, 256, 52, 1, .u64, aRo, (.lit 0), .any, false, .none⟩,
  ⟨"LaunchGateClosed", 0xD000, 256, 53, 1, .u64, aRo, (.lit 0), .any, false, .none⟩,
  ⟨"LaunchBeyondHorizon", 0xD000, 256, 54, 1, .u64, aRo, (.lit 0), .any, false, .none⟩,
  ⟨"LaunchListFull", 0xD000, 256, 55, 1, .u64, aRo, (.lit 0), .any, false, .none⟩,
  ⟨"LosslessDrops", 0xD000, 256, 56, 1, .u64, aRo, (.lit 0), .any, false, .none⟩,
  ⟨"HeadroomFrames", 0xD000, 256, 57, 1, .u64, aRo, (.lit 0), .any, false, .none⟩,
  ⟨"MirrorDrops", 0xD000, 256, 58, 1, .u64, aRo, (.lit 0), .any, false, .none⟩,
  ⟨"HostLoopbackFrames", 0xD000, 256, 59, 1, .u64, aRo, (.lit 0), .any, false, .none⟩,
  ⟨"LaunchIgnored", 0xD000, 256, 60, 1, .u64, aRo, (.lit 0), .any, false, .none⟩,
  ⟨"VlanIngressDrops", 0xD000, 256, 64, 1, .u64, aRo, (.lit 0), .any, false, .none⟩,
  ⟨"VlanInvalidDrops", 0xD000, 256, 65, 1, .u64, aRo, (.lit 0), .any, false, .none⟩,
  ⟨"InvalidSource", 0xD000, 256, 66, 1, .u64, aRo, (.lit 0), .any, false, .none⟩,
  ⟨"FilteredSamePort", 0xD000, 256, 67, 1, .u64, aRo, (.lit 0), .any, false, .none⟩,
  ⟨"FdbDropFrames", 0xD000, 256, 68, 1, .u64, aRo, (.lit 0), .any, false, .none⟩,
  ⟨"LearnRateDrops", 0xD000, 256, 69, 1, .u64, aRo, (.lit 0), .any, false, .none⟩,
  ⟨"LearnLimitDrops", 0xD000, 256, 70, 1, .u64, aRo, (.lit 0), .any, false, .none⟩,
  ⟨"MovesRefused", 0xD000, 256, 71, 1, .u64, aRo, (.lit 0), .any, false, .none⟩,
  ⟨"MoveSuppressed", 0xD000, 256, 72, 1, .u64, aRo, (.lit 0), .any, false, .none⟩,
  ⟨"StaticViolations", 0xD000, 256, 73, 1, .u64, aRo, (.lit 0), .any, false, .none⟩,
  ⟨"ParseStatus", 0xD000, 256, 80, 7, .u64, aRo, (.lit 0), .any, false, .none⟩,
  ⟨"Fragments", 0xD000, 256, 87, 1, .u64, aRo, (.lit 0), .any, false, .none⟩,
  ⟨"LinkLocalDrops", 0xD000, 256, 88, 1, .u64, aRo, (.lit 0), .any, false, .none⟩,
  ⟨"RoceFragmentDrops", 0xD000, 256, 89, 1, .u64, aRo, (.lit 0), .any, false, .none⟩,
  ⟨"CipherFragmentDrops", 0xD000, 256, 90, 1, .u64, aRo, (.lit 0), .any, false, .none⟩,
  ⟨"InnerDecryptRefused", 0xD000, 256, 91, 1, .u64, aRo, (.lit 0), .any, false, .none⟩,
  ⟨"GuardBandDeferrals", 0xD000, 256, 96, 1, .u64, aRo, (.lit 0), .any, false, .none⟩,
  ⟨"GateOverruns", 0xD000, 256, 97, 1, .u64, aRo, (.lit 0), .any, false, .none⟩,
  ⟨"SampleDrops", 0xD000, 256, 98, 1, .u64, aRo, (.lit 0), .any, false, .none⟩,
  ⟨"MacsecRxOk", 0xD000, 256, 112, 1, .u64, aRo, (.lit 0), .any, false, .none⟩,
  ⟨"MacsecRxUntagged", 0xD000, 256, 113, 1, .u64, aRo, (.lit 0), .any, false, .none⟩]

/-- Rows of area 0xD of the entry tables. -/
def odRowsDc : List OdRow := [
  ⟨"MacsecRxNoSci", 0xD000, 256, 114, 1, .u64, aRo, (.lit 0), .any, false, .none⟩,
  ⟨"MacsecRxNotValid", 0xD000, 256, 115, 1, .u64, aRo, (.lit 0), .any, false, .none⟩,
  ⟨"MacsecRxLate", 0xD000, 256, 116, 1, .u64, aRo, (.lit 0), .any, false, .none⟩,
  ⟨"MacsecTxProtected", 0xD000, 256, 117, 1, .u64, aRo, (.lit 0), .any, false, .none⟩,
  ⟨"MacsecTxNoSa", 0xD000, 256, 118, 1, .u64, aRo, (.lit 0), .any, false, .none⟩,
  ⟨"SealedDrops", 0xD000, 256, 119, 1, .u64, aRo, (.lit 0), .any, false, .none⟩,
  ⟨"CipherVerifyFailures", 0xD000, 256, 120, 1, .u64, aRo, (.lit 0), .any, false, .none⟩,
  ⟨"EspSpiMismatch", 0xD000, 256, 121, 1, .u64, aRo, (.lit 0), .any, false, .none⟩,
  ⟨"EspReplay", 0xD000, 256, 122, 1, .u64, aRo, (.lit 0), .any, false, .none⟩,
  ⟨"EspSeqExhausted", 0xD000, 256, 123, 1, .u64, aRo, (.lit 0), .any, false, .none⟩,
  ⟨"CipherOversize", 0xD000, 256, 124, 1, .u64, aRo, (.lit 0), .any, false, .none⟩,
  ⟨"WatchdogDrops", 0xD000, 256, 128, 1, .u64, aRo, (.lit 0), .any, false, .none⟩,
  ⟨"PolicerCounters", 0xD100, 32, 1, 1, .domain, aRo, (.lit 0), .any, false, .none⟩,
  ⟨"Suspensions", 0xD300, 57, 1, 1, .u64, aRo, (.lit 0), .any, false, .none⟩,
  ⟨"RequestsAtUrgency", 0xD300, 57, 2, 4, .u64, aRo, (.lit 0), .any, false, .none⟩,
  ⟨"LookAsideErrors", 0xD300, 57, 6, 1, .u64, aRo, (.lit 0), .any, false, .none⟩,
  ⟨"Allocations", 0xD400, 66, 1, 1, .u64, aRo, (.lit 0), .any, false, .none⟩,
  ⟨"Returns", 0xD400, 66, 2, 1, .u64, aRo, (.lit 0), .any, false, .none⟩,
  ⟨"AllocFailures", 0xD400, 66, 3, 1, .u64, aRo, (.lit 0), .any, false, .none⟩,
  ⟨"RefusedCommands", 0xD400, 66, 4, 1, .u64, aRo, (.lit 0), .any, false, .none⟩,
  ⟨"HodRxDrops", 0xD400, 66, 5, 1, .u64, aRo, (.lit 0), .any, false, .none⟩,
  ⟨"FreeMin", 0xD400, 66, 6, 1, .u64, aRo, (.lit 0), .any, false, .none⟩,
  ⟨"QuarantinedUnits", 0xD400, 66, 7, 1, .u64, aRo, (.lit 0), .any, false, .none⟩,
  ⟨"UnexpectedCompletions", 0xD500, 16, 1, 1, .u64, aRo, (.lit 0), .any, false, .none⟩,
  ⟨"CompletionTimeouts", 0xD500, 16, 2, 1, .u64, aRo, (.lit 0), .any, false, .none⟩,
  ⟨"UrSent", 0xD500, 16, 3, 1, .u64, aRo, (.lit 0), .any, false, .none⟩,
  ⟨"PeerPostedDropped", 0xD500, 16, 4, 1, .u64, aRo, (.lit 0), .any, false, .none⟩,
  ⟨"PoisonedReceived", 0xD500, 16, 5, 1, .u64, aRo, (.lit 0), .any, false, .none⟩,
  ⟨"PoisonForwarded", 0xD500, 16, 6, 1, .u64, aRo, (.lit 0), .any, false, .none⟩,
  ⟨"BmeDiscards", 0xD500, 16, 7, 1, .u64, aRo, (.lit 0), .any, false, .none⟩]

/-- Rows of area 0xD of the entry tables. -/
def odRowsDd : List OdRow := [
  ⟨"RxNoBuffer", 0xD500, 16, 8, 1, .u64, aRo, (.lit 0), .any, false, .none⟩,
  ⟨"RxHalted", 0xD500, 16, 9, 1, .u64, aRo, (.lit 0), .any, false, .none⟩,
  ⟨"TxOversize", 0xD500, 16, 10, 1, .u64, aRo, (.lit 0), .any, false, .none⟩,
  ⟨"ClassDowngrades", 0xD500, 16, 11, 1, .u64, aRo, (.lit 0), .any, false, .none⟩,
  ⟨"InterruptsRefused", 0xD500, 16, 12, 1, .u64, aRo, (.lit 0), .any, false, .none⟩,
  ⟨"MisalignedAccess", 0xD500, 16, 13, 1, .u64, aRo, (.lit 0), .any, false, .none⟩,
  ⟨"ShadowWriteBusy", 0xD500, 16, 14, 1, .u64, aRo, (.lit 0), .any, false, .none⟩,
  ⟨"MessagesDropped", 0xD500, 16, 15, 1, .u64, aRo, (.lit 0), .any, false, .none⟩,
  ⟨"SliceCounters", 0xD600, 1, 1, 1, .domain, aRo, (.lit 0), .any, false, .none⟩,
  ⟨"NamespaceCounters", 0xD700, 1, 1, 1, .domain, aRo, (.lit 0), .any, false, .none⟩,
  ⟨"LockWaits", 0xD710, 4, 1, 1, .u64, aRo, (.lit 0), .any, false, .none⟩,
  ⟨"StagingWaits", 0xD710, 4, 2, 1, .u64, aRo, (.lit 0), .any, false, .none⟩,
  ⟨"LateBackingCompletions", 0xD710, 4, 3, 1, .u64, aRo, (.lit 0), .any, false, .none⟩,
  ⟨"RemoteMalformed", 0xD710, 4, 4, 1, .u64, aRo, (.lit 0), .any, false, .none⟩,
  ⟨"SsdInboundRefused", 0xD720, 1, 1, 4, .u64, aRo, (.lit 0), .any, false, .none⟩,
  ⟨"IcrcErrors", 0xD740, 4, 1, 1, .u64, aRo, (.lit 0), .any, false, .none⟩,
  ⟨"UnknownQp", 0xD740, 4, 2, 1, .u64, aRo, (.lit 0), .any, false, .none⟩,
  ⟨"OutOfSequence", 0xD740, 4, 3, 1, .u64, aRo, (.lit 0), .any, false, .none⟩,
  ⟨"ReplayMiss", 0xD740, 4, 4, 1, .u64, aRo, (.lit 0), .any, false, .none⟩,
  ⟨"LateResponses", 0xD740, 4, 5, 1, .u64, aRo, (.lit 0), .any, false, .none⟩,
  ⟨"SendStampInvalid", 0xD740, 4, 6, 1, .u64, aRo, (.lit 0), .any, false, .none⟩,
  ⟨"DelayFallbacks", 0xD740, 4, 7, 1, .u64, aRo, (.lit 0), .any, false, .none⟩,
  ⟨"CnpDiscarded", 0xD740, 4, 8, 1, .u64, aRo, (.lit 0), .any, false, .none⟩,
  ⟨"QuiesceDiscards", 0xD740, 4, 9, 1, .u64, aRo, (.lit 0), .any, false, .none⟩,
  ⟨"ModeDiscards", 0xD740, 4, 10, 1, .u64, aRo, (.lit 0), .any, false, .none⟩,
  ⟨"DoorbellRefused", 0xD740, 4, 11, 1, .u64, aRo, (.lit 0), .any, false, .none⟩,
  ⟨"AsyncEvents", 0xD740, 4, 12, 1, .u64, aRo, (.lit 0), .any, false, .none⟩,
  ⟨"Retransmissions", 0xD740, 4, 13, 1, .u64, aRo, (.lit 0), .any, false, .none⟩,
  ⟨"RnrNaksSent", 0xD740, 4, 14, 1, .u64, aRo, (.lit 0), .any, false, .none⟩,
  ⟨"RemoteAccessNaks", 0xD740, 4, 15, 1, .u64, aRo, (.lit 0), .any, false, .none⟩]

/-- Rows of area 0xD of the entry tables. -/
def odRowsDe : List OdRow := [
  ⟨"DuplicatesAcked", 0xD740, 4, 16, 1, .u64, aRo, (.lit 0), .any, false, .none⟩,
  ⟨"BricksInjected", 0xD800, 57, 1, 6, .u64, aRo, (.lit 0), .any, false, .none⟩,
  ⟨"LentSlotsUsed", 0xD800, 57, 7, 1, .u64, aRo, (.lit 0), .any, false, .none⟩,
  ⟨"CorrectedErrors", 0xD800, 57, 8, 1, .u64, aRo, (.lit 0), .any, false, .none⟩,
  ⟨"UncorrectedErrors", 0xD800, 57, 9, 1, .u64, aRo, (.lit 0), .any, false, .none⟩,
  ⟨"AlignedReleased", 0xD900, 256, 1, 1, .u64, aRo, (.lit 0), .any, false, .none⟩,
  ⟨"AlignedLate", 0xD900, 256, 2, 1, .u64, aRo, (.lit 0), .any, false, .none⟩,
  ⟨"AlignedOverflow", 0xD900, 256, 3, 1, .u64, aRo, (.lit 0), .any, false, .none⟩,
  ⟨"AlignedRateExceeded", 0xD900, 256, 4, 1, .u64, aRo, (.lit 0), .any, false, .none⟩,
  ⟨"StreamLateFrames", 0xDA00, 1, 1, 1, .domain, aRo, (.lit 0), .any, false, .none⟩,
  ⟨"FdbBucketFull", 0xDB00, 1, 1, 1, .u64, aRo, (.lit 0), .any, false, .none⟩,
  ⟨"NotifyDrops", 0xDB00, 1, 2, 1, .u64, aRo, (.lit 0), .any, false, .none⟩,
  ⟨"HbmLookupOverrun", 0xDB00, 1, 3, 1, .u64, aRo, (.lit 0), .any, false, .none⟩,
  ⟨"KeystoneRefused", 0xDB10, 1, 1, 1, .u64, aRo, (.lit 0), .any, false, .none⟩,
  ⟨"CommandRejected", 0xDB10, 1, 2, 1, .u64, aRo, (.lit 0), .any, false, .none⟩,
  ⟨"RefusedWrites", 0xDB30, 1, 1, 1, .u64, aRo, (.lit 0), .any, false, .none⟩,
  ⟨"BlpFramesDiscarded", 0xDB30, 1, 2, 1, .u64, aRo, (.lit 0), .any, false, .none⟩,
  ⟨"OpenFailures", 0xDB30, 1, 3, 1, .u64, aRo, (.lit 0), .any, false, .none⟩,
  ⟨"Retransmitted", 0xDB30, 1, 4, 1, .u64, aRo, (.lit 0), .any, false, .none⟩,
  ⟨"OutOfOrderDiscarded", 0xDB30, 1, 5, 1, .u64, aRo, (.lit 0), .any, false, .none⟩,
  ⟨"MailboxRefused", 0xDB30, 1, 6, 1, .u64, aRo, (.lit 0), .any, false, .none⟩,
  ⟨"ApplyRetries", 0xDB30, 1, 7, 1, .u64, aRo, (.lit 0), .any, false, .none⟩,
  ⟨"EventsOverwritten", 0xDB30, 1, 8, 1, .u64, aRo, (.lit 0), .any, false, .none⟩,
  ⟨"EventsSuppressed", 0xDB30, 1, 9, 1, .u64, aRo, (.lit 0), .any, false, .none⟩,
  ⟨"MgmtDiscarded", 0xDB30, 1, 10, 1, .u64, aRo, (.lit 0), .any, false, .none⟩,
  ⟨"MgmtRateDrops", 0xDB30, 1, 11, 1, .u64, aRo, (.lit 0), .any, false, .none⟩,
  ⟨"PrpDuplicates", 0xDB30, 1, 12, 1, .u64, aRo, (.lit 0), .any, false, .none⟩,
  ⟨"PrpWrongLan", 0xDB30, 1, 13, 1, .u64, aRo, (.lit 0), .any, false, .none⟩,
  ⟨"SramCorrected", 0xDB50, 1, 1, 1, .u64, aRo, (.lit 0), .any, false, .none⟩,
  ⟨"SramUncorrected", 0xDB50, 1, 2, 1, .u64, aRo, (.lit 0), .any, false, .none⟩]

/-- Rows of area 0xD of the entry tables. -/
def odRowsDf : List OdRow := [
  ⟨"HbmCorrected", 0xDB50, 1, 3, 1, .u64, aRo, (.lit 0), .any, false, .none⟩,
  ⟨"HbmUncorrected", 0xDB50, 1, 4, 1, .u64, aRo, (.lit 0), .any, false, .none⟩,
  ⟨"HbmRowsRepaired", 0xDB50, 1, 5, 1, .u64, aRo, (.lit 0), .any, false, .none⟩,
  ⟨"TableEntriesReloaded", 0xDB50, 1, 6, 1, .u64, aRo, (.lit 0), .any, false, .none⟩,
  ⟨"TileFirmwareRestarts", 0xDB50, 1, 7, 1, .u64, aRo, (.lit 0), .any, false, .none⟩,
  ⟨"MonFramingErrors", 0xDB70, 1, 1, 1, .u64, aRo, (.lit 0), .any, false, .none⟩,
  ⟨"MonRxOverflow", 0xDB70, 1, 2, 1, .u64, aRo, (.lit 0), .any, false, .none⟩,
  ⟨"MonLineTooLong", 0xDB70, 1, 3, 1, .u64, aRo, (.lit 0), .any, false, .none⟩,
  ⟨"MonBaudFailures", 0xDB70, 1, 4, 1, .u64, aRo, (.lit 0), .any, false, .none⟩,
  ⟨"MonBlockDiscarded", 0xDB70, 1, 5, 1, .u64, aRo, (.lit 0), .any, false, .none⟩,
  ⟨"UnlockFailures", 0xDB70, 1, 6, 1, .u64, aRo, (.lit 0), .any, false, .none⟩,
  ⟨"ResetGlitches", 0xDB90, 1, 1, 1, .u64, aRo, (.lit 0), .any, false, .none⟩,
  ⟨"WallForeign", 0xDC00, 1, 1, 1, .u64, aRo, (.lit 0), .any, false, .none⟩,
  ⟨"HopStampInvalid", 0xDC00, 1, 2, 1, .u64, aRo, (.lit 0), .any, false, .none⟩,
  ⟨"SyncDiscarded", 0xDC00, 1, 3, 1, .u64, aRo, (.lit 0), .any, false, .none⟩,
  ⟨"HelloDiscarded", 0xDC00, 1, 4, 1, .u64, aRo, (.lit 0), .any, false, .none⟩,
  ⟨"DuplicatesDiscarded", 0xDD00, 64, 1, 1, .u64, aRo, (.lit 0), .any, false, .none⟩,
  ⟨"OutOfWindow", 0xDD00, 64, 2, 1, .u64, aRo, (.lit 0), .any, false, .none⟩,
  ⟨"NodeTableFull", 0xDD00, 64, 3, 1, .u64, aRo, (.lit 0), .any, false, .none⟩,
  ⟨"WrongLan", 0xDD00, 64, 4, 1, .u64, aRo, (.lit 0), .any, false, .none⟩,
  ⟨"HsrRemoved", 0xDD00, 64, 5, 1, .u64, aRo, (.lit 0), .any, false, .none⟩,
  ⟨"RuleCounters", 0xDE00, 32, 1, 1, .domain, aRo, (.lit 0), .any, false, .none⟩,
  ⟨"IngressMisses", 0xDE00, 32, 2, 1, .u64, aRo, (.lit 0), .any, false, .none⟩,
  ⟨"EgressMisses", 0xDE00, 32, 3, 1, .u64, aRo, (.lit 0), .any, false, .none⟩,
  ⟨"Hits", 0xDE20, 16, 1, 1, .u64, aRo, (.lit 0), .any, false, .none⟩,
  ⟨"Misses", 0xDE20, 16, 2, 1, .u64, aRo, (.lit 0), .any, false, .none⟩,
  ⟨"ExactOverrun", 0xDE20, 16, 3, 1, .u64, aRo, (.lit 0), .any, false, .none⟩,
  ⟨"ExceptionSent", 0xDE40, 32, 1, 8, .u64, aRo, (.lit 0), .any, false, .none⟩,
  ⟨"ExceptionRateDrops", 0xDE40, 32, 9, 8, .u64, aRo, (.lit 0), .any, false, .none⟩,
  ⟨"FramesDispatchedIngress", 0xDF00, 32, 1, 1, .u64, aRo, (.lit 0), .any, false, .none⟩]

/-- Rows of area 0xD of the entry tables. -/
def odRowsDg : List OdRow := [
  ⟨"FramesDispatchedEgress", 0xDF00, 32, 2, 1, .u64, aRo, (.lit 0), .any, false, .none⟩,
  ⟨"ProgramFaultsIngress", 0xDF00, 32, 3, 1, .u64, aRo, (.lit 0), .any, false, .none⟩,
  ⟨"ProgramFaultsEgress", 0xDF00, 32, 4, 1, .u64, aRo, (.lit 0), .any, false, .none⟩,
  ⟨"EventsSentIngress", 0xDF00, 32, 5, 1, .u64, aRo, (.lit 0), .any, false, .none⟩,
  ⟨"EventsSentEgress", 0xDF00, 32, 6, 1, .u64, aRo, (.lit 0), .any, false, .none⟩,
  ⟨"EventDropsIngress", 0xDF00, 32, 7, 1, .u64, aRo, (.lit 0), .any, false, .none⟩,
  ⟨"EventDropsEgress", 0xDF00, 32, 8, 1, .u64, aRo, (.lit 0), .any, false, .none⟩,
  ⟨"ClassWriteRefusedIngress", 0xDF00, 32, 9, 1, .u64, aRo, (.lit 0), .any, false, .none⟩,
  ⟨"ClassWriteRefusedEgress", 0xDF00, 32, 10, 1, .u64, aRo, (.lit 0), .any, false, .none⟩,
  ⟨"CourseHandlerRunsIngress", 0xDF00, 32, 11, 1, .u64, aRo, (.lit 0), .any, false, .none⟩,
  ⟨"CourseHandlerRunsEgress", 0xDF00, 32, 12, 1, .u64, aRo, (.lit 0), .any, false, .none⟩,
  ⟨"EngineSubstitutionsIngress", 0xDF00, 32, 13, 1, .u64, aRo, (.lit 0), .any, false, .none⟩,
  ⟨"EngineSubstitutionsEgress", 0xDF00, 32, 14, 1, .u64, aRo, (.lit 0), .any, false, .none⟩]

/-- All rows of area 0xD. -/
def odRowsD : List OdRow := odRowsDa ++ odRowsDb ++ odRowsDc ++ odRowsDd ++ odRowsDe ++ odRowsDf ++ odRowsDg

/-- Rows of area 0xE of the entry tables. -/
def odRowsE : List OdRow := [
  ⟨"MonitorLevel", 0xE000, 1, 1, 1, .u8, aRo, (.lit 0), .any, false, .none⟩,
  ⟨"MonitorBaud", 0xE000, 1, 2, 1, .u32, aRo, (.lit 115200), .any, false, .none⟩,
  ⟨"MonitorIdleTimeout", 0xE000, 1, 3, 1, .u32, aM, (.lit 300), .between (30) 86400, true, .crs⟩,
  ⟨"MonitorLevelCap", 0xE000, 1, 4, 1, .u8, aKs, (.lit 2), .between (0) 2, true, .crs⟩,
  ⟨"RecoveryRequested", 0xE000, 1, 5, 1, .bool, aRo, (.lit 0), .any, true, .none⟩,
  ⟨"HbmRepairThreshold", 0xE100, 1, 1, 1, .u16, aM, (.lit 16), .between (1) 1024, true, .crs⟩,
  ⟨"HbmSpareRows", 0xE100, 1, 2, 1, .domain, aRo, (.lit 0), .any, false, .none⟩,
  ⟨"RetiredPages", 0xE100, 1, 3, 1, .domain, aRo, (.lit 0), .any, true, .none⟩,
  ⟨"TileTemperature", 0xE200, 1, 1, 1, .domain, aRo, (.lit 0), .any, false, .none⟩,
  ⟨"HbmTemperature", 0xE200, 1, 2, 1, .i16, aRo, (.lit 0), .any, false, .none⟩,
  ⟨"ThermalAlertLimit", 0xE200, 1, 3, 1, .u8, aM, (.lit 100), .between (70) 105, true, .crs⟩,
  ⟨"MaxTemperature", 0xE200, 1, 4, 1, .i16, aRo, (.lit 0), .any, false, .none⟩,
  ⟨"RailStatus", 0xE200, 1, 5, 1, .u16, aRo, (.lit 511), .any, false, .none⟩,
  ⟨"LastResetCause", 0xE200, 1, 6, 1, .u8, aRo, (.lit 0), .any, false, .none⟩,
  ⟨"RefclkTimeFrequency", 0xE200, 1, 7, 1, .u8, aRo, (.lit 0), .any, false, .none⟩,
  ⟨"RefclkSysState", 0xE200, 1, 8, 1, .u8, aRo, (.lit 0), .any, false, .none⟩]

/-- The rows of an index area (chapter "Scope and conventions", index areas). -/
def odArea : Nat → List OdRow
  | 0x1 => odRows1
  | 0x2 => odRows2
  | 0x3 => odRows3
  | 0x4 => odRows4
  | 0x5 => odRows5
  | 0x6 => odRows6
  | 0x7 => odRows7
  | 0x8 => odRows8
  | 0x9 => odRows9
  | 0xA => odRowsA
  | 0xB => odRowsB
  | 0xC => odRowsC
  | 0xD => odRowsD
  | 0xE => odRowsE
  | _ => []

/-- The row's index range holds `index`. -/
def OdRow.hasIndex (r : OdRow) (index : Nat) : Bool := r.base ≤ index && index < r.base + r.count

/-- The row's subindex range holds `sub`. -/
def OdRow.hasSub (r : OdRow) (sub : Nat) : Bool := r.sub ≤ sub && sub < r.sub + r.subCount

/-- Pool numbers of R370 leave gaps, and NSIDs run from 1 (R447): indexes inside a row's range that hold no entry. -/
def odIndexHole (index : Nat) : Bool :=
  index == 0x9000 || (0x4936 ≤ index && index < 0x4940) || (0xD436 ≤ index && index < 0xD440)

/-- Some entry has this index (status 0x01 otherwise). -/
def odIndexKnown (index : Nat) : Bool :=
  !odIndexHole index && (odArea (index / 4096)).any (fun r => r.hasIndex index)

/-- The entry at a key: its row, or none where the index or the subindex names no entry. -/
def odRow? (key : Nat) : Option OdRow :=
  if odIndexHole (key / 256) then none
  else (odArea (key / 0x100000)).find? (fun r => r.hasIndex (key / 256) && r.hasSub (key % 256))

/-- Width in bits of a type whose value is one number; 0 for the others. -/
def OdType.bits : OdType → Nat
  | .bool | .u8 | .i8 => 8
  | .u16 | .i16 => 16
  | .u32 | .i32 => 32
  | .u64 | .i64 | .ts64 => 64
  | .time96 => 96
  | .mac48 => 48
  | .ipaddr => 128
  | .string _ | .domain | .key => 0

/-- A value of manufacture of an entry: the identity the manual fixes for a PX7256 of revision B0 and its variant (R6,
R72), the active image's level for WallFeatureLevel and WallMinSupported as for SupportedLevel (R252), the base of its microcode with no patch (R308), and else what the factory or the shipped image gave it, within its type. -/
def OdRow.factoryValue (r : OdRow) (key : Nat) : Nat :=
  if key = 0x100000 then 0x725600B0 + 0x100 * (if Config.extended then 0x58 else 0x53)
  else if key = 0x250001 then boolNat Config.extended
  else if key = 0x250004 then (if Config.extended then 100 else 250)
  else if key = 0x101004 then Config.factory key % 2 ^ 16 * 2 ^ 16
  else if key = 0x580004 ∨ key = 0x580007 then Config.factory 0x580006 % 2 ^ 16
  else if r.type = .bool then Config.factory key % 2
  else Config.factory key % 2 ^ r.type.bits

/-- The default of an entry, which is what a key the dictionary does not list reads as.
[DESIGN CHOICE: log entry 6] -/
def odDefault (key : Nat) : Nat :=
  match odRow? key with
  | none => 0
  | some r =>
    match r.dflt with
    | .lit v => v
    | .subs l => l.getD (key % 256 - r.sub) 0
    | .factory => r.factoryValue key

/-- The type's code in BLP, the mailbox and the core window (R536). -/
def OdType.code : OdType → Nat
  | .bool => 0x01 | .u8 => 0x02 | .u16 => 0x03 | .u32 => 0x04 | .u64 => 0x05
  | .i8 => 0x06 | .i16 => 0x07 | .i32 => 0x08 | .i64 => 0x09
  | .time96 => 0x0A | .ts64 => 0x0B | .mac48 => 0x0C | .ipaddr => 0x0D
  | .string _ => 0x0E | .domain => 0x0F | .key => 0x10

/-- The type's values are signed. -/
def OdType.signed : OdType → Bool
  | .i8 | .i16 | .i32 | .i64 => true
  | _ => false

/-- The number a raw value of this type stands for. -/
def OdType.decode (t : OdType) (raw : Nat) : Int :=
  if t.signed then toSigned t.bits raw else (raw : Int)

/-- The entry is a counter, which takes part in snapshots (R113): area 0xD (R175, R220, R253, R287, R313, R368, R387,
R422, R441, R474, R504, R555, R573), and the counters that stand among their chapter's entries: StretchedCourses,
BudgetRefusals, the PTP counters of each port and the capture counters of each pin. -/
def odIsCounter (key : Nat) : Bool :=
  key / 0x100000 == 0xD || key == 0x210005 || key == 0x213001
    || (0x240000 ≤ key && key < 0x250000 && 0x20 ≤ key % 256 && key % 256 ≤ 0x24)
    || (0x260000 ≤ key && key < 0x262000 && (key % 256 == 0x0B || key % 256 == 0x0C))

end Sys2Proof.Machine
end

