-- ==== Sys2Proof/Machine/Tables.lean ====
section
/-! DEFINITION. Machine/Tables.lean: a sparse table from a number to a value, held as a list of pairs in one
canonical form: keys strictly rising, and no pair whose value is what an unlisted key reads as. The dictionary, the
memories and every per-port, per-tile and per-queue record of State are such tables, so equal contents are equal
data. -/

namespace Sys2Proof.Machine

/-- What key `k` reads as: the value listed for it, or `d`. [DESIGN CHOICE: log entry 126] -/
def tblGet {α : Type} (d : α) : List (Nat × α) → Nat → α
  | [], _ => d
  | (k', v) :: t, k => if k = k' then v else tblGet d t k

/-- `t` with key `k` listed as `v`, in key order. -/
def tblPut {α : Type} : List (Nat × α) → Nat → α → List (Nat × α)
  | [], k, v => [(k, v)]
  | (k', v') :: t, k, v =>
    if k < k' then (k, v) :: (k', v') :: t
    else if k = k' then (k, v) :: t
    else (k', v') :: tblPut t k v

/-- `t` with key `k` no longer listed. -/
def tblDel {α : Type} : List (Nat × α) → Nat → List (Nat × α)
  | [], _ => []
  | (k', v') :: t, k => if k = k' then tblDel t k else (k', v') :: tblDel t k

/-- Write `v` at key `k` of a table whose unlisted keys read `d`: writing `d` unlists the key. -/
def tblSet {α : Type} [DecidableEq α] (d : α) (t : List (Nat × α)) (k : Nat) (v : α) : List (Nat × α) :=
  if v = d then tblDel t k else tblPut t k v

/-- The keys of a table rise strictly, all of them above `lo` (`none`: no lower bound). -/
def tblRising {α : Type} : Option Nat → List (Nat × α) → Bool
  | _, [] => true
  | none, (k, _) :: t => tblRising (some k) t
  | some lo, (k, _) :: t => decide (lo < k) && tblRising (some k) t

/-- The canonical form: keys strictly rising, and no listed value equal to what its key reads as unlisted. -/
def tblWf {α : Type} [DecidableEq α] (d : Nat → α) (t : List (Nat × α)) : Bool :=
  tblRising none t && t.all (fun e => decide (e.2 ≠ d e.1))

end Sys2Proof.Machine
end

