-- ==== Sys2Proof/Machine/State.lean ====
section
/-! DEFINITION. Machine/State.lean: the state of the PX7256 as plain data. The Basine dictionary holds every
configuration entry, status word and counter under its own number (one home for each register); what the chapters
give the device beyond its entries (timers, queues, tables, keys, requests in flight, links, latches) stands in the
structures below, chapter by chapter. A table is sparse and canonical (Machine/Tables.lean). -/

namespace Sys2Proof.Machine

/-! ## Time, course, dictionary agent, event log (chapters "Time base and timestamps", "The course: tick-bound
operation", "Basine object dictionary and management network") -/

/-- A running timer (R115): the course it was armed in, and the courses carried over from before a change of
CourseLength (R610). -/
structure Timer where
  armed : Nat
  carried : Nat
  deriving DecidableEq, Repr

/-- The time base and the course (R55, R100, R105). Instants are TAI in units of 2^-16 ns, the resolution of TS96. -/
structure Clock where
  /-- Instant at which the course in force began. -/
  start : Nat
  /-- The present instant within the course. -/
  off : Nat
  /-- Instant of the next course boundary. -/
  finish : Nat
  /-- Instant of the whole second at which CoursePending takes effect (R107). -/
  lengthAt : Nat
  /-- The source's time is to be set at the coming boundary (R63, FREE_RUN to ACQUIRING with TimeValid 0). -/
  setFromSource : Option Nat
  /-- REFCLK_TIME is present and on frequency (R55). -/
  refclkTime : Bool
  /-- The frequency reference in use: 0 REFCLK_TIME, 1 REFCLK_SYS, 2 + lane for a syntonised lane (R55, R62). -/
  reference : Nat
  /-- A counter snapshot is due in the course in force and has not been taken (R113). -/
  snapshot : Bool
  deriving DecidableEq, Repr

/-- A source of time (R58, R59). -/
structure Source where
  qualified : Bool
  lost : Bool
  /-- It has delivered a measurement since it last restarted qualification. -/
  qualifying : Bool
  /-- Consecutive outliers. -/
  outliers : Nat
  /-- Offset of the time base from the source, at its last measurement, in 2^-16 ns; none since time was stepped
  (R66). -/
  offset : Option Int
  /-- It has delivered any measurement. -/
  measured : Bool
  deriving DecidableEq, Repr

/-- The servo's internal counts (R63, R65). -/
structure Servo where
  sources : List (Nat × Source)
  /-- Consecutive measurements of the selected source within LockThreshold. -/
  good : Nat
  /-- Consecutive measurements of the selected source beyond UnlockThreshold. -/
  bad : Nat
  /-- Sources that delivered a measurement used in the ended course, with the offset, oldest first. -/
  fresh : List (Nat × Int)
  /-- Held by a Keystone handover: no transition is evaluated (R560). -/
  held : Bool
  /-- The frequency corrections of the last LOCKED period since the servo left HOLDOVER or FREE_RUN, and of the ACQUIRING
  period, newest first, each with how long it stood, in 2^-16 ns (R65). -/
  locked : List (Nat × Int)
  acquiring : List (Nat × Int)
  deriving DecidableEq, Repr

/-- A lane's phase detector (R68): the readings kept, whether phase is held, and agreeing readings in a row. -/
structure Detector where
  readings : List Int
  holding : Bool
  agreeing : Nat
  /-- ESMC quality level last received, lower is better; `none` before any (R62). -/
  quality : Option Nat
  deriving DecidableEq, Repr

/-- The constants applied to a lane (R70, R73): receive and transmit, in 1/1,024 ns, as last computed for the tile's
temperature. -/
structure LaneConst where
  rx : Int
  tx : Int
  deriving DecidableEq, Repr

/-- SyncE selection (R62): the lane in use, a lane whose hold-off runs, lanes waiting to restore. -/
structure Synce where
  lane : Option Nat
  holdOff : Option Nat
  waiting : List Nat
  failed : List Nat
  deriving DecidableEq, Repr

/-- A PTP port's protocol state (R58, R82 to R86). -/
structure PtpPort where
  /-- Profile attempt running, 1 to 4 in the order of R84; 0 none. -/
  attempt : Nat
  /-- The attempt's success has been seen. -/
  matched : Bool
  /-- A valid Announce has arrived within AnnounceReceiptTimeout, with this data set. -/
  announced : Bool
  dataSet : List Nat
  /-- The clock identities its PATH_TRACE named (R83). -/
  path : List Nat
  /-- A Pdelay_Resp of domain 0 has arrived in the power-profile attempt (R84, order 2). -/
  pdelaySeen : Bool
  /-- An Announce of domain 0 has arrived in the power-profile attempt. -/
  zeroSeen : Bool
  /-- The partner's L1_SYNC has brought the port to L1_SYNC_UP (R84, order 1). -/
  l1Up : Bool
  /-- 60 s wait after a failed negotiation (R85). -/
  failed : Bool
  /-- The last profile tried, in the order of R84; 0 none (R85). -/
  lastTried : Nat
  /-- Sequence number, ingress stamp and correction of a two-step Sync whose Follow_Up is awaited. -/
  syncSeq : Option (Nat × Nat × Int)
  /-- Egress stamp of the last Delay_Req or Pdelay_Req sent, with its sequence number. -/
  reqSent : Option (Nat × Nat)
  /-- Sequence number, t2, t4 and correction of a two-step Pdelay_Resp awaiting its Follow_Up. -/
  pdelayHeld : Option (Nat × Nat × Nat × Int)
  /-- The stamps t1 and t2 of the last completed Sync, for the delay request-response mechanism. -/
  lastSync : Option (Nat × Nat)
  /-- Messages let through of late (R86): type, second and course of each, newest first. -/
  passed : List (Nat × Nat × Int)
  /-- Next sequence number to send. -/
  nextSeq : Nat
  /-- Intervals the partner has asked for, within the port's ranges (R82). -/
  askedSync : Option Int
  askedAnnounce : Option Int
  /-- Messages held by a Keystone handover with their stamps, oldest first, at most 64 (R560). -/
  held : List (PtpHeader × PtpMsg × Nat)
  /-- Follow_Up messages held by a Keystone handover: sequence number and transmit stamp, oldest first (R560). -/
  followUps : List (Nat × Nat)
  deriving DecidableEq, Repr

/-- A timing pin (R88 to R92). -/
structure Pin where
  /-- Captures waiting for the owner: stamp and polarity. -/
  fifo : List (Nat × Bool)
  lastEdge : Option Nat
  /-- The gap has been reported (R90). -/
  reported : Bool
  /-- The set in force may generate (it passed the check of R91). -/
  genArmed : Bool
  /-- Edges generated from the set in force. -/
  generated : Nat
  /-- Sets committed for the coming boundary, oldest first: StartTime, Period, Width, Count, OutputDelay; and the mode in
  force before the boundary's writes, when TioMode is written (R91). -/
  commits : List (Nat × Nat × Nat × Nat × Int)
  was : Option Nat
  deriving DecidableEq, Repr

/-- One record of the event log (R551). -/
structure EventRec where
  code : Nat
  severity : Nat
  timeValid : Bool
  sequence : Nat
  time : Nat
  param : Nat
  deriving DecidableEq, Repr

/-- What one write brings: a scalar entry and its raw value, or a DOMAIN or STRING entry and its bytes. -/
inductive Item where
  | num (key val : Nat)
  | raw (key : Nat) (bytes : List Byte)
  deriving DecidableEq, Repr

/-- An accepted write of effect Crs waiting for its boundary (R119). -/
structure CrsWrite where
  ctx : Nat
  item : Item
  /-- The course that begins when it applies. -/
  course : Nat
  deriving DecidableEq, Repr

/-- An accepted set commit waiting for its boundary (R119, R121, R534). -/
structure Commit where
  ctx : Nat
  items : List Item
  /-- The first course at whose beginning it may apply. -/
  course : Nat
  /-- Target time in 2^-16 ns, 0 for none. -/
  target : Nat
  deriving DecidableEq, Repr

/-- A response: its status and the bytes that follow it. -/
structure Resp where
  status : Nat
  data : List Byte
  deriving DecidableEq, Repr

/-- An open BLP session (R544 to R547, R553). -/
structure Session where
  id : Nat
  signer : Nat
  /-- 0 UDP, 1 monitor. -/
  path : Nat
  version : Nat
  /-- Highest Sequence processed. -/
  high : Nat
  /-- Responses of the last 16 requests processed, newest first, with their Sequence and message type. -/
  stored : List (Nat × Nat × Resp)
  /-- The two direction keys (R544). -/
  keys : List Byte
  opened : Nat
  last : Nat
  minSeverity : Option Nat
  /-- Records waiting for a NOTIFY, oldest first. -/
  waiting : List EventRec
  notifySeq : Nat
  /-- The second in force and the NOTIFY messages sent in it (R608). -/
  second : Nat
  sent : Nat
  deriving DecidableEq, Repr

/-- A handshake between OPEN_REPLY and OPEN_FINISH (R544). -/
structure Handshake where
  sid : Nat
  source : Nat
  signer : Nat
  version : Nat
  path : Nat
  /-- The OPEN and OPEN_REPLY exchanged, which the signatures of OPEN_FINISH cover. -/
  transcript : List Byte
  deriving DecidableEq, Repr

/-- A segmented write in progress (R548). -/
structure Transfer where
  ctx : Nat
  key : Nat
  total : Nat
  bytes : List Byte
  /-- Status of a check already failed, 0 for none. -/
  failed : Nat
  deriving DecidableEq, Repr

/-- The copy a SEG_READ sequence is served from (R548). -/
structure ReadCopy where
  ctx : Nat
  key : Nat
  bytes : List Byte
  deriving DecidableEq, Repr

/-- A PF0 mailbox or core window (R549, R550). -/
structure Mailbox where
  busy : Bool
  responseReady : Bool
  refused : Bool
  requestLength : Nat
  responseLength : Nat
  /-- The request and the response area. -/
  request : List Byte
  response : List Byte
  deriving DecidableEq, Repr

/-- A dictionary request with its operands, as a frame carries it (R542). [DESIGN CHOICE: log entry 84] -/
inductive Ask where
  | close
  | read (key : Nat)
  /-- `stopped` says that the cores a mode change or TileSleep concerns are stopped. -/
  | write (key : Nat) (v : WireValue) (stopped : Bool)
  | commit (target : Nat)
  | describe (key : Nat)
  | abortStaged
  | segWrite (key : Nat) (first last : Bool) (offset total : Nat) (data : List Byte) (stopped : Bool)
  | segRead (key offset : Nat)
  | subscribe (minSeverity : Nat)
  | keepAlive
  deriving DecidableEq, Repr

/-- What a Keystone handover makes wait (R560): a request, an OPEN, an OPEN_FINISH. -/
inductive Held where
  | ask (r : Req) (a : Ask)
  | open_ (o : OpenFrame)
  | finish (f : FinishFrame)
  deriving DecidableEq, Repr

/-- A value whose delivery on VN4 to a tile was lost and is resent at each boundary (R535). -/
structure Delivery where
  tile : Nat
  item : Item
  /-- It comes from a Keystone command. -/
  signed : Bool
  /-- Failed resends. -/
  resends : Nat
  deriving DecidableEq, Repr

/-- The dictionary agent and the management network (R530 to R553). -/
structure Agent where
  crs : List CrsWrite
  commits : List Commit
  /-- Staged items by writer context (R533). -/
  staged : List (Nat × List Item)
  /-- The argument of each query entry, by writer context and key (R552). -/
  args : List (Nat × List Byte)
  sessions : List Session
  /-- SessionIds of ended sessions, whose later requests are answered 0x08 (R546). -/
  ended : List Nat
  handshakes : List Handshake
  /-- Refusals under status 0x09: source address and course (R545). -/
  refusals : List (Nat × Int)
  /-- Blocked source addresses. -/
  blocked : List Nat
  transfers : List Transfer
  copies : List ReadCopy
  mailboxes : List (Nat × Mailbox)
  cores : List (Nat × Mailbox)
  /-- Tiles whose next delivery on VN4 is lost (R41, R535). -/
  losing : List Nat
  lost : List Delivery
  /-- A Keystone handover runs (R560). -/
  handover : Bool
  /-- The requests it makes wait, oldest first. -/
  held : List Held
  deriving DecidableEq, Repr

/-- The event log (R551, R552). [DESIGN CHOICE: log entry 51] -/
structure EventLog where
  /-- The ring, newest first. -/
  ring : List EventRec
  /-- The second in force and the events logged in it. -/
  second : Nat
  logged : Nat
  /-- Courses at which a rate-limited event was logged, by code and instance. -/
  limits : List (Nat × List Nat)
  deriving DecidableEq, Repr

/-- A management port node (R540, R541): links, duplicate window by source, frames accepted in the second. -/
structure Mgmt where
  linkA : Bool
  linkB : Bool
  /-- Sequence numbers accepted from each source, with their courses, newest first. -/
  nodes : List (Nat × List (Nat × Int))
  second : Nat
  framesA : Nat
  framesB : Nat
  degradedReported : Bool
  deriving DecidableEq, Repr

/-- No session, nothing staged, every mailbox idle. -/
def Agent.reset : Agent where
  crs := []
  commits := []
  staged := []
  args := []
  sessions := []
  ended := []
  handshakes := []
  refusals := []
  blocked := []
  transfers := []
  copies := []
  mailboxes := []
  cores := []
  losing := []
  lost := []
  handover := false
  held := []

/-! ## Why a step can stop -/

/-- Faults of the model. None of the manual's commands stops the device: this one is raised by nothing and stands for
the interface's second outcome. -/
inductive Fault where
  /-- Raised by no command; the manual gives every event an outcome (R8). Safe. -/
  | unreachable
  deriving DecidableEq, Repr

/-- Refusals of the model. -/
inductive Refusal where
  /-- A command with no meaning yet, by its mnemonic. Safe: nothing is claimed of it. -/
  | notModelled (mnemonic : String)
  deriving DecidableEq, Repr

/-! ## What the device hands to the outside -/

/-- How a PTP message is carried (R83, R84). -/
structure PtpVia where
  /-- 0 layer 2, 1 UDP/IPv4, 2 UDP/IPv6. -/
  transport : Nat
  /-- The Ethertype, 0x88F7, or the UDP port, 319 or 320. -/
  number : Nat
  /-- The destination address the manual names. -/
  dst : Option Nat
  domain : Nat
  /-- 1 E2E, 2 P2P. -/
  mechanism : Nat
  deriving DecidableEq, Repr

/-- Something sent, driven or answered. [DESIGN CHOICE: log entries 8, 86, 127] -/
inductive Out where
  /-- A BLP, mailbox or core-window response: context, message type, Sequence, status and the bytes after it. -/
  | blp (ctx msg seq status : Nat) (data : List Byte)
  /-- A NOTIFY: session, its own sequence, the records (R553). -/
  | notify (session seq : Nat) (events : List EventRec)
  /-- A description of an entry (R542, DESCRIBE). -/
  | describe (ctx : Nat) (row : OdRow)
  /-- A PTP message sent on a port: name, how it is carried (none: as it came in), sequence number, clockIdentity,
  instants and corrections it carries, TLVs (R82, R83). -/
  | ptp (port : Nat) (name : String) (via : Option PtpVia) (seq clock : Nat) (fields : List Int) (tlvs : List PtpTlv)
  /-- A pin driven: its name, its number, the level or edge, and the instant. -/
  | pin (name : String) (n : Nat) (level : Bool) (time : Nat)
  /-- A frame handed to a port's transmitter: its bytes and its egress instant. -/
  | frame (port : Nat) (bytes : List Byte) (time : Nat)
  /-- A PFC frame: port, priorities enabled, quanta (R188). -/
  | pfc (port enable quanta : Nat)
  /-- An LLDPDU: port, destination address, chassis ID; TTL, PFC enables, priority assignment, RoCE priority, ETS shares
  (R164). -/
  | lldp (port dest chassis : Nat) (fields : List Nat)
  /-- A frame sent on a management port. -/
  | mgmt (portB : Bool) (bytes : List Byte)
  /-- A record or frame for a destination queue (Dest encoding of the forwarding chapter): kind and content. -/
  | queue (dest : Nat) (kind : String) (data : List Byte)
  /-- A write to host memory: link, function, PASID, address, Relaxed Ordering, EP, bytes. -/
  | hostWrite (link fn : Nat) (pasid : Option Nat) (addr : Nat) (relaxed poisoned : Bool) (bytes : List Byte)
  /-- A read request to host memory: link, function, PASID, Relaxed Ordering, tag, address, length. -/
  | hostRead (link fn : Nat) (pasid : Option Nat) (relaxed : Bool) (tag addr len : Nat)
  /-- An interrupt message: link, function, address, data. -/
  | interrupt (link fn addr data : Nat)
  /-- A completion to a request from a host: link, function, PCIe completion status, data. -/
  | completion (link fn status : Nat) (data : List Byte)
  /-- A core interrupt or a record written to a core's memory. -/
  | core (n : Nat) (kind : String) (data : List Byte)
  /-- Serial output of the Lamil monitor. -/
  | monitor (text : String) (data : List Byte)
  /-- An SPDM response: request code, response code, data. -/
  | spdm (request response : Nat) (data : List Byte)
  /-- A command to an SSD or remote target: backing, name, fields. -/
  | backing (unit : Nat) (name : String) (fields : List Nat)
  deriving DecidableEq, Repr

/-! ## The Mortar (chapter "Tiles, Mortar and data paths") -/

/-- The tag that travels with a brick (R27). -/
structure BrickTag where
  destTile : Nat
  srcTile : Nat
  vn : Nat
  first : Bool
  last : Bool
  /-- Number of valid bytes, 1 to 256. -/
  valid : Nat
  trafficClass : Nat
  handle : Nat
  deriving DecidableEq, Repr

/-- A brick on its way (R27, R39): its tag, the tiles it is still to be written at, and whether it is a response on
VN5, which has credits of its own (R37). -/
structure Brick where
  tag : BrickTag
  dests : List Nat
  response : Bool
  deriving DecidableEq, Repr

/-- The fabric's links (R30 to R39). -/
structure Mortar where
  /-- Slot time of the fastest link counted since reset, modulo the longest wheel (R29). -/
  tick : Nat
  /-- Bricks ready for injection, in the order in which they became ready. -/
  ready : List Brick
  /-- Injected copies that wait for room in the input buffer of their destination (R39). -/
  copies : List Brick
  /-- Bricks in the input buffers of their destinations, one destination each (R36). -/
  inputs : List Brick
  deriving DecidableEq, Repr

/-- A request to HBM (R43): its activity, the pseudo-channel it is placed on, what it names, the tile it comes from. -/
structure HbmRequest where
  activity : Nat
  channel : Nat
  line : Nat
  tile : Nat
  deriving DecidableEq, Repr

/-- HBM and the system cache (R43, R45): requests waiting at MT, oldest first, and the lines held, newest first, with
the activity whose partition holds each. -/
structure Memory where
  waiting : List HbmRequest
  cache : List (Nat × Nat)
  /-- Responses delivered poisoned to a tile whose data has not been used: the tile and what they name (R41). -/
  poisoned : List (Nat × Nat)
  deriving DecidableEq, Repr

/-! ## Ports and links (chapter "Lanes, ports and link negotiation") -/

/-- What a port's bring-up and its peer have brought (R157 to R171), beside its status entries. -/
structure Port where
  /-- The partner advertises RS-FEC ability at 25 GbE, and RS(544,514) at 50 GbE or faster (R159). -/
  rsFec : Bool
  rs544 : Bool
  /-- Training is complete and lock is awaited (step 4). -/
  trained : Bool
  /-- Consecutive training failures and the speed they were at (R160). -/
  failSpeed : Nat
  failCount : Nat
  /-- A reported link-down cause that acts at the coming boundary, or under a running LinkDownHold (R170). -/
  downCause : Option Nat
  /-- Held down by the mode 6 port limit until the next start-up (R153). -/
  limited : Bool
  /-- PortEnable has been written 0 since it last applied as 1 (R161). -/
  disabledOnce : Bool
  /-- The peer's last LLDPDU (R165). -/
  peer : Option LldpBody
  /-- DCBX settings are to be resolved at the coming boundary (R167). -/
  dcbxDue : Bool
  /-- The second in force and the LLDPDUs received in it (R168). -/
  second : Nat
  lldpdus : Nat
  deriving DecidableEq, Repr

/-! ## Switch core and scheduler (chapters "Switch core and output buffering", "Scheduling, shaping, time gates and
policing") -/

/-- The completion a transmit frame asks for (R402): queue pair, cookie, and whether it waits for the transmit stamp. -/
structure TxDone where
  queue : Nat
  cookie : Nat
  stamp : Bool
  epoch : Nat
  deriving DecidableEq, Repr

/-- A RoCEv2 packet of a service tile, as its transmitter must stamp it (R494, R497): queue pair, PSN of a request,
where its BTH stands in the frame, length of its IP header, and bytes from its BTH to its ICRC. -/
structure Roce where
  qpn : Nat
  request : Option Nat
  bth : Nat
  ip : Nat
  len : Nat
  deriving DecidableEq, Repr

/-- A frame inside the device, from its destination address up to but not including its FCS. -/
structure Frame where
  /-- Its handle (R27). -/
  id : Nat
  /-- Ingress port, 256 + host function number, or 512 + core. -/
  src : Nat
  bytes : List Byte
  cls : Nat
  /-- Ingress timestamp, and the course in which it falls (R79, R208). -/
  stamp : Nat
  course : Nat
  /-- An FCS error, an excess of length or a failed inline check: a cut-through copy is ended with a bad FCS (R180). -/
  bad : Bool
  /-- The ingress port validates the frame inline (R178). -/
  inline : Bool
  /-- Launch time (R199, R204) and the stream it comes from. -/
  launch : Option Nat
  stream : Option Nat
  /-- Instant of admission (R332). -/
  admitted : Nat
  /-- It is a mirror copy (R197). -/
  mirror : Bool
  /-- Frame metadata and the rule that set it (R273), for completion records. -/
  metaValue : Nat
  ruleId : Nat
  /-- VLAN and drop-eligible bit the frame is sent with: VID and DEI (R222, R337). -/
  vid : Nat
  dei : Bool
  /-- Transmit completion asked for (R402). -/
  completion : Option TxDone
  /-- Byte offsets at which TSW is to add the residence time at transmission (R294). -/
  tsw : List Nat
  /-- The outer PCP to transmit, and whether the bytes carry an outer tag (R222, R291). -/
  pcp : Nat
  tagged : Bool
  /-- Sequence number of the redundancy trailer or tag it is sent with towards a pair (R250). -/
  red : Option Nat
  /-- Decrypted inline, for the completion record (R403), and MACsec removed inline, for the key (R263). -/
  decrypted : Bool
  macsec : Bool
  /-- Class on arrival of a received frame, by which lookups choose their region (R267). -/
  arrival : Option Nat
  /-- ESP or the authentication extension was added at ingress (R359, R360). -/
  protected_ : Bool
  /-- The exception header it is delivered behind (R283). -/
  exc : Option Nat
  /-- It was admitted to its egress queue in cut-through (R177). -/
  cut : Bool
  /-- A packet of a queue pair. -/
  roce : Option Roce
  /-- The class its bricks are charged under (R182, R188). -/
  acct : Nat
  /-- Instant at which its last byte has arrived (R178, R179). -/
  lastAt : Nat
  /-- Where this copy's bricks are held: its destination's tile, or in mode 6 the crosspoints of its port, 64 + port
  (R39, R182, R213). -/
  place : Nat
  deriving DecidableEq, Repr

/-- A frame on its way over the Mortar to one destination (R185): the tile its bricks come from and their network (R37).
One released by an aligned queue to a core goes by a relay tile, with its Late bit (R211). -/
structure Transit where
  frame : Frame
  dst : Dst
  src : Nat
  vn : Nat
  relay : Option Nat
  late : Bool
  deriving DecidableEq, Repr

/-- A class queue of an egress port (R182, R319, R322, R332). -/
structure Queue where
  frames : List Frame
  deficit : Nat
  /-- Credit in 2^-16 byte, and the remainder of the exact addition in 1/8,000,000 of it. -/
  credit : Int
  creditRem : Nat
  /-- Instant until which received PFC pauses the class; 0 when not paused. -/
  pausedUntil : Nat
  /-- Handle of the head frame already counted in GuardBandDeferrals. -/
  deferred : Option Nat
  depthSample : Nat
  depthMax : Nat
  delaySample : Nat
  delayMax : Nat
  /-- Input index the crosspoints are searched from in mode 6 (R213). -/
  roundRobin : Nat
  deriving DecidableEq, Repr

/-- A gate control list (R325): base time in 2^-16 ns, and entries of gate states and interval in ns. -/
structure GateList where
  base : Nat
  entries : List (Nat × Nat)
  deriving DecidableEq, Repr

/-- A frame the port has selected: its bytes as sent, without FCS, the transmit stamp, and the instant the transmitter is
free again; `none` while its egress program runs. -/
structure Sending where
  frame : Frame
  out : List Byte
  stamp : Nat
  ends : Option Nat
  deriving DecidableEq, Repr

/-- An egress port (R199, R315, R319, R328). -/
structure Egress where
  /-- The launch list, by launch time. -/
  launch : List Frame
  /-- The frame selected and not yet ended. -/
  sending : Option Sending
  /-- Classes with frames waiting, in round order (R319). -/
  round : List Nat
  gate : Option GateList
  gatePending : Option GateList
  /-- Gate states in force at the end of the course before this one (R330). -/
  gateWas : Nat
  /-- The pending list's change boundary (R328). -/
  gateChange : Nat
  deriving DecidableEq, Repr

/-- What an ingress port and class holds (R187, R188). -/
structure Ingress where
  /-- Bricks its frames hold anywhere in the device. -/
  held : Nat
  /-- Frames parked in headroom with their egress port and brick count, oldest first. -/
  parked : List (Frame × Nat × Nat)
  /-- XOFF has been sent and not yet ended, and the instant it was last sent. -/
  xoff : Bool
  sentAt : Nat
  /-- The priorities the outstanding XOFF has paused (R192). -/
  paused : Nat
  deriving DecidableEq, Repr

/-- An aligned receive queue (R207 to R210): frames held with the course at whose end they are released and whether
they came late, and how many frames of each course were admitted. -/
structure Aligned where
  held : List (Frame × Nat × Bool)
  counts : List (Nat × Nat)
  /-- HoldCourses and AlignedEnable as they stood for frames stamped before a course, newest change first (R219). -/
  past : List (Nat × Nat × Bool)
  deriving DecidableEq, Repr

/-- A policer's configuration (R335 to R337), the fields of its 32-byte record. -/
structure PolicerEntry where
  kind : Nat
  colourAware : Bool
  yellowAction : Nat
  redAction : Nat
  yellowClass : Nat
  overhead : Int
  cir : Nat
  pirEir : Nat
  cbs : Nat
  pbsEbs : Nat
  deriving DecidableEq, Repr

/-- What a policer still takes for a frame (R336): the instant the frame ends, the bytes, and the buckets they come from. -/
structure Owed where
  due : Nat
  rest : Nat
  fromC : Bool
  fromP : Bool
  deriving DecidableEq, Repr

/-- A policer (R335): its entry and bucket levels in 2^-16 byte, with the remainders of the exact additions, and its counters: green, yellow
and red frames and bytes (R341). -/
structure Policer where
  entry : PolicerEntry
  c : Int
  p : Int
  cRem : Nat
  pRem : Nat
  counts : List Nat
  /-- Lengths still to be taken, of frames whose length was not known at the test (R336). -/
  owed : List Owed
  deriving DecidableEq, Repr

/-- A frame that waits for delivery to a host receive queue (R403): Dest, Late bit, and the aligned queue it came by. -/
structure Rx where
  dest : Nat
  frame : Frame
  late : Bool
  via : Option Nat
  deriving DecidableEq, Repr

/-- The switch core's own records. -/
structure Switch where
  /-- Frames on their way to a destination, oldest first. -/
  transit : List Transit
  /-- The next frame handle. -/
  nextId : Nat
  /-- Shared-pool bricks in use by tile, and class 7 bricks by port. -/
  shared : List (Nat × Nat)
  /-- Copies of a frame charged to a tile: key tile × 2^32 + handle (R182). -/
  charges : List (Nat × Nat)
  /-- Copies of a frame anywhere in the device, by handle. -/
  copies : List (Nat × Nat)
  queues : List (Nat × Queue)
  egress : List (Nat × Egress)
  ingress : List (Nat × Ingress)
  aligned : List (Nat × Aligned)
  policers : List (Nat × Policer)
  /-- Running ports of each tile in mode 6, fixed at start-up (R213). -/
  running : List Nat
  /-- Frames for host receive queues that wait for delivery, oldest first (R403). -/
  rx : List Rx
  /-- Frames dropped for want of room in a compute tile's frame buffer, by receiving core (R50). -/
  coreDrops : List (Nat × Nat)
  deriving DecidableEq, Repr

/-- A mode change (R136 to R145) beside its status entry. -/
structure ModeChange where
  /-- The target of a change whose flip boundary is awaited, and whether it leaves mode 7. -/
  target : Option Nat
  leaving : Bool
  /-- The course length the change carries, 0 for none. -/
  length : Nat
  /-- The course at whose beginning the flip falls when no new length is carried. -/
  flipCourse : Nat
  /-- Pseudo-channels still to migrate, in order, with their new activity; the first is migrating once started. -/
  migrating : List (Nat × Nat)
  /-- Entry to mode 7 at the next boundary, with its cause. -/
  safe : Option Nat
  /-- Stop after the migration in progress (R145). -/
  stopping : Bool
  /-- StartupModePending has been logged. -/
  pendingLogged : Bool
  /-- The copy of the pseudo-channel that migrates is complete; it passes at the next boundary (R140). -/
  copied : Bool
  deriving DecidableEq, Repr


/-! ## Forwarding tables, the Wall, redundancy (chapter "Forwarding tables, learning and the Wall") -/

/-- An FDB entry that lookups may see (R225). -/
structure FdbEntry where
  static : Bool
  pinned : Bool
  hit : Bool
  /-- It lives in the HBM part (R239). -/
  hbm : Bool
  origin : Nat
  destKind : Nat
  fid : Nat
  mac : Nat
  gen : Nat
  owner : Nat
  dest : Nat
  /-- LearnTime (R249): TAI nanoseconds of the boundary that began the course of the learn. -/
  time : Nat
  deriving DecidableEq, Repr

/-- The filtering database's own records (R225 to R240); keys are fid × 2^48 + MAC. -/
structure Fwd where
  fdb : List (Nat × FdbEntry)
  /-- Courses of an entry's last 64 moves, newest first (R230). -/
  moves : List (Nat × List Nat)
  /-- Learns of the course in force by tile, HBM lookups by tile, and notifications sent (R230, R233, R240). -/
  learned : List (Nat × Nat)
  lookups : List (Nat × Nat)
  notified : Nat
  deriving DecidableEq, Repr

/-- A neighbour on a Wall port (R243): its last hello, and the one-way delay in 2^-16 ns. -/
structure Neighbour where
  hello : WallHeader
  delay : Int
  deriving DecidableEq, Repr

/-- The Wall (R243 to R249). -/
structure Wall where
  /-- By port × 512 + DeviceId. -/
  neighbours : List (Nat × Neighbour)
  /-- Instants of the hellos accepted on each port (R243). -/
  hellos : List (Nat × List Int)
  /-- The next Sequence by MsgType. -/
  sequence : List (Nat × Nat)
  minHops : Nat
  /-- A hello arrived or a neighbour was lost since the last boundary; WallMinSupported changed at it (R244). -/
  changed : Bool
  levelDue : Bool
  /-- A conflict of DeviceId holds this device in state 0, for this DeviceId (R247). -/
  yielded : Option Nat
  /-- Neighbours whose conflict has been logged. -/
  conflicts : List Nat
  /-- The own fields of the hello last sent. -/
  sent : List Nat
  /-- Sequence of the last sync message by sender (R249). -/
  synced : List (Nat × Nat)
  /-- Records the synchronisation agent of mode 5 applies at the coming boundary: op and entry (R249). -/
  records : List (Nat × FdbEntry)
  deriving DecidableEq, Repr

/-- A redundancy pair's records (R250, R251). [DESIGN CHOICE: log entry 31] -/
structure Redundancy where
  /-- Sources by pair × 2^48 + MAC: sequence numbers accepted with their courses, newest first. -/
  nodes : List (Nat × List (Nat × Int))
  /-- Frames sent into an HSR ring, in the same form (R251). -/
  sent : List (Nat × List (Nat × Int))
  /-- The next sequence number by pair. -/
  sequence : List (Nat × Nat)
  /-- Pairs whose degradation has been reported. -/
  reported : List Nat
  deriving DecidableEq, Repr

/-! ## Classification (chapter "Parsing and classification") -/

/-- A ternary entry (R266, R278): its place, RuleId, priority, key, mask, action and Live bits. -/
structure Rule where
  index : Nat
  id : Nat
  priority : Nat
  key : Nat
  mask : Nat
  action : Nat
  live : Nat
  deriving DecidableEq, Repr

/-- A tile's ternary partitions (R266, R278 to R280): both pipelines share one epoch. -/
structure Ternary where
  ingress : List Rule
  egress : List Rule
  epoch : Nat
  /-- A committed set is staged under the other epoch. -/
  staged : Bool
  /-- The course that began at the last flip, until its cleanup. -/
  flipped : Option Nat
  deriving DecidableEq, Repr

/-- An exact-match entry (R270). -/
structure ExactEntry where
  key : Nat
  action : Nat
  bucket : Nat
  live : Nat
  hit : Bool
  deriving DecidableEq, Repr

/-- An exact-match table (R269 to R280). -/
structure Exact where
  entries : List ExactEntry
  epoch : Nat
  staged : Bool
  flipped : Option Nat
  deriving DecidableEq, Repr

/-- A rule's counters (R281). -/
structure RuleCount where
  frames : Nat
  bytes : Nat
  overflow : Nat
  deriving DecidableEq, Repr

/-- The classification records. -/
structure Classify where
  ternary : List (Nat × Ternary)
  exact : List (Nat × Exact)
  /-- By tile × 2^32 + RuleId. -/
  counts : List (Nat × RuleCount)
  /-- Frames a rule has passed to the engines in the course in force, by pipeline × 2^32 + RuleId (R276). -/
  passed : List (Nat × Nat)
  /-- Exact-match lookup credit of each tile's ingress pipeline, in 1/1,000 (R271). -/
  credit : List (Nat × Nat)
  /-- Exception tokens by 8 × tile + reason − 1, in 2^-16 (R284). -/
  tokens : List (Nat × Nat)
  deriving DecidableEq, Repr

/-! ## Trowel (chapter "Trowel engines and microcode") -/

/-- A program in a pipeline's store (R296 to R298). -/
structure Program where
  words : List Nat
  keystone : Bool
  address : Nat
  worst : Nat
  deriving DecidableEq, Repr

/-- A frame with the pipeline (R300): what the classification gave it and what follows its program. -/
structure Job where
  frame : Frame
  /-- Ingress or egress pipeline, and the egress port of the latter. -/
  egress : Bool
  port : Nat
  /-- Class its order is kept in. -/
  order : Nat
  /-- Mirror sessions of an egress action (R196). -/
  mask : Nat
  /-- It is for one of the device's RDMA interfaces (R275). -/
  rdma : Bool
  program : Option Program
  /-- Forwarding result, and the ports of its VLAN (R224). -/
  dsts : List Dst
  members : Nat
  /-- Disposition 3: a copy follows (R275). -/
  copy : Bool
  /-- Cleartext in mode 4, judged by its class as it leaves (R129, R362). -/
  clear : Bool
  appId : Nat
  packetType : Nat
  udf : List Nat
  /-- The configuration in force at its decision point (R111). -/
  dict : List (Nat × Nat)
  doms : List (Nat × List Byte)
  /-- The program has ended, or there is none: it leaves when the frames before it have. -/
  done : Bool
  deriving DecidableEq, Repr

/-- An engine's program in progress (R290). -/
structure Run where
  /-- The frame's job; none for the course handler (R304). -/
  job : Option Job
  words : List Nat
  keystone : Bool
  pc : Nat
  regs : List Word32
  z : Bool
  c : Bool
  /-- Bytes inserted and removed so far, and the frame at dispatch (R302, R294 CSUM). -/
  inserted : Nat
  removed : Nat
  original : List Byte
  /-- The result FWD named: kind and Dest. -/
  fwd : Option (Nat × Nat)
  deriving DecidableEq, Repr

/-- A pipeline's queues (R300, R304, R309). -/
structure Pipe where
  high : List Job
  low : List Job
  /-- Every frame that has not left the pipeline, by decision point. -/
  leaving : List Job
  courseEvent : Bool
  spareUsed : Bool
  lost : Bool
  deriving DecidableEq, Repr

/-- A microcode patch (R306): level, ApplyAt, its words by bank offset, and its dispatch updates: opcode, cycles,
microaddress. -/
structure Patch where
  level : Nat
  applyAt : Nat
  words : List (Nat × Nat)
  updates : List (Nat × Nat × Nat)
  deriving DecidableEq, Repr

/-- The Trowel's records. Pipelines are 2 × tile for ingress and 2 × tile + 1 for egress; engines 4 × pipeline + n. -/
structure Trowel where
  programs : List (Nat × Program)
  /-- Store of replaced versions: pipeline, address, length, and the course from which it is free (R299). -/
  retired : List (Nat × Nat × Nat × Nat)
  runs : List (Nat × Run)
  pipes : List (Nat × Pipe)
  /-- Engines given up (R310). -/
  dead : List Nat
  /-- State memory words by pipeline × 16,384 + word (R290). -/
  memory : List (Nat × Nat)
  /-- The patch banks of the microstore, by address from 0xE00 (R305). -/
  micro : List (Nat × Nat)
  /-- The patch in force, the one switching with the one before it, the engines that have switched, and the bank in use
  (R307). -/
  patch : Option Patch
  was : Option Patch
  switching : Option Patch
  switched : List Nat
  bank : Nat
  deriving DecidableEq, Repr

/-! ## Cipher clusters and key slots (chapter "Cipher clusters and key slots") -/

/-- A key slot (R347, R349): owner kind 0 free, 1 dictionary, 2 slice. [DESIGN CHOICE: log entry 97] -/
structure KeySlot where
  owner : Nat
  slice : Nat
  algorithm : Nat
  key : List Byte
  uses : Nat
  /-- The PN after the last one that MACsec has sent under the key (R354). -/
  nextPn : Nat
  deriving DecidableEq, Repr

/-- A MACsec SA (R354, R355). -/
structure MacsecSa where
  inUse : Bool
  slot : Nat
  ssci : Nat
  pn : Nat
  salt : Nat
  thresholdLogged : Bool
  exhaustedLogged : Bool
  deriving DecidableEq, Repr

/-- An ESP SA (R357): the record's fields, and the sequence numbers seen in its replay window. -/
structure EspSa where
  flags : Nat
  templateLength : Nat
  spi : Nat
  sequence : Nat
  window : Nat
  template : List Byte
  seen : List Nat
  deriving DecidableEq, Repr

/-- A look-aside request (R363): where it came from, its descriptor, and the slot contents at its decision point. -/
structure CipherReq where
  id : Nat
  /-- 0 slice, 1 core, 2 Keystone; and its number. -/
  kind : Nat
  number : Nat
  link : Nat
  descriptor : Nat
  slot : KeySlot
  /-- Source, AAD and tag bytes by place: the source from 0, the AAD from 2^32, the tag from 2^33. -/
  parts : List (Nat × List Byte)
  /-- Its inputs have all come. -/
  ready : Bool
  /-- A status decided before it runs, or none. -/
  refused : Option Nat
  deriving DecidableEq, Repr

/-- A look-aside cluster's cores (R343 to R346). -/
structure Cluster where
  running : List CipherReq
  suspended : List CipherReq
  waiting : List CipherReq
  deriving DecidableEq, Repr

/-- A request of an inline cluster: its urgency and the time its core still needs. -/
structure InlineJob where
  urgency : Nat
  left : Nat
  deriving DecidableEq, Repr

/-- An inline cluster (R343 to R346): what its 8 cores run, in the order they started it, what is suspended, what waits in
order of arrival, and the instant up to which this stands. -/
structure InlineCluster where
  running : List InlineJob
  suspended : List InlineJob
  waiting : List InlineJob
  stands : Nat
  deriving DecidableEq, Repr

/-- The cipher's records. -/
structure Cipher where
  slots : List (Nat × KeySlot)
  /-- By port × 32 + channel × 4 + AN. -/
  sas : List (Nat × MacsecSa)
  esp : List (Nat × EspSa)
  /-- Authentication records by slot: TagBytes and KeyId (R360). -/
  auth : List (Nat × Nat × Nat)
  clusters : List (Nat × Cluster)
  /-- Inline clusters by port tile. -/
  inlines : List (Nat × InlineCluster)
  nextReq : Nat
  deriving DecidableEq, Repr

/-! ## The Hod (chapter "The Hod buffer pool manager") -/

/-- A unit of a compute-tile pool or of pool 0x41 that is allocated (R373): its named last owner, FreeArmed, the holders
known by OwnerId and those ADDREF has added, who name themselves by their first command.
[DESIGN CHOICE: log entry 49] -/
structure HodUnit where
  owner : Nat
  armed : Bool
  named : List Nat
  anonymous : Nat
  deriving DecidableEq, Repr

/-- The Hod's records: allocated units and generations by pool × 2^32 + unit, bricks held in host- and service-tile
pools, units quarantined (R385). -/
structure Hod where
  units : List (Nat × HodUnit)
  gens : List (Nat × Nat)
  used : List (Nat × Nat)
  quarantined : List Nat
  deriving DecidableEq, Repr

/-! ## Host endpoint (chapter "Host endpoint") -/

/-- What a device read to host memory is for. -/
inductive DmaKind where
  | txDescriptor | rxDescriptor | txPayload | dirtyDescriptor | dirtyMark | lookAside | storage | rdma
  deriving DecidableEq, Repr

/-- A device read that has not ended (R391, R410, R411). `queue` is the queue pair's key; `id` and `part` tell its use
apart: a frame and a byte offset, a block and a word, a request and an input. -/
structure Dma where
  tag : Nat
  kind : DmaKind
  /-- 4 × link + function. -/
  fn : Nat
  /-- The slice whose operation it is; none for a descriptor of the dirty log. -/
  slice : Option Nat
  queue : Nat
  id : Nat
  part : Nat
  addr : Nat
  len : Nat
  /-- A tag is allotted and the request is out. -/
  issued : Bool
  /-- Its completion timeout in ms, shortened by a reset (R414). -/
  limit : Nat
  /-- It carries Relaxed Ordering (R408). -/
  relaxed : Bool
  /-- Its data is discarded when it arrives (R413, R414). -/
  discard : Bool
  deriving DecidableEq, Repr

/-- A transmit frame being gathered (R400 to R402): its descriptors, the payload parts read, and the status that ends
it, none while it may still be sent. -/
structure TxFrame where
  id : Nat
  descs : List Nat
  parts : List (Nat × List Byte)
  /-- Every descriptor of the frame has been read. -/
  ended : Bool
  /-- Its bricks are taken, and payload bytes have been requested. -/
  started : Bool
  fetched : Nat
  status : Nat
  deriving DecidableEq, Repr

/-- A queue pair: the queue context of R398, its doorbells (R400), and the device's own place in the rings. -/
structure QueuePair where
  txBase : Nat
  rxBase : Nat
  cqBase : Nat
  txLog : Nat
  rxLog : Nat
  cqLog : Nat
  enable : Bool
  /-- Enable 0 has been written and its requests drain (R399). -/
  stopping : Bool
  launchTime : Bool
  halted : Bool
  refused : Bool
  txPort : Nat
  coalesceCourses : Nat
  coalesceCount : Nat
  vector : Nat
  txHead : Nat
  rxHead : Nat
  cqTail : Nat
  txTail : Nat
  rxTail : Nat
  cqHead : Nat
  /-- Next receive descriptor to fetch, and those fetched and not yet used. -/
  rxFetch : Nat
  rxDescs : List Nat
  /-- Phase of the next completion record, slots not released, and records waiting for one (R404). -/
  phase : Bool
  cqUsed : Nat
  cqWaiting : List Nat
  armed : Bool
  /-- Courses in which unsignalled records were written, oldest first (R418). -/
  unsignalled : List Nat
  building : List TxFrame
  nextFrame : Nat
  /-- TxHead, RxHead, CqTail and Phase for the next Enable 1, from SliceState (R438). -/
  restored : Option (Nat × Nat × Nat × Bool)
  /-- Times it has been reset: frames of an earlier life complete to nothing. -/
  epoch : Nat
  deriving DecidableEq, Repr

/-- An MSI-X table or interrupt-store entry (R419). -/
structure ImsEntry where
  addr : Nat
  data : Nat
  masked : Bool
  pending : Bool
  deriving DecidableEq, Repr

/-- A function of a link (R393 to R395, R413, R414, R419): the configuration registers it acts on. -/
structure HostFn where
  command : Nat
  bars : List Nat
  /-- Power state: 0 D0, 3 D3hot. -/
  power : Nat
  deviceControl : Nat
  deviceControl2 : Nat
  msixControl : Nat
  aerUncorrectable : Nat
  aerCorrectable : Nat
  /-- A function-level reset is in progress. -/
  resetting : Bool
  msix : List (Nat × ImsEntry)
  store : List (Nat × ImsEntry)
  /-- Slice interrupt windows by slice: the 4-byte words. -/
  windows : List (Nat × Nat)
  deriving DecidableEq, Repr

/-- The event ring of a PF3 (R405, R406, R413). -/
structure EventRing where
  base : Nat
  log : Nat
  enable : Bool
  halted : Bool
  vector : Nat
  tail : Nat
  head : Nat
  used : Nat
  phase : Bool
  armed : Bool
  /-- Records waiting by pin × 8 + kind: their Timestamp (R406). -/
  waiting : List (Nat × Nat)
  /-- TimeMid and TimeHigh as TimeLow's last read latched them (R405). -/
  latched : Nat
  deriving DecidableEq, Repr

/-- A peer window's registers (R415, R416). -/
structure PeerWindow where
  /-- The 256 bits of shadow fields, in the layout of Active. -/
  shadow : Nat
  active : Nat
  pending : Bool
  error : Bool
  /-- The course that begins at the boundary it is to apply at. -/
  course : Nat
  deriving DecidableEq, Repr

/-- The host endpoint's records: functions by 4 × link + function, queue pairs by function × 2^18 + slice × 64 + pair. -/
structure HostSide where
  fns : List (Nat × HostFn)
  queues : List (Nat × QueuePair)
  reads : List Dma
  nextTag : Nat
  rings : List (Nat × EventRing)
  windows : List (Nat × PeerWindow)
  /-- WriteStatus of each pin block by link × 32 + pin (R406). -/
  pinStatus : List (Nat × Nat)
  /-- Bytes of HBM that peers have written, by HBM address (R415). -/
  peer : List Host.Cell
  deriving DecidableEq, Repr

/-! ## Slices (chapter "Slices and live migration") -/

/-- A slice's resource set (R424). -/
structure SliceSet where
  ports : List Byte
  link : Nat
  functions : Nat
  queuePairs : Nat
  trackerMin : Nat
  trackerMax : Nat
  keySlots : Nat
  namespaces : Nat
  rdmaQps : Nat
  regions : Nat
  txBricks : Nat
  deriving DecidableEq, Repr

/-- The dirty log's geometry in force (R434). -/
structure DirtyLog where
  bitmap0 : Nat
  bitmap1 : Nat
  start : Nat
  pages : Nat
  deriving DecidableEq, Repr

/-- A slice control block of one function (R427 to R437). -/
structure SliceBlock where
  descriptor : Nat
  pasid : Nat
  bound : Bool
  /-- Bound 0 has been written and the queue pairs stop (R427). -/
  unbinding : Bool
  bindRefused : Bool
  resetPending : Bool
  quiesce : Bool
  quiesced : Bool
  logEnable : Bool
  flipPending : Bool
  /-- The flip has happened and its marks are being written. -/
  flipped : Bool
  active : Bool
  outOfRange : Bool
  logError : Bool
  log : Option DirtyLog
  /-- Pages written before the descriptor has been read. -/
  early : List Nat
  /-- DirtyLogEnable and DirtyFlip writes waiting for their boundary: 0 disable, 1 enable, 2 flip; and its course. -/
  due : List (Nat × Nat)
  deriving DecidableEq, Repr

/-- The slices' records: sets and counters by slice, blocks by function × 4,096 + slice. -/
structure Slices where
  sets : List (Nat × SliceSet)
  blocks : List (Nat × SliceBlock)
  /-- Tracked operations in flight (R431). -/
  ops : List (Nat × Nat)
  /-- RxQuiesced, OpsDeferred, TxBricksWaits, DirtyOutOfRange, DirtyLogWrites, SliceSetRefused (R441). -/
  counts : List (Nat × List Nat)
  deriving DecidableEq, Repr

/-! ## Storage (chapter "Storage front end") -/

/-- A queue of PF2 (R443, R444): the queue context of a slice controller, or a submission or completion queue of
controller 0. A submission queue's completions go to the queue keyed `cq`, its own for a slice controller. -/
structure NvmeQueue where
  sqBase : Nat
  cqBase : Nat
  /-- Entries, 0 where absent. -/
  sqSize : Nat
  cqSize : Nat
  cq : Nat
  enable : Bool
  stopping : Bool
  halted : Bool
  refused : Bool
  vector : Nat
  /-- Interrupts are enabled (controller 0's completion queues). -/
  signals : Bool
  coalesceCourses : Nat
  coalesceCount : Nat
  sqHead : Nat
  sqTail : Nat
  /-- The entry at SqHead, once read. -/
  entry : Option (List Byte)
  cqTail : Nat
  cqHead : Nat
  cqUsed : Nat
  phase : Bool
  cqWaiting : List (List Byte)
  armed : Bool
  unsignalled : List Nat
  deriving DecidableEq, Repr

/-- Controller 0 of a link (R443, R445, R446, R469): its registers, features, asynchronous events and log. -/
structure NvmeCtrl where
  cc : Nat
  ready : Bool
  fatal : Bool
  aqa : Nat
  asq : Nat
  acq : Nat
  features : List (Nat × Nat)
  /-- Commands that wait for an event, oldest first, and events that wait for a command: type, information, log page. -/
  aers : List Nat
  events : List (Nat × Nat × Nat)
  /-- Error Information entries, newest first, and how many errors there have been. -/
  errors : List (List Byte)
  errorCount : Nat
  /-- Power state, and the last operational one (R471). -/
  ps : Nat
  lastOp : Nat
  /-- The autonomous transition table (R471). -/
  apst : List Byte
  deriving DecidableEq, Repr

/-- A storage command fetched and not yet completed (R458). -/
structure NvmeCmd where
  id : Nat
  queue : Nat
  entry : List Byte
  tile : Nat
  /-- Its range lock: first and last unit, shared or not. -/
  lock : Option (Nat × Nat × Bool)
  granted : Bool
  /-- 0 fetched, 1 its PRP list is read, 2 its data is moved, 3 it waits for durability. -/
  phase : Nat
  /-- PRP pages named so far; address of the next PRP list entry and pages it is still to name. -/
  pages : List Nat
  list : Option (Nat × Nat)
  /-- Bytes of its data by offset, as they come from the host or the backing. -/
  data : List (Nat × List Byte)
  /-- Current contents of units written in part, by unit. -/
  old : List (Nat × List Byte)
  /-- Backing commands and write-backs it waits for, and the status it ends with. -/
  wants : List Nat
  waits : List Nat
  status : Nat
  deriving DecidableEq, Repr

/-- An entry of a namespace's map (R454): a unit in staging or HBM under its sequence number, or a backing block. -/
inductive MapEntry where
  | staged (seq : Nat) (data : List Byte)
  | block (n : Nat)
  deriving DecidableEq, Repr

/-- A namespace (R447 to R450, R467): its record, service tile, next sequence number. -/
structure Namespace where
  record : List Byte
  tile : Nat
  deleting : Bool
  nextSeq : Nat
  deriving DecidableEq, Repr

/-- A write-back in progress (R454): units with their backing blocks, data commands outstanding, and its journal record: 0
not written, 1 being written, 2 durable. -/
structure WriteBack where
  ns : Nat
  seq : Nat
  units : List (Nat × Nat)
  /-- Units it deallocates. -/
  gone : List Nat
  wants : List Nat
  journal : Nat
  /-- The command it came from. -/
  cmd : Nat
  deriving DecidableEq, Repr

/-- A command to a backing (R465): SSD 0 to 3 or 64 + remote target, what it does (0 read, 1 write, 2 journal), block and
data, and what it serves: a command's unit or a write-back. -/
structure BackingCmd where
  id : Nat
  target : Nat
  kind : Nat
  block : Nat
  data : List Byte
  /-- The NVMe command and the unit, or none for a write-back. -/
  cmd : Option (Nat × Nat)
  ns : Nat
  seq : Nat
  retries : Nat
  /-- The target is unreachable and it waits for its timeout (R466). -/
  stranded : Bool
  deriving DecidableEq, Repr

/-- The storage records. -/
structure Storage where
  queues : List (Nat × NvmeQueue)
  ctrls : List (Nat × NvmeCtrl)
  cmds : List NvmeCmd
  nextId : Nat
  namespaces : List (Nat × Namespace)
  /-- By namespace × 2^40 + unit. -/
  map : List (Nat × MapEntry)
  /-- What the journals on the backings name: the block of each unit, by namespace × 2^40 + unit (R454, R456). -/
  durable : List (Nat × Nat)
  writeBacks : List WriteBack
  backing : List BackingCmd
  /-- Last queue served by each service tile (R458). -/
  last : List (Nat × Nat)
  /-- Tracked operations of controller 0 by link (R443). -/
  ops : List (Nat × Nat)
  /-- Own power state an SSD is in, and remote targets connected. -/
  ssdPower : List (Nat × Nat)
  connected : List Nat
  /-- PRP ranges and MSI-X target an SSD may reach follow its outstanding commands; its reported power states: number,
  EXLAT in µs. -/
  ssdStates : List (Nat × List Nat)
  /-- Reads, Writes, BytesRead, BytesWritten, Failures, Deallocated by namespace (R474). -/
  counts : List (Nat × List Nat)
  deriving DecidableEq, Repr

/-! ## Remote memory access (chapter "Remote memory access") -/

/-- A send WQE that has been read and has not completed (R480, R483, R490). -/
structure Work where
  wqe : Nat
  /-- 0 read, 1 its payload is being read, 2 sent and unacknowledged, or a WAIT that waits, 3 done and waiting for those
  before it. -/
  stage : Nat
  /-- First PSN and how many it takes. -/
  psn : Nat
  count : Nat
  /-- Payload read from the host, or bytes a READ or atomic has brought, by offset. -/
  data : List (Nat × List Byte)
  status : Nat
  /-- Instant at which its WAIT condition came to hold, 0 before (R492). -/
  held : Nat
  deriving DecidableEq, Repr

/-- What a responder owes in PSN order (R485 to R487): a READ, atomic or FLUSH with its PSN, kind (0 READ, 1 compare and
swap, 2 fetch and add, 3 FLUSH), key, address, length, operands, the bytes read and whether its host read is issued; or an
acknowledgement (kind 4) that follows those. -/
structure Response where
  psn : Nat
  kind : Nat
  key : Nat
  addr : Nat
  len : Nat
  compareAdd : Nat
  swap : Nat
  data : List (Nat × List Byte)
  issued : Bool
  deriving DecidableEq, Repr

/-- A queue pair (R476 to R478, R488 to R491, R494 to R497). -/
structure RdmaQp where
  /-- The 128-byte record (R477). -/
  record : List Byte
  state : Nat
  sqHead : Nat
  sqTail : Nat
  rqHead : Nat
  rqTail : Nat
  /-- WQEs in ring order, and receive WQEs read and not used. -/
  work : List Work
  recv : List Nat
  nextPsn : Nat
  /-- The PSN after the last one acknowledged. -/
  acked : Nat
  expected : Nat
  /-- Messages completed as responder, modulo 2^24. -/
  msn : Nat
  /-- PSN and transmit stamp of the request packets sent and not yet covered (R497). -/
  stamps : List (Nat × Nat)
  /-- A sequence-error NAK has been sent since the last packet in sequence (R489). -/
  nakSent : Bool
  retries : Nat
  rnrTries : Nat
  /-- The RNR time it waits for in ns, none while it does not. -/
  rnrTime : Option Nat
  /-- The message being received: 0 SEND, 1 WRITE; bytes so far, next address, key. -/
  inbound : Option (Nat × Nat × Nat × Nat)
  /-- Replay cache: PSN and original value, newest first (R488). -/
  replay : List (Nat × Nat)
  /-- Placements since it reached RTR, newest first: key, address, length (R486). -/
  placed : List (Nat × Nat × Nat)
  responses : List Response
  /-- Rate in 2^-16 Mb/s, the sample of this course, samples of the window by course, course of the last valid one-way
  sample, whether round-trip samples stand in, newest one-way delay measured. -/
  rate : Nat
  sample : Option Nat
  window : List (Nat × Nat)
  lastValid : Nat
  fallback : Bool
  echo : Option Nat
  deriving DecidableEq, Repr

/-- A completion queue (R477, R484, R492). -/
structure RdmaCq where
  record : List Byte
  tail : Nat
  head : Nat
  used : Nat
  phase : Bool
  count : Nat
  armed : Bool
  failed : Bool
  deriving DecidableEq, Repr

/-- A memory region (R498, R499): its record, and state 1 registered or 2 draining. -/
structure Region where
  record : List Byte
  state : Nat
  deriving DecidableEq, Repr

/-- What a queue pair's rate holds back (R497): the time by which what it has sent would be out at that rate, from the
start of the course in force, and the packets that wait. [DESIGN CHOICE: log entry 163] -/
structure Pacing where
  used : Nat
  waiting : List Frame
  deriving DecidableEq, Repr

/-- The RDMA records. [DESIGN CHOICE: log entry 160] -/
structure Rdma where
  qps : List (Nat × RdmaQp)
  cqs : List (Nat × RdmaCq)
  regions : List (Nat × Region)
  ahs : List (Nat × List Byte)
  /-- Addresses locked by an atomic: function and address (R487). -/
  locks : List (Nat × Nat)
  /-- WAITs released at the last boundary by service tile: the course it began and how many (R492). -/
  released : List (Nat × Nat × Nat)
  /-- Ports last seen up (R500). -/
  ports : List Nat
  /-- Packets the port tiles have handed to the service tiles, with their ports, not yet taken (R275). -/
  arrived : List (Nat × List Byte)
  /-- Pacing by queue pair (R497). -/
  pacing : List (Nat × Pacing)
  deriving DecidableEq, Repr

/-! ## Keystone, service, monitor, package (chapters "Keystone partition, secure start and images", "Continuous
service: upgrades, mixed versions, faults", "Lamil serial monitor", "Package, balls, power, clocks and reset") -/

/-- Start-up and the flash (R511 to R513, R523, R525). [DESIGN CHOICE: log entries 78, 110] -/
structure Boot where
  /-- 0 in reset, 1 warm-up after stage 2 (R601), 2 running, 3 recovery. -/
  phase : Nat
  /-- The bytes of slots A and B, empty when erased. -/
  slotA : List Byte
  slotB : List Byte
  /-- Warm-up is still to end (R601). -/
  cold : Bool
  /-- Components in force: type, version, digest (R514, R515). -/
  parts : List (Nat × Nat × List Byte)
  /-- Retained digest of the compute-tile firmware (R518). -/
  retained : List Byte
  /-- The Alias key's epoch: how often it has been derived (R515, R516). -/
  alias_ : Nat
  /-- A rail recorded in the Keystone partition for the next start-up (R592). -/
  rail : Option Nat
  /-- What the Kiln has found at the start-up under way, for stage 3 and for a start-up out of recovery. -/
  found : StartUp
  deriving DecidableEq, Repr

/-- The Keystone firmware (R508, R569). -/
structure Keystone where
  /-- Counter of the signed command that is still to apply. -/
  waiting : Option Nat
  /-- The firmware restarts after a lockstep mismatch. -/
  restarting : Bool
  /-- Tiles whose copy of the time base differs by more than 1 ns. -/
  timeFaults : List Nat
  /-- Tiles with the Fault bit set (R42, R535). -/
  faults : List Nat
  /-- Last watchdog expiry of each tile's firmware: the course; and that of a tile's second expiry (R569, R570). -/
  watchdogs : List (Nat × Nat)
  second : List (Nat × Nat)
  /-- Codes of the fatal faults logged while in mode 7 (R570). -/
  fatals : List Nat
  /-- Uncorrectable Mortar errors of the course in force, by tile (R42): the course and how many. -/
  mortar : List (Nat × Nat × Nat)
  deriving DecidableEq, Repr

/-- A hitless activation (R557 to R563) beside its status entry. -/
structure Activation where
  /-- The switch boundary: the course it begins. -/
  switchCourse : Nat
  /-- Changed components held in the standby stores: type, version, digest; and the bytes of a microcode base. -/
  parts : List (Nat × Nat × List Byte)
  base : List Byte
  /-- Tiles that have handed over. -/
  tiles : List Nat
  /-- The Keystone has switched. -/
  keystone : Bool
  /-- What the switch replaced, for a rollback. -/
  old : List (Nat × Nat × List Byte)
  deriving DecidableEq, Repr

/-- A table entry lost to an SRAM error, which is reloaded from its persisted copy at the next boundary (R566). -/
inductive Reload where
  | rule (t pipeline : Nat) (r : Rule)
  | exact (x : Nat) (e : ExactEntry)
  | bytes (key offset : Nat) (bs : List Byte)
  | policer (i : Nat) (e : PolicerEntry)
  | fdb (e : FdbEntry)
  deriving DecidableEq, Repr

/-- Sparing and repair (R566 to R568). -/
structure Service where
  /-- Entries waiting for their reload, with the tile they are of. -/
  reload : List (Nat × Reload)
  /-- Core names left unserved (R567). -/
  lost : List Nat
  /-- Cores that failed, by compute tile. -/
  cores : List (Nat × Nat)
  /-- Corrected errors of an HBM row within 24 h: instants, by bank × 2^20 + row. -/
  rows : List (Nat × List Nat)
  /-- Rows under repair. -/
  repairing : List Nat
  /-- Spare rows used, by bank. -/
  spares : List (Nat × Nat)
  deriving DecidableEq, Repr

/-- The Lamil monitor (R575 to R584) beside its entries. -/
structure Monitor where
  autoBaud : Bool
  /-- The rate being tried, and the characters 0x55 received at it. -/
  trying : Option Nat
  good : Nat
  /-- The line so far, oldest first, and that it has grown beyond 128 characters. -/
  line : List Byte
  long : Bool
  /-- Characters held by a Keystone handover. -/
  held : List Byte
  blp : Bool
  /-- A binary block has begun and not ended. -/
  block : Bool
  /-- What the next block is for: 0 none, 1 a challenge response, 2 an enrolment. -/
  expects : Nat
  /-- Level asked for, and the nonce. -/
  challenge : Option (Nat × List Byte)
  /-- Consecutive failures, the back-off period in seconds, and that it runs. -/
  failures : Nat
  backoff : Nat
  blocked : Bool
  deriving DecidableEq, Repr

/-- The package's pins and latches (R594, R598, R600). -/
structure Package where
  resetOut : Bool
  thermAlert : Bool
  thermTrip : Bool
  xspiReset : Bool
  /-- FAULT_N as last driven: true is low. -/
  fault : Bool
  /-- DSP_PERSTn_N released. -/
  dspReleased : List Nat
  deriving DecidableEq, Repr

/-! ## The whole state -/

/-- The state of the device. `outputs` and `freeCtr` are the model's own: what the device has handed to the outside,
newest first, and the number of free values taken; `pending` is the queue of commands that wait.
[DESIGN CHOICE: log entry 10] -/
structure State where
  /-- The dictionary's scalar entries, key to raw value; an unlisted key reads its default (R19). -/
  dict : List (Nat × Nat)
  /-- The dictionary's DOMAIN and STRING entries, key to bytes; an unlisted key is empty. -/
  doms : List (Nat × List Byte)
  /-- MRAM, scalars: the persisted values (R537). -/
  store : List (Nat × Nat)
  /-- MRAM, DOMAINs and STRINGs: the persisted values (R537). -/
  storeDoms : List (Nat × List Byte)
  /-- MRAM: the keys each persisted set wrote last, newest first (R538). -/
  storeSets : List (List Nat)
  /-- The snapshot registers of the counters (R113). -/
  snapshot : List (Nat × Nat)
  /-- The snapshot registers of the counter DOMAINs (R113). -/
  snapshotDoms : List (Nat × List Byte)
  /-- The running timers (R115). -/
  timers : List (Nat × Timer)
  /-- The time base and the course (R55, R100). -/
  clock : Clock
  /-- The servo (R63). -/
  servo : Servo
  /-- The phase detector of each lane (R67). -/
  detectors : List (Nat × Detector)
  /-- SyncE selection (R62). -/
  synce : Synce
  /-- The PTP ports (R82). -/
  ptp : List (Nat × PtpPort)
  /-- The timing pins (R88). -/
  pins : List (Nat × Pin)
  /-- The dictionary agent (R530). -/
  agent : Agent
  /-- The event log (R551). -/
  log : EventLog
  /-- The management node (R540). -/
  mgmt : Mgmt
  /-- The Mortar's links (R30). -/
  mortar : Mortar
  /-- HBM requests and the system cache (R43, R45). -/
  memory : Memory
  /-- Bring-up and peer of each port (R157). -/
  ports : List (Nat × Port)
  /-- The switch core and the egress schedulers (R182, R315). -/
  switch : Switch
  /-- A mode change in progress (R136). -/
  modeChange : ModeChange
  /-- The filtering database (R225). -/
  fwd : Fwd
  /-- The Wall (R243). -/
  wall : Wall
  /-- PRP and HSR pairs (R250). -/
  redundancy : Redundancy
  /-- Ternary and exact-match tables (R266, R269). -/
  classify : Classify
  /-- The Trowel engines (R289). -/
  trowel : Trowel
  /-- Key slots and clusters (R343). -/
  cipher : Cipher
  /-- The Hod (R370). -/
  hod : Hod
  /-- The host endpoint (R389). -/
  host : HostSide
  /-- Slices (R424). -/
  slices : Slices
  /-- The storage front end (R442). -/
  storage : Storage
  /-- Remote memory access (R476). -/
  rdma : Rdma
  /-- Start-up and the flash slots (R511, R513). -/
  boot : Boot
  /-- The Keystone firmware (R508, R569). -/
  keystone : Keystone
  /-- A hitless activation (R557). -/
  activation : Activation
  /-- Sparing and repair (R567, R568). -/
  service : Service
  /-- The Lamil monitor (R575). -/
  monitor : Monitor
  /-- Package pins (R594). -/
  package : Package
  /-- The model's own: what the device has handed to the outside, newest first. -/
  outputs : List Out
  /-- The model's own: free values taken so far. -/
  freeCtr : Nat
  /-- Commands waiting, first in, first out. -/
  pending : List Instr
  deriving DecidableEq, Repr

/-- The state right after reset: every table empty, every entry at its default.
[DESIGN CHOICE: log entries 6, 7, 38, 78, 126] -/
def State.reset : State where
  dict := []
  doms := []
  store := []
  storeDoms := []
  storeSets := []
  snapshot := []
  snapshotDoms := []
  timers := []
  clock := ⟨0, 0, 65536000, 0, none, true, 0, true⟩
  servo := ⟨[], 0, 0, [], false, [], []⟩
  detectors := []
  synce := ⟨none, none, [], []⟩
  ptp := []
  pins := []
  agent := Agent.reset
  log := ⟨[], 0, 0, []⟩
  mgmt := ⟨false, false, [], 0, 0, 0, false⟩
  mortar := ⟨0, [], [], []⟩
  memory := ⟨[], [], []⟩
  ports := []
  switch := ⟨[], 0, [], [], [], [], [], [], [], [], [], [], []⟩
  modeChange := ⟨none, false, 0, 0, [], none, false, false, false⟩
  fwd := ⟨[], [], [], [], 0⟩
  wall := ⟨[], [], [], 0, false, false, none, [], [], [], []⟩
  redundancy := ⟨[], [], [], []⟩
  classify := ⟨[], [], [], [], [], []⟩
  trowel := ⟨[], [], [], [], [], [], [], none, none, none, [], 0⟩
  cipher := ⟨[], [], [], [], [], [], 0⟩
  hod := ⟨[], [], [], []⟩
  host := ⟨[], [], [], 0, [], [], [], []⟩
  slices := ⟨[], [], [], []⟩
  storage := ⟨[], [], [], 0, [], [], [], [], [], [], [], [], [], [], []⟩
  rdma := ⟨[], [], [], [], [], [], [], [], []⟩
  boot := ⟨2, [], [], false, [], [], 0, none, ⟨0, 0, [], false, true, false, [], []⟩⟩
  keystone := ⟨none, false, [], [], [], [], [], []⟩
  activation := ⟨0, [], [], [], false, []⟩
  service := ⟨[], [], [], [], [], []⟩
  monitor := ⟨true, none, 0, [], false, [], false, false, 0, none, 0, 60, false⟩
  package := ⟨true, false, false, true, false, []⟩
  outputs := []
  freeCtr := 0
  pending := []

end Sys2Proof.Machine
end

