-- ==== Sys2Proof/Machine/Ops.lean ====
section
/-! DEFINITION. Machine/Ops.lean: the named operations on State that every chapter uses: the dictionary's one read
and one write, counters, the event log, timers, time and course arithmetic, what the device sends. -/

namespace Sys2Proof.Machine

/-- What one step answers. -/
abbrev Res := Host.Outcome State Fault Refusal

/-! ### The dictionary -/

/-- The value of an entry in force (R532). -/
def State.rd (s : State) (key : Nat) : Nat := tblGet (odDefault key) s.dict key

/-- Put a value in force. -/
def State.wr (s : State) (key val : Nat) : State := { s with dict := tblSet (odDefault key) s.dict key val }

/-- A BOOL entry, or any entry read as a condition. -/
def State.rdB (s : State) (key : Nat) : Bool := s.rd key != 0

/-- The signed value of an entry of `w` bits. -/
def State.rdI (s : State) (w key : Nat) : Int := toSigned w (s.rd key)

/-- Put a signed value in force in an entry of `w` bits. -/
def State.wrI (s : State) (w key : Nat) (v : Int) : State := s.wr key (ofSigned w v)

/-- The bytes of a DOMAIN or STRING entry in force. -/
def State.dom (s : State) (key : Nat) : List Byte := tblGet [] s.doms key

/-- Put the bytes of a DOMAIN or STRING entry in force. -/
def State.setDom (s : State) (key : Nat) (bs : List Byte) : State := { s with doms := tblSet [] s.doms key bs }

/-- Add `n` to a counter; counters are U64 (R175 and the like). -/
def State.addTo (s : State) (key n : Nat) : State := s.wr key ((s.rd key + n) % 2 ^ 64)

/-- Count one event. -/
def State.bump (s : State) (key : Nat) : State := s.addTo key 1

/-- Hand something to the outside. [DESIGN CHOICE: log entry 8] -/
def State.emit (s : State) (o : Out) : State := { s with outputs := o :: s.outputs }

/-- Take the next free value's number. [DESIGN CHOICE: log entry 7] -/
def State.drawn (s : State) : State := { s with freeCtr := s.freeCtr + 1 }

/-- A value of `w` bits that the manual leaves open at point `k` of the assumption log.
[DESIGN CHOICE: log entry 7] -/
def State.openBits (s : State) (k w : Nat) : State × Nat := (s.drawn, Config.openValue k s.freeCtr % 2 ^ w)

/-! ### Time and course -/

/-- 2^-16 ns in one nanosecond. -/
def nsTicks : Nat := 65536

/-- 2^-16 ns in one second. -/
def secTicks : Nat := 65536000000000

/-- The TS96 pattern of an instant: Seconds [95:48], Nanoseconds [47:16], Fraction [15:0]. -/
def ts96 (t : Nat) : Nat := (t / secTicks) % 2 ^ 48 * 2 ^ 48 + t % secTicks

/-- The instant a TS96 pattern names. -/
def ts96Ticks (v : Nat) : Nat := v / 2 ^ 48 * secTicks + v % 2 ^ 48

/-- A valid TS96: Nanoseconds at most 999,999,999 (R74). -/
def ts96Valid (v : Nat) : Bool := bitField v 47 16 ≤ 999999999

/-- The TS64 of an instant, truncated (R74). -/
def ts64 (t : Nat) : Nat := (t / 65536) % 2 ^ 54 * 1024 + t % 65536 / 64

/-- The TS32 of an instant, truncated (R74). -/
def ts32 (t : Nat) : Nat := (t / 65536) % 2 ^ 32

/-- A truncated value of `w` bits extended to the present `p`, both in nanoseconds (R75, R76). -/
def extendTs (w v p : Nat) : Int :=
  let d : Int := ((v : Int) - (p : Int)) % ((2 ^ w : Nat) : Int)
  (p : Int) + (if d ≥ ((2 ^ (w - 1) : Nat) : Int) then d - ((2 ^ w : Nat) : Int) else d)

/-- CourseLength in force, in nanoseconds (R99). -/
def State.len (s : State) : Nat := s.rd Od.courseLength

/-- CourseLength in force, in 2^-16 ns. -/
def State.lenTicks (s : State) : Nat := s.len * nsTicks

/-- The number of the course in force (R103). -/
def State.course (s : State) : Nat := s.rd Od.courseCount

/-- The present instant of the time base. -/
def State.now (s : State) : Nat := s.clock.start + s.clock.off

/-- The whole second of device time that the present instant lies in (R608). -/
def State.second (s : State) : Nat := s.now / secTicks

/-- The present instant moved on to `off` within the course; time never goes back, and a command of this course lies
before the next boundary. [DESIGN CHOICE: log entry 2] -/
def State.moveTo (s : State) (off : Nat) : State :=
  { s with clock := { s.clock with off := max s.clock.off (min off (s.clock.finish - s.clock.start - 1)) } }

/-- A span in milliseconds as courses of the length in force (R59). [DESIGN CHOICE: log entry 22] -/
def State.msCourses (s : State) (ms : Nat) : Nat := ceilDiv (ms * 1000000) s.len

/-- A span in seconds as courses of the length in force (R59, R63). [DESIGN CHOICE: log entry 22] -/
def State.secCourses (s : State) (n : Nat) : Nat := ceilDiv (n * 1000000000) s.len

/-- The first instant of the grid of `l` ticks that lies at least one course after `t` (R104, R105). -/
def nextBoundary (t l : Nat) : Nat := ceilDiv (t + l) l * l

/-! ### Timers (R115 to R118, R610) -/

/-- Arm a timer in the present course. [DEDUCED: log entry 4; DESIGN CHOICE: log entry 22] -/
def State.arm (s : State) (key : Nat) : State :=
  { s with timers := tblPut s.timers key { armed := s.course, carried := 0 } }

/-- Cancel a timer. -/
def State.disarm (s : State) (key : Nat) : State := { s with timers := tblDel s.timers key }

/-- The timer is armed. [DEDUCED: log entry 4] -/
def State.armed (s : State) (key : Nat) : Bool := s.timers.any (fun e => e.1 == key)

/-- A timer of `n` courses armed during course A expires at the end of course A + n (R115): it is due once the
course in force is later than that, counting the courses carried across a change of length (R610).
[DESIGN CHOICE: log entry 3; DEDUCED: log entry 4] -/
def State.due (s : State) (key n : Nat) : Bool :=
  match s.timers.find? (fun e => e.1 == key) with
  | none => false
  | some e => e.2.armed + n + 1 ≤ s.course + e.2.carried

/-- A timer of granularity `g` is evaluated only at boundaries at which CourseCount is a multiple of `g`: it expires at the
first such boundary at or after its expiry boundary (R116). -/
def State.dueEvery (s : State) (key n g : Nat) : Bool := s.course % max 1 g == 0 && s.due key n

/-- The course that begins when a write or commit accepted now applies (R119): the next one, or the one after when no
more than 200 ns of the course remain. -/
def State.applyCourse (s : State) : Nat :=
  if s.clock.start + s.clock.off + 200 * nsTicks < s.clock.finish then s.course + 1 else s.course + 2

/-- Timers below this key have limits stated in units of time and are rescaled by a change of length (R610); the
others are stated in courses. [DESIGN CHOICE: log entry 22] -/
def timeStatedTimers : Nat := 64 * 2 ^ 160

/-- The key of a timer: its kind and its instance. -/
def timerKey (kind inst : Nat) : Nat := kind * 2 ^ 160 + inst

/-- A timer carried across a change of length at the boundary that ends course `c` (R610): the courses counted are
rescaled to floor(elapsed × old / new). [DESIGN CHOICE: log entry 22] -/
def Timer.rescale (c old new : Nat) (t : Timer) : Timer :=
  { armed := c, carried := (c + t.carried - t.armed) * old / new }

/-- Every running timer stated in time, carried across a change of length (R610). [DESIGN CHOICE: log entry 22] -/
def State.rescaleTimers (s : State) (old new : Nat) : State :=
  { s with timers := s.timers.map (fun e =>
      if e.1 < timeStatedTimers then (e.1, e.2.rescale s.course old new) else e) }

/-! ### The event log (R551, R552) -/

/-- Severity of an event code (R551): the first row of the severity table that names it. -/
def eventSeverity (code : Nat) : Nat :=
  if 0xBA10 ≤ code ∧ code ≤ 0xBA15 then 4
  else if code ∈ [0x1A06, 0x1A22, 0x2A08, 0x4A04, 0x4A08, 0x4A10, 0x5A0E, 0x7A04, 0x8A06, 0x9A01, 0xCA04, 0xCA08,
      0xEA03, 0xEA05, 0xEA21, 0xEA22, 0xEA24] then 3
  else if code % 256 ≥ 0x20 then 2
  else 1

/-- Records the ring holds (R551). -/
def eventRingSize : Nat := 65536

/-- Events logged in one second at most (R552). -/
def eventRateLimit : Nat := 10000

/-- A new record reaches each subscribed session whose MinSeverity it meets (R553). -/
def Session.offer (e : EventRec) (x : Session) : Session :=
  match x.minSeverity with
  | none => x
  | some m => if m ≤ e.severity then { x with waiting := x.waiting ++ [e] } else x

/-- The log's count of the second in force, started anew in a new second (R608). -/
def State.eventsInSecond (s : State) : Nat := if s.log.second = s.second then s.log.logged else 0

/-- Write one record into the ring: the next Sequence, the oldest record overwritten when the ring is full.
[DESIGN CHOICE: log entry 5] -/
def State.record (s : State) (code param : Nat) : State :=
  let seq := s.rd Od.newestEvent + 1
  let old := s.rd Od.oldestEvent
  let e : EventRec := { code := code, severity := eventSeverity code, timeValid := s.rdB Od.timeValid,
                        sequence := seq, time := s.now, param := param % 2 ^ 64 }
  let full := decide (eventRingSize ≤ seq - old) && old != 0
  let s1 := { s with
    log := { s.log with ring := (e :: s.log.ring).take eventRingSize, second := s.second,
                        logged := s.eventsInSecond + 1 },
    agent := { s.agent with sessions := s.agent.sessions.map (Session.offer e) } }
  let s2 := (s1.wr Od.newestEvent seq).wr Od.oldestEvent (if old = 0 then 1 else if full then old + 1 else old)
  if full then s2.bump Od.eventsOverwritten else s2

/-- Log an event (R551, R552): beyond 10,000 in a second it is counted in EventsSuppressed and not recorded.
[DESIGN CHOICE: log entries 5, 91] -/
def State.raise (s : State) (code param : Nat) : State :=
  if s.eventsInSecond < eventRateLimit then s.record code param
  else s.bump Od.eventsSuppressed

/-- Courses the per-code limits count over. -/
def limitSpan : Nat := 1000000

/-- Log an event at most `n` times per instance in any 1,000,000 courses; the per-code limit comes first (R552).
[DESIGN CHOICE: log entry 5] -/
def State.raiseLimited (s : State) (code inst n param : Nat) : State :=
  let key := code * 2 ^ 160 + inst
  let recent := (tblGet [] s.log.limits key).filter (fun c => s.course < c + limitSpan)
  if recent.length < n then
    ({ s with log := { s.log with limits := tblSet [] s.log.limits key (s.course :: recent) } }).raise code param
  else s

/-- A step folded over a list of numbers. -/
def forEach (l : List Nat) (f : Nat → State → State) (s : State) : State := l.foldl (fun s n => f n s) s

end Sys2Proof.Machine
end

