-- ==== Sys2Proof/Machine/Limits.lean ====
section
/-! DEFINITION. Machine/Limits.lean: the resources of each mode (chapter "Operating modes", R127, R131 to R134) that
ports, buffers, tables and the Mortar are judged by. -/

namespace Sys2Proof.Machine

/-! ### Resources per mode (R127) -/

/-- The mode whose resources are in force: in mode 7 the mode in force at entry. -/
def State.mode (s : State) : Nat :=
  if s.rd Od.modeInForce = 7 then s.rd Od.modeBeforeSafe else s.rd Od.modeInForce

/-- Class 7 reserve of a port tile, bricks. -/
def class7Reserve (mode : Nat) : Nat := [1024, 512, 4096, 1024, 1024, 1024].getD mode 0

/-- Lossless headroom of a port tile, bricks. -/
def headroomPool (mode : Nat) : Nat := [4096, 4096, 4096, 8192, 4096, 4096].getD mode 0

/-- Shared pool of a port tile, bricks. -/
def sharedPool (mode : Nat) : Nat := [27648, 28160, 24576, 23552, 27648, 27648].getD mode 0

/-- Exact-match entries. -/
def exactLimit (mode : Nat) : Nat := [2097152, 4194304, 1048576, 524288, 2097152, 2097152].getD mode 0

/-- Trowel worst-path cycles per program. -/
def worstPathLimit (mode : Nat) : Nat := if mode = 2 then 64 else 512

/-- Constant-latency streams. -/
def streamLimit (mode : Nat) : Nat := [1024, 1024, 8192, 1024, 1024, 1024].getD mode 0

/-- RDMA queue pairs. -/
def qpLimit (mode : Nat) : Nat := [1048576, 262144, 1048576, 524288, 1048576, 1048576].getD mode 0

/-- NVMe namespaces. -/
def namespaceLimit (mode : Nat) : Nat := [1024, 256, 1024, 1024, 1024, 1024].getD mode 0

/-- Usable range locks per service tile. -/
def rangeLockLimit (mode : Nat) : Nat := [4096, 2048, 4096, 8192, 4096, 4096].getD mode 0

/-- Service tiles, as how many from ST0 on. -/
def serviceTiles (mode : Nat) : Nat := [4, 2, 4, 4, 4, 4].getD mode 0

/-- An application core runs in the mode: core `n` is core n mod 6 of compute tile n div 6. -/
def coreUsable (mode n : Nat) : Bool :=
  if mode = 6 then n / 6 < 8
  else if mode = 3 ∨ mode = 5 then n % 6 != 5
  else if mode = 7 then false
  else true

/-- Port-tile slot ownership VN0 to VN5 (R131). -/
def slotOwnership (mode : Nat) : List Nat :=
  match mode with
  | 1 => [4, 50, 4, 2, 2, 2]
  | 2 => [8, 44, 6, 2, 2, 2]
  | 3 => [4, 43, 5, 8, 2, 2]
  | 5 => [4, 44, 6, 4, 4, 2]
  | 6 => [4, 48, 6, 2, 2, 2]
  | 7 => [4, 44, 4, 2, 8, 2]
  | _ => [4, 44, 8, 4, 2, 2]

/-- Slot ownership on the links of the other tiles, the same in every mode (R132). -/
def otherSlotOwnership (tile : Nat) : List Nat :=
  if tile < 0x30 then [4, 32, 2, 2, 4, 20]
  else if tile < 0x34 then [2, 2, 2, 34, 2, 22]
  else if tile < 0x36 then [4, 2, 32, 20, 4, 2]
  else if tile = 0x36 then [2, 2, 2, 40, 2, 16]
  else if tile = 0x37 then [2, 2, 2, 8, 2, 48]
  else [40, 2, 2, 2, 16, 2]

/-- Activity of each pseudo-channel (R134); modes 2, 4 and 6 use the mode 0 assignment. -/
def pcActivities (mode : Nat) : List Nat :=
  match mode with
  | 1 => [1, 1, 2, 1, 3, 1, 4, 1, 5, 1, 5, 5, 5, 5, 5, 5]
  | 3 => [1, 3, 2, 2, 3, 3, 4, 4, 3, 4, 4, 4, 5, 5, 5, 5]
  | 5 => [1, 1, 2, 2, 3, 3, 4, 4, 1, 1, 5, 5, 5, 5, 5, 5]
  | _ => [1, 1, 2, 2, 3, 3, 4, 4, 5, 5, 5, 5, 5, 5, 5, 5]

/-- System-cache shares in MiB of activities 1 to 5 (R134). -/
def cacheShares (mode : Nat) : List Nat :=
  match mode with
  | 1 => [32, 4, 2, 2, 24]
  | 3 => [8, 8, 16, 16, 16]
  | 5 => [24, 8, 4, 4, 24]
  | _ => [16, 8, 4, 4, 32]

/-- CourseLength lies in the range of the mode (R127, R128). -/
def lengthInMode (mode l : Nat) : Bool :=
  match mode with
  | 2 => l == 250
  | 6 => l == 1000
  | _ => 500 ≤ l && l ≤ 1000000

end Sys2Proof.Machine
end

