-- ==== Sys2Proof/Machine/Mortar.lean ====
section
/-! DEFINITION. Machine/Mortar.lean: bricks and their tags, the slot wheel of each link, lent slots, credits, HBM requests
and the partitions of the system cache (chapter "Tiles, Mortar and data paths", R23 to R54). -/

namespace Sys2Proof.Machine

/-! ### Tiles (R23) -/

/-- Number of tiles; their IDs are 0x00 to 0x38. -/
def tileCount : Nat := 57

/-- The Keystone tile. -/
def tileKt : Nat := 0x38

/-- The HBM controller's tile. -/
def tileMt : Nat := 0x37

/-! ### Slot ownership (R30, R131, R132) -/

/-- The owners of the 64 slots of a port-tile link, slot 0 in the lowest octal digit: the counts are those of
`slotOwnership`; the manual gives no places. [DESIGN CHOICE: log entry 133] -/
def portWheel (mode : Nat) : Nat :=
  match mode with
  | 1 => 0o1311111111214101115111111121110113111111112141011151111111211101
  | 2 => 0o2101415131012111110112111101111121014151310121111101112111011111
  | 3 => 0o3101214131115121310111113111211131011141312151113101112131111111
  | 5 => 0o1113121101111411211315110112141111131211011114112113151101121411
  | 6 => 0o1511111211311101112111111141210115111112113111011211111111412101
  | 7 => 0o1211514111013141121111411101114112115141110131411211114111011141
  | _ => 0o1311512111014121131111211101112113115121110141211311112111011121

/-- The owners of the 64 slots of another tile's link, with the counts of `otherSlotOwnership`.
[DESIGN CHOICE: log entry 133] -/
def otherWheel (tile : Nat) : Nat :=
  if tile < 0x30 then 0o0151415121513151015141515151515101514151215131510151415151515151
  else if tile < 0x34 then 0o3435353532353533531353535303535334353535323535335313535353035353
  else if tile < 0x36 then 0o0232423252321232023242323232323202324232523212320232423232323232
  else if tile = 0x36 then 0o3335343533353235333531353335303533353435333532353335313533353035
  else if tile = 0x37 then 0o5255553555054535555555355515553552555535550545355555553555155535
  else 0o0040204050401040004000403040004000402040504010400040004030400040

/-- Owner of a slot of a tile's links: fixed by the mode in force, changed only at its flip (R30, R138). -/
def State.slotVn (s : State) (tile slot : Nat) : Nat :=
  (if tile < 0x20 then portWheel (s.rd Od.modeInForce) else otherWheel tile) / 8 ^ (slot % 64) % 8

/-- Slot times of MT's links in one slot time of a tile's links (R29): 4.8 Tb/s over the tile's rate.
[DESIGN CHOICE: log entry 133] -/
def slotPeriod (tile : Nat) : Nat :=
  if tile < 0x30 then 4
  else if tile < 0x36 then 2
  else if tile = 0x36 then 4
  else if tile = 0x37 then 1
  else 8

/-! ### Forming bricks (R27, R28, R37) -/

/-- The tag's 64 bits, as a diagnostic capture shows them (R27). [DESIGN CHOICE: log entry 131] -/
def BrickTag.word (t : BrickTag) : Nat :=
  t.destTile % 64 * 2 ^ 58 + t.srcTile % 64 * 2 ^ 52 + t.vn % 8 * 2 ^ 49 + boolNat t.first * 2 ^ 48
    + boolNat t.last * 2 ^ 47 + t.valid % 256 * 2 ^ 39 + t.trafficClass % 8 * 2 ^ 36 + t.handle % 2 ^ 32

/-- The bricks of a transfer of `len` bytes: all but the last are full (R28). The traffic class is given for VN0 and
VN1 only. [DESIGN CHOICE: log entry 131] -/
def bricksOf (src dest vn len cls handle : Nat) (response : Bool) : List Brick :=
  let n := max 1 (ceilDiv len 256)
  (List.range n).map (fun i =>
    { tag := { destTile := dest, srcTile := src, vn := vn, first := i == 0, last := i + 1 == n,
               valid := if i + 1 = n then len - 256 * (n - 1) else 256,
               trafficClass := if vn ≤ 1 then cls else 0, handle := handle }
      dests := [dest], response := response })

/-- A brick belongs to a transfer that waits to be injected at a tile. -/
def Brick.isOf (b : Brick) (src vn handle : Nat) : Bool :=
  b.tag.srcTile == src && b.tag.vn == vn && b.tag.handle == handle

/-- A transfer from a tile to a tile becomes ready on its network (R27, R28). [DESIGN CHOICE: log entry 131] -/
def State.carry (s : State) (src dest vn len cls handle : Nat) : State :=
  { s with mortar := { s.mortar with ready := s.mortar.ready ++ bricksOf src dest vn len cls handle false } }

/-- A frame becomes ready on its network. One that is ready already for another tile is replicated by the Mortar: it is
injected once, and copies for several ports of one tile share its bricks (R39). [DESIGN CHOICE: log entry 131] -/
def State.carryFrame (s : State) (src dest vn len cls handle : Nat) : State :=
  let ready := s.mortar.ready
  if ready.any (fun b => b.isOf src vn handle) then
    { s with mortar := { s.mortar with ready := ready.map (fun b =>
        if b.isOf src vn handle && !b.dests.contains dest then { b with dests := b.dests ++ [dest] } else b) } }
  else s.carry src dest vn len cls handle

/-! ### Injection and ejection (R31 to R36, R39) -/

/-- Bricks of a network in the input buffer of a tile. -/
def State.inputHeld (s : State) (tile vn : Nat) (response : Bool) : Nat :=
  (s.mortar.inputs.filter (fun b => b.dests.contains tile && b.tag.vn == vn && b.response == response)).length

/-- A tile's input buffer of a network has a credit left; VN5 has separate ones for responses (R36, R37). -/
def State.credit (s : State) (tile vn : Nat) (response : Bool) : Bool :=
  decide (s.inputHeld tile vn response < max 1 (Config.inputBuffer tile vn))

/-- The oldest brick of a network that a tile's injection link may carry: one with a credit at some destination. A full
buffer stops bricks of its own network only (R36). -/
def State.readyBrick (s : State) (tile vn : Nat) : Option Brick :=
  match s.mortar.ready.find? (fun b => b.tag.srcTile == tile && b.tag.vn == vn) with
  | some b => if b.dests.any (fun d => s.credit d vn b.response) then some b else none
  | none => none

/-- The oldest brick of a network in a tile's input buffer. -/
def State.inputBrick (s : State) (tile vn : Nat) : Option Brick :=
  s.mortar.inputs.find? (fun b => b.dests.contains tile && b.tag.vn == vn)

/-- The brick a slot carries (R31): one of the owner if it has one ready, else the slot is lent to the lowest-numbered
other network that has one; with it whether the slot was lent. -/
def slotChoice (owner : Nat) (ready : Nat → Option Brick) : Option (Brick × Bool) :=
  match ready owner with
  | some b => some (b, false)
  | none => (((List.range 6).filter (fun v => v != owner)).findSome? ready).map (fun b => (b, true))

/-- A copy of a brick for each of its destinations enters that tile's input buffer when it has room; the others wait
without holding them up (R39). -/
def State.enterInput (s : State) (b : Brick) (dest : Nat) : State :=
  let one := { b with dests := [dest] }
  if s.credit dest b.tag.vn b.response then
    { s with mortar := { s.mortar with inputs := s.mortar.inputs ++ [one] } }
  else { s with mortar := { s.mortar with copies := s.mortar.copies ++ [one] } }

/-- A brick leaves its tile: it is counted there under its network, and its copies go on (R39, R54). -/
def State.injectBrick (s : State) (b : Brick) : State :=
  let s1 := { s with mortar := { s.mortar with ready := s.mortar.ready.erase b } }
  b.dests.foldl (fun s d => s.enterInput b d) (s1.bump (Od.bricksInjected b.tag.srcTile b.tag.vn))

/-- One slot of a tile's injection link (R31, R32). [DESIGN CHOICE: log entry 133] -/
def State.injectSlot (s : State) (tile slot : Nat) : State :=
  match slotChoice (s.slotVn tile slot) (s.readyBrick tile) with
  | none => s
  | some (b, lent) => (if lent then s.bump (Od.lentSlotsUsed tile) else s).injectBrick b

/-- One slot of a tile's ejection link: the brick is written at the tile and its credit returns.
[DESIGN CHOICE: log entry 133] -/
def State.ejectSlot (s : State) (tile slot : Nat) : State :=
  match slotChoice (s.slotVn tile slot) (s.inputBrick tile) with
  | none => s
  | some (b, lent) =>
    let s1 := if lent then s.bump (Od.lentSlotsUsed tile) else s
    { s1 with mortar := { s1.mortar with inputs := s1.mortar.inputs.erase b } }

/-- Copies that wait for room enter their input buffers, oldest first. -/
def State.enterCopies (s : State) : State :=
  s.mortar.copies.foldl (fun s b => b.dests.foldl (fun s d => s.enterInput b d) s)
    { s with mortar := { s.mortar with copies := [] } }

/-! ### HBM and the system cache (R43, R45, R139) -/

/-- The pseudo-channels assigned to an activity. -/
def State.channelsOf (s : State) (activity : Nat) : List Nat :=
  (List.range 16).filter (fun c => s.rd (Od.pcActivity c) == activity)

/-- A request of an activity to HBM (R37, R43): it crosses on VN5 and is placed on one of the activity's own
pseudo-channels. [DESIGN CHOICE: log entry 135] -/
def State.hbmRequest (s : State) (tile activity line : Nat) : State :=
  match s.channelsOf activity with
  | [] => s
  | l => match l[line % l.length]? with
    | none => s
    | some c =>
      let s1 := s.carry tile tileMt 5 64 0 line
      { s1 with memory := { s1.memory with
          waiting := s1.memory.waiting ++ [{ activity := activity, channel := c, line := line, tile := tile }] } }

/-- Lines an activity's partition of the system cache holds (R45). -/
def State.cacheLines (s : State) (activity : Nat) : Nat :=
  s.rd (Od.cacheShare (activity - 1)) * 1048576 / max 1 Config.cacheLine

/-- A line of an activity is held in its own partition: when that is full, the activity's oldest line gives way, and no
other's (R45). [DESIGN CHOICE: log entry 135] -/
def cacheInsert (share activity line : Nat) (cache : List (Nat × Nat)) : List (Nat × Nat) :=
  let mine := ((activity, line) :: cache.filter (fun e => e.1 == activity && e.2 != line)).take share
  mine ++ cache.filter (fun e => e.1 != activity)

/-- MT serves the oldest request of each pseudo-channel: one activity's requests never wait for another's (R43). The
response crosses on VN5 under credits of its own (R37). [DESIGN CHOICE: log entry 135] -/
def State.serveHbm (s : State) (channel : Nat) : State :=
  match s.memory.waiting.find? (fun r => r.channel == channel) with
  | none => s
  | some r =>
    let cache := cacheInsert (s.cacheLines r.activity) r.activity r.line s.memory.cache
    { s with
      memory := { s.memory with waiting := s.memory.waiting.erase r, cache := cache }
      mortar := { s.mortar with ready := s.mortar.ready ++ bricksOf tileMt r.tile 5 64 0 r.line true } }

/-! ### One slot time (R26, R29, R41) -/

/-- What error correction finds in a slot time, by the kind and the place of a free value: a single-bit error of a brick
or of a tile's SRAM, FEC codewords or symbols of a port, an errored block of its PCS (R26, R41, R175).
[DESIGN CHOICE: log entry 134] -/
def State.corrections (s : State) : State :=
  let (s1, kind) := s.openBits 130 4
  let (s2, at_) := s1.openBits 131 16
  let p := at_ % 256
  let up := s.rd (Od.linkState p) = 4
  let fec := s.rd (Od.fecInUse p) ≠ 0
  match kind with
  | 1 => s2.bump (Od.correctedErrors (at_ % tileCount))
  | 2 => s2.bump Od.sramCorrected
  | 3 => if up ∧ fec then (s2.bump (Od.fecCorrectedCodewords p)).bump (Od.fecCorrectedSymbols p) else s2
  | 4 => if up ∧ fec then s2.bump (Od.fecUncorrectedCodewords p) else s2
  | 5 => if up then s2.bump (Od.pcsErroredBlocks p) else s2
  | _ => s2

/-- One slot time of the fastest links on the links and at MT: the links whose slot begins carry what they may.
[DESIGN CHOICE: log entry 133] -/
def State.linkTick (s : State) : State :=
  let n := s.mortar.tick
  let tiles := (List.range tileCount).filter (fun t => n % slotPeriod t == 0)
  let s1 := forEach tiles (fun t s => s.injectSlot t (n / slotPeriod t)) s.enterCopies
  let s2 := forEach tiles (fun t s => s.ejectSlot t (n / slotPeriod t)) s1
  let s3 := forEach (List.range 16) (fun c s => s.serveHbm c) s2
  { s3 with mortar := { s3.mortar with tick := (n + 1) % 512 } }

/-- One slot time of the fastest links passes, and error correction may find an error.
[DESIGN CHOICE: log entries 1, 133, 134] -/
def State.slotTick (s : State) : State := s.linkTick.corrections

/-- The first brick of a transfer for a tile is still short of it: it waits at its source or before its destination. -/
def State.shortOf (s : State) (src dest vn handle : Nat) : Bool :=
  (s.mortar.ready ++ s.mortar.copies ++ s.mortar.inputs).any (fun b =>
    b.isOf src vn handle && b.tag.first && b.dests.contains dest)

/-- The slot times that pass until a transfer's first brick is written at a tile (R31, R32, R36): it waits for slots of
its network, behind the bricks before it, and for room, as every other brick does. [DESIGN CHOICE: log entry 133] -/
def State.turnUntil (src dest vn handle : Nat) : Nat → State → State
  | 0, s => s
  | fuel + 1, s => if s.shortOf src dest vn handle then State.turnUntil src dest vn handle fuel s.linkTick else s

/-- The first brick of a transfer is written at a tile: the slot times it still needs have passed. A brick needs no more
than a wheel of the slowest link for each brick before it. [DESIGN CHOICE: log entry 133] -/
def State.firstWritten (s : State) (src dest vn handle : Nat) : State :=
  State.turnUntil src dest vn handle
    (1024 * (s.mortar.ready.length + s.mortar.copies.length + s.mortar.inputs.length + 1)) s

end Sys2Proof.Machine
end

