-- ==== Sys2Proof/Machine/Time.lean ====
section
/-! DEFINITION. Machine/Time.lean: the time base, its sources and servo, phase detectors and SyncE, PTP ports and timing
pins (chapter "Time base and timestamps"), and the course's time actions (chapter "The course", R99 to R110). -/

namespace Sys2Proof.Machine

/-! ### Timer keys of this chapter -/

/-- SourceTimeout of a source (R59). -/
def tmSource (src : Nat) : Nat := timerKey 1 src
/-- QualifyTime of a source (R59). -/
def tmQualify (src : Nat) : Nat := timerKey 2 src
/-- NegotiationTime of a port's attempt (R84). -/
def tmNegotiation (p : Nat) : Nat := timerKey 3 p
/-- The 60 s before a port's negotiation repeats (R85). -/
def tmNegRetry (p : Nat) : Nat := timerKey 4 p
/-- AnnounceReceiptTimeout of a port (R58). -/
def tmAnnounce (p : Nat) : Nat := timerKey 5 p
/-- HoldOffTime of the failed SyncE reference (R62). -/
def tmHoldOff : Nat := timerKey 6 0
/-- WaitToRestore of a lane (R62). -/
def tmRestore (lane : Nat) : Nat := timerKey 7 lane
/-- ExpectTimeout of a pin (R90), stated in courses. -/
def tmExpect (n : Nat) : Nat := timerKey 64 n

/-! ### Sources (R58 to R61) -/

/-- A source that has never delivered a measurement. -/
def Source.fresh : Source :=
  { qualified := false, lost := false, qualifying := false, outliers := 0, offset := none, measured := false }

/-- A source's record. -/
def State.source (s : State) (src : Nat) : Source := tblGet Source.fresh s.servo.sources src

/-- Set a source's record. -/
def State.setSource (s : State) (src : Nat) (x : Source) : State :=
  { s with servo := { s.servo with sources := tblSet Source.fresh s.servo.sources src x } }

/-- The listed sources, in priority order (R58). -/
def State.listedSources (s : State) : List Nat :=
  ((List.range 8).map (fun j => s.rd (Od.sourcePriority j))).filter (fun c => c != 0)

/-- The code of PPS_IN0 or PPS_IN1 (R58). -/
def isPps (src : Nat) : Bool := src == 0x2000 || src == 0x2001

/-- A source that may discipline the time base now (R58, R85): a PPS input, or a PTP port in the SLAVE state. -/
def State.isSource (s : State) (src : Nat) : Bool := isPps src || s.rd (Od.portState (src % 0x1000)) == 9

/-- The highest-priority qualified source (R60). -/
def State.bestSource (s : State) : Option Nat :=
  s.listedSources.find? (fun c => (s.source c).qualified && s.isSource c)

/-- A qualified source becomes lost (R59); a listed one is reported (R98). -/
def State.loseSource (s : State) (src : Nat) : State :=
  let s1 := (s.setSource src
    { s.source src with qualified := false, lost := true, qualifying := false, outliers := 0 }).disarm (tmSource src)
  if s.listedSources.contains src then s1.raise 0x2A02 src else s1

/-- A measurement of a source arrives (R59): its offset, and whether it is an outlier. Qualification starts or restarts;
three outliers in a row lose a qualified source; the servo uses a measurement that is no outlier.
[DESIGN CHOICE: log entry 138] -/
def State.measure (s : State) (src : Nat) (offset : Int) (outlier : Bool) : State :=
  let x := s.source src
  let s1 := s.arm (tmSource src)
  if x.qualified then
    if outlier then
      if x.outliers + 1 ≥ 3 then s1.loseSource src
      else s1.setSource src { x with outliers := x.outliers + 1 }
    else
      let s2 := s1.setSource src { x with outliers := 0, offset := some offset, measured := true }
      { s2 with servo := { s2.servo with fresh := s2.servo.fresh ++ [(src, offset)] } }
  else if outlier then
    (s1.setSource src { x with qualifying := false, measured := true }).disarm (tmQualify src)
  else
    let s2 := s1.setSource src { x with qualifying := true, offset := some offset, measured := true }
    if x.qualifying then s2 else s2.arm (tmQualify src)

/-- No measurement within SourceTimeout (R59): a qualified source becomes lost; one not yet qualified starts again from
its next measurement. -/
def State.sourceTimedOut (s : State) (src : Nat) : State :=
  let x := s.source src
  let s1 := (s.disarm (tmSource src)).disarm (tmQualify src)
  if x.qualified then s1.loseSource src
  else s1.setSource src { x with qualifying := false }

/-- SOURCE_TIMEOUT (R59). -/
def execSourceTimeout (source : Nat) (s : State) : Res :=
  .next (if s.due (tmSource source) (s.msCourses (s.rd Od.sourceTimeout)) then s.sourceTimedOut source else s)

/-- A source may qualify now: QualifyTime has passed with measurements and no outlier, and a PPS input waits for
TimeValid (R59, R61). -/
def State.mayQualify (s : State) (src : Nat) : Bool :=
  let x := s.source src
  !x.qualified && x.qualifying && s.due (tmQualify src) (s.msCourses (s.rd Od.qualifyTime))
    && (!isPps src || s.rdB Od.timeValid)

/-- SOURCE_QUALIFIED (R59). -/
def execSourceQualified (source : Nat) (s : State) : Res :=
  .next (if s.mayQualify source then
      (s.setSource source { s.source source with qualified := true, lost := false, outliers := 0 }).disarm
        (tmQualify source)
    else s)

/-- The offset of the time base from the nearest whole second (R61), in 2^-16 ns. -/
def offsetFromSecond (t : Nat) : Int :=
  let r := t % secTicks
  if 2 * r ≤ secTicks then (r : Int) else (r : Int) - (secTicks : Int)

/-! ### Calibration (R70 to R73) -/

/-- The constants of the calibration record apply (R72). -/
def State.calibrated (s : State) : Bool := s.rd Od.calibrationState == 1

/-- A constant of the calibration record at a temperature in 1/16 °C (R71, R73): its value at 60 °C, and a coefficient in
fs/°C, in 1/1,024 ns. [DESIGN CHOICE: log entry 14] -/
def calibratedConst (const coef temp : Int) : Int := const + coef * (temp - 960) * 1024 / 16000000

/-- A calibration entry of the record: 12 bytes of fused constants and coefficients, and a reserved word (R71).
[DESIGN CHOICE: log entry 13] -/
def calibrationWord (k : Nat) : List Byte := sized 12 (Config.calibration.drop (12 * k)) ++ [0, 0, 0, 0]

/-- The calibration record (R71): header, 1,280 lane and 34 pin entries, signature: 21,184 bytes on a PX7256-X; a PX7256-S
carries none. [DESIGN CHOICE: log entry 13] -/
def calibrationRecord : List Byte :=
  if Config.extended then
    beBytes 2 1 ++ sized 30 Config.unitSerial ++ beBytes 1 60 ++ beBytes 4 21184 ++ beBytes 27 0
      ++ (List.range 1314).flatMap calibrationWord ++ sized 96 (Config.calibration.drop (12 * 1314))
  else []

/-- Widths of the calibration record's fields (R14, R71). -/
def calibrationFields : List Nat :=
  2 :: List.replicate 30 1 ++ [1, 4] ++ List.replicate 27 1 ++ List.replicate 1314 16 ++ List.replicate 96 1

/-- The two constants of the record's entry at an offset, at a temperature (R71, R73): receive or capture, transmit or
generation. [DESIGN CHOICE: log entries 14, 136] -/
def calibrationEntry (offset : Nat) (temp : Int) : Int × Int :=
  let e := slice calibrationRecord offset 16
  (calibratedConst (toSigned 32 (beAt e 0 4)) (toSigned 16 (beAt e 8 2)) temp,
    calibratedConst (toSigned 32 (beAt e 4 4)) (toSigned 16 (beAt e 10 2)) temp)

/-- The temperature last read of a tile, in 1/16 °C. -/
def State.tileTemp (s : State) (tile : Nat) : Int := toSigned 16 (beAt (s.dom Od.tileTemperature) (2 * tile) 2)

/-- Capture and generation constants of a timing pin, and of PPS_IN0 and PPS_IN1 as pins 32 and 33 (R71): the entries
follow each other in the record from offset 0x5040 on; the pins stand in KT. [DESIGN CHOICE: log entry 136] -/
def State.pinConst (s : State) (n : Nat) : Int × Int :=
  if s.calibrated then calibrationEntry (0x5040 + 16 * n) (s.tileTemp tileKt) else Config.pinConst n

/-- The constants applied to a port's lane at the temperature last read of its tile, for the speed in use (R70, R73).
[DESIGN CHOICE: log entries 15, 136] -/
def State.lane (s : State) (p : Nat) : LaneConst :=
  let key := 5 * p + min (s.rd (Od.speedInUse p)) 4
  let temp := s.tileTemp (p / 8)
  if s.calibrated then
    let e := calibrationEntry (0x40 + 16 * key) temp
    ⟨e.1, e.2⟩
  else ⟨(Config.laneConst key temp).1, (Config.laneConst key temp).2⟩

/-- PPS_EDGE (R59, R61, R98): an edge that holds through the 10 ns filter is stamped with the input's constant and the
cable delay removed; outside ±PpsWindow of the expected second it is an outlier, and reported. -/
def execPpsEdge (input : Fin 2) (off held : Nat) (s : State) : Res :=
  let s := s.moveTo off
  let key := if input = 0 then Od.ppsEnable0 else Od.ppsEnable1
  let delay := s.rdI 32 (if input = 0 then Od.ppsDelay0 else Od.ppsDelay1)
  let t := ((s.now : Int) - (s.pinConst (32 + input.val)).1 * 64 - delay * 64).toNat
  let o := offsetFromSecond t
  let far := decide (o.natAbs > s.rd Od.ppsWindow * nsTicks)
  .next (if s.rdB key && held ≥ 10 then
      (if far then s.raise 0x2A03 (0x2000 + input.val) else s).measure (0x2000 + input.val) o far
    else s)

/-! ### The servo (R60, R63 to R66) -/

/-- An offset in 2^-16 ns lies within a threshold in ps. -/
def withinPs (o : Int) (ps : Nat) : Bool := o.natAbs * 1000 ≤ ps * nsTicks

/-- The counts after the measurements of the ended course: consecutive good and bad ones, and whether 16 good or 4 bad
in a row were reached on the way. -/
def countMeasurements (lock unlock : Nat) :
    List Int → Nat → Nat → Bool → Bool → Nat × Nat × Bool × Bool
  | [], g, b, hg, hb => (g, b, hg, hb)
  | o :: os, g, b, hg, hb =>
    let g' := if withinPs o lock then g + 1 else 0
    let b' := if withinPs o unlock then 0 else b + 1
    countMeasurements lock unlock os g' b' (hg || g' ≥ 16) (hb || b' ≥ 4)

/-- The newest part of a history that covers a span. -/
def takeSpan : Nat → List (Nat × Int) → List (Nat × Int)
  | _, [] => []
  | n, e :: l => if n = 0 then [] else if e.1 ≤ n then e :: takeSpan (n - e.1) l else [(n, e.2)]

/-- The mean of a history of corrections, weighted by how long each stood; none of an empty one.
[DESIGN CHOICE: log entry 143] -/
def meanOf (l : List (Nat × Int)) : Option Int :=
  let d := (l.map Prod.fst).sum
  if d = 0 then none else some ((l.map (fun e => (e.1 : Int) * e.2)).sum / (d : Int))

/-- The span HOLDOVER takes its mean over (R65): 1,000 s. -/
def holdoverSpan : Nat := 1000 * secTicks

/-- A correction that stood for a time joins a history, of which no more than 1,000 s are kept. -/
def addRun (d : Nat) (v : Int) (l : List (Nat × Int)) : List (Nat × Int) :=
  takeSpan holdoverSpan (match l with
    | e :: r => if e.2 = v then (e.1 + d, v) :: r else (d, v) :: l
    | [] => [(d, v)])

/-- The ended course joins the history of the period it belongs to (R65). -/
def State.servoHistory (s : State) : State :=
  let d := s.clock.finish - s.clock.start
  let v := s.rdI 32 Od.frequencyAdjust
  match s.rd Od.servoState with
  | 1 => { s with servo := { s.servo with acquiring := addRun d v s.servo.acquiring } }
  | 2 => { s with servo := { s.servo with locked := addRun d v s.servo.locked } }
  | _ => s

/-- The correction HOLDOVER is frozen at (R65): the mean over the LOCKED period since the servo last left HOLDOVER or
FREE_RUN, without one over the ACQUIRING period. [DESIGN CHOICE: log entry 143] -/
def State.holdoverMean (s : State) : Int :=
  (meanOf (if s.servo.locked.isEmpty then s.servo.acquiring else s.servo.locked)).getD (s.rdI 32 Od.frequencyAdjust)

/-- The histories as a state is entered: LOCKED begins its own anew, ACQUIRING its own, and both from HOLDOVER or
FREE_RUN (R65). -/
def Servo.entering (x : Servo) (before next : Nat) : Servo :=
  { x with
    good := 0
    bad := 0
    locked := if next = 2 ∨ (next = 1 ∧ before ≠ 2) then [] else x.locked
    acquiring := if next = 1 then [] else x.acquiring }

/-- A transition of the servo: the new state, Traceable, and event 0x2A01 (R63). The parameter names both states.
Entry to HOLDOVER freezes the correction (R65). -/
def State.servoTo (s : State) (next : Nat) : State :=
  let before := s.rd Od.servoState
  let s1 := ((s.wr Od.servoState next).wr Od.traceable (boolNat (next = 2))).wr Od.holdoverElapsed 0
  let s2 := if next = 3 then s1.wrI 32 Od.frequencyAdjust s1.holdoverMean else s1
  ({ s2 with servo := s2.servo.entering before next }).raise 0x2A01 (before * 256 + next)

/-- Follow another source (R60). -/
def State.select (s : State) (src : Nat) : State :=
  let s1 := s.wr Od.selectedSource src
  { s1 with servo := { s1.servo with good := 0, bad := 0 } }

/-- A value kept within bounds. -/
def clampInt (lo hi v : Int) : Int := max lo (min hi v)

/-- The correction the loop sets (R55, R64, R65): what it computes, no more than SlewLimit beyond the source's frequency,
which a syntonised lane supplies already, and within ±200 × 10^-6. [DESIGN CHOICE: log entry 11] -/
def State.correction (s : State) : Int :=
  let freq : Int := if s.clock.reference ≥ 2 then 0 else Config.sourceFrequency s.freeCtr
  let slew : Int := ((s.rd Od.slewLimit * 1000 : Nat) : Int)
  clampInt (-200000000) 200000000 (clampInt (freq - slew) (freq + slew) (Config.frequencyAdjust s.freeCtr))

/-- The servo follows its source: the offset entry, and a correction of the frequency by the loop (R65).
[DESIGN CHOICE: log entry 11] -/
def State.servoTrack (s : State) : State :=
  let sel := s.rd Od.selectedSource
  let mine := (s.servo.fresh.filter (fun e => e.1 == sel)).map Prod.snd
  match mine.getLast? with
  | none => s
  | some o =>
    let s1 := s.wrI 64 Od.offsetFromSource o
    (s1.wrI 32 Od.frequencyAdjust s1.correction).drawn

/-- The offset between two sources, or of a source from the time base, lies within the threshold (R60); without a
measurement since the last step it does not. -/
def State.sourcesAgree (s : State) (n : Nat) (than : Option Nat) (lock : Nat) : Bool :=
  match (s.source n).offset, than with
  | some a, none => withinPs a lock
  | some a, some m => (match (s.source m).offset with | some b => withinPs (a - b) lock | none => false)
  | none, _ => false

/-- The servo's transition at a boundary (R60, R63), from the measurements of the course just ended; the row listed
first wins. While no source is qualified SelectedSource keeps the code of the source lost, through HOLDOVER and in FREE_RUN
after it; only the fall from ACQUIRING to FREE_RUN clears it. [DESIGN CHOICE: log entry 151] -/
def State.servoTransition (s : State) : State :=
  let st := s.rd Od.servoState
  let sel := s.rd Od.selectedSource
  let best := s.bestSource
  let lock := s.rd Od.lockThreshold
  let mine := (s.servo.fresh.filter (fun e => e.1 == sel)).map Prod.snd
  let (g, b, hg, hb) := countMeasurements lock (s.rd Od.unlockThreshold) mine s.servo.good s.servo.bad false false
  let counted := { s with servo := { s.servo with good := g, bad := b } }
  let alive := (s.source sel).qualified && s.listedSources.contains sel && s.isSource sel
  match st, best with
  | 0, some n =>
    let s1 := (s.select n).servoTo 1
    if s.rdB Od.timeValid then s1 else { s1 with clock := { s1.clock with setFromSource := some n } }
  | 0, none => s
  | 1, none => if s.rdB Od.timeValid then s.servoTo 3 else (s.wr Od.selectedSource 0).servoTo 0
  | 1, some n =>
    if n != sel then s.select n
    else if hg then counted.servoTrack.servoTo 2
    else counted.servoTrack
  | 2, none => s.servoTo 3
  | 2, some n =>
    if alive && hb then (if n != sel then counted.select n else counted.servoTrack).servoTo 1
    else if n != sel then
      if s.sourcesAgree n (if alive then some sel else none) lock then s.select n else (s.select n).servoTo 1
    else counted.servoTrack
  | 3, some n => (s.select n).servoTo 1
  | 3, none => if s.rd Od.holdoverElapsed > s.secCourses (s.rd Od.holdoverLimit) then s.servoTo 0 else s
  | _, _ => s

/-- The servo's work at a boundary; during a Keystone handover no transition is evaluated (R560). -/
def State.servoBoundary (s : State) : State :=
  let s1 := if s.servo.held then s else s.servoTransition
  { s1 with servo := { s1.servo with fresh := [] } }

/-- A loss declared at a boundary changes the source at that boundary (R60): the servo's transition is judged again, with
no measurement left, when the selected source was qualified before. -/
def State.lossChange (s : State) (before : Bool) : State :=
  if before && !(s.source (s.rd Od.selectedSource)).qualified && !s.servo.held then s.servoTransition else s

/-- HOLDOVER_LIMIT (R63, R65): HoldoverElapsed exceeds the limit converted to courses; the servo enters FREE_RUN and
the frozen correction is kept. -/
def execHoldoverLimit (s : State) : Res :=
  .next (if s.rd Od.servoState = 3 ∧ s.bestSource = none ∧
      s.rd Od.holdoverElapsed > s.secCourses (s.rd Od.holdoverLimit) then s.servoTo 0 else s)

/-! ### Time actions at a boundary (R103 to R109) -/

/-- The whole second at or before an instant. -/
def secondFloor (t : Nat) : Nat := t / secTicks * secTicks

/-- Re-base the course counter so that `count` is the number of the course that begins at `e` (R103 to R105); the entry
holds the base modulo 2^64, as the counter is counted. [DESIGN CHOICE: log entry 18] -/
def State.rebase (s : State) (e count : Nat) : State :=
  let base := secondFloor e
  (s.wr Od.courseBaseTime (ts96 base)).wrI 64 Od.courseBaseCount
    ((count : Int) - (((e - base) / s.lenTicks : Nat) : Int))

/-- The course that begins is counted and logged when it is longer than L (R105). -/
def State.noteStretch (s : State) : State :=
  if s.clock.finish - s.clock.start > s.lenTicks then (s.bump Od.stretchedCourses).raise 0x2A0B (s.rd Od.courseCount) else s

/-- The course that begins at `t` after time was first set valid (R104). -/
def State.firstValid (s : State) (t : Nat) : State :=
  let e := nextBoundary t s.lenTicks
  let s1 := { s with clock := { s.clock with start := t, off := 0, finish := e } }
  let s2 := (s1.wr Od.courseCount (e / s.lenTicks - 1)).rebase e (e / s.lenTicks)
  s2.wr Od.timeValid 1

/-- The course that begins at `t` after a step of time (R105): number c + 1, and c + 2 at the next boundary.
[DESIGN CHOICE: log entry 20] -/
def State.stepped (s : State) (t : Nat) : State :=
  let e := nextBoundary t s.lenTicks
  let c := s.course + 1
  let s1 := { s with clock := { s.clock with start := t, off := 0, finish := e } }
  (s1.wr Od.courseCount (c % 2 ^ 64)).rebase e (c + 1)

/-- The course that begins at the boundary without a step (R103). -/
def State.advanced (s : State) : State :=
  let t := s.clock.finish
  let s1 := { s with clock := { s.clock with start := t, off := 0, finish := nextBoundary t s.lenTicks } }
  s1.wr Od.courseCount ((s.course + 1) % 2 ^ 64)

/-- The courses noted of things seen, for the limits stated in time that are counted from them: refused openings, frames of
redundancy nodes, hellos, PTP messages let through. Such a number may come to lie before course 0 (R610). -/
def State.mapSeen (s : State) (f : Int → Int) : State :=
  let pairs (l : List (Nat × Int)) : List (Nat × Int) := l.map (fun x => (x.1, f x.2))
  { s with
    agent := { s.agent with refusals := pairs s.agent.refusals }
    redundancy := { s.redundancy with nodes := s.redundancy.nodes.map (fun (e : Nat × List (Nat × Int)) => (e.1, pairs e.2)) }
    mgmt := { s.mgmt with nodes := s.mgmt.nodes.map (fun (e : Nat × List (Nat × Int)) => (e.1, pairs e.2)) }
    wall := { s.wall with hellos := s.wall.hellos.map (fun (e : Nat × List Int) => (e.1, e.2.map f)) }
    ptp := s.ptp.map (fun (e : Nat × PtpPort) =>
      (e.1, { e.2 with passed := e.2.passed.map (fun (x : Nat × Nat × Int) => (x.1, x.2.1, f x.2.2)) })) }

/-- A pending CourseLength takes effect (R107): timers, counts and HoldoverElapsed are carried across (R610, R65).
[DESIGN CHOICE: log entry 18] -/
def State.applyLength (s : State) : State :=
  let old := s.len
  let new := s.rd Od.coursePending
  let s1 := (s.wr Od.courseLength new).wr Od.coursePending 0
  let s2 := (s1.rescaleTimers old new).mapSeen (fun c => (s.course : Int) - ((s.course : Int) - c) * old / new)
  s2.wr Od.holdoverElapsed (s2.rd Od.holdoverElapsed * old / new)

/-- The pending length takes effect at the boundary that ends the course (R107): at a whole second, the first from the
one chosen at the commit on. [DESIGN CHOICE: log entry 18] -/
def State.lengthDue (s : State) : Bool :=
  s.rd Od.coursePending != 0 && s.clock.lengthAt ≤ s.clock.finish && s.clock.finish % secTicks == 0

/-- Measurements taken before a step are discarded (R66): those of the ended course, the counts made from them, the
offset last measured of each source, its outliers, the qualification begun on them, and the stamps a PTP port holds for a
measurement still to come. -/
def State.forgetMeasurements (s : State) : State :=
  { s with
    servo := { s.servo with
      fresh := [], good := 0, bad := 0
      sources := s.servo.sources.map (fun (e : Nat × Source) => (e.1, { e.2 with
        offset := none, outliers := 0, qualifying := false, measured := false })) }
    ptp := s.ptp.map (fun (e : Nat × PtpPort) => (e.1, { e.2 with
      syncSeq := none, reqSent := none, pdelayHeld := none, lastSync := none, held := [] })) }

/-- HoldoverElapsed counts the ended course (R65). -/
def State.countHoldover (s : State) : State :=
  if s.rd Od.servoState = 3 then s.bump Od.holdoverElapsed else s

/-- The time actions of step 1 (R105, R107, R109): `target` is the instant time is stepped to, if a step is due, and
whether it sets time (R63, R64) or moves it. The step is applied first: the new grid is taken from the stepped time, the
counter is re-based once, and the events carry the stepped time. -/
def State.timeActions (s : State) (target : Option (Nat × Bool)) : State :=
  let changed := s.lengthDue
  let s0 := s.countHoldover
  let s1 := if changed then s0.applyLength else s0
  let s2 := match target with
    | some (t, sets) =>
      let u := s1.forgetMeasurements
      if u.rdB Od.timeValid || !sets then u.stepped t else u.firstValid t
    | none => if changed then s1.advanced.rebase s1.advanced.clock.start s1.advanced.course else s1.advanced
  (if changed then s2.raise 0x2A0A s2.len else s2).noteStretch

/-! ### Reference clocks (R55, R597) -/

/-- REFCLK_TIME is lost (R55): logged; the counter runs from REFCLK_SYS unless a syntonised lane is in use. -/
def execRefclkTimeLost (s : State) : Res :=
  let s1 := (s.wr Od.refclkTimeFrequency 0).raise 0x2A09 0
  let ref := if s1.clock.reference ≥ 2 then s1.clock.reference else 1
  .next { s1 with clock := { s1.clock with refclkTime := false, reference := ref } }

/-- REFCLK_TIME returns at 10 MHz (1) or 25 MHz (2) and is the frequency reference again unless a syntonised lane is in
use (R55, R597). -/
def execRefclkTimeReturn (frequency : Nat) (s : State) : Res :=
  if frequency = 1 ∨ frequency = 2 then
    let s1 := s.wr Od.refclkTimeFrequency frequency
    let ref := if s1.clock.reference ≥ 2 then s1.clock.reference else 0
    .next { s1 with clock := { s1.clock with refclkTime := true, reference := ref } }
  else .next s

/-! ### Phase detectors and SyncE (R62, R67, R68) -/

/-- QL-DNU as the order of quality levels is numbered here: the lower, the better, and this is the worst (R62).
[PRESUMED: log entry 12] -/
def qlDnu : Nat := 15

/-- A detector that has delivered nothing. -/
def Detector.fresh : Detector := { readings := [], holding := false, agreeing := 0, quality := none }

/-- A lane's detector. -/
def State.detector (s : State) (lane : Nat) : Detector := tblGet Detector.fresh s.detectors lane

/-- Set a lane's detector. -/
def State.setDetector (s : State) (lane : Nat) (d : Detector) : State :=
  { s with detectors := tblSet Detector.fresh s.detectors lane d }

/-- A reading in ps agrees with the moving mean of the readings kept: within 100 ps (R68). -/
def Detector.agrees (d : Detector) (r : Int) : Bool :=
  match d.readings with
  | [] => true
  | l => (r * l.length - l.sum).natAbs ≤ 100 * l.length

/-- The phase in ps of a reading of so many steps of 6.4 ns / 1,600 (R67), on the turn of the clocks nearest to the last
one kept. [DESIGN CHOICE: log entry 142] -/
def Detector.phaseOf (d : Detector) (steps : Nat) : Int :=
  match d.readings.head? with
  | none => 4 * (steps : Int)
  | some h => h + ((4 * (steps : Int) - h + 3200) % 6400 - 3200)

/-- The phase the detector holds (R68): the moving mean of its readings, in ps. -/
def Detector.phase (d : Detector) : Option Int :=
  if d.readings.isEmpty then none else some (d.readings.sum / (d.readings.length : Int))

/-- The lane's frequency against the time base, in 10^-12, from the readings kept, one every 10.24 µs (R67, R68).
[DESIGN CHOICE: log entry 142] -/
def Detector.frequency (d : Detector) : Option Int :=
  match d.readings.head?, d.readings.getLast? with
  | some a, some b =>
    if d.readings.length < 2 then none
    else some ((a - b) * 9765625 / (100 * ((d.readings.length : Int) - 1)))
  | _, _ => none

/-- The lane's clock is coherent (R68): its frequency is measured and its phase is not held.
[DESIGN CHOICE: log entry 142] -/
def Detector.coherent (d : Detector) : Bool := d.frequency.isSome && !d.holding

/-- The detector of a lane without a receive clock. -/
def Detector.stopped (d : Detector) : Detector :=
  { d with readings := [], holding := false, agreeing := 0, quality := some qlDnu }

/-- A reading of a detector (R68): one that jumps is discarded and phase is held; two that agree in a row end the
hold. [DESIGN CHOICE: log entry 142] -/
def Detector.read (d : Detector) (r : Int) : Detector :=
  if d.agrees r then
    if d.holding && d.agreeing + 1 < 2 then { d with agreeing := d.agreeing + 1 }
    else { d with readings := (r :: d.readings).take 16, holding := false, agreeing := 0 }
  else { d with holding := true, agreeing := 0 }

/-- The place of an SSM code in the order of quality of ITU-T G.781, to which G.8264 refers, for EEC option 1 or 2 (R62):
the lower, the better; every other code is the worst. [PRESUMED: log entry 12] -/
def ssmRank (option code : Nat) : Nat :=
  let order := if option = 2 then [0x1, 0x0, 0x7, 0x4, 0xD, 0xA, 0xC, 0xE] else [0x2, 0x4, 0x8, 0xB]
  match order.idxOf? code with
  | some i => i
  | none => qlDnu

/-- The listed lane of best quality that may be selected (R62): better than QL-DNU, not failed, not waiting to be
restored; the first listed wins among equals. [PRESUMED: log entry 12] -/
def State.bestLane (s : State) : Option Nat :=
  let cands := ((List.range 8).map (fun j => s.rd (Od.synceLanePriority j))).filter (fun l =>
    l != 0xFFFF && !(s.synce.failed.contains l) && !(s.synce.waiting.contains l)
      && (s.synce.holdOff == some l || (s.detector l).frequency.isSome)
      && (match (s.detector l).quality with | none => false | some q => q < qlDnu))
  let q (l : Nat) : Nat := ((s.detector l).quality).getD qlDnu
  cands.foldl (fun (b : Option Nat) l => match b with
    | none => some l
    | some x => if q l < q x then some l else some x) none

/-- Select the frequency reference anew (R55, R62). -/
def State.reselectSynce (s : State) : State :=
  let lane := if s.rdB Od.synceEnable then s.bestLane else none
  let ref := match lane with
    | some l => 2 + l
    | none => if s.clock.refclkTime then 0 else 1
  { s with synce := { s.synce with lane := lane }, clock := { s.clock with reference := ref } }

/-- PHASE_DETECTOR_READING (R62, R67, R68): the reading in steps of 4 ps; a lane that is now measured may be selected. -/
def execPhaseDetectorReading (lane : Fin 256) (reading : Fin 1600) (s : State) : Res :=
  .next (s.setDetector lane ((s.detector lane).read ((s.detector lane).phaseOf reading))).reselectSynce

/-- A frame known by what it tells counts as received (R175), with octets the model leaves open, from 64 to MaxFrameSize.
[DESIGN CHOICE: log entry 150] -/
def State.countMessage (s : State) (p : Nat) : State :=
  let (s1, n) := s.openBits 150 16
  (s1.bump (Od.rxFrames p)).addTo (Od.rxOctets p) (max 64 (min (s.rd (Od.maxFrameSize p)) n))

/-- ESMC (R62): the quality level of the port's lane, an SSM code of the EEC option in force; the reference is selected
again. -/
def execEsmc (p : PortId) (quality : Nat) (s : State) : Res :=
  .next (if s.rd (Od.linkState p) = 4 then
      let s1 := s.countMessage p
      (s1.setDetector p { s1.detector p with quality := some (ssmRank (s1.rd Od.eecOption) quality) }).reselectSynce
    else s.bump (Od.rxNotUp p))

/-- The recovered clock of a lane fails (its port goes down): the hold-off timer runs when it is the reference in use
(R62). [DESIGN CHOICE: log entry 139] -/
def State.synceLaneFailed (s : State) (lane : Nat) : State :=
  if s.synce.lane = some lane then
    ({ s with synce := { s.synce with holdOff := some lane } }).arm tmHoldOff
  else
    let s1 := s.setDetector lane (s.detector lane).stopped
    { s1 with synce := { s1.synce with failed := if s1.synce.failed.contains lane then s1.synce.failed
                                         else lane :: s1.synce.failed } }

/-- A failed lane is good again: within the hold-off it is kept, otherwise it waits to be restored (R62).
[DESIGN CHOICE: log entry 139] -/
def State.synceLaneGood (s : State) (lane : Nat) : State :=
  if s.synce.holdOff = some lane then
    ({ s with synce := { s.synce with holdOff := none } }).disarm tmHoldOff
  else if s.synce.failed.contains lane then
    ({ s with synce := { s.synce with failed := s.synce.failed.filter (· != lane),
                                      waiting := lane :: s.synce.waiting } }).arm (tmRestore lane)
  else s

/-- HOLD_OFF_TIME (R62): the failed reference is given up and the reference selected again. -/
def execHoldOffTime (s : State) : Res :=
  .next (match s.synce.holdOff with
    | none => s
    | some l =>
      if s.due tmHoldOff (s.msCourses (s.rd Od.holdOffTime)) then
        let s1 := s.setDetector l (s.detector l).stopped
        (({ s1 with synce := { s1.synce with holdOff := none, failed := l :: s1.synce.failed } }).disarm
          tmHoldOff).reselectSynce
      else s)

/-- WAIT_TO_RESTORE (R62): the restored lane may be selected again. -/
def execWaitToRestore (lane : Fin 256) (s : State) : Res :=
  .next (if s.synce.waiting.contains lane.val && s.due (tmRestore lane) (s.secCourses (s.rd Od.waitToRestore)) then
      (({ s with synce := { s.synce with waiting := s.synce.waiting.filter (· != lane.val) } }).disarm
        (tmRestore lane)).reselectSynce
    else s)

/-! ### TAI and UTC (R78) -/

/-- Write a persisted entry at once: in force and in MRAM (R537). -/
def State.wrPersist (s : State) (key val : Nat) : State :=
  let s1 := s.wr key val
  { s1 with store := tblSet (odDefault key) s1.store key val }

/-- The present second is the first of a UTC day as UtcOffset counts once the pending leap second is over (R78). -/
def State.utcMidnight (s : State) : Bool :=
  ((s.second : Int) - (s.rdI 16 Od.utcOffset + s.rdI 8 Od.leapPending)) % 86400 == 0

/-- LEAP_SECOND (R78): at 00:00:00 UTC of the following day UtcOffset changes by LeapPending; device time does not. -/
def execLeapSecond (s : State) : Res :=
  .next (if s.utcMidnight then
      (s.wrPersist Od.utcOffset (ofSigned 16 (s.rdI 16 Od.utcOffset + s.rdI 8 Od.leapPending))).wr Od.leapPending 0
    else s)

/-! ### PTP ports (R58, R78, R80 to R87) -/

/-- A PTP port that has done nothing. -/
def PtpPort.fresh : PtpPort :=
  { attempt := 0, matched := false, announced := false, dataSet := [], path := [], pdelaySeen := false, zeroSeen := false,
    l1Up := false, failed := false, lastTried := 0, syncSeq := none, reqSent := none, pdelayHeld := none, lastSync := none,
    passed := [], nextSeq := 0, askedSync := none, askedAnnounce := none, held := [], followUps := [] }

/-- A PTP port's record. -/
def State.ptpPort (s : State) (p : Nat) : PtpPort := tblGet PtpPort.fresh s.ptp p

/-- Set a PTP port's record. -/
def State.setPtp (s : State) (p : Nat) (x : PtpPort) : State := { s with ptp := tblSet PtpPort.fresh s.ptp p x }

/-- The port's source code is listed (R58). -/
def State.ptpListed (s : State) (p : Nat) : Bool := s.listedSources.contains (0x1000 + p)

/-- The profile a port runs or tries, in the order of R84; 0 none. -/
def State.ptpProfile (s : State) (p : Nat) : Nat :=
  let x := s.ptpPort p
  if s.rd (Od.profileInUse p) ≠ 0 then s.rd (Od.profileInUse p) else if x.attempt ≠ 0 then x.attempt else x.lastTried

/-- The domain the port takes part in: 0 in the power profile, 24 to 43 in the telecom profile, else the configured one
(R82, R84). -/
def State.ptpDomainOk (s : State) (p d : Nat) : Bool :=
  if s.ptpProfile p = 2 then d = 0
  else if s.ptpProfile p = 3 then 24 ≤ d && d ≤ 43
  else d = s.rd (Od.domainNumber p)

/-- The sync interval in use: the partner's request within the port's range, else the configured one (R82). -/
def State.syncLog (s : State) (p : Nat) : Int := ((s.ptpPort p).askedSync).getD (s.rdI 8 (Od.logSyncInterval p))

/-- The announce interval in use. -/
def State.announceLog (s : State) (p : Nat) : Int :=
  ((s.ptpPort p).askedAnnounce).getD (s.rdI 8 (Od.logAnnounceInterval p))

/-- Profile k of R84 is enabled: bits [3:0] of ProfilesOffered are default, telecom, power, high-accuracy. -/
def State.profileOffered (s : State) (p k : Nat) : Bool := 1 ≤ k && k ≤ 4 && bitOf (s.rd (Od.profilesOffered p)) (k - 1)

/-- The path delay and asymmetry terms removed from a one-way delay (R87): the board delays move the stamps to the
connector, DelayAsymmetry is the medium's. -/
def State.rxAtConnector (s : State) (p : Nat) (t : Nat) : Int := (t : Int) - s.rdI 32 (Od.rxBoardDelay p) * 64

/-- A transmit stamp moved to the connector. -/
def State.txAtConnector (s : State) (p : Nat) (t : Nat) : Int := (t : Int) + s.rdI 32 (Od.txBoardDelay p) * 64

/-- Symbols of a lane of a speed class in one 6.4 ns period of 156.25 MHz (R67, R155). -/
def symbolsPerPeriod (cls : Nat) : Int := [8, 66, 165, 170, 340].getD cls 340

/-- The symbol edge of a lane nearest to an instant (R68): the detector gives the sub-symbol phase, the PCS the whole
symbols; a period is 4,194,304 tenths of 2^-16 ns. [DESIGN CHOICE: log entry 142] -/
def symbolEdge (n phase : Int) (t : Nat) : Nat :=
  let ph := phase * 65536 / 1000
  let k := (20 * n * ((t : Int) - ph) + 4194304) / 8388608
  (ph + k * 4194304 / (10 * n)).toNat

/-- The instant of a timestamp point as the port's PCS and detector give it (R68). [DESIGN CHOICE: log entry 142] -/
def State.symbolTime (s : State) (p t : Nat) : Nat :=
  match (s.detector p).phase with
  | none => t
  | some ph => symbolEdge (symbolsPerPeriod (min (s.rd (Od.speedInUse p)) 4)) ph t

/-- The receive timestamp of the present instant on a port: the lane's constant is removed (R69, R70, R79).
[DESIGN CHOICE: log entry 15] -/
def State.rxStamp (s : State) (p : Nat) : Nat := ((s.symbolTime p s.now : Int) - (s.lane p).rx * 64).toNat

/-- The transmit timestamp of an instant on a port. [DESIGN CHOICE: log entry 15] -/
def State.txStamp (s : State) (p : Nat) (t : Nat) : Nat := ((s.symbolTime p t : Int) + (s.lane p).tx * 64).toNat

/-- The device's clockIdentity (R82): the EUI-64 of the base MAC address of MGMT_A. -/
def State.clockIdentity (s : State) : Nat :=
  let m := s.rd Od.mgmtMac
  m / 2 ^ 24 * 2 ^ 40 + 0xFFFE * 2 ^ 24 + m % 2 ^ 24

/-- Messages of the event kind, which UDP carries on port 319 (R83). [PRESUMED: log entry 149] -/
def ptpEvent (name : String) : Bool :=
  name == "Sync" || name == "Sync two-step" || name == "Delay_Req" || name == "Pdelay_Req" || name == "Pdelay_Resp"

/-- How a port's messages are carried (R83, R84): the power profile over layer 2 in domain 0, peer to peer; the telecom
profile to 01-1B-19-00-00-00 in domain 24; else as the port is configured. -/
def State.ptpVia (s : State) (p : Nat) (name : String) : PtpVia :=
  let k := s.ptpProfile p
  let transport := if k = 2 ∨ k = 3 then 0 else s.rd (Od.transport p)
  ⟨transport, if transport = 0 then 0x88F7 else if ptpEvent name then 319 else 320,
    if k = 3 then some 0x011B19000000 else none,
    if k = 2 then 0 else if k = 3 then 24 else s.rd (Od.domainNumber p),
    if k = 2 then 2 else s.rd (Od.delayMechanism p)⟩

/-- A PTP message leaves by a port (R82): from the Keystone on VN0 (R37), with the device's clockIdentity.
[DESIGN CHOICE: log entry 155] -/
def State.ptpSend (s : State) (p : Nat) (name : String) (seq : Nat) (fields : List Int) (tlvs : List PtpTlv) : State :=
  ((s.carry tileKt (p / 8) 0 64 0 seq).emit (.ptp p name (some (s.ptpVia p name)) seq s.clockIdentity fields tlvs)).bump
    (Od.ptpTx p)

/-- Take the port's next sequence number. -/
def State.ptpNext (s : State) (p : Nat) : State :=
  s.setPtp p { s.ptpPort p with nextSeq := ((s.ptpPort p).nextSeq + 1) % 65536 }

/-- A Pdelay_Req or Delay_Req leaves and is stamped (R79, R82): its egress stamp is kept for the response. -/
def State.ptpRequest (s : State) (p : Nat) (name : String) : State :=
  let x := s.ptpPort p
  (s.setPtp p { x with reqSent := some (x.nextSeq, s.txStamp p s.now), nextSeq := (x.nextSeq + 1) % 65536 }).ptpSend
    p name x.nextSeq [] []

/-- The path an Announce names (R83): that of the selected source's Announces, and the device's own identity.
[DESIGN CHOICE: log entry 144] -/
def State.announcePath (s : State) : List Nat :=
  (if s.rd Od.selectedSource / 0x1000 = 1 then (s.ptpPort (s.rd Od.selectedSource % 0x1000)).path else [])
    ++ [s.clockIdentity]

/-- A port sends an Announce that describes the selected source (R58). -/
def State.ptpAnnounce (s : State) (p : Nat) : State :=
  (s.ptpNext p).ptpSend p "Announce" (s.ptpPort p).nextSeq
    [(s.rd Od.selectedSource : Int), s.rdI 16 Od.utcOffset, s.rdI 8 Od.leapPending] [.pathTrace s.announcePath]

/-- What an attempt of R84 sends. -/
def State.ptpOffer (s : State) (p j : Nat) : State :=
  match j with
  | 1 => (s.ptpNext p).ptpSend p "Signaling" (s.ptpPort p).nextSeq [] [.l1Sync]
  | 2 => s.ptpRequest p "Pdelay_Req"
  | _ => s.ptpAnnounce p

/-- Begin the first offered attempt of order `k` or later (R84); with none left the negotiation fails (R85): LISTENING
under the last profile tried, event 0x2A04, the count, and 60 s until it repeats. -/
def State.ptpAttempt (s : State) (p k : Nat) : State :=
  match [k, k + 1, k + 2, k + 3].find? (fun j => s.profileOffered p j) with
  | some j =>
    let s1 := (s.setPtp p { s.ptpPort p with attempt := j, lastTried := j, matched := false, pdelaySeen := false,
                                             zeroSeen := false, l1Up := false, failed := false }).wr (Od.profileInUse p) 0
    ((s1.wr (Od.portState p) 4).arm (tmNegotiation p)).ptpOffer p j
  | none =>
    let s1 := (s.setPtp p { s.ptpPort p with attempt := 0, failed := true }).wr (Od.portState p) 4
    (((s1.disarm (tmNegotiation p)).arm (tmNegRetry p)).raise 0x2A04 p).bump (Od.negotiationFailures p)

/-- The state of a port that receives valid Announces (R58): SLAVE (9) when listed, else what the BMCA gives with
PASSIVE (7) in place of SLAVE. -/
def State.ptpStateFor (s : State) (p : Nat) (data : List Nat) : Nat :=
  if s.ptpListed p then 9 else if Config.bmca data = 0 then 6 else 7

/-- The port takes the state R58 gives it: by the Announces it receives, or, when AnnounceReceiptTimeout has passed
without one, the BMCA's for a port that hears none, MASTER (6). -/
def State.ptpRestate (s : State) (p : Nat) : State :=
  let x := s.ptpPort p
  if s.rd (Od.profileInUse p) = 0 then s
  else if x.announced then s.wr (Od.portState p) (s.ptpStateFor p x.dataSet)
  else if s.armed (tmAnnounce p) then s
  else s.wr (Od.portState p) 6

/-- Every port's state is judged again when SourcePriority applies (R58). -/
def State.ptpRestateAll (s : State) : State := forEach (s.ptp.map Prod.fst) (fun p s => s.ptpRestate p) s

/-- The running attempt succeeds (R84); a port that has heard no Announce waits AnnounceReceiptTimeout for one (R58). -/
def State.ptpSucceed (s : State) (p : Nat) : State :=
  let x := s.ptpPort p
  let s1 := ((s.setPtp p { x with attempt := 0, matched := true, failed := false }).wr (Od.profileInUse p)
    x.attempt).disarm (tmNegotiation p)
  (if x.announced then s1 else s1.arm (tmAnnounce p)).ptpRestate p

/-- AnnounceReceiptTimeout has passed: the port takes the state the BMCA gives it without an Announce (R58). -/
def State.ptpNoAnnounce (s : State) (p : Nat) : State :=
  (s.setPtp p { s.ptpPort p with announced := false, dataSet := [], path := [] }).ptpRestate p

/-- A Sync's two instants give a measurement when the port is a slave (R58, R59, R87): the offset of the time base from
the master. Beyond UnlockThreshold from the running estimate it is an outlier.
[DESIGN CHOICE: log entries 11, 138] -/
def State.ptpMeasure (s : State) (p : Nat) (t1 : Int) (t2 : Nat) : State :=
  let o := s.rxAtConnector p t2 - t1 - s.rdI 64 (Od.meanPathDelay p) - s.rdI 64 (Od.delayAsymmetry p)
  let s1 := s.wrI 64 (Od.offsetFromMaster p) o
  if s.rd (Od.portState p) = 9 ∧ s.rd (Od.profileInUse p) ≠ 0 then
    let first := !(s.source (0x1000 + p)).measured
    let far := decide ((o - Config.runningEstimate s.freeCtr).natAbs * 1000 > s.rd Od.unlockThreshold * nsTicks)
    ({ s1 with freeCtr := s1.freeCtr + 1 }).measure (0x1000 + p) o (!first && far)
  else s1

/-- The message's type for the rate of R86, and whether the negotiated rate of its type is the announce interval's. -/
def ptpType : PtpMsg → Nat × Bool
  | .sync _ _ => (0, false)
  | .followUp _ => (1, false)
  | .delayReq _ => (2, false)
  | .delayResp _ => (3, false)
  | .pdelayReq _ => (4, false)
  | .pdelayResp _ _ => (5, false)
  | .pdelayRespFollowUp _ => (6, false)
  | .announce _ => (7, true)
  | .signaling _ => (8, true)
  | .management => (9, true)

/-- The message passes the rate of R86: no more than four times one message every 2^log seconds. From one message a second
on it is counted in whole seconds (R608); a slower one is one message in the span, converted to courses (R59).
[DESIGN CHOICE: log entry 137] -/
def State.ptpWithinRate (s : State) (p : Nat) (m : PtpMsg) : Bool :=
  let (ty, ann) := ptpType m
  let log := if ann then s.announceLog p else s.syncLog p
  let mine := (s.ptpPort p).passed.filter (fun e => e.1 == ty)
  if log ≤ 2 then (mine.filter (fun e => e.2.1 == s.second)).length < 2 ^ (2 - log).toNat
  else !mine.any (fun e => decide ((s.course : Int) < e.2.2 + s.secCourses (2 ^ (log - 2).toNat)))

/-- The rate is judged and the message noted; what no span reaches any more is forgotten.
[DESIGN CHOICE: log entry 137] -/
def State.ptpRate (s : State) (p : Nat) (m : PtpMsg) : State × Bool :=
  let ok := s.ptpWithinRate p m
  let x := s.ptpPort p
  let keep := x.passed.filter (fun e => e.2.1 == s.second || decide ((s.course : Int) < e.2.2 + s.secCourses 2))
  (s.setPtp p { x with passed := if ok then ((ptpType m).1, s.second, s.course) :: keep else keep }, ok)

/-- The egress of an event message the switch forwards (R82): port, instant, and whether the asymmetry of the ingress
port is added (on the way from the master's side) or that of the egress port is taken off (requests). -/
def ptpEgress : PtpMsg → Option (PortId × Nat × Bool)
  | .sync _ e | .pdelayResp _ e => e.map (fun x => (x.1, x.2, true))
  | .delayReq e | .pdelayReq e => e.map (fun x => (x.1, x.2, false))
  | _ => none

/-- A message of another domain is forwarded as a transparent clock, its TLVs unchanged (R82, R83): to an event message
the residence time and the port asymmetry terms are added; on a port that does not forward it, it is discarded and
counted (R86). -/
def State.ptpTransparent (s : State) (p : Nat) (h : PtpHeader) (m : PtpMsg) (stamp : Nat) : State :=
  match ptpEgress m, h.forward with
  | some (q, e, ingress), _ =>
    let asym := if ingress then s.rdI 64 (Od.delayAsymmetry p) else -s.rdI 64 (Od.delayAsymmetry q)
    s.emit (.ptp q "forwarded" none h.seq 0 [h.correction + ((e : Int) - (stamp : Int)) + asym] h.tlvs)
  | none, some q => s.emit (.ptp q "forwarded" none h.seq 0 [h.correction] h.tlvs)
  | none, none => s.bump (Od.ptpDiscarded p)

/-- A TLV of a type the device does not know (R83). -/
def unknownTlv : PtpTlv → Bool
  | .unknown _ _ => true
  | _ => false

/-- The clock identities a message's PATH_TRACE names. [DESIGN CHOICE: log entry 144] -/
def passedClocks (h : PtpHeader) : List Nat :=
  (h.tlvs.map (fun v => match v with | .pathTrace l => l | _ => [])).flatten

/-- The Announce of the selected source gives UtcOffset and LeapPending when it declares them valid (R78). -/
def State.utcFrom (s : State) (p : Nat) (a : AnnounceBody) : State :=
  if s.rd Od.selectedSource = 0x1000 + p ∧ a.utcValid ∧ -1000 ≤ a.utcOffset ∧ a.utcOffset ≤ 1000 ∧
      -1 ≤ a.leap ∧ a.leap ≤ 1 then
    (s.wrPersist Od.utcOffset (ofSigned 16 a.utcOffset)).wr Od.leapPending (ofSigned 8 a.leap)
  else s

/-- Success of the running attempt on an Announce (R84, orders 2 to 4). -/
def State.announceMatches (s : State) (p d : Nat) : Bool :=
  let x := s.ptpPort p
  match x.attempt with
  | 2 => x.pdelaySeen && d == 0
  | 3 => 24 ≤ d && d ≤ 43
  | 4 => d == s.rd (Od.domainNumber p)
  | _ => false

/-- The message acts on its port (R58, R82 to R87); `stamp` is its receive timestamp.
[DEDUCED: log entry 24; DESIGN CHOICE: log entry 144] -/
def State.ptpAct (s : State) (p : Nat) (h : PtpHeader) (m : PtpMsg) (stamp : Nat) : State :=
  let x := s.ptpPort p
  match m with
  | .sync origin _ =>
    let s1 := s.setPtp p { x with syncSeq := if h.twoStep then some (h.seq, stamp, h.correction) else none }
    if h.twoStep then s1
    else
      let t1 : Int := origin + h.correction
      (s1.setPtp p { s1.ptpPort p with lastSync := some (t1.toNat, stamp) }).ptpMeasure p t1 stamp
  | .followUp origin =>
    match x.syncSeq with
    | some (q, st, c) =>
      if q = h.seq then
        let t1 : Int := origin + c + h.correction
        (s.setPtp p { x with syncSeq := none, lastSync := some (t1.toNat, st) }).ptpMeasure p t1 st
      else s
    | none => s
  | .delayReq _ =>
    if s.rd (Od.delayMechanism p) = 1 ∧ s.rd (Od.portState p) = 6 then
      s.ptpSend p "Delay_Resp" h.seq [s.rxAtConnector p stamp, h.correction] []
    else s
  | .delayResp receive =>
    match x.reqSent, x.lastSync with
    | some (q, t3), some (t1, t2) =>
      if q = h.seq ∧ s.rd (Od.delayMechanism p) = 1 then
        let t4 : Int := receive - h.correction
        (s.setPtp p { x with reqSent := none }).wrI 64 (Od.meanPathDelay p)
          (((s.rxAtConnector p t2 - t1) + (t4 - s.txAtConnector p t3)) / 2)
      else s
    | _, _ => s
  | .pdelayReq _ =>
    if s.rd (Od.delayMechanism p) = 2 ∨ s.rd (Od.profileInUse p) = 2 ∨ x.attempt = 2 then
      (s.ptpSend p "Pdelay_Resp" h.seq [s.rxAtConnector p stamp, 0] []).ptpSend p "Pdelay_Resp_Follow_Up" h.seq
        [s.txAtConnector p (s.txStamp p s.now), h.correction] []
    else s
  | .pdelayResp t2 _ =>
    let seen := x.attempt == 2 && h.domain == 0
    let s0 := s.setPtp p { x with pdelaySeen := x.pdelaySeen || seen,
                                  pdelayHeld := if h.twoStep then some (h.seq, t2, stamp, h.correction) else none }
    let s1 := if seen && x.zeroSeen then s0.ptpSucceed p else s0
    match x.reqSent with
    | some (q, t1) =>
      if q = h.seq ∧ ¬ h.twoStep then
        (s1.setPtp p { s1.ptpPort p with reqSent := none }).wrI 64 (Od.meanPathDelay p)
          ((s.rxAtConnector p stamp - s.txAtConnector p t1 - h.correction) / 2)
      else s1
    | none => s1
  | .pdelayRespFollowUp t3 =>
    match x.reqSent, x.pdelayHeld with
    | some (q, t1), some (q', t2, t4, c) =>
      if q = h.seq ∧ q' = h.seq then
        (s.setPtp p { x with reqSent := none, pdelayHeld := none }).wrI 64 (Od.meanPathDelay p)
          ((s.rxAtConnector p t4 - s.txAtConnector p t1 - ((t3 : Int) - (t2 : Int)) - c - h.correction) / 2)
      else s
    | _, _ => s
  | .announce a =>
    if (passedClocks h).contains s.clockIdentity then s
    else
      let zero := x.attempt == 2 && h.domain == 0
      let s1 := (s.setPtp p { x with announced := true, dataSet := a.dataSet, path := passedClocks h,
                                     zeroSeen := x.zeroSeen || zero }).arm (tmAnnounce p)
      let s2 := if s1.announceMatches p h.domain then s1.ptpSucceed p else s1
      (s2.ptpRestate p).utcFrom p a
  | .signaling b =>
    let s1 := match b.l1Sync with
      | none => s
      | some up =>
        let y := s.setPtp p { x with l1Up := up }
        if up && x.attempt == 1 && (s.detector p).coherent then y.ptpSucceed p else y
    let ask (r : Option Int) (lo hi : Int) (old : Option Int) : Option Int :=
      match r with
      | some v => if lo ≤ v ∧ v ≤ hi then some v else old
      | none => old
    s1.setPtp p { s1.ptpPort p with askedSync := ask b.logSync (-7) 1 x.askedSync,
                                    askedAnnounce := ask b.logAnnounce (-3) 3 x.askedAnnounce }
  | .management => s.bump (Od.ptpDiscarded p)

/-- A PTP message judged and acted on, its stamp taken (R82 to R86). [DEDUCED: log entry 24] -/
def State.ptpProcess (s : State) (p : Nat) (h : PtpHeader) (m : PtpMsg) (stamp : Nat) : State :=
  let s1 := s.bump (Od.ptpRx p)
  if !h.valid then s1.bump (Od.ptpDiscarded p)
  else if !s1.rdB (Od.ptpEnable p) || !s1.ptpDomainOk p h.domain then s1.ptpTransparent p h m stamp
  else
    let (s2, ok) := s1.ptpRate p m
    if !ok then s2.bump (Od.ptpDiscarded p)
    else (if h.tlvs.any unknownTlv then s2.bump (Od.ptpUnknownTlv p) else s2).ptpAct p h m stamp

/-- A PTP message arrives on a port in LinkState 4 (R168): it is counted and stamped (R79); a Keystone handover holds up to 64 a port with their stamps (R560).
[DEDUCED: log entry 24] -/
def State.ptpReceive (s : State) (p off : Nat) (h : PtpHeader) (m : PtpMsg) : State :=
  let s0 := s.moveTo off
  let s1 := (s0.countMessage p).carry (p / 8) tileKt 0 64 0 h.seq
  let x := s1.ptpPort p
  if s0.rd (Od.linkState p) ≠ 4 then s0.bump (Od.rxNotUp p)
  else if s1.agent.handover then
    if x.held.length < 64 then s1.setPtp p { x with held := x.held ++ [(h, m, s1.rxStamp p)] }
    else s1.bump (Od.ptpDiscarded p)
  else s1.ptpProcess p h m (s1.rxStamp p)

/-- SYNC (R82). -/
def execSync (p : PortId) (off : Nat) (h : PtpHeader) (origin : Nat) (egress : Option (PortId × Nat)) (s : State) :
    Res := .next (s.ptpReceive p off h (.sync origin egress))

/-- FOLLOW_UP (R82). -/
def execFollowUp (p : PortId) (off : Nat) (h : PtpHeader) (origin : Nat) (s : State) : Res :=
  .next (s.ptpReceive p off h (.followUp origin))

/-- DELAY_REQ (R82). -/
def execDelayReq (p : PortId) (off : Nat) (h : PtpHeader) (egress : Option (PortId × Nat)) (s : State) : Res :=
  .next (s.ptpReceive p off h (.delayReq egress))

/-- DELAY_RESP (R82). [DESIGN CHOICE: log entry 16] -/
def execDelayResp (p : PortId) (off : Nat) (h : PtpHeader) (receive : Nat) (s : State) : Res :=
  .next (s.ptpReceive p off h (.delayResp receive))

/-- PDELAY_REQ (R82). -/
def execPdelayReq (p : PortId) (off : Nat) (h : PtpHeader) (egress : Option (PortId × Nat)) (s : State) : Res :=
  .next (s.ptpReceive p off h (.pdelayReq egress))

/-- PDELAY_RESP (R82). [DESIGN CHOICE: log entry 16] -/
def execPdelayResp (p : PortId) (off : Nat) (h : PtpHeader) (requestReceipt : Nat)
    (egress : Option (PortId × Nat)) (s : State) : Res :=
  .next (s.ptpReceive p off h (.pdelayResp requestReceipt egress))

/-- PDELAY_RESP_FOLLOW_UP (R82). -/
def execPdelayRespFollowUp (p : PortId) (off : Nat) (h : PtpHeader) (responseOrigin : Nat) (s : State) : Res :=
  .next (s.ptpReceive p off h (.pdelayRespFollowUp responseOrigin))

/-- ANNOUNCE (R58, R78, R84). -/
def execAnnounce (p : PortId) (off : Nat) (h : PtpHeader) (body : AnnounceBody) (s : State) : Res :=
  .next (s.ptpReceive p off h (.announce body))

/-- SIGNALING (R82, R84). -/
def execSignaling (p : PortId) (off : Nat) (h : PtpHeader) (body : SignalingBody) (s : State) : Res :=
  .next (s.ptpReceive p off h (.signaling body))

/-- MANAGEMENT_MESSAGE (R82): counted and discarded. -/
def execManagementMessage (p : PortId) (off : Nat) (h : PtpHeader) (s : State) : Res :=
  .next (s.ptpReceive p off h .management)

/-- A Follow_Up goes out: its sequence number and the transmit stamp at the connector. -/
def State.ptpFollowUp (s : State) (p : Nat) (f : Nat × Nat) : State :=
  s.ptpSend p "Follow_Up" f.1 [(f.2 : Int)] []

/-- SYNC_TRANSMIT (R81): a port in MASTER sends Sync, one-step with origin and correction written by hardware, or
two-step with a Follow_Up when an inline cipher protects the port's PTP frames. A Keystone handover holds the
Follow_Up (R560): the port's negotiation state decides whether it sends at all (R85). -/
def execSyncTransmit (p : PortId) (off : Nat) (s : State) : Res :=
  let s := s.moveTo off
  let t := s.txAtConnector p (s.txStamp p s.now)
  let n := (s.ptpPort p).nextSeq
  .next (if s.rdB (Od.ptpEnable p) && s.rd (Od.profileInUse p) != 0 && s.rd (Od.portState p) == 6 then
      if s.rdB (Od.macsecEnable p) then
        let s1 := (s.ptpNext p).ptpSend p "Sync two-step" n [] []
        if s1.agent.handover then s1.setPtp p { s1.ptpPort p with followUps := (s1.ptpPort p).followUps ++ [(n, t.toNat)] }
        else s1.ptpFollowUp p (n, t.toNat)
      else (s.ptpNext p).ptpSend p "Sync" n [t, 0] []
    else s)

/-- ANNOUNCE_TRANSMIT (R58, R84): a MASTER port sends Announce describing the selected source; a high-accuracy port
re-checks its L1 state and restarts negotiation from order 1 when it has left L1_SYNC_UP. -/
def execAnnounceTransmit (p : PortId) (off : Nat) (s : State) : Res :=
  let s := s.moveTo off
  if s.rdB (Od.ptpEnable p) && s.rd (Od.profileInUse p) == 1 && !((s.ptpPort p).l1Up && (s.detector p).coherent) then
    .next (s.ptpAttempt p 1)
  else if s.rdB (Od.ptpEnable p) && s.rd (Od.profileInUse p) != 0 && s.rd (Od.portState p) == 6 then
    .next (s.ptpAnnounce p)
  else .next s

/-- DELAY_REQ_TRANSMIT (R82): a slave sends Delay_Req (E2E), any port sends Pdelay_Req (P2P); its egress stamp is kept
for the response. -/
def execDelayReqTransmit (p : PortId) (off : Nat) (s : State) : Res :=
  let s := s.moveTo off
  let x := s.ptpPort p
  if !s.rdB (Od.ptpEnable p) then .next s
  else if s.rd (Od.delayMechanism p) = 2 ∨ s.rd (Od.profileInUse p) = 2 ∨ x.attempt = 2 then
    .next (s.ptpRequest p "Pdelay_Req")
  else if s.rd (Od.portState p) = 9 then
    .next (s.ptpRequest p "Delay_Req")
  else .next s

/-- AnnounceReceiptTimeout in courses: so many announce intervals (R58). -/
def State.announceCourses (s : State) (p : Nat) : Nat :=
  let n := s.rd (Od.announceReceiptTimeout p)
  let l := s.announceLog p
  s.msCourses (if l ≤ 0 then n * 1000 / 2 ^ l.natAbs else n * 1000 * 2 ^ l.natAbs)

/-- ANNOUNCE_RECEIPT_TIMEOUT (R58): the port leaves SLAVE and takes the state the BMCA gives it.
[DEDUCED: log entry 4] -/
def execAnnounceReceiptTimeout (p : PortId) (s : State) : Res :=
  .next (if s.due (tmAnnounce p) (s.announceCourses p) then (s.disarm (tmAnnounce p)).ptpNoAnnounce p else s)

/-- NEGOTIATION_TIME (R84, R85): an attempt's time has passed; the next offered profile is tried, or negotiation
fails. -/
def execNegotiationTime (p : PortId) (s : State) : Res :=
  .next (if (s.ptpPort p).attempt ≠ 0 ∧ s.due (tmNegotiation p) (s.msCourses (s.rd (Od.negotiationTime p))) = true then
      s.ptpAttempt p ((s.ptpPort p).attempt + 1)
    else s)

/-- NEGOTIATION_RETRY (R85): 60 s after a failure the sequence starts again from order 1. -/
def execNegotiationRetry (p : PortId) (s : State) : Res :=
  .next (if (s.ptpPort p).failed ∧ s.due (tmNegRetry p) (s.secCourses 60) = true then
      (s.disarm (tmNegRetry p)).ptpAttempt p 1
    else s)

/-- PtpEnable applies (R84): negotiation starts from order 1, or the port leaves the protocol. -/
def State.applyPtpEnable (s : State) (p : Nat) : State :=
  if s.rdB (Od.ptpEnable p) then s.ptpAttempt p 1
  else
    let s1 := ((s.setPtp p PtpPort.fresh).wr (Od.profileInUse p) 0).wr (Od.portState p) 3
    ((s1.disarm (tmNegotiation p)).disarm (tmNegRetry p)).disarm (tmAnnounce p)

end Sys2Proof.Machine
end

