-- ==== Sys2Proof/Machine/Ports.lean ====
section
/-! DEFINITION. Machine/Ports.lean: lane grouping, speeds, the steps of bringing a link up and DCBX (chapter "Lanes,
ports and link negotiation", R150 to R168). -/

namespace Sys2Proof.Machine

/-! ### Timer keys -/

/-- The 500 ms of an attempt of step 1 (R160). -/
def tmAnAttempt (p : Nat) : Nat := timerKey 8 p
/-- AnRetryInterval (R160, R162). -/
def tmAnRetry (p : Nat) : Nat := timerKey 9 p
/-- TrainingTimeout (R157). -/
def tmTraining (p : Nat) : Nat := timerKey 10 p
/-- TTL of the peer's DCBX information (R167). -/
def tmLldpTtl (p : Nat) : Nat := timerKey 11 p
/-- LldpTxInterval (R164). -/
def tmLldpTx (p : Nat) : Nat := timerKey 12 p
/-- LinkDownHold, stated in courses (R170). -/
def tmLinkDown (p : Nat) : Nat := timerKey 65 p
/-- LinkUpHold, stated in courses (R157). -/
def tmLinkUp (p : Nat) : Nat := timerKey 66 p

/-! ### Ports and lanes (R150 to R155) -/

/-- The nibble of a lane in a grouping value. -/
def laneNibble (g n : Nat) : Nat := bitField g (4 * n + 3) (4 * n)

/-- LaneGrouping holds only what R151 allows. -/
def groupingValid (g : Nat) : Bool :=
  (List.range 8).all (fun n =>
    let w := laneNibble g n
    if w = 0 then true
    else if w = 0xF then
      (List.range n).any (fun m => let v := laneNibble g m; v != 0 && v != 0xF && m + v > n)
    else (w == 1 || w == 2 || w == 4 || w == 8) && n % w == 0 && n + w ≤ 8 &&
      (List.range w).all (fun k => k == 0 || laneNibble g (n + k) == 0xF))

/-- Width of the port that starts at lane `p` under the grouping in force; 0 when the lane starts none. -/
def State.portWidth (s : State) (p : Nat) : Nat :=
  let w := laneNibble (s.rd (Od.laneGrouping (p / 8))) (p % 8)
  if w = 0xF then 0 else w

/-- The ports of a tile, in ascending order. -/
def State.tilePorts (s : State) (t : Nat) : List Nat :=
  ((List.range 8).map (fun n => 8 * t + n)).filter (fun p => s.portWidth p != 0)

/-- Width of a speed (R155). -/
def speedWidth (v : Nat) : Nat := [1, 1, 1, 1, 1, 2, 4, 8].getD v 0

/-- Rate of a speed in Gb/s (R155); 0 for none. -/
def speedRate (v : Nat) : Nat := [1, 10, 25, 50, 100, 200, 400, 800].getD v 0

/-- The speed is legal for the port (R155). -/
def State.speedLegal (s : State) (p v : Nat) : Bool := s.portWidth p != 0 && speedWidth v == s.portWidth p

/-- The port's rate in Gb/s; a port with no speed in use is taken at 1 Gb/s. -/
def State.rate (s : State) (p : Nat) : Nat := max 1 (speedRate (s.rd (Od.speedInUse p)))

/-- The port is up. -/
def State.up (s : State) (p : Nat) : Bool := s.rd (Od.linkState p) == 4

/-- A port's record before anything happened to it. -/
def Port.fresh : Port :=
  { rsFec := false, rs544 := false, trained := false, failSpeed := 0xFF, failCount := 0, downCause := none,
    limited := false, disabledOnce := false, peer := none, dcbxDue := false, second := 0, lldpdus := 0 }

/-- A port's record. -/
def State.port (s : State) (p : Nat) : Port := tblGet Port.fresh s.ports p

/-- Set a port's record. -/
def State.setPort (s : State) (p : Nat) (x : Port) : State := { s with ports := tblSet Port.fresh s.ports p x }

/-- The speeds the port offers in Clause 73: offered, legal, not masked (R158). -/
def State.offered (s : State) (p : Nat) : List Nat :=
  (List.range 8).filter (fun v => bitOf (s.rd (Od.abilitiesOffered p)) v && s.speedLegal p v
    && !bitOf (s.rd (Od.speedFallbackMask p)) v)

/-- The highest-numbered common speed (R158). -/
def State.commonSpeed (s : State) (p abilities : Nat) : Option Nat :=
  ((s.offered p).filter (fun v => bitOf abilities v)).getLast?

/-! ### Bringing a link up (R157 to R163) -/

/-- Cancel the bring-up timers of a port. -/
def State.stopBringUp (s : State) (p : Nat) : State :=
  ((((s.disarm (tmAnAttempt p)).disarm (tmAnRetry p)).disarm (tmTraining p)).disarm (tmLinkUp p)).disarm (tmLinkDown p)

/-- Speed and FEC of a module port (R162): ForcedSpeed must be legal and a forced FEC one that R155 allows for it. -/
def forcedFec (speed fecMode : Nat) : Option Nat :=
  match fecMode with
  | 0 => some (if speed ≥ 3 then 2 else 0)
  | 1 => if speed = 2 then some 1 else none
  | 2 => if speed ≥ 3 then some 2 else none
  | _ => if speed ≤ 2 then some 0 else none

/-- Step 1 of bring-up (R157): auto-negotiation starts, or a module port begins at step 4 (R162). A port without a legal
speed or FEC in its configuration is held down with cause 0x0A. [DEDUCED: log entry 17] -/
def State.bringUp (s : State) (p : Nat) : State :=
  let s0 := (s.stopBringUp p).setPort p { s.port p with trained := false, downCause := none }
  let s1 := (s0.wr (Od.speedInUse p) 0xFF).wr (Od.fecInUse p) 0
  if s.portWidth p = 0 then (s1.wr (Od.linkState p) 0)
  else if (s.port p).limited then (s1.wr (Od.linkState p) 5).wr (Od.linkDownCause p) 9
  else if !s.rdB (Od.portEnable p) then s1.wr (Od.linkState p) 0
  else if s.rd (Od.mediaType p) = 2 then
    let v := s.rd (Od.forcedSpeed p)
    match s.speedLegal p v, forcedFec v (s.rd (Od.fecMode p)) with
    | true, some f =>
      ((((s1.setPort p { s1.port p with trained := true }).wr (Od.speedInUse p) v).wr (Od.fecInUse p) f).wr
        (Od.linkState p) 2).arm (tmTraining p)
    | _, _ => (s1.wr (Od.linkState p) 5).wr (Od.linkDownCause p) 0x0A
  else (s1.wr (Od.linkState p) 1).arm (tmAnAttempt p)

/-- No common ability, or no partner (R160). -/
def State.anFailed (s : State) (p : Nat) : State :=
  let s1 := ((s.stopBringUp p).wr (Od.linkState p) 5).bump (Od.anFailures p)
  (s1.raiseLimited 0x3A03 p 1 p).arm (tmAnRetry p)

/-- A speed is resolved; training begins (R157, step 2). -/
def State.resolveSpeed (s : State) (p v : Nat) : State :=
  (((s.stopBringUp p).wr (Od.speedInUse p) v).wr (Od.linkState p) 2).arm (tmTraining p)

/-- A training failure (R160): counted and logged; the third in a row at one speed of a single-lane port that offers a
lower one masks that speed; step 1 restarts. -/
def State.trainingFailed (s : State) (p : Nat) : State :=
  let v := s.rd (Od.speedInUse p)
  let x := s.port p
  let n := if x.failSpeed = v then x.failCount + 1 else 1
  let s1 := (s.bump (Od.trainingFailures p)).raiseLimited 0x3A04 p 1 p
  let fall := decide (n ≥ 3) && s.portWidth p == 1 && (s.offered p).any (fun w => w < v)
  let s2 := if fall then
      ((s1.setPort p { x with failSpeed := 0xFF, failCount := 0 }).wr (Od.speedFallbackMask p)
        (withBit (s.rd (Od.speedFallbackMask p)) v true)).raiseLimited 0x3A05 p 1 p
    else s1.setPort p { x with failSpeed := v, failCount := n }
  s2.bringUp p

/-- CLAUSE_73_PAGE (R158): the partner's abilities, whether it advertises RS-FEC at 25 GbE and RS(544,514). -/
def execClause73Page (p : PortId) (abilities : Nat) (rsFec rs544 : Bool) (s : State) : Res :=
  if s.rd (Od.linkState p) = 1 then
    let s1 := (s.setPort p { s.port p with rsFec := rsFec, rs544 := rs544 }).wr (Od.partnerAbilities p)
      (abilities % 256)
    .next (match s1.commonSpeed p (abilities % 256) with
      | some v => s1.resolveSpeed p v
      | none => s1.anFailed p)
  else .next s

/-- PARALLEL_DETECTION (R158): a 1000BASE-KX (0) or 10GBASE-KR (1) signal, accepted when that ability is offered. -/
def execParallelDetection (p : PortId) (speed : Fin 2) (s : State) : Res :=
  .next (if s.rd (Od.linkState p) = 1 ∧ (s.offered p).contains speed.val then s.resolveSpeed p speed.val else s)

/-- AN_ATTEMPT_TIMEOUT (R160): 500 ms without a page or an accepted signal. -/
def execAnAttemptTimeout (p : PortId) (s : State) : Res :=
  .next (if s.rd (Od.linkState p) = 1 ∧ s.due (tmAnAttempt p) (s.msCourses 500) = true then s.anFailed p else s)

/-- AN_RETRY_INTERVAL (R160, R162): step 1 again, or step 4 for a module. -/
def execAnRetryInterval (p : PortId) (s : State) : Res :=
  .next (if s.rd (Od.linkState p) = 5 ∧ s.due (tmAnRetry p) (s.msCourses (s.rd (Od.anRetryInterval p))) = true then
    s.bringUp p else s)

/-- FEC resolution (R155, R159): the FEC used at the speed, or none when resolution fails. -/
def State.resolveFec (s : State) (p : Nat) : Option Nat :=
  let x := s.port p
  match s.rd (Od.speedInUse p) with
  | 0 | 1 => some 0
  | 2 => if x.rsFec then some 1 else if s.rdB (Od.fecAllowNone p) then some 0 else none
  | _ => if x.rs544 then some 2 else none

/-- TRAINING_COMPLETE (R157, steps 2 and 3): FEC is resolved, or its failure counts as a training failure. -/
def execTrainingComplete (p : PortId) (s : State) : Res :=
  if s.rd (Od.linkState p) = 2 ∧ (s.port p).trained = false then
    .next (match s.resolveFec p with
      | some f => (s.setPort p { s.port p with trained := true }).wr (Od.fecInUse p) f
      | none => (s.raiseLimited 0x3A06 p 1 p).trainingFailed p)
  else .next s

/-- LOCK_AND_ALIGNMENT (R157, step 4): up-hold begins. -/
def execLockAndAlignment (p : PortId) (s : State) : Res :=
  .next (if s.rd (Od.linkState p) = 2 ∧ (s.port p).trained = true then
      ((s.disarm (tmTraining p)).wr (Od.linkState p) 3).arm (tmLinkUp p)
    else s)

/-- TRAINING_TIMEOUT (R160, R162). -/
def execTrainingTimeout (p : PortId) (s : State) : Res :=
  if s.rd (Od.linkState p) = 2 ∧ s.due (tmTraining p) (s.msCourses (s.rd (Od.trainingTimeout p))) = true then
    if s.rd (Od.mediaType p) = 2 then
      let s1 := (((s.stopBringUp p).bump (Od.trainingFailures p)).raiseLimited 0x3A04 p 1 p)
      .next ((s1.wr (Od.linkState p) 5).arm (tmAnRetry p))
    else .next (s.trainingFailed p)
  else .next s

/-- The link comes up (R157, step 6; R62, R85, R172); its first LLDPDU leaves one LldpTxInterval later (R164).
[DESIGN CHOICE: log entry 154] -/
def State.linkUp (s : State) (p : Nat) : State :=
  let s1 := (((s.stopBringUp p).wr (Od.linkState p) 4).wr (Od.lastLinkChange p) (ts96 s.now)).bump (Od.linkUpCount p)
  let s2 := ((s1.setPort p { s1.port p with failSpeed := 0xFF, failCount := 0, dcbxDue := true }).raiseLimited
    0x3A01 p 16 p).arm (tmLldpTx p)
  let s3 := s2.synceLaneGood p
  if s3.rdB (Od.ptpEnable p) then s3.ptpAttempt p 1 else s3

/-! ### DCBX (R164 to R167) -/

/-- The class of a priority under a PriorityToClass value. -/
def priorityClass (v pcp : Nat) : Nat := bitField v (3 * pcp + 2) (3 * pcp)

/-- A PriorityToClass value in which the protection PCP's field gives class 7 and no other field does (R166): a field of
another priority that gives class 7 is mapped to class 6. -/
def protectAssignment (v prot : Nat) : Nat :=
  (List.range 8).foldl (fun acc q =>
    let c := priorityClass v q
    let c' := if q = prot then 7 else if c = 7 then 6 else c
    acc + c' * 2 ^ (3 * q)) 0

/-- The local PFC enables, without the protection PCP's bit (R166). -/
def State.localPfc (s : State) (p : Nat) : Nat :=
  withBit (s.rd (Od.pfcEnableLocal p)) (s.rd (Od.protectionPcp p)) false

/-- The local priority assignment (R166). -/
def State.localAssignment (s : State) (p : Nat) : Nat :=
  protectAssignment (s.rd (Od.priorityToClass p)) (s.rd (Od.protectionPcp p))

/-- Put operational settings in force. -/
def State.setOper (s : State) (p pfc assignment state : Nat) : State :=
  ((s.wr (Od.pfcOper p) pfc).wr (Od.priorityToClassOper p) assignment).wr (Od.dcbxState p) state

/-- The operational settings of a port at a boundary (R165, R166): by DcbxMode and the peer's last LLDPDU; when both ends
are willing, the end whose chassis MAC address is lower keeps its own. [DESIGN CHOICE: log entry 141] -/
def State.dcbxSettings (s : State) (p : Nat) : State :=
  let loc := s.localPfc p
  let asg := s.localAssignment p
  let prot := s.rd (Od.protectionPcp p)
  let s1 := s.setPort p { s.port p with dcbxDue := false }
  match s.rd (Od.dcbxMode p), (s.port p).peer with
  | 0, _ => s1.setOper p loc asg 0
  | _, none => s1.setOper p loc asg 0
  | 1, some b =>
    match b.pfc with
    | none => s1.setOper p loc asg 0
    | some f =>
      if b.willing && !decide (b.chassis < s.rd Od.mgmtMac) then s1.setOper p loc asg 2
      else s1.setOper p (withBit (f % 256) prot false)
        (match b.ets with | some e => protectAssignment e prot | none => asg) 1
  | _, some b =>
    match b.pfc with
    | none => s1.setOper p loc asg 2
    | some f =>
      let f' := withBit (f % 256) prot false
      if b.willing || f' == loc then s1.setOper p loc asg 2
      else (s1.setOper p (loc &&& f') asg 3).raiseLimited 0x3A07 p 1 p

/-- A class of a port is lossless (R167). -/
def State.lossless (s : State) (p c : Nat) : Bool :=
  let a := s.rd (Od.priorityToClassOper p)
  let ps := (List.range 8).filter (fun q => priorityClass a q == c)
  !ps.isEmpty && ps.all (fun q => bitOf (s.rd (Od.pfcOper p)) q)

/-- The port's DCBX settings are resolved at the next boundary. -/
def State.dcbxSoon (s : State) (p : Nat) : State := s.setPort p { s.port p with dcbxDue := true }

/-- Count a received frame (R175). -/
def State.countRx (s : State) (p octets : Nat) : State := (s.bump (Od.rxFrames p)).addTo (Od.rxOctets p) octets

/-- A frame passes the filters of R168, and is then counted as received (R175). -/
def State.rxAccept (s : State) (p : Nat) (rx : RxFrame) : State × Bool :=
  if !s.up p then (s.bump (Od.rxNotUp p), false)
  else if rx.octets < 64 then (s.bump (Od.rxRunts p), false)
  else if s.rd (Od.maxFrameSize p) < rx.octets then (s.bump (Od.rxOversize p), false)
  else if !rx.fcsGood then (s.bump (Od.rxFcsErrors p), false)
  else (s.countRx p rx.octets, true)

/-- LLDPDUs the port has received in the second in force (R168, R608). -/
def State.lldpdusInSecond (s : State) (p : Nat) : Nat :=
  if (s.port p).second = s.second then (s.port p).lldpdus else 0

/-- One LLDPDU more of a port in the second in force (R168, R608): beyond 8 it is discarded and counted, and the flag is
false. [DESIGN CHOICE: log entry 146] -/
def State.countLldpdu (s : State) (p : Nat) : State × Bool :=
  let n := s.lldpdusInSecond p
  if n ≥ 8 then (s.bump (Od.rxLldpDiscarded p), false)
  else (s.setPort p { s.port p with second := s.second, lldpdus := n + 1 }, true)

/-- LLDPDU (R165, R168): the peer's settings act at the next boundary. [DESIGN CHOICE: log entry 146] -/
def execLldpdu (p : PortId) (off : Nat) (rx : RxFrame) (body : LldpBody) (s : State) : Res :=
  match (s.moveTo off).rxAccept p rx with
  | (s1, false) => .next s1
  | (s1, true) =>
    match s1.countLldpdu p with
    | (s2, false) => .next s2
    | (s2, true) =>
      .next ((s2.setPort p { s2.port p with peer := some body, dcbxDue := true }).arm (tmLldpTtl p))

/-- ETS shares of classes 0 to 7 the port advertises (R321). -/
def State.etsShares (s : State) (p : Nat) : List Nat :=
  let lvl0 := (List.range 7).filter (fun c => s.rd (Od.level p c) == 0)
  let sum := (lvl0.map (fun c => s.rd (Od.quantum p c))).sum
  let share (c : Nat) : Nat := 100 * s.rd (Od.quantum p c) / sum
  let rest := 100 - (lvl0.map share).sum
  (List.range 8).map (fun c =>
    if lvl0.contains c then share c + (if lvl0.head? = some c then rest else 0) else 0)

/-- The algorithm the port advertises for each class: 1 ETS for a class at Level 0, 0 strict priority (R321). -/
def State.etsAlgorithms (s : State) (p : Nat) : List Nat :=
  (List.range 8).map (fun c => boolNat (decide (c < 7) && s.rd (Od.level p c) == 0))

/-- LLDP_TX_INTERVAL (R164): every LldpTxInterval an up port sends its LLDPDU to 01-80-C2-00-00-0E, with the base MAC
address of MGMT_A as chassis ID and a TTL of four intervals; PfcEnableLocal and PriorityToClass are advertised as they
stand, the protection PCP's bit and field among them. [DESIGN CHOICE: log entries 154, 155] -/
def execLldpTxInterval (p : PortId) (s : State) : Res :=
  .next (if s.up p ∧ s.due (tmLldpTx p) (s.secCourses (s.rd (Od.lldpTxInterval p))) = true then
      (s.emit (.lldp p 0x0180C200000E (s.rd Od.mgmtMac) ([4 * s.rd (Od.lldpTxInterval p), s.rd (Od.pfcEnableLocal p), s.rd (Od.priorityToClass p),
        s.rd Od.rocePcp] ++ s.etsAlgorithms p ++ s.etsShares p))).arm (tmLldpTx p)
    else s)

/-- LLDP_TTL_EXPIRY (R167): the peer's information ages out and the settings revert to local at the next boundary. -/
def execLldpTtlExpiry (p : PortId) (s : State) : Res :=
  .next (match (s.port p).peer with
    | some b => if s.due (tmLldpTtl p) (s.secCourses b.ttl) then
        (s.disarm (tmLldpTtl p)).setPort p { s.port p with peer := none, dcbxDue := true } else s
    | none => s)

/-- PAUSE (R168): discarded without effect. -/
def execPause (p : PortId) (rx : RxFrame) (s : State) : Res :=
  .next (match s.rxAccept p rx with
    | (s1, false) => s1
    | (s1, true) => s1.bump (Od.rxPauseDiscarded p))

end Sys2Proof.Machine
end

