-- ==== Sys2Proof/Machine/HostRings.lean ====
section
/-! DEFINITION. Machine/HostRings.lean: what the switch core and every later chapter need of the Hod (R370, R373,
R382), of the host endpoint (reads and writes to host memory, completion rings, interrupts, the PF3 event ring; R391,
R402 to R419) and of the slices (tracker shares, dirty marks; R431, R435). -/

namespace Sys2Proof.Machine

/-! ### The Hod: pools and units -/

/-- Units quarantined in a pool (R385). -/
def State.quarantinedIn (s : State) (pool : Nat) : List Nat :=
  (s.hod.quarantined.filter (fun u => u / 2 ^ 32 == pool)).map (fun u => u % 2 ^ 32)

/-- The pseudo-channels that make up an activity's capacity: those assigned to it, without those that are still to be
migrated away from it (R143). -/
def State.capacityChannels (s : State) (activity : Nat) : List Nat :=
  (s.channelsOf activity).filter (fun c => !s.modeChange.migrating.any (fun e => e.1 == c))

/-- Capacity of a pool in units (R370, R371, R384), lowered by the units quarantined (R385). -/
def State.poolCapacity (s : State) (pool : Nat) : Nat :=
  let whole :=
    if pool < 0x20 then 32768
    else if pool < 0x30 then 1024
    else if pool < 0x34 then 8192
    else if pool ≤ 0x35 then 49152
    else if pool = 0x40 then
      1500000000 * (s.capacityChannels 4).length / 4096
    else if pool = 0x41 then s.rd Od.hbmCoreBuffers
    else 0
  whole - (s.quarantinedIn pool).length

/-- Unit size of a pool. -/
def poolUnit (pool : Nat) : Nat := if pool < 0x40 then 256 else 4096

/-- Base address of a pool: the core buffers lie just below the retained firmware copy, downwards from its base, which
their size does not move (R371). -/
def State.poolBase (s : State) (pool : Nat) : Nat :=
  if pool = 0x41 then s.rd (Od.poolBase pool) + 4096 * 262144 - 4096 * s.rd Od.hbmCoreBuffers
  else s.rd (Od.poolBase pool)

/-- Keys of the units of a pool that are allocated. -/
def State.poolUnits (s : State) (pool : Nat) : List (Nat × HodUnit) :=
  s.hod.units.filter (fun e => e.1 / 2 ^ 32 == pool)

/-- Units of a pool in use. -/
def State.poolUsed (s : State) (pool : Nat) : Nat :=
  if pool < 0x20 then
    tblGet 0 s.switch.shared pool + s.rd (Od.class7Held pool) + s.rd (Od.headroomHeld pool)
  else if pool < 0x30 ∨ pool = 0x41 then
    ((s.poolUnits pool).filter (fun e => !s.hod.quarantined.contains e.1)).length
  else tblGet 0 s.hod.used pool

/-- Free units of a pool. -/
def State.poolFree (s : State) (pool : Nat) : Nat := s.poolCapacity pool - s.poolUsed pool

/-- Count `n` units just taken from a pool (R382). -/
def State.poolTook (s : State) (pool n : Nat) : State :=
  let s1 := (s.addTo (Od.allocations pool) n).wr (Od.freeMin pool) (min (s.rd (Od.freeMin pool)) (s.poolFree pool))
  if s1.poolFree pool ≤ s1.rd (Od.lowWater pool) then s1.raiseLimited 0x4A06 pool 1 pool else s1

/-- Count `n` units just returned to a pool. -/
def State.poolGave (s : State) (pool n : Nat) : State := s.addTo (Od.returns pool) n

/-- An allocation refused for lack of a unit (R382). -/
def State.poolRefused (s : State) (pool : Nat) : State :=
  (s.bump (Od.allocFailures pool)).raiseLimited 0x4A07 pool 1 pool

/-- Take bricks of a host- or service-tile pool or of pool 0x40. -/
def State.poolTake (s : State) (pool n : Nat) : State :=
  { s with hod := { s.hod with used := tblSet 0 s.hod.used pool (tblGet 0 s.hod.used pool + n) } }.poolTook pool n

/-- Give them back. -/
def State.poolGive (s : State) (pool n : Nat) : State :=
  { s with hod := { s.hod with used := tblSet 0 s.hod.used pool (tblGet 0 s.hod.used pool - n) } }.poolGave pool n

/-- The `k`-th number not in a rising list. [DESIGN CHOICE: log entry 48] -/
def nthFree : List Nat → Nat → Nat
  | [], k => k
  | a :: rest, k => if a ≤ k then nthFree rest (k + 1) else k

/-- Allocate one unit of a compute-tile pool or of pool 0x41 for an owner (R377): which free unit it is the manual
leaves open. The unit's number. [DESIGN CHOICE: log entry 48] -/
def State.takeUnit (s : State) (pool owner : Nat) : State × Nat :=
  let used : List Nat := (s.poolUnits pool).map (fun e => e.1 % 2 ^ 32)
  let taken := (used ++ s.quarantinedIn pool).mergeSort (· ≤ ·)
  let (s1, v) := s.openBits 13 32
  let u := nthFree taken (v % max 1 (s.poolFree pool))
  let x : HodUnit := { owner := owner, armed := false, named := [], anonymous := 0 }
  (({ s1 with hod := { s1.hod with units := tblPut s1.hod.units (pool * 2 ^ 32 + u) x } }).poolTook pool 1, u)

/-- Allocate `n` units. -/
def State.takeUnits (s : State) (pool owner : Nat) : Nat → State × List Nat
  | 0 => (s, [])
  | n + 1 =>
    let (s1, u) := s.takeUnit pool owner
    let (s2, us) := s1.takeUnits pool owner n
    (s2, u :: us)

/-- A unit goes back to its pool: its generation rises by 1 modulo 256 (R374). -/
def State.returnUnit (s : State) (key : Nat) : State :=
  let g := (tblGet 0 s.hod.gens key + 1) % 256
  ({ s with hod := { s.hod with units := tblDel s.hod.units key, gens := tblSet 0 s.hod.gens key g } }).poolGave
    (key / 2 ^ 32) 1

/-- Holders of a unit other than its named last owner (R373). -/
def HodUnit.count (x : HodUnit) : Nat := x.named.length + x.anonymous

/-- Store a unit, or return it when its count is 0 and FreeArmed is set (R373); one quarantined is held until start-up
(R385). -/
def State.putUnit (s : State) (key : Nat) (x : HodUnit) : State :=
  if x.armed && x.count == 0 && !s.hod.quarantined.contains key then s.returnUnit key
  else { s with hod := { s.hod with units := tblPut s.hod.units key x } }

/-- OwnerId of application core n (R372). -/
def coreOwner (n : Nat) : Nat := (0x20 + n / 6) * 64 + n % 6

/-- Reclaim of an owner (R383): every hold it has is released and FreeArmed set where it is the last owner. The event
gives the OwnerId and the number of units affected. -/
def State.reclaim (s : State) (owner : Nat) : State :=
  let mine := s.hod.units.filter (fun e => e.2.owner == owner || e.2.named.contains owner)
  let s1 := mine.foldl (fun s e =>
    s.putUnit e.1 { e.2 with named := e.2.named.filter (· != owner), armed := e.2.armed || e.2.owner == owner }) s
  s1.raise 0x4A09 (owner * 2 ^ 32 + mine.length)

/-- A frame reaches a core receive queue (R50, R376, R381): it takes bricks of its compute tile's frame buffer, 64 of
them kept for class 7, or is dropped. The buffer's address goes with it. [DESIGN CHOICE: log entries 50, 162] -/
def State.toCore (s : State) (n : Nat) (bytes : List Byte) (cls : Nat) (kind : String) : State :=
  let pool := 0x20 + n / 6
  let need := ceilDiv (bytes.length + 4) 256
  if s.rd (Od.wakeState (n / 6)) ≠ 0 ∨ s.poolFree pool < need + (if cls = 7 then 0 else 64) then s.poolRefused pool
  else
    let (s1, us) := s.takeUnits pool (coreOwner n) need
    s1.emit (.core n kind ((us.map (fun u => beBytes 8 (s1.poolBase pool + 256 * u))).flatten ++ bytes))

/-! ### Functions, queue pairs, slices -/

/-- A function after its reset; Device Control as PCI Express defaults it, every vector masked.
[DESIGN CHOICE: log entry 6] -/
def HostFn.fresh : HostFn :=
  { command := 0, bars := [0, 0, 0], power := 0, deviceControl := 0x2810, deviceControl2 := 0, msixControl := 0x7FF,
    aerUncorrectable := 0, aerCorrectable := 0, resetting := false, msix := [], store := [], windows := [] }

/-- An MSI-X table or interrupt-store entry after reset. -/
def ImsEntry.fresh : ImsEntry := { addr := 0, data := 0, masked := true, pending := false }

/-- A queue pair after reset (R398). [DESIGN CHOICE: log entry 6] -/
def QueuePair.fresh : QueuePair :=
  { txBase := 0, rxBase := 0, cqBase := 0, txLog := 0, rxLog := 0, cqLog := 0, enable := false, stopping := false,
    launchTime := false, halted := false, refused := false, txPort := 0, coalesceCourses := 0, coalesceCount := 0,
    vector := 0, txHead := 0, rxHead := 0, cqTail := 0, txTail := 0, rxTail := 0, cqHead := 0, rxFetch := 0,
    rxDescs := [], phase := true, cqUsed := 0, cqWaiting := [], armed := false, unsignalled := [], building := [],
    nextFrame := 0, restored := none, epoch := 0 }

/-- An event ring after reset. [DESIGN CHOICE: log entry 6] -/
def EventRing.fresh : EventRing :=
  { base := 0, log := 0, enable := false, halted := false, vector := 0, tail := 0, head := 0, used := 0, phase := true,
    armed := false, waiting := [], latched := 0 }

/-- The default resource record (R424). -/
def SliceSet.fresh : SliceSet :=
  { ports := List.replicate 32 0, link := 0, functions := 0, queuePairs := 0, trackerMin := 0, trackerMax := 1,
    keySlots := 0, namespaces := 0, rdmaQps := 0, regions := 0, txBricks := 16 }

/-- A slice control block after reset. -/
def SliceBlock.fresh : SliceBlock :=
  { descriptor := 0, pasid := 0, bound := false, unbinding := false, bindRefused := false, resetPending := false,
    quiesce := false, quiesced := false, logEnable := false, flipPending := false, flipped := false, active := false,
    outOfRange := false, logError := false, log := none, early := [], due := [] }

/-- A function, by 4 × link + function. -/
def State.hostFn (s : State) (f : Nat) : HostFn := tblGet HostFn.fresh s.host.fns f

/-- Set a function. -/
def State.setHostFn (s : State) (f : Nat) (x : HostFn) : State :=
  { s with host := { s.host with fns := tblSet HostFn.fresh s.host.fns f x } }

/-- The key of a queue pair. -/
def qpKey (f slice q : Nat) : Nat := f * 2 ^ 18 + slice * 64 + q

/-- Function, slice and number of a queue pair's key. -/
def qpFn (k : Nat) : Nat := k / 2 ^ 18
/-- The slice of a queue pair's key. -/
def qpSlice (k : Nat) : Nat := k / 64 % 4096

/-- A queue pair. -/
def State.qp (s : State) (k : Nat) : QueuePair := tblGet QueuePair.fresh s.host.queues k

/-- Set a queue pair. -/
def State.setQp (s : State) (k : Nat) (x : QueuePair) : State :=
  { s with host := { s.host with queues := tblSet QueuePair.fresh s.host.queues k x } }

/-- A slice control block, by function and slice. -/
def State.block (s : State) (f slice : Nat) : SliceBlock := tblGet SliceBlock.fresh s.slices.blocks (f * 4096 + slice)

/-- Set a slice control block. -/
def State.setBlock (s : State) (f slice : Nat) (x : SliceBlock) : State :=
  { s with slices := { s.slices with blocks := tblSet SliceBlock.fresh s.slices.blocks (f * 4096 + slice) x } }

/-- A slice's resource set. -/
def State.sliceSet (s : State) (slice : Nat) : SliceSet := tblGet SliceSet.fresh s.slices.sets slice

/-- Count one in the `i`-th counter of a slice (R441). -/
def State.bumpSlice (s : State) (slice i : Nat) : State :=
  let c := tblGet [0, 0, 0, 0, 0, 0] s.slices.counts slice
  { s with slices := { s.slices with
      counts := tblSet [0, 0, 0, 0, 0, 0] s.slices.counts slice (c.set i ((c.getD i 0 + 1) % 2 ^ 64)) } }

/-- Some driver of the slice has it quiesced (R433): fetch for it stops on all its bindings. -/
def State.quiescing (s : State) (slice : Nat) : Bool :=
  s.slices.blocks.any (fun e => e.1 % 4096 == slice && e.2.quiesce)

/-- A link is up (R421). -/
def State.hostLinkUp (s : State) (link : Nat) : Bool := bitOf (s.rd (Od.hostLinkStatus link)) 0

/-- A link exists under its port's layout (R390). -/
def State.linkPresent (s : State) (link : Nat) : Bool := link % 2 == 0 || s.rd (Od.bifurcation (link / 2)) == 1

/-- A function may issue requests: its link is up, Bus Master Enable is set, D0, no reset, and not mode 7 for PF1 to PF3
(R393, R413, R414, R146). -/
def State.canMaster (s : State) (f : Nat) : Bool :=
  s.hostLinkUp (f / 4) && bitOf (s.hostFn f).command 2 && (s.hostFn f).power == 0 && !(s.hostFn f).resetting
    && !(s.rd Od.modeInForce == 7 && f % 4 != 0)

/-! ### The operation tracker (R431) -/

/-- Operations of a slice in flight. -/
def State.ops (s : State) (slice : Nat) : Nat := tblGet 0 s.slices.ops slice

/-- Tracked operations in flight: of all slices, and of controller 0 of each link (R443). -/
def State.opsAll (s : State) : Nat := (s.slices.ops.map (fun e => e.2)).sum + (s.storage.ops.map (fun e => e.2)).sum

/-- Entries held back for the unused TrackerMin of slices other than this one. -/
def State.heldBack (s : State) (slice : Nat) : Nat :=
  ((s.slices.sets.filter (fun e => e.1 != slice)).map (fun e => e.2.trackerMin - s.ops e.1)).sum

/-- The slice may start an operation. -/
def State.mayStart (s : State) (slice : Nat) : Bool :=
  s.ops slice < (s.sliceSet slice).trackerMin
    || (s.ops slice < (s.sliceSet slice).trackerMax && s.opsAll + s.heldBack slice < 131072)

/-- An operation of a slice starts or ends. -/
def State.opStart (s : State) (slice : Nat) : State :=
  { s with slices := { s.slices with ops := tblSet 0 s.slices.ops slice (s.ops slice + 1) } }

/-- One ends. -/
def State.opEnd (s : State) (slice : Nat) : State :=
  { s with slices := { s.slices with ops := tblSet 0 s.slices.ops slice (s.ops slice - 1) } }

/-! ### Reads of host memory (R391, R411) -/

/-- The timer of a read's completion timeout. -/
def tmCompletion (link tag : Nat) : Nat := timerKey 20 (link * 2 ^ 20 + tag)

/-- Completion timeout of a function in ms (R394). -/
def State.completionTimeout (s : State) (f : Nat) : Nat :=
  match (s.hostFn f).deviceControl2 % 16 with
  | 5 => 40
  | 6 => 120
  | 9 => 500
  | 10 => 2000
  | _ => 50

/-- Granularity of a timer class: the largest power of two G with G × L at most `ns`, from 1 to 65,536 (R116, R411, R465, R490). -/
def State.grainOf (s : State) (ns : Nat) : Nat :=
  ((List.range 17).map (fun k => 2 ^ k)).foldl (fun g x => if x * s.len ≤ ns then x else g) 1

/-- Granularity of the completion timeouts (R411). -/
def State.completionGrain (s : State) : Nat := s.grainOf 262144

/-- Non-posted requests a link admits (R391); in non-FLIT mode 10-Bit Tag Requester Enable is bit 12 of Device
Control 2. -/
def State.tagLimit (s : State) (f : Nat) : Nat :=
  if bitOf (s.rd (Od.hostLinkStatus (f / 4))) 8 then
    if s.rd (Od.bifurcation (f / 8)) = 1 then 8192 else 16384
  else if bitOf (s.hostFn f).deviceControl2 12 then 768 else 256

/-- Max_Read_Request_Size in force, at most 4,096. -/
def State.readSize (s : State) (f : Nat) : Nat := min 4096 (128 * 2 ^ bitField (s.hostFn f).deviceControl 14 12)

/-- The PASID a slice has on a function (R428). -/
def State.pasidOf (s : State) (f : Nat) : Option Nat → Option Nat
  | none => none
  | some slice => some (s.block f slice).pasid

/-- Tags in use on a link. -/
def State.tagsOut (s : State) (link : Nat) : List Nat :=
  (s.host.reads.filter (fun r => r.issued && r.fn / 4 == link)).map (fun r => r.tag)

/-- Issue a read: the lowest free tag of its link, its timeout armed. -/
def State.issueRead (s : State) (r : Dma) : State :=
  let link := r.fn / 4
  let tag := nthFree ((s.tagsOut link).mergeSort (· ≤ ·)) 0
  let out := { r with tag := tag, issued := true, limit := s.completionTimeout r.fn }
  let s1 := { s with host := { s.host with reads := s.host.reads.map (fun x => if x = r then out else x) } }
  (s1.arm (tmCompletion link tag)).emit (.hostRead link (r.fn % 4) (s.pasidOf r.fn r.slice) r.relaxed tag r.addr r.len)

/-- Issue what waits for a tag, oldest first, while a link admits it (R391, R431). [DESIGN CHOICE: log entry 52] -/
def State.pumpReads (s : State) (link : Nat) : Nat → State
  | 0 => s
  | n + 1 =>
    match s.host.reads.find? (fun r => !r.issued && r.fn / 4 == link && s.canMaster r.fn) with
    | none => s
    | some r => if (s.tagsOut link).length < s.tagLimit r.fn then (s.issueRead r).pumpReads link n else s

/-- The pieces of a read of `len` bytes: each within the read size and never across its multiple.
[DESIGN CHOICE: log entry 52] -/
def readPieces (size addr len : Nat) : Nat → List (Nat × Nat)
  | 0 => []
  | n + 1 =>
    if len = 0 then []
    else
      let k := min len (size - addr % size)
      (addr, k) :: readPieces size (addr + k) (len - k) n

/-- A read of this kind is a tracked operation of its own; the others belong to one that is (R431). -/
def DmaKind.counted : DmaKind → Bool
  | .txDescriptor => true
  | .rxDescriptor => true
  | .txPayload => true
  | .dirtyDescriptor => false
  | .dirtyMark => false
  | .lookAside => false
  | .storage => false
  | .rdma => false

/-- Request a read of host memory: its pieces wait for tags in order. `part` of a piece is `part` plus its offset.
A read that is a slice's operation holds a tracker entry. [DESIGN CHOICE: log entry 52] -/
def State.readWith (s : State) (relaxed : Bool) (kind : DmaKind) (f : Nat) (slice : Option Nat)
    (queue id part addr len : Nat) : State :=
  let pieces := readPieces (s.readSize f) addr len (len + 1)
  let mk (x : Nat × Nat) : Dma :=
    { tag := s.host.nextTag, kind := kind, fn := f, slice := slice, queue := queue, id := id, part := part + (x.1 - addr),
      addr := x.1, len := x.2, issued := false, limit := 0, relaxed := relaxed, discard := false }
  let s1 := { s with host := { s.host with reads := s.host.reads ++ pieces.map mk, nextTag := s.host.nextTag + 1 } }
  let s2 := match slice with
    | none => s1
    | some v => if kind.counted then (List.range pieces.length).foldl (fun s _ => s.opStart v) s1 else s1
  s2.pumpReads (f / 4) s2.host.reads.length

/-- A read without Relaxed Ordering. -/
def State.read (s : State) (kind : DmaKind) (f : Nat) (slice : Option Nat) (queue id part addr len : Nat) : State :=
  s.readWith false kind f slice queue id part addr len

/-- A read has ended: its entry, tag, timer and tracker entry are released. -/
def State.endRead (s : State) (r : Dma) : State :=
  let s1 := { s with host := { s.host with reads := s.host.reads.erase r } }
  let s2 := if r.issued then s1.disarm (tmCompletion (r.fn / 4) r.tag) else s1
  let s3 := match r.slice with | some v => if r.kind.counted then s2.opEnd v else s2 | none => s2
  s3.pumpReads (r.fn / 4) s3.host.reads.length

/-- Requests of a queue that have not been issued are given up; those issued are discarded when they end. -/
def State.abandonReads (s : State) (mine : Dma → Bool) : State :=
  let gone := s.host.reads.filter (fun r => mine r && !r.issued)
  let s1 := gone.foldl (fun s r => s.endRead r) s
  { s1 with host := { s1.host with reads := s1.host.reads.map (fun r => if mine r then { r with discard := true }
                                                                        else r) } }

/-! ### Writes of host memory, dirty marks (R413, R428, R435) -/

/-- One page of a logged write: its bit is owed to the bitmap in use; a mark read of the same word already waiting takes
it along. [DESIGN CHOICE: log entry 70] -/
def State.markPage (s : State) (f slice page : Nat) : State :=
  let b := s.block f slice
  match b.log with
  | none => s.setBlock f slice { b with early := page :: b.early }
  | some l =>
    if l.start ≤ page ∧ page < l.start + l.pages then
      let i := page - l.start
      let id := (f * 4096 + slice) * 2 + boolNat b.active
      let same (r : Dma) : Bool := r.kind == .dirtyMark && r.id == id && r.part == i / 64
      if s.host.reads.any same then
        { s with host := { s.host with reads := s.host.reads.map (fun r =>
            if same r then { r with queue := withBit r.queue (i % 64) true } else r) } }
      else
        let base := if b.active then l.bitmap1 else l.bitmap0
        let s1 : State := { s with host := { s.host with reads := s.host.reads ++
          [{ tag := s.host.nextTag, kind := .dirtyMark, fn := f, slice := none, queue := 2 ^ (i % 64), id := id,
             part := i / 64, addr := base + 8 * (i / 64), len := 8, issued := false, limit := 0, relaxed := false, discard := false }] } }
        s1.pumpReads (f / 4) s1.host.reads.length
    else
      ((s.setBlock f slice { b with outOfRange := true }).bumpSlice slice 3).raiseLimited 0x8A09 slice 1 slice

/-- Mark every page a write touches, when the function's log is enabled (R435). -/
def State.markDirty (s : State) (f slice addr len : Nat) : State :=
  if len = 0 ∨ !(s.block f slice).logEnable then s
  else (List.range ((addr + len - 1) / 4096 - addr / 4096 + 1)).foldl (fun s i => s.markPage f slice (addr / 4096 + i)) s

/-- A DMA write of a function that may not issue it is lost: counted (R413), but in a function-level reset (R414).
[DESIGN CHOICE: log entry 165] -/
def State.dmaLost (s : State) (f : Nat) : State := if (s.hostFn f).resetting then s else s.bump (Od.bmeDiscards f)

/-- Write host memory for a slice, or for the function itself without a PASID; a function that may not issue requests
loses the write (R413). -/
def State.hostWrite (s : State) (f : Nat) (slice : Option Nat) (addr : Nat) (relaxed poisoned : Bool)
    (bytes : List Byte) : State :=
  if s.canMaster f then
    let s1 := s.emit (.hostWrite (f / 4) (f % 4) (s.pasidOf f slice) addr relaxed poisoned bytes)
    match slice with
    | some v => s1.markDirty f v addr bytes.length
    | none => s1
  else s.dmaLost f

/-- Write host memory from a tile: the bytes cross the Mortar to the host tile first (R37).
[DESIGN CHOICE: log entry 131] -/
def State.hostWriteFrom (s : State) (tile vn f : Nat) (slice : Option Nat) (addr : Nat) (relaxed poisoned : Bool)
    (bytes : List Byte) : State :=
  (s.carry tile (0x34 + f / 8) vn bytes.length 0 addr).hostWrite f slice addr relaxed poisoned bytes

/-! ### Interrupts (R418, R419) -/

/-- Send the message of an entry, or pend it while it is masked; a function that may not issue requests sends none. -/
def State.message (s : State) (f : Nat) (e : ImsEntry) (masked : Bool) : State × ImsEntry :=
  if masked then (s, { e with pending := true })
  else if s.canMaster f then (s.emit (.interrupt (f / 4) (f % 4) e.addr e.data), { e with pending := false })
  else (s, e)

/-- Interrupt of a slice through vector `v` of its interrupt window (R419). -/
def State.sliceInterrupt (s : State) (f slice v : Nat) : State :=
  let x := s.hostFn f
  let w := tblGet 0 x.windows slice
  if v < w % 128 then
    let n := bitField w 29 16 + v
    let e := tblGet ImsEntry.fresh x.store n
    let (s1, e1) := s.message f e e.masked
    s1.setHostFn f { s1.hostFn f with store := tblSet ImsEntry.fresh x.store n e1 }
  else s.bump (Od.interruptsRefused f)

/-- Interrupt of a function through an MSI-X vector; Function Mask masks every vector, and nothing is sent while MSI-X
Enable is 0. -/
def State.msixInterrupt (s : State) (f v : Nat) : State :=
  let x := s.hostFn f
  if bitOf x.msixControl 15 then
    let e := tblGet ImsEntry.fresh x.msix v
    let (s1, e1) := s.message f e (e.masked || bitOf x.msixControl 14)
    s1.setHostFn f { s1.hostFn f with msix := tblSet ImsEntry.fresh x.msix v e1 }
  else s

/-! ### Completion rings (R402 to R404, R418) -/

/-- Entries of a ring: 0 where it is absent. -/
def ringSize (log : Nat) : Nat := if 4 ≤ log ∧ log ≤ 15 then 2 ^ log else 0

/-- A completion record without its Phase. -/
def cqRecord (kind status : Nat) (late stamped decrypted : Bool) (cls : Nat) (via : Option Nat)
    (cookie len port metaValue rule time : Nat) : Nat :=
  kind * 2 ^ 252 + status * 2 ^ 248 + boolNat late * 2 ^ 247 + boolNat stamped * 2 ^ 246 + boolNat decrypted * 2 ^ 245
    + cls * 2 ^ 242 + boolNat via.isSome * 2 ^ 241 + cookie % 2 ^ 16 * 2 ^ 224 + len % 2 ^ 16 * 2 ^ 208
    + port % 256 * 2 ^ 200 + (via.getD 0) % 256 * 2 ^ 192 + metaValue % 2 ^ 16 * 2 ^ 176 + rule % 2 ^ 32 * 2 ^ 128
    + ts64 time

/-- Write one record into the next released slot; with CoalesceCourses 0 the first one while armed sends the
interrupt. [DESIGN CHOICE: log entries 52, 62] -/
def State.cqPut (s : State) (k rec : Nat) : State :=
  let q := s.qp k
  let f := qpFn k
  let slice := qpSlice k
  let s1 := s.hostWrite f (some slice) (q.cqBase + 32 * q.cqTail) false false
    (leBytes 32 (boolNat q.phase * 2 ^ 255 + rec % 2 ^ 255))
  let wrap := q.cqTail + 1 == ringSize q.cqLog
  let signal := q.armed && q.coalesceCourses == 0
  let s2 := s1.setQp k { s1.qp k with cqTail := if wrap then 0 else q.cqTail + 1, cqUsed := q.cqUsed + 1,
                                      phase := if wrap then !q.phase else q.phase, armed := q.armed && !signal,
                                      unsignalled := if signal then [] else q.unsignalled ++ [s.course] }
  if signal then s2.sliceInterrupt f slice q.vector else s2

/-- A completion record is due: it waits while no slot is released (R404); a queue pair that is halted, stopped or
without a ring writes none. [DESIGN CHOICE: log entry 52] -/
def State.cqWrite (s : State) (k rec : Nat) : State :=
  let q := s.qp k
  if !q.enable || q.halted || ringSize q.cqLog == 0 then s
  else if q.cqUsed < ringSize q.cqLog ∧ q.cqWaiting.isEmpty then s.cqPut k rec
  else s.setQp k { q with cqWaiting := q.cqWaiting ++ [rec] }

/-- Write the records that wait, while slots are released. -/
def State.cqDrain (s : State) (k : Nat) : Nat → State
  | 0 => s
  | n + 1 =>
    let q := s.qp k
    match q.cqWaiting with
    | [] => s
    | rec :: rest =>
      if q.cqUsed < ringSize q.cqLog then ((s.setQp k { q with cqWaiting := rest }).cqPut k rec).cqDrain k n else s

/-- The transmit completion of a frame (R402), when one is asked for: status, and the stamp it was sent at. -/
def State.txComplete (s : State) (f : Frame) (port status : Nat) (stamp : Option Nat) : State :=
  match f.completion with
  | none => s
  | some d =>
    if (s.qp d.queue).epoch ≠ d.epoch then s
    else s.cqWrite d.queue (cqRecord 1 status false stamp.isSome false f.cls none d.cookie f.bytes.length port 0 0
      (stamp.getD 0))

/-! ### The PF3 event ring (R405, R406) -/

/-- A PF3's event ring, by link. -/
def State.ring (s : State) (link : Nat) : EventRing := tblGet EventRing.fresh s.host.rings link

/-- Set a PF3's event ring. -/
def State.setRing (s : State) (link : Nat) (x : EventRing) : State :=
  { s with host := { s.host with rings := tblSet EventRing.fresh s.host.rings link x } }

/-- A record can be written. -/
def State.ringOpen (s : State) (link : Nat) : Bool :=
  let r := s.ring link
  r.enable && !r.halted && s.canMaster (4 * link + 3) && r.used < ringSize r.log

/-- Write one record: kind, pin, polarity, Timestamp. It crosses from the Keystone on VN2 (R37).
[DESIGN CHOICE: log entry 131] -/
def State.ringPut (s : State) (link kind pin : Nat) (rising : Bool) (time : Nat) : State :=
  let r := s.ring link
  let rec_ := boolNat r.phase * 2 ^ 127 + kind * 2 ^ 124 + pin * 2 ^ 119 + boolNat rising * 2 ^ 118 + ts64 time
  let s1 := s.hostWriteFrom tileKt 2 (4 * link + 3) none (r.base + 16 * r.tail) false false (leBytes 16 rec_)
  let wrap := r.tail + 1 == ringSize r.log
  let s2 := s1.setRing link { r with tail := if wrap then 0 else r.tail + 1, used := r.used + 1, armed := false,
                                     phase := if wrap then !r.phase else r.phase }
  if r.armed then s2.msixInterrupt (4 * link + 3) r.vector else s2

/-- A pin that has seen and generated nothing. -/
def Pin.fresh : Pin :=
  { fifo := [], lastEdge := none, reported := false, genArmed := false, generated := 0, commits := [], was := none }

/-- A pin's record. -/
def State.pin (s : State) (n : Nat) : Pin := tblGet Pin.fresh s.pins n

/-- Set a pin's record. -/
def State.setPin (s : State) (n : Nat) (x : Pin) : State := { s with pins := tblSet Pin.fresh s.pins n x }

/-- What waits for a PF3's ring: captures and records of its pins, as Timestamp, pin, kind, polarity. -/
def State.ringDue (s : State) (link : Nat) : List (Nat × Nat × Nat × Bool) :=
  let pins := (List.range 32).filter (fun n => s.rd (Od.tioOwner n) == link + 1)
  ((pins.map (fun n => (s.pin n).fifo.map (fun c => (c.1, n, 1, c.2)))).flatten ++
    ((s.ring link).waiting.filter (fun e => pins.contains (e.1 / 8))).map (fun e => (e.2, e.1 / 8, e.1 % 8, false)))

/-- A record goes before another: by Timestamp, then pin, then kind (R406). -/
def ringBefore (a b : Nat × Nat × Nat × Bool) : Bool :=
  if a.1 ≠ b.1 then a.1 < b.1 else if a.2.1 ≠ b.2.1 then a.2.1 < b.2.1 else a.2.2.1 ≤ b.2.2.1

/-- Write the captures and records that wait, in order, while the ring has room. [DESIGN CHOICE: log entry 23] -/
def State.ringDrain (s : State) (link : Nat) : Nat → State
  | 0 => s
  | n + 1 =>
    if !s.ringOpen link then s
    else
      match (s.ringDue link).mergeSort ringBefore with
      | [] => s
      | (t, pin, kind, rising) :: _ =>
        let s1 := if kind = 1 then s.setPin pin { s.pin pin with fifo := (s.pin pin).fifo.drop 1 }
          else s.setRing link { s.ring link with waiting := tblDel (s.ring link).waiting (pin * 8 + kind) }
        (s1.ringPut link kind pin rising t).ringDrain link n

/-- Records a drain may write at most: 32 FIFOs of 64 and 3 kinds of each pin. -/
def ringFuel : Nat := 2144

/-- A record of Kind 2, 3 or 4 for the owner of a pin: merged into one already waiting of its kind (R406). -/
def State.pinRecord (s : State) (n kind : Nat) : State :=
  let owner := s.rd (Od.tioOwner n)
  if owner = 0 then s
  else
    let r := s.ring (owner - 1)
    let key := n * 8 + kind
    let s1 := if r.waiting.any (fun e => e.1 == key) then s
      else s.setRing (owner - 1) { r with waiting := tblPut r.waiting key s.clock.start }
    s1.ringDrain (owner - 1) ringFuel

end Sys2Proof.Machine
end

