-- ==== Sys2Proof/Machine/Fdb.lean ====
section
/-! DEFINITION. Machine/Fdb.lean: the VLAN, group and filtering tables (chapter "Forwarding tables, learning and the
Wall", R222 to R242): their records, generations, placement in buckets, software batches and sweeps. -/

namespace Sys2Proof.Machine

/-! ### Records of a DOMAIN -/

/-- The records of `n` bytes a DOMAIN holds. -/
def recordsOf (n : Nat) (bs : List Byte) : List (List Byte) := chunks n (bs.length / n) bs

/-- The DOMAIN is made of between 1 and `max` whole records of `n` bytes. -/
def recordCountOk (n max : Nat) (bs : List Byte) : Bool :=
  bs.length % n == 0 && 1 ≤ bs.length / n && bs.length / n ≤ max

/-! ### VLANs and groups (R223, R227) -/

/-- A VLAN entry's fields. -/
structure Vlan where
  members : Nat
  untagged : Nat
  valid : Bool
  learn : Bool
  unknown : Nat
  fid : Nat
  floodGroup : Nat
  deriving DecidableEq, Repr

/-- The fields of a VLAN record. -/
def vlanOf (v : Nat) : Vlan :=
  { members := bitField v 575 320, untagged := bitField v 319 64, valid := bitOf v 63, learn := bitOf v 62,
    unknown := bitField v 61 60, fid := bitField v 59 48, floodGroup := bitField v 47 34 }

/-- A VLAN entry as its record holds it. -/
def Vlan.bits (v : Vlan) : List Byte :=
  beBytes 72 (v.members * 2 ^ 320 + v.untagged * 2 ^ 64 + boolNat v.valid * 2 ^ 63 + boolNat v.learn * 2 ^ 62
    + v.unknown * 2 ^ 60 + v.fid * 2 ^ 48 + v.floodGroup * 2 ^ 34)

/-- The VLAN table at first start-up (R223): VID 1 valid with all ports members. [DESIGN CHOICE: log entry 26] -/
def vlanFirst (vid : Nat) : Vlan :=
  { members := if vid = 1 then 2 ^ 256 - 1 else 0, untagged := 0, valid := vid == 1, learn := true, unknown := 0,
    fid := vid, floodGroup := 0 }

/-- The entry of a VID: record number `vid` of VlanTable, or the table of first start-up while none was written. In
mode 6 each VID is its own Fid (R241). [DESIGN CHOICE: log entry 26] -/
def State.vlan (s : State) (vid : Nat) : Vlan :=
  let v := match s.dom Od.vlanTable with
    | [] => vlanFirst vid
    | bs => vlanOf (beNat (slice bs (72 * vid) 72))
  if s.mode = 6 then { v with fid := vid } else v

/-- A group entry: ports, valid, hairpin, CopyQueue when CopyEnable is 1. -/
structure Group where
  ports : Nat
  valid : Bool
  hairpin : Bool
  copy : Option Nat
  deriving DecidableEq, Repr

/-- The entry of a group: record number `g` of GroupTable. [DESIGN CHOICE: log entry 26] -/
def State.group (s : State) (g : Nat) : Group :=
  let v := beNat (slice (s.dom Od.groupTable) (40 * g) 40)
  { ports := bitField v 319 64, valid := bitOf v 63, hairpin := bitOf v 62,
    copy := if bitOf v 61 then some (v % 2 ^ 32) else none }

/-- Ports of a 256-bit map. -/
def mapPorts (m : Nat) : List Nat := (List.range 256).filter (fun p => bitOf m p)

/-! ### Keys, buckets, visibility (R225, R235, R239) -/

/-- The table key of (Fid, MAC). -/
def fdbKey (fid mac : Nat) : Nat := fid * 2 ^ 48 + mac

/-- CRC-32C over the Fid and the MAC address (R225). -/
def fdbHash (fid mac : Nat) : Nat := crc32c (beBytes 2 fid ++ beBytes 6 mac)

/-- The entry's bucket in its part. -/
def FdbEntry.bucket (e : FdbEntry) : Nat := fdbHash e.fid e.mac % 2 ^ (if e.hbm then 21 else 16)

/-- a is serially after b (R235). -/
def serialAfter (a b : Nat) : Bool :=
  let d := (a + 65536 - b % 65536) % 65536
  1 ≤ d && d ≤ 32767

/-- The current generation. -/
def State.fdbGen (s : State) : Nat := s.rd Od.fdbCurrentGen

/-- The visible entry of a key (R235). -/
def State.fdbFind (s : State) (fid mac : Nat) : Option FdbEntry :=
  (s.fwd.fdb.find? (fun e => e.1 == fdbKey fid mac && !serialAfter e.2.gen s.fdbGen)).map Prod.snd

/-- The serially oldest generation among the entries; the current one in an empty table (R238). -/
def oldestGen (g : Nat) (t : List (Nat × FdbEntry)) : Nat :=
  let d := (t.map (fun e => (g + 65536 - e.2.gen) % 65536)).foldl max 0
  (g + 65536 - d) % 65536

/-- Put a new FDB in place: the occupancy and oldest-generation entries follow it. -/
def State.setFdb (s : State) (t : List (Nat × FdbEntry)) : State :=
  let s1 : State := { s with fwd := { s.fwd with fdb := t } }
  let s2 : State := (s1.wr Od.fdbOccupancyDie (t.filter (fun e => !e.2.hbm)).length).wr Od.fdbOccupancyHbm
    (t.filter (fun e => e.2.hbm)).length
  if s2.mode = 6 then s2 else s2.wr Od.fdbOldestGen (oldestGen s2.fdbGen t)

/-- A port goes down: its learnt entries are removed (R234). -/
def State.fdbPortDown (s : State) (p : Nat) : State :=
  s.setFdb (s.fwd.fdb.filter (fun e => !(e.2.origin == 0 && e.2.destKind == 0 && e.2.dest == p)))

/-! ### Software operations (R236, R241) -/

/-- An FdbUpdate operation: op, Fid to act on, entry. -/
structure FdbOp where
  op : Nat
  purgeFid : Nat
  entry : FdbEntry
  deriving DecidableEq, Repr

/-- The fields of a 128-bit FDB entry. [DEDUCED: log entry 27] -/
def fdbEntryOf (v : Nat) : FdbEntry :=
  { static := bitOf v 126, pinned := bitOf v 125, hit := bitOf v 124, hbm := false, origin := bitField v 123 122,
    destKind := bitField v 121 120, fid := bitField v 119 108, mac := bitField v 107 60, gen := bitField v 59 44,
    owner := bitField v 43 35, dest := bitField v 31 0, time := 0 }

/-- The running port of a forerunner index (R213): 4t + k is the port of rank k among the running ports of tile t; an
index that no running port has is 256 + itself, which is no port. -/
def State.forerunnerPort (s : State) (i : Nat) : Nat :=
  ((s.switch.running.filter (fun p => p / 8 == i / 4)).getD (i % 4) (256 + i))

/-- The forerunner index of a running port. -/
def State.forerunnerIndex (s : State) (p : Nat) : Nat :=
  if 256 ≤ p then p - 256 else
  4 * (p / 8) + ((s.switch.running.filter (fun q => q / 8 == p / 8 && q < p)).length)

/-- The fields of a mode 6 entry in bits [95:0] (R241). -/
def State.fdbEntry6 (s : State) (v : Nat) : FdbEntry :=
  { static := bitOf v 94, pinned := false, hit := bitOf v 93, hbm := false, origin := 1,
    destKind := boolNat (bitOf v 92), fid := bitField v 91 80, mac := bitField v 79 32, gen := 0, owner := 0,
    dest := if bitOf v 92 then bitField v 13 0 else s.forerunnerPort (bitField v 13 0), time := 0 }

/-- The operation a 24-byte record holds, in the layout of the mode in force. -/
def State.fdbOpOf (s : State) (bs : List Byte) : FdbOp :=
  let v := beNat bs
  { op := bitField v 191 188, purgeFid := bitField v 187 176,
    entry := if s.mode = 6 then s.fdbEntry6 v else fdbEntryOf (v % 2 ^ 128) }

/-- The 128 bits of an entry, as FdbQuery and the notifications show it. -/
def FdbEntry.bits (e : FdbEntry) : Nat :=
  packBits' [(1, 1), (1, boolNat e.static), (1, boolNat e.pinned), (1, boolNat e.hit), (2, e.origin), (2, e.destKind),
    (12, e.fid), (48, e.mac), (16, e.gen), (9, e.owner), (3, 0), (32, e.dest)]
where
  /-- Fields with their widths, most significant first. -/
  packBits' (l : List (Nat × Nat)) : Nat := l.foldl (fun a e => a * 2 ^ e.1 + e.2 % 2 ^ e.1) 0

/-- The 96 bits of an entry in mode 6. -/
def State.fdbBits6 (s : State) (e : FdbEntry) : Nat :=
  FdbEntry.bits.packBits' [(1, 1), (1, boolNat e.static), (1, boolNat e.hit), (1, boolNat (e.destKind == 1)),
    (12, e.fid), (48, e.mac), (18, 0), (14, if e.destKind = 1 then e.dest else s.forerunnerIndex e.dest)]

/-- Entries of a part that take ways in a bucket. -/
def bucketUse (t : List FdbEntry) (hbm : Bool) (bucket : Nat) : Nat :=
  (t.filter (fun e => e.hbm == hbm && e.bucket == bucket)).length

/-- The part in which an entry finds a free way (R225, R239): die first; HBM in mode 5 unless Pinned. `none`: it finds
none. -/
def placeEntry (mode : Nat) (t : List FdbEntry) (e : FdbEntry) : Option FdbEntry :=
  let die := { e with hbm := false }
  let far := { e with hbm := true }
  if bucketUse t false die.bucket < 8 then some die
  else if mode = 5 ∧ !e.pinned ∧ bucketUse t true far.bucket < 8 then some far
  else none

/-- The inserts of a batch placed one after another; `none` when one finds no free way (R236). -/
def placeBatch (mode gen : Nat) (t : List FdbEntry) : List FdbOp → Option (List FdbEntry)
  | [] => some []
  | o :: os =>
    if o.op = 1 then
      match placeEntry mode t { o.entry with gen := gen } with
      | some e => (placeBatch mode gen (e :: t) os).map (e :: ·)
      | none => none
    else placeBatch mode gen t os

/-- The entries staged by the batches written and not yet applied (R236). -/
def State.fdbStaged (s : State) : List FdbEntry :=
  let items := (s.agent.staged.map Prod.snd).flatten ++ (s.agent.commits.map Commit.items).flatten
  items.foldl (fun acc i => match i with
    | .raw k bs =>
      if k = Od.fdbUpdate then
        let ops := (recordsOf 24 bs).map s.fdbOpOf
        acc ++ (placeBatch s.mode ((s.fdbGen + 1) % 65536) (acc ++ s.fwd.fdb.map Prod.snd) ops).getD []
      else acc
    | .num .. => acc) []

/-- Every entry that takes a way: visible or staged. -/
def State.fdbWays (s : State) : List FdbEntry := s.fwd.fdb.map Prod.snd ++ s.fdbStaged

/-- One purge or restamp over the table (R236). -/
def fdbSweepGen (o : FdbOp) (t : List (Nat × FdbEntry)) : List (Nat × FdbEntry) :=
  let hits (e : FdbEntry) : Bool :=
    (o.purgeFid == 0xFFF || o.purgeFid == e.fid) && serialAfter o.entry.gen e.gen
  if o.op = 3 then t.filter (fun e => !(hits e.2 && !e.2.static && e.2.origin ≤ 1))
  else t.map (fun e => if hits e.2 then (e.1, { e.2 with gen := o.entry.gen }) else e)

/-- A batch applies in step 9 (R236, R237): the generation rises, staged versions replace the visible ones, deletes,
purges and restamps run. -/
def State.fdbApply (s : State) (ops : List FdbOp) : State :=
  let gen := if s.mode = 6 then 0 else (s.fdbGen + 1) % 65536
  let placed := (placeBatch s.mode gen (s.fwd.fdb.map Prod.snd) ops).getD []
  let t1 := (ops.filter (fun o => o.op == 2)).foldl (fun t o => tblDel t (fdbKey o.entry.fid o.entry.mac)) s.fwd.fdb
  let t2 := (ops.filter (fun o => o.op ≥ 3)).foldl (fun t o => fdbSweepGen o t) t1
  let t3 := placed.foldl (fun t e => tblPut t (fdbKey e.fid e.mac) e) t2
  (s.wr Od.fdbCurrentGen gen).setFdb t3

/-! ### Checks of a batch (R225, R236, R238, R239, R241) -/

/-- One record's codes: 0x04 for an undefined Op, Origin 3, a group address without Static, a Fid or Dest out of range; 0x07
for ops 3 and 4 in mode 6. -/
def State.fdbOpCode (s : State) (o : FdbOp) : Nat :=
  if o.op < 1 ∨ o.op > 4 then 0x04
  else if o.op ≤ 2 ∧ (o.entry.fid < 1 ∨ o.entry.fid > 4094) then 0x04
  else if o.op = 1 ∧ (o.entry.origin = 3 ∨ (bitOf o.entry.mac 40 && !o.entry.static)) then 0x04
  else if o.op = 1 ∧ ((o.entry.destKind = 0 ∧ (if s.mode = 6 then 384 else 256) ≤ o.entry.dest)
      ∨ (o.entry.destKind = 1 ∧ 16384 ≤ o.entry.dest)) then 0x04
  else if s.mode = 6 ∧ o.op ≥ 3 then 0x07
  else 0

/-- The window of generations stays open (R238). -/
def State.fdbWindowOk (s : State) : Bool :=
  s.mode == 6 || (s.fdbGen + 1 + 65536 - s.rd Od.fdbOldestGen) % 65536 ≤ 32767

/-- Every insert of the batch finds a free way beside the visible and staged entries (R236, R239). -/
def State.fdbFits (s : State) (ops : List FdbOp) : Bool :=
  (placeBatch s.mode ((s.fdbGen + 1) % 65536) s.fdbWays ops).isSome

/-! ### Query and sweep (R232, R238, R241) -/

/-- FdbQuery's answer (16 bytes): the visible entry of the key, or Valid 0. -/
def State.fdbQueryRead (s : State) (arg : List Byte) : List Byte :=
  let v := beNat arg
  let (fid, mac) := if s.mode = 6 then (bitField v 91 80, bitField v 79 32) else (bitField v 119 108, bitField v 107 60)
  match s.fdbFind fid mac with
  | some e => beBytes 16 (if s.mode = 6 then s.fdbBits6 e else e.bits)
  | none => beBytes 16 0

/-- The entries of a range of buckets (R232): bucket b of the HBM part is swept with the range as well.
[DESIGN CHOICE: log entry 30] -/
def State.fdbSwept (s : State) (first count : Nat) : List (Nat × FdbEntry) :=
  s.fwd.fdb.filter (fun e => first ≤ e.2.bucket && e.2.bucket < first + count)

/-- FdbSweep's answer: for each entry its key and Hit bit in the entry's layout; the Hit bits returned are cleared.
[DESIGN CHOICE: log entry 30] -/
def State.fdbSweepRead (s : State) (first count : Nat) : State × List Byte :=
  let es := s.fdbSwept first count
  let t := s.fwd.fdb.map (fun e => if first ≤ e.2.bucket && e.2.bucket < first + count then
    (e.1, { e.2 with hit := false }) else e)
  ({ s with fwd := { s.fwd with fdb := t } },
   (es.map (fun e => beBytes 16 (boolNat e.2.hit * 2 ^ 124 + e.2.fid * 2 ^ 108 + e.2.mac * 2 ^ 60))).flatten)

end Sys2Proof.Machine
end

