-- ==== Sys2Proof/Machine/Switch.lean ====
section
/-! DEFINITION. Machine/Switch.lean: the output buffer, admission, lossless parking and PFC, port-down flush, mirror
copies, aligned queues (chapter "Switch core and output buffering", R177 to R214), and declaring a link down (R169 to
R171). -/

namespace Sys2Proof.Machine

/-! ### PFC storm (R493) -/

/-- How long a class of a port has been paused without a break. -/
def tmStorm (p c : Nat) : Nat := timerKey 68 (8 * p + c)
/-- How long no PFC frame has paused a class in storm. -/
def tmRestored (p c : Nat) : Nat := timerKey 69 (8 * p + c)

/-- A class of a port is in storm. -/
def State.storm (s : State) (p c : Nat) : Bool := bitOf (s.rd (Od.watchdogState p)) c

/-! ### Records of the switch core -/

/-- An empty class queue. -/
def Queue.fresh : Queue :=
  { frames := [], deficit := 0, credit := 0, creditRem := 0, pausedUntil := 0, deferred := none, depthSample := 0,
    depthMax := 0, delaySample := 0, delayMax := 0, roundRobin := 0 }

/-- An idle egress port. -/
def Egress.fresh : Egress :=
  { launch := [], sending := none, round := [], gate := none, gatePending := none, gateWas := 255, gateChange := 0 }

/-- An ingress port and class that holds nothing. -/
def Ingress.fresh : Ingress := { held := 0, parked := [], xoff := false, sentAt := 0, paused := 0 }

/-- An empty aligned queue. -/
def Aligned.fresh : Aligned := { held := [], counts := [], past := [] }

/-- The queue of class c at port p. -/
def State.queue (s : State) (p c : Nat) : Queue := tblGet Queue.fresh s.switch.queues (8 * p + c)

/-- Set a class queue. -/
def State.setQueue (s : State) (p c : Nat) (q : Queue) : State :=
  { s with switch := { s.switch with queues := tblSet Queue.fresh s.switch.queues (8 * p + c) q } }

/-- An egress port's record. -/
def State.egress (s : State) (p : Nat) : Egress := tblGet Egress.fresh s.switch.egress p

/-- Set an egress port's record. -/
def State.setEgress (s : State) (p : Nat) (x : Egress) : State :=
  { s with switch := { s.switch with egress := tblSet Egress.fresh s.switch.egress p x } }

/-- What ingress port p and class c hold. -/
def State.ingress (s : State) (p c : Nat) : Ingress := tblGet Ingress.fresh s.switch.ingress (8 * p + c)

/-- Set what an ingress port and class hold. -/
def State.setIngress (s : State) (p c : Nat) (x : Ingress) : State :=
  { s with switch := { s.switch with ingress := tblSet Ingress.fresh s.switch.ingress (8 * p + c) x } }

/-- An aligned queue. [DESIGN CHOICE: log entry 36] -/
def State.alignedQ (s : State) (q : Nat) : Aligned := tblGet Aligned.fresh s.switch.aligned q

/-- Set an aligned queue. -/
def State.setAligned (s : State) (q : Nat) (x : Aligned) : State :=
  { s with switch := { s.switch with aligned := tblSet Aligned.fresh s.switch.aligned q x } }

/-- Length of a frame on the wire, with its FCS. -/
def Frame.len (f : Frame) : Nat := f.bytes.length + 4

/-- Bricks of a frame (R28). -/
def Frame.bricks (f : Frame) : Nat := ceilDiv f.len 256

/-- Bricks queued in a class queue (R182); launch-list frames count with their class (R199). -/
def State.depth (s : State) (p c : Nat) : Nat :=
  ((s.queue p c).frames.map Frame.bricks).sum +
    (((s.egress p).launch.filter (fun f => f.cls == c)).map Frame.bricks).sum

/-- Shared-pool bricks of a tile that are free (R184, R612). -/
def State.sharedFree (s : State) (t : Nat) : Nat := sharedPool s.mode - tblGet 0 s.switch.shared t

/-! ### PFC towards the ingress partner (R188, R213) -/

/-- Priorities of a port that map to a class. -/
def State.classPriorities (s : State) (p c : Nat) : List Nat :=
  (List.range 8).filter (fun q => priorityClass (s.rd (Od.priorityToClassOper p)) q == c)

/-- Send a PFC frame with these quanta for the priorities of a class; quanta 0 also release the priorities that the XOFF
paused and that have been mapped elsewhere since, unless their class is in XOFF itself (R188, R192). PFC frames, like the
other frames the device makes itself, do not count in TxFrames. [DESIGN CHOICE: log entry 155] -/
def State.sendPfc (s : State) (p c quanta : Nat) : State :=
  let x := s.ingress p c
  let mine := s.classPriorities p c
  let old := (List.range 8).filter (fun q => bitOf x.paused q
    && !(s.ingress p (priorityClass (s.rd (Od.priorityToClassOper p)) q)).xoff)
  let enable := (mine ++ (if quanta = 0 then old else [])).foldl (fun a q => withBit a q true) 0
  let s1 := s.setIngress p c { x with sentAt := s.now, paused := if quanta = 0 then 0 else x.paused ||| enable }
  (s1.emit (.pfc p enable quanta)).bump (Od.txPfcFrames p)

/-- Bricks of the frame in transmission at a port that an input and class hold there: they are freed at its end. -/
def State.sendingBricks (s : State) (i c p : Nat) : Nat :=
  match (s.egress p).sending with
  | some x => if x.frame.src = i ∧ x.frame.acct = c then x.frame.bricks else 0
  | none => 0

/-- Bricks of an input and class in the crosspoint to port `p` (mode 6). -/
def State.crosspointOf (s : State) (i c p : Nat) : Nat :=
  (((s.queue p c).frames.filter (fun f => f.src == i)).map Frame.bricks).sum + s.sendingBricks i c p

/-- The largest number of bricks of an input and class held in one crosspoint (mode 6). -/
def State.crosspointMax (s : State) (p c : Nat) : Nat :=
  ((s.switch.egress.map Prod.fst ++ s.switch.queues.map (fun (e : Nat × Queue) => e.1 / 8)).map (fun (j : Nat) => s.crosspointOf p c j)).foldl max 0

/-- A cause for XOFF holds: the bricks held reach XoffThreshold, or a frame is parked; in mode 6, 48 bricks in one
crosspoint. -/
def State.xoffCause (s : State) (p c : Nat) : Bool :=
  let x := s.ingress p c
  if s.mode = 6 then 48 ≤ s.crosspointMax p c
  else s.rd (Od.xoffThreshold p c) ≤ x.held || !x.parked.isEmpty

/-- XON is due: nothing parked and the bricks held at XonThreshold or below; in mode 6, at most 24 in every
crosspoint. -/
def State.xonCause (s : State) (p c : Nat) : Bool :=
  let x := s.ingress p c
  if s.mode = 6 then s.crosspointMax p c ≤ 24
  else x.parked.isEmpty && x.held ≤ s.rd (Od.xonThreshold p c)

/-- Send XOFF or XON when it is due; a class that has become lossy ends an outstanding XOFF (R188, R192). -/
def State.pfcCheck (s : State) (p c : Nat) : State :=
  let x := s.ingress p c
  if p ≥ 256 then s
  else if s.lossless p c then
    if s.xoffCause p c && !x.xoff then (s.setIngress p c { x with xoff := true }).sendPfc p c 0xFFFF
    else if x.xoff && s.xonCause p c then (s.setIngress p c { x with xoff := false }).sendPfc p c 0
    else s
  else if x.xoff then (s.setIngress p c { x with xoff := false }).sendPfc p c 0
  else s

/-- The instant at which 2,048 quanta of 512 bit times since the last PFC frame of an ingress port and class end (R188); at
once where a time step has put that frame in the future. -/
def State.refreshAt (s : State) (p c : Nat) : Nat :=
  let sent := (s.ingress p c).sentAt
  if s.now < sent then s.now else sent + 2048 * 512 * nsTicks / s.rate p

/-- PFC_REFRESH (R188): while a cause holds, the XOFF frame is repeated at the end of every 2,048 quanta, which is the
instant of the command. -/
def execPfcRefresh (p : PortId) (c : ClassId) (s : State) : Res :=
  let t := s.refreshAt p c
  .next (if s.lossless p c && (s.ingress p c).xoff && s.xoffCause p c && decide (t < s.clock.finish) then
      (s.moveTo (t - s.clock.start)).sendPfc p c 0xFFFF
    else s)

/-- The settings of DCBX are put in force; an XOFF that a class no longer gives cause for is ended (R192).
[DEDUCED: log entry 17] -/
def State.resolveDcbx (s : State) (p : Nat) : State :=
  forEach (List.range 8) (fun c s => s.pfcCheck p c) (s.dcbxSettings p)

/-! ### Charging bricks (R182, R188) -/

/-- The record a port's copies of a frame are charged under: the tile's, and in mode 6 the crosspoint's own, since one
copy is written into each (R182, R213). -/
def State.chargeKey (s : State) (p : Nat) (f : Frame) : Nat :=
  (if s.mode = 6 then 64 + p else p / 8) * 2 ^ 32 + f.id

/-- One more copy of a frame is held for a port: the first one charges the tile's shared pool, or for class 7 its
reserve. -/
def State.charge (s : State) (p : Nat) (f : Frame) : State :=
  let t := p / 8
  let key := s.chargeKey p f
  let n := tblGet 0 s.switch.charges key
  let s1 := { s with switch := { s.switch with charges := tblSet 0 s.switch.charges key (n + 1) } }
  if n = 0 then
    (if f.acct = 7 then s1.addTo (Od.class7Held t) f.bricks
     else { s1 with switch := { s1.switch with
       shared := tblSet 0 s1.switch.shared t (tblGet 0 s1.switch.shared t + f.bricks) } }).poolTook t f.bricks
  else s1

/-- One copy fewer of a frame is held for a port; the last one frees the bricks it was charged. -/
def State.uncharge (s : State) (p : Nat) (f : Frame) : State :=
  let t := p / 8
  let key := s.chargeKey p f
  let n := tblGet 0 s.switch.charges key
  let s1 := { s with switch := { s.switch with charges := tblSet 0 s.switch.charges key (n - 1) } }
  if n = 1 then
    (if f.acct = 7 then s1.wr (Od.class7Held t) (s1.rd (Od.class7Held t) - f.bricks)
     else { s1 with switch := { s1.switch with
       shared := tblSet 0 s1.switch.shared t (tblGet 0 s1.switch.shared t - f.bricks) } }).poolGave t f.bricks
  else s1

/-- Bricks more or fewer held anywhere by a frame's ingress port, under the class it was charged (R188). -/
def State.heldChange (s : State) (f : Frame) (change : Nat → Nat) : State :=
  (s.setIngress f.src f.acct { s.ingress f.src f.acct with held := change (s.ingress f.src f.acct).held }).pfcCheck
    f.src f.acct

/-- The record of the copies a frame has at one place. -/
def Frame.copyKey (f : Frame) : Nat := f.place * 2 ^ 32 + f.id

/-- One more copy of a frame is anywhere in the device; the first at a tile, or in mode 6 at each crosspoint, counts its
bricks against its ingress port and class (R39, R188). -/
def State.holdCopy (s : State) (f : Frame) : State :=
  let n := tblGet 0 s.switch.copies f.copyKey
  let s1 := { s with switch := { s.switch with copies := tblSet 0 s.switch.copies f.copyKey (n + 1) } }
  if n = 0 ∧ f.src < 256 then s1.heldChange f (· + f.bricks) else s1

/-- One copy fewer; the last one of its place frees the bricks there. A frame whose transmit completion still waits was dropped:
its completion carries Status 1 (R402). -/
def State.dropCopy (s0 : State) (f : Frame) : State :=
  let s := s0.txComplete f (match f.completion with | some d => (s0.qp d.queue).txPort | none => 0) 1 none
  let n := tblGet 0 s.switch.copies f.copyKey
  let s1 := { s with switch := { s.switch with copies := tblSet 0 s.switch.copies f.copyKey (n - 1) } }
  if n = 1 ∧ f.src < 256 then s1.heldChange f (· - f.bricks) else s1

/-- A copy is dropped for a port; a mirror copy is counted in MirrorDrops there (R197). -/
def State.dropAt (s : State) (p : Nat) (f : Frame) : State :=
  (if f.mirror then s.bump (Od.mirrorDrops p) else s).dropCopy f

/-! ### Over the Mortar (R36 to R39, R50) -/

/-- The function a host queue of the Dest encoding belongs to: PF1 or PF3 of the link its slice names (R396, R424). -/
def State.destFn (s : State) (dest : Nat) : Nat :=
  4 * (s.sliceSet (dest / 64 % 4096)).link + (if dest / 2 ^ 30 = 0 then 1 else 3)

/-- A Dest names a core receive queue. -/
def isCoreDest (dest : Nat) : Bool := dest / 2 ^ 30 == 2

/-- The tile a frame comes from: of its port, of its host function, of its core, or the service tile of its queue pair
(R51). -/
def Frame.srcTile (f : Frame) : Nat :=
  match f.roce with
  | some r => 0x30 + r.qpn / 262144
  | none =>
    if f.src < 256 then f.src / 8
    else if f.src < 512 then 0x34 + (f.src - 256) / 8
    else 0x20 + (f.src - 512) / 6

/-- The tile of a destination (R51, R207). -/
def State.dstTile (s : State) (d : Dst) : Nat :=
  match d with
  | .port p => p / 8
  | .aligned q => 0x34 + q / 128
  | .queue dest => if isCoreDest dest then 0x20 + dest % 2 ^ 30 / 6 else 0x34 + s.destFn dest / 8

/-- The network a frame crosses the Mortar on (R37, R38, R52): class 7 on VN0 wherever it comes from or goes to, RoCEv2
packets on VN3, frames from or to a host tile on VN2, the others on VN1. -/
def frameVn (cls srcTile dstTile : Nat) (roce : Bool) : Nat :=
  if roce then 3
  else if cls = 7 then 0
  else if (0x34 ≤ srcTile && srcTile ≤ 0x35) || (0x34 ≤ dstTile && dstTile ≤ 0x35) then 2
  else 1

/-- A frame sets out for a destination: its bricks become ready at a tile, which may be the destination's own (R48). -/
def State.setOut (s : State) (x : Transit) : State :=
  let s1 := s.carryFrame x.src (x.relay.getD (s.dstTile x.dst)) x.vn x.frame.len x.frame.cls x.frame.id
  { s1 with switch := { s1.switch with transit := s1.switch.transit ++ [x] } }

/-- Bricks of frames on their way to a compute tile's frame buffer; those short of their relay tile have not been judged. -/
def State.bricksToward (s : State) (tile : Nat) : Nat :=
  ((s.switch.transit.filter (fun x => s.dstTile x.dst == tile && x.relay.isNone)).map (fun x => x.frame.bricks)).sum

/-- A core's frame buffer takes a frame of so many bricks beside those on their way (R50, R381): 64 bricks are kept for
class 7. [DESIGN CHOICE: log entry 162] -/
def State.coreRoom (s : State) (tile bricks cls : Nat) : Bool :=
  bricks + s.bricksToward tile + (if cls = 7 then 0 else 64) ≤ s.poolFree tile

/-- A frame its compute tile's frame buffer cannot take is dropped at the ingress tile, counted against the receiving
core queue and as the refusal of the pool (R50, R382). [DESIGN CHOICE: log entry 145] -/
def State.coreDrop (s : State) (core : Nat) : State :=
  { s with switch := { s.switch with
      coreDrops := tblSet 0 s.switch.coreDrops core (tblGet 0 s.switch.coreDrops core + 1) } }.poolRefused (0x20 + core / 6)

/-- Send a copy of a frame over the Mortar to a destination: its bricks are charged under the class it is sent in. A frame
for a full frame buffer is dropped before it crosses (R50). -/
def State.send (s : State) (g : Frame) (d : Dst) : State :=
  let tile := s.dstTile d
  let f := { g with acct := g.cls, place := match d with | .port p => if s.mode = 6 then 64 + p.val else tile | _ => tile }
  let cross (s : State) : State := (s.holdCopy f).setOut
    { frame := f, dst := d, src := f.srcTile, vn := frameVn f.cls f.srcTile tile f.roce.isSome, relay := none, late := false }
  match d with
  | .queue dest => if isCoreDest dest && !s.coreRoom tile f.bricks f.cls then
      ((s.holdCopy f).coreDrop (dest % 2 ^ 30)).dropCopy f else cross s
  | _ => cross s

/-- A fresh frame handle. -/
def State.newFrame (s : State) : State × Nat :=
  ({ s with switch := { s.switch with nextId := s.switch.nextId + 1 } }, s.switch.nextId)

/-! ### Queues -/

/-- Put an admitted frame at the end of its class queue (R319: an empty queue joins the round with deficit 0), or into
the launch list in order of launch time, equal times by arrival (R199, R203). -/
def State.enqueue (s : State) (p : Nat) (f : Frame) : State :=
  let e := s.egress p
  match f.launch with
  | some l =>
    let before := e.launch.filter (fun g => g.launch.getD 0 ≤ l)
    let after := e.launch.filter (fun g => !(g.launch.getD 0 ≤ l))
    s.setEgress p { e with launch := before ++ [f] ++ after }
  | none =>
    let q := s.queue p f.cls
    let s1 := s.setQueue p f.cls { q with frames := q.frames ++ [f],
                                          deficit := if q.frames.isEmpty then 0 else q.deficit }
    if q.frames.isEmpty ∧ f.cls ≠ 7 then s1.setEgress p { e with round := e.round ++ [f.cls] } else s1

/-- The class queue has lost its last frame: the deficit is 0, the class leaves the round, and a positive credit
becomes 0 (R319, R322). -/
def State.queueEmptied (s : State) (p c : Nat) : State :=
  let q := s.queue p c
  if q.frames.isEmpty then
    let s1 := s.setQueue p c { q with deficit := 0, deferred := none, credit := min q.credit 0,
                                      creditRem := if q.credit > 0 then 0 else q.creditRem }
    s1.setEgress p { s1.egress p with round := (s1.egress p).round.filter (· != c) }
  else s

/-- Write the signed Credit entry of a class from its record, in whole bytes (R340). -/
def State.showCredit (s : State) (p c : Nat) : State :=
  if c < 7 then s.wrI 32 (Od.credit p c) ((s.queue p c).credit / 65536) else s

/-! ### Admission (R183 to R190, R194, R199, R202, R213) -/

/-- A port's share of its tile's class 7 reserve (R183). -/
def State.class7Share (s : State) (p : Nat) : Nat :=
  let v := s.rd (Od.class7ReserveBricks p)
  if v = 0 then class7Reserve s.mode / max 1 (s.tilePorts (p / 8)).length else v

/-- The admission limit of a class queue (R184), rounded down to a whole brick. -/
def State.queueLimit (s : State) (p c : Nat) : Nat :=
  min (s.rd (Od.queueMaxBricks p c)) (2 ^ s.rd (Od.alphaCode p c) * s.sharedFree (p / 8) / 64)

/-- The frame fits its class queue (R185). -/
def State.fits (s : State) (p c n : Nat) : Bool :=
  s.depth p c + n ≤ s.queueLimit p c && n ≤ s.sharedFree (p / 8)

/-- Bricks from input `i` in the crosspoint to port `p`, of class 7 or of the others (mode 6). -/
def State.crosspoint (s : State) (i p : Nat) (seven : Bool) : Nat :=
  ((List.range 8).map (fun c => if (c == 7) == seven then s.crosspointOf i c p else 0)).sum

/-- Class 7 bricks a port holds of its tile's reserve, the frame in transmission among them (R183). -/
def State.class7Depth (s : State) (p : Nat) : Nat :=
  s.depth p 7 + (match (s.egress p).sending with
    | some x => if x.frame.acct = 7 then x.frame.bricks else 0
    | none => 0)

/-- Bricks of an ingress port and class in headroom. -/
def State.parkedBricks (s : State) (p c : Nat) : Nat := ((s.ingress p c).parked.map (fun e => e.2.2)).sum

/-- Drop a copy that was not admitted, counted as a tail drop of its class; a mirror copy is counted in MirrorDrops
(R185, R197). -/
def State.tailDrop (s : State) (p : Nat) (f : Frame) : State :=
  ((s.bump (Od.tailDropFrames p f.cls)).addTo (Od.tailDropBricks p f.cls) f.bricks).dropAt p f

/-- Drop a lossless copy for which there is no headroom (R189). -/
def State.losslessDrop (s : State) (f : Frame) : State :=
  (((s.bump (Od.losslessDrops f.src)).raiseLimited 0x4A01 f.src 1 f.src).dropCopy f)

/-- Admit a copy: its bricks are charged and it takes its place; in mode 6 its crosspoint may call for XOFF (R213). -/
def State.takeIn (s : State) (p : Nat) (f : Frame) (cut : Bool) : State :=
  let s1 := (s.charge p f).enqueue p { f with admitted := s.now, cut := cut }
  if s.mode = 6 then s1.pfcCheck f.src f.acct else s1

/-- A lossless frame its egress cannot take is parked in the headroom of its ingress tile, or dropped (R187, R189); a
faulty one is discarded unless its mode forwards it cut-through all the same (R180). -/
def State.park (s : State) (p : Nat) (f : Frame) (n : Nat) : State :=
  let t := f.src / 8
  if f.bad && s.mode != 2 then s.dropCopy f
  else if s.parkedBricks f.src f.cls + n ≤ s.rd (Od.headroomBricks f.src f.cls) ∧
      s.rd (Od.headroomHeld t) + n ≤ headroomPool s.mode then
    let x := s.ingress f.src f.cls
    (((((s.setIngress f.src f.cls { x with parked := x.parked ++ [(f, p, n)] }).bump (Od.headroomFrames f.src)).wr
      (Od.headroomHeld t) (s.rd (Od.headroomHeld t) + n))).poolTook t n).pfcCheck f.src f.cls
  else s.losslessDrop f

/-- Cut-through or store-and-forward at the moment of the first brick (R177 to R179). -/
def State.cutThrough (s : State) (p : Nat) (f : Frame) : Bool :=
  if s.mode = 2 then true
  else if s.mode = 6 then false
  else s.rd (Od.forwardingMode p) == 0 && f.src < 256 && s.rate p ≤ s.rate f.src
    && (s.queue p f.cls).frames.isEmpty
    && (match (s.egress p).sending with | some x => x.frame.cls != f.cls | none => true)
    && f.launch.isNone && f.stream.isNone && !f.inline

/-- The frame's arrival at its egress port decided (R185 to R187, R194, R199, R202, R213); a faulty frame that is not
forwarded cut-through was discarded at ingress and counts nowhere here (R180). A class 7 frame is admitted by its own bricks
whether or not its length is known yet. [DESIGN CHOICE: log entry 156] -/
def State.arriveAtPort (s : State) (p : Nat) (f0 : Frame) : State :=
  let ct := s.cutThrough p f0
  let f := if s.mode = 6 then { f0 with launch := none } else f0
  let s := if s.mode = 6 ∧ f0.launch.isSome then s.bump (Od.launchIgnored p) else s
  let n := if ct ∧ f.src < 256 then ceilDiv (s.rd (Od.maxFrameSize f.src)) 256 else f.bricks
  if f.bad && !ct then s.dropAt p f
  else if !s.up p then (s.bump (Od.txPortDown p)).dropAt p f
  else if s.storm p f.cls && s.rd (Od.watchdogAction p) == 0 then (s.bump (Od.watchdogDrops p)).dropAt p f
  else if f.launch.isSome && f.launch.getD 0 > s.now + s.rd (Od.launchHorizon p) * nsTicks then
    (s.bump (Od.launchBeyondHorizon p)).dropAt p f
  else if f.launch.isSome && 4096 ≤ (s.egress p).launch.length then
    (s.bump (Od.launchListFull p)).dropAt p f
  else if s.mode = 6 then
    if f.cls = 7 then (if s.crosspoint f.src p true + f.bricks ≤ 8 then s.takeIn p f ct else s.tailDrop p f)
    else if s.crosspoint f.src p false + f.bricks ≤ 56 then s.takeIn p f ct
    else if f.src < 256 && s.lossless f.src f.cls && !f.mirror then s.losslessDrop f
    else s.tailDrop p f
  else if f.cls = 7 then
    if s.class7Depth p + f.bricks ≤ s.class7Share p then s.takeIn p f ct else s.tailDrop p f
  else if f.src < 256 && s.lossless f.src f.cls && !f.mirror then
    if (s.ingress f.src f.cls).parked.isEmpty && s.fits p f.cls n then s.takeIn p f ct
    else s.park p f f.bricks
  else if s.fits p f.cls n then s.takeIn p f ct
  else s.tailDrop p f

/-! ### Aligned receive queues (R207 to R211) -/

/-- Frames of one course a queue admits (R210). -/
def State.alignedRate (s : State) (q : Nat) : Nat := ceilDiv (s.rd (Od.maxRate q) * s.len) 672

/-- Bytes a queue holds. -/
def Aligned.bytes (x : Aligned) : Nat := (x.held.map (fun e => e.1.len)).sum

/-- HoldCourses and AlignedEnable for frames stamped in a course (R219). -/
def State.alignedFor (s : State) (q c : Nat) : Nat × Bool :=
  (((s.alignedQ q).past.filter (fun e => decide (c < e.1))).getLast?.map Prod.snd).getD
    (s.rd (Od.holdCourses q), s.rdB (Od.alignedEnable q))

/-- A frame reaches an aligned queue's host tile (R208 to R210): beyond the course's rate or the capacity it is
discarded; after its release boundary it is late. -/
def State.arriveAligned (s : State) (q : Nat) (f : Frame) : State :=
  let x := s.alignedQ q
  let n := tblGet 0 x.counts f.course
  let (hold, enabled) := s.alignedFor q f.course
  let release := f.course + hold
  if f.bad || !enabled then s.dropCopy f
  else if s.alignedRate q ≤ n then (s.bump (Od.alignedRateExceeded q)).dropCopy f
  else if s.rd (Od.capacityBytes q) < x.bytes + f.len then (s.bump (Od.alignedOverflow q)).dropCopy f
  else if s.course ≤ release then
    s.setAligned q { x with held := x.held ++ [(f, release, false)], counts := tblSet 0 x.counts f.course (n + 1) }
  else
    let s1 := s.raiseLimited 0x4A05 q 1 q
    if s.rd (Od.lateAction q) = 0 then (s1.bump (Od.alignedLate q)).dropCopy f
    else s1.setAligned q { x with held := x.held ++ [(f, s.course, true)],
                                  counts := tblSet 0 x.counts f.course (n + 1) }

/-- A frame precedes another in the order of release (R208): on-time frames first, then by timestamp, then by ingress
port. [DESIGN CHOICE: log entry 36] -/
def alignedBefore (a b : Frame × Nat × Bool) : Bool :=
  let ka := (if a.2.2 then 1 else 0, a.1.stamp, a.1.src)
  let kb := (if b.2.2 then 1 else 0, b.1.stamp, b.1.src)
  if ka.1 ≠ kb.1 then ka.1 < kb.1 else if ka.2.1 ≠ kb.2.1 then ka.2.1 < kb.2.1 else ka.2.2 ≤ kb.2.2

/-- The queue pair a host queue of the Dest encoding names. -/
def State.destQp (s : State) (dest : Nat) : Nat := qpKey (s.destFn dest) (dest / 64 % 4096) (dest % 64)

/-- The transit SRAM of a host queue's tile has room for a frame of a class beside the reserves of class 7 and of the
aligned queues. [DESIGN CHOICE: log entry 162] -/
def State.hostRoom (s : State) (dest bricks cls : Nat) : Bool :=
  let reserve := (if cls = 7 then 0 else 256) + ((List.range 128).map (fun i =>
    let q := 128 * (s.destFn dest / 8) + i
    if s.rdB (Od.alignedEnable q) then ceilDiv (s.rd (Od.capacityBytes q)) 256 else 0)).sum
  bricks + reserve ≤ s.poolFree (0x34 + s.destFn dest / 8)

/-- A frame for a host receive queue waits for its delivery in its host tile's transit SRAM (R376, R381), unless the
queue pair is halted or its slice quiesces (R412, R433); an aligned queue's frames draw on its own reserve. Class 7 has
256 bricks of its own. -/
def State.toHostQueue (s : State) (dest : Nat) (f : Frame) (late : Bool) (via : Option Nat) : State :=
  let pool := 0x34 + s.destFn dest / 8
  if s.quiescing (dest / 64 % 4096) then (s.bumpSlice (dest / 64 % 4096) 0).dropCopy f
  else if (s.qp (s.destQp dest)).halted then (s.bump (Od.rxHalted (s.destFn dest))).dropCopy f
  else if via.isNone && !s.hostRoom dest f.bricks f.cls then
    ((s.poolRefused pool).bump (Od.hodRxDrops pool)).dropCopy f
  else
    let s1 := if via.isNone then s.poolTake pool f.bricks else s
    { s1 with switch := { s1.switch with rx := s1.switch.rx ++ [⟨dest, f, late, via⟩] } }

/-- A frame reaches the receive queue a Dest names: of a host, or of a core behind its exception header (R283). -/
def State.toQueue (s : State) (dest : Nat) (f : Frame) (late : Bool) (via : Option Nat) : State :=
  if dest / 2 ^ 30 ≤ 1 then s.toHostQueue dest f late via
  else if dest / 2 ^ 30 = 2 then
    let head := match f.exc with | some x => leBytes 16 x | none => []
    (s.toCore (dest % 2 ^ 30) (head ++ f.bytes) f.cls "frame").dropCopy f
  else s.dropCopy f

/-- A frame an aligned queue releases (R211): to its host queue, or for a core to the queue's relay tile, on VN2 or, in class 7, on VN0 (R38).
[DESIGN CHOICE: log entry 145] -/
def State.releaseOne (s : State) (q : Nat) (f : Frame) (late : Bool) : State :=
  let dest := s.rd (Od.consumer q)
  if isCoreDest dest then
    s.setOut { frame := f, dst := .queue dest, src := 0x34 + q / 128,
               vn := frameVn f.cls (0x34 + q / 128) (s.rd (Od.relayTile q)) false, relay := some (s.rd (Od.relayTile q)),
               late := late }
  else s.toQueue dest f late (some q)

/-- Release of one queue at a boundary (R208, R209, R211): frames whose release course has ended, in order, to the
consumer. [DESIGN CHOICE: log entry 36] -/
def State.releaseAligned (s : State) (q : Nat) : State :=
  let x := s.alignedQ q
  let (out, keep) := x.held.partition (fun e => e.2.1 < s.course)
  let s1 := s.setAligned q { x with held := keep, counts := x.counts.filter (fun e =>
    s.course ≤ e.1 + s.rd (Od.holdCourses q) + 4096) }
  (out.mergeSort alignedBefore).foldl (fun s e =>
    (s.releaseOne q e.1 e.2.2).bump (Od.alignedReleased q)) s1

/-! ### Arrivals and parked frames -/

/-- A frame as it goes on once its bricks are handed over: only a completion that waits for the transmit stamp is still
owed (R402). -/
def unlessStamped (f : Frame) : Frame :=
  match f.completion with
  | some d => if d.stamp then f else { f with completion := none }
  | none => f

/-- A host's transmit frame has been handed to the egress tile (R381, R402): its bricks of the host tile are free, and a
completion that asks for no stamp is written. -/
def State.handedOver (s : State) (p : Nat) (f : Frame) : State :=
  match f.completion with
  | none => s
  | some d =>
    let s1 := s.poolGive (0x34 + qpFn d.queue / 8) f.bricks
    if d.stamp then s1 else s1.txComplete f p 0 none

/-- The first brick of a copy is written at its tile (R185). A frame on its way to a relay tile goes on from there to the
core's compute tile, where R50 applies (R211). [DESIGN CHOICE: log entry 145] -/
def State.arriveOne (s : State) (x : Transit) : State :=
  let f := x.frame
  let s1 := ({ s with switch := { s.switch with transit := s.switch.transit.erase x } } : State).firstWritten x.src
    (x.relay.getD (s.dstTile x.dst)) x.vn f.id
  match x.relay, x.dst with
  | some relay, .queue dest =>
    if s1.coreRoom (s1.dstTile x.dst) f.bricks f.cls then
      s1.setOut { x with src := relay, vn := frameVn f.cls relay (s1.dstTile x.dst) false, relay := none }
    else (s1.coreDrop (dest % 2 ^ 30)).dropCopy f
  | _, .port p => (s1.handedOver p f).arriveAtPort p (unlessStamped f)
  | _, .aligned q => s1.arriveAligned q.val f
  | _, .queue dest => if f.bad then s1.dropCopy f else s1.toQueue dest f x.late none

/-- A copy arrives. Frames of one source for one core keep their order on the Mortar, so those that set out before it have
arrived before it (R208, R211). [DESIGN CHOICE: log entry 145] -/
def State.arrive (s : State) (x : Transit) : State :=
  let before (y : Transit) : Bool := y.src == x.src && y.dst == x.dst && y.relay == x.relay
  match x.dst with
  | .queue dest =>
    if isCoreDest dest then (((s.switch.transit.takeWhile (· != x)).filter before).foldl State.arriveOne s).arriveOne x
    else s.arriveOne x
  | _ => s.arriveOne x

/-- The arrivals that wait behind this one at the same instant of the course (R186). [DESIGN CHOICE: log entry 2] -/
def sameInstant (off : Nat) : List Instr → List (Nat × Dst)
  | .firstBrickArrival id dst o :: q => if o = off then (id, dst) :: sameInstant off q else []
  | _ => []

/-- The copy of a frame on its way to a destination, the oldest first. -/
def State.onTheWay (s : State) (a : Nat × Dst) : Option Transit :=
  s.switch.transit.find? (fun x => x.frame.id == a.1 && x.dst == a.2)

/-- Order of arrivals of one instant: by source tile ID, then by handle (R186). -/
def arrivalBefore (a b : Transit) : Bool :=
  if a.src ≠ b.src then a.src < b.src else a.frame.id ≤ b.frame.id

/-- FIRST_BRICK_ARRIVAL (R185, R186): the oldest copy of the frame on its way to this destination arrives there. Arrivals
of the same instant that wait in the queue are decided with it, in ascending order of source tile ID and then of handle;
when their turn comes they find nothing left to do. [DESIGN CHOICE: log entry 2] -/
def execFirstBrickArrival (id : Nat) (dst : Dst) (off : Nat) (s : State) : Res :=
  let s := s.moveTo off
  let together := ((id, dst) :: sameInstant off s.pending).filterMap s.onTheWay
  .next ((together.dedup.mergeSort arrivalBefore).foldl State.arrive s)

/-- PARKED_FRAME_MOVE (R187, R192): the oldest parked frame moves when its egress queue admits it; in mode 2 it is
cut-through like every frame (R177, R179). -/
def execParkedFrameMove (p : PortId) (c : ClassId) (off : Nat) (s : State) : Res :=
  let s := s.moveTo off
  let x := s.ingress p c
  .next (match x.parked with
    | [] => s
    | (f, q, n) :: rest =>
      if s.up q && s.fits q c n then
        let s1 := ((s.setIngress p c { x with parked := rest }).wr (Od.headroomHeld (p / 8))
          (s.rd (Od.headroomHeld (p / 8)) - n)).poolGave (p / 8) n
        if f.launch.isSome && 4096 ≤ (s.egress q).launch.length then
          ((s1.bump (Od.launchListFull q)).dropAt q f).pfcCheck p c
        else ((s1.carryFrame (p / 8) (q / 8) 1 f.len f.cls f.id).takeIn q f (s.mode == 2)).pfcCheck p c
      else s)

/-! ### Port-down flush and declaring a link down (R169 to R171, R193, R214) -/

/-- Discard a queued frame in a flush. -/
def State.flushOne (s : State) (p : Nat) (f : Frame) (charged : Bool) : State :=
  let s1 := (s.bump (Od.flushedFrames p)).addTo (Od.flushedBricks p) f.bricks
  (if charged then s1.uncharge p f else s1).dropAt p f

/-- Discard the parked frames bound for a port. -/
def State.flushParked (s : State) (p : Nat) : State :=
  s.switch.ingress.foldl (fun s e =>
    let (gone, keep) := e.2.parked.partition (fun x => x.2.1 == p)
    if gone.isEmpty then s
    else
      let q := e.1 / 8
      let s1 := s.setIngress q (e.1 % 8) { s.ingress q (e.1 % 8) with parked := keep }
      (gone.foldl (fun s x => ((s.wr (Od.headroomHeld (q / 8)) (s.rd (Od.headroomHeld (q / 8)) - x.2.2)).poolGave (q / 8) x.2.2).flushOne
        p x.1 false) s1).pfcCheck q (e.1 % 8)) s

/-- A frame selected whose egress program still runs has not started its transmission: it is flushed like the queued ones
(R193, R194). [DESIGN CHOICE: log entry 157] -/
def State.flushSelected (s : State) (p : Nat) : State :=
  match (s.egress p).sending with
  | some x => if x.ends.isNone then (s.setEgress p { s.egress p with sending := none }).flushOne p x.frame true else s
  | none => s

/-- Every frame queued for a port is discarded and counted (R193); a frame in transmission is completed (R194).
[DESIGN CHOICE: log entry 157] -/
def State.flushPort (s0 : State) (p : Nat) : State :=
  let s := s0.flushSelected p
  let fs := ((List.range 8).map (fun c => (s.queue p c).frames)).flatten ++ (s.egress p).launch
  let cleared := (List.range 8).foldl (fun s c =>
    (s.setQueue p c { s.queue p c with frames := [] }).queueEmptied p c) s
  let s1 := cleared.setEgress p { cleared.egress p with launch := [], round := [] }
  let s2 := (fs.foldl (fun s f => s.flushOne p f true) s1).flushParked p
  s2.raise 0x4A03 p

/-- Event and status of a port that goes down, without bring-up (R171). -/
def State.portDownNoRestart (s : State) (p cause : Nat) : State :=
  let state := if cause = 1 then 0 else if cause = 9 ∨ cause = 0x0A then 5 else 1
  let s1 := (((s.stopBringUp p).wr (Od.linkState p) state).wr (Od.linkDownCause p) cause).wr (Od.lastLinkChange p)
    (ts96 s.now)
  let s2 := ((s1.bump (Od.linkDownEvents p)).flushPort p).synceLaneFailed p
  let s4 := if s2.rdB (Od.ptpEnable p) then
      ((s2.setPtp p { s2.ptpPort p with attempt := 0, announced := false, l1Up := false }).wr (Od.portState p) 2).wr
        (Od.profileInUse p) 0
    else s2
  let s5 := s4.setPort p { s4.port p with peer := none, downCause := none, trained := false }
  ((s5.resolveDcbx p).fdbPortDown p).raiseLimited 0x3A02 p 16 (p * 256 + cause)

/-- A port goes down at a boundary (R171); bring-up restarts unless the cause is 1, 9 or 0x0A. -/
def State.portDown (s : State) (p cause : Nat) : State :=
  let s1 := s.portDownNoRestart p cause
  if cause = 1 ∨ cause = 9 ∨ cause = 0x0A then s1 else s1.bringUp p

/-- Take a port down when it is up; a port already down, or on its way up, only starts anew, without the cause, the instant
and the event of R171 (R163). [DESIGN CHOICE: log entry 153] -/
def State.takeDown (s : State) (p cause : Nat) : State :=
  if s.up p then s.portDown p cause
  else if cause = 1 then ((s.stopBringUp p).wr (Od.linkState p) 0).wr (Od.linkDownCause p) 1
  else s.bringUp p

/-- The IdleSlopes of a port's shaped classes are held against the speed in use, where the port has one (R323). -/
def State.shaperCheck (s : State) (p : Nat) : State :=
  let sum := ((List.range 7).map (fun c => if s.rdB (Od.shaperEnable p c) then s.rd (Od.idleSlope p c) else 0)).sum
  if s.rd (Od.speedInUse p) ≠ 0xFF ∧ s.rate p * 1000000 < sum then s.raise 0x6A03 p else s

/-- LINK_UP_HOLD (R157, steps 5 and 6; R323). -/
def execLinkUpHold (p : PortId) (s : State) : Res :=
  .next (if s.rd (Od.linkState p) = 3 ∧ s.due (tmLinkUp p) (s.rd (Od.linkUpHold p)) = true
    then (s.linkUp p).shaperCheck p else s)

/-- LINK_DOWN_CONDITION (R160, R169, R170): a reported condition, by its cause 2 to 6. In up-hold it restarts step 1; on
an up link it acts at the coming boundary, or after LinkDownHold. -/
def execLinkDownCondition (p : PortId) (off cause : Nat) (s : State) : Res :=
  let s := s.moveTo off
  let s1 := if cause = 5 then s.bump (Od.localFaults p) else if cause = 6 then s.bump (Od.remoteFaults p) else s
  if s1.rd (Od.linkState p) = 3 then .next (s1.bringUp p)
  else if s1.up p ∧ (s1.port p).downCause = none then
    let s2 := s1.setPort p { s1.port p with downCause := some cause }
    .next (if s2.rd (Od.linkDownHold p) = 0 then s2 else s2.arm (tmLinkDown p))
  else .next s1

/-- LINK_DOWN_HOLD (R170, R117): the hold expires; a port good again stays up and LinkGlitches is counted. -/
def execLinkDownHold (p : PortId) (good : Bool) (s : State) : Res :=
  .next (match (s.port p).downCause with
    | none => s
    | some cause =>
      if s.due (tmLinkDown p) (s.rd (Od.linkDownHold p)) then
        if good then ((s.disarm (tmLinkDown p)).setPort p { s.port p with downCause := none }).bump (Od.linkGlitches p)
        else s.portDown p cause
      else s)

/-- Ports with a reported condition and no hold go down at the boundary (R170), in port order. -/
def State.linksDownDue (s : State) : State :=
  s.ports.foldl (fun s e =>
    match e.2.downCause with
    | some cause => if s.up e.1 && !s.armed (tmLinkDown e.1) then s.portDown e.1 cause else s
    | none => s) s

/-! ### PFC from the partner (R191) -/

/-- Received PFC pauses a class for its quanta, or releases it by quanta 0 (R191). A pause without a break is timed for
storm, and a class in storm is timed from its last pause (R493). -/
def State.pauseClass (s : State) (p c q : Nat) : State :=
  let x := s.queue p c
  let s1 := s.setQueue p c { x with pausedUntil := if q = 0 then 0 else s.now + q * 512 * nsTicks / s.rate p }
  let s2 := if q = 0 then s1.disarm (tmStorm p c)
    else if s1.rdB (Od.pfcWatchdogEnable p) && s1.lossless p c && !s1.storm p c
        && (decide (x.pausedUntil ≤ s.now) || !s1.armed (tmStorm p c)) then s1.arm (tmStorm p c)
    else s1
  if q ≠ 0 ∧ s2.storm p c = true then s2.arm (tmRestored p c) else s2

/-- PFC (R168, R191): the classes of the priorities enabled in PfcOper are paused for their quanta of 512 bit times, or
released by quanta 0; class 7 is never paused. The end of the frame is the instant given. Where one frame pauses a priority
and releases another of the same class, the highest-numbered one's quanta stand. [DESIGN CHOICE: log entry 161] -/
def execPfc (p : PortId) (off : Nat) (rx : RxFrame) (enable : Nat) (quanta : List Nat) (s : State) : Res :=
  match (s.moveTo off).rxAccept p rx with
  | (s1, false) => .next s1
  | (s1, true) =>
    .next (forEach (List.range 8) (fun pri s =>
      let c := priorityClass (s.rd (Od.priorityToClassOper p)) pri
      if bitOf enable pri && bitOf (s.rd (Od.pfcOper p)) pri && c != 7 then
        s.pauseClass p c (quanta.getD pri 0)
      else s) (s1.bump (Od.rxPfcFrames p)))

/-- PFC_PAUSE_EXPIRY (R191): the quanta have run out and the class may send again. -/
def execPfcPauseExpiry (p : PortId) (c : ClassId) (off : Nat) (s : State) : Res :=
  let s := s.moveTo off
  .next (if (s.queue p c).pausedUntil ≤ s.now then
    (s.setQueue p c { s.queue p c with pausedUntil := 0 }).disarm (tmStorm p c) else s)

/-- The class is paused by received PFC; class 7 never is (R191), nor a class in storm whose port ignores pauses
(R493). -/
def State.paused (s : State) (p c : Nat) : Bool :=
  c != 7 && s.now < (s.queue p c).pausedUntil && !(s.storm p c && s.rd (Od.watchdogAction p) == 1)

/-! ### Mirror copies (R195 to R198) -/

/-- Destination of a mirror session (R196, R219): the Dest of a host queue names PF1 or PF3 by its bit 30, as Consumer does.
[DESIGN CHOICE: log entry 159] -/
def State.mirrorDst (s : State) (n : Nat) : Dst :=
  match s.rd (Od.destKind n) with
  | 0 => .port (Fin.ofNat 256 (s.rd (Od.dest n)))
  | 1 => .queue (s.rd (Od.dest n) % 2 ^ 31)
  | _ => .queue (2 * 2 ^ 30 + s.rd (Od.dest n) % 2 ^ 30)

/-- The 16-byte mirror header (R198). -/
def mirrorHeader (session : Nat) (egress truncated : Bool) (port len time : Nat) : List Byte :=
  beBytes 16 (2 ^ 124 + session * 2 ^ 121 + boolNat egress * 2 ^ 120 + boolNat truncated * 2 ^ 119
    + port % 256 * 2 ^ 104 + len % 2 ^ 14 * 2 ^ 90 + ts64 time)

/-- One mirror copy of a frame for a session (R196 to R198): a separate frame, cut and encapsulated as configured; the
copy of a faulty frame is faulty. -/
def State.mirrorCopy (s : State) (n : Nat) (f : Frame) (egress : Bool) (port time : Nat) : State :=
  let cut := s.rd (Od.truncateLength n)
  let truncated := decide (cut ≠ 0 ∧ cut < f.bytes.length)
  let body := if truncated then f.bytes.take cut else f.bytes
  let bytes := if s.rdB (Od.encapsulate n) then
      beBytes 6 (s.rd (Od.encapDa n)) ++ beBytes 6 (s.rd (Od.encapSa n)) ++ beBytes 2 (s.rd (Od.encapEthertype n))
        ++ mirrorHeader n egress truncated port f.len time ++ body
    else body
  let (s1, id) := s.newFrame
  s1.send { f with id := id, bytes := bytes, cls := s.rd (Od.mirrorClass n), mirror := true, launch := none,
                   stream := none, completion := none, tsw := [], red := none, exc := none, roce := none } (s.mirrorDst n)

/-- Bit p of a port map of 32 bytes. -/
def portMapBit (bs : List Byte) (p : Nat) : Bool := bitOf ((bs.getD (p / 8) 0).toNat) (p % 8)

/-- The sessions whose port map of a direction selects a port. -/
def State.mirrorSessions (s : State) (egress : Bool) (p : Nat) : List Nat :=
  (List.range 8).filter (fun n => s.rdB (Od.mirrorEnable n) &&
    portMapBit (s.dom (if egress then Od.egressPorts n else Od.ingressPorts n)) p)

/-- The copies of a frame for its direction's port maps and for the sessions an action's MirrorMask selects. -/
def State.mirrorAll (s : State) (f : Frame) (egress : Bool) (port time mask : Nat) : State :=
  let ns := s.mirrorSessions egress port
  let all := (List.range 8).filter (fun n => ns.contains n || (bitOf mask n && s.rdB (Od.mirrorEnable n)))
  if f.mirror then s else all.foldl (fun s n => s.mirrorCopy n f egress port time) s

end Sys2Proof.Machine
end

