-- ==== Sys2Proof/Machine/Cipher.lean ====
section
/-! DEFINITION. Machine/Cipher.lean: key slots, MACsec, ESP and IEC 62351-6 authentication of frames (chapter "Cipher
clusters and key slots", R343 to R362). The algorithms themselves are the constants of Config. -/

namespace Sys2Proof.Machine

/-! ### Key slots (R347 to R350) -/

/-- A slot as it is at first: free and empty. -/
def KeySlot.fresh : KeySlot := { owner := 0, slice := 0, algorithm := 0, key := [], uses := 0, nextPn := 0 }

/-- A slot. -/
def State.keySlot (s : State) (n : Nat) : KeySlot := tblGet KeySlot.fresh s.cipher.slots n

/-- Set a slot. -/
def State.setKeySlot (s : State) (n : Nat) (x : KeySlot) : State :=
  { s with cipher := { s.cipher with slots := tblSet KeySlot.fresh s.cipher.slots n x } }

/-- Slots owned by the Keystone permanently (R347). -/
def keystoneSlot (n : Nat) : Bool := 0xFF00 ≤ n

/-- Owner kind of a slot: 0 free, 1 dictionary, 2 slice, 3 Keystone. -/
def State.slotOwner (s : State) (n : Nat) : Nat := if keystoneSlot n then 3 else (s.keySlot n).owner

/-- Zeroise a slot's key and keep its ownership. -/
def KeySlot.zeroised (x : KeySlot) : KeySlot := { x with algorithm := 0, key := [], uses := 0, nextPn := 0 }

/-- Key bytes an algorithm takes (R343); HMAC takes 1 to 64. -/
def keyLengthOk (alg n : Nat) : Bool :=
  match alg with
  | 1 => n == 16
  | 2 | 5 | 7 => n == 32
  | 3 => n == 64
  | 4 => n == 16
  | 6 => 1 ≤ n && n ≤ 64
  | _ => false

/-- The check value of a loaded slot (R349). [DESIGN CHOICE: log entry 64] -/
def KeySlot.check (x : KeySlot) : Nat :=
  if x.algorithm = 0 then 0
  else beNat (sized 3 (if x.algorithm = 6 then Config.hmac384 x.key [] else Config.ecbZero x.key))

/-- The KeySlotInfo record (R350). -/
def State.keySlotInfo (s : State) (n : Nat) : List Byte :=
  let x := s.keySlot n
  beBytes 16 (s.slotOwner n * 2 ^ 126 + (if s.slotOwner n = 2 then x.slice else 0) * 2 ^ 114 + x.algorithm * 2 ^ 106
    + boolNat (x.algorithm != 0) * 2 ^ 105 + x.check * 2 ^ 72 + x.uses % 2 ^ 64)

/-- One more frame or request processed under a slot. -/
def State.useSlot (s : State) (n : Nat) : State := s.setKeySlot n { s.keySlot n with uses := (s.keySlot n).uses + 1 }

/-! ### Inline clusters (R343 to R346) -/

/-- A cluster with nothing to do. -/
def InlineCluster.fresh : InlineCluster := { running := [], suspended := [], waiting := [], stands := 0 }

/-- The inline cluster of port tile t. -/
def State.inlineCluster (s : State) (t : Nat) : InlineCluster := tblGet InlineCluster.fresh s.cipher.inlines t

/-- Set an inline cluster. -/
def State.setInline (s : State) (t : Nat) (x : InlineCluster) : State :=
  { s with cipher := { s.cipher with inlines := tblSet InlineCluster.fresh s.cipher.inlines t x } }

/-- The oldest job of the highest urgency. -/
def topJob (l : List InlineJob) : Option InlineJob := [3, 2, 1].findSome? (fun u => l.find? (fun j => j.urgency == u))

/-- A free core takes a suspended job ahead of waiting ones of its own or lower urgency, or the oldest waiting job of the
highest urgency (R345, R346). -/
def InlineCluster.fill (x : InlineCluster) : InlineCluster :=
  let resume (a : InlineJob) := { x with running := x.running ++ [a], suspended := x.suspended.erase a }
  let start (b : InlineJob) := { x with running := x.running ++ [b], waiting := x.waiting.erase b }
  if 8 ≤ x.running.length then x
  else match topJob x.suspended, topJob x.waiting with
  | some a, some b => if b.urgency ≤ a.urgency then resume a else start b
  | some a, none => resume a
  | none, some b => start b
  | none, none => x

/-- A cluster at an instant: jobs that have had their time end, and free cores take others.
[DESIGN CHOICE: log entry 164] -/
def InlineCluster.until (t : Nat) : Nat → InlineCluster → InlineCluster
  | 0, x => { x with stands := t }
  | k + 1, x =>
    match (x.running.map (fun j => j.left)).min? with
    | none => { x with stands := t }
    | some d =>
      if t < x.stands + d then
        { x with running := x.running.map (fun j => { j with left := j.left - (t - x.stands) }), stands := t }
      else
        let ended := { x with running := (x.running.filter (fun j => d < j.left)).map (fun j => { j with left := j.left - d }),
                              stands := x.stands + d }
        InlineCluster.until t k ((List.range 8).foldl (fun y _ => y.fill) ended)

/-- A new job waits, and a free core takes the next one; one of urgency 3 that finds every core busy takes the core of
the job of the lowest urgency below 3 that started last, which is suspended (R346): the cluster, and whether it did.
[DESIGN CHOICE: log entry 164] -/
def InlineCluster.enter (x : InlineCluster) (j : InlineJob) : InlineCluster × Bool :=
  let y := { x with waiting := x.waiting ++ [j] }.fill
  let victim := [1, 2].findSome? (fun u => y.running.reverse.find? (fun i => i.urgency == u))
  if j.urgency = 3 ∧ y.waiting.contains j = true then
    match victim with
    | some v => ({ y with running := (y.running.reverse.erase v).reverse ++ [j], suspended := y.suspended ++ [v],
                          waiting := y.waiting.erase j }, true)
    | none => (y, false)
  else (y, false)

/-- A frame of so many bytes reaches the inline cluster of its port's tile: a request of urgency 3 for class 7, 2 for
class 6, else 1, which takes a core 5/128 ns a byte (R343 to R346, R368). [DESIGN CHOICE: log entry 164] -/
def State.inlineRequest (s : State) (p cls len : Nat) : State :=
  let t := p / 8
  let u := if cls = 7 then 3 else if cls = 6 then 2 else 1
  let x := s.inlineCluster t
  let jobs := x.running.length + x.suspended.length + x.waiting.length
  let (y, suspends) := (InlineCluster.until s.now (jobs + 1) x).enter { urgency := u, left := 5 * len * nsTicks / 128 }
  let s1 := (s.setInline t y).bump (Od.requestsAtUrgency t u)
  if suspends then s1.bump (Od.suspensions t) else s1

/-! ### MACsec (R351 to R356) -/

/-- An SA no record describes. -/
def MacsecSa.fresh : MacsecSa :=
  { inUse := false, slot := 0, ssci := 0, pn := 1, salt := 0, thresholdLogged := false, exhaustedLogged := false }

/-- Key of an SA: port, channel (0, 1 transmit; 2 to 5 receive) and AN. -/
def saKey (p channel an : Nat) : Nat := 32 * p + 4 * channel + an

/-- An SA. -/
def State.sa (s : State) (p channel an : Nat) : MacsecSa := tblGet MacsecSa.fresh s.cipher.sas (saKey p channel an)

/-- Set an SA. -/
def State.setSa (s : State) (p channel an : Nat) (x : MacsecSa) : State :=
  { s with cipher := { s.cipher with sas := tblSet MacsecSa.fresh s.cipher.sas (saKey p channel an) x } }

/-- The fields of a 32-byte SA record: channel, AN, SA (R356). -/
def saOf (v : Nat) : Nat × Nat × MacsecSa :=
  (bitField v 255 248, bitField v 247 240,
   { inUse := bitOf v 239, slot := bitField v 223 208, ssci := bitField v 191 160, pn := bitField v 159 96,
     salt := bitField v 95 0, thresholdLogged := false, exhaustedLogged := false })

/-- The record of an SA, with the current PN (R356). -/
def saBits (channel an : Nat) (x : MacsecSa) : Nat :=
  channel * 2 ^ 248 + an * 2 ^ 240 + boolNat x.inUse * 2 ^ 239 + x.slot * 2 ^ 208 + x.ssci * 2 ^ 160
    + x.pn % 2 ^ 64 * 2 ^ 96 + x.salt

/-- MacsecSaTable as it reads: a record for each SA written. -/
def State.saTableRead (s : State) (p : Nat) : List Byte :=
  ((s.cipher.sas.filter (fun e => e.1 / 32 == p)).map (fun e =>
    beBytes 32 (saBits (e.1 / 4 % 8) (e.1 % 4) e.2))).flatten

/-- The suite is one of extended packet numbers. -/
def State.xpn (s : State) (p : Nat) : Bool := 3 ≤ s.rd (Od.cipherSuite p)

/-- An SA may carry frames under a loaded slot. -/
def State.saReady (s : State) (x : MacsecSa) : Bool := x.inUse && (s.keySlot x.slot).algorithm != 0

/-- Frames that use the uncontrolled port (R353), by destination and Ethertype. -/
def uncontrolled (da ethertype wall : Nat) : Bool :=
  ethertype == 0x8808 || da == 0x0180C200000E || ethertype == 0x888E || ethertype == wall

/-- The transmit channel of a class: its number, AN and port identifier (R353). -/
def State.txChannel (s : State) (p cls : Nat) : Nat × Nat × Nat :=
  if cls = 7 ∧ s.rdB (Od.ksEnable p) then (1, s.rd (Od.ksTxAn p), s.rd (Od.ksPortIdentifier p))
  else (0, s.rd (Od.txAn p), s.rd (Od.txPortIdentifier p))

/-- The GCM IV of a frame: SCI and PN, or SSCI and PN exclusive-ored with the salt (XPN).
[PRESUMED: log entry 65] -/
def macsecIv (xpn : Bool) (x : MacsecSa) (sci pn : Nat) : List Byte :=
  if xpn then xorBytes (beBytes 4 x.ssci ++ beBytes 8 pn) (beBytes 12 x.salt)
  else beBytes 8 sci ++ beBytes 4 pn

/-- Bytes a frame grows by when MACsec protects it on a port. -/
def State.macsecGrowth (s : State) (p : Nat) : Nat := if s.rdB (Od.includeSci p) then 32 else 24

/-- The protected form of a frame under an SA: SecTAG after the addresses, then data and ICV (R351).
[PRESUMED: log entry 65] -/
def State.seal (s : State) (p an sci : Nat) (x : MacsecSa) (bs : List Byte) : List Byte :=
  let off := s.rd (Od.confidentialityOffset p)
  let user := bs.drop 12
  let conf := off != 0xFF
  let sc := s.rdB (Od.includeSci p)
  let tci := boolNat sc * 32 + (if conf then 12 else 0) + an
  let sl := if user.length < 48 then user.length else 0
  let tag := beBytes 2 0x88E5 ++ [BitVec.ofNat 8 tci, BitVec.ofNat 8 sl] ++ beBytes 4 x.pn
    ++ (if sc then beBytes 8 sci else [])
  let clear := if conf then user.take off else user
  let key := (s.keySlot x.slot).key
  let iv := macsecIv (s.xpn p) x sci x.pn
  let secret := user.drop clear.length
  let ct := sized secret.length (Config.gcmCrypt true key iv secret)
  let head := bs.take 12 ++ tag ++ clear
  head ++ ct ++ sized 16 (Config.gcmTag key iv head ct)

/-- The last packet number of a suite. -/
def State.lastPn (s : State) (p : Nat) : Nat := if s.xpn p then 2 ^ 64 - 1 else 2 ^ 32 - 1

/-- MACsec can protect a frame of a class on a port now (R354). -/
def State.canProtect (s : State) (p cls : Nat) : Bool :=
  let (ch, an, _) := s.txChannel p cls
  s.rdB (Od.macsecEnable p) && s.saReady (s.sa p ch an) && (s.sa p ch an).pn ≤ s.lastPn p

/-- A PN has been sent under the key of a slot. -/
def State.usePn (s : State) (n pn : Nat) : State :=
  s.setKeySlot n { s.keySlot n with nextPn := max pn (s.keySlot n).nextPn }

/-- Protect a frame that MACsec can protect (R354): its PN is taken, and the threshold and the end of the PN space are
logged once. -/
def State.protect (s : State) (p cls : Nat) (bs : List Byte) : State × List Byte :=
  let (ch, an, ident) := s.txChannel p cls
  let x := s.sa p ch an
  let out := s.seal p an (Config.portMac p % 2 ^ 48 * 65536 + ident) x bs
  let pn := x.pn + 1
  let near := decide (s.rd (Od.pnThreshold p) * (s.lastPn p + 1) / 256 ≤ pn) && !x.thresholdLogged
  let ended := decide (s.lastPn p < pn) && !x.exhaustedLogged
  let s1 := (((s.setSa p ch an { x with pn := pn, thresholdLogged := x.thresholdLogged || near,
                                        exhaustedLogged := x.exhaustedLogged || ended }).bump
    (Od.macsecTxProtected p)).useSlot x.slot).usePn x.slot pn
  let s2 := if near then s1.raise 0x7A01 (saKey p ch an) else s1
  (if ended then s2.raise 0x7A02 (saKey p ch an) else s2, out)

/-- What validation of a received frame gives (R355). -/
inductive MacsecOut where
  | clear
  | valid (bytes : List Byte) (channel : Nat)
  | accepted
  | dropped
  /-- Not valid, but forwarded cut-through already: it ends with a bad FCS (R180). -/
  | failed (bytes : List Byte)
  deriving DecidableEq, Repr

/-- The 64-bit PN a received 32-bit PN stands for, from the lowest acceptable one (XPN). -/
def fullPn (xpn : Bool) (lowest pn : Nat) : Nat :=
  if !xpn then pn
  else
    let hi := lowest / 2 ^ 32
    if lowest % 2 ^ 32 ≥ 2 ^ 31 ∧ pn < 2 ^ 31 then (hi + 1) * 2 ^ 32 + pn else hi * 2 ^ 32 + pn

/-- The receive channel of an SCI: 2 to 5, or none (R353, R355). -/
def State.rxChannel (s : State) (p : Nat) (sci : Option Nat) : Option Nat :=
  match sci with
  | none => some 2
  | some v => ((List.range 4).find? (fun j => s.rd (Od.rxSci p j) == v)).map (· + 2)

/-- Validate a received frame that carries a SecTAG (R355). [PRESUMED: log entry 65] -/
def State.unseal (s : State) (p : Nat) (bs : List Byte) : State × MacsecOut :=
  let tci := beAt bs 14 1
  let pn32 := beAt bs 16 4
  let sc := bitOf tci 5
  let sci := if sc then some (beAt bs 20 8) else none
  let n := if sc then 28 else 20
  let short := beAt bs 15 1
  let size := if short = 0 then bs.length - n - 16 else short
  let bad := bs.length < n + size + 16 || bitOf tci 7 || (bitOf tci 2 && !bitOf tci 3) || decide (48 ≤ short)
  let an := tci % 4
  match s.rxChannel p sci with
  | none => (s.bump (Od.macsecRxNoSci p), .dropped)
  | some ch =>
    let x := s.sa p ch an
    let pn := fullPn (s.xpn p) x.pn pn32
    let late := s.rdB (Od.replayProtect p) && pn + s.rd (Od.replayWindow p) < x.pn
    let conf := bitOf tci 3
    let off := s.rd (Od.confidentialityOffset p)
    let body := slice bs n size
    let plain := if conf then body.take (if off = 0xFF then 0 else off) else body
    let ct := body.drop plain.length
    let key := (s.keySlot x.slot).key
    let iv := macsecIv (s.xpn p) x (sci.getD (s.rd (Od.rxSci p 0))) pn
    let good := !bad && sized 16 (Config.gcmTag key iv (bs.take n ++ plain) ct) == slice bs (n + size) 16
    let opened := bs.take 12 ++ plain ++ sized ct.length (Config.gcmCrypt false key iv ct)
    if !s.saReady x then (s.bump (Od.macsecRxNoSci p), .dropped)
    else if !good then
      if s.rd (Od.validateFrames p) = 1 ∧ !bad ∧ !conf then
        (s.bump (Od.macsecRxNotValid p), .accepted)
      else (s.bump (Od.macsecRxNotValid p), if s.mode = 2 ∧ !bad then .failed opened else .dropped)
    else if late then (s.bump (Od.macsecRxLate p), .dropped)
    else
      let s1 := ((s.setSa p ch an { x with pn := max x.pn (pn + 1) }).bump (Od.macsecRxOk p)).useSlot x.slot
      (s1, .valid opened ch)

/-- MACsec on receive (R353, R355): a frame without a SecTAG is dropped under Strict unless it uses the uncontrolled
port; in mode 4 what becomes of it is decided by its class after classification (R362). -/
def State.macsecRx (s : State) (p : Nat) (bs : List Byte) : State × MacsecOut :=
  if !s.rdB (Od.macsecEnable p) then (s, .clear)
  else if beAt bs 12 2 = 0x88E5 then s.unseal p bs
  else if uncontrolled (frameDa bs) (beAt bs 12 2) (s.rd Od.wallEthertype) then (s, .clear)
  else if s.mode = 4 then (s.bump (Od.macsecRxUntagged p), .clear)
  else if s.rd (Od.validateFrames p) = 2 then (s.bump (Od.macsecRxUntagged p), .dropped)
  else (s.bump (Od.macsecRxUntagged p), .clear)

/-- A port's inline cipher configuration is valid for mode 4 (R361). -/
def State.sealedValid (s : State) (p : Nat) : Bool :=
  s.rdB (Od.macsecEnable p) && s.rd (Od.validateFrames p) == 2
    && (List.range 4).any (fun an => s.saReady (s.sa p 0 an))
    && (List.range 16).any (fun k => s.saReady (s.sa p (2 + k / 4) (k % 4)))

/-- A class may pass in clear in mode 4 (R129, R362). -/
def State.sealedExempt (s : State) (cls : Nat) : Bool := bitOf (s.rd Od.sealedExemptClasses) cls

/-- A cleartext frame dropped in mode 4 (R362). -/
def State.sealedDrop (s : State) (p : Nat) : State := (s.bump (Od.sealedDrops p)).raiseLimited 0x7A04 p 1 p

/-! ### ESP (R357 to R359) -/

/-- The fields of an 88-byte ESP SA record, with its slot. -/
def espOf (bs : List Byte) : Nat × EspSa :=
  (beAt bs 0 2, { flags := beAt bs 2 1, templateLength := beAt bs 3 1, spi := beAt bs 4 4, sequence := beAt bs 8 8,
                  window := beAt bs 16 2, template := slice bs 24 64, seen := [] })

/-- The record of an ESP SA. -/
def espBytes (slot : Nat) (x : EspSa) : List Byte :=
  beBytes 2 slot ++ beBytes 1 x.flags ++ beBytes 1 x.templateLength ++ beBytes 4 x.spi ++ beBytes 8 x.sequence
    ++ beBytes 2 x.window ++ beBytes 6 0 ++ sized 64 x.template

/-- The SA attached to a slot. -/
def State.espSa (s : State) (slot : Nat) : Option EspSa :=
  (s.cipher.esp.find? (fun e => e.1 == slot)).map Prod.snd

/-- Set the SA of a slot. -/
def State.setEsp (s : State) (slot : Nat) (x : EspSa) : State :=
  { s with cipher := { s.cipher with esp := tblPut s.cipher.esp slot x } }

/-- The checksum field of an IPv4 header made right. -/
def ipv4Checksum (bs : List Byte) (o : Nat) : List Byte :=
  let ihl := beAt bs o 1 % 16
  let z := overlay bs (o + 10) (beBytes 2 0)
  overlay z (o + 10) (beBytes 2 (65535 - onesSum (slice z o (4 * ihl))))

/-- Set an IP header's length and protocol after its payload changed: `n` payload bytes after the header at `o`. -/
def ipRefit (bs : List Byte) (ip o hdr n proto : Nat) : List Byte :=
  if ip = 4 then ipv4Checksum (overlay (overlay bs (o + 2) (beBytes 2 (hdr + n))) (o + 9) (beBytes 1 proto)) o
  else overlay (overlay bs (o + 4) (beBytes 2 (hdr - 40 + n))) (o + 6) (beBytes 1 proto)

/-- What ESP decryption gives: the packet, or a drop that is counted, or a packet whose ICV failed with whatever its bytes
are, which in mode 2 may be on its way already (R180). -/
inductive EspOut where
  | opened (bytes : List Byte)
  | dropped
  | failed (bytes : List Byte)
  deriving DecidableEq, Repr

/-- The sequence number a received 32-bit number stands for, beside the highest received (RFC 4303). -/
def espFullSeq (esn : Bool) (high seq : Nat) : Nat :=
  if !esn then seq
  else
    let hi := high / 2 ^ 32
    if seq + 2 ^ 31 < high % 2 ^ 32 then (hi + 1) * 2 ^ 32 + seq else hi * 2 ^ 32 + seq

/-- The frame that an ESP payload's plaintext leaves (R358): header, trailer, padding and in tunnel mode the outer IP
header are gone. `esp` is where the ESP header stands. -/
def espInner (x : EspSa) (bs plain : List Byte) (k : Parsed) (l3 esp : Nat) : List Byte :=
  let next := beAt plain (plain.length - 1) 1
  let pad := beAt plain (plain.length - 2) 1
  let inner := plain.take (plain.length - 2 - pad)
  if bitOf x.flags 1 then
    overlay (bs.take l3) (l3 - 2) (beBytes 2 (if beAt inner 0 1 / 16 = 6 then 0x86DD else 0x0800)) ++ inner
  else
    let hdr := (if k.protocol = 17 then esp - 8 else esp) - l3
    ipRefit (bs.take (l3 + hdr) ++ inner) k.ip l3 hdr inner.length next

/-- Decrypt an ESP packet of a frame (R358). [PRESUMED: log entry 65] -/
def State.espDecrypt (s : State) (p slot : Nat) (bs : List Byte) (k : Parsed) : State × EspOut :=
  match s.espSa slot, k.l3, k.l4 with
  | some x, some l3, some l4 =>
    let esp := if k.protocol = 17 then l4 + 8 else l4
    let spi := beAt bs esp 4
    let n := if k.ip = 4 then beAt bs (l3 + 2) 2 else 40 + beAt bs (l3 + 4) 2
    let body := slice bs (esp + 8) (l3 + n - (esp + 8))
    let seq := espFullSeq (bitOf x.flags 2) x.sequence (beAt bs (esp + 4) 4)
    if spi ≠ x.spi then (s.bump (Od.espSpiMismatch p), .dropped)
    else if x.window ≠ 0 ∧ (x.seen.contains seq ∨ seq + x.window ≤ x.sequence) then (s.bump (Od.espReplay p), .dropped)
    else
      match Config.espOpen (s.keySlot slot).key (bitOf x.flags 4) spi seq body with
      | none => (s.useSlot slot, .failed (espInner x bs
          (Config.espUnverified (s.keySlot slot).key (bitOf x.flags 4) spi seq body) k l3 esp))
      | some plain =>
        let high := max x.sequence seq
        let s1 := (s.setEsp slot { x with sequence := high,
                                          seen := (seq :: x.seen).filter (fun q => high < q + x.window) }).useSlot slot
        (s1, .opened (espInner x bs plain k l3 esp))
  | _, _, _ => (s, .dropped)

/-- Encrypt an IP packet of a frame (R357, R359); `none` when the SA has stopped. [PRESUMED: log entry 65] -/
def State.espEncrypt (s : State) (p slot : Nat) (bs : List Byte) (k : Parsed) : State × Option (List Byte) :=
  match s.espSa slot, k.l3 with
  | some x, some l3 =>
    let last := if bitOf x.flags 2 then 2 ^ 64 - 1 else 2 ^ 32 - 1
    if last < x.sequence then (s.bump (Od.espSeqExhausted p), none)
    else
      let tunnel := bitOf x.flags 1
      let l4 := k.l4.getD (l3 + (if k.ip = 6 then 40 else 20))
      let n := if k.ip = 4 then beAt bs (l3 + 2) 2 else 40 + beAt bs (l3 + 4) 2
      let data := if tunnel then slice bs l3 n else slice bs l4 (l3 + n - l4)
      let next := if tunnel then (if k.ip = 6 then 41 else 4) else k.protocol
      let pad := (4 - (data.length + 2) % 4) % 4
      let padded := data ++ (List.range pad).map (fun i => BitVec.ofNat 8 (i + 1)) ++ beBytes 1 pad ++ beBytes 1 next
      let sealed := sized (padded.length + 24)
        (Config.espSeal (s.keySlot slot).key (bitOf x.flags 4) x.spi x.sequence padded)
      let esp := beBytes 4 x.spi ++ beBytes 4 (x.sequence % 2 ^ 32) ++ sealed
      let udp := bitOf x.flags 3
      let s1 := (s.setEsp slot { x with sequence := x.sequence + 1 }).useSlot slot
      if tunnel then
        let tmpl := x.template.take x.templateLength
        let v6 := beAt tmpl 0 1 / 16 == 6
        let hdr := if v6 then 40 else 4 * (beAt tmpl 0 1 % 16)
        let tail := tmpl.drop hdr
        let tail' := if udp then overlay tail 4 (beBytes 2 (esp.length + 8)) else tail
        let eth := overlay (bs.take l3) (l3 - 2) (beBytes 2 (if v6 then 0x86DD else 0x0800))
        (s1, some (ipRefit (eth ++ tmpl.take hdr ++ tail' ++ esp) (if v6 then 6 else 4) l3 hdr
          (tail'.length + esp.length) (if udp then 17 else 50)))
      else
        let encap := if udp then beBytes 2 4500 ++ beBytes 2 4500 ++ beBytes 2 (esp.length + 8) ++ beBytes 2 0 else []
        (s1, some (ipRefit (bs.take l4 ++ encap ++ esp) k.ip l3 (l4 - l3) (encap.length + esp.length)
          (if udp then 17 else 50)))
  | _, _ => (s, none)

/-! ### IEC 62351-6 (R360) -/

/-- The authentication record of a slot: TagBytes and KeyId. -/
def State.authRecord (s : State) (slot : Nat) : Option (Nat × Nat) :=
  (s.cipher.auth.find? (fun e => e.1 == slot)).map Prod.snd

/-- A verification failed (R360): counted and logged. -/
def State.verifyFailed (s : State) (p : Nat) : State := (s.bump (Od.cipherVerifyFailures p)).raiseLimited 0x7A03 p 1 p

/-- The frame's authentication extension is good under the slot's record. -/
def State.authOk (s : State) (slot : Nat) (bs : List Byte) : Bool :=
  match s.authRecord slot with
  | some (n, id) => Config.authGood (s.keySlot slot).key id n bs
  | none => false

/-- The frame signed under the slot's record; it grows by at most 24 bytes. -/
def State.authSigned (s : State) (slot : Nat) (bs : List Byte) : List Byte :=
  match s.authRecord slot with
  | some (n, id) => (Config.authSign (s.keySlot slot).key id n bs).take (bs.length + 24)
  | none => bs

end Sys2Proof.Machine
end

