-- ==== Sys2Proof/Machine/Classify.lean ====
section
/-! DEFINITION. Machine/Classify.lean: ternary and exact-match tables, rule actions, epochs, exceptions (chapter "Parsing
and classification", R266 to R285), and policers (R334 to R338). -/

namespace Sys2Proof.Machine

/-! ### The action record (R273, R274) -/

/-- The fields of an action record. -/
structure Action where
  disposition : Nat
  setClass : Bool
  cls : Nat
  setPcp : Bool
  pcp : Nat
  setDscp : Bool
  dscp : Nat
  forwardKind : Nat
  forwardDest : Nat
  policerEnable : Bool
  policerIndex : Nat
  mirrorMask : Nat
  streamEnable : Bool
  streamIndex : Nat
  cipherAction : Nat
  keySlot : Nat
  trowelEnable : Bool
  trowelEntry : Nat
  frameLimit : Nat
  overflowAction : Nat
  exactEnable : Bool
  exactTable : Nat
  metaValue : Nat
  deriving DecidableEq, Repr

/-- The action a 256-bit record spells. -/
def actionOf (v : Nat) : Action :=
  { disposition := bitField v 255 254, setClass := bitOf v 253, cls := bitField v 252 250, setPcp := bitOf v 249,
    pcp := bitField v 248 246, setDscp := bitOf v 245, dscp := bitField v 244 239, forwardKind := bitField v 238 237,
    forwardDest := bitField v 236 205, policerEnable := bitOf v 204, policerIndex := bitField v 203 188,
    mirrorMask := bitField v 187 180, streamEnable := bitOf v 179, streamIndex := bitField v 178 166,
    cipherAction := bitField v 165 163, keySlot := bitField v 162 147, trowelEnable := bitOf v 146,
    trowelEntry := bitField v 145 138, frameLimit := bitField v 137 128, overflowAction := bitField v 127 126,
    exactEnable := bitOf v 125, exactTable := bitField v 124 121, metaValue := bitField v 120 105 }

/-- The action of a frame that no rule matches: continue. -/
def actionNone : Action := actionOf 0

/-- An exact-match action merged into the ternary one (R274). -/
def Action.merge (t x : Action) : Action :=
  { disposition := if x.disposition ≠ 0 then x.disposition else t.disposition
    setClass := t.setClass || x.setClass
    cls := if x.setClass then x.cls else t.cls
    setPcp := t.setPcp || x.setPcp
    pcp := if x.setPcp then x.pcp else t.pcp
    setDscp := t.setDscp || x.setDscp
    dscp := if x.setDscp then x.dscp else t.dscp
    forwardKind := if x.forwardKind ≠ 0 then x.forwardKind else t.forwardKind
    forwardDest := if x.forwardKind ≠ 0 then x.forwardDest else t.forwardDest
    policerEnable := t.policerEnable || x.policerEnable
    policerIndex := if x.policerEnable then x.policerIndex else t.policerIndex
    mirrorMask := t.mirrorMask ||| x.mirrorMask
    streamEnable := t.streamEnable || x.streamEnable
    streamIndex := if x.streamEnable then x.streamIndex else t.streamIndex
    cipherAction := if x.cipherAction ≠ 0 then x.cipherAction else t.cipherAction
    keySlot := if x.cipherAction ≠ 0 then x.keySlot else t.keySlot
    trowelEnable := t.trowelEnable || x.trowelEnable
    trowelEntry := if x.trowelEnable then x.trowelEntry else t.trowelEntry
    frameLimit := if x.trowelEnable then x.frameLimit else t.frameLimit
    overflowAction := if x.trowelEnable then x.overflowAction else t.overflowAction
    exactEnable := t.exactEnable
    exactTable := t.exactTable
    metaValue := if x.metaValue ≠ 0 then x.metaValue else t.metaValue }

/-! ### Ternary tables (R266 to R268) -/

/-- A tile's empty partitions. -/
def Ternary.fresh : Ternary := { ingress := [], egress := [], epoch := 0, staged := false, flipped := none }

/-- A tile's partitions. -/
def State.ternary (s : State) (t : Nat) : Ternary := tblGet Ternary.fresh s.classify.ternary t

/-- Set a tile's partitions. -/
def State.setTernary (s : State) (t : Nat) (x : Ternary) : State :=
  { s with classify.ternary := tblSet Ternary.fresh s.classify.ternary t x }

/-- The entries of a pipeline: 0 ingress, 1 egress. -/
def Ternary.pipe (x : Ternary) (n : Nat) : List Rule := if n = 0 then x.ingress else x.egress

/-- Replace the entries of a pipeline. -/
def Ternary.setPipe (x : Ternary) (n : Nat) (l : List Rule) : Ternary :=
  if n = 0 then { x with ingress := l } else { x with egress := l }

/-- The rule matches a key in an epoch. -/
def Rule.matches (e key : Nat) (r : Rule) : Bool := bitOf r.live e && ((key ^^^ r.key) &&& r.mask) == 0

/-- The better of two matching rules: higher priority, then lower entry index (R266). -/
def Rule.better (a b : Rule) : Bool := a.priority > b.priority || (a.priority == b.priority && a.index < b.index)

/-- The best of a list of rules. -/
def bestRule (l : List Rule) : Option Rule :=
  l.foldl (fun b r => match b with | none => some r | some x => if r.better x then some r else some x) none

/-- The deciding rule (R266, R267): the Keystone region first, entries below KeystoneEntries; a frame of class 7
consults only that region. -/
def State.lookup (s : State) (t pipeline key : Nat) (seven : Bool) : Option Rule :=
  let x := s.ternary t
  let m := (x.pipe pipeline).filter (Rule.matches x.epoch key)
  let edge := s.rd (Od.keystoneEntries t)
  match bestRule (m.filter (fun r => r.index < edge)) with
  | some r => some r
  | none => if seven then none else bestRule (m.filter (fun r => edge ≤ r.index))

/-- A TernaryUpdate record (R268). -/
structure TernaryOp where
  op : Nat
  pipeline : Nat
  priority : Nat
  id : Nat
  key : Nat
  mask : Nat
  action : Nat
  deriving DecidableEq, Repr

/-- The record 208 bytes spell. -/
def ternaryOpOf (bs : List Byte) : TernaryOp :=
  { op := beAt bs 0 1, pipeline := beAt bs 1 1, priority := beAt bs 2 2, id := beAt bs 4 4, key := beAt bs 16 80,
    mask := beAt bs 96 80, action := beAt bs 176 32 / 2 ^ 105 * 2 ^ 105 }

/-- The 208 bytes of a record. -/
def TernaryOp.bytes (o : TernaryOp) : List Byte :=
  beBytes 1 o.op ++ beBytes 1 o.pipeline ++ beBytes 2 o.priority ++ beBytes 4 o.id ++ beBytes 8 0 ++ beBytes 80 o.key
    ++ beBytes 80 o.mask ++ beBytes 32 o.action

/-- The first free entry index of a region (R266): below `edge` for the Keystone region, from it for ordinary rules. -/
def freeIndex (l : List Rule) (edge : Nat) (keystone : Bool) : Option Nat :=
  let used := l.map Rule.index
  (if keystone then List.range edge else (List.range (1024 - edge)).map (· + edge)).find? (fun i => !used.contains i)

/-- Stage one record under the other epoch (R278); `none` when it finds no free entry. A delete takes the rule from the
pipeline that holds it. [DESIGN CHOICE: log entry 104] -/
def Ternary.stageOp (edge : Nat) (keystone : Bool) (x : Ternary) (o : TernaryOp) : Option Ternary :=
  let l := x.pipe o.pipeline
  let other := 1 - x.epoch
  let retire (l : List Rule) : List Rule :=
    l.map (fun r => if r.id = o.id ∧ o.op ≥ 2 then { r with live := withBit' r.live other } else r)
  let retired := retire l
  if o.op = 3 then some { x with ingress := retire x.ingress, egress := retire x.egress }
  else match freeIndex l edge keystone with
  | none => none
  | some i => some (x.setPipe o.pipeline (retired ++
      [{ index := i, id := o.id, priority := o.priority, key := o.key, mask := o.mask, action := o.action,
         live := 2 ^ other }]))
where
  /-- The Live bits with one cleared. -/
  withBit' (live n : Nat) : Nat := if bitOf live n then live - 2 ^ n else live

/-- Stage a set. -/
def Ternary.stage (edge : Nat) (keystone : Bool) : Ternary → List TernaryOp → Option Ternary
  | x, [] => some { x with staged := true }
  | x, o :: os => match x.stageOp edge keystone o with
    | none => none
    | some y => Ternary.stage edge keystone y os

/-- Take a staged set back (a commit that is discarded): entries of the other epoch alone are freed and live ones are
live in both again. -/
def Ternary.unstage (x : Ternary) : Ternary :=
  let f (l : List Rule) := (l.filter (fun r => bitOf r.live x.epoch)).map (fun r => { r with live := 3 })
  if x.staged then { x with ingress := f x.ingress, egress := f x.egress, staged := false } else x

/-- Cleanup (R280): entries live only in the old epoch are freed, the others are live in both. -/
def Ternary.cleanup (x : Ternary) : Ternary :=
  let f (l : List Rule) := (l.filter (fun r => bitOf r.live x.epoch)).map (fun r => { r with live := 3 })
  { x with ingress := f x.ingress, egress := f x.egress, flipped := none }

/-- The partitions as a set that applies meets them: no other set staged, and the last one cleaned up (R280). -/
def Ternary.ready (x : Ternary) : Ternary := if x.flipped.isSome then x.unstage.cleanup else x.unstage

/-- Courses from a flip to its cleanup (R280). -/
def State.cleanupCourses (s : State) : Nat := max 1 (ceilDiv 3000 s.len)

/-- A cleanup awaited since a flip at the beginning of course `c` is due. -/
def State.cleanupDue (s : State) (flipped : Option Nat) : Bool :=
  match flipped with | some c => c + s.cleanupCourses ≤ s.course | none => false

/-- A rule's counters. -/
def RuleCount.zero : RuleCount := { frames := 0, bytes := 0, overflow := 0 }

/-- Count a frame of `n` bytes under a rule (R281). -/
def State.countRule (s : State) (t id n : Nat) : State :=
  let k := t * 2 ^ 32 + id
  let c := tblGet RuleCount.zero s.classify.counts k
  { s with classify.counts := tblPut s.classify.counts k { c with frames := c.frames + 1, bytes := c.bytes + n } }

/-- Count a frame beyond a rule's limit (R276). -/
def State.countOverflow (s : State) (t id : Nat) : State :=
  let k := t * 2 ^ 32 + id
  let c := tblGet RuleCount.zero s.classify.counts k
  let counts := tblPut s.classify.counts k { c with overflow := c.overflow + 1 }
  ({ s with classify.counts := counts }).raiseLimited 0x5A02 k 1 id

/-- The flip of a tile's epoch in step 9 (R279, R281): a rule inserted anew has its counters set to 0. -/
def State.flipTernary (s : State) (t : Nat) (ops : List TernaryOp) : State :=
  let x := s.ternary t
  let s1 := s.setTernary t { x with epoch := 1 - x.epoch, staged := false, flipped := some s.course }
  let counts := (ops.filter (fun o => o.op == 1)).foldl (fun c o => tblPut c (t * 2 ^ 32 + o.id) RuleCount.zero)
    s1.classify.counts
  { s1 with classify.counts := counts }

/-- RuleCounters as it reads: 32-byte records (R287). -/
def State.ruleCountersRead (s : State) (t : Nat) : List Byte :=
  ((s.classify.counts.filter (fun e => e.1 / 2 ^ 32 == t)).map (fun e =>
    beBytes 4 (e.1 % 2 ^ 32) ++ beBytes 4 0 ++ beBytes 8 e.2.frames ++ beBytes 8 e.2.bytes
      ++ beBytes 8 e.2.overflow)).flatten

/-- TernaryQuery's answer (R286): the record of the version in force, its entry index and Live, of either pipeline. -/
def State.ternaryQueryRead (s : State) (t id : Nat) : List Byte :=
  let x := s.ternary t
  let mine (n : Nat) := (x.pipe n).find? (fun r => r.id == id && bitOf r.live x.epoch)
  let show_ (n : Nat) (r : Rule) : List Byte :=
    TernaryOp.bytes { op := 1, pipeline := n, priority := r.priority, id := r.id, key := r.key, mask := r.mask,
                      action := r.action } ++ beBytes 2 r.index ++ beBytes 1 r.live
  match mine 0, mine 1 with
  | some r, _ => show_ 0 r
  | none, some r => show_ 1 r
  | none, none => []

/-! ### Exact-match tables (R269 to R272, R278 to R281) -/

/-- A table without entries. -/
def Exact.fresh : Exact := { entries := [], epoch := 0, staged := false, flipped := none }

/-- A table. -/
def State.exact (s : State) (x : Nat) : Exact := tblGet Exact.fresh s.classify.exact x

/-- Set a table. -/
def State.setExact (s : State) (x : Nat) (e : Exact) : State :=
  { s with classify.exact := tblSet Exact.fresh s.classify.exact x e }

/-- Selectors of a key profile: start bit and width (R286). [DESIGN CHOICE: log entry 37] -/
def selectorsOf (bs : List Byte) : List (Nat × Nat) :=
  (recordsOf 4 bs).map (fun r => let v := beNat r; (bitField v 31 22, bitField v 21 13))

/-- The 256-bit key a profile makes from a 640-bit key (R269): selector 0 in the most significant bits, each field
naming its start bit and the `width` bits from it downwards. [DESIGN CHOICE: log entry 37] -/
def profileKey (sel : List (Nat × Nat)) (key : Nat) : Nat :=
  let total := (sel.map Prod.snd).sum
  let v := sel.foldl (fun a e => a * 2 ^ e.2 + (if e.2 = 0 then 0 else bitField key e.1 (e.1 + 1 - e.2))) 0
  v * 2 ^ (256 - total)

/-- The two candidate buckets of a key in a table of capacity n (R270). -/
def exactBuckets (x capacity key : Nat) : Nat × Nat :=
  let bs := beBytes 1 x ++ beBytes 32 key
  (crc32c bs % (capacity / 4), crc32 bs % (capacity / 4))

/-- An ExactUpdate record: op, table, key, action. -/
structure ExactOp where
  op : Nat
  table : Nat
  key : Nat
  action : Nat
  deriving DecidableEq, Repr

/-- The record 72 bytes spell. -/
def exactOpOf (bs : List Byte) : ExactOp :=
  { op := beAt bs 0 1, table := beAt bs 1 1, key := beAt bs 8 32, action := beAt bs 40 32 / 2 ^ 105 * 2 ^ 105 }

/-- The 72 bytes of a record. -/
def ExactOp.bytes (o : ExactOp) : List Byte :=
  beBytes 1 o.op ++ beBytes 1 o.table ++ beBytes 6 0 ++ beBytes 32 o.key ++ beBytes 32 o.action

/-- Stage one record (R270, R278); `none` when both buckets are full. -/
def Exact.stageOp (capacity : Nat) (e : Exact) (o : ExactOp) : Option Exact :=
  let other := 1 - e.epoch
  let retired := e.entries.map (fun y => if y.key = o.key then { y with live := Ternary.stageOp.withBit' y.live other }
    else y)
  if o.op = 2 then some { e with entries := retired }
  else
    let (a, b) := exactBuckets o.table capacity o.key
    let used (n : Nat) : Nat := (e.entries.filter (fun y => y.bucket == n)).length
    let place (n : Nat) : Exact := { e with entries := retired ++
      [{ key := o.key, action := o.action, bucket := n, live := 2 ^ other, hit := false }] }
    if used a < 4 then some (place a) else if used b < 4 then some (place b) else none

/-- Stage a set. -/
def Exact.stage (capacity : Nat) : Exact → List ExactOp → Option Exact
  | e, [] => some { e with staged := true }
  | e, o :: os => match e.stageOp capacity o with
    | none => none
    | some y => Exact.stage capacity y os

/-- Take a staged set back. -/
def Exact.unstage (e : Exact) : Exact :=
  if e.staged then { e with staged := false, entries :=
    (e.entries.filter (fun y => bitOf y.live e.epoch)).map (fun y => { y with live := 3 }) } else e

/-- Cleanup of a table (R280). -/
def Exact.cleanup (e : Exact) : Exact :=
  { e with flipped := none, entries :=
    (e.entries.filter (fun y => bitOf y.live e.epoch)).map (fun y => { y with live := 3 }) }

/-- The table as a set that applies meets it. -/
def Exact.ready (e : Exact) : Exact := if e.flipped.isSome then e.unstage.cleanup else e.unstage

/-- The entry stands in the newest set of its table. -/
def Exact.holds (e : Exact) (y : ExactEntry) : Bool := bitOf y.live (if e.staged then 1 - e.epoch else e.epoch)

/-- The flip of a table's epoch (R279). -/
def State.flipExact (s : State) (x : Nat) : State :=
  let e := s.exact x
  s.setExact x { e with epoch := 1 - e.epoch, staged := false, flipped := some s.course }

/-- EPOCH_CLEANUP (R280): of a tile's ternary partition, or of an exact-match table. -/
def execEpochCleanup (exact : Bool) (n : Fin 32) (s : State) : Res :=
  .next (if exact then
      (if s.cleanupDue (s.exact n).flipped then s.setExact n (s.exact n).cleanup else s)
    else (if s.cleanupDue (s.ternary n).flipped then s.setTernary n (s.ternary n).cleanup else s))

/-- Lookups per µs of an ingress pipeline (R271). -/
def exactRate (mode : Nat) : Nat := [3, 9, 3, 1, 3, 2].getD mode 0

/-- Credit gained in a course, in 1/1,000 of a lookup (R271). -/
def State.exactGain (s : State) : Nat := exactRate s.mode * s.len

/-- Credit at a boundary (R271). [DESIGN CHOICE: log entry 38] -/
def State.exactCredit (s : State) : State :=
  forEach (List.range 32) (fun t s =>
    let c := min (tblGet 0 s.classify.credit t + s.exactGain) (max 8000 s.exactGain)
    { s with classify.credit := tblSet 0 s.classify.credit t c }) s

/-- An exact-match lookup of a pipeline (R271, R274, R281): the action on a hit. -/
def State.exactLookup (s : State) (t x key : Nat) : State × Option Action :=
  let c := tblGet 0 s.classify.credit t
  if c < 1000 then (((s.bump (Od.exactOverrun x)).bump (Od.misses x)).raiseLimited 0x5A0A x 1 x, none)
  else
    let k := profileKey (selectorsOf (s.dom (Od.exactKeyProfile x))) key
    let s1 := { s with classify.credit := tblSet 0 s.classify.credit t (c - 1000) }.hbmRequest t 1 (k % 2 ^ 64)
    let e := s1.exact x
    match e.entries.find? (fun y => y.key == k && bitOf y.live e.epoch) with
    | none => (s1.bump (Od.misses x), none)
    | some y =>
      ((s1.setExact x { e with entries := e.entries.map (fun z => if z.key = k then { z with hit := true } else z) }).bump
        (Od.hits x), some (actionOf y.action))

/-- ExactQuery's answer (R286): the 64-byte entry, or zeros (Valid 0). -/
def State.exactQueryRead (s : State) (x key : Nat) : List Byte :=
  let e := s.exact x
  match e.entries.find? (fun y => y.key == key && bitOf y.live e.epoch) with
  | some y => [1] ++ beBytes 32 y.key ++ beBytes 32 y.action
  | none => [0] ++ beBytes 64 0

/-- ExactSweep's answer (R281, R232): key and Hit of each entry of a range of buckets; the bits are cleared. -/
def State.exactSweepRead (s : State) (x first count : Nat) : State × List Byte :=
  let e := s.exact x
  let mine (y : ExactEntry) : Bool := bitOf y.live e.epoch && first ≤ y.bucket && y.bucket < first + count
  (s.setExact x { e with entries := e.entries.map (fun y => if mine y then { y with hit := false } else y) },
   ((e.entries.filter mine).map (fun y => beBytes 32 y.key ++ [BitVec.ofNat 8 (boolNat y.hit)])).flatten)

/-! ### Exceptions (R283, R284) -/

/-- The tokens of a tile's reason at a boundary (R284). [DESIGN CHOICE: log entry 38] -/
def State.exceptionTokens (s : State) : State :=
  forEach (List.range 256) (fun k s =>
    let t := k / 8
    let cap := s.rd (Od.exceptionBurst t) * 65536
    let gain := s.rd (Od.exceptionRate t (k % 8)) * s.len * 65536 / 1000000000
    { s with classify.tokens := tblSet 0 s.classify.tokens k (min cap (tblGet 0 s.classify.tokens k + gain)) }) s

/-- The exception header (R283). -/
def exceptionHeader (reason port : Nat) (egress : Bool) (rule stamp : Nat) : Nat :=
  reason * 2 ^ 120 + port % 256 * 2 ^ 112 + boolNat egress * 2 ^ 111 + rule % 2 ^ 32 * 2 ^ 64 + ts64 stamp

/-- Send a frame to the tile's ExceptionDest under a reason, when it has a token (R283, R284); with no destination
named nothing is sent. -/
def State.exception (s : State) (t reason port : Nat) (egress : Bool) (f : Frame) : State :=
  let k := 8 * t + (reason - 1)
  let dest := s.rd (Od.exceptionDest t)
  let c := tblGet 0 s.classify.tokens k
  if dest / 2 ^ 30 = 3 then s
  else if c < 65536 then
    (s.bump (Od.exceptionRateDrops t (reason - 1))).raiseLimited 0x5A01 k 1 k
  else
    let s1 := ({ s with classify.tokens := tblSet 0 s.classify.tokens k (c - 65536) }).bump
      (Od.exceptionSent t (reason - 1))
    let (s2, id) := s1.newFrame
    s2.send { f with id := id, cls := 0, launch := none, stream := none, completion := none, tsw := [], red := none,
                     exc := some (exceptionHeader reason port egress f.ruleId f.stamp) } (.queue dest)

/-! ### Policers (R334 to R338) -/

/-- The fields of a 256-bit policer entry. [DEDUCED: log entry 27] -/
def policerEntryOf (v : Nat) : PolicerEntry :=
  { kind := bitField v 255 254, colourAware := bitOf v 253, yellowAction := bitField v 252 251,
    redAction := bitField v 250 249, yellowClass := bitField v 248 246, overhead := toSigned 7 (bitField v 245 239),
    cir := bitField v 223 192, pirEir := bitField v 191 160, cbs := bitField v 159 128, pbsEbs := bitField v 127 96 }

/-- The 256 bits of an entry. -/
def PolicerEntry.bits (e : PolicerEntry) : Nat :=
  e.kind * 2 ^ 254 + boolNat e.colourAware * 2 ^ 253 + e.yellowAction * 2 ^ 251 + e.redAction * 2 ^ 249
    + e.yellowClass * 2 ^ 246 + ofSigned 7 e.overhead * 2 ^ 239 + e.cir * 2 ^ 192 + e.pirEir * 2 ^ 160
    + e.cbs * 2 ^ 128 + e.pbsEbs * 2 ^ 96

/-- A policer that no record describes: off. -/
def Policer.fresh : Policer :=
  { entry := { kind := 0, colourAware := false, yellowAction := 0, redAction := 0, yellowClass := 0, overhead := 20,
               cir := 0, pirEir := 0, cbs := 0, pbsEbs := 0 }
    c := 0, p := 0, cRem := 0, pRem := 0, counts := [0, 0, 0, 0, 0, 0], owed := [] }

/-- The rest of a frame is taken from the buckets it was charged to, which fall no lower than −16,128 bytes (R336).
[DESIGN CHOICE: log entry 41] -/
def Policer.settle (x : Policer) (o : Owed) : Policer :=
  let low (v : Int) : Int := max (v - o.rest * 65536) (min v (-16128 * 65536))
  { x with c := if o.fromC then low x.c else x.c, p := if o.fromP then low x.p else x.p }

/-- What is owed for frames that have ended by an instant is taken (R336). -/
def Policer.upTo (t : Nat) (x : Policer) : Policer :=
  (x.owed.filter (fun o => o.due ≤ t)).foldl Policer.settle { x with owed := x.owed.filter (fun o => t < o.due) }

/-- A policer as it stands at the present instant. -/
def State.policer (s : State) (i : Nat) : Policer := (tblGet Policer.fresh s.switch.policers i).upTo s.now

/-- Set a policer. -/
def State.setPolicer (s : State) (i : Nat) (x : Policer) : State :=
  { s with switch := { s.switch with policers := tblSet Policer.fresh s.switch.policers i x } }

/-- The exact gain of a rate over a course in 2^-16 byte, with the remainder carried in 1/8,000,000 of it (R322,
R335). -/
def rateGain (kbps len rem : Nat) : Nat × Nat :=
  let n := kbps * len * 65536 + rem
  (n / 8000000, n % 8000000)

/-- The size of a bucket: the burst or the gain per course, whichever is greater (R335), in 2^-16 byte. -/
def bucketSize (burst kbps len : Nat) : Int := ((max (burst * 65536) (kbps * len * 65536 / 8000000) : Nat) : Int)

/-- A policer's buckets at a boundary (R335). -/
def Policer.refill (len : Nat) (x : Policer) : Policer :=
  let e := x.entry
  let (g, r) := rateGain e.cir len x.cRem
  let capC := bucketSize e.cbs e.cir len
  if e.kind = 1 then
    let c := x.c + (g : Int)
    { x with c := min c capC, cRem := r, p := min (x.p + max 0 (c - capC)) (bucketSize e.pbsEbs e.cir len) }
  else if e.kind = 2 then
    let (gp, rp) := rateGain e.pirEir len x.pRem
    { x with c := min (x.c + (g : Int)) capC, cRem := r, p := min (x.p + (gp : Int)) (bucketSize e.pbsEbs e.pirEir len),
             pRem := rp }
  else x

/-- A policer's configuration applies with full buckets (R335, R338); its counters go on. -/
def Policer.configured (e : PolicerEntry) (len : Nat) (x : Policer) : Policer :=
  { x with entry := e, c := bucketSize e.cbs e.cir len, cRem := 0, pRem := 0,
           p := bucketSize e.pbsEbs (if e.kind = 2 then e.pirEir else e.cir) len }

/-- The colour of a frame of `b` bytes (0 green, 1 yellow, 2 red) and the policer after it (R336; RFC 2697, RFC 2698). -/
def Policer.test (x : Policer) (b : Int) (dei : Bool) : Nat × Policer :=
  let e := x.entry
  let n : Int := b * 65536
  let yellowIn := e.colourAware && dei
  if e.kind = 1 then
    if !yellowIn && x.c ≥ n then (0, { x with c := x.c - n })
    else if x.p ≥ n then (1, { x with p := x.p - n })
    else (2, x)
  else if e.kind = 2 then
    if x.p < n then (2, x)
    else if yellowIn || x.c < n then (1, { x with p := x.p - n })
    else (0, { x with c := x.c - n, p := x.p - n })
  else (0, x)

/-- Count a frame and its bytes under a colour (R337). -/
def Policer.count (colour : Nat) (b : Int) (x : Policer) : Policer :=
  { x with counts := (List.range 6).map (fun k =>
      let v := x.counts.getD k 0
      if k = 2 * colour then v + 1 else if k = 2 * colour + 1 then v + b.toNat else v) }

/-- The buckets that a frame of unknown length was charged to owe the rest of it when it ends (R336).
[DESIGN CHOICE: log entry 41] -/
def Policer.owing (x before : Policer) (due rest : Nat) : Policer :=
  if rest = 0 ∨ (x.c = before.c ∧ x.p = before.p) then x
  else { x with owed := x.owed ++ [{ due := due, rest := rest, fromC := x.c != before.c, fromP := x.p != before.p }] }

/-- What a policer does with a frame of `len` bytes (R336, R337): dropped, or passed with its DEI and class. A length
not known at the test counts as 256 bytes there, and the rest is taken at the instant the frame ends, `due`.
[DESIGN CHOICE: log entry 41] -/
def State.police (s : State) (i len due : Nat) (known dei : Bool) (cls : Nat) : State × Option (Bool × Nat) :=
  let x := s.policer i
  let e := x.entry
  let tested : Nat := if known then len else min len 256
  let (colour, y) := x.test ((tested : Int) + e.overhead) dei
  let z := (y.owing x due (len - tested)).count colour ((len : Int) + e.overhead)
  (s.setPolicer i z,
    if colour = 0 then some (dei, cls)
    else if colour = 1 then
      match e.yellowAction with
      | 0 => some (dei, cls)
      | 1 => some (true, cls)
      | 2 => none
      | _ => some (dei, e.yellowClass)
    else
      match e.redAction with
      | 0 => none
      | 1 => some (true, cls)
      | _ => some (dei, cls))

/-- PolicerQuery's answer (R340): the entry and both bucket levels as I64 in 2^-16 byte. -/
def State.policerQueryRead (s : State) (i : Nat) : List Byte :=
  let x := s.policer i
  beBytes 32 x.entry.bits ++ beBytes 8 (ofSigned 64 x.c) ++ beBytes 8 (ofSigned 64 x.p)

/-- PolicerCounters as it reads: 48-byte records of the tile's policers (R341). -/
def State.policerCountersRead (s : State) (t : Nat) : List Byte :=
  ((List.range 2048).map (fun i => ((s.policer (2048 * t + i)).counts.map (beBytes 8)).flatten)).flatten

end Sys2Proof.Machine
end

