-- ==== Sys2Proof/Machine/Forwarding.lean ====
section
/-! DEFINITION. Machine/Forwarding.lean: forwarding results, learning, the Wall, and PRP and HSR duplicate discard
(chapter "Forwarding tables, learning and the Wall", R222 to R251). -/

namespace Sys2Proof.Machine

/-! ### Records sent to a queue -/

/-- A frame made of these bytes, from no port. -/
def Frame.plain (id : Nat) (bytes : List Byte) (stamp course : Nat) : Frame :=
  { id := id, src := 0x400, bytes := bytes, cls := 0, stamp := stamp, course := course, bad := false, inline := false,
    launch := none, stream := none, admitted := 0, mirror := false, metaValue := 0, ruleId := 0xFFFFFFFF, vid := 0,
    dei := false, completion := none, tsw := [], pcp := 0, tagged := false, red := none, decrypted := false, macsec := false, arrival := none,
    protected_ := false, exc := none, cut := false, roce := none,
    acct := 0, lastAt := stamp, place := 0 }

/-- The queue a Dest names is none, or a core's whose compute tile (R50) or a host's whose host tile (R381) has no bricks
for `n` bytes more. -/
def destFull (s : State) (dest n : Nat) : Bool :=
  dest / 2 ^ 30 == 3 || (dest / 2 ^ 30 ≤ 1 && !s.hostRoom dest (ceilDiv n 256) 0) || (dest / 2 ^ 30 == 2 && s.poolFree (0x20 + dest % 2 ^ 30 / 6) < ceilDiv n 256 + 64)

/-- Send a record to a queue in the encoding of Dest; false when the queue is none or full. -/
def State.sendRecord (s : State) (dest : Nat) (bytes : List Byte) : State × Bool :=
  if destFull s dest (bytes.length + 4) then (s, false)
  else
    let (s1, id) := s.newFrame
    let f := Frame.plain id bytes s.now s.course
    ((s1.holdCopy f).toQueue dest f false none, true)

/-! ### Redundancy pairs (R250) -/

/-- The pair a port belongs to. -/
def State.pairOf (s : State) (p : Nat) : Option Nat :=
  (List.range 64).find? (fun r => s.rd (Od.redMode r) != 0 && (s.rd (Od.portA r) == p || s.rd (Od.portB r) == p))

/-- Forwarding treats the pair as port A. -/
def State.asPairA (s : State) (p : Nat) : Nat :=
  match s.pairOf p with | some r => s.rd (Od.portA r) | none => p

/-- The ports a port stands for: both of its pair, or itself. -/
def State.pairPorts (s : State) (p : Nat) : List Nat :=
  match s.pairOf p with | some r => [s.rd (Od.portA r), s.rd (Od.portB r)] | none => [p]

/-- Ports of a list with each pair brought in whole, each port once. -/
def State.withPairs (s : State) (l : List Nat) : List Nat := ((l.map s.pairPorts).flatten).dedup

/-! ### Forwarding results (R224, R226, R227) -/

/-- The destination of a Dest that names a queue: the aligned queue whose consumer it is, or the queue itself
(R207). -/
def State.queueDst (s : State) (dest : Nat) : Dst :=
  match (List.range 256).find? (fun q => s.rdB (Od.alignedEnable q) && s.rd (Od.consumer q) == dest) with
  | some q => .aligned (Fin.ofNat 256 q)
  | none => .queue dest

/-- Ports a frame goes to: those of the list that are members of its VLAN, without the ingress port and its pair. -/
def State.portDsts (s : State) (members ingress : Nat) (l : List Nat) : List Dst :=
  ((s.withPairs l).filter (fun p => bitOf members p && s.asPairA p != s.asPairA ingress)).map
    (fun p => .port (Fin.ofNat 256 p))

/-- The result of a group (R227); `none` when the group is not valid. -/
def State.groupDsts (s : State) (members ingress g : Nat) : Option (List Dst) :=
  let x := s.group g
  if !x.valid then none
  else
    let ports := mapPorts (x.ports &&& members)
    let base := s.portDsts members ingress ports
    let back := if x.hairpin && bitOf (x.ports &&& members) ingress then [Dst.port (Fin.ofNat 256 ingress)] else []
    some (base ++ back ++ (match x.copy with | some d => [s.queueDst d] | none => []))

/-- HBM lookups a pipeline makes in a course at most (R240). -/
def State.hbmLimit (s : State) : Nat := ceilDiv (16 * s.len) 1000

/-- A lookup of an ingress pipeline (R239, R240): `none` for a miss, and whether an HBM lookup was refused. In mode 5 a
miss on die is repeated in HBM within the pipeline's limit, and never for class 7. -/
def State.fdbLookup (s : State) (t fid mac : Nat) (seven : Bool) : State × Option FdbEntry × Bool :=
  let found := s.fdbFind fid mac
  let die := match found with | some e => !e.hbm | none => false
  if s.mode != 5 || die then (s, found, false)
  else if seven then (s, none, false)
  else
    let n := tblGet 0 s.fwd.lookups t
    if s.hbmLimit ≤ n then (s, none, true)
    else ({ s with fwd.lookups := tblPut s.fwd.lookups t (n + 1) }.hbmRequest t 1 (fdbHash fid mac), found, false)

/-- The filtering-database result for a frame (R224, R226): its destinations, or a drop with its counter. `from_` is the
ingress port, which gets no copy; none of the ports for a frame of a host (R212). -/
def State.fdbForward (s : State) (p from_ : Nat) (v : Vlan) (da : Nat) (seven : Bool) : State × List Dst :=
  let (s1, hit, refused) := s.fdbLookup (p / 8) v.fid da seven
  let s2 := if refused then s1.bump Od.hbmLookupOverrun else s1
  let flood := s2.portDsts v.members from_ (mapPorts v.members)
  match hit with
  | some e =>
    match e.destKind with
    | 0 => if 256 ≤ e.dest then (s2, [])
           else if s2.asPairA e.dest = s2.asPairA from_ then (s2.bump (Od.filteredSamePort p), [])
           else (s2, s2.portDsts v.members from_ [e.dest])
    | 1 => match s2.groupDsts v.members from_ e.dest with
           | some l => (s2, l)
           | none => (s2.bump (Od.fdbDropFrames p), [])
    | 2 => (s2, [s2.queueDst e.dest])
    | _ => (s2.bump (Od.fdbDropFrames p), [])
  | none =>
    if da = 2 ^ 48 - 1 then (s2, flood)
    else match v.unknown with
      | 0 => (s2, flood)
      | 2 => match s2.groupDsts v.members from_ v.floodGroup with
             | some l => (s2, l)
             | none => (s2.bump (Od.fdbDropFrames p), [])
      | _ => (s2, [])

/-- The result an action or FWD names in place of the filtering database's (R273, R275, R295): kind 1 port, 2 group,
3 queue. [DESIGN CHOICE: log entry 42] -/
def State.namedForward (s : State) (p from_ members kind dest : Nat) : State × List Dst :=
  match kind with
  | 1 => (s, s.portDsts members from_ [dest])
  | 2 => match s.groupDsts members from_ dest with
         | some l => (s, l)
         | none => (s.bump (Od.fdbDropFrames p), [])
  | _ => (s, [s.queueDst dest])

/-! ### Learning (R228 to R233) -/

/-- Send a learn notification, within NotifyRate of the course (R233). [DESIGN CHOICE: log entry 29] -/
def State.learnNotify (s : State) (kind fid mac old new : Nat) : State :=
  let dest := s.rd Od.learnNotifyDest
  if dest / 2 ^ 30 = 3 then s
  else if s.rd Od.notifyRate ≤ s.fwd.notified then s.bump Od.notifyDrops
  else
    ({ s with fwd.notified := s.fwd.notified + 1 }.sendRecord dest (beBytes 16
      (kind * 2 ^ 124 + fid * 2 ^ 108 + mac * 2 ^ 60 + old % 256 * 2 ^ 52 + new * 2 ^ 44 + s.course % 2 ^ 44))).1

/-- Entries of Origin 0 a port owns (R230). -/
def State.owned (s : State) (p : Nat) : Nat :=
  (s.fwd.fdb.filter (fun e => e.2.origin == 0 && e.2.destKind == 0 && e.2.dest == p)).length

/-- Learns of a pipeline in a course at most (R230). -/
def State.learnLimit (s : State) : Nat := ceilDiv (8 * s.len) 1000

/-- One learn more of a pipeline in the course in force. -/
def State.countLearn (s : State) (t : Nat) : State :=
  { s with fwd.learned := tblPut s.fwd.learned t (tblGet 0 s.fwd.learned t + 1) }

/-- LearnTime of a learn in the course in force (R249). -/
def State.learnTime (s : State) : Nat := s.clock.start / nsTicks % 2 ^ 64

/-- The key is held by a Static entry, which learning never replaces (R225): one in HBM that a class 7 frame's lookup
did not see. -/
def State.heldStatic (s : State) (fid mac : Nat) : Bool := match s.fdbFind fid mac with | some e => e.static | none => false

/-- The learn limit of a port is reached by an entry it has gained (R230). -/
def State.limitReached (s : State) (p a fid mac : Nat) : State :=
  if s.rd (Od.maxLearned a) ≠ 0 ∧ s.owned a = s.rd (Od.maxLearned a) then s.learnNotify 5 fid mac p p else s

/-- A miss: insert a learnt entry (R229, R230). -/
def State.learnNew (s : State) (p a fid mac : Nat) : State :=
  let t := p / 8
  let cap := s.rd (Od.maxLearned a)
  if s.heldStatic fid mac then s
  else if s.learnLimit ≤ tblGet 0 s.fwd.learned t then s.bump (Od.learnRateDrops p)
  else if cap ≠ 0 ∧ cap ≤ s.owned a then s.bump (Od.learnLimitDrops p)
  else
    let e : FdbEntry := { static := false, pinned := false, hit := true, hbm := false, origin := 0, destKind := 0,
                          fid := fid, mac := mac, gen := s.fdbGen, owner := 0, dest := a, time := s.learnTime }
    match placeEntry s.mode s.fdbWays e with
    | none => (s.bump Od.fdbBucketFull).learnNotify 4 fid mac p p
    | some e' =>
      (((s.countLearn t).setFdb (tblPut s.fwd.fdb (fdbKey fid mac) e')).learnNotify 1 fid mac p p).limitReached p a fid mac

/-- OldPort of a notification about an entry: its port; left open for an entry that names no port (R233).
[DESIGN CHOICE: log entry 29] -/
def State.oldPort (s : State) (e : FdbEntry) : State × Nat :=
  if e.destKind = 0 then (s, e.dest) else s.openBits 1 8

/-- A learnt entry moves to another port (R229, R230): once per course; 64 moves within 1,000,000 courses are logged. -/
def State.learnMove (s : State) (p a : Nat) (e : FdbEntry) : State :=
  let k := fdbKey e.fid e.mac
  let past := tblGet [] s.fwd.moves k
  if past.head? = some s.course then s.bump (Od.moveSuppressed p)
  else if s.learnLimit ≤ tblGet 0 s.fwd.learned (p / 8) then s.bump (Od.learnRateDrops p)
  else
    let moves := ((s.course :: past).filter (fun c => s.course < c + limitSpan)).take 64
    let s1 := (s.countLearn (p / 8)).setFdb (tblPut s.fwd.fdb k { e with destKind := 0, dest := a, gen := s.fdbGen,
                                                                         hit := true, time := s.learnTime })
    let (s1, old) := s1.oldPort e
    let s2 := (({ s1 with fwd.moves := tblPut s1.fwd.moves k moves }).learnNotify 2 e.fid e.mac old p).limitReached p a
      e.fid e.mac
    if moves.length = 64 then s2.raiseLimited 0x5A03 k 1 e.mac else s2

/-- The entry's Hit bit is set (R232). -/
def State.hitEntry (s : State) (e : FdbEntry) : State :=
  { s with fwd.fdb := tblPut s.fwd.fdb (fdbKey e.fid e.mac) { e with hit := true } }

/-- Learning from a frame's source (R228 to R231, R241, R242), and whether the frame may go on (StaticViolationAction
1 drops it). `a` is the port learnt: port A of a pair. -/
def State.learn (s : State) (p : Nat) (v : Vlan) (mac : Nat) (seven : Bool) : State × Bool :=
  let a := s.asPairA p
  if !s.rdB (Od.learnEnable p) || !v.learn || bitOf mac 40 || mac == 0 then (s, true)
  else
    let (s1, hit, refused) := s.fdbLookup (p / 8) v.fid mac seven
    let stopped := s1.rd Od.modeInForce == 7
    match refused, hit with
    | true, _ => (s1, true)
    | _, none => (if stopped then s1 else s1.learnNew p a v.fid mac, true)
    | _, some e =>
      let s2 := s1.hitEntry e
      if e.destKind = 0 ∧ e.dest = a then (s2, true)
      else if stopped then (s2, true)
      else if e.static then
        let (s3, old) := s2.oldPort e
        let s4 := ((s3.bump (Od.staticViolations p)).raiseLimited 0x5A04 p 1 p).learnNotify 6 v.fid mac old p
        (s4, s4.rd Od.staticViolationAction = 0)
      else if e.origin = 0 ∧ s2.mode ≠ 5 then (s2.learnMove p a e, true)
      else
        let (s3, old) := s2.oldPort e
        ((s3.bump (Od.movesRefused p)).learnNotify 3 v.fid mac old p, true)

/-- The course's learning counts start anew at a boundary (R230, R233, R240). -/
def State.fwdBoundary (s : State) : State := { s with fwd.learned := [], fwd.lookups := [], fwd.notified := 0 }

/-! ### PRP and HSR (R250, R251) -/

/-- NodeForgetTime of a source (R251). -/
def tmNode (r mac : Nat) : Nat := timerKey 15 (r * 2 ^ 48 + mac)

/-- The time a pair has run on one port (R251). -/
def tmPair (r : Nat) : Nat := timerKey 16 r

/-- Sources a pair's node table holds. -/
def nodeTableSize : Nat := 8192

/-- Whether a numbered frame of a source is a duplicate, and the records after it (R251): a number is held for
EntryForgetTime counted in courses, so that a time step never shortens it (R106).
[DESIGN CHOICE: log entry 31; DEDUCED: log entry 32] -/
def State.redCheck (s : State) (r mac seq : Nat) : State × Bool :=
  let k := r * 2 ^ 48 + mac
  let w := tblGet [] s.redundancy.nodes k
  let fresh (e : Nat × Int) : Bool := (s.course : Int) ≤ e.2 + s.msCourses (s.rd (Od.entryForgetTime r))
  let keep (l : List (Nat × Int)) (s : State) : State :=
    ({ s with redundancy.nodes := tblPut s.redundancy.nodes k l }).arm (tmNode r mac)
  match w with
  | [] =>
    if nodeTableSize ≤ (s.redundancy.nodes.filter (fun e => e.1 / 2 ^ 48 == r)).length then
      (s.bump (Od.nodeTableFull r), false)
    else (keep [(seq, s.course)] s, false)
  | (h, _) :: _ =>
    let ahead := (seq + 65536 - h) % 65536
    if w.any (fun e => e.1 == seq && fresh e) then ((s.arm (tmNode r mac)).bump (Od.duplicatesDiscarded r), true)
    else if 64 < ahead ∧ ahead < 65536 - 63 then (keep [(seq, s.course)] (s.bump (Od.outOfWindow r)), false)
    else if ahead = 0 ∨ ahead > 64 then
      (keep ((w.filter (fun e => e.1 != seq)).take 63 ++ [(seq, (s.course : Int))]) s, false)
    else (keep (((seq, (s.course : Int)) :: w).take 64) s, false)

/-- What redundancy leaves of a received frame: nothing, or the frame without its trailer or tag, and the copy for the
other ring port with its tag kept. -/
structure RedOut where
  bytes : List Byte
  ring : Option Nat
  deriving DecidableEq, Repr

/-- Byte offset of the HSR tag: after the addresses, or after an outer VLAN tag. [PRESUMED: log entry 33] -/
def hsrTagAt (bs : List Byte) : Option Nat :=
  if beAt bs 12 2 = 0x892F then some 12
  else if (beAt bs 12 2 = 0x8100 ∨ beAt bs 12 2 = 0x88A8) ∧ beAt bs 16 2 = 0x892F then some 16
  else none

/-- The destination is a station reached through this device alone: a learnt or written entry that names no port of the
pair (R250). -/
def State.nodeAlone (s : State) (r fid da : Nat) : Bool :=
  !bitOf da 40 && (match s.fdbFind fid da with
    | some e => !(e.destKind == 0 && s.pairOf e.dest == some r)
    | none => false)

/-- This device has sent the frame into the ring within EntryForgetTime (R251). [DESIGN CHOICE: log entry 31] -/
def State.sentBefore (s : State) (r mac seq : Nat) : Bool :=
  (tblGet [] s.redundancy.sent (r * 2 ^ 48 + mac)).any (fun e => e.1 == seq
    && decide ((s.course : Int) ≤ e.2 + s.msCourses (s.rd (Od.entryForgetTime r))))

/-- Redundancy on receive (R250, R251), for a frame of a pair's port; `none`: the frame is discarded.
[PRESUMED: log entry 33] -/
def State.redReceive (s : State) (p fid : Nat) (bs : List Byte) : State × Option RedOut :=
  match s.pairOf p with
  | none => (s, some ⟨bs, none⟩)
  | some r =>
    let isA := s.rd (Od.portA r) == p
    let sa := frameSa bs
    if s.rd (Od.redMode r) = 1 then
      let n := bs.length
      if n < 20 ∨ beAt bs (n - 2) 2 ≠ 0x88FB then (s, some ⟨bs, none⟩)
      else
        let lan := beAt bs (n - 4) 2 / 4096
        let s1 := if lan = (if isA then 0xA else 0xB) then s else s.bump (Od.wrongLan r)
        let (s2, dup) := s1.redCheck r sa (beAt bs (n - 6) 2)
        (s2, if dup then none else some ⟨bs.take (n - 6), none⟩)
    else
      match hsrTagAt bs with
      | none => (s, some ⟨bs, none⟩)
      | some o =>
        let mine := match s.fdbFind fid sa with
          | some e => !(e.destKind == 0 && s.pairOf e.dest == some r)
          | none => false
        if mine || s.sentBefore r sa (beAt bs (o + 4) 2) then (s.bump (Od.hsrRemoved r), none)
        else
          let (s1, dup) := s.redCheck r sa (beAt bs (o + 4) 2)
          let other := if isA then s.rd (Od.portB r) else s.rd (Od.portA r)
          (s1, if dup then none
            else some ⟨bs.take o ++ bs.drop (o + 6), if s1.nodeAlone r fid (frameDa bs) then none else some other⟩)

/-- The next sequence number of a pair, for a frame of a source that goes towards it; an HSR pair knows it again. -/
def State.redNumber (s : State) (r mac : Nat) : State × Nat :=
  let n := tblGet 0 s.redundancy.sequence r
  let k := r * 2 ^ 48 + mac
  let sent := if s.rd (Od.redMode r) = 2 then
      tblPut s.redundancy.sent k (((n, (s.course : Int)) :: tblGet [] s.redundancy.sent k).take 64)
    else s.redundancy.sent
  ({ s with redundancy.sequence := tblPut s.redundancy.sequence r ((n + 1) % 65536), redundancy.sent := sent }, n)

/-- A number of each pair among some ports, for a frame that goes to them all (R250). -/
def State.redNumbers (s : State) (mac : Nat) (ports : List Nat) : State × List (Nat × Nat) :=
  ((ports.filterMap s.pairOf).dedup).foldl (fun x r =>
    let (t, n) := x.1.redNumber r mac
    (t, x.2 ++ [(r, n)])) (s, [])

/-- The number a port's copy carries. -/
def State.redOf (s : State) (numbers : List (Nat × Nat)) (p : Nat) : Option Nat :=
  (s.pairOf p).bind (fun r => (numbers.find? (fun e => e.1 == r)).map Prod.snd)

/-- A frame towards a pair's port with its trailer or tag (R250). [PRESUMED: log entry 33] -/
def State.redTag (s : State) (p : Nat) (red : Option Nat) (bs : List Byte) : List Byte :=
  match red, s.pairOf p with
  | some seq, some r =>
    let lan := if s.rd (Od.portA r) = p then 0xA else 0xB
    if s.rd (Od.redMode r) = 1 then
      bs ++ beBytes 2 seq ++ beBytes 2 (lan * 4096 + (bs.length - 14 + 6) % 4096) ++ beBytes 2 0x88FB
    else
      let o := if beAt bs 12 2 = 0x8100 ∨ beAt bs 12 2 = 0x88A8 then 16 else 12
      bs.take o ++ beBytes 2 0x892F ++ beBytes 2 ((boolNat (lan == 0xB)) * 4096 + (bs.length - o + 4) % 4096)
        ++ beBytes 2 seq ++ bs.drop o
  | _, _ => bs

/-- NODE_FORGET_TIME (R251): a source not heard leaves the table. [DESIGN CHOICE: log entry 31] -/
def execNodeForgetTime (pair : Fin 64) (mac : BitVec 48) (s : State) : Res :=
  .next (if s.due (tmNode pair mac.toNat) (s.secCourses (s.rd (Od.nodeForgetTime pair))) then
      ({ s with redundancy.nodes := tblDel s.redundancy.nodes (pair * 2 ^ 48 + mac.toNat) }).disarm
        (tmNode pair mac.toNat)
    else s)

/-- Pairs that run on one port only, watched at each boundary (R251). [DESIGN CHOICE: log entry 31] -/
def State.redBoundary (s : State) : State :=
  forEach (List.range 64) (fun r s =>
    if s.rd (Od.redMode r) = 0 then s
    else if s.up (s.rd (Od.portA r)) == s.up (s.rd (Od.portB r)) then
      ({ s with redundancy.reported := s.redundancy.reported.filter (· != r) }).disarm (tmPair r)
    else if s.armed (tmPair r) then s else s.arm (tmPair r)) s

/-- REDUNDANCY_DEGRADED (R251). -/
def execRedundancyDegraded (pair : Fin 64) (s : State) : Res :=
  .next (if s.due (tmPair pair) (s.secCourses (s.rd (Od.nodeForgetTime pair)))
      && !s.redundancy.reported.contains pair.val then
      ({ s with redundancy.reported := pair.val :: s.redundancy.reported }).raise 0x5A09 pair
    else s)

/-! ### The Wall (R243 to R249) -/

/-- 3 × HelloInterval since a neighbour's last hello (R243). -/
def tmNeighbour (p device : Nat) : Nat := timerKey 14 (512 * p + device)

/-- HelloInterval since the last hellos sent (R243). -/
def tmHello : Nat := timerKey 13 0

/-- The Wall ports that are up. -/
def State.wallPorts (s : State) : List Nat := (List.range 256).filter (fun p => s.rdB (Od.wallPort p) && s.up p)

/-- The fields of this device's own hello that may change. -/
def State.wallFields (s : State) : List Nat :=
  [s.rd Od.wallId, s.rd Od.wallDeviceId, s.rd Od.supportedLevel, s.rd Od.wallFeatureLevel, s.rd Od.wallLevelInForce,
   s.rd Od.wallMinSupported, s.wall.minHops, s.rd Od.wallState, s.len, s.rd Od.modeInForce]

/-- A feature of a level is enabled (R244, R246). -/
def State.wallFeature (s : State) (level : Nat) : Bool :=
  level ≤ s.rd Od.wallLevelInForce && (s.rd Od.wallState != 2 || level ≤ 0x0100)

/-- Where a Wall PDU begins in a frame, after its Ethertype, with a VLAN tag or without. -/
def State.wallAt (s : State) (bs : List Byte) : Option Nat :=
  let o := if beAt bs 12 2 = 0x8100 ∨ beAt bs 12 2 = 0x88A8 then 16 else 12
  if beAt bs o 2 = s.rd Od.wallEthertype ∧ o + 50 ≤ bs.length then some (o + 2) else none

/-- The frame is a synchronisation message of types 2 to 4 that a Wall port does not send now: in state 2, or below level
0x0200 (R246, R565). -/
def State.syncHeld (s : State) (p : Nat) (bs : List Byte) : Bool :=
  match s.wallAt bs with
  | some o => s.rdB (Od.wallPort p) && decide (2 ≤ beAt bs (o + 1) 1 ∧ beAt bs (o + 1) 1 ≤ 4)
      && (s.rd Od.wallState == 2 || !s.wallFeature 0x0200)
  | none => false

/-- A Wall PDU as the device transmits it: HopStamp written (R248), and Flags bit 1 of its records sent as 0 below level
0x0201 (R565). Another frame stays as it is. -/
def State.wallForm (s : State) (stamp : Nat) (bs : List Byte) : List Byte :=
  match s.wallAt bs with
  | none => bs
  | some o =>
    let b := overlay bs (o + 32) (beBytes 4 (ts32 stamp))
    if beAt bs (o + 1) 1 ≠ 2 ∨ s.wallFeature 0x0201 = true then b
    else (List.range (min (beAt bs (o + 38) 2) ((bs.length - (o + 48)) / 32))).foldl (fun b k =>
      let at_ := o + 48 + 32 * k + 1
      overlay b at_ (beBytes 1 (beAt b at_ 1 - beAt b at_ 1 / 2 % 2 * 2))) b

/-- A Wall PDU of a type sent on a port, stamped as it leaves (R248). -/
def State.sendWall (s : State) (p type : Nat) : State :=
  let n := tblGet 0 s.wall.sequence type
  let h := beBytes 1 1 ++ beBytes 1 type ++ beBytes 2 (s.rd Od.wallId) ++ beBytes 2 (s.rd Od.wallDeviceId)
    ++ beBytes 2 (s.rd Od.supportedLevel) ++ beBytes 2 (s.rd Od.wallFeatureLevel) ++ beBytes 2 (s.rd Od.wallLevelInForce)
    ++ beBytes 2 (s.rd Od.wallMinSupported) ++ beBytes 1 s.wall.minHops ++ beBytes 1 (s.rd Od.wallState)
    ++ beBytes 8 s.clockIdentity ++ beBytes 4 s.len ++ beBytes 4 n ++ beBytes 4 (ts32 (s.txStamp p s.now)) ++ beBytes 1 p
    ++ beBytes 1 (s.rd Od.modeInForce) ++ beBytes 2 0 ++ beBytes 2 (if type = 2 then s.fdbGen else 0) ++ beBytes 6 0
  let frame := beBytes 6 0x0180C200000E ++ beBytes 6 (Config.portMac p) ++ beBytes 2 (s.rd Od.wallEthertype) ++ h
  ({ s with wall.sequence := tblPut s.wall.sequence type ((n + 1) % 2 ^ 32) }).emit (.frame p frame s.now)

/-- Send a hello on every Wall port that is up. -/
def State.sendHellos (s : State) : State :=
  (forEach s.wallPorts (fun p s => s.sendWall p 1) { s with wall.sent := s.wallFields }).arm tmHello

/-- HELLO_INTERVAL (R243). -/
def execHelloInterval (off : Nat) (s : State) : Res :=
  let s := s.moveTo off
  .next (if !s.armed tmHello || s.due tmHello (s.msCourses (s.rd Od.helloInterval)) then s.sendHellos else s)

/-- A field of the own hello has changed: a hello is sent at once (R243). [DESIGN CHOICE: log entry 34] -/
def State.helloCheck (s : State) : State :=
  if s.wall.sent = s.wallFields || s.wallPorts.isEmpty then s else s.sendHellos

/-- Major part of a feature level (R244). -/
def major (level : Nat) : Nat := level / 256

/-- WallState as the neighbours, the mode and the size give it (R246, R247). [DESIGN CHOICE: log entry 34] -/
def State.wallJudge (s : State) : State :=
  let new :=
    if !s.rdB Od.wallEnable || s.wall.neighbours.isEmpty || s.wall.yielded == some (s.rd Od.wallDeviceId) then 0
    else if s.wall.neighbours.any (fun e => major (s.rd Od.supportedLevel) + 2 ≤ major e.2.hello.targetLevel)
      || (32 < s.rd Od.wallSize && s.rd Od.modeInForce != 5) || s.mode == 6 then 2
    else 1
  let old := s.rd Od.wallState
  if new = old then s else (s.wr Od.wallState new).raise 0x5A06 (old * 256 + new)

/-- The candidates of the level in force (R244): levels with their hop counts. -/
def State.wallCandidates (s : State) : List (Nat × Nat) :=
  (s.rd Od.supportedLevel, 0) :: (s.wall.neighbours.filter (fun e =>
    e.2.hello.minHops + 1 ≤ 16 && !(major e.2.hello.supportedLevel + 2 ≤ major (s.rd Od.wallFeatureLevel)))).map
      (fun e => (e.2.hello.minSupported, e.2.hello.minHops + 1))

/-- The Wall's work at a boundary (R244, R245): the level follows the minimum of the boundary before, and the minimum
follows the hellos of the ended course. -/
def State.wallBoundary (s : State) : State :=
  let s1 := if s.wall.levelDue then
      let new := min (s.rd Od.wallFeatureLevel) (s.rd Od.wallMinSupported)
      let t := { s with wall.levelDue := false }
      if new = s.rd Od.wallLevelInForce then t else (t.wr Od.wallLevelInForce new).raise 0x5A07 new
    else s
  let s2 := if s1.wall.changed then
      let c := s1.wallCandidates
      let low := (c.map Prod.fst).foldl min (s1.rd Od.supportedLevel)
      let hops := ((c.filter (fun e => e.1 == low)).map Prod.snd).foldl min 16
      ({ s1 with wall.changed := false, wall.levelDue := true, wall.minHops := hops }).wr Od.wallMinSupported low
    else s1
  s2.wallJudge.helloCheck

/-- HopStamp of a received PDU (R248, R76): its one-way delay, or an invalid stamp counted. -/
def State.hopDelay (s : State) (p : Nat) (h : WallHeader) : State × Int :=
  let now : Int := (s.clock.start / nsTicks : Nat)
  let full := extendTs 32 h.hopStamp (s.clock.start / nsTicks)
  let delay := (s.rxStamp p : Int) - full * 65536
  if (full - now).natAbs > 1000000000 then (s.bump Od.hopStampInvalid, delay) else (s, delay)

/-- The PDU is of this Wall (R243); another's is discarded and counted. -/
def State.wallOurs (s : State) (h : WallHeader) : Bool := h.wallId == s.rd Od.wallId && h.version == 1

/-- WALL_HELLO (R243 to R247). [DESIGN CHOICE: log entry 34] -/
def execWallHello (p : PortId) (off : Nat) (h : WallHeader) (s : State) : Res :=
  let s := s.moveTo off
  .next (
    if !s.up p then s.bump (Od.rxNotUp p)
    else if !s.rdB (Od.wallPort p) then s
    else if !s.wallOurs h then s.bump Od.wallForeign
    else
      let recent := (tblGet [] s.wall.hellos p).filter (fun c => (s.course : Int) < c + s.msCourses (s.rd Od.helloInterval))
      if 8 ≤ recent.length then s.bump Od.helloDiscarded
      else
        let (s1, delay) := s.hopDelay p h
        let k := 512 * p.val + h.deviceId % 512
        let s2 := { s1 with wall.hellos := tblPut s1.wall.hellos p (s1.course :: recent),
                            wall.neighbours := tblPut s1.wall.neighbours k ⟨h, delay⟩, wall.changed := true }
        let s3 := s2.arm (tmNeighbour p (h.deviceId % 512))
        let clash := h.deviceId == s3.rd Od.wallDeviceId && h.clockIdentity != s3.clockIdentity
        let s4 := if clash && !s3.wall.conflicts.contains k then
            ({ s3 with wall.conflicts := k :: s3.wall.conflicts }).raise 0x5A05 k else s3
        let s5 := if clash && h.clockIdentity < s4.clockIdentity then
            { s4 with wall.yielded := some (s4.rd Od.wallDeviceId) } else s4
        s5.wallJudge.helloCheck)

/-- Granularity of the neighbour timers (R243): the largest power of two of courses within a quarter of HelloInterval. -/
def State.helloGrain (s : State) : Nat :=
  (List.range 17).foldl (fun g k => if 2 ^ k * s.len ≤ s.rd Od.helloInterval * 1000000 / 4 then 2 ^ k else g) 1

/-- NEIGHBOUR_LOST (R243, R244). -/
def execNeighbourLost (p : PortId) (device : Fin 512) (s : State) : Res :=
  .next (if s.dueEvery (tmNeighbour p device) (s.msCourses (3 * s.rd Od.helloInterval)) s.helloGrain then
      let k := 512 * p.val + device.val
      (({ s with wall.neighbours := tblDel s.wall.neighbours k, wall.changed := true,
                 wall.conflicts := s.wall.conflicts.filter (· != k) }).disarm (tmNeighbour p device)).wallJudge.helloCheck
    else s)

/-- The bytes of a received Wall PDU, for SyncQueue. -/
def wallBytes (type count : Nat) (h : WallHeader) (body : List Byte) : List Byte :=
  beBytes 1 h.version ++ beBytes 1 type ++ beBytes 2 h.wallId ++ beBytes 2 h.deviceId ++ beBytes 2 h.supportedLevel
    ++ beBytes 2 h.targetLevel ++ beBytes 2 h.levelInForce ++ beBytes 2 h.minSupported ++ beBytes 1 h.minHops
    ++ beBytes 1 h.state ++ beBytes 8 h.clockIdentity ++ beBytes 4 h.courseLength ++ beBytes 4 h.sequence
    ++ beBytes 4 h.hopStamp ++ beBytes 1 h.portNumber ++ beBytes 1 h.mode ++ beBytes 2 count ++ beBytes 2 h.syncGen
    ++ beBytes 6 0 ++ body

/-- The bytes of a sync record. -/
def syncBytes (r : SyncRecord) : List Byte :=
  beBytes 1 r.op ++ beBytes 1 r.flags ++ beBytes 2 r.fid ++ beBytes 6 r.mac ++ beBytes 2 r.owner ++ beBytes 1 r.ownerPort
    ++ beBytes 3 0 ++ beBytes 8 r.learnTime ++ beBytes 8 0

/-- The entry an install of a sync record writes, towards the port it came by (R249). -/
def syncEntry (r : SyncRecord) (port : Nat) : FdbEntry :=
  { static := bitOf r.flags 0, pinned := bitOf r.flags 1, hit := false, hbm := false, origin := 2, destKind := 0,
    fid := r.fid, mac := r.mac, gen := 0, owner := r.owner, dest := port, time := r.learnTime }

/-- A PDU of type 2 to 4 (R243, R246, R248, R565): foreign, discarded in state 2 or below level 0x0200, or delivered to SyncQueue; the flag says
whether it was taken. -/
def State.wallDeliver (s : State) (p : Nat) (h : WallHeader) (pdu : List Byte) : State × Bool :=
  if !s.up p then (s.bump (Od.rxNotUp p), false)
  else if !s.rdB (Od.wallPort p) then (s, false)
  else if !s.wallOurs h then (s.bump Od.wallForeign, false)
  else
    let s1 := (s.hopDelay p h).1
    if s1.rd Od.wallState = 2 || !s1.wallFeature 0x0200 then (s1.bump Od.syncDiscarded, false)
    else ((s1.sendRecord (s1.rd Od.syncQueue) pdu).1, true)

/-- WALL_SYNC (R249): delivered to SyncQueue; in mode 5 the synchronisation agent takes its records and asks for a
resync when a Sequence is missing. -/
def execWallSync (p : PortId) (off : Nat) (h : WallHeader) (records : List SyncRecord) (s : State) : Res :=
  let s := s.moveTo off
  let (s1, taken) := s.wallDeliver p h (wallBytes 2 records.length h (records.map syncBytes).flatten)
  .next (if taken && s1.rd Od.modeInForce == 5 then
      let gap := match s1.wall.synced.find? (fun e => e.1 == h.deviceId) with
        | some e => h.sequence != (e.2 + 1) % 2 ^ 32
        | none => false
      let pins := s1.wallFeature 0x0201
      let es := records.map (fun r => (r.op, { syncEntry r p.val with pinned := pins && bitOf r.flags 1 }))
      let s2 := { s1 with wall.records := s1.wall.records ++ es,
                          wall.synced := tblPut s1.wall.synced h.deviceId h.sequence }
      if gap && s2.wallFeature 0x0200 then s2.sendWall p 4 else s2
    else s1)

/-- SYNC_ACKNOWLEDGEMENT (R249): delivered to SyncQueue. -/
def execSyncAcknowledgement (p : PortId) (off : Nat) (h : WallHeader) (s : State) : Res :=
  let s := s.moveTo off
  .next (s.wallDeliver p h (wallBytes 3 0 h [])).1

/-- RESYNC_REQUEST (R249): delivered to SyncQueue. -/
def execResyncRequest (p : PortId) (off : Nat) (h : WallHeader) (s : State) : Res :=
  let s := s.moveTo off
  .next (s.wallDeliver p h (wallBytes 4 0 h [])).1

/-- Owner of an entry, for the order of installs: this device for one it has learnt. -/
def State.entryOwner (s : State) (e : FdbEntry) : Nat := if e.origin = 0 then s.rd Od.wallDeviceId else e.owner

/-- One sync record applied (R249). [DESIGN CHOICE: log entry 35] -/
def State.syncApply (s : State) (op : Nat) (e : FdbEntry) : State :=
  let k := fdbKey e.fid e.mac
  let held := (s.fwd.fdb.find? (fun x => x.1 == k)).map Prod.snd
  if op = 1 then
    let wins := match held with
      | none => true
      | some h => h.time < e.time || (h.time == e.time && e.owner < s.entryOwner h)
    let place := placeEntry s.mode ((s.fwd.fdb.filter (fun x => x.1 != k)).map Prod.snd ++ s.fdbStaged)
      { e with gen := s.fdbGen }
    match wins, place with
    | true, some e' => s.setFdb (tblPut s.fwd.fdb k e')
    | _, _ => s
  else if op = 2 then
    match held with
    | some h => if h.time ≤ e.time then s.setFdb (tblDel s.fwd.fdb k) else s
    | none => s
  else if op = 3 then s.setFdb (s.fwd.fdb.filter (fun x => !(x.2.origin == 2 && x.2.owner == e.owner)))
  else s

/-- The records the agent of mode 5 applies at a boundary, in order, under a new generation (R235, R249); none in mode 7
(R242), and none, with the event, where the window of generations is closed (R238). [DESIGN CHOICE: log entry 35] -/
def State.syncBoundary (s : State) : State :=
  if s.wall.records.isEmpty then s
  else
    let s1 := { s with wall.records := [] }
    if s.rd Od.modeInForce ≠ 5 then s1
    else if !s1.fdbWindowOk then s1.raise 0x5A08 (s1.rd Od.fdbOldestGen)
    else
    let s2 := s1.wr Od.fdbCurrentGen ((s1.fdbGen + 1) % 65536)
    s.wall.records.foldl (fun s r => s.syncApply r.1 r.2) s2

/-- NeighbourTable as it reads (R252): port, DeviceId, hello header, one-way delay. -/
def State.neighbourRead (s : State) : List Byte :=
  (s.wall.neighbours.map (fun e => beBytes 1 (e.1 / 512) ++ beBytes 2 (e.1 % 512) ++ wallBytes 1 0 e.2.hello []
    ++ beBytes 8 (ofSigned 64 e.2.delay))).flatten

end Sys2Proof.Machine
end

