-- ==== Sys2Proof/Machine/Programs.lean ====
section
/-! DEFINITION. Machine/Programs.lean: Trowel programs, dispatch tables, the program store, microcode patches and engine
numbers (chapter "Trowel engines and microcode", R289 to R312). -/

namespace Sys2Proof.Machine

/-! ### Opcodes (R294, R306) -/

/-- The base microcode's opcodes with their cycles (R294). -/
def baseOpcodes : List (Nat × Nat) :=
  [(0x40, 1), (0x41, 1), (0x42, 1), (0x43, 1), (0x44, 1), (0x45, 1), (0x46, 1), (0x47, 1), (0x48, 1), (0x49, 1),
   (0x4A, 1), (0x4B, 1), (0x4C, 1), (0x4D, 1), (0x4E, 1), (0x4F, 2), (0x50, 2), (0x51, 2), (0x52, 8), (0x53, 8),
   (0x54, 4), (0x55, 4), (0x58, 1), (0x59, 1), (0x60, 4), (0x61, 4), (0x62, 6), (0x68, 2), (0x70, 2), (0x71, 16),
   (0x72, 2), (0x73, 1), (0x7F, 1)]

/-- Cycles of an opcode under a patch; `none` when it is unused. -/
def opCycles (patch : Option Patch) (op : Nat) : Option Nat :=
  match (patch.map Patch.updates).getD [] |>.find? (fun u => u.1 == op) with
  | some u => some u.2.1
  | none => (baseOpcodes.find? (fun e => e.1 == op)).map Prod.snd

/-- A patch has defined or redefined an opcode. The opcode entries of a base that an activation brought stand in the
same table at address 4,096, outside the store: they change Cycles and not what the opcode does. -/
def opPatched (patch : Option Patch) (op : Nat) : Bool :=
  ((patch.map Patch.updates).getD []).any (fun u => u.1 == op && decide (u.2.2 < 4096))

/-- Opcode, A, B and Imm of a macro-instruction (R293). -/
def macroOp (w : Nat) : Nat := bitField w 31 24

/-- The word of an opcode and its operand fields (R293). -/
def macroWord (op : Nat) (m : Macro) : Nat := op * 2 ^ 24 + m.a.val * 2 ^ 20 + m.b.val * 2 ^ 16 + m.imm.toNat

/-- The opcode and operand fields of a word (R293). -/
def macroOf (w : Nat) : Nat × Macro :=
  (macroOp w, { a := Fin.ofNat 16 (bitField w 23 20), b := Fin.ofNat 16 (bitField w 19 16), imm := BitVec.ofNat 16 w })

/-! ### Worst path and checks (R297, R298) -/

/-- The worst sums from each instruction on, last instruction first read; `none` for an instruction from which some path
does not end, or ends outside the program. -/
def progPaths (cyc : Nat → Option Nat) (words : List Nat) : List (Option Nat) :=
  words.foldr (fun w rest =>
    let op := macroOp w
    let next := rest.head?.join
    let far := (rest[w % 65536 - 1]?).join
    let after : Option Nat :=
      if op = 0x7F ∨ op = 0x73 ∨ op = 0x72 then some 0
      else if op = 0x68 then
        if bitField w 23 20 = 0 then far
        else match next, far with
          | some a, some b => some (max a b)
          | _, _ => none
      else next
    (match after, cyc op with
      | some n, some c => some (c + n)
      | _, _ => none) :: rest) []

/-- Every branch stays within the program (R297), also one that no path reaches. -/
def branchesStay : List Nat → Bool
  | [] => true
  | w :: ws => (macroOp w != 0x68 || decide (1 ≤ w % 65536 ∧ w % 65536 ≤ ws.length)) && branchesStay ws

/-- Worst-path cycles of a program (R298): 8 and the worst sum from its first instruction. -/
def worstPath (patch : Option Patch) (words : List Nat) : Option Nat :=
  if branchesStay words then ((progPaths (opCycles patch) words).head?.join).map (8 + ·) else none

/-- Metadata fields LDM reads (R291). -/
def metaFieldOk (f : Nat) : Bool := f ≤ 0x0C || (0x10 ≤ f && f ≤ 0x1D)

/-- An operand lies out of range (0x04 of R297). -/
def operandBad (w : Nat) : Bool :=
  let imm := w % 65536
  let op := macroOp w
  if op = 0x50 ∨ op = 0x51 then imm / 16384 == 3
  else if op = 0x52 ∨ op = 0x53 then imm / 256 < 1 || 32 < imm / 256
  else if op = 0x54 then 1 < imm
  else if op = 0x58 ∨ op = 0x59 then !metaFieldOk (imm % 256)
  else if op = 0x68 then 4 < bitField w 23 20 || imm < 1 || 16383 < imm
  else if op = 0x70 then imm % 4 == 0
  else false

/-- A ProgramUpdate record (R297). -/
structure ProgOp where
  op : Nat
  pipeline : Nat
  entry : Nat
  words : List Nat
  deriving DecidableEq, Repr

/-- The records a ProgramUpdate DOMAIN holds; `none` when it does not end with a whole record. Fuel 256. -/
def progOps : Nat → List Byte → Option (List ProgOp)
  | _, [] => some []
  | 0, _ => none
  | fuel + 1, bs =>
    let n := beAt bs 4 2
    if bs.length < 8 + 4 * n then none
    else (progOps fuel (bs.drop (8 + 4 * n))).map
      ({ op := beAt bs 0 1, pipeline := beAt bs 1 1, entry := beAt bs 2 1,
         words := (chunks 4 n (slice bs 8 (4 * n))).map leNat } :: ·)

/-- The bytes of a record. -/
def ProgOp.bytes (o : ProgOp) : List Byte :=
  beBytes 1 o.op ++ beBytes 1 o.pipeline ++ beBytes 1 o.entry ++ beBytes 1 0 ++ beBytes 2 o.words.length ++ beBytes 2 0
    ++ (o.words.map (leBytes 4)).flatten

/-! ### Pipelines, programs, the store (R296, R299) -/

/-- The pipeline of a tile: 0 ingress, 1 egress. -/
def pipeNo (t pipeline : Nat) : Nat := 2 * t + pipeline

/-- The program at an entry of a pipeline. -/
def State.program (s : State) (pipe entry : Nat) : Option Program :=
  (s.trowel.programs.find? (fun e => e.1 == pipe * 256 + entry)).map Prod.snd

/-- The stretches of a pipeline's store in use: address and length, of programs and of versions not yet freed. -/
def State.storeUsed (s : State) (pipe : Nat) : List (Nat × Nat) :=
  (s.trowel.programs.filter (fun e => e.1 / 256 == pipe)).map (fun e => (e.2.address, e.2.words.length))
    ++ (s.trowel.retired.filter (fun r => r.1 == pipe && s.course < r.2.2.2)).map (fun r => (r.2.1, r.2.2.1))

/-- Macro-instructions a pipeline's store holds. -/
def storeSize : Nat := 16384

/-- The first address at which `n` instructions fit beside the stretches used: 0 or the end of one of them. -/
def firstFit (used : List (Nat × Nat)) (n : Nat) : Option Nat :=
  (((0 :: used.map (fun e => e.1 + e.2)).mergeSort (fun a b => a ≤ b)).find? (fun a =>
    a + n ≤ storeSize && used.all (fun e => a + n ≤ e.1 || e.1 + e.2 ≤ a)))

/-- Places found for the loads of a set, one after another. -/
def placePrograms (s : State) (t : Nat) : List (Nat × Nat × Nat) → List ProgOp → Option (List (ProgOp × Nat))
  | _, [] => some []
  | acc, o :: os =>
    if o.op = 1 then
      let pipe := pipeNo t o.pipeline
      match firstFit (s.storeUsed pipe ++ (acc.filter (fun e => e.1 == pipe)).map (fun e => e.2)) o.words.length with
      | none => none
      | some a => (placePrograms s t ((pipe, a, o.words.length) :: acc) os).map ((o, a) :: ·)
    else (placePrograms s t acc os).map ((o, 0) :: ·)

/-- The rules of a tile, of either pipeline, that are live in either epoch, with their pipeline. -/
def State.tileRules (s : State) (t : Nat) : List (Nat × Rule) :=
  (s.ternary t).ingress.map (fun r => (0, r)) ++ (s.ternary t).egress.map (fun r => (1, r))

/-- A rule, or an exact-match entry of an ingress pipeline, names the program at an entry (R297). -/
def State.entryNamed (s : State) (t pipeline entry : Nat) : Bool :=
  let names (v : Nat) : Bool := (actionOf v).trowelEnable && (actionOf v).trowelEntry == entry
  (s.tileRules t).any (fun r => r.1 == pipeline && names r.2.action)
    || (pipeline == 0 && s.classify.exact.any (fun e => e.2.entries.any (fun y => names y.action)))

/-- The codes a program set gives (R297), but for the budget: `signed` for a signed Keystone command. -/
def State.progCodes (s : State) (t : Nat) (signed : Bool) (ops : List ProgOp) : List Nat :=
  let own (o : ProgOp) : Bool :=
    o.entry == 0 || (match s.program (pipeNo t o.pipeline) o.entry with | some p => p.keystone | none => false)
  let c03 := !signed && ops.any own
  let c04 := ops.any (fun o => o.op < 1 || 2 < o.op || 1 < o.pipeline || (0x40 ≤ o.entry && o.entry ≤ 0x7F)
    || (o.op == 1 && (o.words.isEmpty || 4096 < o.words.length))
    || (o.op == 2 && !o.words.isEmpty)
    || o.words.any (fun w => (opCycles s.trowel.patch (macroOp w)).isNone || operandBad w))
  let worstBad (o : ProgOp) : Bool :=
    match worstPath s.trowel.patch o.words with
    | none => true
    | some n => worstPathLimit s.mode < n || (o.entry == 0 && 32 < n)
  let c0A := ops.any (fun o =>
      (o.op == 1 && (worstBad o || o.words.any (fun w =>
        (macroOp w == 0x55 && o.pipeline == 0)
          || (macroOp w == 0x59 && !(2 ≤ w % 256 && w % 256 ≤ 4)))))
      || (o.op == 2 && s.entryNamed t o.pipeline o.entry))
    || (placePrograms s t [] ops).isNone
  (if c03 then [3] else []) ++ (if c04 then [4] else []) ++ (if c0A && !c04 then [0x0A] else [])

/-- A program set applies in step 9 (R299): entries change together; replaced versions are freed at the second boundary
after, and until then no later set of the pipeline applies. -/
def State.applyPrograms (s : State) (t : Nat) (signed : Bool) (ops : List ProgOp) : State :=
  let placed := (placePrograms s t [] ops).getD []
  placed.foldl (fun s e =>
    let o := e.1
    let k := pipeNo t o.pipeline * 256 + o.entry
    let old := match s.program (pipeNo t o.pipeline) o.entry with
      | some p => (p.address, p.words.length)
      | none => (0, 0)
    let programs := if o.op = 1 then
        tblPut s.trowel.programs k { words := o.words, keystone := signed, address := e.2,
                                     worst := (worstPath s.trowel.patch o.words).getD 0 }
      else tblDel s.trowel.programs k
    { s with trowel.programs := programs,
             trowel.retired := (pipeNo t o.pipeline, old.1, old.2, s.course + 2) ::
               s.trowel.retired.filter (fun r => s.course < r.2.2.2) }) s

/-- A change of a pipeline's programs still holds back the next one (R299). -/
def State.progBlocked (s : State) (t : Nat) (ops : List ProgOp) : Bool :=
  ops.any (fun o => s.trowel.retired.any (fun r => r.1 == pipeNo t o.pipeline && s.course < r.2.2.2))

/-- A dispatch table as it reads (R296, R312). -/
def State.dispatchRead (s : State) (pipe : Nat) : List Byte :=
  ((List.range 256).map (fun k => beBytes 8 (
    if 0x40 ≤ k ∧ k ≤ 0x7F then
      match opCycles s.trowel.patch k with
      | none => 0
      | some c =>
        let micro := match ((s.trowel.patch.map Patch.updates).getD []).find? (fun u => u.1 == k && decide (u.2.2 < 4096)) with
          | some u => u.2.2
          | none => Config.factory (0x101004 * 256 + k) % 0xE00
        2 ^ 62 + c * 2 ^ 18 + micro
    else match s.program pipe k with
      | some p => 2 * 2 ^ 62 + boolNat p.keystone * 2 ^ 61 + p.address * 2 ^ 34 + p.worst * 2 ^ 24
      | none => 0))).flatten

/-! ### Engines and pipes (R289, R300, R309) -/

/-- An empty pipeline. -/
def Pipe.fresh : Pipe :=
  { high := [], low := [], leaving := [], courseEvent := false, spareUsed := false, lost := false }

/-- A pipeline's queues. -/
def State.pipe (s : State) (q : Nat) : Pipe := tblGet Pipe.fresh s.trowel.pipes q

/-- Set a pipeline's queues. -/
def State.setPipe (s : State) (q : Nat) (x : Pipe) : State :=
  { s with trowel.pipes := tblSet Pipe.fresh s.trowel.pipes q x }

/-- The run of an engine. -/
def State.run? (s : State) (e : Nat) : Option Run := (s.trowel.runs.find? (fun x => x.1 == e)).map Prod.snd

/-- Set or clear the run of an engine. -/
def State.setRun (s : State) (e : Nat) (r : Option Run) : State :=
  { s with trowel.runs := match r with | some x => tblPut s.trowel.runs e x | none => tblDel s.trowel.runs e }

/-- EngineStatus as it reads (R312). -/
def State.engineStatus (s : State) (t : Nat) : Nat :=
  let five (q : Nat) : Nat :=
    ((List.range 4).map (fun n => boolNat (!s.trowel.dead.contains (4 * q + n)) * 2 ^ n)).sum
      + boolNat (s.pipe q).spareUsed * 16
  five (2 * t) + five (2 * t + 1) * 32

/-- A rule's frames in a course at most (R276, R310). -/
def State.ruleAllowance (s : State) (q limit : Nat) : Nat :=
  let n := ceilDiv (limit * s.len) 1000
  if (s.pipe q).lost then max 1 (3 * n / 4) else n

/-- StateMemory words of a window (R312, R291): little-endian. -/
def State.memoryRead (s : State) (q address n : Nat) : List Byte :=
  ((List.range n).map (fun i => leBytes 4 (tblGet 0 s.trowel.memory (q * 16384 + address / 4 + i)))).flatten

/-- Words written into a pipeline's state memory. -/
def State.memoryWrite (s : State) (q address : Nat) (words : List Nat) : State :=
  { s with trowel.memory := (words.zip (List.range words.length)).foldl (fun m e =>
      tblSet 0 m (q * 16384 + address / 4 + e.2) (e.1 % 2 ^ 32)) s.trowel.memory }

/-! ### Microcode patches (R306, R307) -/

/-- The patch a DOMAIN holds, with its TargetBase and whether its format is right; signatures are judged apart. -/
def patchOf (bs : List Byte) : Option (Patch × Nat) :=
  let wc := beAt bs 12 2
  let dc := beAt bs 14 2
  if bs.length ≠ 32 + 4 * wc + 4 * dc + 96 + 4627 ∨ beAt bs 0 4 ≠ 0x54574C50 ∨ beAt bs 4 2 ≠ 1 ∨ wc < 1 ∨ wc > 256
      ∨ dc > 64 ∨ 1 < beAt bs 6 2 ∨ beAt bs 10 2 = 0 then none
  else
    let words := (chunks 4 wc (slice bs 32 (4 * wc))).map (fun w => (beAt w 0 1, beAt w 1 3))
    let ups := (chunks 4 dc (slice bs (32 + 4 * wc) (4 * dc))).map (fun w =>
      (beAt w 0 1, bitField (beNat w) 23 18, beNat w % 4096))
    some ({ level := beAt bs 10 2, applyAt := beAt bs 6 2 % 2, words := words, updates := ups }, beAt bs 8 2)

/-- Opcode entries of the base microcode an activation brought, kept at address 4,096; none for the base this manual
describes. [DESIGN CHOICE: log entry 45] -/
def State.baseUpdates (s : State) : List (Nat × Nat × Nat) :=
  match s.boot.parts.find? (fun x => x.1 == 5) with
  | none => []
  | some x => (List.range 256).filterMap (fun op => (Config.baseCycles x.2.2 op).map (fun n => (op, n, 4096)))

/-- Codes of a patch whose signatures are good (R306), but for the budget. -/
def State.patchCodes (s : State) (x : Option (Patch × Nat)) : List Nat :=
  match x with
  | none => [4]
  | some (p, base) =>
    let v := s.rd Od.microcodeVersion
    let bad := base != v / 65536 || p.level ≤ v % 65536
      || p.words.any (fun w => 7 ≤ bitField w.2 22 19)
      || p.updates.any (fun u => u.1 < 0x40 || 0x7F < u.1)
      || s.trowel.programs.any (fun e =>
        match worstPath (some { p with updates := p.updates ++ s.baseUpdates }) e.2.words with
        | some n => worstPathLimit s.mode < n
        | none => true)
    (if p.updates.any (fun u => u.2.1 == 0 || decide (0xF00 ≤ u.2.2)) then [4] else []) ++ (if bad then [0x0A] else []) ++ (if s.rd Od.patchStatus = 0 then [] else [6])

/-- A patch's address in the bank that it is written to: 0xE00 to 0xEFF mean that bank (R307). -/
def bankAddr (bank a : Nat) : Nat := if 0xE00 ≤ a ∧ a < 0xF00 then a + bank * 0x100 else a

/-- A patch as it stands in a bank: its dispatch addresses relocated. -/
def Patch.inBank (bank : Nat) (p : Patch) : Patch :=
  { p with updates := p.updates.map (fun u => (u.1, u.2.1, bankAddr bank u.2.2)) }

/-- The banks with a patch's words written into one of them; the MicroTarget of a sequence word is relocated. -/
def Patch.written (bank : Nat) (p : Patch) (m : List (Nat × Nat)) : List (Nat × Nat) :=
  p.words.foldl (fun m w =>
    let v := if bitField w.2 22 19 = 5 then w.2 - w.2 % 4096 + bankAddr bank (w.2 % 4096) else w.2
    tblSet 0 m (0xE00 + bank * 0x100 + w.1) v) m

/-- A patch's commit applies in step 7 (R307): its words go to the bank not in use, opcode entries change, WorstPath is
computed anew (R298), and the engines are to switch. -/
def State.applyPatch (s : State) (p0 : Patch) : State :=
  let bank := 1 - s.trowel.bank
  let q := p0.inBank bank
  let p := { q with updates := q.updates ++ s.baseUpdates }
  let programs := s.trowel.programs.map (fun e => (e.1, { e.2 with worst := (worstPath (some p) e.2.words).getD 0 }))
  ({ s with trowel.patch := some p, trowel.was := s.trowel.patch, trowel.switching := some p, trowel.switched := [],
            trowel.bank := bank, trowel.micro := p0.written bank s.trowel.micro,
            trowel.programs := programs }).wr Od.patchStatus 2

end Sys2Proof.Machine
end

