-- ==== Sys2Proof/Machine/Ingress.lean ====
section
/-! DEFINITION. Machine/Ingress.lean: what a received frame goes through, from its filter to its destinations or its
Trowel program (R79, R168, R222, R228, R251, R258 to R262, R275 to R283, R300, R336, R355, R358, R360, R362). -/

namespace Sys2Proof.Machine

/-! ### Leaving the pipeline (R275, R300) -/

/-- Send a frame to its destinations; towards each redundancy pair it takes the pair's next number (R250). -/
def State.sendAll (s : State) (f : Frame) (dsts : List Dst) : State :=
  let ports := dsts.filterMap (fun d => match d with | .port p => some p.val | _ => none)
  let (s1, numbers) := s.redNumbers (frameSa f.bytes) ports
  dsts.foldl (fun s d => s.send { f with red := match d with | .port p => s1.redOf numbers p | _ => f.red } d) s1

/-- Mode 4 drops a cleartext frame of a class that may not pass in clear (R129). -/
def State.sealedOut (s : State) (clear : Bool) (cls : Nat) : Bool := clear && !s.sealedExempt cls

/-- A received frame is trapped under a reason (R283), unless mode 4 drops it as cleartext (R129). -/
def State.trapFrame (s : State) (p reason : Nat) (clear : Bool) (f : Frame) : State :=
  if s.sealedOut clear f.cls then s.sealedDrop p else s.exception (p / 8) reason p false f

/-- The end of a frame's way through the ingress pipeline (R275 step 9, R129): the copy of Disposition 3 and the frame
itself, unless mode 4 drops it as cleartext. A packet for an RDMA interface goes to its service tile.
[DESIGN CHOICE: log entry 160] -/
def State.leavePipeline (s : State) (j : Job) : State :=
  let f := j.frame
  if s.sealedOut j.clear f.cls then s.sealedDrop f.src
  else
    let s1 := if j.copy then s.exception (j.port / 8) 2 f.src false f else s
    if j.rdma then { s1 with rdma.arrived := s1.rdma.arrived ++ [(j.port, f.bytes)] } else s1.sendAll f j.dsts

/-- Two frames keep their order: one ingress port and class (R300). -/
def Job.sameFlow (a b : Job) : Bool := a.frame.src == b.frame.src && a.order == b.order

/-- The jobs that may leave now, and those that wait behind an unfinished one of their port and class. -/
def leavable : List Job → List Job → List Job × List Job
  | _, [] => ([], [])
  | held, j :: js =>
    if j.done && !held.any (fun h => h.sameFlow j) then
      let (out, keep) := leavable held js
      (j :: out, keep)
    else
      let (out, keep) := leavable (j :: held) js
      (out, j :: keep)

/-- Frames of a pipeline whose turn has come leave it. -/
def State.drainPipe (s : State) (q : Nat) : State :=
  let (out, keep) := leavable [] (s.pipe q).leaving
  out.foldl (fun s j => s.leavePipeline j) (s.setPipe q { s.pipe q with leaving := keep })

/-- A frame enters the order of its pipeline; with a program it also waits for an engine (R300). -/
def State.queueJob (s : State) (q : Nat) (j : Job) : State :=
  let x := s.pipe q
  let y := { x with leaving := x.leaving ++ [j] }
  s.setPipe q (if j.done then y else if j.frame.cls = 7 then { y with high := y.high ++ [j] } else { y with low := y.low ++ [j] })

/-- A frame enters the order of an ingress pipeline, and goes on where nothing holds it. -/
def State.enterPipe (s : State) (q : Nat) (j : Job) : State := (s.queueJob q j).drainPipe q

/-! ### Class, VLAN, key (R166, R222, R263) -/

/-- The traffic class of a PCP on a port: the protection PCP enters class 7, no other does (R166). -/
def State.classOf (s : State) (p pcp : Nat) : Nat :=
  if pcp = s.rd (Od.protectionPcp p) then 7 else min 6 (priorityClass (s.rd (Od.priorityToClassOper p)) pcp)

/-- The VID assigned to a frame (R222). -/
def State.vidOf (s : State) (p : Nat) (k : Parsed) : Nat :=
  if k.tagCount = 0 ∨ k.outerVid = 0 then s.rd (Od.pvid p) else k.outerVid

/-- The extractor words of a tile. -/
def State.udfWords (s : State) (t : Nat) : List Nat := (List.range 14).map (fun n => s.rd (Od.udf t n))

/-- The key of a frame on a port. -/
def State.keyOf (s : State) (p vid : Nat) (bs : List Byte) (k : Parsed) (decrypted inner : Bool) : Nat :=
  buildKey bs k { port := p, vid := vid, portMeta := s.rd (Od.portMeta p), decrypted := decrypted, inner := inner,
                  wall := s.rd Od.wallEthertype, udf := s.udfWords (p / 8) }

/-- The PCP and DEI of a frame's outer tag, where its bytes carry one (R273, R337). -/
def remarkTag (bs : List Byte) (pcp : Nat) (dei : Bool) : List Byte :=
  if beAt bs 12 2 = 0x8100 ∨ beAt bs 12 2 = 0x88A8 then
    overlay bs 14 (beBytes 2 (pcp % 8 * 8192 + boolNat dei * 4096 + beAt bs 14 2 % 4096))
  else bs

/-- A DSCP written into the IP header (R273), with the IPv4 checksum made right. -/
def remarkDscp (bs : List Byte) (k : Parsed) (dscp : Nat) : List Byte :=
  match k.l3 with
  | none => bs
  | some o =>
    if k.ip = 4 then ipv4Checksum (overlay bs (o + 1) (beBytes 1 (dscp * 4 + beAt bs (o + 1) 1 % 4))) o
    else
      let w := beAt bs o 4
      overlay bs o (beBytes 4 (w - bitField w 27 22 * 2 ^ 22 + dscp * 2 ^ 22))

/-! ### Lookup (R260, R267, R271, R274, R282) -/

/-- What classification gives: an action with its rule, or what a miss does: drop, or a trap under a reason. -/
inductive Verdict where
  | act (a : Action) (rule : Option Nat)
  | drop
  | trap (reason : Nat)
  deriving DecidableEq, Repr

/-- The lookup of one pipeline and its consequences of a miss (R260, R267, R282): `kind` is the PacketType. -/
def State.classify_ (s : State) (t p pipeline kind key len : Nat) (seven count : Bool) : State × Verdict :=
  match s.lookup t pipeline key seven with
  | some r =>
    let a := actionOf r.action
    let s1 := if count then s.countRule t r.id len else s
    if a.exactEnable && pipeline == 0 then
      let (s2, x) := s1.exactLookup t a.exactTable key
      (s2, .act (match x with | some b => a.merge b | none => a) (some r.id))
    else (s1, .act a (some r.id))
  | none =>
    let s1 := s.bump (if pipeline = 0 then Od.ingressMisses t else Od.egressMisses t)
    if kind = 9 ∧ pipeline = 0 then
      if s1.rd (Od.linkLocalAction t) = 1 then (s1, .trap 6) else (s1.bump (Od.linkLocalDrops p), .drop)
    else if kind = 0xF then
      match s1.rd (Od.parseErrorAction t) with
      | 0 => (s1, .act actionNone none)
      | 1 => (s1, .drop)
      | _ => (s1, .trap 4)
    else match s1.rd (if pipeline = 0 then Od.ingressMissAction t else Od.egressMissAction t) with
      | 0 => (s1, .act actionNone none)
      | 1 => (s1, .drop)
      | _ => (s1, .trap 3)

/-! ### The action (R275) -/

/-- A constant-latency stream's record: valid, and its constant in ns (R204). -/
def State.streamConstant (s : State) (n : Nat) : Option Nat :=
  let v := beNat (slice (s.dom Od.streamTable) (8 * n) 8)
  if bitOf v 63 && n < streamLimit s.mode && s.mode != 6 then some (bitField v 59 40) else none

/-- A packet for one of the device's RDMA interfaces (R275): its destination is an RdmaIpv4 or RdmaIpv6. -/
def State.rdmaLocal (s : State) (k : Parsed) : Bool :=
  k.packetType == 0xA && k.dstIp != 0 && (List.range 256).any (fun p =>
    (k.ip == 4 && s.rd (Od.rdmaIpv4 p) % 2 ^ 32 == k.dstIp) || (k.ip == 6 && s.rd (Od.rdmaIpv6 p) == k.dstIp))

/-- A frame of a parse is counted under its ParseStatus on the port of its lookup (R260). -/
def State.countParse (s : State) (p : Nat) (k : Parsed) : State :=
  if k.status ≠ 0 then s.bump (Od.parseStatus p (k.status - 1)) else s

/-- A fragment of a RoCEv2 packet (R261). -/
def Parsed.roceFragment (k : Parsed) : Bool := k.fragment && k.packetType == 0xA

/-- What a frame carries through the steps of its action. -/
structure Passing where
  frame : Frame
  key : Parsed
  vlan : Vlan
  udf : List Nat
  clear : Bool
  deriving DecidableEq, Repr

/-- Step 8: the Trowel program of the action, within its rule's limit (R276); `none` where OverflowAction ends the
frame. -/
def State.trowelStep (s : State) (p : Nat) (a : Action) (rule : Option Nat) (clear : Bool) (f : Frame) :
    State × Option (Option Program) :=
  let q := pipeNo (p / 8) 0
  if !a.trowelEnable then (s, some none)
  else
    let k := q * 2 ^ 32 + rule.getD 0xFFFFFFFF
    let n := tblGet 0 s.classify.passed k
    if n < s.ruleAllowance q a.frameLimit then
      ({ s with classify.passed := tblPut s.classify.passed k (n + 1) }, some (s.program q a.trowelEntry))
    else
      let s1 := s.countOverflow (p / 8) (rule.getD 0xFFFFFFFF)
      match a.overflowAction with
      | 0 => (s1, some none)
      | 1 => (s1, none)
      | _ => (s1.trapFrame p 5 clear f, none)

/-- VerifyFailAction (R360): 0 drops the frame, 1 traps it under reason 7. [DESIGN CHOICE: log entry 147] -/
def State.verifyAction (s : State) (p : Nat) (clear : Bool) (f : Frame) : State :=
  if s.rd Od.verifyFailAction = 1 then s.trapFrame p 7 clear f else s

/-- Step 7: the cipher action of the frame as it stands (R275, R359, R360): the frame, or none where it ends. In mode 2
one that fails its check may be on its way already and goes on as faulty (R180). [DESIGN CHOICE: log entry 147] -/
def State.cipherStep (s0 : State) (p : Nat) (a : Action) (clear : Bool) (f : Frame) (k : Parsed) : State × Option Frame :=
  let s := if 2 ≤ a.cipherAction ∧ a.cipherAction ≤ 4 then s0.inlineRequest p f.cls f.len else s0
  match a.cipherAction with
  | 2 =>
    match s.espEncrypt p a.keySlot f.bytes k with
    | (s1, some bs) => (s1, some { f with bytes := bs, protected_ := true })
    | (s1, none) => (s1, none)
  | 3 =>
    let s1 := s.useSlot a.keySlot
    if s1.authOk a.keySlot f.bytes then (s1, some { f with inline := true })
    else
      let s2 := (s1.verifyFailed p).verifyAction p clear f
      (s2, if s2.mode = 2 then some { f with inline := true, bad := true } else none)
  | 4 => (s.useSlot a.keySlot, some { f with bytes := s.authSigned a.keySlot f.bytes, protected_ := true })
  | _ => (s, some f)

/-- Steps 2 to 9 of an action that neither drops nor traps (R275). -/
def State.applyAction (s : State) (p : Nat) (a : Action) (rule : Option Nat) (x : Passing) (order : Nat) : State :=
  let da := frameDa x.frame.bytes
  let s0 := s
  let (s1, dsts) :=
    if s.rdmaLocal x.key then (s, [])
    else if a.forwardKind = 0 then s.fdbForward p p x.vlan da (x.frame.cls == 7)
    else s.namedForward p p x.vlan.members a.forwardKind a.forwardDest
  let f1 := { x.frame with
    cls := if a.setClass then a.cls else x.frame.cls
    pcp := if a.setPcp then a.pcp else x.frame.pcp
    bytes := if a.setDscp then remarkDscp x.frame.bytes x.key a.dscp else x.frame.bytes
    metaValue := a.metaValue
    ruleId := rule.getD 0xFFFFFFFF }
  let (s2, passed) :=
    if a.policerEnable then
      s1.police (2048 * (p / 8) + a.policerIndex % 2048) f1.len f1.lastAt (f1.inline || f1.len ≤ 256) f1.dei f1.cls
    else (s1, some (f1.dei, f1.cls))
  match passed with
  | none => s2
  | some (dei, cls) =>
    let f2 := { f1 with dei := dei, cls := cls, bytes := remarkTag f1.bytes f1.pcp dei }
    let s3 := if s2.sealedOut x.clear f2.cls then s2 else s2.mirrorAll f2 false p f2.stamp a.mirrorMask
    let f3 := if a.streamEnable then
        match s3.streamConstant a.streamIndex with
        | some c => { f2 with launch := some (f2.stamp + c * nsTicks), stream := some a.streamIndex }
        | none => f2
      else f2
    match s3.cipherStep p a x.clear f3 x.key with
    | (s4, none) => s4
    | (s4, some f4) =>
      match s4.trowelStep p a rule x.clear f4 with
      | (s5, none) => s5
      | (s5, some prog) =>
        s5.enterPipe (pipeNo (p / 8) 0)
          { frame := f4, egress := false, port := p, order := order, mask := 0, rdma := s0.rdmaLocal x.key, program := prog, dsts := dsts,
            members := x.vlan.members, copy := a.disposition == 3, clear := x.clear, appId := x.key.appId,
            packetType := x.key.packetType, udf := x.udf, dict := s5.dict, doms := s5.doms, done := prog.isNone }

/-- The verdict carried out: drop, trap, or the action's steps (R275 step 1). -/
def State.carryOut (s : State) (p : Nat) (v : Verdict) (x : Passing) (order : Nat) : State :=
  match v with
  | .drop => s
  | .trap reason => s.trapFrame p reason x.clear x.frame
  | .act a rule =>
    let f := { x.frame with metaValue := a.metaValue, ruleId := rule.getD 0xFFFFFFFF }
    match a.disposition with
    | 1 => s
    | 2 => s.trapFrame p 1 x.clear f
    | _ => s.applyAction p a rule x order

/-- UDF values of a frame, for LDM. -/
def State.udfOf (s : State) (t : Nat) (bs : List Byte) (k : Parsed) : List Nat :=
  (s.udfWords t).map (fun u => (udfValue bs k u).1)

/-- The inner packet of a decrypted frame is parsed and looked up once more (R262). -/
def State.innerStep (s : State) (p : Nat) (x : Passing) (order : Nat) (bad : Bool)
    (bs : List Byte) : State :=
  let k := parseFrame bs (s.rd Od.wallEthertype)
  let f := { x.frame with bytes := bs, inline := true, decrypted := true, bad := x.frame.bad || bad }
  let (s1, v) := (s.countParse p k).classify_ (p / 8) p 0 k.packetType (s.keyOf p f.vid bs k f.macsec true) f.len
    (f.cls == 7) false
  let y := { x with frame := f, key := k, udf := s1.udfOf (p / 8) bs k }
  if k.roceFragment then s1.bump (Od.roceFragmentDrops p)
  else match v with
  | .act b r =>
    if b.cipherAction = 1 then
      (s1.bump (Od.innerDecryptRefused p)).carryOut p (.act { b with cipherAction := 0 } r) y order
    else s1.carryOut p v y order
  | _ => s1.carryOut p v y order

/-- The action decrypts ESP (R261, R262, R358). In mode 2 a packet whose ICV fails goes on as faulty (R180). -/
def State.espStep (s : State) (p : Nat) (a : Action) (rule : Option Nat) (x : Passing) (order : Nat) : State :=
  if x.key.fragment then s.bump (Od.cipherFragmentDrops p)
  else match (s.inlineRequest p order x.frame.len).espDecrypt p a.keySlot x.frame.bytes x.key with
  | (s1, .dropped) => s1
  | (s1, .failed bs) =>
    let s2 := (s1.verifyFailed p).verifyAction p x.clear { x.frame with metaValue := a.metaValue, ruleId := rule.getD 0xFFFFFFFF }
    if s2.mode = 2 then s2.innerStep p x order true bs else s2
  | (s1, .opened bs) => s1.innerStep p x order false bs

/-! ### FRAME_RECEIVE -/

/-- A frame that passed its filters, MACsec and the device functions (R222, R228, R251, R261, R267): VLAN, redundancy,
learning, lookup and action. `channel` is the MACsec channel that validated it; `checked` says that its
validation was tried, so that it is stored and forwarded (R178). [DESIGN CHOICE: log entry 40] -/
def State.classifyFrame (s : State) (p stamp course : Nat) (bad : Bool) (bs : List Byte) (k : Parsed)
    (channel : Option Nat) (checked clear : Bool) : State :=
  let t := p / 8
  let vid := s.vidOf p k
  let v := s.vlan vid
  if vid = 4095 then s.bump (Od.vlanInvalidDrops p)
  else if !v.valid || (s.rdB (Od.ingressFilter p) && !bitOf v.members p) then s.bump (Od.vlanIngressDrops p)
  else if bitOf (frameSa bs) 40 then s.bump (Od.invalidSource p)
  else
    match s.redReceive p v.fid bs with
    | (s1, none) => s1
    | (s1, some out) =>
      let (s2, id) := s1.newFrame
      let pcp := if k.tagCount = 0 then 0 else k.pcp
      let first := s2.classOf p pcp
      let cls := if first = 7 && (match channel with | some c => c < 5 | none => false) then 6 else first
      let f : Frame :=
        { id := id, src := p, bytes := out.bytes, cls := cls, stamp := stamp, course := course, bad := bad,
          inline := checked, launch := none, stream := none, admitted := 0, mirror := false, metaValue := 0,
          ruleId := 0xFFFFFFFF, vid := vid, dei := k.dei, completion := none, tsw := [], pcp := pcp,
          tagged := k.tagCount != 0, red := none, decrypted := channel.isSome, macsec := channel.isSome,
          arrival := some cls, protected_ := false, exc := none, cut := false,
          roce := none, acct := cls, lastAt := s2.now + 8 * (bs.length + 4) * nsTicks / s2.rate p, place := 0 }
      let s3 := match out.ring with
        | some q =>
          if s2.sealedOut clear cls || !bitOf v.members q then s2 else
          let (u, rid) := (if channel.isSome then s2.inlineRequest p cls (bs.length + 4) else s2).newFrame
          u.send { f with id := rid, bytes := bs } (.port (Fin.ofNat 256 q))
        | none => if channel.isSome then s2.inlineRequest p cls (bs.length + 4) else s2
      let (s4, goesOn) := if bad then (s3, true) else s3.learn p v (frameSa bs) (cls == 7)
      if !goesOn then s4
      else
        let s5 := s4.countParse p k
        let s6 := if k.fragment then s5.bump (Od.fragments p) else s5
        let inner := parseFrame out.bytes (s6.rd Od.wallEthertype)
        let key := s6.keyOf p vid bs k channel.isSome false
        let (s7, verdict) := s6.classify_ t p 0 k.packetType key f.len (cls == 7) true
        let x : Passing := { frame := f, key := inner, vlan := v, udf := s7.udfOf t bs k, clear := clear }
        if k.roceFragment then s7.bump (Od.roceFragmentDrops p)
        else match verdict with
        | .act a rule =>
          if a.cipherAction = 1 ∧ a.disposition ≠ 1 ∧ a.disposition ≠ 2 then s7.espStep p a rule x cls
          else s7.carryOut p verdict x cls
        | _ => s7.carryOut p verdict x cls

/-- A PFC frame's fields (R191): the class-enable vector and the quanta of the eight priorities. -/
def pfcFields (bs : List Byte) : Nat × List Nat :=
  (beAt bs 16 2 % 256, (List.range 8).map (fun n => beAt bs (18 + 2 * n) 2))

/-- A MAC control frame (R168): PAUSE and unknown opcodes are discarded, PFC acts. -/
def State.macControl (s : State) (p : PortId) (off : Nat) (bs : List Byte) : Res :=
  match beAt bs 14 2 with
  | 0x0001 => execPause p ⟨bs.length + 4, true⟩ s
  | 0x0101 => execPfc p off ⟨bs.length + 4, true⟩ (pfcFields bs).1 (pfcFields bs).2 s
  | _ => .next ((s.countRx p (bs.length + 4)).bump (Od.rxMacControlDiscarded p))

/-- Frames taken by their device function before lookup (R258), beside MAC control frames: LLDPDUs, PTP on a PTP port,
Wall PDUs on a Wall port, and hellos on any port, which are never forwarded (R243). [DESIGN CHOICE: log entry 40] -/
def State.deviceFrame (s : State) (p : Nat) (da : Nat) (k : Parsed) : Bool :=
  (s.rdB (Od.ptpEnable p) && (k.packetType == 4 || k.packetType == 0xB))
    || ((s.rdB (Od.wallPort p) || da == 0x0180C200000E) && k.packetType == 7)

/-- The frame after MACsec: EAPOL goes to MkaDest (R351), device functions take theirs (R258), the rest is
classified. [DESIGN CHOICE: log entries 40, 146] -/
def State.received (s : State) (p : Nat) (stamp : Nat) (bad : Bool) (bs : List Byte) (channel : Option Nat)
    (checked clear : Bool) : State :=
  let k := parseFrame bs (s.rd Od.wallEthertype)
  if k.ethertype = 0x888E then (if bad then s else (s.sendRecord (s.rd Od.mkaDest) bs).1)
  else if k.ethertype = 0x88CC then (if bad then s else (s.countLldpdu p).1)
  else if s.deviceFrame p (frameDa bs) k then s
  else s.classifyFrame p stamp s.course bad bs k channel checked clear

/-- FRAME_RECEIVE (R79, R168): the bytes from the destination address up to the FCS, and whether the FCS is good. A
frame with an FCS error or of excessive length goes on only as one that cut-through may already be forwarding; it
teaches nothing (R180, R228). -/
def execFrameReceive (p : PortId) (off : Nat) (bytes : List Byte) (fcsGood : Bool) (s : State) : Res :=
  let s := s.moveTo off
  let len := bytes.length + 4
  let stamp := s.rxStamp p
  let limit := s.rd (Od.maxFrameSize p) +
    (if s.rdB (Od.macsecEnable p) && beAt bytes 12 2 == 0x88E5 then (if bitOf (beAt bytes 14 1) 5 then 32 else 24) else 0)
  if !s.up p then .next (s.bump (Od.rxNotUp p))
  else if len < 64 then .next (s.bump (Od.rxRunts p))
  else
    let long := decide (limit < len)
    let bad := long || !fcsGood
    if !bad && beAt bytes 12 2 == 0x8808 then s.macControl p off bytes
    else if beAt bytes 12 2 == 0x8808 then .next (s.bump (if long then Od.rxOversize p else Od.rxFcsErrors p))
    else
      let s1 := if long then s.bump (Od.rxOversize p) else if !fcsGood then s.bump (Od.rxFcsErrors p)
        else s.countRx p len
      .next (match s1.macsecRx p bytes with
        | (s2, .dropped) => s2
        | (s2, .valid bs ch) => s2.received p stamp bad bs (some ch) true false
        | (s2, .failed bs) => s2.received p stamp true bs none true false
        | (s2, .accepted) => s2.received p stamp bad bytes none true (s2.mode == 4)
        | (s2, .clear) =>
          s2.received p stamp bad bytes none false
            (s2.mode == 4 && !uncontrolled (frameDa bytes) (beAt bytes 12 2) (s2.rd Od.wallEthertype)))

end Sys2Proof.Machine
end

