-- ==== Sys2Proof/Machine/Tio.lean ====
section
/-! DEFINITION. Machine/Tio.lean: the timing pins: captures, missing edges, generated edges (chapter "Time base and
timestamps", R88 to R92). -/

namespace Sys2Proof.Machine

/-- The pin's mode captures an edge of this polarity (R89). -/
def captures (mode : Nat) (rising : Bool) : Bool := mode == 3 || (mode == 1 && rising) || (mode == 2 && !rising)

/-- A discarded edge is counted and reported (R89). [DESIGN CHOICE: log entry 23] -/
def State.captureLost (s : State) (n : Nat) : State :=
  ((s.bump (Od.captureOverflow n)).raiseLimited 0x2A05 n 1 n).pinRecord n 4

/-- The timer of R90 starts with an accepted edge, when ExpectTimeout is non-zero. -/
def State.expectEdge (s : State) (n : Nat) : State :=
  if s.rd (Od.expectTimeout n) ≠ 0 then s.arm (tmExpect n) else s

/-- TIO_EDGE (R89): an edge of a polarity the mode captures, held for GlitchFilter ns, is accepted unless it comes less
than 20 ns after the accepted edge before it. Its stamp has the pin's constant and InputDelay removed.
[DESIGN CHOICE: log entry 23] -/
def execTioEdge (n : Fin 32) (off held : Nat) (rising : Bool) (s : State) : Res :=
  let s := s.moveTo off
  let x := s.pin n
  let close := match x.lastEdge with | some e => decide (s.now < e + 20 * nsTicks) | none => false
  .next (
    if !captures (s.rd (Od.tioMode n)) rising || held < s.rd (Od.glitchFilter n) then s
    else if close then s.captureLost n
    else
      let stamp := ((s.now : Int) - (s.pinConst n).1 * 64 - s.rdI 32 (Od.inputDelay n) * 64).toNat
      let s1 := ((s.bump (Od.captureCount n)).wr (Od.lastCapture n) (ts96 stamp)).expectEdge n
      let x1 := { x with lastEdge := some s.now, reported := false }
      if x.fifo.length < 64 then
        let s2 := s1.setPin n { x1 with fifo := x.fifo ++ [(stamp, rising)] }
        let owner := s2.rd (Od.tioOwner n)
        if owner = 0 then s2 else s2.ringDrain (owner - 1) ringFuel
      else (s1.setPin n x1).captureLost n)

/-- EXPECT_TIMEOUT (R90): one report for each gap; the report does not arm the timer again. -/
def execExpectTimeout (n : Fin 32) (s : State) : Res :=
  .next (if s.rd (Od.expectTimeout n) ≠ 0 ∧ s.due (tmExpect n) (s.rd (Od.expectTimeout n)) = true then
      ((((s.disarm (tmExpect n)).setPin n { s.pin n with reported := true }).raise 0x2A06 n.val)).pinRecord n 2
    else s)

/-- A write of TioMode or ExpectTimeout applies: the timer is armed when the entry is non-zero (R90). -/
def State.armExpect (s : State) (n : Nat) : State :=
  let s1 := s.setPin n { s.pin n with reported := false }
  if s1.rd (Od.expectTimeout n) ≠ 0 then s1.arm (tmExpect n) else s1.disarm (tmExpect n)

/-- A set or mode that comes too late (R91). -/
def State.lateEdge (s : State) (n : Nat) : State := (s.raise 0x2A07 n).pinRecord n 3

/-- A generation set is committed (R91): it is judged by the mode in force after the boundary. -/
def State.applyGen (s : State) (n start period width count : Nat) (delay : Int) : State :=
  s.setPin n { s.pin n with commits := (s.pin n).commits ++ [(start, period, width, count, delay)] }

/-- A write of TioMode applies (R90, R91): what it changes is judged once the boundary's writes have all applied. -/
def State.applyTioMode (s : State) (n old : Nat) : State :=
  (s.armExpect n).setPin n { (s.armExpect n).pin n with was := some ((s.pin n).was.getD old) }

/-- A StartTime that modes 4 and 5 refuse: it lies before the end of the course that the boundary begins (R91). -/
def State.tooLate (s : State) (n start : Nat) : Bool :=
  (s.rd (Od.tioMode n) == 4 || s.rd (Od.tioMode n) == 5) && decide (start < s.clock.finish)

/-- What MRAM keeps of a refused set is again the set in force, which a start-up then loads (R91). -/
def State.restoreGen (s : State) (n : Nat) : State :=
  [Od.period n, Od.width n, Od.count n, Od.outputDelay n].foldl (fun s k => s.wrPersist k (s.rd k)) s

/-- A committed set comes into force, or is refused and the previous one stays (R91). -/
def State.judgeGen (s : State) (n : Nat) (g : Nat × Nat × Nat × Nat × Int) : State :=
  let (start, period, width, count, delay) := g
  if s.tooLate n start then (s.restoreGen n).lateEdge n
  else
    ((((((s.setPin n { s.pin n with genArmed := true, generated := 0 }).wr (Od.startTime n) (ts96 start)).wr
      (Od.period n) period).wr (Od.width n) width).wr (Od.count n) count).wrI 32 (Od.outputDelay n) delay)

/-- Start of the generation set in force. -/
def State.genStart (s : State) (n : Nat) : Nat := ts96Ticks (s.rd (Od.startTime n))

/-- The mode became 4 or 5 with no set that came into force at the same boundary: the set in force is checked, and one
that fails generates no edge (R91). -/
def State.judgeMode (s : State) (n : Nat) : State :=
  if s.tooLate n (s.genStart n) then (s.setPin n { s.pin n with genArmed := false }).lateEdge n
  else s.setPin n { s.pin n with genArmed := true, generated := 0 }

/-- A pin once the boundary's writes have applied (R91): the committed sets in order, then a change of mode. -/
def State.pinBoundary (s : State) (n : Nat) : State :=
  let x := s.pin n
  let s1 := x.commits.foldl (fun s g => s.judgeGen n g) (s.setPin n { x with commits := [], was := none })
  let m := s.rd (Od.tioMode n)
  let became := (m == 4 || m == 5) && (match x.was with | some old => old != m | none => false)
  if became && x.commits.all (fun g => s.tooLate n g.1) then s1.judgeMode n else s1

/-- Every pin that a write or a commit of the boundary concerns. -/
def State.pinsBoundary (s : State) : State := forEach (List.range 32) (fun n s => s.pinBoundary n) s

/-- The owner of a pin changes at a boundary (R88): what waits goes to the new owner. -/
def State.applyTioOwner (s : State) (n owner : Nat) : State :=
  let s1 := s.wr (Od.tioOwner n) owner
  if owner = 0 then s1 else s1.ringDrain (owner - 1) ringFuel

/-- Pins owned by a link that is absent pass to the dictionary at the boundary, persisted (R88). -/
def State.pinsOfAbsentLinks (s : State) : State :=
  forEach (List.range 32) (fun n s =>
    let owner := s.rd (Od.tioOwner n)
    if owner ≠ 0 ∧ !s.linkPresent (owner - 1) then s.wrPersist (Od.tioOwner n) 0 else s) s

/-- GENERATED_EDGE (R88, R91): the pin drives its next edge at the programmed instant, with OutputDelay and the pin's
constant removed: a single edge, the next pulse of a train until Count are out, or a pulse at a whole second. A pulse ends
after Width. [DESIGN CHOICE: log entry 148] -/
def execGeneratedEdge (n : Fin 32) (off : Nat) (s : State) : Res :=
  let s := s.moveTo off
  let x := s.pin n
  let m := s.rd (Od.tioMode n)
  let go := (m = 4 ∧ x.genArmed ∧ x.generated = 0) ∨
            (m = 5 ∧ x.genArmed ∧ (s.rd (Od.count n) = 0 ∨ x.generated < s.rd (Od.count n))) ∨ m = 6
  let t := if m = 6 then secondFloor s.now
    else s.genStart n + (if m = 5 then x.generated * s.rd (Od.period n) else 0)
  let ball := ((t : Int) - s.rdI 32 (Od.outputDelay n) * 64 - (s.pinConst n).2 * 64).toNat
  if go then
    let s1 := (s.setPin n { x with generated := x.generated + 1 }).emit (.pin "TIO" n true ball)
    .next (if m = 4 then s1 else s1.emit (.pin "TIO" n false (ball + s.rd (Od.width n) * nsTicks)))
  else .next s

end Sys2Proof.Machine
end

