-- ==== Sys2Proof/Machine/Host.lean ====
section
/-! DEFINITION. Machine/Host.lean: queue pairs, transmit and receive, interrupts, the PF3 event ring, peer windows and
what the device answers (chapter "Host endpoint", R396 to R419). -/

namespace Sys2Proof.Machine

/-! ### Access (R393, R396, R414) -/

/-- The number of a queue pair's function, 4 × link + function. -/
def qrFn (k : QueueRef) : Nat := 4 * k.link.val + k.fn.val

/-- Key of a queue pair. -/
def qrKey (k : QueueRef) : Nat := qpKey (qrFn k) k.slice.val k.q.val

/-- A function answers memory requests: its link exists and is up, it is in D0 and no reset runs. -/
def State.answers (s : State) (f : Nat) : Bool :=
  s.linkPresent (f / 4) && s.hostLinkUp (f / 4) && (s.hostFn f).power == 0 && !(s.hostFn f).resetting

/-- A write to the slice's area of a PF1 or PF3 acts (R396, R428). -/
def State.areaOpen (s : State) (k : QueueRef) : Bool :=
  (k.fn.val == 1 || k.fn.val == 3) && s.answers (qrFn k) && (s.block (qrFn k) k.slice.val).bound

/-- A request from a host is answered with Unsupported Request. -/
def State.unsupported (s : State) (f : Nat) : State :=
  (s.bump (Od.urSent f)).emit (.completion (f / 4) (f % 4) 1 [])

/-- A transmit frame holds this many bricks: its bytes as sent, padded to 60, and the FCS. -/
def txBricksOf (len : Nat) : Nat := ceilDiv (max 60 len + 4) 256

/-- The fields of a transmit descriptor (R400's layout). -/
def txLen (d : Nat) : Nat := bitField d 127 112
/-- Another descriptor of the frame follows. -/
def txMore (d : Nat) : Bool := bitOf d 95

/-- Bytes of a frame's descriptors together. -/
def TxFrame.len (x : TxFrame) : Nat := (x.descs.map txLen).sum

/-- The last descriptor of a frame: its class, cookie, launch time and stamp request are the frame's. -/
def TxFrame.last (x : TxFrame) : Nat := x.descs.getLastD 0

/-! ### Queue pairs (R398 to R400, R412) -/

/-- A write of Enable 1 is refused (R399, R424): by the port, a transmit ring without a PF1 binding, or an index beyond
the slice's QueuePairs. [DESIGN CHOICE: log entry 60] -/
def State.enableRefused (s : State) (k : QueueRef) (q : QueuePair) : Bool :=
  let x := s.sliceSet k.slice.val
  !portMapBit x.ports q.txPort
    || (ringSize q.txLog != 0 && !(s.block (4 * k.link.val + 1) k.slice.val).bound)
    || x.queuePairs ≤ k.q.val

/-- QUEUE_ENABLE (R399): the queue pair starts at index 0 and Phase 1, or at what SliceState wrote (R438).
[DESIGN CHOICE: log entry 60] -/
def execQueueEnable (k : QueueRef) (s : State) : Res :=
  let q := s.qp (qrKey k)
  .next (if !s.areaOpen k || q.enable then s
    else if s.enableRefused k q then s.setQp (qrKey k) { q with refused := true }
    else
      let (t, r, c, ph) := q.restored.getD (0, 0, 0, true)
      s.setQp (qrKey k) { q with enable := true, refused := false, restored := none, txHead := t, txTail := t, rxHead := r,
                                 rxTail := r, rxFetch := r, rxDescs := [], cqTail := c, cqHead := c, phase := ph, cqUsed := 0,
                                 cqWaiting := [], armed := false, unsignalled := [], building := [] })

/-- Enable 0 is written to a queue pair: fetch stops at once (R399). -/
def State.stopQueue (s : State) (k : Nat) : State :=
  let q := s.qp k
  if !q.enable || q.stopping then s
  else (s.setQp k { q with stopping := true }).abandonReads (fun r =>
    r.queue == k && (r.kind == .txDescriptor || r.kind == .rxDescriptor || r.kind == .txPayload))

/-- QUEUE_DISABLE (R399). -/
def execQueueDisable (k : QueueRef) (s : State) : Res := .next (if s.areaOpen k then s.stopQueue (qrKey k) else s)

/-- Reads of a queue pair that have not ended. -/
def State.queueReads (s : State) (k : Nat) : Bool :=
  s.host.reads.any (fun r => r.queue == k && (r.kind == .txDescriptor || r.kind == .rxDescriptor || r.kind == .txPayload))

/-- OwnerId of a host tile's own buffers (R372). -/
def hostOwner (f : Nat) : Nat := (0x34 + f / 8) * 64 + 0x38

/-- A queue pair is reset and its buffers reclaimed (R383, R399): frames being gathered and frames waiting for
delivery. -/
def State.resetQueue (s : State) (k : Nat) : State :=
  let q := s.qp k
  let pool := 0x34 + qpFn k / 8
  let gathered := ((q.building.filter (fun x => x.started)).map (fun x => txBricksOf x.len)).sum
  let (mine, others) := s.switch.rx.partition (fun x => s.destQp x.dest == k)
  let held := ((mine.filter (fun x => x.via.isNone)).map (fun x => x.frame.bricks)).sum
  let s1 := { s with switch := { s.switch with rx := others } }
  let s2 := mine.foldl (fun s x => s.dropCopy x.frame) s1
  let s3 := if gathered + held = 0 then s2 else s2.poolGive pool (gathered + held)
  let s4 := s3.setQp k { QueuePair.fresh with launchTime := q.launchTime, txPort := q.txPort, vector := q.vector,
                                              coalesceCourses := q.coalesceCourses, coalesceCount := q.coalesceCount,
                                              nextFrame := q.nextFrame, epoch := q.epoch + 1 }
  s4.raise 0x4A09 (hostOwner (qpFn k) * 2 ^ 32 + gathered + held)

/-- A queue pair halts (R412, R413); what a function-level reset stops is no halt to log (R414).
[DESIGN CHOICE: log entry 165] -/
def State.haltQueue (s : State) (k : Nat) : State :=
  let q := s.qp k
  let t := (s.setQp k { q with halted := true }).abandonReads (fun r =>
    r.queue == k && (r.kind == .txDescriptor || r.kind == .rxDescriptor || r.kind == .txPayload))
  if !q.enable || q.halted then s
  else if (s.hostFn (qpFn k)).resetting then t else t.raiseLimited 0x8A04 (qpFn k) 1 k

/-- TX_TAIL (R400): an index is taken modulo the ring. [DESIGN CHOICE: log entry 59] -/
def execTxTail (k : QueueRef) (index : BitVec 16) (s : State) : Res :=
  let q := s.qp (qrKey k)
  .next (if s.areaOpen k && q.enable && ringSize q.txLog != 0 then
    s.setQp (qrKey k) { q with txTail := index.toNat % ringSize q.txLog } else s)

/-- RX_TAIL (R400). [DESIGN CHOICE: log entry 59] -/
def execRxTail (k : QueueRef) (index : BitVec 16) (s : State) : Res :=
  let q := s.qp (qrKey k)
  .next (if s.areaOpen k && q.enable && ringSize q.rxLog != 0 then
    s.setQp (qrKey k) { q with rxTail := index.toNat % ringSize q.rxLog } else s)

/-- CQ_HEAD (R400, R404, R418): slots up to the index are released, records that waited are written, and bit 31 arms the
interrupt. [DESIGN CHOICE: log entries 59, 62] -/
def execCqHead (k : QueueRef) (index : BitVec 16) (arm : Bool) (s : State) : Res :=
  let q := s.qp (qrKey k)
  let n := ringSize q.cqLog
  .next (if s.areaOpen k && q.enable && n != 0 then
    let i := index.toNat % n
    let used := q.cqUsed - (i + n - q.cqHead % n) % n
    let s1 := s.setQp (qrKey k) { q with cqHead := i, cqUsed := used, armed := q.armed || arm,
                                         unsignalled := q.unsignalled.drop (q.unsignalled.length - used) }
    if q.halted || q.stopping then s1 else s1.cqDrain (qrKey k) q.cqWaiting.length
  else s)

/-! ### Transmit (R400 to R402, R408, R431, R432) -/

/-- Bricks of the host tile's pool that a slice's transmit frames hold. -/
def State.txHeld (s : State) (slice : Nat) : Nat :=
  (s.host.queues.map (fun e =>
    if qpSlice e.1 = slice then ((e.2.building.filter (fun x => x.started)).map (fun x => txBricksOf x.len)).sum
    else 0)).sum
    + ((s.switch.transit.filter (fun t => match t.frame.completion with
        | some d => qpSlice d.queue == slice | none => false)).map (fun t => t.frame.bricks)).sum

/-- Bricks of a host tile's pool kept for class 7 and for its aligned queues (R210, R378). -/
def State.hostReserve (s : State) (port : Nat) : Nat :=
  256 + ((List.range 128).map (fun i =>
    let q := 128 * port + i
    if s.rdB (Od.alignedEnable q) then ceilDiv (s.rd (Od.capacityBytes q)) 256 else 0)).sum

/-- Address and bytes to the end of its buffer, of the payload byte `o` of a frame. -/
def payloadAt : List Nat → Nat → Nat × Nat
  | [], _ => (0, 0)
  | d :: ds, o => if o < txLen d then (bitField d 255 192 + o, txLen d - o) else payloadAt ds (o - txLen d)

/-- Relaxed Ordering of a data access: asked for and enabled (R407). -/
def State.relaxedOk (s : State) (f : Nat) (asked : Bool) : Bool := asked && bitOf (s.hostFn f).deviceControl 4

/-- Set the frame that queue pair `k` is gathering under a number. -/
def State.setBuilding (s : State) (k : Nat) (x : TxFrame) : State :=
  let q := s.qp k
  s.setQp k { q with building := q.building.map (fun y => if y.id = x.id then x else y) }

/-- Fetch for a transmit ring as far as tracker entries and bricks allow, in ring order: payload of the frames begun,
then bricks for the next frame, then the next descriptor. A wait is counted. -/
def State.txPump (s : State) (k : Nat) : Nat → State
  | 0 => s
  | n + 1 =>
    let q := s.qp k
    let f := qpFn k
    let slice := qpSlice k
    match q.building.find? (fun x => x.started && decide (x.fetched < x.len)) with
    | some x =>
      if s.mayStart slice then
        let (a, room) := payloadAt x.descs x.fetched
        let m := min (min room (x.len - x.fetched)) (s.readSize f - a % s.readSize f)
        ((s.readWith (s.relaxedOk f (bitOf x.last 92)) .txPayload f (some slice) k x.id x.fetched a m).setBuilding k
          { x with fetched := x.fetched + m }).txPump k n
      else s.bumpSlice slice 1
    | none =>
      match q.building.find? (fun x => x.ended && !x.started && x.status == 0) with
      | some x =>
        let need := txBricksOf x.len
        if s.txHeld slice + need ≤ (s.sliceSet slice).txBricks ∧
            need + s.hostReserve (f / 8) ≤ s.poolFree (0x34 + f / 8) then
          ((s.poolTake (0x34 + f / 8) need).setBuilding k { x with started := true }).txPump k n
        else s.bumpSlice slice 2
      | none =>
        if q.txHead = q.txTail ∨ s.host.reads.any (fun r => r.queue == k && r.kind == .txDescriptor) then s
        else if s.mayStart slice then
          (s.setQp k { q with txHead := (q.txHead + 1) % max 1 (ringSize q.txLog) }).read .txDescriptor f (some slice) k 0 0
            (q.txBase + 32 * q.txHead) 32
        else s.bumpSlice slice 1

/-- Fetch the next receive descriptor. -/
def State.rxPump (s : State) (k : Nat) : State :=
  let q := s.qp k
  let slice := qpSlice k
  if q.rxFetch = q.rxTail ∨ s.host.reads.any (fun r => r.queue == k && r.kind == .rxDescriptor) then s
  else if s.mayStart slice then
    (s.setQp k { q with rxFetch := (q.rxFetch + 1) % max 1 (ringSize q.rxLog) }).read .rxDescriptor (qpFn k) (some slice)
      k 0 0 (q.rxBase + 16 * q.rxFetch) 16
  else s.bumpSlice slice 1

/-- A queue pair may fetch: enabled, not stopping or halted, its function may issue requests, its slice not quiescing. -/
def State.mayFetch (s : State) (k : Nat) : Bool :=
  let q := s.qp k
  q.enable && !q.stopping && !q.halted && s.canMaster (qpFn k) && !s.quiescing (qpSlice k)
    && (s.block (qpFn k) (qpSlice k)).bound

/-- DESCRIPTOR_FETCH (R401, R408, R431, R432): of the transmit or the receive ring. -/
def execDescriptorFetch (k : QueueRef) (receive : Bool) (s : State) : Res :=
  .next (if !s.mayFetch (qrKey k) then s
    else if receive then s.rxPump (qrKey k)
    else if k.fn.val = 1 then s.txPump (qrKey k) 4096 else s)

/-- The queue is listed for class 7 (R401): entries of link, function and queue ID. -/
def State.protectionQueue (s : State) (k : Nat) : Bool :=
  (chunks 6 64 (s.dom Od.protectionTxQueues)).any (fun e =>
    beAt e 0 1 == qpFn k / 4 && beAt e 1 1 == qpFn k % 4 && beAt e 2 4 == k % 2 ^ 18)

/-- A transmit descriptor has been read (R400, R401): it joins the frame being gathered; with the last one the frame's
length and class are judged. Length 0 and more than 8 descriptors drop the frame. [DESIGN CHOICE: log entry 59] -/
def State.txDescribed (s : State) (k d : Nat) : State :=
  let q := s.qp k
  let f := qpFn k
  let (old, x) := match q.building.getLast? with
    | some y => if y.ended then (q.building, none) else (q.building.dropLast, some y)
    | none => ([], none)
  let y : TxFrame := x.getD { id := q.nextFrame, descs := [], parts := [], ended := false, started := false, fetched := 0,
                              status := 0 }
  let bad := txLen d == 0 || 16124 < txLen d || 8 ≤ y.descs.length
  let z := { y with descs := y.descs ++ [d], ended := !txMore d, status := if bad then 1 else y.status }
  let big := decide (s.rd (Od.maxFrameSize q.txPort) - 4 < z.len) && z.ended
  let s1 := s.setQp k { q with building := old ++ [if big then { z with status := 1 } else z],
                               nextFrame := if x.isNone then q.nextFrame + 1 else q.nextFrame }
  if big then s1.bump (Od.txOversize f) else s1

/-- Send a host frame to the ports its TxPort stands for (R250); one copy carries the completion. -/
def State.hostSend (s : State) (p : Nat) (f : Frame) : State :=
  let (s1, red) := match s.pairOf p with
    | some r => let (t, n) := s.redNumber r (frameSa f.bytes); (t, some n)
    | none => (s, none)
  match s1.pairPorts p with
  | [] => s1
  | a :: rest =>
    rest.foldl (fun s b => s.send { f with red := red, completion := none } (.port (Fin.ofNat 256 b)))
      (s1.send { f with red := red } (.port (Fin.ofNat 256 a)))

/-- A frame gathered whole is formed and crosses the Mortar (R401). -/
def State.txForm (s : State) (k : Nat) (x : TxFrame) : State :=
  let q := s.qp k
  let f := qpFn k
  let d := x.last
  let body := ((x.parts.mergeSort (fun a b => a.1 ≤ b.1)).map (fun e => e.2)).flatten
  let bytes := if body.length < 60 then sized 60 body else body
  let asked := bitField d 91 89
  let down := asked == 7 && !s.protectionQueue k
  let s1 := if down then s.bump (Od.classDowngrades f) else s
  let v := bitField d 191 128
  let ns := (extendTs 54 (v / 1024) (s.now / nsTicks)).toNat
  let (s2, id) := s1.newFrame
  s2.hostSend q.txPort { Frame.plain id bytes s2.now s2.course with
    src := 256 + f
    cls := if down then 6 else asked
    launch := if bitOf d 93 && q.launchTime then some (ns * nsTicks + v % 1024 * 64) else none
    completion := some { queue := k, cookie := bitField d 111 96, stamp := bitOf d 94, epoch := q.epoch } }

/-- Frames leave the head of the gathering in ring order: those read whole are sent, those refused or failed complete
with their status (R402, R408, R410). [DESIGN CHOICE: log entry 59] -/
def State.txAdvance (s : State) (k : Nat) : Nat → State
  | 0 => s
  | n + 1 =>
    let q := s.qp k
    match q.building with
    | [] => s
    | x :: rest =>
      let waiting := s.host.reads.any (fun r => r.queue == k && r.kind == .txPayload && r.id == x.id)
      if !x.ended || waiting then s
      else if x.status = 0 then
        if x.started && decide (x.len ≤ x.fetched) then
          ((s.setQp k { q with building := rest }).txForm k x).txAdvance k n
        else s
      else
        let s1 := s.setQp k { q with building := rest }
        let s2 := if x.started then s1.poolGive (0x34 + qpFn k / 8) (txBricksOf x.len) else s1
        (s2.cqWrite k (cqRecord 1 x.status false false false (bitField x.last 91 89) none (bitField x.last 111 96) x.len
          q.txPort 0 0 0)).txAdvance k n

/-! ### Receive (R403, R404, R407, R411) -/

/-- HOST_RECEIVE_DELIVERY (R403, R407): the oldest frame for a queue pair is written to its posted buffer, then its
completion record, then the interrupt; `poisoned` says that its data has an uncorrectable error (R411). A descriptor
that is posted and not yet fetched is awaited. -/
def execHostReceiveDelivery (k : QueueRef) (off : Nat) (poisoned : Bool) (s : State) : Res :=
  let s := s.moveTo off
  let f := (qrFn k)
  let slice := k.slice.val
  let q := s.qp (qrKey k)
  .next (match s.switch.rx.find? (fun x => s.destQp x.dest == (qrKey k)) with
    | none => s
    | some x =>
      let s1 := { s with switch := { s.switch with rx := s.switch.rx.erase x } }
      let s2 := (if x.via.isNone then s1.poolGive (0x34 + f / 8) x.frame.bricks else s1).dropCopy x.frame
      if q.halted then s2.bump (Od.rxHalted f)
      else if s.quiescing slice then s2.bumpSlice slice 0
      else if !q.enable || q.stopping || q.rxHead == q.rxTail then s2.bump (Od.rxNoBuffer f)
      else
        match q.rxDescs with
        | [] => s
        | d :: rest =>
          let head := match x.frame.exc with | some e => leBytes 16 e | none => []
          let all := head ++ x.frame.bytes
          let s3 := s2.setQp (qrKey k) { q with rxDescs := rest, rxHead := (q.rxHead + 1) % max 1 (ringSize q.rxLog) }
          let s4 := s3.hostWrite f (some slice) (bitField d 127 64) (s.relaxedOk f (bitOf d 31)) poisoned
            (all.take (bitField d 63 48))
          let s5 := if poisoned then (s4.bump (Od.poisonForwarded f)).raiseLimited 0x8A06 f 1 f else s4
          s5.cqWrite (qrKey k) (cqRecord (if x.frame.exc.isSome then 3 else 2) (if poisoned then 3 else 0) x.late
            (decide (x.frame.src < 256)) x.frame.decrypted x.frame.cls x.via (bitField d 47 32) all.length x.frame.src
            x.frame.metaValue x.frame.ruleId x.frame.stamp))

/-! ### Interrupts and the event ring (R405, R406, R413, R418) -/

/-- EVENT_RING_ENABLE (R405, R413): a write at offset 0x0108. Enable 0 stops the ring and ends a halt; Enable 1 after it
starts at index 0 with Phase 1, and what waits is written. -/
def execEventRingEnable (link : Fin 4) (value : BitVec 32) (s : State) : Res :=
  let r := s.ring link
  let v := value.toNat
  .next (if !s.answers (4 * link.val + 3) then s
    else if bitOf v 31 then
      if r.enable then s
      else (s.setRing link { r with enable := true, halted := false, log := v % 16, tail := 0, head := 0, used := 0,
                                    phase := true, armed := false }).ringDrain link ringFuel
    else s.setRing link { r with enable := false, halted := false, log := v % 16 })

/-- EVENT_HEAD (R405, R406): space is released, bit 31 arms, and what waits is written in order. -/
def execEventHead (link : Fin 4) (value : BitVec 32) (s : State) : Res :=
  let r := s.ring link
  let n := ringSize r.log
  .next (if s.answers (4 * link.val + 3) && r.enable && n != 0 then
    let i := value.toNat % 2 ^ 16 % n
    (s.setRing link { r with head := i, used := r.used - (i + n - r.head % n) % n,
                             armed := r.armed || bitOf value.toNat 31 }).ringDrain link ringFuel
  else s)

/-- TIME_LOW (R405): the read answers the low word of the present instant and latches the others.
[DESIGN CHOICE: log entry 117] -/
def execTimeLow (link : Fin 4) (off : Nat) (s : State) : Res :=
  let s := s.moveTo off
  let t := ts96 s.now
  .next (if s.answers (4 * link.val + 3) then
    (s.setRing link { s.ring link with latched := t / 2 ^ 32 }).emit (.completion link 3 0 (leBytes 4 t))
  else if s.linkPresent link && s.hostLinkUp link then s.unsupported (4 * link.val + 3) else s)

/-! ### What the device answers (R409) -/

/-- ATOMIC_OP (R409): Unsupported Request. -/
def execAtomicOp (link fn : Fin 4) (s : State) : Res :=
  .next (if s.linkPresent link && s.hostLinkUp link then s.unsupported (4 * link.val + fn.val) else s)

/-- POISONED_WRITE (R409): dropped, counted, and logged under AER as Poisoned TLP Received. -/
def execPoisonedWrite (link fn : Fin 4) (s : State) : Res :=
  let f := 4 * link.val + fn.val
  let x := s.hostFn f
  .next (if s.linkPresent link && s.hostLinkUp link then
    (s.setHostFn f { x with aerUncorrectable := withBit x.aerUncorrectable 12 true }).bump (Od.poisonedReceived f)
  else s)

/-- VENDOR_DEFINED_MESSAGE (R409): dropped and counted. -/
def execVendorDefinedMessage (link fn : Fin 4) (s : State) : Res :=
  .next (if s.linkPresent link && s.hostLinkUp link then s.bump (Od.messagesDropped (4 * link.val + fn.val)) else s)

/-- A completion for which no request is outstanding (R117, R409): discarded and counted; an Advisory Non-Fatal
Unexpected Completion. -/
def State.unexpected (s : State) (f : Nat) : State :=
  let x := s.hostFn f
  (((s.setHostFn f { x with aerUncorrectable := withBit x.aerUncorrectable 16 true,
                            aerCorrectable := withBit x.aerCorrectable 13 true }).bump
    (Od.unexpectedCompletions f)).raiseLimited 0x8A02 f 1 f)

/-- UNEXPECTED_COMPLETION (R409). -/
def execUnexpectedCompletion (link fn : Fin 4) (tag : Nat) (s : State) : Res :=
  .next (if s.linkPresent link && s.hostLinkUp link && !(s.tagsOut link).contains tag then
    s.unexpected (4 * link.val + fn.val) else s)

/-! ### Peer windows (R415 to R417) -/

/-- A window after reset: Log2Size 12, all else 0. -/
def PeerWindow.fresh : PeerWindow :=
  { shadow := 12 * 2 ^ 186, active := 12 * 2 ^ 186, pending := false, error := false, course := 0 }

/-- Window w of an upstream port. -/
def State.window (s : State) (port w : Nat) : PeerWindow := tblGet PeerWindow.fresh s.host.windows (64 * port + w)

/-- Set a window. -/
def State.setWindow (s : State) (port w : Nat) (x : PeerWindow) : State :=
  { s with host := { s.host with windows := tblSet PeerWindow.fresh s.host.windows (64 * port + w) x } }

/-- The windows of a link: all of its port's, or its half in x8x8. -/
def State.windowsOf (s : State) (link : Nat) : List Nat :=
  if s.rd (Od.bifurcation (link / 2)) = 1 then (List.range 32).map (fun i => 32 * (link % 2) + i) else List.range 64

/-- Fields of a window's 32 bytes: offset in BAR4. -/
def winBase (v : Nat) : Nat := bitField v 255 192
/-- Size in bytes. -/
def winSize (v : Nat) : Nat := 2 ^ bitField v 191 186
/-- Target: 0 disabled, 1 HBM, 2 doorbells. -/
def winTarget (v : Nat) : Nat := bitField v 185 184
/-- Offset in the target. -/
def winOffset (v : Nat) : Nat := bitField v 175 112
/-- The window is enabled. -/
def winEnabled (v : Nat) : Bool := winTarget v == 1 || winTarget v == 2

/-! ### The course in which a set with a target time applies (R121, R534) -/

/-- The number of the course that begins at the first boundary at or after an instant, with a pending change of length
counted. [DESIGN CHOICE: log entry 102] -/
def State.courseAt (s : State) (t : Nat) : Nat :=
  let next := s.course + 1
  let pending := s.rd Od.coursePending
  if t ≤ s.clock.finish then next
  else if pending = 0 ∨ t ≤ s.clock.lengthAt then next + ceilDiv (t - s.clock.finish) s.lenTicks
  else next + (s.clock.lengthAt - s.clock.finish) / s.lenTicks + ceilDiv (t - s.clock.lengthAt) (pending * nsTicks)

/-- The course at whose beginning a commit applies, on the grids known now. [DESIGN CHOICE: log entry 102] -/
def State.commitCourse (s : State) (c : Commit) : Nat :=
  if c.target = 0 then c.course else max c.course (s.courseAt c.target)

/-- Set commits and window commits accepted for the boundary that begins course c (R122). -/
def State.commitsAt (s : State) (c : Nat) : Nat :=
  (s.agent.commits.filter (fun x => s.commitCourse x == c)).length
    + (s.host.windows.filter (fun e => e.2.pending && e.2.course == c)).length

/-- The first course from c on whose beginning has room for a commit. -/
def State.roomFrom (s : State) (c : Nat) : Nat → Nat
  | 0 => c
  | n + 1 => if s.commitsAt c < 64 then c else s.roomFrom (c + 1) n

/-- PEER_WINDOW_COMMIT (R415): Commit 1 written to window w of a PF1. -/
def execPeerWindowCommit (link : Fin 4) (w : Fin 64) (off : Nat) (s : State) : Res :=
  let s := s.moveTo off
  let x := s.window (link.val / 2) w
  .next (if s.answers (4 * link.val + 1) && (s.windowsOf link).contains w.val && !x.pending then
    s.setWindow (link.val / 2) w { x with pending := true, error := false, course := s.roomFrom s.applyCourse 256 }
  else s)

/-- Two windows of a port lie in one aperture: that of the port's only link, or of the link whose half they are of.
[DESIGN CHOICE: log entry 99] -/
def State.sameAperture (s : State) (port v w : Nat) : Bool := s.rd (Od.bifurcation port) != 1 || v / 32 == w / 32

/-- A window as it would stand may not: it overlaps another, or its HBM target leaves the peer region (R416).
[DESIGN CHOICE: log entry 99] -/
def State.windowBad (s : State) (port : Nat) (v : Nat) (others : List Nat) : Bool :=
  let clash (o : Nat) : Bool :=
    winEnabled o && decide (winBase v < winBase o + winSize o) && decide (winBase o < winBase v + winSize v)
  winEnabled v && (others.any clash
    || (winTarget v == 1 && decide (s.rd (Od.peerRegionSize port) < winOffset v + winSize v)))

/-- The first commit, in window order, that the set as it will stand refuses; it keeps its active fields and the rest are
checked again. What a window will hold, by window: its new value and whether its commit still stands.
[DESIGN CHOICE: log entry 61] -/
def State.settle (s : State) (port : Nat) (ws : List (Nat × Nat × Nat × Bool)) : Nat → List (Nat × Nat × Nat × Bool)
  | 0 => ws
  | n + 1 =>
    let value (e : Nat × Nat × Nat × Bool) : Nat := if e.2.2.2 then e.2.1 else e.2.2.1
    match ws.find? (fun e => e.2.2.2 && s.windowBad port e.2.1 ((ws.filter (fun o => o.1 != e.1
      && s.sameAperture port o.1 e.1)).map value)) with
    | none => ws
    | some bad => s.settle port (ws.map (fun e => if e.1 = bad.1 then (e.1, e.2.1, e.2.2.1, false) else e)) n

/-- The peer-window commits of a boundary (step 10; R415, R416), for one upstream port.
[DESIGN CHOICE: log entry 61] -/
def State.peerBoundary (s : State) (port : Nat) : State :=
  let due := (List.range 64).filter (fun w => (s.window port w).pending && (s.window port w).course ≤ s.course)
  if due.isEmpty then s
  else
    let start := (List.range 64).map (fun w => (w, (s.window port w).shadow, (s.window port w).active, due.contains w))
    let out := s.settle port start 64
    due.foldl (fun s w =>
      let x := s.window port w
      if out.any (fun e => e.1 == w && e.2.2.2) then
        s.setWindow port w { x with active := x.shadow, pending := false }
      else s.setWindow port w { x with pending := false, error := true }) s

/-- A byte of the peer region. [DESIGN CHOICE: log entries 61, 126] -/
def State.peerByte (s : State) (a : Nat) : Byte := tblGet 0 s.host.peer a

/-- Store bytes in HBM. -/
def State.peerStore (s : State) (a : Nat) : List Byte → State
  | [] => s
  | b :: bs => ({ s with host := { s.host with peer := tblSet 0 s.host.peer a b } }).peerStore (a + 1) bs

/-- A doorbell write that reaches a PF1 queue pair through a window (R400, R416): `none` where the offset names no
doorbell. -/
def State.peerDoorbell (s : State) (link : Fin 4) (a : Nat) (bs : List Byte) : Option Res :=
  let k : QueueRef := { link := link, fn := 1, slice := Fin.ofNat 4096 (a / 8192), q := Fin.ofNat 64 (a % 8192 / 64) }
  let v := leNat bs
  if bs.length = 4 ∧ a % 8192 < 4096 ∧ a < 4096 * 8192 ∧ s.areaOpen k = true then
    match a % 64 with
    | 0 => some (execTxTail k (BitVec.ofNat 16 v) s)
    | 4 => some (execRxTail k (BitVec.ofNat 16 v) s)
    | 8 => some (execCqHead k (BitVec.ofNat 16 v) (bitOf v 31) s)
    | _ => none
  else none

/-- A request to BAR4 that no window takes (R409). -/
def State.peerMiss (s : State) (f : Nat) : PeerAccess → State
  | .read _ => s.unsupported f
  | .write _ =>
    let x := s.hostFn f
    ((s.setHostFn f { x with aerUncorrectable := withBit x.aerUncorrectable 20 true,
                             aerCorrectable := withBit x.aerCorrectable 13 true }).bump
      (Od.peerPostedDropped f)).raiseLimited 0x8A03 f 1 f

/-- PEER_APERTURE_REQUEST (R409, R415 to R417): matched against the active windows of its link. -/
def execPeerApertureRequest (link : Fin 4) (offset requester : Nat) (a : PeerAccess) (s : State) : Res :=
  let f := 4 * link.val + 1
  let len := match a with | .read n => n | .write bs => bs.length
  let port := link.val / 2
  let admits (w : Nat) : Bool :=
    let v := (s.window port w).active
    winEnabled v && decide (winBase v ≤ offset) && decide (offset + len ≤ winBase v + winSize v)
      && (requester ^^^ bitField v 111 96) &&& bitField v 95 80 == 0
      && (match a with | .read _ => bitOf v 183 && winTarget v == 1 | .write _ => bitOf v 182)
  if !s.linkPresent link || !s.hostLinkUp link then .next s
  else if !s.answers f then
    .next (match a with | .read _ => s.unsupported f | .write _ => s)
  else
    match (s.windowsOf link).find? admits with
    | none => .next (s.peerMiss f a)
    | some w =>
      let v := (s.window port w).active
      let at_ := winOffset v + (offset - winBase v)
      if winTarget v = 1 then
        let base := s.rd (Od.peerRegionBase port) + at_
        let s := s.hbmRequest (0x34 + port) 5 (base / 64)
        .next (match a with
          | .read n => s.emit (.completion link 1 0 ((List.range n).map (fun i => s.peerByte (base + i))))
          | .write bs => s.peerStore base bs)
      else
        match a with
        | .read _ => .next (s.peerMiss f a)
        | .write bs => (s.peerDoorbell link at_ bs).getD (.next (s.peerMiss f a))

end Sys2Proof.Machine
end

