-- ==== Sys2Proof/Machine/Slices.lean ====
section
/-! DEFINITION. Machine/Slices.lean: resource sets, binding, quiescing and the dirty log (chapter "Slices and live
migration", R424 to R441). -/

namespace Sys2Proof.Machine

/-! ### Resource sets (R424 to R426) -/

/-- The 64-byte resource record. [DEDUCED: log entry 27] -/
def sliceSetOf (bs : List Byte) : SliceSet :=
  { ports := slice bs 0 32, link := leAt bs 32 1, functions := leAt bs 33 1, queuePairs := leAt bs 34 1,
    trackerMin := leAt bs 36 4, trackerMax := leAt bs 40 4, keySlots := leAt bs 44 2, namespaces := leAt bs 46 2,
    rdmaQps := leAt bs 48 4, regions := leAt bs 52 4, txBricks := leAt bs 56 2 }

/-- The record of a resource set. -/
def sliceSetBytes (x : SliceSet) : List Byte :=
  sized 32 x.ports ++ leBytes 1 x.link ++ leBytes 1 x.functions ++ leBytes 1 x.queuePairs ++ leBytes 1 0
    ++ leBytes 4 x.trackerMin ++ leBytes 4 x.trackerMax ++ leBytes 2 x.keySlots ++ leBytes 2 x.namespaces
    ++ leBytes 4 x.rdmaQps ++ leBytes 4 x.regions ++ leBytes 2 x.txBricks ++ leBytes 6 0

/-- Functions of a slice's link on which it is bound, as a mask. -/
def State.boundMask (s : State) (n : Nat) : Nat :=
  ((s.slices.blocks.filter (fun e => e.1 % 4096 == n && e.2.bound)).map (fun e => 2 ^ (e.1 / 4096 % 4))).sum

/-- Key slots a slice owns. -/
def State.slotsOwned (s : State) (n : Nat) : Nat :=
  (s.cipher.slots.filter (fun e => e.2.owner == 2 && e.2.slice == n)).length

/-- Namespaces attached to a slice. -/
def State.namespacesOwned (s : State) (n : Nat) : Nat :=
  (s.storage.namespaces.filter (fun e => leAt e.2.record 0 1 == 1 && leAt e.2.record 4 2 == n && n != 0xFFFF)).length

/-- RDMA queue pairs of a slice. -/
def State.qpsOwned (s : State) (n : Nat) : Nat :=
  (s.rdma.qps.filter (fun e => leAt e.2.record 8 2 == n)).length

/-- Memory regions of a slice. -/
def State.regionsOwned (s : State) (n : Nat) : Nat :=
  (s.rdma.regions.filter (fun e => leAt e.2.record 2 2 == n)).length

/-- Checks of a resource record (R425): 0x07, 0x04, 0x0A, or 0. -/
def State.sliceSetCode (s : State) (n : Nat) (bs : List Byte) : Nat :=
  let x := sliceSetOf bs
  let inForce := s.rd Od.modeInForce
  let others (f : SliceSet → Nat) : Nat := ((s.slices.sets.filter (fun e => e.1 != n)).map (fun e => f e.2)).sum
  let bad (e : Nat × QueuePair) : Bool :=
    qpSlice e.1 == n && e.2.enable && (decide (x.queuePairs ≤ e.1 % 64) || !portMapBit x.ports e.2.txPort)
  let badN (e : Nat × NvmeQueue) : Bool :=
    decide (e.1 < 2 ^ 40) && qpSlice e.1 == n && e.2.enable && decide (x.queuePairs ≤ e.1 % 64)
  if (x.namespaces ≠ 0 ∧ namespaceLimit inForce = 0) ∨ (x.rdmaQps ≠ 0 ∧ qpLimit inForce = 0) then 0x07
  else if 4096 ≤ n ∨ 3 < x.link ∨ x.functions % 2 = 1 ∨ 15 < x.functions ∨ 64 < x.queuePairs ∨ 131072 < x.trackerMin
      ∨ x.trackerMax = 0 ∨ 131072 < x.trackerMax ∨ x.trackerMax < x.trackerMin ∨ 65280 < x.keySlots
      ∨ namespaceLimit inForce < x.namespaces ∨ qpLimit inForce < x.rdmaQps ∨ 4194304 < x.regions
      ∨ x.txBricks < 16 ∨ 16384 < x.txBricks then 0x04
  else if 131072 < others (·.trackerMin) + x.trackerMin ∨ 65280 < others (·.keySlots) + x.keySlots then 0x0A
  else if s.boundMask n ≠ 0 ∧ ((s.sliceSet n).link ≠ x.link ∨ s.boundMask n &&& x.functions ≠ s.boundMask n) then 0x0A
  else if s.host.queues.any bad || s.storage.queues.any badN then 0x0A
  else if x.keySlots < s.slotsOwned n ∨ x.namespaces < s.namespacesOwned n ∨ x.rdmaQps < s.qpsOwned n
      ∨ x.regions < s.regionsOwned n then 0x0A
  else 0

/-- A resource record at its boundary: checked again; one that then fails changes nothing and is counted. -/
def State.applySliceSet (s : State) (n : Nat) (bs : List Byte) : State :=
  if s.sliceSetCode n bs = 0 then
    { s with slices := { s.slices with sets := tblSet SliceSet.fresh s.slices.sets n (sliceSetOf bs) } }
  else s.bumpSlice n 5

/-- What a read of SliceQuery returns (R440). -/
def State.sliceQueryRead (s : State) (n : Nat) : List Byte :=
  sliceSetBytes (s.sliceSet n) ++ beBytes 1 (s.boundMask n) ++ beBytes 4 (s.ops n) ++ beBytes 2 (s.slotsOwned n)

/-- Free tracker entries, and the sum of TrackerMin (R440). -/
def State.trackerFreeNow (s : State) : Nat := 131072 - s.opsAll

/-- The sum of TrackerMin over all slices. -/
def State.trackerReservedNow (s : State) : Nat := (s.slices.sets.map (fun e => e.2.trackerMin)).sum

/-- SliceCounters (R441). -/
def State.sliceCountersRead (s : State) : List Byte :=
  ((List.range 4096).map (fun n =>
    ((tblGet [0, 0, 0, 0, 0, 0] s.slices.counts n).map (beBytes 8)).flatten)).flatten

/-! ### PF2's queues, as far as slices stop them (R399, R444) -/

/-- A PF2 queue after reset. -/
def NvmeQueue.fresh : NvmeQueue :=
  { sqBase := 0, cqBase := 0, sqSize := 0, cqSize := 0, cq := 0, enable := false, stopping := false, halted := false,
    refused := false, vector := 0, signals := false, coalesceCourses := 0, coalesceCount := 0, sqHead := 0, sqTail := 0,
    entry := none, cqTail := 0, cqHead := 0, cqUsed := 0, phase := true, cqWaiting := [], armed := false,
    unsignalled := [] }

/-- A PF2 queue. -/
def State.nvq (s : State) (k : Nat) : NvmeQueue := tblGet NvmeQueue.fresh s.storage.queues k

/-- Set a PF2 queue. -/
def State.setNvq (s : State) (k : Nat) (x : NvmeQueue) : State :=
  { s with storage := { s.storage with queues := tblSet NvmeQueue.fresh s.storage.queues k x } }

/-- Tracked operations of controller 0 of a link. -/
def State.ctrlOps (s : State) (link : Nat) : Nat := tblGet 0 s.storage.ops link

/-- The slice a PF2 queue belongs to; none for controller 0. -/
def nvqSlice (k : Nat) : Option Nat := if k < 2 ^ 40 then some (qpSlice k) else none

/-- The link of a PF2 queue. -/
def nvqLink (k : Nat) : Nat := if k < 2 ^ 40 then qpFn k / 4 else (k - 2 ^ 40) / 2 ^ 18

/-- A storage command leaves the device: its lock and tracker entry go with it. -/
def State.endNvme (s : State) (c : NvmeCmd) : State :=
  let s1 := { s with storage := { s.storage with cmds := s.storage.cmds.filter (fun x => x.id != c.id) } }
  match nvqSlice c.queue with
  | some n => s1.opEnd n
  | none =>
    let l := nvqLink c.queue
    { s1 with storage := { s1.storage with ops := tblSet 0 s1.storage.ops l (s1.ctrlOps l - 1) } }

/-- Enable 0 is written to a slice controller's queue pair. -/
def State.stopNvq (s : State) (k : Nat) : State :=
  let q := s.nvq k
  if !q.enable || q.stopping then s
  else (s.setNvq k { q with stopping := true, entry := none }).abandonReads (fun r => r.queue == k && r.kind == .storage)

/-- A stopped slice controller's queue pair is reset; commands it still had are given up. -/
def State.resetNvq (s : State) (k : Nat) : State :=
  let q := s.nvq k
  let mine := s.storage.cmds.filter (fun c => c.queue == k)
  (mine.foldl (fun s c => s.endNvme c) s).setNvq k
    { NvmeQueue.fresh with vector := q.vector, coalesceCourses := q.coalesceCourses, coalesceCount := q.coalesceCount,
                           cq := k }

/-! ### Binding (R427, R428) -/

/-- Function of a slice control block. -/
def srFn (k : SliceRef) : Nat := 4 * k.link.val + k.fn.val

/-- The block's driver may act: PF1 to PF3, and the function answers. -/
def State.blockOpen (s : State) (k : SliceRef) : Bool := k.fn.val != 0 && s.answers (srFn k)

/-- Some queue pair of a slice on a function is enabled. -/
def State.anyQueue (s : State) (f n : Nat) : Bool :=
  s.host.queues.any (fun e => qpFn e.1 == f && qpSlice e.1 == n && e.2.enable)
    || s.storage.queues.any (fun e => decide (e.1 < 2 ^ 40) && qpFn e.1 == f && qpSlice e.1 == n && e.2.enable)

/-- Bound clears once every queue pair has stopped; the dirty log is then disabled. -/
def State.unbindCheck (s : State) (f n : Nat) : State :=
  let b := s.block f n
  if b.unbinding && !s.anyQueue f n then
    s.setBlock f n { b with bound := false, unbinding := false, logEnable := false, log := none, early := [] }
  else s

/-- BOUND (R427): refused where the resource set does not name this link and function, or another slice of the function
holds the PASID. -/
def execBound (k : SliceRef) (pasid : BitVec 20) (s : State) : Res :=
  let f := srFn k
  let n := k.slice.val
  let b := s.block f n
  let x := s.sliceSet n
  let taken := s.slices.blocks.any (fun e =>
    e.1 / 4096 == f && e.1 % 4096 != n && e.2.bound && e.2.pasid == pasid.toNat)
  .next (if !s.blockOpen k || b.bound then s
    else if x.link ≠ k.link.val ∨ bitOf x.functions k.fn.val = false ∨ taken = true then
      s.setBlock f n { b with pasid := pasid.toNat, bindRefused := true }
    else s.setBlock f n { b with pasid := pasid.toNat, bound := true, bindRefused := false })

/-- Enable 0 for every queue pair of a slice on a function. -/
def State.stopSlice (s : State) (f n : Nat) : State :=
  let net := s.host.queues.filter (fun e => qpFn e.1 == f && qpSlice e.1 == n)
  let nv := s.storage.queues.filter (fun e => decide (e.1 < 2 ^ 40) && qpFn e.1 == f && qpSlice e.1 == n)
  nv.foldl (fun s e => s.stopNvq e.1) (net.foldl (fun s e => s.stopQueue e.1) s)

/-- UNBIND (R427). -/
def execUnbind (k : SliceRef) (s : State) : Res :=
  let f := srFn k
  let n := k.slice.val
  .next (if s.blockOpen k && (s.block f n).bound then
    ((s.setBlock f n { s.block f n with unbinding := true }).stopSlice f n).unbindCheck f n else s)

/-- QUEUE_RESET_COMPLETE (R399, R427, R444): nothing of a stopped queue pair is outstanding. -/
def execQueueResetComplete (k : QueueRef) (s : State) : Res :=
  let key := qrKey k
  .next (if k.fn.val = 2 then
    if (s.nvq key).stopping && !s.host.reads.any (fun r => r.queue == key && r.kind == .storage) then
      (s.resetNvq key).unbindCheck (qrFn k) k.slice.val else s
  else if (s.qp key).stopping && !s.queueReads key then (s.resetQueue key).unbindCheck (qrFn k) k.slice.val else s)

/-! ### Quiescing and SliceState (R433, R438) -/

/-- QUIESCE (R433). -/
def execQuiesce (k : SliceRef) (on : Bool) (s : State) : Res :=
  let b := s.block (srFn k) k.slice.val
  .next (if s.blockOpen k then
    s.setBlock (srFn k) k.slice.val { b with quiesce := on, quiesced := on && b.quiesced } else s)

/-- Marks a slice's dirty logs are still owed. -/
def State.marksOwed (s : State) (n : Nat) : Bool :=
  s.host.reads.any (fun r => r.kind == .dirtyMark && r.id / 2 % 4096 == n)
    || s.slices.blocks.any (fun e => e.1 % 4096 == n && !e.2.early.isEmpty)

/-- SLICE_QUIESCED (R433). -/
def execSliceQuiesced (k : SliceRef) (s : State) : Res :=
  let n := k.slice.val
  let b := s.block (srFn k) n
  .next (if b.quiesce && !b.quiesced && s.ops n == 0 && !s.marksOwed n then
    (s.setBlock (srFn k) n { b with quiesced := true }).raise 0x8A0A n else s)

/-- Checks of a write of SliceState (R438). -/
def State.sliceStateCode (s : State) (bs : List Byte) : Nat :=
  let n := beAt bs 0 2
  let f := 4 * beAt bs 2 1 + beAt bs 3 1
  if 4096 ≤ n ∨ 3 < beAt bs 2 1 ∨ beAt bs 3 1 = 0 ∨ 3 < beAt bs 3 1 then 0x04
  else if !(s.block f n).bound || (List.range 16).any (fun g => s.anyQueue g n) then 0x0A
  else 0

/-- A write of SliceState: the heads and Phase of each queue pair's next start. [DESIGN CHOICE: log entry 71] -/
def State.applySliceState (s : State) (bs : List Byte) : State :=
  let n := beAt bs 0 2
  let f := 4 * beAt bs 2 1 + beAt bs 3 1
  forEach (List.range 64) (fun i s =>
    let r := slice bs (4 + 8 * i) 8
    let k := qpKey f n i
    if f % 4 = 2 then
      s.setNvq k { s.nvq k with sqHead := beAt r 0 2, sqTail := beAt r 0 2, cqTail := beAt r 4 2, cqHead := beAt r 4 2,
                                phase := bitOf (beAt r 6 1) 0 }
    else s.setQp k { s.qp k with restored := some (beAt r 0 2, beAt r 2 2, beAt r 4 2, bitOf (beAt r 6 1) 0) }) s

/-- What a read of SliceState returns while the slice is quiesced. [DESIGN CHOICE: log entry 71] -/
def State.sliceStateRead (s : State) (n link fn : Nat) : List Byte :=
  let f := 4 * link + fn
  beBytes 2 n ++ beBytes 1 link ++ beBytes 1 fn ++ ((List.range 64).map (fun i =>
    let k := qpKey f n i
    if fn = 2 then
      let q := s.nvq k
      beBytes 2 q.sqHead ++ beBytes 2 0 ++ beBytes 2 q.cqTail ++ beBytes 1 (boolNat q.phase) ++ beBytes 1 0
    else
      let q := s.qp k
      beBytes 2 q.txHead ++ beBytes 2 q.rxHead ++ beBytes 2 q.cqTail ++ beBytes 1 (boolNat q.phase) ++ beBytes 1 0)).flatten

/-! ### Dirty log (R434 to R437) -/

/-- DIRTY_LOG_ENABLE (R434): it takes effect at its boundary. -/
def execDirtyLogEnable (k : SliceRef) (on : Bool) (off : Nat) (s : State) : Res :=
  let s := s.moveTo off
  let b := s.block (srFn k) k.slice.val
  .next (if s.blockOpen k then
    s.setBlock (srFn k) k.slice.val { b with due := b.due ++ [(boolNat on, s.applyCourse)] } else s)

/-- DIRTY_FLIP (R436): ignored while a flip is pending. -/
def execDirtyFlip (k : SliceRef) (off : Nat) (s : State) : Res :=
  let s := s.moveTo off
  let b := s.block (srFn k) k.slice.val
  .next (if s.blockOpen k && !b.flipPending then
    s.setBlock (srFn k) k.slice.val { b with flipPending := true, due := b.due ++ [(2, s.applyCourse)] } else s)

/-- A dirty-log write at its boundary. -/
def State.applyDirty (s : State) (f n act : Nat) : State :=
  let b := s.block f n
  if act = 2 then s.setBlock f n { b with active := !b.active, flipped := true }
  else if act = 0 then s.setBlock f n { b with logEnable := false, log := none, early := [] }
  else if !b.bound then s
  else (s.setBlock f n { b with logEnable := true, log := none, early := [], active := false, outOfRange := false,
                                logError := false }).read .dirtyDescriptor f none 0 (f * 4096 + n) 0 b.descriptor 32

/-- The dirty-log writes due at a boundary; a disable at the boundary of a flip follows the flip. -/
def State.dirtyBoundary (s : State) : State :=
  s.slices.blocks.foldl (fun s e =>
    let b := s.block (e.1 / 4096) (e.1 % 4096)
    let (now, later) := b.due.partition (fun d => d.2 ≤ s.course)
    if now.isEmpty then s
    else
      let s1 := s.setBlock (e.1 / 4096) (e.1 % 4096) { b with due := later }
      let order := now.filter (fun d => d.1 == 2) ++ now.filter (fun d => d.1 != 2)
      order.foldl (fun s d => s.applyDirty (e.1 / 4096) (e.1 % 4096) d.1) s1) s

/-- The dirty-log descriptor has been read (R434), or its read has failed: `none`. [DESIGN CHOICE: log entry 70] -/
def State.dirtyDescribed (s : State) (f n : Nat) (data : Option (List Byte)) : State :=
  let b := s.block f n
  let v := leNat (data.getD [])
  let l : DirtyLog := { bitmap0 := bitField v 255 192, bitmap1 := bitField v 191 128, start := bitField v 127 76,
                        pages := bitField v 63 32 }
  if !b.logEnable || b.log.isSome then s
  else if data.isNone || l.pages == 0 || l.bitmap0 % 8 != 0 || l.bitmap1 % 8 != 0 then
    s.setBlock f n { b with logEnable := false, early := [], logError := true }
  else
    b.early.reverse.foldl (fun s p => s.markPage f n p) (s.setBlock f n { b with log := some l, early := [] })

/-- A bitmap word has been read for marking (R435, R437): the marked word is written back; a failed read sets
DirtyLogError. -/
def State.dirtyMarked (s : State) (r : Dma) (data : Option (List Byte)) : State :=
  let f := r.id / 2 / 4096
  let n := r.id / 2 % 4096
  match data with
  | none => s.setBlock f n { s.block f n with logError := true }
  | some bs => (s.hostWrite f none r.addr false false (leBytes 8 (leNat bs ||| r.queue))).bumpSlice n 4

/-- FLIP_COMPLETE (R436). -/
def execFlipComplete (k : SliceRef) (s : State) : Res :=
  let f := srFn k
  let n := k.slice.val
  let b := s.block f n
  let old := (f * 4096 + n) * 2 + boolNat (!b.active)
  .next (if b.flipped && !s.host.reads.any (fun r => r.kind == .dirtyMark && r.id == old) then
    s.setBlock f n { b with flipPending := false, flipped := false } else s)

end Sys2Proof.Machine
end

