-- ==== Sys2Proof/Machine/LookAside.lean ====
section
/-! DEFINITION. Machine/LookAside.lean: look-aside requests and clusters (chapter "Cipher clusters and key slots", R343 to
R346, R363 to R366), and what a write of KeyLoad, KeySlotOwner and KeyErase does (R347, R349, R350). -/

namespace Sys2Proof.Machine

/-! ### Loading and owning slots (R347 to R350) -/

/-- A slot is named by a committed rule, MACsec SA, ESP or authentication record, or namespace. -/
def State.slotNamed (s : State) (n : Nat) : Bool :=
  let names (v : Nat) : Bool := (actionOf v).cipherAction != 0 && (actionOf v).keySlot == n
  s.classify.ternary.any (fun e => (e.2.ingress ++ e.2.egress).any (fun r => names r.action))
    || s.classify.exact.any (fun e => e.2.entries.any (fun r => names r.action))
    || s.cipher.sas.any (fun e => e.2.inUse && e.2.slot == n)
    || s.cipher.esp.any (fun e => e.1 == n) || s.cipher.auth.any (fun e => e.1 == n)
    || s.storage.namespaces.any (fun e => leAt e.2.record 0 1 == 1 && leAt e.2.record 6 2 == n)

/-- The key a load record brings: plain, or unwrapped under its KEK slot of algorithm 0x07 with the same owner.
[DESIGN CHOICE: log entry 64] -/
def State.keyOfLoad (s : State) (bs : List Byte) : Option (List Byte) :=
  let n := beAt bs 0 2
  let kek := beAt bs 4 2
  let body := bs.drop 8
  if beAt bs 3 1 = 0 then some body
  else if (s.keySlot kek).algorithm = 7 ∧ s.slotOwner kek = s.slotOwner n ∧
      (s.slotOwner n ≠ 2 ∨ (s.keySlot kek).slice = (s.keySlot n).slice) then Config.kwUnwrap (s.keySlot kek).key body
  else none

/-- Checks of a KeyLoad record beyond its writer (R349): a wrapped key is 8 bytes longer than the key.
[DESIGN CHOICE: log entry 64] -/
def State.keyLoadCode (s : State) (bs : List Byte) : Nat :=
  let alg := beAt bs 2 1
  let wrap := beAt bs 3 1
  let len := beAt bs 6 2
  if bs.length < 8 ∨ 1 < wrap ∨ bs.length ≠ 8 + len ∨ keyLengthOk alg (len - 8 * wrap) = false then 0x04
  else if s.slotOwner (beAt bs 0 2) = 0 then 0x0A
  else match s.keyOfLoad bs with
    | some _ => 0
    | none => 0x0A

/-- A key takes effect in its slot (R350). -/
def State.applyKeyLoad (s : State) (bs : List Byte) : State :=
  let n := beAt bs 0 2
  match s.keyOfLoad bs with
  | none => s
  | some key => s.setKeySlot n { s.keySlot n with algorithm := beAt bs 2 1, key := key, uses := 0, nextPn := 0 }

/-- Checks of a KeySlotOwner record: Slot, OwnerKind, Slice (R347). -/
def State.keySlotOwnerCode (s : State) (bs : List Byte) : Nat :=
  let n := beAt bs 0 2
  let kind := beAt bs 2 1
  let v := beAt bs 3 2
  let x := s.keySlot n
  let keeps := x.owner == kind && (kind != 2 || x.slice == v)
  if keystoneSlot n then 0x03
  else if bs.length ≠ 5 ∨ 2 < kind ∨ (kind = 2 ∧ 4095 < v) then 0x04
  else if !keeps && (s.slotNamed n || (kind == 2 && decide ((s.sliceSet v).keySlots ≤ s.slotsOwned v))) then 0x0A
  else 0

/-- A change of owner zeroises the slot. -/
def State.applyKeySlotOwner (s : State) (bs : List Byte) : State :=
  let kind := beAt bs 2 1
  s.setKeySlot (beAt bs 0 2) { KeySlot.fresh with owner := kind, slice := if kind = 2 then beAt bs 3 2 else 0 }

/-- An erase zeroises a slot and keeps its owner. -/
def State.applyKeyErase (s : State) (n : Nat) : State := s.setKeySlot n (s.keySlot n).zeroised

/-! ### The descriptor (R363) -/

/-- Op of a descriptor. -/
def laOp (d : Nat) : Nat := bitField d 511 504
/-- Urgency. -/
def laUrgency (d : Nat) : Nat := bitField d 503 502
/-- KeySlot. -/
def laSlot (d : Nat) : Nat := bitField d 495 480
/-- DataLength. -/
def laLength (d : Nat) : Nat := bitField d 479 448
/-- AadLength. -/
def laAad (d : Nat) : Nat := bitField d 447 432
/-- Data unit of XTS in bytes. -/
def laUnit (d : Nat) : Nat := if bitField d 431 428 = 0 then 512 else 4096
/-- KEK slot of Op 0x0C, and its algorithm. -/
def laKek (d : Nat) : Nat := bitField d 383 368
/-- Algorithm an unwrapped key is for. -/
def laAlgorithm (d : Nat) : Nat := bitField d 367 360

/-- Tag bytes of a descriptor's Op. -/
def laTag (d : Nat) : Nat :=
  let v := bitField d 500 496
  if laOp d = 0xA ∨ laOp d = 0xB then 48 - 2 * v
  else if laOp d = 0x9 then 48
  else v

/-- The Op verifies a tag that it reads. -/
def laVerifies (d : Nat) : Bool := [0x2, 0x4, 0x8, 0xB].contains (laOp d)

/-- An algorithm suits an Op. -/
def laSuits (op alg : Nat) : Bool :=
  match op with
  | 0x1 | 0x2 | 0x3 | 0x4 => alg == 1 || alg == 2
  | 0x5 | 0x6 => alg == 3
  | 0x7 | 0x8 => alg == 4 || alg == 5
  | 0xA | 0xB => alg == 6
  | 0xC => alg == 7
  | _ => true

/-- Lengths of a descriptor are in range (R364). -/
def laLengthOk (d : Nat) : Bool :=
  let v := bitField d 500 496
  let n := laLength d
  let tagOk :=
    match laOp d with
    | 0x1 | 0x2 | 0x3 | 0x4 | 0x7 | 0x8 => decide (4 ≤ v ∧ v ≤ 16)
    | 0xA | 0xB => decide (v ≤ 15)
    | _ => true
  let dataOk :=
    match laOp d with
    | 0x5 | 0x6 => n != 0 && n % laUnit d == 0 && decide (bitField d 431 428 ≤ 1)
    | 0xC => keyLengthOk (laAlgorithm d) (n - 8)
    | _ => true
  tagOk && dataOk && decide (n ≤ 16777216)

/-- The requester owns a slot (R348). -/
def State.laOwns (s : State) (kind number n : Nat) : Bool :=
  match kind with
  | 0 => s.slotOwner n == 2 && (s.keySlot n).slice == number
  | 1 => s.slotOwner n == 1
  | _ => s.slotOwner n == 3

/-- The status a request has at its fetch: 0x09 for an Op not defined, else the lowest code that applies, none where it may run (R344, R364, R365). -/
def State.laRefused (s : State) (kind number d : Nat) : Option Nat :=
  let op := laOp d
  let named := if op = 0x9 then [] else if op = 0xC then [laSlot d, laKek d] else [laSlot d]
  let key := if op = 0xC then laKek d else laSlot d
  if op = 0 ∨ 0xC < op then some 9
  else if named.any (fun n => !s.laOwns kind number n) then some 2
  else if op ≠ 0x9 ∧ laSuits op (s.keySlot key).algorithm = false then some 3
  else if laLengthOk d = false then some 4
  else if laUrgency d = 3 ∧ kind ≠ 2 then some 5
  else if s.rd Od.modeInForce = 7 then some 7
  else none

/-! ### Results (R363, R364) -/

/-- XTS over data units, each taking the next number. -/
def xtsUnits (enc : Bool) (key : List Byte) (unit : Nat) : Nat → Nat → List Byte → List Byte
  | 0, _, _ => []
  | n + 1, first, bs =>
    if bs.isEmpty then [] else Config.xts enc key first (bs.take unit) ++ xtsUnits enc key unit n (first + 1) (bs.drop unit)

/-- Bytes of a request's inputs from one place on. -/
def CipherReq.input (x : CipherReq) (lo hi : Nat) : List Byte :=
  (((x.parts.filter (fun p => decide (lo ≤ p.1 ∧ p.1 < hi))).mergeSort (fun a b => a.1 ≤ b.1)).map (fun p => p.2)).flatten

/-- What a request computes: status, bytes for its destination, tag to write, key unwrapped.
[DESIGN CHOICE: log entry 63] -/
def laCompute (x : CipherReq) : Nat × Option (List Byte) × Option (List Byte) × Option (List Byte) :=
  let d := x.descriptor
  let src := x.input 0 (2 ^ 32)
  let aad := x.input (2 ^ 32) (2 ^ 33)
  let tag := x.input (2 ^ 33) (2 ^ 34)
  let iv := beBytes 12 (bitField d 351 256)
  let key := x.slot.key
  let zeros := some (List.replicate (laLength d) (0 : Byte))
  let unit := bitField d 383 256
  let verify (t : List Byte) : Nat × Option (List Byte) × Option (List Byte) × Option (List Byte) :=
    if t.take (laTag d) = tag then (0, none, none, none) else (1, zeros, none, none)
  match laOp d with
  | 0x1 =>
    let out := Config.gcmCrypt true key iv src
    (0, some out, some ((Config.gcmTag key iv aad out).take (laTag d)), none)
  | 0x2 =>
    if (Config.gcmTag key iv aad src).take (laTag d) = tag then (0, some (Config.gcmCrypt false key iv src), none, none)
    else (1, zeros, none, none)
  | 0x3 => (0, none, some ((Config.gcmTag key iv (aad ++ src) []).take (laTag d)), none)
  | 0x4 => verify (Config.gcmTag key iv (aad ++ src) [])
  | 0x5 => (0, some (xtsUnits true key (laUnit d) (laLength d / 512) unit src), none, none)
  | 0x6 => (0, some (xtsUnits false key (laUnit d) (laLength d / 512) unit src), none, none)
  | 0x7 => (0, none, some ((Config.cmac key src).take (laTag d)), none)
  | 0x8 => verify (Config.cmac key src)
  | 0x9 => (0, none, some (Config.sha384 src), none)
  | 0xA => (0, none, some ((Config.hmac384 key src).take (laTag d)), none)
  | 0xB => verify (Config.hmac384 key src)
  | _ =>
    match Config.kwUnwrap key src with
    | some k => (0, none, none, some k)
    | none => (8, none, none, none)

/-! ### Clusters (R343 to R346) -/

/-- An idle cluster. -/
def Cluster.fresh : Cluster := { running := [], suspended := [], waiting := [] }

/-- Look-aside cluster of service tile t. -/
def State.cluster (s : State) (t : Nat) : Cluster := tblGet Cluster.fresh s.cipher.clusters t

/-- Set a cluster. -/
def State.setCluster (s : State) (t : Nat) (x : Cluster) : State :=
  { s with cipher := { s.cipher with clusters := tblSet Cluster.fresh s.cipher.clusters t x } }

/-- The request to suspend for one of urgency 3: the lowest urgency, and among those the latest started. -/
def Cluster.victim (x : Cluster) : Option CipherReq :=
  (x.running.filter (fun r => laUrgency r.descriptor < 3)).foldl (fun best r =>
    match best with
    | none => some r
    | some b => if laUrgency r.descriptor ≤ laUrgency b.descriptor then some r else some b) none

/-- The highest urgency among requests, and its oldest request. -/
def firstUrgent (l : List CipherReq) : Option CipherReq :=
  [3, 2, 1, 0].findSome? (fun u => l.find? (fun r => r.ready && laUrgency r.descriptor == u))

/-- A free core takes a suspended request ahead of waiting ones of its own or lower urgency, or the oldest waiting
request of the highest urgency (R345, R346). -/
def State.freeCore (s : State) (t : Nat) : State :=
  let x := s.cluster t
  if 8 ≤ x.running.length then s
  else
    match firstUrgent x.suspended, firstUrgent x.waiting with
    | some a, w =>
      if (match w with | some b => decide (laUrgency b.descriptor ≤ laUrgency a.descriptor) | none => true) = true then
        s.setCluster t { x with running := x.running ++ [a], suspended := x.suspended.filter (fun y => y.id != a.id) }
      else
        match w with
        | some b => s.setCluster t { x with running := x.running ++ [b],
                                            waiting := x.waiting.filter (fun y => y.id != b.id) }
        | none => s
    | none, some b =>
      s.setCluster t { x with running := x.running ++ [b], waiting := x.waiting.filter (fun y => y.id != b.id) }
    | none, none => s

/-- A request whose inputs have come waits, and a free core takes the next one; one of urgency 3 that finds every core
busy suspends another. -/
def State.enterCluster (s : State) (t : Nat) (r : CipherReq) : State :=
  let s1 := (s.setCluster t { s.cluster t with waiting := (s.cluster t).waiting ++ [r] }).freeCore t
  let x := s1.cluster t
  if laUrgency r.descriptor = 3 ∧ 8 ≤ x.running.length ∧ x.waiting.any (fun y => y.id == r.id) = true then
    match x.victim with
    | some v =>
      (s1.setCluster t { running := x.running.filter (fun y => y.id != v.id) ++ [r], suspended := x.suspended ++ [v],
                         waiting := x.waiting.filter (fun y => y.id != r.id) }).bump (Od.suspensions (0x30 + t))
    | none => s1
  else s1

/-- CIPHER_RESUME (R345, R346). -/
def execCipherResume (t : Fin 4) (s : State) : Res := .next (s.freeCore t)

/-- PF1 of a request's link. -/
def CipherReq.f (x : CipherReq) : Nat := 4 * x.link + 1

/-- Write bytes where a request's requester asked for them: host memory under the slice's PASID, or the memory of a core
or of the Keystone. -/
def State.laWrite (s : State) (t : Nat) (x : CipherReq) (what : String) (addr : Nat) (relaxed : Bool) (bs : List Byte) : State :=
  if bs.isEmpty then s
  else if x.kind = 0 then s.hostWriteFrom (0x30 + t) 3 x.f (some x.number) addr (s.relaxedOk x.f relaxed) false bs
  else s.emit (.core (if x.kind = 1 then x.number else 96) what (leBytes 8 addr ++ bs))

/-- A request ends: its completion record is handed to its queue, its tracker entry is free.
[DESIGN CHOICE: log entry 63] -/
def State.laFinish (s : State) (t : Nat) (x : CipherReq) (status : Nat) : State :=
  let n := if status ≤ 1 then laLength x.descriptor else 0
  let rec_ := bitField x.descriptor 415 384 * 2 ^ 96 + status * 2 ^ 88 + n * 2 ^ 32
  let s1 := s.emit (.queue (x.kind * 2 ^ 30 + x.number) "look-aside" (leBytes 16 rec_))
  let s2 := if status = 0 then s1 else s1.bump (Od.lookAsideErrors (0x30 + t))
  let c := s2.cluster t
  let keep (l : List CipherReq) : List CipherReq := l.filter (fun y => y.id != x.id)
  let s3 := s2.setCluster t { running := keep c.running, suspended := keep c.suspended, waiting := keep c.waiting }
  if x.kind = 0 then s3.opEnd x.number else s3

/-- LOOK_ASIDE_COMPLETION (R345, R350, R364): a running request ends; those of one queue leave in order of arrival. -/
def execLookAsideCompletion (t : Fin 4) (id : Nat) (s : State) : Res :=
  let c := s.cluster t
  let all := c.running ++ c.suspended ++ c.waiting
  .next (match c.running.find? (fun x => x.id == id) with
    | none => s
    | some x =>
      if all.any (fun y => y.kind == x.kind && y.number == x.number && decide (y.id < x.id)) then s
      else
        match x.refused with
        | some status => s.laFinish t x status
        | none =>
          let d := x.descriptor
          let (status, out, tag, key) := laCompute x
          let n := if laOp d = 0xC then laKek d else laSlot d
          let held := (s.keySlot n).key == x.slot.key && (s.keySlot n).algorithm == x.slot.algorithm
          let used := if laOp d = 0x9 || !held then s else s.useSlot n
          let s1 := used.laWrite t x "look-aside data" (bitField d 191 128) (bitOf d 501) (out.getD [])
          let s2 := s1.laWrite t x "look-aside tag" (bitField d 127 64) (bitOf d 501) (tag.getD [])
          let s3 := match key with
            | some k =>
              let load := beBytes 2 (laSlot d) ++ beBytes 1 (laAlgorithm d) ++ beBytes 1 0 ++ beBytes 2 0
                ++ beBytes 2 k.length ++ k
              { s2 with agent := { s2.agent with crs := s2.agent.crs ++
                  [CrsWrite.mk 0 (Item.raw Od.keyLoad load) s2.applyCourse] } }
            | none => s2
          let s4 := if status = 8 then s3.raise 0x7A05 (laSlot d) else s3
          s4.laFinish t x status)

/-! ### Requests (R363) -/

/-- Kind and number of a requester. -/
def lookKind : LookFrom → Nat × Nat × Nat
  | .slice link n => (0, n.val, link.val)
  | .core n => (1, n.val, 0)
  | .keystone => (2, 0, 0)

/-- A descriptor is fetched: its decision point. One whose Op is not defined ends with 0x09 under any of the commands. A slice's request takes a tracker entry and its inputs are read from host
memory; a request refused here still leaves in its turn. [DESIGN CHOICE: log entry 63] -/
def State.lookAside (s0 : State) (op : Nat) (q : LookReq) : State :=
  let s := s0.moveTo q.off
  let d := q.descriptor.toNat
  let (kind, number, link) := lookKind q.origin
  let f := 4 * link + 1
  let t := q.tile.val
  let fetches := kind != 0 || ((s.block f number).bound && s.canMaster f && !s.quiescing number)
  if (laOp d ≠ op && 1 ≤ laOp d && laOp d ≤ 0xC) || !fetches || (kind == 1 && !coreUsable (s.rd Od.modeInForce) number) then s
  else if kind = 0 ∧ s.mayStart number = false then s.bumpSlice number 1
  else
    let refused := s.laRefused kind number d
    let own : List (Nat × List Byte) := [(0, q.source.take (laLength d)), (2 ^ 32, q.aad.take (laAad d))]
      ++ (if laVerifies d then [(2 ^ 33, q.tag.take (laTag d))] else [])
    let x : CipherReq :=
      { id := s.cipher.nextReq, kind := kind, number := number, link := link, descriptor := d,
        slot := s.keySlot (if op = 0xC then laKek d else laSlot d), parts := if kind = 0 then [] else own,
        ready := kind != 0 || refused.isSome, refused := refused }
    let s1 := { s with cipher := { s.cipher with nextReq := s.cipher.nextReq + 1 } }
    let s2 := (if kind = 0 then s1.opStart number else s1).addTo (Od.requestsAtUrgency (0x30 + t) (laUrgency d)) 1
    if x.ready then s2.enterCluster t x
    else
      let s3 := s2.setCluster t { s2.cluster t with waiting := (s2.cluster t).waiting ++ [x] }
      let get (s : State) (part addr len : Nat) : State :=
        if len = 0 then s
        else s.readWith (s.relaxedOk f (bitOf d 501)) .lookAside f (some number) t x.id part addr len
      let s4 := get s3 0 (bitField d 255 192) (laLength d)
      let s5 := get s4 (2 ^ 32) (bitField d 63 0) (laAad d)
      let s6 := if laVerifies d then get s5 (2 ^ 33) (bitField d 127 64) (laTag d) else s5
      if s6.host.reads.any (fun r => r.kind == .lookAside && r.id == x.id) then s6
      else (s6.setCluster t { s6.cluster t with waiting := (s6.cluster t).waiting.filter (fun y => y.id != x.id) }).enterCluster
        t { x with ready := true }

/-- An input of a request has been read, or its read has failed (R364, status 0x06); with the last one the request may
start. -/
def State.lookData (s : State) (r : Dma) (data : Option (List Byte)) : State :=
  let t := r.queue
  let c := s.cluster t
  match c.waiting.find? (fun x => x.id == r.id) with
  | none => s
  | some x =>
    let y := match data with
      | some bs => { x with parts := x.parts ++ [(r.part, bs)] }
      | none => { x with refused := some 6 }
    if s.host.reads.any (fun o => o.kind == .lookAside && o.id == r.id) then
      s.setCluster t { c with waiting := c.waiting.map (fun z => if z.id = y.id then y else z) }
    else (s.setCluster t { c with waiting := c.waiting.filter (fun z => z.id != y.id) }).enterCluster t
      { y with ready := true }

/-- Requests given up by a halt, a reset or mode 7 complete with 0x07 (R364, R365). -/
def State.lookAbort (s : State) (mine : CipherReq → Bool) : State :=
  forEach (List.range 4) (fun t s =>
    let c := s.cluster t
    ((c.running ++ c.suspended ++ c.waiting).filter mine).foldl (fun s x => s.laFinish t x 7) s) s

/-- GCM_ENCRYPT (R363). -/
def execGcmEncrypt (q : LookReq) (s : State) : Res := .next (s.lookAside 0x1 q)
/-- GCM_DECRYPT (R364). -/
def execGcmDecrypt (q : LookReq) (s : State) : Res := .next (s.lookAside 0x2 q)
/-- GMAC_GENERATE (R363). -/
def execGmacGenerate (q : LookReq) (s : State) : Res := .next (s.lookAside 0x3 q)
/-- GMAC_VERIFY (R364). -/
def execGmacVerify (q : LookReq) (s : State) : Res := .next (s.lookAside 0x4 q)
/-- XTS_ENCRYPT (R364). -/
def execXtsEncrypt (q : LookReq) (s : State) : Res := .next (s.lookAside 0x5 q)
/-- XTS_DECRYPT (R364). -/
def execXtsDecrypt (q : LookReq) (s : State) : Res := .next (s.lookAside 0x6 q)
/-- CMAC_GENERATE (R363). -/
def execCmacGenerate (q : LookReq) (s : State) : Res := .next (s.lookAside 0x7 q)
/-- CMAC_VERIFY (R364). -/
def execCmacVerify (q : LookReq) (s : State) : Res := .next (s.lookAside 0x8 q)
/-- SHA_384 (R363). -/
def execSha384 (q : LookReq) (s : State) : Res := .next (s.lookAside 0x9 q)
/-- HMAC_GENERATE (R363). -/
def execHmacGenerate (q : LookReq) (s : State) : Res := .next (s.lookAside 0xA q)
/-- HMAC_VERIFY (R364). -/
def execHmacVerify (q : LookReq) (s : State) : Res := .next (s.lookAside 0xB q)
/-- UNWRAP_KEY (R364). -/
def execUnwrapKey (q : LookReq) (s : State) : Res := .next (s.lookAside 0xC q)

end Sys2Proof.Machine
end

