-- ==== Sys2Proof/Machine/Nvme.lean ====
section
/-! DEFINITION. Machine/Nvme.lean: PF2's controllers, their queues, command fetch and range locks, and the admin commands
(chapter "Storage front end", R442 to R446, R458 to R460, R469, R471). -/

namespace Sys2Proof.Machine

/-! ### Controllers, queues, namespaces -/

/-- Controller 0 after a controller reset: the volatile write cache enabled, attribute notices enabled, PS0.
[DESIGN CHOICE: log entries 6, 68] -/
def NvmeCtrl.fresh : NvmeCtrl :=
  { cc := 0, ready := false, fatal := false, aqa := 0, asq := 0, acq := 0, features := [(6, 1), (0xB, 0x100)], aers := [],
    events := [], errors := [], errorCount := 0, ps := 0, lastOp := 0, apst := [] }

/-- Controller 0 of a link. -/
def State.ctrl (s : State) (link : Nat) : NvmeCtrl := tblGet NvmeCtrl.fresh s.storage.ctrls link

/-- Set controller 0 of a link. -/
def State.setCtrl (s : State) (link : Nat) (x : NvmeCtrl) : State :=
  { s with storage := { s.storage with ctrls := tblSet NvmeCtrl.fresh s.storage.ctrls link x } }

/-- Key of controller 0's submission queue; its completion queues follow with `ctrlCq`. -/
def ctrlSq (link qid : Nat) : Nat := 2 ^ 40 + link * 2 ^ 18 + 2 * qid

/-- Key of controller 0's completion queue. -/
def ctrlCq (link qid : Nat) : Nat := 2 ^ 40 + link * 2 ^ 18 + 2 * qid + 1

/-- Queue identifier of a PF2 queue's key. -/
def nvqId (k : Nat) : Nat := if k < 2 ^ 40 then k % 64 else (k - 2 ^ 40) % 2 ^ 18 / 2

/-- Key of a queue. -/
def nvKey : NvmeQ → Nat
  | .ctrl link qid => ctrlSq link qid
  | .slice link n q => qpKey (4 * link.val + 2) n q

/-- The admin queue. -/
def nvqAdmin (k : Nat) : Bool := 2 ^ 40 ≤ k && nvqId k == 0

/-- PF2 of a queue's link. -/
def nvqFn (k : Nat) : Nat := 4 * nvqLink k + 2

/-- Page size of a queue's controller. -/
def State.nvPage (s : State) (k : Nat) : Nat :=
  if k < 2 ^ 40 then 4096 else 2 ^ (12 + min 4 (bitField (s.ctrl (nvqLink k)).cc 10 7))

/-- A namespace; State 0 when absent. -/
def Namespace.none_ : Namespace := { record := [], tile := 0, deleting := false, nextSeq := 1 }

/-- Namespace n. -/
def State.nspace (s : State) (n : Nat) : Namespace := tblGet Namespace.none_ s.storage.namespaces n

/-- Set namespace n. -/
def State.setNspace (s : State) (n : Nat) (x : Namespace) : State :=
  { s with storage := { s.storage with namespaces := tblSet Namespace.none_ s.storage.namespaces n x } }

/-- Record fields of a namespace (R447). -/
def nsPresent (x : Namespace) : Bool := leAt x.record 0 1 == 1
/-- Backing: 1 local SSD, 2 remote target, 3 HBM. -/
def nsBacking (x : Namespace) : Nat := leAt x.record 1 1
/-- LbaShift. -/
def nsShift (x : Namespace) : Nat := leAt x.record 2 1
/-- Attach. -/
def nsAttach (x : Namespace) : Nat := leAt x.record 4 2
/-- KeySlot. -/
def nsKey (x : Namespace) : Nat := leAt x.record 6 2
/-- Blocks. -/
def nsBlocks (x : Namespace) : Nat := leAt x.record 8 8
/-- BackingRef. -/
def nsRef (x : Namespace) : Nat := leAt x.record 16 2
/-- BackingStart. -/
def nsStart (x : Namespace) : Nat := leAt x.record 24 8
/-- BackingBlocks. -/
def nsExtent (x : Namespace) : Nat := leAt x.record 32 8

/-- The namespace is attached to the controller of a queue. [DESIGN CHOICE: log entry 68] -/
def nsAttached (x : Namespace) (k : Nat) : Bool :=
  nsPresent x && nsAttach x == (match nvqSlice k with | some n => n | none => 0xFFFF)

/-- The storage engines run (R468). -/
def State.storageOn (s : State) : Bool := s.rd Od.modeInForce != 6 && s.rd Od.modeInForce != 7

/-! ### Fields of a submission entry -/

/-- Opcode. [PRESUMED: log entry 66] -/
def sqOp (e : List Byte) : Nat := leAt e 0 1
/-- Command identifier. -/
def sqCid (e : List Byte) : Nat := leAt e 2 2
/-- NSID. -/
def sqNs (e : List Byte) : Nat := leAt e 4 4
/-- PRP1. -/
def sqPrp1 (e : List Byte) : Nat := leAt e 24 8
/-- PRP2. -/
def sqPrp2 (e : List Byte) : Nat := leAt e 32 8
/-- Command dword n. -/
def sqDw (e : List Byte) (n : Nat) : Nat := leAt e (4 * n) 4
/-- Starting LBA. -/
def sqLba (e : List Byte) : Nat := leAt e 40 8
/-- Blocks, counted from 1. -/
def sqCount (e : List Byte) : Nat := leAt e 48 2 + 1

/-- Opcodes a controller offers on a queue (R445). -/
def nvOffers (admin : Bool) (op : Nat) : Bool :=
  if admin then [0, 1, 2, 4, 5, 6, 8, 9, 0xA, 0xC].contains op else [0, 1, 2, 8, 9].contains op

/-! ### Completions (R444, R418) -/

/-- Write one 16-byte completion into a queue: its phase bit is bit 112. A slice's interrupt follows its arming, controller
0's goes with each record. -/
def State.nvPut (s : State) (k : Nat) (e : List Byte) : State :=
  let q := s.nvq k
  let v := leNat e + boolNat q.phase * 2 ^ 112
  let s1 := s.hostWrite (nvqFn k) (nvqSlice k) (q.cqBase + 16 * q.cqTail) false false (leBytes 16 v)
  let wrap := q.cqTail + 1 == q.cqSize
  let now := decide (k < 2 ^ 40) && q.armed && q.coalesceCourses == 0
  let s2 := s1.setNvq k { s1.nvq k with
    cqTail := if wrap then 0 else q.cqTail + 1
    cqUsed := q.cqUsed + 1
    phase := if wrap then !q.phase else q.phase
    armed := q.armed && !now
    unsignalled := if now || decide (2 ^ 40 ≤ k) then [] else q.unsignalled ++ [s.course] }
  if now then s2.sliceInterrupt (nvqFn k) (qpSlice k) q.vector
  else if 2 ^ 40 ≤ k ∧ q.signals then s2.msixInterrupt (nvqFn k) q.vector
  else s2

/-- A completion is due: it waits while its queue is full. -/
def State.nvPost (s : State) (k : Nat) (e : List Byte) : State :=
  let q := s.nvq k
  if !q.enable || q.halted || q.cqSize == 0 then s
  else if q.cqUsed + 1 < q.cqSize ∧ q.cqWaiting.isEmpty then s.nvPut k e
  else s.setNvq k { q with cqWaiting := q.cqWaiting ++ [e] }

/-- Write the completions that wait, while slots are released. -/
def State.nvDrain (s : State) (k : Nat) : Nat → State
  | 0 => s
  | n + 1 =>
    let q := s.nvq k
    match q.cqWaiting with
    | [] => s
    | e :: rest =>
      if q.cqUsed + 1 < q.cqSize then ((s.setNvq k { q with cqWaiting := rest }).nvPut k e).nvDrain k n else s

/-- The timer of a controller's idle time (R471). -/
def tmIdle (link : Nat) : Nat := timerKey 23 link

/-- Count in the i-th counter of a namespace (R474). -/
def State.nsCount (s : State) (n i k : Nat) : State :=
  let c := tblGet [0, 0, 0, 0, 0, 0] s.storage.counts n
  { s with storage := { s.storage with
      counts := tblSet [0, 0, 0, 0, 0, 0] s.storage.counts n (c.set i ((c.getD i 0 + k) % 2 ^ 64)) } }

/-- NamespaceCounters (R474). [DESIGN CHOICE: log entry 68] -/
def State.nsCountersRead (s : State) : List Byte :=
  ((List.range 1024).map (fun i => ((tblGet [0, 0, 0, 0, 0, 0] s.storage.counts (i + 1)).map (beBytes 8)).flatten)).flatten

/-- Units of a namespace that its map names in staging. -/
def State.stagedNow (s : State) (n : Nat) : Nat :=
  (s.storage.map.filter (fun e => e.1 / 2 ^ 40 == n && (match e.2 with | .staged _ _ => true | _ => false))).length

/-- Staging units a namespace holds: those of its write-backs, and those the map names that no write-back is left of. -/
def State.stagedUnits (s : State) (n : Nat) : Nat :=
  let mine := s.storage.writeBacks.filter (fun w => w.ns == n)
  (mine.map (fun w => w.units.length)).sum + (s.storage.map.filter (fun e => e.1 / 2 ^ 40 == n && (match e.2 with
    | .staged q _ => !mine.any (fun w => w.seq == q) | _ => false))).length

/-- What a deleted namespace held is freed after its last command (R450): map and staging. -/
def State.nsPurge (s : State) (n : Nat) : State :=
  let x := s.nspace n
  if x.deleting && !s.storage.cmds.any (fun c => sqNs c.entry == n) then
    let held := if nsBacking x = 3 then ceilDiv (nsBlocks x * 2 ^ nsShift x) 4096 else s.stagedUnits n
    let s1 := if held = 0 then s else s.poolGive 0x40 held
    ({ s1 with storage := { s1.storage with
        map := s1.storage.map.filter (fun e => e.1 / 2 ^ 40 != n)
        durable := s1.storage.durable.filter (fun e => e.1 / 2 ^ 40 != n)
        writeBacks := s1.storage.writeBacks.filter (fun w => w.ns != n)
        backing := s1.storage.backing.filter (fun b => b.ns != n) } }).setNspace n Namespace.none_
  else s

/-- A command completes with a status code type and code and a result (R445): its completion goes to the queue its
submission queue names; the lock, tracker entry and a namespace waiting to be freed go with it; an idle controller's timer
is armed (R471). -/
def State.nvDone (s : State) (c : NvmeCmd) (sct sc result : Nat) : State :=
  let q := s.nvq c.queue
  let status := (sct * 256 + sc) * 2
  let e := leBytes 4 result ++ leBytes 4 0 ++ leBytes 2 q.sqHead ++ leBytes 2 (nvqId c.queue)
    ++ leBytes 2 (sqCid c.entry) ++ leBytes 2 status
  let link := nvqLink c.queue
  let s1 := ((s.endNvme c).carry (0x30 + c.tile) (0x34 + nvqFn c.queue / 8) 3 16 0 c.id).nvPost q.cq e
  let s2 := if sct * 256 + sc ≠ 0 ∧ 2 ^ 40 ≤ c.queue then
      let x := s1.ctrl link
      let rec_ := leBytes 8 (x.errorCount + 1) ++ leBytes 2 (nvqId c.queue) ++ leBytes 2 (sqCid c.entry)
        ++ leBytes 2 status ++ leBytes 2 0xFFFF ++ leBytes 8 (sqLba c.entry) ++ leBytes 4 (sqNs c.entry) ++ leBytes 36 0
      s1.setCtrl link { x with errors := (rec_ :: x.errors).take 64, errorCount := x.errorCount + 1 }
    else s1
  let s3 := if sct * 256 + sc ≠ 0 ∧ !nvqAdmin c.queue then s2.nsCount (sqNs c.entry) 4 1 else s2
  let s4 := s3.nsPurge (sqNs c.entry)
  if 2 ^ 40 ≤ c.queue ∧ !s4.storage.cmds.any (fun d => decide (2 ^ 40 ≤ d.queue) && nvqLink d.queue == link) then
    s4.arm (tmIdle link)
  else s4

/-- An asynchronous event of controller 0 (R446): type, information and log page; it waits for a posted request. The notice
of a changed namespace attribute is sent while Asynchronous Event Configuration asks for it. -/
def State.nvEvent (s : State) (link type info page : Nat) : State :=
  let x := s.ctrl link
  if !x.ready ∨ (type = 2 ∧ bitOf (tblGet 0 x.features 0xB) 8 = false) then s
  else
    match x.aers with
    | [] => s.setCtrl link { x with events := x.events ++ [(type, info, page)] }
    | id :: rest =>
      let s1 := s.setCtrl link { x with aers := rest }
      match s1.storage.cmds.find? (fun c => c.id == id) with
      | some c => s1.nvDone c 0 0 (type + info * 256 + page * 65536)
      | none => s1

/-- An asynchronous event of every controller 0. -/
def State.nvEventAll (s : State) (type info page : Nat) : State :=
  forEach (List.range 4) (fun l s => s.nvEvent l type info page) s

/-! ### Doorbells and enabling (R444) -/

/-- A queue's doorbells act. -/
def State.nvOpen (s : State) (k : Nat) : Bool :=
  let f := nvqFn k
  s.answers f && s.rd Od.modeInForce != 6
    && (match nvqSlice k with | some n => (s.block f n).bound | none => (s.ctrl (nvqLink k)).ready)

/-- The next submission entry is read while a queue holds none (R458). -/
def State.sqPump (s : State) (k : Nat) : State :=
  let q := s.nvq k
  let f := nvqFn k
  let quiet := match nvqSlice k with | some n => s.quiescing n | none => false
  if !q.enable || q.stopping || q.halted || quiet || !s.canMaster f || !s.storageOn || q.entry.isSome
      || q.sqHead == q.sqTail || s.host.reads.any (fun r => r.queue == k && r.kind == .storage && r.id == 0) then s
  else s.read .storage f (nvqSlice k) k 0 0 (q.sqBase + 64 * q.sqHead) 64

/-- SQ_TAIL (R444). -/
def execSqTail (q : NvmeQ) (index : BitVec 16) (s : State) : Res :=
  let k := nvKey q
  let x := s.nvq k
  .next (if s.nvOpen k && x.enable && x.sqSize != 0 then
    (s.setNvq k { x with sqTail := index.toNat % x.sqSize }).sqPump k else s)

/-- NVME_CQ_HEAD (R444, R418): of a slice controller's queue pair, or of controller 0's completion queue. -/
def execNvmeCqHead (q : NvmeQ) (index : BitVec 16) (arm : Bool) (s : State) : Res :=
  let k := match q with | .ctrl link qid => ctrlCq link qid | _ => nvKey q
  let x := s.nvq k
  .next (if s.nvOpen k && x.enable && x.cqSize != 0 then
    let i := index.toNat % x.cqSize
    let used := x.cqUsed - (i + x.cqSize - x.cqHead % x.cqSize) % x.cqSize
    let s1 := s.setNvq k { x with cqHead := i, cqUsed := used, armed := x.armed || arm,
                                  unsignalled := x.unsignalled.drop (x.unsignalled.length - used) }
    if x.halted || x.stopping then s1 else s1.nvDrain k x.cqWaiting.length
  else s)

/-- NVME_QUEUE_ENABLE (R444, R399). -/
def execNvmeQueueEnable (k : QueueRef) (on : Bool) (s : State) : Res :=
  let key := qpKey (4 * k.link.val + 2) k.slice k.q
  let q := s.nvq key
  .next (if !s.nvOpen key then s
    else if on then
      if q.enable then s
      else if (s.sliceSet k.slice.val).queuePairs ≤ k.q.val then s.setNvq key { q with refused := true }
      else s.setNvq key { q with enable := true, refused := false, cq := key, sqTail := q.sqHead, cqHead := q.cqTail,
                                 cqUsed := 0, entry := none, cqWaiting := [], armed := false, unsignalled := [] }
    else s.stopNvq key)

/-- INTERRUPT_COALESCE (R418): at a boundary, the oldest unsignalled record is CoalesceCourses old or CoalesceCount are
pending. -/
def execInterruptCoalesce (k : QueueRef) (s : State) : Res :=
  let key := qrKey k
  let due (list : List Nat) (courses count : Nat) : Bool :=
    courses != 0 && (match list with
      | [] => false
      | c :: _ => decide (c + courses ≤ s.course) || (count != 0 && decide (count ≤ list.length)))
  .next (if k.fn.val = 2 then
    let q := s.nvq key
    if q.enable && !q.halted && q.armed && due q.unsignalled q.coalesceCourses q.coalesceCount then
      (s.setNvq key { q with armed := false, unsignalled := [] }).sliceInterrupt (qrFn k) k.slice.val q.vector
    else s
  else
    let q := s.qp key
    if q.enable && !q.halted && q.armed && due q.unsignalled q.coalesceCourses q.coalesceCount then
      (s.setQp key { q with armed := false, unsignalled := [] }).sliceInterrupt (qrFn k) k.slice.val q.vector
    else s)

/-! ### Range locks and fetch (R458 to R460, R471) -/

/-- Two locks of one namespace are compatible. -/
def lockFree (a b : Nat × Nat × Bool) : Bool := a.2.1 < b.1 || b.2.1 < a.1 || (a.2.2 && b.2.2)

/-- No earlier command of the namespace holds or awaits a lock that a command's lock is not compatible with (R459). -/
def State.lockOk (s : State) (c : NvmeCmd) : Bool :=
  match c.lock with
  | none => true
  | some a => s.storage.cmds.all (fun d =>
      match d.lock with
      | none => true
      | some b => decide (c.id ≤ d.id) || sqNs d.entry != sqNs c.entry || lockFree b a)

/-- RANGE_LOCK_GRANT (R459). -/
def execRangeLockGrant (id : Nat) (s : State) : Res :=
  .next (match s.storage.cmds.find? (fun c => c.id == id) with
    | some c =>
      if !c.granted && s.lockOk c then
        { s with storage := { s.storage with
            cmds := s.storage.cmds.map (fun d => if d.id = id then { d with granted := true } else d) } }
      else s
    | none => s)

/-- The lock a command takes: its byte range in whole units; Dataset Management takes its namespace until its ranges are
known. Flush and admin commands take none, nor does a command refused at its fetch. [DESIGN CHOICE: log entry 69] -/
def nvLock (x : Namespace) (k : Nat) (e : List Byte) : Option (Nat × Nat × Bool) :=
  let lo := sqLba e * 2 ^ nsShift x
  let hi := (sqLba e + sqCount e) * 2 ^ nsShift x
  if nvqAdmin k then none
  else
    match sqOp e with
    | 1 | 8 => some (lo / 4096, (hi - 1) / 4096, false)
    | 2 => some (lo / 4096, (hi - 1) / 4096, true)
    | 9 => some (0, ceilDiv (nsBlocks x * 2 ^ nsShift x) 4096, false)
    | _ => none

/-- What an I/O command is refused with at its fetch (R445, R450, R467): 0x02 for PSDT, 0x0B for a namespace that is not
attached, 0x82 for one not ready, 0x80 for blocks beyond its end. -/
def State.nvFetchCode (s : State) (k : Nat) (e : List Byte) : Nat :=
  let n := sqNs e
  let x := s.nspace n
  if leAt e 1 1 / 64 ≠ 0 then 0x02
  else if nvqAdmin k || !nvOffers false (sqOp e) then 0
  else if !nsAttached x k then 0x0B
  else if s.rd (Od.namespaceStatus n) = 1 then 0x82
  else if (sqOp e = 1 ∨ sqOp e = 2 ∨ sqOp e = 8) ∧ nsBlocks x < sqLba e + sqCount e then 0x80
  else if (sqOp e = 1 ∨ sqOp e = 2) ∧ 2 ^ 21 < sqCount e * 2 ^ nsShift x then 0x02
  else 0

/-- The service tile a queue's entry is served by: its namespace's, else ST0. -/
def State.entryTile (s : State) (k : Nat) (e : List Byte) : Nat :=
  if !nvqAdmin k && nsPresent (s.nspace (sqNs e)) then (s.nspace (sqNs e)).tile else 0

/-- A storage command may start, as the tracker gives it (R431, R443). -/
def State.nvMayStart (s : State) (k : Nat) : Bool :=
  match nvqSlice k with
  | some n => s.mayStart n
  | none => s.ctrlOps (nvqLink k) < s.rd Od.ctrl0TrackerMax && s.opsAll + s.heldBack 4096 < 131072

/-- Queues with an entry for a tile, in the tile's round-robin order. -/
def State.fetchOrder (s : State) (t : Nat) : List (Nat × List Byte) :=
  let all := s.storage.queues.filterMap (fun e =>
    match e.2.entry with
    | some x => if e.2.enable && !e.2.stopping && !e.2.halted && s.canMaster (nvqFn e.1)
        && (match nvqSlice e.1 with | some n => !s.quiescing n | none => true) && s.entryTile e.1 x == t
        then some (e.1, x) else none
    | none => none)
  let last := tblGet 0 s.storage.last t
  all.filter (fun e => decide (last < e.1)) ++ all.filter (fun e => decide (e.1 ≤ last))

/-- A command is fetched: its decision point. Its entry reaches the service tile on VN3, and the mapping is looked up in
HBM (R37, R43). -/
def State.nvTake (s : State) (t k : Nat) (e : List Byte) : State :=
  let q := s.nvq k
  let x := s.nspace (sqNs e)
  let code := s.nvFetchCode k e
  let c : NvmeCmd :=
    { id := s.storage.nextId + 1, queue := k, entry := e, tile := t, lock := if code = 0 then nvLock x k e else none,
      granted := false, phase := 0, pages := [], list := none, data := [], old := [], wants := [], waits := [],
      status := code }
  let c1 := { c with granted := s.lockOk c }
  let s0 := (s.carry (0x34 + nvqFn k / 8) (0x30 + t) 3 64 0 c.id).hbmRequest (0x30 + t) 3 (sqLba e)
  let s1 := s0.setNvq k { q with entry := none, sqHead := (q.sqHead + 1) % max 1 q.sqSize }
  let s2 := { s1 with storage := { s1.storage with cmds := s1.storage.cmds ++ [c1], nextId := c.id,
                                                   last := tblSet 0 s1.storage.last t k } }
  let link := nvqLink k
  let s3 := match nvqSlice k with
    | some n => s2.opStart n
    | none =>
      let y := s2.ctrl link
      ({ s2 with storage := { s2.storage with ops := tblSet 0 s2.storage.ops link (s2.ctrlOps link + 1) } }.setCtrl link
        { y with ps := if y.ps = 2 then y.lastOp else y.ps }).disarm (tmIdle link)
  s3.sqPump k

/-- Fetch from the first queue that may go on: locks all held stop the tile, staging stops writes, the tracker stops its
queue. [DESIGN CHOICE: log entry 69] -/
def State.fetchFirst (s : State) (t : Nat) : List (Nat × List Byte) → State
  | [] => s
  | (k, e) :: rest =>
    let locks := (s.storage.cmds.filter (fun c => c.tile == t && c.lock.isSome)).length
    let takes := (nvLock (s.nspace (sqNs e)) k e).isSome
    if takes ∧ rangeLockLimit s.mode ≤ locks then s.bump (Od.lockWaits t)
    else if !nvqAdmin k ∧ sqOp e = 1 ∧ s.poolFree 0x40 = 0 then (s.bump (Od.stagingWaits t)).fetchFirst t rest
    else if !s.nvMayStart k then
      (match nvqSlice k with | some n => s.bumpSlice n 1 | none => s).fetchFirst t rest
    else s.nvTake t k e

/-- COMMAND_FETCH (R458, R460): a service tile takes one command, in its round-robin order; entries are read into the
queues that hold none. -/
def execCommandFetch (t : Fin 4) (off : Nat) (s : State) : Res :=
  let s := s.moveTo off
  .next (if !s.storageOn || serviceTiles s.mode ≤ t.val then s
    else s.storage.queues.foldl (fun s e => s.sqPump e.1) (s.fetchFirst t (s.fetchOrder t)))

/-! ### Admin commands (R443, R445, R446, R469) -/

/-- A command of controller 0 or of an I/O queue, ready to run: fetched, not started, its opcode the one named. -/
def State.nvCmd (s : State) (id : Nat) (admin : Bool) (op : Nat) : Option NvmeCmd :=
  s.storage.cmds.find? (fun c => c.id == id && c.phase == 0 && nvqAdmin c.queue == admin && sqOp c.entry == op)

/-- Run an admin command. -/
def State.nvAdmin (s : State) (id op : Nat) (f : NvmeCmd → State) : State :=
  match s.nvCmd id true op with
  | none => s
  | some c => if c.status ≠ 0 then s.nvDone c 0 c.status 0 else f c

/-- Store a command. -/
def State.setNvCmd (s : State) (c : NvmeCmd) : State :=
  { s with storage := { s.storage with cmds := s.storage.cmds.map (fun d => if d.id = c.id then c else d) } }

/-- Host addresses of `n` bytes over a command's pages: address, offset in the data, length.
[PRESUMED: log entry 66] -/
def prpPieces (page : Nat) : List Nat → Nat → Nat → List (Nat × Nat × Nat)
  | [], _, _ => []
  | p :: ps, o, n =>
    if n = 0 then []
    else
      let k := min n (page - p % page)
      (p, o, k) :: prpPieces page ps (o + k) (n - k)

/-- Write bytes to a command's pages, marked as poisoned or not. -/
def State.nvWriteAs (s : State) (poisoned : Bool) (c : NvmeCmd) (pages : List Nat) (bs : List Byte) : State :=
  (prpPieces (s.nvPage c.queue) pages 0 bs.length).foldl (fun s p =>
    s.hostWriteFrom (0x30 + c.tile) 3 (nvqFn c.queue) (nvqSlice c.queue) p.1 false poisoned (slice bs p.2.1 p.2.2)) s

/-- Write bytes to a command's pages. -/
def State.nvWrite (s : State) (c : NvmeCmd) (pages : List Nat) (bs : List Byte) : State := s.nvWriteAs false c pages bs

/-- CREATE_IO_CQ (R443, R445). -/
def execCreateIoCq (id : Nat) (s : State) : Res :=
  .next (s.nvAdmin id 5 (fun c =>
    let link := nvqLink c.queue
    let d10 := sqDw c.entry 10
    let d11 := sqDw c.entry 11
    let qid := d10 % 65536
    let k := ctrlCq link qid
    if qid = 0 ∨ 64 < qid ∨ (s.nvq k).enable = true then s.nvDone c 1 0x01 0
    else if d10 / 65536 = 0 then s.nvDone c 1 0x02 0
    else if d11 % 2 = 0 then s.nvDone c 0 0x02 0
    else if 2047 < d11 / 65536 then s.nvDone c 1 0x08 0
    else (s.setNvq k { NvmeQueue.fresh with enable := true, cqBase := sqPrp1 c.entry, cqSize := d10 / 65536 + 1,
                                            vector := d11 / 65536, signals := bitOf d11 1 }).nvDone c 0 0 0))

/-- CREATE_IO_SQ (R443, R445). -/
def execCreateIoSq (id : Nat) (s : State) : Res :=
  .next (s.nvAdmin id 1 (fun c =>
    let link := nvqLink c.queue
    let d10 := sqDw c.entry 10
    let d11 := sqDw c.entry 11
    let qid := d10 % 65536
    let k := ctrlSq link qid
    let cq := ctrlCq link (d11 / 65536)
    if d11 / 65536 = 0 ∨ 64 < d11 / 65536 ∨ (s.nvq cq).enable = false then s.nvDone c 1 0x00 0
    else if qid = 0 ∨ 64 < qid ∨ (s.nvq k).enable = true then s.nvDone c 1 0x01 0
    else if d10 / 65536 = 0 then s.nvDone c 1 0x02 0
    else if d11 % 2 = 0 then s.nvDone c 0 0x02 0
    else (s.setNvq k { NvmeQueue.fresh with enable := true, sqBase := sqPrp1 c.entry, sqSize := d10 / 65536 + 1,
                                            cq := cq }).nvDone c 0 0 0))

/-- DELETE_IO_SQ (R445): commands it still has complete as aborted by the deletion. -/
def execDeleteIoSq (id : Nat) (s : State) : Res :=
  .next (s.nvAdmin id 0 (fun c =>
    let qid := sqDw c.entry 10 % 65536
    let k := ctrlSq (nvqLink c.queue) qid
    if qid = 0 ∨ 64 < qid ∨ (s.nvq k).enable = false then s.nvDone c 1 0x01 0
    else
      let mine := s.storage.cmds.filter (fun d => d.queue == k)
      let s1 := s.abandonReads (fun r => r.queue == k && r.kind == .storage)
      ((mine.foldl (fun s d => s.nvDone d 0 0x08 0) s1).setNvq k NvmeQueue.fresh).nvDone c 0 0 0))

/-- DELETE_IO_CQ (R445). -/
def execDeleteIoCq (id : Nat) (s : State) : Res :=
  .next (s.nvAdmin id 4 (fun c =>
    let link := nvqLink c.queue
    let qid := sqDw c.entry 10 % 65536
    let k := ctrlCq link qid
    if qid = 0 ∨ 64 < qid ∨ (s.nvq k).enable = false then s.nvDone c 1 0x01 0
    else if (List.range 65).any (fun i => (s.nvq (ctrlSq link i)).enable && (s.nvq (ctrlSq link i)).cq == k) then
      s.nvDone c 1 0x0C 0
    else (s.setNvq k NvmeQueue.fresh).nvDone c 0 0 0))

/-- Fields laid over 4,096 zero bytes at their offsets. -/
def page4k (fields : List (Nat × List Byte)) : List Byte :=
  fields.foldl (fun bs e => overlay bs e.1 e.2) (List.replicate 4096 0)

/-- The 4,096 bytes of Identify Controller (R443, R445, R469); what the manual does not give is 0.
[PRESUMED: log entry 66] -/
def identifyController (cntid : Nat) : List Byte :=
  let psd (noop enlat exlat : Nat) : List Byte :=
    leBytes 3 0 ++ leBytes 1 (2 * noop) ++ leBytes 4 enlat ++ leBytes 4 exlat ++ leBytes 20 0
  page4k [(0, leBytes 2 0x1F5A), (78, leBytes 2 cntid), (77, [9]), (80, leBytes 4 0x20000), (263, [2, 0, 1]),
    (512, [0x66, 0x44]), (516, leBytes 4 1024), (520, leBytes 2 0x4C), (525, [1]),
    (2048, psd 0 0 0 ++ psd 0 100 500 ++ psd 1 2000 20000)]

/-- The 4,096 bytes of Identify Namespace (R451). [PRESUMED: log entry 66] -/
def identifyNamespace (x : Namespace) : List Byte :=
  let small := decide (nsShift x = 9)
  let unit := leBytes 2 (if small then 511 else 63)
  let bound := leBytes 2 (if small then 2047 else 255)
  let size := leBytes 8 (nsBlocks x)
  page4k [(0, size ++ size ++ size), (24, [2]), (33, [1]), (34, unit), (36, unit), (40, bound), (44, bound),
    (128, leBytes 2 0 ++ leBytes 1 (nsShift x))]

/-- IDENTIFY (R442, R445, R451): CNS 0 to 3, for the controller CNTID names. [DESIGN CHOICE: log entry 67] -/
def execNvmeIdentify (id : Nat) (s : State) : Res :=
  .next (s.nvAdmin id 6 (fun c =>
    let d10 := sqDw c.entry 10
    let n := sqNs c.entry
    let who := if d10 / 65536 = 0 then 0xFFFF else d10 / 65536 - 1
    let attached (n : Nat) : Bool := nsPresent (s.nspace n) && nsAttach (s.nspace n) == who
    let answer (bs : List Byte) : State := (s.nvWrite c [sqPrp1 c.entry, sqPrp2 c.entry] bs).nvDone c 0 0 0
    match d10 % 256 with
    | 0 =>
      if n = 0 ∨ 1024 < n then s.nvDone c 0 0x0B 0
      else answer (if attached n then identifyNamespace (s.nspace n) else List.replicate 4096 0)
    | 1 => answer (identifyController (d10 / 65536))
    | 2 => answer (sized 4096 ((((List.range 1024).map (· + 1)).filter (fun m => decide (n < m) && attached m)).map
        (leBytes 4)).flatten)
    | 3 =>
      if n = 0 ∨ 1024 < n ∨ attached n = false then s.nvDone c 0 0x0B 0
      else
        let (s1, v) := s.openBits 40 128
        (s1.nvWrite c [sqPrp1 c.entry, sqPrp2 c.entry] (sized 4096 ([2, 16, 0, 0] ++ leBytes 16 v))).nvDone c 0 0 0
    | _ => s.nvDone c 0 0x02 0))

/-- GET_LOG_PAGE (R445): Error Information, SMART / Health (whose contents the manual leaves open), Commands Supported and
Effects. [DESIGN CHOICE: log entry 67] -/
def execGetLogPage (id : Nat) (s : State) : Res :=
  .next (s.nvAdmin id 2 (fun c =>
    let d10 := sqDw c.entry 10
    let len := (d10 / 65536 + sqDw c.entry 11 % 65536 * 65536 + 1) * 4
    let off := sqDw c.entry 12 + sqDw c.entry 13 * 2 ^ 32
    let answer (s : State) (bs : List Byte) : State :=
      (s.nvWrite c [sqPrp1 c.entry, sqPrp2 c.entry] (slice bs off (min len 4096))).nvDone c 0 0 0
    match d10 % 256 with
    | 1 => answer s (sized 4096 (s.ctrl (nvqLink c.queue)).errors.flatten)
    | 2 => let (s1, v) := s.openBits 41 4096; answer s1 (leBytes 512 v)
    | 5 =>
      let entry (admin : Bool) (op : Nat) : List Byte :=
        leBytes 4 (if nvOffers admin op then (if !admin && (op == 1 || op == 8 || op == 9) then 3 else 1) else 0)
      answer s (sized 4096 (((List.range 256).map (entry true)).flatten ++ ((List.range 256).map (entry false)).flatten))
    | _ => s.nvDone c 1 0x09 0))

/-- ABORT (R445): a command that has not started completes with Command Abort Requested. -/
def execNvmeAbort (id : Nat) (s : State) : Res :=
  .next (s.nvAdmin id 8 (fun c =>
    let d10 := sqDw c.entry 10
    let k := ctrlSq (nvqLink c.queue) (d10 % 65536)
    match s.storage.cmds.find? (fun d => d.queue == k && sqCid d.entry == d10 / 65536 && d.phase == 0 && d.id != c.id) with
    | some d => (s.nvDone d 0 0x07 0).nvDone c 0 0 0
    | none => s.nvDone c 0 0 1))

/-- Features and what they accept (R445). -/
def featureOk (fid value : Nat) : Bool :=
  match fid with
  | 0x01 => value % 8 == 0
  | 0x02 => decide (value % 32 ≤ 2)
  | 0x06 | 0x07 | 0x08 | 0x0B | 0x0C | 0x0E => true
  | _ => false

/-- SET_FEATURES (R445, R462, R469, R471): the Timestamp is ignored; the autonomous transition table is read from the
host. -/
def execSetFeatures (id : Nat) (s : State) : Res :=
  .next (s.nvAdmin id 9 (fun c =>
    let link := nvqLink c.queue
    let x := s.ctrl link
    let fid := sqDw c.entry 10 % 256
    let v := sqDw c.entry 11
    if featureOk fid v = false then s.nvDone c 0 0x02 0
    else
      match fid with
      | 0x0E => s.nvDone c 0 0 0
      | 0x07 => if v % 65536 = 65535 ∨ v / 65536 = 65535 then s.nvDone c 0 0x02 0 else s.nvDone c 0 0 (63 * 65536 + 63)
      | 0x02 => (s.setCtrl link { x with ps := v % 32, lastOp := if v % 32 < 2 then v % 32 else x.lastOp }).nvDone c 0 0 0
      | 0x0C =>
        let s1 := (s.setCtrl link { x with features := tblSet 0 x.features 0xC (v % 2) }).setNvCmd { c with phase := 2 }
        (prpPieces (s.nvPage c.queue) [sqPrp1 c.entry, sqPrp2 c.entry] 0 256).foldl (fun s p =>
          s.read .storage (nvqFn c.queue) none c.queue c.id p.2.1 p.1 p.2.2) s1
      | _ => (s.setCtrl link { x with features := tblSet 0 x.features fid v }).nvDone c 0 0 0))

/-- GET_FEATURES (R445): the Timestamp is TAI in milliseconds. -/
def execGetFeatures (id : Nat) (s : State) : Res :=
  .next (s.nvAdmin id 0xA (fun c =>
    let x := s.ctrl (nvqLink c.queue)
    let fid := sqDw c.entry 10 % 256
    if featureOk fid 0 = false then s.nvDone c 0 0x02 0
    else
      match fid with
      | 0x0E => (s.nvWrite c [sqPrp1 c.entry, sqPrp2 c.entry] (leBytes 6 (s.now / (nsTicks * 1000000)) ++ leBytes 2 0)).nvDone
          c 0 0 0
      | 0x02 => s.nvDone c 0 0 x.ps
      | 0x07 => s.nvDone c 0 0 (63 * 65536 + 63)
      | 0x0C => (s.nvWrite c [sqPrp1 c.entry, sqPrp2 c.entry] (sized 256 x.apst)).nvDone c 0 0 (tblGet 0 x.features 0xC)
      | _ => s.nvDone c 0 0 (tblGet 0 x.features fid)))

/-- ASYNCHRONOUS_EVENT_REQUEST (R446). -/
def execAsynchronousEventRequest (id : Nat) (s : State) : Res :=
  .next (s.nvAdmin id 0xC (fun c =>
    let link := nvqLink c.queue
    let x := s.ctrl link
    match x.events with
    | [] => (s.setCtrl link { x with aers := x.aers ++ [c.id] }).setNvCmd { c with phase := 3 }
    | (t, i, p) :: rest => (s.setCtrl link { x with events := rest }).nvDone c 0 0 (t + i * 256 + p * 65536)))

/-- INVALID_COMMAND_OPCODE (R445): an opcode the queue does not offer. -/
def execInvalidCommandOpcode (id : Nat) (s : State) : Res :=
  .next (match s.storage.cmds.find? (fun c => c.id == id) with
    | some c => if c.phase = 0 ∧ nvOffers (nvqAdmin c.queue) (sqOp c.entry) = false then s.nvDone c 0 0x01 0 else s
    | none => s)

/-- APST_IDLE_TIMER (R471): the idle time of the present power state has passed with nothing outstanding. An entry of the
transition table has the target state in [7:3] and the time in ms in [31:8]. -/
def execApstIdleTimer (link : Fin 4) (s : State) : Res :=
  let x := s.ctrl link
  let e := leAt x.apst (8 * x.ps) 8
  let ms := bitField e 31 8
  let idle := !s.storage.cmds.any (fun c => decide (2 ^ 40 ≤ c.queue) && nvqLink c.queue == link.val)
  .next (if tblGet 0 x.features 0xC = 1 ∧ ms ≠ 0 ∧ idle = true ∧ bitField e 7 3 ≤ 2 ∧ x.ps < bitField e 7 3 ∧
      s.dueEvery (tmIdle link) (s.msCourses ms) (s.grainOf 1000000) = true then
    let ps := bitField e 7 3
    (s.setCtrl link { x with ps := ps, lastOp := if x.ps < 2 then x.ps else x.lastOp }).arm (tmIdle link)
  else s)

end Sys2Proof.Machine
end

