-- ==== Sys2Proof/Machine/Mapping.lean ====
section
/-! DEFINITION. Machine/Mapping.lean: namespaces, the mapping layer, backings and SSDs (chapter "Storage front end", R447 to
R457, R461 to R471). -/

namespace Sys2Proof.Machine

/-! ### Units of a namespace (R454, R457) -/

/-- Key of a unit's map entry. -/
def unitKey (n u : Nat) : Nat := n * 2 ^ 40 + u

/-- A unit's bytes sealed or opened under the namespace's key slot: each LBA with its number as the data unit number. -/
def State.unitCrypt (s : State) (enc : Bool) (x : Namespace) (u : Nat) (bs : List Byte) : List Byte :=
  if nsKey x = 0xFFFF then bs
  else
    let size := 2 ^ nsShift x
    xtsUnits enc (s.keySlot (nsKey x)).key size (4096 / size) (u * (4096 / size)) bs

/-- The map entry of a unit, none where it is deallocated. -/
def State.mapAt (s : State) (n u : Nat) : Option MapEntry :=
  (s.storage.map.find? (fun e => e.1 == unitKey n u)).map Prod.snd

/-- A unit's plain bytes where no backing is needed: staged, or zeros; none for a backing block. -/
def State.unitNow (s : State) (n u : Nat) : Option (List Byte) :=
  match s.mapAt n u with
  | none => some (List.replicate 4096 0)
  | some (.staged _ bs) => some (s.unitCrypt false (s.nspace n) u bs)
  | some (.block _) => none

/-- Pieces of a write: split at every 1 MiB, and then into pieces of at most 256 KiB (R453). -/
def atomicPieces (lo hi : Nat) : Nat → List (Nat × Nat)
  | 0 => []
  | n + 1 =>
    if hi ≤ lo then []
    else
      let e := min hi (min ((lo / 2 ^ 20 + 1) * 2 ^ 20) (lo + 2 ^ 18))
      (lo, e) :: atomicPieces e hi n

/-- The units a byte range touches. -/
def unitsOf (lo hi : Nat) : List Nat := (List.range ((hi - 1) / 4096 + 1 - lo / 4096)).map (fun i => lo / 4096 + i)

/-- A unit lies wholly in a byte range. -/
def unitFull (lo hi u : Nat) : Bool := lo ≤ u * 4096 && (u + 1) * 4096 ≤ hi

/-- Pieces of a write's byte range. -/
def piecesOf (r : Nat × Nat) : List (Nat × Nat) := atomicPieces r.1 r.2 (ceilDiv (r.2 - r.1) (2 ^ 18) + 8)

/-- The byte ranges a command writes: of a Write or Write Zeroes, or those a Dataset Management's list names. -/
def State.cmdRanges (s : State) (c : NvmeCmd) : List (Nat × Nat) :=
  let x := s.nspace (sqNs c.entry)
  let size := 2 ^ nsShift x
  let cap := nsBlocks x * size
  if sqOp c.entry = 9 then
    let bs := ((c.data.mergeSort (fun a b => a.1 ≤ b.1)).map Prod.snd).flatten
    ((chunks 16 256 bs).map (fun r => (min cap (leAt r 8 8 * size), min cap ((leAt r 8 8 + leAt r 4 4) * size)))).filter
      (fun r => r.1 < r.2)
  else [(sqLba c.entry * size, (sqLba c.entry + sqCount c.entry) * size)]

/-! ### Backing commands (R454, R465, R466) -/

/-- The timer of a backing command. -/
def tmBacking (id : Nat) : Nat := timerKey 21 id

/-- Target of a namespace's backing: SSD number, or 64 + remote target. -/
def nsTarget (x : Namespace) : Nat := if nsBacking x = 1 then nsRef x else 64 + nsRef x

/-- A remote target that is not connected. -/
def State.unreachable (s : State) (target : Nat) : Bool := 64 ≤ target && !s.storage.connected.contains (target - 64)

/-- Name of a backing command by its kind. -/
def backingName (kind : Nat) : String := if kind = 0 then "read" else if kind = 1 then "write" else "journal"

/-- Send a backing command. -/
def State.backingSend (s : State) (b : BackingCmd) : State :=
  s.emit (.backing b.target (backingName b.kind) ([b.id, b.block] ++ b.data.map (fun x => x.toNat)))

/-- Issue a backing command under a new number; towards a target that is not reachable it waits. -/
def State.backingIssue (s : State) (b : BackingCmd) : State × Nat :=
  let id := s.storage.nextId + 1
  let x := { b with id := id, retries := 0, stranded := s.unreachable b.target }
  let s1 := ({ s with storage := { s.storage with backing := s.storage.backing ++ [x], nextId := id } }).arm (tmBacking id)
  (if x.stranded then s1 else s1.backingSend x, id)

/-- A backing command is over. -/
def State.backingDrop (s : State) (id : Nat) : State :=
  ({ s with storage := { s.storage with backing := s.storage.backing.filter (fun b => b.id != id) } }).disarm (tmBacking id)

/-- Read a unit of a command from its backing block. [DESIGN CHOICE: log entry 67] -/
def State.readUnit (s : State) (c : NvmeCmd) (u block : Nat) : State × Nat :=
  let n := sqNs c.entry
  let x := s.nspace n
  s.backingIssue { id := 0, target := nsTarget x, kind := 0, block := nsStart x + block, data := [], cmd := some (c.id, u),
                   ns := n, seq := 0, retries := 0, stranded := false }

/-- Start backing reads for the units named that lie on the backing and are not yet at hand. -/
def State.fetchUnits (s : State) (c : NvmeCmd) : List Nat → State × NvmeCmd
  | [] => (s, c)
  | u :: us =>
    match s.mapAt (sqNs c.entry) u with
    | some (.block b) =>
      if c.old.any (fun e => e.1 == u) then s.fetchUnits c us
      else
        let (s1, id) := s.readUnit c u b
        s1.fetchUnits { c with wants := c.wants ++ [id] } us
    | _ => s.fetchUnits c us

/-! ### Map commit and write-back (R454 to R456, R461) -/

/-- Backing blocks of a namespace in use. -/
def State.blocksUsed (s : State) (n : Nat) : List Nat :=
  let mapped := s.storage.map.filterMap (fun e => match e.2 with
    | .block b => if e.1 / 2 ^ 40 = n then some b else none
    | _ => none)
  let coming := ((s.storage.writeBacks.filter (fun w => w.ns == n)).map (fun w => w.units.map Prod.snd)).flatten
  let kept := (s.storage.durable.filter (fun e => e.1 / 2 ^ 40 == n)).map Prod.snd
  (mapped ++ coming ++ kept).dedup.mergeSort (· ≤ ·)

/-- Free backing blocks for units, one each: which free blocks they are the manual leaves open.
[DESIGN CHOICE: log entry 67] -/
def State.pickBlocks (s : State) (n : Nat) (used : List Nat) : List Nat → State × List (Nat × Nat)
  | [] => (s, [])
  | u :: us =>
    let (s1, v) := s.openBits 42 64
    let b := nthFree used (v % max 1 (nsExtent (s.nspace n) - used.length))
    let (s2, rest) := s1.pickBlocks n ((b :: used).mergeSort (· ≤ ·)) us
    (s2, (u, b) :: rest)

/-- The journal record of the next write-back in sequence order whose data is durable is written; not while the storage
engines stand still (R468). -/
def State.pumpJournal (s : State) (n : Nat) : State :=
  if !s.storageOn then s else
  match s.storage.writeBacks.find? (fun w => w.ns == n && w.journal != 2) with
  | none => s
  | some w =>
    if w.journal = 0 ∧ w.wants = [] then
      let x := s.nspace n
      let (s0, at_) := s.openBits 43 64
      let (s1, id) := s0.backingIssue { id := 0, target := nsTarget x, kind := 2, block := at_, data := [], cmd := none,
                                        ns := n, seq := w.seq, retries := 0, stranded := false }
      { s1 with storage := { s1.storage with writeBacks := s1.storage.writeBacks.map (fun v =>
          if v.ns = n ∧ v.seq = w.seq then { v with journal := 1, wants := [id] } else v) } }
    else s

/-- Write back the units of a committed piece: data to free blocks, then its journal record. -/
def State.writeBack (s : State) (c : NvmeCmd) (seq : Nat) (units : List (Nat × List Byte)) (gone : List Nat) : State :=
  let n := sqNs c.entry
  let x := s.nspace n
  let (s1, blocks) := s.pickBlocks n (s.blocksUsed n) (units.map Prod.fst)
  let (s2, ids) := (units.zip blocks).foldl (fun (acc : State × List Nat) e =>
    let (t, id) := acc.1.backingIssue { id := 0, target := nsTarget x, kind := 1, block := nsStart x + e.2.2, data := e.1.2,
                                        cmd := none, ns := n, seq := seq, retries := 0, stranded := false }
    (t, acc.2 ++ [id])) (s1, [])
  let w : WriteBack := { ns := n, seq := seq, units := blocks, gone := gone, wants := ids, journal := 0, cmd := c.id }
  ({ s2 with storage := { s2.storage with writeBacks := s2.storage.writeBacks ++ [w] } }).pumpJournal n

/-- Commit one atomic piece: its units under the next sequence number, with the bytes given or, for none, with zeros, where
a unit covered whole names no unit (R455); staged units go to HBM (R43). The sequence number. -/
def State.commitPiece (s : State) (c : NvmeCmd) (base : Nat) (data : Option (List Byte)) (p : Nat × Nat) : State × Nat :=
  let n := sqNs c.entry
  let x := s.nspace n
  let seq := x.nextSeq
  let (lo, hi) := p
  let content (u : Nat) : List Byte :=
    let from_ := max lo (u * 4096)
    let upto := min hi ((u + 1) * 4096)
    let was := (s.unitNow n u).getD (((c.old.find? (fun e => e.1 == u)).map Prod.snd).getD (List.replicate 4096 0))
    let new := match data with
      | some bs => slice bs (from_ - base) (upto - from_)
      | none => List.replicate (upto - from_) 0
    overlay was (from_ - u * 4096) new
  let us := unitsOf lo hi
  let staged := us.filter (fun u => data.isSome || !unitFull lo hi u)
  let gone := us.filter (fun u => !staged.contains u)
  let sealed_ := staged.map (fun u => (u, s.unitCrypt true x u (content u)))
  let cleared := gone.foldl (fun m u => tblDel m (unitKey n u)) s.storage.map
  let map1 := sealed_.foldl (fun m e => tblPut m (unitKey n e.1) (MapEntry.staged seq e.2)) cleared
  let s1 := ({ s with storage := { s.storage with map := map1 } }).setNspace n { x with nextSeq := seq + 1 }
  let s2 := if nsKey x = 0xFFFF then s1
    else (s1.bump (Od.requestsAtUrgency (0x30 + x.tile) 1)).useSlot (nsKey x)
  let s3 := if data.isNone ∧ !staged.isEmpty ∧ nsBacking x ≠ 3 then s2.poolTake 0x40 staged.length else s2
  let s4 := if data.isNone then s3.nsCount n 5 gone.length
    else staged.foldl (fun s u => s.hbmRequest (0x30 + x.tile) 4 u) s3
  (if nsBacking x = 3 then s4 else s4.writeBack c seq sealed_ gone, seq)

/-- Commit every piece of a command; the sequence numbers. -/
def State.commitAll (s : State) (c : NvmeCmd) (base : Nat) (data : Option (List Byte)) :
    List (Nat × Nat) → State × List Nat
  | [] => (s, [])
  | p :: ps =>
    let (s1, q) := s.commitPiece c base data p
    let (s2, qs) := s1.commitAll c base data ps
    (s2, q :: qs)

/-- The write cache is enabled for a command's controller (R462). -/
def State.cacheOn (s : State) (c : NvmeCmd) : Bool :=
  match nvqSlice c.queue with
  | some _ => s.rdB Od.sliceWriteCache
  | none => tblGet 0 (s.ctrl (nvqLink c.queue)).features 6 % 2 == 1

/-- Units of staging a write takes. -/
def State.stageNeed (s : State) (c : NvmeCmd) : Nat :=
  if sqOp c.entry = 1 ∧ nsBacking (s.nspace (sqNs c.entry)) ≠ 3 then
    (((s.cmdRanges c).map piecesOf).flatten.map (fun p => (unitsOf p.1 p.2).length)).sum
  else 0

/-- Every write to a Flush's namespace that was fetched before it has passed step 6 (R461). -/
def State.flushOk (s : State) (c : NvmeCmd) : Bool :=
  let n := sqNs c.entry
  !s.storage.writeBacks.any (fun w => w.ns == n && decide (w.cmd < c.id) && w.journal != 2)
    && !s.storage.cmds.any (fun d => sqNs d.entry == n && decide (d.id < c.id) && !nvqAdmin d.queue
      && [1, 8, 9].contains (sqOp d.entry) && d.phase != 3)

/-- Flushes and writes of a namespace whose journal records are durable complete (R455, R461). -/
def State.durableCheck (s : State) (n : Nat) : State :=
  s.storage.cmds.foldl (fun s c =>
    if c.phase = 3 ∧ sqNs c.entry = n ∧ nvqAdmin c.queue = false then
      if sqOp c.entry = 0 then (if s.flushOk c then s.nvDone c 0 0 0 else s)
      else if c.waits.all (fun q => !s.storage.writeBacks.any (fun w => w.ns == n && w.seq == q && w.journal != 2)) then
        s.nvDone c 0 0 0
      else s
    else s) s

/-- A Read's data goes to the host (R47): what stands in staging comes from HBM; a response that came poisoned is sent on
with the EP bit (R41, R411). -/
def State.nvDeliver (s : State) (c : NvmeCmd) (staged : List Nat) (bs : List Byte) : State :=
  let tile := 0x30 + c.tile
  let bad (e : Nat × Nat) : Bool := e.1 == tile && staged.contains e.2
  let s1 := staged.foldl (fun s u => s.hbmRequest tile 4 u) s
  if s.memory.poisoned.any bad then
    let s2 := { s1 with memory := { s1.memory with poisoned := s1.memory.poisoned.filter (fun e => !bad e) } }
    ((s2.nvWriteAs true c c.pages bs).bump (Od.poisonForwarded (nvqFn c.queue))).raiseLimited 0x8A06 (nvqFn c.queue) 1
      (nvqFn c.queue)
  else s1.nvWrite c c.pages bs

/-- A command fails: what it had staged is given back. -/
def State.nvFail (s : State) (c : NvmeCmd) (sc : Nat) : State :=
  let held := if c.phase = 1 ∨ c.phase = 2 then s.stageNeed c else 0
  let s1 := if held = 0 then s else s.poolGive 0x40 held
  ((c.wants.foldl (fun s id => s.backingDrop id) s1).nvDone c 0 sc 0).durableCheck (sqNs c.entry)

/-- A command's data has been moved: it ends, as its opcode says (R454, R455, R457, R471). Units written in part that lie
on the backing are read first. -/
def State.nvFinish (s : State) (c : NvmeCmd) : State :=
  let n := sqNs c.entry
  let x := s.nspace n
  let gathered := ((c.data.mergeSort (fun a b => a.1 ≤ b.1)).map Prod.snd).flatten
  let onStage (u : Nat) : Bool := match s.mapAt n u with | some (.staged ..) => true | _ => false
  if !nvqAdmin c.queue && s.rd (Od.namespaceStatus n) == 3 && !(sqOp c.entry == 2
      && (unitsOf (sqLba c.entry * 2 ^ nsShift x) ((sqLba c.entry + sqCount c.entry) * 2 ^ nsShift x)).all onStage) then
    s.nvFail c 0x06
  else if nvqAdmin c.queue then
    let y := s.ctrl (nvqLink c.queue)
    (s.setCtrl (nvqLink c.queue) { y with apst := gathered }).nvDone c 0 0 0
  else if sqOp c.entry = 2 then
    let lo := sqLba c.entry * 2 ^ nsShift x
    let len := sqCount c.entry * 2 ^ nsShift x
    let whole := ((unitsOf lo (lo + len)).map (fun u =>
      ((c.old.find? (fun e => e.1 == u)).map Prod.snd).getD (List.replicate 4096 0))).flatten
    let from_ := (unitsOf lo (lo + len)).filter onStage
    let opens := nsKey x != 0xFFFF && (unitsOf lo (lo + len)).any (fun u => (s.mapAt n u).isSome)
    let s1 := if opens then (s.bump (Od.requestsAtUrgency (0x30 + c.tile) 1)).useSlot (nsKey x) else s
    (((s1.nvDeliver c from_ (slice whole (lo % 4096) len)).nsCount n 0 1).nsCount n 2 len).nvDone c 0 0 0
  else
    let ranges := s.cmdRanges c
    let split := (ranges.map piecesOf).flatten
    let edges := (split.map (fun p => (unitsOf p.1 p.2).filter (fun u => !unitFull p.1 p.2 u))).flatten.dedup
    let (s1, c1) := s.fetchUnits c edges
    let base := match ranges with | r :: _ => r.1 | [] => 0
    if c1.wants ≠ [] then s1.setNvCmd c1
    else
      let (s2, seqs) := s1.commitAll c1 base (if sqOp c.entry = 1 then some gathered else none) split
      let s3 := if sqOp c.entry = 1 then (s2.nsCount n 1 1).nsCount n 3 gathered.length else s2
      let later := nsBacking x != 3 && !seqs.isEmpty && (!s.cacheOn c || (sqOp c.entry != 9 && bitOf (sqDw c.entry 12) 30))
      if later then s3.setNvCmd { c1 with phase := 3, waits := seqs }
      else (s3.nvDone c1 0 0 0).durableCheck n

/-- Read the next part of a command's PRP list. -/
def State.nvList (s : State) (c : NvmeCmd) : State :=
  match c.list with
  | none => s
  | some (a, rest) =>
    let page := s.nvPage c.queue
    (s.setNvCmd c).read .storage (nvqFn c.queue) (nvqSlice c.queue) c.queue c.id (2 ^ 40) a
      (8 * min rest ((page - a % page) / 8))

/-- Move a command's data: a Write's and a Dataset Management's comes from the host, a Read's from staging, zeros or the
backing. -/
def State.nvMove (s : State) (c0 : NvmeCmd) (len : Nat) : State :=
  let c := { c0 with phase := 2 }
  if sqOp c.entry = 2 ∧ !nvqAdmin c.queue then
    let n := sqNs c.entry
    let lo := sqLba c.entry * 2 ^ nsShift (s.nspace n)
    let us := unitsOf lo (lo + len)
    let have_ := us.filterMap (fun u => (s.unitNow n u).map (fun bs => (u, bs)))
    let (s1, c1) := s.fetchUnits { c with old := have_ } us
    let s2 := s1.setNvCmd c1
    if c1.wants = [] then s2.nvFinish c1 else s2
  else
    (prpPieces (s.nvPage c.queue) c.pages 0 len).foldl (fun s p =>
      s.read .storage (nvqFn c.queue) (nvqSlice c.queue) c.queue c.id p.2.1 p.1 p.2.2) (s.setNvCmd c)

/-- Bytes a command moves to or from the host. -/
def State.nvBytes (s : State) (c : NvmeCmd) : Nat :=
  if sqOp c.entry = 9 then 16 * (sqDw c.entry 10 % 256 + 1)
  else sqCount c.entry * 2 ^ nsShift (s.nspace (sqNs c.entry))

/-- Begin a data transfer: its pages from PRP1, PRP2 or the PRP list. -/
def State.nvBegin (s : State) (c : NvmeCmd) : State :=
  let len := s.nvBytes c
  let page := s.nvPage c.queue
  let a := sqPrp1 c.entry
  let first := min len (page - a % page)
  if len ≤ first then s.nvMove { c with pages := [a] } len
  else if len - first ≤ page then s.nvMove { c with pages := [a, sqPrp2 c.entry] } len
  else s.nvList { c with phase := 1, pages := [a], list := some (sqPrp2 c.entry, ceilDiv (len - first) page) }

/-- What a command still waited for has come: its PRP list goes on, its data starts to move, or it ends. -/
def State.nvAdvance (s : State) (c : NvmeCmd) : State :=
  if c.wants ≠ [] ∨ s.host.reads.any (fun r => r.kind == .storage && r.id == c.id) = true then s.setNvCmd c
  else if c.phase = 1 then
    match c.list with
    | none => s.setNvCmd c
    | some (a, rest) =>
      let page := s.nvPage c.queue
      let k := min rest ((page - a % page) / 8)
      let bs := (((c.data.filter (fun e => 2 ^ 40 ≤ e.1)).mergeSort (fun x y => x.1 ≤ y.1)).map Prod.snd).flatten
      let names := (List.range k).map (fun i => leAt bs (8 * i) 8)
      if k < rest then
        s.nvList { c with pages := c.pages ++ names.dropLast, data := [],
                          list := some (names.getLastD 0, rest - (k - 1)) }
      else s.nvMove { c with pages := c.pages ++ names, data := [], list := none } (s.nvBytes c)
  else s.nvFinish c

/-- A storage read of host memory has ended (R410, R412): a submission entry, or data or a PRP list of a command; `none`
where it failed, which halts the queue or ends the command with Data Transfer Error.
[DESIGN CHOICE: log entry 68] -/
def State.nvData (s : State) (r : Dma) (data : Option (List Byte)) : State :=
  if r.id = 0 then
    let q := s.nvq r.queue
    match data with
    | some bs => s.setNvq r.queue { q with entry := some bs }
    | none => (s.setNvq r.queue { q with halted := true }).raiseLimited 0x8A04 (nvqFn r.queue) 1 r.queue
  else
    match s.storage.cmds.find? (fun c => c.id == r.id) with
    | none => s
    | some c =>
      match data with
      | some bs => s.nvAdvance { c with data := c.data ++ [(r.part, bs)] }
      | none => s.nvFail c 0x04

/-! ### I/O commands (R453 to R457, R461) -/

/-- Run an I/O command whose lock is granted; one refused at its fetch, or for a Failed namespace, ends. -/
def State.nvIo (s : State) (id op : Nat) (f : NvmeCmd → State) : State :=
  match s.nvCmd id false op with
  | none => s
  | some c =>
    if c.status ≠ 0 then s.nvDone c 0 c.status 0
    else if !c.granted || !s.storageOn then s
    else if s.rd (Od.namespaceStatus (sqNs c.entry)) = 3 ∧ op ≠ 2 then s.nvDone c 0 0x06 0
    else f c

/-- NVME_WRITE (R453, R454): staging is taken before its data is read. -/
def execNvmeWrite (id : Nat) (s : State) : Res :=
  .next (s.nvIo id 1 (fun c =>
    let need := s.stageNeed c
    if s.poolFree 0x40 < need then s.bump (Od.stagingWaits c.tile)
    else (if need = 0 then s else s.poolTake 0x40 need).nvBegin c))

/-- NVME_READ (R457): in the Failed state only units still in staging are served (R467). -/
def execNvmeRead (id : Nat) (s : State) : Res :=
  .next (s.nvIo id 2 (fun c =>
    let n := sqNs c.entry
    let lo := sqLba c.entry * 2 ^ nsShift (s.nspace n)
    let stagedAll := (unitsOf lo (lo + s.nvBytes c)).all (fun u => match s.mapAt n u with
      | some (.staged _ _) => true | _ => false)
    if s.rd (Od.namespaceStatus n) = 3 ∧ stagedAll = false then s.nvDone c 0 0x06 0 else s.nvBegin c))

/-- WRITE_ZEROES (R455). -/
def execWriteZeroes (id : Nat) (s : State) : Res :=
  .next (s.nvIo id 8 (fun c => (s.setNvCmd { c with phase := 2 }).nvFinish { c with phase := 2 }))

/-- DATASET_MANAGEMENT (R455): Deallocate reads its ranges and commits; without it nothing is done.
[DESIGN CHOICE: log entry 69] -/
def execDatasetManagement (id : Nat) (s : State) : Res :=
  .next (s.nvIo id 9 (fun c => if bitOf (sqDw c.entry 11) 2 then s.nvBegin c else s.nvDone c 0 0 0))

/-- NVME_FLUSH (R461). -/
def execNvmeFlush (id : Nat) (s : State) : Res :=
  .next (s.nvIo id 0 (fun c =>
    if nsBacking (s.nspace (sqNs c.entry)) = 3 ∨ s.flushOk c = true then s.nvDone c 0 0 0
    else s.setNvCmd { c with phase := 3 }))

/-- WRITE_BACK_COMPLETE (R454, step 7): the data and journal record are durable; the map names the blocks where it still
names this write, and staging is free. -/
def execWriteBackComplete (n seq : Nat) (s : State) : Res :=
  .next (match s.storage.writeBacks.find? (fun w => w.ns == n && w.seq == seq) with
    | none => s
    | some w =>
      if w.journal ≠ 2 ∨ s.storageOn = false then s
      else
        let map1 := w.units.foldl (fun m e =>
          match (m.find? (fun x => x.1 == unitKey n e.1)).map Prod.snd with
          | some (.staged q _) => if q = seq then tblPut m (unitKey n e.1) (MapEntry.block e.2) else m
          | _ => m) s.storage.map
        let s1 := { s with storage := { s.storage with
          map := map1
          writeBacks := s.storage.writeBacks.filter (fun v => !(v.ns == n && v.seq == seq)) } }
        let s2 := if w.units.isEmpty then s1 else s1.poolGive 0x40 w.units.length
        s2)

/-! ### Faults of backings (R464 to R467) -/

/-- A namespace enters the Failed state: its write-backs end, staging no map entry names is given back, commands that wait end with Internal Error, and controller 0
raises Persistent Internal Error. -/
def State.nsFail (s : State) (n : Nat) : State :=
  let mine := s.storage.backing.filter (fun b => b.ns == n)
  let s1 := mine.foldl (fun s b => s.backingDrop b.id) (s.wr (Od.namespaceStatus n) 3)
  let lost := s1.stagedUnits n - s1.stagedNow n
  let s1 := if lost = 0 then s1 else s1.poolGive 0x40 lost
  let s2 := { s1 with storage := { s1.storage with writeBacks := s1.storage.writeBacks.filter (fun w => w.ns != n) } }
  let stuck := s2.storage.cmds.filter (fun c => sqNs c.entry == n && !nvqAdmin c.queue && (c.phase == 3 || c.wants != []))
  ((stuck.foldl (fun s c => s.nvFail c 0x06) s2).raise 0x9A01 n).nvEventAll 0 3 1

/-- A backing command has failed for good. [DESIGN CHOICE: log entry 69] -/
def State.backingFailed (s : State) (b : BackingCmd) (sc : Nat) : State :=
  let s1 := s.backingDrop b.id
  match b.cmd with
  | some (id, _) =>
    match s1.storage.cmds.find? (fun c => c.id == id) with
    | some c => s1.nvFail c sc
    | none => s1
  | none => s1.nsFail b.ns

/-- The journal record of a write-back is durable: the journal names its blocks and not the units it deallocates. -/
def State.journalDurable (s : State) (n seq : Nat) : State :=
  match s.storage.writeBacks.find? (fun w => w.ns == n && w.seq == seq) with
  | none => s
  | some w =>
    let t := w.gone.foldl (fun t u => tblDel t (unitKey n u)) s.storage.durable
    { s with storage := { s.storage with durable := w.units.foldl (fun t e => tblPut t (unitKey n e.1) e.2) t } }

/-- BACKING_COMPLETION (R464 to R466): checked against the command it names. [DESIGN CHOICE: log entry 69] -/
def execBackingCompletion (t : Fin 4) (target id : Nat) (good : Bool) (data : List Byte) (s : State) : Res :=
  .next (match s.storage.backing.find? (fun b => b.id == id && b.target == target) with
    | none => s.bump (if 64 ≤ target then Od.remoteMalformed t else Od.lateBackingCompletions t)
    | some b =>
      let fits := good && (b.kind != 0 || data.length == 4096)
      if !fits then
        if 64 ≤ target then s.bump (Od.remoteMalformed t) else s.backingFailed b 0x06
      else
        let s1 := s.backingDrop id
        match b.cmd with
        | some (cid, u) =>
          match s1.storage.cmds.find? (fun c => c.id == cid) with
          | some c => s1.nvAdvance { c with old := c.old ++ [(u, s1.unitCrypt false (s1.nspace b.ns) u data)],
                                            wants := c.wants.filter (· != id) }
          | none => s1
        | none =>
          let s2 := if b.kind = 2 then s1.journalDurable b.ns b.seq else s1
          (({ s2 with storage := { s2.storage with writeBacks := s2.storage.writeBacks.map (fun (w : WriteBack) =>
              if w.ns = b.ns ∧ w.seq = b.seq then
                { w with wants := w.wants.filter (· != id), journal := if b.kind = 2 then 2 else w.journal }
              else w) } }).durableCheck b.ns).pumpJournal b.ns)

/-- BACKING_TIMEOUT (R465 to R467): Abort and up to two retries; then the command fails. While its remote target is
unreachable a command ends with Transient Transport Error and a write-back goes on waiting. -/
def execBackingTimeout (id : Nat) (s : State) : Res :=
  .next (match s.storage.backing.find? (fun b => b.id == id) with
    | none => s
    | some b =>
      if s.dueEvery (tmBacking id) (s.msCourses (s.rd Od.backingTimeout)) (s.grainOf 1000000) = false
          ∨ s.storageOn = false then s
      else if s.unreachable b.target then
        match b.cmd with
        | some _ => s.backingFailed b 0x22
        | none => s.arm (tmBacking id)
      else
        let s1 := s.emit (.backing b.target "abort" [id])
        if b.retries < 2 then
          (({ s1 with storage := { s1.storage with backing := s1.storage.backing.map (fun (x : BackingCmd) =>
              if x.id = id then { x with retries := x.retries + 1 } else x) } }).backingSend b).arm (tmBacking id)
        else s1.backingFailed b 0x06)

/-- SSD_INBOUND_REQUEST (R464): accepted within the PRP ranges of the SSD's outstanding commands and to its MSI-X
target. -/
def execSsdInboundRequest (n : Fin 4) (target : SsdTarget) (nonPosted : Bool) (s : State) : Res :=
  let ok := match target with
    | .msix => true
    | .range id => s.storage.backing.any (fun b => b.id == id && b.target == n.val)
    | .other => false
  .next (if ok then s
    else
      let s1 := (s.bump (Od.ssdInboundRefused n)).raiseLimited 0x9A03 n 1 n
      if nonPosted then s1.emit (.backing n "unsupported request" []) else s1)

/-- SURPRISE_REMOVAL (R467): every namespace of the SSD fails. -/
def execSurpriseRemoval (n : Fin 4) (s : State) : Res :=
  let s1 := s.wr (Od.ssdStatus n) 0
  .next (s.storage.namespaces.foldl (fun s e =>
    if nsPresent e.2 && nsBacking e.2 == 1 && nsRef e.2 == n.val then s.nsFail e.1 else s) s1)

/-! ### SSDs and power (R463, R469 to R471) -/

/-- Some own state a PF2 power state would put an SSD in is not there, or leaves more slowly than advertised. -/
def exlatTooLong (states : List Nat) (own advertised : Nat) : Bool := advertised < states.getD own 0 + 40

/-- Checks of a write of DspPs1State or DspPs2State (R470). -/
def State.dspStateCode (s : State) (second : Bool) (v : Nat) : Nat :=
  let inUse := (List.range 4).filter (fun n => s.rd (Od.ssdStatus n) == 1)
  let states (n : Nat) : List Nat := tblGet [] s.storage.ssdStates n
  if inUse.any (fun n => decide ((states n).length ≤ v)) then 0x04
  else if inUse.any (fun n => exlatTooLong (states n) v (if second then 20000 else 500)) then 0x0A
  else 0

/-- An SSD must be kept in its state 0. -/
def State.ssdHeld (s : State) (n : Nat) : Bool :=
  let states := tblGet [] s.storage.ssdStates n
  exlatTooLong states (s.rd Od.dspPs1State) 500 || exlatTooLong states (s.rd Od.dspPs2State) 20000

/-- SSD_LINK_UP (R463, R470): the SSD is enumerated and accepted or refused. -/
def execSsdLinkUp (n : Fin 4) (acceptable : Bool) (exlat : List Nat) (s : State) : Res :=
  .next (if s.rd Od.dspBifurcation = 0 ∧ n.val ≠ 0 then s
    else if !acceptable then (s.wr (Od.ssdStatus n) 2).raise 0x9A07 n
    else
      let s1 := { s with storage := { s.storage with ssdStates := tblSet [] s.storage.ssdStates n exlat } }
      let s2 := s1.wr (Od.ssdStatus n) 1
      if s2.ssdHeld n then s2.raise 0x9A05 n else s2)

/-- The PF2 power state an SSD runs in: the lowest among the controllers its namespaces are attached to; PS2 for none. -/
def State.ssdPs (s : State) (n : Nat) : Nat :=
  let mine := s.storage.namespaces.filter (fun e => nsPresent e.2 && nsBacking e.2 == 1 && nsRef e.2 == n)
  (mine.map (fun e =>
    if nsAttach e.2 = 0xFFFF then (((List.range 4).filter (fun l => (s.ctrl l).ready)).map (fun l => (s.ctrl l).ps)).foldl min 2
    else s.rd Od.slicePowerState)).foldl min 2

/-- SSDs follow their power states. -/
def State.ssdPower (s : State) : State :=
  forEach (List.range 4) (fun n s =>
    if s.rd (Od.ssdStatus n) = 1 then
      let own := if s.ssdHeld n then 0 else [0, s.rd Od.dspPs1State, s.rd Od.dspPs2State].getD (s.ssdPs n) 0
      if tblGet 0 s.storage.ssdPower n = own then s
      else ({ s with storage := { s.storage with ssdPower := tblSet 0 s.storage.ssdPower n own } }).emit
        (.backing n "power" [own])
    else s) s

/-! ### Namespaces (R447 to R450, R452) -/

/-- Checks of a NamespaceRecord (R447 to R449). -/
def State.namespaceCode (s : State) (n : Nat) (bs : List Byte) : Nat :=
  let x : Namespace := { Namespace.none_ with record := bs }
  let old := s.nspace n
  let bytes := nsBlocks x * 2 ^ nsShift x
  let tile := leAt bs 3 1
  let same (o k : Nat) : Bool := slice bs o k == slice old.record o k
  let slot := nsKey x
  let limit := namespaceLimit (s.rd Od.modeInForce)
  if limit = 0 ∧ nsPresent x = true then 0x07
  else if nsPresent x && tile != 0xFF && decide (serviceTiles s.mode ≤ tile ∧ tile < 4) then 0x07
  else if bs.length ≠ 48 ∨ 1 < leAt bs 0 1 ∨ (nsPresent x = true ∧ limit < n) then 0x04
  else if !nsPresent x then 0
  else if nsBacking x = 0 ∨ 3 < nsBacking x ∨ (nsShift x ≠ 9 ∧ nsShift x ≠ 12) ∨ (3 < tile ∧ tile ≠ 0xFF)
      ∨ (4095 < nsAttach x ∧ nsAttach x ≠ 0xFFFF) ∨ bytes < 2 ^ 18
      ∨ (nsBacking x = 1 ∧ 3 < nsRef x) ∨ (nsBacking x = 2 ∧ 63 < nsRef x) then 0x04
  else if nsPresent old && !(same 1 3 && same 6 12 && same 24 16) then 0x0A
  else if !nsPresent old && nsBacking x != 3 && decide (8 * nsExtent x * 4096 < 9 * bytes + 8 * 2 ^ 26) then 0x0A
  else if old.deleting then 0x0A
  else if nsBacking x ≠ 3 ∧ s.storage.namespaces.any (fun e => e.1 != n && (nsPresent e.2 || e.2.deleting) && nsBacking e.2 == nsBacking x
      && nsRef e.2 == nsRef x && decide (nsStart x < nsStart e.2 + nsExtent e.2)
      && decide (nsStart e.2 < nsStart x + nsExtent x)) then 0x0A
  else if nsAttach x ≠ 0xFFFF ∧ (bitOf (s.sliceSet (nsAttach x)).functions 2 = false ∨
      (s.sliceSet (nsAttach x)).namespaces < s.namespacesOwned (nsAttach x)
        + boolNat (!(nsPresent old && nsAttach old == nsAttach x))) then 0x0A
  else if slot ≠ 0xFFFF ∧ ((s.keySlot slot).algorithm ≠ 3 ∨
      !(s.slotOwner slot == 1 || (s.slotOwner slot == 2 && (s.keySlot slot).slice == nsAttach x))) then 0x0A
  else if nsBacking x = 3 ∧ !nsPresent old ∧ s.poolFree 0x40 < ceilDiv bytes 4096 + s.rd Od.stagingReserve then 0x0A
  else 0

/-- The available service tile that holds the fewest namespaces, the lowest on a tie (R448). -/
def State.fewestTile (s : State) : Nat :=
  let held (t : Nat) : Nat := (s.storage.namespaces.filter (fun e => nsPresent e.2 && e.2.tile == t)).length
  (List.range (serviceTiles s.mode)).foldl (fun best t => if held t < held best then t else best) 0

/-- A NamespaceRecord takes effect at its boundary (R448 to R450, R452): create, change of Attach, or delete. -/
def State.applyNamespace (s : State) (n : Nat) (bs : List Byte) : State :=
  let old := s.nspace n
  let x : Namespace := { Namespace.none_ with record := bs }
  if nsPresent x then
    if nsPresent old then
      let s1 := s.setNspace n { old with record := bs }
      if nsAttach x = nsAttach old then s1 else s1.nvEventAll 2 0 4
    else
      let t := if leAt bs 3 1 = 0xFF then s.fewestTile else leAt bs 3 1
      let s1 := (s.setNspace n { x with tile := t }).wr (Od.namespaceStatus n) 1
      (if nsBacking x = 3 then s1.poolTake 0x40 (ceilDiv (nsBlocks x * 2 ^ nsShift x) 4096) else s1).nvEventAll 2 0 4
  else if nsPresent old then
    ((((s.setNspace n { old with record := overlay old.record 0 [0], deleting := true }).wr (Od.namespaceStatus n) 0)).nsPurge
      n).nvEventAll 2 0 4
  else s

/-- NAMESPACE_READY (R450): a new namespace's mapping has loaded. -/
def execNamespaceReady (n : Nat) (s : State) : Res :=
  .next (if nsPresent (s.nspace n) && s.rd (Od.namespaceStatus n) == 1 then
    (s.wr (Od.namespaceStatus n) 2).raise 0x9A06 n else s)

end Sys2Proof.Machine
end

