-- ==== Sys2Proof/Machine/Roce.lean ====
section
/-! DEFINITION. Machine/Roce.lean: what the transmitter does to a RoCEv2 packet (chapter "Remote memory access", R481,
R494, R497): its SendStamp, its ICRC, and the stamp kept for round-trip samples. The invariant CRC's fields are those of
the InfiniBand architecture's RoCEv2 annex (PRESUMED). -/

namespace Sys2Proof.Machine

/-- Bytes of an IP header and of what follows it, with the fields a router may change as ones.
[PRESUMED: log entry 75] -/
def icrcCover (ip rest : List Byte) : List Byte :=
  let ones (bs : List Byte) (l : List Nat) : List Byte := l.foldl (fun b i => overlay b i [0xFF]) bs
  let head :=
    if beAt ip 0 1 / 16 = 6 then ones (overlay ip 0 [ip.getD 0 0 ||| 0x0F]) [1, 2, 3, 7] else ones ip [1, 8, 10, 11]
  List.replicate 8 0xFF ++ head ++ ones rest [6, 7, 12]

/-- The ICRC of a packet: IP header, and UDP header with what follows up to the ICRC. -/
def icrc (ip rest : List Byte) : List Byte := leBytes 4 (crc32 (icrcCover ip rest))

/-- A queue pair. -/
def State.rqp? (s : State) (n : Nat) : Option RdmaQp := (s.rdma.qps.find? (fun e => e.1 == n)).map Prod.snd

/-- Set a queue pair. -/
def State.setRqp (s : State) (n : Nat) (x : RdmaQp) : State :=
  { s with rdma := { s.rdma with qps := tblPut s.rdma.qps n x } }

/-- A queue pair with nothing to pace. -/
def Pacing.fresh : Pacing := { used := 0, waiting := [] }

/-- The pacing of a queue pair. -/
def State.pacing (s : State) (n : Nat) : Pacing := tblGet Pacing.fresh s.rdma.pacing n

/-- Set the pacing of a queue pair. -/
def State.setPacing (s : State) (n : Nat) (x : Pacing) : State :=
  { s with rdma := { s.rdma with pacing := tblSet Pacing.fresh s.rdma.pacing n x } }

/-- Requests that its rate holds back are no longer to be sent: they are given up or sent anew.
[DESIGN CHOICE: log entry 163] -/
def State.dropRequests (s : State) (n : Nat) : State :=
  let x := s.pacing n
  s.setPacing n { x with waiting := x.waiting.filter (fun f => match f.roce with
    | some r => r.request.isNone
    | none => true) }

/-- The CcMode of a queue pair is one-way. -/
def RdmaQp.oneWay (q : RdmaQp) : Bool := leAt q.record 3 1 == 1

/-- The transmitter sends a frame: a packet of a one-way queue pair takes its SendStamp and a new ICRC, and the stamp of
a request is kept. -/
def State.roceSent (s : State) (f : Frame) (stamp : Nat) (bs : List Byte) : State × List Byte :=
  match f.roce with
  | none => (s, bs)
  | some r =>
    match s.rqp? r.qpn with
    | none => (s, bs)
    | some q =>
      let s1 := match r.request with
        | some psn => s.setRqp r.qpn { q with stamps := (q.stamps.filter (fun e => e.1 != psn)) ++ [(psn, stamp)] }
        | none => s
      if q.oneWay ∧ r.bth + r.len + 4 ≤ bs.length then
        let word := boolNat (s.rdB Od.traceable) * 2 ^ 31 + q.echo.getD 0x7FFFFFFF
        let b := overlay bs (r.bth + 12) (beBytes 4 (ts32 stamp) ++ beBytes 4 word)
        let at_ := r.bth - 8
        (s1, overlay b (r.bth + r.len) (icrc (slice b (at_ - r.ip) r.ip) (slice b at_ (8 + r.len))))
      else (s1, bs)

end Sys2Proof.Machine
end

