-- ==== Sys2Proof/Machine/Schedule.lean ====
section
/-! DEFINITION. Machine/Schedule.lean: gate control lists, selection, shapers, the egress pipeline, transmission, queue
sampling (chapter "Scheduling, shaping, time gates and policing", R315 to R333; R177 to R180, R199 to R206, R212, R265,
R354, R359, R362, R402). -/

namespace Sys2Proof.Machine

/-! ### Gate control lists (R325, R326, R328) -/

/-- The list a GateControlList DOMAIN spells; `none` when its layout is wrong (R325). [DEDUCED: log entry 28] -/
def gateListOf (bs : List Byte) : Option GateList :=
  let base := beAt bs 0 12
  let n := beAt bs 12 2
  let es := (List.range n).map (fun k => let v := leAt bs (16 + 8 * k) 8; (v / 2 ^ 56, v % 2 ^ 30))
  let cycle := (es.map Prod.snd).sum
  if ts96Valid base && base % 65536 == 0 && 1 ≤ n && n ≤ 1024 && bs.length == 16 + 8 * n && beAt bs 14 2 == 0
      && es.all (fun e => 1 ≤ e.2 && e.2 ≤ 1000000000) && 250 ≤ cycle && cycle ≤ 1000000000 then
    some { base := ts96Ticks base, entries := es }
  else none

/-- The cycle time in ns. -/
def GateList.cycle (g : GateList) : Nat := (g.entries.map Prod.snd).sum

/-- The entry in force at a place in the cycle: its number, gate states and the ticks it still runs. -/
def gateEntryAt : List (Nat × Nat) → Nat → Nat → Nat × Nat × Nat
  | [], n, _ => (n, 255, 0)
  | (states, ns) :: rest, n, o => if o < ns * nsTicks then (n, states, ns * nsTicks - o)
                                  else gateEntryAt rest (n + 1) (o - ns * nsTicks)

/-- The entry of a list in force at an instant. -/
def GateList.at_ (g : GateList) (t : Nat) : Nat × Nat × Nat :=
  let c := g.cycle * nsTicks
  gateEntryAt g.entries 0 (((t : Int) - (g.base : Int)) % (c : Int)).toNat

/-- The first instant at or after `b` that starts a cycle, `BaseTime + n × cycle` with n at least 0 (R328). -/
def GateList.changeFrom (g : GateList) (b : Nat) : Nat :=
  let c := g.cycle * nsTicks
  g.base + ceilDiv (b - g.base) (max 1 c) * c

/-- Some entry closes class 7 (R327). -/
def GateList.closes7 (g : GateList) : Bool := g.entries.any (fun e => !bitOf e.1 7)

/-- Starts of entries, in ns from the base, whose states differ from the entry before, the last before the first
(R326). -/
def gateEvents : Nat → Nat → List (Nat × Nat) → List Nat
  | _, _, [] => []
  | o, prev, (states, ns) :: rest => (if states ≠ prev then [o] else []) ++ gateEvents (o + ns) states rest

/-- The demand of a list in the gate-control budget at a course length (R326). -/
def GateList.demand (g : GateList) (len : Nat) : Nat :=
  if g.cycle % len ≠ 0 ∨ g.base / nsTicks % len ≠ 0 then 0xFFFFFF
  else
    let ev := gateEvents 0 ((g.entries.getLast?.map Prod.fst).getD 255) g.entries
    (ev.map (fun o => (ev.filter (fun x => x / len == o / len)).length)).foldl max 0

/-- Gate states of a port at an instant, with the entry's number and the ticks they are known to stand: all open with
GateEnable 0, with no list, and in mode 6 (R325, R339). -/
def State.gatesAt (s : State) (p t : Nat) : Nat × Nat × Option Nat :=
  let e := s.egress p
  if !s.rdB (Od.gateEnable p) || s.mode == 6 then (0, 255, none)
  else
    let (l, change) := match e.gatePending with
      | some g => if e.gateChange ≤ t then (some g, none) else (e.gate, some e.gateChange)
      | none => (e.gate, none)
    match l with
    | none => (0, 255, change.map (fun c => c - t))
    | some g =>
      let (n, states, left) := g.at_ t
      (n, states, some (match change with | some c => min left (c - t) | none => left))

/-- The gate of a class is open from an instant on for a span of ticks. -/
def State.gateOpenFor (s : State) (p c : Nat) : Nat → Nat → Nat → Bool
  | 0, _, _ => true
  | fuel + 1, t, span =>
    let (_, states, left) := s.gatesAt p t
    if !bitOf states c then false
    else match left with
      | none => true
      | some k => if span ≤ k then true else if k = 0 then true else s.gateOpenFor p c fuel (t + k) (span - k)

/-- The gate of a class is open at an instant. -/
def State.gateOpen (s : State) (p c t : Nat) : Bool := bitOf (s.gatesAt p t).2.1 c

/-- The gate stays open for the whole of a transmission; every entry lasts 1 ns at least. -/
def State.gateStays (s : State) (p c span : Nat) : Bool := s.gateOpenFor p c (span / nsTicks + 2) s.now span

/-- A committed list becomes the pending list at its boundary (R328). -/
def State.applyGateList (s : State) (p : Nat) (g : GateList) : State :=
  let e := s.egress p
  let s1 := if e.gatePending.isSome then s.raise 0x6A04 p else s
  s1.setEgress p { e with gatePending := some g, gateChange := g.changeFrom s.clock.start }

/-- Step 11: pending lists whose change boundary has come replace the list in force (R328). -/
def State.gateBoundary (s : State) : State :=
  s.switch.egress.foldl (fun s x =>
    let e := s.egress x.1
    match e.gatePending with
    | some g => if e.gateChange ≤ s.clock.start then
        (s.setEgress x.1 { e with gate := some g, gatePending := none, gateChange := 0 }).raise 0x6A02 x.1
      else s
    | none => s) s

/-- GateStatus (R340): entry in force, pending, change boundary. -/
def State.gateStatusRead (s : State) (p : Nat) : List Byte :=
  let e := s.egress p
  beBytes 2 (s.gatesAt p s.now).1 ++ [BitVec.ofNat 8 (boolNat e.gatePending.isSome)] ++ beBytes 12 (ts96 e.gateChange)

/-- The gate states of the ending course's last instant are kept for an event at the boundary (R330). -/
def State.gatesEnd (s : State) : State :=
  forEach ((List.range 256).filter (fun p => s.rd (Od.gateEnable p) != 0 || (s.egress p).gateWas != 255)) (fun p s =>
    s.setEgress p { s.egress p with gateWas := (s.gatesAt p (s.clock.finish - 1)).2.1 }) s

/-- The gate of a class was open just before this instant: at a course's start, as the ending course had it. -/
def State.gateWasOpen (s : State) (p c : Nat) : Bool :=
  if s.now = s.clock.start then bitOf (s.egress p).gateWas c else s.gateOpen p c (s.now - 1)

/-- GATE_EVENT (R326, R330): in hold behaviour a frame still in transmission as its gate closes is counted. -/
def execGateEvent (p : PortId) (off : Nat) (s : State) : Res :=
  let s := s.moveTo off
  .next (match (s.egress p).sending with
    | some x =>
      if s.rd (Od.closingMode p) = 1 ∧ x.ends.isSome ∧ s.gateWasOpen p x.frame.cls = true
          ∧ s.gateOpen p x.frame.cls s.now = false
      then (s.bump (Od.gateOverruns p)).raiseLimited 0x6A01 p 1 p else s
    | none => s)

/-! ### The form a frame is sent in (R222, R223, R250, R316) -/

/-- The outer tag a frame leaves with: removed on an untagged port of its VLAN, rewritten, or inserted. A frame with no
VID of its own keeps its bytes. -/
def State.retag (s : State) (p : Nat) (f : Frame) : List Byte :=
  if f.vid = 0 ∨ f.mirror = true then f.bytes
  else
    let untagged := bitOf (s.vlan f.vid).untagged p
    let tci := beBytes 2 (f.pcp * 8192 + boolNat f.dei * 4096 + f.vid)
    if f.tagged then
      if untagged then f.bytes.take 12 ++ f.bytes.drop 16 else overlay f.bytes 14 tci
    else if untagged then f.bytes
    else f.bytes.take 12 ++ beBytes 2 0x8100 ++ tci ++ f.bytes.drop 12

/-- The bytes a frame leaves the egress pipeline with, before its program and inline encryption. -/
def State.outForm (s : State) (p : Nat) (f : Frame) : List Byte := s.redTag p f.red (s.retag p f)

/-- The port encrypts this frame inline. -/
def State.encrypts (s : State) (p : Nat) (f : Frame) : Bool :=
  s.canProtect p f.cls && !uncontrolled (frameDa f.bytes) (beAt f.bytes 12 2) (s.rd Od.wallEthertype)

/-- Length from destination address to FCS, after inline cipher expansion (R319). -/
def State.sentLength (s : State) (p : Nat) (f : Frame) : Nat :=
  (s.outForm p f).length + 4 + (if s.encrypts p f then s.macsecGrowth p else 0)

/-- Ticks a number of bytes takes on a port. -/
def State.wireTicks (s : State) (p n : Nat) : Nat := ceilDiv (n * 8 * nsTicks) (s.rate p)

/-- The last byte of a cut-through frame has not arrived. -/
def State.lengthUnknown (s : State) (f : Frame) : Bool := f.cut && f.src < 256 && decide (s.now < f.lastAt)

/-- Enough of a frame has arrived for it to start (R178, R179): all of it, or in cut-through the parse depth, with the rest
coming no later than the port can send it. [DESIGN CHOICE: log entry 158] -/
def State.arrived (s : State) (p : Nat) (f : Frame) : Bool :=
  if f.cut && f.src < 256 then
    f.lastAt ≤ s.now + s.wireTicks p f.len && f.lastAt ≤ s.now + s.wireTicks f.src (f.len - min (min 256 (Config.parseDepth f.id f.stamp)) f.len)
  else f.lastAt ≤ s.now

/-- Transmission time of a frame in ticks (R316). -/
def State.sendTicks (s : State) (p : Nat) (f : Frame) : Nat :=
  let n := if s.lengthUnknown f then s.rd (Od.maxFrameSize f.src) + (if s.rdB (Od.macsecEnable p) then 32 else 0)
    else s.sentLength p f
  s.wireTicks p (n + 20)

/-- Charged length of a frame (R319, R324). -/
def State.charged (s : State) (p : Nat) (f : Frame) : Int := (s.sentLength p f : Int) + s.rdI 8 (Od.lengthOverhead p)

/-- The transmit stamp of a frame whose selection is now: its timestamp point lies 8 bytes after its start.
[DESIGN CHOICE: log entry 55] -/
def State.sendPoint (s : State) (p : Nat) : Nat := s.txStamp p (s.now + s.wireTicks p 8)

/-! ### What is at the head of a queue (R213, R317) -/

/-- The input index of a frame in mode 6; frames of hosts and cores come after the ports. -/
def State.inputIndex (s : State) (f : Frame) : Nat :=
  if f.src < 256 then s.forerunnerIndex f.src else 128 + f.src

/-- The head of a class queue: the oldest frame, or in mode 6 the oldest of the crosspoint whose turn it is. -/
def State.headOf (s : State) (p c : Nat) : Option Frame :=
  let q := s.queue p c
  if s.mode = 6 then
    let turn (f : Frame) : Nat := (s.inputIndex f + 2048 - q.roundRobin) % 2048
    q.frames.foldl (fun a f => match a with | none => some f | some g => if turn f < turn g then some f else some g) none
  else q.frames.head?

/-- Every condition of R317 but the gate's closing time, and those of R178 and R179.
[DESIGN CHOICE: log entry 55] -/
def State.mayStart7 (s : State) (p c : Nat) (f : Frame) : Bool :=
  s.arrived p f && !s.paused p c && s.gateOpen p c s.now
    && !(c < 7 && s.rdB (Od.shaperEnable p c) && s.mode != 6 && (s.queue p c).credit < 0)
    && (match (s.egress p).launch.head? with
        | none => true
        | some h => (c == 7 && h.cls != 7) || decide (s.sendPoint p + s.sendTicks p f ≤ h.launch.getD 0))

/-- The gate leaves the frame time enough: guard band, or hold (R330). -/
def State.gateAdmits (s : State) (p c : Nat) (f : Frame) : Bool :=
  s.rd (Od.closingMode p) == 1 || s.gateStays p c (s.sendTicks p f)

/-- The class is eligible (R317). -/
def State.eligible (s : State) (p c : Nat) : Bool :=
  match s.headOf p c with
  | none => false
  | some f => s.mayStart7 p c f && s.gateAdmits p c f

/-- A head that only the guard band holds back is counted once (R330). [DESIGN CHOICE: log entry 57] -/
def State.countDeferral (s : State) (p c : Nat) : State :=
  match s.headOf p c with
  | none => s
  | some f =>
    if s.mayStart7 p c f && !s.gateAdmits p c f && (s.queue p c).deferred != some f.id then
      (s.setQueue p c { s.queue p c with deferred := some f.id }).bump (Od.guardBandDeferrals p)
    else s

/-- Take the head of a class queue. -/
def State.takeHead (s : State) (p c : Nat) (f : Frame) : State :=
  let q := s.queue p c
  (s.setQueue p c { q with frames := q.frames.erase f, deferred := none, roundRobin := if s.mode = 6 then
    (s.inputIndex f + 1) % 2048 else q.roundRobin }).queueEmptied p c

/-- The credit of a shaped class falls by the charged length as its frame starts (R322).
[DESIGN CHOICE: log entry 56] -/
def State.chargeShaper (s : State) (p c : Nat) (f : Frame) : State :=
  if c < 7 ∧ s.rdB (Od.shaperEnable p c) = true ∧ s.mode ≠ 6 then
    let q := s.queue p c
    s.setQueue p c { q with credit := q.credit - s.charged p f * 65536 }
  else s

/-! ### Deficit round robin (R318, R319) -/

/-- Level of a class. -/
def State.level (s : State) (p c : Nat) : Nat := s.rd (Od.level p c)

/-- Eligible classes of a level, in round order. -/
def State.eligibleAt (s : State) (p v : Nat) : List Nat :=
  (s.egress p).round.filter (fun c => s.level p c == v && s.eligible p c)

/-- The loop of R319 over a level: the class that sends, its deficit charged. -/
def State.drr (s : State) (p v : Nat) : Nat → State × Option Nat
  | 0 => (s, none)
  | n + 1 =>
    match s.eligibleAt p v with
    | [] => (s, none)
    | c :: _ =>
      match s.headOf p c with
      | none => (s, none)
      | some f =>
        let q := s.queue p c
        let len := (s.charged p f).toNat
        if len ≤ q.deficit then (s.setQueue p c { q with deficit := q.deficit - len }, some c)
        else
          let s1 := s.setQueue p c { q with deficit := q.deficit + s.rd (Od.quantum p c) }
          let e := s1.egress p
          (s1.setEgress p { e with round := e.round.filter (· != c) ++ [c] }).drr p v n

/-- Turns the loop takes at most: every class of a level earns at least 256 bytes a turn. -/
def drrFuel : Nat := 1024

/-! ### The egress pipeline (R212, R265, R354, R359, R362) -/

/-- The frame a port has selected and not yet begun to send, with the bytes its bricks were charged for (R182); none once a
flush has taken it. -/
def State.selected (s : State) (p : Nat) (f : Frame) : Option Frame :=
  match (s.egress p).sending with
  | some x => if x.frame.id = f.id ∧ x.ends = none then some { f with bytes := x.frame.bytes } else none
  | none => none

/-- The frame selected is given up: its copy ends, a mirror copy's as a mirror drop (R197), and the transmitter stays free.
[DESIGN CHOICE: log entry 56] -/
def State.discardSelected (s : State) (p : Nat) (f : Frame) : State :=
  match s.selected p f with
  | some g => ((s.setEgress p { s.egress p with sending := none }).uncharge p g).dropAt p g
  | none => s

/-- The residence time added at the offsets TSW named (R294). -/
def stampFields (offs : List Nat) (residence : Int) (bs : List Byte) : List Byte :=
  offs.foldl (fun bs o =>
    if o + 8 ≤ bs.length then overlay bs o (beBytes 8 (ofSigned 64 (toSigned 64 (beAt bs o 8) + residence))) else bs) bs

/-- The frame goes to the transmitter (R180, R196, R246, R248, R316, R354, R359, R362): protected where its port protects it, with its
FCS, inverted for a frame that turned out bad; egress mirror copies are taken of what is sent.
[DESIGN CHOICE: log entry 55] -/
def State.startTransmit (s : State) (p : Nat) (f : Frame) (bs : List Byte) (mask : Nat) : State :=
  let stamp := s.sendPoint p
  let (s, form) := s.roceSent f stamp (stampFields f.tsw ((stamp : Int) - (f.stamp : Int)) bs)
  let form := if f.mirror then form else s.wallForm stamp form
  let open_ := uncontrolled (frameDa form) (beAt form 12 2) (s.rd Od.wallEthertype)
  if !f.mirror && s.syncHeld p form then (s.bump Od.syncDiscarded).discardSelected p f
  else if f.protected_ && s.rd (Od.maxFrameSize p) < form.length + 4 then
    (s.bump (Od.cipherOversize p)).discardSelected p f
  else
    let (s1, out) :=
      if open_ then (s, some form)
      else if s.canProtect p f.cls then let (t, o) := (s.inlineRequest p f.cls (form.length + 4)).protect p f.cls form; (t, some o)
      else if s.mode = 4 then
        if s.sealedExempt f.cls then (s, some form) else (s.sealedDrop p, none)
      else if s.rdB (Od.macsecEnable p) then (s.bump (Od.macsecTxNoSa p), none)
      else (s, some form)
    match out with
    | none => s1.discardSelected p f
    | some o =>
      let s1 := s1.mirrorAll { f with bytes := o } true p stamp mask
      let fcs := crc32 o
      let bits := if f.bad then 2 ^ 32 - 1 - fcs else fcs
      let x : Sending := { frame := f, out := o, stamp := stamp, ends := some (s1.now + s1.wireTicks p (o.length + 24)) }
      (s1.setEgress p { s1.egress p with sending := some x }).emit (.frame p (o ++ leBytes 4 bits) stamp)

/-- Local queues that forwarding names for a host function's frame in the egress pipeline (R212), and whether it is
also for the wire: by the rule's ForwardKind, or by the filtering database. [DESIGN CHOICE: log entry 58] -/
def State.loopback (s : State) (p : Nat) (f : Frame) (a : Action) (k : Parsed) : State × List Dst × Bool :=
  let v := s.vlan (s.vidOf p k)
  let (s1, dsts) := if a.forwardKind = 0 then s.fdbForward p 256 v (frameDa f.bytes) (f.cls == 7)
    else s.namedForward p 256 v.members a.forwardKind a.forwardDest
  let here := dsts.filter (fun d => match d with | .port _ => false | _ => true)
  (s1, here, here.isEmpty || dsts.any (fun d => match d with | .port _ => true | _ => false))

/-- Frames of a host function for local queues go there as if received on the port (R212).
[DESIGN CHOICE: log entry 58] -/
def State.loopCopies (s : State) (p : Nat) (f : Frame) (bs : List Byte) (dsts : List Dst) : State :=
  if dsts.isEmpty then s
  else
    let (s1, id) := s.newFrame
    let g := { f with id := id, src := p, bytes := bs, stamp := s.now, course := s.course, completion := none,
                      launch := none, tsw := [], lastAt := s.now }
    (dsts.foldl (fun s d => s.send g d) s1).bump (Od.hostLoopbackFrames p)

/-- What an egress action does to a frame before its program (R275): remarking, policer. -/
def remarked (a : Action) (bs : List Byte) (k : Parsed) : List Byte :=
  let b1 := if a.setDscp then remarkDscp bs k a.dscp else bs
  if a.setPcp && k.tagCount != 0 then overlay b1 14 (beBytes 2 (a.pcp * 8192 + beAt b1 14 2 % 8192)) else b1

/-- The program of an egress action, under its rule's limit: none to run, or the frame ends. -/
def State.egressProgram (s : State) (p : Nat) (a : Action) (rule : Option Nat) (f : Frame) :
    State × Option (Option Program) :=
  let q := pipeNo (p / 8) 1
  if !a.trowelEnable then (s, some none)
  else
    let k := q * 2 ^ 32 + rule.getD 0xFFFFFFFF
    let n := tblGet 0 s.classify.passed k
    if n < s.ruleAllowance q a.frameLimit then
      ({ s with classify.passed := tblPut s.classify.passed k (n + 1) }, some (s.program q a.trowelEntry))
    else
      let s1 := s.countOverflow (p / 8) (rule.getD 0xFFFFFFFF)
      match a.overflowAction with
      | 0 => (s1, some none)
      | 1 => (s1, none)
      | _ => (s1.exception (p / 8) 5 p true f, none)

/-- A frame leaves the egress pipeline (R275 step 9, R295): the copy of Disposition 3, the copies FWD has sent elsewhere, and
the frame on its port, where it is still for it. One that a flush has taken is gone. -/
def State.leaveEgress (s : State) (j : Job) : State :=
  match s.selected j.port j.frame with
  | none => s
  | some f =>
    let s1 := if j.copy then s.exception (j.port / 8) 2 j.port true j.frame else s
    let here : Dst := .port (Fin.ofNat 256 j.port)
    let others := j.dsts.filter (· != here)
    let s2 := if others.isEmpty then s1
      else
        let (u, id) := s1.newFrame
        u.sendAll { j.frame with id := id, completion := none, launch := none } others
    if j.dsts.contains here then s2.startTransmit j.port f j.frame.bytes j.mask
    else (s2.discardSelected j.port { f with completion := none }).txComplete f j.port 0 (some (s2.sendPoint j.port))

/-- Frames of an egress pipeline whose turn has come leave it (R300). -/
def State.drainEgress (s : State) (q : Nat) : State :=
  let (out, keep) := leavable [] (s.pipe q).leaving
  out.foldl (fun s j => s.leaveEgress j) (s.setPipe q { s.pipe q with leaving := keep })

/-- The egress pipeline's action on a selected frame (R265, R275). -/
def State.egressAction (s : State) (p : Nat) (a : Action) (rule : Option Nat) (f : Frame) (bs : List Byte)
    (k : Parsed) : State :=
  let g := { f with cls := if a.setClass then a.cls else f.cls }
  let b1 := remarked a bs k
  let (s1, locals, wire) := if 256 ≤ f.src ∧ f.src < 512 then s.loopback p { f with bytes := bs } a k else (s, [], true)
  let (s2, passed) := if a.policerEnable then
      s1.police (2048 * (p / 8) + a.policerIndex % 2048) (b1.length + 4) f.lastAt (!s1.lengthUnknown f) g.dei g.cls
    else (s1, some (g.dei, g.cls))
  match passed with
  | none => s2.discardSelected p f
  | some (dei, cls) =>
    let b2 := if dei && !g.dei && k.tagCount != 0 then overlay b1 14 (beBytes 2 (beAt b1 14 2 ||| 4096)) else b1
    let h := { g with dei := dei, cls := cls }
    let s4 := s2.loopCopies p h b2 locals
    if !wire then
      (if a.disposition = 3 then s4.exception (p / 8) 2 p true { h with bytes := b2 } else s4).discardSelected p
        { f with completion := none } |>.txComplete f p 0 (some (s4.sendPoint p))
    else
      match s4.egressProgram p a rule { h with bytes := b2 } with
      | (s5, none) => s5.discardSelected p f
      | (s5, some prog) =>
        let q := pipeNo (p / 8) 1
        let j : Job := { frame := { h with bytes := b2 }, egress := true, port := p, order := f.cls, mask := a.mirrorMask,
                         rdma := false, program := prog, dsts := [.port (Fin.ofNat 256 p)], members := (s5.vlan h.vid).members,
                         copy := a.disposition == 3, clear := false, appId := k.appId, packetType := k.packetType,
                         udf := s5.udfOf (p / 8) b2 k, dict := s5.dict, doms := s5.doms, done := prog.isNone }
        ((s5.setEgress p { s5.egress p with sending := some { frame := h, out := b2, stamp := 0, ends := none } }).queueJob q
          j).drainEgress q

/-- A frame the scheduler has chosen passes the egress pipeline (R260, R261, R265, R267). -/
def State.egressStart (s : State) (p : Nat) (f : Frame) : State :=
  let bs := s.outForm p f
  let k := parseFrame bs (s.rd Od.wallEthertype)
  let key := s.keyOf p (if f.vid = 0 then s.vidOf p k else f.vid) bs k f.macsec false
  let s0 := s.setEgress p { s.egress p with sending := some { frame := f, out := bs, stamp := 0, ends := none } }
  if f.mirror then s0.startTransmit p f bs 0
  else
    let (s1, v) := (s0.countParse p k).classify_ (p / 8) p 1 k.packetType key (bs.length + 4) (f.arrival.getD f.cls == 7) true
    if k.roceFragment then (s1.bump (Od.roceFragmentDrops p)).discardSelected p f
    else match v with
    | .drop => s1.discardSelected p f
    | .trap reason =>
      (s1.exception (p / 8) reason p true { f with bytes := bs, ruleId := 0xFFFFFFFF }).discardSelected p f
    | .act a rule =>
      let g := { f with ruleId := rule.getD 0xFFFFFFFF, metaValue := a.metaValue }
      match a.disposition with
      | 1 => s1.discardSelected p f
      | 2 => (s1.exception (p / 8) 1 p true { g with bytes := bs }).discardSelected p f
      | _ => s1.egressAction p a rule g bs k

/-! ### Selection (R200, R202, R206, R315, R318) -/

/-- A stream frame that cannot be sent at its launch time (R206). [DESIGN CHOICE: log entry 56] -/
def State.streamLate (s : State) (f : Frame) : State :=
  match f.stream with
  | some n =>
    let old := slice (s.dom Od.streamLateFrames) (8 * n) 8
    (s.setDom Od.streamLateFrames (overlay (s.dom Od.streamLateFrames) (8 * n) (beBytes 8 ((beNat old + 1) % 2 ^ 64)))).raiseLimited
      0x4A04 n 1 n
  | none => s

/-- A launch-time frame that is not sent: it leaves the list and is dropped. [DESIGN CHOICE: log entry 56] -/
def State.launchDrop (s : State) (p : Nat) (f : Frame) : State :=
  let e := s.egress p
  ((s.setEgress p { e with launch := e.launch.erase f }).streamLate f).uncharge p f |>.dropCopy f

/-- The launch list at a selection (R200, R202, R203): heads that are too late or whose gate closes are dropped; one
that is due is sent. True when a frame was sent. [DESIGN CHOICE: log entry 57] -/
def State.launchSelect (s : State) (p : Nat) : Nat → State × Bool
  | 0 => (s, false)
  | n + 1 =>
    match (s.egress p).launch with
    | [] => (s, false)
    | f :: rest =>
      let l := f.launch.getD 0
      let t := s.sendPoint p
      let tol := if f.stream.isSome then 0 else s.rd (Od.launchTolerance p) * nsTicks
      if t < l ∨ s.paused p f.cls = true then (s, false)
      else if l + tol < t then ((s.bump (Od.launchLate p)).launchDrop p f).launchSelect p n
      else if !s.arrived p f then (s, false)
      else if !s.gateStays p f.cls (s.sendTicks p f) then
        ((s.bump (Od.launchGateClosed p)).launchDrop p f).launchSelect p n
      else
        let s1 := s.setEgress p { s.egress p with launch := rest }
        (((s1.chargeShaper p f.cls f).showCredit p f.cls).egressStart p f, true)

/-- The class chosen at a level or below (R318 step 3): the classes passed over for the guard band alone are counted. -/
def State.levelSelect (s : State) (p : Nat) : Nat → State × Option Nat
  | 0 => (s, none)
  | v + 1 =>
    let s1 := forEach ((s.egress p).round.filter (fun c => s.level p c == v)) (fun c s => s.countDeferral p c) s
    if (s1.eligibleAt p v).isEmpty then s1.levelSelect p v else s1.drr p v drrFuel

/-- A selection (R315, R318): the transmitter must be free. -/
def State.select_ (s : State) (p : Nat) : State :=
  if (s.egress p).sending.isSome || !s.up p then s
  else
    match s.launchSelect p ((s.egress p).launch.length + 1) with
    | (s1, true) => s1
    | (s1, false) =>
      let s2 := s1.countDeferral p 7
      let (s3, c) := if s2.eligible p 7 then (s2, some 7) else s2.levelSelect p 7
      match c with
      | none => s3
      | some c =>
        match s3.headOf p c with
        | none => s3
        | some f => (((s3.chargeShaper p c f).takeHead p c f).showCredit p c).egressStart p f

/-- SELECTION (R318). -/
def execSelection (p : PortId) (off : Nat) (s : State) : Res := .next ((s.moveTo off).select_ p)

/-- LAUNCH_DUE (R200): the head of the launch list falls due, and the port selects. -/
def execLaunchDue (p : PortId) (off : Nat) (s : State) : Res :=
  let s := s.moveTo off
  .next (match (s.egress p).launch.head? with
    | some f => if f.launch.getD 0 ≤ s.sendPoint p then s.select_ p else s
    | none => s)

/-- TRANSMIT_END (R375, R402): the frame has been sent; it is counted, its bricks are released, and a completion that
waits for the stamp is written. -/
def execTransmitEnd (p : PortId) (off : Nat) (s : State) : Res :=
  let s := s.moveTo off
  .next (match (s.egress p).sending with
    | none => s
    | some x =>
      match x.ends with
      | none => s
      | some t =>
        if s.now < t then s
        else
          let s1 := ((s.setEgress p { s.egress p with sending := none }).bump (Od.txFrames p)).addTo (Od.txOctets p)
            (x.out.length + 4)
          let s2 := if x.frame.bad then s1.bump (Od.txStomped p) else s1
          let s3 := s2.txComplete x.frame p 0 (some x.stamp)
          (s3.uncharge p x.frame).dropCopy { x.frame with completion := none })

/-! ### Boundary work: shapers, sampling (R322, R332) -/

/-- Step 11: the credit of every shaped class (R322). -/
def State.shaperBoundary (s : State) : State :=
  s.switch.queues.foldl (fun s e =>
    let p := e.1 / 8
    let c := e.1 % 8
    let q := s.queue p c
    if c < 7 ∧ s.rdB (Od.shaperEnable p c) = true ∧ (q.frames ≠ [] ∨ q.credit < 0) then
      let slope := s.rd (Od.idleSlope p c)
      let (gain, rem) := rateGain slope s.len q.creditRem
      (s.setQueue p c { q with credit := min (q.credit + gain) (bucketSize (s.rd (Od.creditMax p c)) slope s.len),
                               creditRem := rem }).showCredit p c
    else s) s

/-- A shaper write changes a value: the class's credit becomes 0 (R323). -/
def State.shaperReset (s : State) (p c : Nat) : State :=
  ((s.setQueue p c { s.queue p c with credit := 0, creditRem := 0 }).showCredit p c)

/-- The instant a queue's head, launch-list frames with their class, was admitted. -/
def State.headAdmitted (s : State) (p c : Nat) : Option Nat :=
  let all := (s.queue p c).frames ++ (s.egress p).launch.filter (fun f => f.cls == c)
  match (s.queue p c).frames.head? with
  | some f => some f.admitted
  | none => all.head?.map (fun f => f.admitted)

/-- Step 4: every class queue samples its depth and its head's delay (R332). -/
def State.sampleQueues (s : State) : State :=
  let keys := (s.switch.queues.map Prod.fst ++
    (s.switch.egress.map (fun e => e.2.launch.map (fun f => 8 * e.1 + f.cls))).flatten).dedup
  forEach keys (fun k s =>
    let p := k / 8
    let c := k % 8
    let q := s.queue p c
    let d := s.depth p c
    let w := match s.headAdmitted p c with
      | some t => min (2 ^ 32 - 1) ((s.clock.start - t) / nsTicks)
      | none => 0
    s.setQueue p c { q with depthSample := d, depthMax := max q.depthMax d, delaySample := w,
                            delayMax := max q.delayMax w }) s

/-- QueueSamples (R332, R340): eight 16-byte records. -/
def State.queueSamplesRead (s : State) (p : Nat) : List Byte :=
  ((List.range 8).map (fun c =>
    let q := s.queue p c
    beBytes 16 (q.depthSample % 2 ^ 16 * 2 ^ 112 + q.depthMax % 2 ^ 16 * 2 ^ 96 + q.delaySample * 2 ^ 64
      + q.delayMax * 2 ^ 32))).flatten

/-- The maxima restart from the boundary's samples once they are in the snapshot (R332). -/
def State.restartMaxima (s : State) : State :=
  s.switch.queues.foldl (fun s e =>
    let q := s.queue (e.1 / 8) (e.1 % 8)
    s.setQueue (e.1 / 8) (e.1 % 8) { q with depthMax := q.depthSample, delayMax := q.delaySample }) s

/-- The timer entry that notes the course a port's sample message was last sent in. -/
def tmSample (p : Nat) : Nat := timerKey 67 p

/-- SAMPLE_MESSAGE (R333): every SampleInterval courses the port sends its samples to SampleDest, little-endian; a full
destination costs the message. -/
def execSampleMessage (p : PortId) (s : State) : Res :=
  let dest := s.rd (Od.sampleDest p)
  let sent := s.timers.any (fun e => e.1 == tmSample p && e.2.armed == s.course)
  .next (if dest / 2 ^ 30 = 3 ∨ s.course % max 1 (s.rd (Od.sampleInterval p)) ≠ 0 ∨ sent = true then s
    else
      let msg := [BitVec.ofNat 8 p.val] ++ List.replicate 7 0 ++ leBytes 8 s.course
        ++ ((List.range 8).map (fun c => ((s.queueSamplesRead p).drop (16 * c)).take 16 |>.reverse)).flatten
      match (s.arm (tmSample p)).sendRecord dest msg with
      | (s1, true) => s1
      | (s1, false) => s1.bump (Od.sampleDrops p))

end Sys2Proof.Machine
end

