-- ==== Sys2Proof/Machine/Rdma.lean ====
section
/-! DEFINITION. Machine/Rdma.lean: queue pairs, completion queues, regions, address handles, doorbells, completions and
asynchronous events (chapter "Remote memory access", R476 to R479, R483, R484, R498 to R503). -/

namespace Sys2Proof.Machine

/-! ### Objects (R476, R477) -/

/-- The service tile a queue pair or completion queue number names. -/
def rdmaTile (n : Nat) : Nat := min 3 (n / 262144)

/-- A completion queue. -/
def State.rcq? (s : State) (n : Nat) : Option RdmaCq := (s.rdma.cqs.find? (fun e => e.1 == n)).map Prod.snd

/-- Set a completion queue. -/
def State.setRcq (s : State) (n : Nat) (x : RdmaCq) : State :=
  { s with rdma := { s.rdma with cqs := tblPut s.rdma.cqs n x } }

/-- A region, by key index. -/
def State.region? (s : State) (n : Nat) : Option Region := (s.rdma.regions.find? (fun e => e.1 == n)).map Prod.snd

/-- Set a region. -/
def State.setRegion (s : State) (n : Nat) (x : Region) : State :=
  { s with rdma := { s.rdma with regions := tblPut s.rdma.regions n x } }

/-- An address handle's record. -/
def State.ah? (s : State) (n : Nat) : Option (List Byte) := (s.rdma.ahs.find? (fun e => e.1 == n)).map Prod.snd

/-- Fields of the QP record. -/
def RdmaQp.ud (q : RdmaQp) : Bool := leAt q.record 1 1 == 2
/-- The slice of a queue pair, 0xFFFF for the storage engine's. -/
def RdmaQp.slice (q : RdmaQp) : Nat := leAt q.record 8 2
/-- Its port. -/
def RdmaQp.port (q : RdmaQp) : Nat := leAt q.record 10 1
/-- Its path MTU in bytes. -/
def RdmaQp.pmtu (q : RdmaQp) : Nat := 128 * 2 ^ leAt q.record 11 1
/-- Its send completion queue. -/
def RdmaQp.sendCq (q : RdmaQp) : Nat := leAt q.record 12 4
/-- Its receive completion queue. -/
def RdmaQp.recvCq (q : RdmaQp) : Nat := leAt q.record 16 4

/-- Entries of a send, receive or completion ring. -/
def rdmaRing (log : Nat) : Nat := if log = 0 then 0 else 2 ^ log

/-- Entries of the send queue. -/
def RdmaQp.sqSize (q : RdmaQp) : Nat := rdmaRing (leAt q.record 20 1)
/-- Entries of the receive queue. -/
def RdmaQp.rqSize (q : RdmaQp) : Nat := rdmaRing (leAt q.record 21 1)

/-- PF1 of the link a slice's resource set names. -/
def State.rdmaFn (s : State) (slice : Nat) : Nat := 4 * (s.sliceSet slice).link + 1

/-- A port's rate in 2^-16 Mb/s. -/
def State.portRate (s : State) (p : Nat) : Nat := s.rate p * 1000 * 65536

/-- A queue pair in RESET under a record. -/
def State.freshQp (s : State) (record : List Byte) : RdmaQp :=
  { record := record, state := 0, sqHead := 0, sqTail := 0, rqHead := 0, rqTail := 0, work := [], recv := [],
    nextPsn := 0, acked := 0, expected := 0, msn := 0, stamps := [], nakSent := false, retries := 0, rnrTries := 0, rnrTime := none,
    inbound := none, replay := [], placed := [], responses := [], rate := s.portRate (leAt record 10 1), sample := none,
    window := [], lastValid := s.course, fallback := false, echo := none }

/-- A completion queue as created or emptied. -/
def freshCq (record : List Byte) : RdmaCq :=
  { record := record, tail := 0, head := 0, used := 0, phase := true, count := 0, armed := false, failed := false }

/-- The timers of a queue pair: local ACK timeout and RNR time. -/
def tmAck (n : Nat) : Nat := timerKey 25 n
/-- The time of an RNR NAK. -/
def tmRnr (n : Nat) : Nat := timerKey 26 n

/-! ### Checks of records (R477, R478, R498) -/

/-- SrcIp is an RDMA address of a port. -/
def State.rdmaAddress (s : State) (p ip : Nat) : Bool :=
  ip != 0 && (ip == s.rd (Od.rdmaIpv4 p) || ip == s.rd (Od.rdmaIpv6 p))

/-- The fields a modify in RTS may change, cleared: Op, State, CcMode, MaxRdAtomic, Timeout, RetryCnt, RnrRetry,
MinRnrTimer. -/
def fixedFields (bs : List Byte) : List Byte := [0, 2, 3, 22, 40, 41, 42, 43].foldl (fun b i => overlay b i [0]) bs

/-- A field of a QP record is out of range. -/
def qpOutOfRange (bs : List Byte) : Bool :=
  let f := leAt bs
  f 0 1 == 0 || 3 < f 0 1 || f 1 1 == 0 || 2 < f 1 1 || !([0, 1, 2, 3, 5].contains (f 2 1)) || 1 < f 3 1
    || (f 3 1 == 1 && f 1 1 == 2) || f 4 4 < 2 || 1048575 < f 4 4 || 4095 < f 8 2 || f 11 1 == 0 || 5 < f 11 1
    || 1048575 < f 12 4 || 1048575 < f 16 4 || f 20 1 < 4 || 15 < f 20 1 || (f 21 1 != 0 && (f 21 1 < 4 || 15 < f 21 1))
    || f 22 1 == 0 || 128 < f 22 1 || f 23 1 == 0 || 128 < f 23 1 || 2 ^ 24 ≤ f 24 4 || 2 ^ 24 ≤ f 28 4
    || 2 ^ 24 ≤ f 32 4 || 31 < f 40 1 || 7 < f 41 1 || 7 < f 42 1 || 31 < f 43 1 || 63 < f 44 1 || f 48 8 % 4096 != 0
    || f 56 8 % 4096 != 0 || 4094 < f 102 2

/-- The completion queue exists and belongs to the slice. -/
def State.cqOf (s : State) (n slice : Nat) : Bool :=
  match s.rcq? n with | some c => leAt c.record 2 2 == slice | none => false

/-- Port, address and completion queues of a QP record suit its slice. -/
def State.qpPathOk (s : State) (bs : List Byte) : Bool :=
  let slice := leAt bs 8 2
  portMapBit (s.sliceSet slice).ports (leAt bs 10 1) && s.rdmaAddress (leAt bs 10 1) (beAt bs 64 16)
    && s.cqOf (leAt bs 12 4) slice && s.cqOf (leAt bs 16 4) slice

/-- A transition the state table allows. -/
def qpTransition (a b : Nat) : Bool :=
  b == 0 || b == 5 || (a == 0 && b == 1) || (a == 1 && b == 2) || (a == 2 && b == 3) || (a == 3 && b == 3)

/-- What is wrong with a QP record: 0x07, 0x04, 0x0A or nothing, in that order. [DESIGN CHOICE: log entry 76] -/
def State.qpCode (s : State) (bs : List Byte) : Nat :=
  let n := leAt bs 4 4
  let slice := leAt bs 8 2
  let old := s.rqp? n
  if serviceTiles s.mode * 262144 ≤ n ∧ n ≤ 1048575 then 0x07
  else if qpOutOfRange bs then 0x04
  else if leAt bs 0 1 = 1 then
    let limit := qpLimit (s.rd Od.modeInForce)
    if limit ≤ s.rdma.qps.length then (if limit = 0 then 0x07 else 0x04)
    else if old.isSome || decide ((s.sliceSet slice).rdmaQps ≤ s.qpsOwned slice) || !s.qpPathOk bs then 0x0A else 0
  else
    match old with
    | none => 0x0A
    | some q =>
      let target := leAt bs 2 1
      if q.slice ≠ slice then 0x0A
      else if leAt bs 0 1 = 3 then 0
      else if !qpTransition q.state target then 0x0A
      else if target = 1 ∨ target = 2 then (if s.qpPathOk bs then 0 else 0x0A)
      else if target = 3 then
        if q.state = 2 ∧ bs.drop 3 ≠ q.record.drop 3 then 0x0A
        else if fixedFields bs ≠ fixedFields q.record then 0x0A else 0
      else 0

/-- What is wrong with a CQ record; Op 1 creates and Op 3 destroys, as in the QP record.
[DESIGN CHOICE: log entry 72] -/
def State.cqCode (s : State) (bs : List Byte) : Nat :=
  let n := leAt bs 4 4
  let slice := leAt bs 2 2
  let op := leAt bs 0 1
  if serviceTiles s.mode * 262144 ≤ n ∧ n ≤ 1048575 then 0x07
  else if (op ≠ 1 ∧ op ≠ 3) ∨ 1 < leAt bs 1 1 ∨ 4095 < slice ∨ 1048575 < n ∨ leAt bs 8 1 < 4 ∨ 20 < leAt bs 8 1
      ∨ 63 < leAt bs 9 1 then 0x04
  else if op = 1 then
    if (s.rcq? n).isSome || (leAt bs 1 1 == 1 && s.rdma.cqs.any (fun e =>
        leAt e.2.record 1 1 == 1 && leAt e.2.record 2 2 == slice)) then 0x0A else 0
  else if !s.cqOf n slice || s.rdma.qps.any (fun e => e.2.sendCq == n || e.2.recvCq == n) then 0x0A
  else 0

/-- What is wrong with an address-handle record. [DESIGN CHOICE: log entry 72] -/
def State.ahCode (s : State) (bs : List Byte) : Nat :=
  let op := leAt bs 0 1
  let slice := leAt bs 2 2
  if (op ≠ 1 ∧ op ≠ 3) ∨ 4095 < slice ∨ 4094 < leAt bs 6 2 ∨ 63 < leAt bs 8 1 then 0x04
  else
    match s.ah? (leAt bs 4 2) with
    | some old => if op = 1 ∨ leAt old 2 2 ≠ slice then 0x0A else 0
    | none => if op = 3 ∨ portMapBit (s.sliceSet slice).ports (leAt bs 1 1) = false then 0x0A else 0

/-- What is wrong with a region record. -/
def State.regionCode (s : State) (bs : List Byte) : Nat :=
  let op := leAt bs 0 1
  let access := leAt bs 1 1
  let slice := leAt bs 2 2
  let key := leAt bs 4 4
  let len := leAt bs 16 8
  if op = 0 ∨ 2 < op ∨ 63 < access ∨ 4095 < slice
      ∨ (op = 1 ∧ (len = 0 ∨ 2 ^ 48 < len ∨ (access &&& 0b1100 ≠ 0 ∧ access % 2 = 0))) then 0x04
  else
    match s.region? (key / 1024) with
    | some r => if op = 1 ∨ r.state ≠ 1 ∨ leAt r.record 2 2 ≠ slice ∨ leAt r.record 4 4 ≠ key then 0x0A else 0
    | none => if op = 2 ∨ (s.sliceSet slice).regions ≤ s.regionsOwned slice then 0x0A else 0

/-! ### Key check (R498) -/

/-- A key check: index, slice, tag, bounds and the access bits asked for. -/
def State.keyOk (s : State) (slice key addr len need : Nat) : Bool :=
  match s.region? (key / 1024) with
  | none => false
  | some r =>
    r.state == 1 && leAt r.record 2 2 == slice && leAt r.record 4 4 == key && decide (leAt r.record 8 8 ≤ addr)
      && decide (addr + len ≤ leAt r.record 8 8 + leAt r.record 16 8) && leAt r.record 1 1 &&& need == need

/-- A region's access bit. -/
def State.regionBit (s : State) (key n : Nat) : Bool :=
  match s.region? (key / 1024) with | some r => bitOf (leAt r.record 1 1) n | none => false

/-! ### Completions and asynchronous events (R483, R484, R500) -/

/-- The 32-byte completion record without its Phase. -/
def rdmaRecord (kind status qpn src len : Nat) (imm : Option Nat) (grh : Bool) (wrId time : Nat) : Nat :=
  kind * 2 ^ 250 + boolNat imm.isSome * 2 ^ 249 + boolNat grh * 2 ^ 248 + status * 2 ^ 240 + qpn % 2 ^ 24 * 2 ^ 216
    + src % 2 ^ 24 * 2 ^ 192 + len % 2 ^ 32 * 2 ^ 160 + imm.getD 0 % 2 ^ 32 * 2 ^ 128 + wrId % 2 ^ 64 * 2 ^ 64 + ts64 time

/-- Write a record into a completion queue that has a free slot: the record, then the interrupt when it is armed. -/
def State.rcqPut (s : State) (n : Nat) (c : RdmaCq) (rec : Nat) : State :=
  let slice := leAt c.record 2 2
  let f := s.rdmaFn slice
  let size := rdmaRing (leAt c.record 8 1)
  let s1 := s.hostWriteFrom (0x30 + rdmaTile n) 3 f (some slice) (leAt c.record 16 8 + 32 * c.tail) false false
    (leBytes 32 (boolNat c.phase * 2 ^ 255 + rec % 2 ^ 255))
  let wrap := c.tail + 1 == size
  let s2 := s1.setRcq n { c with tail := if wrap then 0 else c.tail + 1, used := c.used + 1, armed := false,
                                 phase := if wrap then !c.phase else c.phase, count := (c.count + 1) % 2 ^ 32 }
  if c.armed then s2.sliceInterrupt f slice (leAt c.record 9 1) else s2

/-- The slice's asynchronous event queue. -/
def State.eventCq (s : State) (slice : Nat) : Option (Nat × RdmaCq) :=
  s.rdma.cqs.find? (fun e => leAt e.2.record 1 1 == 1 && leAt e.2.record 2 2 == slice)

/-- An asynchronous event for a slice: written to its event queue, or counted at a service tile when it has none or the
queue takes no record. [DESIGN CHOICE: log entries 73, 77] -/
def State.rdmaAsync (s : State) (slice tile event object : Nat) : State :=
  match s.eventCq slice with
  | none => s.bump (Od.asyncEvents tile)
  | some (n, c) =>
    if c.failed || s.rd Od.modeInForce == 7 || decide (rdmaRing (leAt c.record 8 1) ≤ c.used) then s.bump (Od.asyncEvents tile)
    else s.rcqPut n c (rdmaRecord 31 event object 0 0 none false 0 s.now)

/-- Kind of a send completion. -/
def sendKind (op : Nat) : Nat := if op = 0x20 then 9 else if op ≤ 7 then op + 1 else 1

/-- Fields of a send WQE. -/
def wqOp (w : Nat) : Nat := bitField w 511 504
/-- Length. -/
def wqLen (w : Nat) : Nat := bitField w 319 288
/-- LocalAddr. -/
def wqAddr (w : Nat) : Nat := bitField w 383 320
/-- LKey. -/
def wqKey (w : Nat) : Nat := bitField w 287 256
/-- WrId. -/
def wqId (w : Nat) : Nat := bitField w 447 384

/-- The work request holds a tracker entry (R431): started and not done, and no WAIT. -/
def Work.tracked (w : Work) : Bool := (w.stage == 1 || w.stage == 2) && wqOp w.wqe != 0x20

/-- A write into a completion queue by number; a queue that takes none and is not in error yet overruns, which is
answered. -/
def State.rcqWrite (s : State) (n rec : Nat) : State × Bool :=
  match s.rcq? n with
  | none => (s, false)
  | some c =>
    if c.failed || s.rd Od.modeInForce == 7 then (s, false)
    else if c.used < rdmaRing (leAt c.record 8 1) then (s.rcqPut n c rec, false)
    else (s.setRcq n { c with failed := true }, true)

/-- Every outstanding WQE of a queue pair in ERR completes (R478): a status of its own where it has one, else this one.
Its tracker entries, timers and locks go. -/
def State.flushQp (s : State) (n status : Nat) : State :=
  match s.rqp? n with
  | none => s
  | some q =>
    let held := (q.work.filter Work.tracked).length
    let s1 := s.setRqp n { q with work := [], recv := [], responses := [], inbound := none, rnrTime := none, stamps := [] }
    let s2 := if q.slice = 0xFFFF then s1 else (List.range held).foldl (fun s _ => s.opEnd q.slice) s1
    let s3 := ((s2.dropRequests n).disarm (tmAck n)).disarm (tmRnr n)
    let s4 := { s3 with rdma := { s3.rdma with locks := s3.rdma.locks.filter (fun l =>
      !(q.responses.any (fun r => r.issued && (r.kind == 1 || r.kind == 2) && l == (s.rdmaFn q.slice, r.addr)))) } }
    let s5 := q.work.foldl (fun s w =>
      let done := decide (w.stage = 3 ∧ w.status = 0)
      if done && !bitOf w.wqe 503 then s
      else (s.rcqWrite q.sendCq (rdmaRecord (sendKind (wqOp w.wqe)) (if done then 0 else if w.status ≠ 0 then w.status
        else status) n 0 (wqLen w.wqe) none false (wqId w.wqe) s.now)).1) s4
    q.recv.foldl (fun s r => (s.rcqWrite q.recvCq (rdmaRecord 16 status n 0 0 none false (r % 2 ^ 64) s.now)).1) s5

/-- Completion queues in error. -/
def State.cqsFailed (s : State) : List Nat := (s.rdma.cqs.filter (fun e => e.2.failed)).map Prod.fst

/-- What a completion queue's overrun brings its queue pairs (R484): each enters ERR by `err`, then the event.
[DESIGN CHOICE: log entry 73] -/
def State.cqOverrunBy (err : State → Nat → State) (s : State) (n : Nat) : State :=
  let users := (s.rdma.qps.filter (fun e => e.2.sendCq == n || e.2.recvCq == n)).map Prod.fst
  let slice := match s.rcq? n with | some c => leAt c.record 2 2 | none => 0
  let s1 := users.foldl err s
  (s1.rdmaAsync slice (rdmaTile n) 0x02 n).raiseLimited 0xAA03 (rdmaTile n) 1 n

/-- A queue pair enters ERR, by modify or by an error (R478, R500, R505); a completion queue that its flush overruns takes
its own queue pairs along, outstanding WQEs with Status 10. -/
def qpErrFuel : Nat → Bool → Nat → State → Nat → State
  | 0, _, _, s, _ => s
  | k + 1, byModify, status, s, n =>
    match s.rqp? n with
    | none => s
    | some q =>
      if q.state = 5 then s
      else
        let s1 := (s.setRqp n { q with state := 5 }).flushQp n status
        let s2 := s1.abandonReads (fun r => r.kind == .rdma && r.queue == n && decide (4 ≤ r.id))
        let s3 := if byModify then s2
          else (s2.rdmaAsync q.slice (rdmaTile n) 0x01 n).raiseLimited 0xAA01 (rdmaTile n) 1 n
        (s3.cqsFailed.filter (fun c => !s.cqsFailed.contains c)).foldl (State.cqOverrunBy (qpErrFuel k false 10)) s3

/-- A queue pair enters ERR. -/
def State.qpErr (s : State) (n status : Nat) (byModify : Bool) : State :=
  qpErrFuel (s.rdma.cqs.length + 2) byModify status s n

/-- A completion is due. -/
def State.rdmaComplete (s : State) (cq rec : Nat) : State :=
  let (s1, full) := s.rcqWrite cq rec
  if full then s1.cqOverrunBy (fun s n => s.qpErr n 10 false) cq else s1

/-- A PSN comes after another by this many, modulo 2^24. -/
def psnAfter (a b : Nat) : Nat := (a + 2 ^ 24 - b % 2 ^ 24) % 2 ^ 24

/-- WQEs at the head of a send queue that are done complete in ring order (R483); one that failed takes the queue pair
to ERR. -/
def State.rdmaAdvance (s : State) (n : Nat) : Nat → State
  | 0 => s
  | k + 1 =>
    match s.rqp? n with
    | none => s
    | some q =>
      match q.work with
      | [] => s
      | w :: rest =>
        if w.stage ≠ 3 ∨ q.state = 5 then s
        else if w.status ≠ 0 then s.qpErr n 3 false
        else
          let s1 := s.setRqp n { q with work := rest }
          let s2 := if bitOf w.wqe 503 then s1.rdmaComplete q.sendCq (rdmaRecord (sendKind (wqOp w.wqe)) 0 n 0
            (wqLen w.wqe) none false (wqId w.wqe) s1.now) else s1
          s2.rdmaAdvance n k

/-! ### Work-request fetch and doorbells (R433, R479, R492) -/

/-- Work requests of a slice may be fetched. -/
def State.rdmaMayFetch (s : State) (slice : Nat) : Bool :=
  s.canMaster (s.rdmaFn slice) && !s.quiescing slice && (s.block (s.rdmaFn slice) slice).bound

/-- Fetch the next send and receive WQE of a queue pair, one read of each at a time. -/
def State.rdmaFetch (s : State) (n : Nat) : State :=
  match s.rqp? n with
  | none => s
  | some q =>
    let f := s.rdmaFn q.slice
    let busy (id : Nat) : Bool := s.host.reads.any (fun r => r.kind == .rdma && r.queue == n && r.id == id)
    if q.state = 0 ∨ q.slice = 0xFFFF ∨ s.rdmaMayFetch q.slice = false then s
    else
      let s1 := if q.sqHead ≠ q.sqTail ∧ q.state ≠ 1 ∧ busy 0 = false then
          s.read .rdma f (some q.slice) n 0 0 (leAt q.record 48 8 + 64 * q.sqHead) 64 else s
      if q.rqHead ≠ q.rqTail ∧ busy 1 = false then
        s1.read .rdma f (some q.slice) n 1 0 (leAt q.record 56 8 + 32 * q.rqHead) 32
      else s1

/-- A WQE has been read; in ERR it is flushed at once. -/
def State.rdmaWqe (s : State) (n id : Nat) (bs : List Byte) : State :=
  match s.rqp? n with
  | none => s
  | some q =>
    let v := leNat bs
    let s1 := if id = 0 then
        s.setRqp n { q with sqHead := (q.sqHead + 1) % max 1 q.sqSize,
                            work := q.work ++ [{ wqe := v, stage := 0, psn := 0, count := 0, data := [], status := 0, held := 0 }] }
      else s.setRqp n { q with rqHead := (q.rqHead + 1) % max 1 q.rqSize, recv := q.recv ++ [v] }
    (if q.state = 5 then s1.flushQp n 3 else s1).rdmaFetch n

/-- The doorbell blocks of the slice answer: bound on PF1 (R396, R479). -/
def State.rdmaDoor (s : State) (link slice : Nat) : Bool :=
  s.answers (4 * link + 1) && (s.block (4 * link + 1) slice).bound

/-- A doorbell naming an object the slice does not own is ignored and counted. -/
def State.doorRefused (s : State) (number : Nat) : State := s.bump (Od.doorbellRefused (rdmaTile number))

/-- SEND_QUEUE_TAIL (R479): an index is taken modulo the ring. -/
def execSendQueueTail (link : Fin 4) (slice : Fin 4096) (number : BitVec 24) (index : BitVec 16) (s : State) : Res :=
  let n := number.toNat
  .next (if !s.rdmaDoor link slice then s
    else
      match s.rqp? n with
      | some q =>
        if q.slice = slice.val then (s.setRqp n { q with sqTail := index.toNat % max 1 q.sqSize }).rdmaFetch n
        else s.doorRefused n
      | none => s.doorRefused n)

/-- RECEIVE_QUEUE_TAIL (R479). -/
def execReceiveQueueTail (link : Fin 4) (slice : Fin 4096) (number : BitVec 24) (index : BitVec 16) (s : State) : Res :=
  let n := number.toNat
  .next (if !s.rdmaDoor link slice then s
    else
      match s.rqp? n with
      | some q =>
        if q.slice = slice.val then (s.setRqp n { q with rqTail := index.toNat % max 1 q.rqSize }).rdmaFetch n
        else s.doorRefused n
      | none => s.doorRefused n)

/-- Completion slots up to an index are released; the interrupt may be armed. -/
def State.rcqHead (s : State) (link slice n index : Nat) (arm : Bool) : State :=
  if !s.rdmaDoor link slice then s
  else
    match s.rcq? n with
    | none => s.doorRefused n
    | some c =>
      if leAt c.record 2 2 ≠ slice then s.doorRefused n
      else
        let size := max 1 (rdmaRing (leAt c.record 8 1))
        let i := index % size
        s.setRcq n { c with head := i, used := c.used - (i + size - c.head) % size, armed := c.armed || arm }

/-- COMPLETION_QUEUE_HEAD (R479). -/
def execCompletionQueueHead (link : Fin 4) (slice : Fin 4096) (number : BitVec 24) (index : BitVec 16) (s : State) : Res :=
  .next (s.rcqHead link slice number.toNat index.toNat false)

/-- COMPLETION_QUEUE_HEAD_ARMED (R418, R479). -/
def execCompletionQueueHeadArmed (link : Fin 4) (slice : Fin 4096) (number : BitVec 24) (index : BitVec 16) (s : State) :
    Res := .next (s.rcqHead link slice number.toNat index.toNat true)

/-! ### Records at their boundary (R477, R478, R499) -/

/-- Forget a queue pair's work with nothing written. -/
def State.dropWork (s : State) (n : Nat) : State :=
  match s.rqp? n with
  | none => s
  | some q =>
    let held := (q.work.filter Work.tracked).length
    let s1 := if q.slice = 0xFFFF then s else (List.range held).foldl (fun s _ => s.opEnd q.slice) s
    let s2 := (((s1.setPacing n Pacing.fresh).disarm (tmAck n)).disarm (tmRnr n)).abandonReads (fun r => r.kind == .rdma && r.queue == n)
    { s2 with rdma := { s2.rdma with locks := s2.rdma.locks.filter (fun l =>
      !(q.responses.any (fun r => r.issued && (r.kind == 1 || r.kind == 2) && l == (s.rdmaFn q.slice, r.addr)))) } }

/-- A QP record at its boundary. [DESIGN CHOICE: log entry 76] -/
def State.applyQp (s : State) (bs : List Byte) : State :=
  let n := leAt bs 4 4
  if s.qpCode bs ≠ 0 then s
  else if leAt bs 0 1 = 1 then s.setRqp n (s.freshQp bs)
  else if leAt bs 0 1 = 3 then
    let s1 := s.dropWork n
    { s1 with rdma := { s1.rdma with qps := tblDel s1.rdma.qps n } }
  else
    match s.rqp? n with
    | none => s
    | some q =>
      match leAt bs 2 1 with
      | 0 => (s.dropWork n).setRqp n (s.freshQp q.record)
      | 1 => s.setRqp n { q with state := 1, record := bs }
      | 2 => s.setRqp n { q with state := 2, record := bs, nextPsn := leAt bs 24 4, acked := leAt bs 24 4, expected := leAt bs 28 4,
                                 lastValid := s.course }
      | 3 => (s.setRqp n { q with state := 3, record := bs }).rdmaFetch n
      | _ => (s.qpErr n 3 true).rdmaFetch n

/-- A CQ record at its boundary. [DESIGN CHOICE: log entry 72] -/
def State.applyCq (s : State) (bs : List Byte) : State :=
  if s.cqCode bs ≠ 0 then s
  else if leAt bs 0 1 = 1 then s.setRcq (leAt bs 4 4) (freshCq bs)
  else { s with rdma := { s.rdma with cqs := tblDel s.rdma.cqs (leAt bs 4 4) } }

/-- An address-handle record at its boundary. [DESIGN CHOICE: log entry 72] -/
def State.applyAh (s : State) (bs : List Byte) : State :=
  let t := s.rdma.ahs
  if s.ahCode bs ≠ 0 then s
  else { s with rdma := { s.rdma with
      ahs := if leAt bs 0 1 = 1 then tblPut t (leAt bs 4 2) bs else tblDel t (leAt bs 4 2) } }

/-- A deregister acts at its acceptance (R499). -/
def State.deregister (s : State) (bs : List Byte) : State :=
  match s.region? (leAt bs 4 4 / 1024) with
  | some r => if leAt bs 0 1 = 2 ∧ s.regionCode bs = 0 then s.setRegion (leAt bs 4 4 / 1024) { r with state := 2 } else s
  | none => s

/-- A region record at its boundary: only registers are left to do. -/
def State.applyRegion (s : State) (bs : List Byte) : State :=
  if leAt bs 0 1 = 1 ∧ s.regionCode bs = 0 then s.setRegion (leAt bs 4 4 / 1024) { record := bs, state := 1 } else s

/-- Codes of the records of one write, each checked after those before it. -/
def recordCodes (code : State → List Byte → Nat) (apply : State → List Byte → State) : State → List (List Byte) → List Nat
  | _, [] => []
  | s, r :: rest => code s r :: recordCodes code apply (apply s r) rest

/-- A write of a control entry: kind 0 QP, 1 CQ, 2 region, 3 address handle. Codes that stand against it. -/
def State.rdmaCodes (s : State) (kind : Nat) (bs : List Byte) : List Nat :=
  match kind with
  | 0 => if recordCountOk 128 256 bs then recordCodes State.qpCode State.applyQp s (recordsOf 128 bs) else [0x03]
  | 1 => if recordCountOk 32 256 bs then recordCodes State.cqCode State.applyCq s (recordsOf 32 bs) else [0x03]
  | 2 => if recordCountOk 48 256 bs then
      recordCodes State.regionCode (fun s r => (s.deregister r).applyRegion r) s (recordsOf 48 bs) else [0x03]
  | _ => if recordCountOk 48 256 bs then recordCodes State.ahCode State.applyAh s (recordsOf 48 bs) else [0x03]

/-- A write of RegionControl is accepted: its deregisters act. -/
def State.regionsAccepted (s : State) (bs : List Byte) : State :=
  (recordsOf 48 bs).foldl (fun s r => s.deregister r) s

/-- A write of a control entry at its boundary. -/
def State.applyRdma (s : State) (kind : Nat) (bs : List Byte) : State :=
  match kind with
  | 0 => (recordsOf 128 bs).foldl (fun s r => s.applyQp r) s
  | 1 => (recordsOf 32 bs).foldl (fun s r => s.applyCq r) s
  | 2 => (recordsOf 48 bs).foldl (fun s r => s.applyRegion r) s
  | _ => (recordsOf 48 bs).foldl (fun s r => s.applyAh r) s

/-- Some operation whose key check passed still uses a region (R499): a request being read or answered, or a response
owed. -/
def State.regionBusy (s : State) (index : Nat) : Bool :=
  s.rdma.qps.any (fun e =>
    e.2.work.any (fun w => w.tracked && wqKey w.wqe / 1024 == index && wqLen w.wqe != 0)
      || e.2.responses.any (fun r => r.kind != 4 && r.key / 1024 == index))

/-- REGION_FREE (R499, R500): the last placement of a draining region has been issued. -/
def execRegionFree (index : Nat) (s : State) : Res :=
  .next (match s.region? index with
    | some r =>
      if r.state = 2 ∧ s.regionBusy index = false then
        ({ s with rdma := { s.rdma with regions := tblDel s.rdma.regions index } }).rdmaAsync (leAt r.record 2 2)
          (min 3 (index / 1048576)) 0x04 index
      else s
    | none => s)

/-- What a read of RdmaQuery returns (R503): the record, State, RegionState and R in Mb/s. Kinds 1 to 4 are queue pair,
completion queue, region and address handle. -/
def State.rdmaQueryRead (s : State) (kind number : Nat) : List Byte :=
  match kind with
  | 1 => match s.rqp? number with
    | some q => sized 128 q.record ++ beBytes 1 q.state ++ beBytes 1 0 ++ beBytes 4 (q.rate / 65536)
    | none => []
  | 2 => match s.rcq? number with
    | some c => sized 32 c.record ++ beBytes 1 (boolNat c.failed) ++ beBytes 1 0 ++ beBytes 4 0
    | none => []
  | 3 => match s.region? number with
    | some r => sized 48 r.record ++ beBytes 1 0 ++ beBytes 1 r.state ++ beBytes 4 0
    | none => []
  | 4 => match s.ah? number with
    | some r => sized 48 r ++ beBytes 1 0 ++ beBytes 1 0 ++ beBytes 4 0
    | none => []
  | _ => []

/-! ### Resets (R501) -/

/-- A slice reset, as far as RDMA goes: its queue pairs to RESET, its completion queues emptied, its regions
deregistered, its address handles destroyed. -/
def State.rdmaSliceReset (s : State) (slice : Nat) : State :=
  let mine := s.rdma.qps.filter (fun e => e.2.slice == slice)
  let s1 := mine.foldl (fun s e => (s.dropWork e.1).setRqp e.1 (s.freshQp e.2.record)) s
  { s1 with rdma := { s1.rdma with
      cqs := s1.rdma.cqs.map (fun e => if leAt e.2.record 2 2 = slice then (e.1, freshCq e.2.record) else e)
      regions := s1.rdma.regions.map (fun e => if leAt e.2.record 2 2 = slice then (e.1, { e.2 with state := 2 }) else e)
      ahs := s1.rdma.ahs.filter (fun e => leAt e.2 2 2 != slice) } }

/-- Queue pairs of the storage engine for a tile's association with a remote target (R466, R476): the highest free
number of the tile's range, slice 0xFFFF. [DESIGN CHOICE: log entry 77] -/
def State.engineQp (s : State) (tile target : Nat) : State :=
  let used := s.rdma.qps.map Prod.fst
  match ((List.range 4096).map (fun i => tile * 262144 + 262143 - i)).find? (fun n => !used.contains n) with
  | none => s
  | some n =>
    let record := overlay (overlay (List.replicate 128 0) 0 [1, 1, 3]) 4 (leBytes 4 n ++ leBytes 2 0xFFFF)
    s.setRqp n { s.freshQp (overlay record 32 (leBytes 4 target)) with state := 3 }

end Sys2Proof.Machine
end

