-- ==== Sys2Proof/Machine/RdmaPackets.lean ====
section
/-! DEFINITION. Machine/RdmaPackets.lean: RoCEv2 packets (chapter "Remote memory access", R480 to R482, R494): reading
one from its frame, forming one, and the responder. The header layouts and opcodes of the InfiniBand architecture, which
the manual names and does not repeat, are PRESUMED. -/

namespace Sys2Proof.Machine

/-! ### Reading a packet -/

/-- A RoCEv2 packet as it stands in its frame: IP header, and the bytes from its BTH up to its ICRC. -/
structure RocePacket where
  ip : List Byte
  body : List Byte
  /-- Its ICRC and its IP and UDP lengths are right. -/
  intact : Bool
  deriving DecidableEq, Repr

/-- The IP header of a frame starts here: after one C-TAG at most. -/
def ipStart (bs : List Byte) : Nat := if beAt bs 12 2 = 0x8100 then 18 else 14

/-- The packet of a frame. -/
def rocePacket (bs : List Byte) : RocePacket :=
  let o := ipStart bs
  let six := beAt bs o 1 / 16 == 6
  let n := if six then 40 else 4 * (beAt bs o 1 % 16)
  let total := if six then 40 + beAt bs (o + 4) 2 else beAt bs (o + 2) 2
  let udp := beAt bs (o + n + 4) 2
  let ip := slice bs o n
  let rest := slice bs (o + n) (udp - 4)
  { ip := ip, body := rest.drop 8,
    intact := decide (24 ≤ udp) && total == n + udp && decide (o + total ≤ bs.length)
      && beAt bs (o + n + 2) 2 == 4791 && icrc ip rest == slice bs (o + n + udp - 4) 4 }

/-- Fields of the BTH. -/
def RocePacket.opcode (x : RocePacket) : Nat := beAt x.body 0 1
/-- Pad bytes after the payload. -/
def RocePacket.pad (x : RocePacket) : Nat := beAt x.body 1 1 / 16 % 4
/-- Solicited event. -/
def RocePacket.solicited (x : RocePacket) : Bool := bitOf (beAt x.body 1 1) 7
/-- Destination queue pair. -/
def RocePacket.dest (x : RocePacket) : Nat := beAt x.body 5 3
/-- An acknowledgement is asked for. -/
def RocePacket.ackReq (x : RocePacket) : Bool := bitOf (beAt x.body 8 1) 7
/-- PSN. -/
def RocePacket.psn (x : RocePacket) : Nat := beAt x.body 9 3

/-- Opcodes of RC and UD packets. -/
inductive RoceOp where
  | send (first last imm : Bool)
  | write (first last imm : Bool)
  | read
  | compareSwap | fetchAdd
  | flush
  | udSend (imm : Bool)
  | ack | readResponse | atomicAck | cnp
  | unknown
  deriving DecidableEq, Repr

/-- The operation an opcode names. [PRESUMED: log entry 75] -/
def roceOp : Nat → RoceOp
  | 0x00 => .send true false false
  | 0x01 => .send false false false
  | 0x02 => .send false true false
  | 0x03 => .send false true true
  | 0x04 => .send true true false
  | 0x05 => .send true true true
  | 0x06 => .write true false false
  | 0x07 => .write false false false
  | 0x08 => .write false true false
  | 0x09 => .write false true true
  | 0x0A => .write true true false
  | 0x0B => .write true true true
  | 0x0C => .read
  | 0x0D => .readResponse
  | 0x0E => .readResponse
  | 0x0F => .readResponse
  | 0x10 => .readResponse
  | 0x11 => .ack
  | 0x12 => .atomicAck
  | 0x13 => .compareSwap
  | 0x14 => .fetchAdd
  | 0x1C => .flush
  | 0x64 => .udSend false
  | 0x65 => .udSend true
  | 0x81 => .cnp
  | _ => .unknown

/-- Bytes of the extended headers that follow the BTH (and the DlyETH). -/
def RoceOp.headers : RoceOp → Nat
  | .send _ _ imm => if imm then 4 else 0
  | .write first _ imm => (if first then 16 else 0) + (if imm then 4 else 0)
  | .read => 16
  | .compareSwap => 28
  | .fetchAdd => 28
  | .flush => 20
  | .udSend imm => if imm then 12 else 8
  | .ack => 4
  | .readResponse => 4
  | .atomicAck => 12
  | .cnp => 16
  | .unknown => 0

/-- A middle response of a READ carries no AETH. [PRESUMED: log entry 75] -/
def headerBytes (code : Nat) : Nat := if code = 0x0E then 0 else (roceOp code).headers

/-- The extended headers and the payload of a packet for a queue pair of this CcMode; `none` where the packet is too
short for them. -/
def RocePacket.split (x : RocePacket) (oneWay : Bool) : Option (List Byte × List Byte) :=
  let o := 12 + (if oneWay then 8 else 0)
  let h := headerBytes x.opcode
  if o + h + x.pad ≤ x.body.length then
    some (slice x.body o h, slice x.body (o + h) (x.body.length - o - h - x.pad))
  else none

/-- SendStamp, StampValid and EchoDelay of a packet of a one-way queue pair. -/
def RocePacket.delay (x : RocePacket) : Nat := beAt x.body 12 8

/-! ### Forming a packet (R481, R494) -/

/-- Where a packet goes: destination queue pair and IP, next hop, VID, DSCP, hop limit. -/
structure RocePath where
  qpn : Nat
  ip : List Byte
  mac : List Byte
  vid : Nat
  dscp : Nat
  hops : Nat
  deriving DecidableEq, Repr

/-- The path of an RC queue pair's record. -/
def RdmaQp.path (q : RdmaQp) : RocePath :=
  { qpn := leAt q.record 32 4, ip := Sys2Proof.Machine.slice q.record 80 16, mac := Sys2Proof.Machine.slice q.record 96 6, vid := leAt q.record 102 2,
    dscp := leAt q.record 44 1, hops := leAt q.record 45 1 }

/-- The path of an address handle to a queue pair. -/
def ahPath (qpn : Nat) (ah : List Byte) : RocePath :=
  { qpn := qpn, ip := slice ah 20 16, mac := slice ah 10 6, vid := leAt ah 6 2, dscp := leAt ah 8 1, hops := leAt ah 9 1 }

/-- An IPv4 address is written IPv4-mapped. -/
def isMapped (ip : List Byte) : Bool := ip.take 12 == List.replicate 10 0 ++ [0xFF, 0xFF]

/-- The IPv4 header checksum. -/
def ipChecksum (bs : List Byte) : Nat :=
  let sum := ((List.range (bs.length / 2)).map (fun i => beAt bs (2 * i) 2)).sum
  let fold (v : Nat) : Nat := v % 65536 + v / 65536
  65535 - fold (fold sum)

/-- The IP header of a packet whose UDP datagram has this length. [PRESUMED: log entry 75] -/
def roceIp (p : RocePath) (src : List Byte) (udp : Nat) : List Byte :=
  if isMapped p.ip then
    let h := [0x45, BitVec.ofNat 8 (4 * p.dscp)] ++ beBytes 2 (20 + udp) ++ [0, 0, 0x40, 0, BitVec.ofNat 8 p.hops, 17, 0, 0]
      ++ src.drop 12 ++ p.ip.drop 12
    overlay h 10 (beBytes 2 (ipChecksum h))
  else beBytes 4 (6 * 2 ^ 28 + p.dscp * 2 ^ 22) ++ beBytes 2 udp ++ [17, BitVec.ofNat 8 p.hops] ++ src ++ p.ip

/-- A packet of an RC queue pair goes when the rate has room for it in the course in force and none waits before it
(R497). [DESIGN CHOICE: log entry 163] -/
def State.pace (s : State) (n rate p : Nat) (f : Frame) : State :=
  let x := s.pacing n
  let start := max x.used s.clock.off
  if x.waiting = [] ∧ s.clock.start + start < s.clock.finish then
    (s.setPacing n { x with used := start + 8 * (f.bytes.length + 24) * 1000 * 65536 * nsTicks / rate }).send
      { f with stamp := s.now, course := s.course, lastAt := s.now } (.port (Fin.ofNat 256 p))
  else s.setPacing n { x with waiting := x.waiting ++ [f] }

/-- Packets that wait go as far as the rate has room for them in the new course; none in mode 7.
[DESIGN CHOICE: log entry 163] -/
def State.drainPaced (s : State) (n : Nat) : State :=
  let x := s.pacing n
  let left := x.used - s.lenTicks
  match s.rqp? n with
  | none => s
  | some q =>
    if s.rd Od.modeInForce = 7 then s.setPacing n { x with used := left }
    else x.waiting.foldl (fun s f => s.pace n q.rate q.port f) (s.setPacing n { used := left, waiting := [] })

/-- Send a packet of a queue pair: opcode, PSN, solicited bit, acknowledge request, extended headers and payload; the
PSN of a request is kept with its transmit stamp. [DESIGN CHOICE: log entry 76] -/
def State.roceSend (s : State) (n : Nat) (q : RdmaQp) (path : RocePath) (op psn : Nat) (se ack request : Bool)
    (ext payload : List Byte) : State :=
  let pad := (4 - payload.length % 4) % 4
  let bth := beBytes 1 op ++ beBytes 1 (boolNat se * 128 + 64 + pad * 16) ++ [0xFF, 0xFF, 0] ++ beBytes 3 path.qpn
    ++ beBytes 1 (boolNat ack * 128) ++ beBytes 3 psn
  let dly := if q.oneWay then beBytes 8 (boolNat (s.rdB Od.traceable) * 2 ^ 31 + q.echo.getD 0x7FFFFFFF) else []
  let body := bth ++ dly ++ ext ++ payload ++ List.replicate pad 0
  let len := 8 + body.length + 4
  let source := 0xC000 + crc32c (beBytes 3 n ++ beBytes 3 path.qpn) % 2 ^ 14
  let udp := beBytes 2 source ++ beBytes 2 4791 ++ beBytes 2 len ++ beBytes 2 0
  let ip := roceIp path (slice q.record 64 16) len
  let pcp := s.rd Od.rocePcp
  let eth := path.mac ++ beBytes 6 (Config.portMac q.port)
    ++ (if path.vid = 0 then [] else beBytes 2 0x8100 ++ beBytes 2 (pcp * 8192 + path.vid))
    ++ beBytes 2 (if isMapped path.ip then 0x0800 else 0x86DD)
  let bytes := eth ++ ip ++ udp ++ body ++ icrc ip (udp ++ body)
  let (s1, id) := s.newFrame
  let f := { Frame.plain id (bytes ++ List.replicate (60 - bytes.length) 0) s1.now s1.course with
    cls := priorityClass (s.rd (Od.priorityToClassOper q.port)) pcp, pcp := pcp, tagged := path.vid != 0,
    roce := some { qpn := n, request := if request then some psn else none, bth := eth.length + ip.length + 8,
                   ip := ip.length, len := body.length } }
  if q.ud then s1.send f (.port (Fin.ofNat 256 q.port)) else s1.pace n q.rate q.port f

/-- An AETH: syndrome and the queue pair's MSN. -/
def RdmaQp.aeth (q : RdmaQp) (syndrome : Nat) : List Byte := beBytes 1 syndrome ++ beBytes 3 q.msn

/-- Send an ACK or a NAK of a queue pair. -/
def State.roceAck (s : State) (n psn syndrome : Nat) : State :=
  match s.rqp? n with
  | none => s
  | some q => s.roceSend n q q.path 0x11 psn false false false (q.aeth syndrome) []

/-! ### What the responder owes, in PSN order (R485 to R487) -/

/-- The pieces of a host read's data, in order. -/
def joined (parts : List (Nat × List Byte)) : List Byte :=
  ((parts.mergeSort (fun a b => a.1 ≤ b.1)).map (fun e => e.2)).flatten

/-- Number of reads a responder's host reads carry: requester reads are even, responder reads odd, from 4 on. -/
def responderId (psn : Nat) : Nat := 5 + 2 * psn

/-- The response packets of a READ. -/
def State.sendReadResponse (s : State) (n : Nat) (q : RdmaQp) (r : Response) : State :=
  let bs := joined r.data
  let count := max 1 (ceilDiv r.len q.pmtu)
  (List.range count).foldl (fun s i =>
    let op := if count = 1 then 0x10 else if i = 0 then 0x0D else if i + 1 = count then 0x0F else 0x0E
    s.roceSend n q q.path op ((r.psn + i) % 2 ^ 24) false false false (if op = 0x0E then [] else q.aeth 0x1F)
      (slice bs (i * q.pmtu) q.pmtu)) s

/-- The value an atomic writes. -/
def atomicResult (r : Response) (old : Nat) : Nat :=
  if r.kind = 1 then (if old = r.compareAdd then r.swap else old) else (old + r.compareAdd) % 2 ^ 64

/-- The place a FLUSH reads one byte at: the last placed address of the range, or its start (R486). -/
def flushAt (q : RdmaQp) (r : Response) : Nat :=
  match q.placed.find? (fun p => p.1 == r.key && decide (r.addr < p.2.1 + p.2.2) && decide (p.2.1 < r.addr + r.len)) with
  | some p => min (p.2.1 + p.2.2) (r.addr + r.len) - 1
  | none => r.addr

/-- Serve what is owed from its oldest on: issue its host read, or answer when its data is there. An atomic waits for
its address lock. -/
def State.serveResponses (s : State) (n : Nat) : Nat → State
  | 0 => s
  | k + 1 =>
    match s.rqp? n with
    | none => s
    | some q =>
      match q.responses with
      | [] => s
      | r :: rest =>
        let f := s.rdmaFn q.slice
        let reading := s.host.reads.any (fun x => x.kind == .rdma && x.queue == n && x.id == responderId r.psn)
        if r.kind = 4 then ((s.setRqp n { q with responses := rest }).roceAck n r.psn 0x1F).serveResponses n k
        else if !r.issued && r.kind == 0 && r.len == 0 then
          ((s.setRqp n { q with responses := rest }).sendReadResponse n q r).serveResponses n k
        else if !r.issued then
          let atomic := r.kind == 1 || r.kind == 2
          if atomic && s.rdma.locks.contains (f, r.addr) then s
          else
            let s1 := s.setRqp n { q with responses := { r with issued := true } :: rest }
            let s2 := if atomic then { s1 with rdma := { s1.rdma with locks := (f, r.addr) :: s1.rdma.locks } } else s1
            let (a, m) := if r.kind = 3 then (flushAt q r, 1) else (r.addr, r.len)
            s2.readWith (s2.relaxedOk f (s2.regionBit r.key 5 && r.kind == 0)) .rdma f (some q.slice) n (responderId r.psn) 0 a m
        else if reading then s
        else if r.kind = 0 then ((s.setRqp n { q with responses := rest }).sendReadResponse n q r).serveResponses n k
        else if r.kind = 3 then
          ((s.setRqp n { q with responses := rest }).roceSend n q q.path 0x10 r.psn false false false (q.aeth 0x1F)
            []).serveResponses n k
        else
          let old := leNat (joined r.data)
          let q1 := { q with responses := rest, replay := ((r.psn, old) :: q.replay).take 128 }
          let s1 := (s.setRqp n q1).hostWriteFrom (0x30 + rdmaTile n) 3 f (some q.slice) r.addr false false (leBytes 8 (atomicResult r old))
          let s2 := { s1 with rdma := { s1.rdma with locks := s1.rdma.locks.erase (f, r.addr) } }
          (s2.roceSend n q1 q1.path 0x12 r.psn false false false (q1.aeth 0x1F ++ beBytes 8 old) []).serveResponses n k

/-- Serve a queue pair, and then those whose atomics may have waited for a lock it held. -/
def State.serve (s : State) (n : Nat) : State :=
  let s1 := s.serveResponses n 4096
  let waiting := s1.rdma.qps.filter (fun e => match e.2.responses with
    | r :: _ => !r.issued && (r.kind == 1 || r.kind == 2) | [] => false)
  waiting.foldl (fun s e => s.serveResponses e.1 4096) s1

/-- Owe something. -/
def State.owe (s : State) (n : Nat) (r : Response) : State :=
  match s.rqp? n with
  | none => s
  | some q => (s.setRqp n { q with responses := q.responses ++ [r] }).serve n

/-- An acknowledgement, in its place behind what is owed before it. -/
def ackOwed (psn : Nat) : Response :=
  { psn := psn, kind := 4, key := 0, addr := 0, len := 0, compareAdd := 0, swap := 0, data := [], issued := false }

/-! ### Checks of a request (R482, R488, R489) -/

/-- The responder refuses a request and its queue pair enters ERR (checks 4 and 5). -/
def State.nakErr (s : State) (n psn syndrome : Nat) : State := (s.roceAck n psn syndrome).qpErr n 3 false

/-- A remote access error. -/
def State.nakAccess (s : State) (n psn : Nat) : State := (s.bump (Od.remoteAccessNaks (rdmaTile n))).nakErr n psn 0x62

/-- RETH: address, key, length. -/
def rethOf (h : List Byte) : Nat × Nat × Nat := (beAt h 0 8, beAt h 8 4, beAt h 12 4)

/-- Opcode sequence, lengths and alignment suit the queue pair (check 4). -/
def RdmaQp.sequenceOk (q : RdmaQp) (op : RoceOp) (h body : List Byte) : Bool :=
  let free := q.inbound.isNone
  let inside (kind : Nat) : Bool := match q.inbound with | some (k, _) => k == kind | none => false
  let reads := (q.responses.filter (fun r => r.kind != 4)).length
  let room := decide (reads < leAt q.record 23 1)
  let sized_ (first last : Bool) : Bool :=
    if !last then body.length == q.pmtu
    else if first then decide (body.length ≤ q.pmtu)
    else decide (0 < body.length) && decide (body.length ≤ q.pmtu)
  match op with
  | .send first last _ => (if first then free else inside 0) && sized_ first last
  | .write first last _ =>
    let total := if first then (rethOf h).2.2 else match q.inbound with | some (_, left, _) => left | none => 0
    (if first then free else inside 1) && sized_ first last
      && (if last then body.length == total else decide (body.length < total)) && decide (total ≤ 2 ^ 31)
  | .read => free && body.isEmpty && room && decide ((rethOf h).2.2 ≤ 2 ^ 31)
  | .compareSwap => free && body.isEmpty && room && beAt h 0 8 % 8 == 0
  | .fetchAdd => free && body.isEmpty && room && beAt h 0 8 % 8 == 0
  | .flush => free && body.isEmpty && room
  | _ => false

/-- The response a READ, atomic or FLUSH asks for. -/
def responseOf (op : RoceOp) (h : List Byte) (psn : Nat) : Response :=
  match op with
  | .read =>
    let (a, k, l) := rethOf h
    { psn := psn, kind := 0, key := k, addr := a, len := l, compareAdd := 0, swap := 0, data := [], issued := false }
  | .compareSwap => { psn := psn, kind := 1, key := beAt h 8 4, addr := beAt h 0 8, len := 8, compareAdd := beAt h 20 8,
                      swap := beAt h 12 8, data := [], issued := false }
  | .fetchAdd => { psn := psn, kind := 2, key := beAt h 8 4, addr := beAt h 0 8, len := 8, compareAdd := beAt h 12 8,
                   swap := 0, data := [], issued := false }
  | _ =>
    let (a, k, l) := rethOf (h.drop 4)
    { psn := psn, kind := 3, key := k, addr := a, len := l, compareAdd := beAt h 0 4, swap := 0, data := [], issued := false }

/-- The key of a response's range passes (check 5; R486, R498). A FLUSH of the whole region (selectivity 1) takes the
region's own range; a persistence FLUSH asks for Persistent. [DESIGN CHOICE: log entry 76] -/
def State.responseOk (s : State) (slice : Nat) (r : Response) : Bool :=
  if r.kind = 0 then r.len == 0 || s.keyOk slice r.key r.addr r.len 0b10
  else if r.kind = 3 then
    s.keyOk slice r.key r.addr r.len (if r.compareAdd % 16 = 2 then 0b10000 else 0)
  else s.keyOk slice r.key r.addr r.len 0b1000

/-- A FLUSH of the whole region names that region's range. -/
def State.flushRange (s : State) (r : Response) : Response :=
  match s.region? (r.key / 1024) with
  | some g => if r.kind = 3 ∧ r.compareAdd / 16 % 4 = 1 then
      { r with addr := leAt g.record 8 8, len := leAt g.record 16 8 } else r
  | none => r

/-- A duplicate request (R488). -/
def State.duplicate (s : State) (n : Nat) (q : RdmaQp) (op : RoceOp) (h : List Byte) (psn : Nat) : State :=
  let t := rdmaTile n
  match op with
  | .send _ _ _ => (s.bump (Od.duplicatesAcked t)).owe n (ackOwed ((q.expected + 2 ^ 24 - 1) % 2 ^ 24))
  | .write _ _ _ => (s.bump (Od.duplicatesAcked t)).owe n (ackOwed ((q.expected + 2 ^ 24 - 1) % 2 ^ 24))
  | .read =>
    let r := responseOf op h psn
    if s.responseOk q.slice r then s.owe n r else s.nakAccess n psn
  | .flush =>
    let r := s.flushRange (responseOf op h psn)
    if s.responseOk q.slice r then s.owe n r else s.nakAccess n psn
  | .compareSwap => atomic t
  | .fetchAdd => atomic t
  | _ => s
where
  /-- A duplicate atomic is answered from the replay cache; one whose original is still owed is answered by it. -/
  atomic (t : Nat) : State :=
    if q.responses.any (fun r => (r.kind == 1 || r.kind == 2) && r.psn == psn) then s
    else match q.replay.find? (fun e => e.1 == psn) with
    | some e => s.roceSend n q q.path 0x12 psn false false false (q.aeth 0x1F ++ beBytes 8 e.2) []
    | none => ((s.bump (Od.replayMiss t)).raiseLimited 0xAA04 t 1 n).roceAck n psn 0x61

/-! ### Placing (R482, R485) -/

/-- Receive WQE fields. -/
def rwId (w : Nat) : Nat := w % 2 ^ 64
/-- Buffer address. -/
def rwAddr (w : Nat) : Nat := bitField w 127 64
/-- Buffer length. -/
def rwLen (w : Nat) : Nat := bitField w 159 128
/-- Buffer key. -/
def rwKey (w : Nat) : Nat := bitField w 191 160

/-- Write placed data to the host under its region's ordering. -/
def State.place (s : State) (n : Nat) (q : RdmaQp) (key addr : Nat) (bs : List Byte) : State :=
  let f := s.rdmaFn q.slice
  if bs.isEmpty then s
  else s.hostWriteFrom (0x30 + rdmaTile n) 3 f (some q.slice) addr (s.relaxedOk f (s.regionBit key 5)) false bs

/-- A request in sequence has been taken: the next PSN is expected, and an acknowledgement is owed when it asks for one or
ends its message. -/
def State.taken (s : State) (n psn count : Nat) (last ack : Bool) : State :=
  match s.rqp? n with
  | none => s
  | some q =>
    let s1 := s.setRqp n { q with expected := (psn + count) % 2 ^ 24, nakSent := false,
                                  msn := if last then (q.msn + 1) % 2 ^ 24 else q.msn }
    if ack then s1.owe n (ackOwed psn) else s1

/-- The receive WQE of a message is used up: its completion. -/
def State.rdmaReceived (s : State) (n : Nat) (q : RdmaQp) (kind status src len : Nat) (imm : Option Nat) (grh : Bool)
    (w time : Nat) : State :=
  s.rdmaComplete q.recvCq (rdmaRecord kind status n src len imm grh (rwId w) time)

/-- No receive WQE is at hand (check 6): one that is posted and not yet read is awaited, else an RNR NAK. -/
def State.notReady (s : State) (n psn : Nat) (q : RdmaQp) : State :=
  if q.rqHead ≠ q.rqTail then s
  else (s.bump (Od.rnrNaksSent (rdmaTile n))).roceAck n psn (0x20 + leAt q.record 43 1)

/-- A SEND in sequence. [DESIGN CHOICE: log entry 73] -/
def State.placeSend (s : State) (n : Nat) (q : RdmaQp) (x : RocePacket) (last imm : Bool) (h body : List Byte)
    (time : Nat) : State :=
  match q.recv with
  | [] => s.notReady n x.psn q
  | w :: rest =>
    let got := match q.inbound with | some (_, g, _) => g | none => 0
    let total := got + body.length
    if rwLen w < total then
      ((s.setRqp n { q with recv := rest }).rdmaReceived n q 16 1 0 total none false w time).nakErr n x.psn 0x61
    else if !(body.isEmpty || s.keyOk q.slice (rwKey w) (rwAddr w + got) body.length 1) then
      ((s.setRqp n { q with recv := rest }).rdmaReceived n q 16 2 0 total none false w time).nakErr n x.psn 0x63
    else
      let s1 := (s.place n q (rwKey w) (rwAddr w + got) body).setRqp n
        { q with recv := if last then rest else q.recv, inbound := if last then none else some (0, total, 0, 0)
                 placed := if body.isEmpty then q.placed else (rwKey w, rwAddr w + got, body.length) :: q.placed }
      let s2 := if last then
          s1.rdmaReceived n q 16 0 0 total (if imm then some (beAt h 0 4) else none) false w time else s1
      s2.taken n x.psn 1 last (last || x.ackReq)

/-- A WRITE in sequence. -/
def State.placeWrite (s : State) (n : Nat) (q : RdmaQp) (x : RocePacket) (first last imm : Bool) (h body : List Byte)
    (time : Nat) : State :=
  let (addr, key, total) := rethOf h
  let (left, at_, k) := if first then (total, addr, key)
    else match q.inbound with | some (_, l, a, k) => (l, a, k) | none => (0, 0, 0)
  if !(body.isEmpty || s.keyOk q.slice k at_ body.length 0b100) then s.nakAccess n x.psn
  else if imm && q.recv.isEmpty then s.notReady n x.psn q
  else
    let s1 := (s.place n q k at_ body).setRqp n
      { q with recv := if imm then q.recv.drop 1 else q.recv
               inbound := if last then none else some (1, left - body.length, at_ + body.length, k)
               placed := if body.isEmpty then q.placed else (k, at_, body.length) :: q.placed }
    let s2 := if imm then
        s1.rdmaReceived n q 17 0 0 (body.length) (some (beAt (h.drop (if first then 16 else 0)) 0 4)) false (q.recv.headD 0) time
      else s1
    s2.taken n x.psn 1 last (last || x.ackReq)

/-- A UD SEND: 40 bytes ahead of the data hold the IPv6 header, or 20 zero bytes then the IPv4 header. One with no
receive WQE, or that its buffer does not take, is lost. [DESIGN CHOICE: log entry 74] -/
def State.placeUd (s : State) (n : Nat) (q : RdmaQp) (x : RocePacket) (imm : Bool) (h body : List Byte) (time : Nat) :
    State :=
  match q.recv with
  | [] => s
  | w :: rest =>
    let all := List.replicate (40 - x.ip.length) 0 ++ x.ip ++ body
    let s1 := s.setRqp n { q with recv := rest }
    if q.pmtu < body.length then s
    else if rwLen w < all.length then s1.rdmaReceived n q 16 1 (beAt h 5 3) all.length none true w time
    else if !s.keyOk q.slice (rwKey w) (rwAddr w) all.length 1 then
      s1.rdmaReceived n q 16 2 (beAt h 5 3) all.length none true w time
    else
      (s1.place n q (rwKey w) (rwAddr w) all).rdmaReceived n q 16 0 (beAt h 5 3) all.length
        (if imm then some (beAt h 8 4) else none) true w time

/-! ### One-way delay (R494 to R497) -/

/-- A packet of a one-way queue pair brings its sender's newest delay and a stamp to measure by; an EchoDelay that is
valid is a sample (R76, R495). -/
def State.takeDelay (s : State) (n : Nat) (x : RocePacket) (stamp : Nat) : State :=
  match s.rqp? n with
  | none => s
  | some q =>
    if !q.oneWay || (x.split true).isNone then s
    else
      let v := x.delay
      let present := s.clock.start / nsTicks
      let sent := extendTs 32 (v / 2 ^ 32) present
      let d := ((stamp / nsTicks : Nat) : Int) - sent
      let near := decide ((sent - (present : Int)).natAbs ≤ 1000000000)
      let good := near && bitOf v 31 && s.rdB Od.traceable && decide (0 ≤ d) && decide (d < 0x7FFFFFFF)
      let echo := v % 2 ^ 31
      let sampled := echo != 0x7FFFFFFF
      let q1 := { q with echo := if good then some d.toNat else q.echo
                         sample := if sampled then some (if q.fallback then echo else max echo (q.sample.getD 0)) else q.sample
                         lastValid := if sampled then s.course else q.lastValid
                         fallback := q.fallback && !sampled }
      if good then s.setRqp n q1 else (s.setRqp n q1).bump (Od.sendStampInvalid (rdmaTile n))

/-! ### Arrival -/

/-- A RoCEv2 frame reaches the tile of its destination queue pair: one that a port tile has handed over is taken, else its
reception is counted, and it is discarded in
mode 7 or for its ICRC or lengths (R482, R501); its queue pair is read from HBM (R43, R52). Its packet and receive stamp.
[DESIGN CHOICE: log entry 160] -/
def State.roceArrive (s0 : State) (p off : Nat) (bytes : List Byte) : State × Option (RocePacket × Nat) :=
  let s := s0.moveTo off
  let x := rocePacket bytes
  let t := rdmaTile x.dest
  let taken := s.rdma.arrived.contains (p, bytes)
  let (s0, ok) := if taken then ({ s with rdma := { s.rdma with arrived := s.rdma.arrived.erase (p, bytes) } }, true)
    else s.rxAccept p ⟨bytes.length + 4, true⟩
  if !ok then (s0, none)
  else
    let s1 := s0.carry (p / 8) (0x30 + t) 3 (bytes.length + 4) 0 (x.dest * 2 ^ 24 + x.psn)
    if s1.rd Od.modeInForce = 7 then (s1.bump (Od.modeDiscards t), none)
    else if !x.intact then (s1.bump (Od.icrcErrors t), none)
    else if s1.poolFree (0x30 + t) < ceilDiv (bytes.length + 4) 256 then
      ((s1.poolRefused (0x30 + t)).bump (Od.hodRxDrops (0x30 + t)), none)
    else (s1.hbmRequest (0x30 + t) 2 x.dest, some (x, s1.rxStamp p))

/-- An in-sequence RC request (checks 4 to 6). -/
def State.inSequence (s : State) (n : Nat) (q : RdmaQp) (x : RocePacket) (op : RoceOp) (h body : List Byte) (time : Nat) :
    State :=
  if !q.sequenceOk op h body then s.nakErr n x.psn 0x61
  else
    match op with
    | .send _ last imm => s.placeSend n q x last imm h body time
    | .write first last imm => s.placeWrite n q x first last imm h body time
    | _ =>
      let r := s.flushRange (responseOf op h x.psn)
      if !s.responseOk q.slice r then s.nakAccess n x.psn
      else (s.taken n x.psn (if r.kind = 0 then max 1 (ceilDiv r.len q.pmtu) else 1) true false).owe n r

/-- An RC request: its PSN (check 3), then the rest. -/
def State.rcRequest (s : State) (n : Nat) (q : RdmaQp) (x : RocePacket) (time : Nat) : State :=
  let op := roceOp x.opcode
  let back := psnAfter q.expected x.psn
  if back = 0 then
    match x.split q.oneWay with
    | none => s.nakErr n x.psn 0x61
    | some (h, body) => s.inSequence n q x op h body time
  else if back < 2 ^ 23 then
    match x.split q.oneWay with
    | none => s.nakErr n x.psn 0x61
    | some (h, _) => s.duplicate n q op h x.psn
  else if q.nakSent then s.bump (Od.outOfSequence (rdmaTile n))
  else (s.setRqp n { q with nakSent := true }).roceAck n q.expected 0x60

/-- ROCEV2_PACKET (R476, R482, R488, R489, R494, R501): a request packet; acknowledgements, responses and CNPs are commands
of their own. [DESIGN CHOICE: log entry 165] -/
def execRocev2Packet (p : PortId) (off : Nat) (bytes : List Byte) (s : State) : Res :=
  let reply := match roceOp (rocePacket bytes).opcode with
    | .ack => true | .readResponse => true | .atomicAck => true | .cnp => true | _ => false
  if reply then .next s
  else
    let (s1, got) := s.roceArrive p off bytes
    .next (match got with
      | none => s1
      | some (x, stamp) =>
        let n := x.dest
        let t := rdmaTile n
        if n = 1 then
          let (s2, id) := s1.newFrame
          let f := Frame.plain id bytes stamp s1.course
          if s1.rd Od.gsiQueue / 2 ^ 30 = 3 then s1
          else (s2.holdCopy f).toQueue (s1.rd Od.gsiQueue) f false none
        else
          match s1.rqp? n with
          | none => s1.bump (Od.unknownQp t)
          | some q =>
            if q.state ≠ 2 ∧ q.state ≠ 3 then s1.bump (Od.unknownQp t)
            else if q.slice = 0xFFFF then s1
            else if q.ud then
              match roceOp x.opcode, x.split false with
              | .udSend imm, some (h, body) =>
                if beAt h 0 4 ≠ leAt q.record 36 4 then s1.bump (Od.unknownQp t)
                else if s1.quiescing q.slice then s1.bump (Od.quiesceDiscards t)
                else s1.placeUd n q x imm h body stamp
              | _, _ => s1
            else if s1.quiescing q.slice then s1.bump (Od.quiesceDiscards t)
            else if !s1.canMaster (s1.rdmaFn q.slice) then s1.dmaLost (s1.rdmaFn q.slice)
            else
              let s2 := s1.takeDelay n x stamp
              match s2.rqp? n with
              | some q1 => s2.rcRequest n q1 x stamp
              | none => s2)

/-- CNP (R481): discarded and counted. -/
def execRdmaCnp (p : PortId) (off : Nat) (bytes : List Byte) (s : State) : Res :=
  if roceOp (rocePacket bytes).opcode ≠ .cnp then .next s
  else
    let (s1, got) := s.roceArrive p off bytes
    .next (match got with
      | none => s1
      | some (x, _) => s1.bump (Od.cnpDiscarded (rdmaTile x.dest)))

end Sys2Proof.Machine
end

