-- ==== Sys2Proof/Machine/RdmaWork.lean ====
section
/-! DEFINITION. Machine/RdmaWork.lean: the requester, triggered work requests, retransmission, the PFC watchdog and
congestion control (chapter "Remote memory access", R480, R483, R485, R490 to R493, R497, R500). -/

namespace Sys2Proof.Machine

/-! ### Starting a work request (R483, R498) -/

/-- The operation places data locally: READ and the atomics. -/
def wqReads (op : Nat) : Bool := op == 4 || op == 5 || op == 6

/-- A local error that keeps a work request from starting: its completion status, 0 for none. An operation the transport
does not have, or an unknown opcode, is status 5. -/
def State.wqError (s : State) (q : RdmaQp) (w : Nat) : Nat :=
  let op := wqOp w
  let len := wqLen w
  let local_ := op != 7 && op != 0x20 && len != 0 && !s.keyOk q.slice (wqKey w) (wqAddr w) len (if wqReads op then 1 else 0)
  let ah := match s.ah? (bitField w 207 192) with | some a => leAt a 2 2 == q.slice | none => false
  if (op > 7 ∧ op ≠ 0x20) ∨ (q.ud = true ∧ 1 < op ∧ op ≠ 0x20) then 5
  else if op = 0x20 then
    let kind := bitField w 127 126
    if kind = 1 then (if s.cqOf (bitField w 119 96) q.slice then 0 else 2) else if kind = 2 then 0 else 5
  else if 2 ^ 31 < len ∨ (q.ud = true ∧ q.pmtu < len) ∨ ((op = 5 ∨ op = 6) ∧ len ≠ 8) then 1
  else if (op = 5 ∨ op = 6) ∧ (wqAddr w % 8 ≠ 0 ∨ bitField w 255 192 % 8 ≠ 0) then 5
  else if local_ || (q.ud && !ah) then 2
  else 0

/-- PSNs a work request takes. -/
def wqCount (q : RdmaQp) (w : Nat) : Nat := if wqOp w ≤ 4 then max 1 (ceilDiv (wqLen w) q.pmtu) else 1

/-- Set the work of a queue pair at a place. -/
def State.setWork (s : State) (n i : Nat) (w : Work) : State :=
  match s.rqp? n with | none => s | some q => s.setRqp n { q with work := q.work.set i w }

/-- BTH opcode of packet `i` of `count` of a SEND or WRITE. -/
def requestOpcode (op i count : Nat) : Nat :=
  let first := i == 0
  let last := i + 1 == count
  let base := if op ≤ 1 then 0 else 6
  let imm := op == 1 || op == 3
  base + (if first && last then (if imm then 5 else 4) else if first then 0 else if last then (if imm then 3 else 2) else 1)

/-- Send packets of a work request from packet `i` on (R481). -/
def State.sendWork (s : State) (n : Nat) (q : RdmaQp) (w : Work) (start : Nat) : State :=
  let v := w.wqe
  let op := wqOp v
  let se := bitOf v 501
  let remote := beBytes 8 (bitField v 255 192) ++ beBytes 4 (bitField v 191 160)
  let reth := remote ++ beBytes 4 (wqLen v)
  let imm := if op = 1 ∨ op = 3 then beBytes 4 (bitField v 479 448) else []
  if q.ud then
    match s.ah? (bitField v 207 192) with
    | none => s
    | some a =>
      let ext := beBytes 4 (bitField v 191 160) ++ [0] ++ beBytes 3 n ++ imm
      s.roceSend n q (ahPath (bitField v 255 232) a) (if op = 1 then 0x65 else 0x64) w.psn se false true ext (joined w.data)
  else if op ≤ 3 then
    let bs := joined w.data
    ((List.range w.count).drop start).foldl (fun s i =>
      let last := i + 1 == w.count
      let ext := (if 2 ≤ op ∧ i = 0 then reth else []) ++ (if last then imm else [])
      s.roceSend n q q.path (requestOpcode op i w.count) ((w.psn + i) % 2 ^ 24) (se && last) last true ext
        (slice bs (i * q.pmtu) q.pmtu)) s
  else if op = 4 then
    let done := start * q.pmtu
    s.roceSend n q q.path 0x0C ((w.psn + start) % 2 ^ 24) false true true
      (beBytes 8 (bitField v 255 192 + done) ++ beBytes 4 (bitField v 191 160) ++ beBytes 4 (wqLen v - done)) []
  else if op = 7 then
    let type := bitField v 449 448
    s.roceSend n q q.path 0x1C w.psn false true true (beBytes 4 (type + 16 * boolNat (bitOf v 452)) ++ reth) []
  else
    s.roceSend n q q.path (if op = 5 then 0x13 else 0x14) w.psn false true true
      (remote ++ (if op = 5 then beBytes 8 (v % 2 ^ 64) ++ beBytes 8 (bitField v 127 64)
                  else beBytes 8 (bitField v 127 64) ++ beBytes 8 0)) []

/-- Packets of started work go out in ring order as their payload is there; a UD work request is done when it has
left. -/
def State.pushWork (s : State) (n : Nat) : Nat → State
  | 0 => s
  | k + 1 =>
    match s.rqp? n with
    | none => s
    | some q =>
      match q.work.findIdx? (fun w => w.stage == 1) with
      | none => s
      | some i =>
        match q.work[i]? with
        | none => s
        | some w =>
          if (s.host.reads.any (fun r => r.kind == .rdma && r.queue == n && r.id == 4 + 2 * w.psn)) || q.rnrTime.isSome then s
          else
            let s1 := (s.setWork n i { w with stage := if q.ud then 3 else 2 }).sendWork n q w 0
            let s2 := if q.ud then s1.opEnd q.slice
              else if leAt q.record 40 1 ≠ 0 ∧ s1.armed (tmAck n) = false then s1.arm (tmAck n) else s1
            s2.pushWork n k

/-- The first work request not started, when the queue pair may start it (R433, R476, R480, R492): its place. -/
def State.nextWork (s : State) (n : Nat) : Option (RdmaQp × Nat × Work) :=
  match s.rqp? n with
  | none => none
  | some q =>
    match q.work.findIdx? (fun w => w.stage == 0) with
    | none => none
    | some i =>
      let before := q.work.take i
      match q.work[i]? with
      | none => none
      | some w =>
        let out := before.filter (fun x => wqReads (wqOp x.wqe) && x.stage != 3)
        let stops := before.any (fun x => (wqOp x.wqe == 0x20 && x.stage != 3) || x.status != 0)
          || (bitOf w.wqe 502 && !out.isEmpty)
          || (wqReads (wqOp w.wqe) && decide (leAt q.record 22 1 ≤ out.length))
          || q.rnrTime.isSome
        if q.state = 3 ∧ s.rd Od.modeInForce ≠ 7 ∧ s.quiescing q.slice = false ∧ s.canMaster (s.rdmaFn q.slice) = true ∧ !stops then
          some (q, i, w)
        else none

/-- Start the next work request of a queue pair when it is one of this opcode (R431, R480, R483): its local checks, its
tracker entry, its service-tile bricks, its PSNs, and the read of its payload. -/
def State.startWork (s : State) (n op : Nat) : State :=
  match s.nextWork n with
  | none => s
  | some (q, i, w) =>
    let fail := s.wqError q w.wqe
    let pool := 0x30 + rdmaTile n
    if wqOp w.wqe ≠ op then s
    else if fail ≠ 0 then (s.setWork n i { w with stage := 3, status := fail }).rdmaAdvance n (q.work.length + 1)
    else if !s.mayStart q.slice then s.bumpSlice q.slice 1
    else if s.poolFree pool < ceilDiv (min (wqLen w.wqe) q.pmtu + 128) 256 then s.poolRefused pool
    else
      let count := wqCount q w.wqe
      let s1 := (s.setRqp n { q with nextPsn := (q.nextPsn + count) % 2 ^ 24
                                     work := q.work.set i { w with stage := 1, psn := q.nextPsn, count := count } }).opStart
        q.slice
      let f := s.rdmaFn q.slice
      let s2 := if op ≤ 3 ∧ wqLen w.wqe ≠ 0 then
          s1.readWith (s1.relaxedOk f (bitOf w.wqe 500)) .rdma f (some q.slice) n (4 + 2 * q.nextPsn) 0 (wqAddr w.wqe)
            (wqLen w.wqe)
        else s1
      (s2.pushWork n (q.work.length + 1)).rdmaAdvance n (q.work.length + 1)

/-- A work request of an opcode that the device or the transport does not have never starts: it completes with status 5
when its turn comes. [DESIGN CHOICE: log entry 73] -/
def State.refuseWork (s : State) (n : Nat) : State :=
  match s.nextWork n with
  | none => s
  | some (q, i, w) =>
    if 7 < wqOp w.wqe ∧ wqOp w.wqe ≠ 0x20 then
      (s.setWork n i { w with stage := 3, status := 5 }).rdmaAdvance n (q.work.length + 1)
    else s

/-- SEND (R480, R481, R483). -/
def execRdmaSend (qpn : Nat) (s : State) : Res := .next (s.startWork qpn 0)
/-- SEND_WITH_IMMEDIATE. -/
def execSendWithImmediate (qpn : Nat) (s : State) : Res := .next (s.startWork qpn 1)
/-- RDMA_WRITE. -/
def execRdmaWrite (qpn : Nat) (s : State) : Res := .next (s.startWork qpn 2)
/-- RDMA_WRITE_WITH_IMMEDIATE. -/
def execRdmaWriteWithImmediate (qpn : Nat) (s : State) : Res := .next (s.startWork qpn 3)
/-- RDMA_READ. -/
def execRdmaRead (qpn : Nat) (s : State) : Res := .next (s.startWork qpn 4)
/-- COMPARE_AND_SWAP. -/
def execCompareAndSwap (qpn : Nat) (s : State) : Res := .next (s.startWork qpn 5)
/-- FETCH_AND_ADD. -/
def execFetchAndAdd (qpn : Nat) (s : State) : Res := .next (s.startWork qpn 6)
/-- RDMA_FLUSH (R486). -/
def execRdmaFlush (qpn : Nat) (s : State) : Res := .next (s.startWork qpn 7)

/-! ### Triggered work requests (R492) -/

/-- WAIT: it holds its send queue from now on; one that names a completion queue of another slice completes with
status 2. -/
def execRdmaWait (qpn : Nat) (s : State) : Res :=
  .next (match s.nextWork qpn with
    | none => s
    | some (q, i, w) =>
      let fail := s.wqError q w.wqe
      if wqOp w.wqe ≠ 0x20 then s
      else if fail ≠ 0 then (s.setWork qpn i { w with stage := 3, status := fail }).rdmaAdvance qpn (q.work.length + 1)
      else s.setWork qpn i { w with stage := 2 })

/-- The condition of a WAIT holds at this boundary: the instant it is ordered by. -/
def State.waitHolds (s : State) (w : Nat) : Option Nat :=
  if bitField w 127 126 = 1 then
    match s.rcq? (bitField w 119 96) with
    | some c => if (c.count + 2 ^ 32 - w % 2 ^ 32) % 2 ^ 32 < 2 ^ 31 then some s.clock.start else none
    | none => none
  else
    let v := w % 2 ^ 64
    let t := (extendTs 54 (v / 1024) (s.clock.start / nsTicks)).toNat * nsTicks + v % 1024 * 64
    if t ≤ s.clock.start then some t else none

/-- Which WAITs have come to hold at this boundary. -/
def State.waitsHeld (s : State) : State :=
  s.rdma.qps.foldl (fun s e =>
    match e.2.work.findIdx? (fun w => wqOp w.wqe == 0x20 && w.stage == 2) with
    | none => s
    | some i =>
      match e.2.work[i]? with
      | none => s
      | some w =>
        match s.waitHolds w.wqe with
        | some t => if w.held = 0 then s.setWork e.1 i { w with held := max 1 t } else s
        | none => s) s

/-- WAITs of a tile whose condition holds, in the order of release. -/
def State.waitsDue (s : State) (tile : Nat) : List (Nat × Nat) :=
  (((s.rdma.qps.filter (fun e => rdmaTile e.1 == tile)).filterMap (fun e =>
    match e.2.work.find? (fun w => wqOp w.wqe == 0x20 && w.stage == 2) with
    | some w => if w.held ≠ 0 then some (w.held, e.1) else none
    | none => none)).mergeSort (fun a b => a.1 < b.1 || (a.1 == b.1 && a.2 ≤ b.2)))

/-- Release the WAIT a queue pair is held by, when it is among the first 64 of its tile at this boundary. -/
def State.releaseWait (s : State) (qpn : Nat) : State :=
  let t := rdmaTile qpn
  let already := match tblGet (0, 0) s.rdma.released t with | (c, k) => if c = s.course then k else 0
  if s.rd Od.modeInForce ≠ 7 ∧ ((s.waitsDue t).take (64 - already)).any (fun e => e.2 == qpn) = true then
    match s.rqp? qpn with
    | none => s
    | some q =>
      match q.work.findIdx? (fun w => wqOp w.wqe == 0x20 && w.stage == 2) with
      | none => s
      | some i =>
        match q.work[i]? with
        | none => s
        | some w =>
          let s1 := { s with rdma := { s.rdma with released := tblPut s.rdma.released t (s.course, already + 1) } }
          (s1.setWork qpn i { w with stage := 3 }).rdmaAdvance qpn (q.work.length + 1)
  else s

/-- Step 5 of a boundary (R492): the WAITs that hold are released, the first 64 of each service tile. -/
def State.waitBoundary (s : State) : State :=
  (List.range 4).foldl (fun s t => ((s.waitsDue t).take 64).foldl (fun s e => s.releaseWait e.2) s) s.waitsHeld

/-- WAIT_RELEASE (R492): of the first 64 of its tile at this boundary. -/
def execWaitRelease (qpn : Nat) (s : State) : Res := .next (s.releaseWait qpn)

/-! ### Progress and retransmission (R485, R490, R491) -/

/-- PSN `p` lies before the end of a work request's PSNs counted from its first: how many of its packets lie at or before
`p`. -/
def coveredOf (w : Work) (p : Nat) : Nat :=
  let d := psnAfter p w.psn
  if d < 2 ^ 23 then min w.count (d + 1) else 0

/-- The oldest request PSN that is not acknowledged: of the first work request sent and not done. -/
def RdmaQp.oldest (q : RdmaQp) : Option Work := q.work.find? (fun w => w.stage == 2 && wqOp w.wqe != 0x20)

/-- Packets of a READ already answered. -/
def answered (w : Work) : Nat := if wqOp w.wqe = 4 then w.data.length else 0

/-- The oldest unacknowledged PSN, in the oldest work request not done. -/
def RdmaQp.resendFrom (q : RdmaQp) (w : Work) : Nat :=
  if psnAfter q.acked w.psn < w.count then q.acked else (w.psn + answered w) % 2 ^ 24

/-- Send again from a PSN on (go-back-N). -/
def State.resend (s : State) (n psn : Nat) : State :=
  match s.rqp? n with
  | none => s
  | some q =>
    let again := q.work.filter (fun w => w.stage == 2 && wqOp w.wqe != 0x20 && decide (psnAfter (w.psn + w.count) psn < 2 ^ 23)
      && (w.psn + w.count) % 2 ^ 24 != psn)
    again.foldl (fun s w =>
      let d := psnAfter psn w.psn
      let start := max (if d < 2 ^ 23 then d else 0) (if wqOp w.wqe = 4 then answered w else 0)
      let packets := if wqOp w.wqe ≤ 3 then w.count - start else 1
      (s.sendWork n q w (if wqOp w.wqe ≤ 4 then start else 0)).addTo (Od.retransmissions (rdmaTile n)) packets)
      (s.dropRequests n)

/-- A work request has failed: its status, and its queue pair enters ERR. -/
def State.workFails (s : State) (n : Nat) (w : Work) (status : Nat) : State :=
  match s.rqp? n with
  | none => s
  | some q =>
    (s.setRqp n { q with work := q.work.map (fun x => if x = w then { x with status := status } else x) }).qpErr n 3 false

/-- One retry of the requester (R490): resend from a PSN, or fail the oldest WQE with status 7. -/
def State.retry (s : State) (n psn : Nat) : State :=
  match s.rqp? n with
  | none => s
  | some q =>
    match q.oldest with
    | none => s
    | some w =>
      if leAt q.record 41 1 ≤ q.retries then
        (s.raiseLimited 0xAA02 (rdmaTile n) 1 n).workFails n w 7
      else
        let s1 := (s.setRqp n { q with retries := q.retries + 1 }).resend n psn
        if leAt q.record 40 1 = 0 then s1 else s1.arm (tmAck n)

/-- Work of a queue pair covered by an acknowledgement of PSN `p` (R485): whole SENDs and WRITEs are done, up to the first
READ, atomic or FLUSH that lacks its response. -/
def ackWork (p : Nat) : List Work → List Work
  | [] => []
  | w :: rest =>
    if w.stage = 3 ∨ wqOp w.wqe = 0x20 then w :: ackWork p rest
    else if w.stage = 2 ∧ wqOp w.wqe ≤ 3 ∧ coveredOf w p = w.count then { w with stage := 3 } :: ackWork p rest
    else w :: rest

/-- Progress: tracker entries of what is done, retries start anew, the timer follows what is left, completions are
written. A round-trip sample is the largest interval of the packets first covered (R497). -/
def State.progress (s : State) (n p : Nat) (before : List Work) (stamp : Nat) : State :=
  match s.rqp? n with
  | none => s
  | some q =>
    let (gone, keep) := q.stamps.partition (fun e => decide (psnAfter p e.1 < 2 ^ 23))
    let rtt := (gone.map (fun e => (stamp - e.2) / nsTicks)).foldl max 0
    let use := (!q.oneWay || q.fallback) && !gone.isEmpty
    let done := (before.filter Work.tracked).length - (q.work.filter Work.tracked).length
    let s1 := s.setRqp n { q with stamps := keep, retries := 0, rnrTries := 0, acked := (p + 1) % 2 ^ 24
                                  sample := if use then some (max rtt (q.sample.getD 0)) else q.sample }
    let s2 := (List.range done).foldl (fun s _ => s.opEnd q.slice) s1
    let s3 := if q.oldest.isNone ∨ leAt q.record 40 1 = 0 then s2.disarm (tmAck n) else s2.arm (tmAck n)
    s3.rdmaAdvance n (before.length + 1)

/-- The acknowledged part of a reply: everything before PSN `p` inclusive. Whether it acknowledges anything new, and the
state after. -/
def State.acknowledge (s : State) (n p stamp : Nat) : State × Bool :=
  match s.rqp? n with
  | none => (s, false)
  | some q =>
    let work := ackWork p q.work
    let fresh := q.stamps.any (fun e => decide (psnAfter p e.1 < 2 ^ 23)) || decide (work ≠ q.work)
    if fresh then ((s.setRqp n { q with work := work }).progress n p q.work stamp, true) else (s, false)

/-- A reply that acknowledges nothing new: counted and discarded (R490). -/
def State.lateResponse (s : State) (n : Nat) : State := s.bump (Od.lateResponses (rdmaTile n))

/-- Data of a READ or the value of an atomic arrives for the work request that asked for PSN `p`: it is placed in the
local buffer, in order. -/
def State.takeResponse (s : State) (n : Nat) (x : RocePacket) (h body : List Byte) (stamp : Nat) : State :=
  let s := (s.acknowledge n ((x.psn + 2 ^ 24 - 1) % 2 ^ 24) stamp).1
  match s.rqp? n with
  | none => s
  | some q =>
    match q.oldest with
    | none => s.lateResponse n
    | some w =>
      let i := psnAfter x.psn w.psn
      let op := wqOp w.wqe
      let f := s.rdmaFn q.slice
      let want := op == 4 || op == 7
      if ¬ (i < w.count) ∨ i ≠ w.data.length ∨ (want == (roceOp x.opcode == .readResponse)) = false
          ∨ op ≤ 3 then s.lateResponse n
      else
        let bs := if op = 4 ∨ op = 7 then body else leBytes 8 (beAt h 4 8)
        let bad := op == 4 && body.length != min q.pmtu (wqLen w.wqe - i * q.pmtu)
        if bad then s.workFails n w 5
        else
          let s1 := if bs.isEmpty then s
            else s.hostWriteFrom (0x30 + rdmaTile n) 3 f (some q.slice) (wqAddr w.wqe + i * q.pmtu)
              (s.relaxedOk f (bitOf w.wqe 500 || s.regionBit (wqKey w.wqe) 5)) false bs
          let done := i + 1 == w.count
          let w1 := { w with data := w.data ++ [(i, [])], stage := if done then 3 else 2 }
          let s2 := s1.setRqp n { q with work := q.work.map (fun y => if y = w then w1 else y) }
          s2.progress n x.psn q.work stamp

/-- A reply packet to a requester in RTS: its queue pair, and its extended headers and payload. -/
def State.replyFor (s : State) (p off : Nat) (bytes : List Byte) :
    State × Option (Nat × RdmaQp × RocePacket × List Byte × List Byte × Nat) :=
  let (s1, got) := s.roceArrive p off bytes
  match got with
  | none => (s1, none)
  | some (x, stamp) =>
    match s1.rqp? x.dest with
    | none => (s1.bump (Od.unknownQp (rdmaTile x.dest)), none)
    | some q =>
      if (q.state ≠ 2 ∧ q.state ≠ 3) ∨ q.ud = true then (s1.bump (Od.unknownQp (rdmaTile x.dest)), none)
      else if q.slice = 0xFFFF then (s1, none)
      else
        match x.split q.oneWay with
        | none => (s1.nakErr x.dest x.psn 0x61, none)
        | some (h, body) =>
          let s2 := s1.takeDelay x.dest x stamp
          match s2.rqp? x.dest with
          | none => (s2, none)
          | some q2 => (s2, some (x.dest, q2, x, h, body, stamp))

/-- Syndrome of an acknowledgement packet. -/
def syndrome (bytes : List Byte) (s : State) : Option Nat :=
  let x := rocePacket bytes
  if roceOp x.opcode = .ack then
    match s.rqp? x.dest with
    | some q => (x.split q.oneWay).map (fun e => beAt e.1 0 1)
    | none => some 0
  else none

/-- ACK (R485, R490): an acknowledgement, or a READ, atomic or FLUSH response. -/
def execRdmaAck (p : PortId) (off : Nat) (bytes : List Byte) (s : State) : Res :=
  let op := roceOp (rocePacket bytes).opcode
  let mine := op = .readResponse ∨ op = .atomicAck ∨ (op = .ack ∧ (match syndrome bytes s with
    | some v => v / 32 == 0 | none => true) = true)
  if ¬ mine then .next s
  else
    let (s1, got) := s.replyFor p off bytes
    .next (match got with
      | none => s1
      | some (n, _, x, h, body, stamp) =>
        if op = .ack then
          let (s2, fresh) := s1.acknowledge n x.psn stamp
          if fresh then s2 else s2.lateResponse n
        else s1.takeResponse n x h body stamp)

/-- NAK_PSN_SEQUENCE_ERROR (R489, R490): what lies before the PSN it names is acknowledged, and the rest is sent again. -/
def execNakPsnSequenceError (p : PortId) (off : Nat) (bytes : List Byte) (s : State) : Res :=
  if syndrome bytes s ≠ some 0x60 then .next s
  else
    let (s1, got) := s.replyFor p off bytes
    .next (match got with
      | none => s1
      | some (n, _, x, _, _, stamp) =>
        let s2 := (s1.acknowledge n ((x.psn + 2 ^ 24 - 1) % 2 ^ 24) stamp).1
        match s2.rqp? n with
        | some q => if q.oldest.isSome then s2.retry n x.psn else s2.lateResponse n
        | none => s2)

/-- RNR times in units of 10 us by code (IBTA). [PRESUMED: log entry 75] -/
def rnrTimes : List Nat :=
  [65536, 1, 2, 3, 4, 6, 8, 12, 16, 24, 32, 48, 64, 96, 128, 192, 256, 384, 512, 768, 1024, 1536, 2048, 3072, 4096, 6144,
   8192, 12288, 16384, 24576, 32768, 49152]

/-- RNR_NAK (R491): the requester waits for the time it carries, at most RnrRetry times. -/
def execRnrNak (p : PortId) (off : Nat) (bytes : List Byte) (s : State) : Res :=
  match syndrome bytes s with
  | none => .next s
  | some v =>
    if v / 32 ≠ 1 then .next s
    else
      let (s1, got) := s.replyFor p off bytes
      .next (match got with
        | none => s1
        | some (n, _, x, _, _, stamp) =>
          let s2 := (s1.acknowledge n ((x.psn + 2 ^ 24 - 1) % 2 ^ 24) stamp).1
          match s2.rqp? n with
          | none => s2
          | some q =>
            match q.oldest with
            | none => s2.lateResponse n
            | some w =>
              let most := leAt q.record 42 1
              if most ≠ 7 ∧ most ≤ q.rnrTries then (s2.raiseLimited 0xAA02 (rdmaTile n) 1 n).workFails n w 8
              else ((s2.setRqp n { q with rnrTries := q.rnrTries + 1,
                                          rnrTime := some (10000 * rnrTimes.getD (v % 32) 1) }).disarm (tmAck n)).arm
                (tmRnr n))

/-- NAK (R482, R483): Invalid Request, Remote Access Error or a remote operation error ends the work request it names and
takes the queue pair to ERR. -/
def execRdmaNak (p : PortId) (off : Nat) (bytes : List Byte) (s : State) : Res :=
  match syndrome bytes s with
  | none => .next s
  | some v =>
    if v / 32 ≠ 3 ∨ v = 0x60 then .next s
    else
      let (s1, got) := s.replyFor p off bytes
      .next (match got with
        | none => s1
        | some (n, _, x, _, _, stamp) =>
          let s2 := (s1.acknowledge n ((x.psn + 2 ^ 24 - 1) % 2 ^ 24) stamp).1
          match s2.rqp? n with
          | none => s2
          | some q =>
            match q.work.find? (fun w => w.stage == 2 && wqOp w.wqe != 0x20 && decide (psnAfter x.psn w.psn < w.count)) with
            | none => s2.lateResponse n
            | some w => s2.workFails n w (if v = 0x62 then 4 else if v = 0x61 then 5 else 6))

/-- LOCAL_ACK_TIMEOUT (R490): a timer of granularity G, the largest power of two with G × L at most 1,048,576 ns. -/
def execLocalAckTimeout (qpn : Nat) (s : State) : Res :=
  .next (match s.rqp? qpn with
    | none => s
    | some q =>
      let t := leAt q.record 40 1
      match q.oldest with
      | none => s
      | some w =>
        if t ≠ 0 ∧ s.rd Od.modeInForce ≠ 7 ∧ s.dueEvery (tmAck qpn) (ceilDiv (4096 * 2 ^ t) s.len) (s.grainOf 1048576) = true then
          (s.disarm (tmAck qpn)).retry qpn (q.resendFrom w)
        else s)

/-- RNR_TIMER (R491): the time has passed, rounded up to whole courses, and the requester resends. -/
def execRnrTimer (qpn : Nat) (s : State) : Res :=
  .next (match s.rqp? qpn with
    | none => s
    | some q =>
      match q.rnrTime, q.oldest with
      | some t, some w =>
        if s.rd Od.modeInForce ≠ 7 ∧ s.due (tmRnr qpn) (ceilDiv t s.len) = true then
          let s1 := ((s.disarm (tmRnr qpn)).setRqp qpn { q with rnrTime := none }).resend qpn (q.resendFrom w)
          let s2 := if leAt q.record 40 1 = 0 then s1 else s1.arm (tmAck qpn)
          s2.pushWork qpn (q.work.length + 1)
        else s
      | some _, none => s.setRqp qpn { q with rnrTime := none }
      | none, _ => s)

/-! ### Data of host reads (R410, R501) -/

/-- A host read of RDMA has brought its data, or failed. Reads 0 and 1 are WQEs, and one that cannot be
read completes with status 9, its WrId unknown; even ones from 4 on are payload of a
request, odd ones what a responder reads. [DESIGN CHOICE: log entry 73] -/
def State.rdmaData (s : State) (r : Dma) (data : Option (List Byte)) : State :=
  let n := r.queue
  match s.rqp? n with
  | none => s
  | some q =>
    if r.id ≤ 1 then
      match data with
      | some bs => (s.rdmaWqe n r.id bs).refuseWork n
      | none =>
        let s1 := s.qpErr n 3 false
        (s1.rcqWrite (if r.id = 0 then q.sendCq else q.recvCq) (rdmaRecord (if r.id = 0 then 1 else 16) 9 n 0 0 none false 0
          s1.now)).1
    else if r.id % 2 = 0 then
      let psn := (r.id - 4) / 2
      match q.work.find? (fun w => w.stage == 1 && w.psn == psn) with
      | none => s
      | some w =>
        match data with
        | some bs =>
          (((s.setRqp n { q with work := q.work.map (fun x => if x = w then { x with data := x.data ++ [(r.part, bs)] }
                                                              else x) }).pushWork n (q.work.length + 1)).rdmaAdvance n
            (q.work.length + 1))
        | none => s.workFails n w 9
    else
      let psn := (r.id - 5) / 2
      match q.responses with
      | [] => s
      | x :: rest =>
        if x.psn ≠ psn ∨ x.issued = false then s
        else
          match data with
          | some bs => (s.setRqp n { q with responses := { x with data := x.data ++ [(r.part, bs)] } :: rest }).serve n
          | none => s.nakErr n psn 0x63

/-! ### Congestion control (R497) -/

/-- A queue pair's rate at a boundary, from the sample of the ended course. -/
def State.rateUpdate (s : State) (n : Nat) : State :=
  match s.rqp? n with
  | none => s
  | some q =>
    match q.sample with
    | none => s
    | some v =>
      if s.rd Od.modeInForce = 7 then s else
      let window := (s.course, v) :: q.window.filter (fun e => s.course < e.1 + s.rd Od.baseWindow && decide (e.2 < v))
      let base := (window.map Prod.snd).foldl min v
      let d := v - base
      let t := if q.oneWay && !q.fallback then s.rd Od.targetDelay else s.rd Od.rttTarget
      let rate := if d ≤ t then min (s.portRate q.port) (q.rate + s.rd Od.addStep * 65536)
        else max (s.rd Od.minRate * 65536) (q.rate - q.rate * s.rd Od.beta * (d - t) / (65536 * d))
      s.setRqp n { q with rate := rate, sample := none, window := window }

/-! ### Ports (R500, R493) -/

/-- One asynchronous event for each slice with queue pairs on a port. -/
def State.portAsync (s : State) (p event : Nat) : State :=
  let mine := s.rdma.qps.filter (fun e => e.2.port == p && e.2.slice != 0xFFFF)
  ((mine.map (fun e => e.2.slice)).dedup).foldl (fun s slice =>
    s.rdmaAsync slice (match mine.find? (fun e => e.2.slice == slice) with | some e => rdmaTile e.1 | none => 0) event p) s

/-- Ports of queue pairs that went down or came up since the last boundary. -/
def State.rdmaPorts (s : State) : State :=
  let ports := ((s.rdma.qps.map (fun e => e.2.port)).dedup)
  let s1 := ports.foldl (fun s p =>
    if s.up p = s.rdma.ports.contains p then s else s.portAsync p (if s.up p then 0x06 else 0x05)) s
  { s1 with rdma := { s1.rdma with ports := (List.range 256).filter (fun p => s1.up p) } }

/-- A one-way queue pair without a valid sample for DelayFallbackCourses courses turns to round-trip samples (R497). -/
def State.delayFallback (s : State) (qpn : Nat) : State :=
  match s.rqp? qpn with
  | none => s
  | some q =>
    if q.oneWay && !q.fallback && (q.state == 2 || q.state == 3)
        && decide (q.lastValid + s.rd Od.delayFallbackCourses + 1 ≤ s.course) then
      (s.setRqp qpn { q with fallback := true }).bump (Od.delayFallbacks (rdmaTile qpn))
    else s

/-- DELAY_FALLBACK (R497). -/
def execDelayFallback (qpn : Nat) (s : State) : Res := .next (s.delayFallback qpn)

/-- What RDMA does at a boundary: port events, WAITs, rates, packets the rates held back, and fetch that a quiesce had stopped. -/
def State.rdmaBoundary (s : State) : State :=
  let s1 := s.rdmaPorts.waitBoundary
  s1.rdma.qps.foldl (fun s e => (((s.delayFallback e.1).rateUpdate e.1).drainPaced e.1).rdmaFetch e.1) s1

/-- Frames of one class queued at a port are discarded as a flush (R193). -/
def State.flushClass (s : State) (p c : Nat) : State :=
  let e := s.egress p
  let fs := (s.queue p c).frames ++ e.launch.filter (fun f => f.cls == c)
  let s1 := (s.setQueue p c { s.queue p c with frames := [] }).queueEmptied p c
  let s2 := s1.setEgress p { s1.egress p with launch := e.launch.filter (fun f => f.cls != c) }
  (fs.foldl (fun s f => s.flushOne p f true) s2).raise 0x4A03 p

/-- PFC_STORM (R493): a lossless class paused without a break for WatchdogTime; its timer has granularity 64. -/
def execPfcStorm (p : PortId) (c : ClassId) (s : State) : Res :=
  .next (if s.rdB (Od.pfcWatchdogEnable p) && s.lossless p c && !s.storm p c
      && s.dueEvery (tmStorm p c) (s.rd (Od.watchdogTime p)) 64 && decide (s.now < (s.queue p c).pausedUntil) then
    let s1 := ((s.disarm (tmStorm p c)).wr (Od.watchdogState p) (withBit (s.rd (Od.watchdogState p)) c true)).arm
      (tmRestored p c)
    let s2 := s1.raiseLimited 0xAA05 (8 * p.val + c.val) 1 (p.val * 256 + c.val)
    let s3 := if s2.rd (Od.watchdogAction p) = 0 then s2.flushClass p c else s2
    s3.portAsync p 0x07
  else s)

/-- STORM_RESTORE (R493). -/
def execStormRestore (p : PortId) (c : ClassId) (s : State) : Res :=
  .next (if s.storm p c && s.dueEvery (tmRestored p c) (s.rd (Od.restoreTime p)) 64 then
    (s.disarm (tmRestored p c)).wr (Od.watchdogState p) (withBit (s.rd (Od.watchdogState p)) c false)
  else s)

end Sys2Proof.Machine
end

