-- ==== Sys2Proof/Machine/HostReset.lean ====
section
/-! DEFINITION. Machine/HostReset.lean: how device reads end, Bus Master Enable, function-level resets, links and
configuration requests (chapter "Host endpoint", R389 to R395, R409 to R414; R392, R429, R430). -/

namespace Sys2Proof.Machine

/-! ### The end of a read (R409 to R412, R414) -/

/-- The operation a read serves must learn of its end even when the data is discarded. -/
def DmaKind.tells : DmaKind → Bool
  | .txDescriptor => false
  | .rxDescriptor => false
  | .txPayload => false
  | .dirtyDescriptor => true
  | .dirtyMark => true
  | .lookAside => true
  | .storage => true
  | .rdma => true

/-- A transmit payload part has come, or failed: Status 2, or 3 for poison (R410). -/
def State.payloadEnded (s : State) (r : Dma) (poisoned : Bool) (data : Option (List Byte)) : State :=
  let q := s.qp r.queue
  let put (x : TxFrame) : TxFrame :=
    if x.id ≠ r.id then x
    else match data with
      | some bs => { x with parts := x.parts ++ [(r.part, bs)] }
      | none => { x with status := if poisoned then 3 else 2 }
  (s.setQp r.queue { q with building := q.building.map put }).txAdvance r.queue (q.building.length + 1)

/-- What a read's end does for what it was for: its data, or `none` where it failed. -/
def State.deliver (s : State) (r : Dma) (poisoned : Bool) (data : Option (List Byte)) : State :=
  match r.kind with
  | .txDescriptor =>
    match data with
    | some bs => let t := s.txDescribed r.queue (leNat bs); t.txAdvance r.queue ((t.qp r.queue).building.length + 1)
    | none => s.haltQueue r.queue
  | .rxDescriptor =>
    match data with
    | some bs => s.setQp r.queue { s.qp r.queue with rxDescs := (s.qp r.queue).rxDescs ++ [leNat bs] }
    | none => s.haltQueue r.queue
  | .txPayload => s.payloadEnded r poisoned data
  | .dirtyDescriptor => s.dirtyDescribed (r.id / 4096) (r.id % 4096) data
  | .dirtyMark => s.dirtyMarked r data
  | .lookAside => s.lookData r data
  | .storage => s.nvData r data
  | .rdma => s.rdmaData r data

/-- A read ends and what it served learns of it; discarded data is as good as none. -/
def State.conclude (s : State) (r : Dma) (poisoned : Bool) (data : Option (List Byte)) : State :=
  let s1 := s.endRead r
  if !r.discard then s1.deliver r poisoned data
  else if r.kind.tells then s1.deliver r poisoned none
  else s1

/-- The issued read of a function that holds a tag. -/
def State.readOf (s : State) (link fn tag : Nat) : Option Dma :=
  s.host.reads.find? (fun r => r.issued && r.fn == 4 * link + fn && r.tag == tag)

/-- COMPLETION (R409, R410): the data of a read, whole and good, or its failure; one with no request outstanding is
unexpected. -/
def execCompletion (link fn : Fin 4) (tag status : Nat) (poisoned : Bool) (data : List Byte) (s : State) : Res :=
  .next (if !(s.linkPresent link && s.hostLinkUp link) then s
    else match s.readOf link fn tag with
      | none => s.unexpected (4 * link.val + fn.val)
      | some r =>
        s.conclude r poisoned (if status = 0 ∧ poisoned = false ∧ data.length = r.len then some data else none))

/-- COMPLETION_TIMEOUT (R410, R411, R414): a read whose timeout has passed fails. [DESIGN CHOICE: log entry 3] -/
def execCompletionTimeout (link : Fin 4) (tag : Nat) (s : State) : Res :=
  .next (match s.host.reads.find? (fun r => r.issued && r.fn / 4 == link.val && r.tag == tag) with
    | none => s
    | some r =>
      if s.dueEvery (tmCompletion link tag) (s.msCourses r.limit) s.completionGrain then
        ((s.bump (Od.completionTimeouts r.fn)).raiseLimited 0x8A01 r.fn 1 r.fn).conclude r false none
      else s)

/-! ### Bus Master Enable (R413) -/

/-- Reads of a function that are no longer wanted: those not issued end, those issued are discarded when they end. -/
def State.dropReads (s : State) (mine : Dma → Bool) : State :=
  let gone := s.host.reads.filter (fun r => mine r && !r.issued)
  let s1 := gone.foldl (fun s r => if r.kind.tells then (s.endRead r).deliver r false none else s.endRead r) s
  { s1 with host := { s1.host with reads := s1.host.reads.map (fun r => if mine r then { r with discard := true }
                                                                        else r) } }

/-- A PF2 queue halts. [DESIGN CHOICE: log entry 165] -/
def State.haltNvq (s : State) (k : Nat) : State :=
  let q := s.nvq k
  let t := s.setNvq k { q with halted := true, entry := none, cqWaiting := [] }
  if !q.enable || q.halted then s
  else if (s.hostFn (nvqFn k)).resetting then t else t.raiseLimited 0x8A04 (nvqFn k) 1 k

/-- A function issues no more requests: its queues halt, what waits to be written is lost and, but in a function-level
reset, counted in BmeDiscards, its reads are discarded, a PF3's event ring halts, a PF1's look-aside requests end with 0x07.
[DESIGN CHOICE: log entry 165] -/
def State.silence (s : State) (f : Nat) : State :=
  let nets := s.host.queues.filter (fun e => qpFn e.1 == f)
  let records := (nets.map (fun e => e.2.cqWaiting.length)).sum
    + ((s.storage.queues.filter (fun e => nvqFn e.1 == f)).map (fun e => e.2.cqWaiting.length)).sum
  let s1 := nets.foldl (fun s e => (s.haltQueue e.1).setQp e.1 { (s.haltQueue e.1).qp e.1 with cqWaiting := [] }) s
  let s2 := (s.storage.queues.filter (fun e => nvqFn e.1 == f)).foldl (fun s e => s.haltNvq e.1) s1
  let (mine, others) := s2.switch.rx.partition (fun x => qpFn (s2.destQp x.dest) == f)
  let s3 := { s2 with switch := { s2.switch with rx := others } }
  let s4 := mine.foldl (fun s x =>
    (if x.via.isNone then s.poolGive (0x34 + f / 8) x.frame.bricks else s).dropCopy x.frame) s3
  let s5 := if mine.length + records = 0 ∨ (s.hostFn f).resetting = true then s4 else s4.addTo (Od.bmeDiscards f) (mine.length + records)
  let s6 := if f % 4 = 1 then s5.lookAbort (fun x => x.kind == 0 && x.link == f / 4) else s5
  let s7 := s6.dropReads (fun r => r.fn == f)
  if f % 4 == 3 && (s7.ring (f / 4)).enable then s7.setRing (f / 4) { s7.ring (f / 4) with halted := true } else s7

/-- Bus Master Enable of a function changes (R413). -/
def State.setBusMaster (s : State) (f : Nat) (on : Bool) : State :=
  let x := s.hostFn f
  if bitOf x.command 2 = on then s
  else
    let t := s.setHostFn f { x with command := withBit x.command 2 on }
    if on then t.pumpReads (f / 4) t.host.reads.length else t.silence f

/-- The function's configuration space answers: its link exists and is up, and no reset runs. -/
def State.configurable (s : State) (f : Nat) : Bool :=
  s.boot.phase == 2 && s.linkPresent (f / 4) && s.hostLinkUp (f / 4) && !(s.hostFn f).resetting
    && !(f % 4 == 2 && s.rd Od.modeInForce == 6)

/-- BUS_MASTER_ENABLE_CLEAR (R413). -/
def execBusMasterEnableClear (link fn : Fin 4) (s : State) : Res :=
  .next (if s.configurable (4 * link.val + fn.val) then s.setBusMaster (4 * link.val + fn.val) false else s)

/-- BUS_MASTER_ENABLE_SET (R413): halted queues stay halted. -/
def execBusMasterEnableSet (link fn : Fin 4) (s : State) : Res :=
  .next (if s.configurable (4 * link.val + fn.val) then s.setBusMaster (4 * link.val + fn.val) true else s)

/-! ### Function-level and slice resets (R392, R414, R429, R430) -/

/-- A read's timeout that lies more than 90 ms ahead is brought to 90 ms. -/
def State.capTimeout (s : State) (r : Dma) : State :=
  let key := tmCompletion (r.fn / 4) r.tag
  match s.timers.find? (fun e => e.1 == key) with
  | none => s
  | some e =>
    if s.course + s.msCourses 90 < e.2.armed + s.msCourses r.limit - e.2.carried then
      { s.arm key with host := { s.host with reads := s.host.reads.map (fun x => if x = r then { r with limit := 90 }
                                                                                  else x) } }
    else s

/-- Cap the outstanding timeouts of the reads of some requester. -/
def State.capTimeouts (s : State) (mine : Dma → Bool) : State :=
  (s.host.reads.filter (fun r => mine r && r.issued)).foldl (fun s r => s.capTimeout r) s

/-- A function-level reset begins (steps 1 and 2 of R414). -/
def State.beginReset (s : State) (f : Nat) : State :=
  if (s.hostFn f).resetting then s
  else ((s.setHostFn f { s.hostFn f with resetting := true }).silence f).capTimeouts (fun r => r.fn == f)

/-- INITIATE_FUNCTION_LEVEL_RESET (R414). -/
def execInitiateFunctionLevelReset (link fn : Fin 4) (s : State) : Res :=
  .next (if s.configurable (4 * link.val + fn.val) then s.beginReset (4 * link.val + fn.val) else s)

/-- Every slot a slice owns is zeroised, its ownership kept (R350). -/
def State.zeroiseSlots (s : State) (n : Nat) : State :=
  (s.cipher.slots.filter (fun e => e.2.owner == 2 && e.2.slice == n)).foldl (fun s e =>
    s.setKeySlot e.1 e.2.zeroised) s

/-- Interrupt-store entries of a slice are masked and no longer pend. -/
def State.maskSlice (s : State) (f n : Nat) : State :=
  let x := s.hostFn f
  let w := tblGet 0 x.windows n
  s.setHostFn f { x with store := (List.range (w % 128)).foldl (fun t v =>
    let i := bitField w 29 16 + v
    tblSet ImsEntry.fresh t i { tblGet ImsEntry.fresh t i with masked := true, pending := false }) x.store }

/-- The queue pairs of a function that belong to some slices are reset, contexts and all. -/
def State.resetQueues (s : State) (f : Nat) (mine : Nat → Bool) : State :=
  let nets := s.host.queues.filter (fun e => qpFn e.1 == f && mine (qpSlice e.1))
  let nvs := s.storage.queues.filter (fun e => decide (e.1 < 2 ^ 40) && qpFn e.1 == f && mine (qpSlice e.1))
  let s1 := nets.foldl (fun s e =>
    let t := s.resetQueue e.1
    t.setQp e.1 { QueuePair.fresh with epoch := (t.qp e.1).epoch, nextFrame := (t.qp e.1).nextFrame }) s
  nvs.foldl (fun s e => (s.resetNvq e.1).setNvq e.1 NvmeQueue.fresh) s1

/-- Controller 0 of a link is reset: its queues and commands are gone, its registers return to reset values; what its
namespaces hold is kept. -/
def State.resetCtrl (s : State) (link : Nat) : State :=
  let mine (k : Nat) : Bool := decide (2 ^ 40 ≤ k) && nvqLink k == link
  let cmds := s.storage.cmds.filter (fun c => mine c.queue)
  let s1 := cmds.foldl (fun s c => s.endNvme c) s
  ({ s1 with storage := { s1.storage with
      queues := s1.storage.queues.filter (fun e => !mine e.1) } }.disarm (tmIdle link)).setCtrl link
    { NvmeCtrl.fresh with errors := (s.ctrl link).errors, errorCount := (s.ctrl link).errorCount }

/-- Peer windows of a PF1 return to their reset values. -/
def State.resetWindows (s : State) (link : Nat) : State :=
  (s.windowsOf link).foldl (fun s w => s.setWindow (link / 2) w PeerWindow.fresh) s

/-- The context of a PF0 mailbox. -/
def mailboxCtx (link : Nat) : Nat := 100 + link

/-- The context of a PF3's pin blocks. -/
def pinCtx (link : Nat) : Nat := 200 + link

/-- A context's staged writes, transfer and read copy are discarded (R533, R548). -/
def State.dropContext (s : State) (ctx : Nat) : State :=
  { s with agent := { s.agent with
      staged := s.agent.staged.filter (fun e => e.1 != ctx)
      transfers := s.agent.transfers.filter (fun t => t.ctx != ctx)
      copies := s.agent.copies.filter (fun c => c.ctx != ctx)
      args := s.agent.args.filter (fun e => e.1 / 2 ^ 24 != ctx) } }

/-- What a function-level reset does once every request has ended (steps 4 and 5 of R414; R429): sticky AER bits stay. -/
def State.finishReset (s : State) (f : Nat) : State :=
  let link := f / 4
  let slices := (s.slices.blocks.filter (fun e => e.1 / 4096 == f && e.2.bound)).map (fun e => e.1 % 4096)
  let s1 := s.resetQueues f (fun _ => true)
  let s2 := slices.foldl (fun s n =>
    let t := s.zeroiseSlots n
    if f % 4 = 1 then t.rdmaSliceReset n else t) s1
  let s3 := { s2 with slices := { s2.slices with blocks := s2.slices.blocks.filter (fun e => e.1 / 4096 != f) } }
  let s4 := if f % 4 = 1 then s3.resetWindows link
    else if f % 4 = 2 then s3.resetCtrl link
    else if f % 4 = 3 then
      let t := (s3.setRing link EventRing.fresh).dropContext (pinCtx link)
      { t with host := { t.host with pinStatus := t.host.pinStatus.filter (fun e => e.1 / 32 != link) } }
    else
      let t := s3.dropContext (mailboxCtx link)
      { t with agent := { t.agent with mailboxes := tblDel t.agent.mailboxes link } }
  let x := s4.hostFn f
  (s4.setHostFn f { HostFn.fresh with aerUncorrectable := x.aerUncorrectable, aerCorrectable := x.aerCorrectable }).raise
    0x8A05 f

/-- FUNCTION_RESET_COMPLETE (R414): nothing the function asked for is outstanding any more. -/
def execFunctionResetComplete (link fn : Fin 4) (s : State) : Res :=
  let f := 4 * link.val + fn.val
  .next (if (s.hostFn f).resetting && !s.host.reads.any (fun r => r.fn == f) then s.finishReset f else s)

/-- A read that a slice's operation on a function waits for. -/
def ofSlice (f n : Nat) (r : Dma) : Bool := r.fn == f && r.slice == some n

/-- SLICE_RESET (R430): Reset 1 of a bound slice stops it on the function. Marks of its dirty log are still made. -/
def execSliceReset (k : SliceRef) (s : State) : Res :=
  let f := srFn k
  let n := k.slice.val
  let b := s.block f n
  .next (if !s.blockOpen k || !b.bound || b.resetPending then s
    else
      let s1 := s.setBlock f n { b with resetPending := true }
      let nets := s1.host.queues.filter (fun e => qpFn e.1 == f && qpSlice e.1 == n)
      let nvs := s1.storage.queues.filter (fun e => decide (e.1 < 2 ^ 40) && qpFn e.1 == f && qpSlice e.1 == n)
      let s2 := nvs.foldl (fun s e => s.stopNvq e.1) (nets.foldl (fun s e => s.stopQueue e.1) s1)
      let s3 := if k.fn.val = 1 then s2.lookAbort (fun x => x.kind == 0 && x.link == k.link.val && x.number == n) else s2
      (s3.dropReads (ofSlice f n)).capTimeouts (ofSlice f n))

/-- SLICE_RESET_COMPLETE (R430): the slice keeps its binding, Pasid, resource set and dirty log. -/
def execSliceResetComplete (k : SliceRef) (s : State) : Res :=
  let f := srFn k
  let n := k.slice.val
  .next (if (s.block f n).resetPending && !s.host.reads.any (ofSlice f n) then
    let s1 := ((s.resetQueues f (· == n)).maskSlice f n).zeroiseSlots n
    let s2 := if k.fn.val = 1 then s1.rdmaSliceReset n else s1
    (s2.setBlock f n { s2.block f n with resetPending := false }).raise 0x8A07 n
  else s)

/-! ### Links (R389 to R392, R595) -/

/-- A link goes down: each of its functions is reset as by a function-level reset (R392). -/
def State.hostLinkDown (s : State) (link : Nat) : State :=
  (List.range 4).foldl (fun s fn => s.beginReset (4 * link + fn)) (s.wr (Od.hostLinkStatus link) 0)

/-- HOST_LINK_RESET (R392): a hot reset or link-down. -/
def execHostLinkReset (link : Fin 4) (s : State) : Res :=
  .next (if s.linkPresent link && s.hostLinkUp link then s.hostLinkDown link else s)

/-- Every peer window of an upstream port returns to its reset value. -/
def State.freshWindows (s : State) (port : Nat) : State :=
  (List.range 64).foldl (fun s w => s.setWindow port w PeerWindow.fresh) s

/-- PERST_RELEASE (R390, R595): the port's strap is sampled; its links and all its peer windows are reset, and the links
train again. -/
def execPerstRelease (port : Fin 2) (strap : Bool) (s : State) : Res :=
  .next (if s.boot.phase = 2 then
    let s1 := s.hostLinkDown (2 * port.val)
    ((if s1.linkPresent (2 * port.val + 1) then s1.hostLinkDown (2 * port.val + 1) else s1).freshWindows port.val).wr
      (Od.bifurcation port) (boolNat strap) else s)

/-- HOST_LINK_UP (R389, R421): a link has trained; FLIT mode goes with 64 GT/s alone, and an x8x8 link is at most x8
wide. -/
def execHostLinkUp (link : Fin 4) (rate : Nat) (width : Nat) (s : State) : Res :=
  let wide := if s.rd (Od.bifurcation (link.val / 2)) = 1 then 8 else 16
  .next (if s.boot.phase = 2 ∧ s.linkPresent link = true ∧ s.hostLinkUp link = false ∧ 1 ≤ rate ∧ rate ≤ 6
      ∧ [1, 2, 4, 8, 16].contains width = true ∧ width ≤ wide then
    let t := s.wr (Od.hostLinkStatus link) (rate * 2 ^ 24 + width * 2 ^ 16 + boolNat (rate == 6) * 2 ^ 8 + 1)
    t.pumpReads link t.host.reads.length
  else s)

/-! ### Configuration space (R393 to R395) -/

/-- Device and vendor ID of a function. [PRESUMED: log entry 53] -/
def identityOf (fn : Nat) : Nat := (0x7250 + fn) * 2 ^ 16 + 0x1F5A

/-- Class code and Revision ID. [PRESUMED: log entry 53] -/
def classCode (fn : Nat) : Nat := [0x088000, 0x020000, 0x010802, 0x088000].getD fn 0 * 256 + 0xB0

/-- Size of a BAR as a power of two, 0 where it is absent: BAR0, BAR2, BAR4. [PRESUMED: log entry 53] -/
def barLog (fn n : Nat) : Nat :=
  if n = 0 then 20 else if n = 1 then (if fn = 0 then 0 else 25) else if fn = 1 then 36 else 0

/-- Send every message that pends and is masked no more. -/
def State.msixFlush (s : State) (f : Nat) : State :=
  ((s.hostFn f).msix.filter (fun e => e.2.pending)).foldl (fun s e => s.msixInterrupt f e.1) s

/-- A configuration register's value. [PRESUMED: log entry 53; DESIGN CHOICE: log entry 54] -/
def State.configRead (s : State) (f : Nat) (reg : CfgReg) : State × Nat :=
  let x := s.hostFn f
  match reg with
  | .identity => (s, identityOf (f % 4))
  | .classRevision => (s, classCode (f % 4))
  | .command => (s, x.command + 0x100000)
  | .bar n =>
    (s, if barLog (f % 4) n = 0 then 0 else x.bars.getD n 0 + 4 + (if n.val = 2 then 8 else 0))
  | .powerControl => (s, x.power)
  | .deviceControl => (s, x.deviceControl)
  | .deviceControl2 => (s, x.deviceControl2)
  | .msixControl => (s, x.msixControl)
  | .aerUncorrectable => (s, x.aerUncorrectable)
  | .aerCorrectable => (s, x.aerCorrectable)
  | .serial => (s, s.clockIdentity)
  | .other => s.openBits 44 32

/-- A write of a configuration register. [PRESUMED: log entry 53; DESIGN CHOICE: log entry 54] -/
def State.configWrite (s : State) (f : Nat) (reg : CfgReg) (v : Nat) : State :=
  let x := s.hostFn f
  match reg with
  | .identity => s
  | .classRevision => s
  | .command =>
    (s.setHostFn f { x with command := (v &&& 0x542) ||| (x.command &&& 4) }).setBusMaster f (bitOf v 2)
  | .bar n =>
    s.setHostFn f { x with bars := x.bars.set n.val (if barLog (f % 4) n = 0 then 0
      else v % 2 ^ 64 / 2 ^ barLog (f % 4) n * 2 ^ barLog (f % 4) n) }
  | .powerControl =>
    if v % 4 = 3 ∧ x.power = 0 then (s.setHostFn f { x with power := 3 }).silence f
    else if v % 4 = 0 then s.setHostFn f { x with power := 0 } else s
  | .deviceControl =>
    let t := s.setHostFn f { x with deviceControl := v % 2 ^ 15 }
    if bitOf v 15 then t.beginReset f else t
  | .deviceControl2 => s.setHostFn f { x with deviceControl2 := v % 2 ^ 16 }
  | .msixControl =>
    (s.setHostFn f { x with msixControl := 0x7FF + bitField v 15 14 * 2 ^ 14 }).msixFlush f
  | .aerUncorrectable =>
    s.setHostFn f { x with aerUncorrectable := x.aerUncorrectable - (x.aerUncorrectable &&& v) }
  | .aerCorrectable => s.setHostFn f { x with aerCorrectable := x.aerCorrectable - (x.aerCorrectable &&& v) }
  | .serial => s
  | .other => s

/-- CONFIGURATION_REQUEST (R393, R414, R595): a read (no value) or a write. Before stage 4 has completed, and during a
reset of the function, it completes with Request Retry Status; functions 4 to 7, and PF2 in mode 6, are not there. -/
def execConfigurationRequest (link : Fin 4) (fn : Fin 8) (reg : CfgReg) (value : Option (BitVec 64)) (s : State) : Res :=
  let f := 4 * link.val + fn.val % 4
  .next (if !s.linkPresent link || !s.hostLinkUp link then s
    else if 4 ≤ fn.val ∨ (fn.val = 2 ∧ s.rd Od.modeInForce = 6) then
      s.emit (.completion link fn 1 [])
    else if s.boot.phase ≠ 2 ∨ (s.hostFn f).resetting = true then s.emit (.completion link fn 2 [])
    else
      match value with
      | none =>
        let (t, v) := s.configRead f reg
        t.emit (.completion link fn 0 (leBytes (if reg = .serial then 8 else 4) v))
      | some v => (s.configWrite f reg v.toNat).emit (.completion link fn 0 []))

end Sys2Proof.Machine
end

