-- ==== Sys2Proof/Machine/Budget.lean ====
section
/-! DEFINITION. Machine/Budget.lean: status codes and their order (R20, R21), course budgets (R123, R124, R310). -/

namespace Sys2Proof.Machine

/-- The order in which failed checks are reported (R21). -/
def codeOrder : List Nat := [8, 1, 2, 3, 9, 5, 7, 4, 0x0A, 6, 0x0B]

/-- The status of a request whose failed checks are listed: the first of R21's order, 0 for none. -/
def pickCode (codes : List Nat) : Nat := (codeOrder.find? (fun c => codes.contains c)).getD 0

/-- A unit instance's budget and demand: tile, unit code, instance, budget, demand. -/
structure Load where
  tile : Nat
  unit : Nat
  instance_ : Nat
  budget : Nat
  demand : Nat
  deriving DecidableEq, Repr

/-- Cycles an action's program asks for at a course length. -/
def State.actionDemand (s : State) (q l : Nat) (a : Action) : Nat :=
  if a.trowelEnable then
    match s.program q a.trowelEntry with
    | some p => ceilDiv (a.frameLimit * l) 1000 * p.worst
    | none => 0
  else 0

/-- Cycles a rule asks for at a course length: of its own action, or of the most that an exact-match entry it chains to
makes of it (R274, R277). -/
def State.ruleDemand (s : State) (t l : Nat) (r : Nat × Rule) : Nat :=
  let x := s.ternary t
  let epoch := if x.staged then 1 - x.epoch else x.epoch
  let a := actionOf r.2.action
  let e := s.exact a.exactTable
  let chained := if r.1 = 0 ∧ a.exactEnable = true then
      (e.entries.filter e.holds).map (fun y => s.actionDemand (pipeNo t r.1) l (a.merge (actionOf y.action)))
    else []
  if bitOf r.2.live epoch then chained.foldl max (s.actionDemand (pipeNo t r.1) l a) else 0

/-- Unit 1: the Trowel engines of a pipeline; 4.8 cycles per ns where one is lost (R310). -/
def State.engineLoad (s : State) (l t i : Nat) : Load :=
  let rate := if (s.pipe (pipeNo t i)).lost then 48 else 64
  ⟨t, 1, i, rate * l / 10 - 64,
    (((s.tileRules t).filter (fun r => r.1 == i)).map (s.ruleDemand t l)).sum⟩

/-- Unit 2: gate control of a port, of the list in force and of one that waits. -/
def State.gateLoad (s : State) (l p : Nat) : Load :=
  let of (g : Option GateList) : Nat := match g with | some g => g.demand l | none => 0
  ⟨p / 8, 2, p % 8, 4, max (of (s.egress p).gate) (of (s.egress p).gatePending)⟩

/-- Tile whose timer unit holds a timer, by its key (R123). [DESIGN CHOICE: log entry 94] -/
def State.timerTile (s : State) (key : Nat) : Nat :=
  let kind := key / 2 ^ 160
  let inst := key % 2 ^ 160
  if (8 ≤ kind ∧ kind ≤ 12) ∨ kind = 65 ∨ kind = 66 then inst / 8
  else if kind = 68 ∨ kind = 69 then inst / 64
  else if kind = 20 then 0x34 + inst / 2 ^ 21
  else if kind = 21 then
    match s.storage.backing.find? (fun b => b.id == inst) with
    | some b => 0x30 + (s.nspace b.ns).tile
    | none => 0x30
  else if kind = 22 then 0x30
  else if kind = 23 then 0x34 + inst / 2
  else if kind = 25 ∨ kind = 26 then 0x30 + rdmaTile inst
  else 0x38

/-- Granularity of a timer's class (R116): 64 for the PFC storm timers (R493), by the length of the course for the
completion, backing, idle, acknowledgement and neighbour timers (R411, R465, R490, R243), else 1. -/
def State.timerGrain (s : State) (kind : Nat) : Nat :=
  if kind = 14 then s.helloGrain
  else if kind = 20 then s.completionGrain
  else if kind = 21 ∨ kind = 23 then s.grainOf 1000000
  else if kind = 25 then s.grainOf 1048576
  else if kind = 68 ∨ kind = 69 then 64
  else 1

/-- Unit 3: a tile's timer unit, each class at its granularity at the length `l` (R108).
[DESIGN CHOICE: log entry 94] -/
def State.timerLoad (s : State) (l tile : Nat) : Load :=
  let mine := s.timers.filter (fun e => s.timerTile e.1 == tile)
  let kinds := (mine.map (fun e => e.1 / 2 ^ 160)).dedup
  let there := s.wr Od.courseLength l
  ⟨tile, 3, 0, 8 * l / 10 - 16, (kinds.map (fun k =>
    ceilDiv (mine.filter (fun e => e.1 / 2 ^ 160 == k)).length (there.timerGrain k))).sum⟩

/-- Unit 4: the commit agent: the commits that apply at the next boundary. -/
def State.commitLoad (s : State) : Load := ⟨0x38, 4, 0, 64, s.commitsAt (s.course + 1)⟩

/-- Unit 5: aligned-queue release of a host tile. -/
def State.alignedLoad (s : State) (l i : Nat) : Load :=
  ⟨0x34 + i, 5, 0, 12 * l / 10 - 16, ((List.range 128).map (fun k =>
    let q := 128 * i + k
    if s.rdB (Od.alignedEnable q) then ceilDiv (s.rd (Od.maxRate q) * l) 672 else 0)).sum⟩

/-- Every unit instance at a course length, in the order of BudgetReport. [DESIGN CHOICE: log entry 94] -/
def State.loads (s : State) (l : Nat) : List Load :=
  ((List.range 32).map (fun t => [s.engineLoad l t 0, s.engineLoad l t 1])).flatten
    ++ (List.range 256).map (s.gateLoad l)
    ++ (List.range 32 ++ [0x30, 0x31, 0x32, 0x33, 0x34, 0x35, 0x38]).map (s.timerLoad l)
    ++ [s.commitLoad, s.alignedLoad l 0, s.alignedLoad l 1]

/-- The first unit instance whose demand exceeds its budget at a course length. -/
def State.overload (s : State) (l : Nat) : Option Load := (s.loads l).find? (fun x => decide (x.budget < x.demand))

/-- Identification of an instance: the first four fields of its BudgetReport record.
[DESIGN CHOICE: log entry 140] -/
def Load.ident (x : Load) : Nat := x.tile * 2 ^ 58 + x.unit * 2 ^ 54 + x.instance_ * 2 ^ 51

/-- BudgetReport (R124). [DESIGN CHOICE: log entry 140] -/
def State.budgetReportRead (s : State) : List Byte :=
  ((s.loads s.len).map (fun x => beBytes 8 (x.ident + x.budget % 2 ^ 24 * 2 ^ 24 + x.demand % 2 ^ 24))).flatten

/-- A write or commit is refused with 0x0B (R123). -/
def State.budgetRefused (s : State) (x : Load) : State :=
  (s.bump Od.budgetRefusals).raiseLimited 0x2A0C x.unit 1 x.ident

/-- The course length a mode change asks for, 0 to keep the length in force (R128). -/
def State.lengthFor (s : State) (target : Nat) : Nat :=
  if target = 2 then (if s.len = 250 then 0 else 250)
  else if target ≤ 5 ∧ s.len = 250 then 1000
  else 0

/-- The lengths a write is checked at: the one in force, and that of a mode change awaiting its flip (R611). -/
def State.checkedLengths (s : State) : List Nat :=
  match s.modeChange.target with
  | some _ => if s.modeChange.length = 0 then [s.len] else [s.len, s.modeChange.length]
  | none => [s.len]

/-- The first overload at any length a write is checked at. [DESIGN CHOICE: log entry 94] -/
def State.overloaded (s : State) : Option Load := s.checkedLengths.findSome? s.overload

end Sys2Proof.Machine
end

