-- ==== Sys2Proof/Machine/Modes.lean ====
section
/-! DEFINITION. Machine/Modes.lean: changes among the operating modes, mode 7, fatal faults (chapter "Operating modes",
R127, R134, R136 to R147, R611; R569, R594). -/

namespace Sys2Proof.Machine

/-- The key an item writes. -/
def Item.key : Item → Nat
  | .num k _ => k
  | .raw k _ => k

/-! ### The checks of a change (R137, R128) -/

/-- Pseudo-channels of an activity now that it holds in the target mode too (R134). -/
def State.keptPcs (s : State) (target activity : Nat) : Nat :=
  ((List.range 16).filter (fun c =>
    s.rd (Od.pcActivity c) == activity && (pcActivities target).getD c 0 == activity)).length

/-- Bytes of live HBM data of an activity: what the model holds for it, by the sizes of its records.
[DESIGN CHOICE: log entry 93] -/
def State.liveHbm (s : State) (activity : Nat) : Nat :=
  if activity = 1 then 16 * (s.fwd.fdb.filter (fun e => e.2.hbm)).length
    + 64 * (s.classify.exact.map (fun e => e.2.entries.length)).sum
  else if activity = 2 then 128 * s.rdma.qps.length + 64 * (s.rdma.cqs.length + s.rdma.regions.length)
  else if activity = 3 then 8 * s.storage.map.length
  else if activity = 4 then 4096 * s.poolUsed 0x40
  else 4096 * s.rd Od.hbmCoreBuffers + 33554432 + s.rd (Od.peerRegionSize 0) + s.rd (Od.peerRegionSize 1)

/-- What is in use beyond the target's limits. -/
def State.overLimits (s : State) (target : Nat) : Bool :=
  let locks (t : Nat) : Nat :=
    (s.storage.cmds.filter (fun c => c.granted && c.lock.isSome && c.tile == t)).length
  let streams := ((List.range 8192).filter (fun n => bitOf (beNat (slice (s.dom Od.streamTable) (8 * n) 8)) 63)).length
  qpLimit target < s.rdma.qps.length
    || namespaceLimit target < (s.storage.namespaces.filter (fun e => nsPresent e.2)).length
    || exactLimit target < (s.classify.exact.map (fun e => e.2.entries.length)).sum
    || streamLimit target < streams
    || (List.range 4).any (fun t => rangeLockLimit target < locks t)

/-- A core that runs in the present mode and is withheld in the target. [DESIGN CHOICE: log entry 93] -/
def State.coresWithheld (s : State) (target : Nat) : Bool :=
  (List.range 96).any (fun n => coreUsable s.mode n && !coreUsable target n)

/-- A change is in progress, or its migrations are. -/
def State.changing (s : State) : Bool := s.modeChange.target.isSome || !s.modeChange.migrating.isEmpty

/-- What is in use does not fit a target mode (R137): `stopped` says that the cores the target withholds are stopped. -/
def State.exceeds (s : State) (target : Nat) (stopped : Bool) : Bool :=
  s.overLimits target
    || s.trowel.programs.any (fun e => decide (worstPathLimit target < e.2.worst))
    || [1, 2, 3, 4, 5].any (fun a => s.keptPcs target a * 1500000000 < s.liveHbm a)
    || (s.coresWithheld target && !stopped)
    || (s.mode == 5 && target != 5 && decide (524288 < s.fwd.fdb.length))
    || (target == 1 && (s.rdma.qps.any (fun e => decide (2 ≤ rdmaTile e.1))
          || s.storage.namespaces.any (fun e => nsPresent e.2 && decide (2 ≤ e.2.tile))))
    || (target == 4 && (List.range 256).any (fun p => s.rdB (Od.portEnable p) && !s.sealedValid p))

/-- The codes of the checks a change to a target fails (R137). [DESIGN CHOICE: log entry 93] -/
def State.modeCodes (s : State) (target : Nat) (stopped : Bool) : List Nat :=
  let l := if s.lengthFor target = 0 then s.len else s.lengthFor target
  (if s.changing || (s.lengthFor target != 0 && s.rd Od.coursePending != 0) then [6] else [])
    ++ (if (s.overload l).isSome then [0x0B] else [])
    ++ (if s.exceeds target stopped then [0x0A] else [])

/-- While a change awaits its flip, a write that would leave its target's limits exceeded (R611). -/
def State.targetCodes (before after : State) : List Nat :=
  match before.modeChange.target with
  | some t => if after.exceeds t true && !before.exceeds t true then [0x0A] else []
  | none => []

/-! ### ModeChangeStatus -/

/-- ModeChangeStatus from its fields (R148). -/
def changeStatus (state from_ target pc remaining : Nat) : Nat :=
  state * 2 ^ 28 + from_ * 2 ^ 24 + target * 2 ^ 20 + pc * 2 ^ 16 + remaining * 2 ^ 8

/-- Pseudo-channels that change activity, in order, with their new activity (R140). -/
def State.migrations (s : State) (target : Nat) : List (Nat × Nat) :=
  (List.range 16).filterMap (fun c =>
    let a := (pcActivities target).getD c 0
    if s.rd (Od.pcActivity c) = a then none else some (c, a))

/-- FAULT_N (R594): low in mode 7, in recovery, before stage 3 and while REFCLK_SYS is absent. -/
def State.driveFault (s : State) : State :=
  let low := s.rd Od.modeInForce == 7 || s.boot.phase != 2 || s.rd Od.refclkSysState != 0
  if low = s.package.fault then s
  else { s with package := { s.package with fault := low } }.emit (.pin "FAULT_N" 0 (!low) s.now)

/-- A change is accepted (R138, R141). -/
def State.beginChange (s : State) (target : Nat) (leaving : Bool) : State :=
  let n := (s.migrations target).length
  let l := if s.lengthFor target = 0 then s.len else s.lengthFor target
  let s1 := { s with modeChange := { s.modeChange with
    target := some target, leaving := leaving, length := s.lengthFor target, flipCourse := s.applyCourse,
    stopping := false } }
  (s1.wr Od.modeChangeStatus (changeStatus 1 (s.rd Od.modeInForce) target 0 n)).wr Od.repartitionBound
    (2 + n * ceilDiv 250000000 l)

/-- Nothing is in progress any more. -/
def State.changeIdle (s : State) : State :=
  ({ s with modeChange := { s.modeChange with target := none, leaving := false, length := 0, migrating := [],
                                              stopping := false } }.wr Od.modeChangeStatus 0).wr Od.repartitionBound 0

/-- The change is abandoned (R611): its own write of OperatingMode, which has not applied, goes with it. A leave of mode 7
that is abandoned keeps OperatingMode, since mode 7 is never persisted (R147). [DESIGN CHOICE: log entry 128] -/
def State.abandonChange (s : State) (code : Nat) : State :=
  let s1 := s.changeIdle
  let s2 := if s1.rd Od.modeInForce = 7 then s1 else
      { s1 with agent := { s1.agent with crs := s1.agent.crs.filter (fun c => c.item.key != Od.operatingMode) } }.wrPersist
        Od.operatingMode (s1.rd Od.modeInForce)
  s2.raise 0x1A25 code

/-- The Keystone commits a new CourseLength (R107): it takes effect at the first whole second that begins at least two
courses of the old length later. [DESIGN CHOICE: log entry 129] -/
def State.commitLength (s : State) (l : Nat) : State :=
  let s1 := s.wr Od.coursePending l
  { s1 with clock := { s1.clock with lengthAt := ceilDiv (s.now + 2 * s.lenTicks) secTicks * secTicks } }

/-- Headroom of a tile's ports exceeds the mode's pool (R190). -/
def State.headroomBad (s : State) (t : Nat) : Bool :=
  decide (headroomPool s.mode <
    (((s.tilePorts t).map (fun p => ((List.range 7).map (fun c => s.rd (Od.headroomBricks p c))).sum)).sum))

/-- The flip boundary (R138): the target's resources are in force, and the migrations begin (R140); what is left of a fault
in mode 7 is forgotten (R147), write-back resumes (R468), and each tile whose headroom a smaller pool no longer holds is told (R190).
[DESIGN CHOICE: log entry 128] -/
def State.flip (s : State) (target : Nat) : State :=
  let old := s.rd Od.modeInForce
  let moves := s.migrations target
  let shares := cacheShares target
  let s0 := (s.wr Od.modeInForce target).raise 0x1A20 (old * 16 + target)
  let s1 := if s.modeChange.leaving then s0.raise 0x1A23 (old * 16 + target) else s0
  let s2 := (List.range 5).foldl (fun s i => s.wr (Od.cacheShare i) (shares.getD i 0)) s1
  let shrinks := decide (headroomPool s2.mode < headroomPool s.mode)
  let s2 := forEach ((List.range 32).filter (fun t => shrinks && s2.headroomBad t)) (fun t s => s.raise 0x4A02 t) s2
  let s3 := { s2 with modeChange := { s2.modeChange with target := none, leaving := false, length := 0,
                                                         migrating := moves, copied := false } }
  let s4 := if s.modeChange.leaving then
      s3.storage.namespaces.foldl (fun s e => s.pumpJournal e.1) { s3 with keystone := { s3.keystone with fatals := [] } }
    else s3
  match moves with
  | [] => (s4.changeIdle.raise 0x1A21 target).driveFault
  | m :: _ => (s4.wr Od.modeChangeStatus (changeStatus 2 old target m.1 moves.length)).driveFault

/-- PC_MIGRATION_COMPLETE (R140): the copy of the pseudo-channel that migrates is complete. It passes to its new activity
at the boundary that follows. -/
def execPcMigrationComplete (s : State) : Res :=
  .next (if s.modeChange.migrating = [] then s
    else { s with modeChange := { s.modeChange with copied := true } })

/-- The pseudo-channel whose copy is complete passes to its new activity (R140), and the next migration begins at the same
boundary, unless mode 7 has stopped the change (R141, R145). -/
def State.migrationPass (s : State) : State :=
  if !s.modeChange.copied then s else
  match s.modeChange.migrating with
    | [] => s
    | (pc, activity) :: rest =>
      let s1 := { s with modeChange := { s.modeChange with copied := false } }.wr (Od.pcActivity pc) activity
      let status := s1.rd Od.modeChangeStatus
      if s1.modeChange.stopping || rest.isEmpty then
        let s2 := s1.changeIdle
        if s1.modeChange.stopping then s2 else s2.raise 0x1A21 (bitField status 23 20)
      else
        let s2 := { s1 with modeChange := { s1.modeChange with migrating := rest } }
        s2.wr Od.modeChangeStatus (changeStatus 2 (bitField status 27 24) (bitField status 23 20)
          ((rest.headD (0, 0)).1) rest.length)

/-! ### Mode 7 (R145, R146, R569) -/

/-- A fatal fault (R569, R145, R563): mode 7 is entered at the next boundary; an activation before S is aborted; in mode
7 the fault is logged and remembered (R570). -/
def State.fatal (s : State) (code param : Nat) : State :=
  let s1 := s.raise code param
  let state := bitField (s1.rd Od.activationStatus) 31 28
  let s2 := if state = 1 ∨ state = 2 then
      ({ s1 with activation := ⟨0, [], [], [], false, []⟩ }.wr Od.activationStatus
        (bitField (s1.rd Od.activationStatus) 27 27 * 2 ^ 27 + s1.rd Od.activationStatus % 2 ^ 16)).raise 0xCA07 code
    else s1
  if s2.rd Od.modeInForce = 7 then { s2 with keystone := { s2.keystone with fatals := code :: s2.keystone.fatals } }
  else { s2 with modeChange := { s2.modeChange with safe := some (s2.modeChange.safe.getD code) } }

/-- A tile's Fault bit is set (R42, R535). -/
def State.tileFault (s : State) (tile : Nat) : State :=
  if s.keystone.faults.contains tile then s
  else { s with keystone := { s.keystone with faults := tile :: s.keystone.faults } }.fatal 0xBA13 tile

/-- Item of the ternary or exact-match tables that a kept commit stages. -/
def commitsTouch (l : List Commit) (key : Nat) : Bool :=
  l.any (fun c => c.items.any (fun i => i.key == key))

/-- Accepted writes and commits that have not applied are discarded, those of the Keystone apart (R146): also what a tile has
not received, what they had staged in the tables, and a microcode patch that waits. What they put into MRAM at their
acceptance stands. [DESIGN CHOICE: log entry 152] -/
def State.discardAccepted (s : State) : State :=
  let kept := s.agent.commits.filter (fun c => c.ctx == 0)
  let s1 := { s with
    agent := { s.agent with
      crs := s.agent.crs.filter (fun c => c.ctx == 0)
      commits := kept
      lost := s.agent.lost.filter (fun d => d.signed) }
    host := { s.host with windows := s.host.windows.map (fun e => (e.1, { e.2 with pending := false })) }
    classify := { s.classify with
      ternary := s.classify.ternary.map (fun e =>
        if e.2.staged && !commitsTouch kept (Od.ternaryUpdate e.1) then (e.1, e.2.unstage) else e)
      exact := s.classify.exact.map (fun e =>
        if e.2.staged && !commitsTouch kept (Od.exactUpdate e.1) then (e.1, e.2.unstage) else e) } }
  if s.rd Od.patchStatus = 1 ∧ commitsTouch kept Od.microcodePatch = false then s1.wr Od.patchStatus 0 else s1

/-- Host functions PF1 to PF3, cores and service tiles stop. -/
def State.stopServices (s : State) : State :=
  let fns := (List.range 16).filter (fun f => f % 4 != 0)
  let s1 := fns.foldl (fun s f => s.silence f) s
  let s2 := (s1.lookAbort (fun _ => true))
  let s3 := forEach (List.range 4) (fun l s => s.setCtrl l { s.ctrl l with fatal := true }) s2
  let s4 := forEach (List.range 96) (fun n s => s.reclaim (coreOwner n)) s3
  forEach (List.range 4) (fun t s =>
    let n := tblGet 0 s.hod.used (0x30 + t)
    (if n = 0 then s else s.poolGive (0x30 + t) n).raise 0x4A09 (((0x30 + t) * 64 + 0x30) * 2 ^ 32 + n)) s4

/-- Entry to mode 7 (R145, R146): a change in progress keeps the migration under way and no other; a course length it had
committed is cancelled, and 0x1A24 may be logged again in mode 7. [DESIGN CHOICE: log entry 128] -/
def State.enterSafe (s : State) (cause : Nat) : State :=
  let cancel := s.modeChange.target.isSome && s.modeChange.length != 0
  let s1 := if cancel then s.wr Od.coursePending 0 else s
  let mig := s1.modeChange.migrating.take 1
  let s2 := { s1 with modeChange := { s1.modeChange with target := none, leaving := false, length := 0, safe := none,
                                                         migrating := mig, stopping := !mig.isEmpty,
                                                         pendingLogged := false } }
  let s3 := ((s2.wr Od.modeBeforeSafe (s.rd Od.modeInForce)).wr Od.modeInForce 7).wr Od.safeModeCause cause
  let s4 := if mig.isEmpty then (s3.wr Od.modeChangeStatus 0).wr Od.repartitionBound 0 else s3
  ((s4.raise 0x1A22 cause).stopServices.discardAccepted).driveFault

/-- Entry to mode 7 before anything else; then the flip of a change, or the commit of its length (R108, R611). -/
def State.modeTurn (s : State) : State :=
  match s.modeChange.safe with
  | some cause =>
    if s.keystone.restarting then s
    else if s.rd Od.modeInForce = 7 then { s with modeChange := { s.modeChange with safe := none } }
    else s.enterSafe cause
  | none =>
    match s.modeChange.target with
    | none => s
    | some m =>
      let l := s.modeChange.length
      if s.course < s.modeChange.flipCourse then s
      else if l = 0 ∨ s.len = l then s.flip m
      else if s.rd Od.coursePending = 0 then
        match s.overload l with
        | some _ => s.abandonChange 0x0B
        | none => s.commitLength l
      else s

/-- Step 6 of a boundary: the turn of the mode, then the migration whose copy is complete (R140). -/
def State.modeBoundary (s : State) : State := s.modeTurn.migrationPass

/-- ModeChangeStatus shows whether the start-up mode differs from the mode in force (R144). -/
def State.startupCheck (s : State) : State :=
  if s.changing then s
  else if s.rd Od.operatingMode ≠ s.mode then
    let s1 := s.wr Od.modeChangeStatus (changeStatus 3 (s.rd Od.modeInForce) (s.rd Od.operatingMode) 0 0)
    if s1.modeChange.pendingLogged then s1
    else { s1 with modeChange := { s1.modeChange with pendingLogged := true } }.raise 0x1A24 (s1.rd Od.operatingMode)
  else { s.wr Od.modeChangeStatus 0 with modeChange := { s.modeChange with pendingLogged := false } }

/-- The condition of a fatal fault persists (R570). -/
def State.persists (s : State) (code : Nat) : Bool :=
  if code = 0xBA10 ∨ code = 0xBA11 then true
  else if code = 0xBA12 then !s.keystone.timeFaults.isEmpty
  else if code = 0xBA13 then !s.keystone.faults.isEmpty
  else if code = 0xBA14 then s.keystone.second.any (fun e => s.course < e.2 + 1000000000)
  else false

/-- Mode 7 may not be left while a fault persists (R570). -/
def State.faultPersists (s : State) : Bool :=
  !s.keystone.faults.isEmpty || (s.rd Od.safeModeCause :: s.keystone.fatals).any s.persists

end Sys2Proof.Machine
end

