-- ==== Sys2Proof/Machine/Images.lean ====
section
/-! DEFINITION. Machine/Images.lean: images, slots, fuses, measurements, activation and fast wake as far as a write of
the dictionary starts or meets them (chapters "Keystone partition, secure start and images", R511 to R524, and
"Continuous service: upgrades, mixed versions, faults", R557 to R563). -/

namespace Sys2Proof.Machine

/-! ### Slots and images (R511) -/

/-- The bytes of slot 0 (A) or 1 (B). -/
def State.slotBytes (s : State) (n : Nat) : List Byte := if n = 0 then s.boot.slotA else s.boot.slotB

/-- Put the bytes of a slot. -/
def State.setSlot (s : State) (n : Nat) (bs : List Byte) : State :=
  if n = 0 then { s with boot := { s.boot with slotA := bs } } else { s with boot := { s.boot with slotB := bs } }

/-- SequenceNumber of an image. -/
def imageSequence (bs : List Byte) : Nat := beAt bs 8 4

/-- SecurityVersion of an image. -/
def imageSvn (bs : List Byte) : Nat := beAt bs 12 2

/-- SupportedLevel of an image. -/
def imageLevel (bs : List Byte) : Nat := beAt bs 14 2

/-- KeyIndex of an image. -/
def imageKey (bs : List Byte) : Nat := beAt bs 16 1

/-- The component entries of an image that are in use: type, version, offset, length, digest. -/
def imageEntries (bs : List Byte) : List (Nat × Nat × Nat × Nat × List Byte) :=
  ((chunks 64 8 (slice bs 0x40 512)).map (fun e => (beAt e 0 1, beAt e 4 4, beAt e 8 4, beAt e 12 4, slice e 16 48))).filter
    (fun e => e.1 != 0)

/-- The bytes of a component. -/
def componentBytes (bs : List Byte) (e : Nat × Nat × Nat × Nat × List Byte) : List Byte := slice bs e.2.2.1 e.2.2.2.1

/-- Components of an image: type, version, digest. -/
def imageParts (bs : List Byte) : List (Nat × Nat × List Byte) :=
  (imageEntries bs).map (fun e => (e.1, e.2.1, e.2.2.2.2))

/-- Types 0x01 to 0x05 each exactly once, components inside the image and not overlapping (R511 code 9). -/
def componentsOk (bs : List Byte) : Bool :=
  let es := imageEntries bs
  let len := beAt bs 0x14 4
  let clear (a b : Nat × Nat × Nat × Nat × List Byte) : Bool :=
    decide (a.2.2.1 + a.2.2.2.1 ≤ b.2.2.1) || decide (b.2.2.1 + b.2.2.2.1 ≤ a.2.2.1)
  [1, 2, 3, 4, 5].all (fun t => (es.filter (fun e => e.1 == t)).length == 1)
    && es.all (fun e => e.2.2.1 % 4096 == 0 && decide (e.2.2.1 + e.2.2.2.1 ≤ len))
    && (List.range es.length).all (fun i => (List.range i).all (fun j =>
        clear (es.getD i (0, 0, 0, 0, [])) (es.getD j (0, 0, 0, 0, []))))

/-- The code of the first slot check that fails (R511), under given fuses: revoked image keys and FusedSvn. -/
def slotCheck (revoked : Nat → Bool) (svn : Nat) (readBad : Bool) (bs : List Byte) : Nat :=
  let signed := slice bs 0 0xD00
  let ecKey := slice bs 0x240 97
  let mlKey := slice bs 0x2C0 2592
  if readBad then 11
  else if beAt bs 0 4 ≠ 0x5058494D then 1
  else if beAt bs 4 2 ≠ 1 ∨ beAt bs 6 2 ≠ 8192 ∨ 67108864 < beAt bs 0x14 4 ∨ beAt bs 0x14 4 < 8192
      ∨ beAt bs 0x11 1 < 5 ∨ 8 < beAt bs 0x11 1 then 2
  else if imageSequence bs = 0 ∨ imageSequence bs = 0xFFFFFFFF then 3
  else if 3 < imageKey bs ∨ revoked (imageKey bs) = true then 4
  else if Config.sha384 ecKey ≠ Config.fusedHash false (imageKey bs) false
      ∨ Config.sha384 mlKey ≠ Config.fusedHash false (imageKey bs) true then 5
  else if Config.ecdsaGood ecKey signed (slice bs 0xD00 96) = false then 6
  else if Config.mldsaGood mlKey signed (slice bs 0xD60 4627) = false then 7
  else if imageSvn bs < svn then 8
  else if componentsOk bs = false then 9
  else if (imageEntries bs).any (fun e => decide (Config.sha384 (componentBytes bs e) ≠ e.2.2.2.2)) then 10
  else 0

/-- The check of a slot as the fuses stand. -/
def State.slotCode (s : State) (readBad : Bool) (n : Nat) : Nat :=
  slotCheck (fun i => s.rdB (Od.imageKeyRevoked i)) (s.rd Od.fusedSvn) readBad (s.slotBytes n)

/-- SlotStatus with one slot's code replaced (R528). -/
def State.noteSlot (s : State) (n code : Nat) : State :=
  let v := s.rd Od.slotStatus
  s.wr Od.slotStatus (if n = 0 then code * 256 + v % 256 else v / 256 * 256 + code)

/-- The sequence entry of a slot: its SequenceNumber when valid, else 0 (R512). -/
def State.noteSequence (s : State) (n code : Nat) : State :=
  s.wr (Od.slotSequence n) (if code = 0 then imageSequence (s.slotBytes n) else 0)

/-- Check a slot now and record the outcome. -/
def State.checkSlot (s : State) (n : Nat) : State :=
  let c := s.slotCode false n
  (s.noteSlot n c).noteSequence n c

/-- The other slots' image stays valid after a burn (R521). -/
def State.burnLeaves (s : State) (revoked : Nat → Bool) (svn : Nat) : Bool :=
  let a := s.rd Od.activeSlot
  ((List.range 2).filter (fun n => n != a)).any (fun n => slotCheck revoked svn false (s.slotBytes n) == 0)

/-- An image download is under way. -/
def State.downloading (s : State) : Bool := s.agent.transfers.any (fun t => t.key == Od.imageDownload && t.failed == 0)

/-! ### Measurements and identities (R515, R516, R526) -/

/-- Digest in force of a component type; 48 zero bytes where none is recorded. -/
def State.partDigest (s : State) (type : Nat) : List Byte :=
  match s.boot.parts.find? (fun x => x.1 == type) with
  | some x => sized 48 x.2.2
  | none => List.replicate 48 0

/-- The fuse state: revocation bits and FusedSvn. -/
def State.fuses (s : State) : List Byte :=
  (List.range 4).map (fun i => BitVec.ofNat 8 (s.rd (Od.imageKeyRevoked i)))
    ++ (List.range 4).map (fun i => BitVec.ofNat 8 (s.rd (Od.microcodeKeyRevoked i))) ++ beBytes 1 (s.rd Od.fusedSvn)

/-- Measurement 8: the fuse state. -/
def State.fuseDigest (s : State) : List Byte := Config.sha384 s.fuses

/-- The bytes of a patch, as measurement 7 takes them. -/
def patchBytes (p : Patch) : List Byte :=
  beBytes 2 p.level ++ (p.words.map (fun w => beBytes 1 w.1 ++ beBytes 3 w.2)).flatten
    ++ ((p.updates.filter (fun u => decide (u.2.2 < 4096))).map (fun u => beBytes 1 u.1 ++ beBytes 3 (u.2.1 * 2 ^ 18 + u.2.2))).flatten

/-- Measurement 7: the patch in force, 48 zero bytes when none. -/
def State.patchDigest (s : State) : List Byte :=
  match s.trowel.patch with
  | none => List.replicate 48 0
  | some p => if p.level = 0 then List.replicate 48 0 else Config.sha384 (patchBytes p)

/-- The KS entries in force, by key, whose digest measurement 9 takes. -/
def State.ksBytes (s : State) : List Byte :=
  let ks (k : Nat) : Bool := match odRow? k with | some r => r.access.ks | none => false
  ((s.dict.filter (fun e => ks e.1)).map (fun e => beBytes 3 e.1 ++ beBytes 16 e.2)).flatten
    ++ ((s.doms.filter (fun e => ks e.1)).map (fun e => beBytes 3 e.1 ++ e.2)).flatten

/-- The nine measurement blocks (R515). -/
def State.measurement (s : State) (i : Nat) : List Byte :=
  if i = 1 then Config.romDigest
  else if i ≤ 6 then (if s.boot.phase = 3 then List.replicate 48 0xFF else s.partDigest (i - 1))
  else if i = 7 then s.patchDigest
  else if i = 8 then s.fuseDigest
  else Config.sha384 (beBytes 1 (s.rd Od.modeInForce) ++ s.ksBytes)

/-- CDI1, or the recovery CDI (R515, R526). -/
def State.cdi (s : State) : List Byte :=
  if s.boot.phase = 3 then Config.hmac384 Config.cdi0 (List.replicate 48 0xFF ++ s.fuseDigest)
  else Config.hmac384 Config.cdi0 (([2, 3, 4, 5, 6, 8].map s.measurement).flatten)

/-- The certificate chain, root first (R517). -/
def State.chain (s : State) : List Byte :=
  Config.factoryChain ++ Config.aliasCert s.cdi (((List.range 7).map (fun i => s.measurement (i + 2))).flatten)

/-- The Alias key is derived again (R516). -/
def State.renewAlias (s : State) : State :=
  { s with boot := { s.boot with alias_ := s.boot.alias_ + 1 } }.raise 0xBA08 (s.boot.alias_ + 1)

/-- Version entries from the components in force (R514, R308). [DESIGN CHOICE: log entry 45] -/
def State.showVersions (s : State) : State :=
  let v (t : Nat) : Option Nat := (s.boot.parts.find? (fun x => x.1 == t)).map (fun x => x.2.1)
  let s1 := match v 1 with
    | some n => s.wr Od.kilnVersion (s.rd Od.kilnVersion / 65536 * 65536 + n % 65536)
    | none => s
  let s2 := match v 2 with | some n => s1.wr Od.keystoneVersion n | none => s1
  match v 3 with | some n => s2.wr Od.tileVersion n | none => s2

/-! ### Fuses (R520 to R522) -/

/-- Codes of a fuse write. -/
def State.fuseCodes (s : State) (key v : Nat) : List Nat :=
  let busy := bitField (s.rd Od.activationStatus) 31 28 != 0 || s.downloading
  let revoked (i : Nat) : Bool := s.rdB (Od.imageKeyRevoked i)
  let bad :=
    if key = Od.revokeImageKey then !s.burnLeaves (fun i => i == v || revoked i) (s.rd Od.fusedSvn)
    else if key = Od.raiseSvn then !s.burnLeaves revoked v
    else (List.range 4).all (fun i => i == v || s.rdB (Od.microcodeKeyRevoked i))
  (if key = Od.raiseSvn ∧ v ≤ s.rd Od.fusedSvn then [4] else []) ++ (if bad then [0x0A] else [])
    ++ (if busy then [6] else [])

/-- A fuse burns (R520, R522); the Alias key follows where measurement 8 changes (R516). -/
def State.burn (s : State) (key v : Nat) : State :=
  let s1 := if key = Od.revokeImageKey then (s.wrPersist (Od.imageKeyRevoked v) 1).raise 0xBA03 v
    else if key = Od.revokeMicrocodeKey then (s.wrPersist (Od.microcodeKeyRevoked v) 1).raise 0xBA03 (256 + v)
    else (s.wrPersist Od.fusedSvn v).raise 0xBA04 v
  let s2 := forEach (List.range 2) (fun n s => s.noteSlot n (s.slotCode false n)) s1
  let a := s2.rd Od.activeSlot
  let s3 := if key ≠ Od.revokeMicrocodeKey ∧ a < 2 ∧ s1.slotCode false a ≠ 0 ∧ s.slotCode false a = 0
    then s2.raise 0xCA06 a else s2
  if s3.fuses = s.fuses then s3 else s3.renewAlias

/-! ### Activation (R557 to R563) -/

/-- State of ActivationStatus. -/
def State.activating (s : State) : Nat := bitField (s.rd Od.activationStatus) 31 28

/-- ActivationStatus from its fields. -/
def activationWord (state slot changed code : Nat) : Nat :=
  state * 2 ^ 28 + slot * 2 ^ 27 + changed * 2 ^ 22 + code * 2 ^ 8

/-- Every persisted value lies in the range the new image gives its entry. [DESIGN CHOICE: log entry 103] -/
def State.imageFits (s : State) (bs : List Byte) : Bool :=
  s.store.all (fun e => Config.imageAdmits bs e.1 e.2)
    && s.storeDoms.all (fun e => Config.imageAdmits bs e.1 (beNat e.2))

/-- Codes of a write of ActivateSlot (R557). -/
def State.activateCodes (s : State) (n : Nat) : List Nat :=
  let bs := s.slotBytes n
  let bad := s.slotCode false n != 0 || s.rd Od.activeSlot == n || decide (imageLevel bs < s.rd Od.wallFeatureLevel)
    || !s.imageFits bs
  let busy := s.activating != 0 || s.changing || s.downloading || s.rd Od.patchStatus != 0
    || s.keystone.waiting.isSome
    || s.agent.commits.any (fun c => c.items.any (fun i => match i with
        | .raw k _ => k == Od.microcodePatch
        | .num _ _ => false))
  (if bad then [0x0A] else []) ++ (if busy then [6] else [])

/-- Preparation begins (R558). -/
def State.beginActivation (s : State) (n : Nat) : State :=
  if s.activating ≠ 0 then s
  else (s.wr Od.activationStatus (activationWord 1 n 0 (bitField (s.rd Od.activationStatus) 15 8))).raise 0xCA03 n

/-- An activation ends with nothing changed (R558). [DESIGN CHOICE: log entry 108] -/
def State.abortActivation (s : State) (code : Nat) : State :=
  ({ s with activation := ⟨0, [], [], [], false, []⟩ }.wr Od.activationStatus
    (activationWord 0 (bitField (s.rd Od.activationStatus) 27 27) 0 code)).raise 0xCA07 code

/-- The opcode entries of a base microcode, as a patch at level 0. -/
def basePatch (digest : List Byte) : Patch :=
  { level := 0, applyAt := 1, words := [],
    updates := (List.range 256).filterMap (fun op => (Config.baseCycles digest op).map (fun n => (op, n, 4096))) }

/-! ### Fast wake (R518, R519) -/

/-- TileSleep 1 applies: the tile is powered down and its pool reclaimed. -/
def State.sleepTile (s : State) (t : Nat) : State :=
  let s1 := forEach (List.range 6) (fun c s => s.reclaim (coreOwner (6 * t + c))) s
  s1.wr (Od.wakeState t) 1

/-- TileSleep 0 applies: the boot loader starts hashing the retained copy. -/
def State.wakeTile (s : State) (t : Nat) : State :=
  if s.rd (Od.wakeState t) = 1 then s.wr (Od.wakeState t) 2 else s

end Sys2Proof.Machine
end

