-- ==== Sys2Proof/Machine/Apply.lean ====
section
/-! DEFINITION. Machine/Apply.lean: what an accepted write does when it applies (R19, R119, R509): the value comes into
force, and with it what the entry's own chapter gives. -/

namespace Sys2Proof.Machine

/-! ### Writer contexts (R530) -/

/-- The context of a BLP session. -/
def sessionCtx (sid : Nat) : Nat := 1024 + sid

/-- The timer of a session without requests (R546). -/
def tmIdleSession (sid : Nat) : Nat := timerKey 29 sid

/-- The timer of a session's lifetime (R546). -/
def tmLifetime (sid : Nat) : Nat := timerKey 30 sid

/-- The timer of a segmented transfer (R548). -/
def tmTransfer (ctx : Nat) : Nat := timerKey 31 ctx

/-- A session ends (R546), with its reason: 1 CLOSE, 2 idle, 3 lifetime, 4 its key removed, 5 end of the monitor's BLP
mode. -/
def State.endSession (s : State) (sid reason : Nat) : State :=
  if s.agent.sessions.any (fun x => x.id == sid) then
    let s1 := (((s.dropContext (sessionCtx sid)).disarm (tmIdleSession sid)).disarm (tmLifetime sid)).disarm
      (tmTransfer (sessionCtx sid))
    { s1 with agent := { s1.agent with sessions := s1.agent.sessions.filter (fun x => x.id != sid),
                                       ended := sid :: s1.agent.ended } }.raise 0x1A03 (sid * 256 + reason)
  else s

/-! ### Scalars -/

/-- Key is subindex `sub` of one of `count` indexes from `base`. -/
def keyIs (key base count sub : Nat) : Bool :=
  key % 256 == sub && base ≤ key / 256 && key / 256 < base + count

/-- A new grouping (R152, R176): ports whose width changes go down with cause 7, unchanged ones are not disturbed, new ones
start with their local DCBX settings (R174). The value already in force counts as a grouping applied.
[DESIGN CHOICE: log entry 153] -/
def State.regroup (s : State) (t v : Nat) : State :=
  let before := s.rd (Od.laneGrouping t)
  let width (g n : Nat) : Nat := let w := laneNibble g n; if w = 0xF then 0 else w
  let changed := (List.range 8).filter (fun n => width before n != width v n)
  let s1 := forEach changed (fun n s =>
    let p := 8 * t + n
    if width before n = 0 then s else if s.up p then s.portDownNoRestart p 7 else s.stopBringUp p) s
  (forEach changed (fun n s => (s.bringUp (8 * t + n)).resolveDcbx (8 * t + n)) (s1.wr (Od.laneGrouping t) v)).raise 0x3A08 t

/-- Effects of the port entries (R161 to R163, R154, R166, R167, R171). -/
def State.applyPort (s : State) (key old v : Nat) : State :=
  let i := key / 256
  let sub := key % 256
  if 0x3000 ≤ i ∧ i < 0x3100 then
    let p := i - 0x3000
    if sub = 1 then
      if v = 0 then
        let s1 := s.setPort p { s.port p with disabledOnce := true }
        if (s1.port p).limited then s1 else s1.takeDown p 1
      else
        let s1 := if (s.port p).disabledOnce then
            (s.setPort p { s.port p with disabledOnce := false }).wr (Od.speedFallbackMask p) 0
          else s
        if old = 0 then s1.bringUp p else s1
    else if 2 ≤ sub ∧ sub ≤ 6 then
      let s1 := if sub = 3 then s.wr (Od.speedFallbackMask p) 0 else s
      if (s1.port p).limited then s1 else s1.takeDown p 8
    else if sub = 0x13 ∧ old ≠ v then
      let map := s.rd (Od.priorityToClass p)
      (s.wrPersist (Od.priorityToClass p) (map - priorityClass map old * 8 ^ old + 6 * 8 ^ old)).resolveDcbx p
    else if sub = 0x10 ∨ sub = 0x11 ∨ sub = 0x12 ∨ sub = 0x13 then s.resolveDcbx p
    else s
  else if 0x3200 ≤ i ∧ i < 0x3220 ∧ (sub = 2 ∨ sub = 3) then
    let t := i - 0x3200
    forEach (s.tilePorts t) (fun p s =>
      if (List.range (s.portWidth p)).any (fun k => bitOf (old ^^^ v) (p % 8 + k)) then s.takeDown p 8 else s) s
  else s

/-- Effects of the time entries (R58, R62, R84, R90 to R92). -/
def State.applyTime (s : State) (key old v : Nat) : State :=
  let i := key / 256
  let sub := key % 256
  if i = 0x2230 ∧ sub ≤ 9 then s.reselectSynce
  else if i = 0x2210 ∧ sub ≤ 8 then s.ptpRestateAll
  else if 0x2400 ≤ i ∧ i < 0x2500 ∧ sub = 1 then if old = v then s else s.applyPtpEnable (i - 0x2400)
  else if 0x2600 ≤ i ∧ i < 0x2620 then
    let n := i - 0x2600
    if sub = 1 then s.applyTioMode n old
    else if sub = 2 then s.applyTioOwner n v
    else if sub = 5 then s.armExpect n
    else s
  else s

/-- A change of HoldCourses or AlignedEnable: frames stamped before the course that begins keep the values they were stamped
under (R219). -/
def State.alignedChanged (s : State) (q hold : Nat) (enable : Bool) : State :=
  let x := s.alignedQ q
  s.setAligned q { x with past := (s.course, hold, enable) :: x.past.filter (fun e => decide (s.course < e.1 + 8192)) }

/-- Effects of the queue entries (R188, R219). -/
def State.applyQueue (s : State) (key old : Nat) : State :=
  let i := key / 256
  let sub := key % 256
  let q := i - 0x4700
  if keyIs key 0x4700 256 1 then s.alignedChanged q (s.rd (Od.holdCourses q)) (old != 0) else
  if keyIs key 0x4700 256 3 then s.alignedChanged q old (s.rdB (Od.alignedEnable q)) else
  if 0x4000 ≤ i ∧ i < 0x4100 ∧ 0x28 ≤ sub ∧ sub < 0x38 then s.pfcCheck (i - 0x4000) (sub % 8)
  else s

/-- Effects of the forwarding entries: a pair whose mode changes starts with an empty node table (R251), and a device whose
DeviceId changes yields no more (R247). -/
def State.applyForward (s : State) (key old v : Nat) : State :=
  if keyIs key 0x5900 64 1 ∧ old ≠ v then
    let r := key / 256 - 0x5900
    { s with redundancy := { s.redundancy with
        nodes := s.redundancy.nodes.filter (fun e => e.1 / 2 ^ 48 != r)
        sent := s.redundancy.sent.filter (fun e => e.1 / 2 ^ 48 != r) } }
  else if key = Od.wallDeviceId ∧ old ≠ v then { s with wall := { s.wall with yielded := none } }
  else s

/-- Effects of the scheduling entries (R323): a shaper value that changes empties the credit, and any shaper write has
the sum checked. -/
def State.applySchedule (s : State) (key old v : Nat) : State :=
  let i := key / 256
  let sub := key % 256
  if 0x6000 ≤ i ∧ i < 0x6100 ∧ 0x20 ≤ sub ∧ sub < 0x38 then
    (if old = v then s else s.shaperReset (i - 0x6000) (sub % 8)).shaperCheck (i - 0x6000)
  else s

/-- The entries whose write is one of the fuse burns (R520). -/
def fuseEntry (key : Nat) : Bool :=
  key == Od.revokeImageKey || key == Od.revokeMicrocodeKey || key == Od.raiseSvn

/-- A scalar comes into force. -/
def State.applyNum (s : State) (key v : Nat) : State :=
  let old := s.rd key
  if keyIs key 0x3200 32 1 then s.regroup (key / 256 - 0x3200) v
  else if fuseEntry key then s.burn key v
  else if key = Od.keyErase then s.applyKeyErase v
  else
    let s1 := s.wr key v
    match key / 0x100000 with
    | 0x2 => s1.applyTime key old v
    | 0x3 => s1.applyPort key old v
    | 0x4 => s1.applyQueue key old
    | 0x5 => s1.applyForward key old v
    | 0x6 => s1.applySchedule key old v
    | 0xB =>
      if keyIs key 0xB300 16 1 then
        let t := key / 256 - 0xB300
        if v = 1 then (if old = 1 then s1 else s1.sleepTile t) else s1.wakeTile t
      else s1
    | 0xC => if key = Od.activateSlot then s1.beginActivation v else s1
    | _ => s1

/-! ### Byte sequences -/

/-- The set a GenCommit brings (R91): StartTime, Period, Width, Count and OutputDelay in 32 bytes. -/
def genSetBytes (start period width count delay : Nat) : List Byte :=
  beBytes 12 start ++ beBytes 8 period ++ beBytes 4 width ++ beBytes 4 count ++ beBytes 4 delay

/-- A generation set applies. -/
def State.applyGenSet (s : State) (n : Nat) (bs : List Byte) : State :=
  s.applyGen n (ts96Ticks (beAt bs 0 12)) (beAt bs 12 8) (beAt bs 20 4) (beAt bs 24 4) (toSigned 32 (beAt bs 28 4))

/-- A set of ternary operations applies: it is staged, if it is not yet, and the epoch flips (R278, R279). -/
def State.applyTernary (s : State) (t : Nat) (signed : Bool) (bs : List Byte) : State :=
  let ops := (recordsOf 208 bs).map ternaryOpOf
  let x := (s.ternary t).ready
  match Ternary.stage (s.rd (Od.keystoneEntries t)) signed x ops with
  | some y => (s.setTernary t y).flipTernary t ops
  | none => s.setTernary t x

/-- A set of exact-match operations applies. -/
def State.applyExact (s : State) (x : Nat) (bs : List Byte) : State :=
  let ops := (recordsOf 72 bs).map exactOpOf
  let e := (s.exact x).ready
  match Exact.stage (s.rd (Od.exactCapacity x)) e ops with
  | some y => (s.setExact x y).flipExact x
  | none => s.setExact x e

/-- A set of policer records applies (R338). -/
def State.applyPolicers (s : State) (t : Nat) (bs : List Byte) : State :=
  (recordsOf 40 bs).foldl (fun s r =>
    let i := t * 2048 + beAt r 0 2
    s.setPolicer i (Policer.configured (policerEntryOf (beAt r 8 32)) s.len (s.policer i))) s

/-- A MACsec SA record applies to the SA it names; a transmit SA starts at no PN already sent under its key (R354).
[DESIGN CHOICE: log entry 97] -/
def State.applySas (s : State) (p : Nat) (bs : List Byte) : State :=
  (recordsOf 32 bs).foldl (fun s r =>
    let x := saOf (beNat r)
    let least := if x.1 < 2 then (s.keySlot x.2.2.slot).nextPn else 0
    s.setSa p x.1 x.2.1 { x.2.2 with pn := max x.2.2.pn least }) s

/-- The ESP table written takes the place of the one in force. [DESIGN CHOICE: log entry 97] -/
def State.applyEspTable (s : State) (bs : List Byte) : State :=
  (recordsOf 88 bs).foldl (fun s r => let x := espOf r; s.setEsp x.1 x.2) { s with cipher := { s.cipher with esp := [] } }

/-- The authentication table written takes the place of the one in force: Slot U16, TagBytes U8, KeyId U32.
[DESIGN CHOICE: log entry 97] -/
def State.applyAuthTable (s : State) (bs : List Byte) : State :=
  { s with cipher := { s.cipher with
      auth := (recordsOf 8 bs).foldl (fun t r => tblPut t (beAt r 0 2) (beAt r 2 1, beAt r 4 4)) [] } }

/-- An owner key is enrolled, replaced or removed (R510); removal ends the sessions it opened (R546). -/
def State.applyOwnerKey (s : State) (i : Nat) (bs : List Byte) : State :=
  let s1 := (s.setDom (Od.ownerKey i) bs).raise 0xBA05 i
  if bs.isEmpty then
    ((s1.agent.sessions.filter (fun x => x.signer == i)).map (fun x => x.id)).foldl (fun s sid => s.endSession sid 4) s1
  else s1

/-- A byte sequence comes into force; `signed` in a Keystone command. -/
def State.applyRaw (s : State) (signed : Bool) (key : Nat) (bs : List Byte) : State :=
  let i := key / 256
  if keyIs key 0x2600 32 0x0E then s.applyGenSet (i - 0x2600) bs
  else if key = Od.fdbUpdate then s.fdbApply ((recordsOf 24 bs).map s.fdbOpOf)
  else if keyIs key 0x5400 32 1 then s.applyTernary (i - 0x5400) signed bs
  else if keyIs key 0x5500 16 3 then s.applyExact (i - 0x5500) bs
  else if keyIs key 0x5600 32 1 then
    match progOps 256 bs with
    | some ops => s.applyPrograms (i - 0x5600) signed ops
    | none => s
  else if key = Od.microcodePatch then
    match patchOf bs with
    | some (p, _) => ((s.setDom key bs).applyPatch p).renewAlias
    | none => s
  else if keyIs key 0x6000 256 4 then
    match gateListOf bs with
    | some g => (s.setDom key bs).applyGateList (i - 0x6000) g
    | none => s
  else if keyIs key 0x6400 32 1 then s.applyPolicers (i - 0x6400) bs
  else if key = Od.keyLoad then s.applyKeyLoad bs
  else if key = Od.keySlotOwner then s.applyKeySlotOwner bs
  else if keyIs key 0x7200 256 1 then s.applySas (i - 0x7200) bs
  else if key = Od.espSaTable then s.applyEspTable bs
  else if key = Od.authTable then s.applyAuthTable bs
  else if key = Od.sliceResourceSet then
    if s.sliceSetCode (beAt bs 0 2) (slice bs 8 64) = 0 then s.applySliceSet (beAt bs 0 2) (slice bs 8 64)
    else s.bumpSlice (beAt bs 0 2) 5
  else if keyIs key 0x9000 1025 1 then s.applyNamespace (i - 0x9000) bs
  else if key = Od.qpControl then s.applyRdma 0 bs
  else if key = Od.cqControl then s.applyRdma 1 bs
  else if key = Od.regionControl then s.applyRdma 2 bs
  else if key = Od.ahControl then s.applyRdma 3 bs
  else if keyIs key 0xB210 8 1 then s.applyOwnerKey (i - 0xB210) bs
  else s.setDom key bs

/-- One item comes into force. -/
def State.applyItem (s : State) (signed : Bool) : Item → State
  | .num k v => s.applyNum k v
  | .raw k bs => s.applyRaw signed k bs

/-- The item burns a fuse: such items of a set come after every other (R509). -/
def Item.burns : Item → Bool
  | .num k _ => fuseEntry k
  | .raw _ _ => false

/-- A set comes into force. -/
def State.applySet (s : State) (signed : Bool) (items : List Item) : State :=
  (items.filter (fun i => !i.burns) ++ items.filter Item.burns).foldl (fun s i => s.applyItem signed i) s

/-! ### The order of accepted writes -/

/-- Put a set in its place among sets in the order of their boundaries, behind those of its own boundary. -/
def inOrder (x : Nat × Nat × List Item) : List (Nat × Nat × List Item) → List (Nat × Nat × List Item)
  | [] => [x]
  | y :: l => if x.1 < y.1 then x :: y :: l else y :: inOrder x l

/-- The accepted writes and commits which apply no later than course `n`, in the order in which they apply: boundary by
boundary, Crs writes before commits. Each with its context. -/
def State.acceptedBy (s : State) (n : Nat) : List (Nat × Nat × List Item) :=
  let all : List (Nat × Nat × List Item) :=
    (s.agent.crs.map (fun (c : CrsWrite) => (2 * c.course, c.ctx, [c.item])))
      ++ (s.agent.commits.map (fun (c : Commit) => (2 * s.commitCourse c + 1, c.ctx, c.items)))
  (all.filter (fun x => decide (x.1 ≤ 2 * n + 1))).foldl (fun l x => inOrder x l) []

/-- The state that the accepted writes and commits which apply no later than course `n` will leave (R533, R609), in which
they wait no more. -/
def State.settledBy (s : State) (n : Nat) : State :=
  let rest : State := { s with agent := { s.agent with
    crs := s.agent.crs.filter (fun (c : CrsWrite) => decide (n < c.course))
    commits := s.agent.commits.filter (fun (c : Commit) => decide (n < s.commitCourse c)) } }
  (s.acceptedBy n).foldl (fun t x => t.applySet (x.2.1 == 0) x.2.2) rest

end Sys2Proof.Machine
end

