-- ==== Sys2Proof/Machine/Checks.lean ====
section
/-! DEFINITION. Machine/Checks.lean: the checks of a dictionary write and of a set (R19 to R21, R127, R531, R536, R609,
and the checks that the chapters' own rules name). Each check answers the list of codes it fails with; the agent picks
the first in the order of R21. -/

namespace Sys2Proof.Machine

/-- A writer class (R19): M, H, C, a signed Keystone command (KS), the Keystone firmware (K), or the PF3 that owns a pin,
through its pin block (R88, R406). -/
inductive Writer where
  | m | h | c | keystone | firmware | pinBlock
  deriving DecidableEq, Repr

/-- The code when a condition holds. -/
def codeIf (b : Bool) (c : Nat) : List Nat := if b then [c] else []

/-- The class may write an entry of this access (R19, R507). [DESIGN CHOICE: log entry 113] -/
def mayWrite (a : OdAccess) : Writer → Bool
  | .m => a.m
  | .h => a.h
  | .c => a.c
  | .keystone => a.k || a.ks || a.m
  | .firmware => a.k
  | .pinBlock => true

/-! ### Values (R536) -/

/-- Length of a DOMAIN that its entry admits. -/
def domLengthOk (key n : Nat) : Bool :=
  let i := key / 256
  let recs (size max : Nat) : Bool := n % size == 0 && decide (1 ≤ n / size ∧ n / size ≤ max)
  if key = Od.eventRead then n == 8
  else if key = Od.eventSeverity then n == 2
  else if 0x4300 ≤ i ∧ i < 0x4308 then n == 32
  else if key = Od.streamTable then n % 8 == 0 && decide (n ≤ 65536)
  else if key = Od.fdbUpdate then recs 24 4096
  else if key = Od.fdbQuery then n == 16
  else if key = Od.fdbSweep then n == 6
  else if key = Od.vlanTable then n % 72 == 0 && decide (n ≤ 294912)
  else if key = Od.groupTable then n % 40 == 0 && decide (n ≤ 655360)
  else if keyIs key 0x5400 32 1 then recs 208 1024
  else if keyIs key 0x5400 32 2 then n == 4
  else if keyIs key 0x5500 16 1 then n == 32
  else if keyIs key 0x5500 16 3 then recs 72 4096
  else if keyIs key 0x5500 16 4 then n == 32
  else if keyIs key 0x5500 16 5 then n == 6
  else if keyIs key 0x5600 32 5 then decide (3 ≤ n) && (n - 3) % 4 == 0
  else if keyIs key 0x6000 256 4 then n % 8 == 0 && decide (24 ≤ n ∧ n ≤ 8208)
  else if keyIs key 0x6400 32 1 then recs 40 2048
  else if keyIs key 0x6400 32 2 then n == 2
  else if key = Od.keyLoad then decide (8 ≤ n)
  else if key = Od.keySlotOwner then n == 5
  else if key = Od.keySlotInfo then n == 2
  else if keyIs key 0x7200 256 1 then n % 32 == 0 && decide (n ≤ 768)
  else if key = Od.espSaTable then n % 88 == 0
  else if key = Od.authTable then n % 8 == 0
  else if key = Od.protectionTxQueues then n % 6 == 0 && decide (n ≤ 384)
  else if key = Od.sliceResourceSet then n == 72
  else if key = Od.sliceQuery then n == 2
  else if key = Od.sliceState then n == 516
  else if keyIs key 0x9000 1025 1 then n == 48
  else if key = Od.qpControl then recs 128 256
  else if key = Od.cqControl then recs 32 256
  else if key = Od.regionControl then recs 48 256
  else if key = Od.ahControl then recs 48 256
  else if key = Od.rdmaQuery then n == 5
  else if keyIs key 0xB210 8 1 then n == 0 || n == 2689
  else if key = Od.mgmtAllowList then n % 17 == 0 && decide (n ≤ 544)
  else decide (n ≤ 67108864)

/-- Bits `hi` to `lo` read 0. -/
def clearField (v hi lo : Nat) : Nat := v - bitField v hi lo * 2 ^ lo

/-- A byte sequence of records of `n` bytes, each changed. -/
def mapRecords (n : Nat) (f : Nat → Nat) (bs : List Byte) : List Byte :=
  ((recordsOf n bs).map (fun r => beBytes n (f (beNat r)))).flatten

/-- A scalar without its reserved bits, which ignore writes (R15). -/
def unreservedNum (key v : Nat) : Nat :=
  let sub := key % 256
  if keyIs key 0x3000 256 0x12 then clearField v 31 24
  else if 0x5400 ≤ key / 256 ∧ key / 256 < 0x5420 ∧ 0x10 ≤ sub ∧ sub < 0x1E then clearField v 12 8
  else v

/-- A byte sequence of records of `n` bytes, each with stretches of it, by offset and size, made 0. -/
def zeroed (n : Nat) (gaps : List (Nat × Nat)) (bs : List Byte) : List Byte :=
  ((recordsOf n bs).map (fun r => gaps.foldl (fun r g => overlay r g.1 (List.replicate g.2 0)) r)).flatten

/-- A byte sequence without the reserved bits of its records, which ignore writes (R15). -/
def unreservedRaw (key : Nat) (bs : List Byte) : List Byte :=
  if key = Od.vlanTable then mapRecords 72 (fun v => clearField v 33 0) bs
  else if key = Od.streamTable then mapRecords 8 (fun v => clearField (clearField v 62 60) 25 0) bs
  else if key = Od.groupTable then mapRecords 40 (fun v => clearField v 60 32) bs
  else if keyIs key 0x5500 16 1 then mapRecords 4 (fun v => clearField v 12 0) bs
  else if key = Od.qpControl then zeroed 128 [(46, 2), (104, 24)] bs
  else if key = Od.cqControl then zeroed 32 [(10, 6), (24, 8)] bs
  else if key = Od.regionControl then zeroed 48 [(24, 24)] bs
  else if key = Od.ahControl then zeroed 48 [(16, 4), (36, 12)] bs
  else if keyIs key 0x9000 1025 1 then zeroed 48 [(18, 6), (40, 8)] bs
  else if key = Od.sliceResourceSet then zeroed 72 [(2, 6), (43, 1), (66, 6)] bs
  else if keyIs key 0x6000 256 4 then
    bs.take 14 ++ [0, 0] ++ ((recordsOf 8 (bs.drop 16)).map (fun r => leBytes 8 (clearField (leNat r) 55 30))).flatten
  else bs

/-- A value in its entry's own type, its reserved bits 0 (R15), or none for the code 0x05. -/
def itemOf (r : OdRow) (key : Nat) (v : WireValue) : Option Item :=
  if v.type ≠ r.type.code then none
  else match r.type with
    | .string n => if v.bytes.length ≤ n then some (.raw key v.bytes) else none
    | .domain => if domLengthOk key v.bytes.length then some (.raw key (unreservedRaw key v.bytes)) else none
    | .key => none
    | t => if v.bytes.length = t.bits / 8 then some (.num key (unreservedNum key (beNat v.bytes))) else none

/-- The item is within the entry's fixed bounds (R536, R609, R74). -/
def inRange (r : OdRow) : Item → Bool
  | .raw _ _ => true
  | .num _ v =>
    (match r.range with
     | .any => true
     | .between lo hi => decide (lo ≤ r.type.decode v ∧ r.type.decode v ≤ hi))
    && (r.type != .bool || decide (v ≤ 1)) && (r.type != .time96 || ts96Valid v)

/-! ### Fixed bounds, and bounds that depend on the mode (0x04, 0x07) -/

/-- Entries that mode 6 does not provide (R127, R218, R285, R339, R612). -/
def mode6Denies (key : Nat) : Bool :=
  let i := key / 256
  let sub := key % 256
  (0x4000 ≤ i && i < 0x4100 && (sub == 2 || (0x20 ≤ sub && sub < 0x28))) || key == Od.streamTable
    || (0x4700 ≤ i && i < 0x4800) || (0x5500 ≤ i && i < 0x5510 && (sub == 1 || sub == 2 || sub == 3))
    || (0x6000 ≤ i && i < 0x6100 && (sub == 3 || sub == 4 || (0x20 ≤ sub && sub < 0x38)))

/-- Codes 0x04 and 0x07 of a scalar, beyond its fixed bounds. [DESIGN CHOICE: log entry 99] -/
def State.numCodes (s : State) (key v : Nat) : List Nat :=
  let i := key / 256
  let sub := key % 256
  let m := s.mode
  if key = Od.courseLength then
    codeIf (v < 250 || 1000000 < v || 1000000000 % v != 0) 4 ++ codeIf (!lengthInMode m v) 7
  else if 0x2210 ≤ i ∧ i < 0x2211 ∧ sub ≤ 8 then
    codeIf (!(v == 0 || (0x1000 ≤ v && v < 0x1100) || v == 0x2000 || v == 0x2001)) 4
  else if i = 0x2230 ∧ 2 ≤ sub ∧ sub ≤ 9 then codeIf (decide (255 < v ∧ v ≠ 0xFFFF)) 4
  else if key = Od.courseCommit ∨ key = Od.configErase then codeIf (v != 1) 4
  else if keyIs key 0x3200 32 1 then
    codeIf (!groupingValid v || (m == 6 && decide (4 < ((List.range 8).filter (fun n =>
      laneNibble v n != 0 && laneNibble v n != 0xF)).length))) 4
  else if keyIs key 0x3000 256 1 then
    let p := i - 0x3000
    codeIf (m == 6 && v == 1 && !(s.port p).limited && decide (4 ≤ ((s.tilePorts (p / 8)).filter (fun q =>
      q != p && s.rdB (Od.portEnable q) && !(s.port q).limited)).length)) 4
  else if keyIs key 0x3000 256 0x12 then
    codeIf ((List.range 8).any (fun q => q != s.rd (Od.protectionPcp (i - 0x3000)) && priorityClass v q == 7)) 4
  else if keyIs key 0x4000 256 2 then codeIf (decide (class7Reserve m < v)) 4
  else if 0x4000 ≤ i ∧ i < 0x4100 ∧ (sub = 0x27 ∨ sub = 0x2F ∨ sub = 0x37) then [4]
  else if keyIs key 0x4300 8 7 then codeIf (decide (v ≠ 0 ∧ v < 64)) 4
  else if keyIs key 0x4700 256 2 then codeIf (decide (3 ≤ v / 2 ^ 30)) 4
  else if 0x4900 ≤ i ∧ i < 0x4941 ∧ sub = 5 then codeIf (decide (s.poolCapacity (i - 0x4900) < v)) 4
  else if key = Od.hbmCoreBuffers then
    let half := (s.capacityChannels 5).length * 750000000
    codeIf (decide (half < v * 4096)) 4 ++ codeIf (decide (0 < s.poolUsed 0x41)) 6
  else if 0x5400 ≤ i ∧ i < 0x5420 ∧ 0x10 ≤ sub ∧ sub < 0x1E then codeIf (decide (4 < bitField v 15 13)) 4
  else if keyIs key 0x5500 16 2 then
    let others := ((List.range 16).map (fun x => if x = i - 0x5500 then 0 else s.rd (Od.exactCapacity x))).sum
    codeIf (v != 0 && !(decide (1024 ≤ v) && (List.range 32).any (fun k => v == 2 ^ k))) 4
      ++ codeIf (decide (exactLimit m = 0 ∧ v ≠ 0)) 7 ++ codeIf (decide (exactLimit m < others + v)) 4
      ++ codeIf (!(s.exact (i - 0x5500)).entries.isEmpty) 0x0A
  else if keyIs key 0x7100 256 3 then codeIf (!(v == 0 || v == 30 || v == 50 || v == 0xFF)) 4
  else if keyIs key 0x7100 256 7 then codeIf (m == 4 && v == 1) 7
  else if i = 0x8010 ∧ sub ≤ 2 then
    codeIf (v % 4096 != 0 || decide ((s.capacityChannels 5).length * 1500000000 ≤ v)) 4
  else if i = 0x8010 ∧ sub ≤ 4 then codeIf (v % 4096 != 0 || decide (2 ^ 36 < v)) 4
  else if key = Od.stagingReserve then codeIf (decide (s.poolCapacity 0x40 < v)) 4
  else if key = Od.dspPs1State then codeIf (s.dspStateCode false v != 0) (s.dspStateCode false v)
  else if key = Od.dspPs2State then codeIf (s.dspStateCode true v != 0) (s.dspStateCode true v)
  else if fuseEntry key then s.fuseCodes key v
  else []

/-! ### Relations between entries (0x0A, R609) -/

/-- A port of suite 1 or 2 could run faster than 10 Gb/s (R352). [DESIGN CHOICE: log entry 98] -/
def State.suiteBad (s : State) (p : Nat) : Bool :=
  let fast := decide (1 < s.portWidth p)
    || (if s.rd (Od.mediaType p) = 2 then decide (1 < s.rd (Od.forcedSpeed p)) else decide (4 ≤ s.rd (Od.abilitiesOffered p)))
  decide (s.rd (Od.cipherSuite p) ≤ 2) && fast

/-- The bricks of class 7 shares of a tile's ports exceed its reserve (R183). -/
def State.class7Bad (s : State) (t : Nat) : Bool :=
  let ps := s.tilePorts t
  decide (class7Reserve s.mode < (ps.map (fun p =>
    let v := s.rd (Od.class7ReserveBricks p)
    if v = 0 then class7Reserve s.mode / ps.length else v)).sum)

/-- Enabled aligned queues of a host tile exceed its transit SRAM (R207). -/
def State.alignedBad (s : State) (h : Nat) : Bool :=
  decide (8388608 < ((List.range 128).map (fun k =>
    let q := 128 * h + k
    if s.rdB (Od.alignedEnable q) then s.rd (Od.capacityBytes q) else 0)).sum)

/-- A redundancy pair breaks R250: a port in two pairs, or ports of unequal speed. -/
def State.pairBad (s : State) (r : Nat) : Bool :=
  let on (k : Nat) : Bool := s.rd (Od.redMode k) != 0
  let ends (k : Nat) : List Nat := [s.rd (Od.portA k), s.rd (Od.portB k)]
  let a := s.rd (Od.portA r)
  let b := s.rd (Od.portB r)
  let speed (p : Nat) : Nat := s.rd (Od.speedInUse p)
  on r && (a == b || s.portWidth a != s.portWidth b
    || (speed a != 0xFF && speed b != 0xFF && speed a != speed b)
    || (List.range 64).any (fun k => k != r && on k && (ends k).any (fun p => p == a || p == b)))

/-- The key's write leaves a broken relation in a state (R609, and the 0x0A rules of the chapters). -/
def State.relationBad (s : State) (key : Nat) : Bool :=
  let i := key / 256
  let sub := key % 256
  if i = 0x2210 ∧ sub ≤ 8 then
    let l := s.listedSources
    (List.range l.length).any (fun a => (List.range a).any (fun b => l.getD a 0 == l.getD b 0))
  else if key = Od.lockThreshold ∨ key = Od.unlockThreshold then decide (s.rd Od.unlockThreshold ≤ s.rd Od.lockThreshold)
  else if keyIs key 0x3000 256 0x13 then
    s.rd Od.rocePcp == s.rd (Od.protectionPcp (i - 0x3000))
  else if key = Od.rocePcp then (List.range 256).any (fun p => s.rd Od.rocePcp == s.rd (Od.protectionPcp p))
  else if 0x3000 ≤ i ∧ i < 0x3100 ∧ 2 ≤ sub ∧ sub ≤ 4 then s.suiteBad (i - 0x3000)
  else if keyIs key 0x3200 32 1 then
    let t := i - 0x3200
    (s.tilePorts t).any (fun p => s.suiteBad p) || s.class7Bad t || s.headroomBad t
  else if keyIs key 0x4000 256 2 then s.class7Bad ((i - 0x4000) / 8)
  else if 0x4000 ≤ i ∧ i < 0x4100 ∧ 0x20 ≤ sub ∧ sub < 0x28 then s.headroomBad ((i - 0x4000) / 8)
  else if 0x4000 ≤ i ∧ i < 0x4100 ∧ 0x28 ≤ sub ∧ sub < 0x38 then
    decide (s.rd (Od.xoffThreshold (i - 0x4000) (sub % 8)) ≤ s.rd (Od.xonThreshold (i - 0x4000) (sub % 8)))
  else if 0x4300 ≤ i ∧ i < 0x4308 ∧ (sub = 4 ∨ sub = 5) then
    s.rd (Od.destKind (i - 0x4300)) == 0 && decide (255 < s.rd (Od.dest (i - 0x4300)))
  else if 0x4700 ≤ i ∧ i < 0x4800 ∧ (sub = 1 ∨ sub = 6) then s.alignedBad ((i - 0x4700) / 128)
  else if key = Od.hbmCoreBuffers then
    (List.range 96).any (fun n => decide (s.rd Od.hbmCoreBuffers < s.rd (Od.hbmQuota (n / 6) (n % 6))))
      || decide (s.rd Od.hbmCoreBuffers < s.rd (Od.lowWater 0x41))
  else if key = Od.lowWater 0x41 then decide (s.rd Od.hbmCoreBuffers < s.rd key)
  else if 0x4960 ≤ i ∧ i < 0x4970 ∧ 7 ≤ sub then decide (s.rd Od.hbmCoreBuffers < s.rd key)
  else if key = Od.wallFeatureLevel then decide (s.rd Od.supportedLevel < s.rd key)
  else if 0x5900 ≤ i ∧ i < 0x5940 ∧ sub ≤ 3 then s.pairBad (i - 0x5900)
  else if 0x7100 ≤ i ∧ i < 0x7200 then
    let p := i - 0x7100
    (sub == 2 && s.suiteBad p)
      || ((sub == 5 || sub == 0x12) && s.rd (Od.txPortIdentifier p) == s.rd (Od.ksPortIdentifier p))
      || (s.mode == 4 && s.rdB (Od.portEnable p) && !s.sealedValid p)
  else if keyIs key 0x7200 256 1 ∨ keyIs key 0x3000 256 1 then
    let p := i % 256
    s.mode == 4 && s.rdB (Od.portEnable p) && !s.sealedValid p
  else if key = Od.keyErase then
    s.mode == 4 && (List.range 256).any (fun p => s.rdB (Od.portEnable p) && !s.sealedValid p)
  else false

/-! ### Byte sequences (R223, R236, R268, R270, R277, R297, R306, R327, R334, R338, R347 to R349, R357, R360) -/

/-- The keys whose records the manual checks at the commit, not at the write. -/
def commitChecked (key : Nat) : Bool :=
  key == Od.fdbUpdate || keyIs key 0x5400 32 1 || keyIs key 0x5500 16 3 || keyIs key 0x5600 32 1

/-- Latency of R215 at its maximum, by speed code. -/
def latencyMax (mode speed : Nat) : Nat :=
  if mode = 2 then [1160, 600, 730, 600, 520, 490, 470, 460].getD speed 0
  else if mode = 4 then [1280, 720, 850, 720, 640, 610, 590, 580].getD speed 0
  else [1200, 640, 770, 640, 560, 530, 510, 500].getD speed 0

/-- Dmax of a stream in ns (R205): the two ports' speed codes, MaxFrame, class 7. [DESIGN CHOICE: log entry 95] -/
def dmax (mode inSpeed outSpeed maxFrame : Nat) (seven : Bool) : Nat :=
  let rin := speedRate inSpeed
  let rout := speedRate outSpeed
  latencyMax mode (min inSpeed outSpeed)
    + (if mode = 2 then (if rin < rout then ceilDiv (maxFrame * 8 * (rout - rin)) (rin * rout) else 0)
       else ceilDiv ((maxFrame - 64) * 8) (max 1 rin))
    + (if seven then (if mode = 2 then 20 else 48) else 0)

/-- An action that names its egress port sends a stream from an ingress port with a Constant below its Dmax; ports
without a speed in use are not judged. `seven`: its frames arrive in class 7. -/
def State.streamBad (s : State) (p : Nat) (seven : Bool) (a : Action) : Bool :=
  let w := beNat (slice (s.dom Od.streamTable) (8 * a.streamIndex) 8)
  let sin := s.rd (Od.speedInUse p)
  let sout := s.rd (Od.speedInUse (a.forwardDest % 256))
  a.streamEnable && bitOf w 63 && a.forwardKind == 1 && decide (sin < 8) && decide (sout < 8)
    && decide (bitField w 59 40 < dmax s.mode sin sout (bitField w 39 26) (if a.setClass then a.cls == 7 else seven))

/-- A live ingress rule that names its ingress port, by itself or with an entry of the exact-match table it chains to
(R274), sends a stream that breaks R205; a rule of the Keystone region on the port's protection PCP takes class 7 (R267).
[DESIGN CHOICE: log entry 95] -/
def State.streamsBad (s : State) : Bool :=
  s.classify.ternary.any (fun e => e.2.ingress.any (fun r =>
    let a := actionOf r.action
    let p := bitField r.key 639 632
    let x := s.exact a.exactTable
    let seven := decide (r.index < s.rd (Od.keystoneEntries e.1)) && bitField r.mask 615 613 == 7
      && bitField r.key 615 613 == s.rd (Od.protectionPcp p)
    bitOf r.live e.2.epoch && bitField r.mask 639 632 == 0xFF && (s.streamBad p seven a
      || (a.exactEnable && x.entries.any (fun y => bitOf y.live x.epoch
        && s.streamBad p seven (a.merge (actionOf y.action)))))))

/-- Tiles whose ingress rules chain to an exact-match table (R271). -/
def State.chaining (s : State) (x : Nat) : List Nat :=
  (List.range 32).filter (fun t => (s.ternary t).ingress.any (fun r => (actionOf r.action).exactEnable
    && (actionOf r.action).exactTable == x))

/-- Codes of the program an exact-match action names, in a tile that looks its table up (R277, R297). -/
def State.chainCodes (s : State) (t : Nat) (a : Action) : List Nat :=
  if a.trowelEnable then
    match s.program (pipeNo t 0) a.trowelEntry with
    | some p => codeIf (a.trowelEntry == 0 || decide (worstPathLimit s.mode < p.worst)) 0x0A ++ codeIf p.keystone 3
    | none => [0x0A]
  else []

/-- Codes of an action record. `writer` has the class, `t` is the tile of a ternary record. -/
def State.actionCodes (s : State) (ks : Bool) (t : Option Nat) (pipeline : Nat) (v : Nat) : List Nat :=
  let a := actionOf v
  let egress := pipeline == 1
  let prog := s.program (pipeNo (t.getD 0) pipeline) a.trowelEntry
  codeIf (decide (4 < a.cipherAction) || a.overflowAction == 3 || (a.trowelEnable && a.frameLimit == 0)
      || (a.streamEnable && decide (streamLimit s.mode ≤ a.streamIndex) && s.mode != 6)
      || (a.forwardKind == 1 && decide (255 < a.forwardDest)) || (a.forwardKind == 2 && decide (16383 < a.forwardDest))) 4
    ++ codeIf (a.streamEnable && s.mode == 6) 7
    ++ codeIf (!ks && a.setClass && a.cls == 7) 3
    ++ (match t with
        | some n => codeIf (a.policerEnable && a.policerIndex / 2048 != n) 0x0A
            ++ codeIf (!ks && a.policerEnable && decide (2040 ≤ a.policerIndex % 2048)) 3
            ++ (if a.trowelEnable then
                  codeIf (a.trowelEntry == 0 || prog.isNone) 0x0A
                    ++ codeIf (match prog with | some p => p.keystone != ks | none => false) 3
                    ++ codeIf (match prog with | some p => decide (worstPathLimit s.mode < p.worst) | none => false) 0x0A
                else [])
            ++ codeIf (a.exactEnable && (egress || ks || s.rd (Od.exactCapacity a.exactTable) == 0)) 0x0A
            ++ (if a.exactEnable then
                  (((s.exact a.exactTable).entries.filter (s.exact a.exactTable).holds).map (fun y =>
                    s.chainCodes n (actionOf y.action))).flatten
                else [])
        | none => codeIf (decide (2040 ≤ a.policerIndex % 2048)) 3)
    ++ codeIf (egress && a.cipherAction != 0) 0x0A
    ++ codeIf (a.cipherAction != 0 && s.slotOwner a.keySlot != (if ks then 3 else 1)) 0x0A

/-- Codes of one ternary record on the rules as the records before it leave them. -/
def State.ternaryCodes (s : State) (ks : Bool) (t : Nat) (x : Ternary) (o : TernaryOp) : List Nat :=
  let edge := s.rd (Od.keystoneEntries t)
  let other := 1 - x.epoch
  let mine (p : Nat) : List Rule := (x.pipe p).filter (fun r => r.id == o.id && bitOf r.live other)
  let here := mine o.pipeline
  let there := mine (1 - o.pipeline)
  codeIf (decide (o.op < 1 ∨ 3 < o.op ∨ 1 < o.pipeline) || o.id == 0xFFFFFFFF) 4
    ++ codeIf (!ks && (here ++ there).any (fun r => decide (r.index < edge))) 3
    ++ codeIf (if o.op = 1 then !(here ++ there).isEmpty else here.isEmpty && (o.op != 3 || there.isEmpty)) 0x0A
    ++ codeIf (ks && (here ++ there).any (fun r => decide (edge ≤ r.index))) 0x0A
    ++ (if o.op = 3 then [] else s.actionCodes ks (some t) o.pipeline o.action)

/-- Codes of a ternary set, record by record. [DESIGN CHOICE: log entry 104] -/
def State.ternarySetCodes (s : State) (ks : Bool) (t : Nat) : Ternary → List TernaryOp → List Nat
  | _, [] => []
  | x, o :: os =>
    s.ternaryCodes ks t x o ++ (match x.stageOp (s.rd (Od.keystoneEntries t)) ks o with
      | none => [0x0A]
      | some y => s.ternarySetCodes ks t y os)

/-- Codes of one exact-match record. -/
def State.exactCodes (s : State) (ks : Bool) (x : Nat) (o : ExactOp) : List Nat :=
  codeIf (decide (o.op < 1 ∨ 2 < o.op) || o.table != x) 4
    ++ codeIf (s.rd (Od.exactCapacity x) == 0) 0x0A
    ++ (if o.op = 1 then s.actionCodes ks none 0 o.action
          ++ codeIf ((actionOf o.action).trowelEnable && (actionOf o.action).trowelEntry == 0) 0x0A
          ++ ((s.chaining x).map (fun t => s.chainCodes t (actionOf o.action))).flatten
          ++ codeIf (actionOf o.action).exactEnable 0x0A else [])

/-- Entries an exact-match table holds, staged ones among them, each key once. -/
def Exact.used (e : Exact) : Nat := (e.entries.filter e.holds).length

/-- Codes of an exact-match set; inserts that take the tables beyond the mode's entries get 0x04 (R127). -/
def State.exactSetCodes (s : State) (ks : Bool) (x : Nat) (ops : List ExactOp) : List Nat :=
  let others := ((s.classify.exact.filter (fun e => e.1 != x)).map (fun e => e.2.used)).sum
  let staged := Exact.stage (s.rd (Od.exactCapacity x)) (s.exact x).ready ops
  (ops.map (fun o => s.exactCodes ks x o)).flatten ++ codeIf staged.isNone 0x0A
    ++ codeIf (ops.any (fun o => o.op == 1) && (match staged with
        | some y => decide (exactLimit s.mode < others + y.used ∧ (s.exact x).used < y.used)
        | none => false)) 4

/-- Codes of a policer record (R334, R337, R338). -/
def policerCodes (ks : Bool) (r : List Byte) : List Nat :=
  let n := beAt r 0 2
  let v := beAt r 8 32
  let e := policerEntryOf v
  codeIf (decide (2047 < n) || e.kind == 3 || e.redAction == 3 || e.yellowClass == 7 || decide (800000000 < e.cir)
      || decide (16777216 < e.cbs) || decide (16777216 < e.pbsEbs) || decide (e.overhead < -32)
      || (e.kind == 2 && decide (e.pirEir < e.cir)) || (e.kind == 1 && e.pirEir != 0)) 4
    ++ codeIf (!ks && decide (2040 ≤ n % 2048)) 3

/-- Codes of a MACsec SA record (R348, and the SA record rule). [DESIGN CHOICE: log entry 98] -/
def State.saCodes (s : State) (ks : Bool) (p : Nat) (r : List Byte) : List Nat :=
  let x := saOf (beNat r)
  let reserved := x.1 == 1 || (x.1 == 5 && s.rdB (Od.ksEnable p))
  let suite := s.rd (Od.cipherSuite p)
  let alg := (s.keySlot x.2.2.slot).algorithm
  codeIf (decide (5 < x.1 ∨ 3 < x.2.1)) 4 ++ codeIf (reserved && !ks) 3
    ++ codeIf (x.2.2.inUse && s.slotOwner x.2.2.slot != (if x.1 == 1 || x.1 == 5 then 3 else 1)) 0x0A
    ++ codeIf (x.2.2.inUse && alg != 0 && alg != (if suite % 2 = 1 then 1 else 2)) 0x0A

/-- A patch carries both signatures of a microcode key that is not revoked (R306, R522).
[DESIGN CHOICE: log entry 103] -/
def State.patchSigned (s : State) (bs : List Byte) : Bool :=
  let body := bs.take (bs.length - 4723)
  (List.range 4).any (fun i => !s.rdB (Od.microcodeKeyRevoked i)
    && Config.ecdsaGood (Config.microcodeKey i false) body (slice bs (bs.length - 4723) 96)
    && Config.mldsaGood (Config.microcodeKey i true) body (slice bs (bs.length - 4627) 4627))

/-- The port's list in force or pending closes the gate of class 7 (R327). -/
def State.gatesKeystone (s : State) (p : Nat) : Bool :=
  let e := s.egress p
  (match e.gate with | some g => g.closes7 | none => false) || (match e.gatePending with | some g => g.closes7 | none => false)

/-- Codes of the records of a set whose content is judged at its commit. -/
def State.setCodes (s : State) (ks : Bool) (key : Nat) (bs : List Byte) : List Nat :=
  let i := key / 256
  if key = Od.fdbUpdate then
    let ops := (recordsOf 24 bs).map s.fdbOpOf
    (ops.map s.fdbOpCode).filter (· != 0) ++ codeIf (!s.fdbWindowOk || !s.fdbFits ops) 0x0A
  else if keyIs key 0x5400 32 1 then
    s.ternarySetCodes ks (i - 0x5400) (s.ternary (i - 0x5400)).ready ((recordsOf 208 bs).map ternaryOpOf)
  else if keyIs key 0x5500 16 3 then s.exactSetCodes ks (i - 0x5500) ((recordsOf 72 bs).map exactOpOf)
  else match progOps 256 bs with
    | none => [5]
    | some ops => codeIf (ops.isEmpty || decide (256 < ops.length)) 5 ++ s.progCodes (i - 0x5600) ks ops

/-- Codes 0x03, 0x04, 0x06, 0x07, 0x09 and 0x0A of a byte sequence at its write. [DESIGN CHOICE: log entry 26] -/
def State.rawCodes (s : State) (w : Writer) (key : Nat) (bs : List Byte) : List Nat :=
  let ks := w == .keystone
  let i := key / 256
  if key = Od.streamTable then
    let rs := chunks 8 (bs.length / 8) bs
    codeIf (decide (streamLimit s.mode * 8 < bs.length) && s.mode != 6) 4
      ++ codeIf (rs.any (fun r => bitOf (beNat r) 63 && !(decide (600 ≤ bitField (beNat r) 59 40
          ∧ bitField (beNat r) 59 40 ≤ 1000000 ∧ 64 ≤ bitField (beNat r) 39 26 ∧ bitField (beNat r) 39 26 ≤ 16128)))) 4
  else if key = Od.vlanTable then
    codeIf (bitOf (beNat (slice bs 0 72)) 63 || bitOf (beNat (slice bs (72 * 4095) 72)) 63
      || ((recordsOf 72 bs).map (fun r => vlanOf (beNat r))).any (fun v => v.valid && decide (v.fid < 1 ∨ 4094 < v.fid))) 4
  else if key = Od.fdbSweep || keyIs key 0x5500 16 5 then codeIf (decide (beAt bs 4 2 < 1 ∨ 4096 < beAt bs 4 2)) 4
  else if keyIs key 0x5500 16 1 then
    let sel := selectorsOf bs
    codeIf (sel.any (fun x => decide (639 < x.1 ∨ 256 < x.2 ∨ x.1 + 1 < x.2)) || decide (256 < (sel.map Prod.snd).sum)) 4
      ++ codeIf (!(s.exact (i - 0x5500)).entries.isEmpty) 0x0A
  else if keyIs key 0x5600 32 5 then
    codeIf (decide (1 < beAt bs 0 1) || beAt bs 1 2 % 4 != 0 || decide (65536 < beAt bs 1 2 + (bs.length - 3))) 4
      ++ codeIf (!ks && decide (0xF000 < beAt bs 1 2 + (bs.length - 3)) && decide (3 < bs.length)) 3
  else if key = Od.microcodePatch then codeIf (!s.patchSigned bs) 9
  else if keyIs key 0x6000 256 4 then
    codeIf (!ks && ((chunks 8 ((bs.length - 16) / 8) (bs.drop 16)).any (fun r => !bitOf (leNat r) 63)
        || s.gatesKeystone (i - 0x6000))) 3 ++ codeIf (gateListOf bs).isNone 4
  else if keyIs key 0x6400 32 1 then ((recordsOf 40 bs).map (policerCodes ks)).flatten
  else if key = Od.keyLoad then
    codeIf (!ks && keystoneSlot (beAt bs 0 2)) 3 ++ codeIf (w == .m && beAt bs 3 1 == 0) 3
      ++ codeIf (s.keyLoadCode bs != 0) (s.keyLoadCode bs)
  else if key = Od.keySlotOwner then codeIf (s.keySlotOwnerCode bs != 0) (s.keySlotOwnerCode bs)
  else if keyIs key 0x7200 256 1 then ((recordsOf 32 bs).map (s.saCodes ks (i - 0x7200))).flatten
  else if key = Od.espSaTable then
    ((recordsOf 88 bs).map (fun r => codeIf (decide (64 < beAt r 3 1) || (beAt r 16 2 != 0
        && !decide (32 ≤ beAt r 16 2 ∧ beAt r 16 2 ≤ 1024))) 4
      ++ codeIf (s.slotOwner (beAt r 0 2) != 1) 0x0A)).flatten
  else if key = Od.authTable then
    ((recordsOf 8 bs).map (fun r => codeIf (beAt r 2 1 != 8 && beAt r 2 1 != 16) 4
      ++ codeIf (s.slotOwner (beAt r 0 2) != 1) 0x0A)).flatten
  else if key = Od.protectionTxQueues then
    codeIf ((recordsOf 6 bs).any (fun r => decide (3 < beAt r 0 1 ∨ 3 < beAt r 1 1))) 4
  else if key = Od.sliceResourceSet then
    let c := s.sliceSetCode (beAt bs 0 2) (slice bs 8 64)
    codeIf (c != 0) c
  else if key = Od.sliceState then codeIf (s.sliceStateCode bs != 0) (s.sliceStateCode bs)
  else if keyIs key 0x9000 1025 1 then
    let c := s.namespaceCode (i - 0x9000) bs
    codeIf (c != 0) c
  else if key = Od.qpControl then (s.rdmaCodes 0 bs).filter (· != 0)
  else if key = Od.cqControl then (s.rdmaCodes 1 bs).filter (· != 0)
  else if key = Od.regionControl then (s.rdmaCodes 2 bs).filter (· != 0)
  else if key = Od.ahControl then (s.rdmaCodes 3 bs).filter (· != 0)
  else if keyIs key 0xB210 8 1 then
    codeIf (bs.isEmpty && !(s.dom (Od.ownerKey (i - 0xB210))).isEmpty
      && (List.range 8).all (fun k => k == i - 0xB210 || (s.dom (Od.ownerKey k)).isEmpty)) 0x0A
  else if key = Od.mgmtAllowList then codeIf ((recordsOf 17 bs).any (fun r => decide (128 < beAt r 16 1))) 4
  else []

/-! ### Class rules beyond the access column, conflicts with what stands (0x03, 0x06, 0x0A) -/

/-- The Keystone alone writes the entry as things stand: GateEnable and GateControlList of gates that close class 7
(R327), Rx SC3 (R353). -/
def State.keystoneOnly (s : State) (key : Nat) : Bool :=
  let i := key / 256
  let sub := key % 256
  (0x6000 ≤ i && i < 0x6100 && (sub == 3 || sub == 4) && s.gatesKeystone (i - 0x6000))
    || (0x7100 ≤ i && i < 0x7200 && sub == 0x0D && s.rdB (Od.ksEnable (i - 0x7100)))

/-- Extra class rules of scalars: the Keystone's key slots, gates, Rx SC3. -/
def State.classCodes (s : State) (w : Writer) (key v : Nat) : List Nat :=
  codeIf (w != .keystone && ((key == Od.keyErase && keystoneSlot v) || s.keystoneOnly key)) 3

/-- Conflicts of a scalar with the state it meets. -/
def State.meetsCodes (s : State) (key v : Nat) : List Nat :=
  let i := key / 256
  let sub := key % 256
  if key = Od.timeSet then codeIf (s.rdB Od.timeValid) 0x0A
  else if 0x2600 ≤ i ∧ i < 0x2620 then
    codeIf (sub == 2 && v != 0 && !s.linkPresent (v - 1)) 0x0A
  else if keyIs key 0x5400 32 3 then
    let x := s.ternary (i - 0x5400)
    codeIf ((x.ingress ++ x.egress).any (fun r => decide (r.index < s.rd key ∧ v ≤ r.index))) 0x0A
  else []

/-- A dictionary write of a pin's configuration while a PF3 owns the pin: the owner in force when the write comes
governs it (R88). [DESIGN CHOICE: log entry 118] -/
def State.pinOwned (s : State) (w : Writer) (key : Nat) : Bool :=
  let sub := key % 256
  decide (0x260000 ≤ key ∧ key < 0x262000) && w != .pinBlock && (sub == 1 || sub == 0xE || decide (3 ≤ sub ∧ sub ≤ 0xA))
    && s.rd (Od.tioOwner (key / 256 - 0x2600)) != 0

/-- Writes that an activation holds off (R557). -/
def activationHolds (key : Nat) : Bool :=
  key == Od.operatingMode || key == Od.microcodePatch || key == Od.imageDownload || key == Od.imageCommit
    || key == Od.slotErase || keyIs key 0xB300 16 1 || key == Od.activateSlot || fuseEntry key

/-- Query entries, which only name what the following read returns (R146). -/
def queryEntry (key : Nat) : Bool :=
  key == Od.fdbQuery || key == Od.fdbSweep || keyIs key 0x5400 32 2 || keyIs key 0x5500 16 4 || keyIs key 0x5500 16 5
    || keyIs key 0x6400 32 2 || key == Od.keySlotInfo || key == Od.sliceQuery || key == Od.rdmaQuery
    || key == Od.eventRead || key == Od.eventSeverity

/-- Entries of a set that have a commit entry of their own (R533). -/
def ownCommit (key : Nat) : Bool :=
  key == Od.courseLength || (0x260000 ≤ key && key < 0x262000 && 6 ≤ key % 256 && key % 256 ≤ 0x0A)

/-- The codes of an item's write by a class, beside its class, type and length: 0x07 of the mode, its range, its class
rules, its conflicts with the state it meets. The state is that of its instant for what stands, `h` the one it will
meet when it applies. -/
def State.itemCodes (s h : State) (w : Writer) (r : OdRow) (i : Item) : List Nat :=
  let key := i.key
  codeIf (w != .keystone && s.rd Od.modeInForce == 7 && !queryEntry key) 7
    ++ codeIf (h.mode == 6 && mode6Denies key) 7
    ++ codeIf (s.rd Od.modeInForce == 7 && (keyIs key 0x5500 16 1 || keyIs key 0x5500 16 2 || keyIs key 0x5500 16 3)) 7
    ++ codeIf (!inRange r i) 4
    ++ codeIf (s.pinOwned w key) 0x0A
    ++ codeIf (s.activating != 0 && activationHolds key) 6
    ++ (match i with
        | .num _ v => h.numCodes key v ++ h.classCodes w key v ++ h.meetsCodes key v
        | .raw _ bs => if commitChecked key then [] else h.rawCodes w key bs)

/-- Codes that come only with the whole set or write in place: broken relations (0x0A), streams below their Dmax. -/
def State.afterCodes (s : State) (key : Nat) : List Nat :=
  codeIf (s.relationBad key) 0x0A
    ++ codeIf ((key == Od.streamTable || keyIs key 0x5400 32 1 || keyIs key 0x5500 16 3) && s.streamsBad) 0x0A

end Sys2Proof.Machine
end

