-- ==== Sys2Proof/Machine/Agent.lean ====
section
/-! DEFINITION. Machine/Agent.lean: the dictionary agent (R530 to R537): reads, writes, staging and commit. What a path
adds to a request (a session's sequence, a mailbox's flags) is in Machine/Blp.lean. -/

namespace Sys2Proof.Machine

/-! ### Reads (R532) -/

/-- The 32 bytes of an event record (R551). -/
def EventRec.bytes (e : EventRec) : List Byte :=
  beBytes 32 (e.code * 2 ^ 240 + e.severity * 2 ^ 232 + boolNat e.timeValid * 2 ^ 231 + e.sequence % 2 ^ 64 * 2 ^ 160
    + ts96 e.time * 2 ^ 64 + e.param)

/-- Up to 32 records from a Sequence, or from the oldest held (R552). [DESIGN CHOICE: log entry 51] -/
def State.eventsFrom (s : State) (seq : Nat) : List EventRec :=
  ((s.log.ring.reverse).filter (fun e => decide (seq ≤ e.sequence))).take 32

/-- A tile's byte of TileStatus (R24): Present, Fault, SparesInUse. -/
def State.tileByte (s : State) (t : Nat) : Nat :=
  let spares :=
    if t < 32 then boolNat (s.pipe (2 * t)).spareUsed + boolNat (s.pipe (2 * t + 1)).spareUsed
    else if 0x20 ≤ t ∧ t < 0x30 then min 1 (tblGet 0 s.service.cores (t - 0x20))
    else 0
  128 + boolNat (s.keystone.faults.contains t) * 64 + spares * 16

/-- SharedFree of a port tile: in mode 6 what is free of its 4 × 128 crosspoints' 56 bricks each (R612). -/
def State.sharedFreeNow (s : State) (t : Nat) : Nat :=
  if s.mode = 6 then
    4 * 128 * 56 - ((s.tilePorts t).map (fun p => ((List.range 256).map (fun i => s.crosspoint i p false)).sum)).sum
  else s.sharedFree t

/-- Scalars the device computes when they are read. -/
def State.computedNum (s : State) (key : Nat) : Option Nat :=
  let i := key / 256
  let sub := key % 256
  if key = Od.timeNow then some (ts96 s.now)
  else if 0x480001 ≤ key ∧ key ≤ 0x480006 then some ((slotOwnership (s.rd Od.modeInForce)).getD (sub - 1) 0)
  else if 0x3100 ≤ i ∧ i < 0x3200 ∧ s.portWidth (i - 0x3100) = 0 then
    some (if sub = 9 then s.localAssignment (i - 0x3100) else odDefault key)
  else if keyIs key 0x4200 32 1 then some (s.sharedFreeNow (i - 0x4200))
  else if keyIs key 0x4200 32 4 then
    some (if s.mode = 6 then 0 else ((s.tilePorts (i - 0x4200)).map (fun p =>
      ((List.range 7).map (fun c => s.rd (Od.headroomBricks p c))).sum)).sum)
  else if key = Od.poolBase 0x41 then some (s.poolBase 0x41)
  else if 0x4900 ≤ i ∧ i < 0x4942 ∧ sub = 3 then some (s.poolCapacity (i - 0x4900))
  else if 0x4900 ≤ i ∧ i < 0x4942 ∧ sub = 4 then some (s.poolFree (i - 0x4900))
  else if keyIs key 0x5600 32 6 then some (s.engineStatus (i - 0x5600))
  else if key = Od.trackerFree then some s.trackerFreeNow
  else if key = Od.trackerReservedSum then some s.trackerReservedNow
  else if i = 0x9800 ∧ 6 ≤ sub ∧ sub ≤ 9 then
    some (s.storage.cmds.filter (fun c => c.granted && c.lock.isSome && c.tile == sub - 6)).length
  else none

/-- StreamLateFrames: one U64 for each stream of the table (R220). -/
def State.streamLateRead (s : State) : List Byte :=
  sized (max (s.dom Od.streamTable).length (s.dom Od.streamLateFrames).length) (s.dom Od.streamLateFrames)

/-- What a byte sequence reads as before anything was written (R219, R223). -/
def domDefault (key : Nat) : List Byte :=
  if key = Od.vlanTable then (List.range 4096).flatMap (fun v => (vlanFirst v).bits)
  else if keyIs key 0x4300 8 2 ∨ keyIs key 0x4300 8 3 then List.replicate 32 0
  else []

/-- Byte sequences the device computes when they are read, without an argument. -/
def State.computedDom (s : State) (key : Nat) : Option (List Byte) :=
  let i := key / 256
  if key = Od.sessionTable then
    some ((s.agent.sessions.map (fun x => beBytes 4 x.id ++ beBytes 1 x.signer ++ beBytes 1 x.path
      ++ beBytes 12 (ts96 x.opened) ++ beBytes 12 (ts96 x.last))).flatten)
  else if key = Od.budgetReport then some s.budgetReportRead
  else if key = Od.calibrationRecord then some Sys2Proof.Machine.calibrationRecord
  else if key = Od.tileStatus then some ((List.range 57).map (fun t => BitVec.ofNat 8 (s.tileByte t)))
  else if keyIs key 0x5600 32 2 then some (s.dispatchRead (2 * (i - 0x5600)))
  else if keyIs key 0x5600 32 3 then some (s.dispatchRead (2 * (i - 0x5600) + 1))
  else if key = Od.neighbourTable then some s.neighbourRead
  else if keyIs key 0x6000 256 5 then some (s.gateStatusRead (i - 0x6000))
  else if keyIs key 0x6200 256 1 then some (s.queueSamplesRead (i - 0x6200))
  else if keyIs key 0x7200 256 1 then some (s.saTableRead (i - 0x7200))
  else if key = Od.espSaTable then some ((s.cipher.esp.map (fun e => espBytes e.1 e.2)).flatten)
  else if key = Od.authTable then
    some ((s.cipher.auth.map (fun e => beBytes 2 e.1 ++ beBytes 1 e.2.1 ++ beBytes 1 0 ++ beBytes 4 e.2.2)).flatten)
  else if 0x8030 ≤ i ∧ i < 0x80B0 then some (beBytes 32 (s.window ((i - 0x8030) / 64) ((i - 0x8030) % 64)).active)
  else if 0x9000 ≤ i ∧ i < 0x9401 then
    some (match s.storage.namespaces.find? (fun e => e.1 == i - 0x9000) with
      | some e => e.2.record
      | none => List.replicate 48 0)
  else if key = Od.measurements then some (((List.range 9).map (fun n => sized 48 (s.measurement (n + 1)))).flatten)
  else if key = Od.certificateChain then some s.chain
  else if key = Od.streamLateFrames then some s.streamLateRead
  else if keyIs key 0xD100 32 1 then some (s.policerCountersRead (i - 0xD100))
  else if key = Od.sliceCounters then some s.sliceCountersRead
  else if key = Od.namespaceCounters then some s.nsCountersRead
  else if keyIs key 0xDE00 32 1 then some (s.ruleCountersRead (i - 0xDE00))
  else if key = Od.hbmSpareRows then
    some ((List.range 512).map (fun b => BitVec.ofNat 8 (4 - tblGet 0 s.service.spares b)))
  else none

/-- The argument a context has written to a query entry (R552). -/
def State.arg (s : State) (ctx key : Nat) : Option (List Byte) :=
  (s.agent.args.find? (fun e => e.1 == ctx * 2 ^ 24 + key)).map Prod.snd

/-- A query entry's answer to a context; a sweep clears the Hit bits it returns (R232, R281). -/
def State.queryRead (s : State) (ctx key : Nat) : State × List Byte :=
  let i := key / 256
  match s.arg ctx key with
  | none => if key = Od.eventRead then (s, ((s.eventsFrom 0).map EventRec.bytes).flatten) else (s, [])
  | some a =>
    if key = Od.eventRead then (s, ((s.eventsFrom (beNat a)).map EventRec.bytes).flatten)
    else if key = Od.eventSeverity then (s, a ++ beBytes 1 (eventSeverity (beNat a)))
    else if key = Od.fdbQuery then (s, s.fdbQueryRead a)
    else if key = Od.fdbSweep then s.fdbSweepRead (beAt a 0 4) (beAt a 4 2)
    else if keyIs key 0x5400 32 2 then (s, s.ternaryQueryRead (i - 0x5400) (beNat a))
    else if keyIs key 0x5500 16 4 then (s, s.exactQueryRead (i - 0x5500) (beNat a))
    else if keyIs key 0x5500 16 5 then s.exactSweepRead (i - 0x5500) (beAt a 0 4) (beAt a 4 2)
    else if keyIs key 0x5600 32 5 then
      (s, a.take 3 ++ s.memoryRead (pipeNo (i - 0x5600) (beAt a 0 1)) (beAt a 1 2) ((a.length - 3) / 4))
    else if keyIs key 0x6400 32 2 then (s, s.policerQueryRead ((i - 0x6400) * 2048 + beNat a % 2048))
    else if key = Od.keySlotInfo then (s, s.keySlotInfo (beNat a))
    else if key = Od.sliceQuery then (s, s.sliceQueryRead (beNat a))
    else if key = Od.sliceState then (s, s.sliceStateRead (beAt a 0 2) (beAt a 2 1) (beAt a 3 1))
    else (s, s.rdmaQueryRead (beAt a 0 1) (beAt a 1 4))

/-- The entries whose read answers an argument written before. -/
def argumentEntry (key : Nat) : Bool :=
  queryEntry key || keyIs key 0x5600 32 5 || key == Od.sliceState

/-- A write of the entry has been accepted and has not applied (R532). -/
def State.pendingWrite (s : State) (key : Nat) : Bool :=
  s.agent.crs.any (fun c => c.item.key == key) || s.agent.commits.any (fun c => c.items.any (fun i => i.key == key))
    || s.agent.lost.any (fun d => d.item.key == key)

/-- The bytes an entry reads as. A WO entry reads 0 (R15's way); a KEY never reads. [DEDUCED: log entry 27] -/
def State.valueBytes (s : State) (ctx key : Nat) (r : OdRow) : State × List Byte :=
  match r.type with
  | .key => (s, [])
  | .domain | .string _ =>
    if !r.access.reads then (s, [])
    else if argumentEntry key then s.queryRead ctx key
    else match s.computedDom key with
      | some bs => (s, bs)
      | none => (s, if (s.dom key).isEmpty then domDefault key else s.dom key)
  | t =>
    if !r.access.reads then (s, beBytes (t.bits / 8) 0)
    else (s, beBytes (t.bits / 8) ((s.computedNum key).getD (s.rd key)))

/-- Areas whose reads are answered in recovery (R525). -/
def recoveryReads (key : Nat) : Bool :=
  key / 0x100000 == 0x1 || key / 0x100000 == 0xB || key / 0x100000 == 0xC

/-- READ's answer: status, then Type, Flags, a reserved byte, Length and the value (R542). -/
def State.agentRead (s : State) (ctx key : Nat) : State × Resp :=
  let bare (c : Nat) : Resp := ⟨c, beBytes 3 0 ++ beBytes 4 0⟩
  if odIndexKnown (key / 256) = false then (s, bare 1)
  else match odRow? key with
    | none => (s, bare 2)
    | some r =>
      if s.boot.phase = 3 ∧ recoveryReads key = false then (s, bare 7)
      else
        let (s1, bs) := s.valueBytes ctx key r
        (s1, ⟨0, beBytes 1 r.type.code ++ beBytes 1 (boolNat (s.pendingWrite key)) ++ beBytes 1 0
          ++ beBytes 4 bs.length ++ bs⟩)

/-! ### Persistence (R537) -/

/-- The bytes of the entry are what the dictionary holds of it: not a set of operations on a table. -/
def domKept (key : Nat) : Bool :=
  !(commitChecked key || keyIs key 0x6400 32 1 || key == Od.keyLoad || key == Od.keySlotOwner || keyIs key 0x7200 256 1
    || key == Od.espSaTable || key == Od.authTable || key == Od.sliceResourceSet || keyIs key 0x9000 1025 1
    || (0xA100 ≤ key / 256 && key / 256 < 0xA101) || keyIs key 0x2600 32 0x0E)

/-- An accepted value of a persisted entry goes into MRAM. What the tables hold is kept with them. -/
def State.persist (s : State) (i : Item) : State :=
  match odRow? i.key with
  | none => s
  | some r =>
    if !r.persisted then s
    else match i with
      | .num k v => { s with store := tblSet (odDefault k) s.store k v }
      | .raw k bs => if domKept k then { s with storeDoms := tblSet [] s.storeDoms k bs } else s

/-- A generation set's persisted values (R91, R94). -/
def State.persistGen (s : State) (n : Nat) (bs : List Byte) : State :=
  (((s.persist (.num (Od.period n) (beAt bs 12 8))).persist (.num (Od.width n) (beAt bs 20 4))).persist
    (.num (Od.count n) (beAt bs 24 4))).persist (.num (Od.outputDelay n) (beAt bs 28 4))

/-! ### Accepting (R119 to R122, R532 to R534) -/

/-- The entry belongs to a set whose commit has been accepted and has not applied (R120). -/
def State.inCommit (s : State) (key : Nat) : Bool := s.agent.commits.any (fun c => c.items.any (fun i => i.key == key))

/-- A Crs write is accepted: it is stamped and persisted. -/
def State.acceptCrs (s : State) (ctx : Nat) (i : Item) : State × Nat :=
  let c := s.applyCourse
  let s1 := { s with agent := { s.agent with crs := s.agent.crs ++ [CrsWrite.mk ctx i c] } }
  ((match i with
    | .raw k bs =>
      if k = Od.regionControl then s1.regionsAccepted bs
      else if keyIs k 0x2600 32 0x0E then s1.persistGen (k / 256 - 0x2600) bs
      else s1.persist i
    | .num .. => s1.persist i), c)

/-- Bytes an item takes in a staging area. -/
def Item.size : Item → Nat
  | .num .. => 16
  | .raw _ bs => 8 + bs.length

/-- What a context has staged. -/
def State.stagedBy (s : State) (ctx : Nat) : List Item :=
  ((s.agent.staged.find? (fun e => e.1 == ctx)).map Prod.snd).getD []

/-- Put a context's staged items. -/
def State.setStaged (s : State) (ctx : Nat) (l : List Item) : State :=
  { s with agent := { s.agent with staged := tblSet [] s.agent.staged ctx l } }

/-- The staging area of a context: 2 MiB (R533). -/
def stagingLimit : Nat := 2097152

/-- The state with an item of a writer in force beside everything accepted for its boundary. -/
def State.withItem (s : State) (w : Writer) (i : Item) : State :=
  (s.settledBy s.applyCourse).applyItem (w == .keystone) i

/-- A write or commit refused with a code (R20, R531): counted, and nothing else but what R123 adds for the budget, naming
the first overloaded instance, and R238 for the generation window. -/
def State.refuseAt (s : State) (code : Nat) (x : Option Load) : State :=
  let s1 := s.bump Od.refusedWrites
  if code = 0x0B then s1.budgetRefused (x.getD s1.commitLoad) else s1

/-- A write refused with a code, on the state it would have left. -/
def State.refuse (s : State) (code : Nat) (after : State) : State := s.refuseAt code after.overloaded

/-- The first unit a change of mode overloads at its target's length (R137). -/
def State.changeLoad (s : State) (target : Nat) : Option Load :=
  s.overload (if s.lengthFor target = 0 then s.len else s.lengthFor target)

/-- OperatingMode's write (R136, R137, R144): status, and the state when it is 0. [DESIGN CHOICE: log entry 92] -/
def State.writeMode (s : State) (ctx v : Nat) (stopped : Bool) : Nat × State × Nat :=
  let m := s.rd Od.modeInForce
  if m ≤ 5 ∧ v ≤ 5 then
    if v = m ∧ s.changing = false then (0, s, 0)
    else
      let c := pickCode (s.modeCodes v stopped)
      if c ≠ 0 then (c, s, 0)
      else
        let (s1, n) := (s.beginChange v false).acceptCrs ctx (.num Od.operatingMode v)
        (0, s1, n)
  else
    let (s1, n) := s.acceptCrs ctx (.num Od.operatingMode v)
    (0, s1, n)

/-- SafeModeCommand's write (R145, R147, R570). -/
def State.writeSafeMode (s : State) (ctx v : Nat) (stopped : Bool) : Nat × State × Nat :=
  let m := s.rd Od.modeInForce
  let before := s.rd Od.modeBeforeSafe
  if m ≠ 7 then
    if v ≠ 7 then (0x0A, s, 0)
    else
      let (s1, n) := s.acceptCrs ctx (.num Od.safeModeCommand v)
      (0, s1, n)
  else if v = 7 then (0, s, 0)
  else
    let codes := codeIf (!(v == before || (decide (before ≤ 5) && decide (v ≤ 5)))) 4 ++ s.modeCodes v stopped
      ++ codeIf s.faultPersists 0x0A
    let c := pickCode codes
    if c ≠ 0 then (c, s, 0) else (0, s.beginChange v true, s.applyCourse)

/-- The generation set a GenCommit starts from (R609): the newest accepted one of the pin, one that its boundary has yet to
judge, or what is in force. -/
def State.genBase (s : State) (n : Nat) : List Byte :=
  let accepted := (s.agent.crs.map (fun c => c.item) ++ (s.agent.commits.map (fun c => c.items)).flatten).filterMap
    (fun i => match i with
      | .raw k bs => if k = Od.genCommit n then some bs else none
      | .num .. => none)
  match accepted.getLast?, (s.pin n).commits.getLast? with
  | some bs, _ => bs
  | none, some (start, period, width, count, delay) => genSetBytes (ts96 start) period width count (ofSigned 32 delay)
  | none, none => genSetBytes (s.rd (Od.startTime n)) (s.rd (Od.period n)) (s.rd (Od.width n)) (s.rd (Od.count n))
      (s.rd (Od.outputDelay n))

/-- The generation set a GenCommit takes (R91): what the context has staged over the set before it. -/
def State.genSet (s : State) (ctx n : Nat) : List Byte :=
  let base := 0x2600 + n
  let before := s.genBase n
  let value (sub at_ len : Nat) : Nat := (s.stagedBy ctx).foldl (fun v i => match i with
    | .num k x => if k = base * 256 + sub then x else v
    | .raw .. => v) (beAt before at_ len)
  genSetBytes (value 6 0 12) (value 7 12 8) (value 8 20 4) (value 9 24 4) (value 0x0A 28 4)

/-- The context's staged items without those of a pin's generation set. -/
def State.dropGen (s : State) (ctx n : Nat) : State :=
  s.setStaged ctx ((s.stagedBy ctx).filter (fun i => !(i.key / 256 == 0x2600 + n && ownCommit i.key)))

/-- CourseCommit's write (R107, R108, R128). [DESIGN CHOICE: log entry 129] -/
def State.writeLength (s : State) (l : Nat) : Nat × State × Nat :=
  let codes := s.numCodes Od.courseLength l ++ codeIf (s.rd Od.coursePending != 0) 6
    ++ codeIf (s.overload l).isSome 0x0B
  let c := pickCode codes
  if c ≠ 0 then (c, s, 0)
  else (0, (s.commitLength l).persist (.num Od.courseLength l), s.applyCourse)

/-- CourseLength as a context has staged it; with nothing staged the length in force. What a CourseCommit took stays staged.
[DESIGN CHOICE: log entry 129] -/
def State.stagedLength (s : State) (ctx : Nat) : Nat :=
  (s.stagedBy ctx).foldl (fun v i => match i with
    | .num k x => if k = Od.courseLength then x else v
    | .raw .. => v) s.len

/-! ### Images (R523, R524, R527) -/

/-- A download is written to flash as it arrives: byte 0 of the value names the slot, the rest is the image.
[DESIGN CHOICE: log entry 105] -/
def State.downloadStarts (s : State) (n : Nat) : State :=
  ((s.setSlot n []).wr (Od.slotSequence n) 0).noteSlot n 1

/-- Code of a download that names a slot: the active one is refused. [DESIGN CHOICE: log entry 105] -/
def State.downloadCode (s : State) (n : Nat) : Nat :=
  if 1 < n then 4 else if s.rd Od.activeSlot = n then 0x0A else 0

/-- ImageCommit (R523): the slot is checked; 0x00 only for code 0. In recovery a valid slot starts the Kiln again. -/
def State.imageCommitted (s : State) (n : Nat) : State × Nat :=
  let s1 := s.checkSlot n
  (s1, if s1.slotCode false n = 0 then 0 else 0x0A)

/-- SlotErase (R524). -/
def State.eraseSlot (s : State) (n : Nat) : State :=
  ((s.setSlot n []).wr (Od.slotSequence n) 0).noteSlot n 1

/-! ### Writes (R531) -/

/-- The codes of a write but for those of what stands in its way at its boundary. -/
def State.frontCodes (s : State) (w : Writer) (r : OdRow) (key : Nat) (v : WireValue) : List Nat :=
  codeIf (!mayWrite r.access w || (w != .keystone && s.keystoneOnly key)) 3
    ++ codeIf (key == Od.microcodePatch && !s.patchSigned v.bytes) 9 ++ (match itemOf r key v with
    | none => [5]
    | some _ => [])
    ++ codeIf (s.boot.phase == 3 && !(key == Od.imageDownload || key == Od.imageCommit || key == Od.slotErase
        || key == Od.eventRead || key == Od.signedCommand || w == .keystone || w == .firmware)) 7

/-- An Imm write that passed its checks is applied (R532). -/
def State.applyNow (s : State) (ctx : Nat) (w : Writer) (i : Item) : State × Nat :=
  match i with
  | .num k v =>
    if k = Od.imageCommit then s.imageCommitted v
    else if k = Od.slotErase then
      if s.rd Od.activeSlot = v then (s, 0x0A) else (s.eraseSlot v, 0)
    else ((s.applyItem (w == .keystone) i).persist i, 0)
  | .raw k bs =>
    if k = Od.sliceState then
      ({ s with agent := { s.agent with args := tblPut s.agent.args (ctx * 2 ^ 24 + k) (bs.take 4) } }.applySliceState bs, 0)
    else if keyIs k 0x5600 32 5 then
      let s1 := { s with agent := { s.agent with args := tblPut s.agent.args (ctx * 2 ^ 24 + k) bs } }
      let words := (chunks 4 ((bs.length - 3) / 4) (bs.drop 3)).map leNat
      (s1.memoryWrite (pipeNo (k / 256 - 0x5600) (beAt bs 0 1)) (beAt bs 1 2) words, 0)
    else if k = Od.imageDownload then
      let n := beAt bs 0 1
      let c := s.downloadCode n
      if c ≠ 0 then (s, c) else ((s.downloadStarts n).setSlot n (bs.drop 1), 0)
    else ({ s with agent := { s.agent with args := tblPut s.agent.args (ctx * 2 ^ 24 + k) bs } }, 0)

/-- The outcome of a write: its status and the course it applies in. -/
structure Written where
  state : State
  status : Nat
  course : Nat

/-- A write whose entry and value are known, with the codes it has failed with so far. `stopped` says, for a mode change
and TileSleep, that the cores concerned are stopped. -/
def State.writeItem (s : State) (ctx : Nat) (w : Writer) (r : OdRow) (stopped : Bool) (front : List Nat) (i : Item) :
    Written :=
  let key := i.key
  let h := if r.effect == .crs then s.settledBy s.applyCourse else s
  let base := front ++ s.itemCodes h w r i
  match r.effect with
  | .none => ⟨s.refuse 3 s, 3, 0⟩
  | .imm =>
    let c0 := pickCode (base ++ codeIf (s.inCommit key) 6)
    let (s1, c1) := s.applyNow ctx w i
    let c := pickCode ([c0, c1].filter (· != 0))
    if c = 0 then ⟨s1, 0, s.course⟩
    else if c = c0 then ⟨s.refuse c s, c, 0⟩
    else ⟨s1.bump Od.refusedWrites, c, 0⟩
  | .start =>
    let c := pickCode (base ++ codeIf (s.inCommit key) 6)
    if c ≠ 0 then ⟨s.refuse c s, c, 0⟩ else ⟨s.persist i, 0, 0⟩
  | .crs =>
    let special : Option (Nat × Nat × State × Nat) := match i with
      | .num k v =>
        if pickCode base ≠ 0 then none
        else if k = Od.operatingMode then some (v, s.writeMode ctx v stopped)
        else if k = Od.safeModeCommand then some (v, s.writeSafeMode ctx v stopped)
        else none
      | .raw .. => none
    match special with
    | some (v, c0, s1, n) =>
      let c := pickCode (c0 :: codeIf (s.inCommit key) 6)
      if c ≠ 0 then ⟨s.refuseAt c (s.changeLoad v), c, 0⟩ else ⟨s1, 0, n⟩
    | none =>
      let gen := keyIs key 0x2600 32 0x0E
      let item : Item := if gen then .raw key (s.genSet ctx (key / 256 - 0x2600)) else i
      let after := h.applyItem (w == .keystone) item
      let more := after.afterCodes key ++ h.targetCodes after
        ++ (match item with
            | .raw k bs => codeIf (keyIs k 0x2600 32 0x0E && decide (beAt bs 12 8 < (beAt bs 20 4 + 5) * nsTicks)) 0x0A
            | .num k v =>
              if k = Od.activateSlot then s.activateCodes v
              else codeIf (keyIs k 0xB300 16 1 && v == 1 && !stopped) 0x0A)
        ++ codeIf (s.inCommit key) 6 ++ codeIf after.overloaded.isSome 0x0B
      let c := pickCode (base ++ more)
      if c ≠ 0 then ⟨s.refuse c after, c, 0⟩
      else
        let s0 := if gen then s.dropGen ctx (key / 256 - 0x2600) else s
        let (s1, n) := s0.acceptCrs ctx item
        ⟨s1, 0, n⟩
  | .set =>
    if key = Od.courseCommit then
      let c := pickCode base
      if c ≠ 0 then ⟨s.refuse c s, c, 0⟩
      else
        let (c1, s1, n) := s.writeLength (s.stagedLength ctx)
        if c1 ≠ 0 then ⟨s.refuseAt c1 (s.overload (s.stagedLength ctx)), c1, 0⟩ else ⟨s1, 0, n⟩
    else
      let now := base.filter (fun c => c != 0x0A && c != 0x0B && c != 6)
      let lists := match i with
        | .raw _ bs => keyIs key 0x6000 256 4 && (gateListOf bs).isSome && (s.applyItem (w == .keystone) i).overloaded.isSome
        | .num .. => false
      let used := ((s.stagedBy ctx).map Item.size).sum
      let codes := now ++ codeIf (s.pinOwned w key) 0x0A
        ++ codeIf (s.activating != 0 && activationHolds key) 6 ++ codeIf (s.inCommit key) 6
        ++ codeIf (decide (stagingLimit < used + i.size)) 6 ++ codeIf lists 0x0B
      let c := pickCode codes
      if c ≠ 0 then ⟨s.refuse c (s.applyItem (w == .keystone) i), c, 0⟩
      else ⟨s.setStaged ctx (s.stagedBy ctx ++ [i]), 0, 0⟩

/-- A dictionary write by a context of a class (R531). -/
def State.agentWrite (s : State) (ctx : Nat) (w : Writer) (stopped : Bool) (key : Nat) (v : WireValue) : Written :=
  if odIndexKnown (key / 256) = false then ⟨s.refuse 1 s, 1, 0⟩
  else match odRow? key with
    | none => ⟨s.refuse 2 s, 2, 0⟩
    | some r =>
      let front := s.frontCodes w r key v
      match itemOf r key v with
        | none => ⟨s.refuse (pickCode front) s, pickCode front, 0⟩
        | some i => s.writeItem ctx w r stopped front i

/-! ### Sets (R533, R534) -/

/-- Items of one table's operations are one item of the set. [DESIGN CHOICE: log entry 96] -/
def mergeItems : List Item → List Item → List Item
  | acc, [] => acc
  | acc, i :: rest =>
    let joins (a : Item) : Bool := a.key == i.key && (commitChecked i.key || keyIs i.key 0x6400 32 1)
    match i with
    | .raw k bs =>
      if acc.any joins then
        mergeItems (acc.map (fun a => match a with
          | .raw k' old => if joins (.raw k' old) then .raw k (old ++ bs) else a
          | .num .. => a)) rest
      else mergeItems (acc ++ [i]) rest
    | .num .. => mergeItems (acc ++ [i]) rest

/-- Pipelines and their programs an item changes. -/
def programPipes (i : Item) : List Nat :=
  match i with
  | .raw k bs => if keyIs k 0x5600 32 1 then ((progOps 256 bs).getD []).map (fun o => pipeNo (k / 256 - 0x5600) o.pipeline) else []
  | .num .. => []

/-- A course at whose beginning the item's own chapter lets it apply (R238, R280, R299), given the commits accepted
before. -/
def State.courseFree (s : State) (i : Item) (c : Nat) : Bool :=
  let key := i.key
  let others : List Nat := (s.agent.commits.filter (fun x => x.items.any (fun j => j.key == key))).map s.commitCourse
  let apart (n : Nat) : Bool := others.all (fun o => decide (o + n ≤ c) || decide (c + n ≤ o))
  let flip (f : Option Nat) : Bool := match f with | some o => decide (o + s.cleanupCourses ≤ c) | none => true
  if key = Od.fdbUpdate then apart 1
  else if keyIs key 0x5400 32 1 then apart s.cleanupCourses && flip (s.ternary (key / 256 - 0x5400)).flipped
  else if keyIs key 0x5500 16 3 then apart s.cleanupCourses && flip (s.exact (key / 256 - 0x5500)).flipped
  else if keyIs key 0x5600 32 1 then
    let mine := programPipes i
    let near : List Nat := (s.agent.commits.filter (fun x => x.items.any (fun j => j.key == key
      && (programPipes j).any mine.contains))).map s.commitCourse
    near.all (fun o => decide (o + 2 ≤ c) || decide (c + 2 ≤ o)) && s.trowel.retired.all (fun r => !mine.contains r.1 || decide (r.2.2.2 ≤ c))
  else true

/-- The first course from `c` at which every item of a set may apply. -/
def State.firstFree (s : State) (items : List Item) (c : Nat) : Nat → Nat
  | 0 => c
  | fuel + 1 => if items.all (fun i => s.courseFree i c) then c else s.firstFree items (c + 1) fuel

/-- Courses looked through for a boundary. -/
def boundaryFuel : Nat := 65536

/-- The codes of each item of a set, on the state accepted commits leave, and of the set in place. -/
def State.commitCodes (s : State) (w : Writer) (h after : State) (items : List Item) : List (Nat × Nat) :=
  items.map (fun i =>
    let codes := (match odRow? i.key with
      | none => [2]
      | some r => (s.itemCodes h w r i).filter (· != 6))
      ++ (match i with
          | .raw k bs =>
            (if commitChecked k then h.setCodes (w == .keystone) k bs else [])
              ++ (if k = Od.microcodePatch then h.patchCodes (patchOf bs) else [])
          | .num .. => [])
      ++ after.afterCodes i.key ++ h.targetCodes after
      ++ codeIf (s.activating != 0 && activationHolds i.key) 6
    (i.key, pickCode codes))

/-- The first item after which a set overloads a unit. -/
def firstOverload (ks : Bool) : State → List Item → Option Nat
  | _, [] => none
  | h, i :: rest =>
    let h1 := h.applyItem ks i
    if h1.overloaded.isSome then some i.key else firstOverload ks h1 rest

/-- Ternary and exact-match sets of an accepted commit are staged in their tables when those hold no other set (R278).
[DESIGN CHOICE: log entry 96] -/
def State.stageTables (s : State) (signed : Bool) (items : List Item) : State :=
  items.foldl (fun s i => match i with
    | .raw k bs =>
      let n := k / 256
      if keyIs k 0x5400 32 1 then
        let x := s.ternary (n - 0x5400)
        if x.staged || x.flipped.isSome then s
        else match Ternary.stage (s.rd (Od.keystoneEntries (n - 0x5400))) signed x ((recordsOf 208 bs).map ternaryOpOf) with
          | some y => s.setTernary (n - 0x5400) y
          | none => s
      else if keyIs k 0x5500 16 3 then
        let e := s.exact (n - 0x5500)
        if e.staged || e.flipped.isSome then s
        else match Exact.stage (s.rd (Od.exactCapacity (n - 0x5500))) e ((recordsOf 72 bs).map exactOpOf) with
          | some y => s.setExact (n - 0x5500) y
          | none => s
      else s
    | .num .. => s) s

/-- The set's persisted entries are noted as one, in place of the sets that wrote them before (R538).
[DESIGN CHOICE: log entry 81] -/
def State.noteSet (s : State) (items : List Item) : State :=
  let keys := (items.map Item.key).filter (fun k => match odRow? k with | some r => r.persisted | none => false)
  { s with storeSets := keys :: (s.storeSets.map (fun l => l.filter (fun k => !keys.contains k))).filter (fun l => !l.isEmpty) }

/-- A set is accepted for its boundary: the first from `course` on that its target time allows (R121). -/
def State.acceptSet (s : State) (ctx : Nat) (items : List Item) (course target : Nat) : State :=
  let s1 := { s with agent := { s.agent with commits := s.agent.commits ++ [Commit.mk ctx items course target] } }
  let s2 := (items.foldl (fun s i => s.persist i) s1).noteSet items
  let s3 := s2.stageTables (ctx == 0) items
  if items.any (fun i => i.key == Od.microcodePatch) then s3.wr Od.patchStatus 1 else s3

/-- The outcome of a COMMIT: status, failing key, ApplyCourse. -/
structure Committed where
  state : State
  status : Nat
  failing : Nat
  course : Nat

/-- A set is checked as a whole and accepted, or refused (R533, R534). -/
def State.commitSet (s : State) (ctx : Nat) (w : Writer) (items : List Item) (target : Nat) : Committed :=
  let first := if target = 0 then s.applyCourse else max s.applyCourse (s.courseAt target)
  let c0 := s.firstFree items first boundaryFuel
  let h := s.settledBy c0
  let after := h.applySet (w == .keystone) items
  let codes := s.commitCodes w h after items
  let c := pickCode (codes.map Prod.snd)
  if c ≠ 0 then
    let window := items.any (fun i => i.key == Od.fdbUpdate) && !h.fdbWindowOk
    let s1 := s.refuse c after
    ⟨if window then s1.raise 0x5A08 (h.rd Od.fdbOldestGen) else s1, c,
      ((codes.find? (fun e => e.2 == c)).map Prod.fst).getD 0, 0⟩
  else if after.overloaded.isSome then
    ⟨s.refuse 0x0B after, 0x0B, (firstOverload (w == .keystone) h items).getD ((items.getLast?.map Item.key).getD 0), 0⟩
  else if 64 ≤ s.commitsAt c0 then ⟨s.refuse 0x0B s, 0x0B, 0, 0⟩
  else ⟨s.acceptSet ctx items (if c0 = first then s.applyCourse else c0) target, 0, 0, c0⟩

/-- COMMIT of a context (R533): entries with a commit entry of their own stay staged. -/
def State.agentCommit (s : State) (ctx : Nat) (w : Writer) (target : Nat) : Committed :=
  let staged := s.stagedBy ctx
  let items := mergeItems [] (staged.filter (fun i => !ownCommit i.key))
  let s1 := s.setStaged ctx (staged.filter (fun i => ownCommit i.key))
  if items.isEmpty then ⟨s1, 0, 0, 0⟩ else s1.commitSet ctx w items target

/-- COMMIT as a frame carries it: an invalid TargetTime is 0x04, which the codes before it in R21 outrank; a commit that
fails discards what was staged (R533). [DESIGN CHOICE: log entry 87] -/
def State.askedCommit (s : State) (ctx : Nat) (w : Writer) (target : Nat) : Committed :=
  if ts96Valid target then s.agentCommit ctx w (ts96Ticks target)
  else
    let o := s.agentCommit ctx w 0
    if [1, 2, 3, 9, 5, 7].contains o.status then o
    else ⟨(s.setStaged ctx ((s.stagedBy ctx).filter (fun i => ownCommit i.key))).refuse 4 s, 4, 0, 0⟩

end Sys2Proof.Machine
end

