-- ==== Sys2Proof/Machine/Signed.lean ====
section
/-! DEFINITION. Machine/Signed.lean: signed commands (R506 to R510). -/

namespace Sys2Proof.Machine

/-- Bytes of a signed command before its body. -/
def signedHead : Nat := 80

/-- An entry carried: key and value bytes. -/
abbrev SignedEntry := Nat × List Byte

/-- The entries of a body of which `n` are promised, none when they do not fill it exactly. -/
def signedEntries : Nat → List Byte → Option (List SignedEntry)
  | 0, bs => if bs.isEmpty then some [] else none
  | n + 1, bs =>
    let len := beAt bs 4 4
    let size := 8 + ceilDiv len 8 * 8
    if bs.length < size ∨ 8 > bs.length then none
    else match signedEntries n (bs.drop size) with
      | none => none
      | some es => some ((beAt bs 0 2 * 256 + beAt bs 2 1, slice bs 8 len) :: es)

/-- Framing (step 2): the entries, when magic, format, lengths and EntryCount are right. -/
def signedFrame (bs : List Byte) : Option (List SignedEntry) :=
  let n := beAt bs 0x48 2
  let len := beAt bs 0x4C 4
  if beAt bs 0 4 ≠ 0x50584B53 ∨ beAt bs 4 2 ≠ 1 ∨ n < 1 ∨ 64 < n ∨ len < 8 ∨ 262144 < len ∨ 1 < beAt bs 7 1
      ∨ bs.length ≠ signedHead + len + 4723 then none
  else signedEntries n (slice bs signedHead len)

/-- Both signatures of the owner key verify over a message, ECDSA first. -/
def State.ownerSigned (s : State) (i : Nat) (msg ec ml : List Byte) : Bool :=
  let key := s.dom (Od.ownerKey i)
  decide (i < 8) && !key.isEmpty && Config.ecdsaGood (key.take 97) msg ec && Config.mldsaGood (key.drop 97) msg ml

/-- Steps 3 to 6. [DESIGN CHOICE: log entry 101] -/
def State.signedAuthentic (s : State) (bs : List Byte) : Bool :=
  let body := bs.length - 4723
  let before := beAt bs 0x30 12
  let after := beAt bs 0x3C 12
  s.ownerSigned (beAt bs 6 1) (bs.take body) (slice bs body 96) (slice bs (body + 96) 4627)
    && (if beAt bs 7 1 = 0 then decide (slice bs 0x10 30 = sized 30 Config.unitSerial)
        else s.wallFeature 0x0300 && beAt bs 0x2E 2 == s.rd Od.wallId)
    && decide (s.rd Od.commandCounter < beAt bs 8 8)
    && (!s.rdB Od.timeValid || ((before == 0 || decide (ts96Ticks before ≤ s.now))
        && (after == 0 || decide (s.now ≤ ts96Ticks after))))

/-- A carried entry as an item, or the codes 0x01, 0x02, 0x03 and 0x05. -/
def signedItem (e : SignedEntry) : List Nat × Option (OdRow × Item) :=
  if odIndexKnown (e.1 / 256) = false then ([1], none)
  else match odRow? e.1 with
    | none => ([2], none)
    | some r =>
      if mayWrite r.access .keystone = false then ([3], none)
      else match itemOf r e.1 ⟨r.type.code, e.2⟩ with
        | none => ([5], none)
        | some i => ([], some (r, i))

/-- What an entry leaves for the entries after it: a staged length or generation value, a change begun, or the value in
force. [DESIGN CHOICE: log entries 100, 101] -/
def State.signedNext (h : State) (r : OdRow) (i : Item) : State :=
  match i with
  | .num k v =>
    if k = Od.courseLength ∨ ownCommit k = true then h.setStaged 0 (h.stagedBy 0 ++ [i])
    else if k = Od.courseCommit then h.commitLength (h.stagedLength 0)
    else if k = Od.operatingMode then
      if v ≤ 5 ∧ h.rd Od.modeInForce ≤ 5 ∧ v ≠ h.rd Od.modeInForce then h.beginChange v false else h.applyItem true i
    else if k = Od.safeModeCommand then if v ≠ 7 then h.beginChange v true else h
    else if r.effect == .start then h
    else h.applyItem true i
  | .raw k _ => if keyIs k 0x2600 32 0x0E then h else h.applyItem true i

/-- The codes of one entry on the state the earlier ones leave, against the limits of the mode in force and of a target
(R611). [DESIGN CHOICE: log entry 100] -/
def State.signedCodes (s h : State) (r : OdRow) (stopped : Bool) (i : Item) : List Nat :=
  let after := h.signedNext r i
  s.itemCodes h .keystone r i ++ after.afterCodes i.key ++ h.targetCodes after
    ++ codeIf (s.inCommit i.key && r.effect != .start) 6
    ++ codeIf (!h.overloaded.isSome && after.overloaded.isSome) 0x0B
    ++ (match i with
        | .num k v =>
          if k = Od.courseLength then codeIf (s.rd Od.coursePending != 0) 6
          else if k = Od.courseCommit then h.numCodes Od.courseLength (h.stagedLength 0)
            ++ codeIf (h.rd Od.coursePending != 0) 6 ++ codeIf (h.overload (h.stagedLength 0)).isSome 0x0B
          else if k = Od.operatingMode then (h.writeMode 0 v stopped).1 :: []
          else if k = Od.safeModeCommand then (h.writeSafeMode 0 v stopped).1 :: []
          else if keyIs k 0x2600 32 0x0E then
            codeIf (decide (beAt (h.genSet 0 (k / 256 - 0x2600)) 12 8
              < (beAt (h.genSet 0 (k / 256 - 0x2600)) 20 4 + 5) * nsTicks)) 0x0A
          else if k = Od.activateSlot then h.activateCodes v
          else if k = Od.imageCommit then codeIf ((h.imageCommitted v).2 != 0) 0x0A
          else if k = Od.slotErase then codeIf (h.rd Od.activeSlot == v) 0x0A
          else codeIf (keyIs k 0xB300 16 1 && v == 1 && !stopped) 0x0A
        | .raw k bs =>
          (if commitChecked k then h.setCodes true k bs else [])
            ++ (if k = Od.microcodePatch then h.patchCodes (patchOf bs) else [])
            ++ (if k = Od.imageDownload then codeIf (h.downloadCode (beAt bs 0 1) != 0) (h.downloadCode (beAt bs 0 1)) else []))

/-- The unit an entry overloads (R123): at the length it stages or the mode it asks for, or in the state it leaves. -/
def State.signedLoad (h after : State) : Item → Option Load
  | .num k v =>
    if k = Od.courseCommit then h.overload (h.stagedLength 0)
    else if k = Od.operatingMode ∨ k = Od.safeModeCommand then h.changeLoad v
    else after.overloaded
  | .raw .. => after.overloaded

/-- Step 8: the code and position of the first failing entry with the unit it overloads, or the items with their rows.
[DESIGN CHOICE: log entry 100] -/
def State.signedWalk (s : State) (stopped : Bool) :
    State → Nat → List SignedEntry → (Nat × Nat × Option Load) ⊕ List (OdRow × Item)
  | _, _, [] => .inr []
  | h, pos, e :: es =>
    match signedItem e with
    | (codes, none) => .inl (pickCode codes, pos, none)
    | (_, some (r, i)) =>
      let c := pickCode (s.signedCodes h r stopped i)
      if c ≠ 0 then .inl (c, pos, h.signedLoad (h.signedNext r i) i)
      else match s.signedWalk stopped (h.signedNext r i) (pos + 1) es with
        | .inl f => .inl f
        | .inr l => .inr ((r, i) :: l)

/-- A signed command fails: the code and the position, the unit overloaded (R123), and, at steps 3 to 6, the rejection
counted. -/
def State.signedFails (s : State) (code pos : Nat) (x : Option Load) (rejected : Bool) : Written :=
  let s1 := (s.refuseAt code x).wr Od.lastCommandStatus (code * 2 ^ 24 + pos)
  ⟨if rejected then (s1.bump Od.commandRejected).raiseLimited 0xBA01 0 1 code else s1, code, 0⟩

/-- The items that join the set commit of an accepted command, and the state with what acts at acceptance: a length and a
mode change (R107, R136), staged generation values, values for the next start-up. [DESIGN CHOICE: log entry 100] -/
def signedAccept (stopped : Bool) : State → List (OdRow × Item) → State × List Item
  | s, [] => (s, [])
  | s, (r, i) :: rest =>
    match i with
    | .num k v =>
      if k = Od.courseLength ∨ ownCommit k = true then signedAccept stopped (s.setStaged 0 (s.stagedBy 0 ++ [i])) rest
      else if k = Od.courseCommit then
        signedAccept stopped ((s.commitLength (s.stagedLength 0)).persist (.num Od.courseLength (s.stagedLength 0))) rest
      else if k = Od.operatingMode then signedAccept stopped (s.writeMode 0 v stopped).2.1 rest
      else if k = Od.safeModeCommand then signedAccept stopped (s.writeSafeMode 0 v stopped).2.1 rest
      else if keyIs k 0x2600 32 0x0E then
        let set := Item.raw k (s.genSet 0 (k / 256 - 0x2600))
        let (s1, l) := signedAccept stopped (s.dropGen 0 (k / 256 - 0x2600)) rest
        (s1, set :: l)
      else if r.effect == .start then signedAccept stopped (s.persist i) rest
      else
        let (s1, l) := signedAccept stopped s rest
        (s1, i :: l)
    | .raw .. =>
      let (s1, l) := signedAccept stopped s rest
      (s1, i :: l)

/-- A signed command whose signatures, target and times stand (R508 steps 7 and 8, R509): its entries are checked one after
the other, and the whole is one set commit. -/
def State.signedBody (s : State) (stopped : Bool) (counter : Nat) (es : List SignedEntry) : Written :=
  if s.keystone.waiting.isSome then s.signedFails 6 0 none false
  else
    let c0 := s.applyCourse
    match s.signedWalk stopped (s.settledBy c0) 1 es with
    | .inl (code, pos, x) => s.signedFails code pos x false
    | .inr l =>
      let (s1, items) := signedAccept stopped s l
      let set := mergeItems [] items ++ [Item.num Od.commandCounter counter]
      let c1 := s1.firstFree set c0 boundaryFuel
      if 64 ≤ s.commitsAt c1 then s.signedFails 0x0B 0 none false
      else
        let s2 := s1.acceptSet 0 set c1 0
        let s3 := { s2 with keystone := { s2.keystone with waiting := some counter } }
        ⟨(s3.wrPersist Od.commandCounter counter).wr Od.lastCommandStatus 0, 0, c1⟩

/-- A signed command (R508, R509), delivered by a context of a class; `typed` when it came in its entry's type, which is
checked after its signatures (R21). [DESIGN CHOICE: log entry 101] -/
def State.signedWrite (s : State) (w : Writer) (stopped typed : Bool) (bs : List Byte) : Written :=
  if w != .m && w != .h then ⟨s.refuse 3 s, 3, 0⟩
  else match signedFrame bs with
    | none => s.signedFails 9 0 none false
    | some es =>
      if s.signedAuthentic bs = false then s.signedFails 9 0 none true
      else if typed = false then ⟨s.refuse 5 s, 5, 0⟩
      else s.signedBody stopped (beAt bs 8 8) es

/-- The entries of a signed command that stand alone: its other fields are given by its Counter and by whether its
signatures, target and times stand (R508 steps 3 to 6). -/
def State.signedAlone (s : State) (stopped : Bool) (counter : Nat) (authentic : Bool) (es : List SignedEntry) : Written :=
  if !authentic || decide (counter ≤ s.rd Od.commandCounter) then s.signedFails 9 0 none true
  else s.signedBody stopped counter es

/-- The items of an accepted command come into force at its boundary: entries of effect Imm as they stand, sets and Crs
values as sets, fuses last (R509). -/
def State.applySigned (s : State) (items : List Item) : State :=
  (items.filter (fun i => !i.burns) ++ items.filter Item.burns).foldl (fun s i =>
    match odRow? i.key with
    | some r => if r.effect == .imm then (s.applyNow 0 .keystone i).1 else s.applyItem true i
    | none => s) s

/-- The command of a set that applies: its Counter. -/
def signedCounter (items : List Item) : Option Nat :=
  items.findSome? (fun i => match i with
    | .num k v => if k = Od.commandCounter then some v else none
    | .raw .. => none)

end Sys2Proof.Machine
end

