-- ==== Sys2Proof/Machine/Boot.lean ====
section
/-! DEFINITION. Machine/Boot.lean: reset, the Kiln's stages, the load of the configuration, warm-up and recovery (R511 to
R514, R525 to R527, R537 to R539, R593 to R601). -/

namespace Sys2Proof.Machine

/-! ### What a loss of power leaves (R537, R594) -/

/-- No writer class writes the entry. -/
def OdAccess.readOnly (a : OdAccess) : Bool := !(a.m || a.h || a.c || a.k || a.ks)

/-- A persisted value that the device itself keeps. [DESIGN CHOICE: log entry 80] -/
def keptEntry (key : Nat) : Bool :=
  match odRow? key with
  | some r => r.persisted && r.access.readOnly
  | none => false

/-- Tables of operations as they stand from the next start-up: software's entries, not what was learnt, counted or in
flight. [DESIGN CHOICE: log entry 80] -/
def State.keptTables (s t : State) : State :=
  { s with
    fwd := { s.fwd with fdb := t.fwd.fdb.filter (fun e => e.2.origin == 1 || e.2.origin == 2) }
    classify := { s.classify with ternary := t.classify.ternary, exact := t.classify.exact }
    trowel := { s.trowel with programs := t.trowel.programs }
    switch := { s.switch with policers := t.switch.policers }
    cipher := { s.cipher with slots := t.cipher.slots, sas := t.cipher.sas, esp := t.cipher.esp, auth := t.cipher.auth }
    slices := { s.slices with sets := t.slices.sets }
    storage := { s.storage with namespaces := t.storage.namespaces, durable := t.storage.durable }
    rdma := { s.rdma with qps := t.rdma.qps, cqs := t.rdma.cqs, ahs := t.rdma.ahs, regions := t.rdma.regions } }

/-- A reset begins (R594): every accepted write stands as if it had applied, nothing else of the running state stays, and
the outputs take their reset states. [DESIGN CHOICE: log entries 79, 80] -/
def State.powerOff (s : State) (cause : Nat) : State :=
  let t := s.settledBy (s.course + 2 ^ 64)
  let s1 := State.reset.keptTables t
  let s2 := { s1 with
    dict := t.dict.filter (fun e => keptEntry e.1)
    doms := t.doms.filter (fun e => keptEntry e.1)
    store := s.store
    storeDoms := s.storeDoms
    storeSets := s.storeSets
    log := { s.log with limits := [] }
    boot := ⟨0, s.boot.slotA, s.boot.slotB, false, [], [], s.boot.alias_, s.boot.rail, ⟨0, 0, [], false, false, false, [], []⟩⟩
    service := { State.reset.service with spares := s.service.spares }
    package := ⟨false, false, false, false, true, []⟩
    outputs := s.outputs
    freeCtr := s.freeCtr
    pending := s.pending }
  let s3 := (((s2.wr Od.lastResetCause cause).emit (.pin "RESET_OUT_N" 0 false 0)).emit (.pin "FAULT_N" 0 false 0)).emit
    (.pin "XSPI_RESET_N" 0 false 0)
  let s4 := if s.package.thermAlert then s3.emit (.pin "THERM_ALERT_N" 0 true 0) else s3
  let s5 := if s.package.thermTrip then s4.emit (.pin "THERM_TRIP_N" 0 true 0) else s4
  s.package.dspReleased.foldl (fun s n => s.emit (.pin "DSP_PERST_N" n false 0)) s5

/-! ### The load of the configuration (R538, R539) -/

/-- Entries in the Keystone's own partition. -/
def partitionEntry (key : Nat) : Bool := keyIs key 0xB210 8 1 || keptEntry key

/-- A stored value that the active image does not accept, or that is lost. [DESIGN CHOICE: log entry 81] -/
def storeBad (lost : List Nat) (image : List Byte) (key val : Nat) : Bool :=
  lost.contains key || !Config.imageAdmits image key val || (match odRow? key with
    | some r => (match r.type with
        | .domain | .string _ | .key => false
        | _ => !inRange r (.num key val))
    | none => true)

/-- ConfigErase (R539): the configuration store and the tables it keeps are cleared, not the Keystone's partition.
[DESIGN CHOICE: log entry 81] -/
def State.configErased (s : State) : State :=
  let s1 := { s with store := s.store.filter (fun e => partitionEntry e.1)
                     storeDoms := s.storeDoms.filter (fun e => partitionEntry e.1)
                     storeSets := [] }
  s1.keptTables State.reset

/-- The configuration store is loaded (R538): values lost or out of range take their defaults, and with them the set that
wrote them. [DESIGN CHOICE: log entry 81] -/
def State.loadConfig (s : State) (lost : List Nat) (image : List Byte) : State :=
  let nums := (s.store.filter (fun e => storeBad lost image e.1 e.2)).map Prod.fst
  let doms := (s.storeDoms.filter (fun e => storeBad lost image e.1 (beNat e.2))).map Prod.fst
  let first := nums ++ doms
  let all := first ++ ((s.storeSets.filter (fun l => l.any (fun k => first.contains k))).flatten)
  let s1 := { s with
    store := s.store.filter (fun e => !all.contains e.1)
    storeDoms := s.storeDoms.filter (fun e => !all.contains e.1)
    storeSets := s.storeSets.filter (fun l => !l.any (fun k => first.contains k)) }
  let s2 := s1.store.foldl (fun s e => s.wr e.1 e.2) s1
  let s3 := s2.storeDoms.foldl (fun s e => s.setDom e.1 e.2) s2
  let s4 := if lost.isEmpty then s3 else s3.raise 0x1A06 (lost.headD 0)
  (first.filter (fun k => !lost.contains k)).foldl (fun s k => s.raise 0x1A07 k) s4

/-! ### Stage 3 and 4 -/

/-- The persisted microcode patch, when it still verifies and belongs to the base (R308). -/
def State.bootPatch (s : State) : State :=
  let bs := (s.storeDoms.find? (fun e => e.1 == Od.microcodePatch)).map Prod.snd
  let kept : Option Patch := match bs with
    | none => none
    | some b => match patchOf b with
      | some (p, base) => if s.patchSigned b && base == s.rd Od.microcodeVersion / 65536 then some p else none
      | none => none
  let base := s.baseUpdates
  let patch : Option Patch := match kept with
    | some p => some { p.inBank 0 with updates := (p.inBank 0).updates ++ base }
    | none => if base.isEmpty then none else some (basePatch (s.partDigest 5))
  let level := match kept with | some p => p.level | none => 0
  let programs := s.trowel.programs.map (fun e => (e.1, { e.2 with worst := (worstPath patch e.2.words).getD 0 }))
  let micro := match kept with | some p => p.written 0 s.trowel.micro | none => s.trowel.micro
  let s1 := { s with trowel := { s.trowel with patch := patch, programs := programs, micro := micro } }
  let s2 := s1.wr Od.microcodeVersion (s.rd Od.microcodeVersion / 65536 * 65536 + level)
  if kept.isSome then s2 else { s2.setDom Od.microcodePatch [] with storeDoms := tblDel s2.storeDoms Od.microcodePatch }

/-- The ports of a tile that mode 6 lets run: the four lowest-numbered enabled ones (R153). -/
def State.modeSixPorts (s : State) (t : Nat) : List Nat :=
  (((s.tilePorts t).filter (fun p => s.rdB (Od.portEnable p))).mergeSort (· ≤ ·)).take 4

/-- Ports start (R157) with their local DCBX settings (R174); beyond four a tile in mode 6 they are held down (R153). -/
def State.startPorts (s : State) : State :=
  forEach (List.range 32) (fun t s =>
    let ports := s.tilePorts t
    let runs := if s.mode = 6 then s.modeSixPorts t else ports
    let s1 := { s with switch := { s.switch with running := s.switch.running ++ (if s.mode = 6 then runs else []) } }
    forEach ports (fun p s =>
      let held := s.mode = 6 ∧ runs.contains p = false ∧ s.rdB (Od.portEnable p) = true
      let s2 := if held then (s.setPort p { s.port p with limited := true }).raise 0x3A09 p else s
      (s2.resolveDcbx p).bringUp p) s1) s

/-- The filtering database at a start-up: mode 6 has no generations (R241), and the entries about it follow what was kept
(R238). [DESIGN CHOICE: log entry 80] -/
def State.startFdb (s : State) : State :=
  if s.mode = 6 then
    (s.wr Od.fdbCurrentGen 0 |>.wr Od.fdbOldestGen 0).setFdb (s.fwd.fdb.map (fun e => (e.1, { e.2 with gen := 0 })))
  else s.setFdb s.fwd.fdb

/-- Sets and entries whose load acts as their write did: gate lists, PTP ports, policers, whose buckets start full
(R335), the filtering database; ExpectTimeout as written at the first boundary that follows (R90).
[DESIGN CHOICE: log entry 80] -/
def State.startEntries (s : State) : State :=
  let s1 := s.doms.foldl (fun s e =>
    if keyIs e.1 0x6000 256 4 then
      match gateListOf e.2 with
      | some g => s.applyGateList (e.1 / 256 - 0x6000) g
      | none => s
    else s) s
  let s2 := forEach ((List.range 256).filter (fun p => s.rdB (Od.ptpEnable p))) (fun p s => s.applyPtpEnable p) s1
  let s3 := forEach ((List.range 32).filter (fun n => s.rd (Od.expectTimeout n) != 0)) (fun n s =>
    { s with timers := tblPut s.timers (tmExpect n) { armed := s.course + 1, carried := 0 } }) s2
  let s4 := s3.startFdb
  { s4 with switch := { s4.switch with policers := s4.switch.policers.map (fun (e : Nat × Policer) =>
      (e.1, { Policer.configured e.2.entry s4.len e.2 with owed := [] })) } }

/-- Namespaces load their mappings from the journals (R450, R452, R456). [DESIGN CHOICE: log entry 81] -/
def State.startStorage (s : State) (bad : List Nat) : State :=
  let cut := s.storage.durable.foldl (fun (acc : State × List (Nat × Nat)) e =>
    if bad.contains (e.1 / 2 ^ 40) then
      let (t, v) := acc.1.openBits 51 1
      (t, if v = 1 then acc.2 ++ [e] else acc.2)
    else (acc.1, acc.2 ++ [e])) (s, [])
  let s1 := cut.1
  let s2 := { s1 with storage := { s1.storage with durable := cut.2, map := cut.2.map (fun (e : Nat × Nat) => (e.1, MapEntry.block e.2)) } }
  let s3 := s2.storage.namespaces.foldl (fun (s : State) (e : Nat × Namespace) =>
    if nsPresent e.2 then
      let t := s.wr (Od.namespaceStatus e.1) 1
      if nsBacking e.2 = 3 then t.poolTake 0x40 (ceilDiv (nsBlocks e.2 * 2 ^ nsShift e.2) 4096) else t
    else s) s2
  bad.foldl (fun s n => s.raise 0x9A04 n) s3

/-- RDMA objects start empty under their records; queue pairs in RESET. [DESIGN CHOICE: log entry 80] -/
def State.startRdma (s : State) : State :=
  { s with rdma := { s.rdma with
      qps := s.rdma.qps.map (fun e => (e.1, s.freshQp e.2.record))
      cqs := s.rdma.cqs.map (fun e => (e.1, freshCq e.2.record))
      regions := (s.rdma.regions.filter (fun e => e.2.state != 2)) } }

/-- The mode a start-up enters (R144), with a CourseLength of its range (R127, R128): a persisted one outside it gives way
to the mode's own, or to the default. [DESIGN CHOICE: log entry 128] -/
def State.startMode (s : State) : State :=
  let m := s.rd Od.operatingMode
  let s0 := s.wr Od.modeInForce m
  let s1 := if lengthInMode m s0.len then s0 else s0.wr Od.courseLength (if m = 2 then 250 else 1000)
  let s2 := forEach (List.range 5) (fun i s => s.wr (Od.cacheShare i) ((cacheShares m).getD i 0)) s1
  forEach (List.range 16) (fun c s => s.wr (Od.pcActivity c) ((pcActivities m).getD c 0)) s2

/-- The monitor starts at level 0 and 115,200 baud with its banner (R575, R576, R579). -/
def State.startMonitor (s : State) : State :=
  let s1 := { s with monitor := State.reset.monitor }
  (((s1.wr Od.monitorLevel 0).wr Od.monitorBaud 115200).emit
    (.monitor "banner" (beBytes 4 (s.rd Od.deviceType) ++ sized 30 Config.unitSerial ++ beBytes 1 (s.rd Od.activeSlot)))).arm
    (timerKey 37 0)

/-- Stages 3 and 4 (R513): the configuration is loaded, the servo enters FREE_RUN (R63), the mode, ports and queues start.
[DESIGN CHOICE: log entry 78] -/
def State.startService (s : State) (u : StartUp) : State :=
  let erase := tblGet 0 s.store Od.configErase == 1
  let image := s.slotBytes (s.rd Od.activeSlot)
  let s1 := if erase then s.configErased else s
  let s2 := s1.loadConfig (u.lost.map BitVec.toNat) image
  let s3 := { s2.startMode with boot := { s2.boot with phase := 2, cold := false, retained := s2.partDigest 3 } }.raise 0x2A01 0
  let s4 := if u.calibrationBad then ((s3.wr Od.calibrationState 2).wr Od.accuracyClass 250).raise 0x2A08 0 else s3
  let s5 := ((((s4.bootPatch).startPorts).startEntries).startStorage (u.journalBad.map BitVec.toNat)).startRdma
  let s6 := { s5 with package := { s5.package with resetOut := true, xspiReset := true } }.emit (.pin "RESET_OUT_N" 0 true s5.now)
  let s7 := s6.startMonitor.driveFault
  (u.found.map BitVec.toNat).foldl (fun s c => s.fatal c 0) s7

/-! ### Recovery (R525, R526) -/

/-- The entries recovery reads from the configuration store. -/
def recoveryEntry (key : Nat) : Bool :=
  (0xB50002 ≤ key && key ≤ 0xB50009) || (0x120002 ≤ key && key ≤ 0x120004) || key == Od.monitorIdleTimeout
    || key == Od.monitorLevelCap || keyIs key 0xB210 8 1

/-- Recovery is entered with both slots' codes. -/
def State.enterRecovery (s : State) (codes : Nat) : State :=
  let s1 := (s.store.filter (fun e => recoveryEntry e.1)).foldl (fun s e => s.wr e.1 e.2) s
  let s2 := (s.storeDoms.filter (fun e => recoveryEntry e.1)).foldl (fun s e => s.setDom e.1 e.2) s1
  let s3 := { s2.wr Od.activeSlot 0xFF with boot := { s2.boot with phase := 3, cold := false },
                                            package := { s2.package with xspiReset := true } }
  (((s3.raise 0x2A01 0).raise 0xCA04 codes).startMonitor).driveFault

/-! ### Stages 0 to 2 (R511 to R514) -/

/-- The code of a slot at start-up: of a failed flash read, of a digest that failed as it was loaded, or of its checks. -/
def State.bootCode (s : State) (u : StartUp) (excluded : List Nat) (n : Nat) : Nat :=
  if u.readBad.toNat / 2 ^ n % 2 = 1 then 11
  else if excluded.contains n then 10
  else s.slotCode false n

/-- The slot R512 chooses; a chosen one whose components then fail their digests is excluded and the choice made again.
[DESIGN CHOICE: log entry 82] -/
def State.chooseSlot (s : State) (u : StartUp) (excluded : List Nat) : Nat → Option Nat × List Nat
  | 0 => (none, excluded)
  | fuel + 1 =>
    let ok (n : Nat) : Bool := s.bootCode u excluded n == 0
    let seq (n : Nat) : Nat := imageSequence (s.slotBytes n)
    let pick : Option Nat :=
      if ok 0 && ok 1 then some (if seq 0 < seq 1 then 1 else 0)
      else if ok 0 then some 0
      else if ok 1 then some 1
      else none
    match pick with
    | none => (none, excluded)
    | some n => if u.loadBad.toNat / 2 ^ n % 2 = 1 then s.chooseSlot u (n :: excluded) fuel else (some n, excluded)

/-- The Kiln runs from stage 0 to the end of stage 2, and on where nothing makes it wait (R513, R598, R601).
[DESIGN CHOICE: log entries 78, 79] -/
def State.kilnStart (s : State) (u : StartUp) : State :=
  let s := { s with boot := { s.boot with found := u } }
  let s0 := match s.boot.rail with
    | some r => { s with boot := { s.boot with rail := none } }.raise 0xEA22 r
    | none => s
  let (chosen, excluded) := s0.chooseSlot u [] 3
  let a := s0.bootCode u excluded 0
  let b := s0.bootCode u excluded 1
  let s1 := ((s0.wr Od.slotCodes (a * 256 + b)).wr Od.slotStatus (a * 256 + b)).noteSequence 0 a |>.noteSequence 1 b
  let tie := a == 0 && b == 0 && imageSequence (s1.slotBytes 0) == imageSequence (s1.slotBytes 1)
  if s1.rdB Od.recoveryRequested then s1.enterRecovery (a * 256 + b)
  else match chosen with
    | none => s1.enterRecovery (a * 256 + b)
    | some n =>
      let s2 := (if tie then s1.raise 0xCA02 0 else s1).raise 0xCA01 (a * 256 + b)
      let bs := s2.slotBytes n
      let s3 := { s2.wr Od.activeSlot n with boot := { s2.boot with parts := imageParts bs } }
      let base := ((s3.boot.parts.find? (fun x => x.1 == 5)).map (fun x => x.2.1)).getD 0
      let s4 := ((s3.showVersions).wr Od.supportedLevel (imageLevel bs)
        |>.wr Od.wallFeatureLevel (imageLevel bs) |>.wr Od.wallMinSupported (imageLevel bs)).wr Od.microcodeVersion (base % 65536 * 65536)
      let s5 := { s4 with package := { s4.package with xspiReset := true } }
      let s5 := s5.wr Od.railStatus 511
      let s6 := if u.refclkSys then s5.wr Od.refclkSysState 0 else s5.wr Od.refclkSysState 1
      if u.cold then { s6 with boot := { s6.boot with phase := 1, cold := true } }.raise 0xEA23 0
      else if u.refclkSys then s6.startService u
      else { s6 with boot := { s6.boot with phase := 1, cold := false } }

/-- RELEASE_OF_RESET (R513, R593). -/
def execReleaseOfReset (u : StartUp) (s : State) : Res :=
  .next (if s.boot.phase = 0 then s.kilnStart u else s)

/-- WARM_UP_COMPLETE (R601): stage 3 begins, once REFCLK_SYS is present (R598). -/
def execWarmUpComplete (u : StartUp) (s : State) : Res :=
  .next (if s.boot.phase = 1 ∧ s.boot.cold = true then
      if s.rd Od.refclkSysState = 0 then s.startService u
      else { s with boot := { s.boot with cold := false, found := u } }
    else s)

/-- RESET_START (R593, R594). -/
def execResetStart (s : State) : Res := .next (s.powerOff 1)

/-- RESET_GLITCH (R593). -/
def execResetGlitch (s : State) : Res := .next (s.bump Od.resetGlitches)

/-- RAIL_UNDERVOLTAGE (R592): a reset starts; the rail is recorded when VDD_KEY and VDD_MRAM stay in tolerance. -/
def execRailUndervoltage (rail : Fin 9) (held : Bool) (s : State) : Res :=
  let s1 := s.powerOff 2
  let s2 := s1.wr Od.railStatus (withBit (s1.rd Od.railStatus) rail false)
  .next (if held then { s2 with boot := { s2.boot with rail := some rail.val } } else s2.wr Od.lastResetCause 0)

/-- THERMAL_RESET (R600). -/
def execThermalReset (s : State) : Res := .next (s.powerOff 3)

/-- ImageCommit has made a slot valid in recovery: the Kiln starts again from stage 1 (R527).
[DESIGN CHOICE: log entry 82] -/
def State.leaveRecovery (s : State) : State :=
  let u : StartUp := { s.boot.found with readBad := 0, loadBad := 0, cold := false, refclkSys := s.rd Od.refclkSysState == 0 }
  (((s.powerOff (s.rd Od.lastResetCause)).wr Od.refclkSysState (s.rd Od.refclkSysState)).wr Od.recoveryRequested 0).kilnStart u

end Sys2Proof.Machine
end

