-- ==== Sys2Proof/Machine/Blp.lean ====
section
/-! DEFINITION. Machine/Blp.lean: how requests reach the agent and how they are answered: BLP sessions, the PF0 mailbox,
the core windows, the Keystone (R530, R542 to R553), and the management ports (R540, R541). -/

namespace Sys2Proof.Machine

/-! ### Contexts (R530) -/

/-- The context of a core window. -/
def coreCtx (n : Nat) : Nat := 300 + n

/-- The writer context of a path; 0 is that of signed commands. -/
def viaCtx : Via → Nat
  | .session sid _ _ => sessionCtx sid
  | .mailbox link _ => mailboxCtx link
  | .core n _ => coreCtx n
  | .signed .. => 0
  | .firmware => 1

/-- The writer class of a path. [DESIGN CHOICE: log entry 113] -/
def viaWriter : Via → Writer
  | .session .. => .m
  | .mailbox .. => .h
  | .core .. => .c
  | .signed .. => .keystone
  | .firmware => .firmware

/-- The timer of a read copy (R548). -/
def tmCopy (ctx : Nat) : Nat := timerKey 39 ctx
/-- The 10 s within which OPEN_FINISH is awaited (R545). -/
def tmFinish (sid : Nat) : Nat := timerKey 27 sid
/-- The 60 s block of a source address (R545). -/
def tmBlock (source : Nat) : Nat := timerKey 28 source

/-- A request that writes: a refusal of it is counted (R20). -/
def Ask.isWrite : Ask → Bool
  | .write .. | .commit .. | .segWrite .. => true
  | .close | .read .. | .describe .. | .abortStaged | .segRead .. | .subscribe .. | .keepAlive => false

/-- Message type of a request (R542). -/
def Ask.msg : Ask → Nat
  | .close => 0x04
  | .read .. => 0x10
  | .write .. => 0x11
  | .commit .. => 0x12
  | .describe .. => 0x13
  | .abortStaged => 0x14
  | .segWrite .. => 0x20
  | .segRead .. => 0x21
  | .subscribe .. => 0x30
  | .keepAlive => 0x3F

/-! ### Segmented transfers (R548) -/

/-- A write by a context, a signed command among them (R508). -/
def State.fullWrite (s : State) (ctx : Nat) (w : Writer) (stopped : Bool) (key : Nat) (v : WireValue) : Written :=
  if key = Od.signedCommand then
    s.signedWrite w stopped (v.type == 0x0F) v.bytes
  else s.agentWrite ctx w stopped key v

/-- The transfer of a context. -/
def State.transferOf (s : State) (ctx : Nat) : Option Transfer := s.agent.transfers.find? (fun t => t.ctx == ctx)

/-- Put a context's transfer, none to end it. -/
def State.setTransfer (s : State) (ctx : Nat) (x : Option Transfer) : State :=
  let rest := s.agent.transfers.filter (fun t => t.ctx != ctx)
  match x with
  | none => ({ s with agent := { s.agent with transfers := rest } }).disarm (tmTransfer ctx)
  | some t => ({ s with agent := { s.agent with transfers := rest ++ [t] } }).arm (tmTransfer ctx)

/-- A segment carries no data, or more than 1,024 bytes. -/
def segmentBad (data : List Byte) : Bool := data.isEmpty || decide (1024 < data.length)

/-- The codes every segment is held to: index, subindex, class (R21), and its own length.
[DESIGN CHOICE: log entry 87] -/
def segmentCodes (w : Writer) (key : Nat) (data : List Byte) : List Nat :=
  codeIf (!odIndexKnown (key / 256)) 1 ++ (match odRow? key with
    | none => [2]
    | some r => codeIf (!mayWrite r.access w) 3) ++ codeIf (segmentBad data) 5

/-- The code of a First segment: the checks of R21 up to 0x09, the total length, another context's transfer, and what
stands in the way of an image. -/
def State.firstCode (s : State) (ctx : Nat) (w : Writer) (key total : Nat) (data : List Byte) : Nat :=
  if odIndexKnown (key / 256) = false then 1
  else match odRow? key with
    | none => 2
    | some r =>
      pickCode (codeIf (!mayWrite r.access w) 3
        ++ codeIf (r.type.code != 0x0F || !domLengthOk key total || segmentBad data) 5
        ++ codeIf (s.boot.phase == 3 && key != Od.imageDownload && key != Od.signedCommand && key != Od.eventRead) 7
        ++ codeIf (s.agent.transfers.any (fun t => t.key == key && t.ctx != ctx && t.failed == 0)) 6
        ++ (if key = Od.imageDownload then
              codeIf (s.downloadCode (beAt data 0 1) != 0) (s.downloadCode (beAt data 0 1)) ++ codeIf (s.activating != 0) 6
                ++ codeIf (s.rd Od.modeInForce == 7) 7
            else []))

/-- An answer to SEG_WRITE: status and NextOffset. -/
def segAnswer (code next : Nat) : Resp := ⟨code, beBytes 3 0 ++ beBytes 4 next⟩

/-- A segment's data joins its transfer; the last one completes the write. [DESIGN CHOICE: log entry 87] -/
def State.segStore (s : State) (ctx : Nat) (w : Writer) (last stopped : Bool) (t : Transfer) : State × Resp :=
  let next := t.bytes.length
  if t.total < next ∨ (next = t.total ∧ last = false) ∨ (next < t.total ∧ last = true) then
    ((s.refuse 5 s).setTransfer ctx none, segAnswer 5 0)
  else if next < t.total then (s.setTransfer ctx (some t), segAnswer t.failed next)
  else
    let s1 := s.setTransfer ctx none
    if t.failed ≠ 0 then (s1, segAnswer t.failed next)
    else if t.key = Od.imageDownload then (s1, segAnswer 0 next)
    else
      let o := s1.fullWrite ctx w stopped t.key ⟨0x0F, t.bytes⟩
      (o.state, segAnswer o.status next)

/-- SEG_WRITE (R548): an image is written to flash as its segments arrive (R523). A segment without data or with too much
is answered 0x05, one of another entry than the transfer's 0x04. [DESIGN CHOICE: log entry 87] -/
def State.segWrite (s : State) (ctx : Nat) (w : Writer) (key : Nat) (first last : Bool) (offset total : Nat)
    (data : List Byte) (stopped : Bool) : State × Resp :=
  let front := pickCode (segmentCodes w key data)
  if first then
    if offset ≠ 0 then (s, segAnswer 0 0)
    else
      let c := s.firstCode ctx w key total data
      if segmentBad data then (s.refuse c s, segAnswer c 0) else
      let s1 := if c ≠ 0 then s.refuse c s
        else if key = Od.imageDownload then (s.downloadStarts (beAt data 0 1)).setSlot (beAt data 0 1) (data.drop 1)
        else s
      s1.segStore ctx w last stopped ⟨ctx, key, total, data, c⟩
  else if front ≠ 0 then (s.refuse front s, segAnswer front 0)
  else
    match s.transferOf ctx with
    | none => (s.refuse 4 s, segAnswer 4 0)
    | some t =>
      if t.key ≠ key then (s.refuse 4 s, segAnswer 4 0)
      else if offset ≠ t.bytes.length then (s, segAnswer 0 t.bytes.length)
      else
        let n := beAt t.bytes 0 1
        let s1 := if key = Od.imageDownload ∧ t.failed = 0 then s.setSlot n (s.slotBytes n ++ data) else s
        s1.segStore ctx w last stopped { t with bytes := t.bytes ++ data }

/-- Widths in bytes of the fields of an entry's records in a value of `n` bytes, over and over; those of one byte and
those the manual gives as little-endian on every path need no mention. [DEDUCED: log entry 27] -/
def recordFields (key n : Nat) : List Nat :=
  let i := key / 256
  if key = Od.vlanTable then [72]
  else if key = Od.groupTable then [40]
  else if key = Od.fdbQuery then [16]
  else if key = Od.fdbSweep then [16]
  else if key = Od.streamTable ∨ key = Od.budgetReport then [8]
  else if key = Od.eventRead then [32]
  else if keyIs key 0x5400 32 2 then [1, 1, 2, 4, 8, 80, 80, 32, 2, 1]
  else if keyIs key 0x5500 16 1 then [4]
  else if keyIs key 0x5500 16 4 then [1, 32, 32]
  else if keyIs key 0x6400 32 2 then [32, 8, 8]
  else if keyIs key 0x7200 256 1 then [32]
  else if key = Od.espSaTable then [2, 1, 1, 4, 8, 2, 6] ++ List.replicate 64 1
  else if key = Od.authTable then [2, 1, 1, 4]
  else if key = Od.sessionTable then [4, 1, 1, 12, 12]
  else if keyIs key 0xDE00 32 1 then [4, 4, 8, 8, 8]
  else if key = Od.sliceCounters ∨ key = Od.namespaceCounters ∨ key = Od.streamLateFrames ∨ keyIs key 0xD100 32 1
      ∨ key = Od.retiredPages ∨ keyIs key 0x5600 32 2 ∨ keyIs key 0x5600 32 3 then [8]
  else if 0x8030 ≤ i ∧ i < 0x80B0 ∨ 0x4300 ≤ i ∧ i < 0x4308 then [32]
  else if keyIs key 0x6200 256 1 ∨ key = Od.keySlotInfo then [16]
  else if key = Od.tileTemperature then [2]
  else if key = Od.eventSeverity then [2, 1]
  else if keyIs key 0x5500 16 5 then [32, 1]
  else if keyIs key 0x5600 32 5 then [1, 2] ++ List.replicate n 1
  else if keyIs key 0x6000 256 4 then [12, 2, 2] ++ List.replicate n 1
  else if keyIs key 0x6000 256 5 then [2, 1, 12]
  else if key = Od.sliceQuery then List.replicate 65 1 ++ [4, 2]
  else if key = Od.sliceState then [2, 1, 1] ++ (List.replicate 64 [2, 2, 2, 1, 1]).flatten
  else if key = Od.rdmaQuery then List.replicate (n - 4) 1 ++ [4]
  else if key = Od.neighbourTable then [1, 2] ++ List.replicate 48 1 ++ [8]
  else if key = Od.protectionTxQueues then [1, 1, 4]
  else if key = Od.mgmtAllowList then [16, 1]
  else if key = Od.calibrationRecord then calibrationFields
  else []

/-- The fields of a byte sequence, each turned round; `fuel` is its length. -/
def turnFields : Nat → List Nat → List Nat → List Byte → List Byte
  | 0, _, _, bs => bs
  | _ + 1, _, [], bs => bs
  | fuel + 1, all, w :: ws, bs =>
    if bs.isEmpty then [] else (bs.take w).reverse ++ turnFields fuel all (if ws.isEmpty then all else ws) (bs.drop w)

/-- Records as they stand in host or core memory, each field little-endian (R14). -/
def littleFields (fields : List Nat) (bs : List Byte) : List Byte := turnFields bs.length fields fields bs

/-- An answer to SEG_READ: up to 1,024 bytes of a copy from an offset. -/
def segPart (bs : List Byte) (offset : Nat) : Resp :=
  ⟨0, beBytes 1 (if bs.length ≤ offset + 1024 then 2 else 0) ++ beBytes 2 0 ++ beBytes 4 bs.length ++ slice bs offset 1024⟩

/-- SEG_READ (R548): offset 0 takes the copy that later offsets are served from. -/
def State.segRead (s : State) (ctx key offset : Nat) : State × Resp :=
  let bare (c : Nat) : Resp := ⟨c, beBytes 7 0⟩
  if odIndexKnown (key / 256) = false then (s, bare 1)
  else match odRow? key with
    | none => (s, bare 2)
    | some r =>
      if s.boot.phase = 3 ∧ recoveryReads key = false then (s, bare 7)
      else if offset = 0 then
        let (s1, value) := s.valueBytes ctx key r
        let bs := if ctx < 1024 then littleFields (recordFields key value.length) value else value
        (({ s1 with agent := { s1.agent with
            copies := s1.agent.copies.filter (fun (c : ReadCopy) => c.ctx != ctx) ++ [ReadCopy.mk ctx key bs] } }).arm (tmCopy ctx),
          segPart bs 0)
      else match s.agent.copies.find? (fun c => c.ctx == ctx && c.key == key) with
        | none => (s, bare 4)
        | some c => if c.bytes.length ≤ offset then (s, bare 4) else (s.arm (tmCopy ctx), segPart c.bytes offset)

/-! ### Answers (R532, R533, R542, R543, R553) -/

/-- Set a session's record. -/
def State.setSession (s : State) (x : Session) : State :=
  { s with agent := { s.agent with sessions := s.agent.sessions.map (fun y => if y.id = x.id then x else y) } }

/-- SUBSCRIBE of a session (R553). [DESIGN CHOICE: log entry 88] -/
def State.subscribe (s : State) (sid : Option Nat) (version least : Nat) : State × Resp :=
  match sid.bind (fun n => s.agent.sessions.find? (fun x => x.id == n)) with
  | none => (s, ⟨if version = 1 then 5 else 7, []⟩)
  | some x =>
    if version = 1 then (s, ⟨5, []⟩)
    else if least = 0xFF then (s.setSession { x with minSeverity := none, waiting := [] }, ⟨0, []⟩)
    else if least ≤ 4 then (s.setSession { x with minSeverity := some least }, ⟨0, []⟩)
    else (s, ⟨4, []⟩)

/-- What a request does, and its answer; `sid` names the session it came in. [DESIGN CHOICE: log entry 87] -/
def State.answer (s : State) (ctx : Nat) (w : Writer) (sid : Option Nat) (version : Nat) (a : Ask) : State × Resp :=
  match a with
  | .close => (s, ⟨if sid.isSome then 0 else 7, []⟩)
  | .read key => s.agentRead ctx key
  | .write key v stopped =>
    let o := s.fullWrite ctx w stopped key v
    (o.state, ⟨o.status, beBytes 7 0 ++ beBytes 8 o.course⟩)
  | .commit target =>
    let o := s.askedCommit ctx w target
    (o.state, ⟨o.status, beBytes 1 0 ++ beBytes 3 o.failing ++ beBytes 3 0 ++ beBytes 8 o.course⟩)
  | .describe key =>
    if odIndexKnown (key / 256) = false then (s, ⟨1, []⟩)
    else match odRow? key with
      | none => (s, ⟨2, []⟩)
      | some r => (s.emit (.describe ctx r), ⟨0, []⟩)
  | .abortStaged => (s.setStaged ctx [], ⟨0, []⟩)
  | .segWrite key first last offset total data stopped => s.segWrite ctx w key first last offset total data stopped
  | .segRead key offset => s.segRead ctx key offset
  | .subscribe least => s.subscribe sid version least
  | .keepAlive => (s, ⟨0, []⟩)

/-- In recovery an ImageCommit that makes a slot valid starts the Kiln again once its response is sent (R527). -/
def State.afterAnswer (s : State) (a : Ask) (status : Nat) : State :=
  match a with
  | .write key .. => if s.boot.phase = 3 ∧ key = Od.imageCommit ∧ status = 0 then s.leaveRecovery else s
  | _ => s

/-! ### Sessions (R542, R546, R547) -/

/-- A session whose idle or lifetime timer has expired has ended. [DESIGN CHOICE: log entry 89] -/
def State.sessionOver (s : State) (sid : Nat) : State :=
  if s.due (tmLifetime sid) (s.secCourses (s.rd Od.sessionLifetime)) then s.endSession sid 3
  else if s.due (tmIdleSession sid) (s.secCourses (s.rd Od.sessionIdleTimeout)) then s.endSession sid 2
  else s

/-- A request in a session. [DESIGN CHOICE: log entries 84, 89] -/
def State.serveSession (s0 : State) (sid seq : Nat) (intact : Bool) (a : Ask) : State :=
  let s := s0.sessionOver sid
  let ctx := sessionCtx sid
  if !intact then s.bump Od.blpFramesDiscarded
  else match s.agent.sessions.find? (fun x => x.id == sid) with
    | none =>
      if s.agent.ended.contains sid then
        (if a.isWrite then s.bump Od.refusedWrites else s).emit (.blp ctx a.msg seq 8 []) else s.bump Od.blpFramesDiscarded
    | some x =>
      if seq = x.high + 1 then
        let s1 := (s.setSession { x with high := seq, last := s.now }).arm (tmIdleSession sid)
        let (s2, resp) := s1.answer ctx .m (some sid) x.version a
        let s3 := match s2.agent.sessions.find? (fun y => y.id == sid) with
          | some y => s2.setSession { y with stored := ((seq, a.msg, resp) :: y.stored).take 16 }
          | none => s2
        let s4 := s3.emit (.blp ctx a.msg seq resp.status resp.data)
        if a.msg = 0x04 then s4.endSession sid 1 else s4.afterAnswer a resp.status
      else match x.stored.find? (fun e => e.1 == seq) with
        | some (_, m, resp) => (s.emit (.blp ctx m seq resp.status resp.data)).bump Od.retransmitted
        | none => s.bump Od.outOfOrderDiscarded

/-! ### Mailbox and core window (R549, R550) -/

/-- A mailbox or window with nothing in it. -/
def Mailbox.idle : Mailbox :=
  { busy := false, responseReady := false, refused := false, requestLength := 0, responseLength := 0, request := [],
    response := [] }

/-- The mailbox of a link's PF0. [DESIGN CHOICE: log entry 90] -/
def State.mailbox (s : State) (link : Nat) : Mailbox := tblGet Mailbox.idle s.agent.mailboxes link

/-- Set a mailbox. -/
def State.setMailbox (s : State) (link : Nat) (x : Mailbox) : State :=
  { s with agent := { s.agent with mailboxes := tblSet Mailbox.idle s.agent.mailboxes link x } }

/-- The window of a core. -/
def State.coreWindow (s : State) (n : Nat) : Mailbox := tblGet Mailbox.idle s.agent.cores n

/-- Set a core's window. -/
def State.setCoreWindow (s : State) (n : Nat) (x : Mailbox) : State :=
  { s with agent := { s.agent with cores := tblSet Mailbox.idle s.agent.cores n x } }

/-- The bytes after the status as they stand in host or core memory, where values are little-endian (R14, R536).
[DEDUCED: log entry 27] -/
def Ask.inMemory (a : Ask) (bs : List Byte) : List Byte :=
  match a with
  | .read key =>
    let value := bs.drop 7
    bs.take 3 ++ (slice bs 3 4).reverse
      ++ (if beAt bs 0 1 ≤ 0x0D then value.reverse else littleFields (recordFields key value.length) value)
  | .write .. => bs.take 7 ++ (bs.drop 7).reverse
  | .commit _ => bs.take 1 ++ (slice bs 1 2).reverse ++ slice bs 3 4 ++ (bs.drop 7).reverse
  | .segWrite .. => bs.take 3 ++ (bs.drop 3).reverse
  | .segRead .. => bs.take 3 ++ (slice bs 3 4).reverse ++ bs.drop 7
  | _ => bs

/-- The response frame in a response area: Version, MsgType, Flags (Response, FromDevice), SessionId 0, Sequence 0,
Length. -/
def frameOf (version : Nat) (a : Ask) (r : Resp) : List Byte :=
  leBytes 16 (version * 2 ^ 120 + a.msg * 2 ^ 112 + 9 * 2 ^ 96 + (1 + r.data.length) * 2 ^ 16) ++ beBytes 1 r.status
    ++ a.inMemory r.data

/-- A doorbell: the frame is submitted, or ignored while another is in progress or its length is out of range. -/
def Mailbox.ring (x : Mailbox) : Mailbox :=
  if x.busy || x.requestLength < 16 || decide (28672 < x.requestLength) then { x with refused := true }
  else { x with busy := true, refused := false }

/-- A response is written. [DESIGN CHOICE: log entry 90] -/
def Mailbox.answered (x : Mailbox) (bs : List Byte) : Mailbox :=
  { x with busy := false, responseReady := true, responseLength := bs.length, response := bs }

/-- The answer in a mailbox or window to a frame of a version. [DESIGN CHOICE: log entry 90] -/
def State.windowAnswer (s : State) (ctx : Nat) (w : Writer) (version : Nat) (a : Ask) : State × Resp × Nat :=
  if version ≠ 1 ∧ version ≠ 2 then (if a.isWrite then s.bump Od.refusedWrites else s, ⟨5, []⟩, 2)
  else
    let (s1, r) := s.answer ctx w none version a
    (s1, r, version)

/-- A submitted mailbox frame is processed; it and its answer cross the Mortar on VN4 (R37, R53).
[DESIGN CHOICE: log entries 84, 88] -/
def State.serveMailbox (s : State) (link version : Nat) (a : Ask) : State :=
  if (s.mailbox link).busy = false then s
  else
    let ctx := mailboxCtx link
    let crossed := s.carry (0x34 + link / 2) tileKt 4 (s.mailbox link).requestLength 0 link
    let (s1, r, v) := crossed.windowAnswer ctx .h version a
    let back := s1.carry tileKt (0x34 + link / 2) 4 r.data.length 0 link
    let s2 := (back.setMailbox link ((back.mailbox link).answered (frameOf v a r))).emit (.blp ctx a.msg 0 r.status r.data)
    let s3 := if bitOf (s2.hostFn (4 * link)).command 2 then s2.msixInterrupt (4 * link) 0 else s2
    s3.afterAnswer a r.status

/-- A core runs: its mode lets it, its tile is awake and its name is served. -/
def State.coreRuns (s : State) (n : Nat) : Bool :=
  coreUsable (s.rd Od.modeInForce) n && s.rd (Od.wakeState (n / 6)) == 0 && !s.service.lost.contains n

/-- A submitted core-window frame is processed; it and its answer cross the Mortar on VN4 (R37), and it completes with a
core interrupt. [DESIGN CHOICE: log entries 84, 88] -/
def State.serveCore (s : State) (n version : Nat) (a : Ask) : State :=
  if (s.coreWindow n).busy = false ∨ s.coreRuns n = false then s
  else
    let ctx := coreCtx n
    let crossed := s.carry (0x20 + n / 6) tileKt 4 (s.coreWindow n).requestLength 0 n
    let (s0, r, v) := crossed.windowAnswer ctx .c version a
    let s1 := s0.carry tileKt (0x20 + n / 6) 4 r.data.length 0 n
    (((s1.setCoreWindow n ((s1.coreWindow n).answered (frameOf v a r))).emit (.blp ctx a.msg 0 r.status r.data)).emit
      (.core n "dictionary interrupt" [])).afterAnswer a r.status

/-! ### Requests -/

/-- The entries of a signed command that names one entry: with CourseLength comes the CourseCommit that makes it take
effect (R107). -/
def signedEntriesOf (key : Nat) (v : WireValue) : List SignedEntry :=
  (key, v.bytes) :: (if key = Od.courseLength then [(Od.courseCommit, [1])] else [])

/-- A request is accepted and answered (R531). [DESIGN CHOICE: log entries 84, 113] -/
def State.ask (s0 : State) (r : Req) (a : Ask) : State :=
  let s := s0.moveTo r.off
  match r.via with
  | .session sid seq intact => s.serveSession sid seq intact a
  | .mailbox link version => s.serveMailbox link version a
  | .core n version => s.serveCore n version a
  | .signed counter authentic =>
    (match a with
      | .write key v stopped =>
        let o := s.signedAlone stopped counter authentic (signedEntriesOf key v)
        (o.state.emit (.blp 0 a.msg 0 o.status (beBytes 7 0 ++ beBytes 8 o.course))).afterAnswer a o.status
      | _ => s)
  | .firmware =>
    let (s1, x) := s.answer 1 .firmware none 2 a
    (s1.emit (.blp 1 a.msg 0 x.status x.data)).afterAnswer a x.status

/-- A request arrives: none is served before the agent runs, and a Keystone handover makes it wait (R560). -/
def State.request (s : State) (r : Req) (a : Ask) : State :=
  if s.boot.phase < 2 then s
  else if s.agent.handover then { s with agent := { s.agent with held := s.agent.held ++ [.ask r a] } }
  else s.ask r a

/-! ### Opening a session (R544, R545) -/

/-- Refusals of a source within 60 s, by courses (R608). -/
def State.refusalsOf (s : State) (source : Nat) : Nat :=
  (s.agent.refusals.filter (fun e => e.1 == source && decide ((s.course : Int) < e.2 + s.secCourses 60))).length

/-- An OPEN or OPEN_FINISH is refused with 0x09: counted, logged, and the eighth within 60 s blocks its source.
[DESIGN CHOICE: log entry 85] -/
def State.openRefused (s : State) (source ctx msg : Nat) : State :=
  let recent := s.agent.refusals.filter (fun e => decide ((s.course : Int) < e.2 + s.secCourses 60))
  let s1 := { s with agent := { s.agent with refusals := (source, s.course) :: recent } }
  let s2 := ((s1.bump Od.openFailures).raiseLimited 0x1A02 source 1 source).emit (.blp ctx msg 0 9 [])
  if 8 ≤ s2.refusalsOf source ∧ s2.agent.blocked.contains source = false then
    ({ s2 with agent := { s2.agent with blocked := source :: s2.agent.blocked } }).arm (tmBlock source)
  else s2

/-- A SessionId in use by no session, no handshake and no session that has ended, from a number on.
[DESIGN CHOICE: log entry 83] -/
def State.freshId (s : State) (n : Nat) : Nat :=
  let used := s.agent.sessions.map (fun x => x.id) ++ s.agent.handshakes.map (fun x => x.sid) ++ s.agent.ended
  ((List.range (used.length + 2)).map (fun k => (n + k) % 2 ^ 32)).find? (fun k => k != 0 && !used.contains k) |>.getD 0

/-- OPEN (R544). [DESIGN CHOICE: log entries 83, 85] -/
def State.open_ (s0 : State) (f : OpenFrame) : State :=
  let s := s0.moveTo f.off
  let common := f.versions.toNat / 2 % 4
  if f.path = 1 ∧ s.monitor.blp = false then s
  else if s.agent.blocked.contains f.source then s
  else if common = 0 then s.emit (.blp (sessionCtx 0) 0x02 0 5 (beBytes 1 6))
  else if (s.dom (Od.ownerKey f.signer.toNat)).isEmpty ∨ 8 ≤ f.signer.toNat then s.openRefused f.source (sessionCtx 0) 0x02
  else if 8 ≤ s.agent.sessions.length then s.emit (.blp (sessionCtx 0) 0x02 0 6 [])
  else
    let version := if 2 ≤ common then 2 else 1
    let (s1, n) := s.openBits 52 32
    let sid := s1.freshId n
    let (s2, nonce) := s1.openBits 53 384
    let (s3, point) := s2.openBits 54 776
    let (s4, sealed_) := s3.openBits 55 12544
    let reply := beBytes 1 version ++ beBytes 4 sid ++ beBytes 48 nonce ++ beBytes 97 point ++ beBytes 1568 sealed_
    let sign := Config.aliasSign s4.cdi (f.body ++ reply)
    let h : Handshake := ⟨sid, f.source, f.signer.toNat, version, f.path, f.body ++ reply ++ sign⟩
    (({ s4 with agent := { s4.agent with handshakes := s4.agent.handshakes ++ [h] } }).arm (tmFinish sid)).emit
      (.blp (sessionCtx sid) 0x02 0 0 (reply ++ sign))

/-- A handshake is over. -/
def State.dropHandshake (s : State) (sid : Nat) : State :=
  ({ s with agent := { s.agent with handshakes := s.agent.handshakes.filter (fun h => h.sid != sid) } }).disarm (tmFinish sid)

/-- OPEN_FINISH (R544). -/
def State.finish_ (s0 : State) (f : FinishFrame) : State :=
  let s := s0.moveTo f.off
  match s.agent.handshakes.find? (fun h => h.sid == f.sid) with
  | none => s.bump Od.blpFramesDiscarded
  | some h =>
    let s1 := s.dropHandshake f.sid
    if s1.ownerSigned h.signer h.transcript f.ecdsa f.mldsa = false then s1.openRefused h.source (sessionCtx f.sid) 0x03
    else if 8 ≤ s1.agent.sessions.length then s1.emit (.blp (sessionCtx f.sid) 0x03 0 6 [])
    else
      let x : Session := { id := f.sid, signer := h.signer, path := h.path, version := h.version, high := 0, stored := [],
                           keys := Config.sessionKeys h.transcript, opened := s1.now, last := s1.now, minSeverity := none,
                           waiting := [], notifySeq := 0, second := 0, sent := 0 }
      let s2 := { s1 with agent := { s1.agent with sessions := s1.agent.sessions ++ [x] } }
      (((s2.arm (tmIdleSession f.sid)).arm (tmLifetime f.sid)).emit (.blp (sessionCtx f.sid) 0x03 0 0 [])).raise 0x1A01 f.sid

/-- What a handover has made wait is accepted in order (R560). [DESIGN CHOICE: log entry 91] -/
def State.serveHeld (s : State) : State :=
  s.agent.held.foldl (fun s h => match h with
    | .ask r a => s.ask r a
    | .open_ f => s.open_ f
    | .finish f => s.finish_ f) { s with agent := { s.agent with held := [] } }

/-! ### Notifications (R553) -/

/-- One NOTIFY of up to 16 records, or none beyond 100 in a second: those records stay in the log. -/
def State.notifyOnce (s : State) (sid : Nat) : State :=
  match s.agent.sessions.find? (fun x => x.id == sid) with
  | none => s
  | some x =>
    if x.waiting.isEmpty then s
    else
      let sent := if x.second = s.second then x.sent else 0
      if 100 ≤ sent then s.setSession { x with waiting := x.waiting.drop 16 }
      else (s.setSession { x with waiting := x.waiting.drop 16, notifySeq := x.notifySeq + 1, second := s.second,
                                  sent := sent + 1 }).emit (.notify sid (x.notifySeq + 1) (x.waiting.take 16))

/-- Everything that waits for a session is sent. -/
def State.notifyAll (s : State) (sid : Nat) : State :=
  let n := ((s.agent.sessions.find? (fun x => x.id == sid)).map (fun x => x.waiting.length)).getD 0
  forEach (List.range (ceilDiv n 16)) (fun _ s => s.notifyOnce sid) s

/-! ### Commands of sessions and paths -/

/-- OPEN (R544, R545). -/
def execBlpOpen (f : OpenFrame) (s : State) : Res :=
  .next (if s.boot.phase < 2 then s
    else if s.agent.handover then { s with agent := { s.agent with held := s.agent.held ++ [.open_ f] } }
    else s.open_ f)

/-- OPEN_FINISH (R544, R545). -/
def execOpenFinish (f : FinishFrame) (s : State) : Res :=
  .next (if s.boot.phase < 2 then s
    else if s.agent.handover then { s with agent := { s.agent with held := s.agent.held ++ [.finish f] } }
    else s.finish_ f)

/-- OPEN_FINISH_TIMEOUT (R545). -/
def execOpenFinishTimeout (sid : Nat) (s : State) : Res :=
  .next (if s.due (tmFinish sid) (s.secCourses 10) then s.dropHandshake sid else s)

/-- OPEN_BLOCK_EXPIRY (R545). -/
def execOpenBlockExpiry (source : Nat) (s : State) : Res :=
  .next (if s.due (tmBlock source) (s.secCourses 60) then
    ({ s with agent := { s.agent with blocked := s.agent.blocked.filter (· != source) } }).disarm (tmBlock source) else s)

/-- CLOSE (R546). [DESIGN CHOICE: log entry 88] -/
def execBlpClose (r : Req) (s : State) : Res := .next (s.request r .close)

/-- COMMIT (R533, R534). -/
def execBlpCommit (r : Req) (target : BitVec 96) (s : State) : Res := .next (s.request r (.commit target.toNat))

/-- DESCRIBE (R542). [DESIGN CHOICE: log entry 86] -/
def execBlpDescribe (r : Req) (key : BitVec 24) (s : State) : Res := .next (s.request r (.describe key.toNat))

/-- ABORT_STAGED (R533). -/
def execAbortStaged (r : Req) (s : State) : Res := .next (s.request r .abortStaged)

/-- SEG_WRITE (R548). -/
def execSegWrite (r : Req) (key : BitVec 24) (first last : Bool) (offset total : BitVec 32) (data : List Byte)
    (coresStopped : Bool) (s : State) : Res :=
  .next (s.request r (.segWrite key.toNat first last offset.toNat total.toNat data coresStopped))

/-- SEG_READ (R548). -/
def execSegRead (r : Req) (key : BitVec 24) (offset : BitVec 32) (s : State) : Res :=
  .next (s.request r (.segRead key.toNat offset.toNat))

/-- SUBSCRIBE (R553). -/
def execBlpSubscribe (r : Req) (minSeverity : BitVec 8) (s : State) : Res :=
  .next (s.request r (.subscribe minSeverity.toNat))

/-- KEEPALIVE (R542). -/
def execBlpKeepalive (r : Req) (s : State) : Res := .next (s.request r .keepAlive)

/-- NOTIFY (R553): a message goes out when 16 records wait. -/
def execBlpNotify (sid : Nat) (s : State) : Res :=
  .next (match s.agent.sessions.find? (fun x => x.id == sid) with
    | some x => if 16 ≤ x.waiting.length then s.notifyOnce sid else s
    | none => s)

/-- SESSION_IDLE_TIMEOUT (R546); a handover does not count (R560).
[DEDUCED: log entry 4; DESIGN CHOICE: log entry 89] -/
def execSessionIdleTimeout (sid : Nat) (s : State) : Res :=
  .next (if s.agent.handover = false ∧ s.due (tmIdleSession sid) (s.secCourses (s.rd Od.sessionIdleTimeout)) = true then
    s.endSession sid 2 else s)

/-- SESSION_LIFETIME (R546). [DESIGN CHOICE: log entry 89] -/
def execSessionLifetime (sid : Nat) (s : State) : Res :=
  .next (if s.due (tmLifetime sid) (s.secCourses (s.rd Od.sessionLifetime)) then s.endSession sid 3 else s)

/-- TRANSFER_TIMEOUT (R548). -/
def execTransferTimeout (ctx : Nat) (s : State) : Res :=
  let n := s.msCourses (s.rd Od.transferTimeout)
  let s1 := if s.due (tmTransfer ctx) n then s.setTransfer ctx none else s
  .next (if s.due (tmCopy ctx) n then
    ({ s1 with agent := { s1.agent with copies := s1.agent.copies.filter (fun (c : ReadCopy) => c.ctx != ctx) } }).disarm (tmCopy ctx)
    else s1)

/-- MAILBOX_DOORBELL (R549). -/
def execMailboxDoorbell (link : Fin 4) (s : State) : Res :=
  let x := (s.mailbox link).ring
  .next (if s.boot.phase = 2 ∧ s.answers (4 * link) = true then
      let s1 := s.setMailbox link x
      if x.refused then s1.bump Od.mailboxRefused else s1
    else s)

/-- CORE_WINDOW_REQUEST (R550). -/
def execCoreWindowRequest (n : Fin 96) (length : Nat) (s : State) : Res :=
  let x := ({ s.coreWindow n with requestLength := if (s.coreWindow n).busy then (s.coreWindow n).requestLength else length }).ring
  .next (if s.boot.phase = 2 ∧ s.coreRuns n = true then
      let s1 := s.setCoreWindow n x
      if x.refused then s1.bump Od.mailboxRefused else s1
    else s)

/-- EVENT_READ (R552). -/
def execEventRead (r : Req) (sequence : BitVec 64) (s : State) : Res :=
  .next (s.request r (.write Od.eventRead ⟨0x0F, beBytes 8 sequence.toNat⟩ false))

/-- EVENT_SEVERITY (R551). -/
def execEventSeverity (r : Req) (code : BitVec 16) (s : State) : Res :=
  .next (s.request r (.write Od.eventSeverity ⟨0x0F, beBytes 2 code.toNat⟩ false))

/-! ### Management ports (R540, R541) -/

/-- Whether a numbered frame of a source is a duplicate, and the node table after it: 1,024 sources, EntryForgetTime
400 ms. -/
def State.mgmtDuplicate (s : State) (source seq : Nat) : State × Bool :=
  let w := tblGet [] s.mgmt.nodes source
  let keep (l : List (Nat × Int)) : State := { s with mgmt := { s.mgmt with nodes := tblPut s.mgmt.nodes source l } }
  let fresh (e : Nat × Int) : Bool := decide ((s.course : Int) ≤ e.2 + s.msCourses 400)
  match w with
  | [] => if 1024 ≤ s.mgmt.nodes.length then (s, false) else (keep [(seq, s.course)], false)
  | (h, _) :: _ =>
    let ahead := (seq + 65536 - h) % 65536
    if w.any (fun e => e.1 == seq && fresh e) then (s, true)
    else if 64 < ahead ∧ ahead < 65536 - 63 then (keep [(seq, s.course)], false)
    else if ahead = 0 ∨ ahead > 64 then (keep ((w.filter (fun e => e.1 != seq)).take 63 ++ [(seq, (s.course : Int))]), false)
    else (keep (((seq, (s.course : Int)) :: w).take 64), false)

/-- The allow list admits a source address: it is empty, or one of its prefixes holds it. -/
def State.mgmtAllows (s : State) (source : Nat) : Bool :=
  let rs := recordsOf 17 (s.dom Od.mgmtAllowList)
  rs.isEmpty || rs.any (fun r => decide (beAt r 0 16 / 2 ^ (128 - beAt r 16 1) = source / 2 ^ (128 - beAt r 16 1)))

/-- A frame accepted on a port of the second in force is counted; none beyond 10,000 is. -/
def State.mgmtRate (s : State) (portB : Bool) : Option State :=
  let m := if s.mgmt.second = s.second then s.mgmt else { s.mgmt with second := s.second, framesA := 0, framesB := 0 }
  if 10000 ≤ (if portB then m.framesB else m.framesA) then none
  else some { s with mgmt := (if portB then { m with framesB := m.framesB + 1, linkB := true }
                              else { m with framesA := m.framesA + 1, linkA := true }) }

/-- An answer goes out on both ports (R540). -/
def State.mgmtAnswer (s : State) (bs : List Byte) : State := (s.emit (.mgmt false bs)).emit (.mgmt true bs)

/-- MGMT_FRAME (R540, R541). -/
def execMgmtFrame (portB : Bool) (f : MgmtFrame) (off : Nat) (s0 : State) : Res :=
  let s := s0.moveTo off
  .next (if s.boot.phase < 2 then s
    else match s.mgmtRate portB with
      | none => s.bump Od.mgmtRateDrops
      | some s1 =>
        let (s2, dup) := match f.trailer with
          | none => (s1, false)
          | some (seq, lan) =>
            let t := if lan != portB then s1.bump Od.prpWrongLan else s1
            t.mgmtDuplicate f.source.toNat seq.toNat
        let s3 := { s2 with mgmt := { s2.mgmt with degradedReported := s2.mgmt.degradedReported && !(s2.mgmt.linkA && s2.mgmt.linkB) } }
        if dup then s3.bump Od.prpDuplicates
        else match f.kind with
          | .arp => s3.mgmtAnswer (beBytes 2 0x0806 ++ beBytes 6 (s3.rd Od.mgmtMac))
          | .neighbour => s3.mgmtAnswer (beBytes 2 0x86DD ++ beBytes 6 (s3.rd Od.mgmtMac))
          | .echo => s3.mgmtAnswer (beBytes 2 0x0800)
          | .udp port source =>
            if port.toNat = s3.rd Od.blpUdpPort ∧ s3.mgmtAllows source.toNat = true then s3
            else s3.bump Od.mgmtDiscarded
          | .other => s3.bump Od.mgmtDiscarded)

/-- MGMT_REDUNDANCY_DEGRADED (R540): port B, or A, has been the only one with link for more than 60 s. -/
def execMgmtRedundancyDegraded (portB : Bool) (s : State) : Res :=
  let s1 := { s with mgmt := { s.mgmt with linkA := !portB, linkB := portB, degradedReported := true } }
  .next (if s.boot.phase < 2 ∨ s.mgmt.degradedReported = true then s else s1.raise 0x1A04 (boolNat portB))

end Sys2Proof.Machine
end

