-- ==== Sys2Proof/Machine/Remote.lean ====
section
/-! DEFINITION. Machine/Remote.lean: connections to remote targets (chapter "Storage front end", R466). -/

namespace Sys2Proof.Machine

/-- The retry timer of a remote target's connection. -/
def tmReconnect (k : Nat) : Nat := timerKey 22 k

/-- Service tiles that own a namespace on a remote target. -/
def State.tilesOn (s : State) (k : Nat) : List Nat :=
  (List.range 4).filter (fun t => s.storage.namespaces.any (fun e =>
    nsPresent e.2 && nsBacking e.2 == 2 && nsRef e.2 == k && e.2.tile == t))

/-- The queue pair is of an association with a remote target: of no slice, its target in the record.
[DESIGN CHOICE: log entry 119] -/
def RdmaQp.towards (q : RdmaQp) (k : Nat) : Bool := leAt q.record 8 2 == 0xFFFF && leAt q.record 32 4 == k

/-- The connection to a remote target is lost: its queue pairs go, what is outstanding towards it waits, and the retry
timer starts. [DESIGN CHOICE: log entry 119] -/
def State.disconnect (s : State) (k : Nat) : State :=
  ({ s with
    storage := { s.storage with
      connected := s.storage.connected.filter (· != k)
      backing := s.storage.backing.map (fun (b : BackingCmd) => if b.target = 64 + k then { b with stranded := true } else b) }
    rdma := { s.rdma with qps := s.rdma.qps.filter (fun e => !e.2.towards k) } }).arm (tmReconnect k)

/-- A remote target is connected: an admin and an I/O queue pair for each tile's association, and what waited is sent.
[DESIGN CHOICE: log entry 119] -/
def State.connect (s : State) (k : Nat) : State :=
  let s1 := (s.tilesOn k).foldl (fun s t => (s.engineQp t k).engineQp t k) s
  let waiting := s1.storage.backing.filter (fun b => b.target == 64 + k && b.stranded)
  let s2 := ({ s1 with storage := { s1.storage with
      connected := k :: s1.storage.connected.filter (· != k)
      backing := s1.storage.backing.map (fun (b : BackingCmd) => if b.target = 64 + k then { b with stranded := false } else b) } }).disarm
    (tmReconnect k)
  waiting.foldl (fun s b => s.backingSend b) s2

/-- The interval has passed at a boundary (R115, R466): the connection may be tried again. -/
def State.reconnectDue (s : State) (k : Nat) : State :=
  if s.due (tmReconnect k) (s.msCourses (s.rd (Od.reconnectInterval k))) then s.disarm (tmReconnect k) else s

/-- RECONNECT_INTERVAL (R466): a connection that is not up is tried, the first time or once a boundary has found the
interval passed; `reached` says whether it comes up. The queue pairs it takes count against the mode's.
[DESIGN CHOICE: log entry 119] -/
def execReconnectInterval (k : Fin 64) (reached : Bool) (s : State) : Res :=
  let tiles := s.tilesOn k
  .next (if s.storage.connected.contains k.val || tiles.isEmpty || !s.storageOn || s.armed (tmReconnect k) then s
    else
      let s1 := s.emit (.backing (64 + k.val) "connect" tiles)
      if reached && decide (s.rdma.qps.length + 2 * tiles.length ≤ qpLimit (s.rd Od.modeInForce)) then s1.connect k
      else s1.arm (tmReconnect k))

/-- KEEP_ALIVE (R466): sent on the admin queue; a target that does not answer has lost its connection. -/
def execKeepAlive (k : Fin 64) (answered : Bool) (s : State) : Res :=
  .next (if s.storage.connected.contains k.val && s.storageOn then
    let s1 := s.emit (.backing (64 + k.val) "keep alive" [])
    if answered then s1 else s1.disconnect k
  else s)

end Sys2Proof.Machine
end

