-- ==== Sys2Proof/Machine/Monitor.lean ====
section
/-! DEFINITION. Machine/Monitor.lean: the Lamil serial monitor (R575 to R584). A line of text runs its command when it ends;
the command rows are the same commands, arriving whole. -/

namespace Sys2Proof.Machine

/-! ### Timers and state -/

/-- The time a challenge is awaited (R580). -/
def tmChallenge : Nat := timerKey 33 0
/-- The period in which UNLOCK is refused (R580). -/
def tmBackoff : Nat := timerKey 34 0
/-- MonitorIdleTimeout without a valid character (R576). -/
def tmChars : Nat := timerKey 35 0
/-- The time a binary block may take (R583). -/
def tmMonBlock : Nat := timerKey 36 0
/-- The time in which level 2 needs no signature while no owner key is enrolled (R579); it starts with the monitor. -/
def tmEnrol : Nat := timerKey 37 0
/-- MonitorIdleTimeout without a command (R579). -/
def tmCommands : Nat := timerKey 38 0

/-- The monitor's text is sent as a line of its own. -/
def State.says (s : State) (what : String) (data : List Byte) : State := s.emit (.monitor what data)

/-- The final line OK (R578). -/
def State.ok (s : State) : State := s.says "OK" []

/-- The final line ERR and a code (R578). -/
def State.err (s : State) (code : Nat) : State := s.says "ERR" (beBytes 1 code)

/-- The level in force. -/
def State.monLevel (s : State) : Nat := s.rd Od.monitorLevel

/-- A command of a level: refused below it. -/
def State.atLevel (s : State) (n : Nat) (f : State → State) : State := if s.monLevel < n then s.err 3 else f s

/-- A command with an argument: refused out of range. -/
def State.inBounds (s : State) (good : Bool) (f : State → State) : State := if good then f s else s.err 4

/-- Auto-baud is entered (R576, R579): level 0, and what has been typed is gone. [DESIGN CHOICE: log entry 121] -/
def State.enterAutoBaud (s : State) : State :=
  ({ s with monitor := { s.monitor with autoBaud := true, trying := none, good := 0, line := [], long := false,
                                        block := false } }.wr Od.monitorLevel 0).disarm tmChars

/-- Some owner key is enrolled. -/
def State.enrolled (s : State) : Bool := (List.range 8).any (fun i => !(s.dom (Od.ownerKey i)).isEmpty)

/-- What the next binary block is for. -/
def State.expect (s : State) (n : Nat) : State := { s with monitor := { s.monitor with expects := n } }

/-! ### Commands (R580 to R582) -/

/-- HELP: names of the commands of a level, as numbers of the rows of R581's table. -/
def State.monHelp (s : State) : State :=
  (s.says "HELP" ((if s.monLevel = 0 then List.range 7 else if s.monLevel = 1 then List.range 12 else List.range 15).map
    (BitVec.ofNat 8))).ok

/-- ID. [DESIGN CHOICE: log entry 123] -/
def State.monId (s : State) : State :=
  (s.says "ID" (beBytes 4 (s.rd Od.deviceType) ++ sized 30 Config.unitSerial ++ beBytes 4 (s.rd Od.kilnVersion)
    ++ beBytes 4 (s.rd Od.keystoneVersion) ++ beBytes 4 (s.rd Od.tileVersion) ++ beBytes 4 (s.rd Od.microcodeVersion)
    ++ beBytes 1 (s.rd Od.activeSlot) ++ beBytes 2 (s.rd Od.slotStatus) ++ beBytes 2 (s.rd Od.slotCodes))).ok

/-- TIME. [DESIGN CHOICE: log entry 123] -/
def State.monTime (s : State) : State :=
  (s.says "TIME" (beBytes 12 (ts96 s.now) ++ beBytes 1 (s.rd Od.servoState) ++ beBytes 1 (s.rd Od.timeValid)
    ++ beBytes 1 (s.rd Od.traceable) ++ beBytes 4 s.len ++ beBytes 8 s.course)).ok

/-- MODE. -/
def State.monMode (s : State) : State :=
  (s.says "MODE" (beBytes 1 (s.rd Od.modeInForce) ++ beBytes 1 (s.rd Od.modeChangeStatus) ++ beBytes 4 (s.rd Od.safeModeCause)
    ++ beBytes 4 (s.rd Od.activationStatus))).ok

/-- EVENTS n. -/
def State.monEvents (s : State) (n : Nat) : State :=
  s.inBounds (decide (1 ≤ n ∧ n ≤ 32)) (fun s => (s.says "EVENTS" (((s.log.ring.take n).map EventRec.bytes).flatten)).ok)

/-- UNLOCK n (R579, R580): refused by the cap and during the back-off; without an owner key only level 2, in its time; else
a challenge is sent. [DESIGN CHOICE: log entries 83, 122] -/
def State.monUnlock (s : State) (n : Nat) : State :=
  if n ≠ 1 ∧ n ≠ 2 then s.err 4
  else if s.rd Od.monitorLevelCap < n then s.err 3
  else if s.monitor.blocked then s.err 6
  else if s.enrolled then
    let (s1, v) := s.openBits 58 384
    let nonce := beBytes 48 v
    ((({ s1 with monitor := { s1.monitor with challenge := some (n, nonce) } }.expect 1).arm tmChallenge)).says "CHAL"
      (beBytes 1 n ++ nonce)
  else if n = 2 ∧ s.due tmEnrol (s.secCourses 600) = false then (s.wr Od.monitorLevel 2).ok
  else s.err 7

/-- LOCK (R579). -/
def State.monLock (s : State) : State := (s.wr Od.monitorLevel 0).ok

/-- BLP (R583). -/
def State.monBlp (s : State) : State := ({ s with monitor := { s.monitor with blp := true } }).ok

/-- The context in which the monitor reads the dictionary. -/
def monCtx : Nat := 400

/-- RD (R581): the answer of a READ; a byte sequence up to its first 256 bytes. -/
def State.monRd (s : State) (key : Nat) : State :=
  s.atLevel 1 (fun s =>
    let (s1, r) := s.agentRead monCtx key
    if r.status ≠ 0 then s1.err r.status else (s1.says "RD" (r.data.take 263)).ok)

/-- TILES. -/
def State.monTiles (s : State) : State :=
  s.atLevel 1 (fun s => (s.says "TILES" ((List.range 57).map (fun t => BitVec.ofNat 8 (s.tileByte t)))).ok)

/-- PORTS a b. -/
def State.monPorts (s : State) (a b : Nat) : State :=
  s.atLevel 1 (fun s => s.inBounds (decide (a ≤ b ∧ b ≤ 255)) (fun s =>
    (s.says "PORTS" (((List.range (b + 1 - a)).map (fun i =>
      let p := a + i
      beBytes 1 (s.rd (Od.linkState p)) ++ beBytes 4 (s.rd (Od.speedInUse p)) ++ beBytes 1 (s.rd (Od.fecInUse p))
        ++ beBytes 1 (s.rd (Od.linkDownCause p)))).flatten)).ok))

/-- BUDGET. -/
def State.monBudget (s : State) : State := s.atLevel 1 (fun s => (s.says "BUDGET" s.budgetReportRead).ok)

/-- Tags of the bricks of a network that a tile is about to inject or to eject (R27).
[DESIGN CHOICE: log entry 124] -/
def State.tagsAt (s : State) (id vn : Nat) : List Nat :=
  ((s.mortar.ready.filter (fun b => b.tag.srcTile == id && b.tag.vn == vn))
    ++ s.mortar.inputs.filter (fun b => b.dests.contains id && b.tag.vn == vn)).map (fun b => b.tag.word)

/-- CAPTURE id vn n: the tags of the bricks that wait at the tile's links, then of those that pass later.
[DESIGN CHOICE: log entry 124] -/
def State.monCapture (s : State) (id vn n : Nat) (tags : List (BitVec 64)) : State :=
  s.atLevel 1 (fun s => s.inBounds (decide (id < 57 ∧ vn ≤ 5 ∧ 1 ≤ n ∧ n ≤ 64)) (fun s =>
    (s.says "CAPTURE" (((s.tagsAt id vn ++ tags.map BitVec.toNat).take n).map (beBytes 8)).flatten).ok))

/-- ENROL (R581, R582): the block with the key is awaited. -/
def State.monEnrol (s : State) : State :=
  s.atLevel 2 (fun s => if s.enrolled then s.err 7 else s.expect 2)

/-- The last six characters of the unit serial; the calibration record fills it up with zeros.
[DESIGN CHOICE: log entry 123] -/
def serialTail : List Byte := ((Config.unitSerial.reverse.dropWhile (· == 0)).take 6).reverse

/-- RECOVER serial6 (R581, R582). -/
def State.monRecover (s : State) (serial6 : List Byte) : State :=
  s.atLevel 2 (fun s => s.inBounds (decide (serial6 = serialTail)) (fun s =>
    ((s.wrPersist Od.recoveryRequested 1).raise 0xEA12 0).ok))

/-- RECOVER CANCEL. -/
def State.monRecoverCancel (s : State) : State := s.atLevel 2 (fun s => (s.wrPersist Od.recoveryRequested 0).ok)

/-! ### Lines (R577, R578, R581) -/

/-- A letter as a capital. -/
def capital (b : Byte) : Nat := if 0x61 ≤ b.toNat ∧ b.toNat ≤ 0x7A then b.toNat - 0x20 else b.toNat

/-- The words of a line. -/
def wordsOf : List Byte → List Byte → List (List Byte)
  | [], w => if w.isEmpty then [] else [w.reverse]
  | b :: bs, w => if b = 0x20 then (if w.isEmpty then wordsOf bs [] else w.reverse :: wordsOf bs []) else wordsOf bs (b :: w)

/-- A digit's value, up to 15. -/
def digit? (b : Byte) : Option Nat :=
  let c := capital b
  if 0x30 ≤ c ∧ c ≤ 0x39 then some (c - 0x30) else if 0x41 ≤ c ∧ c ≤ 0x46 then some (c - 0x37) else none

/-- Digits of a base as a number. -/
def digits? (base : Nat) : List Byte → Nat → Option Nat
  | [], v => some v
  | b :: bs, v => match digit? b with
    | some d => if d < base then digits? base bs (v * base + d) else none
    | none => none

/-- A number as typed: decimal, or hexadecimal after 0x. -/
def number? (w : List Byte) : Option Nat :=
  if w.isEmpty then none
  else if 3 ≤ w.length ∧ w.take 1 = [0x30] ∧ (w.drop 1).head?.map capital = some 0x58 then digits? 16 (w.drop 2) 0
  else digits? 10 w 0

/-- An index and subindex as typed, 0x2100.02. -/
def odKey? (w : List Byte) : Option Nat :=
  match number? (w.takeWhile (· != 0x2E)), digits? 16 ((w.dropWhile (· != 0x2E)).drop 1) 0 with
  | some i, some n => if w.contains 0x2E && decide (i < 65536 ∧ n < 256) then some (i * 256 + n) else none
  | _, _ => none

/-- The command words of R581. -/
inductive MonWord where
  | help | id | time | mode | events | unlock | lock | blp | rd | tiles | ports | budget | capture | enrol | recover | unknown
  deriving DecidableEq, Repr

/-- A command word, as the codes of its letters. -/
def monWords : List (List Nat × MonWord) :=
  [([0x48, 0x45, 0x4C, 0x50], .help), ([0x49, 0x44], .id), ([0x54, 0x49, 0x4D, 0x45], .time),
   ([0x4D, 0x4F, 0x44, 0x45], .mode), ([0x45, 0x56, 0x45, 0x4E, 0x54, 0x53], .events),
   ([0x55, 0x4E, 0x4C, 0x4F, 0x43, 0x4B], .unlock), ([0x4C, 0x4F, 0x43, 0x4B], .lock), ([0x42, 0x4C, 0x50], .blp),
   ([0x52, 0x44], .rd), ([0x54, 0x49, 0x4C, 0x45, 0x53], .tiles), ([0x50, 0x4F, 0x52, 0x54, 0x53], .ports),
   ([0x42, 0x55, 0x44, 0x47, 0x45, 0x54], .budget), ([0x43, 0x41, 0x50, 0x54, 0x55, 0x52, 0x45], .capture),
   ([0x45, 0x4E, 0x52, 0x4F, 0x4C], .enrol), ([0x52, 0x45, 0x43, 0x4F, 0x56, 0x45, 0x52], .recover)]

/-- The command a word names. -/
def monWord (w : List Byte) : MonWord :=
  ((monWords.find? (fun e => e.1 == w.map capital)).map Prod.snd).getD .unknown

/-- The word CANCEL. -/
def wordCancel : List Nat := [0x43, 0x41, 0x4E, 0x43, 0x45, 0x4C]

/-- Tags of the bricks that pass a tile within a second, which a line of text does not bring: free.
[DESIGN CHOICE: log entry 124] -/
def State.passingTags (s : State) (n : Nat) : State × List (BitVec 64) :=
  let (s1, count) := s.openBits 59 8
  (List.range (count % (n + 1))).foldl (fun (p : State × List (BitVec 64)) _ =>
    let (t, v) := p.1.openBits 59 64
    (t, p.2 ++ [BitVec.ofNat 64 v])) (s1, [])

/-- A line's command with its arguments. -/
def State.runWords (s : State) (word : MonWord) (args : List (List Byte)) : State :=
  match word, args, args.map number? with
  | .help, [], _ => s.monHelp
  | .id, [], _ => s.monId
  | .time, [], _ => s.monTime
  | .mode, [], _ => s.monMode
  | .events, _, [some n] => s.monEvents n
  | .unlock, _, [some n] => s.monUnlock n
  | .lock, [], _ => s.monLock
  | .blp, [], _ => s.monBlp
  | .rd, [a], _ => match odKey? a with
    | some key => s.monRd key
    | none => s.atLevel 1 (fun s => s.err 4)
  | .tiles, [], _ => s.monTiles
  | .ports, _, [some a, some b] => s.monPorts a b
  | .budget, [], _ => s.monBudget
  | .capture, _, [some id, some vn, some n] =>
    s.atLevel 1 (fun s =>
      let (s1, tags) := s.passingTags n
      s1.monCapture id vn n tags)
  | .enrol, [], _ => s.monEnrol
  | .recover, [a], _ => if a.map capital = wordCancel then s.monRecoverCancel else s.monRecover a
  | _, _, _ => s.err 4

/-- A line ends. -/
def State.runLine (s : State) : State :=
  let l := s.monitor.line
  let s1 := { s with monitor := { s.monitor with line := [], long := false } }
  if s.monitor.long then (s1.bump Od.monLineTooLong).err 4
  else match wordsOf l [] with
    | [] => s1
    | w :: args => match monWord w with
      | .unknown => s1.err 1
      | word => (s1.arm tmCommands).runWords word args

/-! ### Binary blocks (R583) -/

/-- A block's bytes without their escapes; none when an escape has no byte after it. -/
def unescape : List Byte → Option (List Byte)
  | [] => some []
  | b :: bs =>
    if b = 0x7D then match bs with
      | [] => none
      | c :: cs => (unescape cs).map (fun l => (c ^^^ 0x20) :: l)
    else (unescape bs).map (fun l => b :: l)

/-- The data of a block from between its flags, when length and CRC are right. -/
def blockData (raw : List Byte) : Option (List Byte) :=
  match unescape raw with
  | none => none
  | some bs =>
    let n := beAt bs 0 2
    if bs.length = n + 6 ∧ n ≤ 8192 ∧ beAt bs (n + 2) 4 = crc32c (bs.take (n + 2)) then some (slice bs 2 n) else none

/-- An UNLOCK has failed (R580): ERR 0x09, counted, logged, and from the third in a row on held off, for 60 s and twice as
long each further time, up to 3,600 s. -/
def State.unlockFailed (s : State) : State :=
  let m := s.monitor
  let n := m.failures + 1
  let s1 := { s with monitor := { m with expects := 0, challenge := none, failures := n, blocked := m.blocked || decide (3 ≤ n),
                                         backoff := if n ≤ 3 then 60 else min 3600 (2 * m.backoff) } }.disarm tmChallenge
  let s2 := ((s1.err 9).bump Od.unlockFailures).raiseLimited 0xEA11 0 1 0
  if 3 ≤ n then s2.arm tmBackoff else s2

/-- A challenge response (R580). [DESIGN CHOICE: log entries 122, 123] -/
def State.unlockAnswer (s : State) (d : List Byte) : State :=
  match s.monitor.challenge with
  | none => s
  | some (n, nonce) =>
    let msg := beBytes 4 0x4C414D4C ++ sized 30 Config.unitSerial ++ beBytes 1 (beAt d 1 1) ++ nonce
    if d.length = 4725 ∧ beAt d 1 1 = n ∧ s.ownerSigned (beAt d 0 1) msg (slice d 2 96) (slice d 98 4627) = true then
      let s1 := { s with monitor := { s.monitor with expects := 0, challenge := none, failures := 0, backoff := 60 } }
      (((s1.disarm tmChallenge).wr Od.monitorLevel n).raise 0xEA10 (beAt d 0 1 * 256 + n)).ok
    else s.unlockFailed

/-- An enrolment (R582). [DESIGN CHOICE: log entry 122] -/
def State.enrolAnswer (s : State) (d : List Byte) : State :=
  let s1 := s.expect 0
  if s1.enrolled then s1.err 7
  else if d.length ≠ 2689 then s1.err 4
  else ((s1.applyOwnerKey 0 d).persist (.raw (Od.ownerKey 0) d)).ok

/-- A block has ended: it is discarded, or goes where it is awaited; in BLP mode its frame goes to the dictionary agent,
and an empty one ends the mode. [DESIGN CHOICE: log entry 122] -/
def State.takeBlock (s : State) (raw : List Byte) : State :=
  let s1 := { s with monitor := { s.monitor with block := false, line := [] } }.disarm tmMonBlock
  match blockData raw with
  | none => s1.bump Od.monBlockDiscarded
  | some d =>
    if s1.monitor.expects = 1 then s1.unlockAnswer d
    else if s1.monitor.expects = 2 then s1.enrolAnswer d
    else if s1.monitor.blp then
      if d.isEmpty then { s1 with monitor := { s1.monitor with blp := false } } else s1.says "frame" d
    else s1

/-! ### Characters (R576, R577) -/

/-- Bytes the receive buffer holds. [DESIGN CHOICE: log entry 120] -/
def monBuffer : Nat := 1024

/-- A character waits in the receive buffer. [DESIGN CHOICE: log entry 120] -/
def State.holdChar (s : State) (c : Byte) : State :=
  if monBuffer ≤ s.monitor.held.length then s.bump Od.monRxOverflow
  else { s with monitor := { s.monitor with held := s.monitor.held ++ [c] } }

/-- A character of text. -/
def State.textChar (s : State) (c : Byte) : State :=
  let m := s.monitor
  if c = 0x0D ∨ c = 0x0A then s.runLine
  else if 0x20 ≤ c.toNat ∧ c.toNat ≤ 0x7E then
    let s1 := s.says "echo" [c]
    if 128 ≤ m.line.length then { s1 with monitor := { m with long := true } }
    else { s1 with monitor := { m with line := m.line ++ [c] } }
  else if c = 0x08 then { s with monitor := { m with line := m.line.dropLast } }
  else s.bump Od.monFramingErrors

/-- A character received at the rate in force: text, or a block's flag or byte where a block can come; it waits during a
Keystone handover and until a command has sent its final line. -/
def State.charIn (s : State) (c : Byte) : State :=
  let m := s.monitor
  if s.agent.handover then s.holdChar c
  else if m.block then
    if c = 0x7E then s.takeBlock m.line else { s with monitor := { m with line := m.line ++ [c] } }
  else if c = 0x7E ∧ (m.blp = true ∨ m.expects ≠ 0) then
    { s with monitor := { m with block := true, line := [] } }.arm tmMonBlock
  else if m.expects ≠ 0 then s.holdChar c
  else if m.blp then s
  else s.textChar c

/-- What waits in the receive buffer is taken in its order, as far as it can be. -/
def State.drainChars (s : State) : State :=
  s.monitor.held.foldl (fun s c => s.charIn c) { s with monitor := { s.monitor with held := [] } }

/-- The rates supported (R575). -/
def monRates : List Nat := [115200, 230400, 460800, 921600, 1000000, 1500000, 2000000, 3000000]

/-- Distance of a measured rate from a supported one. -/
def rateOff (measured r : Nat) : Nat := (max measured r) - (min measured r)

/-- The supported rate nearest a measured one, within 3 % of it. [DESIGN CHOICE: log entry 121] -/
def nearestRate (measured : Nat) : Option Nat :=
  monRates.find? (fun r => decide (100 * rateOff measured r ≤ 3 * r) && monRates.all (fun q => decide (rateOff measured r ≤ rateOff measured q)))

/-- A character in auto-baud (R576): it sets the rate tried, or must be 0x55 at it.
[DESIGN CHOICE: log entry 121] -/
def State.tryBaud (s : State) (c : Byte) (measured : Nat) (bad : Bool) : State :=
  let m := s.monitor
  let fails := { s with monitor := { m with trying := none, good := 0 } }.bump Od.monBaudFailures
  match m.trying, nearestRate measured with
  | _, none => fails
  | none, some r => { s with monitor := { m with trying := some r, good := 0 } }
  | some t, some r =>
    if c ≠ 0x55 ∨ bad = true ∨ r ≠ t then fails
    else if m.good = 0 then { s with monitor := { m with good := 1 } }
    else ({ s with monitor := { m with autoBaud := false, trying := none, good := 0 } }.wr Od.monitorBaud t).arm tmChars

/-- The monitor runs: from stage 3 of start-up on, and in recovery. [DESIGN CHOICE: log entry 79] -/
def State.monitorRuns (s : State) : Bool := decide (2 ≤ s.boot.phase)

/-- CHARACTER (R576, R577): the character, the rate its start bit measures, and whether it has a framing error.
[DESIGN CHOICE: log entry 120] -/
def execMonCharacter (c : BitVec 8) (measured : Nat) (bad : Bool) (s : State) : Res :=
  .next (if !s.monitorRuns then s
    else if s.monitor.autoBaud then s.tryBaud c measured bad
    else if bad then s.bump Od.monFramingErrors
    else (s.drainChars.charIn c).arm tmChars)

/-- BREAK (R576, R579). -/
def execMonBreak (ms : Nat) (s : State) : Res := .next (if s.monitorRuns && decide (2 ≤ ms) then s.enterAutoBaud else s)

/-- MONITOR_IDLE_TIMEOUT (R576, R579): without a valid character the monitor enters auto-baud; without a command the level
returns to 0. -/
def execMonitorIdleTimeout (s : State) : Res :=
  let n := s.secCourses (s.rd Od.monitorIdleTimeout)
  let s1 := if s.due tmCommands n then (s.wr Od.monitorLevel 0).disarm tmCommands else s
  .next (if s.monitorRuns && s.due tmChars n then s1.enterAutoBaud else s1)

/-! ### Commands as rows -/

/-- A command of text is accepted: the rate is locked, the monitor in text mode, and the one before has ended; during a
Keystone handover it waits in the buffer instead. [DESIGN CHOICE: log entry 120] -/
def State.textOpen (s : State) : Bool :=
  s.monitorRuns && !s.monitor.autoBaud && !s.monitor.blp && !s.monitor.block && s.monitor.expects == 0 && !s.agent.handover

/-- A command runs when it is accepted; the idle times of commands and of characters start anew.
[DESIGN CHOICE: log entries 3, 120] -/
def State.command (s : State) (f : State → State) : State :=
  if s.textOpen then f ((s.arm tmCommands).arm tmChars) else s

/-- HELP (R581). -/
def execMonHelp (s : State) : Res := .next (s.command State.monHelp)
/-- ID (R581). -/
def execMonId (s : State) : Res := .next (s.command State.monId)
/-- TIME (R581). -/
def execMonTime (s : State) : Res := .next (s.command State.monTime)
/-- MODE (R581). -/
def execMonMode (s : State) : Res := .next (s.command State.monMode)
/-- EVENTS (R581). -/
def execMonEvents (n : Nat) (s : State) : Res := .next (s.command (fun s => s.monEvents n))
/-- UNLOCK (R580). -/
def execMonUnlock (n : Nat) (s : State) : Res := .next (s.command (fun s => s.monUnlock n))
/-- LOCK (R579). -/
def execMonLock (s : State) : Res := .next (s.command State.monLock)
/-- BLP (R583). -/
def execMonBlp (s : State) : Res := .next (s.command State.monBlp)
/-- RD (R581). -/
def execMonRd (key : BitVec 24) (s : State) : Res := .next (s.command (fun s => s.monRd key.toNat))
/-- TILES (R581). -/
def execMonTiles (s : State) : Res := .next (s.command State.monTiles)
/-- PORTS (R581). -/
def execMonPorts (a b : Nat) (s : State) : Res := .next (s.command (fun s => s.monPorts a b))
/-- BUDGET (R581). -/
def execMonBudget (s : State) : Res := .next (s.command State.monBudget)
/-- CAPTURE (R581). [DESIGN CHOICE: log entry 124] -/
def execMonCapture (id vn n : Nat) (tags : List (BitVec 64)) (s : State) : Res :=
  .next (s.command (fun s => s.monCapture id vn n tags))
/-- ENROL (R582). -/
def execMonEnrol (s : State) : Res := .next (s.command State.monEnrol)
/-- RECOVER (R582). -/
def execMonRecover (serial6 : List Byte) (s : State) : Res := .next (s.command (fun s => s.monRecover serial6))
/-- RECOVER_CANCEL (R582). -/
def execMonRecoverCancel (s : State) : Res := .next (s.command State.monRecoverCancel)

/-- CHALLENGE_RESPONSE (R580): the block awaited after a challenge, as it stands between its flags.
[DESIGN CHOICE: log entry 120] -/
def execChallengeResponse (raw : List Byte) (s : State) : Res :=
  .next (if s.monitorRuns && s.monitor.expects == 1 && !s.agent.handover then ((s.arm tmChars).takeBlock raw).drainChars
    else s)

/-- CHALLENGE_TIMEOUT (R580). -/
def execChallengeTimeout (s : State) : Res :=
  .next (if s.monitor.expects = 1 ∧ s.due tmChallenge (s.secCourses 60) = true then s.unlockFailed.drainChars else s)

/-- UNLOCK_BACKOFF_EXPIRY (R580). -/
def execUnlockBackoffExpiry (s : State) : Res :=
  .next (if s.monitor.blocked = true ∧ s.due tmBackoff (s.secCourses s.monitor.backoff) = true then
    { s with monitor := { s.monitor with blocked := false } }.disarm tmBackoff else s)

/-- BINARY_BLOCK (R583): a block as it stands between its flags, where one can come.
[DESIGN CHOICE: log entries 120, 121] -/
def execBinaryBlock (raw : List Byte) (s : State) : Res :=
  .next (if s.monitorRuns && !s.monitor.autoBaud && (s.monitor.blp || s.monitor.expects != 0) && !s.agent.handover then
    ((s.arm tmChars).takeBlock raw).drainChars else s)

/-- BLOCK_TIMEOUT (R583): a block not completed within 2 s of its first flag is discarded. -/
def execBlockTimeout (s : State) : Res :=
  .next (if s.monitor.block = true ∧ s.due tmMonBlock (s.secCourses 2) = true then
    ({ s with monitor := { s.monitor with block := false, line := [] } }.disarm tmMonBlock).bump Od.monBlockDiscarded
  else s)

end Sys2Proof.Machine
end

