-- ==== Sys2Proof/Machine/Upgrade.lean ====
section
/-! DEFINITION. Machine/Upgrade.lean: hitless activation after its write (R558 to R563), the Keystone handover (R560),
compute-tile wake (R519). -/

namespace Sys2Proof.Machine

/-! ### Preparation and the switch (R558, R559) -/

/-- The slot an activation takes. -/
def State.activationSlot (s : State) : Nat := bitField (s.rd Od.activationStatus) 27 27

/-- Component types that change, bit n − 1 for type n. -/
def State.activationChanged (s : State) : Nat := bitField (s.rd Od.activationStatus) 26 22

/-- A component type changes. -/
def State.changes (s : State) (type : Nat) : Bool := bitOf s.activationChanged (type - 1)

/-- ActivationStatus moves on to another state. -/
def State.activationTo (s : State) (state : Nat) : State :=
  s.wr Od.activationStatus (state * 2 ^ 28 + s.rd Od.activationStatus % 2 ^ 28)

/-- Programs with their WorstPath under a patch or base. -/
def State.recosted (s : State) (p : Option Patch) : State :=
  { s with trowel := { s.trowel with
      programs := s.trowel.programs.map (fun (e : Nat × Program) =>
        (e.1, { e.2 with worst := (worstPath p e.2.words).getD 0 })) } }

/-- The code that ends a preparation, 0 when it succeeds: the slot's check, a component that fails its digest as it is
loaded, a WorstPath under the new base, a demand. -/
def State.preparationCode (s : State) (n : Nat) (readBad loadBad : Bool) : Nat :=
  let c := s.slotCode readBad n
  if c ≠ 0 then c
  else if loadBad then 10
  else
    let base := (imageParts (s.slotBytes n)).find? (fun x => x.1 == 5 && x.2.2 != s.partDigest 5)
    match base with
    | none => 0
    | some x =>
      let p := basePatch x.2.2
      if s.trowel.programs.any (fun e => match worstPath (some p) e.2.words with
          | some w => decide (worstPathLimit s.mode < w)
          | none => true) then 0x0A
      else if (s.recosted (some p)).overloaded.isSome then 0x0B
      else 0

/-- PREPARATION_COMPLETE (R558): the activation awaits S, the second boundary from here, or is aborted.
[DESIGN CHOICE: log entries 3, 108] -/
def execPreparationComplete (readBad loadBad : Bool) (s : State) : Res :=
  .next (if s.boot.phase = 2 ∧ s.activating = 1 then
      let n := s.activationSlot
      let c := s.preparationCode n readBad loadBad
      if c ≠ 0 then
        (if s.slotCode readBad n ≠ 0 then s.noteSlot n (s.slotCode readBad n) else s).abortActivation c
      else
        let parts := (imageParts (s.slotBytes n)).filter (fun x => decide (x.2.2 ≠ s.partDigest x.1))
        let mask := (parts.map (fun x => 2 ^ (x.1 - 1))).sum
        { s with activation := ⟨s.course + 2, parts, [], [], false, s.boot.parts⟩ }.wr Od.activationStatus
          (activationWord 2 n mask (bitField (s.rd Od.activationStatus) 15 8))
    else s)

/-- S (R559): the microcode base switches as a patch with ApplyAt 1 does and the patch in force is discarded, the tiles
begin their handover. [DESIGN CHOICE: log entry 108] -/
def State.switchComponents (s : State) : State :=
  let s1 := s.activationTo 3
  match s.activation.parts.find? (fun x => x.1 == 5) with
  | none => s1
  | some x =>
    let p := basePatch x.2.2
    let s2 := (s1.recosted (some p)).setDom Od.microcodePatch []
    let s3 := { s2 with trowel := { s2.trowel with patch := some p, switching := some p, switched := [] },
                        storeDoms := tblDel s2.storeDoms Od.microcodePatch }
    (s3.wr Od.patchStatus 2).wr Od.microcodeVersion (s3.rd Od.microcodeVersion / 65536 * 65536)

/-- Step 7 of a boundary: an activation that awaits S reaches it. [DESIGN CHOICE: log entry 21] -/
def State.switchDue (s : State) : State :=
  if s.activating = 2 ∧ s.activation.switchCourse ≤ s.course then s.switchComponents else s

/-- SWITCH_BOUNDARY (R559). [DESIGN CHOICE: log entry 21] -/
def execSwitchBoundary (s : State) : Res := .next (if s.boot.phase = 2 then s.switchDue else s)

/-! ### Handovers (R559, R560) -/

/-- Tiles that run firmware of type 0x04: port, service and host tiles. -/
def firmwareTiles : List Nat := List.range 32 ++ [0x30, 0x31, 0x32, 0x33, 0x34, 0x35]

/-- A tile hands over to its new firmware: deliveries to it wait (R559). -/
def State.handingOver (s : State) (t : Nat) : Bool :=
  s.activating == 3 && s.changes 4 && firmwareTiles.contains t && !s.activation.tiles.contains t

/-- Every tile has handed over, or none has to. -/
def State.tilesDone (s : State) : Bool :=
  !s.changes 4 || firmwareTiles.all (fun t => s.activation.tiles.contains t)

/-- TILE_HANDOVER_COMPLETE (R559). -/
def execTileHandoverComplete (t : TileId) (s : State) : Res :=
  .next (if s.handingOver t then
      { s with activation := { s.activation with tiles := t.val :: s.activation.tiles } }
    else s)

/-- The timer that counts a Keystone handover. -/
def tmHandover : Nat := timerKey 40 0

/-- KEYSTONE_HANDOVER (R560): it begins when every tile has handed over; the servo holds, requests and messages wait. -/
def execKeystoneHandover (s : State) : Res :=
  .next (if s.activating = 3 ∧ s.changes 2 = true ∧ s.activation.keystone = false ∧ s.tilesDone = true then
      let s1 := (s.activationTo 4).arm tmHandover
      { s1 with servo := { s1.servo with held := true }, agent := { s1.agent with handover := true } }
    else s)

/-- PTP messages held, port by port, as one sequence in the order of their timestamps. -/
def State.heldPtp (s : State) : List (Nat × Nat × PtpHeader × PtpMsg) :=
  ((s.ptp.map (fun e => e.2.held.map (fun h => (h.2.2, e.1, h.1, h.2.1)))).flatten).mergeSort (fun a b => a.1 ≤ b.1)

/-- SessionIdleTimeout does not count the handover: the courses it took are added to each session's. -/
def State.pauseIdle (s : State) : State :=
  let n := match s.timers.find? (fun e => e.1 == tmHandover) with
    | some e => s.course + e.2.carried - e.2.armed
    | none => 0
  { s with timers := s.timers.map (fun (e : Nat × Timer) =>
      if e.1 / 2 ^ 160 = 29 then (e.1, { e.2 with armed := min s.course (e.2.armed + n) }) else e) }

/-- The handover is over (R560): Follow_Up messages go out, held PTP messages are processed, then held requests and
characters in their order. [DESIGN CHOICE: log entry 91] -/
def State.endHandover (s : State) : State :=
  let s1 := s.pauseIdle.disarm tmHandover
  let s2 := { s1 with servo := { s1.servo with held := false }, agent := { s1.agent with handover := false } }
  let msgs := s2.heldPtp
  let s3 := s2.ptp.foldl (fun s e =>
    let x := s.ptpPort e.1
    x.followUps.foldl (fun s f => s.ptpFollowUp e.1 f) (s.setPtp e.1 { x with held := [], followUps := [] })) s2
  let s4 := msgs.foldl (fun s m => s.ptpProcess m.2.1 m.2.2.1 m.2.2.2 m.1) s3
  s4.serveHeld.drainChars

/-- KEYSTONE_HANDOVER_END (R560). -/
def execKeystoneHandoverEnd (s : State) : Res :=
  .next (if s.activating = 4 then
      let s1 := s.endHandover.activationTo 3
      { s1 with activation := { s1.activation with keystone := true } }
    else s)

/-! ### Completion and rollback (R561, R562) -/

/-- Every changed component has switched. -/
def State.allSwitched (s : State) : Bool :=
  s.tilesDone && (!s.changes 2 || s.activation.keystone) && (!s.changes 5 || s.trowel.switching.isNone)

/-- ACTIVATION_COMPLETE (R561). -/
def execActivationComplete (s : State) : Res :=
  .next (if s.activating = 3 ∧ s.allSwitched = true then
      let n := s.activationSlot
      let bs := s.slotBytes n
      let base := (((imageParts bs).find? (fun x => x.1 == 5)).map (fun x => x.2.1)).getD 0
      let s1 := { s with boot := { s.boot with parts := imageParts bs }, activation := State.reset.activation }
      let s2 := { s1 with boot := { s1.boot with retained := s1.partDigest 3 } }
      let s3 := ((s2.showVersions.wr Od.microcodeVersion (base % 65536 * 65536 + s2.rd Od.microcodeVersion % 65536)).wr
        Od.supportedLevel (imageLevel bs)).wr Od.activeSlot n
      ((s3.wr Od.activationStatus (activationWord 0 n 0 (bitField (s.rd Od.activationStatus) 15 8))).renewAlias).raise 0xCA05 n
    else s)

/-- ACTIVATION_ROLLED_BACK (R562): the switched components return to their predecessors. The microcode base returns at
frame boundaries as it switched; the patch it discarded does not. [DESIGN CHOICE: log entry 108] -/
def execActivationRolledBack (type : Fin 6) (t : TileId) (s : State) : Res :=
  .next (if (s.activating = 3 ∨ s.activating = 4) ∧ s.changes type = true ∧ type.val ≠ 0 then
      let s1 := ((if s.activating = 4 then s.endHandover else s).activationTo 5).raise 0xCA08 (type.val * 256 + t.val)
      if s1.changes 5 then
        let old := ((s1.activation.old.find? (fun x => x.1 == 5)).map (fun x => x.2.2)).getD []
        let p := basePatch old
        let s2 := s1.recosted (some p)
        { s2 with trowel := { s2.trowel with patch := if p.updates.isEmpty then none else some p, switching := some p,
                                             switched := [] } }.wr Od.patchStatus 2
      else s1
    else s)

/-- A rollback is over at the boundary by which every engine has returned. [DESIGN CHOICE: log entry 108] -/
def State.rollbackDue (s : State) : State :=
  if s.activating = 5 ∧ s.trowel.switching.isNone = true then
    { s with activation := State.reset.activation }.wr Od.activationStatus (activationWord 0 s.activationSlot 0 (bitField (s.rd Od.activationStatus) 15 8))
  else s

/-! ### Compute tiles (R519) -/

/-- FAST_WAKE_DIGEST (R519): the digest of the retained copy releases the cores, or the tile is reloaded. -/
def execFastWakeDigest (t : Fin 16) (digest : List Byte) (s : State) : Res :=
  .next (if s.rd (Od.wakeState t) = 2 then
      if digest = s.boot.retained then s.wr (Od.wakeState t) 0
      else (s.wr (Od.wakeState t) 3).raise 0xBA06 t
    else s)

/-- RELOAD_COMPLETE (R519): the reloaded firmware is written back to the retained copy and the cores are released. -/
def execReloadComplete (t : Fin 16) (s : State) : Res :=
  .next (if s.rd (Od.wakeState t) = 3 then
      { s with boot := { s.boot with retained := s.partDigest 3 } }.wr (Od.wakeState t) 0
    else s)

end Sys2Proof.Machine
end

