-- ==== Sys2Proof/Machine/Boundary.lean ====
section
/-! DEFINITION. Machine/Boundary.lean: the work of a course boundary in the order of R112, counter snapshots (R113),
delivery of applied values (R535). -/

namespace Sys2Proof.Machine

/-! ### Delivery to tiles (R535) -/

/-- The tiles an entry's value is delivered to (R53): that of its port, port tile, compute tile or host tile, or every
tile that holds a copy. [DESIGN CHOICE: log entry 106] -/
def itemTiles (key : Nat) : List Nat :=
  let i := key / 256
  let area := i / 256
  let service : List Nat := [0x30, 0x31, 0x32, 0x33]
  let hosts : List Nat := [0x34, 0x35]
  if [0x24, 0x30, 0x31, 0x40, 0x53, 0x60, 0x62, 0x71, 0x72, 0xA2, 0xA3].contains area then [i % 256 / 8]
  else if [0x3200, 0x4200, 0x5400, 0x5600, 0x6400].contains (i / 32 * 32) then [i % 32]
  else if area = 0x47 then [0x34 + i % 256 / 128]
  else if 0xB300 ≤ i ∧ i < 0xB310 then [0x20 + (i - 0xB300)]
  else if [0x43, 0x45, 0x50, 0x51, 0x52, 0x55, 0x57, 0x59].contains area then List.range 32
  else if area = 0x70 then List.range 32 ++ service
  else if area = 0x73 ∨ area = 0x74 then service ++ List.range 32
  else if area = 0x80 then hosts
  else if area = 0x81 then hosts ++ service
  else if 0x90 ≤ area ∧ area < 0x99 ∨ area = 0xA0 ∨ area = 0xA1 then service
  else []

/-- The value of a delivered item comes into force. -/
def State.comeIntoForce (s : State) (signed : Bool) (i : Item) : State :=
  if signed then s.applySigned [i] else s.applyItem false i

/-- A delivery on VN4 to each tile concerned (R37, R53): lost when a message to one of them is (R41), waiting while one
hands over (R559); the value comes into force when every tile has it. [DESIGN CHOICE: log entry 106] -/
def State.deliverItem (s : State) (signed : Bool) (i : Item) : State :=
  let tiles := itemTiles i.key
  let s := tiles.foldl (fun s t => s.carry tileKt t 4 64 0 i.key) s
  let wait (t : Nat) (s : State) : State :=
    { s with agent := { s.agent with lost := s.agent.lost ++ [Delivery.mk t i signed 0] } }
  match tiles.find? (fun t => s.agent.losing.contains t || s.handingOver t) with
  | none => s.comeIntoForce signed i
  | some t => wait t { s with agent := { s.agent with losing := s.agent.losing.erase t } }

/-- A lost delivery is resent (R535): after 16 failed resends its tile's Fault bit is set.
[DESIGN CHOICE: log entry 106] -/
def State.resendItem (s : State) (d : Delivery) : State :=
  let keep (n : Nat) (s : State) : State :=
    { s with agent := { s.agent with lost := s.agent.lost ++ [Delivery.mk d.tile d.item d.signed n] } }
  if s.handingOver d.tile then keep d.resends s
  else
    let s1 := ((s.carry tileKt d.tile 4 64 0 d.item.key).bump Od.applyRetries).raiseLimited 0x1A05 d.tile 1 d.tile
    if s1.agent.losing.contains d.tile then
      let s2 := { s1 with agent := { s1.agent with losing := s1.agent.losing.erase d.tile } }
      if 16 ≤ d.resends + 1 then s2.tileFault d.tile else keep (d.resends + 1) s2
    else s1.comeIntoForce d.signed d.item

/-- Every lost delivery is resent at a boundary. [DESIGN CHOICE: log entry 106] -/
def State.resendLost (s : State) : State :=
  s.agent.lost.foldl (fun s d => s.resendItem d) { s with agent := { s.agent with lost := [] } }

/-! ### Step 1: time (R63, R64, R104 to R109) -/

/-- An accepted write of TimeStepOffset or TimeSet, in a write of its own or in a set. -/
def timeItem : Item → Option (Bool × Nat)
  | .num k v => if k = Od.timeStepOffset then some (false, v) else if k = Od.timeSet then some (true, v) else none
  | .raw .. => none

/-- The commits that apply at the boundary ahead: at most 64 with the peer windows of the boundary (R122). -/
def State.commitsDue (s : State) : List Commit :=
  let windows := (s.host.windows.filter (fun e => e.2.pending && decide (e.2.course ≤ s.course + 1))).length
  (s.agent.commits.filter (fun c => decide (s.commitCourse c ≤ s.course + 1))).take (64 - windows)

/-- The time actions due: the instant time takes at the boundary, and whether it is set or moved. A setting from a source
waits until the source has an offset, and is not needed once time is valid. -/
def State.timeTarget (s : State) (crs : List CrsWrite) (commits : List Commit) : Option (Nat × Bool) :=
  let acts := crs.filterMap (fun c => timeItem c.item) ++ ((commits.map (fun c => c.items.filterMap timeItem)).flatten)
  let start : Option (Nat × Bool) := match s.clock.setFromSource with
    | some n => if s.rdB Od.timeValid then none
        else (s.source n).offset.map (fun o => (((s.clock.finish : Int) - o).toNat, true))
    | none => none
  acts.foldl (fun t a =>
    if a.1 then some (ts96Ticks a.2, true)
    else some ((((t.map Prod.fst).getD s.clock.finish : Nat) + toSigned 64 a.2).toNat, (t.map Prod.snd).getD false)) start

/-- Course numbers held for later are carried over the one jump of CourseCount (R104): spans in courses stay as they
were. [DESIGN CHOICE: log entry 19] -/
def State.shiftCourses (s0 : State) (d : Nat) : State :=
  let s := s0.mapSeen (· + (d : Int))
  { s with
    timers := s.timers.map (fun (e : Nat × Timer) => (e.1, { e.2 with armed := e.2.armed + d }))
    agent := { s.agent with
      crs := s.agent.crs.map (fun (c : CrsWrite) => if c.course = 0 then c else { c with course := c.course + d })
      commits := s.agent.commits.map (fun (c : Commit) => if c.course = 0 then c else { c with course := c.course + d }) }
    log := { s.log with limits := s.log.limits.map (fun (e : Nat × List Nat) => (e.1, e.2.map (· + d))) }
    modeChange := { s.modeChange with flipCourse := s.modeChange.flipCourse + d }
    activation := { s.activation with switchCourse := s.activation.switchCourse + d }
    fwd := { s.fwd with moves := s.fwd.moves.map (fun (e : Nat × List Nat) => (e.1, e.2.map (· + d))) }
    classify := { s.classify with
      ternary := s.classify.ternary.map (fun (e : Nat × Ternary) => (e.1, { e.2 with flipped := e.2.flipped.map (· + d) }))
      exact := s.classify.exact.map (fun (e : Nat × Exact) => (e.1, { e.2 with flipped := e.2.flipped.map (· + d) })) }
    trowel := { s.trowel with retired := s.trowel.retired.map (fun (r : Nat × Nat × Nat × Nat) => (r.1, r.2.1, r.2.2.1, r.2.2.2 + d)) }
    switch := { s.switch with
      transit := s.switch.transit.map (fun (t : Transit) => { t with frame := { t.frame with course := t.frame.course + d } })
      aligned := s.switch.aligned.map (fun (e : Nat × Aligned) =>
        (e.1, { held := e.2.held.map (fun (h : Frame × Nat × Bool) => (h.1, h.2.1 + d, h.2.2)),
                counts := e.2.counts.map (fun (c : Nat × Nat) => (c.1 + d, c.2))
                past := e.2.past.map (fun (x : Nat × Nat × Bool) => (x.1 + d, x.2)) })) }
    host := { s.host with
      windows := s.host.windows.map (fun (e : Nat × PeerWindow) => (e.1, { e.2 with course := e.2.course + d }))
      queues := s.host.queues.map (fun (e : Nat × QueuePair) => (e.1, { e.2 with unsignalled := e.2.unsignalled.map (· + d) })) }
    slices := { s.slices with blocks := s.slices.blocks.map (fun (e : Nat × SliceBlock) =>
      (e.1, { e.2 with due := e.2.due.map (fun (x : Nat × Nat) => (x.1, x.2 + d)) })) }
    storage := { s.storage with queues := s.storage.queues.map (fun (e : Nat × NvmeQueue) =>
      (e.1, { e.2 with unsignalled := e.2.unsignalled.map (· + d) })) }
    rdma := { s.rdma with qps := s.rdma.qps.map (fun (e : Nat × RdmaQp) =>
      (e.1, { e.2 with lastValid := e.2.lastValid + d, window := e.2.window.map (fun (x : Nat × Nat) => (x.1 + d, x.2)) })) }
    keystone := { s.keystone with
      watchdogs := s.keystone.watchdogs.map (fun (e : Nat × Nat) => (e.1, e.2 + d))
      second := s.keystone.second.map (fun (e : Nat × Nat) => (e.1, e.2 + d)) } }

/-- What is due at the boundary is marked with course 0, and so stays marked whatever happens to the numbers.
[DESIGN CHOICE: log entry 19] -/
def State.markDue (s : State) : State :=
  let commits := s.commitsDue
  { s with agent := { s.agent with
    crs := s.agent.crs.map (fun (c : CrsWrite) => if c.course ≤ s.course + 1 then { c with course := 0 } else c)
    commits := s.agent.commits.map (fun (c : Commit) => if commits.contains c then { c with course := 0 } else c) } }

/-- The instants of the last accepted edges move with a step of time: the 20 ns of R89 pass as they would have. -/
def State.shiftEdges (s : State) (d : Int) : State :=
  { s with pins := s.pins.map (fun (e : Nat × Pin) => (e.1, { e.2 with lastEdge := e.2.lastEdge.map (fun x => ((x : Int) + d).toNat) })) }

/-- Step 1: the time step or setting, the change of length, the servo. Writes and commits marked as due keep course 0.
[DESIGN CHOICE: log entry 20] -/
def State.timeStep (s : State) : State :=
  let target := s.timeTarget (s.agent.crs.filter (fun c => c.course == 0)) (s.agent.commits.filter (fun c => c.course == 0))
  let s0 := s.servoHistory
  let s1 := { s0 with clock := { s0.clock with
      setFromSource := if target.isSome || s.rdB Od.timeValid then none else s.clock.setFromSource } }.timeActions target
  let s2 := if s.course + 1 < s1.course then s1.shiftCourses (s1.course - (s.course + 1)) else s1
  (match target with | some (t, _) => s2.shiftEdges ((t : Int) - (s.clock.finish : Int)) | none => s2).servoBoundary

/-! ### Step 3: counter snapshots (R113) -/

/-- Counters that are read as byte sequences, with their values. -/
def State.counterDoms (s : State) : List (Nat × List Byte) :=
  let tiles := (s.switch.policers.map (fun e => e.1 / 2048)).dedup
  let rules := (s.classify.counts.map (fun e => e.1 / 2 ^ 32)).dedup
  let ports := (s.switch.queues.map (fun e => e.1 / 8)).dedup
  (tiles.map (fun t => (Od.policerCounters t, s.policerCountersRead t)))
    ++ (rules.map (fun t => (Od.ruleCounters t, s.ruleCountersRead t)))
    ++ (ports.map (fun p => (Od.queueSamples p, s.queueSamplesRead p)))
    ++ (if s.slices.counts.isEmpty then [] else [(Od.sliceCounters, s.sliceCountersRead)])
    ++ (if s.streamLateRead.isEmpty then [] else [(Od.streamLateFrames, s.streamLateRead)])
    ++ (if s.storage.counts.isEmpty then [] else [(Od.namespaceCounters, s.nsCountersRead)])

/-- Every counter copies its value; SnapshotCourse is written, and the smallest free counts start again (R113, R382).
[DESIGN CHOICE: log entry 50] -/
def State.takeSnapshot (s : State) : State :=
  let s1 := { s with
    snapshot := s.dict.filter (fun e => odIsCounter e.1)
    snapshotDoms := s.counterDoms.foldl (fun t e => tblPut t e.1 e.2) [] }
  let s2 := (forEach (List.range 66)
    (fun n s => if s.rd (Od.freeMin n) = s.poolFree n then s else s.wr (Od.freeMin n) (s.poolFree n)) s1).wr
      Od.snapshotCourse s.course
  { s2 with clock := { s2.clock with snapshot := false } }

/-- A snapshot is due in the course that has begun. [DESIGN CHOICE: log entry 21] -/
def State.snapshotDue (s : State) : Bool := s.course % max 1 (s.rd Od.snapshotInterval) == 0

/-- COUNTER_SNAPSHOT (R113): what step 3 does, when one is due that no boundary has taken: that of the course in which the
device starts. [DESIGN CHOICE: log entry 21] -/
def execCounterSnapshot (s : State) : Res :=
  .next (if s.boot.phase = 2 ∧ s.clock.snapshot = true then s.takeSnapshot.restartMaxima else s)

/-! ### Steps 6, 8 and 9: modes, writes, commits -/

/-- An accepted SafeModeCommand 0x07 asks for entry to mode 7 at this boundary (R145). -/
def State.safeDue (s : State) : State :=
  if s.agent.crs.any (fun c => c.course == 0 && match c.item with | .num k v => k == Od.safeModeCommand && v == 7 | .raw .. => false) then
    { s with modeChange := { s.modeChange with safe := some (s.modeChange.safe.getD 0) } }
  else s

/-- Step 7: the microcode patch of a commit that is due (R307). -/
def State.patchStep (s : State) : State :=
  (s.agent.commits.filter (fun c => c.course == 0)).foldl (fun s c =>
    (c.items.filter (fun i => i.key == Od.microcodePatch)).foldl (fun s i => s.deliverItem (c.ctx == 0) i) s) s

/-- Step 8: the Crs writes of the boundary that still stand, in acceptance order. -/
def State.crsStep (s : State) : State :=
  let (now, later) := s.agent.crs.partition (fun c => c.course == 0)
  now.foldl (fun s c => s.deliverItem (c.ctx == 0) c.item) { s with agent := { s.agent with crs := later } }

/-- A commit comes into force, fuses last; a signed command is then no longer waiting (R508, R509). -/
def State.commitApplies (s : State) (c : Commit) : State :=
  let rest := c.items.filter (fun i => i.key != Od.microcodePatch)
  let items := rest.filter (fun i => !i.burns) ++ rest.filter Item.burns
  let s1 := items.foldl (fun s i => s.deliverItem (c.ctx == 0) i) s
  match signedCounter c.items with
  | none => s1
  | some n =>
    let s2 : State := ({ s1 with keystone := { s1.keystone with waiting := none } } : State).raise 0xBA02 n
    if s2.boot.phase = 3 ∧ c.items.any (fun (i : Item) => i.key == Od.imageCommit) = true
      ∧ (s2.slotCode false 0 = 0 ∨ s2.slotCode false 1 = 0) then s2.leaveRecovery else s2

/-- Step 9: the commits of the boundary that still stand, in the order of acceptance. -/
def State.commitStep (s : State) : State :=
  let (now, later) := s.agent.commits.partition (fun c => c.course == 0)
  now.foldl (fun s c => s.commitApplies c) { s with agent := { s.agent with commits := later } }

/-! ### Table entries put back (R566) -/

/-- An entry lost to an SRAM error is reloaded from its persisted copy. -/
def State.putBack (s : State) : Reload → State
  | .rule t pipeline r =>
    let x := s.ternary t
    let has (l : List Rule) : Bool := l.any (fun y => y.id == r.id)
    if pipeline = 0 then (if has x.ingress then s else s.setTernary t { x with ingress := x.ingress ++ [r] })
    else (if has x.egress then s else s.setTernary t { x with egress := x.egress ++ [r] })
  | .exact x e =>
    let y := s.exact x
    if y.entries.any (fun z => z.key == e.key) then s else s.setExact x { y with entries := y.entries ++ [e] }
  | .bytes key offset bs => s.setDom key (overlay (s.dom key) offset bs)
  | .policer i e => s.setPolicer i (Policer.configured e s.len (s.policer i))
  | .fdb e =>
    let key := e.fid * 2 ^ 48 + e.mac
    if s.fwd.fdb.any (fun x => x.1 == key) then s else s.setFdb (tblPut s.fwd.fdb key e)

/-- Every entry that waits is reloaded. -/
def State.reloadTables (s : State) : State :=
  s.service.reload.foldl (fun s e => ((s.putBack e.2).bump Od.tableEntriesReloaded).raiseLimited 0xEA06 e.1 1 e.1)
    { s with service := { s.service with reload := [] } }

/-! ### The whole boundary (R112) -/

/-- The state a meaning leaves. -/
def State.after (s : State) : Res → State
  | .next t => t
  | _ => s

/-- What the expiry of a timer does, if it is due, by the kind of its key: the command of that timer (R115).
[DEDUCED: log entry 4] -/
def State.expire (s : State) (key : Nat) : State :=
  let i := key % 2 ^ 160
  s.after (match key / 2 ^ 160 with
    | 22 => .next (s.reconnectDue i)
    | 1 => execSourceTimeout i s
    | 2 => execSourceQualified i s
    | 3 => execNegotiationTime (Fin.ofNat 256 i) s
    | 4 => execNegotiationRetry (Fin.ofNat 256 i) s
    | 5 => execAnnounceReceiptTimeout (Fin.ofNat 256 i) s
    | 6 => execHoldOffTime s
    | 7 => execWaitToRestore (Fin.ofNat 256 i) s
    | 8 => execAnAttemptTimeout (Fin.ofNat 256 i) s
    | 9 => execAnRetryInterval (Fin.ofNat 256 i) s
    | 10 => execTrainingTimeout (Fin.ofNat 256 i) s
    | 11 => execLldpTtlExpiry (Fin.ofNat 256 i) s
    | 12 => execLldpTxInterval (Fin.ofNat 256 i) s
    | 13 => execHelloInterval 0 s
    | 14 => execNeighbourLost (Fin.ofNat 256 (i / 512)) (Fin.ofNat 512 i) s
    | 15 => execNodeForgetTime (Fin.ofNat 64 (i / 2 ^ 48)) (BitVec.ofNat 48 i) s
    | 16 => execRedundancyDegraded (Fin.ofNat 64 i) s
    | 20 => execCompletionTimeout (Fin.ofNat 4 (i / 2 ^ 20)) (i % 2 ^ 20) s
    | 21 => execBackingTimeout i s
    | 23 => execApstIdleTimer (Fin.ofNat 4 i) s
    | 25 => execLocalAckTimeout i s
    | 26 => execRnrTimer i s
    | 27 => execOpenFinishTimeout i s
    | 28 => execOpenBlockExpiry i s
    | 29 => execSessionIdleTimeout i s
    | 30 => execSessionLifetime i s
    | 31 | 39 => execTransferTimeout i s
    | 33 => execChallengeTimeout s
    | 34 => execUnlockBackoffExpiry s
    | 35 | 38 => execMonitorIdleTimeout s
    | 36 => execBlockTimeout s
    | 64 => execExpectTimeout (Fin.ofNat 32 i) s
    | 66 => execLinkUpHold (Fin.ofNat 256 i) s
    | 68 => execPfcStorm (Fin.ofNat 256 (i / 8)) (Fin.ofNat 8 i) s
    | 69 => execStormRestore (Fin.ofNat 256 (i / 8)) (Fin.ofNat 8 i) s
    | _ => .next s)

/-- Step 5 (R115 to R118): every timer that runs is judged, in the order of their keys, before the writes of steps 8 to
10; a source lost here is left at once (R60). [DEDUCED: log entry 4; DESIGN CHOICE: log entry 130] -/
def State.timerStep (s : State) : State :=
  (s.timers.foldl (fun u e => if u.armed e.1 then u.expire e.1 else u) s).lossChange
    (s.source (s.rd Od.selectedSource)).qualified

/-- Steps 3 to 5: snapshot, sampling, links, timers, and what a boundary decides of redundancy, the Wall and RDMA. -/
def State.measureStep (s : State) : State :=
  let s1 := if s.snapshotDue then s.takeSnapshot.sampleQueues.restartMaxima
    else { s with clock := { s.clock with snapshot := false } }.sampleQueues
  let s2 := s1.linksDownDue
  let s3 := forEach ((s2.ports.filter (fun e => e.2.dcbxDue)).map Prod.fst) (fun p s => s.resolveDcbx p) s2
  s3.timerStep.redBoundary.wallBoundary.rdmaBoundary

/-- Step 11 and the credits of the ended course. -/
def State.creditStep (s : State) : State :=
  let s1 := s.shaperBoundary
  let s2 := { s1 with switch := { s1.switch with
    policers := s1.switch.policers.map (fun (e : Nat × Policer) => (e.1, (e.2.upTo s1.now).refill s1.len)) } }
  let s3 := { s2.gateBoundary with classify := { s2.gateBoundary.classify with passed := [] } }
  s3.exactCredit.exceptionTokens.fwdBoundary

/-- Step 12. -/
def State.releaseStep (s : State) : State :=
  forEach (s.switch.aligned.map Prod.fst) (fun q s => s.releaseAligned q) s

/-- Step 13: the course event of the pipelines whose entry 0x00 is a course handler, and of the running cores.
[DESIGN CHOICE: log entry 107] -/
def State.eventStep (s : State) : State :=
  let pipes := (s.trowel.programs.filter (fun e => e.1 % 256 == 0)).map (fun e => e.1 / 256)
  let s1 := forEach pipes (fun q s => s.setPipe q { s.pipe q with courseEvent := true }) s
  forEach (List.range 96) (fun n s => if s.coreRuns n then s.emit (.core n "course event" []) else s) s1

/-- What follows the thirteen steps: links, power states, notifications. -/
def State.afterStep (s : State) : State :=
  let s1 := s.helloCheck.pinsOfAbsentLinks.ssdPower
  if s1.course % 1000 = 0 then forEach (s1.agent.sessions.map (fun x => x.id)) (fun n s => s.notifyAll n) s1 else s1

/-- Steps 6 to 9: mode change, microcode, single writes, sets. -/
def State.configStep (s : State) : State :=
  let s1 := (((s.safeDue.modeBoundary).switchDue).rollbackDue).patchStep
  let s2 := ((((s1.resendLost).reloadTables).crsStep).startupCheck).dirtyBoundary
  s2.commitStep.pinsBoundary.syncBoundary

/-- The thirteen steps (R112); what was accepted for the boundary is fixed before it.
[DESIGN CHOICE: log entry 21] -/
def State.boundary (s : State) : State :=
  let s1 := ((s.gatesEnd.markDue.timeStep).measureStep).configStep
  let s2 := (s1.peerBoundary 0).peerBoundary 1
  let s3 := { s2 with agent := { s2.agent with losing := [] } }
  s3.creditStep.releaseStep.eventStep.afterStep

/-- COURSE_BOUNDARY (R112). -/
def execCourseBoundary (s : State) : Res := .next (if 2 ≤ s.boot.phase then s.boundary else s)

end Sys2Proof.Machine
end

