-- ==== Sys2Proof/Machine/Operands.lean ====
section
/-! DEFINITION. Machine/Operands.lean: the operand forms of the Trowel's macro-instructions (R293, R294). -/

namespace Sys2Proof

/-- Imm, zero-extended. -/
def Macro.wide (m : Macro) : Word32 := m.imm.setWidth 32

/-- Imm, sign-extended. -/
def Macro.signed (m : Macro) : Word32 := m.imm.signExtend 32

/-- Imm[4:0], a shift count. -/
def Macro.shift (m : Macro) : Nat := m.imm.toNat % 32

/-- Imm[7:0], a byte offset or a metadata field. -/
def Macro.low (m : Macro) : Nat := m.imm.toNat % 256

/-- Imm[15:8], a byte count. -/
def Macro.high (m : Macro) : Nat := m.imm.toNat / 256

/-- Bytes of an access of the width in Imm[15:14]: 1, 2 or 4. -/
def Macro.width (m : Macro) : Nat := 2 ^ (m.imm.toNat / 16384)

/-- Imm[1:0], the kind of a forwarding result. -/
def Macro.kind (m : Macro) : Nat := m.imm.toNat % 4

end Sys2Proof

namespace Sys2Proof.Machine

/-- A register of a file of sixteen. -/
def regOf (regs : List Word32) (n : Fin 16) : Word32 := regs.getD n 0

/-- The register file with one register set. -/
def setReg (regs : List Word32) (n : Fin 16) (v : Word32) : List Word32 := regs.set n v

end Sys2Proof.Machine
end

