-- ==== Sys2Proof/Machine/Flags.lean ====
section
/-! DEFINITION. Machine/Flags.lean: the flags of the Trowel: Z, and C as carry or unsigned borrow (R290, R294). Only
ADD, ADDI, SUB, CMP and CMPI set them. -/

namespace Sys2Proof.Machine

/-- Z and C of an addition modulo 2^32. -/
def addFlags (a b : Word32) : Bool × Bool := (a + b == 0, decide (2 ^ 32 ≤ a.toNat + b.toNat))

/-- Z and C of a subtraction modulo 2^32: C is the unsigned borrow. -/
def subFlags (a b : Word32) : Bool × Bool := (a - b == 0, decide (a.toNat < b.toNat))

/-- A branch condition holds: 0 always, 1 Z, 2 not Z, 3 C, 4 not C. -/
def condition (n : Nat) (z c : Bool) : Bool :=
  match n with
  | 0 => true
  | 1 => z
  | 2 => !z
  | 3 => c
  | 4 => !c
  | _ => false

end Sys2Proof.Machine
end

