-- ==== Sys2Proof/Machine/Trowel.lean ====
section
/-! DEFINITION. Machine/Trowel.lean: dispatch, the macro-instructions, faults, the course handler, spare engines
(chapter "Trowel engines and microcode", R289 to R304, R309, R310). -/

namespace Sys2Proof.Machine

/-! ### Engines -/

/-- The pipeline of an engine. -/
def enginePipe (e : Nat) : Nat := e / 4

/-- The port tile of a pipeline, and whether it is the egress pipeline. -/
def pipeTile (q : Nat) : Nat := q / 2

/-- The pipeline is an egress pipeline. -/
def pipeEgress (q : Nat) : Bool := q % 2 == 1

/-- A switch to a new patch comes first: at any boundary with ApplyAt 0, between frames with ApplyAt 1 (R303). -/
def State.mustSwitch (s : State) (e : Nat) (between : Bool) : Bool :=
  match s.trowel.switching with
  | some p => !s.trowel.switched.contains e && (p.applyAt == 0 || between)
  | none => false

/-- The course handler's program, when entry 0x00 is of Kind 2. -/
def State.handler (s : State) (q : Nat) : Option Program := s.program q 0

/-- The course event of a pipeline waits for an engine that reaches a frame boundary. -/
def State.handlerDue (s : State) (q : Nat) : Bool := (s.pipe q).courseEvent && (s.handler q).isSome

/-- An engine's run at its program's first instruction: registers and flags 0 (R290). -/
def Run.start (job : Option Job) (p : Program) : Run :=
  { job := job, words := p.words, keystone := p.keystone, pc := 0, regs := List.replicate 16 0, z := false, c := false,
    inserted := 0, removed := 0, original := match job with | some j => j.frame.bytes | none => [], fwd := none }

/-- The engine is free. -/
def State.engineFree (s : State) (e : Nat) : Bool := !s.trowel.dead.contains e && (s.run? e).isNone

/-- TROWEL_DISPATCH (R289, R300): a free engine takes the head of the class 7 queue, or of the other. -/
def execTrowelDispatch (e : EngineId) (off : Nat) (s : State) : Res :=
  let s := s.moveTo off
  let q := enginePipe e
  let x := s.pipe q
  if !s.engineFree e || s.mustSwitch e true || s.handlerDue q then .next s
  else
    let next := match x.high, x.low with
      | j :: rest, _ => some (j, { x with high := rest })
      | [], j :: rest => some (j, { x with low := rest })
      | [], [] => none
    .next (match next with
      | none => s
      | some (j, y) =>
        match j.program with
        | none => s
        | some p => ((s.setPipe q y).setRun e (some (Run.start (some j) p))).bump
            (Od.framesDispatchedIngress (pipeTile q) + q % 2))

/-- COURSE_HANDLER (R304): the first engine at a frame boundary runs entry 0x00, once per course and pipeline. -/
def execCourseHandler (e : EngineId) (s : State) : Res :=
  let q := enginePipe e
  .next (match s.handler q with
    | none => s
    | some p =>
      if (s.pipe q).courseEvent && s.engineFree e && !s.mustSwitch e true then
        ((s.setPipe q { s.pipe q with courseEvent := false }).setRun e (some (Run.start none p))).bump
          (Od.courseHandlerRunsIngress (pipeTile q) + q % 2)
      else s)

/-! ### Ends (R275, R295, R302) -/

/-- Frames of a pipeline of either kind whose turn has come leave it. -/
def State.drain (s : State) (q : Nat) : State := if pipeEgress q then s.drainEgress q else s.drainPipe q

/-- The job of a program leaves the order of its pipeline without a frame. -/
def State.withdraw (s : State) (q : Nat) (j : Job) : State :=
  (s.setPipe q { s.pipe q with leaving := (s.pipe q).leaving.filter (fun x => x.frame.id != j.frame.id) }).drain q

/-- A program ends without its frame: dropped, in an ingress or an egress pipeline. -/
def State.endDropped (s : State) (e : Nat) (r : Run) : State :=
  let s1 := s.setRun e none
  match r.job with
  | none => s1
  | some j => (if j.egress then s1.discardSelected j.port j.frame else s1).withdraw (enginePipe e) j

/-- A fault (R302): the frame is dropped and counted; state-memory writes remain. -/
def State.programFault (s : State) (e : Nat) (r : Run) : State :=
  let q := enginePipe e
  ((s.endDropped e r).bump (Od.programFaultsIngress (pipeTile q) + q % 2)).raiseLimited 0x5A0B q 1 q

/-- The state with the configuration of a frame's decision point, which its program's result is judged by (R111).
[DEDUCED: log entry 43] -/
def State.asOf (s : State) (r : Run) : State :=
  match r.job with
  | some j => { s with dict := j.dict, doms := j.doms }
  | none => s

/-- The destinations of a frame as its program leaves them: those FWD named, or the ones before it (R295).
[DEDUCED: log entry 43] -/
def State.runDsts (s : State) (r : Run) (j : Job) : List Dst :=
  match r.fwd with
  | some (kind, dest) => ((s.asOf r).namedForward j.port (if j.egress then j.frame.src else j.port) j.members kind dest).2
  | none => j.dsts

/-- A program ends and its frame goes on (R295). [DEDUCED: log entry 43] -/
def State.endFrame (s : State) (e : Nat) (r : Run) : State :=
  let q := enginePipe e
  let s1 := s.setRun e none
  match r.job with
  | none => s1
  | some j =>
    let done := { j with dsts := s1.runDsts r j, done := true }
    (s1.setPipe q { s1.pipe q with leaving := (s1.pipe q).leaving.map (fun x =>
      if x.frame.id = j.frame.id then done else x) }).drain q

/-! ### One instruction -/

/-- The frame window: the first 256 bytes (R290). [DESIGN CHOICE: log entry 47] -/
def Job.window (j : Job) : Nat := min 256 j.frame.bytes.length

/-- The run with its frame's bytes changed. -/
def Run.withBytes (r : Run) (j : Job) (bs : List Byte) : Run :=
  { r with job := some { j with frame := { j.frame with bytes := bs } } }

/-- The metadata fields of a frame (R291). -/
def State.metaField (s : State) (j : Job) (f : Nat) : Nat :=
  let cut := j.dsts.any (fun d => match d with | .port p => s.cutThrough p j.frame | _ => false)
  let known := if j.egress then !s.lengthUnknown j.frame
    else j.frame.inline || j.frame.len ≤ 256 || decide (j.frame.lastAt ≤ s.now) || !cut
  match f with
  | 0x00 => j.frame.src % 256
  | 0x01 => if j.egress then j.port else 0xFF
  | 0x02 => j.frame.cls
  | 0x03 => j.frame.pcp
  | 0x04 => j.frame.metaValue % 65536
  | 0x05 => if known then j.frame.len else 0
  | 0x06 => ts64 j.frame.stamp % 2 ^ 32
  | 0x07 => ts64 j.frame.stamp / 2 ^ 32
  | 0x08 => j.frame.course % 2 ^ 32
  | 0x09 => j.frame.vid
  | 0x0A => j.appId
  | 0x0B => j.packetType
  | 0x0C => j.frame.ruleId
  | _ => j.udf.getD (f - 0x10) 0

/-- A metadata field a program writes (R291, R292): `none` for a Class write that is refused. A field that is read-only
stays. -/
def Frame.setMeta (f : Frame) (keystone : Bool) (field v : Nat) : Option Frame :=
  match field with
  | 0x02 => if keystone = false ∧ (v % 8 = 7 ∨ f.cls = 7) then none else some { f with cls := v % 8 }
  | 0x03 => some { f with pcp := v % 8, bytes := remarkTag f.bytes (v % 8) f.dei }
  | 0x04 => some { f with metaValue := v % 65536 }
  | _ => some f

/-- The microcode an engine runs: until it has switched, the patch before the one in force (R307).
[DESIGN CHOICE: log entry 44] -/
def State.enginePatch (s : State) (e : Nat) : Option Patch :=
  if s.trowel.switching.isSome && !s.trowel.switched.contains e then s.trowel.was else s.trowel.patch

/-- The microword at an address (R305): of the base in force, or of a patch bank. -/
def State.microWord (s : State) (a : Nat) : Nat :=
  if a < 0xE00 then Config.microBase (s.rd Od.microcodeVersion / 65536) a else tblGet 0 s.trowel.micro a

/-- A macro-instruction in the microwords of its routine (R305): the run, T0 to T3, state memory, the class writes refused,
and the instruction MacroJump has named. -/
structure MicroRun where
  run : Run
  temps : List Word32
  memory : List (Nat × Nat)
  refused : Nat
  jump : Option Nat
  deriving DecidableEq, Repr

/-- A register selector's value (R305). [DESIGN CHOICE: log entry 44] -/
def State.microRead (s : State) (m : Macro) (x : MicroRun) (sel : Nat) : Word32 :=
  match sel with
  | 0 => regOf x.run.regs m.a
  | 1 => regOf x.run.regs m.b
  | 2 => m.wide
  | 3 => m.signed
  | 8 => BitVec.ofNat 32 (Config.microFlags x.run.z x.run.c)
  | 9 => BitVec.ofNat 32 (match x.run.job with | some j => s.metaField j 5 | none => Config.microOpen 9)
  | 0xA => 0
  | n => if n < 8 then x.temps.getD (n - 4) 0 else BitVec.ofNat 32 (Config.microOpen n)

/-- A value written to a register selector; one that names no register takes none. [DESIGN CHOICE: log entry 44] -/
def MicroRun.write (m : Macro) (x : MicroRun) (sel : Nat) (v : Word32) : MicroRun :=
  match sel with
  | 0 => { x with run := { x.run with regs := setReg x.run.regs m.a v } }
  | 1 => { x with run := { x.run with regs := setReg x.run.regs m.b v } }
  | 8 => { x with run := { x.run with z := (Config.microSetFlags v.toNat).1, c := (Config.microSetFlags v.toNat).2 } }
  | n => if 4 ≤ n ∧ n < 8 then { x with temps := x.temps.set (n - 4) v } else x

/-- A microword of classes 0, 1, 2, 3, 4 and 6 (R305); `none` for the fault of an access beyond the window or outside the
state memory open to the program (R302). [DESIGN CHOICE: log entry 44] -/
def State.microOp (s : State) (q : Nat) (m : Macro) (w : Nat) (x : MicroRun) : Option MicroRun :=
  let sel (hi : Nat) : Nat := bitField w hi (hi - 3)
  let get (hi : Nat) : Word32 := s.microRead m x (sel hi)
  match bitField w 22 19 with
  | 0 =>
    let r := Config.microAlu (sel 18) (get 10).toNat (get 6).toNat x.run.z x.run.c
    let y := x.write m (sel 14) (BitVec.ofNat 32 r.1)
    some (if bitOf w 2 then { y with run := { y.run with z := r.2.1, c := r.2.2 } } else y)
  | 1 =>
    some (x.write m (sel 18) (match bitField w 14 13 with
      | 0 => m.wide
      | 1 => BitVec.ofNat 32 (m.imm.toNat * 65536 + (get 18).toNat % 65536)
      | 2 => BitVec.ofNat 32 (w % 8192)
      | _ => BitVec.ofNat 32 (Config.microOpen 16)))
  | 2 =>
    match x.run.job with
    | none => none
    | some j =>
      let n := if bitField w 17 16 = 0 then 1 else if bitField w 17 16 = 1 then 2 else 4
      let a := (get 11 + BitVec.ofNat 32 (if bitOf w 7 then m.low else 0)).toNat
      if j.window < a + n then none
      else if bitOf w 18 then
        some { x with run := x.run.withBytes j (overlay j.frame.bytes a (beBytes n (get 15).toNat)) }
      else some (x.write m (sel 15) (BitVec.ofNat 32 (beAt j.frame.bytes a n)))
  | 3 =>
    let field := bitField w 13 6
    match x.run.job with
    | none => some (if bitOf w 18 then x else x.write m (sel 17) (BitVec.ofNat 32 (Config.microOpen 17)))
    | some j =>
      if bitOf w 18 then
        some (match j.frame.setMeta x.run.keystone field (get 17).toNat with
          | some f => { x with run := { x.run with job := some { j with frame := f } } }
          | none => { x with refused := x.refused + 1 })
      else some (x.write m (sel 17) (BitVec.ofNat 32 (s.metaField j field)))
  | 4 =>
    let a := (get 12).toNat
    if a % 4 ≠ 0 ∨ 0xFFFF < a ∨ (0xF000 ≤ a ∧ x.run.keystone = false) then none
    else
      let k := q * 16384 + a / 4
      let old := tblGet 0 x.memory k
      some (match bitField w 18 17 with
        | 0 => x.write m (sel 16) (BitVec.ofNat 32 old)
        | 1 => { x with memory := tblSet 0 x.memory k (get 16).toNat }
        | 2 => { x with memory := tblSet 0 x.memory k ((old + (get 16).toNat) % 2 ^ 32) }.write m (sel 16) (BitVec.ofNat 32 old)
        | _ => x)
  | _ =>
    let u := Config.microUnit (bitField w 18 14) (w % 16384) m.imm.toNat
      (x.run.regs.map BitVec.toNat, x.run.z, x.run.c,
        (match x.run.job with | some j => j.frame.bytes | none => []), x.memory)
    let r := { x.run with regs := (u.1.map (BitVec.ofNat 32) ++ List.replicate 16 0).take 16, z := u.2.1, c := u.2.2.1,
                          job := x.run.job.map (fun j => { j with frame := { j.frame with bytes := u.2.2.2.1 } }) }
    some { x with run := r, memory := u.2.2.2.2 }

/-- A Condition of a sequence word: the codes of BR. [DESIGN CHOICE: log entry 44] -/
def microTaken (code : Nat) (z c : Bool) : Bool :=
  if code ≤ 4 then condition (Fin.ofNat 16 code) z c else Config.microCondition code z c

/-- The microwords of a routine from an address, to the one whose Last is set. [DESIGN CHOICE: log entry 44] -/
def State.microSteps (s : State) (q : Nat) (m : Macro) : Nat → Nat → MicroRun → Option MicroRun
  | 0, _, x => some x
  | fuel + 1, a, x =>
    let w := s.microWord a
    let taken := bitField w 22 19 == 5 && microTaken (bitField w 18 16) x.run.z x.run.c
    let next := if bitField w 22 19 = 5 then
        some (if taken && bitOf w 15 then { x with jump := some (x.run.pc + m.imm.toNat) } else x)
      else s.microOp q m w x
    match next with
    | none => none
    | some y =>
      if bitOf w 23 then some y
      else s.microSteps q m fuel (if taken && !bitOf w 15 then w % 4096 else a + 1) y

/-- A macro-instruction that a patch has defined or redefined runs its routine. -/
def State.runPatched (s : State) (e : Nat) (p : Patch) (op : Nat) (m : Macro) (r : Run) : State :=
  let at_ := ((p.updates.find? (fun u => u.1 == op)).map (fun u => u.2.2)).getD 0
  match s.microSteps (enginePipe e) m 4096 at_ ⟨r, List.replicate 4 0, s.trowel.memory, 0, none⟩ with
  | none => s.programFault e r
  | some x =>
    let s1 := forEach (List.range x.refused) (fun _ s =>
      s.bump (Od.classWriteRefusedIngress (pipeTile (enginePipe e)) + enginePipe e % 2)) s
    let r1 : Run := { x.run with pc := x.jump.getD (r.pc + 1) }
    if r1.words.length ≤ r1.pc then s1.programFault e r1
    else { s1 with trowel.memory := x.memory }.setRun e (some r1)

/-- The engine's next words whose opcodes only a patch has defined: they have no row of their own in the table and run
before the next one that has. [DESIGN CHOICE: log entry 44] -/
def State.runNew (s : State) (e : Nat) : Nat → State
  | 0 => s
  | fuel + 1 =>
    match s.run? e with
    | none => s
    | some r =>
      match r.words[r.pc]?, s.enginePatch e with
      | some w, some p =>
        if (baseOpcodes.any (fun b => b.1 == macroOp w)) || s.mustSwitch e false || !opPatched (some p) (macroOp w) then s
        else (s.runPatched e p (macroOp w) (macroOf w).2 r).runNew e fuel
      | _, _ => s

/-- One macro-instruction of an engine: the one its program has next, when no interrupt comes first (R303). What a
patch defines anew is the patch's. -/
def State.instr (s : State) (e op : Nat) (m : Macro) (go : State → Run → State) : Res :=
  let s := s.runNew e 4096
  .next (match s.run? e with
    | none => s
    | some r =>
      if r.words[r.pc]? = some (macroWord op m) ∧ s.mustSwitch e false = false then
        match s.enginePatch e with
        | some p => if opPatched (some p) op then s.runPatched e p op m r else go s r
        | none => go s r
      else s)

/-- The engine goes on with the next instruction. -/
def State.onward (s : State) (e : Nat) (r : Run) : State := s.setRun e (some { r with pc := r.pc + 1 })

/-- An instruction that sets one register and no flag. -/
def State.setsReg (s : State) (e op : Nat) (m : Macro) (v : Run → Word32) : Res :=
  s.instr e op m (fun s r => s.onward e { r with regs := setReg r.regs m.a (v r) })

/-- The byte address GB + Imm[7:0]. -/
def frameAddr (r : Run) (m : Macro) : Nat := (regOf r.regs m.b + BitVec.ofNat 32 m.low).toNat

/-- The state-memory address GB + Imm. -/
def memAddr (r : Run) (m : Macro) : Nat := (regOf r.regs m.b + m.wide).toNat

/-- An instruction on the frame window: the course handler has no frame, and an access beyond the window faults. -/
def State.onFrame (s : State) (e op : Nat) (m : Macro) (n : Nat) (go : State → Run → Job → State) : Res :=
  s.instr e op m (fun s r =>
    match r.job with
    | none => s.programFault e r
    | some j => if frameAddr r m + n ≤ j.window then go s r j else s.programFault e r)

/-- An instruction on state memory: the address must be aligned, at most 0xFFFF, and outside the Keystone area for a
program that is not KeystoneOwned (R291, R302). -/
def State.onMemory (s : State) (e op : Nat) (m : Macro) (go : State → Run → Nat → State) : Res :=
  s.instr e op m (fun s r =>
    let a := memAddr r m
    if a % 4 ≠ 0 ∨ 0xFFFF < a ∨ (0xF000 ≤ a ∧ r.keystone = false) then s.programFault e r
    else go s r (enginePipe e * 16384 + a / 4))

/-- A state-memory word. -/
def State.memWord (s : State) (k : Nat) : Nat := tblGet 0 s.trowel.memory k

/-- Set a state-memory word. -/
def State.setMemWord (s : State) (k v : Nat) : State := { s with trowel.memory := tblSet 0 s.trowel.memory k v }

/-! ### The macro-instructions (R294, R295) -/

/-- NOP. -/
def execTrowelNop (e : EngineId) (m : Macro) (s : State) : Res := s.instr e 0x40 m (fun s r => s.onward e r)

/-- LDI: GA = Imm, zero-extended. -/
def execTrowelLdi (e : EngineId) (m : Macro) (s : State) : Res := s.setsReg e 0x41 m (fun _ => m.wide)

/-- LDH: GA[31:16] = Imm. -/
def execTrowelLdh (e : EngineId) (m : Macro) (s : State) : Res :=
  s.setsReg e 0x42 m (fun r => BitVec.ofNat 32 (m.imm.toNat * 65536 + (regOf r.regs m.a).toNat % 65536))

/-- MOV: GA = GB. -/
def execTrowelMov (e : EngineId) (m : Macro) (s : State) : Res := s.setsReg e 0x43 m (fun r => regOf r.regs m.b)

/-- An addition with its flags. -/
def State.adds (s : State) (e op : Nat) (m : Macro) (b : Run → Word32) : Res :=
  s.instr e op m (fun s r =>
    let f := addFlags (regOf r.regs m.a) (b r)
    s.onward e { r with regs := setReg r.regs m.a (regOf r.regs m.a + b r), z := f.1, c := f.2 })

/-- ADD: GA = GA + GB. -/
def execTrowelAdd (e : EngineId) (m : Macro) (s : State) : Res := s.adds e 0x44 m (fun r => regOf r.regs m.b)

/-- SUB: GA = GA − GB. -/
def execTrowelSub (e : EngineId) (m : Macro) (s : State) : Res :=
  s.instr e 0x46 m (fun s r =>
    let f := subFlags (regOf r.regs m.a) (regOf r.regs m.b)
    s.onward e { r with regs := setReg r.regs m.a (regOf r.regs m.a - regOf r.regs m.b), z := f.1, c := f.2 })

/-- ADDI: GA = GA + Imm, sign-extended. -/
def execTrowelAddi (e : EngineId) (m : Macro) (s : State) : Res := s.adds e 0x45 m (fun _ => m.signed)

/-- AND. -/
def execTrowelAnd (e : EngineId) (m : Macro) (s : State) : Res :=
  s.setsReg e 0x47 m (fun r => regOf r.regs m.a &&& regOf r.regs m.b)

/-- OR. -/
def execTrowelOr (e : EngineId) (m : Macro) (s : State) : Res :=
  s.setsReg e 0x49 m (fun r => regOf r.regs m.a ||| regOf r.regs m.b)

/-- XOR. -/
def execTrowelXor (e : EngineId) (m : Macro) (s : State) : Res :=
  s.setsReg e 0x4A m (fun r => regOf r.regs m.a ^^^ regOf r.regs m.b)

/-- ANDI: GA = GA AND Imm, zero-extended. -/
def execTrowelAndi (e : EngineId) (m : Macro) (s : State) : Res :=
  s.setsReg e 0x48 m (fun r => regOf r.regs m.a &&& m.wide)

/-- SHL: GA shifted left by Imm[4:0]. -/
def execTrowelShl (e : EngineId) (m : Macro) (s : State) : Res :=
  s.setsReg e 0x4B m (fun r => regOf r.regs m.a <<< m.shift)

/-- SHR: GA shifted right, logical, by Imm[4:0]. -/
def execTrowelShr (e : EngineId) (m : Macro) (s : State) : Res :=
  s.setsReg e 0x4C m (fun r => regOf r.regs m.a >>> m.shift)

/-- A comparison: flags only. -/
def State.compares (s : State) (e op : Nat) (m : Macro) (b : Run → Word32) : Res :=
  s.instr e op m (fun s r =>
    let f := subFlags (regOf r.regs m.a) (b r)
    s.onward e { r with z := f.1, c := f.2 })

/-- CMP: flags from GA − GB. -/
def execTrowelCmp (e : EngineId) (m : Macro) (s : State) : Res := s.compares e 0x4D m (fun r => regOf r.regs m.b)

/-- CMPI: flags from GA − Imm, zero-extended. -/
def execTrowelCmpi (e : EngineId) (m : Macro) (s : State) : Res := s.compares e 0x4E m (fun _ => m.wide)

/-- HASH: GA = CRC-32C over GA then GB, 8 bytes; each register most significant byte first.
[DESIGN CHOICE: log entry 47] -/
def execTrowelHash (e : EngineId) (m : Macro) (s : State) : Res :=
  s.setsReg e 0x4F m (fun r =>
    BitVec.ofNat 32 (crc32c (beBytes 4 (regOf r.regs m.a).toNat ++ beBytes 4 (regOf r.regs m.b).toNat)))

/-- LDF: GA = frame bytes at GB + Imm[7:0], big-endian. -/
def execTrowelLdf (e : EngineId) (m : Macro) (s : State) : Res :=
  s.onFrame e 0x50 m m.width (fun s r j =>
    s.onward e { r with regs := setReg r.regs m.a (BitVec.ofNat 32 (beAt j.frame.bytes (frameAddr r m) m.width)) })

/-- STF: frame bytes at GB + Imm[7:0] = low bytes of GA. -/
def execTrowelStf (e : EngineId) (m : Macro) (s : State) : Res :=
  s.onFrame e 0x51 m m.width (fun s r j =>
    s.onward e (r.withBytes j (overlay j.frame.bytes (frameAddr r m) (beBytes m.width (regOf r.regs m.a).toNat))))

/-- The smallest MaxFrameSize of the ports a frame is to leave on (R302). -/
def State.egressMax (s : State) (r : Run) (j : Job) : Nat :=
  ((s.runDsts r j).map (fun d => match d with | .port p => s.rd (Od.maxFrameSize p) | _ => 16128)).foldl min 16128

/-- INS: Imm[15:8] bytes of zero at GB + Imm[7:0]; 32 bytes at most in a program, within the egress port's
MaxFrameSize. [DESIGN CHOICE: log entry 47] -/
def execTrowelIns (e : EngineId) (m : Macro) (s : State) : Res :=
  s.onFrame e 0x52 m 0 (fun s r j =>
    let n := m.high
    let o := frameAddr r m
    if 255 < o ∨ 32 < r.inserted + n ∨ s.egressMax r j < j.frame.bytes.length + n + 4 then s.programFault e r
    else s.onward e ({ r with inserted := r.inserted + n }.withBytes j
      (j.frame.bytes.take o ++ List.replicate n 0 ++ j.frame.bytes.drop o)))

/-- DEL: Imm[15:8] bytes at GB + Imm[7:0] removed; 32 bytes at most in a program. -/
def execTrowelDel (e : EngineId) (m : Macro) (s : State) : Res :=
  s.onFrame e 0x53 m m.high (fun s r j =>
    let n := m.high
    let o := frameAddr r m
    if 32 < r.removed + n then s.programFault e r
    else s.onward e ({ r with removed := r.removed + n }.withBytes j
      (j.frame.bytes.take o ++ j.frame.bytes.drop (o + n))))

/-- Bytes a TCP or UDP checksum covers, its own field left out: the addresses, then the segment (its length enters with
them). -/
def coveredSum (bs : List Byte) (k : Parsed) (o field : Nat) : Nat :=
  let l3 := k.l3.getD 0
  let addrs := if k.ip = 4 then slice bs (l3 + 12) 8 else slice bs (l3 + 8) 32
  let stop := l3 + (if k.ip = 4 then beAt bs (l3 + 2) 2 else 40 + beAt bs (l3 + 4) 2)
  let seg := slice bs o (stop - o)
  onesSum (addrs ++ beBytes 2 (stop - o) ++ overlay seg (field - o) [0, 0])

/-- The TCP or UDP checksum adjusted for the changes made since dispatch (CSUM with Imm 1); a UDP checksum of 0 means
none and stays. -/
def adjustL4 (wall : Nat) (original bs : List Byte) : List Byte :=
  let k := parseFrame bs wall
  let k0 := parseFrame original wall
  match k.l4, k0.l4 with
  | some o, some o0 =>
    if k.protocol = 6 ∨ k.protocol = 17 then
      let f := o + (if k.protocol = 6 then 16 else 6)
      let f0 := o0 + (if k.protocol = 6 then 16 else 6)
      let c := beAt bs f 2
      if k.protocol = 17 ∧ c = 0 then bs
      else
        let x := (65535 - c) + (65535 - coveredSum original k0 o0 f0) + coveredSum bs k o f
        let y := 65535 - (if x % 65535 = 0 ∧ x ≠ 0 then 65535 else x % 65535)
        overlay bs f (beBytes 2 (if k.protocol = 17 ∧ y = 0 then 65535 else y))
    else bs
  | _, _ => bs

/-- CSUM: Imm 0 recomputes the IPv4 header checksum, Imm 1 adjusts the TCP or UDP checksum; a frame without such a
header is left as it is. [DESIGN CHOICE: log entry 47] -/
def execTrowelCsum (e : EngineId) (m : Macro) (s : State) : Res :=
  s.instr e 0x54 m (fun s r =>
    match r.job with
    | none => s.programFault e r
    | some j =>
      let wall := s.rd Od.wallEthertype
      let k := parseFrame j.frame.bytes wall
      let bs := if m.imm = 0 then
          (match k.l3 with
            | some o => if k.ip = 4 then ipv4Checksum j.frame.bytes o else j.frame.bytes
            | none => j.frame.bytes)
        else adjustL4 wall r.original j.frame.bytes
      s.onward e (r.withBytes j bs))

/-- TSW: the residence time is to be added at GB + Imm[7:0] at transmission. -/
def execTrowelTsw (e : EngineId) (m : Macro) (s : State) : Res :=
  s.onFrame e 0x55 m 8 (fun s r j =>
    s.onward e { r with job := some { j with frame := { j.frame with tsw := j.frame.tsw ++ [frameAddr r m] } } })

/-- LDM: GA = a metadata field; the manual gives none to the course handler, which reads an open value.
[DESIGN CHOICE: log entry 46] -/
def execTrowelLdm (e : EngineId) (m : Macro) (s : State) : Res :=
  s.instr e 0x58 m (fun s r =>
    match r.job with
    | some j => s.onward e { r with regs := setReg r.regs m.a (BitVec.ofNat 32 (s.metaField j m.low)) }
    | none =>
      let (s1, v) := s.openBits 14 32
      s1.onward e { r with regs := setReg r.regs m.a (BitVec.ofNat 32 v) })

/-- STM: a metadata field = GA: Class under R292, Pcp, Meta. -/
def execTrowelStm (e : EngineId) (m : Macro) (s : State) : Res :=
  s.instr e 0x59 m (fun s r =>
    match r.job with
    | none => s.onward e r
    | some j =>
      match j.frame.setMeta r.keystone m.low (regOf r.regs m.a).toNat with
      | some f => s.onward e { r with job := some { j with frame := f } }
      | none => (s.bump (Od.classWriteRefusedIngress (pipeTile (enginePipe e)) + enginePipe e % 2)).onward e r)

/-- LDS: GA = state word at GB + Imm. -/
def execTrowelLds (e : EngineId) (m : Macro) (s : State) : Res :=
  s.onMemory e 0x60 m (fun s r k =>
    s.onward e { r with regs := setReg r.regs m.a (BitVec.ofNat 32 (s.memWord k)) })

/-- STS: state word at GB + Imm = GA. -/
def execTrowelSts (e : EngineId) (m : Macro) (s : State) : Res :=
  s.onMemory e 0x61 m (fun s r k => (s.setMemWord k (regOf r.regs m.a).toNat).onward e r)

/-- AAD: GA is added to the state word at GB + Imm, atomically; GA = the old value. -/
def execTrowelAad (e : EngineId) (m : Macro) (s : State) : Res :=
  s.onMemory e 0x62 m (fun s r k =>
    (s.setMemWord k ((s.memWord k + (regOf r.regs m.a).toNat) % 2 ^ 32)).onward e
      { r with regs := setReg r.regs m.a (BitVec.ofNat 32 (s.memWord k)) })

/-- BR: when the condition A holds, go on at this instruction + Imm. -/
def execTrowelBr (e : EngineId) (m : Macro) (s : State) : Res :=
  s.instr e 0x68 m (fun s r =>
    s.setRun e (some { r with pc := r.pc + (if condition m.a r.z r.c then m.imm.toNat else 1) }))

/-- A destination FWD may name (R302): a port that exists, a valid group, a queue of its slice's resource set, or of a
core. [DEDUCED: log entry 43] -/
def State.destValid (s : State) (kind dest : Nat) : Bool :=
  match kind with
  | 1 => dest < 256 && s.portWidth dest != 0
  | 2 => dest < 16384 && (s.group dest).valid
  | 3 => (dest / 2 ^ 30 ≤ 1 && dest % 2 ^ 30 < 2 ^ 18 && dest % 64 < (s.sliceSet (dest / 64 % 4096)).queuePairs) || (dest / 2 ^ 30 == 2 && dest % 2 ^ 30 < 96)
  | _ => false

/-- FWD: the forwarding result becomes the port, group or queue GA names, by the tables of the frame's decision point
(R111). [DEDUCED: log entry 43] -/
def execTrowelFwd (e : EngineId) (m : Macro) (s : State) : Res :=
  s.instr e 0x70 m (fun s r =>
    let d := (regOf r.regs m.a).toNat
    if r.job.isNone || !(s.asOf r).destValid m.kind d then s.programFault e r
    else s.onward e { r with fwd := some (m.kind, d) })

/-- EVT: an event record to the pipeline's TrowelEventDest; a full destination, or none, costs the record (R295).
[DESIGN CHOICE: log entry 46] -/
def execTrowelEvt (e : EngineId) (m : Macro) (s : State) : Res :=
  s.instr e 0x71 m (fun s r =>
    let q := enginePipe e
    let t := pipeTile q
    let (s0, port, time) := match r.job with
      | some j => (s, (if j.egress then j.port else j.frame.src % 256), ts64 j.frame.stamp)
      | none => let (s1, v) := s.openBits 15 72; (s1, v % 256, v / 256)
    let rec_ := m.imm.toNat * 2 ^ 176 + port * 2 ^ 168 + boolNat (pipeEgress q) * 2 ^ 167
      + (regOf r.regs m.a).toNat * 2 ^ 96 + (regOf r.regs m.b).toNat * 2 ^ 64 + time
    match s0.sendRecord (s0.rd (Od.trowelEventDest t)) (leBytes 24 rec_) with
    | (s1, true) => (s1.bump (Od.eventsSentIngress t + q % 2)).onward e r
    | (s1, false) => (s1.bump (Od.eventDropsIngress t + q % 2)).onward e r)

/-- TRAP: the program ends; the frame is trapped under reason 8. -/
def execTrowelTrap (e : EngineId) (m : Macro) (s : State) : Res :=
  s.instr e 0x72 m (fun s r =>
    match r.job with
    | none => s.setRun e none
    | some j => (s.exception (pipeTile (enginePipe e)) 8 j.port j.egress j.frame).endDropped e r)

/-- DROP: the program ends; the frame is dropped. -/
def execTrowelDrop (e : EngineId) (m : Macro) (s : State) : Res := s.instr e 0x73 m (fun s r => s.endDropped e r)

/-- END: the program ends; the frame goes on. -/
def execTrowelEnd (e : EngineId) (m : Macro) (s : State) : Res := s.instr e 0x7F m (fun s r => s.endFrame e r)

/-- PATCH_SWITCH (R303, R307): an engine takes the interrupt, at an instruction boundary or, with ApplyAt 1, between
frames; when every engine has switched the old bank is free. [DESIGN CHOICE: log entry 45] -/
def execPatchSwitch (e : EngineId) (s : State) : Res :=
  .next (match s.trowel.switching with
    | none => s
    | some p =>
      if s.trowel.switched.contains e.val || (p.applyAt == 1 && (s.run? e).isSome) then s
      else
        let done := e.val :: s.trowel.switched
        if (List.range 256).all (fun n => done.contains n || s.trowel.dead.contains n) then
          ((({ s with trowel.switching := none, trowel.was := none, trowel.switched := [] }).wr
            Od.patchStatus 0).wr Od.microcodeVersion (s.rd Od.microcodeVersion / 65536 * 65536 + p.level))
          |> fun (s2 : State) => if p.level = 0 then s2 else s2.raise 0x5A0C p.level
        else { s with trowel.switched := done })

/-! ### Spare engines (R309, R310) -/

/-- The frame of an engine that fails is dropped and counted in ProgramFaults. -/
def State.engineFails (s : State) (e : Nat) : State :=
  let q := enginePipe e
  match s.run? e with
  | some r => (s.endDropped e r).bump (Od.programFaultsIngress (pipeTile q) + q % 2)
  | none => s

/-- An engine fails and the spare of its pipeline takes its number (R309). -/
def State.spareSubstituted (s : State) (e : EngineId) : State :=
  let q := enginePipe e
  if (s.pipe q).spareUsed || s.trowel.dead.contains e.val then s
  else
    let s1 := s.engineFails e
    (((s1.setPipe q { s1.pipe q with spareUsed := true }).bump
      (Od.engineSubstitutionsIngress (pipeTile q) + q % 2))).raise 0x5A0D e.val

/-- A second failure in a pipeline whose spare is in use leaves it three engines (R310). -/
def State.engineLost (s : State) (e : EngineId) : State :=
  let q := enginePipe e
  if !(s.pipe q).spareUsed || (s.pipe q).lost then s
  else
    let s1 := s.engineFails e
    let s2 := s1.setPipe q { s1.pipe q with lost := true }
    ({ s2 with trowel.dead := e.val :: s2.trowel.dead }).raise 0x5A0E e.val

/-- SPARE_SUBSTITUTION (R309). -/
def execSpareSubstitution (e : EngineId) (s : State) : Res := .next (s.spareSubstituted e)

/-- TROWEL_ENGINE_LOST (R310). -/
def execTrowelEngineLost (e : EngineId) (s : State) : Res := .next (s.engineLost e)

end Sys2Proof.Machine
end

