-- ==== Sys2Proof/Machine/Faults.lean ====
section
/-! DEFINITION. Machine/Faults.lean: correction, sparing, repair and the fault path (R41, R42, R385, R506, R566 to
R570). -/

namespace Sys2Proof.Machine

/-! ### The Mortar (R41, R42) -/

/-- A tile that a copy on its way to a destination passes to. -/
def dstAt (t : Nat) : Dst → Bool
  | .port p => p.val / 8 == t
  | .queue _ => decide (0x20 ≤ t)
  | .aligned _ => decide (0x20 ≤ t)

/-- Copies of a frame on their way to a tile are discarded. -/
def State.discardTransit (s : State) (t id : Nat) : State :=
  let (gone, keep) := s.switch.transit.partition (fun x => x.frame.id == id && dstAt t x.dst)
  gone.foldl (fun s x => s.dropCopy x.frame) { s with switch := { s.switch with transit := keep } }

/-- Copies of a frame in the queues and launch lists of a port tile are discarded. -/
def State.discardQueued (s : State) (t id : Nat) : State :=
  forEach (List.range 8) (fun k s =>
    let p := 8 * t + k
    let s1 := forEach (List.range 8) (fun c s =>
      ((s.queue p c).frames.filter (fun f => f.id == id)).foldl (fun s f => ((s.takeHead p c f).uncharge t f).dropCopy f) s) s
    let gone := (s1.egress p).launch.filter (fun f => f.id == id)
    gone.foldl (fun s f => (s.uncharge t f).dropCopy f)
      (if gone.isEmpty then s1
       else s1.setEgress p { s1.egress p with launch := (s1.egress p).launch.filter (fun f => f.id != id) })) s

/-- A frame's copies on their way to a tile or queued in it are discarded. -/
def State.discardFrame (s : State) (t id : Nat) : State :=
  if t < 32 then (s.discardTransit t id).discardQueued t id else s.discardTransit t id

/-- Host and storage transactions of a handle, which is link × 2^20 + tag, end with the error their kind gives a failed
read (R41, R410, R412). [DESIGN CHOICE: log entry 109] -/
def State.discardTransaction (s : State) (handle : Nat) : State :=
  match s.host.reads.find? (fun r => r.issued && decide (r.fn / 4 * 2 ^ 20 + r.tag = handle)) with
  | some r => s.conclude r true none
  | none => s

/-- What an uncorrectable error does to the traffic of a network (R41): the frame or transaction of a handle goes; a
delivery on VN4 is lost; on VN5 the response goes to its requester, marked as poisoned.
[DESIGN CHOICE: log entry 109] -/
def State.trafficLost (s : State) (t network : Nat) (frame : Option Nat) : State :=
  match network, frame with
  | 4, _ => if s.agent.losing.contains t then s else { s with agent := { s.agent with losing := t :: s.agent.losing } }
  | 5, some line => { s with memory := { s.memory with poisoned := (t, line) :: s.memory.poisoned } }
  | 2, some id | 3, some id =>
    if s.switch.transit.any (fun x => x.frame.id == id) then s.discardFrame t id
    else (s.discardFrame t id).discardTransaction id
  | _, some id => s.discardFrame t id
  | _, none => s

/-- Uncorrectable Mortar errors of a tile in the course in force. -/
def State.mortarErrors (s : State) (t : Nat) : Nat :=
  match s.keystone.mortar.find? (fun e => e.1 == t) with
  | some e => if e.2.1 = s.course then e.2.2 else 0
  | none => 0

/-- MORTAR_UNCORRECTABLE (R41, R42): three in a course set the tile's Fault bit.
[DESIGN CHOICE: log entries 106, 109] -/
def execMortarUncorrectable (t : TileId) (network : Fin 6) (frame : Option Nat) (s : State) : Res :=
  let n := s.mortarErrors t + 1
  .next (if s.boot.phase < 2 then s
    else
      let s1 := ((s.bump (Od.uncorrectedErrors t)).raise 0x4A10 (t.val * 8 + network.val)).trafficLost t network frame
      let s2 := { s1 with keystone := { s1.keystone with mortar := tblPut s1.keystone.mortar t.val (s.course, n) } }
      if 3 ≤ n then s2.tileFault t else s2)

/-! ### Hod words (R385) -/

/-- A unit of a pool is quarantined; while it is allocated it is held until start-up. -/
def State.quarantine (s : State) (pool unit : Nat) : State :=
  let key := pool * 2 ^ 32 + unit
  if s.hod.quarantined.contains key then s
  else
    (({ s with hod := { s.hod with quarantined := key :: s.hod.quarantined } }).bump (Od.quarantinedUnits pool)).raise 0x4A08
      key

/-! ### Cores (R567) -/

/-- A core is stopped: its buffers are reclaimed (R383), its window loses what it has staged (R550), its requests to the
cipher end. -/
def State.stopCore (s : State) (n : Nat) : State :=
  (((s.reclaim (coreOwner n)).dropContext (coreCtx n)).setCoreWindow n Mailbox.idle).lookAbort
    (fun x => x.kind == 1 && x.number == n)

/-- A core fails: the spare of its tile takes its name, or the name is left unserved. -/
def State.coreFails (s : State) (n : Nat) : State :=
  let t := n / 6
  let failed := tblGet 0 s.service.cores t
  let s1 := s.stopCore n
  let s2 := { s1 with service := { s1.service with cores := tblPut s1.service.cores t (failed + 1) } }
  if failed = 0 then s2.raise 0xEA04 n
  else { s2 with service := { s2.service with lost := n :: s2.service.lost.filter (· != n) } }.raise 0xEA05 n

/-- CORE_UNCORRECTABLE (R567). -/
def execCoreUncorrectable (n : Fin 96) (s : State) : Res := .next (if s.boot.phase = 2 then s.coreFails n else s)

/-! ### SRAM (R566) -/

/-- A table entry is invalid until its reload. -/
def State.awaitReload (s : State) (t : Nat) (r : Reload) : State :=
  { s with service := { s.service with reload := s.service.reload ++ [(t, r)] } }

/-- An entry of a table meets an uncorrectable error. -/
def State.entryLost (s : State) (t : Nat) : SramContent → State
  | .rule tile pipeline id =>
    let x := s.ternary tile
    let l := if pipeline.val = 0 then x.ingress else x.egress
    match l.find? (fun r => r.id == id.toNat) with
    | none => s
    | some r =>
      let keep := l.filter (fun y => y.id != id.toNat)
      (s.setTernary tile (if pipeline.val = 0 then { x with ingress := keep } else { x with egress := keep })).awaitReload t
        (.rule tile pipeline r)
  | .exact x key =>
    let y := s.exact x
    match y.entries.find? (fun e => e.key == key.toNat) with
    | none => s
    | some e =>
      (s.setExact x { y with entries := y.entries.filter (fun z => z.key != key.toNat) }).awaitReload t (.exact x e)
  | .vlan vid =>
    let bs := slice (s.dom Od.vlanTable) (72 * vid.toNat) 72
    (s.setDom Od.vlanTable (overlay (s.dom Od.vlanTable) (72 * vid.toNat) (List.replicate bs.length 0))).awaitReload t
      (.bytes Od.vlanTable (72 * vid.toNat) bs)
  | .group n =>
    let bs := slice (s.dom Od.groupTable) (40 * n.toNat) 40
    (s.setDom Od.groupTable (overlay (s.dom Od.groupTable) (40 * n.toNat) (List.replicate bs.length 0))).awaitReload t
      (.bytes Od.groupTable (40 * n.toNat) bs)
  | .policer tile n =>
    let i := tile.val * 2048 + n.toNat
    (s.setPolicer i { s.policer i with entry := Policer.fresh.entry }).awaitReload t (.policer i (s.policer i).entry)
  | .fdb fid mac =>
    let key := fid.toNat * 2 ^ 48 + mac.toNat
    match s.fwd.fdb.find? (fun e => e.1 == key) with
    | none => s
    | some e =>
      let s1 := s.setFdb (s.fwd.fdb.filter (fun x => x.1 != key))
      if e.2.origin = 1 ∨ e.2.origin = 2 then s1.awaitReload t (.fdb e.2) else s1
  | _ => s

/-- SRAM_UNCORRECTABLE (R566). [DESIGN CHOICE: log entries 109, 125] -/
def execSramUncorrectable (t : TileId) (c : SramContent) (s0 : State) : Res :=
  let s := s0.bump Od.sramUncorrected
  .next (if s.boot.phase < 2 then s0
    else match c with
      | .buffer network frame => s.trafficLost t network frame
      | .freeList pool unit => s.quarantine pool.toNat unit.toNat
      | .count pool unit => s.quarantine pool.toNat unit.toNat
      | .store => s.bump (Od.correctedErrors t)
      | .engine e => if (s.pipe (enginePipe e)).spareUsed then s.engineLost e else s.spareSubstituted e
      | .core n => if s.boot.phase = 2 then s.coreFails n else s
      | .keystone => s.fatal 0xBA11 0
      | other => s.entryLost t other)

/-! ### HBM (R568) -/

/-- Instants of a row's corrected errors within the last 24 h. -/
def State.rowErrors (s : State) (row : Nat) : List Nat :=
  (tblGet [] s.service.rows row).filter (fun i => decide (s.now < i + 86400 * secTicks))

/-- HBM_ERROR (R568): a row that reaches the threshold, or returns an uncorrectable error, goes into repair.
[DESIGN CHOICE: log entry 125] -/
def execHbmError (bank : Fin 512) (row : BitVec 20) (uncorrectable : Bool) (s : State) : Res :=
  let key := bank.val * 2 ^ 20 + row.toNat
  .next (if s.boot.phase < 2 then s
    else
      let s1 := s.bump (if uncorrectable then Od.hbmUncorrected else Od.hbmCorrected)
      let l := s1.now :: s1.rowErrors key
      let s2 := if uncorrectable then s1
        else { s1 with service := { s1.service with rows := tblSet [] s1.service.rows key l } }
      if (uncorrectable || decide (s2.rd Od.hbmRepairThreshold ≤ l.length)) && !s2.service.repairing.contains key then
        { s2 with service := { s2.service with repairing := key :: s2.service.repairing } }
      else s2)

/-- Where a unit of a pool lies. -/
def State.unitAddress (s : State) (u : Nat) : Nat :=
  s.poolBase (u / 2 ^ 32) + u % 2 ^ 32 * poolUnit (u / 2 ^ 32)

/-- HBM_ROW_REPAIRED (R568): the row moves to a spare row, or its 4 KiB units are retired.
[DESIGN CHOICE: log entry 109] -/
def execHbmRowRepaired (bank : Fin 512) (row : BitVec 20) (addresses : List (BitVec 64)) (units : List (BitVec 40))
    (s : State) : Res :=
  let key := bank.val * 2 ^ 20 + row.toNat
  .next (if s.service.repairing.contains key then
      let used := tblGet 0 s.service.spares bank.val
      let s1 := { s with service := { s.service with
        repairing := s.service.repairing.filter (· != key), rows := tblSet [] s.service.rows key [] } }
      if used < 4 then
        ((({ s1 with service := { s1.service with spares := tblPut s1.service.spares bank.val (used + 1) } }).bump
          Od.hbmRowsRepaired).raiseLimited 0xEA02 (bank.val / 32) 1 key)
      else
        let us := units.map BitVec.toNat
        let pages := addresses.map BitVec.toNat ++ us.map s1.unitAddress
        let all := s1.dom Od.retiredPages ++ (pages.map (beBytes 8)).flatten
        let s2 := us.foldl (fun s u => s.quarantine (u / 2 ^ 32) (u % 2 ^ 32)) s1
        let s3 := { s2.setDom Od.retiredPages all with storeDoms := tblSet [] s2.storeDoms Od.retiredPages all }
        (addresses.map BitVec.toNat).foldl (fun s a => s.raise 0xEA03 a) s3
    else s)

/-! ### The Keystone and its watch over tiles (R506, R569) -/

/-- KEYSTONE_REFUSED (R506). -/
def execKeystoneRefused (t : TileId) (s : State) : Res :=
  .next (if s.boot.phase < 2 then s else (s.bump Od.keystoneRefused).raiseLimited 0xBA07 t 1 t)

/-- KEYSTONE_LOCKSTEP (R569): the firmware restarts, and mode 7 is entered at the first boundary after it has. -/
def execKeystoneLockstep (s : State) : Res :=
  .next (if s.boot.phase < 2 then s
    else { s with keystone := { s.keystone with restarting := true } }.fatal 0xBA10 0)

/-- KEYSTONE_RESTART_COMPLETE (R569). -/
def execKeystoneRestartComplete (s : State) : Res :=
  .next { s with keystone := { s.keystone with restarting := false } }

/-- TIME_DISTRIBUTION_FAULT (R569, R570): a tile's copy of the time base deviates, or no longer does. -/
def execTimeDistributionFault (t : TileId) (deviates : Bool) (s : State) : Res :=
  .next (if s.boot.phase < 2 then s
    else if deviates then
      (if s.keystone.timeFaults.contains t.val then s
       else { s with keystone := { s.keystone with timeFaults := t.val :: s.keystone.timeFaults } }.fatal 0xBA12 t)
    else { s with keystone := { s.keystone with timeFaults := s.keystone.timeFaults.filter (· != t.val) } })

/-- The watchdog of a tile's firmware has expired within the last 10^9 courses. -/
def State.watched (s : State) (t : Nat) : Bool :=
  match s.keystone.watchdogs.find? (fun e => e.1 == t) with
  | some e => decide (s.course < e.2 + 1000000000)
  | none => false

/-- TILE_WATCHDOG (R569, R570): the tile's firmware restarts; a second expiry of a port, service or host tile within
10^9 courses is fatal. A compute tile's cores are stopped and reclaimed. [DESIGN CHOICE: log entry 109] -/
def execTileWatchdog (t : TileId) (s : State) : Res :=
  .next (if s.boot.phase < 2 then s
    else
      let noted : Keystone := { s.keystone with watchdogs := tblPut s.keystone.watchdogs t.val s.course }
      if s.watched t && firmwareTiles.contains t.val then
        { s with keystone := { noted with second := tblPut noted.second t.val s.course } }.fatal 0xBA14 t
      else
        let s1 := ({ s with keystone := noted }.bump Od.tileFirmwareRestarts).raise 0xEA07 t
        if 0x20 ≤ t.val ∧ t.val < 0x30 then
          forEach (List.range 6) (fun c s => s.stopCore (6 * (t.val - 0x20) + c)) s1
        else s1)

end Sys2Proof.Machine
end

