-- ==== Sys2Proof/Machine/Hod.lean ====
section
/-! DEFINITION. Machine/Hod.lean: the Hod's command window of the application cores (chapter "The Hod buffer pool
manager", R370 to R380). -/

namespace Sys2Proof.Machine

/-- The fields of a 16-byte command word. -/
def hodCmdOf (w : Nat) : HodCmd :=
  { pool := BitVec.ofNat 8 (bitField w 123 116), count := BitVec.ofNat 8 (bitField w 115 108),
    gen := BitVec.ofNat 8 (bitField w 107 100), newOwner := BitVec.ofNat 12 (bitField w 95 84),
    address := BitVec.ofNat 64 (w % 2 ^ 64) }

/-- An OwnerId names a unit that exists (R372). -/
def ownerValid (o : Nat) : Bool :=
  let tile := o / 64
  let unit := o % 64
  if 0x20 ≤ tile ∧ tile < 0x30 then unit ≤ 5
  else if tile < 0x20 then unit == 0x20 || unit == 0x21
  else if 0x30 ≤ tile ∧ tile ≤ 0x33 then unit == 0x30 || unit == 0x31 || unit == 0x32
  else if tile = 0x34 ∨ tile = 0x35 then unit == 0x38
  else false

/-- A pool a core may command: its own compute tile's and pool 0x41 (R378). -/
def corePool (n pool : Nat) : Bool := pool == 0x20 + n / 6 || pool == 0x41

/-- The quota of the core an OwnerId names in a pool; none for the others (R380). -/
def State.quota (s : State) (pool owner : Nat) : Option Nat :=
  let t := owner / 64 - 0x20
  if 0x20 ≤ owner / 64 ∧ owner / 64 < 0x30 ∧ owner % 64 ≤ 5 then
    some (if pool = 0x41 then s.rd (Od.hbmQuota t (owner % 64)) else s.rd (Od.coreQuota t (owner % 64)))
  else none

/-- Units of a pool an owner is the named last owner of. -/
def State.hodOwned (s : State) (pool owner : Nat) : Nat :=
  ((s.poolUnits pool).filter (fun e => e.2.owner == owner)).length

/-- One unit more would take an owner beyond its quota. -/
def State.overQuota (s : State) (pool owner : Nat) : Bool :=
  match s.quota pool owner with
  | some q => q ≤ s.hodOwned pool owner
  | none => false

/-- The caller holds the unit: its named last owner, a known holder, or one that ADDREF added and that has not named
itself. -/
def HodUnit.held (x : HodUnit) (who : Nat) : Bool := x.owner == who || x.named.contains who || 0 < x.anonymous

/-- A caller's counted hold is given up. -/
def HodUnit.dropHold (x : HodUnit) (who : Nat) : HodUnit :=
  if x.named.contains who then { x with named := x.named.erase who } else { x with anonymous := x.anonymous - 1 }

/-- What a core's command does with the unit it names: its status from 0x5 on, and the unit afterwards.
[DESIGN CHOICE: log entry 49] -/
def hodAct (s : State) (op pool who : Nat) (c : HodCmd) (x : HodUnit) : Nat × HodUnit :=
  match op with
  | 2 => if x.named.contains who || 0 < x.anonymous then (0, x.dropHold who) else (5, x)
  | 3 => if x.owner = who ∧ x.armed = false then (0, { x with armed := true }) else (5, x)
  | 4 =>
    if !x.held who then (5, x)
    else if 255 < x.count + c.count.toNat then (8, x)
    else (0, { x with anonymous := x.anonymous + c.count.toNat })
  | 5 =>
    let new := c.newOwner.toNat
    if x.owner ≠ who ∨ x.armed = true then (5, x)
    else
      let y := if new ≠ who ∧ (x.named.contains new || 0 < x.anonymous) then x.dropHold new else x
      let z := { y with owner := new, named := if new = who then y.named else who :: y.named }
      if 255 < z.count then (8, x)
      else if new ≠ who ∧ s.overQuota pool new = true then (9, x)
      else (0, z)
  | _ => if x.held who then (0, x) else (5, x)

/-- The response (R376's response map): status, generation, count, FreeArmed, last owner, address. -/
def hodResponse (status gen : Nat) (x : HodUnit) (address : Nat) : Nat :=
  status * 2 ^ 124 + gen * 2 ^ 116 + x.count % 256 * 2 ^ 108 + boolNat x.armed * 2 ^ 107 + x.owner * 2 ^ 84
    + address % 2 ^ 64

/-- The unit of no buffer. -/
def HodUnit.none_ : HodUnit := { owner := 0, armed := false, named := [], anonymous := 0 }

/-- A refused command: counted for its pool, and answered. -/
def State.hodRefuse (s : State) (n pool status gen : Nat) (x : HodUnit) (address : Nat) : State :=
  (s.bump (Od.refusedCommands pool)).emit (.core n "hod" (leBytes 16 (hodResponse status gen x address)))

/-- A core's Hod command (R377, R378): the checks in the order 0x7, 0x6, 0x2, 0x3, 0x4, 0x5, 0x8, 0x9, 0x1, then its
act. [DESIGN CHOICE: log entries 49, 162] -/
def State.hodCommand (s : State) (n op : Nat) (c : HodCmd) : State :=
  let pool := c.pool.toNat
  let who := coreOwner n
  let base := s.poolBase pool
  let unit := poolUnit pool
  let a := c.address.toNat
  let u := (a - base) / unit
  let key := pool * 2 ^ 32 + u
  let gen := tblGet 0 s.hod.gens key
  if !corePool n pool || !coreUsable (s.rd Od.modeInForce) n then s.hodRefuse n pool 7 0 HodUnit.none_ a
  else if op < 1 ∨ 6 < op ∨ (op = 4 ∧ c.count = 0) ∨
      (op = 5 ∧ (!ownerValid c.newOwner.toNat || (pool ≠ 0x41 && c.newOwner.toNat / 64 ≠ pool))) then
    s.hodRefuse n pool 6 0 HodUnit.none_ a
  else if op = 1 then
    if s.overQuota pool who then s.hodRefuse n pool 9 0 HodUnit.none_ 0
    else if s.poolFree pool ≤ (if pool = 0x41 then 0 else 64) then
      (s.poolRefused pool).hodRefuse n pool 1 0 HodUnit.none_ 0
    else
      let (s1, v) := s.takeUnit pool who
      s1.emit (.core n "hod" (leBytes 16 (hodResponse 0 (tblGet 0 s1.hod.gens (pool * 2 ^ 32 + v))
        { HodUnit.none_ with owner := who } (base + v * unit))))
  else if a < base ∨ base + s.poolCapacity pool * unit ≤ a then s.hodRefuse n pool 2 0 HodUnit.none_ a
  else if (a - base) % unit ≠ 0 then s.hodRefuse n pool 3 0 HodUnit.none_ a
  else
    match s.hod.units.find? (fun e => e.1 == key) with
    | none => s.hodRefuse n pool 4 0 HodUnit.none_ a
    | some (_, x) =>
      if gen ≠ c.gen.toNat then s.hodRefuse n pool 4 0 HodUnit.none_ a
      else
        match hodAct s op pool who c x with
        | (0, y) =>
          let s1 := if op = 6 then s else s.putUnit key y
          s1.emit (.core n "hod" (leBytes 16 (hodResponse 0 (tblGet 0 s1.hod.gens key) y a)))
        | (status, _) => s.hodRefuse n pool status gen x a

/-- ALLOC (R377). -/
def execHodAlloc (n : Fin 96) (c : HodCmd) (s : State) : Res := .next (s.hodCommand n 1 c)

/-- RELEASE (R373, R377). -/
def execHodRelease (n : Fin 96) (c : HodCmd) (s : State) : Res := .next (s.hodCommand n 2 c)

/-- FREE (R373, R377). -/
def execHodFree (n : Fin 96) (c : HodCmd) (s : State) : Res := .next (s.hodCommand n 3 c)

/-- ADDREF (R377). -/
def execHodAddref (n : Fin 96) (c : HodCmd) (s : State) : Res := .next (s.hodCommand n 4 c)

/-- TRANSFER (R377). -/
def execHodTransfer (n : Fin 96) (c : HodCmd) (s : State) : Res := .next (s.hodCommand n 5 c)

/-- QUERY (R377). -/
def execHodQuery (n : Fin 96) (c : HodCmd) (s : State) : Res := .next (s.hodCommand n 6 c)

end Sys2Proof.Machine
end

