-- ==== Sys2Proof/Machine/Package.lean ====
section
/-! DEFINITION. Machine/Package.lean: clocks, temperature and low-speed pins in service (R73, R594, R598 to R600), and the
SPDM responder (R517). -/

namespace Sys2Proof.Machine

/-! ### REFCLK_SYS (R598) -/

/-- REFCLK_SYS_LOST (R598): every port goes down with cause 3 and FAULT_N is driven low.
[DESIGN CHOICE: log entry 153] -/
def execRefclkSysLost (s : State) : Res :=
  .next (if s.boot.phase = 0 ∨ s.rd Od.refclkSysState = 1 then s
    else
      let s1 := s.wr Od.refclkSysState 1
      let s2 := forEach ((List.range 256).filter (fun p => s1.portWidth p != 0)) (fun p s =>
        if s.up p then s.portDownNoRestart p 3 else s.stopBringUp p) s1
      (s2.raise 0xEA24 0).driveFault)

/-- REFCLK_SYS_RESTORED (R598): bring-up resumes; a start-up that waited for the clock goes on to stage 3.
[DESIGN CHOICE: log entry 110] -/
def execRefclkSysRestored (s : State) : Res :=
  .next (if s.rd Od.refclkSysState = 0 then s
    else
      let s1 := s.wr Od.refclkSysState 0
      if s.boot.phase = 1 ∧ s.boot.cold = false then s1.startService s1.boot.found
      else if s.boot.phase = 2 then
        (forEach ((List.range 256).filter (fun p => s1.portWidth p != 0)) (fun p s =>
          if (s.port p).limited then s else s.bringUp p) s1).driveFault
      else s1)

/-! ### Temperature (R73, R599, R600) -/

/-- THERM_ALERT_N and its event after a reading; it is released 3 °C below the limit. -/
def State.thermalAlert (s : State) (high : Int) : State :=
  let limit : Int := (s.rd Od.thermalAlertLimit : Int) * 16
  if limit ≤ high then
    let s1 := if s.package.thermAlert then s
      else { s with package := { s.package with thermAlert := true } }.emit (.pin "THERM_ALERT_N" 0 false s.now)
    s1.raiseLimited 0xEA20 0 1 (ofSigned 16 high)
  else if high ≤ limit - 48 && s.package.thermAlert then
    { s with package := { s.package with thermAlert := false } }.emit (.pin "THERM_ALERT_N" 0 true s.now)
  else s

/-- TEMPERATURE_READ (R73, R599, R600): every sensor is read in each course whose number 1,024 divides, in 1/16 °C; the
lanes' constants follow. -/
def execTemperatureRead (tiles : List (BitVec 16)) (hbm : BitVec 16) (s : State) : Res :=
  let ts := (tiles ++ List.replicate 57 0).take 57
  let high : Int := (ts.map (fun v => v.toInt)).foldl max hbm.toInt
  .next (if s.boot.phase = 2 ∧ s.course % 1024 = 0 then
      let s1 := (s.setDom Od.tileTemperature ((ts.map (fun v => beBytes 2 v.toNat)).flatten)).wr Od.hbmTemperature hbm.toNat
      let first := (s.dom Od.tileTemperature).isEmpty
      let s2 := if first || decide (s.rdI 16 Od.maxTemperature < high) then s1.wrI 16 Od.maxTemperature high else s1
      s2.thermalAlert high
    else s)

/-- THERMAL_TRIP (R600): THERM_TRIP_N stays low until start-up. -/
def execThermalTrip (t : TileId) (s : State) : Res :=
  .next (if s.boot.phase = 0 then s
    else ((if s.package.thermTrip then s
      else { s with package := { s.package with thermTrip := true } }.emit (.pin "THERM_TRIP_N" 0 false s.now)).raise 0xEA21 t))

/-! ### Downstream links (R594) -/

/-- DSP_PERST_RELEASE (R594). -/
def execDspPerstRelease (n : Fin 4) (s : State) : Res :=
  .next (if s.boot.phase < 2 ∨ s.package.dspReleased.contains n.val = true then s
    else { s with package := { s.package with dspReleased := n.val :: s.package.dspReleased } }.emit
      (.pin "DSP_PERST_N" n true s.now))

/-! ### SPDM (R517); codes of DSP0274 -/

/-- PF0 of a link answers DOE requests. -/
def State.spdmOpen (s : State) (link : Nat) : Bool := s.configurable (4 * link)

/-- An SPDM response goes out on a link that answers. -/
def State.spdm (s : State) (link request response : Nat) (data : List Byte) : State :=
  if s.spdmOpen link then s.emit (.spdm request response data) else s

/-- An SPDM ERROR response. [PRESUMED: log entry 111] -/
def State.spdmError (s : State) (link request code : Nat) : State := s.spdm link request 0x7F [BitVec.ofNat 8 code, 0]

/-- GET_VERSION (R517): version 1.2. -/
def execSpdmGetVersion (link : Fin 4) (s : State) : Res := .next (s.spdm link 0x84 0x04 (beBytes 2 1 ++ beBytes 2 0x0012))

/-- GET_CAPABILITIES (R517): CTExponent 14; CERT_CAP, CHAL_CAP, MEAS_CAP with signatures. -/
def execSpdmGetCapabilities (link : Fin 4) (s : State) : Res :=
  .next (s.spdm link 0xE1 0x61 (beBytes 1 14 ++ leBytes 4 0x16))

/-- NEGOTIATE_ALGORITHMS (R517): ECDSA P-384 with SHA-384, or InvalidRequest for a requester that offers neither. -/
def execSpdmNegotiateAlgorithms (link : Fin 4) (offered : Bool) (s : State) : Res :=
  .next (if offered then s.spdm link 0xE3 0x63 (leBytes 4 0x80 ++ leBytes 4 0x02) else s.spdmError link 0xE3 0x01)

/-- GET_DIGESTS (R517): slot 0. [PRESUMED: log entry 111] -/
def execSpdmGetDigests (link : Fin 4) (s : State) : Res :=
  .next (s.spdm link 0x81 0x01 (beBytes 1 1 ++ Config.sha384 s.chain))

/-- GET_CERTIFICATE (R517): a part of the chain of slot 0; other slots are empty. -/
def execSpdmGetCertificate (link : Fin 4) (slot : BitVec 8) (offset length : BitVec 16) (s : State) : Res :=
  let part := slice s.chain offset.toNat length.toNat
  .next (if slot.toNat ≠ 0 then s.spdmError link 0x82 0x01
    else s.spdm link 0x82 0x02 (leBytes 2 part.length ++ leBytes 2 (s.chain.length - offset.toNat - part.length) ++ part))

/-- A nonce and a signature by the Alias key over what has been exchanged. [DESIGN CHOICE: log entry 83] -/
def State.spdmSigned (s : State) (link request response : Nat) (nonce : BitVec 256) (data : List Byte) : State :=
  if s.spdmOpen link then
    let (s1, mine) := s.openBits 56 256
    let body := data ++ beBytes 32 mine
    let (s2, transcript) := s1.openBits 57 384
    s2.emit (.spdm request response
      (body ++ Config.aliasSign s.cdi (beBytes 48 transcript ++ beBytes 32 nonce.toNat ++ body)))
  else s

/-- CHALLENGE (R517). [DESIGN CHOICE: log entry 83] -/
def execSpdmChallenge (link : Fin 4) (slot : BitVec 8) (nonce : BitVec 256) (s : State) : Res :=
  .next (if slot.toNat ≠ 0 then s.spdmError link 0x83 0x01
    else s.spdmSigned link 0x83 0x03 nonce (Config.sha384 s.chain))

/-- GET_MEASUREMENTS (R517): index 1 to 9, or 0xFF for all. [PRESUMED: log entry 111] -/
def execSpdmGetMeasurements (link : Fin 4) (index : BitVec 8) (nonce : BitVec 256) (s : State) : Res :=
  let block (i : Nat) : List Byte := beBytes 1 i ++ sized 48 (s.measurement i)
  let n := index.toNat
  .next (if n = 0xFF then s.spdmSigned link 0xE0 0x60 nonce (((List.range 9).map (fun i => block (i + 1))).flatten)
    else if 1 ≤ n ∧ n ≤ 9 then s.spdmSigned link 0xE0 0x60 nonce (block n)
    else s.spdmError link 0xE0 0x01)

/-- SPDM_UNSUPPORTED_REQUEST (R517). -/
def execSpdmUnsupportedRequest (link : Fin 4) (code : BitVec 8) (s : State) : Res :=
  .next (s.spdmError link code.toNat 0x07)

end Sys2Proof.Machine
end

