-- ==== Sys2Proof/Machine/Writes.lean ====
section
/-! DEFINITION. Machine/Writes.lean: the writes of the dictionary that have a command of their own: the entry each names
and the bytes of the record it brings. The agent judges and applies them as any write (R531). -/

namespace Sys2Proof.Machine

/-- A write of an entry with a value carried in a type. [DESIGN CHOICE: log entry 113] -/
def State.writes (s : State) (r : Req) (key : Nat) (v : WireValue) (stopped : Bool) : State :=
  s.request r (.write key v stopped)

/-- A write of a byte sequence. -/
def State.writesBytes (s : State) (r : Req) (key : Nat) (bs : List Byte) : State := s.writes r key ⟨0x0F, bs⟩ false

/-- A write of a U8. -/
def State.writesU8 (s : State) (r : Req) (key v : Nat) (stopped : Bool) : State :=
  s.writes r key ⟨0x02, beBytes 1 v⟩ stopped

/-! ### Time, course, modes, ports -/

/-- TIME_STEP_OFFSET (R64). [DESIGN CHOICE: log entry 20] -/
def execTimeStepOffset (r : Req) (v : WireValue) (s : State) : Res := .next (s.writes r Od.timeStepOffset v false)

/-- TIME_SET (R64). -/
def execTimeSet (r : Req) (v : WireValue) (s : State) : Res := .next (s.writes r Od.timeSet v false)

/-- GEN_COMMIT (R91). -/
def execGenCommit (r : Req) (n : Fin 32) (v : WireValue) (s : State) : Res := .next (s.writes r (Od.genCommit n) v false)

/-- TIO_OWNER (R88). -/
def execTioOwner (r : Req) (n : Fin 32) (v : WireValue) (s : State) : Res := .next (s.writes r (Od.tioOwner n) v false)

/-- COURSE_COMMIT (R107, R108): the Keystone stages the length and commits it; another writer's CourseCommit is refused.
[DESIGN CHOICE: log entry 112] -/
def execCourseCommit (r : Req) (length : Nat) (s : State) : Res :=
  .next (match r.via with
    | .signed .. => s.writes r Od.courseLength ⟨0x04, beBytes 4 length⟩ false
    | .firmware => (s.writes r Od.courseLength ⟨0x04, beBytes 4 length⟩ false).writes r Od.courseCommit ⟨0x01, [1]⟩ false
    | _ => s.writes r Od.courseCommit ⟨0x01, [1]⟩ false)

/-- OPERATING_MODE (R136). -/
def execOperatingMode (r : Req) (v : WireValue) (coresStopped : Bool) (s : State) : Res :=
  .next (s.writes r Od.operatingMode v coresStopped)

/-- SAFE_MODE_ENTER (R145). -/
def execSafeModeEnter (r : Req) (s : State) : Res := .next (s.writesU8 r Od.safeModeCommand 7 false)

/-- SAFE_MODE_LEAVE (R147). -/
def execSafeModeLeave (r : Req) (target : BitVec 8) (coresStopped : Bool) (s : State) : Res :=
  .next (s.writesU8 r Od.safeModeCommand target.toNat coresStopped)

/-- PORT_ENABLE (R171). -/
def execPortEnable (r : Req) (p : PortId) (v : WireValue) (s : State) : Res := .next (s.writes r (Od.portEnable p) v false)

/-- LANE_GROUPING (R152). -/
def execLaneGrouping (r : Req) (t : Fin 32) (v : WireValue) (s : State) : Res :=
  .next (s.writes r (Od.laneGrouping t) v false)

/-- GATE_CONTROL_LIST (R327, R328). -/
def execGateControlList (r : Req) (p : PortId) (bytes : List Byte) (s : State) : Res :=
  .next (s.writesBytes r (Od.gateControlList p) bytes)

/-! ### Policers (R338, R340) -/

/-- POLICER_UPDATE (R338): one 40-byte record. -/
def execPolicerUpdate (r : Req) (t : Fin 32) (index : BitVec 16) (entry : BitVec 256) (s : State) : Res :=
  .next (s.writesBytes r (Od.policerUpdate t) (beBytes 2 index.toNat ++ beBytes 6 0 ++ beBytes 32 entry.toNat))

/-- POLICER_QUERY (R340). -/
def execPolicerQuery (r : Req) (t : Fin 32) (index : BitVec 16) (s : State) : Res :=
  .next (s.writesBytes r (Od.policerQuery t) (beBytes 2 index.toNat))

/-! ### Filtering database (R232, R236, R238) -/

/-- The 24 bytes of an FdbUpdate record: Op [191:188], Fid [187:176], entry [127:0]. -/
def fdbRecord (op fid entry : Nat) : List Byte := beBytes 24 (op * 2 ^ 188 + fid * 2 ^ 176 + entry)

/-- FDB_INSERT_OR_REPLACE (R236). -/
def execFdbInsertOrReplace (r : Req) (entry : BitVec 128) (s : State) : Res :=
  .next (s.writesBytes r Od.fdbUpdate (fdbRecord 1 0 entry.toNat))

/-- FDB_DELETE (R236). -/
def execFdbDelete (r : Req) (entry : BitVec 128) (s : State) : Res :=
  .next (s.writesBytes r Od.fdbUpdate (fdbRecord 2 0 entry.toNat))

/-- FDB_PURGE (R236): the generation stands in the entry's Gen field. -/
def execFdbPurge (r : Req) (fid : BitVec 12) (gen : BitVec 16) (s : State) : Res :=
  .next (s.writesBytes r Od.fdbUpdate (fdbRecord 3 fid.toNat (gen.toNat * 2 ^ 44)))

/-- FDB_RESTAMP (R236). -/
def execFdbRestamp (r : Req) (fid : BitVec 12) (gen : BitVec 16) (s : State) : Res :=
  .next (s.writesBytes r Od.fdbUpdate (fdbRecord 4 fid.toNat (gen.toNat * 2 ^ 44)))

/-- FDB_QUERY (R238). -/
def execFdbQuery (r : Req) (key : BitVec 128) (s : State) : Res :=
  .next (s.writesBytes r Od.fdbQuery (beBytes 16 key.toNat))

/-- FDB_SWEEP (R232). -/
def execFdbSweep (r : Req) (first : BitVec 32) (count : BitVec 16) (s : State) : Res :=
  .next (s.writesBytes r Od.fdbSweep (beBytes 4 first.toNat ++ beBytes 2 count.toNat))

/-! ### Classification tables (R270, R278, R281, R286) -/

/-- A record whose first byte, its Op, is given. -/
def withOp (op : Nat) (bs : List Byte) : List Byte := beBytes 1 op ++ bs.drop 1

/-- TERNARY_INSERT (R278). -/
def execTernaryInsert (r : Req) (t : Fin 32) (record : List Byte) (s : State) : Res :=
  .next (s.writesBytes r (Od.ternaryUpdate t) (withOp 1 record))

/-- TERNARY_REPLACE (R278). -/
def execTernaryReplace (r : Req) (t : Fin 32) (record : List Byte) (s : State) : Res :=
  .next (s.writesBytes r (Od.ternaryUpdate t) (withOp 2 record))

/-- TERNARY_DELETE (R278). -/
def execTernaryDelete (r : Req) (t : Fin 32) (pipeline : Fin 2) (rule : BitVec 32) (s : State) : Res :=
  .next (s.writesBytes r (Od.ternaryUpdate t) (TernaryOp.bytes ⟨3, pipeline, 0, rule.toNat, 0, 0, 0⟩))

/-- TERNARY_QUERY (R286). -/
def execTernaryQuery (r : Req) (t : Fin 32) (rule : BitVec 32) (s : State) : Res :=
  .next (s.writesBytes r (Od.ternaryQuery t) (beBytes 4 rule.toNat))

/-- EXACT_INSERT_OR_REPLACE (R270). -/
def execExactInsertOrReplace (r : Req) (x : Fin 16) (key action : BitVec 256) (s : State) : Res :=
  .next (s.writesBytes r (Od.exactUpdate x) (ExactOp.bytes ⟨1, x, key.toNat, action.toNat⟩))

/-- EXACT_DELETE (R270). -/
def execExactDelete (r : Req) (x : Fin 16) (key : BitVec 256) (s : State) : Res :=
  .next (s.writesBytes r (Od.exactUpdate x) (ExactOp.bytes ⟨2, x, key.toNat, 0⟩))

/-- EXACT_QUERY (R286). -/
def execExactQuery (r : Req) (x : Fin 16) (key : BitVec 256) (s : State) : Res :=
  .next (s.writesBytes r (Od.exactQuery x) (beBytes 32 key.toNat))

/-- EXACT_SWEEP (R281). -/
def execExactSweep (r : Req) (x : Fin 16) (first : BitVec 32) (count : BitVec 16) (s : State) : Res :=
  .next (s.writesBytes r (Od.exactSweep x) (beBytes 4 first.toNat ++ beBytes 2 count.toNat))

/-! ### Programs and microcode (R297, R306, R312) -/

/-- LOAD_OR_REPLACE (R297). -/
def execLoadOrReplace (r : Req) (t : Fin 32) (pipeline : Fin 2) (entry : Fin 256) (words : List (BitVec 32)) (s : State) :
    Res :=
  .next (s.writesBytes r (Od.programUpdate t) (ProgOp.bytes ⟨1, pipeline, entry, words.map BitVec.toNat⟩))

/-- REMOVE (R297). -/
def execRemove (r : Req) (t : Fin 32) (pipeline : Fin 2) (entry : Fin 256) (s : State) : Res :=
  .next (s.writesBytes r (Od.programUpdate t) (ProgOp.bytes ⟨2, pipeline, entry, []⟩))

/-- MICROCODE_PATCH (R306). -/
def execMicrocodePatch (r : Req) (bytes : List Byte) (s : State) : Res := .next (s.writesBytes r Od.microcodePatch bytes)

/-- STATE_MEMORY (R312): pipeline, byte address, words. -/
def execStateMemory (r : Req) (t : Fin 32) (pipeline : Fin 2) (address : BitVec 16) (words : List (BitVec 32)) (s : State) :
    Res :=
  .next (s.writesBytes r (Od.stateMemory t)
    (beBytes 1 pipeline ++ beBytes 2 address.toNat ++ (words.map (fun w => leBytes 4 w.toNat)).flatten))

/-! ### Key slots (R347 to R350) -/

/-- KEY_LOAD (R349). -/
def execKeyLoad (r : Req) (record : List Byte) (s : State) : Res := .next (s.writesBytes r Od.keyLoad record)

/-- KEY_ERASE (R350). -/
def execKeyErase (r : Req) (slot : BitVec 16) (s : State) : Res :=
  .next (s.writes r Od.keyErase ⟨0x03, beBytes 2 slot.toNat⟩ false)

/-- KEY_SLOT_OWNER (R347). -/
def execKeySlotOwner (r : Req) (slot : BitVec 16) (kind : BitVec 8) (slice : BitVec 16) (s : State) : Res :=
  .next (s.writesBytes r Od.keySlotOwner (beBytes 2 slot.toNat ++ beBytes 1 kind.toNat ++ beBytes 2 slice.toNat))

/-- KEY_SLOT_INFO (R350). -/
def execKeySlotInfo (r : Req) (slot : BitVec 16) (s : State) : Res :=
  .next (s.writesBytes r Od.keySlotInfo (beBytes 2 slot.toNat))

/-! ### Slices (R425, R438, R440) -/

/-- SLICE_RESOURCE_SET (R425). -/
def execSliceResourceSet (r : Req) (slice : BitVec 16) (record : BitVec 512) (s : State) : Res :=
  .next (s.writesBytes r Od.sliceResourceSet (beBytes 2 slice.toNat ++ beBytes 6 0 ++ leBytes 64 record.toNat))

/-- SLICE_QUERY (R440). -/
def execSliceQuery (r : Req) (slice : BitVec 16) (s : State) : Res :=
  .next (s.writesBytes r Od.sliceQuery (beBytes 2 slice.toNat))

/-- SLICE_STATE (R438): slice, link, function, and a record for each of 64 queue pairs. -/
def execSliceState (r : Req) (slice : BitVec 16) (link fn : BitVec 8) (records : List Byte) (s : State) : Res :=
  .next (s.writesBytes r Od.sliceState (beBytes 2 slice.toNat ++ beBytes 1 link.toNat ++ beBytes 1 fn.toNat ++ records))

/-! ### Storage and RDMA (R449, R477, R478, R498, R499, R503) -/

/-- NAMESPACE_RECORD (R449). -/
def execNamespaceRecord (r : Req) (n : BitVec 16) (record : BitVec 384) (s : State) : Res :=
  .next (s.writesBytes r (Od.namespaceRecord n.toNat) (leBytes 48 record.toNat))

/-- QP_CREATE (R477). -/
def execQpCreate (r : Req) (record : List Byte) (s : State) : Res := .next (s.writesBytes r Od.qpControl (withOp 1 record))

/-- QP_MODIFY (R478). -/
def execQpModify (r : Req) (record : List Byte) (s : State) : Res := .next (s.writesBytes r Od.qpControl (withOp 2 record))

/-- QP_DESTROY (R477). -/
def execQpDestroy (r : Req) (record : List Byte) (s : State) : Res := .next (s.writesBytes r Od.qpControl (withOp 3 record))

/-- CQ_CREATE (R477). -/
def execCqCreate (r : Req) (record : List Byte) (s : State) : Res := .next (s.writesBytes r Od.cqControl (withOp 1 record))

/-- CQ_DESTROY (R477). -/
def execCqDestroy (r : Req) (record : List Byte) (s : State) : Res := .next (s.writesBytes r Od.cqControl (withOp 3 record))

/-- AH_CREATE (R477). -/
def execAhCreate (r : Req) (record : List Byte) (s : State) : Res := .next (s.writesBytes r Od.ahControl (withOp 1 record))

/-- AH_DESTROY (R477). -/
def execAhDestroy (r : Req) (record : List Byte) (s : State) : Res := .next (s.writesBytes r Od.ahControl (withOp 3 record))

/-- REGION_REGISTER (R498). -/
def execRegionRegister (r : Req) (record : List Byte) (s : State) : Res :=
  .next (s.writesBytes r Od.regionControl (withOp 1 record))

/-- REGION_DEREGISTER (R499). -/
def execRegionDeregister (r : Req) (record : List Byte) (s : State) : Res :=
  .next (s.writesBytes r Od.regionControl (withOp 2 record))

/-- RDMA_QUERY (R503). -/
def execRdmaQuery (r : Req) (kind : BitVec 8) (number : BitVec 32) (s : State) : Res :=
  .next (s.writesBytes r Od.rdmaQuery (beBytes 1 kind.toNat ++ beBytes 4 number.toNat))

/-! ### Keystone, images, compute tiles (R508, R519, R523, R524, R557) -/

/-- SIGNED_COMMAND (R508). -/
def execSignedCommand (r : Req) (bytes : List Byte) (coresStopped : Bool) (s : State) : Res :=
  .next (s.writes r Od.signedCommand ⟨0x0F, bytes⟩ coresStopped)

/-- IMAGE_DOWNLOAD (R523): a segment of ImageDownload. -/
def execImageDownload (r : Req) (first last : Bool) (offset total : BitVec 32) (data : List Byte) (s : State) : Res :=
  .next (s.request r (.segWrite Od.imageDownload first last offset.toNat total.toNat data false))

/-- IMAGE_COMMIT (R523, R527). -/
def execImageCommit (r : Req) (slot : BitVec 8) (s : State) : Res :=
  .next (s.writesU8 r Od.imageCommit slot.toNat false)

/-- SLOT_ERASE (R524). -/
def execSlotErase (r : Req) (slot : BitVec 8) (s : State) : Res := .next (s.writesU8 r Od.slotErase slot.toNat false)

/-- ACTIVATE_SLOT (R557). -/
def execActivateSlot (r : Req) (slot : BitVec 8) (s : State) : Res :=
  .next (s.writesU8 r Od.activateSlot slot.toNat false)

/-- TILE_SLEEP (R519). [DESIGN CHOICE: log entry 112] -/
def execTileSleep (r : Req) (t : Fin 16) (coresStopped : Bool) (s : State) : Res :=
  .next (s.writes r (Od.tileSleep t) ⟨0x01, [1]⟩ coresStopped)

/-- TILE_WAKE (R519). -/
def execTileWake (r : Req) (t : Fin 16) (s : State) : Res := .next (s.writes r (Od.tileSleep t) ⟨0x01, [0]⟩ false)

end Sys2Proof.Machine
end

