-- ==== Sys2Proof/Machine/Registers.lean ====
section
/-! DEFINITION. Machine/Registers.lean: the registers of BAR0 and BAR2 as a host reads and writes them (chapters "Host
endpoint", "Slices and live migration", "Storage front end"; R395 to R398, R405, R406, R419, R424, R443, R444, R549), and the
READ and WRITE commands. A register's byte k holds its bits [8k+7:8k] (R14, R397). -/

namespace Sys2Proof.Machine

/-- The state a command's meaning leaves; the state itself where it leaves none. -/
def State.does (s : State) (f : State → Res) : State :=
  match f s with
  | .next t => t
  | .fault _ => s
  | .refused _ => s

/-! ### Which register (R395, R396) -/

/-- A register of a function. -/
inductive Reg where
  | mailbox (n : Nat)
  | request (n : Nat)
  | response (n : Nat)
  | nvme (n : Nat)
  | nvmeDoorbell (n : Nat)
  | clock (n : Nat)
  | ringBase
  | ringControl
  | ringHead
  | ringVector
  | pinReg (pin at_ : Nat)
  | block (n : Nat)
  | sliceControl (n : Nat)
  | imsWindow (n : Nat)
  | peer (n : Nat)
  | msix (n : Nat)
  | pba
  | store (n : Nat)
  | doorbell (slice q at_ : Nat)
  | context (slice q : Nat)
  deriving DecidableEq, Repr

/-- A register's place: itself, its first offset, its size in bytes. -/
structure RegPlace where
  reg : Reg
  base : Nat
  size : Nat
  deriving DecidableEq, Repr

/-- Start of the piece of `n` bytes that an offset lies in. -/
def alignDown (o n : Nat) : Nat := o / n * n

/-- Registers of a pin block: offset and size (R405). -/
def pinPlaces : List (Nat × Nat) :=
  [(0, 4), (4, 4), (8, 4), (0xC, 12), (0x18, 8), (0x20, 4), (0x24, 4), (0x28, 4), (0x2C, 4), (0x30, 12), (0x3C, 4)]

/-- Registers of NVMe controller 0 below its doorbells: CAP, VS, INTMS, INTMC, CC, CSTS, NSSR, AQA, ASQ, ACQ. -/
def nvmePlaces : List (Nat × Nat) :=
  [(0, 8), (8, 4), (0xC, 4), (0x10, 4), (0x14, 4), (0x1C, 4), (0x20, 4), (0x24, 4), (0x28, 8), (0x30, 8)]

/-- The place of a list that an offset lies in. -/
def placeIn (places : List (Nat × Nat)) (o : Nat) : Option (Nat × Nat) :=
  places.find? (fun p => decide (p.1 ≤ o ∧ o < p.1 + p.2))

/-- The function-specific area of a function (R395). -/
def specificAt (fn o : Nat) : Option RegPlace :=
  if fn = 0 then
    if o < 0x10 then some ⟨.mailbox (o / 4), alignDown o 4, 4⟩
    else if 0x1000 ≤ o ∧ o < 0x8000 then some ⟨.request ((o - 0x1000) / 8 * 8), alignDown o 8, 8⟩
    else if 0x8000 ≤ o ∧ o < 0x10000 then some ⟨.response ((o - 0x8000) / 8 * 8), alignDown o 8, 8⟩
    else none
  else if fn = 2 then
    if 0x1000 ≤ o ∧ o < 0x1000 + 4 * 130 then some ⟨.nvmeDoorbell ((o - 0x1000) / 4), alignDown o 4, 4⟩
    else (placeIn nvmePlaces o).map (fun p => ⟨.nvme p.1, p.1, p.2⟩)
  else if fn = 3 then
    if o < 0xC then some ⟨.clock (o / 4 * 4), alignDown o 4, 4⟩
    else if 0x10 ≤ o ∧ o < 0x18 then some ⟨.clock 0x10, 0x10, 8⟩
    else if 0x18 ≤ o ∧ o < 0x1C then some ⟨.clock 0x18, 0x18, 4⟩
    else if 0x100 ≤ o ∧ o < 0x108 then some ⟨.ringBase, 0x100, 8⟩
    else if 0x108 ≤ o ∧ o < 0x10C then some ⟨.ringControl, 0x108, 4⟩
    else if 0x10C ≤ o ∧ o < 0x110 then some ⟨.ringHead, 0x10C, 4⟩
    else if 0x110 ≤ o ∧ o < 0x114 then some ⟨.ringVector, 0x110, 4⟩
    else if 0x1000 ≤ o ∧ o < 0x1800 then
      (placeIn pinPlaces (o % 64)).map (fun p => ⟨.pinReg ((o - 0x1000) / 64) p.1, alignDown o 64 + p.1, p.2⟩)
    else none
  else none

/-- A slice area of BAR2 (R396): doorbells, then contexts. [DESIGN CHOICE: log entry 114] -/
def areaAt (fn o : Nat) : Option RegPlace :=
  let n := o / 8192
  let q := o % 4096 / 64
  let at_ := o % 64
  if 4096 ≤ o % 8192 then some ⟨.context n q, alignDown o 64, 64⟩
  else if at_ < 8 ∨ (at_ < 12 ∧ fn ≠ 2) then some ⟨.doorbell n q (at_ / 4 * 4), alignDown o 4, 4⟩
  else if fn = 1 ∧ 16 ≤ at_ ∧ at_ < 24 then some ⟨.doorbell n q 16, alignDown o 8, 8⟩
  else none

/-- The register at an offset of a BAR, BAR0 or BAR2 (`bar` 0 or 1). [DESIGN CHOICE: log entry 114] -/
def regAt (fn bar o : Nat) : Option RegPlace :=
  if bar = 1 then areaAt fn o
  else if o < 0x10000 then specificAt fn o
  else if o < 0x11000 then some ⟨.block (o - 0x10000), alignDown o 8, 8⟩
  else if 0x20000 ≤ o ∧ o < 0x30000 then some ⟨.sliceControl ((o - 0x20000) / 16), alignDown o 16, 16⟩
  else if 0x30000 ≤ o ∧ o < 0x34000 then some ⟨.imsWindow ((o - 0x30000) / 4), alignDown o 4, 4⟩
  else if 0x40000 ≤ o ∧ o < 0x41000 ∧ fn = 1 then some ⟨.peer ((o - 0x40000) / 64), alignDown o 64, 64⟩
  else if 0x80000 ≤ o ∧ o < 0x88000 then some ⟨.msix ((o - 0x80000) / 16), alignDown o 16, 16⟩
  else if 0x88000 ≤ o ∧ o < 0x88100 then some ⟨.pba, 0x88000, 256⟩
  else if 0xC0000 ≤ o ∧ o < 0x100000 ∧ fn ≠ 0 then some ⟨.store ((o - 0xC0000) / 16), alignDown o 16, 16⟩
  else none

/-- An access of `len` bytes is aligned, 4 or 8 bytes, and within its register (R397).
[DESIGN CHOICE: log entry 114] -/
def accessOk (p : RegPlace) (o len : Nat) : Bool :=
  (len == 4 || len == 8) && o % len == 0 && decide (o + len ≤ p.base + p.size)

/-! ### What registers hold -/

/-- A slice control block (R426). [DESIGN CHOICE: log entry 71] -/
def sliceWord (b : SliceBlock) (ops : Nat) : Nat :=
  b.descriptor * 2 ^ 64 + b.pasid * 2 ^ 44 + boolNat b.bound * 2 ^ 43 + boolNat b.bindRefused * 2 ^ 42
    + boolNat b.resetPending * 2 ^ 40 + boolNat b.quiesce * 2 ^ 39 + boolNat b.quiesced * 2 ^ 38
    + boolNat b.logEnable * 2 ^ 37 + boolNat b.flipPending * 2 ^ 35 + boolNat b.active * 2 ^ 34
    + boolNat b.outOfRange * 2 ^ 33 + boolNat b.logError * 2 ^ 32 + ops * 2 ^ 14

/-- A network queue context (R398). -/
def QueuePair.word (q : QueuePair) : Nat :=
  q.txBase * 2 ^ 448 + q.rxBase * 2 ^ 384 + q.cqBase * 2 ^ 320 + q.txLog * 2 ^ 316 + q.rxLog * 2 ^ 312 + q.cqLog * 2 ^ 308
    + boolNat q.enable * 2 ^ 307 + boolNat q.launchTime * 2 ^ 306 + boolNat q.halted * 2 ^ 305 + boolNat q.refused * 2 ^ 304
    + q.txPort * 2 ^ 296 + q.coalesceCourses * 2 ^ 288 + q.coalesceCount * 2 ^ 280 + q.vector * 2 ^ 274
    + q.txHead * 2 ^ 248 + q.rxHead * 2 ^ 232 + q.cqTail * 2 ^ 216

/-- Log2 of a number of entries; 0 where there are none. -/
def sizeLog (n : Nat) : Nat := if n = 0 then 0 else Nat.log2 n

/-- Entries of a slice controller's queue: 2 to 65,536 (R444). -/
def nvmeSize (log : Nat) : Nat := if 1 ≤ log ∧ log ≤ 16 then 2 ^ log else 0

/-- A slice controller's queue context (R444). -/
def NvmeQueue.word (q : NvmeQueue) : Nat :=
  q.sqBase * 2 ^ 448 + q.cqBase * 2 ^ 384 + sizeLog q.sqSize * 2 ^ 379 + sizeLog q.cqSize * 2 ^ 374
    + boolNat q.enable * 2 ^ 373 + boolNat q.halted * 2 ^ 372 + boolNat q.refused * 2 ^ 371 + q.vector * 2 ^ 365
    + q.coalesceCourses * 2 ^ 357 + q.coalesceCount * 2 ^ 349 + q.sqHead * 2 ^ 320 + q.cqTail * 2 ^ 304

/-- A peer window's registers (R415): shadow fields, Commit reads 0, CommitPending, CommitError, active fields. -/
def PeerWindow.word (x : PeerWindow) : Nat :=
  x.shadow * 2 ^ 256 + boolNat x.pending * 2 ^ 334 + boolNat x.error * 2 ^ 333 + x.active

/-- An entry of the MSI-X table or the interrupt store: address, data, vector control. -/
def ImsEntry.word (e : ImsEntry) : Nat := e.addr + e.data * 2 ^ 64 + boolNat e.masked * 2 ^ 96

/-- CAP of controller 0 (R443). [PRESUMED: log entry 66] -/
def nvmeCap : Nat := 0xFFFF + 2 ^ 16 + 20 * 2 ^ 24 + 2 ^ 37 + 4 * 2 ^ 52

/-- A register of controller 0. CSTS has ready, fatal status in mode 7 (R468), and shutdown complete once asked for. -/
def State.nvmeWord (s : State) (link n : Nat) : Nat :=
  let x := s.ctrl link
  match n with
  | 0 => nvmeCap
  | 8 => 0x00020000
  | 0x14 => x.cc
  | 0x1C => boolNat x.ready + 2 * boolNat (x.fatal || s.rd Od.modeInForce == 7) + (if bitField x.cc 15 14 = 0 then 0 else 8)
  | 0x24 => x.aqa
  | 0x28 => x.asq
  | 0x30 => x.acq
  | _ => 0

/-- The entry that a pin block's register carries (R405): none for WriteStatus. -/
def pinEntry (n at_ : Nat) : Option Nat :=
  match at_ with
  | 0x04 => some (Od.inputDelay n)
  | 0x08 => some (Od.expectTimeout n)
  | 0x0C => some (Od.startTime n)
  | 0x18 => some (Od.period n)
  | 0x20 => some (Od.width n)
  | 0x24 => some (Od.count n)
  | 0x28 => some (Od.outputDelay n)
  | 0x2C => some (Od.genCommit n)
  | 0x30 => some (Od.lastCapture n)
  | _ => none

/-- A register of a pin block. GenCommit, which only writes, reads 0. -/
def State.pinWord (s : State) (link n at_ : Nat) : Nat :=
  if at_ = 0 then s.rd (Od.tioMode n) + 256 * s.rd (Od.glitchFilter n)
  else if at_ = 0x3C then tblGet 0 s.host.pinStatus (link * 32 + n)
  else if at_ = 0x2C then 0
  else match pinEntry n at_ with
    | some k => s.rd k
    | none => 0

/-- A clock register of PF3 (R405); TimeLow has a command of its own. [DESIGN CHOICE: log entry 117] -/
def State.clockWord (s : State) (link n : Nat) : Nat :=
  match n with
  | 4 => (s.ring link).latched % 2 ^ 32
  | 8 => (s.ring link).latched / 2 ^ 32
  | 0x10 => s.course
  | 0x18 => s.rd Od.servoState + boolNat (s.rdB Od.timeValid) * 256 + boolNat (s.rdB Od.traceable) * 512
      + s.rd Od.utcOffset % 2 ^ 16 * 65536
  | _ => ts96 s.now % 2 ^ 32

/-- A register of a mailbox (R549). -/
def Mailbox.word (x : Mailbox) (n : Nat) : Nat :=
  match n with
  | 1 => boolNat x.busy + 2 * boolNat x.responseReady + 4 * boolNat x.refused
  | 2 => x.requestLength
  | 3 => x.responseLength
  | _ => 0

/-- The slice area answers: its slice is bound on the function (R396). [DESIGN CHOICE: log entry 116] -/
def State.sliceArea (s : State) (f n : Nat) : Bool := f % 4 != 0 && (s.block f n).bound

/-- A register's value. What the manual gives no layout or no read value for is free (45 the function block, 46
doorbells). [DESIGN CHOICE: log entry 115] -/
def State.regValue (s : State) (f : Nat) (r : Reg) : State × Nat :=
  let link := f / 4
  match r with
  | .mailbox n => (s, (s.mailbox link).word n)
  | .request n => (s, leAt (sized 28672 (s.mailbox link).request) n 8)
  | .response n => (s, leAt (sized 32768 (s.mailbox link).response) n 8)
  | .nvme n => (s, s.nvmeWord link n)
  | .nvmeDoorbell _ => s.openBits 46 32
  | .clock n => (s, s.clockWord link n)
  | .ringBase => (s, (s.ring link).base)
  | .ringControl => (s, (s.ring link).log + boolNat (s.ring link).enable * 2 ^ 31)
  | .ringHead => s.openBits 46 32
  | .ringVector => (s, (s.ring link).vector)
  | .pinReg n at_ => (s, s.pinWord link n at_)
  | .block _ => s.openBits 45 64
  | .sliceControl n => if f % 4 = 0 then (s, 0) else (s, sliceWord (s.block f n) (s.ops n))
  | .imsWindow n => if f % 4 = 0 then (s, 0) else (s, tblGet 0 (s.hostFn f).windows n)
  | .peer w => if (s.windowsOf link).contains w then (s, (s.window (link / 2) w).word) else (s, 0)
  | .msix n => (s, (tblGet ImsEntry.fresh (s.hostFn f).msix n).word)
  | .pba => (s, (((s.hostFn f).msix.filter (fun e => e.2.pending)).map (fun e => 2 ^ e.1)).sum)
  | .store n => (s, (tblGet ImsEntry.fresh (s.hostFn f).store n).word)
  | .doorbell n _ _ => if s.sliceArea f n then s.openBits 46 64 else (s, 0)
  | .context n q =>
    (s, if !s.sliceArea f n then 0
        else if f % 4 = 2 then (s.nvq (qpKey f n q)).word
        else (s.qp (qpKey f n q)).word)

/-! ### Pin blocks (R406) -/

/-- A value of `n` bytes in the form of an entry's type. -/
def wireOf (key v : Nat) : WireValue :=
  match odRow? key with
  | some r => ⟨r.type.code, beBytes (r.type.bits / 8) v⟩
  | none => ⟨0, []⟩

/-- The value of a pin's entry that a partial write lays its bytes over: what the block has staged, or the value in
force. -/
def State.pinBase (s : State) (link key : Nat) : Nat :=
  (s.stagedBy (pinCtx link)).foldl (fun v i => match i with
    | .num k x => if k = key then x else v
    | .raw .. => v) (s.rd key)

/-- One write to a pin block that its owner makes: state and status. [DESIGN CHOICE: log entries 114, 118] -/
def State.pinStore (s : State) (link n at_ i : Nat) (bs : List Byte) : State × Nat :=
  let ctx := pinCtx link
  if at_ = 0 then
    let a := s.agentWrite ctx .pinBlock false (Od.tioMode n) (wireOf (Od.tioMode n) (leAt bs 0 1))
    let b := a.state.agentWrite ctx .pinBlock false (Od.glitchFilter n) (wireOf (Od.glitchFilter n) (leAt bs 1 1))
    let c := pickCode ([a.status, b.status].filter (· != 0))
    if c = 0 then (b.state, 0) else (s.bump Od.refusedWrites, c)
  else match pinEntry n at_ with
    | none => (s, tblGet 0 s.host.pinStatus (link * 32 + n))
    | some key =>
      if key = Od.lastCapture n then (s, tblGet 0 s.host.pinStatus (link * 32 + n))
      else
        let v := leNat (overlay (leBytes 12 (s.pinBase link key)) i bs)
        let w := s.agentWrite ctx .pinBlock false key (wireOf key v)
        (w.state, w.status)

/-- PIN_BLOCK_WRITE (R397, R406): ownership first, then mode 7, then what the entry's own checks say.
[DESIGN CHOICE: log entries 114, 118] -/
def execPinBlockWrite (link : Fin 4) (n : Fin 32) (offset : Fin 64) (bytes : List Byte) (off : Nat) (s0 : State) : Res :=
  let s := s0.moveTo off
  let f := 4 * link.val + 3
  let set (s : State) (c : Nat) : State :=
    { s with host := { s.host with pinStatus := tblSet 0 s.host.pinStatus (link.val * 32 + n.val) c } }
  .next (if !s.answers f then s
    else match regAt 3 0 (0x1000 + 64 * n.val + offset.val) with
      | some ⟨.pinReg _ at_, base, size⟩ =>
        if !accessOk ⟨.pba, base, size⟩ (0x1000 + 64 * n.val + offset.val) bytes.length then s.bump (Od.misalignedAccess f)
        else if at_ = 0x30 ∨ at_ = 0x3C then s
        else if s.rd (Od.tioOwner n) ≠ link.val + 1 then set (s.bump Od.refusedWrites) 0x03
        else if s.rd Od.modeInForce = 7 then set (s.bump Od.refusedWrites) 0x07
        else
          let (t, c) := s.pinStore link n at_ (offset.val - at_) bytes
          set t c
      | _ => s.bump (Od.misalignedAccess f))

/-! ### Writes -/

/-- Controller 0 is enabled: its admin queues start with what AQA, ASQ and ACQ hold (R443). -/
def State.enableCtrl (s : State) (link : Nat) : State :=
  let x := s.ctrl link
  let sq := { NvmeQueue.fresh with enable := true, sqBase := x.asq / 4096 * 4096, sqSize := bitField x.aqa 11 0 + 1,
                                   cq := ctrlCq link 0 }
  let cq := { NvmeQueue.fresh with enable := true, cqBase := x.acq / 4096 * 4096, cqSize := bitField x.aqa 27 16 + 1,
                                   signals := true }
  ((s.setNvq (ctrlSq link 0) sq).setNvq (ctrlCq link 0) cq).setCtrl link { x with ready := true }

/-- A write of CC: EN 1 makes the controller ready, EN 0 resets it; AMS and CSS hold 0 (R443).
[PRESUMED: log entry 66] -/
def State.writeCc (s : State) (link v : Nat) : State :=
  let x := s.ctrl link
  let cc := v % 2 ^ 24 - bitField v 13 11 * 2 ^ 11 - bitField v 6 4 * 2 ^ 4 - bitField v 3 1 * 2
  if bitOf v 0 then
    let t := s.setCtrl link { x with cc := cc }
    if bitOf x.cc 0 then t else t.enableCtrl link
  else if bitOf x.cc 0 then
    let t := (s.abandonReads (fun r => r.kind == .storage && decide (2 ^ 40 ≤ r.queue) && nvqLink r.queue == link)).resetCtrl link
    t.setCtrl link { t.ctrl link with cc := cc, aqa := x.aqa, asq := x.asq, acq := x.acq }
  else s.setCtrl link { x with cc := cc }

/-- A write of a register of controller 0. AQA, ASQ and ACQ are written while it is disabled.
[PRESUMED: log entry 66] -/
def State.nvmeWrite (s : State) (link n v : Nat) : State :=
  let x := s.ctrl link
  if n = 0x14 then s.writeCc link v
  else if bitOf x.cc 0 then s
  else if n = 0x24 then s.setCtrl link { x with aqa := v &&& 0x0FFF0FFF }
  else if n = 0x28 then s.setCtrl link { x with asq := v }
  else if n = 0x30 then s.setCtrl link { x with acq := v }
  else s

/-- A write of a slice control block (R426, R427, R430, R433, R434, R436): `v` is the block with the bytes written laid
over it, `low` says that bits [63:32] were among them. -/
def State.sliceWrite (s : State) (k : SliceRef) (v : Nat) (low : Bool) (off : Nat) : State :=
  let f := srFn k
  let n := k.slice.val
  let b := s.block f n
  let s1 := s.setBlock f n { b with descriptor := bitField v 127 69 * 32, pasid := if b.bound then b.pasid else bitField v 63 44 }
  if low = false then s1
  else
    let asked := match (b.due.filter (fun d => d.1 != 2)).getLast? with | some d => d.1 == 1 | none => b.logEnable
    let s2 := if bitOf v 43 && !b.bound then s1.does (execBound k (BitVec.ofNat 20 (bitField v 63 44)))
      else if !bitOf v 43 && b.bound then s1.does (execUnbind k) else s1
    let s3 := if bitOf v 41 then s2.does (execSliceReset k) else s2
    let s4 := if bitOf v 39 == b.quiesce then s3 else s3.does (execQuiesce k (bitOf v 39))
    let s5 := if bitOf v 37 == asked then s4 else s4.does (execDirtyLogEnable k (bitOf v 37) off)
    if bitOf v 36 then s5.does (execDirtyFlip k off) else s5

/-- A write of a network queue context (R398, R399): the fields while Enable is 0; then Enable.
[DESIGN CHOICE: log entries 114, 116] -/
def State.contextWrite (s : State) (k : QueueRef) (v : Nat) : State :=
  let key := qrKey k
  let q := s.qp key
  if q.enable then (if bitOf v 307 then s else s.does (execQueueDisable k))
  else
    let s1 := s.setQp key { q with
      txBase := bitField v 511 448, rxBase := bitField v 447 384, cqBase := bitField v 383 320, txLog := bitField v 319 316
      rxLog := bitField v 315 312, cqLog := bitField v 311 308, launchTime := bitOf v 306, txPort := bitField v 303 296
      coalesceCourses := bitField v 295 288, coalesceCount := bitField v 287 280, vector := bitField v 279 274 }
    if bitOf v 307 then s1.does (execQueueEnable k) else s1

/-- A write of a slice controller's queue context (R444). -/
def State.nvmeContextWrite (s : State) (k : QueueRef) (v : Nat) : State :=
  let key := qrKey k
  let q := s.nvq key
  if q.enable then (if bitOf v 373 then s else s.does (execNvmeQueueEnable k false))
  else
    let s1 := s.setNvq key { q with
      sqBase := bitField v 511 448, cqBase := bitField v 447 384, sqSize := nvmeSize (bitField v 383 379)
      cqSize := nvmeSize (bitField v 378 374), vector := bitField v 370 365, coalesceCourses := bitField v 364 357
      coalesceCount := bitField v 356 349 }
    if bitOf v 373 then s1.does (execNvmeQueueEnable k true) else s1

/-- A write of a peer window (R415): the shadow fields, ignored and counted while a commit is pending, then Commit. -/
def State.peerWrite (s : State) (link : Fin 4) (w : Fin 64) (v i n off : Nat) : State :=
  let x := s.window (link.val / 2) w
  let commit := bitOf v 335 && decide (i ≤ 41 ∧ 41 < i + n)
  let shadowed := decide (42 < i + n)
  let new := bitField v 511 438 * 2 ^ 182 + bitField v 431 336 * 2 ^ 80
  if (s.windowsOf link).contains w.val = false then s
  else
    let s1 := if !shadowed then s
      else if x.pending then s.bump (Od.shadowWriteBusy (4 * link.val + 1))
      else s.setWindow (link.val / 2) w { x with shadow := new }
    if commit then s1.does (execPeerWindowCommit link w off) else s1

/-- An entry as written. -/
def imsOf (v : Nat) (pending : Bool) : ImsEntry :=
  { addr := v % 2 ^ 64, data := bitField v 95 64, masked := bitOf v 96, pending := pending }

/-- A write of an MSI-X table entry: one that pended is sent when it is unmasked (R418). -/
def State.msixWrite (s : State) (f n v : Nat) : State :=
  let x := s.hostFn f
  let e := imsOf v (tblGet ImsEntry.fresh x.msix n).pending
  let t := s.setHostFn f { x with msix := tblSet ImsEntry.fresh x.msix n e }
  if e.pending && !e.masked then t.msixInterrupt f n else t

/-- A write of an interrupt-store entry (R419). -/
def State.storeWrite (s : State) (f n v : Nat) : State :=
  let x := s.hostFn f
  let e := imsOf v (tblGet ImsEntry.fresh x.store n).pending
  if e.pending && !e.masked then
    let (t, e1) := s.message f e false
    t.setHostFn f { t.hostFn f with store := tblSet ImsEntry.fresh (t.hostFn f).store n e1 }
  else s.setHostFn f { x with store := tblSet ImsEntry.fresh x.store n e }

/-- A doorbell of a slice area (R400, R444, R479). [DESIGN CHOICE: log entry 116] -/
def State.doorbellWrite (s : State) (link fn : Fin 4) (slice : Fin 4096) (q : Fin 64) (at_ v : Nat) : State :=
  let k : QueueRef := { link := link, fn := fn, slice := slice, q := q }
  let i := BitVec.ofNat 16 v
  if fn.val = 2 then
    let r := NvmeQ.slice link slice q
    s.does (if at_ = 0 then execSqTail r i else execNvmeCqHead r i (bitOf v 31))
  else if at_ = 0 then s.does (execTxTail k i)
  else if at_ = 4 then s.does (execRxTail k i)
  else if at_ = 8 then s.does (execCqHead k i (bitOf v 31))
  else
    let number := BitVec.ofNat 24 (bitField v 55 32)
    match bitField v 63 62 with
    | 0 => s.does (execSendQueueTail link slice number i)
    | 1 => s.does (execReceiveQueueTail link slice number i)
    | 2 => s.does (execCompletionQueueHead link slice number i)
    | _ => s.does (execCompletionQueueHeadArmed link slice number i)

/-- A doorbell of controller 0: tails at even, heads at odd numbers (CAP.DSTRD 0). -/
def State.nvmeDoorbellWrite (s : State) (link : Fin 4) (n v : Nat) : State :=
  let r := NvmeQ.ctrl link (Fin.ofNat 65 (n / 2))
  s.does (if n % 2 = 0 then execSqTail r (BitVec.ofNat 16 v) else execNvmeCqHead r (BitVec.ofNat 16 v) false)

/-- A write of a mailbox register (R549). -/
def State.mailboxWrite (s : State) (link : Fin 4) (n v : Nat) : State :=
  let x := s.mailbox link
  match n with
  | 0 => if v = 1 then s.does (execMailboxDoorbell link) else s
  | 1 => if bitOf v 1 then s.setMailbox link { x with responseReady := false } else s
  | 2 => s.setMailbox link { x with requestLength := v }
  | _ => s

/-- A write to a register: `i` is the place of the bytes in it, `v` its value with them laid over.
[DESIGN CHOICE: log entries 116, 117] -/
def State.regWrite (s : State) (link fn : Fin 4) (r : Reg) (i : Nat) (bs : List Byte) (v off : Nat) : State :=
  let f := 4 * link.val + fn.val
  let x := s.ring link
  match r with
  | .mailbox n => s.mailboxWrite link n (leNat bs)
  | .request n =>
    let m := s.mailbox link
    s.setMailbox link { m with request := overlay m.request (n + i) bs }
  | .response _ => s
  | .nvme n => s.nvmeWrite link n v
  | .nvmeDoorbell n => s.nvmeDoorbellWrite link n (leNat bs)
  | .clock _ => s
  | .ringBase => s.setRing link { x with base := v }
  | .ringControl => s.does (execEventRingEnable link (BitVec.ofNat 32 v))
  | .ringHead => s.does (execEventHead link (BitVec.ofNat 32 v))
  | .ringVector => s.setRing link { x with vector := v % 2048 }
  | .pinReg n at_ => s.does (execPinBlockWrite link (Fin.ofNat 32 n) (Fin.ofNat 64 (at_ + i)) bs off)
  | .block _ => s
  | .sliceControl n =>
    if fn.val = 0 then s
    else s.sliceWrite { link := link, fn := fn, slice := Fin.ofNat 4096 n } v (decide (i < 8 ∧ 4 < i + bs.length)) off
  | .imsWindow n =>
    if fn.val = 0 then s
    else s.setHostFn f { s.hostFn f with windows := tblSet 0 (s.hostFn f).windows n (v &&& 0x3FFF007F) }
  | .peer w => s.peerWrite link (Fin.ofNat 64 w) v i bs.length off
  | .msix n => s.msixWrite f n v
  | .pba => s
  | .store n => s.storeWrite f n v
  | .doorbell n q at_ =>
    if s.sliceArea f n && !(at_ == 16 && bs.length == 4) then
      s.doorbellWrite link fn (Fin.ofNat 4096 n) (Fin.ofNat 64 q) at_ (leNat bs)
    else s
  | .context n q =>
    let k : QueueRef := { link := link, fn := fn, slice := Fin.ofNat 4096 n, q := Fin.ofNat 64 q }
    if !s.sliceArea f n then s
    else if fn.val = 2 then s.nvmeContextWrite k v
    else s.contextWrite k v

/-! ### READ and WRITE (R397, R409, R532) -/

/-- The function answers a memory request to a BAR: PF2 is not there in mode 6 (R468), and only PF1 has BAR4.
[DESIGN CHOICE: log entry 54] -/
def State.barAnswers (s : State) (a : RegRef) : Bool :=
  s.answers (4 * a.link.val + a.fn.val) && !(a.fn.val == 2 && s.rd Od.modeInForce == 6)
    && !(a.bar.val == 1 && a.fn.val == 0) && decide (a.offset < 2 ^ barLog a.fn.val a.bar.val)

/-- A read of a register. -/
def State.readReg (s0 : State) (a : RegRef) (len off : Nat) : State :=
  let s := s0.moveTo off
  let f := 4 * a.link.val + a.fn.val
  if !s.linkPresent a.link || !s.hostLinkUp a.link then s
  else if a.bar.val = 2 ∧ a.fn.val = 1 then s.does (execPeerApertureRequest a.link a.offset 0 (.read len))
  else if !s.barAnswers a then s.unsupported f
  else
    let zero := (s.bump (Od.misalignedAccess f)).emit (.completion a.link a.fn 0 (leBytes len 0))
    match regAt a.fn a.bar a.offset with
    | none => zero
    | some p =>
      if !accessOk p a.offset len then zero
      else if p.reg = .clock 0 then s.does (execTimeLow a.link off)
      else
        let (t, v) := s.regValue f p.reg
        t.emit (.completion a.link a.fn 0 (leBytes len (v / 256 ^ (a.offset - p.base))))

/-- A write of a register. -/
def State.writeReg (s0 : State) (a : RegRef) (bs : List Byte) (off : Nat) : State :=
  let s := s0.moveTo off
  let f := 4 * a.link.val + a.fn.val
  if !s.linkPresent a.link || !s.hostLinkUp a.link then s
  else if a.bar.val = 2 ∧ a.fn.val = 1 then s.does (execPeerApertureRequest a.link a.offset 0 (.write bs))
  else if !s.barAnswers a then s
  else match regAt a.fn a.bar a.offset with
    | none => s.bump (Od.misalignedAccess f)
    | some p =>
      if !accessOk p a.offset bs.length then s.bump (Od.misalignedAccess f)
      else
        let i := a.offset - p.base
        let v := leNat (overlay (leBytes p.size (s.regValue f p.reg).2) i bs)
        s.regWrite a.link a.fn p.reg i bs v off

/-- READ (R532): of a dictionary entry, or of a register (R397). -/
def execBlpRead (target : ReadTarget) (s : State) : Res :=
  .next (match target with
    | .entry r key => s.request r (.read key.toNat)
    | .reg a len off => s.readReg a len off)

/-- WRITE (R532): of a dictionary entry or a register that has no command of its own. -/
def execBlpWrite (target : WriteTarget) (s : State) : Res :=
  .next (match target with
    | .entry r key v => s.request r (.write key.toNat v false)
    | .reg a bs off => s.writeReg a bs off)

end Sys2Proof.Machine
end

