-- ==== Sys2Proof/Machine/Dispatch.lean ====
section
/-! DEFINITION. Machine/Dispatch.lean: one arm per command, each one direct call of its meaning. -/

namespace Sys2Proof.Machine

/-- The effect of a command on everything but the queue. -/
def exec (i : Instr) (s : State) : Host.Outcome State Fault Refusal :=
  match i with
  | .releaseOfReset u => Sys2Proof.Machine.execReleaseOfReset u s
  | .warmUpComplete u => Sys2Proof.Machine.execWarmUpComplete u s
  | .resetStart => Sys2Proof.Machine.execResetStart s
  | .resetGlitch => Sys2Proof.Machine.execResetGlitch s
  | .railUndervoltage rail held => Sys2Proof.Machine.execRailUndervoltage rail held s
  | .temperatureRead tiles hbm => Sys2Proof.Machine.execTemperatureRead tiles hbm s
  | .thermalTrip t => Sys2Proof.Machine.execThermalTrip t s
  | .thermalReset => Sys2Proof.Machine.execThermalReset s
  | .refclkSysLost => Sys2Proof.Machine.execRefclkSysLost s
  | .refclkSysRestored => Sys2Proof.Machine.execRefclkSysRestored s
  | .refclkTimeLost => Sys2Proof.Machine.execRefclkTimeLost s
  | .refclkTimeReturn frequency => Sys2Proof.Machine.execRefclkTimeReturn frequency s
  | .perstRelease port strap => Sys2Proof.Machine.execPerstRelease port strap s
  | .hostLinkReset link => Sys2Proof.Machine.execHostLinkReset link s
  | .courseBoundary => Sys2Proof.Machine.execCourseBoundary s
  | .courseHandler e => Sys2Proof.Machine.execCourseHandler e s
  | .counterSnapshot => Sys2Proof.Machine.execCounterSnapshot s
  | .sampleMessage p => Sys2Proof.Machine.execSampleMessage p s
  | .phaseDetectorReading lane reading => Sys2Proof.Machine.execPhaseDetectorReading lane reading s
  | .ppsEdge input off held => Sys2Proof.Machine.execPpsEdge input off held s
  | .sourceTimeout source => Sys2Proof.Machine.execSourceTimeout source s
  | .sourceQualified source => Sys2Proof.Machine.execSourceQualified source s
  | .holdoverLimit => Sys2Proof.Machine.execHoldoverLimit s
  | .leapSecond => Sys2Proof.Machine.execLeapSecond s
  | .sync p off h origin egress => Sys2Proof.Machine.execSync p off h origin egress s
  | .followUp p off h origin => Sys2Proof.Machine.execFollowUp p off h origin s
  | .delayReq p off h egress => Sys2Proof.Machine.execDelayReq p off h egress s
  | .delayResp p off h receive => Sys2Proof.Machine.execDelayResp p off h receive s
  | .pdelayReq p off h egress => Sys2Proof.Machine.execPdelayReq p off h egress s
  | .pdelayResp p off h requestReceipt egress => Sys2Proof.Machine.execPdelayResp p off h requestReceipt egress s
  | .pdelayRespFollowUp p off h responseOrigin => Sys2Proof.Machine.execPdelayRespFollowUp p off h responseOrigin s
  | .announce p off h body => Sys2Proof.Machine.execAnnounce p off h body s
  | .signaling p off h body => Sys2Proof.Machine.execSignaling p off h body s
  | .managementMessage p off h => Sys2Proof.Machine.execManagementMessage p off h s
  | .syncTransmit p off => Sys2Proof.Machine.execSyncTransmit p off s
  | .announceTransmit p off => Sys2Proof.Machine.execAnnounceTransmit p off s
  | .delayReqTransmit p off => Sys2Proof.Machine.execDelayReqTransmit p off s
  | .announceReceiptTimeout p => Sys2Proof.Machine.execAnnounceReceiptTimeout p s
  | .negotiationTime p => Sys2Proof.Machine.execNegotiationTime p s
  | .negotiationRetry p => Sys2Proof.Machine.execNegotiationRetry p s
  | .esmc p quality => Sys2Proof.Machine.execEsmc p quality s
  | .holdOffTime => Sys2Proof.Machine.execHoldOffTime s
  | .waitToRestore lane => Sys2Proof.Machine.execWaitToRestore lane s
  | .timeStepOffset r v => Sys2Proof.Machine.execTimeStepOffset r v s
  | .timeSet r v => Sys2Proof.Machine.execTimeSet r v s
  | .tioEdge n off held rising => Sys2Proof.Machine.execTioEdge n off held rising s
  | .expectTimeout n => Sys2Proof.Machine.execExpectTimeout n s
  | .genCommit r n v => Sys2Proof.Machine.execGenCommit r n v s
  | .generatedEdge n off => Sys2Proof.Machine.execGeneratedEdge n off s
  | .tioOwner r n v => Sys2Proof.Machine.execTioOwner r n v s
  | .courseCommit r length => Sys2Proof.Machine.execCourseCommit r length s
  | .operatingMode r v coresStopped => Sys2Proof.Machine.execOperatingMode r v coresStopped s
  | .pcMigrationComplete => Sys2Proof.Machine.execPcMigrationComplete s
  | .safeModeEnter r => Sys2Proof.Machine.execSafeModeEnter r s
  | .safeModeLeave r target coresStopped => Sys2Proof.Machine.execSafeModeLeave r target coresStopped s
  | .portEnable r p v => Sys2Proof.Machine.execPortEnable r p v s
  | .laneGrouping r t v => Sys2Proof.Machine.execLaneGrouping r t v s
  | .clause73Page p abilities rsFec rs544 => Sys2Proof.Machine.execClause73Page p abilities rsFec rs544 s
  | .anAttemptTimeout p => Sys2Proof.Machine.execAnAttemptTimeout p s
  | .anRetryInterval p => Sys2Proof.Machine.execAnRetryInterval p s
  | .trainingComplete p => Sys2Proof.Machine.execTrainingComplete p s
  | .lockAndAlignment p => Sys2Proof.Machine.execLockAndAlignment p s
  | .trainingTimeout p => Sys2Proof.Machine.execTrainingTimeout p s
  | .linkUpHold p => Sys2Proof.Machine.execLinkUpHold p s
  | .linkDownCondition p off cause => Sys2Proof.Machine.execLinkDownCondition p off cause s
  | .linkDownHold p good => Sys2Proof.Machine.execLinkDownHold p good s
  | .lldpdu p off rx body => Sys2Proof.Machine.execLldpdu p off rx body s
  | .lldpTxInterval p => Sys2Proof.Machine.execLldpTxInterval p s
  | .lldpTtlExpiry p => Sys2Proof.Machine.execLldpTtlExpiry p s
  | .pause p rx => Sys2Proof.Machine.execPause p rx s
  | .pfc p off rx enable quanta => Sys2Proof.Machine.execPfc p off rx enable quanta s
  | .pfcPauseExpiry p c off => Sys2Proof.Machine.execPfcPauseExpiry p c off s
  | .frameReceive p off bytes fcsGood => Sys2Proof.Machine.execFrameReceive p off bytes fcsGood s
  | .firstBrickArrival id dst off => Sys2Proof.Machine.execFirstBrickArrival id dst off s
  | .pfcRefresh p c => Sys2Proof.Machine.execPfcRefresh p c s
  | .parkedFrameMove p c off => Sys2Proof.Machine.execParkedFrameMove p c off s
  | .selection p off => Sys2Proof.Machine.execSelection p off s
  | .launchDue p off => Sys2Proof.Machine.execLaunchDue p off s
  | .transmitEnd p off => Sys2Proof.Machine.execTransmitEnd p off s
  | .gateEvent p off => Sys2Proof.Machine.execGateEvent p off s
  | .gateControlList r p bytes => Sys2Proof.Machine.execGateControlList r p bytes s
  | .policerUpdate r t index entry => Sys2Proof.Machine.execPolicerUpdate r t index entry s
  | .policerQuery r t index => Sys2Proof.Machine.execPolicerQuery r t index s
  | .fdbInsertOrReplace r entry => Sys2Proof.Machine.execFdbInsertOrReplace r entry s
  | .fdbDelete r entry => Sys2Proof.Machine.execFdbDelete r entry s
  | .fdbPurge r fid gen => Sys2Proof.Machine.execFdbPurge r fid gen s
  | .fdbRestamp r fid gen => Sys2Proof.Machine.execFdbRestamp r fid gen s
  | .fdbQuery r key => Sys2Proof.Machine.execFdbQuery r key s
  | .fdbSweep r first count => Sys2Proof.Machine.execFdbSweep r first count s
  | .wallHello p off h => Sys2Proof.Machine.execWallHello p off h s
  | .helloInterval off => Sys2Proof.Machine.execHelloInterval off s
  | .neighbourLost p device => Sys2Proof.Machine.execNeighbourLost p device s
  | .wallSync p off h records => Sys2Proof.Machine.execWallSync p off h records s
  | .syncAcknowledgement p off h => Sys2Proof.Machine.execSyncAcknowledgement p off h s
  | .resyncRequest p off h => Sys2Proof.Machine.execResyncRequest p off h s
  | .nodeForgetTime pair mac => Sys2Proof.Machine.execNodeForgetTime pair mac s
  | .redundancyDegraded pair => Sys2Proof.Machine.execRedundancyDegraded pair s
  | .ternaryInsert r t record => Sys2Proof.Machine.execTernaryInsert r t record s
  | .ternaryReplace r t record => Sys2Proof.Machine.execTernaryReplace r t record s
  | .ternaryDelete r t pipeline rule => Sys2Proof.Machine.execTernaryDelete r t pipeline rule s
  | .ternaryQuery r t rule => Sys2Proof.Machine.execTernaryQuery r t rule s
  | .exactInsertOrReplace r x key action => Sys2Proof.Machine.execExactInsertOrReplace r x key action s
  | .exactDelete r x key => Sys2Proof.Machine.execExactDelete r x key s
  | .exactQuery r x key => Sys2Proof.Machine.execExactQuery r x key s
  | .exactSweep r x first count => Sys2Proof.Machine.execExactSweep r x first count s
  | .epochCleanup exact n => Sys2Proof.Machine.execEpochCleanup exact n s
  | .trowelDispatch e off => Sys2Proof.Machine.execTrowelDispatch e off s
  | .trowelNop e m => Sys2Proof.Machine.execTrowelNop e m s
  | .trowelLdi e m => Sys2Proof.Machine.execTrowelLdi e m s
  | .trowelLdh e m => Sys2Proof.Machine.execTrowelLdh e m s
  | .trowelMov e m => Sys2Proof.Machine.execTrowelMov e m s
  | .trowelAdd e m => Sys2Proof.Machine.execTrowelAdd e m s
  | .trowelSub e m => Sys2Proof.Machine.execTrowelSub e m s
  | .trowelAddi e m => Sys2Proof.Machine.execTrowelAddi e m s
  | .trowelAnd e m => Sys2Proof.Machine.execTrowelAnd e m s
  | .trowelOr e m => Sys2Proof.Machine.execTrowelOr e m s
  | .trowelXor e m => Sys2Proof.Machine.execTrowelXor e m s
  | .trowelAndi e m => Sys2Proof.Machine.execTrowelAndi e m s
  | .trowelShl e m => Sys2Proof.Machine.execTrowelShl e m s
  | .trowelShr e m => Sys2Proof.Machine.execTrowelShr e m s
  | .trowelCmp e m => Sys2Proof.Machine.execTrowelCmp e m s
  | .trowelCmpi e m => Sys2Proof.Machine.execTrowelCmpi e m s
  | .trowelHash e m => Sys2Proof.Machine.execTrowelHash e m s
  | .trowelLdf e m => Sys2Proof.Machine.execTrowelLdf e m s
  | .trowelStf e m => Sys2Proof.Machine.execTrowelStf e m s
  | .trowelIns e m => Sys2Proof.Machine.execTrowelIns e m s
  | .trowelDel e m => Sys2Proof.Machine.execTrowelDel e m s
  | .trowelCsum e m => Sys2Proof.Machine.execTrowelCsum e m s
  | .trowelTsw e m => Sys2Proof.Machine.execTrowelTsw e m s
  | .trowelLdm e m => Sys2Proof.Machine.execTrowelLdm e m s
  | .trowelStm e m => Sys2Proof.Machine.execTrowelStm e m s
  | .trowelLds e m => Sys2Proof.Machine.execTrowelLds e m s
  | .trowelSts e m => Sys2Proof.Machine.execTrowelSts e m s
  | .trowelAad e m => Sys2Proof.Machine.execTrowelAad e m s
  | .trowelBr e m => Sys2Proof.Machine.execTrowelBr e m s
  | .trowelFwd e m => Sys2Proof.Machine.execTrowelFwd e m s
  | .trowelEvt e m => Sys2Proof.Machine.execTrowelEvt e m s
  | .trowelTrap e m => Sys2Proof.Machine.execTrowelTrap e m s
  | .trowelDrop e m => Sys2Proof.Machine.execTrowelDrop e m s
  | .trowelEnd e m => Sys2Proof.Machine.execTrowelEnd e m s
  | .loadOrReplace r t pipeline entry words => Sys2Proof.Machine.execLoadOrReplace r t pipeline entry words s
  | .remove r t pipeline entry => Sys2Proof.Machine.execRemove r t pipeline entry s
  | .microcodePatch r bytes => Sys2Proof.Machine.execMicrocodePatch r bytes s
  | .patchSwitch e => Sys2Proof.Machine.execPatchSwitch e s
  | .stateMemory r t pipeline address words => Sys2Proof.Machine.execStateMemory r t pipeline address words s
  | .spareSubstitution e => Sys2Proof.Machine.execSpareSubstitution e s
  | .trowelEngineLost e => Sys2Proof.Machine.execTrowelEngineLost e s
  | .keyLoad r record => Sys2Proof.Machine.execKeyLoad r record s
  | .keyErase r slot => Sys2Proof.Machine.execKeyErase r slot s
  | .keySlotOwner r slot kind slice => Sys2Proof.Machine.execKeySlotOwner r slot kind slice s
  | .keySlotInfo r slot => Sys2Proof.Machine.execKeySlotInfo r slot s
  | .gcmEncrypt q => Sys2Proof.Machine.execGcmEncrypt q s
  | .gcmDecrypt q => Sys2Proof.Machine.execGcmDecrypt q s
  | .gmacGenerate q => Sys2Proof.Machine.execGmacGenerate q s
  | .gmacVerify q => Sys2Proof.Machine.execGmacVerify q s
  | .xtsEncrypt q => Sys2Proof.Machine.execXtsEncrypt q s
  | .xtsDecrypt q => Sys2Proof.Machine.execXtsDecrypt q s
  | .cmacGenerate q => Sys2Proof.Machine.execCmacGenerate q s
  | .cmacVerify q => Sys2Proof.Machine.execCmacVerify q s
  | .sha384 q => Sys2Proof.Machine.execSha384 q s
  | .hmacGenerate q => Sys2Proof.Machine.execHmacGenerate q s
  | .hmacVerify q => Sys2Proof.Machine.execHmacVerify q s
  | .unwrapKey q => Sys2Proof.Machine.execUnwrapKey q s
  | .cipherResume t => Sys2Proof.Machine.execCipherResume t s
  | .lookAsideCompletion t id => Sys2Proof.Machine.execLookAsideCompletion t id s
  | .hodAlloc n c => Sys2Proof.Machine.execHodAlloc n c s
  | .hodRelease n c => Sys2Proof.Machine.execHodRelease n c s
  | .hodFree n c => Sys2Proof.Machine.execHodFree n c s
  | .hodAddref n c => Sys2Proof.Machine.execHodAddref n c s
  | .hodTransfer n c => Sys2Proof.Machine.execHodTransfer n c s
  | .hodQuery n c => Sys2Proof.Machine.execHodQuery n c s
  | .configurationRequest link fn reg value => Sys2Proof.Machine.execConfigurationRequest link fn reg value s
  | .queueEnable k => Sys2Proof.Machine.execQueueEnable k s
  | .queueDisable k => Sys2Proof.Machine.execQueueDisable k s
  | .queueResetComplete k => Sys2Proof.Machine.execQueueResetComplete k s
  | .txTail k index => Sys2Proof.Machine.execTxTail k index s
  | .rxTail k index => Sys2Proof.Machine.execRxTail k index s
  | .cqHead k index arm => Sys2Proof.Machine.execCqHead k index arm s
  | .descriptorFetch k receive => Sys2Proof.Machine.execDescriptorFetch k receive s
  | .hostReceiveDelivery k off poisoned => Sys2Proof.Machine.execHostReceiveDelivery k off poisoned s
  | .interruptCoalesce k => Sys2Proof.Machine.execInterruptCoalesce k s
  | .eventRingEnable link value => Sys2Proof.Machine.execEventRingEnable link value s
  | .eventHead link value => Sys2Proof.Machine.execEventHead link value s
  | .timeLow link off => Sys2Proof.Machine.execTimeLow link off s
  | .pinBlockWrite link n offset bytes off => Sys2Proof.Machine.execPinBlockWrite link n offset bytes off s
  | .busMasterEnableClear link fn => Sys2Proof.Machine.execBusMasterEnableClear link fn s
  | .busMasterEnableSet link fn => Sys2Proof.Machine.execBusMasterEnableSet link fn s
  | .initiateFunctionLevelReset link fn => Sys2Proof.Machine.execInitiateFunctionLevelReset link fn s
  | .functionResetComplete link fn => Sys2Proof.Machine.execFunctionResetComplete link fn s
  | .peerWindowCommit link w off => Sys2Proof.Machine.execPeerWindowCommit link w off s
  | .peerApertureRequest link offset requester a => Sys2Proof.Machine.execPeerApertureRequest link offset requester a s
  | .atomicOp link fn => Sys2Proof.Machine.execAtomicOp link fn s
  | .poisonedWrite link fn => Sys2Proof.Machine.execPoisonedWrite link fn s
  | .vendorDefinedMessage link fn => Sys2Proof.Machine.execVendorDefinedMessage link fn s
  | .unexpectedCompletion link fn tag => Sys2Proof.Machine.execUnexpectedCompletion link fn tag s
  | .completion link fn tag status poisoned data => Sys2Proof.Machine.execCompletion link fn tag status poisoned data s
  | .completionTimeout link tag => Sys2Proof.Machine.execCompletionTimeout link tag s
  | .sliceResourceSet r slice record => Sys2Proof.Machine.execSliceResourceSet r slice record s
  | .sliceQuery r slice => Sys2Proof.Machine.execSliceQuery r slice s
  | .sliceState r slice link fn records => Sys2Proof.Machine.execSliceState r slice link fn records s
  | .bound k pasid => Sys2Proof.Machine.execBound k pasid s
  | .unbind k => Sys2Proof.Machine.execUnbind k s
  | .sliceReset k => Sys2Proof.Machine.execSliceReset k s
  | .sliceResetComplete k => Sys2Proof.Machine.execSliceResetComplete k s
  | .quiesce k on => Sys2Proof.Machine.execQuiesce k on s
  | .sliceQuiesced k => Sys2Proof.Machine.execSliceQuiesced k s
  | .dirtyLogEnable k on off => Sys2Proof.Machine.execDirtyLogEnable k on off s
  | .dirtyFlip k off => Sys2Proof.Machine.execDirtyFlip k off s
  | .flipComplete k => Sys2Proof.Machine.execFlipComplete k s
  | .createIoSq id => Sys2Proof.Machine.execCreateIoSq id s
  | .deleteIoSq id => Sys2Proof.Machine.execDeleteIoSq id s
  | .createIoCq id => Sys2Proof.Machine.execCreateIoCq id s
  | .deleteIoCq id => Sys2Proof.Machine.execDeleteIoCq id s
  | .getLogPage id => Sys2Proof.Machine.execGetLogPage id s
  | .nvmeIdentify id => Sys2Proof.Machine.execNvmeIdentify id s
  | .nvmeAbort id => Sys2Proof.Machine.execNvmeAbort id s
  | .setFeatures id => Sys2Proof.Machine.execSetFeatures id s
  | .getFeatures id => Sys2Proof.Machine.execGetFeatures id s
  | .asynchronousEventRequest id => Sys2Proof.Machine.execAsynchronousEventRequest id s
  | .invalidCommandOpcode id => Sys2Proof.Machine.execInvalidCommandOpcode id s
  | .nvmeFlush id => Sys2Proof.Machine.execNvmeFlush id s
  | .nvmeWrite id => Sys2Proof.Machine.execNvmeWrite id s
  | .nvmeRead id => Sys2Proof.Machine.execNvmeRead id s
  | .writeZeroes id => Sys2Proof.Machine.execWriteZeroes id s
  | .datasetManagement id => Sys2Proof.Machine.execDatasetManagement id s
  | .sqTail q index => Sys2Proof.Machine.execSqTail q index s
  | .nvmeCqHead q index arm => Sys2Proof.Machine.execNvmeCqHead q index arm s
  | .nvmeQueueEnable k on => Sys2Proof.Machine.execNvmeQueueEnable k on s
  | .commandFetch t off => Sys2Proof.Machine.execCommandFetch t off s
  | .rangeLockGrant id => Sys2Proof.Machine.execRangeLockGrant id s
  | .writeBackComplete n seq => Sys2Proof.Machine.execWriteBackComplete n seq s
  | .backingCompletion t target id good data => Sys2Proof.Machine.execBackingCompletion t target id good data s
  | .backingTimeout id => Sys2Proof.Machine.execBackingTimeout id s
  | .ssdLinkUp n acceptable exlat => Sys2Proof.Machine.execSsdLinkUp n acceptable exlat s
  | .ssdInboundRequest n target nonPosted => Sys2Proof.Machine.execSsdInboundRequest n target nonPosted s
  | .surpriseRemoval n => Sys2Proof.Machine.execSurpriseRemoval n s
  | .reconnectInterval k reached => Sys2Proof.Machine.execReconnectInterval k reached s
  | .keepAlive k answered => Sys2Proof.Machine.execKeepAlive k answered s
  | .apstIdleTimer link => Sys2Proof.Machine.execApstIdleTimer link s
  | .namespaceRecord r n record => Sys2Proof.Machine.execNamespaceRecord r n record s
  | .namespaceReady n => Sys2Proof.Machine.execNamespaceReady n s
  | .qpCreate r record => Sys2Proof.Machine.execQpCreate r record s
  | .qpModify r record => Sys2Proof.Machine.execQpModify r record s
  | .qpDestroy r record => Sys2Proof.Machine.execQpDestroy r record s
  | .cqCreate r record => Sys2Proof.Machine.execCqCreate r record s
  | .cqDestroy r record => Sys2Proof.Machine.execCqDestroy r record s
  | .ahCreate r record => Sys2Proof.Machine.execAhCreate r record s
  | .ahDestroy r record => Sys2Proof.Machine.execAhDestroy r record s
  | .regionRegister r record => Sys2Proof.Machine.execRegionRegister r record s
  | .regionDeregister r record => Sys2Proof.Machine.execRegionDeregister r record s
  | .regionFree index => Sys2Proof.Machine.execRegionFree index s
  | .rdmaQuery r kind number => Sys2Proof.Machine.execRdmaQuery r kind number s
  | .sendQueueTail link slice number index => Sys2Proof.Machine.execSendQueueTail link slice number index s
  | .receiveQueueTail link slice number index => Sys2Proof.Machine.execReceiveQueueTail link slice number index s
  | .completionQueueHead link slice number index => Sys2Proof.Machine.execCompletionQueueHead link slice number index s
  | .completionQueueHeadArmed link slice number index => Sys2Proof.Machine.execCompletionQueueHeadArmed link slice number index s
  | .rdmaSend qpn => Sys2Proof.Machine.execRdmaSend qpn s
  | .sendWithImmediate qpn => Sys2Proof.Machine.execSendWithImmediate qpn s
  | .rdmaWrite qpn => Sys2Proof.Machine.execRdmaWrite qpn s
  | .rdmaWriteWithImmediate qpn => Sys2Proof.Machine.execRdmaWriteWithImmediate qpn s
  | .rdmaRead qpn => Sys2Proof.Machine.execRdmaRead qpn s
  | .compareAndSwap qpn => Sys2Proof.Machine.execCompareAndSwap qpn s
  | .fetchAndAdd qpn => Sys2Proof.Machine.execFetchAndAdd qpn s
  | .rdmaFlush qpn => Sys2Proof.Machine.execRdmaFlush qpn s
  | .rdmaWait qpn => Sys2Proof.Machine.execRdmaWait qpn s
  | .waitRelease qpn => Sys2Proof.Machine.execWaitRelease qpn s
  | .rocev2Packet p off bytes => Sys2Proof.Machine.execRocev2Packet p off bytes s
  | .rdmaAck p off bytes => Sys2Proof.Machine.execRdmaAck p off bytes s
  | .nakPsnSequenceError p off bytes => Sys2Proof.Machine.execNakPsnSequenceError p off bytes s
  | .rnrNak p off bytes => Sys2Proof.Machine.execRnrNak p off bytes s
  | .rdmaCnp p off bytes => Sys2Proof.Machine.execRdmaCnp p off bytes s
  | .localAckTimeout qpn => Sys2Proof.Machine.execLocalAckTimeout qpn s
  | .rnrTimer qpn => Sys2Proof.Machine.execRnrTimer qpn s
  | .delayFallback qpn => Sys2Proof.Machine.execDelayFallback qpn s
  | .pfcStorm p c => Sys2Proof.Machine.execPfcStorm p c s
  | .stormRestore p c => Sys2Proof.Machine.execStormRestore p c s
  | .signedCommand r bytes coresStopped => Sys2Proof.Machine.execSignedCommand r bytes coresStopped s
  | .imageDownload r first last offset total data => Sys2Proof.Machine.execImageDownload r first last offset total data s
  | .imageCommit r slot => Sys2Proof.Machine.execImageCommit r slot s
  | .slotErase r slot => Sys2Proof.Machine.execSlotErase r slot s
  | .activateSlot r slot => Sys2Proof.Machine.execActivateSlot r slot s
  | .preparationComplete readBad loadBad => Sys2Proof.Machine.execPreparationComplete readBad loadBad s
  | .switchBoundary => Sys2Proof.Machine.execSwitchBoundary s
  | .tileHandoverComplete t => Sys2Proof.Machine.execTileHandoverComplete t s
  | .keystoneHandover => Sys2Proof.Machine.execKeystoneHandover s
  | .activationComplete => Sys2Proof.Machine.execActivationComplete s
  | .activationRolledBack type t => Sys2Proof.Machine.execActivationRolledBack type t s
  | .tileSleep r t coresStopped => Sys2Proof.Machine.execTileSleep r t coresStopped s
  | .tileWake r t => Sys2Proof.Machine.execTileWake r t s
  | .fastWakeDigest t digest => Sys2Proof.Machine.execFastWakeDigest t digest s
  | .spdmGetVersion link => Sys2Proof.Machine.execSpdmGetVersion link s
  | .spdmGetCapabilities link => Sys2Proof.Machine.execSpdmGetCapabilities link s
  | .spdmNegotiateAlgorithms link offered => Sys2Proof.Machine.execSpdmNegotiateAlgorithms link offered s
  | .spdmGetDigests link => Sys2Proof.Machine.execSpdmGetDigests link s
  | .spdmGetCertificate link slot offset length => Sys2Proof.Machine.execSpdmGetCertificate link slot offset length s
  | .spdmChallenge link slot nonce => Sys2Proof.Machine.execSpdmChallenge link slot nonce s
  | .spdmGetMeasurements link index nonce => Sys2Proof.Machine.execSpdmGetMeasurements link index nonce s
  | .spdmUnsupportedRequest link code => Sys2Proof.Machine.execSpdmUnsupportedRequest link code s
  | .keystoneRefused t => Sys2Proof.Machine.execKeystoneRefused t s
  | .blpOpen f => Sys2Proof.Machine.execBlpOpen f s
  | .openFinish f => Sys2Proof.Machine.execOpenFinish f s
  | .openFinishTimeout sid => Sys2Proof.Machine.execOpenFinishTimeout sid s
  | .openBlockExpiry source => Sys2Proof.Machine.execOpenBlockExpiry source s
  | .blpClose r => Sys2Proof.Machine.execBlpClose r s
  | .blpRead target => Sys2Proof.Machine.execBlpRead target s
  | .blpWrite target => Sys2Proof.Machine.execBlpWrite target s
  | .blpCommit r target => Sys2Proof.Machine.execBlpCommit r target s
  | .blpDescribe r key => Sys2Proof.Machine.execBlpDescribe r key s
  | .abortStaged r => Sys2Proof.Machine.execAbortStaged r s
  | .segWrite r key first last offset total data coresStopped => Sys2Proof.Machine.execSegWrite r key first last offset total data coresStopped s
  | .segRead r key offset => Sys2Proof.Machine.execSegRead r key offset s
  | .blpSubscribe r minSeverity => Sys2Proof.Machine.execBlpSubscribe r minSeverity s
  | .blpKeepalive r => Sys2Proof.Machine.execBlpKeepalive r s
  | .blpNotify sid => Sys2Proof.Machine.execBlpNotify sid s
  | .sessionIdleTimeout sid => Sys2Proof.Machine.execSessionIdleTimeout sid s
  | .sessionLifetime sid => Sys2Proof.Machine.execSessionLifetime sid s
  | .transferTimeout ctx => Sys2Proof.Machine.execTransferTimeout ctx s
  | .mailboxDoorbell link => Sys2Proof.Machine.execMailboxDoorbell link s
  | .coreWindowRequest n length => Sys2Proof.Machine.execCoreWindowRequest n length s
  | .mgmtFrame portB f off => Sys2Proof.Machine.execMgmtFrame portB f off s
  | .mgmtRedundancyDegraded portB => Sys2Proof.Machine.execMgmtRedundancyDegraded portB s
  | .eventRead r sequence => Sys2Proof.Machine.execEventRead r sequence s
  | .eventSeverity r code => Sys2Proof.Machine.execEventSeverity r code s
  | .mortarUncorrectable t network frame => Sys2Proof.Machine.execMortarUncorrectable t network frame s
  | .sramUncorrectable t c => Sys2Proof.Machine.execSramUncorrectable t c s
  | .hbmError bank row uncorrectable => Sys2Proof.Machine.execHbmError bank row uncorrectable s
  | .hbmRowRepaired bank row addresses units => Sys2Proof.Machine.execHbmRowRepaired bank row addresses units s
  | .coreUncorrectable n => Sys2Proof.Machine.execCoreUncorrectable n s
  | .keystoneLockstep => Sys2Proof.Machine.execKeystoneLockstep s
  | .keystoneRestartComplete => Sys2Proof.Machine.execKeystoneRestartComplete s
  | .timeDistributionFault t deviates => Sys2Proof.Machine.execTimeDistributionFault t deviates s
  | .tileWatchdog t => Sys2Proof.Machine.execTileWatchdog t s
  | .monCharacter c measured framingError => Sys2Proof.Machine.execMonCharacter c measured framingError s
  | .monBreak ms => Sys2Proof.Machine.execMonBreak ms s
  | .monitorIdleTimeout => Sys2Proof.Machine.execMonitorIdleTimeout s
  | .monHelp => Sys2Proof.Machine.execMonHelp s
  | .monId => Sys2Proof.Machine.execMonId s
  | .monTime => Sys2Proof.Machine.execMonTime s
  | .monMode => Sys2Proof.Machine.execMonMode s
  | .monEvents n => Sys2Proof.Machine.execMonEvents n s
  | .monUnlock n => Sys2Proof.Machine.execMonUnlock n s
  | .challengeResponse raw => Sys2Proof.Machine.execChallengeResponse raw s
  | .challengeTimeout => Sys2Proof.Machine.execChallengeTimeout s
  | .unlockBackoffExpiry => Sys2Proof.Machine.execUnlockBackoffExpiry s
  | .monLock => Sys2Proof.Machine.execMonLock s
  | .monBlp => Sys2Proof.Machine.execMonBlp s
  | .binaryBlock raw => Sys2Proof.Machine.execBinaryBlock raw s
  | .blockTimeout => Sys2Proof.Machine.execBlockTimeout s
  | .monRd key => Sys2Proof.Machine.execMonRd key s
  | .monTiles => Sys2Proof.Machine.execMonTiles s
  | .monPorts a b => Sys2Proof.Machine.execMonPorts a b s
  | .monBudget => Sys2Proof.Machine.execMonBudget s
  | .monCapture id vn n tags => Sys2Proof.Machine.execMonCapture id vn n tags s
  | .monEnrol => Sys2Proof.Machine.execMonEnrol s
  | .monRecover serial6 => Sys2Proof.Machine.execMonRecover serial6 s
  | .monRecoverCancel => Sys2Proof.Machine.execMonRecoverCancel s
  | .parallelDetection p speed => Sys2Proof.Machine.execParallelDetection p speed s
  | .rdmaNak p off bytes => Sys2Proof.Machine.execRdmaNak p off bytes s
  | .dspPerstRelease n => Sys2Proof.Machine.execDspPerstRelease n s
  | .hostLinkUp link rate width => Sys2Proof.Machine.execHostLinkUp link rate width s
  | .keystoneHandoverEnd => Sys2Proof.Machine.execKeystoneHandoverEnd s
  | .reloadComplete t => Sys2Proof.Machine.execReloadComplete t s

end Sys2Proof.Machine
end

