-- ==== Sys2Proof/Machine/Step.lean ====
section
/-! DEFINITION. Machine/Step.lean: one step of the block: the command at the front of the queue. -/

namespace Sys2Proof.Machine

/-- Take the command at the front of the queue and give it its effect; with no command waiting a slot time of the Mortar
passes, and nothing else. [DESIGN CHOICE: log entries 1, 2] -/
def step (s : State) : Host.Outcome State Fault Refusal :=
  match s.pending with
  | [] => .next s.slotTick
  | c :: q => exec c { s with pending := q }

/-- The state with the command a table word spells put at the front of its queue; a word that spells none leaves the
state as it is. -/
def State.withFetchWord (s : State) (nbits w : Nat) : State :=
  match Sys2Proof.decodeTableWord nbits w with
  | none => s
  | some c => { s with pending := c :: s.pending }

end Sys2Proof.Machine
end

