-- ==== Sys2Proof/Safety.lean ====
section
/-! DEFINITION. Safety.lean: what counts as a safe run of the block, and the canonical form its data keep. -/

namespace Sys2Proof.Machine

/-- A step answers a next state. -/
def State.steps (s : State) : Prop := ∃ t, step s = .next t

/-- A run is safe when none of its first `n` steps ends in a fault or a refusal. -/
def State.safeFor : Nat → State → Prop
  | 0, _ => True
  | n + 1, s => ∃ t, step s = .next t ∧ t.safeFor n

/-- A run that drains the queue of a state: as many steps as commands wait, each answering a next state. -/
def State.safe (s : State) : Prop := s.safeFor s.pending.length

/-- The canonical form of the peer regions' memory (R416): addresses rise strictly, and no byte listed reads as an
unlisted one does. -/
def Memory.wf (m : List Host.Cell) : Bool := tblWf (fun _ => 0) m

/-- The dictionary, MRAM and the peer regions are in their canonical form, so that equal contents are equal data; the
event log holds no more records than its ring (R551) and has logged no more than a second may carry (R552). -/
def State.Canonical (s : State) : Prop :=
  tblWf odDefault s.dict = true ∧ tblWf (fun _ => []) s.doms = true ∧ tblWf odDefault s.store = true ∧
    tblWf (fun _ => []) s.storeDoms = true ∧ Memory.wf s.host.peer = true ∧
    s.log.ring.length ≤ eventRingSize ∧ s.log.logged ≤ eventRateLimit

/-- An engine's program in progress is `r`, its next word is this macro-instruction, and neither an interrupt nor a
patched microroutine comes in its place (R290, R303, R306). -/
def State.runsNext (s : State) (e : EngineId) (op : Nat) (m : Macro) (r : Run) : Prop :=
  s.run? e = some r ∧ r.words[r.pc]? = some (macroWord op m) ∧ s.mustSwitch e false = false ∧
    opPatched (s.enginePatch e) op = false

end Sys2Proof.Machine
end

