-- ==== Sys2Proof/Certificates/Slice0/Obligations.lean ====
section
/-! DEFINITION. Certificates/Slice0/Obligations.lean: the statements for the provers. Each docstring names the rules of the
manual it rests on. -/

open Sys2Proof Sys2Proof.Machine

/-- A step takes the command at the front of the queue and runs it on the rest -/
def Obligations.StepRunsFrontCommand : Prop :=
  ∀ (c : Instr) (q : List Instr) (s : State),
    step { s with pending := c :: q } = exec c { s with pending := q }

/-- With no command waiting a step is one slot time of the Mortar: the model's choice (log entry 1), no rule of the manual. -/
def Obligations.EmptyQueueTurnsTheMortar : Prop :=
  ∀ s : State, s.pending = [] → step s = .next s.slotTick

/-- No command in no state ends a run (R8). -/
def Obligations.EveryRunGoesOn : Prop :=
  (∀ (c : Instr) (s : State), ∃ t, exec c s = .next t) ∧ ∀ (n : Nat) (s : State), s.safeFor n

/-- Every step keeps the canonical form (R416, R537, R551, R552) and takes the front command from the queue. -/
def Obligations.StepKeepsCanonicalForm : Prop :=
  ∀ s t : State, s.Canonical → step s = .next t → t.Canonical ∧ t.pending = s.pending.tail

/-- The state after reset is in its canonical form -/
def Obligations.ResetIsCanonical : Prop :=
  State.reset.Canonical

/-- After reset every entry reads its default, no timer runs, no link is up and no command waits -/
def Obligations.ResetReadsDefaults : Prop :=
  (∀ k, State.reset.rd k = odDefault k) ∧ (∀ k, State.reset.dom k = []) ∧ (∀ k, State.reset.armed k = false) ∧
  State.reset.clock.start = 0 ∧ State.reset.clock.finish = 1000 * nsTicks ∧
  (∀ link : Fin 4, State.reset.hostLinkUp link = false) ∧ State.reset.mode = 0 ∧
  State.reset.rdB Od.timeValid = false ∧ State.reset.pending = []

/-- A macro-instruction word and its fields determine each other (R293). -/
def Obligations.TrowelWordRoundTrip : Prop :=
  (∀ (op : Nat) (m : Macro), op < 256 → macroOf (macroWord op m) = (op, m)) ∧
  (∀ w : Nat, w < 2 ^ 32 → macroWord (macroOf w).1 (macroOf w).2 = w)

/-- Start-up and reset commands (R593, R594, R601). -/
def Obligations.StartUpCommands : Prop :=
  (∀ (u : StartUp) (s : State), s.boot.phase = 0 → exec (.releaseOfReset u) s = .next (s.kilnStart u)) ∧
  (∀ (u : StartUp) (s : State), s.boot.phase = 1 → s.boot.cold = true → s.rd Od.refclkSysState = 0 →
    exec (.warmUpComplete u) s = .next (s.startService u)) ∧
  (∀ (u : StartUp) (s : State), s.boot.phase = 1 → s.boot.cold = true → s.rd Od.refclkSysState ≠ 0 →
    exec (.warmUpComplete u) s = .next { s with boot := { s.boot with cold := false, found := u } }) ∧
  (∀ s : State, ∃ t, exec .resetGlitch s = .next t ∧ t.rd Od.resetGlitches = (s.rd Od.resetGlitches + 1) % 2 ^ 64 ∧
    (∀ k, k ≠ Od.resetGlitches → t.rd k = s.rd k) ∧ { t with dict := s.dict } = s) ∧
  (∀ (c : Instr) (cause : Nat) (s : State),
    (c = .resetStart ∧ cause = 1) ∨ (c = .thermalReset ∧ cause = 3) ∨
      (∃ rail, c = .railUndervoltage rail true ∧ cause = 2) ∨ (∃ rail, c = .railUndervoltage rail false ∧ cause = 0) →
    ∃ t, exec c s = .next t ∧ t.boot.phase = 0 ∧ t.rd Od.lastResetCause = cause ∧ t.timers = [] ∧
      t.host = State.reset.host ∧ t.slices.blocks = [] ∧ t.storage.queues = [] ∧ t.storage.cmds = [] ∧ t.rdma.locks = [] ∧ t.trowel.runs = [] ∧ t.store = s.store ∧
      t.storeDoms = s.storeDoms ∧ t.boot.slotA = s.boot.slotA ∧ t.boot.slotB = s.boot.slotB ∧
      t.log.ring = s.log.ring ∧ t.pending = s.pending)

/-- The updates that the other statements name change only their own place. -/
def Obligations.NamedUpdatesChangeOnlyTheirPlace : Prop :=
  (∀ (s : State) (k v : Nat), (s.wr k v).rd k = v ∧ (∀ j, j ≠ k → (s.wr k v).rd j = s.rd j) ∧ { s.wr k v with dict := s.dict } = s) ∧
  (∀ (s : State) (k : Nat) (v : List Byte), (s.setDom k v).dom k = v ∧ (∀ j, j ≠ k → (s.setDom k v).dom j = s.dom j) ∧
    { s.setDom k v with doms := s.doms } = s) ∧
  (∀ (s : State) (k n : Nat), (s.addTo k n).rd k = (s.rd k + n) % 2 ^ 64 ∧ (∀ j, j ≠ k → (s.addTo k n).rd j = s.rd j) ∧
    { s.addTo k n with dict := s.dict } = s ∧ s.bump k = s.addTo k 1) ∧
  (∀ (s : State) (k : Nat), (s.arm k).armed k = true ∧ (s.disarm k).armed k = false ∧
    (∀ j, j ≠ k → (s.arm k).armed j = s.armed j ∧ (s.disarm k).armed j = s.armed j) ∧
    { s.arm k with timers := s.timers } = s ∧ { s.disarm k with timers := s.timers } = s) ∧
  (∀ (s : State) (o : Out), (s.emit o).outputs = o :: s.outputs ∧ { s.emit o with outputs := s.outputs } = s)

/-- An event takes the next Sequence in the ring (R551, R552). -/
def Obligations.EventsAreLoggedInOrder : Prop :=
  ∀ (s : State) (code p : Nat),
    (s.eventsInSecond < 10000 →
      (∃ r, (s.raise code p).log.ring = (r :: s.log.ring).take 65536 ∧ r.sequence = s.rd Od.newestEvent + 1 ∧ r.code = code ∧
        r.param = p % 2 ^ 64 ∧ r.time = s.now) ∧
      (s.raise code p).rd Od.newestEvent = s.rd Od.newestEvent + 1 ∧
      (∀ k, k ≠ Od.newestEvent → k ≠ Od.oldestEvent → k ≠ Od.eventsOverwritten → (s.raise code p).rd k = s.rd k) ∧
      { s.raise code p with log := s.log, dict := s.dict, agent := s.agent } = s) ∧
    (10000 ≤ s.eventsInSecond → s.raise code p = s.bump Od.eventsSuppressed)

/-- Package commands (R594, R598 to R600). -/
def Obligations.PackageCommands : Prop :=
  (∀ s : State, s.boot.phase ≠ 0 → s.rd Od.refclkSysState ≠ 1 → exec .refclkSysLost s = .next
    ((((forEach ((List.range 256).filter (fun p => (s.wr Od.refclkSysState 1).portWidth p != 0)) (fun p s =>
      if s.up p then s.portDownNoRestart p 3 else s.stopBringUp p) (s.wr Od.refclkSysState 1)).raise 0xEA24 0)).driveFault)) ∧
  (∀ s : State, s.boot.phase = 1 → s.boot.cold = false → s.rd Od.refclkSysState ≠ 0 → exec .refclkSysRestored s =
    .next ((s.wr Od.refclkSysState 0).startService s.boot.found)) ∧
  (∀ s : State, s.boot.phase = 2 → s.rd Od.refclkSysState ≠ 0 → exec .refclkSysRestored s = .next
    ((forEach ((List.range 256).filter (fun p => (s.wr Od.refclkSysState 0).portWidth p != 0)) (fun p s =>
      if (s.port p).limited then s else s.bringUp p) (s.wr Od.refclkSysState 0)).driveFault)) ∧
  (∀ (ts : List (BitVec 16)) (hbm : BitVec 16) (s t : State) (high : Int), s.boot.phase = 2 → s.course % 1024 = 0 → ts.length = 57 →
    high = (ts.map BitVec.toInt).foldl max hbm.toInt →
    t = (s.setDom Od.tileTemperature ((ts.map (fun v => beBytes 2 v.toNat)).flatten)).wr Od.hbmTemperature hbm.toNat →
    exec (.temperatureRead ts hbm) s = .next ((if s.dom Od.tileTemperature = [] ∨ s.rdI 16 Od.maxTemperature < high then
      t.wrI 16 Od.maxTemperature high else t).thermalAlert high)) ∧
  (∀ (n : TileId) (s : State), s.boot.phase ≠ 0 → s.package.thermTrip = false → exec (.thermalTrip n) s = .next
    (({ s with package := { s.package with thermTrip := true } }.emit (.pin "THERM_TRIP_N" 0 false s.now)).raise 0xEA21 n)) ∧
  (∀ (n : Fin 4) (s : State), s.boot.phase = 2 → s.package.dspReleased.contains n.val = false → exec (.dspPerstRelease n) s = .next
    ({ s with package := { s.package with dspReleased := n.val :: s.package.dspReleased } }.emit (.pin "DSP_PERST_N" n true s.now)))

/-- Every SPDM request is answered (R517); codes and layouts are the model's choice (log entry 111). -/
def Obligations.SpdmRequests : Prop :=
  (∀ (k : Fin 4) (s : State), exec (.spdmGetVersion k) s = .next (s.spdm k 0x84 0x04 (beBytes 2 1 ++ beBytes 2 0x0012))) ∧
  (∀ (k : Fin 4) (s : State), exec (.spdmGetCapabilities k) s = .next (s.spdm k 0xE1 0x61 (beBytes 1 14 ++ leBytes 4 0x16))) ∧
  (∀ (k : Fin 4) (s : State), exec (.spdmNegotiateAlgorithms k true) s = .next (s.spdm k 0xE3 0x63 (leBytes 4 0x80 ++ leBytes 4 0x02))) ∧
  (∀ (k : Fin 4) (s : State), exec (.spdmGetDigests k) s = .next (s.spdm k 0x81 0x01 (beBytes 1 1 ++ Config.sha384 s.chain))) ∧
  (∀ (k : Fin 4) (o n : BitVec 16) (s : State), exec (.spdmGetCertificate k 0 o n) s = .next
    (s.spdm k 0x82 0x02 (leBytes 2 (slice s.chain o.toNat n.toNat).length
      ++ leBytes 2 (s.chain.length - o.toNat - (slice s.chain o.toNat n.toNat).length) ++ slice s.chain o.toNat n.toNat))) ∧
  (∀ (k : Fin 4) (x : BitVec 256) (s : State), exec (.spdmChallenge k 0 x) s = .next
    (s.spdmSigned k 0x83 0x03 x (Config.sha384 s.chain))) ∧
  (∀ (k : Fin 4) (i : BitVec 8) (x : BitVec 256) (s : State), 1 ≤ i.toNat → i.toNat ≤ 9 → exec (.spdmGetMeasurements k i x) s =
    .next (s.spdmSigned k 0xE0 0x60 x (beBytes 1 i.toNat ++ sized 48 (s.measurement i.toNat)))) ∧
  (∀ (k : Fin 4) (x : BitVec 256) (s : State), ∃ all, exec (.spdmGetMeasurements k 0xFF x) s = .next (s.spdmSigned k 0xE0 0x60 x all)) ∧
  (∀ (k : Fin 4) (i : BitVec 8) (x : BitVec 256) (s : State), (i = 0 ∨ 9 < i.toNat ∧ i ≠ 0xFF) →
    exec (.spdmGetMeasurements k i x) s = .next (s.spdmError k 0xE0 0x01)) ∧
  (∀ (k : Fin 4) (c : BitVec 8) (s : State), exec (.spdmUnsupportedRequest k c) s = .next (s.spdmError k c.toNat 0x07)) ∧
  (∀ (k : Fin 4) (i : BitVec 8) (o n : BitVec 16) (x : BitVec 256) (s : State), i ≠ 0 →
    exec (.spdmGetCertificate k i o n) s = .next (s.spdmError k 0x82 0x01) ∧
    exec (.spdmChallenge k i x) s = .next (s.spdmError k 0x83 0x01))

/-- A TS64 value extends into the window of R75. -/
def Obligations.TimestampExtension : Prop :=
  ∀ v p : Nat, (p : Int) - 2 ^ 53 ≤ extendTs 54 v p ∧ extendTs 54 v p < (p : Int) + 2 ^ 53 ∧ extendTs 54 v p % 2 ^ 54 = (v : Int) % 2 ^ 54

/-- Reference clocks, phase detectors and SyncE (R55, R62, R67, R68, R597). -/
def Obligations.ReferenceClockCommands : Prop :=
  (∀ s : State, exec .refclkTimeLost s = .next { (s.wr Od.refclkTimeFrequency 0).raise 0x2A09 0 with clock := { s.clock with refclkTime := false, reference := if 2 ≤ s.clock.reference then s.clock.reference else 1 } }) ∧
  (∀ (f : Nat) (s : State), f = 1 ∨ f = 2 → exec (.refclkTimeReturn f) s = .next { s.wr Od.refclkTimeFrequency f with clock := { s.clock with refclkTime := true, reference := if 2 ≤ s.clock.reference then s.clock.reference else 0 } }) ∧
  (∀ (l : Fin 256) (r : Fin 1600) (s : State), exec (.phaseDetectorReading l r) s = .next (s.setDetector l ((s.detector l).read ((s.detector l).phaseOf r))).reselectSynce ∧
    ((s.detector l).phaseOf r - 4 * (r.val : Int)) % 6400 = 0) ∧
  (∀ (p : PortId) (q : Nat) (s : State), exec (.esmc p q) s = .next (if s.rd (Od.linkState p) = 4 then
      ((s.countMessage p).setDetector p { (s.countMessage p).detector p with quality := some (ssmRank ((s.countMessage p).rd Od.eecOption) q) }).reselectSynce else s.bump (Od.rxNotUp p))) ∧
  (∀ (l : Nat) (s : State), s.synce.holdOff = some l → s.due tmHoldOff (s.msCourses (s.rd Od.holdOffTime)) = true →
    exec .holdOffTime s = .next ((({ s.setDetector l (s.detector l).stopped with synce := { s.synce with holdOff := none, failed := l :: s.synce.failed } } : State).disarm tmHoldOff).reselectSynce)) ∧
  (∀ (l : Fin 256) (s : State), s.synce.waiting.contains l.val = true →
    s.due (tmRestore l) (s.secCourses (s.rd Od.waitToRestore)) = true → exec (.waitToRestore l) s = .next
    ((({ s with synce := { s.synce with waiting := s.synce.waiting.filter (· != l.val) } }).disarm (tmRestore l)).reselectSynce))

/-- Sources of time (R59 to R65, R78). -/
def Obligations.SourceCommands : Prop :=
  (∀ (n : Fin 2) (off held : Nat) (s : State),
    let u := s.moveTo off
    let stamp : Nat := ((u.now : Int) - (u.pinConst (32 + n.val)).1 * 64 - u.rdI 32 (if n = 0 then Od.ppsDelay0 else Od.ppsDelay1) * 64).toNat
    let o := offsetFromSecond stamp
    exec (.ppsEdge n off held) s = .next (
      if u.rdB (if n = 0 then Od.ppsEnable0 else Od.ppsEnable1) = false ∨ held < 10 then u
      else if u.rd Od.ppsWindow * nsTicks < o.natAbs then (u.raise 0x2A03 (0x2000 + n.val)).measure (0x2000 + n.val) o true
      else u.measure (0x2000 + n.val) o false) ∧
    ∃ k : Int, (stamp : Int) = k * (secTicks : Int) + o ∧ -(secTicks : Int) < 2 * o ∧ 2 * o ≤ (secTicks : Int)) ∧
  (∀ (k : Nat) (s : State), exec (.sourceTimeout k) s = .next (
    let t := (s.disarm (tmSource k)).disarm (tmQualify k)
    if s.due (tmSource k) (s.msCourses (s.rd Od.sourceTimeout)) = false then s
    else if (s.source k).qualified = true then t.loseSource k
    else t.setSource k { s.source k with qualifying := false })) ∧
  (∀ (k : Nat) (s : State), exec (.sourceQualified k) s = .next (
    if (s.source k).qualified = false ∧ (s.source k).qualifying = true ∧ s.due (tmQualify k) (s.msCourses (s.rd Od.qualifyTime)) = true ∧
        (isPps k = true → s.rdB Od.timeValid = true) then
      (s.setSource k { s.source k with qualified := true, lost := false, outliers := 0 }).disarm (tmQualify k)
    else s)) ∧
  (∀ s : State, exec .holdoverLimit s = .next (
    if s.rd Od.servoState = 3 ∧ s.bestSource = none ∧ s.secCourses (s.rd Od.holdoverLimit) < s.rd Od.holdoverElapsed then s.servoTo 0
    else s)) ∧
  (∀ s : State, ∃ t, exec .leapSecond s = .next t ∧ (s.utcMidnight = false → t = s) ∧ (s.utcMidnight = true →
    t.rdI 16 Od.utcOffset = toSigned 16 (ofSigned 16 (s.rdI 16 Od.utcOffset + s.rdI 8 Od.leapPending)) ∧ t.rd Od.leapPending = 0 ∧
    t.store = tblSet (odDefault Od.utcOffset) s.store Od.utcOffset (ofSigned 16 (s.rdI 16 Od.utcOffset + s.rdI 8 Od.leapPending)) ∧
    (∀ k, k ≠ Od.utcOffset → k ≠ Od.leapPending → t.rd k = s.rd k) ∧ { t with dict := s.dict, store := s.store } = s))

/-- PTP messages (R79, R82, R83, R168, R560). -/
def Obligations.PtpMessagesAreReceived : Prop :=
  ∀ (p : PortId) (off : Nat) (h : PtpHeader) (s : State) (c : Instr) (m : PtpMsg),
    ((∃ o e, c = .sync p off h o e ∧ m = .sync o e) ∨ (∃ o, c = .followUp p off h o ∧ m = .followUp o) ∨
     (∃ e, c = .delayReq p off h e ∧ m = .delayReq e) ∨ (∃ r, c = .delayResp p off h r ∧ m = .delayResp r) ∨
     (∃ e, c = .pdelayReq p off h e ∧ m = .pdelayReq e) ∨ (∃ r e, c = .pdelayResp p off h r e ∧ m = .pdelayResp r e) ∨
     (∃ r, c = .pdelayRespFollowUp p off h r ∧ m = .pdelayRespFollowUp r) ∨ (∃ b, c = .announce p off h b ∧ m = .announce b) ∨
     (∃ b, c = .signaling p off h b ∧ m = .signaling b) ∨ (c = .managementMessage p off h ∧ m = .management)) →
    let u := ((s.moveTo off).countMessage p).carry (p / 8) tileKt 0 64 0 h.seq
    ((s.moveTo off).rd (Od.linkState p) ≠ 4 → exec c s = .next ((s.moveTo off).bump (Od.rxNotUp p))) ∧
    ((s.moveTo off).rd (Od.linkState p) = 4 → u.agent.handover = false → exec c s = .next (u.ptpProcess p h m (u.rxStamp p))) ∧
    ((s.moveTo off).rd (Od.linkState p) = 4 → u.agent.handover = true → (u.ptpPort p).held.length < 64 → exec c s =
      .next (u.setPtp p { u.ptpPort p with held := (u.ptpPort p).held ++ [(h, m, u.rxStamp p)] })) ∧
    ((s.moveTo off).rd (Od.linkState p) = 4 → u.agent.handover = true → 64 ≤ (u.ptpPort p).held.length →
      exec c s = .next (u.bump (Od.ptpDiscarded p))) ∧
    (h.valid = false → u.ptpProcess p h m (u.rxStamp p) = (u.bump (Od.ptpRx p)).bump (Od.ptpDiscarded p))

/-- PTP transmission and timeouts (R58, R80 to R85). -/
def Obligations.PtpTransmissionAndTimeouts : Prop :=
  (∀ (p : PortId) (off : Nat) (s : State), (s.moveTo off).rdB (Od.ptpEnable p) = true → (s.moveTo off).rd (Od.profileInUse p) ≠ 0 →
    (s.moveTo off).rd (Od.portState p) = 6 → (s.moveTo off).rdB (Od.macsecEnable p) = false → exec (.syncTransmit p off) s =
    .next (((s.moveTo off).ptpNext p).ptpSend p "Sync" ((s.moveTo off).ptpPort p).nextSeq
      [(s.moveTo off).txAtConnector p ((s.moveTo off).txStamp p (s.moveTo off).now), 0] [])) ∧
  (∀ (p : PortId) (off : Nat) (s : State), (s.moveTo off).rdB (Od.ptpEnable p) = true → (s.moveTo off).rd (Od.profileInUse p) ≠ 0 →
    (s.moveTo off).rd (Od.portState p) = 6 → (s.moveTo off).rdB (Od.macsecEnable p) = true → (s.moveTo off).agent.handover = false →
    exec (.syncTransmit p off) s =
    .next ((((s.moveTo off).ptpNext p).ptpSend p "Sync two-step" ((s.moveTo off).ptpPort p).nextSeq [] []).ptpFollowUp p
      (((s.moveTo off).ptpPort p).nextSeq, ((s.moveTo off).txAtConnector p ((s.moveTo off).txStamp p (s.moveTo off).now)).toNat))) ∧
  (∀ (p : PortId) (off : Nat) (s : State), (s.moveTo off).rdB (Od.ptpEnable p) = true → 1 < (s.moveTo off).rd (Od.profileInUse p) →
    (s.moveTo off).rd (Od.portState p) = 6 → exec (.announceTransmit p off) s =
    .next (((s.moveTo off).ptpNext p).ptpSend p "Announce" ((s.moveTo off).ptpPort p).nextSeq [((s.moveTo off).rd Od.selectedSource : Int),
      (s.moveTo off).rdI 16 Od.utcOffset, (s.moveTo off).rdI 8 Od.leapPending] [.pathTrace (s.moveTo off).announcePath])) ∧
  (∀ (p : PortId) (off : Nat) (s : State), (s.moveTo off).rdB (Od.ptpEnable p) = true → (s.moveTo off).rd (Od.delayMechanism p) = 2 →
    exec (.delayReqTransmit p off) s = .next (((s.moveTo off).setPtp p { (s.moveTo off).ptpPort p with reqSent := some (((s.moveTo off).ptpPort p).nextSeq, (s.moveTo off).txStamp p (s.moveTo off).now), nextSeq := (((s.moveTo off).ptpPort p).nextSeq + 1) % 65536 }).ptpSend p
      "Pdelay_Req" ((s.moveTo off).ptpPort p).nextSeq [] [])) ∧
  (∀ (p : PortId) (s : State), s.due (tmAnnounce p) (s.announceCourses p) = true →
    exec (.announceReceiptTimeout p) s = .next ((s.disarm (tmAnnounce p)).ptpNoAnnounce p)) ∧
  (∀ (p : PortId) (s : State), (s.ptpPort p).attempt ≠ 0 → s.due (tmNegotiation p) (s.msCourses (s.rd (Od.negotiationTime p))) = true →
    exec (.negotiationTime p) s = .next (s.ptpAttempt p ((s.ptpPort p).attempt + 1))) ∧
  (∀ (p : PortId) (s : State), (s.ptpPort p).failed = true → s.due (tmNegRetry p) (s.secCourses 60) = true →
    exec (.negotiationRetry p) s = .next ((s.disarm (tmNegRetry p)).ptpAttempt p 1))

/-- Timing pins (R88 to R92). -/
def Obligations.TimingPinCommands : Prop :=
  (∀ (n : Fin 32) (off held : Nat) (rising : Bool) (s : State), captures ((s.moveTo off).rd (Od.tioMode n)) rising = true →
    (s.moveTo off).rd (Od.glitchFilter n) ≤ held → (∀ e, ((s.moveTo off).pin n).lastEdge = some e → e + 20 * nsTicks ≤ (s.moveTo off).now) →
    ((s.moveTo off).pin n).fifo.length < 64 → (s.moveTo off).rd (Od.tioOwner n) = 0 →
    ∀ stamp : Nat, stamp = (((s.moveTo off).now : Int) - ((s.moveTo off).pinConst n).1 * 64 - (s.moveTo off).rdI 32 (Od.inputDelay n) * 64).toNat →
    ∃ t, exec (.tioEdge n off held rising) s = .next t ∧ t.rd (Od.captureCount n) = ((s.moveTo off).rd (Od.captureCount n) + 1) % 2 ^ 64 ∧
      t.rd (Od.lastCapture n) = ts96 stamp ∧ (t.pin n).fifo = ((s.moveTo off).pin n).fifo ++ [(stamp, rising)] ∧
      (t.pin n).lastEdge = some (s.moveTo off).now ∧ (∀ m : Fin 32, m ≠ n → t.pin m = (s.moveTo off).pin m) ∧
      { t with dict := s.dict, pins := s.pins, timers := s.timers, clock := s.clock } = s) ∧
  (∀ (n : Fin 32) (off held e : Nat) (rising : Bool) (s : State), captures ((s.moveTo off).rd (Od.tioMode n)) rising = true →
    (s.moveTo off).rd (Od.glitchFilter n) ≤ held → ((s.moveTo off).pin n).lastEdge = some e → (s.moveTo off).now < e + 20 * nsTicks →
    exec (.tioEdge n off held rising) s = .next ((s.moveTo off).captureLost n)) ∧
  (∀ (n : Fin 32) (s : State), s.rd (Od.expectTimeout n) ≠ 0 → s.due (tmExpect n) (s.rd (Od.expectTimeout n)) = true →
    exec (.expectTimeout n) s = .next ((((s.disarm (tmExpect n)).setPin n { s.pin n with reported := true }).raise 0x2A06 n.val).pinRecord n 2)) ∧
  (∀ (n : Fin 32) (off m t ball : Nat) (s u : State), u = s.moveTo off → m = u.rd (Od.tioMode n) →
    (m = 4 ∧ (u.pin n).genArmed = true ∧ (u.pin n).generated = 0 ∧ t = ts96Ticks (u.rd (Od.startTime n)) ∨
     m = 5 ∧ (u.pin n).genArmed = true ∧ (u.rd (Od.count n) = 0 ∨ (u.pin n).generated < u.rd (Od.count n)) ∧
       t = ts96Ticks (u.rd (Od.startTime n)) + (u.pin n).generated * u.rd (Od.period n) ∨
     m = 6 ∧ t = secondFloor u.now) → ball = ((t : Int) - u.rdI 32 (Od.outputDelay n) * 64 - (u.pinConst n).2 * 64).toNat →
    exec (.generatedEdge n off) s = .next (if m = 4 then (u.setPin n { u.pin n with generated := (u.pin n).generated + 1 }).emit (.pin "TIO" n true ball)
      else ((u.setPin n { u.pin n with generated := (u.pin n).generated + 1 }).emit (.pin "TIO" n true ball)).emit
        (.pin "TIO" n false (ball + u.rd (Od.width n) * nsTicks))))

/-- Courses, snapshots, samples and migration (R112, R113, R140, R332, R333). -/
def Obligations.CourseCommands : Prop :=
  (∀ s : State, 2 ≤ s.boot.phase → exec .courseBoundary s = .next s.boundary) ∧
  (∀ s : State, s.boot.phase = 2 → s.clock.snapshot = true →
    ∃ t, exec .counterSnapshot s = .next t ∧ t = s.takeSnapshot.restartMaxima ∧
      s.takeSnapshot.snapshot = s.dict.filter (fun e => odIsCounter e.1) ∧ s.takeSnapshot.rd Od.snapshotCourse = s.course) ∧
  (∀ (p : PortId) (s : State), s.rd (Od.sampleDest p) / 2 ^ 30 ≠ 3 → s.course % max 1 (s.rd (Od.sampleInterval p)) = 0 →
    s.timers.any (fun e => e.1 == tmSample p && e.2.armed == s.course) = false → ∀ (msg : List Byte) (u : State) (sent : Bool),
    msg = [BitVec.ofNat 8 p.val] ++ List.replicate 7 0 ++ leBytes 8 s.course ++
      ((List.range 8).map (fun c => (((s.queueSamplesRead p).drop (16 * c)).take 16).reverse)).flatten →
    (s.arm (tmSample p)).sendRecord (s.rd (Od.sampleDest p)) msg = (u, sent) →
    exec (.sampleMessage p) s = .next (if sent then u else u.bump (Od.sampleDrops p))) ∧
  (∀ s : State, s.modeChange.migrating ≠ [] →
    exec .pcMigrationComplete s = .next { s with modeChange := { s.modeChange with copied := true } }) ∧
  (∀ (pc : Fin 16) (a : Nat) (s : State), s.modeChange.copied = true → s.modeChange.migrating = [(pc.val, a)] → s.modeChange.stopping = false →
    ∃ (t : State) (v : Nat), s.migrationPass = t.raise 0x1A21 v ∧ t.rd (Od.pcActivity pc) = a) ∧
  (∀ (pc a pc2 a2 : Nat) (l : List (Nat × Nat)) (s : State), s.modeChange.copied = true →
    s.modeChange.migrating = (pc, a) :: (pc2, a2) :: l → s.modeChange.stopping = false →
    ∃ v, s.migrationPass = ({ s.wr (Od.pcActivity pc) a with modeChange := { s.modeChange with copied := false, migrating := (pc2, a2) :: l } } : State).wr Od.modeChangeStatus v)

/-- Bring-up of a port (R157 to R162). -/
def Obligations.BringUpCommands : Prop :=
  (∀ (p : PortId) (a : Nat) (rs rs5 : Bool) (s u : State), s.rd (Od.linkState p) = 1 →
    u = (s.setPort p { s.port p with rsFec := rs, rs544 := rs5 }).wr (Od.partnerAbilities p) (a % 256) →
    (∀ v, u.commonSpeed p (a % 256) = some v → exec (.clause73Page p a rs rs5) s = .next (u.resolveSpeed p v)) ∧
    (u.commonSpeed p (a % 256) = none → exec (.clause73Page p a rs rs5) s = .next (u.anFailed p))) ∧
  (∀ (p : PortId) (v : Fin 2) (s : State), s.rd (Od.linkState p) = 1 → v.val ∈ s.offered p →
    exec (.parallelDetection p v) s = .next (s.resolveSpeed p v)) ∧
  (∀ (p : PortId) (s : State), s.rd (Od.linkState p) = 1 → s.due (tmAnAttempt p) (s.msCourses 500) = true →
    exec (.anAttemptTimeout p) s = .next (s.anFailed p)) ∧
  (∀ (p : PortId) (s : State), s.rd (Od.linkState p) = 5 → s.due (tmAnRetry p) (s.msCourses (s.rd (Od.anRetryInterval p))) = true →
    exec (.anRetryInterval p) s = .next (s.bringUp p)) ∧
  (∀ (p : PortId) (s : State), s.rd (Od.linkState p) = 2 → (s.port p).trained = false →
    (∀ f, s.resolveFec p = some f → exec (.trainingComplete p) s = .next ((s.setPort p { s.port p with trained := true }).wr (Od.fecInUse p) f)) ∧
    (s.resolveFec p = none → exec (.trainingComplete p) s = .next ((s.raiseLimited 0x3A06 p 1 p).trainingFailed p))) ∧
  (∀ (p : PortId) (s : State), s.rd (Od.linkState p) = 2 → (s.port p).trained = true →
    exec (.lockAndAlignment p) s = .next (((s.disarm (tmTraining p)).wr (Od.linkState p) 3).arm (tmLinkUp p))) ∧
  (∀ (p : PortId) (s : State), s.rd (Od.linkState p) = 2 → s.due (tmTraining p) (s.msCourses (s.rd (Od.trainingTimeout p))) = true →
    s.rd (Od.mediaType p) ≠ 2 → exec (.trainingTimeout p) s = .next (s.trainingFailed p)) ∧
  (∀ (p : PortId) (s : State), s.rd (Od.linkState p) = 3 → s.due (tmLinkUp p) (s.rd (Od.linkUpHold p)) = true →
    exec (.linkUpHold p) s = .next ((s.linkUp p).shaperCheck p))

/-- FEC resolution (R155, R159). -/
def Obligations.FecAtTwentyFiveGigabit : Prop :=
  ∀ (s : State) (p : PortId),
    (s.rd (Od.speedInUse p) = 2 → (s.port p).rsFec = true → s.resolveFec p = some 1) ∧
    (s.rd (Od.speedInUse p) = 2 → (s.port p).rsFec = false → s.rdB (Od.fecAllowNone p) = true → s.resolveFec p = some 0) ∧
    (s.rd (Od.speedInUse p) = 2 → (s.port p).rsFec = false → s.rdB (Od.fecAllowNone p) = false → s.resolveFec p = none) ∧
    (s.rd (Od.speedInUse p) < 2 → s.resolveFec p = some 0) ∧
    (2 < s.rd (Od.speedInUse p) → s.resolveFec p = if (s.port p).rs544 then some 2 else none)

/-- Links, LLDP, PAUSE and PFC (R164, R168 to R171, R191). -/
def Obligations.LinkStateCommands : Prop :=
  (∀ (p : PortId) (off cause : Nat) (s u : State), u = s.moveTo off → cause ≠ 5 → cause ≠ 6 → u.rd (Od.linkState p) = 4 → (u.port p).downCause = none →
    u.rd (Od.linkDownHold p) ≠ 0 → exec (.linkDownCondition p off cause) s =
    .next ((u.setPort p { u.port p with downCause := some cause }).arm (tmLinkDown p))) ∧
  (∀ (p : PortId) (cause : Nat) (s : State), (s.port p).downCause = some cause → s.due (tmLinkDown p) (s.rd (Od.linkDownHold p)) = true →
    exec (.linkDownHold p false) s = .next (s.portDown p cause) ∧ exec (.linkDownHold p true) s =
    .next (((s.disarm (tmLinkDown p)).setPort p { s.port p with downCause := none }).bump (Od.linkGlitches p))) ∧
  (∀ (p : PortId) (off : Nat) (rx : RxFrame) (b : LldpBody) (s u v : State), (s.moveTo off).rxAccept p rx = (u, true) → u.countLldpdu p = (v, true) →
    exec (.lldpdu p off rx b) s = .next ((v.setPort p { v.port p with peer := some b, dcbxDue := true }).arm (tmLldpTtl p))) ∧
  (∀ (p : PortId) (off : Nat) (rx : RxFrame) (b : LldpBody) (s u : State), (s.moveTo off).rxAccept p rx = (u, true) → 8 ≤ u.lldpdusInSecond p →
    exec (.lldpdu p off rx b) s = .next (u.bump (Od.rxLldpDiscarded p))) ∧
  (∀ (p : PortId) (rx : RxFrame) (s u : State), s.rxAccept p rx = (u, false) → u = s.bump (Od.rxNotUp p) ∨
    u = s.bump (Od.rxRunts p) ∨ u = s.bump (Od.rxOversize p) ∨ u = s.bump (Od.rxFcsErrors p)) ∧
  (∀ (p : PortId) (n : Nat) (s : State), s.up p = true → 64 ≤ n → n ≤ s.rd (Od.maxFrameSize p) → s.rxAccept p ⟨n, true⟩ = (s.countRx p n, true)) ∧
  (∀ (p : PortId) (s : State), s.up p = true → s.due (tmLldpTx p) (s.secCourses (s.rd (Od.lldpTxInterval p))) = true →
    exec (.lldpTxInterval p) s = .next ((s.emit (.lldp p 0x0180C200000E (s.rd Od.mgmtMac) ([4 * s.rd (Od.lldpTxInterval p),
      s.rd (Od.pfcEnableLocal p), s.rd (Od.priorityToClass p), s.rd Od.rocePcp] ++ s.etsAlgorithms p ++ s.etsShares p))).arm (tmLldpTx p))) ∧
  (∀ (p : PortId) (b : LldpBody) (s : State), (s.port p).peer = some b → s.due (tmLldpTtl p) (s.secCourses b.ttl) = true →
    exec (.lldpTtlExpiry p) s = .next ((s.disarm (tmLldpTtl p)).setPort p { s.port p with peer := none, dcbxDue := true })) ∧
  (∀ (p : PortId) (rx : RxFrame) (s u : State), s.rxAccept p rx = (u, true) → exec (.pause p rx) s = .next (u.bump (Od.rxPauseDiscarded p))) ∧
  (∀ (p : PortId) (off en : Nat) (rx : RxFrame) (qs : List Nat) (s u : State), (s.moveTo off).rxAccept p rx = (u, true) → exec (.pfc p off rx en qs) s =
    .next (forEach (List.range 8) (fun pri s =>
      if bitOf en pri && bitOf (s.rd (Od.pfcOper p)) pri && priorityClass (s.rd (Od.priorityToClassOper p)) pri != 7 then
        s.pauseClass p (priorityClass (s.rd (Od.priorityToClassOper p)) pri) (qs.getD pri 0) else s) (u.bump (Od.rxPfcFrames p)))) ∧
  (∀ (p : PortId) (c : ClassId) (off : Nat) (s u : State), u = s.moveTo off → (u.queue p c).pausedUntil ≤ u.now → exec (.pfcPauseExpiry p c off) s =
    .next ((u.setQueue p c { u.queue p c with pausedUntil := 0 }).disarm (tmStorm p c)))

/-- Frames on a wire port (R79, R168, R175, R258). -/
def Obligations.FramesAreReceived : Prop :=
  ∀ (p : PortId) (off : Nat) (bs : List Byte) (good : Bool) (s u : State), u = s.moveTo off →
    (u.up p = false → exec (.frameReceive p off bs good) s = .next (u.bump (Od.rxNotUp p))) ∧
    (u.up p = true → bs.length + 4 < 64 → exec (.frameReceive p off bs good) s = .next (u.bump (Od.rxRunts p))) ∧
    (u.up p = true → 64 ≤ bs.length + 4 → u.rdB (Od.macsecEnable p) = false → beAt bs 12 2 ≠ 0x8808 →
      exec (.frameReceive p off bs good) s = .next (
        (if u.rd (Od.maxFrameSize p) < bs.length + 4 then u.bump (Od.rxOversize p) else if good then u.countRx p (bs.length + 4)
          else u.bump (Od.rxFcsErrors p)).received p (u.rxStamp p) (decide (u.rd (Od.maxFrameSize p) < bs.length + 4) || !good) bs none false
          (u.mode == 4 && !uncontrolled (frameDa bs) (beAt bs 12 2) (u.rd Od.wallEthertype)))) ∧
    (u.up p = true → 64 ≤ bs.length + 4 → u.rdB (Od.macsecEnable p) = false → beAt bs 12 2 = 0x8808 →
      (u.rd (Od.maxFrameSize p) < bs.length + 4 → exec (.frameReceive p off bs good) s = .next (u.bump (Od.rxOversize p))) ∧
      (bs.length + 4 ≤ u.rd (Od.maxFrameSize p) → good = false → exec (.frameReceive p off bs good) s = .next (u.bump (Od.rxFcsErrors p))) ∧
      (bs.length + 4 ≤ u.rd (Od.maxFrameSize p) → good = true →
        (beAt bs 14 2 = 0x0001 → exec (.frameReceive p off bs good) s = exec (.pause p ⟨bs.length + 4, true⟩) u) ∧
        (beAt bs 14 2 = 0x0101 → exec (.frameReceive p off bs good) s = exec (.pfc p off ⟨bs.length + 4, true⟩ (pfcFields bs).1 (pfcFields bs).2) u) ∧
        (beAt bs 14 2 ≠ 0x0001 → beAt bs 14 2 ≠ 0x0101 → exec (.frameReceive p off bs good) s =
          .next ((u.countRx p (bs.length + 4)).bump (Od.rxMacControlDiscarded p)))))

/-- Switch core (R185, R187, R188). -/
def Obligations.SwitchCommands : Prop :=
  (∀ (id off : Nat) (d : Dst) (x : Transit) (s : State), sameInstant off s.pending = [] → (s.moveTo off).onTheWay (id, d) = some x →
    exec (.firstBrickArrival id d off) s = .next ((s.moveTo off).arrive x)) ∧
  (∀ (id off : Nat) (d : Dst) (s : State), ∃ l : List Transit, exec (.firstBrickArrival id d off) s = .next (l.foldl State.arrive (s.moveTo off)) ∧
    l.Pairwise (fun a b => a.src < b.src ∨ a.src = b.src ∧ a.frame.id ≤ b.frame.id) ∧ l.Nodup ∧
    (∀ x, x ∈ l ↔ ∃ a ∈ (id, d) :: sameInstant off s.pending, (s.moveTo off).onTheWay a = some x)) ∧
  (∀ (x : Transit) (s : State), ((∀ d, x.dst = .queue d → isCoreDest d = false) → s.arrive x = s.arriveOne x) ∧
    (∀ d, x.dst = .queue d → isCoreDest d = true → s.arrive x = (((s.switch.transit.takeWhile (· != x)).filter (fun y => y.src == x.src &&
      y.dst == x.dst && y.relay == x.relay)).foldl State.arriveOne s).arriveOne x)) ∧
  (∀ (x : Transit) (s u : State), u = ({ s with switch := { s.switch with transit := s.switch.transit.erase x } } : State).firstWritten x.src
      (x.relay.getD (s.dstTile x.dst)) x.vn x.frame.id →
    (∀ p, x.dst = .port p → s.arriveOne x = (u.handedOver p x.frame).arriveAtPort p (unlessStamped x.frame)) ∧
    (∀ q, x.dst = .aligned q → s.arriveOne x = u.arriveAligned q.val x.frame) ∧
    (∀ d, x.dst = .queue d → x.relay = none → s.arriveOne x = if x.frame.bad then u.dropCopy x.frame else u.toQueue d x.frame x.late none) ∧
    (∀ d r, x.dst = .queue d → x.relay = some r → s.arriveOne x =
      if u.coreRoom (u.dstTile x.dst) x.frame.bricks x.frame.cls then
        u.setOut { x with src := r, vn := frameVn x.frame.cls r (u.dstTile x.dst) false, relay := none }
      else (u.coreDrop (d % 2 ^ 30)).dropCopy x.frame)) ∧
  (∀ (p : PortId) (c : ClassId) (off : Nat) (f : Frame) (q : Nat) (n : Nat) (l : List (Frame × Nat × Nat)) (s u : State), u = s.moveTo off →
    (u.ingress p c).parked = (f, q, n) :: l → u.up q = true → u.fits q c n = true →
    (f.launch.isSome = true → (u.egress q).launch.length < 4096) → exec (.parkedFrameMove p c off) s =
    .next ((((((u.setIngress p c { u.ingress p c with parked := l }).wr (Od.headroomHeld (p / 8)) (u.rd (Od.headroomHeld (p / 8)) - n)).poolGave
      (p / 8) n).carryFrame (p / 8) (q / 8) 1 f.len f.cls f.id).takeIn q f (u.mode == 2)).pfcCheck p c)) ∧
  (∀ (p : PortId) (c : ClassId) (s : State), s.lossless p c = true → (s.ingress p c).xoff = true → s.xoffCause p c = true →
    s.refreshAt p c < s.clock.finish → exec (.pfcRefresh p c) s = .next ((s.moveTo (s.refreshAt p c - s.clock.start)).sendPfc p c 0xFFFF))

/-- Admission (R183 to R185). -/
def Obligations.AdmissionLimit : Prop :=
  (∀ (s : State) (p : PortId) (c : ClassId), s.queueLimit p c = min (s.rd (Od.queueMaxBricks p c)) (2 ^ s.rd (Od.alphaCode p c) * s.sharedFree (p / 8) / 2 ^ 6)) ∧
  (∀ (s : State) (p : PortId) (c : ClassId) (n : Nat), s.fits p c n = true ↔ s.depth p c + n ≤ s.queueLimit p c ∧ n ≤ s.sharedFree (p / 8)) ∧
  (∀ (s : State) (p : PortId), s.rd (Od.class7ReserveBricks p) ≠ 0 → s.class7Share p = s.rd (Od.class7ReserveBricks p)) ∧
  (∀ (s : State) (p : PortId), s.rd (Od.class7ReserveBricks p) = 0 → s.tilePorts (p / 8) ≠ [] →
    s.class7Share p = class7Reserve s.mode / (s.tilePorts (p / 8)).length)

/-- Egress of a port (R202, R317, R318, R330). -/
def Obligations.EgressCommands : Prop :=
  (∀ (p : PortId) (off : Nat) (s : State), exec (.selection p off) s = .next ((s.moveTo off).select_ p)) ∧
  (∀ (p : PortId) (off : Nat) (f : Frame) (l : List Frame) (s u : State), u = s.moveTo off → (u.egress p).launch = f :: l →
    f.launch.getD 0 ≤ u.sendPoint p → exec (.launchDue p off) s = .next (u.select_ p)) ∧
  (∀ (p : PortId) (off : Nat) (x : Sending) (e : Nat) (s u : State), u = s.moveTo off → (u.egress p).sending = some x → x.ends = some e → e ≤ u.now → ∀ v : State,
    v = ((u.setEgress p { u.egress p with sending := none }).bump (Od.txFrames p)).addTo (Od.txOctets p) (x.out.length + 4) →
    exec (.transmitEnd p off) s = .next ((((if x.frame.bad then v.bump (Od.txStomped p) else v).txComplete x.frame p 0
      (some x.stamp)).uncharge p x.frame).dropCopy { x.frame with completion := none })) ∧
  (∀ (p : PortId) (off : Nat) (x : Sending) (s u : State), u = s.moveTo off → (u.egress p).sending = some x → u.rd (Od.closingMode p) = 1 →
    x.ends.isSome = true →
    (if u.now = u.clock.start then bitOf (u.egress p).gateWas x.frame.cls else u.gateOpen p x.frame.cls (u.now - 1)) = true → u.gateOpen p x.frame.cls u.now = false →
    exec (.gateEvent p off) s = .next ((u.bump (Od.gateOverruns p)).raiseLimited 0x6A01 p 1 p))

/-- Timers of forwarding and classification (R250, R280). -/
def Obligations.ForwardingTimers : Prop :=
  (∀ (r : Fin 64) (m : BitVec 48) (s : State), s.due (tmNode r m.toNat) (s.secCourses (s.rd (Od.nodeForgetTime r))) = true →
    exec (.nodeForgetTime r m) s = .next (({ s with redundancy.nodes := tblDel s.redundancy.nodes (r * 2 ^ 48 + m.toNat) } : State).disarm (tmNode r m.toNat))) ∧
  (∀ (r : Fin 64) (s : State), s.due (tmPair r) (s.secCourses (s.rd (Od.nodeForgetTime r))) = true → s.redundancy.reported.contains r.val = false →
    exec (.redundancyDegraded r) s = .next (({ s with redundancy.reported := r.val :: s.redundancy.reported } : State).raise 0x5A09 r)) ∧
  (∀ (n : Fin 32) (s : State), s.cleanupDue (s.ternary n).flipped = true → exec (.epochCleanup false n) s = .next (s.setTernary n (s.ternary n).cleanup)) ∧
  (∀ (n : Fin 32) (s : State), s.cleanupDue (s.exact n).flipped = true → exec (.epochCleanup true n) s = .next (s.setExact n (s.exact n).cleanup))

/-- The Wall (R243 to R249). -/
def Obligations.WallCommands : Prop :=
  (∀ (off : Nat) (s u : State), u = s.moveTo off → u.armed tmHello = false → exec (.helloInterval off) s = .next u.sendHellos) ∧
  (∀ (p : PortId) (off : Nat) (h : WallHeader) (s u : State), u = s.moveTo off → u.up p = true → u.rdB (Od.wallPort p) = true →
    (u.wallOurs h = false → exec (.wallHello p off h) s = .next (u.bump Od.wallForeign)) ∧
    (u.wallOurs h = true → 8 ≤ ((tblGet [] u.wall.hellos p).filter (fun (c : Int) => (u.course : Int) < c + u.msCourses (u.rd Od.helloInterval))).length →
      exec (.wallHello p off h) s = .next (u.bump Od.helloDiscarded)) ∧
    (u.wallOurs h = true → ((tblGet [] u.wall.hellos p).filter (fun (c : Int) => (u.course : Int) < c + u.msCourses (u.rd Od.helloInterval))).length < 8 →
      h.deviceId ≠ u.rd Od.wallDeviceId → ∃ v : State, exec (.wallHello p off h) s = .next v.wallJudge.helloCheck ∧
      tblGet none (v.wall.neighbours.map (fun e => (e.1, some e.2))) (512 * p + h.deviceId % 512) = some ⟨h, (u.hopDelay p h).2⟩ ∧
      v.armed (tmNeighbour p (h.deviceId % 512)) = true ∧ v.wall.changed = true)) ∧
  (∀ (p : PortId) (d : Fin 512) (s : State), s.dueEvery (tmNeighbour p d) (s.msCourses (3 * s.rd Od.helloInterval)) s.helloGrain = true →
    exec (.neighbourLost p d) s = .next ((({ s with wall.neighbours := tblDel s.wall.neighbours (512 * p.val + d.val), wall.changed := true, wall.conflicts := s.wall.conflicts.filter (· != 512 * p.val + d.val) } : State).disarm (tmNeighbour p d)).wallJudge.helloCheck)) ∧
  (∀ (p : PortId) (off : Nat) (h : WallHeader) (s : State),
    exec (.syncAcknowledgement p off h) s = .next ((s.moveTo off).wallDeliver p h (wallBytes 3 0 h [])).1 ∧
    exec (.resyncRequest p off h) s = .next ((s.moveTo off).wallDeliver p h (wallBytes 4 0 h [])).1) ∧
  (∀ (p : PortId) (off : Nat) (h : WallHeader) (l : List SyncRecord) (s u : State) (taken : Bool),
    (s.moveTo off).wallDeliver p h (wallBytes 2 l.length h (l.map syncBytes).flatten) = (u, taken) → u.rd Od.modeInForce ≠ 5 → exec (.wallSync p off h l) s = .next u)

/-- Visibility by generation (R229, R235). -/
def Obligations.FdbVisibility : Prop :=
  (∀ (s : State) (fid mac : Nat) (e : FdbEntry), s.fdbFind fid mac = some e →
    ¬ (1 ≤ (e.gen + 65536 - s.rd Od.fdbCurrentGen % 65536) % 65536 ∧ (e.gen + 65536 - s.rd Od.fdbCurrentGen % 65536) % 65536 ≤ 32767)) ∧
  (∀ a b : Nat, serialAfter a b = true ↔ (1 ≤ (a + 65536 - b % 65536) % 65536 ∧ (a + 65536 - b % 65536) % 65536 ≤ 32767)) ∧
  (∀ (s : State) (p a fid mac : Nat), s.heldStatic fid mac = false → tblGet 0 s.fwd.learned (p / 8) < s.learnLimit → s.rd (Od.maxLearned a) = 0 → ∀ x,
    placeEntry s.mode s.fdbWays { static := false, pinned := false, hit := true, hbm := false, origin := 0, destKind := 0, fid := fid, mac := mac, gen := s.rd Od.fdbCurrentGen, owner := 0, dest := a, time := s.learnTime } = some x →
    s.learnNew p a fid mac = ((s.countLearn (p / 8)).setFdb (tblPut s.fwd.fdb (fdbKey fid mac) x)).learnNotify 1 fid mac p p)

/-- Arithmetic macro-instructions (R290, R294). -/
def Obligations.TrowelArithmetic : Prop :=
  ∀ (e : EngineId) (m : Macro) (r : Run) (s : State),
    (s.runsNext e 0x40 m r → exec (.trowelNop e m) s = .next (s.setRun e (some { r with pc := r.pc + 1 }))) ∧
    (s.runsNext e 0x41 m r → exec (.trowelLdi e m) s = .next (s.setRun e (some { r with regs := r.regs.set m.a (m.imm.setWidth 32), pc := r.pc + 1 }))) ∧
    (s.runsNext e 0x42 m r → exec (.trowelLdh e m) s = .next (s.setRun e (some { r with regs := r.regs.set m.a (BitVec.ofNat 32 (m.imm.toNat * 65536 + (regOf r.regs m.a).toNat % 65536)), pc := r.pc + 1 }))) ∧
    (s.runsNext e 0x43 m r → exec (.trowelMov e m) s = .next (s.setRun e (some { r with regs := r.regs.set m.a (regOf r.regs m.b), pc := r.pc + 1 }))) ∧
    (s.runsNext e 0x44 m r → exec (.trowelAdd e m) s = .next (s.setRun e (some { r with regs := r.regs.set m.a (regOf r.regs m.a + regOf r.regs m.b), z := regOf r.regs m.a + regOf r.regs m.b == 0, c := decide (2 ^ 32 ≤ (regOf r.regs m.a).toNat + (regOf r.regs m.b).toNat), pc := r.pc + 1 }))) ∧
    (s.runsNext e 0x45 m r → exec (.trowelAddi e m) s = .next (s.setRun e (some { r with regs := r.regs.set m.a (regOf r.regs m.a + m.imm.signExtend 32), z := regOf r.regs m.a + m.imm.signExtend 32 == 0, c := decide (2 ^ 32 ≤ (regOf r.regs m.a).toNat + (m.imm.signExtend 32).toNat), pc := r.pc + 1 }))) ∧
    (s.runsNext e 0x46 m r → exec (.trowelSub e m) s = .next (s.setRun e (some { r with regs := r.regs.set m.a (regOf r.regs m.a - regOf r.regs m.b), z := regOf r.regs m.a - regOf r.regs m.b == 0, c := decide ((regOf r.regs m.a).toNat < (regOf r.regs m.b).toNat), pc := r.pc + 1 }))) ∧
    (s.runsNext e 0x47 m r → exec (.trowelAnd e m) s = .next (s.setRun e (some { r with regs := r.regs.set m.a (regOf r.regs m.a &&& regOf r.regs m.b), pc := r.pc + 1 }))) ∧
    (s.runsNext e 0x48 m r → exec (.trowelAndi e m) s = .next (s.setRun e (some { r with regs := r.regs.set m.a (regOf r.regs m.a &&& m.imm.setWidth 32), pc := r.pc + 1 }))) ∧
    (s.runsNext e 0x49 m r → exec (.trowelOr e m) s = .next (s.setRun e (some { r with regs := r.regs.set m.a (regOf r.regs m.a ||| regOf r.regs m.b), pc := r.pc + 1 }))) ∧
    (s.runsNext e 0x4A m r → exec (.trowelXor e m) s = .next (s.setRun e (some { r with regs := r.regs.set m.a (regOf r.regs m.a ^^^ regOf r.regs m.b), pc := r.pc + 1 }))) ∧
    (s.runsNext e 0x4B m r → exec (.trowelShl e m) s = .next (s.setRun e (some { r with regs := r.regs.set m.a (regOf r.regs m.a <<< (m.imm.toNat % 32)), pc := r.pc + 1 }))) ∧
    (s.runsNext e 0x4C m r → exec (.trowelShr e m) s = .next (s.setRun e (some { r with regs := r.regs.set m.a (regOf r.regs m.a >>> (m.imm.toNat % 32)), pc := r.pc + 1 }))) ∧
    (s.runsNext e 0x4D m r → exec (.trowelCmp e m) s = .next (s.setRun e (some { r with z := regOf r.regs m.a - regOf r.regs m.b == 0, c := decide ((regOf r.regs m.a).toNat < (regOf r.regs m.b).toNat), pc := r.pc + 1 }))) ∧
    (s.runsNext e 0x4E m r → exec (.trowelCmpi e m) s = .next (s.setRun e (some { r with z := regOf r.regs m.a - m.imm.setWidth 32 == 0, c := decide ((regOf r.regs m.a).toNat < (m.imm.setWidth 32).toNat), pc := r.pc + 1 }))) ∧
    (s.runsNext e 0x4F m r → exec (.trowelHash e m) s = .next (s.setRun e (some { r with regs := r.regs.set m.a (BitVec.ofNat 32 (crc32c (beBytes 4 (regOf r.regs m.a).toNat ++ beBytes 4 (regOf r.regs m.b).toNat))), pc := r.pc + 1 }))) ∧
    (s.runsNext e 0x68 m r → exec (.trowelBr e m) s = .next (s.setRun e (some { r with pc := r.pc + (if (m.a.val = 0 ∨ m.a.val = 1 ∧ r.z = true ∨ m.a.val = 2 ∧ r.z = false ∨ m.a.val = 3 ∧ r.c = true ∨ m.a.val = 4 ∧ r.c = false) then m.imm.toNat else 1) })))

/-- Macro-instructions on frames and memory (R290, R291, R294, R302). -/
def Obligations.TrowelFrameAndMemory : Prop :=
  ∀ (e : EngineId) (m : Macro) (r : Run) (s : State),
    (∀ j, r.job = some j →
      (s.runsNext e 0x50 m r → exec (.trowelLdf e m) s = .next (if frameAddr r m + m.width ≤ j.window then s.setRun e (some { r with pc := r.pc + 1, regs := r.regs.set m.a (BitVec.ofNat 32 (beAt j.frame.bytes (frameAddr r m) m.width)) }) else s.programFault e r)) ∧
      (s.runsNext e 0x51 m r → exec (.trowelStf e m) s = .next (if frameAddr r m + m.width ≤ j.window then s.setRun e (some { r with pc := r.pc + 1, job := some { j with frame := { j.frame with bytes := overlay j.frame.bytes (frameAddr r m) (beBytes m.width (regOf r.regs m.a).toNat) } } })
        else s.programFault e r)) ∧
      (s.runsNext e 0x52 m r → exec (.trowelIns e m) s = .next (if frameAddr r m ≤ j.window ∧ frameAddr r m ≤ 255 ∧ r.inserted + m.high ≤ 32 ∧
          j.frame.bytes.length + m.high + 4 ≤ s.egressMax r j then s.setRun e (some { r with pc := r.pc + 1, inserted := r.inserted + m.high, job := some { j with frame := { j.frame with bytes := j.frame.bytes.take (frameAddr r m) ++ List.replicate m.high 0 ++ j.frame.bytes.drop (frameAddr r m) } } }) else s.programFault e r)) ∧
      (s.runsNext e 0x53 m r → exec (.trowelDel e m) s = .next (if frameAddr r m + m.high ≤ j.window ∧ r.removed + m.high ≤ 32 then
        s.setRun e (some { r with pc := r.pc + 1, removed := r.removed + m.high, job := some { j with frame := { j.frame with bytes := j.frame.bytes.take (frameAddr r m) ++ j.frame.bytes.drop (frameAddr r m + m.high) } } }) else s.programFault e r)) ∧
      (s.runsNext e 0x54 m r → exec (.trowelCsum e m) s = .next (s.setRun e (some { r with pc := r.pc + 1, job := some { j with frame := { j.frame with bytes := if m.imm ≠ 0 then adjustL4 (s.rd Od.wallEthertype) r.original j.frame.bytes else match (parseFrame j.frame.bytes (s.rd Od.wallEthertype)).l3 with | some o => if (parseFrame j.frame.bytes (s.rd Od.wallEthertype)).ip = 4 then ipv4Checksum j.frame.bytes o else j.frame.bytes | none => j.frame.bytes } } }))) ∧
      (s.runsNext e 0x55 m r → exec (.trowelTsw e m) s = .next (if frameAddr r m + 8 ≤ j.window then s.setRun e (some { r with pc := r.pc + 1, job := some { j with frame := { j.frame with tsw := j.frame.tsw ++ [frameAddr r m] } } }) else s.programFault e r)) ∧
      (∀ v, (m.low, v) ∈ [(0, j.frame.src % 256), (1, if j.egress then j.port else 255), (2, j.frame.cls), (3, j.frame.pcp), (4, j.frame.metaValue % 65536),
          (5, s.metaField j 5), (6, ts64 j.frame.stamp % 2 ^ 32), (7, ts64 j.frame.stamp / 2 ^ 32), (8, j.frame.course % 2 ^ 32), (9, j.frame.vid),
          (10, j.appId), (11, j.packetType), (12, j.frame.ruleId)] ∨ 16 ≤ m.low ∧ v = j.udf.getD (m.low - 16) 0 →
        s.runsNext e 0x58 m r → exec (.trowelLdm e m) s = .next (s.setRun e (some { r with pc := r.pc + 1, regs := r.regs.set m.a (BitVec.ofNat 32 v) }))) ∧
      (m.low ≠ 2 → s.runsNext e 0x59 m r → exec (.trowelStm e m) s = .next (s.setRun e (some { r with pc := r.pc + 1, job := some { j with frame := if m.low = 3 then { j.frame with pcp := (regOf r.regs m.a).toNat % 8, bytes := remarkTag j.frame.bytes ((regOf r.regs m.a).toNat % 8) j.frame.dei } else if m.low = 4 then { j.frame with metaValue := (regOf r.regs m.a).toNat % 65536 } else j.frame } }))) ∧
      (s.runsNext e 0x70 m r → exec (.trowelFwd e m) s = .next (if (s.asOf r).destValid m.kind (regOf r.regs m.a).toNat = true then
        s.setRun e (some { r with pc := r.pc + 1, fwd := some (m.kind, (regOf r.regs m.a).toNat) }) else s.programFault e r))) ∧
    (r.job = none → ∀ (op : Nat) (c : Instr), (op, c) ∈ [(0x50, .trowelLdf e m), (0x51, .trowelStf e m), (0x52, .trowelIns e m), (0x53, .trowelDel e m),
        (0x54, .trowelCsum e m), (0x55, .trowelTsw e m), (0x70, .trowelFwd e m)] → s.runsNext e op m r → exec c s = .next (s.programFault e r)) ∧
    (∀ (old : Nat) (ok : Bool), old = s.memWord (e / 4 * 16384 + memAddr r m / 4) →
        ok = decide (memAddr r m % 4 = 0 ∧ memAddr r m ≤ 0xFFFF ∧ (memAddr r m < 0xF000 ∨ r.keystone = true)) →
      (s.runsNext e 0x60 m r → exec (.trowelLds e m) s = .next (if ok = true then s.setRun e (some { r with pc := r.pc + 1, regs := r.regs.set m.a (BitVec.ofNat 32 old) }) else s.programFault e r)) ∧
      (s.runsNext e 0x61 m r → exec (.trowelSts e m) s = .next (if ok = true then (s.setMemWord (e / 4 * 16384 + memAddr r m / 4)
        (regOf r.regs m.a).toNat).setRun e (some { r with pc := r.pc + 1 }) else s.programFault e r)) ∧
      (s.runsNext e 0x62 m r → exec (.trowelAad e m) s = .next (if ok = true then (s.setMemWord (e / 4 * 16384 + memAddr r m / 4)
        ((old + (regOf r.regs m.a).toNat) % 2 ^ 32)).setRun e (some { r with pc := r.pc + 1, regs := r.regs.set m.a (BitVec.ofNat 32 old) })
        else s.programFault e r)))

/-- STM of Class (R292). -/
def Obligations.TrowelClassWrite : Prop :=
  ∀ (e : EngineId) (m : Macro) (r : Run) (j : Job) (s : State), m.low = 2 → r.job = some j → s.runsNext e 0x59 m r →
    (r.keystone = false → (regOf r.regs m.a).toNat % 8 = 7 ∨ j.frame.cls = 7 → exec (.trowelStm e m) s =
      .next ((s.bump (Od.classWriteRefusedIngress (e / 4 / 2) + e / 4 % 2)).setRun e (some { r with pc := r.pc + 1 }))) ∧
    (r.keystone = true ∨ (regOf r.regs m.a).toNat % 8 ≠ 7 ∧ j.frame.cls ≠ 7 → exec (.trowelStm e m) s =
      .next (s.setRun e (some { r with pc := r.pc + 1, job := some { j with frame := { j.frame with cls := (regOf r.regs m.a).toNat % 8 } } })))

/-- Engines of the Trowel (R295, R300 to R304, R309, R310). -/
def Obligations.TrowelEngineCommands : Prop :=
  (∀ (e : EngineId) (off : Nat) (j : Job) (l : List Job) (pr : Program) (s u : State), u = s.moveTo off → u.engineFree e = true →
    u.mustSwitch e true = false → u.handlerDue (e / 4) = false → (u.pipe (e / 4)).high = j :: l → j.program = some pr →
    exec (.trowelDispatch e off) s = .next (((u.setPipe (e / 4) { u.pipe (e / 4) with high := l }).setRun e (some (Run.start (some j) pr))).bump
      (Od.framesDispatchedIngress (e / 4 / 2) + e / 4 % 2))) ∧
  (∀ (e : EngineId) (pr : Program) (s : State), s.handler (e / 4) = some pr → (s.pipe (e / 4)).courseEvent = true → s.engineFree e = true →
    s.mustSwitch e true = false → exec (.courseHandler e) s = .next (((s.setPipe (e / 4) { s.pipe (e / 4) with courseEvent := false }).setRun e
      (some (Run.start none pr))).bump (Od.courseHandlerRunsIngress (e / 4 / 2) + e / 4 % 2))) ∧
  (∀ (e : EngineId) (m : Macro) (r : Run) (j : Job) (s : State), r.job = some j →
    (s.runsNext e 0x71 m r → ∀ (u : State) (sent : Bool), s.sendRecord (s.rd (Od.trowelEventDest (e / 4 / 2))) (leBytes 24 (m.imm.toNat * 2 ^ 176 +
        (if j.egress then j.port else j.frame.src % 256) * 2 ^ 168 + e / 4 % 2 * 2 ^ 167 + (regOf r.regs m.a).toNat * 2 ^ 96 +
        (regOf r.regs m.b).toNat * 2 ^ 64 + ts64 j.frame.stamp)) = (u, sent) → exec (.trowelEvt e m) s =
      .next ((u.bump ((if sent then Od.eventsSentIngress (e / 4 / 2) else Od.eventDropsIngress (e / 4 / 2)) + e / 4 % 2)).setRun e (some { r with pc := r.pc + 1 }))) ∧
    (s.runsNext e 0x72 m r → exec (.trowelTrap e m) s = .next ((s.exception (e / 4 / 2) 8 j.port j.egress j.frame).endDropped e r)) ∧
    (s.runsNext e 0x73 m r → exec (.trowelDrop e m) s = .next (s.endDropped e r)) ∧
    (s.runsNext e 0x7F m r → exec (.trowelEnd e m) s = .next (s.endFrame e r))) ∧
  (∀ (e : EngineId) (p : Patch) (s : State), s.trowel.switching = some p → s.trowel.switched.contains e.val = false → s.run? e = none →
    (List.range 256).all (fun n => (e.val :: s.trowel.switched).contains n || s.trowel.dead.contains n) = false →
    exec (.patchSwitch e) s = .next { s with trowel.switched := e.val :: s.trowel.switched }) ∧
  (∀ (e : EngineId) (s : State), (s.pipe (e / 4)).spareUsed = false → s.trowel.dead.contains e.val = false → s.run? e = none → exec (.spareSubstitution e) s =
    .next (((s.setPipe (e / 4) { s.pipe (e / 4) with spareUsed := true }).bump (Od.engineSubstitutionsIngress (e / 4 / 2) + e / 4 % 2)).raise 0x5A0D e.val)) ∧
  (∀ (e : EngineId) (s : State), (s.pipe (e / 4)).spareUsed = true → (s.pipe (e / 4)).lost = false → s.run? e = none → exec (.trowelEngineLost e) s =
    .next (({ s.setPipe (e / 4) { s.pipe (e / 4) with lost := true } with trowel.dead := e.val :: (s.setPipe (e / 4) { s.pipe (e / 4) with lost := true }).trowel.dead } : State).raise 0x5A0E e.val))

/-- Look-aside requests (R344, R363 to R365). -/
def Obligations.LookAsideRequests : Prop :=
  ∀ (c : Instr) (op : Nat) (q : LookReq) (s u : State), u = s.moveTo q.off →
    (c = .gcmEncrypt q ∧ op = 1) ∨ (c = .gcmDecrypt q ∧ op = 2) ∨ (c = .gmacGenerate q ∧ op = 3) ∨ (c = .gmacVerify q ∧ op = 4) ∨ (c = .xtsEncrypt q ∧ op = 5) ∨ (c = .xtsDecrypt q ∧ op = 6) ∨ (c = .cmacGenerate q ∧ op = 7) ∨ (c = .cmacVerify q ∧ op = 8) ∨ (c = .sha384 q ∧ op = 9) ∨ (c = .hmacGenerate q ∧ op = 10) ∨ (c = .hmacVerify q ∧ op = 11) ∨ (c = .unwrapKey q ∧ op = 12) →
    exec c s = .next (s.lookAside op q) ∧
    (∀ k n, (k = 1 ∧ coreUsable (u.rd Od.modeInForce) n = true ∧ (∃ i : Fin 96, i.val = n ∧ q.origin = .core i) ∨ k = 2 ∧ n = 0 ∧ q.origin = .keystone) →
      laOp q.descriptor.toNat = op → ∃ x v, exec c s = .next (v.enterCluster q.tile.val x) ∧ x.id = s.cipher.nextReq ∧ x.kind = k ∧ x.number = n ∧
      x.ready = true ∧ x.refused = u.laRefused k n q.descriptor.toNat ∧ x.descriptor = q.descriptor.toNat ∧
      x.slot = u.keySlot (if op = 12 then laKek q.descriptor.toNat else laSlot q.descriptor.toNat) ∧
      v = ({ u with cipher := { u.cipher with nextReq := u.cipher.nextReq + 1 } } : State).addTo
        (Od.requestsAtUrgency (0x30 + q.tile.val) (laUrgency q.descriptor.toNat)) 1)

/-- Progress of look-aside requests (R345, R346, R364). -/
def Obligations.LookAsideProgress : Prop :=
  (∀ (t : Fin 4) (id status : Nat) (x : CipherReq) (s : State), (s.cluster t).running.find? (fun x => x.id == id) = some x → x.refused = some status →
    ((s.cluster t).running ++ (s.cluster t).suspended ++ (s.cluster t).waiting).any (fun y => y.kind == x.kind && y.number == x.number && decide (y.id < x.id)) = false →
    exec (.lookAsideCompletion t id) s = .next (s.laFinish t x status)) ∧
  (∀ (t : Fin 4) (id n status : Nat) (out tag key : Option (List Byte)) (x : CipherReq) (s used u : State),
    (s.cluster t).running.find? (fun x => x.id == id) = some x → x.refused = none →
    ((s.cluster t).running ++ (s.cluster t).suspended ++ (s.cluster t).waiting).any (fun y => y.kind == x.kind && y.number == x.number && decide (y.id < x.id)) = false →
    laCompute x = (status, out, tag, key) → n = (if laOp x.descriptor = 0xC then laKek x.descriptor else laSlot x.descriptor) →
    used = (if laOp x.descriptor ≠ 9 ∧ (s.keySlot n).key = x.slot.key ∧ (s.keySlot n).algorithm = x.slot.algorithm then s.useSlot n else s) →
    u = (used.laWrite t x "look-aside data" (bitField x.descriptor 191 128) (bitOf x.descriptor 501) (out.getD [])).laWrite t x "look-aside tag"
      (bitField x.descriptor 127 64) (bitOf x.descriptor 501) (tag.getD []) →
    (key = none → exec (.lookAsideCompletion t id) s = .next ((if status = 8 then u.raise 0x7A05 (laSlot x.descriptor) else u).laFinish t x status)) ∧
    (∀ (k : List Byte) (v : State), key = some k → v = { u with agent := { u.agent with crs := u.agent.crs ++ [CrsWrite.mk 0 (Item.raw Od.keyLoad (beBytes 2 (laSlot x.descriptor) ++ beBytes 1 (laAlgorithm x.descriptor) ++ beBytes 1 0 ++ beBytes 2 0 ++ beBytes 2 k.length ++ k)) u.applyCourse] } } →
      exec (.lookAsideCompletion t id) s = .next ((if status = 8 then v.raise 0x7A05 (laSlot x.descriptor) else v).laFinish t x status))) ∧
  (∀ (t : Fin 4) (a : CipherReq) (s : State), (s.cluster t).running.length < 8 → firstUrgent (s.cluster t).suspended = some a →
    (∀ b, firstUrgent (s.cluster t).waiting = some b → laUrgency b.descriptor ≤ laUrgency a.descriptor) → exec (.cipherResume t) s =
    .next (s.setCluster t { s.cluster t with running := (s.cluster t).running ++ [a], suspended := (s.cluster t).suspended.filter (fun y => y.id != a.id) })) ∧
  (∀ (t : Fin 4) (b : CipherReq) (s : State), (s.cluster t).running.length < 8 → firstUrgent (s.cluster t).suspended = none →
    firstUrgent (s.cluster t).waiting = some b → exec (.cipherResume t) s =
    .next (s.setCluster t { s.cluster t with running := (s.cluster t).running ++ [b], waiting := (s.cluster t).waiting.filter (fun y => y.id != b.id) }))

/-- Buffer commands of the cores (R373, R374, R377, R378). -/
def Obligations.BufferCommands : Prop :=
  ∀ (n : Fin 96) (c : HodCmd) (s : State), (c.pool.toNat = 0x41 ∨ c.pool.toNat = 0x20 + n.val / 6) → coreUsable (s.rd Od.modeInForce) n.val = true →
    (s.overQuota c.pool.toNat (coreOwner n) = false → (if c.pool.toNat = 0x41 then 0 else 64) < s.poolFree c.pool.toNat →
      ∃ u v, s.takeUnit c.pool.toNat (coreOwner n) = (u, v) ∧ exec (.hodAlloc n c) s = .next (u.emit (.core n "hod" (leBytes 16 (hodResponse 0
        (tblGet 0 u.hod.gens (c.pool.toNat * 2 ^ 32 + v)) { HodUnit.none_ with owner := coreOwner n } (s.poolBase c.pool.toNat + v * poolUnit c.pool.toNat)))))) ∧
    (∀ (u key : Nat) (x y : HodUnit) (op : Nat) (cmd : Instr), c.address.toNat = s.poolBase c.pool.toNat + u * poolUnit c.pool.toNat →
      u < s.poolCapacity c.pool.toNat → key = c.pool.toNat * 2 ^ 32 + u → s.hod.units.find? (fun e => e.1 == key) = some (key, x) →
      (op = 2 ∧ cmd = .hodRelease n c ∨ op = 3 ∧ cmd = .hodFree n c ∨ op = 4 ∧ cmd = .hodAddref n c ∧ c.count ≠ 0 ∨
        op = 5 ∧ cmd = .hodTransfer n c ∧ ownerValid c.newOwner.toNat = true ∧ (c.pool.toNat = 0x41 ∨ c.newOwner.toNat / 64 = c.pool.toNat) ∨ op = 6 ∧ cmd = .hodQuery n c) →
      (tblGet 0 s.hod.gens key = c.gen.toNat → hodAct s op c.pool.toNat (coreOwner n) c x = (0, y) →
        ∀ t : State, t = (if op = 6 then s else if y.armed && y.count == 0 && !s.hod.quarantined.contains key then s.returnUnit key else { s with hod := { s.hod with units := tblPut s.hod.units key y } }) →
          exec cmd s = .next (t.emit (.core n "hod" (leBytes 16 (hodResponse 0 (tblGet 0 t.hod.gens key) y c.address.toNat))))) ∧
      (tblGet 0 s.hod.gens key ≠ c.gen.toNat → exec cmd s = .next ((s.bump (Od.refusedCommands c.pool.toNat)).emit
        (.core n "hod" (leBytes 16 (hodResponse 4 0 HodUnit.none_ c.address.toNat)))))) ∧
    (∀ key, tblGet 0 (s.returnUnit key).hod.gens key = (tblGet 0 s.hod.gens key + 1) % 256)

/-- Host queue pairs (R399 to R404). -/
def Obligations.HostQueueCommands : Prop :=
  ∀ (k : QueueRef) (s : State), s.areaOpen k = true →
    ((s.qp (qrKey k)).enable = false → s.enableRefused k (s.qp (qrKey k)) = true → exec (.queueEnable k) s = .next (s.setQp (qrKey k) { s.qp (qrKey k) with refused := true })) ∧
    ((s.qp (qrKey k)).enable = false → s.enableRefused k (s.qp (qrKey k)) = false → ∀ (t r c : Nat) (ph : Bool),
      (s.qp (qrKey k)).restored = some (t, r, c, ph) ∨ (s.qp (qrKey k)).restored = none ∧ t = 0 ∧ r = 0 ∧ c = 0 ∧ ph = true →
      exec (.queueEnable k) s = .next (s.setQp (qrKey k) { s.qp (qrKey k) with enable := true, refused := false, restored := none, txHead := t, txTail := t, rxHead := r, rxTail := r, rxFetch := r, rxDescs := [], cqTail := c, cqHead := c, phase := ph, cqUsed := 0, cqWaiting := [], armed := false, unsignalled := [], building := [] })) ∧
    exec (.queueDisable k) s = .next (s.stopQueue (qrKey k)) ∧
    (∀ i : BitVec 16, (s.qp (qrKey k)).enable = true → ringSize (s.qp (qrKey k)).txLog ≠ 0 → exec (.txTail k i) s =
      .next (s.setQp (qrKey k) { s.qp (qrKey k) with txTail := i.toNat % ringSize (s.qp (qrKey k)).txLog })) ∧
    (∀ i : BitVec 16, (s.qp (qrKey k)).enable = true → ringSize (s.qp (qrKey k)).rxLog ≠ 0 → exec (.rxTail k i) s =
      .next (s.setQp (qrKey k) { s.qp (qrKey k) with rxTail := i.toNat % ringSize (s.qp (qrKey k)).rxLog })) ∧
    (∀ (i : BitVec 16) (arm : Bool), (s.qp (qrKey k)).enable = true → ringSize (s.qp (qrKey k)).cqLog ≠ 0 → ∀ (h used : Nat) (q : QueuePair),
      h = i.toNat % ringSize (s.qp (qrKey k)).cqLog → used = (s.qp (qrKey k)).cqUsed - (h + ringSize (s.qp (qrKey k)).cqLog -
        (s.qp (qrKey k)).cqHead % ringSize (s.qp (qrKey k)).cqLog) % ringSize (s.qp (qrKey k)).cqLog →
      q = { s.qp (qrKey k) with cqHead := h, cqUsed := used, armed := (s.qp (qrKey k)).armed || arm, unsignalled := (s.qp (qrKey k)).unsignalled.drop ((s.qp (qrKey k)).unsignalled.length - used) } →
      ((((s.qp (qrKey k)).halted || (s.qp (qrKey k)).stopping) = true → exec (.cqHead k i arm) s = .next (s.setQp (qrKey k) q)) ∧
      (((s.qp (qrKey k)).halted || (s.qp (qrKey k)).stopping) = false → exec (.cqHead k i arm) s =
        .next ((s.setQp (qrKey k) q).cqDrain (qrKey k) (s.qp (qrKey k)).cqWaiting.length)))) ∧
    (s.mayFetch (qrKey k) = true → exec (.descriptorFetch k true) s = .next (s.rxPump (qrKey k)) ∧
      (k.fn.val = 1 → exec (.descriptorFetch k false) s = .next (s.txPump (qrKey k) 4096)))

/-- Delivery to a host (R403, R412, R418, R433). -/
def Obligations.HostDelivery : Prop :=
  (∀ (k : QueueRef) (off : Nat) (poisoned : Bool) (x : Rx) (s u v : State), u = s.moveTo off → u.switch.rx.find? (fun x => u.destQp x.dest == qrKey k) = some x →
    v = (if x.via.isNone then ({ u with switch := { u.switch with rx := u.switch.rx.erase x } } : State).poolGive (0x34 + qrFn k / 8) x.frame.bricks
      else { u with switch := { u.switch with rx := u.switch.rx.erase x } }).dropCopy x.frame →
    ((u.qp (qrKey k)).halted = true → exec (.hostReceiveDelivery k off poisoned) s = .next (v.bump (Od.rxHalted (qrFn k)))) ∧
    ((u.qp (qrKey k)).halted = false → u.quiescing k.slice.val = true → exec (.hostReceiveDelivery k off poisoned) s = .next (v.bumpSlice k.slice.val 0)) ∧
    ((u.qp (qrKey k)).halted = false → u.quiescing k.slice.val = false → ((u.qp (qrKey k)).enable = false ∨ (u.qp (qrKey k)).stopping = true ∨
      (u.qp (qrKey k)).rxHead = (u.qp (qrKey k)).rxTail) → exec (.hostReceiveDelivery k off poisoned) s = .next (v.bump (Od.rxNoBuffer (qrFn k)))) ∧
    (∀ d rest, (u.qp (qrKey k)).halted = false → u.quiescing k.slice.val = false → (u.qp (qrKey k)).enable = true → (u.qp (qrKey k)).stopping = false →
      (u.qp (qrKey k)).rxHead ≠ (u.qp (qrKey k)).rxTail → (u.qp (qrKey k)).rxDescs = d :: rest → ∀ (all : List Byte) (w : State),
      all = (match x.frame.exc with | some e => leBytes 16 e | none => []) ++ x.frame.bytes →
      w = (v.setQp (qrKey k) { u.qp (qrKey k) with rxDescs := rest, rxHead := ((u.qp (qrKey k)).rxHead + 1) % max 1 (ringSize (u.qp (qrKey k)).rxLog) }).hostWrite (qrFn k)
        (some k.slice.val) (bitField d 127 64) (u.relaxedOk (qrFn k) (bitOf d 31)) poisoned (all.take (bitField d 63 48)) →
      exec (.hostReceiveDelivery k off poisoned) s = .next ((if poisoned then (w.bump (Od.poisonForwarded (qrFn k))).raiseLimited 0x8A06 (qrFn k) 1 (qrFn k)
        else w).cqWrite (qrKey k) (cqRecord (if x.frame.exc.isSome then 3 else 2) (if poisoned then 3 else 0) x.late (decide (x.frame.src < 256))
        x.frame.decrypted x.frame.cls x.via (bitField d 47 32) all.length x.frame.src x.frame.metaValue x.frame.ruleId x.frame.stamp)))) ∧
  (∀ (k : QueueRef) (c : Nat) (l : List Nat) (s : State), k.fn.val ≠ 2 → (s.qp (qrKey k)).enable = true → (s.qp (qrKey k)).halted = false → (s.qp (qrKey k)).armed = true →
    (s.qp (qrKey k)).coalesceCourses ≠ 0 → (s.qp (qrKey k)).unsignalled = c :: l → (c + (s.qp (qrKey k)).coalesceCourses ≤ s.course ∨
      (s.qp (qrKey k)).coalesceCount ≠ 0 ∧ (s.qp (qrKey k)).coalesceCount ≤ (c :: l).length) → exec (.interruptCoalesce k) s =
    .next ((s.setQp (qrKey k) { s.qp (qrKey k) with armed := false, unsignalled := [] }).sliceInterrupt (qrFn k) k.slice.val (s.qp (qrKey k)).vector)) ∧
  (∀ (k : QueueRef) (c : Nat) (l : List Nat) (s : State), k.fn.val = 2 → (s.nvq (qrKey k)).enable = true → (s.nvq (qrKey k)).halted = false → (s.nvq (qrKey k)).armed = true →
    (s.nvq (qrKey k)).coalesceCourses ≠ 0 → (s.nvq (qrKey k)).unsignalled = c :: l → (c + (s.nvq (qrKey k)).coalesceCourses ≤ s.course ∨
      (s.nvq (qrKey k)).coalesceCount ≠ 0 ∧ (s.nvq (qrKey k)).coalesceCount ≤ (c :: l).length) → exec (.interruptCoalesce k) s =
    .next ((s.setNvq (qrKey k) { s.nvq (qrKey k) with armed := false, unsignalled := [] }).sliceInterrupt (qrFn k) k.slice.val (s.nvq (qrKey k)).vector))

/-- Completion timeouts (R394). -/
def Obligations.CompletionTimeoutValues : Prop :=
  ∀ (s : State) (f : Nat), s.completionTimeout f =
    if (s.hostFn f).deviceControl2 % 16 = 0b0101 then 40 else if (s.hostFn f).deviceControl2 % 16 = 0b0110 then 120
    else if (s.hostFn f).deviceControl2 % 16 = 0b1001 then 500 else if (s.hostFn f).deviceControl2 % 16 = 0b1010 then 2000 else 50

/-- Functions of a host link (R393, R405, R406, R409). -/
def Obligations.HostFunctionCommands : Prop :=
  (∀ (k : Fin 4) (v : BitVec 32) (s : State), s.answers (4 * k.val + 3) = true → bitOf v.toNat 31 = true → (s.ring k).enable = false → exec (.eventRingEnable k v) s =
    .next ((s.setRing k { s.ring k with enable := true, halted := false, log := v.toNat % 16, tail := 0, head := 0, used := 0, phase := true, armed := false }).ringDrain k ringFuel)) ∧
  (∀ (k : Fin 4) (v : BitVec 32) (s : State), s.answers (4 * k.val + 3) = true → bitOf v.toNat 31 = false → exec (.eventRingEnable k v) s =
    .next (s.setRing k { s.ring k with enable := false, halted := false, log := v.toNat % 16 })) ∧
  (∀ (k : Fin 4) (v : BitVec 32) (s : State), s.answers (4 * k.val + 3) = true → (s.ring k).enable = true → ringSize (s.ring k).log ≠ 0 → ∀ i : Nat, i = v.toNat % 2 ^ 16 % ringSize (s.ring k).log →
    exec (.eventHead k v) s = .next ((s.setRing k { s.ring k with head := i, used := (s.ring k).used - (i + ringSize (s.ring k).log - (s.ring k).head % ringSize (s.ring k).log) % ringSize (s.ring k).log, armed := (s.ring k).armed || bitOf v.toNat 31 }).ringDrain k ringFuel)) ∧
  (∀ (k : Fin 4) (off : Nat) (s u : State), u = s.moveTo off → u.answers (4 * k.val + 3) = true → exec (.timeLow k off) s =
    .next ((u.setRing k { u.ring k with latched := ts96 u.now / 2 ^ 32 }).emit (.completion k 3 0 (leBytes 4 (ts96 u.now))))) ∧
  (∀ (k f : Fin 4) (tag : Nat) (s : State), s.linkPresent k = true → s.hostLinkUp k = true →
    exec (.atomicOp k f) s = .next (s.unsupported (4 * k.val + f.val)) ∧
    exec (.poisonedWrite k f) s = .next ((s.setHostFn (4 * k.val + f.val) { s.hostFn (4 * k.val + f.val) with aerUncorrectable := withBit (s.hostFn (4 * k.val + f.val)).aerUncorrectable 12 true }).bump (Od.poisonedReceived (4 * k.val + f.val))) ∧
    exec (.vendorDefinedMessage k f) s = .next (s.bump (Od.messagesDropped (4 * k.val + f.val))) ∧
    ((s.tagsOut k).contains tag = false → exec (.unexpectedCompletion k f tag) s = .next (s.unexpected (4 * k.val + f.val)))) ∧
  (∀ (k f : Fin 4) (reg : CfgReg) (v : BitVec 64) (s : State), s.configurable (4 * k.val + f.val) = true → (f.val = 2 → s.rd Od.modeInForce ≠ 6) →
    (∃ u x, s.configRead (4 * k.val + f.val) reg = (u, x) ∧ exec (.configurationRequest k (f.castLE (by decide : 4 ≤ 8)) reg none) s =
      .next (u.emit (.completion k (f.castLE (by decide : 4 ≤ 8)) 0 (leBytes (if reg = .serial then 8 else 4) x)))) ∧
    exec (.configurationRequest k (f.castLE (by decide : 4 ≤ 8)) reg (some v)) s = .next ((s.configWrite (4 * k.val + f.val) reg v.toNat).emit
      (.completion k (f.castLE (by decide : 4 ≤ 8)) 0 [])))

/-- Host links, resets and completions (R389 to R392, R410 to R414). -/
def Obligations.HostLinksAndResets : Prop :=
  (∀ (k : Fin 4) (rate width : Nat) (s : State), s.boot.phase = 2 → s.linkPresent k = true → s.hostLinkUp k = false → 1 ≤ rate → rate ≤ 6 → width ∈ [1, 2, 4, 8, 16] →
    (width = 16 → s.rd (Od.bifurcation (k.val / 2)) ≠ 1) →
    exec (.hostLinkUp k rate width) s = .next ((s.wr (Od.hostLinkStatus k) (rate * 2 ^ 24 + width * 2 ^ 16 + boolNat (rate == 6) * 2 ^ 8 + 1)).pumpReads k s.host.reads.length)) ∧
  (∀ (k : Fin 4) (s : State), s.linkPresent k = true → s.hostLinkUp k = true → exec (.hostLinkReset k) s = .next (s.hostLinkDown k)) ∧
  (∀ (p : Fin 2) (strap : Bool) (s : State), s.boot.phase = 2 → exec (.perstRelease p strap) s =
    .next (((if (s.hostLinkDown (2 * p.val)).linkPresent (2 * p.val + 1) then (s.hostLinkDown (2 * p.val)).hostLinkDown (2 * p.val + 1)
      else s.hostLinkDown (2 * p.val)).freshWindows p.val).wr (Od.bifurcation p) (boolNat strap))) ∧
  (∀ (k f : Fin 4) (s : State), s.configurable (4 * k.val + f.val) = true →
    exec (.busMasterEnableSet k f) s = .next (s.setBusMaster (4 * k.val + f.val) true) ∧
    exec (.busMasterEnableClear k f) s = .next (s.setBusMaster (4 * k.val + f.val) false) ∧
    exec (.initiateFunctionLevelReset k f) s = .next (s.beginReset (4 * k.val + f.val)) ∧
    (bitOf (s.hostFn (4 * k.val + f.val)).command 2 = false → ∃ t : State, s.setBusMaster (4 * k.val + f.val) true = t.pumpReads ((4 * k.val + f.val) / 4)
      t.host.reads.length ∧ bitOf (t.hostFn (4 * k.val + f.val)).command 2 = true)) ∧
  (∀ (k f : Fin 4) (s : State), (s.hostFn (4 * k.val + f.val)).resetting = true → s.host.reads.any (fun r => r.fn == 4 * k.val + f.val) = false →
    exec (.functionResetComplete k f) s = .next (s.finishReset (4 * k.val + f.val))) ∧
  (∀ (k f : Fin 4) (tag : Nat) (bs : List Byte) (r : Dma) (s : State), s.linkPresent k = true → s.hostLinkUp k = true → s.readOf k f tag = some r → bs.length = r.len →
    exec (.completion k f tag 0 false bs) s = .next (s.conclude r false (some bs)) ∧
    (∀ status, status ≠ 0 → exec (.completion k f tag status false bs) s = .next (s.conclude r false none))) ∧
  (∀ (k : Fin 4) (tag : Nat) (r : Dma) (s : State), s.host.reads.find? (fun r => r.issued && r.fn / 4 == k.val && r.tag == tag) = some r →
    s.dueEvery (tmCompletion k tag) (s.msCourses r.limit) s.completionGrain = true → exec (.completionTimeout k tag) s =
    .next (((s.bump (Od.completionTimeouts r.fn)).raiseLimited 0x8A01 r.fn 1 r.fn).conclude r false none))

/-- Peer windows and aperture (R409, R415 to R417). -/
def Obligations.PeerWindowCommands : Prop :=
  (∀ (k : Fin 4) (w : Fin 64) (off : Nat) (s u : State), u = s.moveTo off → u.answers (4 * k.val + 1) = true → (u.windowsOf k).contains w.val = true →
    (u.window (k.val / 2) w).pending = false → exec (.peerWindowCommit k w off) s = .next (u.setWindow (k.val / 2) w { u.window (k.val / 2) w with pending := true, error := false, course := u.roomFrom u.applyCourse 256 })) ∧
  (∀ (k : Fin 4) (offset req len : Nat) (bs : List Byte) (s : State), s.linkPresent k = true → s.hostLinkUp k = true → s.answers (4 * k.val + 1) = true →
    (∀ (w v base : Nat) (t : State), w ∈ s.windowsOf k → (∀ x ∈ s.windowsOf k, x ≠ w → winEnabled (s.window (k.val / 2) x).active = false) →
      v = (s.window (k.val / 2) w).active → winEnabled v = true → (req ^^^ bitField v 111 96) &&& bitField v 95 80 = 0 →
      base = s.rd (Od.peerRegionBase (k.val / 2)) + (winOffset v + (offset - winBase v)) → t = s.hbmRequest (0x34 + k.val / 2) 5 (base / 64) →
      (winTarget v = 1 → bitOf v 183 = true → winBase v ≤ offset → offset + len ≤ winBase v + winSize v → exec (.peerApertureRequest k offset req (.read len)) s =
        .next (t.emit (.completion k 1 0 ((List.range len).map (fun i => t.peerByte (base + i)))))) ∧
      (winTarget v = 1 → bitOf v 182 = true → winBase v ≤ offset → offset + bs.length ≤ winBase v + winSize v →
        exec (.peerApertureRequest k offset req (.write bs)) s = .next (t.peerStore base bs)) ∧
      (winTarget v ≠ 1 → bitOf v 182 = true → winBase v ≤ offset → offset + bs.length ≤ winBase v + winSize v →
        exec (.peerApertureRequest k offset req (.write bs)) s =
          (s.peerDoorbell k (winOffset v + (offset - winBase v)) bs).getD (.next (s.peerMiss (4 * k.val + 1) (.write bs))))) ∧
    ((∀ w ∈ s.windowsOf k, winEnabled (s.window (k.val / 2) w).active = false) → exec (.peerApertureRequest k offset req (.read len)) s = .next (s.peerMiss (4 * k.val + 1) (.read len)) ∧
      exec (.peerApertureRequest k offset req (.write bs)) s = .next (s.peerMiss (4 * k.val + 1) (.write bs)))) ∧
  (∀ (s : State) (a : Nat) (b : Byte), (s.peerStore a [b]).peerByte a = b ∧ ∀ x, x ≠ a → (s.peerStore a [b]).peerByte x = s.peerByte x)

/-- Slices (R426 to R430, R433 to R436). -/
def Obligations.SliceCommands : Prop :=
  (∀ (k : SliceRef) (pasid : BitVec 20) (s : State), s.blockOpen k = true → (s.block (srFn k) k.slice).bound = false →
    (s.sliceSet k.slice).link = k.link.val → bitOf (s.sliceSet k.slice).functions k.fn.val = true →
    (∀ e ∈ s.slices.blocks, e.1 / 4096 = srFn k → e.1 % 4096 ≠ k.slice.val → e.2.bound = true → e.2.pasid ≠ pasid.toNat) →
    exec (.bound k pasid) s = .next (s.setBlock (srFn k) k.slice
      { s.block (srFn k) k.slice with pasid := pasid.toNat, bound := true, bindRefused := false })) ∧
  (∀ (k : SliceRef) (pasid : BitVec 20) (s : State), s.blockOpen k = true → (s.block (srFn k) k.slice).bound = false →
    ((s.sliceSet k.slice).link ≠ k.link.val ∨ bitOf (s.sliceSet k.slice).functions k.fn.val = false ∨
      ∃ e ∈ s.slices.blocks, e.1 / 4096 = srFn k ∧ e.1 % 4096 ≠ k.slice.val ∧ e.2.bound = true ∧ e.2.pasid = pasid.toNat) →
    exec (.bound k pasid) s = .next (s.setBlock (srFn k) k.slice
      { s.block (srFn k) k.slice with pasid := pasid.toNat, bindRefused := true })) ∧
  (∀ (k : SliceRef) (s : State), s.blockOpen k = true → (s.block (srFn k) k.slice).bound = true → exec (.unbind k) s =
    .next (((s.setBlock (srFn k) k.slice { s.block (srFn k) k.slice with unbinding := true }).stopSlice (srFn k) k.slice).unbindCheck
      (srFn k) k.slice)) ∧
  (∀ (k : SliceRef) (on : Bool) (s : State), s.blockOpen k = true → exec (.quiesce k on) s = .next (s.setBlock (srFn k) k.slice
    { s.block (srFn k) k.slice with quiesce := on, quiesced := on && (s.block (srFn k) k.slice).quiesced })) ∧
  (∀ (k : SliceRef) (s : State), (s.block (srFn k) k.slice).quiesce = true → (s.block (srFn k) k.slice).quiesced = false →
    s.ops k.slice = 0 → s.marksOwed k.slice = false → exec (.sliceQuiesced k) s =
    .next ((s.setBlock (srFn k) k.slice { s.block (srFn k) k.slice with quiesced := true }).raise 0x8A0A k.slice)) ∧
  (∀ (k : SliceRef) (on : Bool) (off : Nat) (s u : State), u = s.moveTo off → u.blockOpen k = true → exec (.dirtyLogEnable k on off) s =
    .next (u.setBlock (srFn k) k.slice { u.block (srFn k) k.slice with due := (u.block (srFn k) k.slice).due ++ [(boolNat on, u.applyCourse)] })) ∧
  (∀ (k : SliceRef) (off : Nat) (s u : State), u = s.moveTo off → u.blockOpen k = true → (u.block (srFn k) k.slice).flipPending = false →
    exec (.dirtyFlip k off) s = .next (u.setBlock (srFn k) k.slice { u.block (srFn k) k.slice with flipPending := true, due := (u.block (srFn k) k.slice).due ++ [(2, u.applyCourse)] })) ∧
  (∀ (k : SliceRef) (s : State), (s.block (srFn k) k.slice).flipped = true → (∀ r ∈ s.host.reads, r.kind = .dirtyMark →
      r.id ≠ (srFn k * 4096 + k.slice.val) * 2 + boolNat (!(s.block (srFn k) k.slice).active)) → exec (.flipComplete k) s = .next (s.setBlock (srFn k) k.slice { s.block (srFn k) k.slice with flipPending := false, flipped := false })) ∧
  (∀ (k : QueueRef) (s : State), k.fn.val ≠ 2 → (s.qp (qrKey k)).stopping = true → s.queueReads (qrKey k) = false →
    exec (.queueResetComplete k) s = .next ((s.resetQueue (qrKey k)).unbindCheck (qrFn k) k.slice)) ∧
  (∀ (k : QueueRef) (s : State), k.fn.val = 2 → (s.nvq (qrKey k)).stopping = true →
    (∀ r ∈ s.host.reads, r.queue = qrKey k → r.kind ≠ .storage) →
    exec (.queueResetComplete k) s = .next ((s.resetNvq (qrKey k)).unbindCheck (qrFn k) k.slice)) ∧
  (∀ (k : SliceRef) (s u v : State), s.blockOpen k = true → (s.block (srFn k) k.slice).bound = true → (s.block (srFn k) k.slice).resetPending = false →
    u = s.setBlock (srFn k) k.slice { s.block (srFn k) k.slice with resetPending := true } →
    v = (u.storage.queues.filter (fun e => decide (e.1 < 2 ^ 40) && qpFn e.1 == srFn k && qpSlice e.1 == k.slice.val)).foldl (fun s e => s.stopNvq e.1)
      ((u.host.queues.filter (fun e => qpFn e.1 == srFn k && qpSlice e.1 == k.slice.val)).foldl (fun s e => s.stopQueue e.1) u) →
    exec (.sliceReset k) s = .next (((if k.fn.val = 1 then v.lookAbort (fun x => x.kind == 0 && x.link == k.link.val && x.number == k.slice.val) else v).dropReads
      (ofSlice (srFn k) k.slice)).capTimeouts (ofSlice (srFn k) k.slice))) ∧
  (∀ (k : SliceRef) (s : State), (s.block (srFn k) k.slice).resetPending = true → s.host.reads.any (ofSlice (srFn k) k.slice) = false →
    ∃ u : State, exec (.sliceResetComplete k) s =
      .next ((u.setBlock (srFn k) k.slice { u.block (srFn k) k.slice with resetPending := false }).raise 0x8A07 k.slice) ∧
      u = (if k.fn.val = 1 then (((s.resetQueues (srFn k) (· == k.slice.val)).maskSlice (srFn k) k.slice).zeroiseSlots k.slice).rdmaSliceReset
        k.slice else ((s.resetQueues (srFn k) (· == k.slice.val)).maskSlice (srFn k) k.slice).zeroiseSlots k.slice))

/-- Storage queues (R442, R444, R458 to R460, R469, R471). -/
def Obligations.StorageQueueCommands : Prop :=
  (∀ (q : NvmeQ) (i : BitVec 16) (s : State), s.nvOpen (nvKey q) = true → (s.nvq (nvKey q)).enable = true → (s.nvq (nvKey q)).sqSize ≠ 0 →
    exec (.sqTail q i) s = .next ((s.setNvq (nvKey q) { s.nvq (nvKey q) with sqTail := i.toNat % (s.nvq (nvKey q)).sqSize }).sqPump (nvKey q))) ∧
  (∀ (q : NvmeQ) (i : BitVec 16) (arm : Bool) (s : State) (k h used : Nat) (x y : NvmeQueue),
    ((∀ l j, q = .ctrl l j → k = ctrlCq l j) ∧ (∀ l n j, q = .slice l n j → k = nvKey q)) → x = s.nvq k → s.nvOpen k = true → x.enable = true → x.cqSize ≠ 0 →
    h = i.toNat % x.cqSize → used = x.cqUsed - (h + x.cqSize - x.cqHead % x.cqSize) % x.cqSize → y = { x with cqHead := h, cqUsed := used, armed := x.armed || arm, unsignalled := x.unsignalled.drop (x.unsignalled.length - used) } →
    exec (.nvmeCqHead q i arm) s = .next (if x.halted || x.stopping then s.setNvq k y else (s.setNvq k y).nvDrain k x.cqWaiting.length)) ∧
  (∀ (k : QueueRef) (s : State) (key : Nat), key = qpKey (4 * k.link.val + 2) k.slice k.q → s.nvOpen key = true →
    ((s.nvq key).enable = false → k.q.val < (s.sliceSet k.slice).queuePairs → exec (.nvmeQueueEnable k true) s = .next (s.setNvq key
      { s.nvq key with enable := true, refused := false, cq := key, sqTail := (s.nvq key).sqHead, cqHead := (s.nvq key).cqTail, cqUsed := 0, entry := none, cqWaiting := [], armed := false, unsignalled := [] })) ∧
    ((s.nvq key).enable = false → (s.sliceSet k.slice).queuePairs ≤ k.q.val → exec (.nvmeQueueEnable k true) s =
      .next (s.setNvq key { s.nvq key with refused := true })) ∧
    exec (.nvmeQueueEnable k false) s = .next (s.stopNvq key)) ∧
  (∀ (t : Fin 4) (off : Nat) (s u : State), u = s.moveTo off → u.storageOn = true → t.val < serviceTiles u.mode → exec (.commandFetch t off) s =
    .next (u.storage.queues.foldl (fun s e => s.sqPump e.1) (u.fetchFirst t (u.fetchOrder t)))) ∧
  (∀ (id : Nat) (c : NvmeCmd) (s : State), s.storage.cmds.find? (fun c => c.id == id) = some c → c.granted = false → s.lockOk c = true →
    exec (.rangeLockGrant id) s = .next { s with storage := { s.storage with cmds := s.storage.cmds.map (fun d => if d.id = id then { d with granted := true } else d) } }) ∧
  (∀ (l : Fin 4) (s : State) (e : Nat), e = leAt (s.ctrl l).apst (8 * (s.ctrl l).ps) 8 → tblGet 0 (s.ctrl l).features 0xC = 1 → bitField e 31 8 ≠ 0 →
    (∀ c ∈ s.storage.cmds, 2 ^ 40 ≤ c.queue → nvqLink c.queue ≠ l.val) → bitField e 7 3 ≤ 2 → (s.ctrl l).ps < bitField e 7 3 →
    s.dueEvery (tmIdle l) (s.msCourses (bitField e 31 8)) (s.grainOf 1000000) = true → exec (.apstIdleTimer l) s =
    .next ((s.setCtrl l { s.ctrl l with ps := bitField e 7 3, lastOp := if (s.ctrl l).ps < 2 then (s.ctrl l).ps else (s.ctrl l).lastOp }).arm (tmIdle l)))

/-- Admin commands (R443, R445, R446, R469). -/
def Obligations.StorageAdminCommands : Prop :=
  (∀ (id op : Nat) (c : NvmeCmd) (s : State), s.nvCmd id true op = some c → c.status = 0 →
    (∀ qid size vec : Nat, op = 5 → qid = sqDw c.entry 10 % 65536 → size = sqDw c.entry 10 / 65536 → vec = sqDw c.entry 11 / 65536 → 1 ≤ qid → qid ≤ 64 →
      (s.nvq (ctrlCq (nvqLink c.queue) qid)).enable = false → size ≠ 0 → sqDw c.entry 11 % 2 = 1 → vec ≤ 2047 → exec (.createIoCq id) s =
      .next ((s.setNvq (ctrlCq (nvqLink c.queue) qid) { NvmeQueue.fresh with enable := true, cqBase := sqPrp1 c.entry, cqSize := size + 1, vector := vec, signals := bitOf (sqDw c.entry 11) 1 }).nvDone c 0 0 0)) ∧
    (∀ qid size cq : Nat, op = 1 → qid = sqDw c.entry 10 % 65536 → size = sqDw c.entry 10 / 65536 → cq = sqDw c.entry 11 / 65536 → 1 ≤ qid → qid ≤ 64 →
      1 ≤ cq → cq ≤ 64 → (s.nvq (ctrlCq (nvqLink c.queue) cq)).enable = true → (s.nvq (ctrlSq (nvqLink c.queue) qid)).enable = false → size ≠ 0 →
      sqDw c.entry 11 % 2 = 1 → exec (.createIoSq id) s = .next ((s.setNvq (ctrlSq (nvqLink c.queue) qid) { NvmeQueue.fresh with enable := true, sqBase := sqPrp1 c.entry, sqSize := size + 1, cq := ctrlCq (nvqLink c.queue) cq }).nvDone c 0 0 0)) ∧
    (∀ qid k : Nat, op = 0 → qid = sqDw c.entry 10 % 65536 → k = ctrlSq (nvqLink c.queue) qid → 1 ≤ qid → qid ≤ 64 → (s.nvq k).enable = true →
      exec (.deleteIoSq id) s = .next ((((s.storage.cmds.filter (fun d => d.queue == k)).foldl (fun s d => s.nvDone d 0 0x08 0)
        (s.abandonReads (fun r => r.queue == k && r.kind == .storage))).setNvq k NvmeQueue.fresh).nvDone c 0 0 0)) ∧
    (∀ qid k : Nat, op = 4 → qid = sqDw c.entry 10 % 65536 → k = ctrlCq (nvqLink c.queue) qid → 1 ≤ qid → qid ≤ 64 → (s.nvq k).enable = true →
      (∀ i < 65, (s.nvq (ctrlSq (nvqLink c.queue) i)).enable = true → (s.nvq (ctrlSq (nvqLink c.queue) i)).cq ≠ k) →
      exec (.deleteIoCq id) s = .next ((s.setNvq k NvmeQueue.fresh).nvDone c 0 0 0)) ∧
    (op = 6 → sqDw c.entry 10 % 256 = 1 → exec (.nvmeIdentify id) s = .next ((s.nvWrite c [sqPrp1 c.entry, sqPrp2 c.entry]
      (identifyController (sqDw c.entry 10 / 65536))).nvDone c 0 0 0)) ∧
    (op = 2 → sqDw c.entry 10 % 256 = 1 → exec (.getLogPage id) s = .next ((s.nvWrite c [sqPrp1 c.entry, sqPrp2 c.entry]
      (slice (sized 4096 (s.ctrl (nvqLink c.queue)).errors.flatten) (sqDw c.entry 12 + sqDw c.entry 13 * 2 ^ 32)
        (min ((sqDw c.entry 10 / 65536 + sqDw c.entry 11 % 65536 * 65536 + 1) * 4) 4096))).nvDone c 0 0 0)) ∧
    (∀ d : NvmeCmd, op = 8 → s.storage.cmds.find? (fun d => d.queue == ctrlSq (nvqLink c.queue) (sqDw c.entry 10 % 65536) &&
        sqCid d.entry == sqDw c.entry 10 / 65536 && d.phase == 0 && d.id != c.id) = some d →
      exec (.nvmeAbort id) s = .next ((s.nvDone d 0 0x07 0).nvDone c 0 0 0)) ∧
    (op = 9 → sqDw c.entry 10 % 256 = 0x02 → featureOk 2 (sqDw c.entry 11) = true → exec (.setFeatures id) s =
      .next ((s.setCtrl (nvqLink c.queue) { s.ctrl (nvqLink c.queue) with ps := sqDw c.entry 11 % 32, lastOp := if sqDw c.entry 11 % 32 < 2 then sqDw c.entry 11 % 32 else (s.ctrl (nvqLink c.queue)).lastOp }).nvDone c 0 0 0)) ∧
    (op = 0xA → sqDw c.entry 10 % 256 = 0x02 → exec (.getFeatures id) s = .next (s.nvDone c 0 0 (s.ctrl (nvqLink c.queue)).ps)) ∧
    (op = 0xC → (s.ctrl (nvqLink c.queue)).events = [] → exec (.asynchronousEventRequest id) s =
      .next ((s.setCtrl (nvqLink c.queue) { s.ctrl (nvqLink c.queue) with aers := (s.ctrl (nvqLink c.queue)).aers ++ [c.id] }).setNvCmd { c with phase := 3 })) ∧
    (∀ (t i p : Nat) (l : List (Nat × Nat × Nat)), op = 0xC → (s.ctrl (nvqLink c.queue)).events = (t, i, p) :: l → exec (.asynchronousEventRequest id) s =
      .next ((s.setCtrl (nvqLink c.queue) { s.ctrl (nvqLink c.queue) with events := l }).nvDone c 0 0 (t + i * 256 + p * 65536)))) ∧
  (∀ (id : Nat) (c : NvmeCmd) (s : State), s.storage.cmds.find? (fun c => c.id == id) = some c → c.phase = 0 →
    nvOffers (nvqAdmin c.queue) (sqOp c.entry) = false → exec (.invalidCommandOpcode id) s = .next (s.nvDone c 0 0x01 0))

/-- I/O commands (R445, R452, R453, R459, R461, R467). -/
def Obligations.StorageIoCommands : Prop :=
  ∀ (id op : Nat) (c : NvmeCmd) (s : State), s.nvCmd id false op = some c → c.status = 0 → c.granted = true → s.storageOn = true →
    (s.rd (Od.namespaceStatus (sqNs c.entry)) ≠ 3 →
      (op = 1 → s.poolFree 0x40 < s.stageNeed c → exec (.nvmeWrite id) s = .next (s.bump (Od.stagingWaits c.tile))) ∧
      (op = 1 → s.stageNeed c ≤ s.poolFree 0x40 → s.stageNeed c ≠ 0 → exec (.nvmeWrite id) s = .next ((s.poolTake 0x40 (s.stageNeed c)).nvBegin c)) ∧
      (op = 1 → s.stageNeed c = 0 → exec (.nvmeWrite id) s = .next (s.nvBegin c)) ∧
      (op = 2 → exec (.nvmeRead id) s = .next (s.nvBegin c)) ∧
      (op = 8 → exec (.writeZeroes id) s = .next ((s.setNvCmd { c with phase := 2 }).nvFinish { c with phase := 2 })) ∧
      (op = 9 → bitOf (sqDw c.entry 11) 2 = true → exec (.datasetManagement id) s = .next (s.nvBegin c)) ∧
      (op = 9 → bitOf (sqDw c.entry 11) 2 = false → exec (.datasetManagement id) s = .next (s.nvDone c 0 0 0)) ∧
      (op = 0 → nsBacking (s.nspace (sqNs c.entry)) = 3 ∨ s.flushOk c = true → exec (.nvmeFlush id) s = .next (s.nvDone c 0 0 0)) ∧
      (op = 0 → nsBacking (s.nspace (sqNs c.entry)) ≠ 3 → s.flushOk c = false → exec (.nvmeFlush id) s = .next (s.setNvCmd { c with phase := 3 }))) ∧
    (s.rd (Od.namespaceStatus (sqNs c.entry)) = 3 →
      (op = 1 → exec (.nvmeWrite id) s = .next (s.nvDone c 0 0x06 0)) ∧ (op = 8 → exec (.writeZeroes id) s = .next (s.nvDone c 0 0x06 0)) ∧
      (op = 9 → exec (.datasetManagement id) s = .next (s.nvDone c 0 0x06 0)) ∧ (op = 0 → exec (.nvmeFlush id) s = .next (s.nvDone c 0 0x06 0)))

/-- Backings (R454, R463 to R468). -/
def Obligations.BackingCommands : Prop :=
  (∀ (t : Fin 4) (target id : Nat) (good : Bool) (bs : List Byte) (s : State),
    s.storage.backing.find? (fun b => b.id == id && b.target == target) = none → exec (.backingCompletion t target id good bs) s =
    .next (s.bump (if 64 ≤ target then Od.remoteMalformed t else Od.lateBackingCompletions t))) ∧
  (∀ (t : Fin 4) (target id u cid : Nat) (bs : List Byte) (b : BackingCmd) (c : NvmeCmd) (s : State),
    s.storage.backing.find? (fun b => b.id == id && b.target == target) = some b → b.cmd = some (cid, u) → b.kind = 0 → bs.length = 4096 →
    (s.backingDrop id).storage.cmds.find? (fun c => c.id == cid) = some c → exec (.backingCompletion t target id true bs) s =
    .next ((s.backingDrop id).nvAdvance { c with old := c.old ++ [(u, (s.backingDrop id).unitCrypt false ((s.backingDrop id).nspace b.ns) u bs)], wants := c.wants.filter (· != id) })) ∧
  (∀ (id : Nat) (b : BackingCmd) (s : State), s.storage.backing.find? (fun b => b.id == id) = some b → s.unreachable b.target = false → s.storageOn = true →
    s.dueEvery (tmBacking id) (s.msCourses (s.rd Od.backingTimeout)) (s.grainOf 1000000) = true →
    (2 ≤ b.retries → exec (.backingTimeout id) s = .next ((s.emit (.backing b.target "abort" [id])).backingFailed b 0x06)) ∧
    (b.retries < 2 → ∃ u : State, exec (.backingTimeout id) s = .next ((u.backingSend b).arm (tmBacking id)) ∧
      u.storage.backing = s.storage.backing.map (fun x => if x.id = id then { x with retries := x.retries + 1 } else x) ∧
      u.outputs = .backing b.target "abort" [id] :: s.outputs)) ∧
  (∀ (n seq : Nat) (w : WriteBack) (s u : State), s.storage.writeBacks.find? (fun w => w.ns == n && w.seq == seq) = some w → w.journal = 2 →
    s.storageOn = true → u = { s with storage := { s.storage with map := w.units.foldl (fun m e => match (m.find? (fun x => x.1 == unitKey n e.1)).map Prod.snd with | some (.staged q _) => if q = seq then tblPut m (unitKey n e.1) (MapEntry.block e.2) else m | _ => m) s.storage.map, writeBacks := s.storage.writeBacks.filter (fun v => !(v.ns == n && v.seq == seq)) } } →
    exec (.writeBackComplete n seq) s = .next (if w.units.isEmpty then u else u.poolGive 0x40 w.units.length)) ∧
  (∀ (n : Fin 4) (s : State), exec (.ssdInboundRequest n .other false) s = .next ((s.bump (Od.ssdInboundRefused n)).raiseLimited 0x9A03 n 1 n)) ∧
  (∀ (n : Fin 4) (np : Bool) (s : State), exec (.ssdInboundRequest n .msix np) s = .next s) ∧
  (∀ (n : Fin 4) (s : State), exec (.surpriseRemoval n) s = .next (s.storage.namespaces.foldl (fun s e =>
    if nsPresent e.2 && nsBacking e.2 == 1 && nsRef e.2 == n.val then s.nsFail e.1 else s) (s.wr (Od.ssdStatus n) 0))) ∧
  (∀ (n : Fin 4) (ps : List Nat) (s u : State), s.rd Od.dspBifurcation ≠ 0 ∨ n.val = 0 →
    u = ({ s with storage := { s.storage with ssdStates := tblSet [] s.storage.ssdStates n ps } } : State).wr (Od.ssdStatus n) 1 →
    exec (.ssdLinkUp n true ps) s = .next (if u.ssdHeld n then u.raise 0x9A05 n else u) ∧
    exec (.ssdLinkUp n false ps) s = .next ((s.wr (Od.ssdStatus n) 2).raise 0x9A07 n)) ∧
  (∀ (n : Nat) (s : State), nsPresent (s.nspace n) = true → s.rd (Od.namespaceStatus n) = 1 →
    exec (.namespaceReady n) s = .next ((s.wr (Od.namespaceStatus n) 2).raise 0x9A06 n)) ∧
  (∀ (k : Fin 64) (s : State), s.storage.connected.contains k.val = false → s.tilesOn k ≠ [] → s.storageOn = true → s.armed (tmReconnect k) = false →
    (s.rdma.qps.length + 2 * (s.tilesOn k).length ≤ qpLimit (s.rd Od.modeInForce) → exec (.reconnectInterval k true) s =
      .next ((s.emit (.backing (64 + k.val) "connect" (s.tilesOn k))).connect k)) ∧
    exec (.reconnectInterval k false) s = .next ((s.emit (.backing (64 + k.val) "connect" (s.tilesOn k))).arm (tmReconnect k))) ∧
  (∀ (k : Fin 64) (s : State), s.storage.connected.contains k.val = true → s.storageOn = true →
    exec (.keepAlive k true) s = .next (s.emit (.backing (64 + k.val) "keep alive" [])) ∧
    exec (.keepAlive k false) s = .next ((s.emit (.backing (64 + k.val) "keep alive" [])).disconnect k))

/-- RDMA doorbells and regions (R479, R484, R499). -/
def Obligations.RdmaDoorbells : Prop :=
  (∀ (l : Fin 4) (n : Fin 4096) (num : BitVec 24) (i : BitVec 16) (s : State), s.rdmaDoor l n = true →
    (∀ q, s.rqp? num.toNat = some q → q.slice = n.val →
      exec (.sendQueueTail l n num i) s = .next ((s.setRqp num.toNat { q with sqTail := i.toNat % max 1 q.sqSize }).rdmaFetch num.toNat) ∧
      exec (.receiveQueueTail l n num i) s = .next ((s.setRqp num.toNat { q with rqTail := i.toNat % max 1 q.rqSize }).rdmaFetch num.toNat)) ∧
    ((∀ q, s.rqp? num.toNat = some q → q.slice ≠ n.val) →
      exec (.sendQueueTail l n num i) s = .next (s.doorRefused num.toNat) ∧ exec (.receiveQueueTail l n num i) s = .next (s.doorRefused num.toNat)) ∧
    (∀ c size j, s.rcq? num.toNat = some c → leAt c.record 2 2 = n.val → size = max 1 (rdmaRing (leAt c.record 8 1)) → j = i.toNat % size →
      exec (.completionQueueHead l n num i) s = .next (s.setRcq num.toNat { c with head := j, used := c.used - (j + size - c.head) % size }) ∧
      exec (.completionQueueHeadArmed l n num i) s = .next (s.setRcq num.toNat
        { c with head := j, used := c.used - (j + size - c.head) % size, armed := true })) ∧
    ((∀ c, s.rcq? num.toNat = some c → leAt c.record 2 2 ≠ n.val) →
      exec (.completionQueueHead l n num i) s = .next (s.doorRefused num.toNat) ∧
      exec (.completionQueueHeadArmed l n num i) s = .next (s.doorRefused num.toNat))) ∧
  (∀ (i : Nat) (r : Region) (s : State), s.region? i = some r → r.state = 2 → s.regionBusy i = false → exec (.regionFree i) s =
    .next (({ s with rdma := { s.rdma with regions := tblDel s.rdma.regions i } } : State).rdmaAsync (leAt r.record 2 2) (min 3 (i / 1048576)) 0x04 i))

/-- Work requests (R480, R483, R492). -/
def Obligations.RdmaWorkRequests : Prop :=
  (∀ (qpn op : Nat) (s : State) (q : RdmaQp) (i : Nat) (w : Work) (c : Instr),
    (op, c) ∈ [(0, Instr.rdmaSend qpn), (1, .sendWithImmediate qpn), (2, .rdmaWrite qpn), (3, .rdmaWriteWithImmediate qpn), (4, .rdmaRead qpn),
      (5, .compareAndSwap qpn), (6, .fetchAndAdd qpn), (7, .rdmaFlush qpn)] →
    s.nextWork qpn = some (q, i, w) → wqOp w.wqe = op →
    (s.wqError q w.wqe ≠ 0 → exec c s = .next ((s.setWork qpn i { w with stage := 3, status := s.wqError q w.wqe }).rdmaAdvance qpn (q.work.length + 1))) ∧
    (s.wqError q w.wqe = 0 → s.mayStart q.slice = false → exec c s = .next (s.bumpSlice q.slice 1)) ∧
    (s.wqError q w.wqe = 0 → s.mayStart q.slice = true → ceilDiv (min (wqLen w.wqe) q.pmtu + 128) 256 ≤ s.poolFree (0x30 + rdmaTile qpn) → ∃ u v : State,
      u = (s.setRqp qpn { q with nextPsn := (q.nextPsn + wqCount q w.wqe) % 2 ^ 24, work := q.work.set i { w with stage := 1, psn := q.nextPsn, count := wqCount q w.wqe } }).opStart q.slice ∧
      v = (if op ≤ 3 ∧ wqLen w.wqe ≠ 0 then u.readWith (u.relaxedOk (s.rdmaFn q.slice) (bitOf w.wqe 500)) .rdma (s.rdmaFn q.slice) (some q.slice) qpn
        (4 + 2 * q.nextPsn) 0 (wqAddr w.wqe) (wqLen w.wqe) else u) ∧
      exec c s = .next ((v.pushWork qpn (q.work.length + 1)).rdmaAdvance qpn (q.work.length + 1)))) ∧
  (∀ (qpn : Nat) (s : State) (q : RdmaQp) (i : Nat) (w : Work), s.nextWork qpn = some (q, i, w) → wqOp w.wqe = 0x20 →
    (s.wqError q w.wqe = 0 → exec (.rdmaWait qpn) s = .next (s.setWork qpn i { w with stage := 2 })) ∧
    (s.wqError q w.wqe ≠ 0 → exec (.rdmaWait qpn) s =
      .next ((s.setWork qpn i { w with stage := 3, status := s.wqError q w.wqe }).rdmaAdvance qpn (q.work.length + 1)))) ∧
  (∀ (qpn : Nat) (s : State) (q : RdmaQp) (i c k a : Nat) (w : Work), s.rd Od.modeInForce ≠ 7 → tblGet (0, 0) s.rdma.released (rdmaTile qpn) = (c, k) →
    a = (if c = s.course then k else 0) → ((s.waitsDue (rdmaTile qpn)).take (64 - a)).any (fun e => e.2 == qpn) = true →
    s.rqp? qpn = some q → q.work.findIdx? (fun w => wqOp w.wqe == 0x20 && w.stage == 2) = some i →
    q.work[i]? = some w → exec (.waitRelease qpn) s = .next ((({ s with rdma := { s.rdma with released := tblPut s.rdma.released (rdmaTile qpn) (s.course, a + 1) } } : State).setWork qpn i { w with stage := 3 }).rdmaAdvance qpn (q.work.length + 1)))

/-- RoCEv2 packets (R482, R485, R489 to R491, R501). -/
def Obligations.RdmaPacketsArrive : Prop :=
  (∀ (p : PortId) (off : Nat) (bs : List Byte) (s u : State) (x : RocePacket) (stamp : Nat), s.roceArrive p off bs = (u, some (x, stamp)) →
    x = rocePacket bs → roceOp x.opcode = .cnp → exec (.rdmaCnp p off bs) s = .next (u.bump (Od.cnpDiscarded (rdmaTile x.dest)))) ∧
  (∀ (p : PortId) (off : Nat) (bs : List Byte) (s u : State) (x : RocePacket) (stamp : Nat), s.roceArrive p off bs = (u, some (x, stamp)) →
    roceOp (rocePacket bs).opcode ∉ [RoceOp.ack, .readResponse, .atomicAck, .cnp] → x.dest ≠ 1 →
    (u.rqp? x.dest = none → exec (.rocev2Packet p off bs) s = .next (u.bump (Od.unknownQp (rdmaTile x.dest)))) ∧
    (∀ q, u.rqp? x.dest = some q → q.state ≠ 2 → q.state ≠ 3 → exec (.rocev2Packet p off bs) s = .next (u.bump (Od.unknownQp (rdmaTile x.dest)))) ∧
    (∀ q q1, u.rqp? x.dest = some q → q.state = 2 ∨ q.state = 3 → q.slice ≠ 0xFFFF → q.ud = false →
      (u.quiescing q.slice = true → exec (.rocev2Packet p off bs) s = .next (u.bump (Od.quiesceDiscards (rdmaTile x.dest)))) ∧
      (u.quiescing q.slice = false → u.canMaster (u.rdmaFn q.slice) = false →
        exec (.rocev2Packet p off bs) s = .next (u.dmaLost (u.rdmaFn q.slice))) ∧
      (u.quiescing q.slice = false → u.canMaster (u.rdmaFn q.slice) = true → (u.takeDelay x.dest x stamp).rqp? x.dest = some q1 → exec (.rocev2Packet p off bs) s =
        .next ((u.takeDelay x.dest x stamp).rcRequest x.dest q1 x stamp)))) ∧
  (∀ (p : PortId) (off n stamp v : Nat) (bs h body : List Byte) (s u : State) (q : RdmaQp) (x : RocePacket),
    s.replyFor p off bs = (u, some (n, q, x, h, body, stamp)) → roceOp (rocePacket bs).opcode = .ack → syndrome bs s = some v →
    (v / 32 = 0 → exec (.rdmaAck p off bs) s = .next (if (u.acknowledge n x.psn stamp).2 then (u.acknowledge n x.psn stamp).1
      else (u.acknowledge n x.psn stamp).1.lateResponse n)) ∧
    (∀ (s2 : State) (q2 : RdmaQp) (w : Work), s2 = (u.acknowledge n ((x.psn + 2 ^ 24 - 1) % 2 ^ 24) stamp).1 → s2.rqp? n = some q2 → q2.oldest = some w →
      (v = 0x60 → exec (.nakPsnSequenceError p off bs) s = .next (s2.retry n x.psn)) ∧
      (v / 32 = 1 → leAt q2.record 42 1 = 7 ∨ q2.rnrTries < leAt q2.record 42 1 → exec (.rnrNak p off bs) s =
        .next (((s2.setRqp n { q2 with rnrTries := q2.rnrTries + 1, rnrTime := some (10000 * rnrTimes.getD (v % 32) 1) }).disarm (tmAck n)).arm (tmRnr n))) ∧
      (v / 32 = 1 → leAt q2.record 42 1 ≠ 7 → leAt q2.record 42 1 ≤ q2.rnrTries → exec (.rnrNak p off bs) s =
        .next ((s2.raiseLimited 0xAA02 (rdmaTile n) 1 n).workFails n w 8)) ∧
      (∀ y, v / 32 = 3 → v ≠ 0x60 → q2.work.find? (fun w => w.stage == 2 && wqOp w.wqe != 0x20 && decide (psnAfter x.psn w.psn < w.count)) = some y →
        exec (.rdmaNak p off bs) s = .next (s2.workFails n y (if v = 0x62 then 4 else if v = 0x61 then 5 else 6))))) ∧
  (∀ (p : PortId) (off n stamp : Nat) (bs h body : List Byte) (s u : State) (q : RdmaQp) (x : RocePacket),
    s.replyFor p off bs = (u, some (n, q, x, h, body, stamp)) → roceOp (rocePacket bs).opcode = .readResponse ∨ roceOp (rocePacket bs).opcode = .atomicAck →
    exec (.rdmaAck p off bs) s = .next (u.takeResponse n x h body stamp))

/-- RDMA timers and the PFC watchdog (R490, R491, R493, R496). -/
def Obligations.RdmaTimersAndStorms : Prop :=
  (∀ (n : Nat) (q : RdmaQp) (w : Work) (s : State), s.rqp? n = some q → q.oldest = some w → leAt q.record 40 1 ≠ 0 → s.rd Od.modeInForce ≠ 7 →
    s.dueEvery (tmAck n) (ceilDiv (4096 * 2 ^ leAt q.record 40 1) s.len) (s.grainOf 1048576) = true → exec (.localAckTimeout n) s =
    .next ((s.disarm (tmAck n)).retry n (q.resendFrom w))) ∧
  (∀ (n t : Nat) (q : RdmaQp) (w : Work) (s u : State), s.rqp? n = some q → q.rnrTime = some t → q.oldest = some w → s.rd Od.modeInForce ≠ 7 → s.due (tmRnr n) (ceilDiv t s.len) = true →
    u = ((s.disarm (tmRnr n)).setRqp n { q with rnrTime := none }).resend n (q.resendFrom w) → exec (.rnrTimer n) s =
    .next ((if leAt q.record 40 1 = 0 then u else u.arm (tmAck n)).pushWork n (q.work.length + 1))) ∧
  (∀ (n : Nat) (q : RdmaQp) (s : State), s.rqp? n = some q → q.oneWay = true → q.fallback = false → q.state = 2 ∨ q.state = 3 →
    q.lastValid + s.rd Od.delayFallbackCourses + 1 ≤ s.course → exec (.delayFallback n) s =
    .next ((s.setRqp n { q with fallback := true }).bump (Od.delayFallbacks (rdmaTile n)))) ∧
  (∀ (p : PortId) (c : ClassId) (s u : State), s.rdB (Od.pfcWatchdogEnable p) = true → s.lossless p c = true → s.storm p c = false →
    s.dueEvery (tmStorm p c) (s.rd (Od.watchdogTime p)) 64 = true → s.now < (s.queue p c).pausedUntil →
    u = (((s.disarm (tmStorm p c)).wr (Od.watchdogState p) (withBit (s.rd (Od.watchdogState p)) c true)).arm (tmRestored p c)).raiseLimited 0xAA05
      (8 * p.val + c.val) 1 (p.val * 256 + c.val) → exec (.pfcStorm p c) s =
    .next ((if u.rd (Od.watchdogAction p) = 0 then u.flushClass p c else u).portAsync p 0x07)) ∧
  (∀ (p : PortId) (c : ClassId) (s : State), s.storm p c = true → s.dueEvery (tmRestored p c) (s.rd (Od.restoreTime p)) 64 = true →
    exec (.stormRestore p c) s = .next ((s.disarm (tmRestored p c)).wr (Od.watchdogState p) (withBit (s.rd (Od.watchdogState p)) c false)))

/-- Activation and wake (R518, R519, R558 to R562). -/
def Obligations.UpgradeCommands : Prop :=
  (∀ (rb lb : Bool) (s : State) (n code : Nat), s.boot.phase = 2 → s.activating = 1 → n = s.activationSlot → code = s.preparationCode n rb lb →
    (code ≠ 0 → exec (.preparationComplete rb lb) s =
      .next ((if s.slotCode rb n ≠ 0 then s.noteSlot n (s.slotCode rb n) else s).abortActivation code)) ∧
    (code = 0 → ∃ t v, exec (.preparationComplete rb lb) s = .next t ∧ t.activation.switchCourse = s.course + 2 ∧ t.activation.tiles = [] ∧
      t.activation.keystone = false ∧ t.activation.old = s.boot.parts ∧
      t.activation.parts = (imageParts (s.slotBytes n)).filter (fun x => decide (x.2.2 ≠ s.partDigest x.1)) ∧
      t = ({ s with activation := t.activation } : State).wr Od.activationStatus v)) ∧
  (∀ s : State, s.boot.phase = 2 → s.activating = 2 → s.activation.switchCourse ≤ s.course → exec .switchBoundary s = .next s.switchComponents) ∧
  (∀ (t : TileId) (s : State), s.handingOver t = true → exec (.tileHandoverComplete t) s =
    .next { s with activation := { s.activation with tiles := t.val :: s.activation.tiles } }) ∧
  (∀ s u : State, s.activating = 3 → s.changes 2 = true → s.activation.keystone = false → s.tilesDone = true → u = (s.activationTo 4).arm tmHandover →
    exec .keystoneHandover s = .next { u with servo := { u.servo with held := true }, agent := { u.agent with handover := true } }) ∧
  (∀ s u : State, s.activating = 4 → u = s.endHandover.activationTo 3 → exec .keystoneHandoverEnd s =
    .next { u with activation := { u.activation with keystone := true } }) ∧
  (∀ s : State, s.activating = 3 → s.allSwitched = true → ∃ u : State, exec .activationComplete s = .next (u.raise 0xCA05 s.activationSlot) ∧
    u.boot.parts = imageParts (s.slotBytes s.activationSlot) ∧ u.activation = State.reset.activation ∧ u.rd Od.activeSlot = s.activationSlot ∧
    u.rd Od.activationStatus = activationWord 0 s.activationSlot 0 (bitField (s.rd Od.activationStatus) 15 8)) ∧
  (∀ (ty : Fin 6) (t : TileId) (s u : State), s.activating = 3 ∨ s.activating = 4 → s.changes ty = true → ty.val ≠ 0 →
    u = (((if s.activating = 4 then s.endHandover else s).activationTo 5).raise 0xCA08 (ty.val * 256 + t.val)) → u.changes 5 = false →
    exec (.activationRolledBack ty t) s = .next u) ∧
  (∀ (t : Fin 16) (s : State), s.rd (Od.wakeState t) = 2 → exec (.fastWakeDigest t s.boot.retained) s = .next (s.wr (Od.wakeState t) 0)) ∧
  (∀ (t : Fin 16) (d : List Byte) (s : State), s.rd (Od.wakeState t) = 2 → d ≠ s.boot.retained → exec (.fastWakeDigest t d) s =
    .next ((s.wr (Od.wakeState t) 3).raise 0xBA06 t)) ∧
  (∀ (t : Fin 16) (s : State), s.rd (Od.wakeState t) = 3 → exec (.reloadComplete t) s =
    .next (({ s with boot := { s.boot with retained := s.partDigest 3 } } : State).wr (Od.wakeState t) 0))

/-- Faults and repair (R41, R42, R506, R566 to R569). -/
def Obligations.FaultCommands : Prop :=
  (∀ (t : TileId) (vn : Fin 6) (fr : Option Nat) (s u : State), 2 ≤ s.boot.phase →
    u = ((s.bump (Od.uncorrectedErrors t)).raise 0x4A10 (t.val * 8 + vn.val)).trafficLost t vn fr → ∃ v : State,
    v = { u with keystone := { u.keystone with mortar := tblPut u.keystone.mortar t.val (s.course, s.mortarErrors t + 1) } } ∧
    exec (.mortarUncorrectable t vn fr) s = .next (if 3 ≤ s.mortarErrors t + 1 then v.tileFault t else v)) ∧
  (∀ (n : Fin 96) (s : State), s.boot.phase = 2 → exec (.coreUncorrectable n) s = .next (s.coreFails n)) ∧
  (∀ (t : TileId) (s u : State), 2 ≤ s.boot.phase → u = s.bump Od.sramUncorrected →
    exec (.sramUncorrectable t .keystone) s = .next (u.fatal 0xBA11 0) ∧
    exec (.sramUncorrectable t .store) s = .next (u.bump (Od.correctedErrors t))) ∧
  (∀ (t : TileId) (c : SramContent) (s u : State), 2 ≤ s.boot.phase → u = s.bump Od.sramUncorrected →
    (∀ vn fr, c = .buffer vn fr → exec (.sramUncorrectable t c) s = .next (u.trafficLost t vn fr)) ∧
    (∀ p n, c = .freeList p n ∨ c = .count p n → exec (.sramUncorrectable t c) s = .next (u.quarantine p.toNat n.toNat)) ∧
    (∀ e, c = .engine e → exec (.sramUncorrectable t c) s =
      .next (if (u.pipe (enginePipe e)).spareUsed then u.engineLost e else u.spareSubstituted e)) ∧
    (∀ tile i id, c = .rule tile i id → exec (.sramUncorrectable t c) s = .next (u.entryLost t c)) ∧
    (∀ x k, c = .exact x k → exec (.sramUncorrectable t c) s = .next (u.entryLost t c)) ∧
    (∀ v, c = .vlan v → exec (.sramUncorrectable t c) s = .next (u.entryLost t c)) ∧
    (∀ v, c = .group v → exec (.sramUncorrectable t c) s = .next (u.entryLost t c)) ∧
    (∀ n, c = .core n → s.boot.phase = 2 → exec (.sramUncorrectable t c) s = .next (u.coreFails n)) ∧
    (∀ tile n, c = .policer tile n → exec (.sramUncorrectable t c) s = .next (u.entryLost t c)) ∧
    (∀ f m, c = .fdb f m → exec (.sramUncorrectable t c) s = .next (u.entryLost t c))) ∧
  (∀ (b : Fin 512) (row : BitVec 20) (s u : State) (key : Nat), 2 ≤ s.boot.phase → key = b.val * 2 ^ 20 + row.toNat →
    (u = s.bump Od.hbmUncorrected → u.service.repairing.contains key = false → exec (.hbmError b row true) s =
      .next { u with service := { u.service with repairing := key :: u.service.repairing } }) ∧
    (u = s.bump Od.hbmCorrected → (u.now :: u.rowErrors key).length < u.rd Od.hbmRepairThreshold → exec (.hbmError b row false) s =
      .next { u with service := { u.service with rows := tblSet [] u.service.rows key (u.now :: u.rowErrors key) } })) ∧
  (∀ (b : Fin 512) (row : BitVec 20) (as : List (BitVec 64)) (us : List (BitVec 40)) (s : State) (key used : Nat),
    key = b.val * 2 ^ 20 + row.toNat → s.service.repairing.contains key = true → used = tblGet 0 s.service.spares b.val → used < 4 →
    exec (.hbmRowRepaired b row as us) s = .next ((({ s with service := { s.service with repairing := s.service.repairing.filter (· != key), rows := tblSet [] s.service.rows key [], spares := tblPut s.service.spares b.val (used + 1) } } : State).bump Od.hbmRowsRepaired).raiseLimited
      0xEA02 (b.val / 32) 1 key)) ∧
  (∀ (t : TileId) (s : State), 2 ≤ s.boot.phase → exec (.keystoneRefused t) s = .next ((s.bump Od.keystoneRefused).raiseLimited 0xBA07 t 1 t)) ∧
  (∀ s : State, 2 ≤ s.boot.phase → exec .keystoneLockstep s =
    .next (({ s with keystone := { s.keystone with restarting := true } } : State).fatal 0xBA10 0)) ∧
  (∀ s : State, exec .keystoneRestartComplete s = .next { s with keystone := { s.keystone with restarting := false } }) ∧
  (∀ (t : TileId) (s : State), 2 ≤ s.boot.phase → s.keystone.timeFaults.contains t.val = false → exec (.timeDistributionFault t true) s =
    .next (({ s with keystone := { s.keystone with timeFaults := t.val :: s.keystone.timeFaults } } : State).fatal 0xBA12 t)) ∧
  (∀ (t : TileId) (s : State), 2 ≤ s.boot.phase → exec (.timeDistributionFault t false) s =
    .next { s with keystone := { s.keystone with timeFaults := s.keystone.timeFaults.filter (· != t.val) } }) ∧
  (∀ (t : TileId) (s : State) (k : Keystone), 2 ≤ s.boot.phase → k = { s.keystone with watchdogs := tblPut s.keystone.watchdogs t.val s.course } →
    (s.watched t = true → firmwareTiles.contains t.val = true → exec (.tileWatchdog t) s =
      .next (({ s with keystone := { k with second := tblPut k.second t.val s.course } } : State).fatal 0xBA14 t)) ∧
    (s.watched t = false → (t.val < 0x20 ∨ 0x30 ≤ t.val) → exec (.tileWatchdog t) s =
      .next ((({ s with keystone := k } : State).bump Od.tileFirmwareRestarts).raise 0xEA07 t)))

/-- Sessions and the management network (R540, R541, R544 to R550, R553, R560). -/
def Obligations.SessionCommands : Prop :=
  (∀ (f : OpenFrame) (g : FinishFrame) (s : State), 2 ≤ s.boot.phase →
    (s.agent.handover = false → exec (.blpOpen f) s = .next (s.open_ f) ∧ exec (.openFinish g) s = .next (s.finish_ g)) ∧
    (s.agent.handover = true → exec (.blpOpen f) s = .next { s with agent := { s.agent with held := s.agent.held ++ [.open_ f] } } ∧
      exec (.openFinish g) s = .next { s with agent := { s.agent with held := s.agent.held ++ [.finish g] } })) ∧
  (∀ (sid : Nat) (s : State), s.due (tmFinish sid) (s.secCourses 10) = true → exec (.openFinishTimeout sid) s = .next (s.dropHandshake sid)) ∧
  (∀ (a : Nat) (s : State), s.due (tmBlock a) (s.secCourses 60) = true → exec (.openBlockExpiry a) s =
    .next (({ s with agent := { s.agent with blocked := s.agent.blocked.filter (· != a) } } : State).disarm (tmBlock a))) ∧
  (∀ (sid : Nat) (x : Session) (s : State), s.agent.sessions.find? (fun x => x.id == sid) = some x → 16 ≤ x.waiting.length → x.second ≠ s.second →
    exec (.blpNotify sid) s = .next ((s.setSession { x with waiting := x.waiting.drop 16, notifySeq := x.notifySeq + 1, second := s.second, sent := 1 }).emit (.notify sid (x.notifySeq + 1) (x.waiting.take 16)))) ∧
  (∀ (sid : Nat) (s : State), s.agent.handover = false → s.due (tmIdleSession sid) (s.secCourses (s.rd Od.sessionIdleTimeout)) = true →
    exec (.sessionIdleTimeout sid) s = .next (s.endSession sid 2)) ∧
  (∀ (sid : Nat) (s : State), s.due (tmLifetime sid) (s.secCourses (s.rd Od.sessionLifetime)) = true →
    exec (.sessionLifetime sid) s = .next (s.endSession sid 3)) ∧
  (∀ (x : Nat) (s : State), s.due (tmTransfer x) (s.msCourses (s.rd Od.transferTimeout)) = true →
    s.due (tmCopy x) (s.msCourses (s.rd Od.transferTimeout)) = false → exec (.transferTimeout x) s = .next (s.setTransfer x none)) ∧
  (∀ (k : Fin 4) (s : State), s.boot.phase = 2 → s.answers (4 * k) = true → exec (.mailboxDoorbell k) s =
    .next (if (s.mailbox k).ring.refused then (s.setMailbox k (s.mailbox k).ring).bump Od.mailboxRefused else s.setMailbox k (s.mailbox k).ring)) ∧
  (∀ (n : Fin 96) (len : Nat) (s : State) (x : Mailbox), s.boot.phase = 2 → s.coreRuns n = true → (s.coreWindow n).busy = false →
    x = ({ s.coreWindow n with requestLength := len } : Mailbox).ring → exec (.coreWindowRequest n len) s =
    .next (if x.refused then (s.setCoreWindow n x).bump Od.mailboxRefused else s.setCoreWindow n x)) ∧
  (∀ (b : Bool) (f : MgmtFrame) (off : Nat) (s u v : State), u = s.moveTo off → 2 ≤ u.boot.phase →
    (u.mgmtRate b = none → exec (.mgmtFrame b f off) s = .next (u.bump Od.mgmtRateDrops)) ∧
    (∀ w, u.mgmtRate b = some w → f.trailer = none →
      v = { w with mgmt := { w.mgmt with degradedReported := w.mgmt.degradedReported && !(w.mgmt.linkA && w.mgmt.linkB) } } →
      (f.kind = .arp → exec (.mgmtFrame b f off) s = .next (v.mgmtAnswer (beBytes 2 0x0806 ++ beBytes 6 (v.rd Od.mgmtMac)))) ∧
      (f.kind = .neighbour → exec (.mgmtFrame b f off) s = .next (v.mgmtAnswer (beBytes 2 0x86DD ++ beBytes 6 (v.rd Od.mgmtMac)))) ∧
      (f.kind = .echo → exec (.mgmtFrame b f off) s = .next (v.mgmtAnswer (beBytes 2 0x0800))) ∧
      (f.kind = .other → exec (.mgmtFrame b f off) s = .next (v.bump Od.mgmtDiscarded)) ∧
      (∀ port src, f.kind = .udp port src → exec (.mgmtFrame b f off) s =
        .next (if port.toNat = v.rd Od.blpUdpPort ∧ v.mgmtAllows src.toNat = true then v else v.bump Od.mgmtDiscarded)))) ∧
  (∀ (b : Bool) (s : State), 2 ≤ s.boot.phase → s.mgmt.degradedReported = false → exec (.mgmtRedundancyDegraded b) s =
    .next (({ s with mgmt := { s.mgmt with linkA := !b, linkB := b, degradedReported := true } } : State).raise 0x1A04 (boolNat b)))

/-- Requests and register accesses (R395, R420, R530 to R533, R542, R560). -/
def Obligations.RequestCommands : Prop :=
  (∀ (c : Instr) (a : Ask) (r : Req) (s : State),
    (c = .blpClose r ∧ a = .close) ∨ (∃ k, c = .blpRead (.entry r k) ∧ a = .read k.toNat) ∨ (∃ k v, c = .blpWrite (.entry r k v) ∧ a = .write k.toNat v false) ∨
    (∃ t, c = .blpCommit r t ∧ a = .commit t.toNat) ∨ (∃ k, c = .blpDescribe r k ∧ a = .describe k.toNat) ∨ (c = .abortStaged r ∧ a = .abortStaged) ∨
    (∃ k f l o n bs st, c = .segWrite r k f l o n bs st ∧ a = .segWrite k.toNat f l o.toNat n.toNat bs st) ∨
    (∃ k o, c = .segRead r k o ∧ a = .segRead k.toNat o.toNat) ∨ (∃ m, c = .blpSubscribe r m ∧ a = .subscribe m.toNat) ∨
    (c = .blpKeepalive r ∧ a = .keepAlive) → 2 ≤ s.boot.phase →
    (s.agent.handover = false → exec c s = .next (s.ask r a)) ∧
    (s.agent.handover = true → exec c s = .next { s with agent := { s.agent with held := s.agent.held ++ [.ask r a] } })) ∧
  (∀ (a : RegRef) (n off : Nat) (bs : List Byte) (s : State), exec (.blpRead (.reg a n off)) s = .next (s.readReg a n off) ∧
    exec (.blpWrite (.reg a bs off)) s = .next (s.writeReg a bs off)) ∧
  (∀ (k : Fin 4) (n : Fin 32) (o : Fin 64) (bs : List Byte) (off m at_ base size : Nat) (s u : State), u = s.moveTo off → u.answers (4 * k.val + 3) = true →
    regAt 3 0 (0x1000 + 64 * n.val + o.val) = some ⟨.pinReg m at_, base, size⟩ → accessOk ⟨.pba, base, size⟩ (0x1000 + 64 * n.val + o.val) bs.length = true →
    at_ ≠ 0x30 → at_ ≠ 0x3C → u.rd (Od.tioOwner n) = k.val + 1 → u.rd Od.modeInForce ≠ 7 → ∃ v code, u.pinStore k n at_ (o.val - at_) bs = (v, code) ∧
    exec (.pinBlockWrite k n o bs off) s = .next { v with host := { v.host with pinStatus := tblSet 0 v.host.pinStatus (k.val * 32 + n.val) code } })

/-- How a request is answered (R531, R546, R547, R549, R550). -/
def Obligations.RequestsAreServed : Prop :=
  (∀ (sid seq : Nat) (a : Ask) (s u : State), u = s.sessionOver sid →
    s.serveSession sid seq false a = u.bump Od.blpFramesDiscarded ∧
    (∀ x, u.agent.sessions.find? (fun x => x.id == sid) = some x →
      (∀ m y, seq ≠ x.high + 1 → x.stored.find? (fun e => e.1 == seq) = some (seq, m, y) →
        s.serveSession sid seq true a = (u.emit (.blp (sessionCtx sid) m seq y.status y.data)).bump Od.retransmitted) ∧
      (seq ≠ x.high + 1 → x.stored.find? (fun e => e.1 == seq) = none → s.serveSession sid seq true a = u.bump Od.outOfOrderDiscarded) ∧
      (seq = x.high + 1 → a = .keepAlive → ∃ v y : State, v = (u.setSession { x with high := seq, last := u.now }).arm (tmIdleSession sid) ∧
        s.serveSession sid seq true a = y.emit (.blp (sessionCtx sid) a.msg seq 0 []) ∧
        (y = v ∨ ∃ z, y = v.setSession z ∧ z.stored = ((seq, a.msg, ⟨0, []⟩) :: x.stored).take 16))) ∧
    (u.agent.sessions.find? (fun x => x.id == sid) = none → u.agent.ended.contains sid = true →
      s.serveSession sid seq true a = (if a.isWrite then u.bump Od.refusedWrites else u).emit (.blp (sessionCtx sid) a.msg seq 8 [])) ∧
    (u.agent.sessions.find? (fun x => x.id == sid) = none → u.agent.ended.contains sid = false →
      s.serveSession sid seq true a = u.bump Od.blpFramesDiscarded)) ∧
  (∀ (a : Ask) (off : Nat) (s : State), s.ask ⟨.firmware, off⟩ a = ((((s.moveTo off).answer 1 .firmware none 2 a).1.emit
    (.blp 1 a.msg 0 ((s.moveTo off).answer 1 .firmware none 2 a).2.status ((s.moveTo off).answer 1 .firmware none 2 a).2.data)).afterAnswer a
    ((s.moveTo off).answer 1 .firmware none 2 a).2.status)) ∧
  (∀ (k counter off : Nat) (auth st : Bool) (x : WireValue) (s u : State), u = s.moveTo off →
    (auth = false ∨ counter ≤ u.rd Od.commandCounter → s.ask ⟨.signed counter auth, off⟩ (.write k x st) =
      ((u.signedFails 9 0 none true).state.emit (.blp 0 0x11 0 (u.signedFails 9 0 none true).status
        (beBytes 7 0 ++ beBytes 8 (u.signedFails 9 0 none true).course))).afterAnswer (.write k x st) (u.signedFails 9 0 none true).status) ∧
    (auth = true → u.rd Od.commandCounter < counter → s.ask ⟨.signed counter auth, off⟩ (.write k x st) =
      ((u.signedBody st counter (signedEntriesOf k x)).state.emit (.blp 0 0x11 0 (u.signedBody st counter (signedEntriesOf k x)).status
        (beBytes 7 0 ++ beBytes 8 (u.signedBody st counter (signedEntriesOf k x)).course))).afterAnswer (.write k x st)
        (u.signedBody st counter (signedEntriesOf k x)).status)) ∧
  (∀ (n version : Nat) (a : Ask) (s : State), (s.coreWindow n).busy = false → s.serveCore n version a = s) ∧
  (∀ (k version : Nat) (a : Ask) (s : State), (s.mailbox k).busy = false → s.serveMailbox k version a = s)

/-- Commands that are writes of one entry (R531, R542 and the rule of each entry). -/
def Obligations.WriteCommands : Prop :=
  (∀ (c : Instr) (r : Req) (k : Nat) (v : WireValue) (st : Bool) (s : State),
    (∃ (w : WireValue), c = .timeStepOffset r w ∧ k = Od.timeStepOffset ∧ v = w ∧ st = false) ∨
    (∃ (w : WireValue), c = .timeSet r w ∧ k = Od.timeSet ∧ v = w ∧ st = false) ∨
    (∃ (n : Fin 32) (w : WireValue), c = .genCommit r n w ∧ k = (Od.genCommit n) ∧ v = w ∧ st = false) ∨
    (∃ (n : Fin 32) (w : WireValue), c = .tioOwner r n w ∧ k = (Od.tioOwner n) ∧ v = w ∧ st = false) ∨
    (∃ (w : WireValue) (coresStopped : Bool), c = .operatingMode r w coresStopped ∧ k = Od.operatingMode ∧ v = w ∧ st = coresStopped) ∨
    (c = .safeModeEnter r ∧ k = Od.safeModeCommand ∧ v = ⟨0x02, beBytes 1 7⟩ ∧ st = false) ∨
    (∃ (target : BitVec 8) (coresStopped : Bool), c = .safeModeLeave r target coresStopped ∧ k = Od.safeModeCommand ∧ v = ⟨0x02, beBytes 1 target.toNat⟩ ∧ st = coresStopped) ∨
    (∃ (p : PortId) (w : WireValue), c = .portEnable r p w ∧ k = (Od.portEnable p) ∧ v = w ∧ st = false) ∨
    (∃ (t : Fin 32) (w : WireValue), c = .laneGrouping r t w ∧ k = (Od.laneGrouping t) ∧ v = w ∧ st = false) ∨
    (∃ (p : PortId) (bytes : List Byte), c = .gateControlList r p bytes ∧ k = (Od.gateControlList p) ∧ v = ⟨0x0F, bytes⟩ ∧ st = false) ∨
    (∃ (t : Fin 32) (index : BitVec 16) (entry : BitVec 256), c = .policerUpdate r t index entry ∧ k = (Od.policerUpdate t) ∧ v = ⟨0x0F, beBytes 2 index.toNat ++ beBytes 6 0 ++ beBytes 32 entry.toNat⟩ ∧ st = false) ∨
    (∃ (t : Fin 32) (index : BitVec 16), c = .policerQuery r t index ∧ k = (Od.policerQuery t) ∧ v = ⟨0x0F, beBytes 2 index.toNat⟩ ∧ st = false) ∨
    (∃ (entry : BitVec 128), c = .fdbInsertOrReplace r entry ∧ k = Od.fdbUpdate ∧ v = ⟨0x0F, fdbRecord 1 0 entry.toNat⟩ ∧ st = false) ∨
    (∃ (entry : BitVec 128), c = .fdbDelete r entry ∧ k = Od.fdbUpdate ∧ v = ⟨0x0F, fdbRecord 2 0 entry.toNat⟩ ∧ st = false) ∨
    (∃ (fid : BitVec 12) (gen : BitVec 16), c = .fdbPurge r fid gen ∧ k = Od.fdbUpdate ∧ v = ⟨0x0F, fdbRecord 3 fid.toNat (gen.toNat * 2 ^ 44)⟩ ∧ st = false) ∨
    (∃ (fid : BitVec 12) (gen : BitVec 16), c = .fdbRestamp r fid gen ∧ k = Od.fdbUpdate ∧ v = ⟨0x0F, fdbRecord 4 fid.toNat (gen.toNat * 2 ^ 44)⟩ ∧ st = false) ∨
    (∃ (k₁ : BitVec 128), c = .fdbQuery r k₁ ∧ k = Od.fdbQuery ∧ v = ⟨0x0F, beBytes 16 k₁.toNat⟩ ∧ st = false) ∨
    (∃ (first : BitVec 32) (count : BitVec 16), c = .fdbSweep r first count ∧ k = Od.fdbSweep ∧ v = ⟨0x0F, beBytes 4 first.toNat ++ beBytes 2 count.toNat⟩ ∧ st = false) ∨
    (∃ (t : Fin 32) (record : List Byte), c = .ternaryInsert r t record ∧ k = (Od.ternaryUpdate t) ∧ v = ⟨0x0F, withOp 1 record⟩ ∧ st = false) ∨
    (∃ (t : Fin 32) (record : List Byte), c = .ternaryReplace r t record ∧ k = (Od.ternaryUpdate t) ∧ v = ⟨0x0F, withOp 2 record⟩ ∧ st = false) ∨
    (∃ (t : Fin 32) (pipeline : Fin 2) (rule : BitVec 32), c = .ternaryDelete r t pipeline rule ∧ k = (Od.ternaryUpdate t) ∧ v = ⟨0x0F, TernaryOp.bytes ⟨3, pipeline, 0, rule.toNat, 0, 0, 0⟩⟩ ∧ st = false) ∨
    (∃ (t : Fin 32) (rule : BitVec 32), c = .ternaryQuery r t rule ∧ k = (Od.ternaryQuery t) ∧ v = ⟨0x0F, beBytes 4 rule.toNat⟩ ∧ st = false) ∨
    (∃ (x : Fin 16) (k₁ : BitVec 256) (action : BitVec 256), c = .exactInsertOrReplace r x k₁ action ∧ k = (Od.exactUpdate x) ∧ v = ⟨0x0F, ExactOp.bytes ⟨1, x, k₁.toNat, action.toNat⟩⟩ ∧ st = false) ∨
    (∃ (x : Fin 16) (k₁ : BitVec 256), c = .exactDelete r x k₁ ∧ k = (Od.exactUpdate x) ∧ v = ⟨0x0F, ExactOp.bytes ⟨2, x, k₁.toNat, 0⟩⟩ ∧ st = false) ∨
    (∃ (x : Fin 16) (k₁ : BitVec 256), c = .exactQuery r x k₁ ∧ k = (Od.exactQuery x) ∧ v = ⟨0x0F, beBytes 32 k₁.toNat⟩ ∧ st = false) ∨
    (∃ (x : Fin 16) (first : BitVec 32) (count : BitVec 16), c = .exactSweep r x first count ∧ k = (Od.exactSweep x) ∧ v = ⟨0x0F, beBytes 4 first.toNat ++ beBytes 2 count.toNat⟩ ∧ st = false) ∨
    (∃ (t : Fin 32) (pipeline : Fin 2) (entry : Fin 256) (words : List (BitVec 32)), c = .loadOrReplace r t pipeline entry words ∧ k = (Od.programUpdate t) ∧ v = ⟨0x0F, ProgOp.bytes ⟨1, pipeline, entry, words.map BitVec.toNat⟩⟩ ∧ st = false) ∨
    (∃ (t : Fin 32) (pipeline : Fin 2) (entry : Fin 256), c = .remove r t pipeline entry ∧ k = (Od.programUpdate t) ∧ v = ⟨0x0F, ProgOp.bytes ⟨2, pipeline, entry, []⟩⟩ ∧ st = false) ∨
    (∃ (bytes : List Byte), c = .microcodePatch r bytes ∧ k = Od.microcodePatch ∧ v = ⟨0x0F, bytes⟩ ∧ st = false) ∨
    (∃ (t : Fin 32) (pipeline : Fin 2) (address : BitVec 16) (words : List (BitVec 32)), c = .stateMemory r t pipeline address words ∧ k = (Od.stateMemory t) ∧ v = ⟨0x0F, beBytes 1 pipeline ++ beBytes 2 address.toNat ++ (words.map (fun w => leBytes 4 w.toNat)).flatten⟩ ∧ st = false) ∨
    (∃ (record : List Byte), c = .keyLoad r record ∧ k = Od.keyLoad ∧ v = ⟨0x0F, record⟩ ∧ st = false) ∨
    (∃ (slot : BitVec 16), c = .keyErase r slot ∧ k = Od.keyErase ∧ v = ⟨0x03, beBytes 2 slot.toNat⟩ ∧ st = false) ∨
    (∃ (slot : BitVec 16) (kind : BitVec 8) (slice : BitVec 16), c = .keySlotOwner r slot kind slice ∧ k = Od.keySlotOwner ∧ v = ⟨0x0F, beBytes 2 slot.toNat ++ beBytes 1 kind.toNat ++ beBytes 2 slice.toNat⟩ ∧ st = false) ∨
    (∃ (slot : BitVec 16), c = .keySlotInfo r slot ∧ k = Od.keySlotInfo ∧ v = ⟨0x0F, beBytes 2 slot.toNat⟩ ∧ st = false) ∨
    (∃ (slice : BitVec 16) (record : BitVec 512), c = .sliceResourceSet r slice record ∧ k = Od.sliceResourceSet ∧ v = ⟨0x0F, beBytes 2 slice.toNat ++ beBytes 6 0 ++ leBytes 64 record.toNat⟩ ∧ st = false) ∨
    (∃ (slice : BitVec 16), c = .sliceQuery r slice ∧ k = Od.sliceQuery ∧ v = ⟨0x0F, beBytes 2 slice.toNat⟩ ∧ st = false) ∨
    (∃ (slice : BitVec 16) (link : BitVec 8) (fn : BitVec 8) (records : List Byte), c = .sliceState r slice link fn records ∧ k = Od.sliceState ∧ v = ⟨0x0F, beBytes 2 slice.toNat ++ beBytes 1 link.toNat ++ beBytes 1 fn.toNat ++ records⟩ ∧ st = false) ∨
    (∃ (n : BitVec 16) (record : BitVec 384), c = .namespaceRecord r n record ∧ k = (Od.namespaceRecord n.toNat) ∧ v = ⟨0x0F, leBytes 48 record.toNat⟩ ∧ st = false) ∨
    (∃ (record : List Byte), c = .qpCreate r record ∧ k = Od.qpControl ∧ v = ⟨0x0F, withOp 1 record⟩ ∧ st = false) ∨
    (∃ (record : List Byte), c = .qpModify r record ∧ k = Od.qpControl ∧ v = ⟨0x0F, withOp 2 record⟩ ∧ st = false) ∨
    (∃ (record : List Byte), c = .qpDestroy r record ∧ k = Od.qpControl ∧ v = ⟨0x0F, withOp 3 record⟩ ∧ st = false) ∨
    (∃ (record : List Byte), c = .cqCreate r record ∧ k = Od.cqControl ∧ v = ⟨0x0F, withOp 1 record⟩ ∧ st = false) ∨
    (∃ (record : List Byte), c = .cqDestroy r record ∧ k = Od.cqControl ∧ v = ⟨0x0F, withOp 3 record⟩ ∧ st = false) ∨
    (∃ (record : List Byte), c = .ahCreate r record ∧ k = Od.ahControl ∧ v = ⟨0x0F, withOp 1 record⟩ ∧ st = false) ∨
    (∃ (record : List Byte), c = .ahDestroy r record ∧ k = Od.ahControl ∧ v = ⟨0x0F, withOp 3 record⟩ ∧ st = false) ∨
    (∃ (record : List Byte), c = .regionRegister r record ∧ k = Od.regionControl ∧ v = ⟨0x0F, withOp 1 record⟩ ∧ st = false) ∨
    (∃ (record : List Byte), c = .regionDeregister r record ∧ k = Od.regionControl ∧ v = ⟨0x0F, withOp 2 record⟩ ∧ st = false) ∨
    (∃ (kind : BitVec 8) (number : BitVec 32), c = .rdmaQuery r kind number ∧ k = Od.rdmaQuery ∧ v = ⟨0x0F, beBytes 1 kind.toNat ++ beBytes 4 number.toNat⟩ ∧ st = false) ∨
    (∃ (bytes : List Byte) (coresStopped : Bool), c = .signedCommand r bytes coresStopped ∧ k = Od.signedCommand ∧ v = ⟨0x0F, bytes⟩ ∧ st = coresStopped) ∨
    (∃ (sequence : BitVec 64), c = .eventRead r sequence ∧ k = Od.eventRead ∧ v = ⟨0x0F, beBytes 8 sequence.toNat⟩ ∧ st = false) ∨
    (∃ (code : BitVec 16), c = .eventSeverity r code ∧ k = Od.eventSeverity ∧ v = ⟨0x0F, beBytes 2 code.toNat⟩ ∧ st = false) ∨
    (∃ (slot : BitVec 8), c = .imageCommit r slot ∧ k = Od.imageCommit ∧ v = ⟨0x02, beBytes 1 slot.toNat⟩ ∧ st = false) ∨
    (∃ (slot : BitVec 8), c = .slotErase r slot ∧ k = Od.slotErase ∧ v = ⟨0x02, beBytes 1 slot.toNat⟩ ∧ st = false) ∨
    (∃ (slot : BitVec 8), c = .activateSlot r slot ∧ k = Od.activateSlot ∧ v = ⟨0x02, beBytes 1 slot.toNat⟩ ∧ st = false) ∨
    (∃ (t : Fin 16) (coresStopped : Bool), c = .tileSleep r t coresStopped ∧ k = (Od.tileSleep t) ∧ v = ⟨0x01, [1]⟩ ∧ st = coresStopped) ∨
    (∃ (t : Fin 16), c = .tileWake r t ∧ k = (Od.tileSleep t) ∧ v = ⟨0x01, [0]⟩ ∧ st = false) →
    2 ≤ s.boot.phase →
    (s.agent.handover = false → exec c s = .next (s.ask r (.write k v st))) ∧
    (s.agent.handover = true → exec c s = .next { s with agent := { s.agent with held := s.agent.held ++ [.ask r (.write k v st)] } })) ∧
  (∀ (r : Req) (n : Nat) (s : State), 2 ≤ s.boot.phase → s.agent.handover = false →
    ((∀ c b, r.via ≠ .signed c b) → r.via ≠ .firmware → exec (.courseCommit r n) s = .next (s.ask r (.write Od.courseCommit ⟨0x01, [1]⟩ false))) ∧
    (∀ c b, r.via = .signed c b → exec (.courseCommit r n) s = .next (s.ask r (.write Od.courseLength ⟨0x04, beBytes 4 n⟩ false))) ∧
    (∀ u : State, r.via = .firmware → u = s.ask r (.write Od.courseLength ⟨0x04, beBytes 4 n⟩ false) → 2 ≤ u.boot.phase → u.agent.handover = false →
      exec (.courseCommit r n) s = .next (u.ask r (.write Od.courseCommit ⟨0x01, [1]⟩ false)))) ∧
  (∀ (r : Req) (f l : Bool) (o n : BitVec 32) (bs : List Byte) (s : State), 2 ≤ s.boot.phase → s.agent.handover = false →
    exec (.imageDownload r f l o n bs) s = .next (s.ask r (.segWrite Od.imageDownload f l o.toNat n.toNat bs false)))

/-- The Lamil monitor (R575 to R584). -/
def Obligations.MonitorCommands : Prop :=
  (∀ (ch : BitVec 8) (ms : Nat) (bad : Bool) (s : State), s.monitorRuns = true →
    (s.monitor.autoBaud = true → exec (.monCharacter ch ms bad) s = .next (s.tryBaud ch ms bad)) ∧
    (s.monitor.autoBaud = false → exec (.monCharacter ch ms true) s = .next (s.bump Od.monFramingErrors) ∧
      exec (.monCharacter ch ms false) s = .next ((s.drainChars.charIn ch).arm tmChars))) ∧
  (∀ (ms : Nat) (s : State), s.monitorRuns = true → 2 ≤ ms → exec (.monBreak ms) s = .next s.enterAutoBaud) ∧
  (∀ (s : State) (n : Nat), n = s.secCourses (s.rd Od.monitorIdleTimeout) →
    (s.due tmCommands n = true → s.due tmChars n = false → exec .monitorIdleTimeout s = .next ((s.wr Od.monitorLevel 0).disarm tmCommands)) ∧
    (s.due tmCommands n = false → s.monitorRuns = true → s.due tmChars n = true → exec .monitorIdleTimeout s = .next s.enterAutoBaud)) ∧
  (∀ (c : Instr) (f : State → State) (s : State), s.textOpen = true →
    (c = .monHelp ∧ f = State.monHelp) ∨ (c = .monId ∧ f = State.monId) ∨ (c = .monTime ∧ f = State.monTime) ∨ (c = .monMode ∧ f = State.monMode) ∨
    (∃ n, c = .monEvents n ∧ f = fun s => s.monEvents n) ∨ (∃ n, c = .monUnlock n ∧ f = fun s => s.monUnlock n) ∨ (c = .monLock ∧ f = State.monLock) ∨
    (c = .monBlp ∧ f = State.monBlp) ∨ (∃ k : BitVec 24, c = .monRd k ∧ f = fun s => s.monRd k.toNat) ∨ (c = .monTiles ∧ f = State.monTiles) ∨
    (∃ a b, c = .monPorts a b ∧ f = fun s => s.monPorts a b) ∨ (c = .monBudget ∧ f = State.monBudget) ∨
    (∃ id vn n tags, c = .monCapture id vn n tags ∧ f = fun s => s.monCapture id vn n tags) ∨ (c = .monEnrol ∧ f = State.monEnrol) ∨
    (∃ bs, c = .monRecover bs ∧ f = fun s => s.monRecover bs) ∨ (c = .monRecoverCancel ∧ f = State.monRecoverCancel) →
    exec c s = .next (f ((s.arm tmCommands).arm tmChars))) ∧
  (∀ (raw : List Byte) (s : State), s.monitorRuns = true → s.monitor.expects = 1 → s.agent.handover = false →
    exec (.challengeResponse raw) s = .next ((s.arm tmChars).takeBlock raw).drainChars) ∧
  (∀ s : State, s.monitor.expects = 1 → s.due tmChallenge (s.secCourses 60) = true → exec .challengeTimeout s = .next s.unlockFailed.drainChars) ∧
  (∀ s : State, s.monitor.blocked = true → s.due tmBackoff (s.secCourses s.monitor.backoff) = true → exec .unlockBackoffExpiry s =
    .next (({ s with monitor := { s.monitor with blocked := false } } : State).disarm tmBackoff)) ∧
  (∀ (raw : List Byte) (s : State), s.monitorRuns = true → s.monitor.autoBaud = false → s.monitor.blp = true → s.agent.handover = false →
    exec (.binaryBlock raw) s = .next ((s.arm tmChars).takeBlock raw).drainChars) ∧
  (∀ s : State, s.monitor.block = true → s.due tmMonBlock (s.secCourses 2) = true → exec .blockTimeout s =
    .next ((({ s with monitor := { s.monitor with block := false, line := [] } } : State).disarm tmMonBlock).bump Od.monBlockDiscarded))

/-- Checks of a write in their order (R20, R21, R531). -/
def Obligations.ChecksComeInTheirOrder : Prop :=
  (∀ (s : State) (ctx : Nat) (w : Writer) (st : Bool) (key : Nat) (v : WireValue),
    (odIndexKnown (key / 256) = false → s.agentWrite ctx w st key v = ⟨s.bump Od.refusedWrites, 1, 0⟩) ∧
    (odIndexKnown (key / 256) = true → odRow? key = none → s.agentWrite ctx w st key v = ⟨s.bump Od.refusedWrites, 2, 0⟩) ∧
    (∀ r, odIndexKnown (key / 256) = true → odRow? key = some r →
      (mayWrite r.access w = false ∨ (w ≠ .keystone ∧ s.keystoneOnly key = true) →
        s.agentWrite ctx w st key v = ⟨s.bump Od.refusedWrites, 3, 0⟩) ∧
      (mayWrite r.access w = true → w = .keystone ∨ s.keystoneOnly key = false → itemOf r key v = none →
        (key ≠ Od.microcodePatch ∨ s.patchSigned v.bytes = true → s.agentWrite ctx w st key v = ⟨s.bump Od.refusedWrites, 5, 0⟩) ∧
        (key = Od.microcodePatch → s.patchSigned v.bytes = false → s.agentWrite ctx w st key v = ⟨s.bump Od.refusedWrites, 9, 0⟩)))) ∧
  (∀ codes : List Nat, (∀ c ∈ codes, c ∈ [8, 1, 2, 3, 9, 5, 7, 4, 0x0A, 6, 0x0B]) → codes ≠ [] →
    pickCode codes ∈ codes ∧ ∀ c ∈ codes, [8, 1, 2, 3, 9, 5, 7, 4, 0x0A, 6, 0x0B].idxOf (pickCode codes) ≤ [8, 1, 2, 3, 9, 5, 7, 4, 0x0A, 6, 0x0B].idxOf c)

/-- Acceptance of a write (R20, R119, R531, R533). -/
def Obligations.AcceptedWritesWaitForTheirBoundary : Prop :=
  (∀ s : State, (s.clock.start + s.clock.off + 200 * nsTicks < s.clock.finish → s.applyCourse = s.course + 1) ∧
    (s.clock.finish ≤ s.clock.start + s.clock.off + 200 * nsTicks → s.applyCourse = s.course + 2)) ∧
  (∀ (s : State) (ctx : Nat) (w : Writer) (st : Bool) (key : Nat) (v : WireValue) (r : OdRow) (i : Item), odRow? key = some r → itemOf r key v = some i →
    (r.effect = .crs → (s.agentWrite ctx w st key v).status = 0 → odIndexKnown (key / 256) = true → key ≠ Od.operatingMode → key ≠ Od.safeModeCommand →
      keyIs key 0x2600 32 0x0E = false → (s.agentWrite ctx w st key v).course = s.applyCourse ∧
      (s.agentWrite ctx w st key v).state.agent.crs = s.agent.crs ++ [⟨ctx, i, s.applyCourse⟩]) ∧
    (r.effect = .set → (s.agentWrite ctx w st key v).status = 0 → odIndexKnown (key / 256) = true → key ≠ Od.courseCommit →
      (s.agentWrite ctx w st key v).state = s.setStaged ctx (s.stagedBy ctx ++ [i])) ∧
    (r.effect ≠ .imm → (s.agentWrite ctx w st key v).status ≠ 0 → (s.agentWrite ctx w st key v).status ≠ 0x0B →
      (s.agentWrite ctx w st key v).state = s.bump Od.refusedWrites))
end

