-- ==== Sys2Proof/Laws/Tables.lean ====
section
/-! SUPPORT. Laws/Tables.lean: what a sparse table reads after it is written, and that every write keeps its canonical
form. -/

namespace Sys2Proof.Machine

variable {α : Type}

theorem tblGet_tblPut_same (d : α) (t : List (Nat × α)) (k : Nat) (v : α) : tblGet d (tblPut t k v) k = v := by
  induction t with
  | nil => simp [tblPut, tblGet]
  | cons e t ih =>
    obtain ⟨k', v'⟩ := e
    unfold tblPut
    split
    · simp [tblGet]
    · split
      · simp [tblGet]
      · next h => simp [tblGet, h, ih]

theorem tblGet_tblPut_ne (d : α) (t : List (Nat × α)) {k j : Nat} (v : α) (h : j ≠ k) :
    tblGet d (tblPut t k v) j = tblGet d t j := by
  induction t with
  | nil => simp [tblPut, tblGet, h]
  | cons e t ih =>
    obtain ⟨k', v'⟩ := e
    unfold tblPut
    split
    · simp [tblGet, h]
    · split
      · next hk => subst hk; simp [tblGet, h]
      · simp [tblGet, ih]

theorem tblGet_tblDel_same (d : α) (t : List (Nat × α)) (k : Nat) : tblGet d (tblDel t k) k = d := by
  induction t with
  | nil => rfl
  | cons e t ih =>
    obtain ⟨k', v'⟩ := e
    unfold tblDel
    split
    · exact ih
    · next h => simp [tblGet, h, ih]

theorem tblGet_tblDel_ne (d : α) (t : List (Nat × α)) {k j : Nat} (h : j ≠ k) :
    tblGet d (tblDel t k) j = tblGet d t j := by
  induction t with
  | nil => rfl
  | cons e t ih =>
    obtain ⟨k', v'⟩ := e
    unfold tblDel
    split
    · next hk => subst hk; simp [tblGet, h, ih]
    · simp [tblGet, ih]

theorem tblGet_tblSet_same [DecidableEq α] (d : α) (t : List (Nat × α)) (k : Nat) (v : α) :
    tblGet d (tblSet d t k v) k = v := by
  unfold tblSet
  split
  · next h => rw [tblGet_tblDel_same, h]
  · exact tblGet_tblPut_same d t k v

theorem tblGet_tblSet_ne [DecidableEq α] (d e : α) (t : List (Nat × α)) {k j : Nat} (v : α) (h : j ≠ k) :
    tblGet e (tblSet d t k v) j = tblGet e t j := by
  unfold tblSet
  split
  · exact tblGet_tblDel_ne e t h
  · exact tblGet_tblPut_ne e t v h

/-! ### The canonical form -/

/-- Keys above `lo` that rise strictly also rise strictly above any smaller bound. -/
theorem tblRising_mono {lo lo' : Nat} (t : List (Nat × α)) (h : lo' ≤ lo) (ht : tblRising (some lo) t = true) :
    tblRising (some lo') t = true := by
  cases t with
  | nil => rfl
  | cons e t =>
    obtain ⟨k, v⟩ := e
    simp only [tblRising, Bool.and_eq_true, decide_eq_true_eq] at ht ⊢
    exact ⟨Nat.lt_of_le_of_lt h ht.1, ht.2⟩

theorem tblRising_none {lo : Nat} (t : List (Nat × α)) (ht : tblRising (some lo) t = true) :
    tblRising none t = true := by
  cases t with
  | nil => rfl
  | cons e t =>
    obtain ⟨k, v⟩ := e
    simp only [tblRising, Bool.and_eq_true] at ht ⊢
    exact ht.2

theorem tblPut_rising_some (t : List (Nat × α)) (k : Nat) (v : α) :
    ∀ lo, lo < k → tblRising (some lo) t = true → tblRising (some lo) (tblPut t k v) = true := by
  induction t with
  | nil => intro lo h _; simp [tblPut, tblRising, h]
  | cons e t ih =>
    obtain ⟨k', v'⟩ := e
    intro lo h ht
    simp only [tblRising, Bool.and_eq_true, decide_eq_true_eq] at ht
    unfold tblPut
    split
    · next hk => simp [tblRising, h, hk, ht.2]
    · split
      · next hk => subst hk; simp [tblRising, h, ht.2]
      · next h1 h2 =>
        simp only [tblRising, Bool.and_eq_true, decide_eq_true_eq]
        exact ⟨ht.1, ih k' (by omega) ht.2⟩

theorem tblPut_rising (t : List (Nat × α)) (k : Nat) (v : α) (ht : tblRising none t = true) :
    tblRising none (tblPut t k v) = true := by
  cases t with
  | nil => simp [tblPut, tblRising]
  | cons e t =>
    obtain ⟨k', v'⟩ := e
    simp only [tblRising] at ht
    unfold tblPut
    split
    · next hk => simp [tblRising, hk, ht]
    · split
      · next hk => subst hk; simpa [tblRising] using ht
      · simp only [tblRising]
        exact tblPut_rising_some t k v k' (by omega) ht

theorem tblDel_rising_some (t : List (Nat × α)) (k : Nat) :
    ∀ lo, tblRising (some lo) t = true → tblRising (some lo) (tblDel t k) = true := by
  induction t with
  | nil => intro lo h; exact h
  | cons e t ih =>
    obtain ⟨k', v'⟩ := e
    intro lo ht
    simp only [tblRising, Bool.and_eq_true, decide_eq_true_eq] at ht
    unfold tblDel
    split
    · exact ih lo (tblRising_mono t (Nat.le_of_lt ht.1) ht.2)
    · simp only [tblRising, Bool.and_eq_true, decide_eq_true_eq]
      exact ⟨ht.1, ih k' ht.2⟩

theorem tblDel_rising (t : List (Nat × α)) (k : Nat) (ht : tblRising none t = true) :
    tblRising none (tblDel t k) = true := by
  cases t with
  | nil => rfl
  | cons e t =>
    obtain ⟨k', v'⟩ := e
    simp only [tblRising] at ht
    unfold tblDel
    split
    · exact tblRising_none _ (tblDel_rising_some t k k' ht)
    · simp only [tblRising]
      exact tblDel_rising_some t k k' ht

theorem mem_tblPut {t : List (Nat × α)} {k : Nat} {v : α} {e : Nat × α} (h : e ∈ tblPut t k v) :
    e = (k, v) ∨ e ∈ t := by
  induction t with
  | nil => simpa [tblPut] using h
  | cons e' t ih =>
    obtain ⟨k', v'⟩ := e'
    unfold tblPut at h
    split at h
    · simpa using h
    · split at h
      · simp only [List.mem_cons] at h ⊢
        tauto
      · simp only [List.mem_cons] at h ⊢
        rcases h with h | h
        · exact .inr (.inl h)
        · rcases ih h with h | h
          · exact .inl h
          · exact .inr (.inr h)

theorem mem_tblDel {t : List (Nat × α)} {k : Nat} {e : Nat × α} (h : e ∈ tblDel t k) : e ∈ t := by
  induction t with
  | nil => exact h
  | cons e' t ih =>
    obtain ⟨k', v'⟩ := e'
    unfold tblDel at h
    split at h
    · exact List.mem_cons_of_mem _ (ih h)
    · simp only [List.mem_cons] at h ⊢
      exact h.imp id ih

/-- Writing a table in its canonical form, through the one write that knows what the key reads as unlisted, keeps the
form. -/
theorem tblSet_wf [DecidableEq α] (d : Nat → α) (t : List (Nat × α)) (k : Nat) (v : α) (h : tblWf d t = true) :
    tblWf d (tblSet (d k) t k v) = true := by
  simp only [tblWf, Bool.and_eq_true, List.all_eq_true, decide_eq_true_eq] at h ⊢
  unfold tblSet
  split
  · exact ⟨tblDel_rising t k h.1, fun e he => h.2 e (mem_tblDel he)⟩
  · next hv =>
    refine ⟨tblPut_rising t k v h.1, fun e he => ?_⟩
    rcases mem_tblPut he with rfl | he
    · exact hv
    · exact h.2 e he

theorem tblDel_wf [DecidableEq α] (d : Nat → α) (t : List (Nat × α)) (k : Nat) (h : tblWf d t = true) :
    tblWf d (tblDel t k) = true := by
  simp only [tblWf, Bool.and_eq_true, List.all_eq_true, decide_eq_true_eq] at h ⊢
  exact ⟨tblDel_rising t k h.1, fun e he => h.2 e (mem_tblDel he)⟩

theorem tblFilter_rising_some (t : List (Nat × α)) (p : Nat × α → Bool) :
    ∀ lo, tblRising (some lo) t = true → tblRising (some lo) (t.filter p) = true := by
  induction t with
  | nil => intro lo h; exact h
  | cons e t ih =>
    obtain ⟨k, v⟩ := e
    intro lo ht
    simp only [tblRising, Bool.and_eq_true, decide_eq_true_eq] at ht
    rw [List.filter_cons]
    split
    · simp only [tblRising, Bool.and_eq_true, decide_eq_true_eq]
      exact ⟨ht.1, ih k ht.2⟩
    · exact ih lo (tblRising_mono t (Nat.le_of_lt ht.1) ht.2)

theorem tblFilter_rising (t : List (Nat × α)) (p : Nat × α → Bool) (ht : tblRising none t = true) :
    tblRising none (t.filter p) = true := by
  cases t with
  | nil => rfl
  | cons e t =>
    obtain ⟨k, v⟩ := e
    simp only [tblRising] at ht
    rw [List.filter_cons]
    split
    · simp only [tblRising]
      exact tblFilter_rising_some t p k ht
    · exact tblRising_none _ (tblFilter_rising_some t p k ht)

theorem tblFilter_wf [DecidableEq α] (d : Nat → α) (t : List (Nat × α)) (p : Nat × α → Bool) (h : tblWf d t = true) :
    tblWf d (t.filter p) = true := by
  simp only [tblWf, Bool.and_eq_true, List.all_eq_true, decide_eq_true_eq] at h ⊢
  exact ⟨tblFilter_rising t p h.1, fun e he => h.2 e (List.mem_filter.mp he).1⟩

end Sys2Proof.Machine
end

