-- ==== Sys2Proof/Laws/Kept.lean ====
section
/-! SUPPORT. Laws/Kept.lean: what every operation keeps: the queue, and the canonical form of Safety.lean. One lemma per
operation, in the files Laws/Kept*.lean, each proved from those of the operations it calls. -/

namespace Sys2Proof.Machine

/-- The queue holds `q` and the data are in their canonical form. -/
def State.Kept (s : State) (q : List Instr) : Prop := s.pending = q ∧ s.Canonical

/-- Whatever next state an outcome answers is kept. -/
def ResKept (r : Res) (q : List Instr) : Prop := ∀ t, r = .next t → t.Kept q

variable {q : List Instr} {s : State}

theorem resKept_next (h : s.Kept q) : ResKept (.next s) q := fun t ht => by cases ht; exact h

theorem kept_ite {c : Prop} [Decidable c] {a b : State} (ha : a.Kept q) (hb : b.Kept q) :
    (if c then a else b).Kept q := by split <;> assumption

theorem resKept_ite {c : Prop} [Decidable c] {a b : Res} (ha : ResKept a q) (hb : ResKept b q) :
    ResKept (if c then a else b) q := by split <;> assumption

theorem kept_getD {o : Option State} {d : State} (ho : ∀ t, o = some t → t.Kept q) (hd : d.Kept q) : (o.getD d).Kept q := by
  cases o with
  | none => exact hd
  | some t => exact ho t rfl

theorem resKept_getD {o : Option Res} {d : Res} (ho : ∀ r, o = some r → ResKept r q) (hd : ResKept d q) :
    ResKept (o.getD d) q := by
  cases o with
  | none => exact hd
  | some r => exact ho r rfl

theorem kept_foldl {α : Type} {f : State → α → State} {l : List α} (h : s.Kept q)
    (hf : ∀ s a, s.Kept q → (f s a).Kept q) : (l.foldl f s).Kept q := by
  induction l generalizing s with
  | nil => exact h
  | cons a l ih => exact ih (hf s a h)

theorem kept_foldl_pair {α β : Type} {f : State × β → α → State × β} {l : List α} {b : β} (h : s.Kept q)
    (hf : ∀ s b a, s.Kept q → (f (s, b) a).1.Kept q) : (l.foldl f (s, b)).1.Kept q := by
  induction l generalizing s b with
  | nil => exact h
  | cons a l ih =>
    rw [List.foldl_cons, show f (s, b) a = ((f (s, b) a).1, (f (s, b) a).2) from rfl]
    exact ih (hf s b a h)

theorem kept_fst {β : Type} {p : State × β} {t : State} {x : β} (e : p = (t, x)) (h : p.1.Kept q) : t.Kept q := by
  rw [e] at h; exact h

theorem kept_ite_fst {β : Type} {c : Prop} [Decidable c] {a b : State × β} (ha : a.1.Kept q) (hb : b.1.Kept q) :
    (if c then a else b).1.Kept q := by split <;> assumption

theorem kept_iteW {c : Prop} [Decidable c] {a b : Written} (ha : a.state.Kept q) (hb : b.state.Kept q) :
    (if c then a else b).state.Kept q := by split <;> assumption

theorem kept_iteC {c : Prop} [Decidable c] {a b : Committed} (ha : a.state.Kept q) (hb : b.state.Kept q) :
    (if c then a else b).state.Kept q := by split <;> assumption

theorem kept_mid {α β : Type} {p : α × State × β} {a : α} {t : State} {x : β} (e : p = (a, t, x)) (h : p.2.1.Kept q) :
    t.Kept q := by
  rw [e] at h; exact h

theorem forEach_kept {f : Nat → State → State} {l : List Nat} (h : s.Kept q)
    (hf : ∀ n s, s.Kept q → (f n s).Kept q) : (forEach l f s).Kept q := kept_foldl h (fun s n h => hf n s h)

/-! ### Record updates away from the tables -/

theorem kept_activation (h : s.Kept q) {x0 : Activation} : State.Kept { s with activation := x0 } q :=
  h

theorem kept_agent (h : s.Kept q) {x0 : Agent} : State.Kept { s with agent := x0 } q :=
  h

theorem kept_agent_classify_host (h : s.Kept q) {x0 : Agent} {x1 : Classify} {x2 : HostSide} (e : x2.peer = s.host.peer) : State.Kept { s with agent := x0, classify := x1, host := x2 } q :=
  ⟨h.1, h.2.1, h.2.2.1, h.2.2.2.1, h.2.2.2.2.1, e ▸ h.2.2.2.2.2.1, h.2.2.2.2.2.2.1, h.2.2.2.2.2.2.2⟩

theorem kept_agent_log (h : s.Kept q) {x0 : Agent} {x1 : EventLog} (e1 : x1.ring = s.log.ring) (e2 : x1.logged = s.log.logged) : State.Kept { s with agent := x0, log := x1 } q :=
  ⟨h.1, h.2.1, h.2.2.1, h.2.2.2.1, h.2.2.2.2.1, h.2.2.2.2.2.1, e1 ▸ h.2.2.2.2.2.2.1, e2 ▸ h.2.2.2.2.2.2.2⟩

theorem kept_boot (h : s.Kept q) {x0 : Boot} : State.Kept { s with boot := x0 } q :=
  h

theorem kept_boot_activation (h : s.Kept q) {x0 : Boot} {x1 : Activation} : State.Kept { s with boot := x0, activation := x1 } q :=
  h

theorem kept_boot_package (h : s.Kept q) {x0 : Boot} {x1 : Package} : State.Kept { s with boot := x0, package := x1 } q :=
  h

theorem kept_cipher (h : s.Kept q) {x0 : Cipher} : State.Kept { s with cipher := x0 } q :=
  h

theorem kept_classify (h : s.Kept q) {x0 : Classify} : State.Kept { s with classify := x0 } q :=
  h

theorem kept_clock (h : s.Kept q) {x0 : Clock} : State.Kept { s with clock := x0 } q :=
  h

theorem kept_clock_synce (h : s.Kept q) {x0 : Clock} {x1 : Synce} : State.Kept { s with clock := x0, synce := x1 } q :=
  h

theorem kept_detectors (h : s.Kept q) {x0 : List (Nat × Detector)} : State.Kept { s with detectors := x0 } q :=
  h

theorem kept_freeCtr (h : s.Kept q) {x0 : Nat} : State.Kept { s with freeCtr := x0 } q :=
  h

theorem kept_fwd (h : s.Kept q) {x0 : Fwd} : State.Kept { s with fwd := x0 } q :=
  h

theorem kept_hod (h : s.Kept q) {x0 : Hod} : State.Kept { s with hod := x0 } q :=
  h

theorem kept_host (h : s.Kept q) {x0 : HostSide} (e : x0.peer = s.host.peer) : State.Kept { s with host := x0 } q :=
  ⟨h.1, h.2.1, h.2.2.1, h.2.2.2.1, h.2.2.2.2.1, e ▸ h.2.2.2.2.2.1, h.2.2.2.2.2.2.1, h.2.2.2.2.2.2.2⟩

theorem kept_keystone (h : s.Kept q) {x0 : Keystone} : State.Kept { s with keystone := x0 } q :=
  h

theorem kept_log (h : s.Kept q) {x0 : EventLog} (e1 : x0.ring = s.log.ring) (e2 : x0.logged = s.log.logged) : State.Kept { s with log := x0 } q :=
  ⟨h.1, h.2.1, h.2.2.1, h.2.2.2.1, h.2.2.2.2.1, h.2.2.2.2.2.1, e1 ▸ h.2.2.2.2.2.2.1, e2 ▸ h.2.2.2.2.2.2.2⟩

theorem kept_memory (h : s.Kept q) {x0 : Memory} : State.Kept { s with memory := x0 } q :=
  h

theorem kept_mgmt (h : s.Kept q) {x0 : Mgmt} : State.Kept { s with mgmt := x0 } q :=
  h

theorem kept_modeChange (h : s.Kept q) {x0 : ModeChange} : State.Kept { s with modeChange := x0 } q :=
  h

theorem kept_monitor (h : s.Kept q) {x0 : Monitor} : State.Kept { s with monitor := x0 } q :=
  h

theorem kept_mortar (h : s.Kept q) {x0 : Mortar} : State.Kept { s with mortar := x0 } q :=
  h

theorem kept_mortar_memory (h : s.Kept q) {x0 : Mortar} {x1 : Memory} : State.Kept { s with mortar := x0, memory := x1 } q :=
  h

theorem kept_outputs (h : s.Kept q) {x0 : List Out} : State.Kept { s with outputs := x0 } q :=
  h

theorem kept_package (h : s.Kept q) {x0 : Package} : State.Kept { s with package := x0 } q :=
  h

theorem kept_pins (h : s.Kept q) {x0 : List (Nat × Pin)} : State.Kept { s with pins := x0 } q :=
  h

theorem kept_ports (h : s.Kept q) {x0 : List (Nat × Port)} : State.Kept { s with ports := x0 } q :=
  h

theorem kept_ptp (h : s.Kept q) {x0 : List (Nat × PtpPort)} : State.Kept { s with ptp := x0 } q :=
  h

theorem kept_ptp_agent_mgmt_wall_redundancy (h : s.Kept q) {x0 : List (Nat × PtpPort)} {x1 : Agent} {x2 : Mgmt} {x3 : Wall} {x4 : Redundancy} : State.Kept { s with ptp := x0, agent := x1, mgmt := x2, wall := x3, redundancy := x4 } q :=
  h

theorem kept_rdma (h : s.Kept q) {x0 : Rdma} : State.Kept { s with rdma := x0 } q :=
  h

theorem kept_redundancy (h : s.Kept q) {x0 : Redundancy} : State.Kept { s with redundancy := x0 } q :=
  h

theorem kept_service (h : s.Kept q) {x0 : Service} : State.Kept { s with service := x0 } q :=
  h

theorem kept_servo (h : s.Kept q) {x0 : Servo} : State.Kept { s with servo := x0 } q :=
  h

theorem kept_servo_agent (h : s.Kept q) {x0 : Servo} {x1 : Agent} : State.Kept { s with servo := x0, agent := x1 } q :=
  h

theorem kept_servo_ptp (h : s.Kept q) {x0 : Servo} {x1 : List (Nat × PtpPort)} : State.Kept { s with servo := x0, ptp := x1 } q :=
  h

theorem kept_slices (h : s.Kept q) {x0 : Slices} : State.Kept { s with slices := x0 } q :=
  h

theorem kept_snapshot_snapshotDoms (h : s.Kept q) {x0 : List (Nat × Nat)} {x1 : List (Nat × List Byte)} : State.Kept { s with snapshot := x0, snapshotDoms := x1 } q :=
  h

theorem kept_storage (h : s.Kept q) {x0 : Storage} : State.Kept { s with storage := x0 } q :=
  h

theorem kept_storage_rdma (h : s.Kept q) {x0 : Storage} {x1 : Rdma} : State.Kept { s with storage := x0, rdma := x1 } q :=
  h

theorem kept_storeSets (h : s.Kept q) {x0 : List (List Nat)} : State.Kept { s with storeSets := x0 } q :=
  h

theorem kept_switch (h : s.Kept q) {x0 : Switch} : State.Kept { s with switch := x0 } q :=
  h

theorem kept_switch_fwd_classify_trowel_cipher_slices_storage_rdma (h : s.Kept q) {x0 : Switch} {x1 : Fwd} {x2 : Classify} {x3 : Trowel} {x4 : Cipher} {x5 : Slices} {x6 : Storage} {x7 : Rdma} : State.Kept { s with switch := x0, fwd := x1, classify := x2, trowel := x3, cipher := x4, slices := x5, storage := x6, rdma := x7 } q :=
  h

theorem kept_synce (h : s.Kept q) {x0 : Synce} : State.Kept { s with synce := x0 } q :=
  h

theorem kept_timers (h : s.Kept q) {x0 : List (Nat × Timer)} : State.Kept { s with timers := x0 } q :=
  h

theorem kept_timers_agent_log_switch_modeChange_fwd_classify_trowel_host_slices_storage_rdma_keystone_activation (h : s.Kept q) {x0 : List (Nat × Timer)} {x1 : Agent} {x2 : EventLog} {x3 : Switch} {x4 : ModeChange} {x5 : Fwd} {x6 : Classify} {x7 : Trowel} {x8 : HostSide} {x9 : Slices} {x10 : Storage} {x11 : Rdma} {x12 : Keystone} {x13 : Activation} (e : x8.peer = s.host.peer) (e1 : x2.ring = s.log.ring) (e2 : x2.logged = s.log.logged) : State.Kept { s with timers := x0, agent := x1, log := x2, switch := x3, modeChange := x4, fwd := x5, classify := x6, trowel := x7, host := x8, slices := x9, storage := x10, rdma := x11, keystone := x12, activation := x13 } q :=
  ⟨h.1, h.2.1, h.2.2.1, h.2.2.2.1, h.2.2.2.2.1, e ▸ h.2.2.2.2.2.1, e1 ▸ h.2.2.2.2.2.2.1, e2 ▸ h.2.2.2.2.2.2.2⟩

theorem kept_trowel (h : s.Kept q) {x0 : Trowel} : State.Kept { s with trowel := x0 } q :=
  h

theorem kept_wall (h : s.Kept q) {x0 : Wall} : State.Kept { s with wall := x0 } q :=
  h

/-! ### Updates of the tables -/

theorem kept_storeSet (h : s.Kept q) {k v : Nat} : State.Kept { s with store := tblSet (odDefault k) s.store k v } q :=
  ⟨h.1, h.2.1, h.2.2.1, tblSet_wf odDefault s.store k v h.2.2.2.1, h.2.2.2.2⟩

theorem kept_storeDomSet (h : s.Kept q) {k : Nat} {bs : List Byte} :
    State.Kept { s with storeDoms := tblSet [] s.storeDoms k bs } q :=
  ⟨h.1, h.2.1, h.2.2.1, h.2.2.2.1, tblSet_wf (fun _ => []) s.storeDoms k bs h.2.2.2.2.1, h.2.2.2.2.2⟩

theorem kept_storeDomDel (h : s.Kept q) {k : Nat} : State.Kept { s with storeDoms := tblDel s.storeDoms k } q :=
  ⟨h.1, h.2.1, h.2.2.1, h.2.2.2.1, tblDel_wf (fun _ => []) s.storeDoms k h.2.2.2.2.1, h.2.2.2.2.2⟩

theorem kept_storeFilter (h : s.Kept q) {f : Nat × Nat → Bool} {g : Nat × List Byte → Bool} {x : List (List Nat)} :
    State.Kept { s with store := s.store.filter f, storeDoms := s.storeDoms.filter g, storeSets := x } q :=
  ⟨h.1, h.2.1, h.2.2.1, tblFilter_wf odDefault s.store f h.2.2.2.1,
    tblFilter_wf (fun _ => []) s.storeDoms g h.2.2.2.2.1, h.2.2.2.2.2⟩

theorem kept_peerSet (h : s.Kept q) {a : Nat} {b : Byte} :
    State.Kept { s with host := { s.host with peer := tblSet 0 s.host.peer a b } } q :=
  ⟨h.1, h.2.1, h.2.2.1, h.2.2.2.1, h.2.2.2.2.1, tblSet_wf (fun _ => 0) s.host.peer a b h.2.2.2.2.2.1, h.2.2.2.2.2.2⟩

/-! ### The named operations -/

theorem State.wr_kept (h : s.Kept q) {k v : Nat} : (s.wr k v).Kept q :=
  ⟨h.1, tblSet_wf odDefault s.dict k v h.2.1, h.2.2⟩

theorem State.setDom_kept (h : s.Kept q) {k : Nat} {bs : List Byte} : (s.setDom k bs).Kept q :=
  ⟨h.1, h.2.1, tblSet_wf (fun _ => []) s.doms k bs h.2.2.1, h.2.2.2⟩

end Sys2Proof.Machine
end

