-- ==== Sys2Proof/Laws/KeptOps.lean ====
section
/-! SUPPORT. Laws/KeptOps.lean: every operation of Machine/Ops.lean keeps the queue and the canonical form. -/

namespace Sys2Proof.Machine

theorem State.wrI_kept {q₀ : List Instr} {s : State} {w : ℕ} {key : ℕ} {v : ℤ} (h : s.Kept q₀) : (State.wrI s w key v).Kept q₀ := by
  unfold State.wrI
  repeat' first
    | with_reducible assumption
    | with_reducible refine State.wr_kept ?_
    | with_reducible refine kept_ite ?_ ?_
    | split
    | dsimp only

theorem State.addTo_kept {q₀ : List Instr} {s : State} {key : ℕ} {n : ℕ} (h : s.Kept q₀) : (State.addTo s key n).Kept q₀ := by
  unfold State.addTo
  repeat' first
    | with_reducible assumption
    | with_reducible refine State.wr_kept ?_
    | with_reducible refine kept_ite ?_ ?_
    | split
    | dsimp only

theorem State.bump_kept {q₀ : List Instr} {s : State} {key : ℕ} (h : s.Kept q₀) : (State.bump s key).Kept q₀ := by
  unfold State.bump
  repeat' first
    | with_reducible assumption
    | with_reducible refine State.addTo_kept ?_
    | with_reducible refine kept_ite ?_ ?_
    | split
    | dsimp only

theorem State.emit_kept {q₀ : List Instr} {s : State} {o : Out} (h : s.Kept q₀) : (State.emit s o).Kept q₀ := by
  unfold State.emit
  repeat' first
    | with_reducible assumption
    | with_reducible refine kept_ite ?_ ?_
    | split
    | dsimp only
    | with_reducible refine kept_outputs ?_

theorem State.drawn_kept {q₀ : List Instr} {s : State} (h : s.Kept q₀) : (State.drawn s).Kept q₀ := by
  unfold State.drawn
  repeat' first
    | with_reducible assumption
    | with_reducible refine kept_ite ?_ ?_
    | split
    | dsimp only
    | with_reducible refine kept_freeCtr ?_

theorem State.openBits_kept {q₀ : List Instr} {s : State} {k : ℕ} {w : ℕ} (h : s.Kept q₀) : (State.openBits s k w).1.Kept q₀ := by
  unfold State.openBits
  repeat' first
    | with_reducible assumption
    | with_reducible refine State.drawn_kept ?_
    | with_reducible refine kept_ite ?_ ?_
    | with_reducible refine kept_ite_fst ?_ ?_
    | split
    | dsimp only

theorem State.moveTo_kept {q₀ : List Instr} {s : State} {off : ℕ} (h : s.Kept q₀) : (State.moveTo s off).Kept q₀ := by
  unfold State.moveTo
  repeat' first
    | with_reducible assumption
    | with_reducible refine kept_ite ?_ ?_
    | split
    | dsimp only
    | with_reducible refine kept_clock ?_

theorem State.arm_kept {q₀ : List Instr} {s : State} {key : ℕ} (h : s.Kept q₀) : (State.arm s key).Kept q₀ := by
  unfold State.arm
  repeat' first
    | with_reducible assumption
    | with_reducible refine kept_ite ?_ ?_
    | split
    | dsimp only
    | with_reducible refine kept_timers ?_

theorem State.disarm_kept {q₀ : List Instr} {s : State} {key : ℕ} (h : s.Kept q₀) : (State.disarm s key).Kept q₀ := by
  unfold State.disarm
  repeat' first
    | with_reducible assumption
    | with_reducible refine kept_ite ?_ ?_
    | split
    | dsimp only
    | with_reducible refine kept_timers ?_

theorem State.rescaleTimers_kept {q₀ : List Instr} {s : State} {old : ℕ} {new : ℕ} (h : s.Kept q₀) : (State.rescaleTimers s old new).Kept q₀ := by
  unfold State.rescaleTimers
  repeat' first
    | with_reducible assumption
    | with_reducible refine kept_ite ?_ ?_
    | split
    | dsimp only
    | with_reducible refine kept_timers ?_

theorem State.record_kept {q₀ : List Instr} {s : State} {code param : Nat} (h : s.Kept q₀)
    (hr : s.eventsInSecond < eventRateLimit) : (s.record code param).Kept q₀ := by
  have hs : ∀ (r : List EventRec) (a : Agent), State.Kept { s with
      log := { s.log with ring := r.take eventRingSize, second := s.second,
                          logged := s.eventsInSecond + 1 }, agent := a } q₀ := fun r a =>
    ⟨h.1, h.2.1, h.2.2.1, h.2.2.2.1, h.2.2.2.2.1, h.2.2.2.2.2.1, List.length_take_le _ _, hr⟩
  unfold State.record
  with_reducible refine kept_ite ?_ ?_
  · with_reducible refine State.bump_kept (State.wr_kept (State.wr_kept ?_))
    exact hs (_ :: _) _
  · with_reducible refine State.wr_kept (State.wr_kept ?_)
    exact hs (_ :: _) _


theorem State.raise_kept {q₀ : List Instr} {s : State} {code param : Nat} (h : s.Kept q₀) : (s.raise code param).Kept q₀ := by
  unfold State.raise
  split
  · exact State.record_kept h ‹_›
  · exact State.bump_kept h


theorem State.raiseLimited_kept {q₀ : List Instr} {s : State} {code : ℕ} {inst : ℕ} {n : ℕ} {param : ℕ} (h : s.Kept q₀) : (State.raiseLimited s code inst n param).Kept q₀ := by
  unfold State.raiseLimited
  repeat' first
    | with_reducible assumption
    | with_reducible refine State.raise_kept ?_
    | with_reducible refine kept_ite ?_ ?_
    | split
    | dsimp only
    | with_reducible refine kept_log ?_ rfl rfl

end Sys2Proof.Machine
end

