-- ==== Sys2Proof/Laws/KeptMortar.lean ====
section
/-! SUPPORT. Laws/KeptMortar.lean: every operation of Machine/Mortar.lean keeps the queue and the canonical form. -/

namespace Sys2Proof.Machine

theorem State.carry_kept {q₀ : List Instr} {s : State} {src : ℕ} {dest : ℕ} {vn : ℕ} {len : ℕ} {cls : ℕ} {handle : ℕ} (h : s.Kept q₀) : (State.carry s src dest vn len cls handle).Kept q₀ := by
  unfold State.carry
  repeat' first
    | with_reducible assumption
    | with_reducible refine kept_ite ?_ ?_
    | split
    | dsimp only
    | with_reducible refine kept_mortar ?_

theorem State.carryFrame_kept {q₀ : List Instr} {s : State} {src : ℕ} {dest : ℕ} {vn : ℕ} {len : ℕ} {cls : ℕ} {handle : ℕ} (h : s.Kept q₀) : (State.carryFrame s src dest vn len cls handle).Kept q₀ := by
  unfold State.carryFrame
  repeat' first
    | with_reducible assumption
    | with_reducible refine State.carry_kept ?_
    | with_reducible refine kept_ite ?_ ?_
    | split
    | dsimp only
    | with_reducible refine kept_mortar ?_

theorem State.enterInput_kept {q₀ : List Instr} {s : State} {b : Brick} {dest : ℕ} (h : s.Kept q₀) : (State.enterInput s b dest).Kept q₀ := by
  unfold State.enterInput
  repeat' first
    | with_reducible assumption
    | with_reducible refine kept_ite ?_ ?_
    | split
    | dsimp only
    | with_reducible refine kept_mortar ?_

theorem State.injectBrick_kept {q₀ : List Instr} {s : State} {b : Brick} (h : s.Kept q₀) : (State.injectBrick s b).Kept q₀ := by
  unfold State.injectBrick
  repeat' first
    | with_reducible assumption
    | with_reducible refine State.bump_kept ?_
    | with_reducible refine State.enterInput_kept ?_
    | with_reducible refine kept_foldl ?_ (fun _ _ _ => ?_)
    | with_reducible refine kept_foldl_pair ?_ (fun _ _ _ _ => ?_)
    | with_reducible refine kept_ite ?_ ?_
    | split
    | refine kept_fst ‹_› ?_
    | dsimp only
    | with_reducible refine kept_mortar ?_

theorem State.injectSlot_kept {q₀ : List Instr} {s : State} {tile : ℕ} {slot : ℕ} (h : s.Kept q₀) : (State.injectSlot s tile slot).Kept q₀ := by
  unfold State.injectSlot
  repeat' first
    | with_reducible assumption
    | with_reducible refine State.bump_kept ?_
    | with_reducible refine State.injectBrick_kept ?_
    | with_reducible refine kept_ite ?_ ?_
    | split
    | dsimp only

theorem State.ejectSlot_kept {q₀ : List Instr} {s : State} {tile : ℕ} {slot : ℕ} (h : s.Kept q₀) : (State.ejectSlot s tile slot).Kept q₀ := by
  unfold State.ejectSlot
  repeat' first
    | with_reducible assumption
    | with_reducible refine State.bump_kept ?_
    | with_reducible refine kept_ite ?_ ?_
    | split
    | dsimp only
    | with_reducible refine kept_mortar ?_

theorem State.enterCopies_kept {q₀ : List Instr} {s : State} (h : s.Kept q₀) : (State.enterCopies s).Kept q₀ := by
  unfold State.enterCopies
  repeat' first
    | with_reducible assumption
    | with_reducible refine State.enterInput_kept ?_
    | with_reducible refine kept_foldl ?_ (fun _ _ _ => ?_)
    | with_reducible refine kept_foldl_pair ?_ (fun _ _ _ _ => ?_)
    | with_reducible refine kept_ite ?_ ?_
    | split
    | refine kept_fst ‹_› ?_
    | dsimp only
    | with_reducible refine kept_mortar ?_

theorem State.hbmRequest_kept {q₀ : List Instr} {s : State} {tile : ℕ} {activity : ℕ} {line : ℕ} (h : s.Kept q₀) : (State.hbmRequest s tile activity line).Kept q₀ := by
  unfold State.hbmRequest
  repeat' first
    | with_reducible assumption
    | with_reducible refine State.carry_kept ?_
    | with_reducible refine kept_ite ?_ ?_
    | split
    | dsimp only
    | with_reducible refine kept_memory ?_

theorem State.serveHbm_kept {q₀ : List Instr} {s : State} {channel : ℕ} (h : s.Kept q₀) : (State.serveHbm s channel).Kept q₀ := by
  unfold State.serveHbm
  repeat' first
    | with_reducible assumption
    | with_reducible refine kept_ite ?_ ?_
    | split
    | dsimp only
    | with_reducible refine kept_mortar_memory ?_

theorem State.corrections_kept {q₀ : List Instr} {s : State} (h : s.Kept q₀) : (State.corrections s).Kept q₀ := by
  unfold State.corrections
  split
  split
  rename_i e1 _ _ _ e2
  have h2 := kept_fst e2 (State.openBits_kept (kept_fst e1 (State.openBits_kept h)))
  dsimp only
  split
  all_goals first
    | exact h2
    | exact State.bump_kept h2
    | (split; all_goals first | exact h2 | exact State.bump_kept h2 | exact State.bump_kept (State.bump_kept h2))


theorem State.linkTick_kept {q₀ : List Instr} {s : State} (h : s.Kept q₀) : (State.linkTick s).Kept q₀ := by
  unfold State.linkTick
  repeat' first
    | with_reducible assumption
    | with_reducible refine forEach_kept ?_ (fun _ _ _ => ?_)
    | with_reducible refine State.injectSlot_kept ?_
    | with_reducible refine State.ejectSlot_kept ?_
    | with_reducible refine State.enterCopies_kept ?_
    | with_reducible refine State.serveHbm_kept ?_
    | with_reducible refine kept_ite ?_ ?_
    | split
    | dsimp only
    | with_reducible refine kept_mortar ?_

theorem State.slotTick_kept {q₀ : List Instr} {s : State} (h : s.Kept q₀) : (State.slotTick s).Kept q₀ := by
  unfold State.slotTick
  repeat' first
    | with_reducible assumption
    | with_reducible refine State.corrections_kept ?_
    | with_reducible refine State.linkTick_kept ?_
    | with_reducible refine kept_ite ?_ ?_
    | split
    | dsimp only

theorem State.turnUntil_kept {q₀ : List Instr} {src : ℕ} {dest : ℕ} {vn : ℕ} {handle : ℕ} {fuel : ℕ} {s : State} (h : s.Kept q₀) : (State.turnUntil src dest vn handle fuel s).Kept q₀ := by
  induction fuel generalizing src dest vn handle s with
  | zero =>
    unfold State.turnUntil
    repeat' first
      | with_reducible assumption
      | with_reducible refine State.linkTick_kept ?_
      | with_reducible refine kept_ite ?_ ?_
      | split
      | refine kept_fst ‹_› ?_
      | dsimp only
  | succ fuel ih =>
    unfold State.turnUntil
    repeat' first
      | with_reducible assumption
      | with_reducible refine ih ?_
      | with_reducible refine State.linkTick_kept ?_
      | with_reducible refine kept_ite ?_ ?_
      | split
      | refine kept_fst ‹_› ?_
      | dsimp only

theorem State.firstWritten_kept {q₀ : List Instr} {s : State} {src : ℕ} {dest : ℕ} {vn : ℕ} {handle : ℕ} (h : s.Kept q₀) : (State.firstWritten s src dest vn handle).Kept q₀ := by
  unfold State.firstWritten
  repeat' first
    | with_reducible assumption
    | with_reducible refine State.turnUntil_kept ?_
    | with_reducible refine kept_ite ?_ ?_
    | split
    | dsimp only

end Sys2Proof.Machine
end

