-- ==== Sys2Proof/Laws/KeptTime.lean ====
section
/-! SUPPORT. Laws/KeptTime.lean: every operation of Machine/Time.lean keeps the queue and the canonical form. -/

namespace Sys2Proof.Machine

theorem State.setSource_kept {q₀ : List Instr} {s : State} {src : ℕ} {x1 : Source} (h : s.Kept q₀) : (State.setSource s src x1).Kept q₀ := by
  unfold State.setSource
  repeat' first
    | with_reducible assumption
    | with_reducible refine kept_ite ?_ ?_
    | split
    | dsimp only
    | with_reducible refine kept_servo ?_

theorem State.loseSource_kept {q₀ : List Instr} {s : State} {src : ℕ} (h : s.Kept q₀) : (State.loseSource s src).Kept q₀ := by
  unfold State.loseSource
  repeat' first
    | with_reducible assumption
    | with_reducible refine State.disarm_kept ?_
    | with_reducible refine State.raise_kept ?_
    | with_reducible refine State.setSource_kept ?_
    | with_reducible refine kept_ite ?_ ?_
    | split
    | dsimp only

theorem State.measure_kept {q₀ : List Instr} {s : State} {src : ℕ} {offset : ℤ} {outlier : Bool} (h : s.Kept q₀) : (State.measure s src offset outlier).Kept q₀ := by
  unfold State.measure
  repeat' first
    | with_reducible assumption
    | with_reducible refine State.arm_kept ?_
    | with_reducible refine State.disarm_kept ?_
    | with_reducible refine State.setSource_kept ?_
    | with_reducible refine State.loseSource_kept ?_
    | with_reducible refine kept_ite ?_ ?_
    | split
    | dsimp only
    | with_reducible refine kept_servo ?_

theorem State.sourceTimedOut_kept {q₀ : List Instr} {s : State} {src : ℕ} (h : s.Kept q₀) : (State.sourceTimedOut s src).Kept q₀ := by
  unfold State.sourceTimedOut
  repeat' first
    | with_reducible assumption
    | with_reducible refine State.disarm_kept ?_
    | with_reducible refine State.setSource_kept ?_
    | with_reducible refine State.loseSource_kept ?_
    | with_reducible refine kept_ite ?_ ?_
    | split
    | dsimp only

theorem execSourceTimeout_kept {q₀ : List Instr} {source : ℕ} {s : State} (h : s.Kept q₀) : ResKept (execSourceTimeout source s) q₀ := by
  unfold execSourceTimeout
  repeat' first
    | with_reducible assumption
    | with_reducible refine State.sourceTimedOut_kept ?_
    | with_reducible refine resKept_next ?_
    | with_reducible refine kept_ite ?_ ?_
    | with_reducible refine resKept_ite ?_ ?_
    | split
    | dsimp only

theorem execSourceQualified_kept {q₀ : List Instr} {source : ℕ} {s : State} (h : s.Kept q₀) : ResKept (execSourceQualified source s) q₀ := by
  unfold execSourceQualified
  repeat' first
    | with_reducible assumption
    | with_reducible refine State.disarm_kept ?_
    | with_reducible refine State.setSource_kept ?_
    | with_reducible refine resKept_next ?_
    | with_reducible refine kept_ite ?_ ?_
    | with_reducible refine resKept_ite ?_ ?_
    | split
    | dsimp only

theorem execPpsEdge_kept {q₀ : List Instr} {input : Fin 2} {off : ℕ} {held : ℕ} {s : State} (h : s.Kept q₀) : ResKept (execPpsEdge input off held s) q₀ := by
  unfold execPpsEdge
  repeat' first
    | with_reducible assumption
    | with_reducible refine State.moveTo_kept ?_
    | with_reducible refine State.raise_kept ?_
    | with_reducible refine State.measure_kept ?_
    | with_reducible refine resKept_next ?_
    | with_reducible refine kept_ite ?_ ?_
    | with_reducible refine resKept_ite ?_ ?_
    | split
    | dsimp only

theorem State.servoHistory_kept {q₀ : List Instr} {s : State} (h : s.Kept q₀) : (State.servoHistory s).Kept q₀ := by
  unfold State.servoHistory
  repeat' first
    | with_reducible assumption
    | with_reducible refine kept_ite ?_ ?_
    | split
    | dsimp only
    | with_reducible refine kept_servo ?_

theorem State.servoTo_kept {q₀ : List Instr} {s : State} {next : ℕ} (h : s.Kept q₀) : (State.servoTo s next).Kept q₀ := by
  unfold State.servoTo
  repeat' first
    | with_reducible assumption
    | with_reducible refine State.wr_kept ?_
    | with_reducible refine State.wrI_kept ?_
    | with_reducible refine State.raise_kept ?_
    | with_reducible refine kept_ite ?_ ?_
    | split
    | dsimp only
    | with_reducible refine kept_servo ?_

theorem State.select_kept {q₀ : List Instr} {s : State} {src : ℕ} (h : s.Kept q₀) : (State.select s src).Kept q₀ := by
  unfold State.select
  repeat' first
    | with_reducible assumption
    | with_reducible refine State.wr_kept ?_
    | with_reducible refine kept_ite ?_ ?_
    | split
    | dsimp only
    | with_reducible refine kept_servo ?_

theorem State.servoTrack_kept {q₀ : List Instr} {s : State} (h : s.Kept q₀) : (State.servoTrack s).Kept q₀ := by
  unfold State.servoTrack
  repeat' first
    | with_reducible assumption
    | with_reducible refine State.wrI_kept ?_
    | with_reducible refine State.drawn_kept ?_
    | with_reducible refine kept_ite ?_ ?_
    | split
    | dsimp only

theorem State.servoTransition_kept {q₀ : List Instr} {s : State} (h : s.Kept q₀) : (State.servoTransition s).Kept q₀ := by
  unfold State.servoTransition
  repeat' first
    | with_reducible assumption
    | with_reducible refine State.wr_kept ?_
    | with_reducible refine State.servoTo_kept ?_
    | with_reducible refine State.select_kept ?_
    | with_reducible refine State.servoTrack_kept ?_
    | with_reducible refine kept_ite ?_ ?_
    | split
    | dsimp only
    | with_reducible refine kept_servo ?_
    | with_reducible refine kept_clock ?_

theorem State.servoBoundary_kept {q₀ : List Instr} {s : State} (h : s.Kept q₀) : (State.servoBoundary s).Kept q₀ := by
  unfold State.servoBoundary
  repeat' first
    | with_reducible assumption
    | with_reducible refine State.servoTransition_kept ?_
    | with_reducible refine kept_ite ?_ ?_
    | split
    | dsimp only
    | with_reducible refine kept_servo ?_

theorem State.lossChange_kept {q₀ : List Instr} {s : State} {before : Bool} (h : s.Kept q₀) : (State.lossChange s before).Kept q₀ := by
  unfold State.lossChange
  repeat' first
    | with_reducible assumption
    | with_reducible refine State.servoTransition_kept ?_
    | with_reducible refine kept_ite ?_ ?_
    | split
    | dsimp only

theorem execHoldoverLimit_kept {q₀ : List Instr} {s : State} (h : s.Kept q₀) : ResKept (execHoldoverLimit s) q₀ := by
  unfold execHoldoverLimit
  repeat' first
    | with_reducible assumption
    | with_reducible refine State.servoTo_kept ?_
    | with_reducible refine resKept_next ?_
    | with_reducible refine kept_ite ?_ ?_
    | with_reducible refine resKept_ite ?_ ?_
    | split
    | dsimp only

theorem State.rebase_kept {q₀ : List Instr} {s : State} {e1 : ℕ} {count : ℕ} (h : s.Kept q₀) : (State.rebase s e1 count).Kept q₀ := by
  unfold State.rebase
  repeat' first
    | with_reducible assumption
    | with_reducible refine State.wr_kept ?_
    | with_reducible refine State.wrI_kept ?_
    | with_reducible refine kept_ite ?_ ?_
    | split
    | dsimp only

theorem State.noteStretch_kept {q₀ : List Instr} {s : State} (h : s.Kept q₀) : (State.noteStretch s).Kept q₀ := by
  unfold State.noteStretch
  repeat' first
    | with_reducible assumption
    | with_reducible refine State.bump_kept ?_
    | with_reducible refine State.raise_kept ?_
    | with_reducible refine kept_ite ?_ ?_
    | split
    | dsimp only

theorem State.firstValid_kept {q₀ : List Instr} {s : State} {t1 : ℕ} (h : s.Kept q₀) : (State.firstValid s t1).Kept q₀ := by
  unfold State.firstValid
  repeat' first
    | with_reducible assumption
    | with_reducible refine State.wr_kept ?_
    | with_reducible refine State.rebase_kept ?_
    | with_reducible refine kept_ite ?_ ?_
    | split
    | dsimp only
    | with_reducible refine kept_clock ?_

theorem State.stepped_kept {q₀ : List Instr} {s : State} {t1 : ℕ} (h : s.Kept q₀) : (State.stepped s t1).Kept q₀ := by
  unfold State.stepped
  repeat' first
    | with_reducible assumption
    | with_reducible refine State.wr_kept ?_
    | with_reducible refine State.rebase_kept ?_
    | with_reducible refine kept_ite ?_ ?_
    | split
    | dsimp only
    | with_reducible refine kept_clock ?_

theorem State.advanced_kept {q₀ : List Instr} {s : State} (h : s.Kept q₀) : (State.advanced s).Kept q₀ := by
  unfold State.advanced
  repeat' first
    | with_reducible assumption
    | with_reducible refine State.wr_kept ?_
    | with_reducible refine kept_ite ?_ ?_
    | split
    | dsimp only
    | with_reducible refine kept_clock ?_

theorem State.mapSeen_kept {q₀ : List Instr} {s : State} {f : ℤ → ℤ} (h : s.Kept q₀) : (State.mapSeen s f).Kept q₀ := by
  unfold State.mapSeen
  repeat' first
    | with_reducible assumption
    | with_reducible refine kept_ite ?_ ?_
    | split
    | dsimp only
    | with_reducible refine kept_ptp_agent_mgmt_wall_redundancy ?_

theorem State.applyLength_kept {q₀ : List Instr} {s : State} (h : s.Kept q₀) : (State.applyLength s).Kept q₀ := by
  unfold State.applyLength
  repeat' first
    | with_reducible assumption
    | with_reducible refine State.wr_kept ?_
    | with_reducible refine State.rescaleTimers_kept ?_
    | with_reducible refine State.mapSeen_kept ?_
    | with_reducible refine kept_ite ?_ ?_
    | split
    | dsimp only

theorem State.forgetMeasurements_kept {q₀ : List Instr} {s : State} (h : s.Kept q₀) : (State.forgetMeasurements s).Kept q₀ := by
  unfold State.forgetMeasurements
  repeat' first
    | with_reducible assumption
    | with_reducible refine kept_ite ?_ ?_
    | split
    | dsimp only
    | with_reducible refine kept_servo_ptp ?_

theorem State.countHoldover_kept {q₀ : List Instr} {s : State} (h : s.Kept q₀) : (State.countHoldover s).Kept q₀ := by
  unfold State.countHoldover
  repeat' first
    | with_reducible assumption
    | with_reducible refine State.bump_kept ?_
    | with_reducible refine kept_ite ?_ ?_
    | split
    | dsimp only

theorem State.timeActions_kept {q₀ : List Instr} {s : State} {target : Option (ℕ × Bool)} (h : s.Kept q₀) : (State.timeActions s target).Kept q₀ := by
  unfold State.timeActions
  repeat' first
    | with_reducible assumption
    | with_reducible refine State.raise_kept ?_
    | with_reducible refine State.rebase_kept ?_
    | with_reducible refine State.noteStretch_kept ?_
    | with_reducible refine State.firstValid_kept ?_
    | with_reducible refine State.stepped_kept ?_
    | with_reducible refine State.advanced_kept ?_
    | with_reducible refine State.applyLength_kept ?_
    | with_reducible refine State.forgetMeasurements_kept ?_
    | with_reducible refine State.countHoldover_kept ?_
    | with_reducible refine kept_ite ?_ ?_
    | split
    | dsimp only

theorem execRefclkTimeLost_kept {q₀ : List Instr} {s : State} (h : s.Kept q₀) : ResKept (execRefclkTimeLost s) q₀ := by
  unfold execRefclkTimeLost
  repeat' first
    | with_reducible assumption
    | with_reducible refine State.wr_kept ?_
    | with_reducible refine State.raise_kept ?_
    | with_reducible refine resKept_next ?_
    | with_reducible refine kept_ite ?_ ?_
    | with_reducible refine resKept_ite ?_ ?_
    | split
    | dsimp only
    | with_reducible refine kept_clock ?_

theorem execRefclkTimeReturn_kept {q₀ : List Instr} {frequency : ℕ} {s : State} (h : s.Kept q₀) : ResKept (execRefclkTimeReturn frequency s) q₀ := by
  unfold execRefclkTimeReturn
  repeat' first
    | with_reducible assumption
    | with_reducible refine State.wr_kept ?_
    | with_reducible refine resKept_next ?_
    | with_reducible refine kept_ite ?_ ?_
    | with_reducible refine resKept_ite ?_ ?_
    | split
    | dsimp only
    | with_reducible refine kept_clock ?_

theorem State.setDetector_kept {q₀ : List Instr} {s : State} {lane : ℕ} {d : Detector} (h : s.Kept q₀) : (State.setDetector s lane d).Kept q₀ := by
  unfold State.setDetector
  repeat' first
    | with_reducible assumption
    | with_reducible refine kept_ite ?_ ?_
    | split
    | dsimp only
    | with_reducible refine kept_detectors ?_

theorem State.reselectSynce_kept {q₀ : List Instr} {s : State} (h : s.Kept q₀) : (State.reselectSynce s).Kept q₀ := by
  unfold State.reselectSynce
  repeat' first
    | with_reducible assumption
    | with_reducible refine kept_ite ?_ ?_
    | split
    | dsimp only
    | with_reducible refine kept_clock_synce ?_

theorem execPhaseDetectorReading_kept {q₀ : List Instr} {lane : Fin 256} {reading : Fin 1600} {s : State} (h : s.Kept q₀) : ResKept (execPhaseDetectorReading lane reading s) q₀ := by
  unfold execPhaseDetectorReading
  repeat' first
    | with_reducible assumption
    | with_reducible refine State.setDetector_kept ?_
    | with_reducible refine State.reselectSynce_kept ?_
    | with_reducible refine resKept_next ?_
    | with_reducible refine kept_ite ?_ ?_
    | with_reducible refine resKept_ite ?_ ?_
    | split
    | dsimp only

theorem State.countMessage_kept {q₀ : List Instr} {s : State} {p : ℕ} (h : s.Kept q₀) : (State.countMessage s p).Kept q₀ := by
  unfold State.countMessage
  repeat' first
    | with_reducible assumption
    | with_reducible refine State.addTo_kept ?_
    | with_reducible refine State.bump_kept ?_
    | with_reducible refine State.openBits_kept ?_
    | with_reducible refine kept_ite ?_ ?_
    | with_reducible refine kept_ite_fst ?_ ?_
    | split
    | refine kept_fst ‹_› ?_
    | dsimp only

theorem execEsmc_kept {q₀ : List Instr} {p : PortId} {quality : ℕ} {s : State} (h : s.Kept q₀) : ResKept (execEsmc p quality s) q₀ := by
  unfold execEsmc
  repeat' first
    | with_reducible assumption
    | with_reducible refine State.bump_kept ?_
    | with_reducible refine State.setDetector_kept ?_
    | with_reducible refine State.reselectSynce_kept ?_
    | with_reducible refine State.countMessage_kept ?_
    | with_reducible refine resKept_next ?_
    | with_reducible refine kept_ite ?_ ?_
    | with_reducible refine resKept_ite ?_ ?_
    | split
    | dsimp only

theorem State.synceLaneFailed_kept {q₀ : List Instr} {s : State} {lane : ℕ} (h : s.Kept q₀) : (State.synceLaneFailed s lane).Kept q₀ := by
  unfold State.synceLaneFailed
  repeat' first
    | with_reducible assumption
    | with_reducible refine State.arm_kept ?_
    | with_reducible refine State.setDetector_kept ?_
    | with_reducible refine kept_ite ?_ ?_
    | split
    | dsimp only
    | with_reducible refine kept_synce ?_

theorem State.synceLaneGood_kept {q₀ : List Instr} {s : State} {lane : ℕ} (h : s.Kept q₀) : (State.synceLaneGood s lane).Kept q₀ := by
  unfold State.synceLaneGood
  repeat' first
    | with_reducible assumption
    | with_reducible refine State.arm_kept ?_
    | with_reducible refine State.disarm_kept ?_
    | with_reducible refine kept_ite ?_ ?_
    | split
    | dsimp only
    | with_reducible refine kept_synce ?_

theorem execHoldOffTime_kept {q₀ : List Instr} {s : State} (h : s.Kept q₀) : ResKept (execHoldOffTime s) q₀ := by
  unfold execHoldOffTime
  repeat' first
    | with_reducible assumption
    | with_reducible refine State.disarm_kept ?_
    | with_reducible refine State.setDetector_kept ?_
    | with_reducible refine State.reselectSynce_kept ?_
    | with_reducible refine resKept_next ?_
    | with_reducible refine kept_ite ?_ ?_
    | with_reducible refine resKept_ite ?_ ?_
    | split
    | dsimp only
    | with_reducible refine kept_synce ?_

theorem execWaitToRestore_kept {q₀ : List Instr} {lane : Fin 256} {s : State} (h : s.Kept q₀) : ResKept (execWaitToRestore lane s) q₀ := by
  unfold execWaitToRestore
  repeat' first
    | with_reducible assumption
    | with_reducible refine State.disarm_kept ?_
    | with_reducible refine State.reselectSynce_kept ?_
    | with_reducible refine resKept_next ?_
    | with_reducible refine kept_ite ?_ ?_
    | with_reducible refine resKept_ite ?_ ?_
    | split
    | dsimp only
    | with_reducible refine kept_synce ?_

theorem State.wrPersist_kept {q₀ : List Instr} {s : State} {key val : Nat} (h : s.Kept q₀) :
    (s.wrPersist key val).Kept q₀ :=
  kept_storeSet (State.wr_kept h)


theorem execLeapSecond_kept {q₀ : List Instr} {s : State} (h : s.Kept q₀) : ResKept (execLeapSecond s) q₀ := by
  unfold execLeapSecond
  repeat' first
    | with_reducible assumption
    | with_reducible refine State.wr_kept ?_
    | with_reducible refine State.wrPersist_kept ?_
    | with_reducible refine resKept_next ?_
    | with_reducible refine kept_ite ?_ ?_
    | with_reducible refine resKept_ite ?_ ?_
    | split
    | dsimp only

theorem State.setPtp_kept {q₀ : List Instr} {s : State} {p : ℕ} {x1 : PtpPort} (h : s.Kept q₀) : (State.setPtp s p x1).Kept q₀ := by
  unfold State.setPtp
  repeat' first
    | with_reducible assumption
    | with_reducible refine kept_ite ?_ ?_
    | split
    | dsimp only
    | with_reducible refine kept_ptp ?_

theorem State.ptpSend_kept {q₀ : List Instr} {s : State} {p : ℕ} {name : String} {seq : ℕ} {fields : List ℤ} {tlvs : List PtpTlv} (h : s.Kept q₀) : (State.ptpSend s p name seq fields tlvs).Kept q₀ := by
  unfold State.ptpSend
  repeat' first
    | with_reducible assumption
    | with_reducible refine State.bump_kept ?_
    | with_reducible refine State.emit_kept ?_
    | with_reducible refine State.carry_kept ?_
    | with_reducible refine kept_ite ?_ ?_
    | split
    | dsimp only

theorem State.ptpNext_kept {q₀ : List Instr} {s : State} {p : ℕ} (h : s.Kept q₀) : (State.ptpNext s p).Kept q₀ := by
  unfold State.ptpNext
  repeat' first
    | with_reducible assumption
    | with_reducible refine State.setPtp_kept ?_
    | with_reducible refine kept_ite ?_ ?_
    | split
    | dsimp only

theorem State.ptpRequest_kept {q₀ : List Instr} {s : State} {p : ℕ} {name : String} (h : s.Kept q₀) : (State.ptpRequest s p name).Kept q₀ := by
  unfold State.ptpRequest
  repeat' first
    | with_reducible assumption
    | with_reducible refine State.setPtp_kept ?_
    | with_reducible refine State.ptpSend_kept ?_
    | with_reducible refine kept_ite ?_ ?_
    | split
    | dsimp only

theorem State.ptpAnnounce_kept {q₀ : List Instr} {s : State} {p : ℕ} (h : s.Kept q₀) : (State.ptpAnnounce s p).Kept q₀ := by
  unfold State.ptpAnnounce
  repeat' first
    | with_reducible assumption
    | with_reducible refine State.ptpSend_kept ?_
    | with_reducible refine State.ptpNext_kept ?_
    | with_reducible refine kept_ite ?_ ?_
    | split
    | dsimp only

theorem State.ptpOffer_kept {q₀ : List Instr} {s : State} {p : ℕ} {j : ℕ} (h : s.Kept q₀) : (State.ptpOffer s p j).Kept q₀ := by
  unfold State.ptpOffer
  repeat' first
    | with_reducible assumption
    | with_reducible refine State.ptpSend_kept ?_
    | with_reducible refine State.ptpNext_kept ?_
    | with_reducible refine State.ptpRequest_kept ?_
    | with_reducible refine State.ptpAnnounce_kept ?_
    | with_reducible refine kept_ite ?_ ?_
    | split
    | dsimp only

theorem State.ptpAttempt_kept {q₀ : List Instr} {s : State} {p : ℕ} {k : ℕ} (h : s.Kept q₀) : (State.ptpAttempt s p k).Kept q₀ := by
  unfold State.ptpAttempt
  repeat' first
    | with_reducible assumption
    | with_reducible refine State.wr_kept ?_
    | with_reducible refine State.bump_kept ?_
    | with_reducible refine State.arm_kept ?_
    | with_reducible refine State.disarm_kept ?_
    | with_reducible refine State.raise_kept ?_
    | with_reducible refine State.setPtp_kept ?_
    | with_reducible refine State.ptpOffer_kept ?_
    | with_reducible refine kept_ite ?_ ?_
    | split
    | dsimp only

theorem State.ptpRestate_kept {q₀ : List Instr} {s : State} {p : ℕ} (h : s.Kept q₀) : (State.ptpRestate s p).Kept q₀ := by
  unfold State.ptpRestate
  repeat' first
    | with_reducible assumption
    | with_reducible refine State.wr_kept ?_
    | with_reducible refine kept_ite ?_ ?_
    | split
    | dsimp only

theorem State.ptpRestateAll_kept {q₀ : List Instr} {s : State} (h : s.Kept q₀) : (State.ptpRestateAll s).Kept q₀ := by
  unfold State.ptpRestateAll
  repeat' first
    | with_reducible assumption
    | with_reducible refine forEach_kept ?_ (fun _ _ _ => ?_)
    | with_reducible refine State.ptpRestate_kept ?_
    | with_reducible refine kept_ite ?_ ?_
    | split
    | dsimp only

theorem State.ptpSucceed_kept {q₀ : List Instr} {s : State} {p : ℕ} (h : s.Kept q₀) : (State.ptpSucceed s p).Kept q₀ := by
  unfold State.ptpSucceed
  repeat' first
    | with_reducible assumption
    | with_reducible refine State.wr_kept ?_
    | with_reducible refine State.arm_kept ?_
    | with_reducible refine State.disarm_kept ?_
    | with_reducible refine State.setPtp_kept ?_
    | with_reducible refine State.ptpRestate_kept ?_
    | with_reducible refine kept_ite ?_ ?_
    | split
    | dsimp only

theorem State.ptpNoAnnounce_kept {q₀ : List Instr} {s : State} {p : ℕ} (h : s.Kept q₀) : (State.ptpNoAnnounce s p).Kept q₀ := by
  unfold State.ptpNoAnnounce
  repeat' first
    | with_reducible assumption
    | with_reducible refine State.setPtp_kept ?_
    | with_reducible refine State.ptpRestate_kept ?_
    | with_reducible refine kept_ite ?_ ?_
    | split
    | dsimp only

theorem State.ptpMeasure_kept {q₀ : List Instr} {s : State} {p : ℕ} {t1 : ℤ} {t2 : ℕ} (h : s.Kept q₀) : (State.ptpMeasure s p t1 t2).Kept q₀ := by
  unfold State.ptpMeasure
  repeat' first
    | with_reducible assumption
    | with_reducible refine State.wrI_kept ?_
    | with_reducible refine State.measure_kept ?_
    | with_reducible refine kept_ite ?_ ?_
    | split
    | dsimp only
    | with_reducible refine kept_freeCtr ?_

theorem State.ptpRate_kept {q₀ : List Instr} {s : State} {p : ℕ} {m : PtpMsg} (h : s.Kept q₀) : (State.ptpRate s p m).1.Kept q₀ := by
  unfold State.ptpRate
  repeat' first
    | with_reducible assumption
    | with_reducible refine State.setPtp_kept ?_
    | with_reducible refine kept_ite ?_ ?_
    | with_reducible refine kept_ite_fst ?_ ?_
    | split
    | dsimp only

theorem State.ptpTransparent_kept {q₀ : List Instr} {s : State} {p : ℕ} {h1 : PtpHeader} {m : PtpMsg} {stamp : ℕ} (h : s.Kept q₀) : (State.ptpTransparent s p h1 m stamp).Kept q₀ := by
  unfold State.ptpTransparent
  repeat' first
    | with_reducible assumption
    | with_reducible refine State.bump_kept ?_
    | with_reducible refine State.emit_kept ?_
    | with_reducible refine kept_ite ?_ ?_
    | split
    | dsimp only

theorem State.utcFrom_kept {q₀ : List Instr} {s : State} {p : ℕ} {a : AnnounceBody} (h : s.Kept q₀) : (State.utcFrom s p a).Kept q₀ := by
  unfold State.utcFrom
  repeat' first
    | with_reducible assumption
    | with_reducible refine State.wr_kept ?_
    | with_reducible refine State.wrPersist_kept ?_
    | with_reducible refine kept_ite ?_ ?_
    | split
    | dsimp only

theorem State.ptpAct_kept {q₀ : List Instr} {s : State} {p : ℕ} {h1 : PtpHeader} {m : PtpMsg} {stamp : ℕ} (h : s.Kept q₀) : (State.ptpAct s p h1 m stamp).Kept q₀ := by
  unfold State.ptpAct
  repeat' first
    | with_reducible assumption
    | with_reducible refine State.wrI_kept ?_
    | with_reducible refine State.bump_kept ?_
    | with_reducible refine State.arm_kept ?_
    | with_reducible refine State.setPtp_kept ?_
    | with_reducible refine State.ptpSend_kept ?_
    | with_reducible refine State.ptpRestate_kept ?_
    | with_reducible refine State.ptpSucceed_kept ?_
    | with_reducible refine State.ptpMeasure_kept ?_
    | with_reducible refine State.utcFrom_kept ?_
    | with_reducible refine kept_ite ?_ ?_
    | split
    | dsimp only

theorem State.ptpProcess_kept {q₀ : List Instr} {s : State} {p : ℕ} {h1 : PtpHeader} {m : PtpMsg} {stamp : ℕ} (h : s.Kept q₀) : (State.ptpProcess s p h1 m stamp).Kept q₀ := by
  unfold State.ptpProcess
  repeat' first
    | with_reducible assumption
    | with_reducible refine State.bump_kept ?_
    | with_reducible refine State.ptpRate_kept ?_
    | with_reducible refine State.ptpTransparent_kept ?_
    | with_reducible refine State.ptpAct_kept ?_
    | with_reducible refine kept_ite ?_ ?_
    | with_reducible refine kept_ite_fst ?_ ?_
    | split
    | refine kept_fst ‹_› ?_
    | dsimp only

theorem State.ptpReceive_kept {q₀ : List Instr} {s : State} {p : ℕ} {off : ℕ} {h1 : PtpHeader} {m : PtpMsg} (h : s.Kept q₀) : (State.ptpReceive s p off h1 m).Kept q₀ := by
  unfold State.ptpReceive
  repeat' first
    | with_reducible assumption
    | with_reducible refine State.bump_kept ?_
    | with_reducible refine State.moveTo_kept ?_
    | with_reducible refine State.carry_kept ?_
    | with_reducible refine State.countMessage_kept ?_
    | with_reducible refine State.setPtp_kept ?_
    | with_reducible refine State.ptpProcess_kept ?_
    | with_reducible refine kept_ite ?_ ?_
    | split
    | dsimp only

theorem execSync_kept {q₀ : List Instr} {p : PortId} {off : ℕ} {h1 : PtpHeader} {origin : ℕ} {egress : Option (PortId × ℕ)} {s : State} (h : s.Kept q₀) : ResKept (execSync p off h1 origin egress s) q₀ := by
  unfold execSync
  repeat' first
    | with_reducible assumption
    | with_reducible refine State.ptpReceive_kept ?_
    | with_reducible refine resKept_next ?_
    | with_reducible refine kept_ite ?_ ?_
    | with_reducible refine resKept_ite ?_ ?_
    | split
    | dsimp only

theorem execFollowUp_kept {q₀ : List Instr} {p : PortId} {off : ℕ} {h1 : PtpHeader} {origin : ℕ} {s : State} (h : s.Kept q₀) : ResKept (execFollowUp p off h1 origin s) q₀ := by
  unfold execFollowUp
  repeat' first
    | with_reducible assumption
    | with_reducible refine State.ptpReceive_kept ?_
    | with_reducible refine resKept_next ?_
    | with_reducible refine kept_ite ?_ ?_
    | with_reducible refine resKept_ite ?_ ?_
    | split
    | dsimp only

theorem execDelayReq_kept {q₀ : List Instr} {p : PortId} {off : ℕ} {h1 : PtpHeader} {egress : Option (PortId × ℕ)} {s : State} (h : s.Kept q₀) : ResKept (execDelayReq p off h1 egress s) q₀ := by
  unfold execDelayReq
  repeat' first
    | with_reducible assumption
    | with_reducible refine State.ptpReceive_kept ?_
    | with_reducible refine resKept_next ?_
    | with_reducible refine kept_ite ?_ ?_
    | with_reducible refine resKept_ite ?_ ?_
    | split
    | dsimp only

theorem execDelayResp_kept {q₀ : List Instr} {p : PortId} {off : ℕ} {h1 : PtpHeader} {receive : ℕ} {s : State} (h : s.Kept q₀) : ResKept (execDelayResp p off h1 receive s) q₀ := by
  unfold execDelayResp
  repeat' first
    | with_reducible assumption
    | with_reducible refine State.ptpReceive_kept ?_
    | with_reducible refine resKept_next ?_
    | with_reducible refine kept_ite ?_ ?_
    | with_reducible refine resKept_ite ?_ ?_
    | split
    | dsimp only

theorem execPdelayReq_kept {q₀ : List Instr} {p : PortId} {off : ℕ} {h1 : PtpHeader} {egress : Option (PortId × ℕ)} {s : State} (h : s.Kept q₀) : ResKept (execPdelayReq p off h1 egress s) q₀ := by
  unfold execPdelayReq
  repeat' first
    | with_reducible assumption
    | with_reducible refine State.ptpReceive_kept ?_
    | with_reducible refine resKept_next ?_
    | with_reducible refine kept_ite ?_ ?_
    | with_reducible refine resKept_ite ?_ ?_
    | split
    | dsimp only

theorem execPdelayResp_kept {q₀ : List Instr} {p : PortId} {off : ℕ} {h1 : PtpHeader} {requestReceipt : ℕ} {egress : Option (PortId × ℕ)} {s : State} (h : s.Kept q₀) : ResKept (execPdelayResp p off h1 requestReceipt egress s) q₀ := by
  unfold execPdelayResp
  repeat' first
    | with_reducible assumption
    | with_reducible refine State.ptpReceive_kept ?_
    | with_reducible refine resKept_next ?_
    | with_reducible refine kept_ite ?_ ?_
    | with_reducible refine resKept_ite ?_ ?_
    | split
    | dsimp only

theorem execPdelayRespFollowUp_kept {q₀ : List Instr} {p : PortId} {off : ℕ} {h1 : PtpHeader} {responseOrigin : ℕ} {s : State} (h : s.Kept q₀) : ResKept (execPdelayRespFollowUp p off h1 responseOrigin s) q₀ := by
  unfold execPdelayRespFollowUp
  repeat' first
    | with_reducible assumption
    | with_reducible refine State.ptpReceive_kept ?_
    | with_reducible refine resKept_next ?_
    | with_reducible refine kept_ite ?_ ?_
    | with_reducible refine resKept_ite ?_ ?_
    | split
    | dsimp only

theorem execAnnounce_kept {q₀ : List Instr} {p : PortId} {off : ℕ} {h1 : PtpHeader} {body : AnnounceBody} {s : State} (h : s.Kept q₀) : ResKept (execAnnounce p off h1 body s) q₀ := by
  unfold execAnnounce
  repeat' first
    | with_reducible assumption
    | with_reducible refine State.ptpReceive_kept ?_
    | with_reducible refine resKept_next ?_
    | with_reducible refine kept_ite ?_ ?_
    | with_reducible refine resKept_ite ?_ ?_
    | split
    | dsimp only

theorem execSignaling_kept {q₀ : List Instr} {p : PortId} {off : ℕ} {h1 : PtpHeader} {body : SignalingBody} {s : State} (h : s.Kept q₀) : ResKept (execSignaling p off h1 body s) q₀ := by
  unfold execSignaling
  repeat' first
    | with_reducible assumption
    | with_reducible refine State.ptpReceive_kept ?_
    | with_reducible refine resKept_next ?_
    | with_reducible refine kept_ite ?_ ?_
    | with_reducible refine resKept_ite ?_ ?_
    | split
    | dsimp only

theorem execManagementMessage_kept {q₀ : List Instr} {p : PortId} {off : ℕ} {h1 : PtpHeader} {s : State} (h : s.Kept q₀) : ResKept (execManagementMessage p off h1 s) q₀ := by
  unfold execManagementMessage
  repeat' first
    | with_reducible assumption
    | with_reducible refine State.ptpReceive_kept ?_
    | with_reducible refine resKept_next ?_
    | with_reducible refine kept_ite ?_ ?_
    | with_reducible refine resKept_ite ?_ ?_
    | split
    | dsimp only

theorem State.ptpFollowUp_kept {q₀ : List Instr} {s : State} {p : ℕ} {f : ℕ × ℕ} (h : s.Kept q₀) : (State.ptpFollowUp s p f).Kept q₀ := by
  unfold State.ptpFollowUp
  repeat' first
    | with_reducible assumption
    | with_reducible refine State.ptpSend_kept ?_
    | with_reducible refine kept_ite ?_ ?_
    | split
    | dsimp only

theorem execSyncTransmit_kept {q₀ : List Instr} {p : PortId} {off : ℕ} {s : State} (h : s.Kept q₀) : ResKept (execSyncTransmit p off s) q₀ := by
  unfold execSyncTransmit
  repeat' first
    | with_reducible assumption
    | with_reducible refine State.moveTo_kept ?_
    | with_reducible refine State.setPtp_kept ?_
    | with_reducible refine State.ptpSend_kept ?_
    | with_reducible refine State.ptpNext_kept ?_
    | with_reducible refine State.ptpFollowUp_kept ?_
    | with_reducible refine resKept_next ?_
    | with_reducible refine kept_ite ?_ ?_
    | with_reducible refine resKept_ite ?_ ?_
    | split
    | dsimp only

theorem execAnnounceTransmit_kept {q₀ : List Instr} {p : PortId} {off : ℕ} {s : State} (h : s.Kept q₀) : ResKept (execAnnounceTransmit p off s) q₀ := by
  unfold execAnnounceTransmit
  repeat' first
    | with_reducible assumption
    | with_reducible refine State.moveTo_kept ?_
    | with_reducible refine State.ptpAnnounce_kept ?_
    | with_reducible refine State.ptpAttempt_kept ?_
    | with_reducible refine resKept_next ?_
    | with_reducible refine kept_ite ?_ ?_
    | with_reducible refine resKept_ite ?_ ?_
    | split
    | dsimp only

theorem execDelayReqTransmit_kept {q₀ : List Instr} {p : PortId} {off : ℕ} {s : State} (h : s.Kept q₀) : ResKept (execDelayReqTransmit p off s) q₀ := by
  unfold execDelayReqTransmit
  repeat' first
    | with_reducible assumption
    | with_reducible refine State.moveTo_kept ?_
    | with_reducible refine State.ptpRequest_kept ?_
    | with_reducible refine resKept_next ?_
    | with_reducible refine kept_ite ?_ ?_
    | with_reducible refine resKept_ite ?_ ?_
    | split
    | dsimp only

theorem execAnnounceReceiptTimeout_kept {q₀ : List Instr} {p : PortId} {s : State} (h : s.Kept q₀) : ResKept (execAnnounceReceiptTimeout p s) q₀ := by
  unfold execAnnounceReceiptTimeout
  repeat' first
    | with_reducible assumption
    | with_reducible refine State.disarm_kept ?_
    | with_reducible refine State.ptpNoAnnounce_kept ?_
    | with_reducible refine resKept_next ?_
    | with_reducible refine kept_ite ?_ ?_
    | with_reducible refine resKept_ite ?_ ?_
    | split
    | dsimp only

theorem execNegotiationTime_kept {q₀ : List Instr} {p : PortId} {s : State} (h : s.Kept q₀) : ResKept (execNegotiationTime p s) q₀ := by
  unfold execNegotiationTime
  repeat' first
    | with_reducible assumption
    | with_reducible refine State.ptpAttempt_kept ?_
    | with_reducible refine resKept_next ?_
    | with_reducible refine kept_ite ?_ ?_
    | with_reducible refine resKept_ite ?_ ?_
    | split
    | dsimp only

theorem execNegotiationRetry_kept {q₀ : List Instr} {p : PortId} {s : State} (h : s.Kept q₀) : ResKept (execNegotiationRetry p s) q₀ := by
  unfold execNegotiationRetry
  repeat' first
    | with_reducible assumption
    | with_reducible refine State.disarm_kept ?_
    | with_reducible refine State.ptpAttempt_kept ?_
    | with_reducible refine resKept_next ?_
    | with_reducible refine kept_ite ?_ ?_
    | with_reducible refine resKept_ite ?_ ?_
    | split
    | dsimp only

theorem State.applyPtpEnable_kept {q₀ : List Instr} {s : State} {p : ℕ} (h : s.Kept q₀) : (State.applyPtpEnable s p).Kept q₀ := by
  unfold State.applyPtpEnable
  repeat' first
    | with_reducible assumption
    | with_reducible refine State.wr_kept ?_
    | with_reducible refine State.disarm_kept ?_
    | with_reducible refine State.setPtp_kept ?_
    | with_reducible refine State.ptpAttempt_kept ?_
    | with_reducible refine kept_ite ?_ ?_
    | split
    | dsimp only

end Sys2Proof.Machine
end

