-- ==== Sys2Proof/Laws/KeptPorts.lean ====
section
/-! SUPPORT. Laws/KeptPorts.lean: every operation of Machine/Ports.lean keeps the queue and the canonical form. -/

namespace Sys2Proof.Machine

theorem State.setPort_kept {q₀ : List Instr} {s : State} {p : ℕ} {x1 : Port} (h : s.Kept q₀) : (State.setPort s p x1).Kept q₀ := by
  unfold State.setPort
  repeat' first
    | with_reducible assumption
    | with_reducible refine kept_ite ?_ ?_
    | split
    | dsimp only
    | with_reducible refine kept_ports ?_

theorem State.stopBringUp_kept {q₀ : List Instr} {s : State} {p : ℕ} (h : s.Kept q₀) : (State.stopBringUp s p).Kept q₀ := by
  unfold State.stopBringUp
  repeat' first
    | with_reducible assumption
    | with_reducible refine State.disarm_kept ?_
    | with_reducible refine kept_ite ?_ ?_
    | split
    | dsimp only

theorem State.bringUp_kept {q₀ : List Instr} {s : State} {p : ℕ} (h : s.Kept q₀) : (State.bringUp s p).Kept q₀ := by
  unfold State.bringUp
  repeat' first
    | with_reducible assumption
    | with_reducible refine State.wr_kept ?_
    | with_reducible refine State.arm_kept ?_
    | with_reducible refine State.setPort_kept ?_
    | with_reducible refine State.stopBringUp_kept ?_
    | with_reducible refine kept_ite ?_ ?_
    | split
    | dsimp only

theorem State.anFailed_kept {q₀ : List Instr} {s : State} {p : ℕ} (h : s.Kept q₀) : (State.anFailed s p).Kept q₀ := by
  unfold State.anFailed
  repeat' first
    | with_reducible assumption
    | with_reducible refine State.wr_kept ?_
    | with_reducible refine State.bump_kept ?_
    | with_reducible refine State.arm_kept ?_
    | with_reducible refine State.raiseLimited_kept ?_
    | with_reducible refine State.stopBringUp_kept ?_
    | with_reducible refine kept_ite ?_ ?_
    | split
    | dsimp only

theorem State.resolveSpeed_kept {q₀ : List Instr} {s : State} {p : ℕ} {v : ℕ} (h : s.Kept q₀) : (State.resolveSpeed s p v).Kept q₀ := by
  unfold State.resolveSpeed
  repeat' first
    | with_reducible assumption
    | with_reducible refine State.wr_kept ?_
    | with_reducible refine State.arm_kept ?_
    | with_reducible refine State.stopBringUp_kept ?_
    | with_reducible refine kept_ite ?_ ?_
    | split
    | dsimp only

theorem State.trainingFailed_kept {q₀ : List Instr} {s : State} {p : ℕ} (h : s.Kept q₀) : (State.trainingFailed s p).Kept q₀ := by
  unfold State.trainingFailed
  repeat' first
    | with_reducible assumption
    | with_reducible refine State.wr_kept ?_
    | with_reducible refine State.bump_kept ?_
    | with_reducible refine State.raiseLimited_kept ?_
    | with_reducible refine State.setPort_kept ?_
    | with_reducible refine State.bringUp_kept ?_
    | with_reducible refine kept_ite ?_ ?_
    | split
    | dsimp only

theorem execClause73Page_kept {q₀ : List Instr} {p : PortId} {abilities : ℕ} {rsFec : Bool} {rs544 : Bool} {s : State} (h : s.Kept q₀) : ResKept (execClause73Page p abilities rsFec rs544 s) q₀ := by
  unfold execClause73Page
  repeat' first
    | with_reducible assumption
    | with_reducible refine State.wr_kept ?_
    | with_reducible refine State.setPort_kept ?_
    | with_reducible refine State.anFailed_kept ?_
    | with_reducible refine State.resolveSpeed_kept ?_
    | with_reducible refine resKept_next ?_
    | with_reducible refine kept_ite ?_ ?_
    | with_reducible refine resKept_ite ?_ ?_
    | split
    | dsimp only

theorem execParallelDetection_kept {q₀ : List Instr} {p : PortId} {speed : Fin 2} {s : State} (h : s.Kept q₀) : ResKept (execParallelDetection p speed s) q₀ := by
  unfold execParallelDetection
  repeat' first
    | with_reducible assumption
    | with_reducible refine State.resolveSpeed_kept ?_
    | with_reducible refine resKept_next ?_
    | with_reducible refine kept_ite ?_ ?_
    | with_reducible refine resKept_ite ?_ ?_
    | split
    | dsimp only

theorem execAnAttemptTimeout_kept {q₀ : List Instr} {p : PortId} {s : State} (h : s.Kept q₀) : ResKept (execAnAttemptTimeout p s) q₀ := by
  unfold execAnAttemptTimeout
  repeat' first
    | with_reducible assumption
    | with_reducible refine State.anFailed_kept ?_
    | with_reducible refine resKept_next ?_
    | with_reducible refine kept_ite ?_ ?_
    | with_reducible refine resKept_ite ?_ ?_
    | split
    | dsimp only

theorem execAnRetryInterval_kept {q₀ : List Instr} {p : PortId} {s : State} (h : s.Kept q₀) : ResKept (execAnRetryInterval p s) q₀ := by
  unfold execAnRetryInterval
  repeat' first
    | with_reducible assumption
    | with_reducible refine State.bringUp_kept ?_
    | with_reducible refine resKept_next ?_
    | with_reducible refine kept_ite ?_ ?_
    | with_reducible refine resKept_ite ?_ ?_
    | split
    | dsimp only

theorem execTrainingComplete_kept {q₀ : List Instr} {p : PortId} {s : State} (h : s.Kept q₀) : ResKept (execTrainingComplete p s) q₀ := by
  unfold execTrainingComplete
  repeat' first
    | with_reducible assumption
    | with_reducible refine State.wr_kept ?_
    | with_reducible refine State.raiseLimited_kept ?_
    | with_reducible refine State.setPort_kept ?_
    | with_reducible refine State.trainingFailed_kept ?_
    | with_reducible refine resKept_next ?_
    | with_reducible refine kept_ite ?_ ?_
    | with_reducible refine resKept_ite ?_ ?_
    | split
    | dsimp only

theorem execLockAndAlignment_kept {q₀ : List Instr} {p : PortId} {s : State} (h : s.Kept q₀) : ResKept (execLockAndAlignment p s) q₀ := by
  unfold execLockAndAlignment
  repeat' first
    | with_reducible assumption
    | with_reducible refine State.wr_kept ?_
    | with_reducible refine State.arm_kept ?_
    | with_reducible refine State.disarm_kept ?_
    | with_reducible refine resKept_next ?_
    | with_reducible refine kept_ite ?_ ?_
    | with_reducible refine resKept_ite ?_ ?_
    | split
    | dsimp only

theorem execTrainingTimeout_kept {q₀ : List Instr} {p : PortId} {s : State} (h : s.Kept q₀) : ResKept (execTrainingTimeout p s) q₀ := by
  unfold execTrainingTimeout
  repeat' first
    | with_reducible assumption
    | with_reducible refine State.wr_kept ?_
    | with_reducible refine State.bump_kept ?_
    | with_reducible refine State.arm_kept ?_
    | with_reducible refine State.raiseLimited_kept ?_
    | with_reducible refine State.stopBringUp_kept ?_
    | with_reducible refine State.trainingFailed_kept ?_
    | with_reducible refine resKept_next ?_
    | with_reducible refine kept_ite ?_ ?_
    | with_reducible refine resKept_ite ?_ ?_
    | split
    | dsimp only

theorem State.linkUp_kept {q₀ : List Instr} {s : State} {p : ℕ} (h : s.Kept q₀) : (State.linkUp s p).Kept q₀ := by
  unfold State.linkUp
  repeat' first
    | with_reducible assumption
    | with_reducible refine State.wr_kept ?_
    | with_reducible refine State.bump_kept ?_
    | with_reducible refine State.arm_kept ?_
    | with_reducible refine State.raiseLimited_kept ?_
    | with_reducible refine State.synceLaneGood_kept ?_
    | with_reducible refine State.ptpAttempt_kept ?_
    | with_reducible refine State.setPort_kept ?_
    | with_reducible refine State.stopBringUp_kept ?_
    | with_reducible refine kept_ite ?_ ?_
    | split
    | dsimp only

theorem State.setOper_kept {q₀ : List Instr} {s : State} {p : ℕ} {pfc : ℕ} {assignment : ℕ} {state : ℕ} (h : s.Kept q₀) : (State.setOper s p pfc assignment state).Kept q₀ := by
  unfold State.setOper
  repeat' first
    | with_reducible assumption
    | with_reducible refine State.wr_kept ?_
    | with_reducible refine kept_ite ?_ ?_
    | split
    | dsimp only

theorem State.dcbxSettings_kept {q₀ : List Instr} {s : State} {p : ℕ} (h : s.Kept q₀) : (State.dcbxSettings s p).Kept q₀ := by
  unfold State.dcbxSettings
  repeat' first
    | with_reducible assumption
    | with_reducible refine State.raiseLimited_kept ?_
    | with_reducible refine State.setPort_kept ?_
    | with_reducible refine State.setOper_kept ?_
    | with_reducible refine kept_ite ?_ ?_
    | split
    | dsimp only

theorem State.dcbxSoon_kept {q₀ : List Instr} {s : State} {p : ℕ} (h : s.Kept q₀) : (State.dcbxSoon s p).Kept q₀ := by
  unfold State.dcbxSoon
  repeat' first
    | with_reducible assumption
    | with_reducible refine State.setPort_kept ?_
    | with_reducible refine kept_ite ?_ ?_
    | split
    | dsimp only

theorem State.countRx_kept {q₀ : List Instr} {s : State} {p : ℕ} {octets : ℕ} (h : s.Kept q₀) : (State.countRx s p octets).Kept q₀ := by
  unfold State.countRx
  repeat' first
    | with_reducible assumption
    | with_reducible refine State.addTo_kept ?_
    | with_reducible refine State.bump_kept ?_
    | with_reducible refine kept_ite ?_ ?_
    | split
    | dsimp only

theorem State.rxAccept_kept {q₀ : List Instr} {s : State} {p : ℕ} {rx : RxFrame} (h : s.Kept q₀) : (State.rxAccept s p rx).1.Kept q₀ := by
  unfold State.rxAccept
  repeat' first
    | with_reducible assumption
    | with_reducible refine State.bump_kept ?_
    | with_reducible refine State.countRx_kept ?_
    | with_reducible refine kept_ite ?_ ?_
    | with_reducible refine kept_ite_fst ?_ ?_
    | split
    | dsimp only

theorem State.countLldpdu_kept {q₀ : List Instr} {s : State} {p : ℕ} (h : s.Kept q₀) : (State.countLldpdu s p).1.Kept q₀ := by
  unfold State.countLldpdu
  repeat' first
    | with_reducible assumption
    | with_reducible refine State.bump_kept ?_
    | with_reducible refine State.setPort_kept ?_
    | with_reducible refine kept_ite ?_ ?_
    | with_reducible refine kept_ite_fst ?_ ?_
    | split
    | dsimp only

theorem execLldpdu_kept {q₀ : List Instr} {p : PortId} {off : ℕ} {rx : RxFrame} {body : LldpBody} {s : State} (h : s.Kept q₀) : ResKept (execLldpdu p off rx body s) q₀ := by
  unfold execLldpdu
  repeat' first
    | with_reducible assumption
    | with_reducible refine State.moveTo_kept ?_
    | with_reducible refine State.arm_kept ?_
    | with_reducible refine State.setPort_kept ?_
    | with_reducible refine State.rxAccept_kept ?_
    | with_reducible refine State.countLldpdu_kept ?_
    | with_reducible refine resKept_next ?_
    | with_reducible refine kept_ite ?_ ?_
    | with_reducible refine resKept_ite ?_ ?_
    | with_reducible refine kept_ite_fst ?_ ?_
    | split
    | refine kept_fst ‹_› ?_
    | dsimp only

theorem execLldpTxInterval_kept {q₀ : List Instr} {p : PortId} {s : State} (h : s.Kept q₀) : ResKept (execLldpTxInterval p s) q₀ := by
  unfold execLldpTxInterval
  repeat' first
    | with_reducible assumption
    | with_reducible refine State.emit_kept ?_
    | with_reducible refine State.arm_kept ?_
    | with_reducible refine resKept_next ?_
    | with_reducible refine kept_ite ?_ ?_
    | with_reducible refine resKept_ite ?_ ?_
    | split
    | dsimp only

theorem execLldpTtlExpiry_kept {q₀ : List Instr} {p : PortId} {s : State} (h : s.Kept q₀) : ResKept (execLldpTtlExpiry p s) q₀ := by
  unfold execLldpTtlExpiry
  repeat' first
    | with_reducible assumption
    | with_reducible refine State.disarm_kept ?_
    | with_reducible refine State.setPort_kept ?_
    | with_reducible refine resKept_next ?_
    | with_reducible refine kept_ite ?_ ?_
    | with_reducible refine resKept_ite ?_ ?_
    | split
    | dsimp only

theorem execPause_kept {q₀ : List Instr} {p : PortId} {rx : RxFrame} {s : State} (h : s.Kept q₀) : ResKept (execPause p rx s) q₀ := by
  unfold execPause
  repeat' first
    | with_reducible assumption
    | with_reducible refine State.bump_kept ?_
    | with_reducible refine State.rxAccept_kept ?_
    | with_reducible refine resKept_next ?_
    | with_reducible refine kept_ite ?_ ?_
    | with_reducible refine resKept_ite ?_ ?_
    | with_reducible refine kept_ite_fst ?_ ?_
    | split
    | refine kept_fst ‹_› ?_
    | dsimp only

end Sys2Proof.Machine
end

