-- ==== Sys2Proof/Laws/KeptHostRings.lean ====
section
/-! SUPPORT. Laws/KeptHostRings.lean: every operation of Machine/HostRings.lean keeps the queue and the canonical form. -/

namespace Sys2Proof.Machine

theorem State.poolTook_kept {q₀ : List Instr} {s : State} {pool : ℕ} {n : ℕ} (h : s.Kept q₀) : (State.poolTook s pool n).Kept q₀ := by
  unfold State.poolTook
  repeat' first
    | with_reducible assumption
    | with_reducible refine State.wr_kept ?_
    | with_reducible refine State.addTo_kept ?_
    | with_reducible refine State.raiseLimited_kept ?_
    | with_reducible refine kept_ite ?_ ?_
    | split
    | dsimp only

theorem State.poolGave_kept {q₀ : List Instr} {s : State} {pool : ℕ} {n : ℕ} (h : s.Kept q₀) : (State.poolGave s pool n).Kept q₀ := by
  unfold State.poolGave
  repeat' first
    | with_reducible assumption
    | with_reducible refine State.addTo_kept ?_
    | with_reducible refine kept_ite ?_ ?_
    | split
    | dsimp only

theorem State.poolRefused_kept {q₀ : List Instr} {s : State} {pool : ℕ} (h : s.Kept q₀) : (State.poolRefused s pool).Kept q₀ := by
  unfold State.poolRefused
  repeat' first
    | with_reducible assumption
    | with_reducible refine State.bump_kept ?_
    | with_reducible refine State.raiseLimited_kept ?_
    | with_reducible refine kept_ite ?_ ?_
    | split
    | dsimp only

theorem State.poolTake_kept {q₀ : List Instr} {s : State} {pool : ℕ} {n : ℕ} (h : s.Kept q₀) : (State.poolTake s pool n).Kept q₀ := by
  unfold State.poolTake
  repeat' first
    | with_reducible assumption
    | with_reducible refine State.poolTook_kept ?_
    | with_reducible refine kept_ite ?_ ?_
    | split
    | dsimp only
    | with_reducible refine kept_hod ?_

theorem State.poolGive_kept {q₀ : List Instr} {s : State} {pool : ℕ} {n : ℕ} (h : s.Kept q₀) : (State.poolGive s pool n).Kept q₀ := by
  unfold State.poolGive
  repeat' first
    | with_reducible assumption
    | with_reducible refine State.poolGave_kept ?_
    | with_reducible refine kept_ite ?_ ?_
    | split
    | dsimp only
    | with_reducible refine kept_hod ?_

theorem State.takeUnit_kept {q₀ : List Instr} {s : State} {pool : ℕ} {owner : ℕ} (h : s.Kept q₀) : (State.takeUnit s pool owner).1.Kept q₀ := by
  unfold State.takeUnit
  repeat' first
    | with_reducible assumption
    | with_reducible refine State.openBits_kept ?_
    | with_reducible refine State.poolTook_kept ?_
    | with_reducible refine kept_ite ?_ ?_
    | with_reducible refine kept_ite_fst ?_ ?_
    | split
    | refine kept_fst ‹_› ?_
    | dsimp only
    | with_reducible refine kept_hod ?_

theorem State.takeUnits_kept {q₀ : List Instr} {s : State} {pool : ℕ} {owner : ℕ} {fuel : ℕ} (h : s.Kept q₀) : (State.takeUnits s pool owner fuel).1.Kept q₀ := by
  induction fuel generalizing s pool owner with
  | zero =>
    unfold State.takeUnits
    repeat' first
      | with_reducible assumption
      | with_reducible refine State.takeUnit_kept ?_
      | with_reducible refine kept_ite ?_ ?_
      | with_reducible refine kept_ite_fst ?_ ?_
      | split
      | refine kept_fst ‹_› ?_
      | dsimp only
  | succ fuel ih =>
    unfold State.takeUnits
    repeat' first
      | with_reducible assumption
      | with_reducible refine ih ?_
      | with_reducible refine State.takeUnit_kept ?_
      | with_reducible refine kept_ite ?_ ?_
      | with_reducible refine kept_ite_fst ?_ ?_
      | split
      | refine kept_fst ‹_› ?_
      | dsimp only

theorem State.returnUnit_kept {q₀ : List Instr} {s : State} {key : ℕ} (h : s.Kept q₀) : (State.returnUnit s key).Kept q₀ := by
  unfold State.returnUnit
  repeat' first
    | with_reducible assumption
    | with_reducible refine State.poolGave_kept ?_
    | with_reducible refine kept_ite ?_ ?_
    | split
    | dsimp only
    | with_reducible refine kept_hod ?_

theorem State.putUnit_kept {q₀ : List Instr} {s : State} {key : ℕ} {x1 : HodUnit} (h : s.Kept q₀) : (State.putUnit s key x1).Kept q₀ := by
  unfold State.putUnit
  repeat' first
    | with_reducible assumption
    | with_reducible refine State.returnUnit_kept ?_
    | with_reducible refine kept_ite ?_ ?_
    | split
    | dsimp only
    | with_reducible refine kept_hod ?_

theorem State.reclaim_kept {q₀ : List Instr} {s : State} {owner : ℕ} (h : s.Kept q₀) : (State.reclaim s owner).Kept q₀ := by
  unfold State.reclaim
  repeat' first
    | with_reducible assumption
    | with_reducible refine State.raise_kept ?_
    | with_reducible refine State.putUnit_kept ?_
    | with_reducible refine kept_foldl ?_ (fun _ _ _ => ?_)
    | with_reducible refine kept_foldl_pair ?_ (fun _ _ _ _ => ?_)
    | with_reducible refine kept_ite ?_ ?_
    | split
    | refine kept_fst ‹_› ?_
    | dsimp only

theorem State.toCore_kept {q₀ : List Instr} {s : State} {n : ℕ} {bytes : List Byte} {cls : ℕ} {kind : String} (h : s.Kept q₀) : (State.toCore s n bytes cls kind).Kept q₀ := by
  unfold State.toCore
  repeat' first
    | with_reducible assumption
    | with_reducible refine State.emit_kept ?_
    | with_reducible refine State.poolRefused_kept ?_
    | with_reducible refine State.takeUnits_kept ?_
    | with_reducible refine kept_ite ?_ ?_
    | with_reducible refine kept_ite_fst ?_ ?_
    | split
    | refine kept_fst ‹_› ?_
    | dsimp only

theorem State.setHostFn_kept {q₀ : List Instr} {s : State} {f : ℕ} {x1 : HostFn} (h : s.Kept q₀) : (State.setHostFn s f x1).Kept q₀ := by
  unfold State.setHostFn
  repeat' first
    | with_reducible assumption
    | with_reducible refine kept_ite ?_ ?_
    | split
    | dsimp only
    | with_reducible refine kept_host ?_ rfl

theorem State.setQp_kept {q₀ : List Instr} {s : State} {k : ℕ} {x1 : QueuePair} (h : s.Kept q₀) : (State.setQp s k x1).Kept q₀ := by
  unfold State.setQp
  repeat' first
    | with_reducible assumption
    | with_reducible refine kept_ite ?_ ?_
    | split
    | dsimp only
    | with_reducible refine kept_host ?_ rfl

theorem State.setBlock_kept {q₀ : List Instr} {s : State} {f : ℕ} {slice : ℕ} {x1 : SliceBlock} (h : s.Kept q₀) : (State.setBlock s f slice x1).Kept q₀ := by
  unfold State.setBlock
  repeat' first
    | with_reducible assumption
    | with_reducible refine kept_ite ?_ ?_
    | split
    | dsimp only
    | with_reducible refine kept_slices ?_

theorem State.bumpSlice_kept {q₀ : List Instr} {s : State} {slice : ℕ} {i : ℕ} (h : s.Kept q₀) : (State.bumpSlice s slice i).Kept q₀ := by
  unfold State.bumpSlice
  repeat' first
    | with_reducible assumption
    | with_reducible refine kept_ite ?_ ?_
    | split
    | dsimp only
    | with_reducible refine kept_slices ?_

theorem State.opStart_kept {q₀ : List Instr} {s : State} {slice : ℕ} (h : s.Kept q₀) : (State.opStart s slice).Kept q₀ := by
  unfold State.opStart
  repeat' first
    | with_reducible assumption
    | with_reducible refine kept_ite ?_ ?_
    | split
    | dsimp only
    | with_reducible refine kept_slices ?_

theorem State.opEnd_kept {q₀ : List Instr} {s : State} {slice : ℕ} (h : s.Kept q₀) : (State.opEnd s slice).Kept q₀ := by
  unfold State.opEnd
  repeat' first
    | with_reducible assumption
    | with_reducible refine kept_ite ?_ ?_
    | split
    | dsimp only
    | with_reducible refine kept_slices ?_

theorem State.issueRead_kept {q₀ : List Instr} {s : State} {r : Dma} (h : s.Kept q₀) : (State.issueRead s r).Kept q₀ := by
  unfold State.issueRead
  repeat' first
    | with_reducible assumption
    | with_reducible refine State.emit_kept ?_
    | with_reducible refine State.arm_kept ?_
    | with_reducible refine kept_ite ?_ ?_
    | split
    | dsimp only
    | with_reducible refine kept_host ?_ rfl

theorem State.pumpReads_kept {q₀ : List Instr} {s : State} {link : ℕ} {fuel : ℕ} (h : s.Kept q₀) : (State.pumpReads s link fuel).Kept q₀ := by
  induction fuel generalizing s link with
  | zero =>
    unfold State.pumpReads
    repeat' first
      | with_reducible assumption
      | with_reducible refine State.issueRead_kept ?_
      | with_reducible refine kept_ite ?_ ?_
      | split
      | refine kept_fst ‹_› ?_
      | dsimp only
  | succ fuel ih =>
    unfold State.pumpReads
    repeat' first
      | with_reducible assumption
      | with_reducible refine ih ?_
      | with_reducible refine State.issueRead_kept ?_
      | with_reducible refine kept_ite ?_ ?_
      | split
      | refine kept_fst ‹_› ?_
      | dsimp only

theorem State.readWith_kept {q₀ : List Instr} {s : State} {relaxed : Bool} {kind : DmaKind} {f : ℕ} {slice : Option ℕ} {queue : ℕ} {id : ℕ} {part : ℕ} {addr : ℕ} {len : ℕ} (h : s.Kept q₀) : (State.readWith s relaxed kind f slice queue id part addr len).Kept q₀ := by
  unfold State.readWith
  repeat' first
    | with_reducible assumption
    | with_reducible refine State.opStart_kept ?_
    | with_reducible refine State.pumpReads_kept ?_
    | with_reducible refine kept_foldl ?_ (fun _ _ _ => ?_)
    | with_reducible refine kept_foldl_pair ?_ (fun _ _ _ _ => ?_)
    | with_reducible refine kept_ite ?_ ?_
    | split
    | refine kept_fst ‹_› ?_
    | dsimp only
    | with_reducible refine kept_host ?_ rfl

theorem State.read_kept {q₀ : List Instr} {s : State} {kind : DmaKind} {f : ℕ} {slice : Option ℕ} {queue : ℕ} {id : ℕ} {part : ℕ} {addr : ℕ} {len : ℕ} (h : s.Kept q₀) : (State.read s kind f slice queue id part addr len).Kept q₀ := by
  unfold State.read
  repeat' first
    | with_reducible assumption
    | with_reducible refine State.readWith_kept ?_
    | with_reducible refine kept_ite ?_ ?_
    | split
    | dsimp only

theorem State.endRead_kept {q₀ : List Instr} {s : State} {r : Dma} (h : s.Kept q₀) : (State.endRead s r).Kept q₀ := by
  unfold State.endRead
  repeat' first
    | with_reducible assumption
    | with_reducible refine State.disarm_kept ?_
    | with_reducible refine State.opEnd_kept ?_
    | with_reducible refine State.pumpReads_kept ?_
    | with_reducible refine kept_ite ?_ ?_
    | split
    | dsimp only
    | with_reducible refine kept_host ?_ rfl

theorem State.abandonReads_kept {q₀ : List Instr} {s : State} {mine : Dma → Bool} (h : s.Kept q₀) : (State.abandonReads s mine).Kept q₀ := by
  unfold State.abandonReads
  repeat' first
    | with_reducible assumption
    | with_reducible refine State.endRead_kept ?_
    | with_reducible refine kept_foldl ?_ (fun _ _ _ => ?_)
    | with_reducible refine kept_foldl_pair ?_ (fun _ _ _ _ => ?_)
    | with_reducible refine kept_ite ?_ ?_
    | split
    | refine kept_fst ‹_› ?_
    | dsimp only
    | with_reducible refine kept_host ?_ rfl

theorem State.markPage_kept {q₀ : List Instr} {s : State} {f : ℕ} {slice : ℕ} {page : ℕ} (h : s.Kept q₀) : (State.markPage s f slice page).Kept q₀ := by
  unfold State.markPage
  repeat' first
    | with_reducible assumption
    | with_reducible refine State.raiseLimited_kept ?_
    | with_reducible refine State.setBlock_kept ?_
    | with_reducible refine State.bumpSlice_kept ?_
    | with_reducible refine State.pumpReads_kept ?_
    | with_reducible refine kept_ite ?_ ?_
    | split
    | dsimp only
    | with_reducible refine kept_host ?_ rfl

theorem State.markDirty_kept {q₀ : List Instr} {s : State} {f : ℕ} {slice : ℕ} {addr : ℕ} {len : ℕ} (h : s.Kept q₀) : (State.markDirty s f slice addr len).Kept q₀ := by
  unfold State.markDirty
  repeat' first
    | with_reducible assumption
    | with_reducible refine State.markPage_kept ?_
    | with_reducible refine kept_foldl ?_ (fun _ _ _ => ?_)
    | with_reducible refine kept_foldl_pair ?_ (fun _ _ _ _ => ?_)
    | with_reducible refine kept_ite ?_ ?_
    | split
    | refine kept_fst ‹_› ?_
    | dsimp only

theorem State.dmaLost_kept {q₀ : List Instr} {s : State} {f : ℕ} (h : s.Kept q₀) : (State.dmaLost s f).Kept q₀ := by
  unfold State.dmaLost
  repeat' first
    | with_reducible assumption
    | with_reducible refine State.bump_kept ?_
    | with_reducible refine kept_ite ?_ ?_
    | split
    | dsimp only

theorem State.hostWrite_kept {q₀ : List Instr} {s : State} {f : ℕ} {slice : Option ℕ} {addr : ℕ} {relaxed : Bool} {poisoned : Bool} {bytes : List Byte} (h : s.Kept q₀) : (State.hostWrite s f slice addr relaxed poisoned bytes).Kept q₀ := by
  unfold State.hostWrite
  repeat' first
    | with_reducible assumption
    | with_reducible refine State.emit_kept ?_
    | with_reducible refine State.markDirty_kept ?_
    | with_reducible refine State.dmaLost_kept ?_
    | with_reducible refine kept_ite ?_ ?_
    | split
    | dsimp only

theorem State.hostWriteFrom_kept {q₀ : List Instr} {s : State} {tile : ℕ} {vn : ℕ} {f : ℕ} {slice : Option ℕ} {addr : ℕ} {relaxed : Bool} {poisoned : Bool} {bytes : List Byte} (h : s.Kept q₀) : (State.hostWriteFrom s tile vn f slice addr relaxed poisoned bytes).Kept q₀ := by
  unfold State.hostWriteFrom
  repeat' first
    | with_reducible assumption
    | with_reducible refine State.carry_kept ?_
    | with_reducible refine State.hostWrite_kept ?_
    | with_reducible refine kept_ite ?_ ?_
    | split
    | dsimp only

theorem State.message_kept {q₀ : List Instr} {s : State} {f : ℕ} {e1 : ImsEntry} {masked : Bool} (h : s.Kept q₀) : (State.message s f e1 masked).1.Kept q₀ := by
  unfold State.message
  repeat' first
    | with_reducible assumption
    | with_reducible refine State.emit_kept ?_
    | with_reducible refine kept_ite ?_ ?_
    | with_reducible refine kept_ite_fst ?_ ?_
    | split
    | dsimp only

theorem State.sliceInterrupt_kept {q₀ : List Instr} {s : State} {f : ℕ} {slice : ℕ} {v : ℕ} (h : s.Kept q₀) : (State.sliceInterrupt s f slice v).Kept q₀ := by
  unfold State.sliceInterrupt
  repeat' first
    | with_reducible assumption
    | with_reducible refine State.bump_kept ?_
    | with_reducible refine State.setHostFn_kept ?_
    | with_reducible refine State.message_kept ?_
    | with_reducible refine kept_ite ?_ ?_
    | with_reducible refine kept_ite_fst ?_ ?_
    | split
    | refine kept_fst ‹_› ?_
    | dsimp only

theorem State.msixInterrupt_kept {q₀ : List Instr} {s : State} {f : ℕ} {v : ℕ} (h : s.Kept q₀) : (State.msixInterrupt s f v).Kept q₀ := by
  unfold State.msixInterrupt
  repeat' first
    | with_reducible assumption
    | with_reducible refine State.setHostFn_kept ?_
    | with_reducible refine State.message_kept ?_
    | with_reducible refine kept_ite ?_ ?_
    | with_reducible refine kept_ite_fst ?_ ?_
    | split
    | refine kept_fst ‹_› ?_
    | dsimp only

theorem State.cqPut_kept {q₀ : List Instr} {s : State} {k : ℕ} {rec1 : ℕ} (h : s.Kept q₀) : (State.cqPut s k rec1).Kept q₀ := by
  unfold State.cqPut
  repeat' first
    | with_reducible assumption
    | with_reducible refine State.setQp_kept ?_
    | with_reducible refine State.hostWrite_kept ?_
    | with_reducible refine State.sliceInterrupt_kept ?_
    | with_reducible refine kept_ite ?_ ?_
    | split
    | dsimp only

theorem State.cqWrite_kept {q₀ : List Instr} {s : State} {k : ℕ} {rec1 : ℕ} (h : s.Kept q₀) : (State.cqWrite s k rec1).Kept q₀ := by
  unfold State.cqWrite
  repeat' first
    | with_reducible assumption
    | with_reducible refine State.setQp_kept ?_
    | with_reducible refine State.cqPut_kept ?_
    | with_reducible refine kept_ite ?_ ?_
    | split
    | dsimp only

theorem State.cqDrain_kept {q₀ : List Instr} {s : State} {k : ℕ} {fuel : ℕ} (h : s.Kept q₀) : (State.cqDrain s k fuel).Kept q₀ := by
  induction fuel generalizing s k with
  | zero =>
    unfold State.cqDrain
    repeat' first
      | with_reducible assumption
      | with_reducible refine State.setQp_kept ?_
      | with_reducible refine State.cqPut_kept ?_
      | with_reducible refine kept_ite ?_ ?_
      | split
      | refine kept_fst ‹_› ?_
      | dsimp only
  | succ fuel ih =>
    unfold State.cqDrain
    repeat' first
      | with_reducible assumption
      | with_reducible refine ih ?_
      | with_reducible refine State.setQp_kept ?_
      | with_reducible refine State.cqPut_kept ?_
      | with_reducible refine kept_ite ?_ ?_
      | split
      | refine kept_fst ‹_› ?_
      | dsimp only

theorem State.txComplete_kept {q₀ : List Instr} {s : State} {f : Frame} {port : ℕ} {status : ℕ} {stamp : Option ℕ} (h : s.Kept q₀) : (State.txComplete s f port status stamp).Kept q₀ := by
  unfold State.txComplete
  repeat' first
    | with_reducible assumption
    | with_reducible refine State.cqWrite_kept ?_
    | with_reducible refine kept_ite ?_ ?_
    | split
    | dsimp only

theorem State.setRing_kept {q₀ : List Instr} {s : State} {link : ℕ} {x1 : EventRing} (h : s.Kept q₀) : (State.setRing s link x1).Kept q₀ := by
  unfold State.setRing
  repeat' first
    | with_reducible assumption
    | with_reducible refine kept_ite ?_ ?_
    | split
    | dsimp only
    | with_reducible refine kept_host ?_ rfl

theorem State.ringPut_kept {q₀ : List Instr} {s : State} {link : ℕ} {kind : ℕ} {pin : ℕ} {rising : Bool} {time : ℕ} (h : s.Kept q₀) : (State.ringPut s link kind pin rising time).Kept q₀ := by
  unfold State.ringPut
  repeat' first
    | with_reducible assumption
    | with_reducible refine State.hostWriteFrom_kept ?_
    | with_reducible refine State.msixInterrupt_kept ?_
    | with_reducible refine State.setRing_kept ?_
    | with_reducible refine kept_ite ?_ ?_
    | split
    | dsimp only

theorem State.setPin_kept {q₀ : List Instr} {s : State} {n : ℕ} {x1 : Pin} (h : s.Kept q₀) : (State.setPin s n x1).Kept q₀ := by
  unfold State.setPin
  repeat' first
    | with_reducible assumption
    | with_reducible refine kept_ite ?_ ?_
    | split
    | dsimp only
    | with_reducible refine kept_pins ?_

theorem State.ringDrain_kept {q₀ : List Instr} {s : State} {link : ℕ} {fuel : ℕ} (h : s.Kept q₀) : (State.ringDrain s link fuel).Kept q₀ := by
  induction fuel generalizing s link with
  | zero =>
    unfold State.ringDrain
    repeat' first
      | with_reducible assumption
      | with_reducible refine State.setRing_kept ?_
      | with_reducible refine State.ringPut_kept ?_
      | with_reducible refine State.setPin_kept ?_
      | with_reducible refine kept_ite ?_ ?_
      | split
      | refine kept_fst ‹_› ?_
      | dsimp only
  | succ fuel ih =>
    unfold State.ringDrain
    repeat' first
      | with_reducible assumption
      | with_reducible refine ih ?_
      | with_reducible refine State.setRing_kept ?_
      | with_reducible refine State.ringPut_kept ?_
      | with_reducible refine State.setPin_kept ?_
      | with_reducible refine kept_ite ?_ ?_
      | split
      | refine kept_fst ‹_› ?_
      | dsimp only

theorem State.pinRecord_kept {q₀ : List Instr} {s : State} {n : ℕ} {kind : ℕ} (h : s.Kept q₀) : (State.pinRecord s n kind).Kept q₀ := by
  unfold State.pinRecord
  repeat' first
    | with_reducible assumption
    | with_reducible refine State.setRing_kept ?_
    | with_reducible refine State.ringDrain_kept ?_
    | with_reducible refine kept_ite ?_ ?_
    | split
    | dsimp only

end Sys2Proof.Machine
end

