-- ==== Sys2Proof/Laws/KeptFdb.lean ====
section
/-! SUPPORT. Laws/KeptFdb.lean: every operation of Machine/Fdb.lean keeps the queue and the canonical form. -/

namespace Sys2Proof.Machine

theorem State.setFdb_kept {q₀ : List Instr} {s : State} {t1 : List (ℕ × FdbEntry)} (h : s.Kept q₀) : (State.setFdb s t1).Kept q₀ := by
  unfold State.setFdb
  repeat' first
    | with_reducible assumption
    | with_reducible refine State.wr_kept ?_
    | with_reducible refine kept_ite ?_ ?_
    | split
    | dsimp only
    | with_reducible refine kept_fwd ?_

theorem State.fdbPortDown_kept {q₀ : List Instr} {s : State} {p : ℕ} (h : s.Kept q₀) : (State.fdbPortDown s p).Kept q₀ := by
  unfold State.fdbPortDown
  repeat' first
    | with_reducible assumption
    | with_reducible refine State.setFdb_kept ?_
    | with_reducible refine kept_ite ?_ ?_
    | split
    | dsimp only

theorem State.fdbApply_kept {q₀ : List Instr} {s : State} {ops : List FdbOp} (h : s.Kept q₀) : (State.fdbApply s ops).Kept q₀ := by
  unfold State.fdbApply
  repeat' first
    | with_reducible assumption
    | with_reducible refine State.wr_kept ?_
    | with_reducible refine State.setFdb_kept ?_
    | with_reducible refine kept_foldl ?_ (fun _ _ _ => ?_)
    | with_reducible refine kept_foldl_pair ?_ (fun _ _ _ _ => ?_)
    | with_reducible refine kept_ite ?_ ?_
    | split
    | refine kept_fst ‹_› ?_
    | dsimp only

theorem State.fdbSweepRead_kept {q₀ : List Instr} {s : State} {first : ℕ} {count : ℕ} (h : s.Kept q₀) : (State.fdbSweepRead s first count).1.Kept q₀ := by
  unfold State.fdbSweepRead
  repeat' first
    | with_reducible assumption
    | with_reducible refine kept_ite ?_ ?_
    | with_reducible refine kept_ite_fst ?_ ?_
    | split
    | dsimp only
    | with_reducible refine kept_fwd ?_

end Sys2Proof.Machine
end

