-- ==== Sys2Proof/Laws/KeptSwitch.lean ====
section
/-! SUPPORT. Laws/KeptSwitch.lean: every operation of Machine/Switch.lean keeps the queue and the canonical form. -/

namespace Sys2Proof.Machine

theorem State.setQueue_kept {q₀ : List Instr} {s : State} {p : ℕ} {c : ℕ} {q1 : Queue} (h : s.Kept q₀) : (State.setQueue s p c q1).Kept q₀ := by
  unfold State.setQueue
  repeat' first
    | with_reducible assumption
    | with_reducible refine kept_ite ?_ ?_
    | split
    | dsimp only
    | with_reducible refine kept_switch ?_

theorem State.setEgress_kept {q₀ : List Instr} {s : State} {p : ℕ} {x1 : Egress} (h : s.Kept q₀) : (State.setEgress s p x1).Kept q₀ := by
  unfold State.setEgress
  repeat' first
    | with_reducible assumption
    | with_reducible refine kept_ite ?_ ?_
    | split
    | dsimp only
    | with_reducible refine kept_switch ?_

theorem State.setIngress_kept {q₀ : List Instr} {s : State} {p : ℕ} {c : ℕ} {x1 : Ingress} (h : s.Kept q₀) : (State.setIngress s p c x1).Kept q₀ := by
  unfold State.setIngress
  repeat' first
    | with_reducible assumption
    | with_reducible refine kept_ite ?_ ?_
    | split
    | dsimp only
    | with_reducible refine kept_switch ?_

theorem State.setAligned_kept {q₀ : List Instr} {s : State} {q1 : ℕ} {x1 : Aligned} (h : s.Kept q₀) : (State.setAligned s q1 x1).Kept q₀ := by
  unfold State.setAligned
  repeat' first
    | with_reducible assumption
    | with_reducible refine kept_ite ?_ ?_
    | split
    | dsimp only
    | with_reducible refine kept_switch ?_

theorem State.sendPfc_kept {q₀ : List Instr} {s : State} {p : ℕ} {c : ℕ} {quanta : ℕ} (h : s.Kept q₀) : (State.sendPfc s p c quanta).Kept q₀ := by
  unfold State.sendPfc
  repeat' first
    | with_reducible assumption
    | with_reducible refine State.bump_kept ?_
    | with_reducible refine State.emit_kept ?_
    | with_reducible refine State.setIngress_kept ?_
    | with_reducible refine kept_foldl ?_ (fun _ _ _ => ?_)
    | with_reducible refine kept_foldl_pair ?_ (fun _ _ _ _ => ?_)
    | with_reducible refine kept_ite ?_ ?_
    | split
    | refine kept_fst ‹_› ?_
    | dsimp only

theorem State.pfcCheck_kept {q₀ : List Instr} {s : State} {p : ℕ} {c : ℕ} (h : s.Kept q₀) : (State.pfcCheck s p c).Kept q₀ := by
  unfold State.pfcCheck
  repeat' first
    | with_reducible assumption
    | with_reducible refine State.setIngress_kept ?_
    | with_reducible refine State.sendPfc_kept ?_
    | with_reducible refine kept_ite ?_ ?_
    | split
    | dsimp only

theorem execPfcRefresh_kept {q₀ : List Instr} {p : PortId} {c : ClassId} {s : State} (h : s.Kept q₀) : ResKept (execPfcRefresh p c s) q₀ := by
  unfold execPfcRefresh
  repeat' first
    | with_reducible assumption
    | with_reducible refine State.moveTo_kept ?_
    | with_reducible refine State.sendPfc_kept ?_
    | with_reducible refine resKept_next ?_
    | with_reducible refine kept_ite ?_ ?_
    | with_reducible refine resKept_ite ?_ ?_
    | split
    | dsimp only

theorem State.resolveDcbx_kept {q₀ : List Instr} {s : State} {p : ℕ} (h : s.Kept q₀) : (State.resolveDcbx s p).Kept q₀ := by
  unfold State.resolveDcbx
  repeat' first
    | with_reducible assumption
    | with_reducible refine forEach_kept ?_ (fun _ _ _ => ?_)
    | with_reducible refine State.dcbxSettings_kept ?_
    | with_reducible refine State.pfcCheck_kept ?_
    | with_reducible refine kept_ite ?_ ?_
    | split
    | dsimp only

theorem State.charge_kept {q₀ : List Instr} {s : State} {p : ℕ} {f : Frame} (h : s.Kept q₀) : (State.charge s p f).Kept q₀ := by
  unfold State.charge
  repeat' first
    | with_reducible assumption
    | with_reducible refine State.addTo_kept ?_
    | with_reducible refine State.poolTook_kept ?_
    | with_reducible refine kept_ite ?_ ?_
    | split
    | dsimp only
    | with_reducible refine kept_switch ?_

theorem State.uncharge_kept {q₀ : List Instr} {s : State} {p : ℕ} {f : Frame} (h : s.Kept q₀) : (State.uncharge s p f).Kept q₀ := by
  unfold State.uncharge
  repeat' first
    | with_reducible assumption
    | with_reducible refine State.wr_kept ?_
    | with_reducible refine State.poolGave_kept ?_
    | with_reducible refine kept_ite ?_ ?_
    | split
    | dsimp only
    | with_reducible refine kept_switch ?_

theorem State.heldChange_kept {q₀ : List Instr} {s : State} {f : Frame} {change : ℕ → ℕ} (h : s.Kept q₀) : (State.heldChange s f change).Kept q₀ := by
  unfold State.heldChange
  repeat' first
    | with_reducible assumption
    | with_reducible refine State.setIngress_kept ?_
    | with_reducible refine State.pfcCheck_kept ?_
    | with_reducible refine kept_ite ?_ ?_
    | split
    | dsimp only

theorem State.holdCopy_kept {q₀ : List Instr} {s : State} {f : Frame} (h : s.Kept q₀) : (State.holdCopy s f).Kept q₀ := by
  unfold State.holdCopy
  repeat' first
    | with_reducible assumption
    | with_reducible refine State.heldChange_kept ?_
    | with_reducible refine kept_ite ?_ ?_
    | split
    | dsimp only
    | with_reducible refine kept_switch ?_

theorem State.dropCopy_kept {q₀ : List Instr} {s0 : State} {f : Frame} (h : s0.Kept q₀) : (State.dropCopy s0 f).Kept q₀ := by
  unfold State.dropCopy
  repeat' first
    | with_reducible assumption
    | with_reducible refine State.txComplete_kept ?_
    | with_reducible refine State.heldChange_kept ?_
    | with_reducible refine kept_ite ?_ ?_
    | split
    | dsimp only
    | with_reducible refine kept_switch ?_

theorem State.dropAt_kept {q₀ : List Instr} {s : State} {p : ℕ} {f : Frame} (h : s.Kept q₀) : (State.dropAt s p f).Kept q₀ := by
  unfold State.dropAt
  repeat' first
    | with_reducible assumption
    | with_reducible refine State.bump_kept ?_
    | with_reducible refine State.dropCopy_kept ?_
    | with_reducible refine kept_ite ?_ ?_
    | split
    | dsimp only

theorem State.setOut_kept {q₀ : List Instr} {s : State} {x1 : Transit} (h : s.Kept q₀) : (State.setOut s x1).Kept q₀ := by
  unfold State.setOut
  repeat' first
    | with_reducible assumption
    | with_reducible refine State.carryFrame_kept ?_
    | with_reducible refine kept_ite ?_ ?_
    | split
    | dsimp only
    | with_reducible refine kept_switch ?_

theorem State.coreDrop_kept {q₀ : List Instr} {s : State} {core : ℕ} (h : s.Kept q₀) : (State.coreDrop s core).Kept q₀ := by
  unfold State.coreDrop
  repeat' first
    | with_reducible assumption
    | with_reducible refine State.poolRefused_kept ?_
    | with_reducible refine kept_ite ?_ ?_
    | split
    | dsimp only
    | with_reducible refine kept_switch ?_

theorem State.send_kept {q₀ : List Instr} {s : State} {g : Frame} {d : Dst} (h : s.Kept q₀) : (State.send s g d).Kept q₀ := by
  unfold State.send
  repeat' first
    | with_reducible assumption
    | with_reducible refine State.holdCopy_kept ?_
    | with_reducible refine State.dropCopy_kept ?_
    | with_reducible refine State.setOut_kept ?_
    | with_reducible refine State.coreDrop_kept ?_
    | with_reducible refine kept_ite ?_ ?_
    | split
    | dsimp only

theorem State.newFrame_kept {q₀ : List Instr} {s : State} (h : s.Kept q₀) : (State.newFrame s).1.Kept q₀ := by
  unfold State.newFrame
  repeat' first
    | with_reducible assumption
    | with_reducible refine kept_ite ?_ ?_
    | with_reducible refine kept_ite_fst ?_ ?_
    | split
    | dsimp only
    | with_reducible refine kept_switch ?_

theorem State.enqueue_kept {q₀ : List Instr} {s : State} {p : ℕ} {f : Frame} (h : s.Kept q₀) : (State.enqueue s p f).Kept q₀ := by
  unfold State.enqueue
  repeat' first
    | with_reducible assumption
    | with_reducible refine State.setQueue_kept ?_
    | with_reducible refine State.setEgress_kept ?_
    | with_reducible refine kept_ite ?_ ?_
    | split
    | dsimp only

theorem State.queueEmptied_kept {q₀ : List Instr} {s : State} {p : ℕ} {c : ℕ} (h : s.Kept q₀) : (State.queueEmptied s p c).Kept q₀ := by
  unfold State.queueEmptied
  repeat' first
    | with_reducible assumption
    | with_reducible refine State.setQueue_kept ?_
    | with_reducible refine State.setEgress_kept ?_
    | with_reducible refine kept_ite ?_ ?_
    | split
    | dsimp only

theorem State.showCredit_kept {q₀ : List Instr} {s : State} {p : ℕ} {c : ℕ} (h : s.Kept q₀) : (State.showCredit s p c).Kept q₀ := by
  unfold State.showCredit
  repeat' first
    | with_reducible assumption
    | with_reducible refine State.wrI_kept ?_
    | with_reducible refine kept_ite ?_ ?_
    | split
    | dsimp only

theorem State.tailDrop_kept {q₀ : List Instr} {s : State} {p : ℕ} {f : Frame} (h : s.Kept q₀) : (State.tailDrop s p f).Kept q₀ := by
  unfold State.tailDrop
  repeat' first
    | with_reducible assumption
    | with_reducible refine State.addTo_kept ?_
    | with_reducible refine State.bump_kept ?_
    | with_reducible refine State.dropAt_kept ?_
    | with_reducible refine kept_ite ?_ ?_
    | split
    | dsimp only

theorem State.losslessDrop_kept {q₀ : List Instr} {s : State} {f : Frame} (h : s.Kept q₀) : (State.losslessDrop s f).Kept q₀ := by
  unfold State.losslessDrop
  repeat' first
    | with_reducible assumption
    | with_reducible refine State.bump_kept ?_
    | with_reducible refine State.raiseLimited_kept ?_
    | with_reducible refine State.dropCopy_kept ?_
    | with_reducible refine kept_ite ?_ ?_
    | split
    | dsimp only

theorem State.takeIn_kept {q₀ : List Instr} {s : State} {p : ℕ} {f : Frame} {cut : Bool} (h : s.Kept q₀) : (State.takeIn s p f cut).Kept q₀ := by
  unfold State.takeIn
  repeat' first
    | with_reducible assumption
    | with_reducible refine State.pfcCheck_kept ?_
    | with_reducible refine State.charge_kept ?_
    | with_reducible refine State.enqueue_kept ?_
    | with_reducible refine kept_ite ?_ ?_
    | split
    | dsimp only

theorem State.park_kept {q₀ : List Instr} {s : State} {p : ℕ} {f : Frame} {n : ℕ} (h : s.Kept q₀) : (State.park s p f n).Kept q₀ := by
  unfold State.park
  repeat' first
    | with_reducible assumption
    | with_reducible refine State.wr_kept ?_
    | with_reducible refine State.bump_kept ?_
    | with_reducible refine State.poolTook_kept ?_
    | with_reducible refine State.setIngress_kept ?_
    | with_reducible refine State.pfcCheck_kept ?_
    | with_reducible refine State.dropCopy_kept ?_
    | with_reducible refine State.losslessDrop_kept ?_
    | with_reducible refine kept_ite ?_ ?_
    | split
    | dsimp only

theorem State.arriveAtPort_kept {q₀ : List Instr} {s : State} {p : ℕ} {f0 : Frame} (h : s.Kept q₀) : (State.arriveAtPort s p f0).Kept q₀ := by
  unfold State.arriveAtPort
  repeat' first
    | with_reducible assumption
    | with_reducible refine State.bump_kept ?_
    | with_reducible refine State.dropAt_kept ?_
    | with_reducible refine State.tailDrop_kept ?_
    | with_reducible refine State.losslessDrop_kept ?_
    | with_reducible refine State.takeIn_kept ?_
    | with_reducible refine State.park_kept ?_
    | with_reducible refine kept_ite ?_ ?_
    | split
    | dsimp only

theorem State.arriveAligned_kept {q₀ : List Instr} {s : State} {q1 : ℕ} {f : Frame} (h : s.Kept q₀) : (State.arriveAligned s q1 f).Kept q₀ := by
  unfold State.arriveAligned
  repeat' first
    | with_reducible assumption
    | with_reducible refine State.bump_kept ?_
    | with_reducible refine State.raiseLimited_kept ?_
    | with_reducible refine State.setAligned_kept ?_
    | with_reducible refine State.dropCopy_kept ?_
    | with_reducible refine kept_ite ?_ ?_
    | split
    | dsimp only

theorem State.toHostQueue_kept {q₀ : List Instr} {s : State} {dest : ℕ} {f : Frame} {late : Bool} {via : Option ℕ} (h : s.Kept q₀) : (State.toHostQueue s dest f late via).Kept q₀ := by
  unfold State.toHostQueue
  repeat' first
    | with_reducible assumption
    | with_reducible refine State.bump_kept ?_
    | with_reducible refine State.poolRefused_kept ?_
    | with_reducible refine State.poolTake_kept ?_
    | with_reducible refine State.bumpSlice_kept ?_
    | with_reducible refine State.dropCopy_kept ?_
    | with_reducible refine kept_ite ?_ ?_
    | split
    | dsimp only
    | with_reducible refine kept_switch ?_

theorem State.toQueue_kept {q₀ : List Instr} {s : State} {dest : ℕ} {f : Frame} {late : Bool} {via : Option ℕ} (h : s.Kept q₀) : (State.toQueue s dest f late via).Kept q₀ := by
  unfold State.toQueue
  repeat' first
    | with_reducible assumption
    | with_reducible refine State.toCore_kept ?_
    | with_reducible refine State.dropCopy_kept ?_
    | with_reducible refine State.toHostQueue_kept ?_
    | with_reducible refine kept_ite ?_ ?_
    | split
    | dsimp only

theorem State.releaseOne_kept {q₀ : List Instr} {s : State} {q1 : ℕ} {f : Frame} {late : Bool} (h : s.Kept q₀) : (State.releaseOne s q1 f late).Kept q₀ := by
  unfold State.releaseOne
  repeat' first
    | with_reducible assumption
    | with_reducible refine State.setOut_kept ?_
    | with_reducible refine State.toQueue_kept ?_
    | with_reducible refine kept_ite ?_ ?_
    | split
    | dsimp only

theorem State.releaseAligned_kept {q₀ : List Instr} {s : State} {q1 : ℕ} (h : s.Kept q₀) : (State.releaseAligned s q1).Kept q₀ := by
  unfold State.releaseAligned
  repeat' first
    | with_reducible assumption
    | with_reducible refine State.bump_kept ?_
    | with_reducible refine State.setAligned_kept ?_
    | with_reducible refine State.releaseOne_kept ?_
    | with_reducible refine kept_foldl ?_ (fun _ _ _ => ?_)
    | with_reducible refine kept_foldl_pair ?_ (fun _ _ _ _ => ?_)
    | with_reducible refine kept_ite ?_ ?_
    | split
    | refine kept_fst ‹_› ?_
    | dsimp only

theorem State.handedOver_kept {q₀ : List Instr} {s : State} {p : ℕ} {f : Frame} (h : s.Kept q₀) : (State.handedOver s p f).Kept q₀ := by
  unfold State.handedOver
  repeat' first
    | with_reducible assumption
    | with_reducible refine State.poolGive_kept ?_
    | with_reducible refine State.txComplete_kept ?_
    | with_reducible refine kept_ite ?_ ?_
    | split
    | dsimp only

theorem State.arriveOne_kept {q₀ : List Instr} {s : State} {x1 : Transit} (h : s.Kept q₀) : (State.arriveOne s x1).Kept q₀ := by
  unfold State.arriveOne
  repeat' first
    | with_reducible assumption
    | with_reducible refine State.firstWritten_kept ?_
    | with_reducible refine State.dropCopy_kept ?_
    | with_reducible refine State.setOut_kept ?_
    | with_reducible refine State.coreDrop_kept ?_
    | with_reducible refine State.arriveAtPort_kept ?_
    | with_reducible refine State.arriveAligned_kept ?_
    | with_reducible refine State.toQueue_kept ?_
    | with_reducible refine State.handedOver_kept ?_
    | with_reducible refine kept_ite ?_ ?_
    | split
    | dsimp only
    | with_reducible refine kept_switch ?_

theorem State.arrive_kept {q₀ : List Instr} {s : State} {x1 : Transit} (h : s.Kept q₀) : (State.arrive s x1).Kept q₀ := by
  unfold State.arrive
  repeat' first
    | with_reducible assumption
    | with_reducible refine State.arriveOne_kept ?_
    | with_reducible refine kept_foldl ?_ (fun _ _ _ => ?_)
    | with_reducible refine kept_foldl_pair ?_ (fun _ _ _ _ => ?_)
    | with_reducible refine kept_ite ?_ ?_
    | split
    | refine kept_fst ‹_› ?_
    | dsimp only

theorem execFirstBrickArrival_kept {q₀ : List Instr} {id : ℕ} {dst : Dst} {off : ℕ} {s : State} (h : s.Kept q₀) : ResKept (execFirstBrickArrival id dst off s) q₀ := by
  unfold execFirstBrickArrival
  repeat' first
    | with_reducible assumption
    | with_reducible refine State.moveTo_kept ?_
    | with_reducible refine State.arrive_kept ?_
    | with_reducible refine kept_foldl ?_ (fun _ _ _ => ?_)
    | with_reducible refine kept_foldl_pair ?_ (fun _ _ _ _ => ?_)
    | with_reducible refine resKept_next ?_
    | with_reducible refine kept_ite ?_ ?_
    | with_reducible refine resKept_ite ?_ ?_
    | split
    | refine kept_fst ‹_› ?_
    | dsimp only

theorem execParkedFrameMove_kept {q₀ : List Instr} {p : PortId} {c : ClassId} {off : ℕ} {s : State} (h : s.Kept q₀) : ResKept (execParkedFrameMove p c off s) q₀ := by
  unfold execParkedFrameMove
  repeat' first
    | with_reducible assumption
    | with_reducible refine State.wr_kept ?_
    | with_reducible refine State.bump_kept ?_
    | with_reducible refine State.moveTo_kept ?_
    | with_reducible refine State.carryFrame_kept ?_
    | with_reducible refine State.poolGave_kept ?_
    | with_reducible refine State.setIngress_kept ?_
    | with_reducible refine State.pfcCheck_kept ?_
    | with_reducible refine State.dropAt_kept ?_
    | with_reducible refine State.takeIn_kept ?_
    | with_reducible refine resKept_next ?_
    | with_reducible refine kept_ite ?_ ?_
    | with_reducible refine resKept_ite ?_ ?_
    | split
    | dsimp only

theorem State.flushOne_kept {q₀ : List Instr} {s : State} {p : ℕ} {f : Frame} {charged : Bool} (h : s.Kept q₀) : (State.flushOne s p f charged).Kept q₀ := by
  unfold State.flushOne
  repeat' first
    | with_reducible assumption
    | with_reducible refine State.addTo_kept ?_
    | with_reducible refine State.bump_kept ?_
    | with_reducible refine State.uncharge_kept ?_
    | with_reducible refine State.dropAt_kept ?_
    | with_reducible refine kept_ite ?_ ?_
    | split
    | dsimp only

theorem State.flushParked_kept {q₀ : List Instr} {s : State} {p : ℕ} (h : s.Kept q₀) : (State.flushParked s p).Kept q₀ := by
  unfold State.flushParked
  repeat' first
    | with_reducible assumption
    | with_reducible refine State.wr_kept ?_
    | with_reducible refine State.poolGave_kept ?_
    | with_reducible refine State.setIngress_kept ?_
    | with_reducible refine State.pfcCheck_kept ?_
    | with_reducible refine State.flushOne_kept ?_
    | with_reducible refine kept_foldl ?_ (fun _ _ _ => ?_)
    | with_reducible refine kept_foldl_pair ?_ (fun _ _ _ _ => ?_)
    | with_reducible refine kept_ite ?_ ?_
    | split
    | refine kept_fst ‹_› ?_
    | dsimp only

theorem State.flushSelected_kept {q₀ : List Instr} {s : State} {p : ℕ} (h : s.Kept q₀) : (State.flushSelected s p).Kept q₀ := by
  unfold State.flushSelected
  repeat' first
    | with_reducible assumption
    | with_reducible refine State.setEgress_kept ?_
    | with_reducible refine State.flushOne_kept ?_
    | with_reducible refine kept_ite ?_ ?_
    | split
    | dsimp only

theorem State.flushPort_kept {q₀ : List Instr} {s0 : State} {p : ℕ} (h : s0.Kept q₀) : (State.flushPort s0 p).Kept q₀ := by
  unfold State.flushPort
  repeat' first
    | with_reducible assumption
    | with_reducible refine State.raise_kept ?_
    | with_reducible refine State.setQueue_kept ?_
    | with_reducible refine State.setEgress_kept ?_
    | with_reducible refine State.queueEmptied_kept ?_
    | with_reducible refine State.flushOne_kept ?_
    | with_reducible refine State.flushParked_kept ?_
    | with_reducible refine State.flushSelected_kept ?_
    | with_reducible refine kept_foldl ?_ (fun _ _ _ => ?_)
    | with_reducible refine kept_foldl_pair ?_ (fun _ _ _ _ => ?_)
    | with_reducible refine kept_ite ?_ ?_
    | split
    | refine kept_fst ‹_› ?_
    | dsimp only

theorem State.portDownNoRestart_kept {q₀ : List Instr} {s : State} {p : ℕ} {cause : ℕ} (h : s.Kept q₀) : (State.portDownNoRestart s p cause).Kept q₀ := by
  unfold State.portDownNoRestart
  repeat' first
    | with_reducible assumption
    | with_reducible refine State.wr_kept ?_
    | with_reducible refine State.bump_kept ?_
    | with_reducible refine State.raiseLimited_kept ?_
    | with_reducible refine State.synceLaneFailed_kept ?_
    | with_reducible refine State.setPtp_kept ?_
    | with_reducible refine State.setPort_kept ?_
    | with_reducible refine State.stopBringUp_kept ?_
    | with_reducible refine State.fdbPortDown_kept ?_
    | with_reducible refine State.resolveDcbx_kept ?_
    | with_reducible refine State.flushPort_kept ?_
    | with_reducible refine kept_ite ?_ ?_
    | split
    | dsimp only

theorem State.portDown_kept {q₀ : List Instr} {s : State} {p : ℕ} {cause : ℕ} (h : s.Kept q₀) : (State.portDown s p cause).Kept q₀ := by
  unfold State.portDown
  repeat' first
    | with_reducible assumption
    | with_reducible refine State.bringUp_kept ?_
    | with_reducible refine State.portDownNoRestart_kept ?_
    | with_reducible refine kept_ite ?_ ?_
    | split
    | dsimp only

theorem State.takeDown_kept {q₀ : List Instr} {s : State} {p : ℕ} {cause : ℕ} (h : s.Kept q₀) : (State.takeDown s p cause).Kept q₀ := by
  unfold State.takeDown
  repeat' first
    | with_reducible assumption
    | with_reducible refine State.wr_kept ?_
    | with_reducible refine State.stopBringUp_kept ?_
    | with_reducible refine State.bringUp_kept ?_
    | with_reducible refine State.portDown_kept ?_
    | with_reducible refine kept_ite ?_ ?_
    | split
    | dsimp only

theorem State.shaperCheck_kept {q₀ : List Instr} {s : State} {p : ℕ} (h : s.Kept q₀) : (State.shaperCheck s p).Kept q₀ := by
  unfold State.shaperCheck
  repeat' first
    | with_reducible assumption
    | with_reducible refine State.raise_kept ?_
    | with_reducible refine kept_ite ?_ ?_
    | split
    | dsimp only

theorem execLinkUpHold_kept {q₀ : List Instr} {p : PortId} {s : State} (h : s.Kept q₀) : ResKept (execLinkUpHold p s) q₀ := by
  unfold execLinkUpHold
  repeat' first
    | with_reducible assumption
    | with_reducible refine State.linkUp_kept ?_
    | with_reducible refine State.shaperCheck_kept ?_
    | with_reducible refine resKept_next ?_
    | with_reducible refine kept_ite ?_ ?_
    | with_reducible refine resKept_ite ?_ ?_
    | split
    | dsimp only

theorem execLinkDownCondition_kept {q₀ : List Instr} {p : PortId} {off : ℕ} {cause : ℕ} {s : State} (h : s.Kept q₀) : ResKept (execLinkDownCondition p off cause s) q₀ := by
  unfold execLinkDownCondition
  repeat' first
    | with_reducible assumption
    | with_reducible refine State.bump_kept ?_
    | with_reducible refine State.moveTo_kept ?_
    | with_reducible refine State.arm_kept ?_
    | with_reducible refine State.setPort_kept ?_
    | with_reducible refine State.bringUp_kept ?_
    | with_reducible refine resKept_next ?_
    | with_reducible refine kept_ite ?_ ?_
    | with_reducible refine resKept_ite ?_ ?_
    | split
    | dsimp only

theorem execLinkDownHold_kept {q₀ : List Instr} {p : PortId} {good : Bool} {s : State} (h : s.Kept q₀) : ResKept (execLinkDownHold p good s) q₀ := by
  unfold execLinkDownHold
  repeat' first
    | with_reducible assumption
    | with_reducible refine State.bump_kept ?_
    | with_reducible refine State.disarm_kept ?_
    | with_reducible refine State.setPort_kept ?_
    | with_reducible refine State.portDown_kept ?_
    | with_reducible refine resKept_next ?_
    | with_reducible refine kept_ite ?_ ?_
    | with_reducible refine resKept_ite ?_ ?_
    | split
    | dsimp only

theorem State.linksDownDue_kept {q₀ : List Instr} {s : State} (h : s.Kept q₀) : (State.linksDownDue s).Kept q₀ := by
  unfold State.linksDownDue
  repeat' first
    | with_reducible assumption
    | with_reducible refine State.portDown_kept ?_
    | with_reducible refine kept_foldl ?_ (fun _ _ _ => ?_)
    | with_reducible refine kept_foldl_pair ?_ (fun _ _ _ _ => ?_)
    | with_reducible refine kept_ite ?_ ?_
    | split
    | refine kept_fst ‹_› ?_
    | dsimp only

theorem State.pauseClass_kept {q₀ : List Instr} {s : State} {p : ℕ} {c : ℕ} {q1 : ℕ} (h : s.Kept q₀) : (State.pauseClass s p c q1).Kept q₀ := by
  unfold State.pauseClass
  repeat' first
    | with_reducible assumption
    | with_reducible refine State.arm_kept ?_
    | with_reducible refine State.disarm_kept ?_
    | with_reducible refine State.setQueue_kept ?_
    | with_reducible refine kept_ite ?_ ?_
    | split
    | dsimp only

theorem execPfc_kept {q₀ : List Instr} {p : PortId} {off : ℕ} {rx : RxFrame} {enable : ℕ} {quanta : List ℕ} {s : State} (h : s.Kept q₀) : ResKept (execPfc p off rx enable quanta s) q₀ := by
  unfold execPfc
  repeat' first
    | with_reducible assumption
    | with_reducible refine State.bump_kept ?_
    | with_reducible refine State.moveTo_kept ?_
    | with_reducible refine forEach_kept ?_ (fun _ _ _ => ?_)
    | with_reducible refine State.rxAccept_kept ?_
    | with_reducible refine State.pauseClass_kept ?_
    | with_reducible refine resKept_next ?_
    | with_reducible refine kept_ite ?_ ?_
    | with_reducible refine resKept_ite ?_ ?_
    | with_reducible refine kept_ite_fst ?_ ?_
    | split
    | refine kept_fst ‹_› ?_
    | dsimp only

theorem execPfcPauseExpiry_kept {q₀ : List Instr} {p : PortId} {c : ClassId} {off : ℕ} {s : State} (h : s.Kept q₀) : ResKept (execPfcPauseExpiry p c off s) q₀ := by
  unfold execPfcPauseExpiry
  repeat' first
    | with_reducible assumption
    | with_reducible refine State.moveTo_kept ?_
    | with_reducible refine State.disarm_kept ?_
    | with_reducible refine State.setQueue_kept ?_
    | with_reducible refine resKept_next ?_
    | with_reducible refine kept_ite ?_ ?_
    | with_reducible refine resKept_ite ?_ ?_
    | split
    | dsimp only

theorem State.mirrorCopy_kept {q₀ : List Instr} {s : State} {n : ℕ} {f : Frame} {egress : Bool} {port : ℕ} {time : ℕ} (h : s.Kept q₀) : (State.mirrorCopy s n f egress port time).Kept q₀ := by
  unfold State.mirrorCopy
  repeat' first
    | with_reducible assumption
    | with_reducible refine State.send_kept ?_
    | with_reducible refine State.newFrame_kept ?_
    | with_reducible refine kept_ite ?_ ?_
    | with_reducible refine kept_ite_fst ?_ ?_
    | split
    | refine kept_fst ‹_› ?_
    | dsimp only

theorem State.mirrorAll_kept {q₀ : List Instr} {s : State} {f : Frame} {egress : Bool} {port : ℕ} {time : ℕ} {mask : ℕ} (h : s.Kept q₀) : (State.mirrorAll s f egress port time mask).Kept q₀ := by
  unfold State.mirrorAll
  repeat' first
    | with_reducible assumption
    | with_reducible refine State.mirrorCopy_kept ?_
    | with_reducible refine kept_foldl ?_ (fun _ _ _ => ?_)
    | with_reducible refine kept_foldl_pair ?_ (fun _ _ _ _ => ?_)
    | with_reducible refine kept_ite ?_ ?_
    | split
    | refine kept_fst ‹_› ?_
    | dsimp only

end Sys2Proof.Machine
end

