-- ==== Sys2Proof/Laws/KeptCipher.lean ====
section
/-! SUPPORT. Laws/KeptCipher.lean: every operation of Machine/Cipher.lean keeps the queue and the canonical form. -/

namespace Sys2Proof.Machine

theorem State.setKeySlot_kept {q₀ : List Instr} {s : State} {n : ℕ} {x1 : KeySlot} (h : s.Kept q₀) : (State.setKeySlot s n x1).Kept q₀ := by
  unfold State.setKeySlot
  repeat' first
    | with_reducible assumption
    | with_reducible refine kept_ite ?_ ?_
    | split
    | dsimp only
    | with_reducible refine kept_cipher ?_

theorem State.useSlot_kept {q₀ : List Instr} {s : State} {n : ℕ} (h : s.Kept q₀) : (State.useSlot s n).Kept q₀ := by
  unfold State.useSlot
  repeat' first
    | with_reducible assumption
    | with_reducible refine State.setKeySlot_kept ?_
    | with_reducible refine kept_ite ?_ ?_
    | split
    | dsimp only

theorem State.setInline_kept {q₀ : List Instr} {s : State} {t1 : ℕ} {x1 : InlineCluster} (h : s.Kept q₀) : (State.setInline s t1 x1).Kept q₀ := by
  unfold State.setInline
  repeat' first
    | with_reducible assumption
    | with_reducible refine kept_ite ?_ ?_
    | split
    | dsimp only
    | with_reducible refine kept_cipher ?_

theorem State.inlineRequest_kept {q₀ : List Instr} {s : State} {p : ℕ} {cls : ℕ} {len : ℕ} (h : s.Kept q₀) : (State.inlineRequest s p cls len).Kept q₀ := by
  unfold State.inlineRequest
  repeat' first
    | with_reducible assumption
    | with_reducible refine State.bump_kept ?_
    | with_reducible refine State.setInline_kept ?_
    | with_reducible refine kept_ite ?_ ?_
    | split
    | dsimp only

theorem State.setSa_kept {q₀ : List Instr} {s : State} {p : ℕ} {channel : ℕ} {an : ℕ} {x1 : MacsecSa} (h : s.Kept q₀) : (State.setSa s p channel an x1).Kept q₀ := by
  unfold State.setSa
  repeat' first
    | with_reducible assumption
    | with_reducible refine kept_ite ?_ ?_
    | split
    | dsimp only
    | with_reducible refine kept_cipher ?_

theorem State.usePn_kept {q₀ : List Instr} {s : State} {n : ℕ} {pn : ℕ} (h : s.Kept q₀) : (State.usePn s n pn).Kept q₀ := by
  unfold State.usePn
  repeat' first
    | with_reducible assumption
    | with_reducible refine State.setKeySlot_kept ?_
    | with_reducible refine kept_ite ?_ ?_
    | split
    | dsimp only

theorem State.protect_kept {q₀ : List Instr} {s : State} {p : ℕ} {cls : ℕ} {bs : List Byte} (h : s.Kept q₀) : (State.protect s p cls bs).1.Kept q₀ := by
  unfold State.protect
  repeat' first
    | with_reducible assumption
    | with_reducible refine State.bump_kept ?_
    | with_reducible refine State.raise_kept ?_
    | with_reducible refine State.useSlot_kept ?_
    | with_reducible refine State.setSa_kept ?_
    | with_reducible refine State.usePn_kept ?_
    | with_reducible refine kept_ite ?_ ?_
    | with_reducible refine kept_ite_fst ?_ ?_
    | split
    | dsimp only

theorem State.unseal_kept {q₀ : List Instr} {s : State} {p : ℕ} {bs : List Byte} (h : s.Kept q₀) : (State.unseal s p bs).1.Kept q₀ := by
  unfold State.unseal
  repeat' first
    | with_reducible assumption
    | with_reducible refine State.bump_kept ?_
    | with_reducible refine State.useSlot_kept ?_
    | with_reducible refine State.setSa_kept ?_
    | with_reducible refine kept_ite ?_ ?_
    | with_reducible refine kept_ite_fst ?_ ?_
    | split
    | dsimp only

theorem State.macsecRx_kept {q₀ : List Instr} {s : State} {p : ℕ} {bs : List Byte} (h : s.Kept q₀) : (State.macsecRx s p bs).1.Kept q₀ := by
  unfold State.macsecRx
  repeat' first
    | with_reducible assumption
    | with_reducible refine State.bump_kept ?_
    | with_reducible refine State.unseal_kept ?_
    | with_reducible refine kept_ite ?_ ?_
    | with_reducible refine kept_ite_fst ?_ ?_
    | split
    | refine kept_fst ‹_› ?_
    | dsimp only

theorem State.sealedDrop_kept {q₀ : List Instr} {s : State} {p : ℕ} (h : s.Kept q₀) : (State.sealedDrop s p).Kept q₀ := by
  unfold State.sealedDrop
  repeat' first
    | with_reducible assumption
    | with_reducible refine State.bump_kept ?_
    | with_reducible refine State.raiseLimited_kept ?_
    | with_reducible refine kept_ite ?_ ?_
    | split
    | dsimp only

theorem State.setEsp_kept {q₀ : List Instr} {s : State} {slot : ℕ} {x1 : EspSa} (h : s.Kept q₀) : (State.setEsp s slot x1).Kept q₀ := by
  unfold State.setEsp
  repeat' first
    | with_reducible assumption
    | with_reducible refine kept_ite ?_ ?_
    | split
    | dsimp only
    | with_reducible refine kept_cipher ?_

theorem State.espDecrypt_kept {q₀ : List Instr} {s : State} {p : ℕ} {slot : ℕ} {bs : List Byte} {k : Parsed} (h : s.Kept q₀) : (State.espDecrypt s p slot bs k).1.Kept q₀ := by
  unfold State.espDecrypt
  repeat' first
    | with_reducible assumption
    | with_reducible refine State.bump_kept ?_
    | with_reducible refine State.useSlot_kept ?_
    | with_reducible refine State.setEsp_kept ?_
    | with_reducible refine kept_ite ?_ ?_
    | with_reducible refine kept_ite_fst ?_ ?_
    | split
    | dsimp only

theorem State.espEncrypt_kept {q₀ : List Instr} {s : State} {p : ℕ} {slot : ℕ} {bs : List Byte} {k : Parsed} (h : s.Kept q₀) : (State.espEncrypt s p slot bs k).1.Kept q₀ := by
  unfold State.espEncrypt
  repeat' first
    | with_reducible assumption
    | with_reducible refine State.bump_kept ?_
    | with_reducible refine State.useSlot_kept ?_
    | with_reducible refine State.setEsp_kept ?_
    | with_reducible refine kept_ite ?_ ?_
    | with_reducible refine kept_ite_fst ?_ ?_
    | split
    | dsimp only

theorem State.verifyFailed_kept {q₀ : List Instr} {s : State} {p : ℕ} (h : s.Kept q₀) : (State.verifyFailed s p).Kept q₀ := by
  unfold State.verifyFailed
  repeat' first
    | with_reducible assumption
    | with_reducible refine State.bump_kept ?_
    | with_reducible refine State.raiseLimited_kept ?_
    | with_reducible refine kept_ite ?_ ?_
    | split
    | dsimp only

end Sys2Proof.Machine
end

