-- ==== Sys2Proof/Laws/KeptClassify.lean ====
section
/-! SUPPORT. Laws/KeptClassify.lean: every operation of Machine/Classify.lean keeps the queue and the canonical form. -/

namespace Sys2Proof.Machine

theorem State.setTernary_kept {q₀ : List Instr} {s : State} {t1 : ℕ} {x1 : Ternary} (h : s.Kept q₀) : (State.setTernary s t1 x1).Kept q₀ := by
  unfold State.setTernary
  repeat' first
    | with_reducible assumption
    | with_reducible refine kept_ite ?_ ?_
    | split
    | dsimp only
    | with_reducible refine kept_classify ?_

theorem State.countRule_kept {q₀ : List Instr} {s : State} {t1 : ℕ} {id : ℕ} {n : ℕ} (h : s.Kept q₀) : (State.countRule s t1 id n).Kept q₀ := by
  unfold State.countRule
  repeat' first
    | with_reducible assumption
    | with_reducible refine kept_ite ?_ ?_
    | split
    | dsimp only
    | with_reducible refine kept_classify ?_

theorem State.countOverflow_kept {q₀ : List Instr} {s : State} {t1 : ℕ} {id : ℕ} (h : s.Kept q₀) : (State.countOverflow s t1 id).Kept q₀ := by
  unfold State.countOverflow
  repeat' first
    | with_reducible assumption
    | with_reducible refine State.raiseLimited_kept ?_
    | with_reducible refine kept_ite ?_ ?_
    | split
    | dsimp only
    | with_reducible refine kept_classify ?_

theorem State.flipTernary_kept {q₀ : List Instr} {s : State} {t1 : ℕ} {ops : List TernaryOp} (h : s.Kept q₀) : (State.flipTernary s t1 ops).Kept q₀ := by
  unfold State.flipTernary
  repeat' first
    | with_reducible assumption
    | with_reducible refine State.setTernary_kept ?_
    | with_reducible refine kept_foldl ?_ (fun _ _ _ => ?_)
    | with_reducible refine kept_foldl_pair ?_ (fun _ _ _ _ => ?_)
    | with_reducible refine kept_ite ?_ ?_
    | split
    | refine kept_fst ‹_› ?_
    | dsimp only
    | with_reducible refine kept_classify ?_

theorem State.setExact_kept {q₀ : List Instr} {s : State} {x1 : ℕ} {e1 : Exact} (h : s.Kept q₀) : (State.setExact s x1 e1).Kept q₀ := by
  unfold State.setExact
  repeat' first
    | with_reducible assumption
    | with_reducible refine kept_ite ?_ ?_
    | split
    | dsimp only
    | with_reducible refine kept_classify ?_

theorem State.flipExact_kept {q₀ : List Instr} {s : State} {x1 : ℕ} (h : s.Kept q₀) : (State.flipExact s x1).Kept q₀ := by
  unfold State.flipExact
  repeat' first
    | with_reducible assumption
    | with_reducible refine State.setExact_kept ?_
    | with_reducible refine kept_ite ?_ ?_
    | split
    | dsimp only

theorem execEpochCleanup_kept {q₀ : List Instr} {exact : Bool} {n : Fin 32} {s : State} (h : s.Kept q₀) : ResKept (execEpochCleanup exact n s) q₀ := by
  unfold execEpochCleanup
  repeat' first
    | with_reducible assumption
    | with_reducible refine State.setTernary_kept ?_
    | with_reducible refine State.setExact_kept ?_
    | with_reducible refine resKept_next ?_
    | with_reducible refine kept_ite ?_ ?_
    | with_reducible refine resKept_ite ?_ ?_
    | split
    | dsimp only

theorem State.exactCredit_kept {q₀ : List Instr} {s : State} (h : s.Kept q₀) : (State.exactCredit s).Kept q₀ := by
  unfold State.exactCredit
  repeat' first
    | with_reducible assumption
    | with_reducible refine forEach_kept ?_ (fun _ _ _ => ?_)
    | with_reducible refine kept_ite ?_ ?_
    | split
    | dsimp only
    | with_reducible refine kept_classify ?_

theorem State.exactLookup_kept {q₀ : List Instr} {s : State} {t1 : ℕ} {x1 : ℕ} {key : ℕ} (h : s.Kept q₀) : (State.exactLookup s t1 x1 key).1.Kept q₀ := by
  unfold State.exactLookup
  repeat' first
    | with_reducible assumption
    | with_reducible refine State.bump_kept ?_
    | with_reducible refine State.raiseLimited_kept ?_
    | with_reducible refine State.hbmRequest_kept ?_
    | with_reducible refine State.setExact_kept ?_
    | with_reducible refine kept_ite ?_ ?_
    | with_reducible refine kept_ite_fst ?_ ?_
    | split
    | dsimp only
    | with_reducible refine kept_classify ?_

theorem State.exactSweepRead_kept {q₀ : List Instr} {s : State} {x1 : ℕ} {first : ℕ} {count : ℕ} (h : s.Kept q₀) : (State.exactSweepRead s x1 first count).1.Kept q₀ := by
  unfold State.exactSweepRead
  repeat' first
    | with_reducible assumption
    | with_reducible refine State.setExact_kept ?_
    | with_reducible refine kept_ite ?_ ?_
    | with_reducible refine kept_ite_fst ?_ ?_
    | split
    | dsimp only

theorem State.exceptionTokens_kept {q₀ : List Instr} {s : State} (h : s.Kept q₀) : (State.exceptionTokens s).Kept q₀ := by
  unfold State.exceptionTokens
  repeat' first
    | with_reducible assumption
    | with_reducible refine forEach_kept ?_ (fun _ _ _ => ?_)
    | with_reducible refine kept_ite ?_ ?_
    | split
    | dsimp only
    | with_reducible refine kept_classify ?_

theorem State.exception_kept {q₀ : List Instr} {s : State} {t1 : ℕ} {reason : ℕ} {port : ℕ} {egress : Bool} {f : Frame} (h : s.Kept q₀) : (State.exception s t1 reason port egress f).Kept q₀ := by
  unfold State.exception
  repeat' first
    | with_reducible assumption
    | with_reducible refine State.bump_kept ?_
    | with_reducible refine State.raiseLimited_kept ?_
    | with_reducible refine State.send_kept ?_
    | with_reducible refine State.newFrame_kept ?_
    | with_reducible refine kept_ite ?_ ?_
    | with_reducible refine kept_ite_fst ?_ ?_
    | split
    | refine kept_fst ‹_› ?_
    | dsimp only
    | with_reducible refine kept_classify ?_

theorem State.setPolicer_kept {q₀ : List Instr} {s : State} {i : ℕ} {x1 : Policer} (h : s.Kept q₀) : (State.setPolicer s i x1).Kept q₀ := by
  unfold State.setPolicer
  repeat' first
    | with_reducible assumption
    | with_reducible refine kept_ite ?_ ?_
    | split
    | dsimp only
    | with_reducible refine kept_switch ?_

theorem State.police_kept {q₀ : List Instr} {s : State} {i : ℕ} {len : ℕ} {due : ℕ} {known : Bool} {dei : Bool} {cls : ℕ} (h : s.Kept q₀) : (State.police s i len due known dei cls).1.Kept q₀ := by
  unfold State.police
  repeat' first
    | with_reducible assumption
    | with_reducible refine State.setPolicer_kept ?_
    | with_reducible refine kept_ite ?_ ?_
    | with_reducible refine kept_ite_fst ?_ ?_
    | split
    | dsimp only

end Sys2Proof.Machine
end

