-- ==== Sys2Proof/Laws/KeptForwarding.lean ====
section
/-! SUPPORT. Laws/KeptForwarding.lean: every operation of Machine/Forwarding.lean keeps the queue and the canonical form. -/

namespace Sys2Proof.Machine

theorem State.sendRecord_kept {q₀ : List Instr} {s : State} {dest : ℕ} {bytes : List Byte} (h : s.Kept q₀) : (State.sendRecord s dest bytes).1.Kept q₀ := by
  unfold State.sendRecord
  repeat' first
    | with_reducible assumption
    | with_reducible refine State.holdCopy_kept ?_
    | with_reducible refine State.newFrame_kept ?_
    | with_reducible refine State.toQueue_kept ?_
    | with_reducible refine kept_ite ?_ ?_
    | with_reducible refine kept_ite_fst ?_ ?_
    | split
    | refine kept_fst ‹_› ?_
    | dsimp only

theorem State.fdbLookup_kept {q₀ : List Instr} {s : State} {t1 : ℕ} {fid : ℕ} {mac : ℕ} {seven : Bool} (h : s.Kept q₀) : (State.fdbLookup s t1 fid mac seven).1.Kept q₀ := by
  unfold State.fdbLookup
  repeat' first
    | with_reducible assumption
    | with_reducible refine State.hbmRequest_kept ?_
    | with_reducible refine kept_ite ?_ ?_
    | with_reducible refine kept_ite_fst ?_ ?_
    | split
    | dsimp only
    | with_reducible refine kept_fwd ?_

theorem State.fdbForward_kept {q₀ : List Instr} {s : State} {p : ℕ} {from_ : ℕ} {v : Vlan} {da : ℕ} {seven : Bool} (h : s.Kept q₀) : (State.fdbForward s p from_ v da seven).1.Kept q₀ := by
  unfold State.fdbForward
  repeat' first
    | with_reducible assumption
    | with_reducible refine State.bump_kept ?_
    | with_reducible refine State.fdbLookup_kept ?_
    | with_reducible refine kept_ite ?_ ?_
    | with_reducible refine kept_ite_fst ?_ ?_
    | split
    | refine kept_fst ‹_› ?_
    | dsimp only

theorem State.namedForward_kept {q₀ : List Instr} {s : State} {p : ℕ} {from_ : ℕ} {members : ℕ} {kind : ℕ} {dest : ℕ} (h : s.Kept q₀) : (State.namedForward s p from_ members kind dest).1.Kept q₀ := by
  unfold State.namedForward
  repeat' first
    | with_reducible assumption
    | with_reducible refine State.bump_kept ?_
    | with_reducible refine kept_ite ?_ ?_
    | with_reducible refine kept_ite_fst ?_ ?_
    | split
    | dsimp only

theorem State.learnNotify_kept {q₀ : List Instr} {s : State} {kind : ℕ} {fid : ℕ} {mac : ℕ} {old : ℕ} {new : ℕ} (h : s.Kept q₀) : (State.learnNotify s kind fid mac old new).Kept q₀ := by
  unfold State.learnNotify
  repeat' first
    | with_reducible assumption
    | with_reducible refine State.bump_kept ?_
    | with_reducible refine State.sendRecord_kept ?_
    | with_reducible refine kept_ite ?_ ?_
    | with_reducible refine kept_ite_fst ?_ ?_
    | split
    | refine kept_fst ‹_› ?_
    | dsimp only
    | with_reducible refine kept_fwd ?_

theorem State.countLearn_kept {q₀ : List Instr} {s : State} {t1 : ℕ} (h : s.Kept q₀) : (State.countLearn s t1).Kept q₀ := by
  unfold State.countLearn
  repeat' first
    | with_reducible assumption
    | with_reducible refine kept_ite ?_ ?_
    | split
    | dsimp only
    | with_reducible refine kept_fwd ?_

theorem State.limitReached_kept {q₀ : List Instr} {s : State} {p : ℕ} {a : ℕ} {fid : ℕ} {mac : ℕ} (h : s.Kept q₀) : (State.limitReached s p a fid mac).Kept q₀ := by
  unfold State.limitReached
  repeat' first
    | with_reducible assumption
    | with_reducible refine State.learnNotify_kept ?_
    | with_reducible refine kept_ite ?_ ?_
    | split
    | dsimp only

theorem State.learnNew_kept {q₀ : List Instr} {s : State} {p : ℕ} {a : ℕ} {fid : ℕ} {mac : ℕ} (h : s.Kept q₀) : (State.learnNew s p a fid mac).Kept q₀ := by
  unfold State.learnNew
  repeat' first
    | with_reducible assumption
    | with_reducible refine State.bump_kept ?_
    | with_reducible refine State.setFdb_kept ?_
    | with_reducible refine State.learnNotify_kept ?_
    | with_reducible refine State.countLearn_kept ?_
    | with_reducible refine State.limitReached_kept ?_
    | with_reducible refine kept_ite ?_ ?_
    | split
    | dsimp only

theorem State.oldPort_kept {q₀ : List Instr} {s : State} {e1 : FdbEntry} (h : s.Kept q₀) : (State.oldPort s e1).1.Kept q₀ := by
  unfold State.oldPort
  repeat' first
    | with_reducible assumption
    | with_reducible refine State.openBits_kept ?_
    | with_reducible refine kept_ite ?_ ?_
    | with_reducible refine kept_ite_fst ?_ ?_
    | split
    | refine kept_fst ‹_› ?_
    | dsimp only

theorem State.learnMove_kept {q₀ : List Instr} {s : State} {p : ℕ} {a : ℕ} {e1 : FdbEntry} (h : s.Kept q₀) : (State.learnMove s p a e1).Kept q₀ := by
  unfold State.learnMove
  repeat' first
    | with_reducible assumption
    | with_reducible refine State.bump_kept ?_
    | with_reducible refine State.raiseLimited_kept ?_
    | with_reducible refine State.setFdb_kept ?_
    | with_reducible refine State.learnNotify_kept ?_
    | with_reducible refine State.countLearn_kept ?_
    | with_reducible refine State.limitReached_kept ?_
    | with_reducible refine State.oldPort_kept ?_
    | with_reducible refine kept_ite ?_ ?_
    | with_reducible refine kept_ite_fst ?_ ?_
    | split
    | refine kept_fst ‹_› ?_
    | dsimp only
    | with_reducible refine kept_fwd ?_

theorem State.hitEntry_kept {q₀ : List Instr} {s : State} {e1 : FdbEntry} (h : s.Kept q₀) : (State.hitEntry s e1).Kept q₀ := by
  unfold State.hitEntry
  repeat' first
    | with_reducible assumption
    | with_reducible refine kept_ite ?_ ?_
    | split
    | dsimp only
    | with_reducible refine kept_fwd ?_

theorem State.learn_kept {q₀ : List Instr} {s : State} {p : ℕ} {v : Vlan} {mac : ℕ} {seven : Bool} (h : s.Kept q₀) : (State.learn s p v mac seven).1.Kept q₀ := by
  unfold State.learn
  repeat' first
    | with_reducible assumption
    | with_reducible refine State.bump_kept ?_
    | with_reducible refine State.raiseLimited_kept ?_
    | with_reducible refine State.fdbLookup_kept ?_
    | with_reducible refine State.learnNotify_kept ?_
    | with_reducible refine State.learnNew_kept ?_
    | with_reducible refine State.oldPort_kept ?_
    | with_reducible refine State.learnMove_kept ?_
    | with_reducible refine State.hitEntry_kept ?_
    | with_reducible refine kept_ite ?_ ?_
    | with_reducible refine kept_ite_fst ?_ ?_
    | split
    | refine kept_fst ‹_› ?_
    | dsimp only

theorem State.fwdBoundary_kept {q₀ : List Instr} {s : State} (h : s.Kept q₀) : (State.fwdBoundary s).Kept q₀ := by
  unfold State.fwdBoundary
  repeat' first
    | with_reducible assumption
    | with_reducible refine kept_ite ?_ ?_
    | split
    | dsimp only
    | with_reducible refine kept_fwd ?_

theorem State.redCheck_kept {q₀ : List Instr} {s : State} {r : ℕ} {mac : ℕ} {seq : ℕ} (h : s.Kept q₀) : (State.redCheck s r mac seq).1.Kept q₀ := by
  unfold State.redCheck
  repeat' first
    | with_reducible assumption
    | with_reducible refine State.bump_kept ?_
    | with_reducible refine State.arm_kept ?_
    | with_reducible refine kept_ite ?_ ?_
    | with_reducible refine kept_ite_fst ?_ ?_
    | split
    | dsimp only
    | with_reducible refine kept_redundancy ?_

theorem State.redReceive_kept {q₀ : List Instr} {s : State} {p : ℕ} {fid : ℕ} {bs : List Byte} (h : s.Kept q₀) : (State.redReceive s p fid bs).1.Kept q₀ := by
  unfold State.redReceive
  repeat' first
    | with_reducible assumption
    | with_reducible refine State.bump_kept ?_
    | with_reducible refine State.redCheck_kept ?_
    | with_reducible refine kept_ite ?_ ?_
    | with_reducible refine kept_ite_fst ?_ ?_
    | split
    | refine kept_fst ‹_› ?_
    | dsimp only

theorem State.redNumber_kept {q₀ : List Instr} {s : State} {r : ℕ} {mac : ℕ} (h : s.Kept q₀) : (State.redNumber s r mac).1.Kept q₀ := by
  unfold State.redNumber
  repeat' first
    | with_reducible assumption
    | with_reducible refine kept_ite ?_ ?_
    | with_reducible refine kept_ite_fst ?_ ?_
    | split
    | dsimp only
    | with_reducible refine kept_redundancy ?_

theorem State.redNumbers_kept {q₀ : List Instr} {s : State} {mac : ℕ} {ports : List ℕ} (h : s.Kept q₀) : (State.redNumbers s mac ports).1.Kept q₀ := by
  unfold State.redNumbers
  repeat' first
    | with_reducible assumption
    | with_reducible refine State.redNumber_kept ?_
    | with_reducible refine kept_foldl ?_ (fun _ _ _ => ?_)
    | with_reducible refine kept_foldl_pair ?_ (fun _ _ _ _ => ?_)
    | with_reducible refine kept_ite ?_ ?_
    | with_reducible refine kept_ite_fst ?_ ?_
    | split
    | refine kept_fst ‹_› ?_
    | dsimp only

theorem execNodeForgetTime_kept {q₀ : List Instr} {pair : Fin 64} {mac : BitVec 48} {s : State} (h : s.Kept q₀) : ResKept (execNodeForgetTime pair mac s) q₀ := by
  unfold execNodeForgetTime
  repeat' first
    | with_reducible assumption
    | with_reducible refine State.disarm_kept ?_
    | with_reducible refine resKept_next ?_
    | with_reducible refine kept_ite ?_ ?_
    | with_reducible refine resKept_ite ?_ ?_
    | split
    | dsimp only
    | with_reducible refine kept_redundancy ?_

theorem State.redBoundary_kept {q₀ : List Instr} {s : State} (h : s.Kept q₀) : (State.redBoundary s).Kept q₀ := by
  unfold State.redBoundary
  repeat' first
    | with_reducible assumption
    | with_reducible refine State.arm_kept ?_
    | with_reducible refine State.disarm_kept ?_
    | with_reducible refine forEach_kept ?_ (fun _ _ _ => ?_)
    | with_reducible refine kept_ite ?_ ?_
    | split
    | dsimp only
    | with_reducible refine kept_redundancy ?_

theorem execRedundancyDegraded_kept {q₀ : List Instr} {pair : Fin 64} {s : State} (h : s.Kept q₀) : ResKept (execRedundancyDegraded pair s) q₀ := by
  unfold execRedundancyDegraded
  repeat' first
    | with_reducible assumption
    | with_reducible refine State.raise_kept ?_
    | with_reducible refine resKept_next ?_
    | with_reducible refine kept_ite ?_ ?_
    | with_reducible refine resKept_ite ?_ ?_
    | split
    | dsimp only
    | with_reducible refine kept_redundancy ?_

theorem State.sendWall_kept {q₀ : List Instr} {s : State} {p : ℕ} {type : ℕ} (h : s.Kept q₀) : (State.sendWall s p type).Kept q₀ := by
  unfold State.sendWall
  repeat' first
    | with_reducible assumption
    | with_reducible refine State.emit_kept ?_
    | with_reducible refine kept_ite ?_ ?_
    | split
    | dsimp only
    | with_reducible refine kept_wall ?_

theorem State.sendHellos_kept {q₀ : List Instr} {s : State} (h : s.Kept q₀) : (State.sendHellos s).Kept q₀ := by
  unfold State.sendHellos
  repeat' first
    | with_reducible assumption
    | with_reducible refine State.arm_kept ?_
    | with_reducible refine forEach_kept ?_ (fun _ _ _ => ?_)
    | with_reducible refine State.sendWall_kept ?_
    | with_reducible refine kept_ite ?_ ?_
    | split
    | dsimp only
    | with_reducible refine kept_wall ?_

theorem execHelloInterval_kept {q₀ : List Instr} {off : ℕ} {s : State} (h : s.Kept q₀) : ResKept (execHelloInterval off s) q₀ := by
  unfold execHelloInterval
  repeat' first
    | with_reducible assumption
    | with_reducible refine State.moveTo_kept ?_
    | with_reducible refine State.sendHellos_kept ?_
    | with_reducible refine resKept_next ?_
    | with_reducible refine kept_ite ?_ ?_
    | with_reducible refine resKept_ite ?_ ?_
    | split
    | dsimp only

theorem State.helloCheck_kept {q₀ : List Instr} {s : State} (h : s.Kept q₀) : (State.helloCheck s).Kept q₀ := by
  unfold State.helloCheck
  repeat' first
    | with_reducible assumption
    | with_reducible refine State.sendHellos_kept ?_
    | with_reducible refine kept_ite ?_ ?_
    | split
    | dsimp only

theorem State.wallJudge_kept {q₀ : List Instr} {s : State} (h : s.Kept q₀) : (State.wallJudge s).Kept q₀ := by
  unfold State.wallJudge
  repeat' first
    | with_reducible assumption
    | with_reducible refine State.wr_kept ?_
    | with_reducible refine State.raise_kept ?_
    | with_reducible refine kept_ite ?_ ?_
    | split
    | dsimp only

theorem State.wallBoundary_kept {q₀ : List Instr} {s : State} (h : s.Kept q₀) : (State.wallBoundary s).Kept q₀ := by
  unfold State.wallBoundary
  repeat' first
    | with_reducible assumption
    | with_reducible refine State.wr_kept ?_
    | with_reducible refine State.raise_kept ?_
    | with_reducible refine State.helloCheck_kept ?_
    | with_reducible refine State.wallJudge_kept ?_
    | with_reducible refine kept_foldl ?_ (fun _ _ _ => ?_)
    | with_reducible refine kept_foldl_pair ?_ (fun _ _ _ _ => ?_)
    | with_reducible refine kept_ite ?_ ?_
    | split
    | refine kept_fst ‹_› ?_
    | dsimp only
    | with_reducible refine kept_wall ?_

theorem State.hopDelay_kept {q₀ : List Instr} {s : State} {p : ℕ} {h1 : WallHeader} (h : s.Kept q₀) : (State.hopDelay s p h1).1.Kept q₀ := by
  unfold State.hopDelay
  repeat' first
    | with_reducible assumption
    | with_reducible refine State.bump_kept ?_
    | with_reducible refine kept_ite ?_ ?_
    | with_reducible refine kept_ite_fst ?_ ?_
    | split
    | dsimp only

theorem execWallHello_kept {q₀ : List Instr} {p : PortId} {off : ℕ} {h1 : WallHeader} {s : State} (h : s.Kept q₀) : ResKept (execWallHello p off h1 s) q₀ := by
  unfold execWallHello
  repeat' first
    | with_reducible assumption
    | with_reducible refine State.bump_kept ?_
    | with_reducible refine State.moveTo_kept ?_
    | with_reducible refine State.arm_kept ?_
    | with_reducible refine State.raise_kept ?_
    | with_reducible refine State.helloCheck_kept ?_
    | with_reducible refine State.wallJudge_kept ?_
    | with_reducible refine State.hopDelay_kept ?_
    | with_reducible refine resKept_next ?_
    | with_reducible refine kept_ite ?_ ?_
    | with_reducible refine resKept_ite ?_ ?_
    | with_reducible refine kept_ite_fst ?_ ?_
    | split
    | refine kept_fst ‹_› ?_
    | dsimp only
    | with_reducible refine kept_wall ?_

theorem execNeighbourLost_kept {q₀ : List Instr} {p : PortId} {device : Fin 512} {s : State} (h : s.Kept q₀) : ResKept (execNeighbourLost p device s) q₀ := by
  unfold execNeighbourLost
  repeat' first
    | with_reducible assumption
    | with_reducible refine State.disarm_kept ?_
    | with_reducible refine State.helloCheck_kept ?_
    | with_reducible refine State.wallJudge_kept ?_
    | with_reducible refine resKept_next ?_
    | with_reducible refine kept_ite ?_ ?_
    | with_reducible refine resKept_ite ?_ ?_
    | split
    | dsimp only
    | with_reducible refine kept_wall ?_

theorem State.wallDeliver_kept {q₀ : List Instr} {s : State} {p : ℕ} {h1 : WallHeader} {pdu : List Byte} (h : s.Kept q₀) : (State.wallDeliver s p h1 pdu).1.Kept q₀ := by
  unfold State.wallDeliver
  repeat' first
    | with_reducible assumption
    | with_reducible refine State.bump_kept ?_
    | with_reducible refine State.sendRecord_kept ?_
    | with_reducible refine State.hopDelay_kept ?_
    | with_reducible refine kept_ite ?_ ?_
    | with_reducible refine kept_ite_fst ?_ ?_
    | split
    | refine kept_fst ‹_› ?_
    | dsimp only

theorem execWallSync_kept {q₀ : List Instr} {p : PortId} {off : ℕ} {h1 : WallHeader} {records : List SyncRecord} {s : State} (h : s.Kept q₀) : ResKept (execWallSync p off h1 records s) q₀ := by
  unfold execWallSync
  repeat' first
    | with_reducible assumption
    | with_reducible refine State.moveTo_kept ?_
    | with_reducible refine State.sendWall_kept ?_
    | with_reducible refine State.wallDeliver_kept ?_
    | with_reducible refine resKept_next ?_
    | with_reducible refine kept_ite ?_ ?_
    | with_reducible refine resKept_ite ?_ ?_
    | with_reducible refine kept_ite_fst ?_ ?_
    | split
    | refine kept_fst ‹_› ?_
    | dsimp only
    | with_reducible refine kept_wall ?_

theorem execSyncAcknowledgement_kept {q₀ : List Instr} {p : PortId} {off : ℕ} {h1 : WallHeader} {s : State} (h : s.Kept q₀) : ResKept (execSyncAcknowledgement p off h1 s) q₀ := by
  unfold execSyncAcknowledgement
  repeat' first
    | with_reducible assumption
    | with_reducible refine State.moveTo_kept ?_
    | with_reducible refine State.wallDeliver_kept ?_
    | with_reducible refine resKept_next ?_
    | with_reducible refine kept_ite ?_ ?_
    | with_reducible refine resKept_ite ?_ ?_
    | with_reducible refine kept_ite_fst ?_ ?_
    | split
    | refine kept_fst ‹_› ?_
    | dsimp only

theorem execResyncRequest_kept {q₀ : List Instr} {p : PortId} {off : ℕ} {h1 : WallHeader} {s : State} (h : s.Kept q₀) : ResKept (execResyncRequest p off h1 s) q₀ := by
  unfold execResyncRequest
  repeat' first
    | with_reducible assumption
    | with_reducible refine State.moveTo_kept ?_
    | with_reducible refine State.wallDeliver_kept ?_
    | with_reducible refine resKept_next ?_
    | with_reducible refine kept_ite ?_ ?_
    | with_reducible refine resKept_ite ?_ ?_
    | with_reducible refine kept_ite_fst ?_ ?_
    | split
    | refine kept_fst ‹_› ?_
    | dsimp only

theorem State.syncApply_kept {q₀ : List Instr} {s : State} {op : ℕ} {e1 : FdbEntry} (h : s.Kept q₀) : (State.syncApply s op e1).Kept q₀ := by
  unfold State.syncApply
  repeat' first
    | with_reducible assumption
    | with_reducible refine State.setFdb_kept ?_
    | with_reducible refine kept_ite ?_ ?_
    | split
    | dsimp only

theorem State.syncBoundary_kept {q₀ : List Instr} {s : State} (h : s.Kept q₀) : (State.syncBoundary s).Kept q₀ := by
  unfold State.syncBoundary
  repeat' first
    | with_reducible assumption
    | with_reducible refine State.wr_kept ?_
    | with_reducible refine State.raise_kept ?_
    | with_reducible refine State.syncApply_kept ?_
    | with_reducible refine kept_foldl ?_ (fun _ _ _ => ?_)
    | with_reducible refine kept_foldl_pair ?_ (fun _ _ _ _ => ?_)
    | with_reducible refine kept_ite ?_ ?_
    | split
    | refine kept_fst ‹_› ?_
    | dsimp only
    | with_reducible refine kept_wall ?_

end Sys2Proof.Machine
end

