-- ==== Sys2Proof/Laws/KeptPrograms.lean ====
section
/-! SUPPORT. Laws/KeptPrograms.lean: every operation of Machine/Programs.lean keeps the queue and the canonical form. -/

namespace Sys2Proof.Machine

theorem State.applyPrograms_kept {q₀ : List Instr} {s : State} {t1 : ℕ} {signed : Bool} {ops : List ProgOp} (h : s.Kept q₀) : (State.applyPrograms s t1 signed ops).Kept q₀ := by
  unfold State.applyPrograms
  repeat' first
    | with_reducible assumption
    | with_reducible refine kept_foldl ?_ (fun _ _ _ => ?_)
    | with_reducible refine kept_foldl_pair ?_ (fun _ _ _ _ => ?_)
    | with_reducible refine kept_ite ?_ ?_
    | split
    | refine kept_fst ‹_› ?_
    | dsimp only
    | with_reducible refine kept_trowel ?_

theorem State.setPipe_kept {q₀ : List Instr} {s : State} {q1 : ℕ} {x1 : Pipe} (h : s.Kept q₀) : (State.setPipe s q1 x1).Kept q₀ := by
  unfold State.setPipe
  repeat' first
    | with_reducible assumption
    | with_reducible refine kept_ite ?_ ?_
    | split
    | dsimp only
    | with_reducible refine kept_trowel ?_

theorem State.setRun_kept {q₀ : List Instr} {s : State} {e1 : ℕ} {r : Option Run} (h : s.Kept q₀) : (State.setRun s e1 r).Kept q₀ := by
  unfold State.setRun
  repeat' first
    | with_reducible assumption
    | with_reducible refine kept_ite ?_ ?_
    | split
    | dsimp only
    | with_reducible refine kept_trowel ?_

theorem State.memoryWrite_kept {q₀ : List Instr} {s : State} {q1 : ℕ} {address : ℕ} {words : List ℕ} (h : s.Kept q₀) : (State.memoryWrite s q1 address words).Kept q₀ := by
  unfold State.memoryWrite
  repeat' first
    | with_reducible assumption
    | with_reducible refine kept_foldl ?_ (fun _ _ _ => ?_)
    | with_reducible refine kept_foldl_pair ?_ (fun _ _ _ _ => ?_)
    | with_reducible refine kept_ite ?_ ?_
    | split
    | refine kept_fst ‹_› ?_
    | dsimp only
    | with_reducible refine kept_trowel ?_

theorem State.applyPatch_kept {q₀ : List Instr} {s : State} {p0 : Patch} (h : s.Kept q₀) : (State.applyPatch s p0).Kept q₀ := by
  unfold State.applyPatch
  repeat' first
    | with_reducible assumption
    | with_reducible refine State.wr_kept ?_
    | with_reducible refine kept_ite ?_ ?_
    | split
    | dsimp only
    | with_reducible refine kept_trowel ?_

end Sys2Proof.Machine
end

