-- ==== Sys2Proof/Laws/KeptIngress.lean ====
section
/-! SUPPORT. Laws/KeptIngress.lean: every operation of Machine/Ingress.lean keeps the queue and the canonical form. -/

namespace Sys2Proof.Machine

theorem State.sendAll_kept {q₀ : List Instr} {s : State} {f : Frame} {dsts : List Dst} (h : s.Kept q₀) : (State.sendAll s f dsts).Kept q₀ := by
  unfold State.sendAll
  repeat' first
    | with_reducible assumption
    | with_reducible refine State.send_kept ?_
    | with_reducible refine State.redNumbers_kept ?_
    | with_reducible refine kept_foldl ?_ (fun _ _ _ => ?_)
    | with_reducible refine kept_foldl_pair ?_ (fun _ _ _ _ => ?_)
    | with_reducible refine kept_ite ?_ ?_
    | with_reducible refine kept_ite_fst ?_ ?_
    | split
    | refine kept_fst ‹_› ?_
    | dsimp only

theorem State.trapFrame_kept {q₀ : List Instr} {s : State} {p : ℕ} {reason : ℕ} {clear : Bool} {f : Frame} (h : s.Kept q₀) : (State.trapFrame s p reason clear f).Kept q₀ := by
  unfold State.trapFrame
  repeat' first
    | with_reducible assumption
    | with_reducible refine State.sealedDrop_kept ?_
    | with_reducible refine State.exception_kept ?_
    | with_reducible refine kept_ite ?_ ?_
    | split
    | dsimp only

theorem State.leavePipeline_kept {q₀ : List Instr} {s : State} {j : Job} (h : s.Kept q₀) : (State.leavePipeline s j).Kept q₀ := by
  unfold State.leavePipeline
  repeat' first
    | with_reducible assumption
    | with_reducible refine State.sealedDrop_kept ?_
    | with_reducible refine State.exception_kept ?_
    | with_reducible refine State.sendAll_kept ?_
    | with_reducible refine kept_ite ?_ ?_
    | split
    | dsimp only
    | with_reducible refine kept_rdma ?_

theorem State.drainPipe_kept {q₀ : List Instr} {s : State} {q1 : ℕ} (h : s.Kept q₀) : (State.drainPipe s q1).Kept q₀ := by
  unfold State.drainPipe
  repeat' first
    | with_reducible assumption
    | with_reducible refine State.setPipe_kept ?_
    | with_reducible refine State.leavePipeline_kept ?_
    | with_reducible refine kept_foldl ?_ (fun _ _ _ => ?_)
    | with_reducible refine kept_foldl_pair ?_ (fun _ _ _ _ => ?_)
    | with_reducible refine kept_ite ?_ ?_
    | split
    | refine kept_fst ‹_› ?_
    | dsimp only

theorem State.queueJob_kept {q₀ : List Instr} {s : State} {q1 : ℕ} {j : Job} (h : s.Kept q₀) : (State.queueJob s q1 j).Kept q₀ := by
  unfold State.queueJob
  repeat' first
    | with_reducible assumption
    | with_reducible refine State.setPipe_kept ?_
    | with_reducible refine kept_ite ?_ ?_
    | split
    | dsimp only

theorem State.enterPipe_kept {q₀ : List Instr} {s : State} {q1 : ℕ} {j : Job} (h : s.Kept q₀) : (State.enterPipe s q1 j).Kept q₀ := by
  unfold State.enterPipe
  repeat' first
    | with_reducible assumption
    | with_reducible refine State.drainPipe_kept ?_
    | with_reducible refine State.queueJob_kept ?_
    | with_reducible refine kept_ite ?_ ?_
    | split
    | dsimp only

theorem State.classify__kept {q₀ : List Instr} {s : State} {t1 : ℕ} {p : ℕ} {pipeline : ℕ} {kind : ℕ} {key : ℕ} {len : ℕ} {seven : Bool} {count : Bool} (h : s.Kept q₀) : (State.classify_ s t1 p pipeline kind key len seven count).1.Kept q₀ := by
  unfold State.classify_
  repeat' first
    | with_reducible assumption
    | with_reducible refine State.bump_kept ?_
    | with_reducible refine State.countRule_kept ?_
    | with_reducible refine State.exactLookup_kept ?_
    | with_reducible refine kept_ite ?_ ?_
    | with_reducible refine kept_ite_fst ?_ ?_
    | split
    | refine kept_fst ‹_› ?_
    | dsimp only

theorem State.countParse_kept {q₀ : List Instr} {s : State} {p : ℕ} {k : Parsed} (h : s.Kept q₀) : (State.countParse s p k).Kept q₀ := by
  unfold State.countParse
  repeat' first
    | with_reducible assumption
    | with_reducible refine State.bump_kept ?_
    | with_reducible refine kept_ite ?_ ?_
    | split
    | dsimp only

theorem State.trowelStep_kept {q₀ : List Instr} {s : State} {p : ℕ} {a : Action} {rule : Option ℕ} {clear : Bool} {f : Frame} (h : s.Kept q₀) : (State.trowelStep s p a rule clear f).1.Kept q₀ := by
  unfold State.trowelStep
  repeat' first
    | with_reducible assumption
    | with_reducible refine State.countOverflow_kept ?_
    | with_reducible refine State.trapFrame_kept ?_
    | with_reducible refine kept_ite ?_ ?_
    | with_reducible refine kept_ite_fst ?_ ?_
    | split
    | dsimp only
    | with_reducible refine kept_classify ?_

theorem State.verifyAction_kept {q₀ : List Instr} {s : State} {p : ℕ} {clear : Bool} {f : Frame} (h : s.Kept q₀) : (State.verifyAction s p clear f).Kept q₀ := by
  unfold State.verifyAction
  repeat' first
    | with_reducible assumption
    | with_reducible refine State.trapFrame_kept ?_
    | with_reducible refine kept_ite ?_ ?_
    | split
    | dsimp only

theorem State.cipherStep_kept {q₀ : List Instr} {s0 : State} {p : ℕ} {a : Action} {clear : Bool} {f : Frame} {k : Parsed} (h : s0.Kept q₀) : (State.cipherStep s0 p a clear f k).1.Kept q₀ := by
  unfold State.cipherStep
  repeat' first
    | with_reducible assumption
    | with_reducible refine State.useSlot_kept ?_
    | with_reducible refine State.inlineRequest_kept ?_
    | with_reducible refine State.espEncrypt_kept ?_
    | with_reducible refine State.verifyFailed_kept ?_
    | with_reducible refine State.verifyAction_kept ?_
    | with_reducible refine kept_ite ?_ ?_
    | with_reducible refine kept_ite_fst ?_ ?_
    | split
    | refine kept_fst ‹_› ?_
    | dsimp only

theorem State.applyAction_kept {q₀ : List Instr} {s : State} {p : ℕ} {a : Action} {rule : Option ℕ} {x1 : Passing} {order : ℕ} (h : s.Kept q₀) : (State.applyAction s p a rule x1 order).Kept q₀ := by
  unfold State.applyAction
  repeat' first
    | with_reducible assumption
    | with_reducible refine State.mirrorAll_kept ?_
    | with_reducible refine State.police_kept ?_
    | with_reducible refine State.fdbForward_kept ?_
    | with_reducible refine State.namedForward_kept ?_
    | with_reducible refine State.enterPipe_kept ?_
    | with_reducible refine State.trowelStep_kept ?_
    | with_reducible refine State.cipherStep_kept ?_
    | with_reducible refine kept_ite ?_ ?_
    | with_reducible refine kept_ite_fst ?_ ?_
    | extract_lets
    | split
    | refine kept_fst ‹_› ?_
    | dsimp only

theorem State.carryOut_kept {q₀ : List Instr} {s : State} {p : ℕ} {v : Verdict} {x1 : Passing} {order : ℕ} (h : s.Kept q₀) : (State.carryOut s p v x1 order).Kept q₀ := by
  unfold State.carryOut
  repeat' first
    | with_reducible assumption
    | with_reducible refine State.trapFrame_kept ?_
    | with_reducible refine State.applyAction_kept ?_
    | with_reducible refine kept_ite ?_ ?_
    | split
    | dsimp only

theorem State.innerStep_kept {q₀ : List Instr} {s : State} {p : ℕ} {x1 : Passing} {order : ℕ} {bad : Bool} {bs : List Byte} (h : s.Kept q₀) : (State.innerStep s p x1 order bad bs).Kept q₀ := by
  unfold State.innerStep
  repeat' first
    | with_reducible assumption
    | with_reducible refine State.bump_kept ?_
    | with_reducible refine State.classify__kept ?_
    | with_reducible refine State.countParse_kept ?_
    | with_reducible refine State.carryOut_kept ?_
    | with_reducible refine kept_ite ?_ ?_
    | with_reducible refine kept_ite_fst ?_ ?_
    | split
    | refine kept_fst ‹_› ?_
    | dsimp only

theorem State.espStep_kept {q₀ : List Instr} {s : State} {p : ℕ} {a : Action} {rule : Option ℕ} {x1 : Passing} {order : ℕ} (h : s.Kept q₀) : (State.espStep s p a rule x1 order).Kept q₀ := by
  unfold State.espStep
  repeat' first
    | with_reducible assumption
    | with_reducible refine State.bump_kept ?_
    | with_reducible refine State.inlineRequest_kept ?_
    | with_reducible refine State.espDecrypt_kept ?_
    | with_reducible refine State.verifyFailed_kept ?_
    | with_reducible refine State.verifyAction_kept ?_
    | with_reducible refine State.innerStep_kept ?_
    | with_reducible refine kept_ite ?_ ?_
    | with_reducible refine kept_ite_fst ?_ ?_
    | split
    | refine kept_fst ‹_› ?_
    | dsimp only

theorem State.classifyFrame_kept {q₀ : List Instr} {s : State} {p : ℕ} {stamp : ℕ} {course : ℕ} {bad : Bool} {bs : List Byte} {k : Parsed} {channel : Option ℕ} {checked : Bool} {clear : Bool} (h : s.Kept q₀) : (State.classifyFrame s p stamp course bad bs k channel checked clear).Kept q₀ := by
  unfold State.classifyFrame
  repeat' first
    | with_reducible assumption
    | with_reducible refine State.bump_kept ?_
    | with_reducible refine State.send_kept ?_
    | with_reducible refine State.newFrame_kept ?_
    | with_reducible refine State.inlineRequest_kept ?_
    | with_reducible refine State.learn_kept ?_
    | with_reducible refine State.redReceive_kept ?_
    | with_reducible refine State.classify__kept ?_
    | with_reducible refine State.countParse_kept ?_
    | with_reducible refine State.carryOut_kept ?_
    | with_reducible refine State.espStep_kept ?_
    | with_reducible refine kept_ite ?_ ?_
    | with_reducible refine kept_ite_fst ?_ ?_
    | split
    | refine kept_fst ‹_› ?_
    | dsimp only

theorem State.macControl_kept {q₀ : List Instr} {s : State} {p : PortId} {off : ℕ} {bs : List Byte} (h : s.Kept q₀) : ResKept (State.macControl s p off bs) q₀ := by
  unfold State.macControl
  repeat' first
    | with_reducible assumption
    | with_reducible refine State.bump_kept ?_
    | with_reducible refine State.countRx_kept ?_
    | with_reducible refine execPause_kept ?_
    | with_reducible refine execPfc_kept ?_
    | with_reducible refine resKept_next ?_
    | with_reducible refine kept_ite ?_ ?_
    | with_reducible refine resKept_ite ?_ ?_
    | split
    | dsimp only

theorem State.received_kept {q₀ : List Instr} {s : State} {p : ℕ} {stamp : ℕ} {bad : Bool} {bs : List Byte} {channel : Option ℕ} {checked : Bool} {clear : Bool} (h : s.Kept q₀) : (State.received s p stamp bad bs channel checked clear).Kept q₀ := by
  unfold State.received
  repeat' first
    | with_reducible assumption
    | with_reducible refine State.countLldpdu_kept ?_
    | with_reducible refine State.sendRecord_kept ?_
    | with_reducible refine State.classifyFrame_kept ?_
    | with_reducible refine kept_ite ?_ ?_
    | with_reducible refine kept_ite_fst ?_ ?_
    | split
    | refine kept_fst ‹_› ?_
    | dsimp only

theorem execFrameReceive_kept {q₀ : List Instr} {p : PortId} {off : ℕ} {bytes : List Byte} {fcsGood : Bool} {s : State} (h : s.Kept q₀) : ResKept (execFrameReceive p off bytes fcsGood s) q₀ := by
  unfold execFrameReceive
  repeat' first
    | with_reducible assumption
    | with_reducible refine State.bump_kept ?_
    | with_reducible refine State.moveTo_kept ?_
    | with_reducible refine State.countRx_kept ?_
    | with_reducible refine State.macsecRx_kept ?_
    | with_reducible refine State.macControl_kept ?_
    | with_reducible refine State.received_kept ?_
    | with_reducible refine resKept_next ?_
    | with_reducible refine kept_ite ?_ ?_
    | with_reducible refine resKept_ite ?_ ?_
    | with_reducible refine kept_ite_fst ?_ ?_
    | split
    | refine kept_fst ‹_› ?_
    | dsimp only

end Sys2Proof.Machine
end

