-- ==== Sys2Proof/Laws/KeptTio.lean ====
section
/-! SUPPORT. Laws/KeptTio.lean: every operation of Machine/Tio.lean keeps the queue and the canonical form. -/

namespace Sys2Proof.Machine

theorem State.captureLost_kept {q₀ : List Instr} {s : State} {n : ℕ} (h : s.Kept q₀) : (State.captureLost s n).Kept q₀ := by
  unfold State.captureLost
  repeat' first
    | with_reducible assumption
    | with_reducible refine State.bump_kept ?_
    | with_reducible refine State.raiseLimited_kept ?_
    | with_reducible refine State.pinRecord_kept ?_
    | with_reducible refine kept_ite ?_ ?_
    | split
    | dsimp only

theorem State.expectEdge_kept {q₀ : List Instr} {s : State} {n : ℕ} (h : s.Kept q₀) : (State.expectEdge s n).Kept q₀ := by
  unfold State.expectEdge
  repeat' first
    | with_reducible assumption
    | with_reducible refine State.arm_kept ?_
    | with_reducible refine kept_ite ?_ ?_
    | split
    | dsimp only

theorem execTioEdge_kept {q₀ : List Instr} {n : Fin 32} {off : ℕ} {held : ℕ} {rising : Bool} {s : State} (h : s.Kept q₀) : ResKept (execTioEdge n off held rising s) q₀ := by
  unfold execTioEdge
  repeat' first
    | with_reducible assumption
    | with_reducible refine State.wr_kept ?_
    | with_reducible refine State.bump_kept ?_
    | with_reducible refine State.moveTo_kept ?_
    | with_reducible refine State.setPin_kept ?_
    | with_reducible refine State.ringDrain_kept ?_
    | with_reducible refine State.captureLost_kept ?_
    | with_reducible refine State.expectEdge_kept ?_
    | with_reducible refine resKept_next ?_
    | with_reducible refine kept_ite ?_ ?_
    | with_reducible refine resKept_ite ?_ ?_
    | split
    | dsimp only

theorem execExpectTimeout_kept {q₀ : List Instr} {n : Fin 32} {s : State} (h : s.Kept q₀) : ResKept (execExpectTimeout n s) q₀ := by
  unfold execExpectTimeout
  repeat' first
    | with_reducible assumption
    | with_reducible refine State.disarm_kept ?_
    | with_reducible refine State.raise_kept ?_
    | with_reducible refine State.setPin_kept ?_
    | with_reducible refine State.pinRecord_kept ?_
    | with_reducible refine resKept_next ?_
    | with_reducible refine kept_ite ?_ ?_
    | with_reducible refine resKept_ite ?_ ?_
    | split
    | dsimp only

theorem State.armExpect_kept {q₀ : List Instr} {s : State} {n : ℕ} (h : s.Kept q₀) : (State.armExpect s n).Kept q₀ := by
  unfold State.armExpect
  repeat' first
    | with_reducible assumption
    | with_reducible refine State.arm_kept ?_
    | with_reducible refine State.disarm_kept ?_
    | with_reducible refine State.setPin_kept ?_
    | with_reducible refine kept_ite ?_ ?_
    | split
    | dsimp only

theorem State.lateEdge_kept {q₀ : List Instr} {s : State} {n : ℕ} (h : s.Kept q₀) : (State.lateEdge s n).Kept q₀ := by
  unfold State.lateEdge
  repeat' first
    | with_reducible assumption
    | with_reducible refine State.raise_kept ?_
    | with_reducible refine State.pinRecord_kept ?_
    | with_reducible refine kept_ite ?_ ?_
    | split
    | dsimp only

theorem State.applyGen_kept {q₀ : List Instr} {s : State} {n : ℕ} {start : ℕ} {period : ℕ} {width : ℕ} {count : ℕ} {delay : ℤ} (h : s.Kept q₀) : (State.applyGen s n start period width count delay).Kept q₀ := by
  unfold State.applyGen
  repeat' first
    | with_reducible assumption
    | with_reducible refine State.setPin_kept ?_
    | with_reducible refine kept_ite ?_ ?_
    | split
    | dsimp only

theorem State.applyTioMode_kept {q₀ : List Instr} {s : State} {n : ℕ} {old : ℕ} (h : s.Kept q₀) : (State.applyTioMode s n old).Kept q₀ := by
  unfold State.applyTioMode
  repeat' first
    | with_reducible assumption
    | with_reducible refine State.setPin_kept ?_
    | with_reducible refine State.armExpect_kept ?_
    | with_reducible refine kept_ite ?_ ?_
    | split
    | dsimp only

theorem State.restoreGen_kept {q₀ : List Instr} {s : State} {n : ℕ} (h : s.Kept q₀) : (State.restoreGen s n).Kept q₀ := by
  unfold State.restoreGen
  repeat' first
    | with_reducible assumption
    | with_reducible refine State.wrPersist_kept ?_
    | with_reducible refine kept_foldl ?_ (fun _ _ _ => ?_)
    | with_reducible refine kept_foldl_pair ?_ (fun _ _ _ _ => ?_)
    | with_reducible refine kept_ite ?_ ?_
    | split
    | refine kept_fst ‹_› ?_
    | dsimp only

theorem State.judgeGen_kept {q₀ : List Instr} {s : State} {n : ℕ} {g : ℕ × ℕ × ℕ × ℕ × ℤ} (h : s.Kept q₀) : (State.judgeGen s n g).Kept q₀ := by
  unfold State.judgeGen
  repeat' first
    | with_reducible assumption
    | with_reducible refine State.wr_kept ?_
    | with_reducible refine State.wrI_kept ?_
    | with_reducible refine State.setPin_kept ?_
    | with_reducible refine State.lateEdge_kept ?_
    | with_reducible refine State.restoreGen_kept ?_
    | with_reducible refine kept_ite ?_ ?_
    | split
    | dsimp only

theorem State.judgeMode_kept {q₀ : List Instr} {s : State} {n : ℕ} (h : s.Kept q₀) : (State.judgeMode s n).Kept q₀ := by
  unfold State.judgeMode
  repeat' first
    | with_reducible assumption
    | with_reducible refine State.setPin_kept ?_
    | with_reducible refine State.lateEdge_kept ?_
    | with_reducible refine kept_ite ?_ ?_
    | split
    | dsimp only

theorem State.pinBoundary_kept {q₀ : List Instr} {s : State} {n : ℕ} (h : s.Kept q₀) : (State.pinBoundary s n).Kept q₀ := by
  unfold State.pinBoundary
  repeat' first
    | with_reducible assumption
    | with_reducible refine State.setPin_kept ?_
    | with_reducible refine State.judgeGen_kept ?_
    | with_reducible refine State.judgeMode_kept ?_
    | with_reducible refine kept_foldl ?_ (fun _ _ _ => ?_)
    | with_reducible refine kept_foldl_pair ?_ (fun _ _ _ _ => ?_)
    | with_reducible refine kept_ite ?_ ?_
    | split
    | refine kept_fst ‹_› ?_
    | dsimp only

theorem State.pinsBoundary_kept {q₀ : List Instr} {s : State} (h : s.Kept q₀) : (State.pinsBoundary s).Kept q₀ := by
  unfold State.pinsBoundary
  repeat' first
    | with_reducible assumption
    | with_reducible refine forEach_kept ?_ (fun _ _ _ => ?_)
    | with_reducible refine State.pinBoundary_kept ?_
    | with_reducible refine kept_ite ?_ ?_
    | split
    | dsimp only

theorem State.applyTioOwner_kept {q₀ : List Instr} {s : State} {n : ℕ} {owner : ℕ} (h : s.Kept q₀) : (State.applyTioOwner s n owner).Kept q₀ := by
  unfold State.applyTioOwner
  repeat' first
    | with_reducible assumption
    | with_reducible refine State.wr_kept ?_
    | with_reducible refine State.ringDrain_kept ?_
    | with_reducible refine kept_ite ?_ ?_
    | split
    | dsimp only

theorem State.pinsOfAbsentLinks_kept {q₀ : List Instr} {s : State} (h : s.Kept q₀) : (State.pinsOfAbsentLinks s).Kept q₀ := by
  unfold State.pinsOfAbsentLinks
  repeat' first
    | with_reducible assumption
    | with_reducible refine forEach_kept ?_ (fun _ _ _ => ?_)
    | with_reducible refine State.wrPersist_kept ?_
    | with_reducible refine kept_ite ?_ ?_
    | split
    | dsimp only

theorem execGeneratedEdge_kept {q₀ : List Instr} {n : Fin 32} {off : ℕ} {s : State} (h : s.Kept q₀) : ResKept (execGeneratedEdge n off s) q₀ := by
  unfold execGeneratedEdge
  repeat' first
    | with_reducible assumption
    | with_reducible refine State.emit_kept ?_
    | with_reducible refine State.moveTo_kept ?_
    | with_reducible refine State.setPin_kept ?_
    | with_reducible refine resKept_next ?_
    | with_reducible refine kept_ite ?_ ?_
    | with_reducible refine resKept_ite ?_ ?_
    | split
    | dsimp only

end Sys2Proof.Machine
end

