-- ==== Sys2Proof/Laws/KeptHost.lean ====
section
/-! SUPPORT. Laws/KeptHost.lean: every operation of Machine/Host.lean keeps the queue and the canonical form. -/

namespace Sys2Proof.Machine

theorem State.unsupported_kept {q₀ : List Instr} {s : State} {f : ℕ} (h : s.Kept q₀) : (State.unsupported s f).Kept q₀ := by
  unfold State.unsupported
  repeat' first
    | with_reducible assumption
    | with_reducible refine State.bump_kept ?_
    | with_reducible refine State.emit_kept ?_
    | with_reducible refine kept_ite ?_ ?_
    | split
    | dsimp only

theorem execQueueEnable_kept {q₀ : List Instr} {k : QueueRef} {s : State} (h : s.Kept q₀) : ResKept (execQueueEnable k s) q₀ := by
  unfold execQueueEnable
  repeat' first
    | with_reducible assumption
    | with_reducible refine State.setQp_kept ?_
    | with_reducible refine resKept_next ?_
    | with_reducible refine kept_ite ?_ ?_
    | with_reducible refine resKept_ite ?_ ?_
    | split
    | dsimp only

theorem State.stopQueue_kept {q₀ : List Instr} {s : State} {k : ℕ} (h : s.Kept q₀) : (State.stopQueue s k).Kept q₀ := by
  unfold State.stopQueue
  repeat' first
    | with_reducible assumption
    | with_reducible refine State.setQp_kept ?_
    | with_reducible refine State.abandonReads_kept ?_
    | with_reducible refine kept_ite ?_ ?_
    | split
    | dsimp only

theorem execQueueDisable_kept {q₀ : List Instr} {k : QueueRef} {s : State} (h : s.Kept q₀) : ResKept (execQueueDisable k s) q₀ := by
  unfold execQueueDisable
  repeat' first
    | with_reducible assumption
    | with_reducible refine State.stopQueue_kept ?_
    | with_reducible refine resKept_next ?_
    | with_reducible refine kept_ite ?_ ?_
    | with_reducible refine resKept_ite ?_ ?_
    | split
    | dsimp only

theorem State.resetQueue_kept {q₀ : List Instr} {s : State} {k : ℕ} (h : s.Kept q₀) : (State.resetQueue s k).Kept q₀ := by
  unfold State.resetQueue
  repeat' first
    | with_reducible assumption
    | with_reducible refine State.raise_kept ?_
    | with_reducible refine State.poolGive_kept ?_
    | with_reducible refine State.setQp_kept ?_
    | with_reducible refine State.dropCopy_kept ?_
    | with_reducible refine kept_foldl ?_ (fun _ _ _ => ?_)
    | with_reducible refine kept_foldl_pair ?_ (fun _ _ _ _ => ?_)
    | with_reducible refine kept_ite ?_ ?_
    | split
    | refine kept_fst ‹_› ?_
    | dsimp only
    | with_reducible refine kept_switch ?_

theorem State.haltQueue_kept {q₀ : List Instr} {s : State} {k : ℕ} (h : s.Kept q₀) : (State.haltQueue s k).Kept q₀ := by
  unfold State.haltQueue
  repeat' first
    | with_reducible assumption
    | with_reducible refine State.raiseLimited_kept ?_
    | with_reducible refine State.setQp_kept ?_
    | with_reducible refine State.abandonReads_kept ?_
    | with_reducible refine kept_ite ?_ ?_
    | split
    | dsimp only

theorem execTxTail_kept {q₀ : List Instr} {k : QueueRef} {index : BitVec 16} {s : State} (h : s.Kept q₀) : ResKept (execTxTail k index s) q₀ := by
  unfold execTxTail
  repeat' first
    | with_reducible assumption
    | with_reducible refine State.setQp_kept ?_
    | with_reducible refine resKept_next ?_
    | with_reducible refine kept_ite ?_ ?_
    | with_reducible refine resKept_ite ?_ ?_
    | split
    | dsimp only

theorem execRxTail_kept {q₀ : List Instr} {k : QueueRef} {index : BitVec 16} {s : State} (h : s.Kept q₀) : ResKept (execRxTail k index s) q₀ := by
  unfold execRxTail
  repeat' first
    | with_reducible assumption
    | with_reducible refine State.setQp_kept ?_
    | with_reducible refine resKept_next ?_
    | with_reducible refine kept_ite ?_ ?_
    | with_reducible refine resKept_ite ?_ ?_
    | split
    | dsimp only

theorem execCqHead_kept {q₀ : List Instr} {k : QueueRef} {index : BitVec 16} {arm : Bool} {s : State} (h : s.Kept q₀) : ResKept (execCqHead k index arm s) q₀ := by
  unfold execCqHead
  repeat' first
    | with_reducible assumption
    | with_reducible refine State.setQp_kept ?_
    | with_reducible refine State.cqDrain_kept ?_
    | with_reducible refine resKept_next ?_
    | with_reducible refine kept_ite ?_ ?_
    | with_reducible refine resKept_ite ?_ ?_
    | split
    | dsimp only

theorem State.setBuilding_kept {q₀ : List Instr} {s : State} {k : ℕ} {x1 : TxFrame} (h : s.Kept q₀) : (State.setBuilding s k x1).Kept q₀ := by
  unfold State.setBuilding
  repeat' first
    | with_reducible assumption
    | with_reducible refine State.setQp_kept ?_
    | with_reducible refine kept_ite ?_ ?_
    | split
    | dsimp only

theorem State.txPump_kept {q₀ : List Instr} {s : State} {k : ℕ} {fuel : ℕ} (h : s.Kept q₀) : (State.txPump s k fuel).Kept q₀ := by
  induction fuel generalizing s k with
  | zero =>
    unfold State.txPump
    repeat' first
      | with_reducible assumption
      | with_reducible refine State.poolTake_kept ?_
      | with_reducible refine State.setQp_kept ?_
      | with_reducible refine State.bumpSlice_kept ?_
      | with_reducible refine State.readWith_kept ?_
      | with_reducible refine State.read_kept ?_
      | with_reducible refine State.setBuilding_kept ?_
      | with_reducible refine kept_ite ?_ ?_
      | split
      | refine kept_fst ‹_› ?_
      | dsimp only
  | succ fuel ih =>
    unfold State.txPump
    repeat' first
      | with_reducible assumption
      | with_reducible refine ih ?_
      | with_reducible refine State.poolTake_kept ?_
      | with_reducible refine State.setQp_kept ?_
      | with_reducible refine State.bumpSlice_kept ?_
      | with_reducible refine State.readWith_kept ?_
      | with_reducible refine State.read_kept ?_
      | with_reducible refine State.setBuilding_kept ?_
      | with_reducible refine kept_ite ?_ ?_
      | split
      | refine kept_fst ‹_› ?_
      | dsimp only

theorem State.rxPump_kept {q₀ : List Instr} {s : State} {k : ℕ} (h : s.Kept q₀) : (State.rxPump s k).Kept q₀ := by
  unfold State.rxPump
  repeat' first
    | with_reducible assumption
    | with_reducible refine State.setQp_kept ?_
    | with_reducible refine State.bumpSlice_kept ?_
    | with_reducible refine State.read_kept ?_
    | with_reducible refine kept_ite ?_ ?_
    | split
    | dsimp only

theorem execDescriptorFetch_kept {q₀ : List Instr} {k : QueueRef} {receive : Bool} {s : State} (h : s.Kept q₀) : ResKept (execDescriptorFetch k receive s) q₀ := by
  unfold execDescriptorFetch
  repeat' first
    | with_reducible assumption
    | with_reducible refine State.txPump_kept ?_
    | with_reducible refine State.rxPump_kept ?_
    | with_reducible refine resKept_next ?_
    | with_reducible refine kept_ite ?_ ?_
    | with_reducible refine resKept_ite ?_ ?_
    | split
    | dsimp only

theorem State.txDescribed_kept {q₀ : List Instr} {s : State} {k : ℕ} {d : ℕ} (h : s.Kept q₀) : (State.txDescribed s k d).Kept q₀ := by
  unfold State.txDescribed
  repeat' first
    | with_reducible assumption
    | with_reducible refine State.bump_kept ?_
    | with_reducible refine State.setQp_kept ?_
    | with_reducible refine kept_ite ?_ ?_
    | split
    | dsimp only

theorem State.hostSend_kept {q₀ : List Instr} {s : State} {p : ℕ} {f : Frame} (h : s.Kept q₀) : (State.hostSend s p f).Kept q₀ := by
  unfold State.hostSend
  repeat' first
    | with_reducible assumption
    | with_reducible refine State.send_kept ?_
    | with_reducible refine State.redNumber_kept ?_
    | with_reducible refine kept_foldl ?_ (fun _ _ _ => ?_)
    | with_reducible refine kept_foldl_pair ?_ (fun _ _ _ _ => ?_)
    | with_reducible refine kept_ite ?_ ?_
    | with_reducible refine kept_ite_fst ?_ ?_
    | split
    | refine kept_fst ‹_› ?_
    | dsimp only

theorem State.txForm_kept {q₀ : List Instr} {s : State} {k : ℕ} {x1 : TxFrame} (h : s.Kept q₀) : (State.txForm s k x1).Kept q₀ := by
  unfold State.txForm
  repeat' first
    | with_reducible assumption
    | with_reducible refine State.bump_kept ?_
    | with_reducible refine State.newFrame_kept ?_
    | with_reducible refine State.hostSend_kept ?_
    | with_reducible refine kept_ite ?_ ?_
    | with_reducible refine kept_ite_fst ?_ ?_
    | split
    | refine kept_fst ‹_› ?_
    | dsimp only

theorem State.txAdvance_kept {q₀ : List Instr} {s : State} {k : ℕ} {fuel : ℕ} (h : s.Kept q₀) : (State.txAdvance s k fuel).Kept q₀ := by
  induction fuel generalizing s k with
  | zero =>
    unfold State.txAdvance
    repeat' first
      | with_reducible assumption
      | with_reducible refine State.poolGive_kept ?_
      | with_reducible refine State.setQp_kept ?_
      | with_reducible refine State.cqWrite_kept ?_
      | with_reducible refine State.txForm_kept ?_
      | with_reducible refine kept_ite ?_ ?_
      | split
      | refine kept_fst ‹_› ?_
      | dsimp only
  | succ fuel ih =>
    unfold State.txAdvance
    repeat' first
      | with_reducible assumption
      | with_reducible refine ih ?_
      | with_reducible refine State.poolGive_kept ?_
      | with_reducible refine State.setQp_kept ?_
      | with_reducible refine State.cqWrite_kept ?_
      | with_reducible refine State.txForm_kept ?_
      | with_reducible refine kept_ite ?_ ?_
      | split
      | refine kept_fst ‹_› ?_
      | dsimp only

theorem execHostReceiveDelivery_kept {q₀ : List Instr} {k : QueueRef} {off : ℕ} {poisoned : Bool} {s : State} (h : s.Kept q₀) : ResKept (execHostReceiveDelivery k off poisoned s) q₀ := by
  unfold execHostReceiveDelivery
  repeat' first
    | with_reducible assumption
    | with_reducible refine State.bump_kept ?_
    | with_reducible refine State.moveTo_kept ?_
    | with_reducible refine State.raiseLimited_kept ?_
    | with_reducible refine State.poolGive_kept ?_
    | with_reducible refine State.setQp_kept ?_
    | with_reducible refine State.bumpSlice_kept ?_
    | with_reducible refine State.hostWrite_kept ?_
    | with_reducible refine State.cqWrite_kept ?_
    | with_reducible refine State.dropCopy_kept ?_
    | with_reducible refine resKept_next ?_
    | with_reducible refine kept_ite ?_ ?_
    | with_reducible refine resKept_ite ?_ ?_
    | split
    | dsimp only
    | with_reducible refine kept_switch ?_

theorem execEventRingEnable_kept {q₀ : List Instr} {link : Fin 4} {value : BitVec 32} {s : State} (h : s.Kept q₀) : ResKept (execEventRingEnable link value s) q₀ := by
  unfold execEventRingEnable
  repeat' first
    | with_reducible assumption
    | with_reducible refine State.setRing_kept ?_
    | with_reducible refine State.ringDrain_kept ?_
    | with_reducible refine resKept_next ?_
    | with_reducible refine kept_ite ?_ ?_
    | with_reducible refine resKept_ite ?_ ?_
    | split
    | dsimp only

theorem execEventHead_kept {q₀ : List Instr} {link : Fin 4} {value : BitVec 32} {s : State} (h : s.Kept q₀) : ResKept (execEventHead link value s) q₀ := by
  unfold execEventHead
  repeat' first
    | with_reducible assumption
    | with_reducible refine State.setRing_kept ?_
    | with_reducible refine State.ringDrain_kept ?_
    | with_reducible refine resKept_next ?_
    | with_reducible refine kept_ite ?_ ?_
    | with_reducible refine resKept_ite ?_ ?_
    | split
    | dsimp only

theorem execTimeLow_kept {q₀ : List Instr} {link : Fin 4} {off : ℕ} {s : State} (h : s.Kept q₀) : ResKept (execTimeLow link off s) q₀ := by
  unfold execTimeLow
  repeat' first
    | with_reducible assumption
    | with_reducible refine State.emit_kept ?_
    | with_reducible refine State.moveTo_kept ?_
    | with_reducible refine State.setRing_kept ?_
    | with_reducible refine State.unsupported_kept ?_
    | with_reducible refine resKept_next ?_
    | with_reducible refine kept_ite ?_ ?_
    | with_reducible refine resKept_ite ?_ ?_
    | split
    | dsimp only

theorem execAtomicOp_kept {q₀ : List Instr} {link : Fin 4} {fn : Fin 4} {s : State} (h : s.Kept q₀) : ResKept (execAtomicOp link fn s) q₀ := by
  unfold execAtomicOp
  repeat' first
    | with_reducible assumption
    | with_reducible refine State.unsupported_kept ?_
    | with_reducible refine resKept_next ?_
    | with_reducible refine kept_ite ?_ ?_
    | with_reducible refine resKept_ite ?_ ?_
    | split
    | dsimp only

theorem execPoisonedWrite_kept {q₀ : List Instr} {link : Fin 4} {fn : Fin 4} {s : State} (h : s.Kept q₀) : ResKept (execPoisonedWrite link fn s) q₀ := by
  unfold execPoisonedWrite
  repeat' first
    | with_reducible assumption
    | with_reducible refine State.bump_kept ?_
    | with_reducible refine State.setHostFn_kept ?_
    | with_reducible refine resKept_next ?_
    | with_reducible refine kept_ite ?_ ?_
    | with_reducible refine resKept_ite ?_ ?_
    | split
    | dsimp only

theorem execVendorDefinedMessage_kept {q₀ : List Instr} {link : Fin 4} {fn : Fin 4} {s : State} (h : s.Kept q₀) : ResKept (execVendorDefinedMessage link fn s) q₀ := by
  unfold execVendorDefinedMessage
  repeat' first
    | with_reducible assumption
    | with_reducible refine State.bump_kept ?_
    | with_reducible refine resKept_next ?_
    | with_reducible refine kept_ite ?_ ?_
    | with_reducible refine resKept_ite ?_ ?_
    | split
    | dsimp only

theorem State.unexpected_kept {q₀ : List Instr} {s : State} {f : ℕ} (h : s.Kept q₀) : (State.unexpected s f).Kept q₀ := by
  unfold State.unexpected
  repeat' first
    | with_reducible assumption
    | with_reducible refine State.bump_kept ?_
    | with_reducible refine State.raiseLimited_kept ?_
    | with_reducible refine State.setHostFn_kept ?_
    | with_reducible refine kept_ite ?_ ?_
    | split
    | dsimp only

theorem execUnexpectedCompletion_kept {q₀ : List Instr} {link : Fin 4} {fn : Fin 4} {tag : ℕ} {s : State} (h : s.Kept q₀) : ResKept (execUnexpectedCompletion link fn tag s) q₀ := by
  unfold execUnexpectedCompletion
  repeat' first
    | with_reducible assumption
    | with_reducible refine State.unexpected_kept ?_
    | with_reducible refine resKept_next ?_
    | with_reducible refine kept_ite ?_ ?_
    | with_reducible refine resKept_ite ?_ ?_
    | split
    | dsimp only

theorem State.setWindow_kept {q₀ : List Instr} {s : State} {port : ℕ} {w : ℕ} {x1 : PeerWindow} (h : s.Kept q₀) : (State.setWindow s port w x1).Kept q₀ := by
  unfold State.setWindow
  repeat' first
    | with_reducible assumption
    | with_reducible refine kept_ite ?_ ?_
    | split
    | dsimp only
    | with_reducible refine kept_host ?_ rfl

theorem execPeerWindowCommit_kept {q₀ : List Instr} {link : Fin 4} {w : Fin 64} {off : ℕ} {s : State} (h : s.Kept q₀) : ResKept (execPeerWindowCommit link w off s) q₀ := by
  unfold execPeerWindowCommit
  repeat' first
    | with_reducible assumption
    | with_reducible refine State.moveTo_kept ?_
    | with_reducible refine State.setWindow_kept ?_
    | with_reducible refine resKept_next ?_
    | with_reducible refine kept_ite ?_ ?_
    | with_reducible refine resKept_ite ?_ ?_
    | split
    | dsimp only

theorem State.peerBoundary_kept {q₀ : List Instr} {s : State} {port : ℕ} (h : s.Kept q₀) : (State.peerBoundary s port).Kept q₀ := by
  unfold State.peerBoundary
  repeat' first
    | with_reducible assumption
    | with_reducible refine State.setWindow_kept ?_
    | with_reducible refine kept_foldl ?_ (fun _ _ _ => ?_)
    | with_reducible refine kept_foldl_pair ?_ (fun _ _ _ _ => ?_)
    | with_reducible refine kept_ite ?_ ?_
    | split
    | refine kept_fst ‹_› ?_
    | dsimp only

theorem State.peerStore_kept {q₀ : List Instr} {s : State} {a : ℕ} {fuel : List Byte} (h : s.Kept q₀) : (State.peerStore s a fuel).Kept q₀ := by
  induction fuel generalizing s a with
  | nil =>
    unfold State.peerStore
    repeat' first
      | with_reducible assumption
      | with_reducible refine kept_peerSet ?_
      | with_reducible refine kept_ite ?_ ?_
      | split
      | refine kept_fst ‹_› ?_
      | dsimp only
      | with_reducible refine kept_host ?_ rfl
  | cons a l ih =>
    unfold State.peerStore
    repeat' first
      | with_reducible assumption
      | with_reducible refine ih ?_
      | with_reducible refine kept_peerSet ?_
      | with_reducible refine kept_ite ?_ ?_
      | split
      | refine kept_fst ‹_› ?_
      | dsimp only
      | with_reducible refine kept_host ?_ rfl

theorem State.peerMiss_kept {q₀ : List Instr} {s : State} {f : ℕ} {fuel : PeerAccess} (h : s.Kept q₀) : (State.peerMiss s f fuel).Kept q₀ := by
  unfold State.peerMiss
  repeat' first
    | with_reducible assumption
    | with_reducible refine State.bump_kept ?_
    | with_reducible refine State.raiseLimited_kept ?_
    | with_reducible refine State.setHostFn_kept ?_
    | with_reducible refine State.unsupported_kept ?_
    | with_reducible refine kept_ite ?_ ?_
    | split
    | dsimp only

theorem State.peerDoorbell_kept {q₀ : List Instr} {s : State} {link : Fin 4} {a : Nat} {bs : List Byte} (h : s.Kept q₀) :
    ∀ r, s.peerDoorbell link a bs = some r → ResKept r q₀ := by
  intro r hr
  unfold State.peerDoorbell at hr
  dsimp only at hr
  split at hr
  · split at hr <;> cases hr
    · exact execTxTail_kept h
    · exact execRxTail_kept h
    · exact execCqHead_kept h
  · cases hr

theorem execPeerApertureRequest_kept {q₀ : List Instr} {link : Fin 4} {offset : ℕ} {requester : ℕ} {a : PeerAccess} {s : State} (h : s.Kept q₀) : ResKept (execPeerApertureRequest link offset requester a s) q₀ := by
  unfold execPeerApertureRequest
  repeat' first
    | with_reducible assumption
    | with_reducible refine State.emit_kept ?_
    | with_reducible refine State.hbmRequest_kept ?_
    | with_reducible refine State.unsupported_kept ?_
    | with_reducible refine State.peerStore_kept ?_
    | with_reducible refine State.peerMiss_kept ?_
    | with_reducible refine resKept_getD (fun _ ho => State.peerDoorbell_kept ?_ _ ho) ?_
    | with_reducible refine resKept_next ?_
    | with_reducible refine kept_ite ?_ ?_
    | with_reducible refine resKept_ite ?_ ?_
    | split
    | dsimp only

end Sys2Proof.Machine
end

