-- ==== Sys2Proof/Laws/KeptSlices.lean ====
section
/-! SUPPORT. Laws/KeptSlices.lean: every operation of Machine/Slices.lean keeps the queue and the canonical form. -/

namespace Sys2Proof.Machine

theorem State.applySliceSet_kept {q₀ : List Instr} {s : State} {n : ℕ} {bs : List Byte} (h : s.Kept q₀) : (State.applySliceSet s n bs).Kept q₀ := by
  unfold State.applySliceSet
  repeat' first
    | with_reducible assumption
    | with_reducible refine State.bumpSlice_kept ?_
    | with_reducible refine kept_ite ?_ ?_
    | split
    | dsimp only
    | with_reducible refine kept_slices ?_

theorem State.setNvq_kept {q₀ : List Instr} {s : State} {k : ℕ} {x1 : NvmeQueue} (h : s.Kept q₀) : (State.setNvq s k x1).Kept q₀ := by
  unfold State.setNvq
  repeat' first
    | with_reducible assumption
    | with_reducible refine kept_ite ?_ ?_
    | split
    | dsimp only
    | with_reducible refine kept_storage ?_

theorem State.endNvme_kept {q₀ : List Instr} {s : State} {c : NvmeCmd} (h : s.Kept q₀) : (State.endNvme s c).Kept q₀ := by
  unfold State.endNvme
  repeat' first
    | with_reducible assumption
    | with_reducible refine State.opEnd_kept ?_
    | with_reducible refine kept_ite ?_ ?_
    | split
    | dsimp only
    | with_reducible refine kept_storage ?_

theorem State.stopNvq_kept {q₀ : List Instr} {s : State} {k : ℕ} (h : s.Kept q₀) : (State.stopNvq s k).Kept q₀ := by
  unfold State.stopNvq
  repeat' first
    | with_reducible assumption
    | with_reducible refine State.abandonReads_kept ?_
    | with_reducible refine State.setNvq_kept ?_
    | with_reducible refine kept_ite ?_ ?_
    | split
    | dsimp only

theorem State.resetNvq_kept {q₀ : List Instr} {s : State} {k : ℕ} (h : s.Kept q₀) : (State.resetNvq s k).Kept q₀ := by
  unfold State.resetNvq
  repeat' first
    | with_reducible assumption
    | with_reducible refine State.setNvq_kept ?_
    | with_reducible refine State.endNvme_kept ?_
    | with_reducible refine kept_foldl ?_ (fun _ _ _ => ?_)
    | with_reducible refine kept_foldl_pair ?_ (fun _ _ _ _ => ?_)
    | with_reducible refine kept_ite ?_ ?_
    | split
    | refine kept_fst ‹_› ?_
    | dsimp only

theorem State.unbindCheck_kept {q₀ : List Instr} {s : State} {f : ℕ} {n : ℕ} (h : s.Kept q₀) : (State.unbindCheck s f n).Kept q₀ := by
  unfold State.unbindCheck
  repeat' first
    | with_reducible assumption
    | with_reducible refine State.setBlock_kept ?_
    | with_reducible refine kept_ite ?_ ?_
    | split
    | dsimp only

theorem execBound_kept {q₀ : List Instr} {k : SliceRef} {pasid : BitVec 20} {s : State} (h : s.Kept q₀) : ResKept (execBound k pasid s) q₀ := by
  unfold execBound
  repeat' first
    | with_reducible assumption
    | with_reducible refine State.setBlock_kept ?_
    | with_reducible refine resKept_next ?_
    | with_reducible refine kept_ite ?_ ?_
    | with_reducible refine resKept_ite ?_ ?_
    | split
    | dsimp only

theorem State.stopSlice_kept {q₀ : List Instr} {s : State} {f : ℕ} {n : ℕ} (h : s.Kept q₀) : (State.stopSlice s f n).Kept q₀ := by
  unfold State.stopSlice
  repeat' first
    | with_reducible assumption
    | with_reducible refine State.stopQueue_kept ?_
    | with_reducible refine State.stopNvq_kept ?_
    | with_reducible refine kept_foldl ?_ (fun _ _ _ => ?_)
    | with_reducible refine kept_foldl_pair ?_ (fun _ _ _ _ => ?_)
    | with_reducible refine kept_ite ?_ ?_
    | split
    | refine kept_fst ‹_› ?_
    | dsimp only

theorem execUnbind_kept {q₀ : List Instr} {k : SliceRef} {s : State} (h : s.Kept q₀) : ResKept (execUnbind k s) q₀ := by
  unfold execUnbind
  repeat' first
    | with_reducible assumption
    | with_reducible refine State.setBlock_kept ?_
    | with_reducible refine State.unbindCheck_kept ?_
    | with_reducible refine State.stopSlice_kept ?_
    | with_reducible refine resKept_next ?_
    | with_reducible refine kept_ite ?_ ?_
    | with_reducible refine resKept_ite ?_ ?_
    | split
    | dsimp only

theorem execQueueResetComplete_kept {q₀ : List Instr} {k : QueueRef} {s : State} (h : s.Kept q₀) : ResKept (execQueueResetComplete k s) q₀ := by
  unfold execQueueResetComplete
  repeat' first
    | with_reducible assumption
    | with_reducible refine State.resetQueue_kept ?_
    | with_reducible refine State.resetNvq_kept ?_
    | with_reducible refine State.unbindCheck_kept ?_
    | with_reducible refine resKept_next ?_
    | with_reducible refine kept_ite ?_ ?_
    | with_reducible refine resKept_ite ?_ ?_
    | split
    | dsimp only

theorem execQuiesce_kept {q₀ : List Instr} {k : SliceRef} {on : Bool} {s : State} (h : s.Kept q₀) : ResKept (execQuiesce k on s) q₀ := by
  unfold execQuiesce
  repeat' first
    | with_reducible assumption
    | with_reducible refine State.setBlock_kept ?_
    | with_reducible refine resKept_next ?_
    | with_reducible refine kept_ite ?_ ?_
    | with_reducible refine resKept_ite ?_ ?_
    | split
    | dsimp only

theorem execSliceQuiesced_kept {q₀ : List Instr} {k : SliceRef} {s : State} (h : s.Kept q₀) : ResKept (execSliceQuiesced k s) q₀ := by
  unfold execSliceQuiesced
  repeat' first
    | with_reducible assumption
    | with_reducible refine State.raise_kept ?_
    | with_reducible refine State.setBlock_kept ?_
    | with_reducible refine resKept_next ?_
    | with_reducible refine kept_ite ?_ ?_
    | with_reducible refine resKept_ite ?_ ?_
    | split
    | dsimp only

theorem State.applySliceState_kept {q₀ : List Instr} {s : State} {bs : List Byte} (h : s.Kept q₀) : (State.applySliceState s bs).Kept q₀ := by
  unfold State.applySliceState
  repeat' first
    | with_reducible assumption
    | with_reducible refine forEach_kept ?_ (fun _ _ _ => ?_)
    | with_reducible refine State.setQp_kept ?_
    | with_reducible refine State.setNvq_kept ?_
    | with_reducible refine kept_ite ?_ ?_
    | split
    | dsimp only

theorem execDirtyLogEnable_kept {q₀ : List Instr} {k : SliceRef} {on : Bool} {off : ℕ} {s : State} (h : s.Kept q₀) : ResKept (execDirtyLogEnable k on off s) q₀ := by
  unfold execDirtyLogEnable
  repeat' first
    | with_reducible assumption
    | with_reducible refine State.moveTo_kept ?_
    | with_reducible refine State.setBlock_kept ?_
    | with_reducible refine resKept_next ?_
    | with_reducible refine kept_ite ?_ ?_
    | with_reducible refine resKept_ite ?_ ?_
    | split
    | dsimp only

theorem execDirtyFlip_kept {q₀ : List Instr} {k : SliceRef} {off : ℕ} {s : State} (h : s.Kept q₀) : ResKept (execDirtyFlip k off s) q₀ := by
  unfold execDirtyFlip
  repeat' first
    | with_reducible assumption
    | with_reducible refine State.moveTo_kept ?_
    | with_reducible refine State.setBlock_kept ?_
    | with_reducible refine resKept_next ?_
    | with_reducible refine kept_ite ?_ ?_
    | with_reducible refine resKept_ite ?_ ?_
    | split
    | dsimp only

theorem State.applyDirty_kept {q₀ : List Instr} {s : State} {f : ℕ} {n : ℕ} {act : ℕ} (h : s.Kept q₀) : (State.applyDirty s f n act).Kept q₀ := by
  unfold State.applyDirty
  repeat' first
    | with_reducible assumption
    | with_reducible refine State.setBlock_kept ?_
    | with_reducible refine State.read_kept ?_
    | with_reducible refine kept_ite ?_ ?_
    | split
    | dsimp only

theorem State.dirtyBoundary_kept {q₀ : List Instr} {s : State} (h : s.Kept q₀) : (State.dirtyBoundary s).Kept q₀ := by
  unfold State.dirtyBoundary
  repeat' first
    | with_reducible assumption
    | with_reducible refine State.setBlock_kept ?_
    | with_reducible refine State.applyDirty_kept ?_
    | with_reducible refine kept_foldl ?_ (fun _ _ _ => ?_)
    | with_reducible refine kept_foldl_pair ?_ (fun _ _ _ _ => ?_)
    | with_reducible refine kept_ite ?_ ?_
    | split
    | refine kept_fst ‹_› ?_
    | dsimp only

theorem State.dirtyDescribed_kept {q₀ : List Instr} {s : State} {f : ℕ} {n : ℕ} {data : Option (List Byte)} (h : s.Kept q₀) : (State.dirtyDescribed s f n data).Kept q₀ := by
  unfold State.dirtyDescribed
  repeat' first
    | with_reducible assumption
    | with_reducible refine State.setBlock_kept ?_
    | with_reducible refine State.markPage_kept ?_
    | with_reducible refine kept_foldl ?_ (fun _ _ _ => ?_)
    | with_reducible refine kept_foldl_pair ?_ (fun _ _ _ _ => ?_)
    | with_reducible refine kept_ite ?_ ?_
    | split
    | refine kept_fst ‹_› ?_
    | dsimp only

theorem State.dirtyMarked_kept {q₀ : List Instr} {s : State} {r : Dma} {data : Option (List Byte)} (h : s.Kept q₀) : (State.dirtyMarked s r data).Kept q₀ := by
  unfold State.dirtyMarked
  repeat' first
    | with_reducible assumption
    | with_reducible refine State.setBlock_kept ?_
    | with_reducible refine State.bumpSlice_kept ?_
    | with_reducible refine State.hostWrite_kept ?_
    | with_reducible refine kept_ite ?_ ?_
    | split
    | dsimp only

theorem execFlipComplete_kept {q₀ : List Instr} {k : SliceRef} {s : State} (h : s.Kept q₀) : ResKept (execFlipComplete k s) q₀ := by
  unfold execFlipComplete
  repeat' first
    | with_reducible assumption
    | with_reducible refine State.setBlock_kept ?_
    | with_reducible refine resKept_next ?_
    | with_reducible refine kept_ite ?_ ?_
    | with_reducible refine resKept_ite ?_ ?_
    | split
    | dsimp only

end Sys2Proof.Machine
end

