-- ==== Sys2Proof/Laws/KeptLookAside.lean ====
section
/-! SUPPORT. Laws/KeptLookAside.lean: every operation of Machine/LookAside.lean keeps the queue and the canonical form. -/

namespace Sys2Proof.Machine

theorem State.applyKeyLoad_kept {q₀ : List Instr} {s : State} {bs : List Byte} (h : s.Kept q₀) : (State.applyKeyLoad s bs).Kept q₀ := by
  unfold State.applyKeyLoad
  repeat' first
    | with_reducible assumption
    | with_reducible refine State.setKeySlot_kept ?_
    | with_reducible refine kept_ite ?_ ?_
    | split
    | dsimp only

theorem State.applyKeySlotOwner_kept {q₀ : List Instr} {s : State} {bs : List Byte} (h : s.Kept q₀) : (State.applyKeySlotOwner s bs).Kept q₀ := by
  unfold State.applyKeySlotOwner
  repeat' first
    | with_reducible assumption
    | with_reducible refine State.setKeySlot_kept ?_
    | with_reducible refine kept_ite ?_ ?_
    | split
    | dsimp only

theorem State.applyKeyErase_kept {q₀ : List Instr} {s : State} {n : ℕ} (h : s.Kept q₀) : (State.applyKeyErase s n).Kept q₀ := by
  unfold State.applyKeyErase
  repeat' first
    | with_reducible assumption
    | with_reducible refine State.setKeySlot_kept ?_
    | with_reducible refine kept_ite ?_ ?_
    | split
    | dsimp only

theorem State.setCluster_kept {q₀ : List Instr} {s : State} {t1 : ℕ} {x1 : Cluster} (h : s.Kept q₀) : (State.setCluster s t1 x1).Kept q₀ := by
  unfold State.setCluster
  repeat' first
    | with_reducible assumption
    | with_reducible refine kept_ite ?_ ?_
    | split
    | dsimp only
    | with_reducible refine kept_cipher ?_

theorem State.freeCore_kept {q₀ : List Instr} {s : State} {t1 : ℕ} (h : s.Kept q₀) : (State.freeCore s t1).Kept q₀ := by
  unfold State.freeCore
  repeat' first
    | with_reducible assumption
    | with_reducible refine State.setCluster_kept ?_
    | with_reducible refine kept_ite ?_ ?_
    | split
    | dsimp only

theorem State.enterCluster_kept {q₀ : List Instr} {s : State} {t1 : ℕ} {r : CipherReq} (h : s.Kept q₀) : (State.enterCluster s t1 r).Kept q₀ := by
  unfold State.enterCluster
  repeat' first
    | with_reducible assumption
    | with_reducible refine State.bump_kept ?_
    | with_reducible refine State.setCluster_kept ?_
    | with_reducible refine State.freeCore_kept ?_
    | with_reducible refine kept_ite ?_ ?_
    | split
    | dsimp only

theorem execCipherResume_kept {q₀ : List Instr} {t1 : Fin 4} {s : State} (h : s.Kept q₀) : ResKept (execCipherResume t1 s) q₀ := by
  unfold execCipherResume
  repeat' first
    | with_reducible assumption
    | with_reducible refine State.freeCore_kept ?_
    | with_reducible refine resKept_next ?_
    | with_reducible refine kept_ite ?_ ?_
    | with_reducible refine resKept_ite ?_ ?_
    | split
    | dsimp only

theorem State.laWrite_kept {q₀ : List Instr} {s : State} {t1 : ℕ} {x1 : CipherReq} {what : String} {addr : ℕ} {relaxed : Bool} {bs : List Byte} (h : s.Kept q₀) : (State.laWrite s t1 x1 what addr relaxed bs).Kept q₀ := by
  unfold State.laWrite
  repeat' first
    | with_reducible assumption
    | with_reducible refine State.emit_kept ?_
    | with_reducible refine State.hostWriteFrom_kept ?_
    | with_reducible refine kept_ite ?_ ?_
    | split
    | dsimp only

theorem State.laFinish_kept {q₀ : List Instr} {s : State} {t1 : ℕ} {x1 : CipherReq} {status : ℕ} (h : s.Kept q₀) : (State.laFinish s t1 x1 status).Kept q₀ := by
  unfold State.laFinish
  repeat' first
    | with_reducible assumption
    | with_reducible refine State.bump_kept ?_
    | with_reducible refine State.emit_kept ?_
    | with_reducible refine State.opEnd_kept ?_
    | with_reducible refine State.setCluster_kept ?_
    | with_reducible refine kept_ite ?_ ?_
    | split
    | dsimp only

theorem execLookAsideCompletion_kept {q₀ : List Instr} {t1 : Fin 4} {id : ℕ} {s : State} (h : s.Kept q₀) : ResKept (execLookAsideCompletion t1 id s) q₀ := by
  unfold execLookAsideCompletion
  repeat' first
    | with_reducible assumption
    | with_reducible refine State.raise_kept ?_
    | with_reducible refine State.useSlot_kept ?_
    | with_reducible refine State.laWrite_kept ?_
    | with_reducible refine State.laFinish_kept ?_
    | with_reducible refine resKept_next ?_
    | with_reducible refine kept_ite ?_ ?_
    | with_reducible refine resKept_ite ?_ ?_
    | split
    | dsimp only
    | with_reducible refine kept_agent ?_

theorem State.lookAside_kept {q₀ : List Instr} {s0 : State} {op : ℕ} {q1 : LookReq} (h : s0.Kept q₀) : (State.lookAside s0 op q1).Kept q₀ := by
  unfold State.lookAside
  repeat' first
    | with_reducible assumption
    | with_reducible refine State.addTo_kept ?_
    | with_reducible refine State.moveTo_kept ?_
    | with_reducible refine State.bumpSlice_kept ?_
    | with_reducible refine State.opStart_kept ?_
    | with_reducible refine State.readWith_kept ?_
    | with_reducible refine State.setCluster_kept ?_
    | with_reducible refine State.enterCluster_kept ?_
    | with_reducible refine kept_ite ?_ ?_
    | split
    | dsimp only
    | with_reducible refine kept_cipher ?_

theorem State.lookData_kept {q₀ : List Instr} {s : State} {r : Dma} {data : Option (List Byte)} (h : s.Kept q₀) : (State.lookData s r data).Kept q₀ := by
  unfold State.lookData
  repeat' first
    | with_reducible assumption
    | with_reducible refine State.setCluster_kept ?_
    | with_reducible refine State.enterCluster_kept ?_
    | with_reducible refine kept_ite ?_ ?_
    | split
    | dsimp only

theorem State.lookAbort_kept {q₀ : List Instr} {s : State} {mine : CipherReq → Bool} (h : s.Kept q₀) : (State.lookAbort s mine).Kept q₀ := by
  unfold State.lookAbort
  repeat' first
    | with_reducible assumption
    | with_reducible refine forEach_kept ?_ (fun _ _ _ => ?_)
    | with_reducible refine State.laFinish_kept ?_
    | with_reducible refine kept_foldl ?_ (fun _ _ _ => ?_)
    | with_reducible refine kept_foldl_pair ?_ (fun _ _ _ _ => ?_)
    | with_reducible refine kept_ite ?_ ?_
    | split
    | refine kept_fst ‹_› ?_
    | dsimp only

theorem execGcmEncrypt_kept {q₀ : List Instr} {q1 : LookReq} {s : State} (h : s.Kept q₀) : ResKept (execGcmEncrypt q1 s) q₀ := by
  unfold execGcmEncrypt
  repeat' first
    | with_reducible assumption
    | with_reducible refine State.lookAside_kept ?_
    | with_reducible refine resKept_next ?_
    | with_reducible refine kept_ite ?_ ?_
    | with_reducible refine resKept_ite ?_ ?_
    | split
    | dsimp only

theorem execGcmDecrypt_kept {q₀ : List Instr} {q1 : LookReq} {s : State} (h : s.Kept q₀) : ResKept (execGcmDecrypt q1 s) q₀ := by
  unfold execGcmDecrypt
  repeat' first
    | with_reducible assumption
    | with_reducible refine State.lookAside_kept ?_
    | with_reducible refine resKept_next ?_
    | with_reducible refine kept_ite ?_ ?_
    | with_reducible refine resKept_ite ?_ ?_
    | split
    | dsimp only

theorem execGmacGenerate_kept {q₀ : List Instr} {q1 : LookReq} {s : State} (h : s.Kept q₀) : ResKept (execGmacGenerate q1 s) q₀ := by
  unfold execGmacGenerate
  repeat' first
    | with_reducible assumption
    | with_reducible refine State.lookAside_kept ?_
    | with_reducible refine resKept_next ?_
    | with_reducible refine kept_ite ?_ ?_
    | with_reducible refine resKept_ite ?_ ?_
    | split
    | dsimp only

theorem execGmacVerify_kept {q₀ : List Instr} {q1 : LookReq} {s : State} (h : s.Kept q₀) : ResKept (execGmacVerify q1 s) q₀ := by
  unfold execGmacVerify
  repeat' first
    | with_reducible assumption
    | with_reducible refine State.lookAside_kept ?_
    | with_reducible refine resKept_next ?_
    | with_reducible refine kept_ite ?_ ?_
    | with_reducible refine resKept_ite ?_ ?_
    | split
    | dsimp only

theorem execXtsEncrypt_kept {q₀ : List Instr} {q1 : LookReq} {s : State} (h : s.Kept q₀) : ResKept (execXtsEncrypt q1 s) q₀ := by
  unfold execXtsEncrypt
  repeat' first
    | with_reducible assumption
    | with_reducible refine State.lookAside_kept ?_
    | with_reducible refine resKept_next ?_
    | with_reducible refine kept_ite ?_ ?_
    | with_reducible refine resKept_ite ?_ ?_
    | split
    | dsimp only

theorem execXtsDecrypt_kept {q₀ : List Instr} {q1 : LookReq} {s : State} (h : s.Kept q₀) : ResKept (execXtsDecrypt q1 s) q₀ := by
  unfold execXtsDecrypt
  repeat' first
    | with_reducible assumption
    | with_reducible refine State.lookAside_kept ?_
    | with_reducible refine resKept_next ?_
    | with_reducible refine kept_ite ?_ ?_
    | with_reducible refine resKept_ite ?_ ?_
    | split
    | dsimp only

theorem execCmacGenerate_kept {q₀ : List Instr} {q1 : LookReq} {s : State} (h : s.Kept q₀) : ResKept (execCmacGenerate q1 s) q₀ := by
  unfold execCmacGenerate
  repeat' first
    | with_reducible assumption
    | with_reducible refine State.lookAside_kept ?_
    | with_reducible refine resKept_next ?_
    | with_reducible refine kept_ite ?_ ?_
    | with_reducible refine resKept_ite ?_ ?_
    | split
    | dsimp only

theorem execCmacVerify_kept {q₀ : List Instr} {q1 : LookReq} {s : State} (h : s.Kept q₀) : ResKept (execCmacVerify q1 s) q₀ := by
  unfold execCmacVerify
  repeat' first
    | with_reducible assumption
    | with_reducible refine State.lookAside_kept ?_
    | with_reducible refine resKept_next ?_
    | with_reducible refine kept_ite ?_ ?_
    | with_reducible refine resKept_ite ?_ ?_
    | split
    | dsimp only

theorem execSha384_kept {q₀ : List Instr} {q1 : LookReq} {s : State} (h : s.Kept q₀) : ResKept (execSha384 q1 s) q₀ := by
  unfold execSha384
  repeat' first
    | with_reducible assumption
    | with_reducible refine State.lookAside_kept ?_
    | with_reducible refine resKept_next ?_
    | with_reducible refine kept_ite ?_ ?_
    | with_reducible refine resKept_ite ?_ ?_
    | split
    | dsimp only

theorem execHmacGenerate_kept {q₀ : List Instr} {q1 : LookReq} {s : State} (h : s.Kept q₀) : ResKept (execHmacGenerate q1 s) q₀ := by
  unfold execHmacGenerate
  repeat' first
    | with_reducible assumption
    | with_reducible refine State.lookAside_kept ?_
    | with_reducible refine resKept_next ?_
    | with_reducible refine kept_ite ?_ ?_
    | with_reducible refine resKept_ite ?_ ?_
    | split
    | dsimp only

theorem execHmacVerify_kept {q₀ : List Instr} {q1 : LookReq} {s : State} (h : s.Kept q₀) : ResKept (execHmacVerify q1 s) q₀ := by
  unfold execHmacVerify
  repeat' first
    | with_reducible assumption
    | with_reducible refine State.lookAside_kept ?_
    | with_reducible refine resKept_next ?_
    | with_reducible refine kept_ite ?_ ?_
    | with_reducible refine resKept_ite ?_ ?_
    | split
    | dsimp only

theorem execUnwrapKey_kept {q₀ : List Instr} {q1 : LookReq} {s : State} (h : s.Kept q₀) : ResKept (execUnwrapKey q1 s) q₀ := by
  unfold execUnwrapKey
  repeat' first
    | with_reducible assumption
    | with_reducible refine State.lookAside_kept ?_
    | with_reducible refine resKept_next ?_
    | with_reducible refine kept_ite ?_ ?_
    | with_reducible refine resKept_ite ?_ ?_
    | split
    | dsimp only

end Sys2Proof.Machine
end

