-- ==== Sys2Proof/Laws/KeptNvme.lean ====
section
/-! SUPPORT. Laws/KeptNvme.lean: every operation of Machine/Nvme.lean keeps the queue and the canonical form. -/

namespace Sys2Proof.Machine

theorem State.setCtrl_kept {q₀ : List Instr} {s : State} {link : ℕ} {x1 : NvmeCtrl} (h : s.Kept q₀) : (State.setCtrl s link x1).Kept q₀ := by
  unfold State.setCtrl
  repeat' first
    | with_reducible assumption
    | with_reducible refine kept_ite ?_ ?_
    | split
    | dsimp only
    | with_reducible refine kept_storage ?_

theorem State.setNspace_kept {q₀ : List Instr} {s : State} {n : ℕ} {x1 : Namespace} (h : s.Kept q₀) : (State.setNspace s n x1).Kept q₀ := by
  unfold State.setNspace
  repeat' first
    | with_reducible assumption
    | with_reducible refine kept_ite ?_ ?_
    | split
    | dsimp only
    | with_reducible refine kept_storage ?_

theorem State.nvPut_kept {q₀ : List Instr} {s : State} {k : ℕ} {e1 : List Byte} (h : s.Kept q₀) : (State.nvPut s k e1).Kept q₀ := by
  unfold State.nvPut
  repeat' first
    | with_reducible assumption
    | with_reducible refine State.hostWrite_kept ?_
    | with_reducible refine State.sliceInterrupt_kept ?_
    | with_reducible refine State.msixInterrupt_kept ?_
    | with_reducible refine State.setNvq_kept ?_
    | with_reducible refine kept_ite ?_ ?_
    | split
    | dsimp only

theorem State.nvPost_kept {q₀ : List Instr} {s : State} {k : ℕ} {e1 : List Byte} (h : s.Kept q₀) : (State.nvPost s k e1).Kept q₀ := by
  unfold State.nvPost
  repeat' first
    | with_reducible assumption
    | with_reducible refine State.setNvq_kept ?_
    | with_reducible refine State.nvPut_kept ?_
    | with_reducible refine kept_ite ?_ ?_
    | split
    | dsimp only

theorem State.nvDrain_kept {q₀ : List Instr} {s : State} {k : ℕ} {fuel : ℕ} (h : s.Kept q₀) : (State.nvDrain s k fuel).Kept q₀ := by
  induction fuel generalizing s k with
  | zero =>
    unfold State.nvDrain
    repeat' first
      | with_reducible assumption
      | with_reducible refine State.setNvq_kept ?_
      | with_reducible refine State.nvPut_kept ?_
      | with_reducible refine kept_ite ?_ ?_
      | split
      | refine kept_fst ‹_› ?_
      | dsimp only
  | succ fuel ih =>
    unfold State.nvDrain
    repeat' first
      | with_reducible assumption
      | with_reducible refine ih ?_
      | with_reducible refine State.setNvq_kept ?_
      | with_reducible refine State.nvPut_kept ?_
      | with_reducible refine kept_ite ?_ ?_
      | split
      | refine kept_fst ‹_› ?_
      | dsimp only

theorem State.nsCount_kept {q₀ : List Instr} {s : State} {n : ℕ} {i : ℕ} {k : ℕ} (h : s.Kept q₀) : (State.nsCount s n i k).Kept q₀ := by
  unfold State.nsCount
  repeat' first
    | with_reducible assumption
    | with_reducible refine kept_ite ?_ ?_
    | split
    | dsimp only
    | with_reducible refine kept_storage ?_

theorem State.nsPurge_kept {q₀ : List Instr} {s : State} {n : ℕ} (h : s.Kept q₀) : (State.nsPurge s n).Kept q₀ := by
  unfold State.nsPurge
  repeat' first
    | with_reducible assumption
    | with_reducible refine State.poolGive_kept ?_
    | with_reducible refine State.setNspace_kept ?_
    | with_reducible refine kept_ite ?_ ?_
    | split
    | dsimp only
    | with_reducible refine kept_storage ?_

theorem State.nvDone_kept {q₀ : List Instr} {s : State} {c : NvmeCmd} {sct : ℕ} {sc : ℕ} {result : ℕ} (h : s.Kept q₀) : (State.nvDone s c sct sc result).Kept q₀ := by
  unfold State.nvDone
  repeat' first
    | with_reducible assumption
    | with_reducible refine State.arm_kept ?_
    | with_reducible refine State.carry_kept ?_
    | with_reducible refine State.endNvme_kept ?_
    | with_reducible refine State.setCtrl_kept ?_
    | with_reducible refine State.nvPost_kept ?_
    | with_reducible refine State.nsCount_kept ?_
    | with_reducible refine State.nsPurge_kept ?_
    | with_reducible refine kept_ite ?_ ?_
    | split
    | dsimp only

theorem State.nvEvent_kept {q₀ : List Instr} {s : State} {link : ℕ} {type : ℕ} {info : ℕ} {page : ℕ} (h : s.Kept q₀) : (State.nvEvent s link type info page).Kept q₀ := by
  unfold State.nvEvent
  repeat' first
    | with_reducible assumption
    | with_reducible refine State.setCtrl_kept ?_
    | with_reducible refine State.nvDone_kept ?_
    | with_reducible refine kept_ite ?_ ?_
    | split
    | dsimp only

theorem State.nvEventAll_kept {q₀ : List Instr} {s : State} {type : ℕ} {info : ℕ} {page : ℕ} (h : s.Kept q₀) : (State.nvEventAll s type info page).Kept q₀ := by
  unfold State.nvEventAll
  repeat' first
    | with_reducible assumption
    | with_reducible refine forEach_kept ?_ (fun _ _ _ => ?_)
    | with_reducible refine State.nvEvent_kept ?_
    | with_reducible refine kept_ite ?_ ?_
    | split
    | dsimp only

theorem State.sqPump_kept {q₀ : List Instr} {s : State} {k : ℕ} (h : s.Kept q₀) : (State.sqPump s k).Kept q₀ := by
  unfold State.sqPump
  repeat' first
    | with_reducible assumption
    | with_reducible refine State.read_kept ?_
    | with_reducible refine kept_ite ?_ ?_
    | split
    | dsimp only

theorem execSqTail_kept {q₀ : List Instr} {q1 : NvmeQ} {index : BitVec 16} {s : State} (h : s.Kept q₀) : ResKept (execSqTail q1 index s) q₀ := by
  unfold execSqTail
  repeat' first
    | with_reducible assumption
    | with_reducible refine State.setNvq_kept ?_
    | with_reducible refine State.sqPump_kept ?_
    | with_reducible refine resKept_next ?_
    | with_reducible refine kept_ite ?_ ?_
    | with_reducible refine resKept_ite ?_ ?_
    | split
    | dsimp only

theorem execNvmeCqHead_kept {q₀ : List Instr} {q1 : NvmeQ} {index : BitVec 16} {arm : Bool} {s : State} (h : s.Kept q₀) : ResKept (execNvmeCqHead q1 index arm s) q₀ := by
  unfold execNvmeCqHead
  repeat' first
    | with_reducible assumption
    | with_reducible refine State.setNvq_kept ?_
    | with_reducible refine State.nvDrain_kept ?_
    | with_reducible refine resKept_next ?_
    | with_reducible refine kept_ite ?_ ?_
    | with_reducible refine resKept_ite ?_ ?_
    | split
    | dsimp only

theorem execNvmeQueueEnable_kept {q₀ : List Instr} {k : QueueRef} {on : Bool} {s : State} (h : s.Kept q₀) : ResKept (execNvmeQueueEnable k on s) q₀ := by
  unfold execNvmeQueueEnable
  repeat' first
    | with_reducible assumption
    | with_reducible refine State.setNvq_kept ?_
    | with_reducible refine State.stopNvq_kept ?_
    | with_reducible refine resKept_next ?_
    | with_reducible refine kept_ite ?_ ?_
    | with_reducible refine resKept_ite ?_ ?_
    | split
    | dsimp only

theorem execInterruptCoalesce_kept {q₀ : List Instr} {k : QueueRef} {s : State} (h : s.Kept q₀) : ResKept (execInterruptCoalesce k s) q₀ := by
  unfold execInterruptCoalesce
  repeat' first
    | with_reducible assumption
    | with_reducible refine State.setQp_kept ?_
    | with_reducible refine State.sliceInterrupt_kept ?_
    | with_reducible refine State.setNvq_kept ?_
    | with_reducible refine resKept_next ?_
    | with_reducible refine kept_ite ?_ ?_
    | with_reducible refine resKept_ite ?_ ?_
    | split
    | dsimp only

theorem execRangeLockGrant_kept {q₀ : List Instr} {id : ℕ} {s : State} (h : s.Kept q₀) : ResKept (execRangeLockGrant id s) q₀ := by
  unfold execRangeLockGrant
  repeat' first
    | with_reducible assumption
    | with_reducible refine resKept_next ?_
    | with_reducible refine kept_ite ?_ ?_
    | with_reducible refine resKept_ite ?_ ?_
    | split
    | dsimp only
    | with_reducible refine kept_storage ?_

theorem State.nvTake_kept {q₀ : List Instr} {s : State} {t1 : ℕ} {k : ℕ} {e1 : List Byte} (h : s.Kept q₀) : (State.nvTake s t1 k e1).Kept q₀ := by
  unfold State.nvTake
  repeat' first
    | with_reducible assumption
    | with_reducible refine State.disarm_kept ?_
    | with_reducible refine State.carry_kept ?_
    | with_reducible refine State.hbmRequest_kept ?_
    | with_reducible refine State.opStart_kept ?_
    | with_reducible refine State.setNvq_kept ?_
    | with_reducible refine State.setCtrl_kept ?_
    | with_reducible refine State.sqPump_kept ?_
    | with_reducible refine kept_ite ?_ ?_
    | split
    | dsimp only
    | with_reducible refine kept_storage ?_

theorem State.fetchFirst_kept {q₀ : List Instr} {s : State} {t1 : ℕ} {fuel : List (ℕ × List Byte)} (h : s.Kept q₀) : (State.fetchFirst s t1 fuel).Kept q₀ := by
  induction fuel generalizing s t1 with
  | nil =>
    unfold State.fetchFirst
    repeat' first
      | with_reducible assumption
      | with_reducible refine State.bump_kept ?_
      | with_reducible refine State.bumpSlice_kept ?_
      | with_reducible refine State.nvTake_kept ?_
      | with_reducible refine kept_ite ?_ ?_
      | split
      | refine kept_fst ‹_› ?_
      | dsimp only
  | cons a l ih =>
    unfold State.fetchFirst
    repeat' first
      | with_reducible assumption
      | with_reducible refine ih ?_
      | with_reducible refine State.bump_kept ?_
      | with_reducible refine State.bumpSlice_kept ?_
      | with_reducible refine State.nvTake_kept ?_
      | with_reducible refine kept_ite ?_ ?_
      | split
      | refine kept_fst ‹_› ?_
      | dsimp only

theorem execCommandFetch_kept {q₀ : List Instr} {t1 : Fin 4} {off : ℕ} {s : State} (h : s.Kept q₀) : ResKept (execCommandFetch t1 off s) q₀ := by
  unfold execCommandFetch
  repeat' first
    | with_reducible assumption
    | with_reducible refine State.moveTo_kept ?_
    | with_reducible refine State.sqPump_kept ?_
    | with_reducible refine State.fetchFirst_kept ?_
    | with_reducible refine kept_foldl ?_ (fun _ _ _ => ?_)
    | with_reducible refine kept_foldl_pair ?_ (fun _ _ _ _ => ?_)
    | with_reducible refine resKept_next ?_
    | with_reducible refine kept_ite ?_ ?_
    | with_reducible refine resKept_ite ?_ ?_
    | split
    | refine kept_fst ‹_› ?_
    | dsimp only

theorem State.nvAdmin_kept {q₀ : List Instr} {s : State} {id : ℕ} {op : ℕ} {f : NvmeCmd → State} (h : s.Kept q₀) (hf : ∀ a0, (f a0).Kept q₀) : (State.nvAdmin s id op f).Kept q₀ := by
  unfold State.nvAdmin
  repeat' first
    | with_reducible assumption
    | with_reducible refine hf _
    | with_reducible refine State.nvDone_kept ?_
    | with_reducible refine kept_ite ?_ ?_
    | split
    | dsimp only

theorem State.setNvCmd_kept {q₀ : List Instr} {s : State} {c : NvmeCmd} (h : s.Kept q₀) : (State.setNvCmd s c).Kept q₀ := by
  unfold State.setNvCmd
  repeat' first
    | with_reducible assumption
    | with_reducible refine kept_ite ?_ ?_
    | split
    | dsimp only
    | with_reducible refine kept_storage ?_

theorem State.nvWriteAs_kept {q₀ : List Instr} {s : State} {poisoned : Bool} {c : NvmeCmd} {pages : List ℕ} {bs : List Byte} (h : s.Kept q₀) : (State.nvWriteAs s poisoned c pages bs).Kept q₀ := by
  unfold State.nvWriteAs
  repeat' first
    | with_reducible assumption
    | with_reducible refine State.hostWriteFrom_kept ?_
    | with_reducible refine kept_foldl ?_ (fun _ _ _ => ?_)
    | with_reducible refine kept_foldl_pair ?_ (fun _ _ _ _ => ?_)
    | with_reducible refine kept_ite ?_ ?_
    | split
    | refine kept_fst ‹_› ?_
    | dsimp only

theorem State.nvWrite_kept {q₀ : List Instr} {s : State} {c : NvmeCmd} {pages : List ℕ} {bs : List Byte} (h : s.Kept q₀) : (State.nvWrite s c pages bs).Kept q₀ := by
  unfold State.nvWrite
  repeat' first
    | with_reducible assumption
    | with_reducible refine State.nvWriteAs_kept ?_
    | with_reducible refine kept_ite ?_ ?_
    | split
    | dsimp only

theorem execCreateIoCq_kept {q₀ : List Instr} {id : ℕ} {s : State} (h : s.Kept q₀) : ResKept (execCreateIoCq id s) q₀ := by
  unfold execCreateIoCq
  repeat' first
    | with_reducible assumption
    | with_reducible refine State.setNvq_kept ?_
    | with_reducible refine State.nvDone_kept ?_
    | with_reducible refine State.nvAdmin_kept ?_ (fun _ => ?_)
    | with_reducible refine resKept_next ?_
    | with_reducible refine kept_ite ?_ ?_
    | with_reducible refine resKept_ite ?_ ?_
    | split
    | dsimp only

theorem execCreateIoSq_kept {q₀ : List Instr} {id : ℕ} {s : State} (h : s.Kept q₀) : ResKept (execCreateIoSq id s) q₀ := by
  unfold execCreateIoSq
  repeat' first
    | with_reducible assumption
    | with_reducible refine State.setNvq_kept ?_
    | with_reducible refine State.nvDone_kept ?_
    | with_reducible refine State.nvAdmin_kept ?_ (fun _ => ?_)
    | with_reducible refine resKept_next ?_
    | with_reducible refine kept_ite ?_ ?_
    | with_reducible refine resKept_ite ?_ ?_
    | split
    | dsimp only

theorem execDeleteIoSq_kept {q₀ : List Instr} {id : ℕ} {s : State} (h : s.Kept q₀) : ResKept (execDeleteIoSq id s) q₀ := by
  unfold execDeleteIoSq
  repeat' first
    | with_reducible assumption
    | with_reducible refine State.abandonReads_kept ?_
    | with_reducible refine State.setNvq_kept ?_
    | with_reducible refine State.nvDone_kept ?_
    | with_reducible refine State.nvAdmin_kept ?_ (fun _ => ?_)
    | with_reducible refine kept_foldl ?_ (fun _ _ _ => ?_)
    | with_reducible refine kept_foldl_pair ?_ (fun _ _ _ _ => ?_)
    | with_reducible refine resKept_next ?_
    | with_reducible refine kept_ite ?_ ?_
    | with_reducible refine resKept_ite ?_ ?_
    | split
    | refine kept_fst ‹_› ?_
    | dsimp only

theorem execDeleteIoCq_kept {q₀ : List Instr} {id : ℕ} {s : State} (h : s.Kept q₀) : ResKept (execDeleteIoCq id s) q₀ := by
  unfold execDeleteIoCq
  repeat' first
    | with_reducible assumption
    | with_reducible refine State.setNvq_kept ?_
    | with_reducible refine State.nvDone_kept ?_
    | with_reducible refine State.nvAdmin_kept ?_ (fun _ => ?_)
    | with_reducible refine resKept_next ?_
    | with_reducible refine kept_ite ?_ ?_
    | with_reducible refine resKept_ite ?_ ?_
    | split
    | dsimp only

theorem execNvmeIdentify_kept {q₀ : List Instr} {id : ℕ} {s : State} (h : s.Kept q₀) : ResKept (execNvmeIdentify id s) q₀ := by
  unfold execNvmeIdentify
  repeat' first
    | with_reducible assumption
    | with_reducible refine State.openBits_kept ?_
    | with_reducible refine State.nvDone_kept ?_
    | with_reducible refine State.nvAdmin_kept ?_ (fun _ => ?_)
    | with_reducible refine State.nvWrite_kept ?_
    | with_reducible refine resKept_next ?_
    | with_reducible refine kept_ite ?_ ?_
    | with_reducible refine resKept_ite ?_ ?_
    | with_reducible refine kept_ite_fst ?_ ?_
    | split
    | refine kept_fst ‹_› ?_
    | dsimp only

theorem execGetLogPage_kept {q₀ : List Instr} {id : ℕ} {s : State} (h : s.Kept q₀) : ResKept (execGetLogPage id s) q₀ := by
  unfold execGetLogPage
  repeat' first
    | with_reducible assumption
    | with_reducible refine State.openBits_kept ?_
    | with_reducible refine State.nvDone_kept ?_
    | with_reducible refine State.nvAdmin_kept ?_ (fun _ => ?_)
    | with_reducible refine State.nvWrite_kept ?_
    | with_reducible refine resKept_next ?_
    | with_reducible refine kept_ite ?_ ?_
    | with_reducible refine resKept_ite ?_ ?_
    | with_reducible refine kept_ite_fst ?_ ?_
    | split
    | refine kept_fst ‹_› ?_
    | dsimp only

theorem execNvmeAbort_kept {q₀ : List Instr} {id : ℕ} {s : State} (h : s.Kept q₀) : ResKept (execNvmeAbort id s) q₀ := by
  unfold execNvmeAbort
  repeat' first
    | with_reducible assumption
    | with_reducible refine State.nvDone_kept ?_
    | with_reducible refine State.nvAdmin_kept ?_ (fun _ => ?_)
    | with_reducible refine resKept_next ?_
    | with_reducible refine kept_ite ?_ ?_
    | with_reducible refine resKept_ite ?_ ?_
    | split
    | dsimp only

theorem execSetFeatures_kept {q₀ : List Instr} {id : ℕ} {s : State} (h : s.Kept q₀) : ResKept (execSetFeatures id s) q₀ := by
  unfold execSetFeatures
  repeat' first
    | with_reducible assumption
    | with_reducible refine State.read_kept ?_
    | with_reducible refine State.setCtrl_kept ?_
    | with_reducible refine State.nvDone_kept ?_
    | with_reducible refine State.nvAdmin_kept ?_ (fun _ => ?_)
    | with_reducible refine State.setNvCmd_kept ?_
    | with_reducible refine kept_foldl ?_ (fun _ _ _ => ?_)
    | with_reducible refine kept_foldl_pair ?_ (fun _ _ _ _ => ?_)
    | with_reducible refine resKept_next ?_
    | with_reducible refine kept_ite ?_ ?_
    | with_reducible refine resKept_ite ?_ ?_
    | split
    | refine kept_fst ‹_› ?_
    | dsimp only

theorem execGetFeatures_kept {q₀ : List Instr} {id : ℕ} {s : State} (h : s.Kept q₀) : ResKept (execGetFeatures id s) q₀ := by
  unfold execGetFeatures
  repeat' first
    | with_reducible assumption
    | with_reducible refine State.nvDone_kept ?_
    | with_reducible refine State.nvAdmin_kept ?_ (fun _ => ?_)
    | with_reducible refine State.nvWrite_kept ?_
    | with_reducible refine resKept_next ?_
    | with_reducible refine kept_ite ?_ ?_
    | with_reducible refine resKept_ite ?_ ?_
    | split
    | dsimp only

theorem execAsynchronousEventRequest_kept {q₀ : List Instr} {id : ℕ} {s : State} (h : s.Kept q₀) : ResKept (execAsynchronousEventRequest id s) q₀ := by
  unfold execAsynchronousEventRequest
  repeat' first
    | with_reducible assumption
    | with_reducible refine State.setCtrl_kept ?_
    | with_reducible refine State.nvDone_kept ?_
    | with_reducible refine State.nvAdmin_kept ?_ (fun _ => ?_)
    | with_reducible refine State.setNvCmd_kept ?_
    | with_reducible refine resKept_next ?_
    | with_reducible refine kept_ite ?_ ?_
    | with_reducible refine resKept_ite ?_ ?_
    | split
    | dsimp only

theorem execInvalidCommandOpcode_kept {q₀ : List Instr} {id : ℕ} {s : State} (h : s.Kept q₀) : ResKept (execInvalidCommandOpcode id s) q₀ := by
  unfold execInvalidCommandOpcode
  repeat' first
    | with_reducible assumption
    | with_reducible refine State.nvDone_kept ?_
    | with_reducible refine resKept_next ?_
    | with_reducible refine kept_ite ?_ ?_
    | with_reducible refine resKept_ite ?_ ?_
    | split
    | dsimp only

theorem execApstIdleTimer_kept {q₀ : List Instr} {link : Fin 4} {s : State} (h : s.Kept q₀) : ResKept (execApstIdleTimer link s) q₀ := by
  unfold execApstIdleTimer
  repeat' first
    | with_reducible assumption
    | with_reducible refine State.arm_kept ?_
    | with_reducible refine State.setCtrl_kept ?_
    | with_reducible refine resKept_next ?_
    | with_reducible refine kept_ite ?_ ?_
    | with_reducible refine resKept_ite ?_ ?_
    | split
    | dsimp only

end Sys2Proof.Machine
end

