-- ==== Sys2Proof/Laws/KeptMapping.lean ====
section
/-! SUPPORT. Laws/KeptMapping.lean: every operation of Machine/Mapping.lean keeps the queue and the canonical form. -/

namespace Sys2Proof.Machine

theorem State.backingSend_kept {q₀ : List Instr} {s : State} {b : BackingCmd} (h : s.Kept q₀) : (State.backingSend s b).Kept q₀ := by
  unfold State.backingSend
  repeat' first
    | with_reducible assumption
    | with_reducible refine State.emit_kept ?_
    | with_reducible refine kept_ite ?_ ?_
    | split
    | dsimp only

theorem State.backingIssue_kept {q₀ : List Instr} {s : State} {b : BackingCmd} (h : s.Kept q₀) : (State.backingIssue s b).1.Kept q₀ := by
  unfold State.backingIssue
  repeat' first
    | with_reducible assumption
    | with_reducible refine State.arm_kept ?_
    | with_reducible refine State.backingSend_kept ?_
    | with_reducible refine kept_ite ?_ ?_
    | with_reducible refine kept_ite_fst ?_ ?_
    | split
    | dsimp only
    | with_reducible refine kept_storage ?_

theorem State.backingDrop_kept {q₀ : List Instr} {s : State} {id : ℕ} (h : s.Kept q₀) : (State.backingDrop s id).Kept q₀ := by
  unfold State.backingDrop
  repeat' first
    | with_reducible assumption
    | with_reducible refine State.disarm_kept ?_
    | with_reducible refine kept_ite ?_ ?_
    | split
    | dsimp only
    | with_reducible refine kept_storage ?_

theorem State.readUnit_kept {q₀ : List Instr} {s : State} {c : NvmeCmd} {u : ℕ} {block : ℕ} (h : s.Kept q₀) : (State.readUnit s c u block).1.Kept q₀ := by
  unfold State.readUnit
  repeat' first
    | with_reducible assumption
    | with_reducible refine State.backingIssue_kept ?_
    | with_reducible refine kept_ite ?_ ?_
    | with_reducible refine kept_ite_fst ?_ ?_
    | split
    | refine kept_fst ‹_› ?_
    | dsimp only

theorem State.fetchUnits_kept {q₀ : List Instr} {s : State} {c : NvmeCmd} {fuel : List ℕ} (h : s.Kept q₀) : (State.fetchUnits s c fuel).1.Kept q₀ := by
  induction fuel generalizing s c with
  | nil =>
    unfold State.fetchUnits
    repeat' first
      | with_reducible assumption
      | with_reducible refine State.readUnit_kept ?_
      | with_reducible refine kept_ite ?_ ?_
      | with_reducible refine kept_ite_fst ?_ ?_
      | split
      | refine kept_fst ‹_› ?_
      | dsimp only
  | cons a l ih =>
    unfold State.fetchUnits
    repeat' first
      | with_reducible assumption
      | with_reducible refine ih ?_
      | with_reducible refine State.readUnit_kept ?_
      | with_reducible refine kept_ite ?_ ?_
      | with_reducible refine kept_ite_fst ?_ ?_
      | split
      | refine kept_fst ‹_› ?_
      | dsimp only

theorem State.pickBlocks_kept {q₀ : List Instr} {s : State} {n : ℕ} {used : List ℕ} {fuel : List ℕ} (h : s.Kept q₀) : (State.pickBlocks s n used fuel).1.Kept q₀ := by
  induction fuel generalizing s n used with
  | nil =>
    unfold State.pickBlocks
    repeat' first
      | with_reducible assumption
      | with_reducible refine State.openBits_kept ?_
      | with_reducible refine kept_ite ?_ ?_
      | with_reducible refine kept_ite_fst ?_ ?_
      | split
      | refine kept_fst ‹_› ?_
      | dsimp only
  | cons a l ih =>
    unfold State.pickBlocks
    repeat' first
      | with_reducible assumption
      | with_reducible refine ih ?_
      | with_reducible refine State.openBits_kept ?_
      | with_reducible refine kept_ite ?_ ?_
      | with_reducible refine kept_ite_fst ?_ ?_
      | split
      | refine kept_fst ‹_› ?_
      | dsimp only

theorem State.pumpJournal_kept {q₀ : List Instr} {s : State} {n : ℕ} (h : s.Kept q₀) : (State.pumpJournal s n).Kept q₀ := by
  unfold State.pumpJournal
  repeat' first
    | with_reducible assumption
    | with_reducible refine State.openBits_kept ?_
    | with_reducible refine State.backingIssue_kept ?_
    | with_reducible refine kept_ite ?_ ?_
    | with_reducible refine kept_ite_fst ?_ ?_
    | split
    | refine kept_fst ‹_› ?_
    | dsimp only
    | with_reducible refine kept_storage ?_

theorem State.writeBack_kept {q₀ : List Instr} {s : State} {c : NvmeCmd} {seq : ℕ} {units : List (ℕ × List Byte)} {gone : List ℕ} (h : s.Kept q₀) : (State.writeBack s c seq units gone).Kept q₀ := by
  unfold State.writeBack
  repeat' first
    | with_reducible assumption
    | with_reducible refine State.backingIssue_kept ?_
    | with_reducible refine State.pickBlocks_kept ?_
    | with_reducible refine State.pumpJournal_kept ?_
    | with_reducible refine kept_foldl ?_ (fun _ _ _ => ?_)
    | with_reducible refine kept_foldl_pair ?_ (fun _ _ _ _ => ?_)
    | with_reducible refine kept_ite ?_ ?_
    | with_reducible refine kept_ite_fst ?_ ?_
    | split
    | refine kept_fst ‹_› ?_
    | dsimp only
    | with_reducible refine kept_storage ?_

theorem State.commitPiece_kept {q₀ : List Instr} {s : State} {c : NvmeCmd} {base : ℕ} {data : Option (List Byte)} {p : ℕ × ℕ} (h : s.Kept q₀) : (State.commitPiece s c base data p).1.Kept q₀ := by
  unfold State.commitPiece
  repeat' first
    | with_reducible assumption
    | with_reducible refine State.bump_kept ?_
    | with_reducible refine State.hbmRequest_kept ?_
    | with_reducible refine State.poolTake_kept ?_
    | with_reducible refine State.useSlot_kept ?_
    | with_reducible refine State.setNspace_kept ?_
    | with_reducible refine State.nsCount_kept ?_
    | with_reducible refine State.writeBack_kept ?_
    | with_reducible refine kept_foldl ?_ (fun _ _ _ => ?_)
    | with_reducible refine kept_foldl_pair ?_ (fun _ _ _ _ => ?_)
    | with_reducible refine kept_ite ?_ ?_
    | with_reducible refine kept_ite_fst ?_ ?_
    | split
    | refine kept_fst ‹_› ?_
    | dsimp only
    | with_reducible refine kept_storage ?_

theorem State.commitAll_kept {q₀ : List Instr} {s : State} {c : NvmeCmd} {base : ℕ} {data : Option (List Byte)} {fuel : List (ℕ × ℕ)} (h : s.Kept q₀) : (State.commitAll s c base data fuel).1.Kept q₀ := by
  induction fuel generalizing s c base data with
  | nil =>
    unfold State.commitAll
    repeat' first
      | with_reducible assumption
      | with_reducible refine State.commitPiece_kept ?_
      | with_reducible refine kept_ite ?_ ?_
      | with_reducible refine kept_ite_fst ?_ ?_
      | split
      | refine kept_fst ‹_› ?_
      | dsimp only
  | cons a l ih =>
    unfold State.commitAll
    repeat' first
      | with_reducible assumption
      | with_reducible refine ih ?_
      | with_reducible refine State.commitPiece_kept ?_
      | with_reducible refine kept_ite ?_ ?_
      | with_reducible refine kept_ite_fst ?_ ?_
      | split
      | refine kept_fst ‹_› ?_
      | dsimp only

theorem State.durableCheck_kept {q₀ : List Instr} {s : State} {n : ℕ} (h : s.Kept q₀) : (State.durableCheck s n).Kept q₀ := by
  unfold State.durableCheck
  repeat' first
    | with_reducible assumption
    | with_reducible refine State.nvDone_kept ?_
    | with_reducible refine kept_foldl ?_ (fun _ _ _ => ?_)
    | with_reducible refine kept_foldl_pair ?_ (fun _ _ _ _ => ?_)
    | with_reducible refine kept_ite ?_ ?_
    | split
    | refine kept_fst ‹_› ?_
    | dsimp only

theorem State.nvDeliver_kept {q₀ : List Instr} {s : State} {c : NvmeCmd} {staged : List ℕ} {bs : List Byte} (h : s.Kept q₀) : (State.nvDeliver s c staged bs).Kept q₀ := by
  unfold State.nvDeliver
  repeat' first
    | with_reducible assumption
    | with_reducible refine State.bump_kept ?_
    | with_reducible refine State.raiseLimited_kept ?_
    | with_reducible refine State.hbmRequest_kept ?_
    | with_reducible refine State.nvWriteAs_kept ?_
    | with_reducible refine State.nvWrite_kept ?_
    | with_reducible refine kept_foldl ?_ (fun _ _ _ => ?_)
    | with_reducible refine kept_foldl_pair ?_ (fun _ _ _ _ => ?_)
    | with_reducible refine kept_ite ?_ ?_
    | split
    | refine kept_fst ‹_› ?_
    | dsimp only
    | with_reducible refine kept_memory ?_

theorem State.nvFail_kept {q₀ : List Instr} {s : State} {c : NvmeCmd} {sc : ℕ} (h : s.Kept q₀) : (State.nvFail s c sc).Kept q₀ := by
  unfold State.nvFail
  repeat' first
    | with_reducible assumption
    | with_reducible refine State.poolGive_kept ?_
    | with_reducible refine State.nvDone_kept ?_
    | with_reducible refine State.backingDrop_kept ?_
    | with_reducible refine State.durableCheck_kept ?_
    | with_reducible refine kept_foldl ?_ (fun _ _ _ => ?_)
    | with_reducible refine kept_foldl_pair ?_ (fun _ _ _ _ => ?_)
    | with_reducible refine kept_ite ?_ ?_
    | split
    | refine kept_fst ‹_› ?_
    | dsimp only

theorem State.nvFinish_kept {q₀ : List Instr} {s : State} {c : NvmeCmd} (h : s.Kept q₀) : (State.nvFinish s c).Kept q₀ := by
  unfold State.nvFinish
  repeat' first
    | with_reducible assumption
    | with_reducible refine State.bump_kept ?_
    | with_reducible refine State.useSlot_kept ?_
    | with_reducible refine State.setCtrl_kept ?_
    | with_reducible refine State.nsCount_kept ?_
    | with_reducible refine State.nvDone_kept ?_
    | with_reducible refine State.setNvCmd_kept ?_
    | with_reducible refine State.fetchUnits_kept ?_
    | with_reducible refine State.commitAll_kept ?_
    | with_reducible refine State.durableCheck_kept ?_
    | with_reducible refine State.nvDeliver_kept ?_
    | with_reducible refine State.nvFail_kept ?_
    | with_reducible refine kept_ite ?_ ?_
    | with_reducible refine kept_ite_fst ?_ ?_
    | split
    | refine kept_fst ‹_› ?_
    | dsimp only

theorem State.nvList_kept {q₀ : List Instr} {s : State} {c : NvmeCmd} (h : s.Kept q₀) : (State.nvList s c).Kept q₀ := by
  unfold State.nvList
  repeat' first
    | with_reducible assumption
    | with_reducible refine State.read_kept ?_
    | with_reducible refine State.setNvCmd_kept ?_
    | with_reducible refine kept_ite ?_ ?_
    | split
    | dsimp only

theorem State.nvMove_kept {q₀ : List Instr} {s : State} {c0 : NvmeCmd} {len : ℕ} (h : s.Kept q₀) : (State.nvMove s c0 len).Kept q₀ := by
  unfold State.nvMove
  repeat' first
    | with_reducible assumption
    | with_reducible refine State.read_kept ?_
    | with_reducible refine State.setNvCmd_kept ?_
    | with_reducible refine State.fetchUnits_kept ?_
    | with_reducible refine State.nvFinish_kept ?_
    | with_reducible refine kept_foldl ?_ (fun _ _ _ => ?_)
    | with_reducible refine kept_foldl_pair ?_ (fun _ _ _ _ => ?_)
    | with_reducible refine kept_ite ?_ ?_
    | with_reducible refine kept_ite_fst ?_ ?_
    | split
    | refine kept_fst ‹_› ?_
    | dsimp only

theorem State.nvBegin_kept {q₀ : List Instr} {s : State} {c : NvmeCmd} (h : s.Kept q₀) : (State.nvBegin s c).Kept q₀ := by
  unfold State.nvBegin
  repeat' first
    | with_reducible assumption
    | with_reducible refine State.nvList_kept ?_
    | with_reducible refine State.nvMove_kept ?_
    | with_reducible refine kept_ite ?_ ?_
    | split
    | dsimp only

theorem State.nvAdvance_kept {q₀ : List Instr} {s : State} {c : NvmeCmd} (h : s.Kept q₀) : (State.nvAdvance s c).Kept q₀ := by
  unfold State.nvAdvance
  repeat' first
    | with_reducible assumption
    | with_reducible refine State.setNvCmd_kept ?_
    | with_reducible refine State.nvFinish_kept ?_
    | with_reducible refine State.nvList_kept ?_
    | with_reducible refine State.nvMove_kept ?_
    | with_reducible refine kept_ite ?_ ?_
    | split
    | dsimp only

theorem State.nvData_kept {q₀ : List Instr} {s : State} {r : Dma} {data : Option (List Byte)} (h : s.Kept q₀) : (State.nvData s r data).Kept q₀ := by
  unfold State.nvData
  repeat' first
    | with_reducible assumption
    | with_reducible refine State.raiseLimited_kept ?_
    | with_reducible refine State.setNvq_kept ?_
    | with_reducible refine State.nvFail_kept ?_
    | with_reducible refine State.nvAdvance_kept ?_
    | with_reducible refine kept_ite ?_ ?_
    | split
    | dsimp only

theorem State.nvIo_kept {q₀ : List Instr} {s : State} {id : ℕ} {op : ℕ} {f : NvmeCmd → State} (h : s.Kept q₀) (hf : ∀ a0, (f a0).Kept q₀) : (State.nvIo s id op f).Kept q₀ := by
  unfold State.nvIo
  repeat' first
    | with_reducible assumption
    | with_reducible refine hf _
    | with_reducible refine State.nvDone_kept ?_
    | with_reducible refine kept_ite ?_ ?_
    | split
    | dsimp only

theorem execNvmeWrite_kept {q₀ : List Instr} {id : ℕ} {s : State} (h : s.Kept q₀) : ResKept (execNvmeWrite id s) q₀ := by
  unfold execNvmeWrite
  repeat' first
    | with_reducible assumption
    | with_reducible refine State.bump_kept ?_
    | with_reducible refine State.poolTake_kept ?_
    | with_reducible refine State.nvBegin_kept ?_
    | with_reducible refine State.nvIo_kept ?_ (fun _ => ?_)
    | with_reducible refine resKept_next ?_
    | with_reducible refine kept_ite ?_ ?_
    | with_reducible refine resKept_ite ?_ ?_
    | split
    | dsimp only

theorem execNvmeRead_kept {q₀ : List Instr} {id : ℕ} {s : State} (h : s.Kept q₀) : ResKept (execNvmeRead id s) q₀ := by
  unfold execNvmeRead
  repeat' first
    | with_reducible assumption
    | with_reducible refine State.nvDone_kept ?_
    | with_reducible refine State.nvBegin_kept ?_
    | with_reducible refine State.nvIo_kept ?_ (fun _ => ?_)
    | with_reducible refine resKept_next ?_
    | with_reducible refine kept_ite ?_ ?_
    | with_reducible refine resKept_ite ?_ ?_
    | split
    | dsimp only

theorem execWriteZeroes_kept {q₀ : List Instr} {id : ℕ} {s : State} (h : s.Kept q₀) : ResKept (execWriteZeroes id s) q₀ := by
  unfold execWriteZeroes
  repeat' first
    | with_reducible assumption
    | with_reducible refine State.setNvCmd_kept ?_
    | with_reducible refine State.nvFinish_kept ?_
    | with_reducible refine State.nvIo_kept ?_ (fun _ => ?_)
    | with_reducible refine resKept_next ?_
    | with_reducible refine kept_ite ?_ ?_
    | with_reducible refine resKept_ite ?_ ?_
    | split
    | dsimp only

theorem execDatasetManagement_kept {q₀ : List Instr} {id : ℕ} {s : State} (h : s.Kept q₀) : ResKept (execDatasetManagement id s) q₀ := by
  unfold execDatasetManagement
  repeat' first
    | with_reducible assumption
    | with_reducible refine State.nvDone_kept ?_
    | with_reducible refine State.nvBegin_kept ?_
    | with_reducible refine State.nvIo_kept ?_ (fun _ => ?_)
    | with_reducible refine resKept_next ?_
    | with_reducible refine kept_ite ?_ ?_
    | with_reducible refine resKept_ite ?_ ?_
    | split
    | dsimp only

theorem execNvmeFlush_kept {q₀ : List Instr} {id : ℕ} {s : State} (h : s.Kept q₀) : ResKept (execNvmeFlush id s) q₀ := by
  unfold execNvmeFlush
  repeat' first
    | with_reducible assumption
    | with_reducible refine State.nvDone_kept ?_
    | with_reducible refine State.setNvCmd_kept ?_
    | with_reducible refine State.nvIo_kept ?_ (fun _ => ?_)
    | with_reducible refine resKept_next ?_
    | with_reducible refine kept_ite ?_ ?_
    | with_reducible refine resKept_ite ?_ ?_
    | split
    | dsimp only

theorem execWriteBackComplete_kept {q₀ : List Instr} {n : ℕ} {seq : ℕ} {s : State} (h : s.Kept q₀) : ResKept (execWriteBackComplete n seq s) q₀ := by
  unfold execWriteBackComplete
  repeat' first
    | with_reducible assumption
    | with_reducible refine State.poolGive_kept ?_
    | with_reducible refine kept_foldl ?_ (fun _ _ _ => ?_)
    | with_reducible refine kept_foldl_pair ?_ (fun _ _ _ _ => ?_)
    | with_reducible refine resKept_next ?_
    | with_reducible refine kept_ite ?_ ?_
    | with_reducible refine resKept_ite ?_ ?_
    | split
    | refine kept_fst ‹_› ?_
    | dsimp only
    | with_reducible refine kept_storage ?_

theorem State.nsFail_kept {q₀ : List Instr} {s : State} {n : ℕ} (h : s.Kept q₀) : (State.nsFail s n).Kept q₀ := by
  unfold State.nsFail
  repeat' first
    | with_reducible assumption
    | with_reducible refine State.wr_kept ?_
    | with_reducible refine State.raise_kept ?_
    | with_reducible refine State.poolGive_kept ?_
    | with_reducible refine State.nvEventAll_kept ?_
    | with_reducible refine State.backingDrop_kept ?_
    | with_reducible refine State.nvFail_kept ?_
    | with_reducible refine kept_foldl ?_ (fun _ _ _ => ?_)
    | with_reducible refine kept_foldl_pair ?_ (fun _ _ _ _ => ?_)
    | with_reducible refine kept_ite ?_ ?_
    | split
    | refine kept_fst ‹_› ?_
    | dsimp only
    | with_reducible refine kept_storage ?_

theorem State.backingFailed_kept {q₀ : List Instr} {s : State} {b : BackingCmd} {sc : ℕ} (h : s.Kept q₀) : (State.backingFailed s b sc).Kept q₀ := by
  unfold State.backingFailed
  repeat' first
    | with_reducible assumption
    | with_reducible refine State.backingDrop_kept ?_
    | with_reducible refine State.nvFail_kept ?_
    | with_reducible refine State.nsFail_kept ?_
    | with_reducible refine kept_ite ?_ ?_
    | split
    | dsimp only

theorem State.journalDurable_kept {q₀ : List Instr} {s : State} {n : ℕ} {seq : ℕ} (h : s.Kept q₀) : (State.journalDurable s n seq).Kept q₀ := by
  unfold State.journalDurable
  repeat' first
    | with_reducible assumption
    | with_reducible refine kept_foldl ?_ (fun _ _ _ => ?_)
    | with_reducible refine kept_foldl_pair ?_ (fun _ _ _ _ => ?_)
    | with_reducible refine kept_ite ?_ ?_
    | split
    | refine kept_fst ‹_› ?_
    | dsimp only
    | with_reducible refine kept_storage ?_

theorem execBackingCompletion_kept {q₀ : List Instr} {t1 : Fin 4} {target : ℕ} {id : ℕ} {good : Bool} {data : List Byte} {s : State} (h : s.Kept q₀) : ResKept (execBackingCompletion t1 target id good data s) q₀ := by
  unfold execBackingCompletion
  repeat' first
    | with_reducible assumption
    | with_reducible refine State.bump_kept ?_
    | with_reducible refine State.backingDrop_kept ?_
    | with_reducible refine State.pumpJournal_kept ?_
    | with_reducible refine State.durableCheck_kept ?_
    | with_reducible refine State.nvAdvance_kept ?_
    | with_reducible refine State.backingFailed_kept ?_
    | with_reducible refine State.journalDurable_kept ?_
    | with_reducible refine resKept_next ?_
    | with_reducible refine kept_ite ?_ ?_
    | with_reducible refine resKept_ite ?_ ?_
    | split
    | dsimp only
    | with_reducible refine kept_storage ?_

theorem execBackingTimeout_kept {q₀ : List Instr} {id : ℕ} {s : State} (h : s.Kept q₀) : ResKept (execBackingTimeout id s) q₀ := by
  unfold execBackingTimeout
  repeat' first
    | with_reducible assumption
    | with_reducible refine State.emit_kept ?_
    | with_reducible refine State.arm_kept ?_
    | with_reducible refine State.backingSend_kept ?_
    | with_reducible refine State.backingFailed_kept ?_
    | with_reducible refine resKept_next ?_
    | with_reducible refine kept_ite ?_ ?_
    | with_reducible refine resKept_ite ?_ ?_
    | split
    | dsimp only
    | with_reducible refine kept_storage ?_

theorem execSsdInboundRequest_kept {q₀ : List Instr} {n : Fin 4} {target : SsdTarget} {nonPosted : Bool} {s : State} (h : s.Kept q₀) : ResKept (execSsdInboundRequest n target nonPosted s) q₀ := by
  unfold execSsdInboundRequest
  repeat' first
    | with_reducible assumption
    | with_reducible refine State.bump_kept ?_
    | with_reducible refine State.emit_kept ?_
    | with_reducible refine State.raiseLimited_kept ?_
    | with_reducible refine resKept_next ?_
    | with_reducible refine kept_ite ?_ ?_
    | with_reducible refine resKept_ite ?_ ?_
    | split
    | dsimp only

theorem execSurpriseRemoval_kept {q₀ : List Instr} {n : Fin 4} {s : State} (h : s.Kept q₀) : ResKept (execSurpriseRemoval n s) q₀ := by
  unfold execSurpriseRemoval
  repeat' first
    | with_reducible assumption
    | with_reducible refine State.wr_kept ?_
    | with_reducible refine State.nsFail_kept ?_
    | with_reducible refine kept_foldl ?_ (fun _ _ _ => ?_)
    | with_reducible refine kept_foldl_pair ?_ (fun _ _ _ _ => ?_)
    | with_reducible refine resKept_next ?_
    | with_reducible refine kept_ite ?_ ?_
    | with_reducible refine resKept_ite ?_ ?_
    | split
    | refine kept_fst ‹_› ?_
    | dsimp only

theorem execSsdLinkUp_kept {q₀ : List Instr} {n : Fin 4} {acceptable : Bool} {exlat : List ℕ} {s : State} (h : s.Kept q₀) : ResKept (execSsdLinkUp n acceptable exlat s) q₀ := by
  unfold execSsdLinkUp
  repeat' first
    | with_reducible assumption
    | with_reducible refine State.wr_kept ?_
    | with_reducible refine State.raise_kept ?_
    | with_reducible refine resKept_next ?_
    | with_reducible refine kept_ite ?_ ?_
    | with_reducible refine resKept_ite ?_ ?_
    | split
    | dsimp only
    | with_reducible refine kept_storage ?_

theorem State.ssdPower_kept {q₀ : List Instr} {s : State} (h : s.Kept q₀) : (State.ssdPower s).Kept q₀ := by
  unfold State.ssdPower
  repeat' first
    | with_reducible assumption
    | with_reducible refine State.emit_kept ?_
    | with_reducible refine forEach_kept ?_ (fun _ _ _ => ?_)
    | with_reducible refine kept_ite ?_ ?_
    | split
    | dsimp only
    | with_reducible refine kept_storage ?_

theorem State.applyNamespace_kept {q₀ : List Instr} {s : State} {n : ℕ} {bs : List Byte} (h : s.Kept q₀) : (State.applyNamespace s n bs).Kept q₀ := by
  unfold State.applyNamespace
  repeat' first
    | with_reducible assumption
    | with_reducible refine State.wr_kept ?_
    | with_reducible refine State.poolTake_kept ?_
    | with_reducible refine State.setNspace_kept ?_
    | with_reducible refine State.nsPurge_kept ?_
    | with_reducible refine State.nvEventAll_kept ?_
    | with_reducible refine kept_ite ?_ ?_
    | split
    | dsimp only

theorem execNamespaceReady_kept {q₀ : List Instr} {n : ℕ} {s : State} (h : s.Kept q₀) : ResKept (execNamespaceReady n s) q₀ := by
  unfold execNamespaceReady
  repeat' first
    | with_reducible assumption
    | with_reducible refine State.wr_kept ?_
    | with_reducible refine State.raise_kept ?_
    | with_reducible refine resKept_next ?_
    | with_reducible refine kept_ite ?_ ?_
    | with_reducible refine resKept_ite ?_ ?_
    | split
    | dsimp only

end Sys2Proof.Machine
end

