-- ==== Sys2Proof/Laws/KeptRoce.lean ====
section
/-! SUPPORT. Laws/KeptRoce.lean: every operation of Machine/Roce.lean keeps the queue and the canonical form. -/

namespace Sys2Proof.Machine

theorem State.setRqp_kept {q₀ : List Instr} {s : State} {n : ℕ} {x1 : RdmaQp} (h : s.Kept q₀) : (State.setRqp s n x1).Kept q₀ := by
  unfold State.setRqp
  repeat' first
    | with_reducible assumption
    | with_reducible refine kept_ite ?_ ?_
    | split
    | dsimp only
    | with_reducible refine kept_rdma ?_

theorem State.setPacing_kept {q₀ : List Instr} {s : State} {n : ℕ} {x1 : Pacing} (h : s.Kept q₀) : (State.setPacing s n x1).Kept q₀ := by
  unfold State.setPacing
  repeat' first
    | with_reducible assumption
    | with_reducible refine kept_ite ?_ ?_
    | split
    | dsimp only
    | with_reducible refine kept_rdma ?_

theorem State.dropRequests_kept {q₀ : List Instr} {s : State} {n : ℕ} (h : s.Kept q₀) : (State.dropRequests s n).Kept q₀ := by
  unfold State.dropRequests
  repeat' first
    | with_reducible assumption
    | with_reducible refine State.setPacing_kept ?_
    | with_reducible refine kept_ite ?_ ?_
    | split
    | dsimp only

theorem State.roceSent_kept {q₀ : List Instr} {s : State} {f : Frame} {stamp : ℕ} {bs : List Byte} (h : s.Kept q₀) : (State.roceSent s f stamp bs).1.Kept q₀ := by
  unfold State.roceSent
  repeat' first
    | with_reducible assumption
    | with_reducible refine State.setRqp_kept ?_
    | with_reducible refine kept_ite ?_ ?_
    | with_reducible refine kept_ite_fst ?_ ?_
    | split
    | dsimp only

end Sys2Proof.Machine
end

