-- ==== Sys2Proof/Laws/KeptSchedule.lean ====
section
/-! SUPPORT. Laws/KeptSchedule.lean: every operation of Machine/Schedule.lean keeps the queue and the canonical form. -/

namespace Sys2Proof.Machine

theorem State.applyGateList_kept {q₀ : List Instr} {s : State} {p : ℕ} {g : GateList} (h : s.Kept q₀) : (State.applyGateList s p g).Kept q₀ := by
  unfold State.applyGateList
  repeat' first
    | with_reducible assumption
    | with_reducible refine State.raise_kept ?_
    | with_reducible refine State.setEgress_kept ?_
    | with_reducible refine kept_ite ?_ ?_
    | split
    | dsimp only

theorem State.gateBoundary_kept {q₀ : List Instr} {s : State} (h : s.Kept q₀) : (State.gateBoundary s).Kept q₀ := by
  unfold State.gateBoundary
  repeat' first
    | with_reducible assumption
    | with_reducible refine State.raise_kept ?_
    | with_reducible refine State.setEgress_kept ?_
    | with_reducible refine kept_foldl ?_ (fun _ _ _ => ?_)
    | with_reducible refine kept_foldl_pair ?_ (fun _ _ _ _ => ?_)
    | with_reducible refine kept_ite ?_ ?_
    | split
    | refine kept_fst ‹_› ?_
    | dsimp only

theorem State.gatesEnd_kept {q₀ : List Instr} {s : State} (h : s.Kept q₀) : (State.gatesEnd s).Kept q₀ := by
  unfold State.gatesEnd
  repeat' first
    | with_reducible assumption
    | with_reducible refine forEach_kept ?_ (fun _ _ _ => ?_)
    | with_reducible refine State.setEgress_kept ?_
    | with_reducible refine kept_ite ?_ ?_
    | split
    | dsimp only

theorem execGateEvent_kept {q₀ : List Instr} {p : PortId} {off : ℕ} {s : State} (h : s.Kept q₀) : ResKept (execGateEvent p off s) q₀ := by
  unfold execGateEvent
  repeat' first
    | with_reducible assumption
    | with_reducible refine State.bump_kept ?_
    | with_reducible refine State.moveTo_kept ?_
    | with_reducible refine State.raiseLimited_kept ?_
    | with_reducible refine resKept_next ?_
    | with_reducible refine kept_ite ?_ ?_
    | with_reducible refine resKept_ite ?_ ?_
    | split
    | dsimp only

theorem State.countDeferral_kept {q₀ : List Instr} {s : State} {p : ℕ} {c : ℕ} (h : s.Kept q₀) : (State.countDeferral s p c).Kept q₀ := by
  unfold State.countDeferral
  repeat' first
    | with_reducible assumption
    | with_reducible refine State.bump_kept ?_
    | with_reducible refine State.setQueue_kept ?_
    | with_reducible refine kept_ite ?_ ?_
    | split
    | dsimp only

theorem State.takeHead_kept {q₀ : List Instr} {s : State} {p : ℕ} {c : ℕ} {f : Frame} (h : s.Kept q₀) : (State.takeHead s p c f).Kept q₀ := by
  unfold State.takeHead
  repeat' first
    | with_reducible assumption
    | with_reducible refine State.setQueue_kept ?_
    | with_reducible refine State.queueEmptied_kept ?_
    | with_reducible refine kept_ite ?_ ?_
    | split
    | dsimp only

theorem State.chargeShaper_kept {q₀ : List Instr} {s : State} {p : ℕ} {c : ℕ} {f : Frame} (h : s.Kept q₀) : (State.chargeShaper s p c f).Kept q₀ := by
  unfold State.chargeShaper
  repeat' first
    | with_reducible assumption
    | with_reducible refine State.setQueue_kept ?_
    | with_reducible refine kept_ite ?_ ?_
    | split
    | dsimp only

theorem State.drr_kept {q₀ : List Instr} {s : State} {p : ℕ} {v : ℕ} {fuel : ℕ} (h : s.Kept q₀) : (State.drr s p v fuel).1.Kept q₀ := by
  induction fuel generalizing s p v with
  | zero =>
    unfold State.drr
    repeat' first
      | with_reducible assumption
      | with_reducible refine State.setQueue_kept ?_
      | with_reducible refine State.setEgress_kept ?_
      | with_reducible refine kept_ite ?_ ?_
      | with_reducible refine kept_ite_fst ?_ ?_
      | split
      | refine kept_fst ‹_› ?_
      | dsimp only
  | succ fuel ih =>
    unfold State.drr
    repeat' first
      | with_reducible assumption
      | with_reducible refine ih ?_
      | with_reducible refine State.setQueue_kept ?_
      | with_reducible refine State.setEgress_kept ?_
      | with_reducible refine kept_ite ?_ ?_
      | with_reducible refine kept_ite_fst ?_ ?_
      | split
      | refine kept_fst ‹_› ?_
      | dsimp only

theorem State.discardSelected_kept {q₀ : List Instr} {s : State} {p : ℕ} {f : Frame} (h : s.Kept q₀) : (State.discardSelected s p f).Kept q₀ := by
  unfold State.discardSelected
  repeat' first
    | with_reducible assumption
    | with_reducible refine State.setEgress_kept ?_
    | with_reducible refine State.uncharge_kept ?_
    | with_reducible refine State.dropAt_kept ?_
    | with_reducible refine kept_ite ?_ ?_
    | split
    | dsimp only

theorem State.startTransmit_kept {q₀ : List Instr} {s : State} {p : ℕ} {f : Frame} {bs : List Byte} {mask : ℕ} (h : s.Kept q₀) : (State.startTransmit s p f bs mask).Kept q₀ := by
  unfold State.startTransmit
  repeat' first
    | with_reducible assumption
    | with_reducible refine State.bump_kept ?_
    | with_reducible refine State.emit_kept ?_
    | with_reducible refine State.setEgress_kept ?_
    | with_reducible refine State.mirrorAll_kept ?_
    | with_reducible refine State.inlineRequest_kept ?_
    | with_reducible refine State.protect_kept ?_
    | with_reducible refine State.sealedDrop_kept ?_
    | with_reducible refine State.roceSent_kept ?_
    | with_reducible refine State.discardSelected_kept ?_
    | with_reducible refine kept_ite ?_ ?_
    | with_reducible refine kept_ite_fst ?_ ?_
    | split
    | refine kept_fst ‹_› ?_
    | dsimp only

theorem State.loopback_kept {q₀ : List Instr} {s : State} {p : ℕ} {f : Frame} {a : Action} {k : Parsed} (h : s.Kept q₀) : (State.loopback s p f a k).1.Kept q₀ := by
  unfold State.loopback
  repeat' first
    | with_reducible assumption
    | with_reducible refine State.fdbForward_kept ?_
    | with_reducible refine State.namedForward_kept ?_
    | with_reducible refine kept_ite ?_ ?_
    | with_reducible refine kept_ite_fst ?_ ?_
    | split
    | refine kept_fst ‹_› ?_
    | dsimp only

theorem State.loopCopies_kept {q₀ : List Instr} {s : State} {p : ℕ} {f : Frame} {bs : List Byte} {dsts : List Dst} (h : s.Kept q₀) : (State.loopCopies s p f bs dsts).Kept q₀ := by
  unfold State.loopCopies
  repeat' first
    | with_reducible assumption
    | with_reducible refine State.bump_kept ?_
    | with_reducible refine State.send_kept ?_
    | with_reducible refine State.newFrame_kept ?_
    | with_reducible refine kept_foldl ?_ (fun _ _ _ => ?_)
    | with_reducible refine kept_foldl_pair ?_ (fun _ _ _ _ => ?_)
    | with_reducible refine kept_ite ?_ ?_
    | with_reducible refine kept_ite_fst ?_ ?_
    | split
    | refine kept_fst ‹_› ?_
    | dsimp only

theorem State.egressProgram_kept {q₀ : List Instr} {s : State} {p : ℕ} {a : Action} {rule : Option ℕ} {f : Frame} (h : s.Kept q₀) : (State.egressProgram s p a rule f).1.Kept q₀ := by
  unfold State.egressProgram
  repeat' first
    | with_reducible assumption
    | with_reducible refine State.countOverflow_kept ?_
    | with_reducible refine State.exception_kept ?_
    | with_reducible refine kept_ite ?_ ?_
    | with_reducible refine kept_ite_fst ?_ ?_
    | split
    | dsimp only
    | with_reducible refine kept_classify ?_

theorem State.leaveEgress_kept {q₀ : List Instr} {s : State} {j : Job} (h : s.Kept q₀) : (State.leaveEgress s j).Kept q₀ := by
  unfold State.leaveEgress
  repeat' first
    | with_reducible assumption
    | with_reducible refine State.txComplete_kept ?_
    | with_reducible refine State.newFrame_kept ?_
    | with_reducible refine State.exception_kept ?_
    | with_reducible refine State.sendAll_kept ?_
    | with_reducible refine State.discardSelected_kept ?_
    | with_reducible refine State.startTransmit_kept ?_
    | with_reducible refine kept_ite ?_ ?_
    | with_reducible refine kept_ite_fst ?_ ?_
    | split
    | refine kept_fst ‹_› ?_
    | dsimp only

theorem State.drainEgress_kept {q₀ : List Instr} {s : State} {q1 : ℕ} (h : s.Kept q₀) : (State.drainEgress s q1).Kept q₀ := by
  unfold State.drainEgress
  repeat' first
    | with_reducible assumption
    | with_reducible refine State.setPipe_kept ?_
    | with_reducible refine State.leaveEgress_kept ?_
    | with_reducible refine kept_foldl ?_ (fun _ _ _ => ?_)
    | with_reducible refine kept_foldl_pair ?_ (fun _ _ _ _ => ?_)
    | with_reducible refine kept_ite ?_ ?_
    | split
    | refine kept_fst ‹_› ?_
    | dsimp only

theorem State.egressAction_kept {q₀ : List Instr} {s : State} {p : ℕ} {a : Action} {rule : Option ℕ} {f : Frame} {bs : List Byte} {k : Parsed} (h : s.Kept q₀) : (State.egressAction s p a rule f bs k).Kept q₀ := by
  unfold State.egressAction
  repeat' first
    | with_reducible assumption
    | with_reducible refine State.txComplete_kept ?_
    | with_reducible refine State.setEgress_kept ?_
    | with_reducible refine State.exception_kept ?_
    | with_reducible refine State.police_kept ?_
    | with_reducible refine State.queueJob_kept ?_
    | with_reducible refine State.discardSelected_kept ?_
    | with_reducible refine State.loopback_kept ?_
    | with_reducible refine State.loopCopies_kept ?_
    | with_reducible refine State.egressProgram_kept ?_
    | with_reducible refine State.drainEgress_kept ?_
    | with_reducible refine kept_ite ?_ ?_
    | with_reducible refine kept_ite_fst ?_ ?_
    | split
    | refine kept_fst ‹_› ?_
    | dsimp only

theorem State.egressStart_kept {q₀ : List Instr} {s : State} {p : ℕ} {f : Frame} (h : s.Kept q₀) : (State.egressStart s p f).Kept q₀ := by
  unfold State.egressStart
  repeat' first
    | with_reducible assumption
    | with_reducible refine State.bump_kept ?_
    | with_reducible refine State.setEgress_kept ?_
    | with_reducible refine State.exception_kept ?_
    | with_reducible refine State.classify__kept ?_
    | with_reducible refine State.countParse_kept ?_
    | with_reducible refine State.discardSelected_kept ?_
    | with_reducible refine State.startTransmit_kept ?_
    | with_reducible refine State.egressAction_kept ?_
    | with_reducible refine kept_ite ?_ ?_
    | with_reducible refine kept_ite_fst ?_ ?_
    | split
    | refine kept_fst ‹_› ?_
    | dsimp only

theorem State.streamLate_kept {q₀ : List Instr} {s : State} {f : Frame} (h : s.Kept q₀) : (State.streamLate s f).Kept q₀ := by
  unfold State.streamLate
  repeat' first
    | with_reducible assumption
    | with_reducible refine State.setDom_kept ?_
    | with_reducible refine State.raiseLimited_kept ?_
    | with_reducible refine kept_ite ?_ ?_
    | split
    | dsimp only

theorem State.launchDrop_kept {q₀ : List Instr} {s : State} {p : ℕ} {f : Frame} (h : s.Kept q₀) : (State.launchDrop s p f).Kept q₀ := by
  unfold State.launchDrop
  repeat' first
    | with_reducible assumption
    | with_reducible refine State.setEgress_kept ?_
    | with_reducible refine State.uncharge_kept ?_
    | with_reducible refine State.dropCopy_kept ?_
    | with_reducible refine State.streamLate_kept ?_
    | with_reducible refine kept_ite ?_ ?_
    | split
    | dsimp only

theorem State.launchSelect_kept {q₀ : List Instr} {s : State} {p : ℕ} {fuel : ℕ} (h : s.Kept q₀) : (State.launchSelect s p fuel).1.Kept q₀ := by
  induction fuel generalizing s p with
  | zero =>
    unfold State.launchSelect
    repeat' first
      | with_reducible assumption
      | with_reducible refine State.bump_kept ?_
      | with_reducible refine State.setEgress_kept ?_
      | with_reducible refine State.showCredit_kept ?_
      | with_reducible refine State.chargeShaper_kept ?_
      | with_reducible refine State.egressStart_kept ?_
      | with_reducible refine State.launchDrop_kept ?_
      | with_reducible refine kept_ite ?_ ?_
      | with_reducible refine kept_ite_fst ?_ ?_
      | split
      | refine kept_fst ‹_› ?_
      | dsimp only
  | succ fuel ih =>
    unfold State.launchSelect
    repeat' first
      | with_reducible assumption
      | with_reducible refine ih ?_
      | with_reducible refine State.bump_kept ?_
      | with_reducible refine State.setEgress_kept ?_
      | with_reducible refine State.showCredit_kept ?_
      | with_reducible refine State.chargeShaper_kept ?_
      | with_reducible refine State.egressStart_kept ?_
      | with_reducible refine State.launchDrop_kept ?_
      | with_reducible refine kept_ite ?_ ?_
      | with_reducible refine kept_ite_fst ?_ ?_
      | split
      | refine kept_fst ‹_› ?_
      | dsimp only

theorem State.levelSelect_kept {q₀ : List Instr} {s : State} {p : ℕ} {fuel : ℕ} (h : s.Kept q₀) : (State.levelSelect s p fuel).1.Kept q₀ := by
  induction fuel generalizing s p with
  | zero =>
    unfold State.levelSelect
    repeat' first
      | with_reducible assumption
      | with_reducible refine forEach_kept ?_ (fun _ _ _ => ?_)
      | with_reducible refine State.countDeferral_kept ?_
      | with_reducible refine State.drr_kept ?_
      | with_reducible refine kept_ite ?_ ?_
      | with_reducible refine kept_ite_fst ?_ ?_
      | split
      | refine kept_fst ‹_› ?_
      | dsimp only
  | succ fuel ih =>
    unfold State.levelSelect
    repeat' first
      | with_reducible assumption
      | with_reducible refine ih ?_
      | with_reducible refine forEach_kept ?_ (fun _ _ _ => ?_)
      | with_reducible refine State.countDeferral_kept ?_
      | with_reducible refine State.drr_kept ?_
      | with_reducible refine kept_ite ?_ ?_
      | with_reducible refine kept_ite_fst ?_ ?_
      | split
      | refine kept_fst ‹_› ?_
      | dsimp only

theorem State.select__kept {q₀ : List Instr} {s : State} {p : ℕ} (h : s.Kept q₀) : (State.select_ s p).Kept q₀ := by
  unfold State.select_
  repeat' first
    | with_reducible assumption
    | with_reducible refine State.showCredit_kept ?_
    | with_reducible refine State.countDeferral_kept ?_
    | with_reducible refine State.takeHead_kept ?_
    | with_reducible refine State.chargeShaper_kept ?_
    | with_reducible refine State.egressStart_kept ?_
    | with_reducible refine State.launchSelect_kept ?_
    | with_reducible refine State.levelSelect_kept ?_
    | with_reducible refine kept_ite ?_ ?_
    | with_reducible refine kept_ite_fst ?_ ?_
    | split
    | refine kept_fst ‹_› ?_
    | dsimp only

theorem execSelection_kept {q₀ : List Instr} {p : PortId} {off : ℕ} {s : State} (h : s.Kept q₀) : ResKept (execSelection p off s) q₀ := by
  unfold execSelection
  repeat' first
    | with_reducible assumption
    | with_reducible refine State.moveTo_kept ?_
    | with_reducible refine State.select__kept ?_
    | with_reducible refine resKept_next ?_
    | with_reducible refine kept_ite ?_ ?_
    | with_reducible refine resKept_ite ?_ ?_
    | split
    | dsimp only

theorem execLaunchDue_kept {q₀ : List Instr} {p : PortId} {off : ℕ} {s : State} (h : s.Kept q₀) : ResKept (execLaunchDue p off s) q₀ := by
  unfold execLaunchDue
  repeat' first
    | with_reducible assumption
    | with_reducible refine State.moveTo_kept ?_
    | with_reducible refine State.select__kept ?_
    | with_reducible refine resKept_next ?_
    | with_reducible refine kept_ite ?_ ?_
    | with_reducible refine resKept_ite ?_ ?_
    | split
    | dsimp only

theorem execTransmitEnd_kept {q₀ : List Instr} {p : PortId} {off : ℕ} {s : State} (h : s.Kept q₀) : ResKept (execTransmitEnd p off s) q₀ := by
  unfold execTransmitEnd
  repeat' first
    | with_reducible assumption
    | with_reducible refine State.addTo_kept ?_
    | with_reducible refine State.bump_kept ?_
    | with_reducible refine State.moveTo_kept ?_
    | with_reducible refine State.txComplete_kept ?_
    | with_reducible refine State.setEgress_kept ?_
    | with_reducible refine State.uncharge_kept ?_
    | with_reducible refine State.dropCopy_kept ?_
    | with_reducible refine resKept_next ?_
    | with_reducible refine kept_ite ?_ ?_
    | with_reducible refine resKept_ite ?_ ?_
    | split
    | dsimp only

theorem State.shaperBoundary_kept {q₀ : List Instr} {s : State} (h : s.Kept q₀) : (State.shaperBoundary s).Kept q₀ := by
  unfold State.shaperBoundary
  repeat' first
    | with_reducible assumption
    | with_reducible refine State.setQueue_kept ?_
    | with_reducible refine State.showCredit_kept ?_
    | with_reducible refine kept_foldl ?_ (fun _ _ _ => ?_)
    | with_reducible refine kept_foldl_pair ?_ (fun _ _ _ _ => ?_)
    | with_reducible refine kept_ite ?_ ?_
    | split
    | refine kept_fst ‹_› ?_
    | dsimp only

theorem State.shaperReset_kept {q₀ : List Instr} {s : State} {p : ℕ} {c : ℕ} (h : s.Kept q₀) : (State.shaperReset s p c).Kept q₀ := by
  unfold State.shaperReset
  repeat' first
    | with_reducible assumption
    | with_reducible refine State.setQueue_kept ?_
    | with_reducible refine State.showCredit_kept ?_
    | with_reducible refine kept_ite ?_ ?_
    | split
    | dsimp only

theorem State.sampleQueues_kept {q₀ : List Instr} {s : State} (h : s.Kept q₀) : (State.sampleQueues s).Kept q₀ := by
  unfold State.sampleQueues
  repeat' first
    | with_reducible assumption
    | with_reducible refine forEach_kept ?_ (fun _ _ _ => ?_)
    | with_reducible refine State.setQueue_kept ?_
    | with_reducible refine kept_ite ?_ ?_
    | split
    | dsimp only

theorem State.restartMaxima_kept {q₀ : List Instr} {s : State} (h : s.Kept q₀) : (State.restartMaxima s).Kept q₀ := by
  unfold State.restartMaxima
  repeat' first
    | with_reducible assumption
    | with_reducible refine State.setQueue_kept ?_
    | with_reducible refine kept_foldl ?_ (fun _ _ _ => ?_)
    | with_reducible refine kept_foldl_pair ?_ (fun _ _ _ _ => ?_)
    | with_reducible refine kept_ite ?_ ?_
    | split
    | refine kept_fst ‹_› ?_
    | dsimp only

theorem execSampleMessage_kept {q₀ : List Instr} {p : PortId} {s : State} (h : s.Kept q₀) : ResKept (execSampleMessage p s) q₀ := by
  unfold execSampleMessage
  repeat' first
    | with_reducible assumption
    | with_reducible refine State.bump_kept ?_
    | with_reducible refine State.arm_kept ?_
    | with_reducible refine State.sendRecord_kept ?_
    | with_reducible refine resKept_next ?_
    | with_reducible refine kept_ite ?_ ?_
    | with_reducible refine resKept_ite ?_ ?_
    | with_reducible refine kept_ite_fst ?_ ?_
    | split
    | refine kept_fst ‹_› ?_
    | dsimp only

end Sys2Proof.Machine
end

