-- ==== Sys2Proof/Laws/KeptRdma.lean ====
section
/-! SUPPORT. Laws/KeptRdma.lean: every operation of Machine/Rdma.lean keeps the queue and the canonical form. -/

namespace Sys2Proof.Machine

theorem State.setRcq_kept {q₀ : List Instr} {s : State} {n : ℕ} {x1 : RdmaCq} (h : s.Kept q₀) : (State.setRcq s n x1).Kept q₀ := by
  unfold State.setRcq
  repeat' first
    | with_reducible assumption
    | with_reducible refine kept_ite ?_ ?_
    | split
    | dsimp only
    | with_reducible refine kept_rdma ?_

theorem State.setRegion_kept {q₀ : List Instr} {s : State} {n : ℕ} {x1 : Region} (h : s.Kept q₀) : (State.setRegion s n x1).Kept q₀ := by
  unfold State.setRegion
  repeat' first
    | with_reducible assumption
    | with_reducible refine kept_ite ?_ ?_
    | split
    | dsimp only
    | with_reducible refine kept_rdma ?_

theorem State.rcqPut_kept {q₀ : List Instr} {s : State} {n : ℕ} {c : RdmaCq} {rec1 : ℕ} (h : s.Kept q₀) : (State.rcqPut s n c rec1).Kept q₀ := by
  unfold State.rcqPut
  repeat' first
    | with_reducible assumption
    | with_reducible refine State.hostWriteFrom_kept ?_
    | with_reducible refine State.sliceInterrupt_kept ?_
    | with_reducible refine State.setRcq_kept ?_
    | with_reducible refine kept_ite ?_ ?_
    | split
    | dsimp only

theorem State.rdmaAsync_kept {q₀ : List Instr} {s : State} {slice : ℕ} {tile : ℕ} {event : ℕ} {object : ℕ} (h : s.Kept q₀) : (State.rdmaAsync s slice tile event object).Kept q₀ := by
  unfold State.rdmaAsync
  repeat' first
    | with_reducible assumption
    | with_reducible refine State.bump_kept ?_
    | with_reducible refine State.rcqPut_kept ?_
    | with_reducible refine kept_ite ?_ ?_
    | split
    | dsimp only

theorem State.rcqWrite_kept {q₀ : List Instr} {s : State} {n : ℕ} {rec1 : ℕ} (h : s.Kept q₀) : (State.rcqWrite s n rec1).1.Kept q₀ := by
  unfold State.rcqWrite
  repeat' first
    | with_reducible assumption
    | with_reducible refine State.setRcq_kept ?_
    | with_reducible refine State.rcqPut_kept ?_
    | with_reducible refine kept_ite ?_ ?_
    | with_reducible refine kept_ite_fst ?_ ?_
    | split
    | dsimp only

theorem State.flushQp_kept {q₀ : List Instr} {s : State} {n : ℕ} {status : ℕ} (h : s.Kept q₀) : (State.flushQp s n status).Kept q₀ := by
  unfold State.flushQp
  repeat' first
    | with_reducible assumption
    | with_reducible refine State.disarm_kept ?_
    | with_reducible refine State.opEnd_kept ?_
    | with_reducible refine State.setRqp_kept ?_
    | with_reducible refine State.dropRequests_kept ?_
    | with_reducible refine State.rcqWrite_kept ?_
    | with_reducible refine kept_foldl ?_ (fun _ _ _ => ?_)
    | with_reducible refine kept_foldl_pair ?_ (fun _ _ _ _ => ?_)
    | with_reducible refine kept_ite ?_ ?_
    | with_reducible refine kept_ite_fst ?_ ?_
    | split
    | refine kept_fst ‹_› ?_
    | dsimp only
    | with_reducible refine kept_rdma ?_

theorem State.cqOverrunBy_kept {q₀ : List Instr} {err : State → ℕ → State} {s : State} {n : ℕ} (herr : ∀ a0 a1, a0.Kept q₀ → (err a0 a1).Kept q₀) (h : s.Kept q₀) : (State.cqOverrunBy err s n).Kept q₀ := by
  unfold State.cqOverrunBy
  repeat' first
    | with_reducible assumption
    | with_reducible refine herr _ _ ?_
    | with_reducible refine State.raiseLimited_kept ?_
    | with_reducible refine State.rdmaAsync_kept ?_
    | with_reducible refine kept_foldl ?_ (fun _ _ _ => ?_)
    | with_reducible refine kept_foldl_pair ?_ (fun _ _ _ _ => ?_)
    | with_reducible refine kept_ite ?_ ?_
    | split
    | refine kept_fst ‹_› ?_
    | dsimp only

theorem qpErrFuel_kept {q₀ : List Instr} {fuel : ℕ} {byModify : Bool} {status : ℕ} {s : State} {n : ℕ} (h : s.Kept q₀) :
    (qpErrFuel fuel byModify status s n).Kept q₀ := by
  induction fuel generalizing byModify status s n with
  | zero => exact h
  | succ fuel ih =>
    unfold qpErrFuel
    repeat' first
      | with_reducible assumption
      | with_reducible refine ih ?_
      | with_reducible refine State.cqOverrunBy_kept (fun _ _ _ => ?_) ?_
      | with_reducible refine kept_foldl ?_ (fun _ _ _ => ?_)
      | with_reducible refine State.flushQp_kept ?_
      | with_reducible refine State.setRqp_kept ?_
      | with_reducible refine State.abandonReads_kept ?_
      | with_reducible refine State.raiseLimited_kept ?_
      | with_reducible refine State.rdmaAsync_kept ?_
      | with_reducible refine kept_ite ?_ ?_
      | split
      | dsimp only


theorem State.qpErr_kept {q₀ : List Instr} {s : State} {n : ℕ} {status : ℕ} {byModify : Bool} (h : s.Kept q₀) : (State.qpErr s n status byModify).Kept q₀ := by
  unfold State.qpErr
  repeat' first
    | with_reducible assumption
    | with_reducible refine qpErrFuel_kept ?_
    | with_reducible refine kept_ite ?_ ?_
    | split
    | dsimp only

theorem State.rdmaComplete_kept {q₀ : List Instr} {s : State} {cq : ℕ} {rec1 : ℕ} (h : s.Kept q₀) : (State.rdmaComplete s cq rec1).Kept q₀ := by
  unfold State.rdmaComplete
  repeat' first
    | with_reducible assumption
    | with_reducible refine State.rcqWrite_kept ?_
    | with_reducible refine State.cqOverrunBy_kept (fun _ _ _ => ?_) ?_
    | with_reducible refine State.qpErr_kept ?_
    | with_reducible refine kept_ite ?_ ?_
    | with_reducible refine kept_ite_fst ?_ ?_
    | split
    | refine kept_fst ‹_› ?_
    | dsimp only

theorem State.rdmaAdvance_kept {q₀ : List Instr} {s : State} {n : ℕ} {fuel : ℕ} (h : s.Kept q₀) : (State.rdmaAdvance s n fuel).Kept q₀ := by
  induction fuel generalizing s n with
  | zero =>
    unfold State.rdmaAdvance
    repeat' first
      | with_reducible assumption
      | with_reducible refine State.setRqp_kept ?_
      | with_reducible refine State.qpErr_kept ?_
      | with_reducible refine State.rdmaComplete_kept ?_
      | with_reducible refine kept_ite ?_ ?_
      | split
      | refine kept_fst ‹_› ?_
      | dsimp only
  | succ fuel ih =>
    unfold State.rdmaAdvance
    repeat' first
      | with_reducible assumption
      | with_reducible refine ih ?_
      | with_reducible refine State.setRqp_kept ?_
      | with_reducible refine State.qpErr_kept ?_
      | with_reducible refine State.rdmaComplete_kept ?_
      | with_reducible refine kept_ite ?_ ?_
      | split
      | refine kept_fst ‹_› ?_
      | dsimp only

theorem State.rdmaFetch_kept {q₀ : List Instr} {s : State} {n : ℕ} (h : s.Kept q₀) : (State.rdmaFetch s n).Kept q₀ := by
  unfold State.rdmaFetch
  repeat' first
    | with_reducible assumption
    | with_reducible refine State.read_kept ?_
    | with_reducible refine kept_ite ?_ ?_
    | split
    | dsimp only

theorem State.rdmaWqe_kept {q₀ : List Instr} {s : State} {n : ℕ} {id : ℕ} {bs : List Byte} (h : s.Kept q₀) : (State.rdmaWqe s n id bs).Kept q₀ := by
  unfold State.rdmaWqe
  repeat' first
    | with_reducible assumption
    | with_reducible refine State.setRqp_kept ?_
    | with_reducible refine State.flushQp_kept ?_
    | with_reducible refine State.rdmaFetch_kept ?_
    | with_reducible refine kept_ite ?_ ?_
    | split
    | dsimp only

theorem State.doorRefused_kept {q₀ : List Instr} {s : State} {number : ℕ} (h : s.Kept q₀) : (State.doorRefused s number).Kept q₀ := by
  unfold State.doorRefused
  repeat' first
    | with_reducible assumption
    | with_reducible refine State.bump_kept ?_
    | with_reducible refine kept_ite ?_ ?_
    | split
    | dsimp only

theorem execSendQueueTail_kept {q₀ : List Instr} {link : Fin 4} {slice : Fin 4096} {number : BitVec 24} {index : BitVec 16} {s : State} (h : s.Kept q₀) : ResKept (execSendQueueTail link slice number index s) q₀ := by
  unfold execSendQueueTail
  repeat' first
    | with_reducible assumption
    | with_reducible refine State.setRqp_kept ?_
    | with_reducible refine State.rdmaFetch_kept ?_
    | with_reducible refine State.doorRefused_kept ?_
    | with_reducible refine resKept_next ?_
    | with_reducible refine kept_ite ?_ ?_
    | with_reducible refine resKept_ite ?_ ?_
    | split
    | dsimp only

theorem execReceiveQueueTail_kept {q₀ : List Instr} {link : Fin 4} {slice : Fin 4096} {number : BitVec 24} {index : BitVec 16} {s : State} (h : s.Kept q₀) : ResKept (execReceiveQueueTail link slice number index s) q₀ := by
  unfold execReceiveQueueTail
  repeat' first
    | with_reducible assumption
    | with_reducible refine State.setRqp_kept ?_
    | with_reducible refine State.rdmaFetch_kept ?_
    | with_reducible refine State.doorRefused_kept ?_
    | with_reducible refine resKept_next ?_
    | with_reducible refine kept_ite ?_ ?_
    | with_reducible refine resKept_ite ?_ ?_
    | split
    | dsimp only

theorem State.rcqHead_kept {q₀ : List Instr} {s : State} {link : ℕ} {slice : ℕ} {n : ℕ} {index : ℕ} {arm : Bool} (h : s.Kept q₀) : (State.rcqHead s link slice n index arm).Kept q₀ := by
  unfold State.rcqHead
  repeat' first
    | with_reducible assumption
    | with_reducible refine State.setRcq_kept ?_
    | with_reducible refine State.doorRefused_kept ?_
    | with_reducible refine kept_ite ?_ ?_
    | split
    | dsimp only

theorem execCompletionQueueHead_kept {q₀ : List Instr} {link : Fin 4} {slice : Fin 4096} {number : BitVec 24} {index : BitVec 16} {s : State} (h : s.Kept q₀) : ResKept (execCompletionQueueHead link slice number index s) q₀ := by
  unfold execCompletionQueueHead
  repeat' first
    | with_reducible assumption
    | with_reducible refine State.rcqHead_kept ?_
    | with_reducible refine resKept_next ?_
    | with_reducible refine kept_ite ?_ ?_
    | with_reducible refine resKept_ite ?_ ?_
    | split
    | dsimp only

theorem execCompletionQueueHeadArmed_kept {q₀ : List Instr} {link : Fin 4} {slice : Fin 4096} {number : BitVec 24} {index : BitVec 16} {s : State} (h : s.Kept q₀) : ResKept (execCompletionQueueHeadArmed link slice number index s) q₀ := by
  unfold execCompletionQueueHeadArmed
  repeat' first
    | with_reducible assumption
    | with_reducible refine State.rcqHead_kept ?_
    | with_reducible refine resKept_next ?_
    | with_reducible refine kept_ite ?_ ?_
    | with_reducible refine resKept_ite ?_ ?_
    | split
    | dsimp only

theorem State.dropWork_kept {q₀ : List Instr} {s : State} {n : ℕ} (h : s.Kept q₀) : (State.dropWork s n).Kept q₀ := by
  unfold State.dropWork
  repeat' first
    | with_reducible assumption
    | with_reducible refine State.disarm_kept ?_
    | with_reducible refine State.opEnd_kept ?_
    | with_reducible refine State.abandonReads_kept ?_
    | with_reducible refine State.setPacing_kept ?_
    | with_reducible refine kept_foldl ?_ (fun _ _ _ => ?_)
    | with_reducible refine kept_foldl_pair ?_ (fun _ _ _ _ => ?_)
    | with_reducible refine kept_ite ?_ ?_
    | split
    | refine kept_fst ‹_› ?_
    | dsimp only
    | with_reducible refine kept_rdma ?_

theorem State.applyQp_kept {q₀ : List Instr} {s : State} {bs : List Byte} (h : s.Kept q₀) : (State.applyQp s bs).Kept q₀ := by
  unfold State.applyQp
  repeat' first
    | with_reducible assumption
    | with_reducible refine State.setRqp_kept ?_
    | with_reducible refine State.qpErr_kept ?_
    | with_reducible refine State.rdmaFetch_kept ?_
    | with_reducible refine State.dropWork_kept ?_
    | with_reducible refine kept_ite ?_ ?_
    | split
    | dsimp only
    | with_reducible refine kept_rdma ?_

theorem State.applyCq_kept {q₀ : List Instr} {s : State} {bs : List Byte} (h : s.Kept q₀) : (State.applyCq s bs).Kept q₀ := by
  unfold State.applyCq
  repeat' first
    | with_reducible assumption
    | with_reducible refine State.setRcq_kept ?_
    | with_reducible refine kept_ite ?_ ?_
    | split
    | dsimp only
    | with_reducible refine kept_rdma ?_

theorem State.applyAh_kept {q₀ : List Instr} {s : State} {bs : List Byte} (h : s.Kept q₀) : (State.applyAh s bs).Kept q₀ := by
  unfold State.applyAh
  repeat' first
    | with_reducible assumption
    | with_reducible refine kept_ite ?_ ?_
    | split
    | dsimp only
    | with_reducible refine kept_rdma ?_

theorem State.deregister_kept {q₀ : List Instr} {s : State} {bs : List Byte} (h : s.Kept q₀) : (State.deregister s bs).Kept q₀ := by
  unfold State.deregister
  repeat' first
    | with_reducible assumption
    | with_reducible refine State.setRegion_kept ?_
    | with_reducible refine kept_ite ?_ ?_
    | split
    | dsimp only

theorem State.applyRegion_kept {q₀ : List Instr} {s : State} {bs : List Byte} (h : s.Kept q₀) : (State.applyRegion s bs).Kept q₀ := by
  unfold State.applyRegion
  repeat' first
    | with_reducible assumption
    | with_reducible refine State.setRegion_kept ?_
    | with_reducible refine kept_ite ?_ ?_
    | split
    | dsimp only

theorem State.regionsAccepted_kept {q₀ : List Instr} {s : State} {bs : List Byte} (h : s.Kept q₀) : (State.regionsAccepted s bs).Kept q₀ := by
  unfold State.regionsAccepted
  repeat' first
    | with_reducible assumption
    | with_reducible refine State.deregister_kept ?_
    | with_reducible refine kept_foldl ?_ (fun _ _ _ => ?_)
    | with_reducible refine kept_foldl_pair ?_ (fun _ _ _ _ => ?_)
    | with_reducible refine kept_ite ?_ ?_
    | split
    | refine kept_fst ‹_› ?_
    | dsimp only

theorem State.applyRdma_kept {q₀ : List Instr} {s : State} {kind : ℕ} {bs : List Byte} (h : s.Kept q₀) : (State.applyRdma s kind bs).Kept q₀ := by
  unfold State.applyRdma
  repeat' first
    | with_reducible assumption
    | with_reducible refine State.applyQp_kept ?_
    | with_reducible refine State.applyCq_kept ?_
    | with_reducible refine State.applyAh_kept ?_
    | with_reducible refine State.applyRegion_kept ?_
    | with_reducible refine kept_foldl ?_ (fun _ _ _ => ?_)
    | with_reducible refine kept_foldl_pair ?_ (fun _ _ _ _ => ?_)
    | with_reducible refine kept_ite ?_ ?_
    | split
    | refine kept_fst ‹_› ?_
    | dsimp only

theorem execRegionFree_kept {q₀ : List Instr} {index : ℕ} {s : State} (h : s.Kept q₀) : ResKept (execRegionFree index s) q₀ := by
  unfold execRegionFree
  repeat' first
    | with_reducible assumption
    | with_reducible refine State.rdmaAsync_kept ?_
    | with_reducible refine resKept_next ?_
    | with_reducible refine kept_ite ?_ ?_
    | with_reducible refine resKept_ite ?_ ?_
    | split
    | dsimp only
    | with_reducible refine kept_rdma ?_

theorem State.rdmaSliceReset_kept {q₀ : List Instr} {s : State} {slice : ℕ} (h : s.Kept q₀) : (State.rdmaSliceReset s slice).Kept q₀ := by
  unfold State.rdmaSliceReset
  repeat' first
    | with_reducible assumption
    | with_reducible refine State.setRqp_kept ?_
    | with_reducible refine State.dropWork_kept ?_
    | with_reducible refine kept_foldl ?_ (fun _ _ _ => ?_)
    | with_reducible refine kept_foldl_pair ?_ (fun _ _ _ _ => ?_)
    | with_reducible refine kept_ite ?_ ?_
    | split
    | refine kept_fst ‹_› ?_
    | dsimp only
    | with_reducible refine kept_rdma ?_

theorem State.engineQp_kept {q₀ : List Instr} {s : State} {tile : ℕ} {target : ℕ} (h : s.Kept q₀) : (State.engineQp s tile target).Kept q₀ := by
  unfold State.engineQp
  repeat' first
    | with_reducible assumption
    | with_reducible refine State.setRqp_kept ?_
    | with_reducible refine kept_ite ?_ ?_
    | split
    | dsimp only

end Sys2Proof.Machine
end

