-- ==== Sys2Proof/Laws/KeptRdmaPackets.lean ====
section
/-! SUPPORT. Laws/KeptRdmaPackets.lean: every operation of Machine/RdmaPackets.lean keeps the queue and the canonical form. -/

namespace Sys2Proof.Machine

theorem State.pace_kept {q₀ : List Instr} {s : State} {n : ℕ} {rate : ℕ} {p : ℕ} {f : Frame} (h : s.Kept q₀) : (State.pace s n rate p f).Kept q₀ := by
  unfold State.pace
  repeat' first
    | with_reducible assumption
    | with_reducible refine State.send_kept ?_
    | with_reducible refine State.setPacing_kept ?_
    | with_reducible refine kept_ite ?_ ?_
    | split
    | dsimp only

theorem State.drainPaced_kept {q₀ : List Instr} {s : State} {n : ℕ} (h : s.Kept q₀) : (State.drainPaced s n).Kept q₀ := by
  unfold State.drainPaced
  repeat' first
    | with_reducible assumption
    | with_reducible refine State.setPacing_kept ?_
    | with_reducible refine State.pace_kept ?_
    | with_reducible refine kept_foldl ?_ (fun _ _ _ => ?_)
    | with_reducible refine kept_foldl_pair ?_ (fun _ _ _ _ => ?_)
    | with_reducible refine kept_ite ?_ ?_
    | split
    | refine kept_fst ‹_› ?_
    | dsimp only

theorem State.roceSend_kept {q₀ : List Instr} {s : State} {n : ℕ} {q1 : RdmaQp} {path : RocePath} {op : ℕ} {psn : ℕ} {se : Bool} {ack : Bool} {request : Bool} {ext : List Byte} {payload : List Byte} (h : s.Kept q₀) : (State.roceSend s n q1 path op psn se ack request ext payload).Kept q₀ := by
  unfold State.roceSend
  repeat' first
    | with_reducible assumption
    | with_reducible refine State.send_kept ?_
    | with_reducible refine State.newFrame_kept ?_
    | with_reducible refine State.pace_kept ?_
    | with_reducible refine kept_ite ?_ ?_
    | with_reducible refine kept_ite_fst ?_ ?_
    | split
    | refine kept_fst ‹_› ?_
    | dsimp only

theorem State.roceAck_kept {q₀ : List Instr} {s : State} {n : ℕ} {psn : ℕ} {syndrome : ℕ} (h : s.Kept q₀) : (State.roceAck s n psn syndrome).Kept q₀ := by
  unfold State.roceAck
  repeat' first
    | with_reducible assumption
    | with_reducible refine State.roceSend_kept ?_
    | with_reducible refine kept_ite ?_ ?_
    | split
    | dsimp only

theorem State.sendReadResponse_kept {q₀ : List Instr} {s : State} {n : ℕ} {q1 : RdmaQp} {r : Response} (h : s.Kept q₀) : (State.sendReadResponse s n q1 r).Kept q₀ := by
  unfold State.sendReadResponse
  repeat' first
    | with_reducible assumption
    | with_reducible refine State.roceSend_kept ?_
    | with_reducible refine kept_foldl ?_ (fun _ _ _ => ?_)
    | with_reducible refine kept_foldl_pair ?_ (fun _ _ _ _ => ?_)
    | with_reducible refine kept_ite ?_ ?_
    | split
    | refine kept_fst ‹_› ?_
    | dsimp only

theorem State.serveResponses_kept {q₀ : List Instr} {s : State} {n : ℕ} {fuel : ℕ} (h : s.Kept q₀) : (State.serveResponses s n fuel).Kept q₀ := by
  induction fuel generalizing s n with
  | zero =>
    unfold State.serveResponses
    repeat' first
      | with_reducible assumption
      | with_reducible refine State.readWith_kept ?_
      | with_reducible refine State.hostWriteFrom_kept ?_
      | with_reducible refine State.setRqp_kept ?_
      | with_reducible refine State.roceSend_kept ?_
      | with_reducible refine State.roceAck_kept ?_
      | with_reducible refine State.sendReadResponse_kept ?_
      | with_reducible refine kept_ite ?_ ?_
      | split
      | refine kept_fst ‹_› ?_
      | dsimp only
      | with_reducible refine kept_rdma ?_
  | succ fuel ih =>
    unfold State.serveResponses
    repeat' first
      | with_reducible assumption
      | with_reducible refine ih ?_
      | with_reducible refine State.readWith_kept ?_
      | with_reducible refine State.hostWriteFrom_kept ?_
      | with_reducible refine State.setRqp_kept ?_
      | with_reducible refine State.roceSend_kept ?_
      | with_reducible refine State.roceAck_kept ?_
      | with_reducible refine State.sendReadResponse_kept ?_
      | with_reducible refine kept_ite ?_ ?_
      | split
      | refine kept_fst ‹_› ?_
      | dsimp only
      | with_reducible refine kept_rdma ?_

theorem State.serve_kept {q₀ : List Instr} {s : State} {n : ℕ} (h : s.Kept q₀) : (State.serve s n).Kept q₀ := by
  unfold State.serve
  repeat' first
    | with_reducible assumption
    | with_reducible refine State.serveResponses_kept ?_
    | with_reducible refine kept_foldl ?_ (fun _ _ _ => ?_)
    | with_reducible refine kept_foldl_pair ?_ (fun _ _ _ _ => ?_)
    | with_reducible refine kept_ite ?_ ?_
    | split
    | refine kept_fst ‹_› ?_
    | dsimp only

theorem State.owe_kept {q₀ : List Instr} {s : State} {n : ℕ} {r : Response} (h : s.Kept q₀) : (State.owe s n r).Kept q₀ := by
  unfold State.owe
  repeat' first
    | with_reducible assumption
    | with_reducible refine State.setRqp_kept ?_
    | with_reducible refine State.serve_kept ?_
    | with_reducible refine kept_ite ?_ ?_
    | split
    | dsimp only

theorem State.nakErr_kept {q₀ : List Instr} {s : State} {n : ℕ} {psn : ℕ} {syndrome : ℕ} (h : s.Kept q₀) : (State.nakErr s n psn syndrome).Kept q₀ := by
  unfold State.nakErr
  repeat' first
    | with_reducible assumption
    | with_reducible refine State.qpErr_kept ?_
    | with_reducible refine State.roceAck_kept ?_
    | with_reducible refine kept_ite ?_ ?_
    | split
    | dsimp only

theorem State.nakAccess_kept {q₀ : List Instr} {s : State} {n : ℕ} {psn : ℕ} (h : s.Kept q₀) : (State.nakAccess s n psn).Kept q₀ := by
  unfold State.nakAccess
  repeat' first
    | with_reducible assumption
    | with_reducible refine State.bump_kept ?_
    | with_reducible refine State.nakErr_kept ?_
    | with_reducible refine kept_ite ?_ ?_
    | split
    | dsimp only

theorem State.duplicate_atomic_kept {q₀ : List Instr} {s : State} {n : ℕ} {q1 : RdmaQp} {psn t : ℕ} (h : s.Kept q₀) :
    (State.duplicate.atomic s n q1 psn t).Kept q₀ := by
  unfold State.duplicate.atomic
  split
  · exact h
  split
  · exact State.roceSend_kept h
  · exact State.roceAck_kept (State.raiseLimited_kept (State.bump_kept h))

theorem State.duplicate_kept {q₀ : List Instr} {s : State} {n : ℕ} {q1 : RdmaQp} {op : RoceOp} {h1 : List Byte} {psn : ℕ} (h : s.Kept q₀) : (State.duplicate s n q1 op h1 psn).Kept q₀ := by
  unfold State.duplicate
  repeat' first
    | with_reducible assumption
    | with_reducible refine State.bump_kept ?_
    | with_reducible refine State.owe_kept ?_
    | with_reducible refine State.nakAccess_kept ?_
    | with_reducible refine State.duplicate_atomic_kept ?_
    | with_reducible refine kept_ite ?_ ?_
    | split
    | dsimp only

theorem State.place_kept {q₀ : List Instr} {s : State} {n : ℕ} {q1 : RdmaQp} {key : ℕ} {addr : ℕ} {bs : List Byte} (h : s.Kept q₀) : (State.place s n q1 key addr bs).Kept q₀ := by
  unfold State.place
  repeat' first
    | with_reducible assumption
    | with_reducible refine State.hostWriteFrom_kept ?_
    | with_reducible refine kept_ite ?_ ?_
    | split
    | dsimp only

theorem State.taken_kept {q₀ : List Instr} {s : State} {n : ℕ} {psn : ℕ} {count : ℕ} {last : Bool} {ack : Bool} (h : s.Kept q₀) : (State.taken s n psn count last ack).Kept q₀ := by
  unfold State.taken
  repeat' first
    | with_reducible assumption
    | with_reducible refine State.setRqp_kept ?_
    | with_reducible refine State.owe_kept ?_
    | with_reducible refine kept_ite ?_ ?_
    | split
    | dsimp only

theorem State.rdmaReceived_kept {q₀ : List Instr} {s : State} {n : ℕ} {q1 : RdmaQp} {kind : ℕ} {status : ℕ} {src : ℕ} {len : ℕ} {imm : Option ℕ} {grh : Bool} {w : ℕ} {time : ℕ} (h : s.Kept q₀) : (State.rdmaReceived s n q1 kind status src len imm grh w time).Kept q₀ := by
  unfold State.rdmaReceived
  repeat' first
    | with_reducible assumption
    | with_reducible refine State.rdmaComplete_kept ?_
    | with_reducible refine kept_ite ?_ ?_
    | split
    | dsimp only

theorem State.notReady_kept {q₀ : List Instr} {s : State} {n : ℕ} {psn : ℕ} {q1 : RdmaQp} (h : s.Kept q₀) : (State.notReady s n psn q1).Kept q₀ := by
  unfold State.notReady
  repeat' first
    | with_reducible assumption
    | with_reducible refine State.bump_kept ?_
    | with_reducible refine State.roceAck_kept ?_
    | with_reducible refine kept_ite ?_ ?_
    | split
    | dsimp only

theorem State.placeSend_kept {q₀ : List Instr} {s : State} {n : ℕ} {q1 : RdmaQp} {x1 : RocePacket} {last : Bool} {imm : Bool} {h1 : List Byte} {body : List Byte} {time : ℕ} (h : s.Kept q₀) : (State.placeSend s n q1 x1 last imm h1 body time).Kept q₀ := by
  unfold State.placeSend
  repeat' first
    | with_reducible assumption
    | with_reducible refine State.setRqp_kept ?_
    | with_reducible refine State.nakErr_kept ?_
    | with_reducible refine State.place_kept ?_
    | with_reducible refine State.taken_kept ?_
    | with_reducible refine State.rdmaReceived_kept ?_
    | with_reducible refine State.notReady_kept ?_
    | with_reducible refine kept_ite ?_ ?_
    | split
    | dsimp only

theorem State.placeWrite_kept {q₀ : List Instr} {s : State} {n : ℕ} {q1 : RdmaQp} {x1 : RocePacket} {first : Bool} {last : Bool} {imm : Bool} {h1 : List Byte} {body : List Byte} {time : ℕ} (h : s.Kept q₀) : (State.placeWrite s n q1 x1 first last imm h1 body time).Kept q₀ := by
  unfold State.placeWrite
  repeat' first
    | with_reducible assumption
    | with_reducible refine State.setRqp_kept ?_
    | with_reducible refine State.nakAccess_kept ?_
    | with_reducible refine State.place_kept ?_
    | with_reducible refine State.taken_kept ?_
    | with_reducible refine State.rdmaReceived_kept ?_
    | with_reducible refine State.notReady_kept ?_
    | with_reducible refine kept_ite ?_ ?_
    | split
    | dsimp only

theorem State.placeUd_kept {q₀ : List Instr} {s : State} {n : ℕ} {q1 : RdmaQp} {x1 : RocePacket} {imm : Bool} {h1 : List Byte} {body : List Byte} {time : ℕ} (h : s.Kept q₀) : (State.placeUd s n q1 x1 imm h1 body time).Kept q₀ := by
  unfold State.placeUd
  repeat' first
    | with_reducible assumption
    | with_reducible refine State.setRqp_kept ?_
    | with_reducible refine State.place_kept ?_
    | with_reducible refine State.rdmaReceived_kept ?_
    | with_reducible refine kept_ite ?_ ?_
    | split
    | dsimp only

theorem State.takeDelay_kept {q₀ : List Instr} {s : State} {n : ℕ} {x1 : RocePacket} {stamp : ℕ} (h : s.Kept q₀) : (State.takeDelay s n x1 stamp).Kept q₀ := by
  unfold State.takeDelay
  repeat' first
    | with_reducible assumption
    | with_reducible refine State.bump_kept ?_
    | with_reducible refine State.setRqp_kept ?_
    | with_reducible refine kept_ite ?_ ?_
    | split
    | dsimp only

theorem State.roceArrive_kept {q₀ : List Instr} {s0 : State} {p : ℕ} {off : ℕ} {bytes : List Byte} (h : s0.Kept q₀) : (State.roceArrive s0 p off bytes).1.Kept q₀ := by
  unfold State.roceArrive
  repeat' first
    | with_reducible assumption
    | with_reducible refine State.bump_kept ?_
    | with_reducible refine State.moveTo_kept ?_
    | with_reducible refine State.carry_kept ?_
    | with_reducible refine State.hbmRequest_kept ?_
    | with_reducible refine State.rxAccept_kept ?_
    | with_reducible refine State.poolRefused_kept ?_
    | with_reducible refine kept_ite ?_ ?_
    | with_reducible refine kept_ite_fst ?_ ?_
    | split
    | refine kept_fst ‹_› ?_
    | dsimp only
    | with_reducible refine kept_rdma ?_

theorem State.inSequence_kept {q₀ : List Instr} {s : State} {n : ℕ} {q1 : RdmaQp} {x1 : RocePacket} {op : RoceOp} {h1 : List Byte} {body : List Byte} {time : ℕ} (h : s.Kept q₀) : (State.inSequence s n q1 x1 op h1 body time).Kept q₀ := by
  unfold State.inSequence
  repeat' first
    | with_reducible assumption
    | with_reducible refine State.owe_kept ?_
    | with_reducible refine State.nakErr_kept ?_
    | with_reducible refine State.nakAccess_kept ?_
    | with_reducible refine State.taken_kept ?_
    | with_reducible refine State.placeSend_kept ?_
    | with_reducible refine State.placeWrite_kept ?_
    | with_reducible refine kept_ite ?_ ?_
    | split
    | dsimp only

theorem State.rcRequest_kept {q₀ : List Instr} {s : State} {n : ℕ} {q1 : RdmaQp} {x1 : RocePacket} {time : ℕ} (h : s.Kept q₀) : (State.rcRequest s n q1 x1 time).Kept q₀ := by
  unfold State.rcRequest
  repeat' first
    | with_reducible assumption
    | with_reducible refine State.bump_kept ?_
    | with_reducible refine State.setRqp_kept ?_
    | with_reducible refine State.roceAck_kept ?_
    | with_reducible refine State.nakErr_kept ?_
    | with_reducible refine State.duplicate_kept ?_
    | with_reducible refine State.inSequence_kept ?_
    | with_reducible refine kept_ite ?_ ?_
    | split
    | dsimp only

theorem execRocev2Packet_kept {q₀ : List Instr} {p : PortId} {off : ℕ} {bytes : List Byte} {s : State} (h : s.Kept q₀) : ResKept (execRocev2Packet p off bytes s) q₀ := by
  unfold execRocev2Packet
  repeat' first
    | with_reducible assumption
    | with_reducible refine State.bump_kept ?_
    | with_reducible refine State.dmaLost_kept ?_
    | with_reducible refine State.holdCopy_kept ?_
    | with_reducible refine State.newFrame_kept ?_
    | with_reducible refine State.toQueue_kept ?_
    | with_reducible refine State.placeUd_kept ?_
    | with_reducible refine State.takeDelay_kept ?_
    | with_reducible refine State.roceArrive_kept ?_
    | with_reducible refine State.rcRequest_kept ?_
    | with_reducible refine resKept_next ?_
    | with_reducible refine kept_ite ?_ ?_
    | with_reducible refine resKept_ite ?_ ?_
    | with_reducible refine kept_ite_fst ?_ ?_
    | split
    | refine kept_fst ‹_› ?_
    | dsimp only

theorem execRdmaCnp_kept {q₀ : List Instr} {p : PortId} {off : ℕ} {bytes : List Byte} {s : State} (h : s.Kept q₀) : ResKept (execRdmaCnp p off bytes s) q₀ := by
  unfold execRdmaCnp
  repeat' first
    | with_reducible assumption
    | with_reducible refine State.bump_kept ?_
    | with_reducible refine State.roceArrive_kept ?_
    | with_reducible refine resKept_next ?_
    | with_reducible refine kept_ite ?_ ?_
    | with_reducible refine resKept_ite ?_ ?_
    | with_reducible refine kept_ite_fst ?_ ?_
    | split
    | refine kept_fst ‹_› ?_
    | dsimp only

end Sys2Proof.Machine
end

