-- ==== Sys2Proof/Laws/KeptRdmaWork.lean ====
section
/-! SUPPORT. Laws/KeptRdmaWork.lean: every operation of Machine/RdmaWork.lean keeps the queue and the canonical form. -/

namespace Sys2Proof.Machine

theorem State.setWork_kept {q₀ : List Instr} {s : State} {n : ℕ} {i : ℕ} {w : Work} (h : s.Kept q₀) : (State.setWork s n i w).Kept q₀ := by
  unfold State.setWork
  repeat' first
    | with_reducible assumption
    | with_reducible refine State.setRqp_kept ?_
    | with_reducible refine kept_ite ?_ ?_
    | split
    | dsimp only

theorem State.sendWork_kept {q₀ : List Instr} {s : State} {n : ℕ} {q1 : RdmaQp} {w : Work} {start : ℕ} (h : s.Kept q₀) : (State.sendWork s n q1 w start).Kept q₀ := by
  unfold State.sendWork
  repeat' first
    | with_reducible assumption
    | with_reducible refine State.roceSend_kept ?_
    | with_reducible refine kept_foldl ?_ (fun _ _ _ => ?_)
    | with_reducible refine kept_foldl_pair ?_ (fun _ _ _ _ => ?_)
    | with_reducible refine kept_ite ?_ ?_
    | split
    | refine kept_fst ‹_› ?_
    | dsimp only

theorem State.pushWork_kept {q₀ : List Instr} {s : State} {n : ℕ} {fuel : ℕ} (h : s.Kept q₀) : (State.pushWork s n fuel).Kept q₀ := by
  induction fuel generalizing s n with
  | zero =>
    unfold State.pushWork
    repeat' first
      | with_reducible assumption
      | with_reducible refine State.arm_kept ?_
      | with_reducible refine State.record_kept ?_
      | with_reducible refine State.opEnd_kept ?_
      | with_reducible refine State.setWork_kept ?_
      | with_reducible refine State.sendWork_kept ?_
      | with_reducible refine kept_ite ?_ ?_
      | split
      | refine kept_fst ‹_› ?_
      | dsimp only
  | succ fuel ih =>
    unfold State.pushWork
    repeat' first
      | with_reducible assumption
      | with_reducible refine ih ?_
      | with_reducible refine State.arm_kept ?_
      | with_reducible refine State.record_kept ?_
      | with_reducible refine State.opEnd_kept ?_
      | with_reducible refine State.setWork_kept ?_
      | with_reducible refine State.sendWork_kept ?_
      | with_reducible refine kept_ite ?_ ?_
      | split
      | refine kept_fst ‹_› ?_
      | dsimp only

theorem State.startWork_kept {q₀ : List Instr} {s : State} {n : ℕ} {op : ℕ} (h : s.Kept q₀) : (State.startWork s n op).Kept q₀ := by
  unfold State.startWork
  repeat' first
    | with_reducible assumption
    | with_reducible refine State.poolRefused_kept ?_
    | with_reducible refine State.bumpSlice_kept ?_
    | with_reducible refine State.opStart_kept ?_
    | with_reducible refine State.readWith_kept ?_
    | with_reducible refine State.setRqp_kept ?_
    | with_reducible refine State.rdmaAdvance_kept ?_
    | with_reducible refine State.setWork_kept ?_
    | with_reducible refine State.pushWork_kept ?_
    | with_reducible refine kept_ite ?_ ?_
    | split
    | dsimp only

theorem State.refuseWork_kept {q₀ : List Instr} {s : State} {n : ℕ} (h : s.Kept q₀) : (State.refuseWork s n).Kept q₀ := by
  unfold State.refuseWork
  repeat' first
    | with_reducible assumption
    | with_reducible refine State.rdmaAdvance_kept ?_
    | with_reducible refine State.setWork_kept ?_
    | with_reducible refine kept_ite ?_ ?_
    | split
    | dsimp only

theorem execRdmaSend_kept {q₀ : List Instr} {qpn : ℕ} {s : State} (h : s.Kept q₀) : ResKept (execRdmaSend qpn s) q₀ := by
  unfold execRdmaSend
  repeat' first
    | with_reducible assumption
    | with_reducible refine State.startWork_kept ?_
    | with_reducible refine resKept_next ?_
    | with_reducible refine kept_ite ?_ ?_
    | with_reducible refine resKept_ite ?_ ?_
    | split
    | dsimp only

theorem execSendWithImmediate_kept {q₀ : List Instr} {qpn : ℕ} {s : State} (h : s.Kept q₀) : ResKept (execSendWithImmediate qpn s) q₀ := by
  unfold execSendWithImmediate
  repeat' first
    | with_reducible assumption
    | with_reducible refine State.startWork_kept ?_
    | with_reducible refine resKept_next ?_
    | with_reducible refine kept_ite ?_ ?_
    | with_reducible refine resKept_ite ?_ ?_
    | split
    | dsimp only

theorem execRdmaWrite_kept {q₀ : List Instr} {qpn : ℕ} {s : State} (h : s.Kept q₀) : ResKept (execRdmaWrite qpn s) q₀ := by
  unfold execRdmaWrite
  repeat' first
    | with_reducible assumption
    | with_reducible refine State.startWork_kept ?_
    | with_reducible refine resKept_next ?_
    | with_reducible refine kept_ite ?_ ?_
    | with_reducible refine resKept_ite ?_ ?_
    | split
    | dsimp only

theorem execRdmaWriteWithImmediate_kept {q₀ : List Instr} {qpn : ℕ} {s : State} (h : s.Kept q₀) : ResKept (execRdmaWriteWithImmediate qpn s) q₀ := by
  unfold execRdmaWriteWithImmediate
  repeat' first
    | with_reducible assumption
    | with_reducible refine State.startWork_kept ?_
    | with_reducible refine resKept_next ?_
    | with_reducible refine kept_ite ?_ ?_
    | with_reducible refine resKept_ite ?_ ?_
    | split
    | dsimp only

theorem execRdmaRead_kept {q₀ : List Instr} {qpn : ℕ} {s : State} (h : s.Kept q₀) : ResKept (execRdmaRead qpn s) q₀ := by
  unfold execRdmaRead
  repeat' first
    | with_reducible assumption
    | with_reducible refine State.startWork_kept ?_
    | with_reducible refine resKept_next ?_
    | with_reducible refine kept_ite ?_ ?_
    | with_reducible refine resKept_ite ?_ ?_
    | split
    | dsimp only

theorem execCompareAndSwap_kept {q₀ : List Instr} {qpn : ℕ} {s : State} (h : s.Kept q₀) : ResKept (execCompareAndSwap qpn s) q₀ := by
  unfold execCompareAndSwap
  repeat' first
    | with_reducible assumption
    | with_reducible refine State.startWork_kept ?_
    | with_reducible refine resKept_next ?_
    | with_reducible refine kept_ite ?_ ?_
    | with_reducible refine resKept_ite ?_ ?_
    | split
    | dsimp only

theorem execFetchAndAdd_kept {q₀ : List Instr} {qpn : ℕ} {s : State} (h : s.Kept q₀) : ResKept (execFetchAndAdd qpn s) q₀ := by
  unfold execFetchAndAdd
  repeat' first
    | with_reducible assumption
    | with_reducible refine State.startWork_kept ?_
    | with_reducible refine resKept_next ?_
    | with_reducible refine kept_ite ?_ ?_
    | with_reducible refine resKept_ite ?_ ?_
    | split
    | dsimp only

theorem execRdmaFlush_kept {q₀ : List Instr} {qpn : ℕ} {s : State} (h : s.Kept q₀) : ResKept (execRdmaFlush qpn s) q₀ := by
  unfold execRdmaFlush
  repeat' first
    | with_reducible assumption
    | with_reducible refine State.startWork_kept ?_
    | with_reducible refine resKept_next ?_
    | with_reducible refine kept_ite ?_ ?_
    | with_reducible refine resKept_ite ?_ ?_
    | split
    | dsimp only

theorem execRdmaWait_kept {q₀ : List Instr} {qpn : ℕ} {s : State} (h : s.Kept q₀) : ResKept (execRdmaWait qpn s) q₀ := by
  unfold execRdmaWait
  repeat' first
    | with_reducible assumption
    | with_reducible refine State.rdmaAdvance_kept ?_
    | with_reducible refine State.setWork_kept ?_
    | with_reducible refine resKept_next ?_
    | with_reducible refine kept_ite ?_ ?_
    | with_reducible refine resKept_ite ?_ ?_
    | split
    | dsimp only

theorem State.waitsHeld_kept {q₀ : List Instr} {s : State} (h : s.Kept q₀) : (State.waitsHeld s).Kept q₀ := by
  unfold State.waitsHeld
  repeat' first
    | with_reducible assumption
    | with_reducible refine State.setWork_kept ?_
    | with_reducible refine kept_foldl ?_ (fun _ _ _ => ?_)
    | with_reducible refine kept_foldl_pair ?_ (fun _ _ _ _ => ?_)
    | with_reducible refine kept_ite ?_ ?_
    | split
    | refine kept_fst ‹_› ?_
    | dsimp only

theorem State.releaseWait_kept {q₀ : List Instr} {s : State} {qpn : ℕ} (h : s.Kept q₀) : (State.releaseWait s qpn).Kept q₀ := by
  unfold State.releaseWait
  repeat' first
    | with_reducible assumption
    | with_reducible refine State.rdmaAdvance_kept ?_
    | with_reducible refine State.setWork_kept ?_
    | with_reducible refine kept_ite ?_ ?_
    | split
    | dsimp only
    | with_reducible refine kept_rdma ?_

theorem State.waitBoundary_kept {q₀ : List Instr} {s : State} (h : s.Kept q₀) : (State.waitBoundary s).Kept q₀ := by
  unfold State.waitBoundary
  repeat' first
    | with_reducible assumption
    | with_reducible refine State.waitsHeld_kept ?_
    | with_reducible refine State.releaseWait_kept ?_
    | with_reducible refine kept_foldl ?_ (fun _ _ _ => ?_)
    | with_reducible refine kept_foldl_pair ?_ (fun _ _ _ _ => ?_)
    | with_reducible refine kept_ite ?_ ?_
    | split
    | refine kept_fst ‹_› ?_
    | dsimp only

theorem execWaitRelease_kept {q₀ : List Instr} {qpn : ℕ} {s : State} (h : s.Kept q₀) : ResKept (execWaitRelease qpn s) q₀ := by
  unfold execWaitRelease
  repeat' first
    | with_reducible assumption
    | with_reducible refine State.releaseWait_kept ?_
    | with_reducible refine resKept_next ?_
    | with_reducible refine kept_ite ?_ ?_
    | with_reducible refine resKept_ite ?_ ?_
    | split
    | dsimp only

theorem State.resend_kept {q₀ : List Instr} {s : State} {n : ℕ} {psn : ℕ} (h : s.Kept q₀) : (State.resend s n psn).Kept q₀ := by
  unfold State.resend
  repeat' first
    | with_reducible assumption
    | with_reducible refine State.addTo_kept ?_
    | with_reducible refine State.dropRequests_kept ?_
    | with_reducible refine State.sendWork_kept ?_
    | with_reducible refine kept_foldl ?_ (fun _ _ _ => ?_)
    | with_reducible refine kept_foldl_pair ?_ (fun _ _ _ _ => ?_)
    | with_reducible refine kept_ite ?_ ?_
    | split
    | refine kept_fst ‹_› ?_
    | dsimp only

theorem State.workFails_kept {q₀ : List Instr} {s : State} {n : ℕ} {w : Work} {status : ℕ} (h : s.Kept q₀) : (State.workFails s n w status).Kept q₀ := by
  unfold State.workFails
  repeat' first
    | with_reducible assumption
    | with_reducible refine State.setRqp_kept ?_
    | with_reducible refine State.qpErr_kept ?_
    | with_reducible refine kept_ite ?_ ?_
    | split
    | dsimp only

theorem State.retry_kept {q₀ : List Instr} {s : State} {n : ℕ} {psn : ℕ} (h : s.Kept q₀) : (State.retry s n psn).Kept q₀ := by
  unfold State.retry
  repeat' first
    | with_reducible assumption
    | with_reducible refine State.arm_kept ?_
    | with_reducible refine State.raiseLimited_kept ?_
    | with_reducible refine State.setRqp_kept ?_
    | with_reducible refine State.resend_kept ?_
    | with_reducible refine State.workFails_kept ?_
    | with_reducible refine kept_ite ?_ ?_
    | split
    | dsimp only

theorem State.progress_kept {q₀ : List Instr} {s : State} {n : ℕ} {p : ℕ} {before : List Work} {stamp : ℕ} (h : s.Kept q₀) : (State.progress s n p before stamp).Kept q₀ := by
  unfold State.progress
  repeat' first
    | with_reducible assumption
    | with_reducible refine State.arm_kept ?_
    | with_reducible refine State.disarm_kept ?_
    | with_reducible refine State.opEnd_kept ?_
    | with_reducible refine State.setRqp_kept ?_
    | with_reducible refine State.rdmaAdvance_kept ?_
    | with_reducible refine kept_foldl ?_ (fun _ _ _ => ?_)
    | with_reducible refine kept_foldl_pair ?_ (fun _ _ _ _ => ?_)
    | with_reducible refine kept_ite ?_ ?_
    | split
    | refine kept_fst ‹_› ?_
    | dsimp only

theorem State.acknowledge_kept {q₀ : List Instr} {s : State} {n : ℕ} {p : ℕ} {stamp : ℕ} (h : s.Kept q₀) : (State.acknowledge s n p stamp).1.Kept q₀ := by
  unfold State.acknowledge
  repeat' first
    | with_reducible assumption
    | with_reducible refine State.setRqp_kept ?_
    | with_reducible refine State.progress_kept ?_
    | with_reducible refine kept_ite ?_ ?_
    | with_reducible refine kept_ite_fst ?_ ?_
    | split
    | dsimp only

theorem State.lateResponse_kept {q₀ : List Instr} {s : State} {n : ℕ} (h : s.Kept q₀) : (State.lateResponse s n).Kept q₀ := by
  unfold State.lateResponse
  repeat' first
    | with_reducible assumption
    | with_reducible refine State.bump_kept ?_
    | with_reducible refine kept_ite ?_ ?_
    | split
    | dsimp only

theorem State.takeResponse_kept {q₀ : List Instr} {s : State} {n : ℕ} {x1 : RocePacket} {h1 : List Byte} {body : List Byte} {stamp : ℕ} (h : s.Kept q₀) : (State.takeResponse s n x1 h1 body stamp).Kept q₀ := by
  unfold State.takeResponse
  repeat' first
    | with_reducible assumption
    | with_reducible refine State.hostWriteFrom_kept ?_
    | with_reducible refine State.setRqp_kept ?_
    | with_reducible refine State.workFails_kept ?_
    | with_reducible refine State.progress_kept ?_
    | with_reducible refine State.acknowledge_kept ?_
    | with_reducible refine State.lateResponse_kept ?_
    | with_reducible refine kept_ite ?_ ?_
    | with_reducible refine kept_ite_fst ?_ ?_
    | split
    | refine kept_fst ‹_› ?_
    | dsimp only

theorem State.replyFor_kept {q₀ : List Instr} {s : State} {p : ℕ} {off : ℕ} {bytes : List Byte} (h : s.Kept q₀) : (State.replyFor s p off bytes).1.Kept q₀ := by
  unfold State.replyFor
  repeat' first
    | with_reducible assumption
    | with_reducible refine State.bump_kept ?_
    | with_reducible refine State.nakErr_kept ?_
    | with_reducible refine State.takeDelay_kept ?_
    | with_reducible refine State.roceArrive_kept ?_
    | with_reducible refine kept_ite ?_ ?_
    | with_reducible refine kept_ite_fst ?_ ?_
    | split
    | refine kept_fst ‹_› ?_
    | dsimp only

theorem execRdmaAck_kept {q₀ : List Instr} {p : PortId} {off : ℕ} {bytes : List Byte} {s : State} (h : s.Kept q₀) : ResKept (execRdmaAck p off bytes s) q₀ := by
  unfold execRdmaAck
  repeat' first
    | with_reducible assumption
    | with_reducible refine State.acknowledge_kept ?_
    | with_reducible refine State.lateResponse_kept ?_
    | with_reducible refine State.takeResponse_kept ?_
    | with_reducible refine State.replyFor_kept ?_
    | with_reducible refine resKept_next ?_
    | with_reducible refine kept_ite ?_ ?_
    | with_reducible refine resKept_ite ?_ ?_
    | with_reducible refine kept_ite_fst ?_ ?_
    | split
    | refine kept_fst ‹_› ?_
    | dsimp only

theorem execNakPsnSequenceError_kept {q₀ : List Instr} {p : PortId} {off : ℕ} {bytes : List Byte} {s : State} (h : s.Kept q₀) : ResKept (execNakPsnSequenceError p off bytes s) q₀ := by
  unfold execNakPsnSequenceError
  repeat' first
    | with_reducible assumption
    | with_reducible refine State.retry_kept ?_
    | with_reducible refine State.acknowledge_kept ?_
    | with_reducible refine State.lateResponse_kept ?_
    | with_reducible refine State.replyFor_kept ?_
    | with_reducible refine resKept_next ?_
    | with_reducible refine kept_ite ?_ ?_
    | with_reducible refine resKept_ite ?_ ?_
    | with_reducible refine kept_ite_fst ?_ ?_
    | split
    | refine kept_fst ‹_› ?_
    | dsimp only

theorem execRnrNak_kept {q₀ : List Instr} {p : PortId} {off : ℕ} {bytes : List Byte} {s : State} (h : s.Kept q₀) : ResKept (execRnrNak p off bytes s) q₀ := by
  unfold execRnrNak
  repeat' first
    | with_reducible assumption
    | with_reducible refine State.arm_kept ?_
    | with_reducible refine State.disarm_kept ?_
    | with_reducible refine State.raiseLimited_kept ?_
    | with_reducible refine State.setRqp_kept ?_
    | with_reducible refine State.workFails_kept ?_
    | with_reducible refine State.acknowledge_kept ?_
    | with_reducible refine State.lateResponse_kept ?_
    | with_reducible refine State.replyFor_kept ?_
    | with_reducible refine resKept_next ?_
    | with_reducible refine kept_ite ?_ ?_
    | with_reducible refine resKept_ite ?_ ?_
    | with_reducible refine kept_ite_fst ?_ ?_
    | split
    | refine kept_fst ‹_› ?_
    | dsimp only

theorem execRdmaNak_kept {q₀ : List Instr} {p : PortId} {off : ℕ} {bytes : List Byte} {s : State} (h : s.Kept q₀) : ResKept (execRdmaNak p off bytes s) q₀ := by
  unfold execRdmaNak
  repeat' first
    | with_reducible assumption
    | with_reducible refine State.workFails_kept ?_
    | with_reducible refine State.acknowledge_kept ?_
    | with_reducible refine State.lateResponse_kept ?_
    | with_reducible refine State.replyFor_kept ?_
    | with_reducible refine resKept_next ?_
    | with_reducible refine kept_ite ?_ ?_
    | with_reducible refine resKept_ite ?_ ?_
    | with_reducible refine kept_ite_fst ?_ ?_
    | split
    | refine kept_fst ‹_› ?_
    | dsimp only

theorem execLocalAckTimeout_kept {q₀ : List Instr} {qpn : ℕ} {s : State} (h : s.Kept q₀) : ResKept (execLocalAckTimeout qpn s) q₀ := by
  unfold execLocalAckTimeout
  repeat' first
    | with_reducible assumption
    | with_reducible refine State.disarm_kept ?_
    | with_reducible refine State.retry_kept ?_
    | with_reducible refine resKept_next ?_
    | with_reducible refine kept_ite ?_ ?_
    | with_reducible refine resKept_ite ?_ ?_
    | split
    | dsimp only

theorem execRnrTimer_kept {q₀ : List Instr} {qpn : ℕ} {s : State} (h : s.Kept q₀) : ResKept (execRnrTimer qpn s) q₀ := by
  unfold execRnrTimer
  repeat' first
    | with_reducible assumption
    | with_reducible refine State.arm_kept ?_
    | with_reducible refine State.disarm_kept ?_
    | with_reducible refine State.setRqp_kept ?_
    | with_reducible refine State.pushWork_kept ?_
    | with_reducible refine State.resend_kept ?_
    | with_reducible refine resKept_next ?_
    | with_reducible refine kept_ite ?_ ?_
    | with_reducible refine resKept_ite ?_ ?_
    | split
    | dsimp only

theorem State.rdmaData_kept {q₀ : List Instr} {s : State} {r : Dma} {data : Option (List Byte)} (h : s.Kept q₀) : (State.rdmaData s r data).Kept q₀ := by
  unfold State.rdmaData
  repeat' first
    | with_reducible assumption
    | with_reducible refine State.setRqp_kept ?_
    | with_reducible refine State.rcqWrite_kept ?_
    | with_reducible refine State.qpErr_kept ?_
    | with_reducible refine State.rdmaAdvance_kept ?_
    | with_reducible refine State.rdmaWqe_kept ?_
    | with_reducible refine State.serve_kept ?_
    | with_reducible refine State.nakErr_kept ?_
    | with_reducible refine State.pushWork_kept ?_
    | with_reducible refine State.refuseWork_kept ?_
    | with_reducible refine State.workFails_kept ?_
    | with_reducible refine kept_ite ?_ ?_
    | with_reducible refine kept_ite_fst ?_ ?_
    | split
    | refine kept_fst ‹_› ?_
    | dsimp only

theorem State.rateUpdate_kept {q₀ : List Instr} {s : State} {n : ℕ} (h : s.Kept q₀) : (State.rateUpdate s n).Kept q₀ := by
  unfold State.rateUpdate
  repeat' first
    | with_reducible assumption
    | with_reducible refine State.setRqp_kept ?_
    | with_reducible refine kept_foldl ?_ (fun _ _ _ => ?_)
    | with_reducible refine kept_foldl_pair ?_ (fun _ _ _ _ => ?_)
    | with_reducible refine kept_ite ?_ ?_
    | split
    | refine kept_fst ‹_› ?_
    | dsimp only

theorem State.portAsync_kept {q₀ : List Instr} {s : State} {p : ℕ} {event : ℕ} (h : s.Kept q₀) : (State.portAsync s p event).Kept q₀ := by
  unfold State.portAsync
  repeat' first
    | with_reducible assumption
    | with_reducible refine State.rdmaAsync_kept ?_
    | with_reducible refine kept_foldl ?_ (fun _ _ _ => ?_)
    | with_reducible refine kept_foldl_pair ?_ (fun _ _ _ _ => ?_)
    | with_reducible refine kept_ite ?_ ?_
    | split
    | refine kept_fst ‹_› ?_
    | dsimp only

theorem State.rdmaPorts_kept {q₀ : List Instr} {s : State} (h : s.Kept q₀) : (State.rdmaPorts s).Kept q₀ := by
  unfold State.rdmaPorts
  repeat' first
    | with_reducible assumption
    | with_reducible refine State.portAsync_kept ?_
    | with_reducible refine kept_foldl ?_ (fun _ _ _ => ?_)
    | with_reducible refine kept_foldl_pair ?_ (fun _ _ _ _ => ?_)
    | with_reducible refine kept_ite ?_ ?_
    | split
    | refine kept_fst ‹_› ?_
    | dsimp only
    | with_reducible refine kept_rdma ?_

theorem State.delayFallback_kept {q₀ : List Instr} {s : State} {qpn : ℕ} (h : s.Kept q₀) : (State.delayFallback s qpn).Kept q₀ := by
  unfold State.delayFallback
  repeat' first
    | with_reducible assumption
    | with_reducible refine State.bump_kept ?_
    | with_reducible refine State.setRqp_kept ?_
    | with_reducible refine kept_ite ?_ ?_
    | split
    | dsimp only

theorem execDelayFallback_kept {q₀ : List Instr} {qpn : ℕ} {s : State} (h : s.Kept q₀) : ResKept (execDelayFallback qpn s) q₀ := by
  unfold execDelayFallback
  repeat' first
    | with_reducible assumption
    | with_reducible refine State.delayFallback_kept ?_
    | with_reducible refine resKept_next ?_
    | with_reducible refine kept_ite ?_ ?_
    | with_reducible refine resKept_ite ?_ ?_
    | split
    | dsimp only

theorem State.rdmaBoundary_kept {q₀ : List Instr} {s : State} (h : s.Kept q₀) : (State.rdmaBoundary s).Kept q₀ := by
  unfold State.rdmaBoundary
  repeat' first
    | with_reducible assumption
    | with_reducible refine State.rdmaFetch_kept ?_
    | with_reducible refine State.drainPaced_kept ?_
    | with_reducible refine State.waitBoundary_kept ?_
    | with_reducible refine State.rateUpdate_kept ?_
    | with_reducible refine State.rdmaPorts_kept ?_
    | with_reducible refine State.delayFallback_kept ?_
    | with_reducible refine kept_foldl ?_ (fun _ _ _ => ?_)
    | with_reducible refine kept_foldl_pair ?_ (fun _ _ _ _ => ?_)
    | with_reducible refine kept_ite ?_ ?_
    | split
    | refine kept_fst ‹_› ?_
    | dsimp only

theorem State.flushClass_kept {q₀ : List Instr} {s : State} {p : ℕ} {c : ℕ} (h : s.Kept q₀) : (State.flushClass s p c).Kept q₀ := by
  unfold State.flushClass
  repeat' first
    | with_reducible assumption
    | with_reducible refine State.raise_kept ?_
    | with_reducible refine State.setQueue_kept ?_
    | with_reducible refine State.setEgress_kept ?_
    | with_reducible refine State.queueEmptied_kept ?_
    | with_reducible refine State.flushOne_kept ?_
    | with_reducible refine kept_foldl ?_ (fun _ _ _ => ?_)
    | with_reducible refine kept_foldl_pair ?_ (fun _ _ _ _ => ?_)
    | with_reducible refine kept_ite ?_ ?_
    | split
    | refine kept_fst ‹_› ?_
    | dsimp only

theorem execPfcStorm_kept {q₀ : List Instr} {p : PortId} {c : ClassId} {s : State} (h : s.Kept q₀) : ResKept (execPfcStorm p c s) q₀ := by
  unfold execPfcStorm
  repeat' first
    | with_reducible assumption
    | with_reducible refine State.wr_kept ?_
    | with_reducible refine State.arm_kept ?_
    | with_reducible refine State.disarm_kept ?_
    | with_reducible refine State.raiseLimited_kept ?_
    | with_reducible refine State.portAsync_kept ?_
    | with_reducible refine State.flushClass_kept ?_
    | with_reducible refine resKept_next ?_
    | with_reducible refine kept_ite ?_ ?_
    | with_reducible refine resKept_ite ?_ ?_
    | split
    | dsimp only

theorem execStormRestore_kept {q₀ : List Instr} {p : PortId} {c : ClassId} {s : State} (h : s.Kept q₀) : ResKept (execStormRestore p c s) q₀ := by
  unfold execStormRestore
  repeat' first
    | with_reducible assumption
    | with_reducible refine State.wr_kept ?_
    | with_reducible refine State.disarm_kept ?_
    | with_reducible refine resKept_next ?_
    | with_reducible refine kept_ite ?_ ?_
    | with_reducible refine resKept_ite ?_ ?_
    | split
    | dsimp only

end Sys2Proof.Machine
end

