-- ==== Sys2Proof/Laws/KeptHostReset.lean ====
section
/-! SUPPORT. Laws/KeptHostReset.lean: every operation of Machine/HostReset.lean keeps the queue and the canonical form. -/

namespace Sys2Proof.Machine

theorem State.payloadEnded_kept {q₀ : List Instr} {s : State} {r : Dma} {poisoned : Bool} {data : Option (List Byte)} (h : s.Kept q₀) : (State.payloadEnded s r poisoned data).Kept q₀ := by
  unfold State.payloadEnded
  repeat' first
    | with_reducible assumption
    | with_reducible refine State.setQp_kept ?_
    | with_reducible refine State.txAdvance_kept ?_
    | with_reducible refine kept_ite ?_ ?_
    | split
    | dsimp only

theorem State.deliver_kept {q₀ : List Instr} {s : State} {r : Dma} {poisoned : Bool} {data : Option (List Byte)} (h : s.Kept q₀) : (State.deliver s r poisoned data).Kept q₀ := by
  unfold State.deliver
  repeat' first
    | with_reducible assumption
    | with_reducible refine State.setQp_kept ?_
    | with_reducible refine State.haltQueue_kept ?_
    | with_reducible refine State.txDescribed_kept ?_
    | with_reducible refine State.txAdvance_kept ?_
    | with_reducible refine State.dirtyDescribed_kept ?_
    | with_reducible refine State.dirtyMarked_kept ?_
    | with_reducible refine State.lookData_kept ?_
    | with_reducible refine State.nvData_kept ?_
    | with_reducible refine State.rdmaData_kept ?_
    | with_reducible refine State.payloadEnded_kept ?_
    | with_reducible refine kept_ite ?_ ?_
    | split
    | dsimp only

theorem State.conclude_kept {q₀ : List Instr} {s : State} {r : Dma} {poisoned : Bool} {data : Option (List Byte)} (h : s.Kept q₀) : (State.conclude s r poisoned data).Kept q₀ := by
  unfold State.conclude
  repeat' first
    | with_reducible assumption
    | with_reducible refine State.endRead_kept ?_
    | with_reducible refine State.deliver_kept ?_
    | with_reducible refine kept_ite ?_ ?_
    | split
    | dsimp only

theorem execCompletion_kept {q₀ : List Instr} {link : Fin 4} {fn : Fin 4} {tag : ℕ} {status : ℕ} {poisoned : Bool} {data : List Byte} {s : State} (h : s.Kept q₀) : ResKept (execCompletion link fn tag status poisoned data s) q₀ := by
  unfold execCompletion
  repeat' first
    | with_reducible assumption
    | with_reducible refine State.unexpected_kept ?_
    | with_reducible refine State.conclude_kept ?_
    | with_reducible refine resKept_next ?_
    | with_reducible refine kept_ite ?_ ?_
    | with_reducible refine resKept_ite ?_ ?_
    | split
    | dsimp only

theorem execCompletionTimeout_kept {q₀ : List Instr} {link : Fin 4} {tag : ℕ} {s : State} (h : s.Kept q₀) : ResKept (execCompletionTimeout link tag s) q₀ := by
  unfold execCompletionTimeout
  repeat' first
    | with_reducible assumption
    | with_reducible refine State.bump_kept ?_
    | with_reducible refine State.raiseLimited_kept ?_
    | with_reducible refine State.conclude_kept ?_
    | with_reducible refine resKept_next ?_
    | with_reducible refine kept_ite ?_ ?_
    | with_reducible refine resKept_ite ?_ ?_
    | split
    | dsimp only

theorem State.dropReads_kept {q₀ : List Instr} {s : State} {mine : Dma → Bool} (h : s.Kept q₀) : (State.dropReads s mine).Kept q₀ := by
  unfold State.dropReads
  repeat' first
    | with_reducible assumption
    | with_reducible refine State.endRead_kept ?_
    | with_reducible refine State.deliver_kept ?_
    | with_reducible refine kept_foldl ?_ (fun _ _ _ => ?_)
    | with_reducible refine kept_foldl_pair ?_ (fun _ _ _ _ => ?_)
    | with_reducible refine kept_ite ?_ ?_
    | split
    | refine kept_fst ‹_› ?_
    | dsimp only
    | with_reducible refine kept_host ?_ rfl

theorem State.haltNvq_kept {q₀ : List Instr} {s : State} {k : ℕ} (h : s.Kept q₀) : (State.haltNvq s k).Kept q₀ := by
  unfold State.haltNvq
  repeat' first
    | with_reducible assumption
    | with_reducible refine State.raiseLimited_kept ?_
    | with_reducible refine State.setNvq_kept ?_
    | with_reducible refine kept_ite ?_ ?_
    | split
    | dsimp only

theorem State.silence_kept {q₀ : List Instr} {s : State} {f : ℕ} (h : s.Kept q₀) : (State.silence s f).Kept q₀ := by
  unfold State.silence
  repeat' first
    | with_reducible assumption
    | with_reducible refine State.addTo_kept ?_
    | with_reducible refine State.poolGive_kept ?_
    | with_reducible refine State.setQp_kept ?_
    | with_reducible refine State.setRing_kept ?_
    | with_reducible refine State.dropCopy_kept ?_
    | with_reducible refine State.haltQueue_kept ?_
    | with_reducible refine State.lookAbort_kept ?_
    | with_reducible refine State.dropReads_kept ?_
    | with_reducible refine State.haltNvq_kept ?_
    | with_reducible refine kept_foldl ?_ (fun _ _ _ => ?_)
    | with_reducible refine kept_foldl_pair ?_ (fun _ _ _ _ => ?_)
    | with_reducible refine kept_ite ?_ ?_
    | split
    | refine kept_fst ‹_› ?_
    | dsimp only
    | with_reducible refine kept_switch ?_

theorem State.setBusMaster_kept {q₀ : List Instr} {s : State} {f : ℕ} {on : Bool} (h : s.Kept q₀) : (State.setBusMaster s f on).Kept q₀ := by
  unfold State.setBusMaster
  repeat' first
    | with_reducible assumption
    | with_reducible refine State.setHostFn_kept ?_
    | with_reducible refine State.pumpReads_kept ?_
    | with_reducible refine State.silence_kept ?_
    | with_reducible refine kept_ite ?_ ?_
    | split
    | dsimp only

theorem execBusMasterEnableClear_kept {q₀ : List Instr} {link : Fin 4} {fn : Fin 4} {s : State} (h : s.Kept q₀) : ResKept (execBusMasterEnableClear link fn s) q₀ := by
  unfold execBusMasterEnableClear
  repeat' first
    | with_reducible assumption
    | with_reducible refine State.setBusMaster_kept ?_
    | with_reducible refine resKept_next ?_
    | with_reducible refine kept_ite ?_ ?_
    | with_reducible refine resKept_ite ?_ ?_
    | split
    | dsimp only

theorem execBusMasterEnableSet_kept {q₀ : List Instr} {link : Fin 4} {fn : Fin 4} {s : State} (h : s.Kept q₀) : ResKept (execBusMasterEnableSet link fn s) q₀ := by
  unfold execBusMasterEnableSet
  repeat' first
    | with_reducible assumption
    | with_reducible refine State.setBusMaster_kept ?_
    | with_reducible refine resKept_next ?_
    | with_reducible refine kept_ite ?_ ?_
    | with_reducible refine resKept_ite ?_ ?_
    | split
    | dsimp only

theorem State.capTimeout_kept {q₀ : List Instr} {s : State} {r : Dma} (h : s.Kept q₀) : (State.capTimeout s r).Kept q₀ := by
  unfold State.capTimeout
  repeat' first
    | with_reducible assumption
    | with_reducible refine State.arm_kept ?_
    | with_reducible refine kept_ite ?_ ?_
    | split
    | dsimp only
    | with_reducible refine kept_host ?_ rfl

theorem State.capTimeouts_kept {q₀ : List Instr} {s : State} {mine : Dma → Bool} (h : s.Kept q₀) : (State.capTimeouts s mine).Kept q₀ := by
  unfold State.capTimeouts
  repeat' first
    | with_reducible assumption
    | with_reducible refine State.capTimeout_kept ?_
    | with_reducible refine kept_foldl ?_ (fun _ _ _ => ?_)
    | with_reducible refine kept_foldl_pair ?_ (fun _ _ _ _ => ?_)
    | with_reducible refine kept_ite ?_ ?_
    | split
    | refine kept_fst ‹_› ?_
    | dsimp only

theorem State.beginReset_kept {q₀ : List Instr} {s : State} {f : ℕ} (h : s.Kept q₀) : (State.beginReset s f).Kept q₀ := by
  unfold State.beginReset
  repeat' first
    | with_reducible assumption
    | with_reducible refine State.setHostFn_kept ?_
    | with_reducible refine State.silence_kept ?_
    | with_reducible refine State.capTimeouts_kept ?_
    | with_reducible refine kept_ite ?_ ?_
    | split
    | dsimp only

theorem execInitiateFunctionLevelReset_kept {q₀ : List Instr} {link : Fin 4} {fn : Fin 4} {s : State} (h : s.Kept q₀) : ResKept (execInitiateFunctionLevelReset link fn s) q₀ := by
  unfold execInitiateFunctionLevelReset
  repeat' first
    | with_reducible assumption
    | with_reducible refine State.beginReset_kept ?_
    | with_reducible refine resKept_next ?_
    | with_reducible refine kept_ite ?_ ?_
    | with_reducible refine resKept_ite ?_ ?_
    | split
    | dsimp only

theorem State.zeroiseSlots_kept {q₀ : List Instr} {s : State} {n : ℕ} (h : s.Kept q₀) : (State.zeroiseSlots s n).Kept q₀ := by
  unfold State.zeroiseSlots
  repeat' first
    | with_reducible assumption
    | with_reducible refine State.setKeySlot_kept ?_
    | with_reducible refine kept_foldl ?_ (fun _ _ _ => ?_)
    | with_reducible refine kept_foldl_pair ?_ (fun _ _ _ _ => ?_)
    | with_reducible refine kept_ite ?_ ?_
    | split
    | refine kept_fst ‹_› ?_
    | dsimp only

theorem State.maskSlice_kept {q₀ : List Instr} {s : State} {f : ℕ} {n : ℕ} (h : s.Kept q₀) : (State.maskSlice s f n).Kept q₀ := by
  unfold State.maskSlice
  repeat' first
    | with_reducible assumption
    | with_reducible refine State.setHostFn_kept ?_
    | with_reducible refine kept_foldl ?_ (fun _ _ _ => ?_)
    | with_reducible refine kept_foldl_pair ?_ (fun _ _ _ _ => ?_)
    | with_reducible refine kept_ite ?_ ?_
    | split
    | refine kept_fst ‹_› ?_
    | dsimp only

theorem State.resetQueues_kept {q₀ : List Instr} {s : State} {f : ℕ} {mine : ℕ → Bool} (h : s.Kept q₀) : (State.resetQueues s f mine).Kept q₀ := by
  unfold State.resetQueues
  repeat' first
    | with_reducible assumption
    | with_reducible refine State.setQp_kept ?_
    | with_reducible refine State.resetQueue_kept ?_
    | with_reducible refine State.setNvq_kept ?_
    | with_reducible refine State.resetNvq_kept ?_
    | with_reducible refine kept_foldl ?_ (fun _ _ _ => ?_)
    | with_reducible refine kept_foldl_pair ?_ (fun _ _ _ _ => ?_)
    | with_reducible refine kept_ite ?_ ?_
    | split
    | refine kept_fst ‹_› ?_
    | dsimp only

theorem State.resetCtrl_kept {q₀ : List Instr} {s : State} {link : ℕ} (h : s.Kept q₀) : (State.resetCtrl s link).Kept q₀ := by
  unfold State.resetCtrl
  repeat' first
    | with_reducible assumption
    | with_reducible refine State.disarm_kept ?_
    | with_reducible refine State.endNvme_kept ?_
    | with_reducible refine State.setCtrl_kept ?_
    | with_reducible refine kept_foldl ?_ (fun _ _ _ => ?_)
    | with_reducible refine kept_foldl_pair ?_ (fun _ _ _ _ => ?_)
    | with_reducible refine kept_ite ?_ ?_
    | split
    | refine kept_fst ‹_› ?_
    | dsimp only
    | with_reducible refine kept_storage ?_

theorem State.resetWindows_kept {q₀ : List Instr} {s : State} {link : ℕ} (h : s.Kept q₀) : (State.resetWindows s link).Kept q₀ := by
  unfold State.resetWindows
  repeat' first
    | with_reducible assumption
    | with_reducible refine State.setWindow_kept ?_
    | with_reducible refine kept_foldl ?_ (fun _ _ _ => ?_)
    | with_reducible refine kept_foldl_pair ?_ (fun _ _ _ _ => ?_)
    | with_reducible refine kept_ite ?_ ?_
    | split
    | refine kept_fst ‹_› ?_
    | dsimp only

theorem State.dropContext_kept {q₀ : List Instr} {s : State} {ctx : ℕ} (h : s.Kept q₀) : (State.dropContext s ctx).Kept q₀ := by
  unfold State.dropContext
  repeat' first
    | with_reducible assumption
    | with_reducible refine kept_ite ?_ ?_
    | split
    | dsimp only
    | with_reducible refine kept_agent ?_

theorem State.finishReset_kept {q₀ : List Instr} {s : State} {f : ℕ} (h : s.Kept q₀) : (State.finishReset s f).Kept q₀ := by
  unfold State.finishReset
  repeat' first
    | with_reducible assumption
    | with_reducible refine State.raise_kept ?_
    | with_reducible refine State.setHostFn_kept ?_
    | with_reducible refine State.setRing_kept ?_
    | with_reducible refine State.rdmaSliceReset_kept ?_
    | with_reducible refine State.zeroiseSlots_kept ?_
    | with_reducible refine State.resetQueues_kept ?_
    | with_reducible refine State.resetCtrl_kept ?_
    | with_reducible refine State.resetWindows_kept ?_
    | with_reducible refine State.dropContext_kept ?_
    | with_reducible refine kept_foldl ?_ (fun _ _ _ => ?_)
    | with_reducible refine kept_foldl_pair ?_ (fun _ _ _ _ => ?_)
    | with_reducible refine kept_ite ?_ ?_
    | with_reducible refine kept_slices ?_
    | with_reducible refine kept_host ?_ rfl
    | with_reducible refine kept_agent ?_
    | split
    | refine kept_fst ‹_› ?_
    | dsimp only

theorem execFunctionResetComplete_kept {q₀ : List Instr} {link : Fin 4} {fn : Fin 4} {s : State} (h : s.Kept q₀) : ResKept (execFunctionResetComplete link fn s) q₀ := by
  unfold execFunctionResetComplete
  repeat' first
    | with_reducible assumption
    | with_reducible refine State.finishReset_kept ?_
    | with_reducible refine resKept_next ?_
    | with_reducible refine kept_ite ?_ ?_
    | with_reducible refine resKept_ite ?_ ?_
    | split
    | dsimp only

theorem execSliceReset_kept {q₀ : List Instr} {k : SliceRef} {s : State} (h : s.Kept q₀) : ResKept (execSliceReset k s) q₀ := by
  unfold execSliceReset
  repeat' first
    | with_reducible assumption
    | with_reducible refine State.setBlock_kept ?_
    | with_reducible refine State.stopQueue_kept ?_
    | with_reducible refine State.stopNvq_kept ?_
    | with_reducible refine State.lookAbort_kept ?_
    | with_reducible refine State.dropReads_kept ?_
    | with_reducible refine State.capTimeouts_kept ?_
    | with_reducible refine kept_foldl ?_ (fun _ _ _ => ?_)
    | with_reducible refine kept_foldl_pair ?_ (fun _ _ _ _ => ?_)
    | with_reducible refine resKept_next ?_
    | with_reducible refine kept_ite ?_ ?_
    | with_reducible refine resKept_ite ?_ ?_
    | split
    | refine kept_fst ‹_› ?_
    | dsimp only

theorem execSliceResetComplete_kept {q₀ : List Instr} {k : SliceRef} {s : State} (h : s.Kept q₀) : ResKept (execSliceResetComplete k s) q₀ := by
  unfold execSliceResetComplete
  repeat' first
    | with_reducible assumption
    | with_reducible refine State.raise_kept ?_
    | with_reducible refine State.setBlock_kept ?_
    | with_reducible refine State.rdmaSliceReset_kept ?_
    | with_reducible refine State.zeroiseSlots_kept ?_
    | with_reducible refine State.maskSlice_kept ?_
    | with_reducible refine State.resetQueues_kept ?_
    | with_reducible refine resKept_next ?_
    | with_reducible refine kept_ite ?_ ?_
    | with_reducible refine resKept_ite ?_ ?_
    | split
    | dsimp only

theorem State.hostLinkDown_kept {q₀ : List Instr} {s : State} {link : ℕ} (h : s.Kept q₀) : (State.hostLinkDown s link).Kept q₀ := by
  unfold State.hostLinkDown
  repeat' first
    | with_reducible assumption
    | with_reducible refine State.wr_kept ?_
    | with_reducible refine State.beginReset_kept ?_
    | with_reducible refine kept_foldl ?_ (fun _ _ _ => ?_)
    | with_reducible refine kept_foldl_pair ?_ (fun _ _ _ _ => ?_)
    | with_reducible refine kept_ite ?_ ?_
    | split
    | refine kept_fst ‹_› ?_
    | dsimp only

theorem execHostLinkReset_kept {q₀ : List Instr} {link : Fin 4} {s : State} (h : s.Kept q₀) : ResKept (execHostLinkReset link s) q₀ := by
  unfold execHostLinkReset
  repeat' first
    | with_reducible assumption
    | with_reducible refine State.hostLinkDown_kept ?_
    | with_reducible refine resKept_next ?_
    | with_reducible refine kept_ite ?_ ?_
    | with_reducible refine resKept_ite ?_ ?_
    | split
    | dsimp only

theorem State.freshWindows_kept {q₀ : List Instr} {s : State} {port : ℕ} (h : s.Kept q₀) : (State.freshWindows s port).Kept q₀ := by
  unfold State.freshWindows
  repeat' first
    | with_reducible assumption
    | with_reducible refine State.setWindow_kept ?_
    | with_reducible refine kept_foldl ?_ (fun _ _ _ => ?_)
    | with_reducible refine kept_foldl_pair ?_ (fun _ _ _ _ => ?_)
    | with_reducible refine kept_ite ?_ ?_
    | split
    | refine kept_fst ‹_› ?_
    | dsimp only

theorem execPerstRelease_kept {q₀ : List Instr} {port : Fin 2} {strap : Bool} {s : State} (h : s.Kept q₀) : ResKept (execPerstRelease port strap s) q₀ := by
  unfold execPerstRelease
  repeat' first
    | with_reducible assumption
    | with_reducible refine State.wr_kept ?_
    | with_reducible refine State.hostLinkDown_kept ?_
    | with_reducible refine State.freshWindows_kept ?_
    | with_reducible refine resKept_next ?_
    | with_reducible refine kept_ite ?_ ?_
    | with_reducible refine resKept_ite ?_ ?_
    | split
    | dsimp only

theorem execHostLinkUp_kept {q₀ : List Instr} {link : Fin 4} {rate : ℕ} {width : ℕ} {s : State} (h : s.Kept q₀) : ResKept (execHostLinkUp link rate width s) q₀ := by
  unfold execHostLinkUp
  repeat' first
    | with_reducible assumption
    | with_reducible refine State.wr_kept ?_
    | with_reducible refine State.pumpReads_kept ?_
    | with_reducible refine resKept_next ?_
    | with_reducible refine kept_ite ?_ ?_
    | with_reducible refine resKept_ite ?_ ?_
    | split
    | dsimp only

theorem State.msixFlush_kept {q₀ : List Instr} {s : State} {f : ℕ} (h : s.Kept q₀) : (State.msixFlush s f).Kept q₀ := by
  unfold State.msixFlush
  repeat' first
    | with_reducible assumption
    | with_reducible refine State.msixInterrupt_kept ?_
    | with_reducible refine kept_foldl ?_ (fun _ _ _ => ?_)
    | with_reducible refine kept_foldl_pair ?_ (fun _ _ _ _ => ?_)
    | with_reducible refine kept_ite ?_ ?_
    | split
    | refine kept_fst ‹_› ?_
    | dsimp only

theorem State.configRead_kept {q₀ : List Instr} {s : State} {f : ℕ} {reg : CfgReg} (h : s.Kept q₀) : (State.configRead s f reg).1.Kept q₀ := by
  unfold State.configRead
  repeat' first
    | with_reducible assumption
    | with_reducible refine State.openBits_kept ?_
    | with_reducible refine kept_ite ?_ ?_
    | with_reducible refine kept_ite_fst ?_ ?_
    | split
    | refine kept_fst ‹_› ?_
    | dsimp only

theorem State.configWrite_kept {q₀ : List Instr} {s : State} {f : ℕ} {reg : CfgReg} {v : ℕ} (h : s.Kept q₀) : (State.configWrite s f reg v).Kept q₀ := by
  unfold State.configWrite
  repeat' first
    | with_reducible assumption
    | with_reducible refine State.setHostFn_kept ?_
    | with_reducible refine State.silence_kept ?_
    | with_reducible refine State.setBusMaster_kept ?_
    | with_reducible refine State.beginReset_kept ?_
    | with_reducible refine State.msixFlush_kept ?_
    | with_reducible refine kept_ite ?_ ?_
    | split
    | dsimp only

theorem execConfigurationRequest_kept {q₀ : List Instr} {link : Fin 4} {fn : Fin 8} {reg : CfgReg} {value : Option (BitVec 64)} {s : State} (h : s.Kept q₀) : ResKept (execConfigurationRequest link fn reg value s) q₀ := by
  unfold execConfigurationRequest
  repeat' first
    | with_reducible assumption
    | with_reducible refine State.emit_kept ?_
    | with_reducible refine State.configRead_kept ?_
    | with_reducible refine State.configWrite_kept ?_
    | with_reducible refine resKept_next ?_
    | with_reducible refine kept_ite ?_ ?_
    | with_reducible refine resKept_ite ?_ ?_
    | with_reducible refine kept_ite_fst ?_ ?_
    | split
    | refine kept_fst ‹_› ?_
    | dsimp only

end Sys2Proof.Machine
end

