-- ==== Sys2Proof/Laws/KeptBudget.lean ====
section
/-! SUPPORT. Laws/KeptBudget.lean: every operation of Machine/Budget.lean keeps the queue and the canonical form. -/

namespace Sys2Proof.Machine

theorem State.budgetRefused_kept {q₀ : List Instr} {s : State} {x1 : Load} (h : s.Kept q₀) : (State.budgetRefused s x1).Kept q₀ := by
  unfold State.budgetRefused
  repeat' first
    | with_reducible assumption
    | with_reducible refine State.bump_kept ?_
    | with_reducible refine State.raiseLimited_kept ?_
    | with_reducible refine kept_ite ?_ ?_
    | split
    | dsimp only

end Sys2Proof.Machine
end

