-- ==== Sys2Proof/Laws/KeptModes.lean ====
section
/-! SUPPORT. Laws/KeptModes.lean: every operation of Machine/Modes.lean keeps the queue and the canonical form. -/

namespace Sys2Proof.Machine

theorem State.driveFault_kept {q₀ : List Instr} {s : State} (h : s.Kept q₀) : (State.driveFault s).Kept q₀ := by
  unfold State.driveFault
  repeat' first
    | with_reducible assumption
    | with_reducible refine State.emit_kept ?_
    | with_reducible refine kept_ite ?_ ?_
    | split
    | dsimp only
    | with_reducible refine kept_package ?_

theorem State.beginChange_kept {q₀ : List Instr} {s : State} {target : ℕ} {leaving : Bool} (h : s.Kept q₀) : (State.beginChange s target leaving).Kept q₀ := by
  unfold State.beginChange
  repeat' first
    | with_reducible assumption
    | with_reducible refine State.wr_kept ?_
    | with_reducible refine kept_ite ?_ ?_
    | split
    | dsimp only
    | with_reducible refine kept_modeChange ?_

theorem State.changeIdle_kept {q₀ : List Instr} {s : State} (h : s.Kept q₀) : (State.changeIdle s).Kept q₀ := by
  unfold State.changeIdle
  repeat' first
    | with_reducible assumption
    | with_reducible refine State.wr_kept ?_
    | with_reducible refine kept_ite ?_ ?_
    | split
    | dsimp only
    | with_reducible refine kept_modeChange ?_

theorem State.abandonChange_kept {q₀ : List Instr} {s : State} {code : ℕ} (h : s.Kept q₀) : (State.abandonChange s code).Kept q₀ := by
  unfold State.abandonChange
  repeat' first
    | with_reducible assumption
    | with_reducible refine State.raise_kept ?_
    | with_reducible refine State.wrPersist_kept ?_
    | with_reducible refine State.changeIdle_kept ?_
    | with_reducible refine kept_ite ?_ ?_
    | split
    | dsimp only
    | with_reducible refine kept_agent ?_

theorem State.commitLength_kept {q₀ : List Instr} {s : State} {l : ℕ} (h : s.Kept q₀) : (State.commitLength s l).Kept q₀ := by
  unfold State.commitLength
  repeat' first
    | with_reducible assumption
    | with_reducible refine State.wr_kept ?_
    | with_reducible refine kept_ite ?_ ?_
    | split
    | dsimp only
    | with_reducible refine kept_clock ?_

theorem State.flip_kept {q₀ : List Instr} {s : State} {target : ℕ} (h : s.Kept q₀) : (State.flip s target).Kept q₀ := by
  unfold State.flip
  extract_lets old moves shares s0 s1 s2 shrinks s2' mc s3 ks s4
  have k0 : s0.Kept q₀ := State.raise_kept (State.wr_kept h)
  have k1 : s1.Kept q₀ := kept_ite (State.raise_kept k0) k0
  have k2 : s2.Kept q₀ := kept_foldl k1 (fun _ _ h => State.wr_kept h)
  have k2' : s2'.Kept q₀ := forEach_kept k2 (fun _ _ h => State.raise_kept h)
  have k3 : s3.Kept q₀ := kept_modeChange k2'
  have k4 : s4.Kept q₀ := kept_ite (kept_foldl (kept_keystone k3) (fun _ _ h => State.pumpJournal_kept h)) k3
  clear_value s4
  clear_value ks s3 mc s2' shrinks s2 s1 s0 moves
  split
  · exact State.driveFault_kept (State.raise_kept (State.changeIdle_kept k4))
  · exact State.driveFault_kept (State.wr_kept k4)



theorem execPcMigrationComplete_kept {q₀ : List Instr} {s : State} (h : s.Kept q₀) : ResKept (execPcMigrationComplete s) q₀ := by
  unfold execPcMigrationComplete
  repeat' first
    | with_reducible assumption
    | with_reducible refine resKept_next ?_
    | with_reducible refine kept_ite ?_ ?_
    | with_reducible refine resKept_ite ?_ ?_
    | split
    | dsimp only
    | with_reducible refine kept_modeChange ?_

theorem State.migrationPass_kept {q₀ : List Instr} {s : State} (h : s.Kept q₀) : (State.migrationPass s).Kept q₀ := by
  unfold State.migrationPass
  repeat' first
    | with_reducible assumption
    | with_reducible refine State.wr_kept ?_
    | with_reducible refine State.raise_kept ?_
    | with_reducible refine State.changeIdle_kept ?_
    | with_reducible refine kept_ite ?_ ?_
    | split
    | dsimp only
    | with_reducible refine kept_modeChange ?_

theorem State.fatal_kept {q₀ : List Instr} {s : State} {code : ℕ} {param : ℕ} (h : s.Kept q₀) : (State.fatal s code param).Kept q₀ := by
  unfold State.fatal
  repeat' first
    | with_reducible assumption
    | with_reducible refine State.wr_kept ?_
    | with_reducible refine State.raise_kept ?_
    | with_reducible refine kept_ite ?_ ?_
    | split
    | dsimp only
    | with_reducible refine kept_activation ?_
    | with_reducible refine kept_keystone ?_
    | with_reducible refine kept_modeChange ?_

theorem State.tileFault_kept {q₀ : List Instr} {s : State} {tile : ℕ} (h : s.Kept q₀) : (State.tileFault s tile).Kept q₀ := by
  unfold State.tileFault
  repeat' first
    | with_reducible assumption
    | with_reducible refine State.fatal_kept ?_
    | with_reducible refine kept_ite ?_ ?_
    | split
    | dsimp only
    | with_reducible refine kept_keystone ?_

theorem State.discardAccepted_kept {q₀ : List Instr} {s : State} (h : s.Kept q₀) : (State.discardAccepted s).Kept q₀ := by
  unfold State.discardAccepted
  repeat' first
    | with_reducible assumption
    | with_reducible refine State.wr_kept ?_
    | with_reducible refine kept_ite ?_ ?_
    | split
    | dsimp only
    | with_reducible refine kept_agent_classify_host ?_ rfl

theorem State.stopServices_kept {q₀ : List Instr} {s : State} (h : s.Kept q₀) : (State.stopServices s).Kept q₀ := by
  unfold State.stopServices
  repeat' first
    | with_reducible assumption
    | with_reducible refine State.raise_kept ?_
    | with_reducible refine forEach_kept ?_ (fun _ _ _ => ?_)
    | with_reducible refine State.poolGive_kept ?_
    | with_reducible refine State.reclaim_kept ?_
    | with_reducible refine State.lookAbort_kept ?_
    | with_reducible refine State.setCtrl_kept ?_
    | with_reducible refine State.silence_kept ?_
    | with_reducible refine kept_foldl ?_ (fun _ _ _ => ?_)
    | with_reducible refine kept_foldl_pair ?_ (fun _ _ _ _ => ?_)
    | with_reducible refine kept_ite ?_ ?_
    | split
    | refine kept_fst ‹_› ?_
    | dsimp only

theorem State.enterSafe_kept {q₀ : List Instr} {s : State} {cause : ℕ} (h : s.Kept q₀) : (State.enterSafe s cause).Kept q₀ := by
  unfold State.enterSafe
  repeat' first
    | with_reducible assumption
    | with_reducible refine State.wr_kept ?_
    | with_reducible refine State.raise_kept ?_
    | with_reducible refine State.driveFault_kept ?_
    | with_reducible refine State.discardAccepted_kept ?_
    | with_reducible refine State.stopServices_kept ?_
    | with_reducible refine kept_ite ?_ ?_
    | split
    | dsimp only
    | with_reducible refine kept_modeChange ?_

theorem State.modeTurn_kept {q₀ : List Instr} {s : State} (h : s.Kept q₀) : (State.modeTurn s).Kept q₀ := by
  unfold State.modeTurn
  repeat' first
    | with_reducible assumption
    | with_reducible refine State.abandonChange_kept ?_
    | with_reducible refine State.commitLength_kept ?_
    | with_reducible refine State.flip_kept ?_
    | with_reducible refine State.enterSafe_kept ?_
    | with_reducible refine kept_ite ?_ ?_
    | split
    | dsimp only
    | with_reducible refine kept_modeChange ?_

theorem State.modeBoundary_kept {q₀ : List Instr} {s : State} (h : s.Kept q₀) : (State.modeBoundary s).Kept q₀ := by
  unfold State.modeBoundary
  repeat' first
    | with_reducible assumption
    | with_reducible refine State.migrationPass_kept ?_
    | with_reducible refine State.modeTurn_kept ?_
    | with_reducible refine kept_ite ?_ ?_
    | split
    | dsimp only

theorem State.startupCheck_kept {q₀ : List Instr} {s : State} (h : s.Kept q₀) : (State.startupCheck s).Kept q₀ := by
  unfold State.startupCheck
  repeat' first
    | with_reducible assumption
    | with_reducible refine State.wr_kept ?_
    | with_reducible refine State.raise_kept ?_
    | with_reducible refine kept_ite ?_ ?_
    | split
    | dsimp only
    | with_reducible refine kept_modeChange ?_

end Sys2Proof.Machine
end

