-- ==== Sys2Proof/Laws/KeptImages.lean ====
section
/-! SUPPORT. Laws/KeptImages.lean: every operation of Machine/Images.lean keeps the queue and the canonical form. -/

namespace Sys2Proof.Machine

theorem State.setSlot_kept {q₀ : List Instr} {s : State} {n : ℕ} {bs : List Byte} (h : s.Kept q₀) : (State.setSlot s n bs).Kept q₀ := by
  unfold State.setSlot
  repeat' first
    | with_reducible assumption
    | with_reducible refine kept_ite ?_ ?_
    | split
    | dsimp only
    | with_reducible refine kept_boot ?_

theorem State.noteSlot_kept {q₀ : List Instr} {s : State} {n : ℕ} {code : ℕ} (h : s.Kept q₀) : (State.noteSlot s n code).Kept q₀ := by
  unfold State.noteSlot
  repeat' first
    | with_reducible assumption
    | with_reducible refine State.wr_kept ?_
    | with_reducible refine kept_ite ?_ ?_
    | split
    | dsimp only

theorem State.noteSequence_kept {q₀ : List Instr} {s : State} {n : ℕ} {code : ℕ} (h : s.Kept q₀) : (State.noteSequence s n code).Kept q₀ := by
  unfold State.noteSequence
  repeat' first
    | with_reducible assumption
    | with_reducible refine State.wr_kept ?_
    | with_reducible refine kept_ite ?_ ?_
    | split
    | dsimp only

theorem State.checkSlot_kept {q₀ : List Instr} {s : State} {n : ℕ} (h : s.Kept q₀) : (State.checkSlot s n).Kept q₀ := by
  unfold State.checkSlot
  repeat' first
    | with_reducible assumption
    | with_reducible refine State.noteSlot_kept ?_
    | with_reducible refine State.noteSequence_kept ?_
    | with_reducible refine kept_ite ?_ ?_
    | split
    | dsimp only

theorem State.renewAlias_kept {q₀ : List Instr} {s : State} (h : s.Kept q₀) : (State.renewAlias s).Kept q₀ := by
  unfold State.renewAlias
  repeat' first
    | with_reducible assumption
    | with_reducible refine State.raise_kept ?_
    | with_reducible refine kept_ite ?_ ?_
    | split
    | dsimp only
    | with_reducible refine kept_boot ?_

theorem State.showVersions_kept {q₀ : List Instr} {s : State} (h : s.Kept q₀) : (State.showVersions s).Kept q₀ := by
  unfold State.showVersions
  repeat' first
    | with_reducible assumption
    | with_reducible refine State.wr_kept ?_
    | with_reducible refine kept_ite ?_ ?_
    | split
    | dsimp only

theorem State.burn_kept {q₀ : List Instr} {s : State} {key : ℕ} {v : ℕ} (h : s.Kept q₀) : (State.burn s key v).Kept q₀ := by
  unfold State.burn
  repeat' first
    | with_reducible assumption
    | with_reducible refine State.raise_kept ?_
    | with_reducible refine forEach_kept ?_ (fun _ _ _ => ?_)
    | with_reducible refine State.wrPersist_kept ?_
    | with_reducible refine State.noteSlot_kept ?_
    | with_reducible refine State.renewAlias_kept ?_
    | with_reducible refine kept_ite ?_ ?_
    | split
    | dsimp only

theorem State.beginActivation_kept {q₀ : List Instr} {s : State} {n : ℕ} (h : s.Kept q₀) : (State.beginActivation s n).Kept q₀ := by
  unfold State.beginActivation
  repeat' first
    | with_reducible assumption
    | with_reducible refine State.wr_kept ?_
    | with_reducible refine State.raise_kept ?_
    | with_reducible refine kept_ite ?_ ?_
    | split
    | dsimp only

theorem State.abortActivation_kept {q₀ : List Instr} {s : State} {code : ℕ} (h : s.Kept q₀) : (State.abortActivation s code).Kept q₀ := by
  unfold State.abortActivation
  repeat' first
    | with_reducible assumption
    | with_reducible refine State.wr_kept ?_
    | with_reducible refine State.raise_kept ?_
    | with_reducible refine kept_ite ?_ ?_
    | split
    | dsimp only
    | with_reducible refine kept_activation ?_

theorem State.sleepTile_kept {q₀ : List Instr} {s : State} {t1 : ℕ} (h : s.Kept q₀) : (State.sleepTile s t1).Kept q₀ := by
  unfold State.sleepTile
  repeat' first
    | with_reducible assumption
    | with_reducible refine State.wr_kept ?_
    | with_reducible refine forEach_kept ?_ (fun _ _ _ => ?_)
    | with_reducible refine State.reclaim_kept ?_
    | with_reducible refine kept_ite ?_ ?_
    | split
    | dsimp only

theorem State.wakeTile_kept {q₀ : List Instr} {s : State} {t1 : ℕ} (h : s.Kept q₀) : (State.wakeTile s t1).Kept q₀ := by
  unfold State.wakeTile
  repeat' first
    | with_reducible assumption
    | with_reducible refine State.wr_kept ?_
    | with_reducible refine kept_ite ?_ ?_
    | split
    | dsimp only

end Sys2Proof.Machine
end

