-- ==== Sys2Proof/Laws/KeptApply.lean ====
section
/-! SUPPORT. Laws/KeptApply.lean: every operation of Machine/Apply.lean keeps the queue and the canonical form. -/

namespace Sys2Proof.Machine

theorem State.endSession_kept {q₀ : List Instr} {s : State} {sid : ℕ} {reason : ℕ} (h : s.Kept q₀) : (State.endSession s sid reason).Kept q₀ := by
  unfold State.endSession
  repeat' first
    | with_reducible assumption
    | with_reducible refine State.disarm_kept ?_
    | with_reducible refine State.raise_kept ?_
    | with_reducible refine State.dropContext_kept ?_
    | with_reducible refine kept_ite ?_ ?_
    | split
    | dsimp only
    | with_reducible refine kept_agent ?_

theorem State.regroup_kept {q₀ : List Instr} {s : State} {t1 : ℕ} {v : ℕ} (h : s.Kept q₀) : (State.regroup s t1 v).Kept q₀ := by
  unfold State.regroup
  repeat' first
    | with_reducible assumption
    | with_reducible refine State.wr_kept ?_
    | with_reducible refine State.raise_kept ?_
    | with_reducible refine forEach_kept ?_ (fun _ _ _ => ?_)
    | with_reducible refine State.stopBringUp_kept ?_
    | with_reducible refine State.bringUp_kept ?_
    | with_reducible refine State.resolveDcbx_kept ?_
    | with_reducible refine State.portDownNoRestart_kept ?_
    | with_reducible refine kept_ite ?_ ?_
    | split
    | dsimp only

theorem State.applyPort_kept {q₀ : List Instr} {s : State} {key : ℕ} {old : ℕ} {v : ℕ} (h : s.Kept q₀) : (State.applyPort s key old v).Kept q₀ := by
  unfold State.applyPort
  repeat' first
    | with_reducible assumption
    | with_reducible refine State.wr_kept ?_
    | with_reducible refine forEach_kept ?_ (fun _ _ _ => ?_)
    | with_reducible refine State.wrPersist_kept ?_
    | with_reducible refine State.setPort_kept ?_
    | with_reducible refine State.bringUp_kept ?_
    | with_reducible refine State.resolveDcbx_kept ?_
    | with_reducible refine State.takeDown_kept ?_
    | with_reducible refine kept_ite ?_ ?_
    | split
    | dsimp only

theorem State.applyTime_kept {q₀ : List Instr} {s : State} {key : ℕ} {old : ℕ} {v : ℕ} (h : s.Kept q₀) : (State.applyTime s key old v).Kept q₀ := by
  unfold State.applyTime
  repeat' first
    | with_reducible assumption
    | with_reducible refine State.reselectSynce_kept ?_
    | with_reducible refine State.ptpRestateAll_kept ?_
    | with_reducible refine State.applyPtpEnable_kept ?_
    | with_reducible refine State.armExpect_kept ?_
    | with_reducible refine State.applyTioMode_kept ?_
    | with_reducible refine State.applyTioOwner_kept ?_
    | with_reducible refine kept_ite ?_ ?_
    | split
    | dsimp only

theorem State.alignedChanged_kept {q₀ : List Instr} {s : State} {q1 : ℕ} {hold : ℕ} {enable : Bool} (h : s.Kept q₀) : (State.alignedChanged s q1 hold enable).Kept q₀ := by
  unfold State.alignedChanged
  repeat' first
    | with_reducible assumption
    | with_reducible refine State.setAligned_kept ?_
    | with_reducible refine kept_ite ?_ ?_
    | split
    | dsimp only

theorem State.applyQueue_kept {q₀ : List Instr} {s : State} {key : ℕ} {old : ℕ} (h : s.Kept q₀) : (State.applyQueue s key old).Kept q₀ := by
  unfold State.applyQueue
  repeat' first
    | with_reducible assumption
    | with_reducible refine State.pfcCheck_kept ?_
    | with_reducible refine State.alignedChanged_kept ?_
    | with_reducible refine kept_ite ?_ ?_
    | split
    | dsimp only

theorem State.applyForward_kept {q₀ : List Instr} {s : State} {key : ℕ} {old : ℕ} {v : ℕ} (h : s.Kept q₀) : (State.applyForward s key old v).Kept q₀ := by
  unfold State.applyForward
  repeat' first
    | with_reducible assumption
    | with_reducible refine kept_ite ?_ ?_
    | split
    | dsimp only
    | with_reducible refine kept_redundancy ?_
    | with_reducible refine kept_wall ?_

theorem State.applySchedule_kept {q₀ : List Instr} {s : State} {key : ℕ} {old : ℕ} {v : ℕ} (h : s.Kept q₀) : (State.applySchedule s key old v).Kept q₀ := by
  unfold State.applySchedule
  repeat' first
    | with_reducible assumption
    | with_reducible refine State.shaperCheck_kept ?_
    | with_reducible refine State.shaperReset_kept ?_
    | with_reducible refine kept_ite ?_ ?_
    | split
    | dsimp only

theorem State.applyNum_kept {q₀ : List Instr} {s : State} {key : ℕ} {v : ℕ} (h : s.Kept q₀) : (State.applyNum s key v).Kept q₀ := by
  unfold State.applyNum
  repeat' first
    | with_reducible assumption
    | with_reducible refine State.wr_kept ?_
    | with_reducible refine State.applyKeyErase_kept ?_
    | with_reducible refine State.burn_kept ?_
    | with_reducible refine State.beginActivation_kept ?_
    | with_reducible refine State.sleepTile_kept ?_
    | with_reducible refine State.wakeTile_kept ?_
    | with_reducible refine State.regroup_kept ?_
    | with_reducible refine State.applyPort_kept ?_
    | with_reducible refine State.applyTime_kept ?_
    | with_reducible refine State.applyQueue_kept ?_
    | with_reducible refine State.applyForward_kept ?_
    | with_reducible refine State.applySchedule_kept ?_
    | with_reducible refine kept_ite ?_ ?_
    | split
    | dsimp only

theorem State.applyGenSet_kept {q₀ : List Instr} {s : State} {n : ℕ} {bs : List Byte} (h : s.Kept q₀) : (State.applyGenSet s n bs).Kept q₀ := by
  unfold State.applyGenSet
  repeat' first
    | with_reducible assumption
    | with_reducible refine State.applyGen_kept ?_
    | with_reducible refine kept_ite ?_ ?_
    | split
    | dsimp only

theorem State.applyTernary_kept {q₀ : List Instr} {s : State} {t1 : ℕ} {signed : Bool} {bs : List Byte} (h : s.Kept q₀) : (State.applyTernary s t1 signed bs).Kept q₀ := by
  unfold State.applyTernary
  repeat' first
    | with_reducible assumption
    | with_reducible refine State.setTernary_kept ?_
    | with_reducible refine State.flipTernary_kept ?_
    | with_reducible refine kept_ite ?_ ?_
    | split
    | dsimp only

theorem State.applyExact_kept {q₀ : List Instr} {s : State} {x1 : ℕ} {bs : List Byte} (h : s.Kept q₀) : (State.applyExact s x1 bs).Kept q₀ := by
  unfold State.applyExact
  repeat' first
    | with_reducible assumption
    | with_reducible refine State.setExact_kept ?_
    | with_reducible refine State.flipExact_kept ?_
    | with_reducible refine kept_ite ?_ ?_
    | split
    | dsimp only

theorem State.applyPolicers_kept {q₀ : List Instr} {s : State} {t1 : ℕ} {bs : List Byte} (h : s.Kept q₀) : (State.applyPolicers s t1 bs).Kept q₀ := by
  unfold State.applyPolicers
  repeat' first
    | with_reducible assumption
    | with_reducible refine State.setPolicer_kept ?_
    | with_reducible refine kept_foldl ?_ (fun _ _ _ => ?_)
    | with_reducible refine kept_foldl_pair ?_ (fun _ _ _ _ => ?_)
    | with_reducible refine kept_ite ?_ ?_
    | split
    | refine kept_fst ‹_› ?_
    | dsimp only

theorem State.applySas_kept {q₀ : List Instr} {s : State} {p : ℕ} {bs : List Byte} (h : s.Kept q₀) : (State.applySas s p bs).Kept q₀ := by
  unfold State.applySas
  repeat' first
    | with_reducible assumption
    | with_reducible refine State.setSa_kept ?_
    | with_reducible refine kept_foldl ?_ (fun _ _ _ => ?_)
    | with_reducible refine kept_foldl_pair ?_ (fun _ _ _ _ => ?_)
    | with_reducible refine kept_ite ?_ ?_
    | split
    | refine kept_fst ‹_› ?_
    | dsimp only

theorem State.applyEspTable_kept {q₀ : List Instr} {s : State} {bs : List Byte} (h : s.Kept q₀) : (State.applyEspTable s bs).Kept q₀ := by
  unfold State.applyEspTable
  repeat' first
    | with_reducible assumption
    | with_reducible refine State.setEsp_kept ?_
    | with_reducible refine kept_foldl ?_ (fun _ _ _ => ?_)
    | with_reducible refine kept_foldl_pair ?_ (fun _ _ _ _ => ?_)
    | with_reducible refine kept_ite ?_ ?_
    | split
    | refine kept_fst ‹_› ?_
    | dsimp only
    | with_reducible refine kept_cipher ?_

theorem State.applyAuthTable_kept {q₀ : List Instr} {s : State} {bs : List Byte} (h : s.Kept q₀) : (State.applyAuthTable s bs).Kept q₀ := by
  unfold State.applyAuthTable
  repeat' first
    | with_reducible assumption
    | with_reducible refine kept_foldl ?_ (fun _ _ _ => ?_)
    | with_reducible refine kept_foldl_pair ?_ (fun _ _ _ _ => ?_)
    | with_reducible refine kept_ite ?_ ?_
    | split
    | refine kept_fst ‹_› ?_
    | dsimp only
    | with_reducible refine kept_cipher ?_

theorem State.applyOwnerKey_kept {q₀ : List Instr} {s : State} {i : ℕ} {bs : List Byte} (h : s.Kept q₀) : (State.applyOwnerKey s i bs).Kept q₀ := by
  unfold State.applyOwnerKey
  repeat' first
    | with_reducible assumption
    | with_reducible refine State.setDom_kept ?_
    | with_reducible refine State.raise_kept ?_
    | with_reducible refine State.endSession_kept ?_
    | with_reducible refine kept_foldl ?_ (fun _ _ _ => ?_)
    | with_reducible refine kept_foldl_pair ?_ (fun _ _ _ _ => ?_)
    | with_reducible refine kept_ite ?_ ?_
    | split
    | refine kept_fst ‹_› ?_
    | dsimp only

theorem State.applyRaw_kept {q₀ : List Instr} {s : State} {signed : Bool} {key : ℕ} {bs : List Byte} (h : s.Kept q₀) : (State.applyRaw s signed key bs).Kept q₀ := by
  unfold State.applyRaw
  repeat' first
    | with_reducible assumption
    | with_reducible refine State.setDom_kept ?_
    | with_reducible refine State.bumpSlice_kept ?_
    | with_reducible refine State.fdbApply_kept ?_
    | with_reducible refine State.applyPrograms_kept ?_
    | with_reducible refine State.applyPatch_kept ?_
    | with_reducible refine State.applySliceSet_kept ?_
    | with_reducible refine State.applyKeyLoad_kept ?_
    | with_reducible refine State.applyKeySlotOwner_kept ?_
    | with_reducible refine State.applyNamespace_kept ?_
    | with_reducible refine State.applyGateList_kept ?_
    | with_reducible refine State.applyRdma_kept ?_
    | with_reducible refine State.renewAlias_kept ?_
    | with_reducible refine State.applyGenSet_kept ?_
    | with_reducible refine State.applyTernary_kept ?_
    | with_reducible refine State.applyExact_kept ?_
    | with_reducible refine State.applyPolicers_kept ?_
    | with_reducible refine State.applySas_kept ?_
    | with_reducible refine State.applyEspTable_kept ?_
    | with_reducible refine State.applyAuthTable_kept ?_
    | with_reducible refine State.applyOwnerKey_kept ?_
    | with_reducible refine kept_ite ?_ ?_
    | split
    | dsimp only

theorem State.applyItem_kept {q₀ : List Instr} {s : State} {signed : Bool} {fuel : Item} (h : s.Kept q₀) : (State.applyItem s signed fuel).Kept q₀ := by
  unfold State.applyItem
  repeat' first
    | with_reducible assumption
    | with_reducible refine State.applyNum_kept ?_
    | with_reducible refine State.applyRaw_kept ?_
    | with_reducible refine kept_ite ?_ ?_
    | split
    | dsimp only

theorem State.applySet_kept {q₀ : List Instr} {s : State} {signed : Bool} {items : List Item} (h : s.Kept q₀) : (State.applySet s signed items).Kept q₀ := by
  unfold State.applySet
  repeat' first
    | with_reducible assumption
    | with_reducible refine State.applyItem_kept ?_
    | with_reducible refine kept_foldl ?_ (fun _ _ _ => ?_)
    | with_reducible refine kept_foldl_pair ?_ (fun _ _ _ _ => ?_)
    | with_reducible refine kept_ite ?_ ?_
    | split
    | refine kept_fst ‹_› ?_
    | dsimp only

theorem State.settledBy_kept {q₀ : List Instr} {s : State} {n : ℕ} (h : s.Kept q₀) : (State.settledBy s n).Kept q₀ := by
  unfold State.settledBy
  repeat' first
    | with_reducible assumption
    | with_reducible refine State.applySet_kept ?_
    | with_reducible refine kept_foldl ?_ (fun _ _ _ => ?_)
    | with_reducible refine kept_foldl_pair ?_ (fun _ _ _ _ => ?_)
    | with_reducible refine kept_ite ?_ ?_
    | split
    | refine kept_fst ‹_› ?_
    | dsimp only
    | with_reducible refine kept_agent ?_

end Sys2Proof.Machine
end

