-- ==== Sys2Proof/Laws/KeptAgent.lean ====
section
/-! SUPPORT. Laws/KeptAgent.lean: every operation of Machine/Agent.lean keeps the queue and the canonical form. -/

namespace Sys2Proof.Machine

theorem State.queryRead_kept {q₀ : List Instr} {s : State} {ctx : ℕ} {key : ℕ} (h : s.Kept q₀) : (State.queryRead s ctx key).1.Kept q₀ := by
  unfold State.queryRead
  repeat' first
    | with_reducible assumption
    | with_reducible refine State.fdbSweepRead_kept ?_
    | with_reducible refine State.exactSweepRead_kept ?_
    | with_reducible refine kept_ite ?_ ?_
    | with_reducible refine kept_ite_fst ?_ ?_
    | split
    | refine kept_fst ‹_› ?_
    | dsimp only

theorem State.valueBytes_kept {q₀ : List Instr} {s : State} {ctx : ℕ} {key : ℕ} {r : OdRow} (h : s.Kept q₀) : (State.valueBytes s ctx key r).1.Kept q₀ := by
  unfold State.valueBytes
  repeat' first
    | with_reducible assumption
    | with_reducible refine State.queryRead_kept ?_
    | with_reducible refine kept_ite ?_ ?_
    | with_reducible refine kept_ite_fst ?_ ?_
    | split
    | refine kept_fst ‹_› ?_
    | dsimp only

theorem State.agentRead_kept {q₀ : List Instr} {s : State} {ctx : ℕ} {key : ℕ} (h : s.Kept q₀) : (State.agentRead s ctx key).1.Kept q₀ := by
  unfold State.agentRead
  repeat' first
    | with_reducible assumption
    | with_reducible refine State.valueBytes_kept ?_
    | with_reducible refine kept_ite ?_ ?_
    | with_reducible refine kept_ite_fst ?_ ?_
    | split
    | refine kept_fst ‹_› ?_
    | dsimp only

theorem State.persist_kept {q₀ : List Instr} {s : State} {i : Item} (h : s.Kept q₀) : (State.persist s i).Kept q₀ := by
  unfold State.persist
  repeat' first
    | with_reducible assumption
    | with_reducible refine kept_ite ?_ ?_
    | split
    | dsimp only
    | with_reducible refine kept_storeSet ?_
    | with_reducible refine kept_storeDomSet ?_

theorem State.persistGen_kept {q₀ : List Instr} {s : State} {n : ℕ} {bs : List Byte} (h : s.Kept q₀) : (State.persistGen s n bs).Kept q₀ := by
  unfold State.persistGen
  repeat' first
    | with_reducible assumption
    | with_reducible refine State.persist_kept ?_
    | with_reducible refine kept_ite ?_ ?_
    | split
    | dsimp only

theorem State.acceptCrs_kept {q₀ : List Instr} {s : State} {ctx : ℕ} {i : Item} (h : s.Kept q₀) : (State.acceptCrs s ctx i).1.Kept q₀ := by
  unfold State.acceptCrs
  repeat' first
    | with_reducible assumption
    | with_reducible refine State.regionsAccepted_kept ?_
    | with_reducible refine State.persist_kept ?_
    | with_reducible refine State.persistGen_kept ?_
    | with_reducible refine kept_ite ?_ ?_
    | with_reducible refine kept_ite_fst ?_ ?_
    | split
    | dsimp only
    | with_reducible refine kept_agent ?_

theorem State.setStaged_kept {q₀ : List Instr} {s : State} {ctx : ℕ} {l : List Item} (h : s.Kept q₀) : (State.setStaged s ctx l).Kept q₀ := by
  unfold State.setStaged
  repeat' first
    | with_reducible assumption
    | with_reducible refine kept_ite ?_ ?_
    | split
    | dsimp only
    | with_reducible refine kept_agent ?_

theorem State.withItem_kept {q₀ : List Instr} {s : State} {w : Writer} {i : Item} (h : s.Kept q₀) : (State.withItem s w i).Kept q₀ := by
  unfold State.withItem
  repeat' first
    | with_reducible assumption
    | with_reducible refine State.applyItem_kept ?_
    | with_reducible refine State.settledBy_kept ?_
    | with_reducible refine kept_ite ?_ ?_
    | split
    | dsimp only

theorem State.refuseAt_kept {q₀ : List Instr} {s : State} {code : ℕ} {x1 : Option Load} (h : s.Kept q₀) : (State.refuseAt s code x1).Kept q₀ := by
  unfold State.refuseAt
  repeat' first
    | with_reducible assumption
    | with_reducible refine State.bump_kept ?_
    | with_reducible refine State.budgetRefused_kept ?_
    | with_reducible refine kept_ite ?_ ?_
    | split
    | dsimp only

theorem State.refuse_kept {q₀ : List Instr} {s : State} {code : ℕ} {after : State} (h : s.Kept q₀) : (State.refuse s code after).Kept q₀ := by
  unfold State.refuse
  repeat' first
    | with_reducible assumption
    | with_reducible refine State.refuseAt_kept ?_
    | with_reducible refine kept_ite ?_ ?_
    | split
    | dsimp only

theorem State.writeMode_kept {q₀ : List Instr} {s : State} {ctx : ℕ} {v : ℕ} {stopped : Bool} (h : s.Kept q₀) : (State.writeMode s ctx v stopped).2.1.Kept q₀ := by
  unfold State.writeMode
  repeat' first
    | with_reducible assumption
    | with_reducible refine State.beginChange_kept ?_
    | with_reducible refine State.acceptCrs_kept ?_
    | with_reducible refine kept_ite ?_ ?_
    | with_reducible refine kept_ite_fst ?_ ?_
    | split
    | refine kept_fst ‹_› ?_
    | dsimp only

theorem State.writeSafeMode_kept {q₀ : List Instr} {s : State} {ctx : ℕ} {v : ℕ} {stopped : Bool} (h : s.Kept q₀) : (State.writeSafeMode s ctx v stopped).2.1.Kept q₀ := by
  unfold State.writeSafeMode
  repeat' first
    | with_reducible assumption
    | with_reducible refine State.beginChange_kept ?_
    | with_reducible refine State.acceptCrs_kept ?_
    | with_reducible refine kept_ite ?_ ?_
    | with_reducible refine kept_ite_fst ?_ ?_
    | split
    | refine kept_fst ‹_› ?_
    | dsimp only

theorem State.dropGen_kept {q₀ : List Instr} {s : State} {ctx : ℕ} {n : ℕ} (h : s.Kept q₀) : (State.dropGen s ctx n).Kept q₀ := by
  unfold State.dropGen
  repeat' first
    | with_reducible assumption
    | with_reducible refine State.setStaged_kept ?_
    | with_reducible refine kept_ite ?_ ?_
    | split
    | dsimp only

theorem State.writeLength_kept {q₀ : List Instr} {s : State} {l : ℕ} (h : s.Kept q₀) : (State.writeLength s l).2.1.Kept q₀ := by
  unfold State.writeLength
  repeat' first
    | with_reducible assumption
    | with_reducible refine State.commitLength_kept ?_
    | with_reducible refine State.persist_kept ?_
    | with_reducible refine kept_ite ?_ ?_
    | split
    | dsimp only

theorem State.downloadStarts_kept {q₀ : List Instr} {s : State} {n : ℕ} (h : s.Kept q₀) : (State.downloadStarts s n).Kept q₀ := by
  unfold State.downloadStarts
  repeat' first
    | with_reducible assumption
    | with_reducible refine State.wr_kept ?_
    | with_reducible refine State.setSlot_kept ?_
    | with_reducible refine State.noteSlot_kept ?_
    | with_reducible refine kept_ite ?_ ?_
    | split
    | dsimp only

theorem State.imageCommitted_kept {q₀ : List Instr} {s : State} {n : ℕ} (h : s.Kept q₀) : (State.imageCommitted s n).1.Kept q₀ := by
  unfold State.imageCommitted
  repeat' first
    | with_reducible assumption
    | with_reducible refine State.checkSlot_kept ?_
    | with_reducible refine kept_ite ?_ ?_
    | with_reducible refine kept_ite_fst ?_ ?_
    | split
    | dsimp only

theorem State.eraseSlot_kept {q₀ : List Instr} {s : State} {n : ℕ} (h : s.Kept q₀) : (State.eraseSlot s n).Kept q₀ := by
  unfold State.eraseSlot
  repeat' first
    | with_reducible assumption
    | with_reducible refine State.wr_kept ?_
    | with_reducible refine State.setSlot_kept ?_
    | with_reducible refine State.noteSlot_kept ?_
    | with_reducible refine kept_ite ?_ ?_
    | split
    | dsimp only

theorem State.applyNow_kept {q₀ : List Instr} {s : State} {ctx : ℕ} {w : Writer} {i : Item} (h : s.Kept q₀) : (State.applyNow s ctx w i).1.Kept q₀ := by
  unfold State.applyNow
  repeat' first
    | with_reducible assumption
    | with_reducible refine State.memoryWrite_kept ?_
    | with_reducible refine State.applySliceState_kept ?_
    | with_reducible refine State.setSlot_kept ?_
    | with_reducible refine State.applyItem_kept ?_
    | with_reducible refine State.persist_kept ?_
    | with_reducible refine State.downloadStarts_kept ?_
    | with_reducible refine State.imageCommitted_kept ?_
    | with_reducible refine State.eraseSlot_kept ?_
    | with_reducible refine kept_ite ?_ ?_
    | with_reducible refine kept_ite_fst ?_ ?_
    | split
    | refine kept_fst ‹_› ?_
    | dsimp only
    | with_reducible refine kept_agent ?_

theorem State.writeItem_kept {q₀ : List Instr} {s : State} {ctx : ℕ} {w : Writer} {r : OdRow} {stopped : Bool} {front : List ℕ} {i : Item}
    (h : s.Kept q₀) : (State.writeItem s ctx w r stopped front i).state.Kept q₀ := by
  unfold State.writeItem
  extract_lets key ahead base c special gen item after more c1 s0 c0 now lists used codes c2
  have ks0 : s0.Kept q₀ := kept_ite (State.dropGen_kept h) h
  have kspecial : ∀ v c t n, special = some (v, c, t, n) → t.Kept q₀ := by
    intro v c t n e
    dsimp only [special] at e
    split at e
    · split at e
      · cases e
      · split at e
        · simp only [Option.some.injEq] at e
          exact kept_mid (Prod.mk.inj e).2 (State.writeMode_kept h)
        · split at e
          · simp only [Option.some.injEq] at e
            exact kept_mid (Prod.mk.inj e).2 (State.writeSafeMode_kept h)
          · cases e
    · cases e
  clear_value special after s0
  split
  · exact State.refuse_kept h
  · split
    next s1 c1 e =>
    have k := kept_fst e (State.applyNow_kept h)
    exact kept_iteW k (kept_iteW (State.refuse_kept h) (State.bump_kept k))
  · exact kept_iteW (State.refuse_kept h) (State.persist_kept h)
  · split
    · next c t n => exact kept_iteW (State.refuseAt_kept h) (kspecial _ c t n rfl)
    · refine kept_iteW (State.refuse_kept h) ?_
      split
      next s1 n e => exact kept_fst e (State.acceptCrs_kept ks0)
  · clear_value lists used codes c2 c1 c now more
    with_reducible refine kept_iteW (kept_iteW ?_ ?_) (kept_iteW ?_ ?_)
    · exact State.refuse_kept h
    · split
      next c1 s1 n e =>
      have k := kept_mid e (State.writeLength_kept h)
      exact kept_iteW (State.refuseAt_kept h) k
    · with_reducible exact State.refuse_kept h
    · with_reducible exact State.setStaged_kept h


theorem State.agentWrite_kept {q₀ : List Instr} {s : State} {ctx : ℕ} {w : Writer} {stopped : Bool} {key : ℕ} {v : WireValue} (h : s.Kept q₀) : (State.agentWrite s ctx w stopped key v).state.Kept q₀ := by
  unfold State.agentWrite
  repeat' first
    | with_reducible assumption
    | with_reducible refine State.refuse_kept ?_
    | with_reducible refine State.writeItem_kept ?_
    | with_reducible refine kept_ite ?_ ?_
    | split
    | with_reducible refine kept_iteW ?_ ?_
    | dsimp only

theorem State.stageTables_kept {q₀ : List Instr} {s : State} {signed : Bool} {items : List Item} (h : s.Kept q₀) : (State.stageTables s signed items).Kept q₀ := by
  unfold State.stageTables
  repeat' first
    | with_reducible assumption
    | with_reducible refine State.setTernary_kept ?_
    | with_reducible refine State.setExact_kept ?_
    | with_reducible refine kept_foldl ?_ (fun _ _ _ => ?_)
    | with_reducible refine kept_foldl_pair ?_ (fun _ _ _ _ => ?_)
    | with_reducible refine kept_ite ?_ ?_
    | split
    | refine kept_fst ‹_› ?_
    | dsimp only

theorem State.noteSet_kept {q₀ : List Instr} {s : State} {items : List Item} (h : s.Kept q₀) : (State.noteSet s items).Kept q₀ := by
  unfold State.noteSet
  repeat' first
    | with_reducible assumption
    | with_reducible refine kept_ite ?_ ?_
    | split
    | dsimp only
    | with_reducible refine kept_storeSets ?_

theorem State.acceptSet_kept {q₀ : List Instr} {s : State} {ctx : ℕ} {items : List Item} {course : ℕ} {target : ℕ} (h : s.Kept q₀) : (State.acceptSet s ctx items course target).Kept q₀ := by
  unfold State.acceptSet
  repeat' first
    | with_reducible assumption
    | with_reducible refine State.wr_kept ?_
    | with_reducible refine State.persist_kept ?_
    | with_reducible refine State.stageTables_kept ?_
    | with_reducible refine State.noteSet_kept ?_
    | with_reducible refine kept_foldl ?_ (fun _ _ _ => ?_)
    | with_reducible refine kept_foldl_pair ?_ (fun _ _ _ _ => ?_)
    | with_reducible refine kept_ite ?_ ?_
    | split
    | refine kept_fst ‹_› ?_
    | dsimp only
    | with_reducible refine kept_agent ?_

theorem State.commitSet_kept {q₀ : List Instr} {s : State} {ctx : ℕ} {w : Writer} {items : List Item} {target : ℕ} (h : s.Kept q₀) : (State.commitSet s ctx w items target).state.Kept q₀ := by
  unfold State.commitSet
  repeat' first
    | with_reducible assumption
    | with_reducible refine State.raise_kept ?_
    | with_reducible refine State.applySet_kept ?_
    | with_reducible refine State.settledBy_kept ?_
    | with_reducible refine State.refuse_kept ?_
    | with_reducible refine State.acceptSet_kept ?_
    | with_reducible refine kept_ite ?_ ?_
    | split
    | with_reducible refine kept_iteC ?_ ?_
    | dsimp only

theorem State.agentCommit_kept {q₀ : List Instr} {s : State} {ctx : ℕ} {w : Writer} {target : ℕ} (h : s.Kept q₀) : (State.agentCommit s ctx w target).state.Kept q₀ := by
  unfold State.agentCommit
  repeat' first
    | with_reducible assumption
    | with_reducible refine State.setStaged_kept ?_
    | with_reducible refine State.commitSet_kept ?_
    | with_reducible refine kept_ite ?_ ?_
    | split
    | with_reducible refine kept_iteC ?_ ?_
    | dsimp only

theorem State.askedCommit_kept {q₀ : List Instr} {s : State} {ctx : ℕ} {w : Writer} {target : ℕ} (h : s.Kept q₀) : (State.askedCommit s ctx w target).state.Kept q₀ := by
  unfold State.askedCommit
  repeat' first
    | with_reducible assumption
    | with_reducible refine State.setStaged_kept ?_
    | with_reducible refine State.refuse_kept ?_
    | with_reducible refine State.agentCommit_kept ?_
    | with_reducible refine kept_ite ?_ ?_
    | split
    | with_reducible refine kept_iteC ?_ ?_
    | dsimp only

end Sys2Proof.Machine
end

