-- ==== Sys2Proof/Laws/KeptSigned.lean ====
section
/-! SUPPORT. Laws/KeptSigned.lean: every operation of Machine/Signed.lean keeps the queue and the canonical form. -/

namespace Sys2Proof.Machine

theorem State.signedNext_kept {q₀ : List Instr} {h1 : State} {r : OdRow} {i : Item} (h : h1.Kept q₀) : (State.signedNext h1 r i).Kept q₀ := by
  unfold State.signedNext
  repeat' first
    | with_reducible assumption
    | with_reducible refine State.beginChange_kept ?_
    | with_reducible refine State.commitLength_kept ?_
    | with_reducible refine State.applyItem_kept ?_
    | with_reducible refine State.setStaged_kept ?_
    | with_reducible refine kept_ite ?_ ?_
    | split
    | dsimp only

theorem State.signedFails_kept {q₀ : List Instr} {s : State} {code : ℕ} {pos : ℕ} {x1 : Option Load} {rejected : Bool} (h : s.Kept q₀) : (State.signedFails s code pos x1 rejected).state.Kept q₀ := by
  unfold State.signedFails
  repeat' first
    | with_reducible assumption
    | with_reducible refine State.wr_kept ?_
    | with_reducible refine State.bump_kept ?_
    | with_reducible refine State.raiseLimited_kept ?_
    | with_reducible refine State.refuseAt_kept ?_
    | with_reducible refine kept_ite ?_ ?_
    | split
    | with_reducible refine kept_iteW ?_ ?_
    | dsimp only

theorem signedAccept_kept {q₀ : List Instr} {stopped : Bool} {s : State} {fuel : List (OdRow × Item)} (h : s.Kept q₀) : (signedAccept stopped s fuel).1.Kept q₀ := by
  induction fuel generalizing stopped s with
  | nil =>
    unfold signedAccept
    repeat' first
      | with_reducible assumption
      | with_reducible refine State.commitLength_kept ?_
      | with_reducible refine State.persist_kept ?_
      | with_reducible refine State.setStaged_kept ?_
      | with_reducible refine State.writeMode_kept ?_
      | with_reducible refine State.writeSafeMode_kept ?_
      | with_reducible refine State.dropGen_kept ?_
      | with_reducible refine kept_ite ?_ ?_
      | with_reducible refine kept_ite_fst ?_ ?_
      | split
      | refine kept_fst ‹_› ?_
      | refine kept_mid ‹_› ?_
      | dsimp only
  | cons a l ih =>
    unfold signedAccept
    repeat' first
      | with_reducible assumption
      | with_reducible refine ih ?_
      | with_reducible refine State.commitLength_kept ?_
      | with_reducible refine State.persist_kept ?_
      | with_reducible refine State.setStaged_kept ?_
      | with_reducible refine State.writeMode_kept ?_
      | with_reducible refine State.writeSafeMode_kept ?_
      | with_reducible refine State.dropGen_kept ?_
      | with_reducible refine kept_ite ?_ ?_
      | with_reducible refine kept_ite_fst ?_ ?_
      | split
      | refine kept_fst ‹_› ?_
      | refine kept_mid ‹_› ?_
      | dsimp only

theorem State.signedBody_kept {q₀ : List Instr} {s : State} {stopped : Bool} {counter : ℕ} {es : List SignedEntry} (h : s.Kept q₀) : (State.signedBody s stopped counter es).state.Kept q₀ := by
  unfold State.signedBody
  repeat' first
    | with_reducible assumption
    | with_reducible refine State.wr_kept ?_
    | with_reducible refine State.wrPersist_kept ?_
    | with_reducible refine State.settledBy_kept ?_
    | with_reducible refine State.acceptSet_kept ?_
    | with_reducible refine State.signedFails_kept ?_
    | with_reducible refine signedAccept_kept ?_
    | with_reducible refine kept_ite ?_ ?_
    | with_reducible refine kept_ite_fst ?_ ?_
    | split
    | refine kept_fst ‹_› ?_
    | with_reducible refine kept_iteW ?_ ?_
    | dsimp only
    | with_reducible refine kept_keystone ?_

theorem State.signedWrite_kept {q₀ : List Instr} {s : State} {w : Writer} {stopped : Bool} {typed : Bool} {bs : List Byte} (h : s.Kept q₀) : (State.signedWrite s w stopped typed bs).state.Kept q₀ := by
  unfold State.signedWrite
  repeat' first
    | with_reducible assumption
    | with_reducible refine State.refuse_kept ?_
    | with_reducible refine State.signedFails_kept ?_
    | with_reducible refine State.signedBody_kept ?_
    | with_reducible refine kept_ite ?_ ?_
    | split
    | with_reducible refine kept_iteW ?_ ?_
    | dsimp only

theorem State.signedAlone_kept {q₀ : List Instr} {s : State} {stopped : Bool} {counter : ℕ} {authentic : Bool} {es : List SignedEntry} (h : s.Kept q₀) : (State.signedAlone s stopped counter authentic es).state.Kept q₀ := by
  unfold State.signedAlone
  repeat' first
    | with_reducible assumption
    | with_reducible refine State.signedFails_kept ?_
    | with_reducible refine State.signedBody_kept ?_
    | with_reducible refine kept_ite ?_ ?_
    | split
    | with_reducible refine kept_iteW ?_ ?_
    | dsimp only

theorem State.applySigned_kept {q₀ : List Instr} {s : State} {items : List Item} (h : s.Kept q₀) : (State.applySigned s items).Kept q₀ := by
  unfold State.applySigned
  repeat' first
    | with_reducible assumption
    | with_reducible refine State.applyItem_kept ?_
    | with_reducible refine State.applyNow_kept ?_
    | with_reducible refine kept_foldl ?_ (fun _ _ _ => ?_)
    | with_reducible refine kept_foldl_pair ?_ (fun _ _ _ _ => ?_)
    | with_reducible refine kept_ite ?_ ?_
    | with_reducible refine kept_ite_fst ?_ ?_
    | split
    | refine kept_fst ‹_› ?_
    | dsimp only

end Sys2Proof.Machine
end

