-- ==== Sys2Proof/Laws/KeptBoot.lean ====
section
/-! SUPPORT. Laws/KeptBoot.lean: every operation of Machine/Boot.lean keeps the queue and the canonical form. -/

namespace Sys2Proof.Machine

theorem State.keptTables_kept {q₀ : List Instr} {s : State} {t1 : State} (h : s.Kept q₀) : (State.keptTables s t1).Kept q₀ := by
  unfold State.keptTables
  repeat' first
    | with_reducible assumption
    | with_reducible refine kept_ite ?_ ?_
    | split
    | dsimp only
    | with_reducible refine kept_switch_fwd_classify_trowel_cipher_slices_storage_rdma ?_

theorem State.powerOff_kept {q₀ : List Instr} {s : State} {cause : ℕ} (h : s.Kept q₀) : (State.powerOff s cause).Kept q₀ := by
  unfold State.powerOff
  extract_lets t s1 log service s2 s3 s4 s5
  have kt : t.Kept q₀ := State.settledBy_kept h
  have k2 : s2.Kept q₀ := ⟨h.1, tblFilter_wf odDefault t.dict _ kt.2.1, tblFilter_wf (fun _ => []) t.doms _ kt.2.2.1,
    h.2.2.2.1, h.2.2.2.2.1, rfl, h.2.2.2.2.2.2.1, h.2.2.2.2.2.2.2⟩
  have k3 : s3.Kept q₀ := State.emit_kept (State.emit_kept (State.emit_kept (State.wr_kept k2)))
  have k4 : s4.Kept q₀ := kept_ite (State.emit_kept k3) k3
  have k5 : s5.Kept q₀ := kept_ite (State.emit_kept k4) k4
  exact kept_foldl k5 (fun _ _ h => State.emit_kept h)


theorem State.configErased_kept {q₀ : List Instr} {s : State} (h : s.Kept q₀) : (State.configErased s).Kept q₀ := by
  unfold State.configErased
  repeat' first
    | with_reducible assumption
    | with_reducible refine State.keptTables_kept ?_
    | with_reducible refine kept_ite ?_ ?_
    | split
    | dsimp only
    | with_reducible refine kept_storeFilter ?_

theorem State.loadConfig_kept {q₀ : List Instr} {s : State} {lost : List ℕ} {image : List Byte} (h : s.Kept q₀) : (State.loadConfig s lost image).Kept q₀ := by
  unfold State.loadConfig
  repeat' first
    | with_reducible assumption
    | with_reducible refine State.wr_kept ?_
    | with_reducible refine State.setDom_kept ?_
    | with_reducible refine State.raise_kept ?_
    | with_reducible refine kept_foldl ?_ (fun _ _ _ => ?_)
    | with_reducible refine kept_foldl_pair ?_ (fun _ _ _ _ => ?_)
    | with_reducible refine kept_ite ?_ ?_
    | split
    | refine kept_fst ‹_› ?_
    | dsimp only
    | with_reducible refine kept_storeFilter ?_

theorem State.bootPatch_kept {q₀ : List Instr} {s : State} (h : s.Kept q₀) : (State.bootPatch s).Kept q₀ := by
  unfold State.bootPatch
  extract_lets bs kept base patch level programs micro trowel s1 s2
  have k2 : s2.Kept q₀ := State.wr_kept (kept_trowel h)
  clear_value s2
  exact kept_ite k2 (kept_storeDomDel (State.setDom_kept k2))


theorem State.startPorts_kept {q₀ : List Instr} {s : State} (h : s.Kept q₀) : (State.startPorts s).Kept q₀ := by
  unfold State.startPorts
  repeat' first
    | with_reducible assumption
    | with_reducible refine State.raise_kept ?_
    | with_reducible refine forEach_kept ?_ (fun _ _ _ => ?_)
    | with_reducible refine State.setPort_kept ?_
    | with_reducible refine State.bringUp_kept ?_
    | with_reducible refine State.resolveDcbx_kept ?_
    | with_reducible refine kept_ite ?_ ?_
    | split
    | dsimp only
    | with_reducible refine kept_switch ?_

theorem State.startFdb_kept {q₀ : List Instr} {s : State} (h : s.Kept q₀) : (State.startFdb s).Kept q₀ := by
  unfold State.startFdb
  repeat' first
    | with_reducible assumption
    | with_reducible refine State.wr_kept ?_
    | with_reducible refine State.setFdb_kept ?_
    | with_reducible refine kept_ite ?_ ?_
    | split
    | dsimp only

theorem State.startEntries_kept {q₀ : List Instr} {s : State} (h : s.Kept q₀) : (State.startEntries s).Kept q₀ := by
  unfold State.startEntries
  repeat' first
    | with_reducible assumption
    | with_reducible refine forEach_kept ?_ (fun _ _ _ => ?_)
    | with_reducible refine State.applyPtpEnable_kept ?_
    | with_reducible refine State.applyGateList_kept ?_
    | with_reducible refine State.startFdb_kept ?_
    | with_reducible refine kept_foldl ?_ (fun _ _ _ => ?_)
    | with_reducible refine kept_foldl_pair ?_ (fun _ _ _ _ => ?_)
    | with_reducible refine kept_ite ?_ ?_
    | split
    | refine kept_fst ‹_› ?_
    | dsimp only
    | with_reducible refine kept_timers ?_
    | with_reducible refine kept_switch ?_

theorem State.startStorage_kept {q₀ : List Instr} {s : State} {bad : List ℕ} (h : s.Kept q₀) : (State.startStorage s bad).Kept q₀ := by
  unfold State.startStorage
  repeat' first
    | with_reducible assumption
    | with_reducible refine State.wr_kept ?_
    | with_reducible refine State.openBits_kept ?_
    | with_reducible refine State.raise_kept ?_
    | with_reducible refine State.poolTake_kept ?_
    | with_reducible refine kept_foldl ?_ (fun _ _ _ => ?_)
    | with_reducible refine kept_foldl_pair ?_ (fun _ _ _ _ => ?_)
    | with_reducible refine kept_ite ?_ ?_
    | with_reducible refine kept_ite_fst ?_ ?_
    | split
    | refine kept_fst ‹_› ?_
    | dsimp only
    | with_reducible refine kept_storage ?_

theorem State.startRdma_kept {q₀ : List Instr} {s : State} (h : s.Kept q₀) : (State.startRdma s).Kept q₀ := by
  unfold State.startRdma
  repeat' first
    | with_reducible assumption
    | with_reducible refine kept_ite ?_ ?_
    | split
    | dsimp only
    | with_reducible refine kept_rdma ?_

theorem State.startMode_kept {q₀ : List Instr} {s : State} (h : s.Kept q₀) : (State.startMode s).Kept q₀ := by
  unfold State.startMode
  repeat' first
    | with_reducible assumption
    | with_reducible refine State.wr_kept ?_
    | with_reducible refine forEach_kept ?_ (fun _ _ _ => ?_)
    | with_reducible refine kept_ite ?_ ?_
    | split
    | dsimp only

theorem State.startMonitor_kept {q₀ : List Instr} {s : State} (h : s.Kept q₀) : (State.startMonitor s).Kept q₀ := by
  unfold State.startMonitor
  repeat' first
    | with_reducible assumption
    | with_reducible refine State.wr_kept ?_
    | with_reducible refine State.emit_kept ?_
    | with_reducible refine State.arm_kept ?_
    | with_reducible refine kept_ite ?_ ?_
    | split
    | dsimp only
    | with_reducible refine kept_monitor ?_

theorem State.startService_kept {q₀ : List Instr} {s : State} {u : StartUp} (h : s.Kept q₀) : (State.startService s u).Kept q₀ := by
  unfold State.startService
  repeat' first
    | with_reducible assumption
    | with_reducible refine State.wr_kept ?_
    | with_reducible refine State.emit_kept ?_
    | with_reducible refine State.raise_kept ?_
    | with_reducible refine State.driveFault_kept ?_
    | with_reducible refine State.fatal_kept ?_
    | with_reducible refine State.configErased_kept ?_
    | with_reducible refine State.loadConfig_kept ?_
    | with_reducible refine State.bootPatch_kept ?_
    | with_reducible refine State.startPorts_kept ?_
    | with_reducible refine State.startEntries_kept ?_
    | with_reducible refine State.startStorage_kept ?_
    | with_reducible refine State.startRdma_kept ?_
    | with_reducible refine State.startMode_kept ?_
    | with_reducible refine State.startMonitor_kept ?_
    | with_reducible refine kept_foldl ?_ (fun _ _ _ => ?_)
    | with_reducible refine kept_foldl_pair ?_ (fun _ _ _ _ => ?_)
    | with_reducible refine kept_ite ?_ ?_
    | split
    | refine kept_fst ‹_› ?_
    | dsimp only
    | with_reducible refine kept_boot ?_
    | with_reducible refine kept_package ?_

theorem State.enterRecovery_kept {q₀ : List Instr} {s : State} {codes : ℕ} (h : s.Kept q₀) : (State.enterRecovery s codes).Kept q₀ := by
  unfold State.enterRecovery
  repeat' first
    | with_reducible assumption
    | with_reducible refine State.wr_kept ?_
    | with_reducible refine State.setDom_kept ?_
    | with_reducible refine State.raise_kept ?_
    | with_reducible refine State.driveFault_kept ?_
    | with_reducible refine State.startMonitor_kept ?_
    | with_reducible refine kept_foldl ?_ (fun _ _ _ => ?_)
    | with_reducible refine kept_foldl_pair ?_ (fun _ _ _ _ => ?_)
    | with_reducible refine kept_ite ?_ ?_
    | split
    | refine kept_fst ‹_› ?_
    | dsimp only
    | with_reducible refine kept_boot_package ?_

theorem State.kilnStart_kept {q₀ : List Instr} {s : State} {u : StartUp} (h : s.Kept q₀) : (State.kilnStart s u).Kept q₀ := by
  unfold State.kilnStart
  repeat' first
    | with_reducible assumption
    | with_reducible refine State.wr_kept ?_
    | with_reducible refine State.raise_kept ?_
    | with_reducible refine State.noteSequence_kept ?_
    | with_reducible refine State.showVersions_kept ?_
    | with_reducible refine State.startService_kept ?_
    | with_reducible refine State.enterRecovery_kept ?_
    | with_reducible refine kept_ite ?_ ?_
    | split
    | dsimp only
    | with_reducible refine kept_boot ?_
    | with_reducible refine kept_package ?_

theorem execReleaseOfReset_kept {q₀ : List Instr} {u : StartUp} {s : State} (h : s.Kept q₀) : ResKept (execReleaseOfReset u s) q₀ := by
  unfold execReleaseOfReset
  repeat' first
    | with_reducible assumption
    | with_reducible refine State.kilnStart_kept ?_
    | with_reducible refine resKept_next ?_
    | with_reducible refine kept_ite ?_ ?_
    | with_reducible refine resKept_ite ?_ ?_
    | split
    | dsimp only

theorem execWarmUpComplete_kept {q₀ : List Instr} {u : StartUp} {s : State} (h : s.Kept q₀) : ResKept (execWarmUpComplete u s) q₀ := by
  unfold execWarmUpComplete
  repeat' first
    | with_reducible assumption
    | with_reducible refine State.startService_kept ?_
    | with_reducible refine resKept_next ?_
    | with_reducible refine kept_ite ?_ ?_
    | with_reducible refine resKept_ite ?_ ?_
    | split
    | dsimp only
    | with_reducible refine kept_boot ?_

theorem execResetStart_kept {q₀ : List Instr} {s : State} (h : s.Kept q₀) : ResKept (execResetStart s) q₀ := by
  unfold execResetStart
  repeat' first
    | with_reducible assumption
    | with_reducible refine State.powerOff_kept ?_
    | with_reducible refine resKept_next ?_
    | with_reducible refine kept_ite ?_ ?_
    | with_reducible refine resKept_ite ?_ ?_
    | split
    | dsimp only

theorem execResetGlitch_kept {q₀ : List Instr} {s : State} (h : s.Kept q₀) : ResKept (execResetGlitch s) q₀ := by
  unfold execResetGlitch
  repeat' first
    | with_reducible assumption
    | with_reducible refine State.bump_kept ?_
    | with_reducible refine resKept_next ?_
    | with_reducible refine kept_ite ?_ ?_
    | with_reducible refine resKept_ite ?_ ?_
    | split
    | dsimp only

theorem execRailUndervoltage_kept {q₀ : List Instr} {rail : Fin 9} {held : Bool} {s : State} (h : s.Kept q₀) : ResKept (execRailUndervoltage rail held s) q₀ := by
  unfold execRailUndervoltage
  repeat' first
    | with_reducible assumption
    | with_reducible refine State.wr_kept ?_
    | with_reducible refine State.powerOff_kept ?_
    | with_reducible refine resKept_next ?_
    | with_reducible refine kept_ite ?_ ?_
    | with_reducible refine resKept_ite ?_ ?_
    | split
    | dsimp only
    | with_reducible refine kept_boot ?_

theorem execThermalReset_kept {q₀ : List Instr} {s : State} (h : s.Kept q₀) : ResKept (execThermalReset s) q₀ := by
  unfold execThermalReset
  repeat' first
    | with_reducible assumption
    | with_reducible refine State.powerOff_kept ?_
    | with_reducible refine resKept_next ?_
    | with_reducible refine kept_ite ?_ ?_
    | with_reducible refine resKept_ite ?_ ?_
    | split
    | dsimp only

theorem State.leaveRecovery_kept {q₀ : List Instr} {s : State} (h : s.Kept q₀) : (State.leaveRecovery s).Kept q₀ := by
  unfold State.leaveRecovery
  repeat' first
    | with_reducible assumption
    | with_reducible refine State.wr_kept ?_
    | with_reducible refine State.powerOff_kept ?_
    | with_reducible refine State.kilnStart_kept ?_
    | with_reducible refine kept_ite ?_ ?_
    | split
    | dsimp only

end Sys2Proof.Machine
end

