-- ==== Sys2Proof/Laws/KeptBlp.lean ====
section
/-! SUPPORT. Laws/KeptBlp.lean: every operation of Machine/Blp.lean keeps the queue and the canonical form. -/

namespace Sys2Proof.Machine

theorem State.fullWrite_kept {q₀ : List Instr} {s : State} {ctx : ℕ} {w : Writer} {stopped : Bool} {key : ℕ} {v : WireValue} (h : s.Kept q₀) : (State.fullWrite s ctx w stopped key v).state.Kept q₀ := by
  unfold State.fullWrite
  repeat' first
    | with_reducible assumption
    | with_reducible refine State.agentWrite_kept ?_
    | with_reducible refine State.signedWrite_kept ?_
    | with_reducible refine kept_ite ?_ ?_
    | split
    | with_reducible refine kept_iteW ?_ ?_
    | dsimp only

theorem State.setTransfer_kept {q₀ : List Instr} {s : State} {ctx : ℕ} {x1 : Option Transfer} (h : s.Kept q₀) : (State.setTransfer s ctx x1).Kept q₀ := by
  unfold State.setTransfer
  repeat' first
    | with_reducible assumption
    | with_reducible refine State.arm_kept ?_
    | with_reducible refine State.disarm_kept ?_
    | with_reducible refine kept_ite ?_ ?_
    | split
    | dsimp only
    | with_reducible refine kept_agent ?_

theorem State.segStore_kept {q₀ : List Instr} {s : State} {ctx : ℕ} {w : Writer} {last : Bool} {stopped : Bool} {t1 : Transfer} (h : s.Kept q₀) : (State.segStore s ctx w last stopped t1).1.Kept q₀ := by
  unfold State.segStore
  repeat' first
    | with_reducible assumption
    | with_reducible refine State.refuse_kept ?_
    | with_reducible refine State.fullWrite_kept ?_
    | with_reducible refine State.setTransfer_kept ?_
    | with_reducible refine kept_ite ?_ ?_
    | with_reducible refine kept_ite_fst ?_ ?_
    | split
    | dsimp only

theorem State.segWrite_kept {q₀ : List Instr} {s : State} {ctx : ℕ} {w : Writer} {key : ℕ} {first : Bool} {last : Bool} {offset : ℕ} {total : ℕ} {data : List Byte} {stopped : Bool} (h : s.Kept q₀) : (State.segWrite s ctx w key first last offset total data stopped).1.Kept q₀ := by
  unfold State.segWrite
  repeat' first
    | with_reducible assumption
    | with_reducible refine State.setSlot_kept ?_
    | with_reducible refine State.refuse_kept ?_
    | with_reducible refine State.downloadStarts_kept ?_
    | with_reducible refine State.segStore_kept ?_
    | with_reducible refine kept_ite ?_ ?_
    | with_reducible refine kept_ite_fst ?_ ?_
    | split
    | refine kept_fst ‹_› ?_
    | dsimp only

theorem State.segRead_kept {q₀ : List Instr} {s : State} {ctx : ℕ} {key : ℕ} {offset : ℕ} (h : s.Kept q₀) : (State.segRead s ctx key offset).1.Kept q₀ := by
  unfold State.segRead
  repeat' first
    | with_reducible assumption
    | with_reducible refine State.arm_kept ?_
    | with_reducible refine State.valueBytes_kept ?_
    | with_reducible refine kept_ite ?_ ?_
    | with_reducible refine kept_ite_fst ?_ ?_
    | split
    | refine kept_fst ‹_› ?_
    | dsimp only
    | with_reducible refine kept_agent ?_

theorem State.setSession_kept {q₀ : List Instr} {s : State} {x1 : Session} (h : s.Kept q₀) : (State.setSession s x1).Kept q₀ := by
  unfold State.setSession
  repeat' first
    | with_reducible assumption
    | with_reducible refine kept_ite ?_ ?_
    | split
    | dsimp only
    | with_reducible refine kept_agent ?_

theorem State.subscribe_kept {q₀ : List Instr} {s : State} {sid : Option ℕ} {version : ℕ} {least : ℕ} (h : s.Kept q₀) : (State.subscribe s sid version least).1.Kept q₀ := by
  unfold State.subscribe
  repeat' first
    | with_reducible assumption
    | with_reducible refine State.setSession_kept ?_
    | with_reducible refine kept_ite ?_ ?_
    | with_reducible refine kept_ite_fst ?_ ?_
    | split
    | dsimp only

theorem State.answer_kept {q₀ : List Instr} {s : State} {ctx : ℕ} {w : Writer} {sid : Option ℕ} {version : ℕ} {a : Ask} (h : s.Kept q₀) : (State.answer s ctx w sid version a).1.Kept q₀ := by
  unfold State.answer
  repeat' first
    | with_reducible assumption
    | with_reducible refine State.emit_kept ?_
    | with_reducible refine State.agentRead_kept ?_
    | with_reducible refine State.setStaged_kept ?_
    | with_reducible refine State.askedCommit_kept ?_
    | with_reducible refine State.fullWrite_kept ?_
    | with_reducible refine State.segWrite_kept ?_
    | with_reducible refine State.segRead_kept ?_
    | with_reducible refine State.subscribe_kept ?_
    | with_reducible refine kept_ite ?_ ?_
    | with_reducible refine kept_ite_fst ?_ ?_
    | split
    | refine kept_fst ‹_› ?_
    | dsimp only

theorem State.afterAnswer_kept {q₀ : List Instr} {s : State} {a : Ask} {status : ℕ} (h : s.Kept q₀) : (State.afterAnswer s a status).Kept q₀ := by
  unfold State.afterAnswer
  repeat' first
    | with_reducible assumption
    | with_reducible refine State.leaveRecovery_kept ?_
    | with_reducible refine kept_ite ?_ ?_
    | split
    | dsimp only

theorem State.sessionOver_kept {q₀ : List Instr} {s : State} {sid : ℕ} (h : s.Kept q₀) : (State.sessionOver s sid).Kept q₀ := by
  unfold State.sessionOver
  repeat' first
    | with_reducible assumption
    | with_reducible refine State.endSession_kept ?_
    | with_reducible refine kept_ite ?_ ?_
    | split
    | dsimp only

theorem State.serveSession_kept {q₀ : List Instr} {s0 : State} {sid : ℕ} {seq : ℕ} {intact : Bool} {a : Ask} (h : s0.Kept q₀) : (State.serveSession s0 sid seq intact a).Kept q₀ := by
  unfold State.serveSession
  repeat' first
    | with_reducible assumption
    | with_reducible refine State.bump_kept ?_
    | with_reducible refine State.emit_kept ?_
    | with_reducible refine State.arm_kept ?_
    | with_reducible refine State.endSession_kept ?_
    | with_reducible refine State.setSession_kept ?_
    | with_reducible refine State.answer_kept ?_
    | with_reducible refine State.afterAnswer_kept ?_
    | with_reducible refine State.sessionOver_kept ?_
    | with_reducible refine kept_ite ?_ ?_
    | with_reducible refine kept_ite_fst ?_ ?_
    | split
    | refine kept_fst ‹_› ?_
    | dsimp only

theorem State.setMailbox_kept {q₀ : List Instr} {s : State} {link : ℕ} {x1 : Mailbox} (h : s.Kept q₀) : (State.setMailbox s link x1).Kept q₀ := by
  unfold State.setMailbox
  repeat' first
    | with_reducible assumption
    | with_reducible refine kept_ite ?_ ?_
    | split
    | dsimp only
    | with_reducible refine kept_agent ?_

theorem State.setCoreWindow_kept {q₀ : List Instr} {s : State} {n : ℕ} {x1 : Mailbox} (h : s.Kept q₀) : (State.setCoreWindow s n x1).Kept q₀ := by
  unfold State.setCoreWindow
  repeat' first
    | with_reducible assumption
    | with_reducible refine kept_ite ?_ ?_
    | split
    | dsimp only
    | with_reducible refine kept_agent ?_

theorem State.windowAnswer_kept {q₀ : List Instr} {s : State} {ctx : ℕ} {w : Writer} {version : ℕ} {a : Ask} (h : s.Kept q₀) : (State.windowAnswer s ctx w version a).1.Kept q₀ := by
  unfold State.windowAnswer
  repeat' first
    | with_reducible assumption
    | with_reducible refine State.bump_kept ?_
    | with_reducible refine State.answer_kept ?_
    | with_reducible refine kept_ite ?_ ?_
    | with_reducible refine kept_ite_fst ?_ ?_
    | split
    | refine kept_fst ‹_› ?_
    | dsimp only

theorem State.serveMailbox_kept {q₀ : List Instr} {s : State} {link : ℕ} {version : ℕ} {a : Ask} (h : s.Kept q₀) : (State.serveMailbox s link version a).Kept q₀ := by
  unfold State.serveMailbox
  repeat' first
    | with_reducible assumption
    | with_reducible refine State.emit_kept ?_
    | with_reducible refine State.carry_kept ?_
    | with_reducible refine State.msixInterrupt_kept ?_
    | with_reducible refine State.afterAnswer_kept ?_
    | with_reducible refine State.setMailbox_kept ?_
    | with_reducible refine State.windowAnswer_kept ?_
    | with_reducible refine kept_ite ?_ ?_
    | with_reducible refine kept_ite_fst ?_ ?_
    | split
    | refine kept_fst ‹_› ?_
    | dsimp only

theorem State.serveCore_kept {q₀ : List Instr} {s : State} {n : ℕ} {version : ℕ} {a : Ask} (h : s.Kept q₀) : (State.serveCore s n version a).Kept q₀ := by
  unfold State.serveCore
  repeat' first
    | with_reducible assumption
    | with_reducible refine State.emit_kept ?_
    | with_reducible refine State.carry_kept ?_
    | with_reducible refine State.afterAnswer_kept ?_
    | with_reducible refine State.setCoreWindow_kept ?_
    | with_reducible refine State.windowAnswer_kept ?_
    | with_reducible refine kept_ite ?_ ?_
    | with_reducible refine kept_ite_fst ?_ ?_
    | split
    | refine kept_fst ‹_› ?_
    | dsimp only

theorem State.ask_kept {q₀ : List Instr} {s0 : State} {r : Req} {a : Ask} (h : s0.Kept q₀) : (State.ask s0 r a).Kept q₀ := by
  unfold State.ask
  repeat' first
    | with_reducible assumption
    | with_reducible refine State.emit_kept ?_
    | with_reducible refine State.moveTo_kept ?_
    | with_reducible refine State.signedAlone_kept ?_
    | with_reducible refine State.answer_kept ?_
    | with_reducible refine State.afterAnswer_kept ?_
    | with_reducible refine State.serveSession_kept ?_
    | with_reducible refine State.serveMailbox_kept ?_
    | with_reducible refine State.serveCore_kept ?_
    | with_reducible refine kept_ite ?_ ?_
    | with_reducible refine kept_ite_fst ?_ ?_
    | split
    | refine kept_fst ‹_› ?_
    | dsimp only

theorem State.request_kept {q₀ : List Instr} {s : State} {r : Req} {a : Ask} (h : s.Kept q₀) : (State.request s r a).Kept q₀ := by
  unfold State.request
  repeat' first
    | with_reducible assumption
    | with_reducible refine State.ask_kept ?_
    | with_reducible refine kept_ite ?_ ?_
    | split
    | dsimp only
    | with_reducible refine kept_agent ?_

theorem State.openRefused_kept {q₀ : List Instr} {s : State} {source : ℕ} {ctx : ℕ} {msg : ℕ} (h : s.Kept q₀) : (State.openRefused s source ctx msg).Kept q₀ := by
  unfold State.openRefused
  repeat' first
    | with_reducible assumption
    | with_reducible refine State.bump_kept ?_
    | with_reducible refine State.emit_kept ?_
    | with_reducible refine State.arm_kept ?_
    | with_reducible refine State.raiseLimited_kept ?_
    | with_reducible refine kept_ite ?_ ?_
    | split
    | dsimp only
    | with_reducible refine kept_agent ?_

theorem State.open__kept {q₀ : List Instr} {s0 : State} {f : OpenFrame} (h : s0.Kept q₀) : (State.open_ s0 f).Kept q₀ := by
  unfold State.open_
  repeat' first
    | with_reducible assumption
    | with_reducible refine State.emit_kept ?_
    | with_reducible refine State.openBits_kept ?_
    | with_reducible refine State.moveTo_kept ?_
    | with_reducible refine State.arm_kept ?_
    | with_reducible refine State.openRefused_kept ?_
    | with_reducible refine kept_ite ?_ ?_
    | with_reducible refine kept_ite_fst ?_ ?_
    | split
    | refine kept_fst ‹_› ?_
    | dsimp only
    | with_reducible refine kept_agent ?_

theorem State.dropHandshake_kept {q₀ : List Instr} {s : State} {sid : ℕ} (h : s.Kept q₀) : (State.dropHandshake s sid).Kept q₀ := by
  unfold State.dropHandshake
  repeat' first
    | with_reducible assumption
    | with_reducible refine State.disarm_kept ?_
    | with_reducible refine kept_ite ?_ ?_
    | split
    | dsimp only
    | with_reducible refine kept_agent ?_

theorem State.finish__kept {q₀ : List Instr} {s0 : State} {f : FinishFrame} (h : s0.Kept q₀) : (State.finish_ s0 f).Kept q₀ := by
  unfold State.finish_
  repeat' first
    | with_reducible assumption
    | with_reducible refine State.bump_kept ?_
    | with_reducible refine State.emit_kept ?_
    | with_reducible refine State.moveTo_kept ?_
    | with_reducible refine State.arm_kept ?_
    | with_reducible refine State.raise_kept ?_
    | with_reducible refine State.openRefused_kept ?_
    | with_reducible refine State.dropHandshake_kept ?_
    | with_reducible refine kept_ite ?_ ?_
    | split
    | dsimp only
    | with_reducible refine kept_agent ?_

theorem State.serveHeld_kept {q₀ : List Instr} {s : State} (h : s.Kept q₀) : (State.serveHeld s).Kept q₀ := by
  unfold State.serveHeld
  repeat' first
    | with_reducible assumption
    | with_reducible refine State.ask_kept ?_
    | with_reducible refine State.open__kept ?_
    | with_reducible refine State.finish__kept ?_
    | with_reducible refine kept_foldl ?_ (fun _ _ _ => ?_)
    | with_reducible refine kept_foldl_pair ?_ (fun _ _ _ _ => ?_)
    | with_reducible refine kept_ite ?_ ?_
    | split
    | refine kept_fst ‹_› ?_
    | dsimp only
    | with_reducible refine kept_agent ?_

theorem State.notifyOnce_kept {q₀ : List Instr} {s : State} {sid : ℕ} (h : s.Kept q₀) : (State.notifyOnce s sid).Kept q₀ := by
  unfold State.notifyOnce
  repeat' first
    | with_reducible assumption
    | with_reducible refine State.emit_kept ?_
    | with_reducible refine State.setSession_kept ?_
    | with_reducible refine kept_ite ?_ ?_
    | split
    | dsimp only

theorem State.notifyAll_kept {q₀ : List Instr} {s : State} {sid : ℕ} (h : s.Kept q₀) : (State.notifyAll s sid).Kept q₀ := by
  unfold State.notifyAll
  repeat' first
    | with_reducible assumption
    | with_reducible refine forEach_kept ?_ (fun _ _ _ => ?_)
    | with_reducible refine State.notifyOnce_kept ?_
    | with_reducible refine kept_ite ?_ ?_
    | split
    | dsimp only

theorem execBlpOpen_kept {q₀ : List Instr} {f : OpenFrame} {s : State} (h : s.Kept q₀) : ResKept (execBlpOpen f s) q₀ := by
  unfold execBlpOpen
  repeat' first
    | with_reducible assumption
    | with_reducible refine State.open__kept ?_
    | with_reducible refine resKept_next ?_
    | with_reducible refine kept_ite ?_ ?_
    | with_reducible refine resKept_ite ?_ ?_
    | split
    | dsimp only
    | with_reducible refine kept_agent ?_

theorem execOpenFinish_kept {q₀ : List Instr} {f : FinishFrame} {s : State} (h : s.Kept q₀) : ResKept (execOpenFinish f s) q₀ := by
  unfold execOpenFinish
  repeat' first
    | with_reducible assumption
    | with_reducible refine State.finish__kept ?_
    | with_reducible refine resKept_next ?_
    | with_reducible refine kept_ite ?_ ?_
    | with_reducible refine resKept_ite ?_ ?_
    | split
    | dsimp only
    | with_reducible refine kept_agent ?_

theorem execOpenFinishTimeout_kept {q₀ : List Instr} {sid : ℕ} {s : State} (h : s.Kept q₀) : ResKept (execOpenFinishTimeout sid s) q₀ := by
  unfold execOpenFinishTimeout
  repeat' first
    | with_reducible assumption
    | with_reducible refine State.dropHandshake_kept ?_
    | with_reducible refine resKept_next ?_
    | with_reducible refine kept_ite ?_ ?_
    | with_reducible refine resKept_ite ?_ ?_
    | split
    | dsimp only

theorem execOpenBlockExpiry_kept {q₀ : List Instr} {source : ℕ} {s : State} (h : s.Kept q₀) : ResKept (execOpenBlockExpiry source s) q₀ := by
  unfold execOpenBlockExpiry
  repeat' first
    | with_reducible assumption
    | with_reducible refine State.disarm_kept ?_
    | with_reducible refine resKept_next ?_
    | with_reducible refine kept_ite ?_ ?_
    | with_reducible refine resKept_ite ?_ ?_
    | split
    | dsimp only
    | with_reducible refine kept_agent ?_

theorem execBlpClose_kept {q₀ : List Instr} {r : Req} {s : State} (h : s.Kept q₀) : ResKept (execBlpClose r s) q₀ := by
  unfold execBlpClose
  repeat' first
    | with_reducible assumption
    | with_reducible refine State.request_kept ?_
    | with_reducible refine resKept_next ?_
    | with_reducible refine kept_ite ?_ ?_
    | with_reducible refine resKept_ite ?_ ?_
    | split
    | dsimp only

theorem execBlpCommit_kept {q₀ : List Instr} {r : Req} {target : BitVec 96} {s : State} (h : s.Kept q₀) : ResKept (execBlpCommit r target s) q₀ := by
  unfold execBlpCommit
  repeat' first
    | with_reducible assumption
    | with_reducible refine State.request_kept ?_
    | with_reducible refine resKept_next ?_
    | with_reducible refine kept_ite ?_ ?_
    | with_reducible refine resKept_ite ?_ ?_
    | split
    | dsimp only

theorem execBlpDescribe_kept {q₀ : List Instr} {r : Req} {key : BitVec 24} {s : State} (h : s.Kept q₀) : ResKept (execBlpDescribe r key s) q₀ := by
  unfold execBlpDescribe
  repeat' first
    | with_reducible assumption
    | with_reducible refine State.request_kept ?_
    | with_reducible refine resKept_next ?_
    | with_reducible refine kept_ite ?_ ?_
    | with_reducible refine resKept_ite ?_ ?_
    | split
    | dsimp only

theorem execAbortStaged_kept {q₀ : List Instr} {r : Req} {s : State} (h : s.Kept q₀) : ResKept (execAbortStaged r s) q₀ := by
  unfold execAbortStaged
  repeat' first
    | with_reducible assumption
    | with_reducible refine State.request_kept ?_
    | with_reducible refine resKept_next ?_
    | with_reducible refine kept_ite ?_ ?_
    | with_reducible refine resKept_ite ?_ ?_
    | split
    | dsimp only

theorem execSegWrite_kept {q₀ : List Instr} {r : Req} {key : BitVec 24} {first : Bool} {last : Bool} {offset : BitVec 32} {total : BitVec 32} {data : List Byte} {coresStopped : Bool} {s : State} (h : s.Kept q₀) : ResKept (execSegWrite r key first last offset total data coresStopped s) q₀ := by
  unfold execSegWrite
  repeat' first
    | with_reducible assumption
    | with_reducible refine State.request_kept ?_
    | with_reducible refine resKept_next ?_
    | with_reducible refine kept_ite ?_ ?_
    | with_reducible refine resKept_ite ?_ ?_
    | split
    | dsimp only

theorem execSegRead_kept {q₀ : List Instr} {r : Req} {key : BitVec 24} {offset : BitVec 32} {s : State} (h : s.Kept q₀) : ResKept (execSegRead r key offset s) q₀ := by
  unfold execSegRead
  repeat' first
    | with_reducible assumption
    | with_reducible refine State.request_kept ?_
    | with_reducible refine resKept_next ?_
    | with_reducible refine kept_ite ?_ ?_
    | with_reducible refine resKept_ite ?_ ?_
    | split
    | dsimp only

theorem execBlpSubscribe_kept {q₀ : List Instr} {r : Req} {minSeverity : BitVec 8} {s : State} (h : s.Kept q₀) : ResKept (execBlpSubscribe r minSeverity s) q₀ := by
  unfold execBlpSubscribe
  repeat' first
    | with_reducible assumption
    | with_reducible refine State.request_kept ?_
    | with_reducible refine resKept_next ?_
    | with_reducible refine kept_ite ?_ ?_
    | with_reducible refine resKept_ite ?_ ?_
    | split
    | dsimp only

theorem execBlpKeepalive_kept {q₀ : List Instr} {r : Req} {s : State} (h : s.Kept q₀) : ResKept (execBlpKeepalive r s) q₀ := by
  unfold execBlpKeepalive
  repeat' first
    | with_reducible assumption
    | with_reducible refine State.request_kept ?_
    | with_reducible refine resKept_next ?_
    | with_reducible refine kept_ite ?_ ?_
    | with_reducible refine resKept_ite ?_ ?_
    | split
    | dsimp only

theorem execBlpNotify_kept {q₀ : List Instr} {sid : ℕ} {s : State} (h : s.Kept q₀) : ResKept (execBlpNotify sid s) q₀ := by
  unfold execBlpNotify
  repeat' first
    | with_reducible assumption
    | with_reducible refine State.notifyOnce_kept ?_
    | with_reducible refine resKept_next ?_
    | with_reducible refine kept_ite ?_ ?_
    | with_reducible refine resKept_ite ?_ ?_
    | split
    | dsimp only

theorem execSessionIdleTimeout_kept {q₀ : List Instr} {sid : ℕ} {s : State} (h : s.Kept q₀) : ResKept (execSessionIdleTimeout sid s) q₀ := by
  unfold execSessionIdleTimeout
  repeat' first
    | with_reducible assumption
    | with_reducible refine State.endSession_kept ?_
    | with_reducible refine resKept_next ?_
    | with_reducible refine kept_ite ?_ ?_
    | with_reducible refine resKept_ite ?_ ?_
    | split
    | dsimp only

theorem execSessionLifetime_kept {q₀ : List Instr} {sid : ℕ} {s : State} (h : s.Kept q₀) : ResKept (execSessionLifetime sid s) q₀ := by
  unfold execSessionLifetime
  repeat' first
    | with_reducible assumption
    | with_reducible refine State.endSession_kept ?_
    | with_reducible refine resKept_next ?_
    | with_reducible refine kept_ite ?_ ?_
    | with_reducible refine resKept_ite ?_ ?_
    | split
    | dsimp only

theorem execTransferTimeout_kept {q₀ : List Instr} {ctx : ℕ} {s : State} (h : s.Kept q₀) : ResKept (execTransferTimeout ctx s) q₀ := by
  unfold execTransferTimeout
  repeat' first
    | with_reducible assumption
    | with_reducible refine State.disarm_kept ?_
    | with_reducible refine State.setTransfer_kept ?_
    | with_reducible refine resKept_next ?_
    | with_reducible refine kept_ite ?_ ?_
    | with_reducible refine resKept_ite ?_ ?_
    | split
    | dsimp only
    | with_reducible refine kept_agent ?_

theorem execMailboxDoorbell_kept {q₀ : List Instr} {link : Fin 4} {s : State} (h : s.Kept q₀) : ResKept (execMailboxDoorbell link s) q₀ := by
  unfold execMailboxDoorbell
  repeat' first
    | with_reducible assumption
    | with_reducible refine State.bump_kept ?_
    | with_reducible refine State.setMailbox_kept ?_
    | with_reducible refine resKept_next ?_
    | with_reducible refine kept_ite ?_ ?_
    | with_reducible refine resKept_ite ?_ ?_
    | split
    | dsimp only

theorem execCoreWindowRequest_kept {q₀ : List Instr} {n : Fin 96} {length : ℕ} {s : State} (h : s.Kept q₀) : ResKept (execCoreWindowRequest n length s) q₀ := by
  unfold execCoreWindowRequest
  repeat' first
    | with_reducible assumption
    | with_reducible refine State.bump_kept ?_
    | with_reducible refine State.setCoreWindow_kept ?_
    | with_reducible refine resKept_next ?_
    | with_reducible refine kept_ite ?_ ?_
    | with_reducible refine resKept_ite ?_ ?_
    | split
    | dsimp only

theorem execEventRead_kept {q₀ : List Instr} {r : Req} {sequence : BitVec 64} {s : State} (h : s.Kept q₀) : ResKept (execEventRead r sequence s) q₀ := by
  unfold execEventRead
  repeat' first
    | with_reducible assumption
    | with_reducible refine State.request_kept ?_
    | with_reducible refine resKept_next ?_
    | with_reducible refine kept_ite ?_ ?_
    | with_reducible refine resKept_ite ?_ ?_
    | split
    | dsimp only

theorem execEventSeverity_kept {q₀ : List Instr} {r : Req} {code : BitVec 16} {s : State} (h : s.Kept q₀) : ResKept (execEventSeverity r code s) q₀ := by
  unfold execEventSeverity
  repeat' first
    | with_reducible assumption
    | with_reducible refine State.request_kept ?_
    | with_reducible refine resKept_next ?_
    | with_reducible refine kept_ite ?_ ?_
    | with_reducible refine resKept_ite ?_ ?_
    | split
    | dsimp only

theorem State.mgmtDuplicate_kept {q₀ : List Instr} {s : State} {source : ℕ} {seq : ℕ} (h : s.Kept q₀) : (State.mgmtDuplicate s source seq).1.Kept q₀ := by
  unfold State.mgmtDuplicate
  repeat' first
    | with_reducible assumption
    | with_reducible refine kept_ite ?_ ?_
    | with_reducible refine kept_ite_fst ?_ ?_
    | split
    | dsimp only
    | with_reducible refine kept_mgmt ?_

theorem kept_someElse {q : List Instr} {c : Prop} [Decidable c] {a t : State} (e : (if c then none else some a) = some t)
    (h : a.Kept q) : t.Kept q := by
  split at e
  · cases e
  · cases e; exact h

theorem State.mgmtRate_kept {q₀ : List Instr} {s : State} {portB : Bool} (h : s.Kept q₀) :
    ∀ t, State.mgmtRate s portB = some t → t.Kept q₀ := by
  intro t ht
  unfold State.mgmtRate at ht
  exact kept_someElse ht (kept_mgmt h)


theorem State.mgmtAnswer_kept {q₀ : List Instr} {s : State} {bs : List Byte} (h : s.Kept q₀) : (State.mgmtAnswer s bs).Kept q₀ := by
  unfold State.mgmtAnswer
  repeat' first
    | with_reducible assumption
    | with_reducible refine State.emit_kept ?_
    | with_reducible refine kept_ite ?_ ?_
    | split
    | dsimp only

theorem execMgmtFrame_kept {q₀ : List Instr} {portB : Bool} {f : MgmtFrame} {off : ℕ} {s0 : State} (h : s0.Kept q₀) : ResKept (execMgmtFrame portB f off s0) q₀ := by
  unfold execMgmtFrame
  repeat' first
    | with_reducible assumption
    | with_reducible refine State.bump_kept ?_
    | with_reducible refine State.moveTo_kept ?_
    | with_reducible refine State.mgmtDuplicate_kept ?_
    | with_reducible refine kept_getD (fun _ ho => State.mgmtRate_kept ?_ _ ho) ?_
    | with_reducible refine State.mgmtAnswer_kept ?_
    | with_reducible refine resKept_next ?_
    | with_reducible refine kept_ite ?_ ?_
    | with_reducible refine resKept_ite ?_ ?_
    | with_reducible refine kept_ite_fst ?_ ?_
    | split
    | refine kept_fst ‹_› ?_
    | refine State.mgmtRate_kept ?_ _ ‹_›
    | dsimp only
    | with_reducible refine kept_mgmt ?_

theorem execMgmtRedundancyDegraded_kept {q₀ : List Instr} {portB : Bool} {s : State} (h : s.Kept q₀) : ResKept (execMgmtRedundancyDegraded portB s) q₀ := by
  unfold execMgmtRedundancyDegraded
  repeat' first
    | with_reducible assumption
    | with_reducible refine State.raise_kept ?_
    | with_reducible refine resKept_next ?_
    | with_reducible refine kept_ite ?_ ?_
    | with_reducible refine resKept_ite ?_ ?_
    | split
    | dsimp only
    | with_reducible refine kept_mgmt ?_

end Sys2Proof.Machine
end

