-- ==== Sys2Proof/Laws/KeptRemote.lean ====
section
/-! SUPPORT. Laws/KeptRemote.lean: every operation of Machine/Remote.lean keeps the queue and the canonical form. -/

namespace Sys2Proof.Machine

theorem State.disconnect_kept {q₀ : List Instr} {s : State} {k : ℕ} (h : s.Kept q₀) : (State.disconnect s k).Kept q₀ := by
  unfold State.disconnect
  repeat' first
    | with_reducible assumption
    | with_reducible refine State.arm_kept ?_
    | with_reducible refine kept_ite ?_ ?_
    | split
    | dsimp only
    | with_reducible refine kept_storage_rdma ?_

theorem State.connect_kept {q₀ : List Instr} {s : State} {k : ℕ} (h : s.Kept q₀) : (State.connect s k).Kept q₀ := by
  unfold State.connect
  repeat' first
    | with_reducible assumption
    | with_reducible refine State.disarm_kept ?_
    | with_reducible refine State.backingSend_kept ?_
    | with_reducible refine State.engineQp_kept ?_
    | with_reducible refine kept_foldl ?_ (fun _ _ _ => ?_)
    | with_reducible refine kept_foldl_pair ?_ (fun _ _ _ _ => ?_)
    | with_reducible refine kept_ite ?_ ?_
    | split
    | refine kept_fst ‹_› ?_
    | dsimp only
    | with_reducible refine kept_storage ?_

theorem State.reconnectDue_kept {q₀ : List Instr} {s : State} {k : ℕ} (h : s.Kept q₀) : (State.reconnectDue s k).Kept q₀ := by
  unfold State.reconnectDue
  repeat' first
    | with_reducible assumption
    | with_reducible refine State.disarm_kept ?_
    | with_reducible refine kept_ite ?_ ?_
    | split
    | dsimp only

theorem execReconnectInterval_kept {q₀ : List Instr} {k : Fin 64} {reached : Bool} {s : State} (h : s.Kept q₀) : ResKept (execReconnectInterval k reached s) q₀ := by
  unfold execReconnectInterval
  repeat' first
    | with_reducible assumption
    | with_reducible refine State.emit_kept ?_
    | with_reducible refine State.arm_kept ?_
    | with_reducible refine State.connect_kept ?_
    | with_reducible refine resKept_next ?_
    | with_reducible refine kept_ite ?_ ?_
    | with_reducible refine resKept_ite ?_ ?_
    | split
    | dsimp only

theorem execKeepAlive_kept {q₀ : List Instr} {k : Fin 64} {answered : Bool} {s : State} (h : s.Kept q₀) : ResKept (execKeepAlive k answered s) q₀ := by
  unfold execKeepAlive
  repeat' first
    | with_reducible assumption
    | with_reducible refine State.emit_kept ?_
    | with_reducible refine State.disconnect_kept ?_
    | with_reducible refine resKept_next ?_
    | with_reducible refine kept_ite ?_ ?_
    | with_reducible refine resKept_ite ?_ ?_
    | split
    | dsimp only

end Sys2Proof.Machine
end

