-- ==== Sys2Proof/Laws/KeptMonitor.lean ====
section
/-! SUPPORT. Laws/KeptMonitor.lean: every operation of Machine/Monitor.lean keeps the queue and the canonical form. -/

namespace Sys2Proof.Machine

theorem State.says_kept {q₀ : List Instr} {s : State} {what : String} {data : List Byte} (h : s.Kept q₀) : (State.says s what data).Kept q₀ := by
  unfold State.says
  repeat' first
    | with_reducible assumption
    | with_reducible refine State.emit_kept ?_
    | with_reducible refine kept_ite ?_ ?_
    | split
    | dsimp only

theorem State.ok_kept {q₀ : List Instr} {s : State} (h : s.Kept q₀) : (State.ok s).Kept q₀ := by
  unfold State.ok
  repeat' first
    | with_reducible assumption
    | with_reducible refine State.says_kept ?_
    | with_reducible refine kept_ite ?_ ?_
    | split
    | dsimp only

theorem State.err_kept {q₀ : List Instr} {s : State} {code : ℕ} (h : s.Kept q₀) : (State.err s code).Kept q₀ := by
  unfold State.err
  repeat' first
    | with_reducible assumption
    | with_reducible refine State.says_kept ?_
    | with_reducible refine kept_ite ?_ ?_
    | split
    | dsimp only

theorem State.atLevel_kept {q₀ : List Instr} {s : State} {n : ℕ} {f : State → State} (h : s.Kept q₀) (hf : ∀ a0, a0.Kept q₀ → (f a0).Kept q₀) : (State.atLevel s n f).Kept q₀ := by
  unfold State.atLevel
  repeat' first
    | with_reducible assumption
    | with_reducible refine hf _ ?_
    | with_reducible refine State.err_kept ?_
    | with_reducible refine kept_ite ?_ ?_
    | split
    | dsimp only

theorem State.inBounds_kept {q₀ : List Instr} {s : State} {good : Bool} {f : State → State} (h : s.Kept q₀) (hf : ∀ a0, a0.Kept q₀ → (f a0).Kept q₀) : (State.inBounds s good f).Kept q₀ := by
  unfold State.inBounds
  repeat' first
    | with_reducible assumption
    | with_reducible refine hf _ ?_
    | with_reducible refine State.err_kept ?_
    | with_reducible refine kept_ite ?_ ?_
    | split
    | dsimp only

theorem State.enterAutoBaud_kept {q₀ : List Instr} {s : State} (h : s.Kept q₀) : (State.enterAutoBaud s).Kept q₀ := by
  unfold State.enterAutoBaud
  repeat' first
    | with_reducible assumption
    | with_reducible refine State.wr_kept ?_
    | with_reducible refine State.disarm_kept ?_
    | with_reducible refine kept_ite ?_ ?_
    | split
    | dsimp only
    | with_reducible refine kept_monitor ?_

theorem State.expect_kept {q₀ : List Instr} {s : State} {n : ℕ} (h : s.Kept q₀) : (State.expect s n).Kept q₀ := by
  unfold State.expect
  repeat' first
    | with_reducible assumption
    | with_reducible refine kept_ite ?_ ?_
    | split
    | dsimp only
    | with_reducible refine kept_monitor ?_

theorem State.monHelp_kept {q₀ : List Instr} {s : State} (h : s.Kept q₀) : (State.monHelp s).Kept q₀ := by
  unfold State.monHelp
  repeat' first
    | with_reducible assumption
    | with_reducible refine State.says_kept ?_
    | with_reducible refine State.ok_kept ?_
    | with_reducible refine kept_ite ?_ ?_
    | split
    | dsimp only

theorem State.monId_kept {q₀ : List Instr} {s : State} (h : s.Kept q₀) : (State.monId s).Kept q₀ := by
  unfold State.monId
  repeat' first
    | with_reducible assumption
    | with_reducible refine State.says_kept ?_
    | with_reducible refine State.ok_kept ?_
    | with_reducible refine kept_ite ?_ ?_
    | split
    | dsimp only

theorem State.monTime_kept {q₀ : List Instr} {s : State} (h : s.Kept q₀) : (State.monTime s).Kept q₀ := by
  unfold State.monTime
  repeat' first
    | with_reducible assumption
    | with_reducible refine State.says_kept ?_
    | with_reducible refine State.ok_kept ?_
    | with_reducible refine kept_ite ?_ ?_
    | split
    | dsimp only

theorem State.monMode_kept {q₀ : List Instr} {s : State} (h : s.Kept q₀) : (State.monMode s).Kept q₀ := by
  unfold State.monMode
  repeat' first
    | with_reducible assumption
    | with_reducible refine State.says_kept ?_
    | with_reducible refine State.ok_kept ?_
    | with_reducible refine kept_ite ?_ ?_
    | split
    | dsimp only

theorem State.monEvents_kept {q₀ : List Instr} {s : State} {n : ℕ} (h : s.Kept q₀) : (State.monEvents s n).Kept q₀ := by
  unfold State.monEvents
  repeat' first
    | with_reducible assumption
    | with_reducible refine State.says_kept ?_
    | with_reducible refine State.ok_kept ?_
    | with_reducible refine State.inBounds_kept ?_ (fun _ _ => ?_)
    | with_reducible refine kept_ite ?_ ?_
    | split
    | dsimp only

theorem State.monUnlock_kept {q₀ : List Instr} {s : State} {n : ℕ} (h : s.Kept q₀) : (State.monUnlock s n).Kept q₀ := by
  unfold State.monUnlock
  repeat' first
    | with_reducible assumption
    | with_reducible refine State.wr_kept ?_
    | with_reducible refine State.openBits_kept ?_
    | with_reducible refine State.arm_kept ?_
    | with_reducible refine State.says_kept ?_
    | with_reducible refine State.ok_kept ?_
    | with_reducible refine State.err_kept ?_
    | with_reducible refine State.expect_kept ?_
    | with_reducible refine kept_ite ?_ ?_
    | with_reducible refine kept_ite_fst ?_ ?_
    | split
    | refine kept_fst ‹_› ?_
    | dsimp only
    | with_reducible refine kept_monitor ?_

theorem State.monLock_kept {q₀ : List Instr} {s : State} (h : s.Kept q₀) : (State.monLock s).Kept q₀ := by
  unfold State.monLock
  repeat' first
    | with_reducible assumption
    | with_reducible refine State.wr_kept ?_
    | with_reducible refine State.ok_kept ?_
    | with_reducible refine kept_ite ?_ ?_
    | split
    | dsimp only

theorem State.monBlp_kept {q₀ : List Instr} {s : State} (h : s.Kept q₀) : (State.monBlp s).Kept q₀ := by
  unfold State.monBlp
  repeat' first
    | with_reducible assumption
    | with_reducible refine State.ok_kept ?_
    | with_reducible refine kept_ite ?_ ?_
    | split
    | dsimp only
    | with_reducible refine kept_monitor ?_

theorem State.monRd_kept {q₀ : List Instr} {s : State} {key : ℕ} (h : s.Kept q₀) : (State.monRd s key).Kept q₀ := by
  unfold State.monRd
  repeat' first
    | with_reducible assumption
    | with_reducible refine State.agentRead_kept ?_
    | with_reducible refine State.says_kept ?_
    | with_reducible refine State.ok_kept ?_
    | with_reducible refine State.err_kept ?_
    | with_reducible refine State.atLevel_kept ?_ (fun _ _ => ?_)
    | with_reducible refine kept_ite ?_ ?_
    | with_reducible refine kept_ite_fst ?_ ?_
    | split
    | refine kept_fst ‹_› ?_
    | dsimp only

theorem State.monTiles_kept {q₀ : List Instr} {s : State} (h : s.Kept q₀) : (State.monTiles s).Kept q₀ := by
  unfold State.monTiles
  repeat' first
    | with_reducible assumption
    | with_reducible refine State.says_kept ?_
    | with_reducible refine State.ok_kept ?_
    | with_reducible refine State.atLevel_kept ?_ (fun _ _ => ?_)
    | with_reducible refine kept_ite ?_ ?_
    | split
    | dsimp only

theorem State.monPorts_kept {q₀ : List Instr} {s : State} {a : ℕ} {b : ℕ} (h : s.Kept q₀) : (State.monPorts s a b).Kept q₀ := by
  unfold State.monPorts
  repeat' first
    | with_reducible assumption
    | with_reducible refine State.says_kept ?_
    | with_reducible refine State.ok_kept ?_
    | with_reducible refine State.atLevel_kept ?_ (fun _ _ => ?_)
    | with_reducible refine State.inBounds_kept ?_ (fun _ _ => ?_)
    | with_reducible refine kept_ite ?_ ?_
    | split
    | dsimp only

theorem State.monBudget_kept {q₀ : List Instr} {s : State} (h : s.Kept q₀) : (State.monBudget s).Kept q₀ := by
  unfold State.monBudget
  repeat' first
    | with_reducible assumption
    | with_reducible refine State.says_kept ?_
    | with_reducible refine State.ok_kept ?_
    | with_reducible refine State.atLevel_kept ?_ (fun _ _ => ?_)
    | with_reducible refine kept_ite ?_ ?_
    | split
    | dsimp only

theorem State.monCapture_kept {q₀ : List Instr} {s : State} {id : ℕ} {vn : ℕ} {n : ℕ} {tags : List (BitVec 64)} (h : s.Kept q₀) : (State.monCapture s id vn n tags).Kept q₀ := by
  unfold State.monCapture
  repeat' first
    | with_reducible assumption
    | with_reducible refine State.says_kept ?_
    | with_reducible refine State.ok_kept ?_
    | with_reducible refine State.atLevel_kept ?_ (fun _ _ => ?_)
    | with_reducible refine State.inBounds_kept ?_ (fun _ _ => ?_)
    | with_reducible refine kept_ite ?_ ?_
    | split
    | dsimp only

theorem State.monEnrol_kept {q₀ : List Instr} {s : State} (h : s.Kept q₀) : (State.monEnrol s).Kept q₀ := by
  unfold State.monEnrol
  repeat' first
    | with_reducible assumption
    | with_reducible refine State.err_kept ?_
    | with_reducible refine State.atLevel_kept ?_ (fun _ _ => ?_)
    | with_reducible refine State.expect_kept ?_
    | with_reducible refine kept_ite ?_ ?_
    | split
    | dsimp only

theorem State.monRecover_kept {q₀ : List Instr} {s : State} {serial6 : List Byte} (h : s.Kept q₀) : (State.monRecover s serial6).Kept q₀ := by
  unfold State.monRecover
  repeat' first
    | with_reducible assumption
    | with_reducible refine State.raise_kept ?_
    | with_reducible refine State.wrPersist_kept ?_
    | with_reducible refine State.ok_kept ?_
    | with_reducible refine State.atLevel_kept ?_ (fun _ _ => ?_)
    | with_reducible refine State.inBounds_kept ?_ (fun _ _ => ?_)
    | with_reducible refine kept_ite ?_ ?_
    | split
    | dsimp only

theorem State.monRecoverCancel_kept {q₀ : List Instr} {s : State} (h : s.Kept q₀) : (State.monRecoverCancel s).Kept q₀ := by
  unfold State.monRecoverCancel
  repeat' first
    | with_reducible assumption
    | with_reducible refine State.wrPersist_kept ?_
    | with_reducible refine State.ok_kept ?_
    | with_reducible refine State.atLevel_kept ?_ (fun _ _ => ?_)
    | with_reducible refine kept_ite ?_ ?_
    | split
    | dsimp only

theorem State.passingTags_kept {q₀ : List Instr} {s : State} {n : ℕ} (h : s.Kept q₀) : (State.passingTags s n).1.Kept q₀ := by
  unfold State.passingTags
  repeat' first
    | with_reducible assumption
    | with_reducible refine State.openBits_kept ?_
    | with_reducible refine kept_foldl ?_ (fun _ _ _ => ?_)
    | with_reducible refine kept_foldl_pair ?_ (fun _ _ _ _ => ?_)
    | with_reducible refine kept_ite ?_ ?_
    | with_reducible refine kept_ite_fst ?_ ?_
    | split
    | refine kept_fst ‹_› ?_
    | dsimp only

theorem State.runWords_kept {q₀ : List Instr} {s : State} {word : MonWord} {args : List (List Byte)} (h : s.Kept q₀) : (State.runWords s word args).Kept q₀ := by
  unfold State.runWords
  repeat' first
    | with_reducible assumption
    | with_reducible refine State.err_kept ?_
    | with_reducible refine State.atLevel_kept ?_ (fun _ _ => ?_)
    | with_reducible refine State.monHelp_kept ?_
    | with_reducible refine State.monId_kept ?_
    | with_reducible refine State.monTime_kept ?_
    | with_reducible refine State.monMode_kept ?_
    | with_reducible refine State.monEvents_kept ?_
    | with_reducible refine State.monUnlock_kept ?_
    | with_reducible refine State.monLock_kept ?_
    | with_reducible refine State.monBlp_kept ?_
    | with_reducible refine State.monRd_kept ?_
    | with_reducible refine State.monTiles_kept ?_
    | with_reducible refine State.monPorts_kept ?_
    | with_reducible refine State.monBudget_kept ?_
    | with_reducible refine State.monCapture_kept ?_
    | with_reducible refine State.monEnrol_kept ?_
    | with_reducible refine State.monRecover_kept ?_
    | with_reducible refine State.monRecoverCancel_kept ?_
    | with_reducible refine State.passingTags_kept ?_
    | with_reducible refine kept_ite ?_ ?_
    | with_reducible refine kept_ite_fst ?_ ?_
    | split
    | refine kept_fst ‹_› ?_
    | dsimp only

theorem State.runLine_kept {q₀ : List Instr} {s : State} (h : s.Kept q₀) : (State.runLine s).Kept q₀ := by
  unfold State.runLine
  repeat' first
    | with_reducible assumption
    | with_reducible refine State.bump_kept ?_
    | with_reducible refine State.arm_kept ?_
    | with_reducible refine State.err_kept ?_
    | with_reducible refine State.runWords_kept ?_
    | with_reducible refine kept_ite ?_ ?_
    | split
    | dsimp only
    | with_reducible refine kept_monitor ?_

theorem State.unlockFailed_kept {q₀ : List Instr} {s : State} (h : s.Kept q₀) : (State.unlockFailed s).Kept q₀ := by
  unfold State.unlockFailed
  repeat' first
    | with_reducible assumption
    | with_reducible refine State.bump_kept ?_
    | with_reducible refine State.arm_kept ?_
    | with_reducible refine State.disarm_kept ?_
    | with_reducible refine State.raiseLimited_kept ?_
    | with_reducible refine State.err_kept ?_
    | with_reducible refine kept_ite ?_ ?_
    | split
    | dsimp only
    | with_reducible refine kept_monitor ?_

theorem State.unlockAnswer_kept {q₀ : List Instr} {s : State} {d : List Byte} (h : s.Kept q₀) : (State.unlockAnswer s d).Kept q₀ := by
  unfold State.unlockAnswer
  repeat' first
    | with_reducible assumption
    | with_reducible refine State.wr_kept ?_
    | with_reducible refine State.disarm_kept ?_
    | with_reducible refine State.raise_kept ?_
    | with_reducible refine State.ok_kept ?_
    | with_reducible refine State.unlockFailed_kept ?_
    | with_reducible refine kept_ite ?_ ?_
    | split
    | dsimp only
    | with_reducible refine kept_monitor ?_

theorem State.enrolAnswer_kept {q₀ : List Instr} {s : State} {d : List Byte} (h : s.Kept q₀) : (State.enrolAnswer s d).Kept q₀ := by
  unfold State.enrolAnswer
  repeat' first
    | with_reducible assumption
    | with_reducible refine State.applyOwnerKey_kept ?_
    | with_reducible refine State.persist_kept ?_
    | with_reducible refine State.ok_kept ?_
    | with_reducible refine State.err_kept ?_
    | with_reducible refine State.expect_kept ?_
    | with_reducible refine kept_ite ?_ ?_
    | split
    | dsimp only

theorem State.takeBlock_kept {q₀ : List Instr} {s : State} {raw : List Byte} (h : s.Kept q₀) : (State.takeBlock s raw).Kept q₀ := by
  unfold State.takeBlock
  repeat' first
    | with_reducible assumption
    | with_reducible refine State.bump_kept ?_
    | with_reducible refine State.disarm_kept ?_
    | with_reducible refine State.says_kept ?_
    | with_reducible refine State.unlockAnswer_kept ?_
    | with_reducible refine State.enrolAnswer_kept ?_
    | with_reducible refine kept_ite ?_ ?_
    | split
    | dsimp only
    | with_reducible refine kept_monitor ?_

theorem State.holdChar_kept {q₀ : List Instr} {s : State} {c : Byte} (h : s.Kept q₀) : (State.holdChar s c).Kept q₀ := by
  unfold State.holdChar
  repeat' first
    | with_reducible assumption
    | with_reducible refine State.bump_kept ?_
    | with_reducible refine kept_ite ?_ ?_
    | split
    | dsimp only
    | with_reducible refine kept_monitor ?_

theorem State.textChar_kept {q₀ : List Instr} {s : State} {c : Byte} (h : s.Kept q₀) : (State.textChar s c).Kept q₀ := by
  unfold State.textChar
  repeat' first
    | with_reducible assumption
    | with_reducible refine State.bump_kept ?_
    | with_reducible refine State.says_kept ?_
    | with_reducible refine State.runLine_kept ?_
    | with_reducible refine kept_ite ?_ ?_
    | split
    | dsimp only
    | with_reducible refine kept_monitor ?_

theorem State.charIn_kept {q₀ : List Instr} {s : State} {c : Byte} (h : s.Kept q₀) : (State.charIn s c).Kept q₀ := by
  unfold State.charIn
  repeat' first
    | with_reducible assumption
    | with_reducible refine State.arm_kept ?_
    | with_reducible refine State.takeBlock_kept ?_
    | with_reducible refine State.holdChar_kept ?_
    | with_reducible refine State.textChar_kept ?_
    | with_reducible refine kept_ite ?_ ?_
    | split
    | dsimp only
    | with_reducible refine kept_monitor ?_

theorem State.drainChars_kept {q₀ : List Instr} {s : State} (h : s.Kept q₀) : (State.drainChars s).Kept q₀ := by
  unfold State.drainChars
  repeat' first
    | with_reducible assumption
    | with_reducible refine State.charIn_kept ?_
    | with_reducible refine kept_foldl ?_ (fun _ _ _ => ?_)
    | with_reducible refine kept_foldl_pair ?_ (fun _ _ _ _ => ?_)
    | with_reducible refine kept_ite ?_ ?_
    | split
    | refine kept_fst ‹_› ?_
    | dsimp only
    | with_reducible refine kept_monitor ?_

theorem State.tryBaud_kept {q₀ : List Instr} {s : State} {c : Byte} {measured : ℕ} {bad : Bool} (h : s.Kept q₀) : (State.tryBaud s c measured bad).Kept q₀ := by
  unfold State.tryBaud
  repeat' first
    | with_reducible assumption
    | with_reducible refine State.wr_kept ?_
    | with_reducible refine State.bump_kept ?_
    | with_reducible refine State.arm_kept ?_
    | with_reducible refine kept_ite ?_ ?_
    | split
    | dsimp only
    | with_reducible refine kept_monitor ?_

theorem execMonCharacter_kept {q₀ : List Instr} {c : BitVec 8} {measured : ℕ} {bad : Bool} {s : State} (h : s.Kept q₀) : ResKept (execMonCharacter c measured bad s) q₀ := by
  unfold execMonCharacter
  repeat' first
    | with_reducible assumption
    | with_reducible refine State.bump_kept ?_
    | with_reducible refine State.arm_kept ?_
    | with_reducible refine State.charIn_kept ?_
    | with_reducible refine State.drainChars_kept ?_
    | with_reducible refine State.tryBaud_kept ?_
    | with_reducible refine resKept_next ?_
    | with_reducible refine kept_ite ?_ ?_
    | with_reducible refine resKept_ite ?_ ?_
    | split
    | dsimp only

theorem execMonBreak_kept {q₀ : List Instr} {ms : ℕ} {s : State} (h : s.Kept q₀) : ResKept (execMonBreak ms s) q₀ := by
  unfold execMonBreak
  repeat' first
    | with_reducible assumption
    | with_reducible refine State.enterAutoBaud_kept ?_
    | with_reducible refine resKept_next ?_
    | with_reducible refine kept_ite ?_ ?_
    | with_reducible refine resKept_ite ?_ ?_
    | split
    | dsimp only

theorem execMonitorIdleTimeout_kept {q₀ : List Instr} {s : State} (h : s.Kept q₀) : ResKept (execMonitorIdleTimeout s) q₀ := by
  unfold execMonitorIdleTimeout
  repeat' first
    | with_reducible assumption
    | with_reducible refine State.wr_kept ?_
    | with_reducible refine State.disarm_kept ?_
    | with_reducible refine State.enterAutoBaud_kept ?_
    | with_reducible refine resKept_next ?_
    | with_reducible refine kept_ite ?_ ?_
    | with_reducible refine resKept_ite ?_ ?_
    | split
    | dsimp only

theorem State.command_kept {q₀ : List Instr} {s : State} {f : State → State} (h : s.Kept q₀) (hf : ∀ a0, a0.Kept q₀ → (f a0).Kept q₀) : (State.command s f).Kept q₀ := by
  unfold State.command
  repeat' first
    | with_reducible assumption
    | with_reducible refine hf _ ?_
    | with_reducible refine State.arm_kept ?_
    | with_reducible refine kept_ite ?_ ?_
    | split
    | dsimp only

theorem execMonHelp_kept {q₀ : List Instr} {s : State} (h : s.Kept q₀) : ResKept (execMonHelp s) q₀ := by
  unfold execMonHelp
  repeat' first
    | with_reducible assumption
    | with_reducible refine State.monHelp_kept ?_
    | with_reducible refine State.command_kept ?_ (fun _ _ => ?_)
    | with_reducible refine resKept_next ?_
    | with_reducible refine kept_ite ?_ ?_
    | with_reducible refine resKept_ite ?_ ?_
    | split
    | dsimp only

theorem execMonId_kept {q₀ : List Instr} {s : State} (h : s.Kept q₀) : ResKept (execMonId s) q₀ := by
  unfold execMonId
  repeat' first
    | with_reducible assumption
    | with_reducible refine State.monId_kept ?_
    | with_reducible refine State.command_kept ?_ (fun _ _ => ?_)
    | with_reducible refine resKept_next ?_
    | with_reducible refine kept_ite ?_ ?_
    | with_reducible refine resKept_ite ?_ ?_
    | split
    | dsimp only

theorem execMonTime_kept {q₀ : List Instr} {s : State} (h : s.Kept q₀) : ResKept (execMonTime s) q₀ := by
  unfold execMonTime
  repeat' first
    | with_reducible assumption
    | with_reducible refine State.monTime_kept ?_
    | with_reducible refine State.command_kept ?_ (fun _ _ => ?_)
    | with_reducible refine resKept_next ?_
    | with_reducible refine kept_ite ?_ ?_
    | with_reducible refine resKept_ite ?_ ?_
    | split
    | dsimp only

theorem execMonMode_kept {q₀ : List Instr} {s : State} (h : s.Kept q₀) : ResKept (execMonMode s) q₀ := by
  unfold execMonMode
  repeat' first
    | with_reducible assumption
    | with_reducible refine State.monMode_kept ?_
    | with_reducible refine State.command_kept ?_ (fun _ _ => ?_)
    | with_reducible refine resKept_next ?_
    | with_reducible refine kept_ite ?_ ?_
    | with_reducible refine resKept_ite ?_ ?_
    | split
    | dsimp only

theorem execMonEvents_kept {q₀ : List Instr} {n : ℕ} {s : State} (h : s.Kept q₀) : ResKept (execMonEvents n s) q₀ := by
  unfold execMonEvents
  repeat' first
    | with_reducible assumption
    | with_reducible refine State.monEvents_kept ?_
    | with_reducible refine State.command_kept ?_ (fun _ _ => ?_)
    | with_reducible refine resKept_next ?_
    | with_reducible refine kept_ite ?_ ?_
    | with_reducible refine resKept_ite ?_ ?_
    | split
    | dsimp only

theorem execMonUnlock_kept {q₀ : List Instr} {n : ℕ} {s : State} (h : s.Kept q₀) : ResKept (execMonUnlock n s) q₀ := by
  unfold execMonUnlock
  repeat' first
    | with_reducible assumption
    | with_reducible refine State.monUnlock_kept ?_
    | with_reducible refine State.command_kept ?_ (fun _ _ => ?_)
    | with_reducible refine resKept_next ?_
    | with_reducible refine kept_ite ?_ ?_
    | with_reducible refine resKept_ite ?_ ?_
    | split
    | dsimp only

theorem execMonLock_kept {q₀ : List Instr} {s : State} (h : s.Kept q₀) : ResKept (execMonLock s) q₀ := by
  unfold execMonLock
  repeat' first
    | with_reducible assumption
    | with_reducible refine State.monLock_kept ?_
    | with_reducible refine State.command_kept ?_ (fun _ _ => ?_)
    | with_reducible refine resKept_next ?_
    | with_reducible refine kept_ite ?_ ?_
    | with_reducible refine resKept_ite ?_ ?_
    | split
    | dsimp only

theorem execMonBlp_kept {q₀ : List Instr} {s : State} (h : s.Kept q₀) : ResKept (execMonBlp s) q₀ := by
  unfold execMonBlp
  repeat' first
    | with_reducible assumption
    | with_reducible refine State.monBlp_kept ?_
    | with_reducible refine State.command_kept ?_ (fun _ _ => ?_)
    | with_reducible refine resKept_next ?_
    | with_reducible refine kept_ite ?_ ?_
    | with_reducible refine resKept_ite ?_ ?_
    | split
    | dsimp only

theorem execMonRd_kept {q₀ : List Instr} {key : BitVec 24} {s : State} (h : s.Kept q₀) : ResKept (execMonRd key s) q₀ := by
  unfold execMonRd
  repeat' first
    | with_reducible assumption
    | with_reducible refine State.monRd_kept ?_
    | with_reducible refine State.command_kept ?_ (fun _ _ => ?_)
    | with_reducible refine resKept_next ?_
    | with_reducible refine kept_ite ?_ ?_
    | with_reducible refine resKept_ite ?_ ?_
    | split
    | dsimp only

theorem execMonTiles_kept {q₀ : List Instr} {s : State} (h : s.Kept q₀) : ResKept (execMonTiles s) q₀ := by
  unfold execMonTiles
  repeat' first
    | with_reducible assumption
    | with_reducible refine State.monTiles_kept ?_
    | with_reducible refine State.command_kept ?_ (fun _ _ => ?_)
    | with_reducible refine resKept_next ?_
    | with_reducible refine kept_ite ?_ ?_
    | with_reducible refine resKept_ite ?_ ?_
    | split
    | dsimp only

theorem execMonPorts_kept {q₀ : List Instr} {a : ℕ} {b : ℕ} {s : State} (h : s.Kept q₀) : ResKept (execMonPorts a b s) q₀ := by
  unfold execMonPorts
  repeat' first
    | with_reducible assumption
    | with_reducible refine State.monPorts_kept ?_
    | with_reducible refine State.command_kept ?_ (fun _ _ => ?_)
    | with_reducible refine resKept_next ?_
    | with_reducible refine kept_ite ?_ ?_
    | with_reducible refine resKept_ite ?_ ?_
    | split
    | dsimp only

theorem execMonBudget_kept {q₀ : List Instr} {s : State} (h : s.Kept q₀) : ResKept (execMonBudget s) q₀ := by
  unfold execMonBudget
  repeat' first
    | with_reducible assumption
    | with_reducible refine State.monBudget_kept ?_
    | with_reducible refine State.command_kept ?_ (fun _ _ => ?_)
    | with_reducible refine resKept_next ?_
    | with_reducible refine kept_ite ?_ ?_
    | with_reducible refine resKept_ite ?_ ?_
    | split
    | dsimp only

theorem execMonCapture_kept {q₀ : List Instr} {id : ℕ} {vn : ℕ} {n : ℕ} {tags : List (BitVec 64)} {s : State} (h : s.Kept q₀) : ResKept (execMonCapture id vn n tags s) q₀ := by
  unfold execMonCapture
  repeat' first
    | with_reducible assumption
    | with_reducible refine State.monCapture_kept ?_
    | with_reducible refine State.command_kept ?_ (fun _ _ => ?_)
    | with_reducible refine resKept_next ?_
    | with_reducible refine kept_ite ?_ ?_
    | with_reducible refine resKept_ite ?_ ?_
    | split
    | dsimp only

theorem execMonEnrol_kept {q₀ : List Instr} {s : State} (h : s.Kept q₀) : ResKept (execMonEnrol s) q₀ := by
  unfold execMonEnrol
  repeat' first
    | with_reducible assumption
    | with_reducible refine State.monEnrol_kept ?_
    | with_reducible refine State.command_kept ?_ (fun _ _ => ?_)
    | with_reducible refine resKept_next ?_
    | with_reducible refine kept_ite ?_ ?_
    | with_reducible refine resKept_ite ?_ ?_
    | split
    | dsimp only

theorem execMonRecover_kept {q₀ : List Instr} {serial6 : List Byte} {s : State} (h : s.Kept q₀) : ResKept (execMonRecover serial6 s) q₀ := by
  unfold execMonRecover
  repeat' first
    | with_reducible assumption
    | with_reducible refine State.monRecover_kept ?_
    | with_reducible refine State.command_kept ?_ (fun _ _ => ?_)
    | with_reducible refine resKept_next ?_
    | with_reducible refine kept_ite ?_ ?_
    | with_reducible refine resKept_ite ?_ ?_
    | split
    | dsimp only

theorem execMonRecoverCancel_kept {q₀ : List Instr} {s : State} (h : s.Kept q₀) : ResKept (execMonRecoverCancel s) q₀ := by
  unfold execMonRecoverCancel
  repeat' first
    | with_reducible assumption
    | with_reducible refine State.monRecoverCancel_kept ?_
    | with_reducible refine State.command_kept ?_ (fun _ _ => ?_)
    | with_reducible refine resKept_next ?_
    | with_reducible refine kept_ite ?_ ?_
    | with_reducible refine resKept_ite ?_ ?_
    | split
    | dsimp only

theorem execChallengeResponse_kept {q₀ : List Instr} {raw : List Byte} {s : State} (h : s.Kept q₀) : ResKept (execChallengeResponse raw s) q₀ := by
  unfold execChallengeResponse
  repeat' first
    | with_reducible assumption
    | with_reducible refine State.arm_kept ?_
    | with_reducible refine State.takeBlock_kept ?_
    | with_reducible refine State.drainChars_kept ?_
    | with_reducible refine resKept_next ?_
    | with_reducible refine kept_ite ?_ ?_
    | with_reducible refine resKept_ite ?_ ?_
    | split
    | dsimp only

theorem execChallengeTimeout_kept {q₀ : List Instr} {s : State} (h : s.Kept q₀) : ResKept (execChallengeTimeout s) q₀ := by
  unfold execChallengeTimeout
  repeat' first
    | with_reducible assumption
    | with_reducible refine State.unlockFailed_kept ?_
    | with_reducible refine State.drainChars_kept ?_
    | with_reducible refine resKept_next ?_
    | with_reducible refine kept_ite ?_ ?_
    | with_reducible refine resKept_ite ?_ ?_
    | split
    | dsimp only

theorem execUnlockBackoffExpiry_kept {q₀ : List Instr} {s : State} (h : s.Kept q₀) : ResKept (execUnlockBackoffExpiry s) q₀ := by
  unfold execUnlockBackoffExpiry
  repeat' first
    | with_reducible assumption
    | with_reducible refine State.disarm_kept ?_
    | with_reducible refine resKept_next ?_
    | with_reducible refine kept_ite ?_ ?_
    | with_reducible refine resKept_ite ?_ ?_
    | split
    | dsimp only
    | with_reducible refine kept_monitor ?_

theorem execBinaryBlock_kept {q₀ : List Instr} {raw : List Byte} {s : State} (h : s.Kept q₀) : ResKept (execBinaryBlock raw s) q₀ := by
  unfold execBinaryBlock
  repeat' first
    | with_reducible assumption
    | with_reducible refine State.arm_kept ?_
    | with_reducible refine State.takeBlock_kept ?_
    | with_reducible refine State.drainChars_kept ?_
    | with_reducible refine resKept_next ?_
    | with_reducible refine kept_ite ?_ ?_
    | with_reducible refine resKept_ite ?_ ?_
    | split
    | dsimp only

theorem execBlockTimeout_kept {q₀ : List Instr} {s : State} (h : s.Kept q₀) : ResKept (execBlockTimeout s) q₀ := by
  unfold execBlockTimeout
  repeat' first
    | with_reducible assumption
    | with_reducible refine State.bump_kept ?_
    | with_reducible refine State.disarm_kept ?_
    | with_reducible refine resKept_next ?_
    | with_reducible refine kept_ite ?_ ?_
    | with_reducible refine resKept_ite ?_ ?_
    | split
    | dsimp only
    | with_reducible refine kept_monitor ?_

end Sys2Proof.Machine
end

