-- ==== Sys2Proof/Laws/KeptUpgrade.lean ====
section
/-! SUPPORT. Laws/KeptUpgrade.lean: every operation of Machine/Upgrade.lean keeps the queue and the canonical form. -/

namespace Sys2Proof.Machine

theorem State.activationTo_kept {q₀ : List Instr} {s : State} {state : ℕ} (h : s.Kept q₀) : (State.activationTo s state).Kept q₀ := by
  unfold State.activationTo
  repeat' first
    | with_reducible assumption
    | with_reducible refine State.wr_kept ?_
    | with_reducible refine kept_ite ?_ ?_
    | split
    | dsimp only

theorem State.recosted_kept {q₀ : List Instr} {s : State} {p : Option Patch} (h : s.Kept q₀) : (State.recosted s p).Kept q₀ := by
  unfold State.recosted
  repeat' first
    | with_reducible assumption
    | with_reducible refine kept_ite ?_ ?_
    | split
    | dsimp only
    | with_reducible refine kept_trowel ?_

theorem execPreparationComplete_kept {q₀ : List Instr} {readBad : Bool} {loadBad : Bool} {s : State} (h : s.Kept q₀) : ResKept (execPreparationComplete readBad loadBad s) q₀ := by
  unfold execPreparationComplete
  repeat' first
    | with_reducible assumption
    | with_reducible refine State.wr_kept ?_
    | with_reducible refine State.noteSlot_kept ?_
    | with_reducible refine State.abortActivation_kept ?_
    | with_reducible refine resKept_next ?_
    | with_reducible refine kept_ite ?_ ?_
    | with_reducible refine resKept_ite ?_ ?_
    | split
    | dsimp only
    | with_reducible refine kept_activation ?_

theorem kept_storeDomDel_trowel {q : List Instr} {s : State} (h : s.Kept q) {k : ℕ} {x : Trowel} :
    State.Kept { s with trowel := x, storeDoms := tblDel s.storeDoms k } q :=
  kept_storeDomDel (s := { s with trowel := x }) (kept_trowel h)

theorem State.switchComponents_kept {q₀ : List Instr} {s : State} (h : s.Kept q₀) : (State.switchComponents s).Kept q₀ := by
  unfold State.switchComponents
  extract_lets s1 p s2 trowel s3
  have k1 : s1.Kept q₀ := State.activationTo_kept h
  split
  · exact k1
  · refine State.wr_kept (State.wr_kept ?_)
    exact kept_storeDomDel_trowel (State.setDom_kept (State.recosted_kept k1))


theorem State.switchDue_kept {q₀ : List Instr} {s : State} (h : s.Kept q₀) : (State.switchDue s).Kept q₀ := by
  unfold State.switchDue
  repeat' first
    | with_reducible assumption
    | with_reducible refine State.switchComponents_kept ?_
    | with_reducible refine kept_ite ?_ ?_
    | split
    | dsimp only

theorem execSwitchBoundary_kept {q₀ : List Instr} {s : State} (h : s.Kept q₀) : ResKept (execSwitchBoundary s) q₀ := by
  unfold execSwitchBoundary
  repeat' first
    | with_reducible assumption
    | with_reducible refine State.switchDue_kept ?_
    | with_reducible refine resKept_next ?_
    | with_reducible refine kept_ite ?_ ?_
    | with_reducible refine resKept_ite ?_ ?_
    | split
    | dsimp only

theorem execTileHandoverComplete_kept {q₀ : List Instr} {t1 : TileId} {s : State} (h : s.Kept q₀) : ResKept (execTileHandoverComplete t1 s) q₀ := by
  unfold execTileHandoverComplete
  repeat' first
    | with_reducible assumption
    | with_reducible refine resKept_next ?_
    | with_reducible refine kept_ite ?_ ?_
    | with_reducible refine resKept_ite ?_ ?_
    | split
    | dsimp only
    | with_reducible refine kept_activation ?_

theorem execKeystoneHandover_kept {q₀ : List Instr} {s : State} (h : s.Kept q₀) : ResKept (execKeystoneHandover s) q₀ := by
  unfold execKeystoneHandover
  repeat' first
    | with_reducible assumption
    | with_reducible refine State.arm_kept ?_
    | with_reducible refine State.activationTo_kept ?_
    | with_reducible refine resKept_next ?_
    | with_reducible refine kept_ite ?_ ?_
    | with_reducible refine resKept_ite ?_ ?_
    | split
    | dsimp only
    | with_reducible refine kept_servo_agent ?_

theorem State.pauseIdle_kept {q₀ : List Instr} {s : State} (h : s.Kept q₀) : (State.pauseIdle s).Kept q₀ := by
  unfold State.pauseIdle
  repeat' first
    | with_reducible assumption
    | with_reducible refine kept_ite ?_ ?_
    | split
    | dsimp only
    | with_reducible refine kept_timers ?_

theorem State.endHandover_kept {q₀ : List Instr} {s : State} (h : s.Kept q₀) : (State.endHandover s).Kept q₀ := by
  unfold State.endHandover
  repeat' first
    | with_reducible assumption
    | with_reducible refine State.disarm_kept ?_
    | with_reducible refine State.setPtp_kept ?_
    | with_reducible refine State.ptpProcess_kept ?_
    | with_reducible refine State.ptpFollowUp_kept ?_
    | with_reducible refine State.serveHeld_kept ?_
    | with_reducible refine State.drainChars_kept ?_
    | with_reducible refine State.pauseIdle_kept ?_
    | with_reducible refine kept_foldl ?_ (fun _ _ _ => ?_)
    | with_reducible refine kept_foldl_pair ?_ (fun _ _ _ _ => ?_)
    | with_reducible refine kept_ite ?_ ?_
    | split
    | refine kept_fst ‹_› ?_
    | dsimp only
    | with_reducible refine kept_servo_agent ?_

theorem execKeystoneHandoverEnd_kept {q₀ : List Instr} {s : State} (h : s.Kept q₀) : ResKept (execKeystoneHandoverEnd s) q₀ := by
  unfold execKeystoneHandoverEnd
  repeat' first
    | with_reducible assumption
    | with_reducible refine State.activationTo_kept ?_
    | with_reducible refine State.endHandover_kept ?_
    | with_reducible refine resKept_next ?_
    | with_reducible refine kept_ite ?_ ?_
    | with_reducible refine resKept_ite ?_ ?_
    | split
    | dsimp only
    | with_reducible refine kept_activation ?_

theorem execActivationComplete_kept {q₀ : List Instr} {s : State} (h : s.Kept q₀) : ResKept (execActivationComplete s) q₀ := by
  unfold execActivationComplete
  repeat' first
    | with_reducible assumption
    | with_reducible refine State.wr_kept ?_
    | with_reducible refine State.raise_kept ?_
    | with_reducible refine State.renewAlias_kept ?_
    | with_reducible refine State.showVersions_kept ?_
    | with_reducible refine resKept_next ?_
    | with_reducible refine kept_ite ?_ ?_
    | with_reducible refine resKept_ite ?_ ?_
    | split
    | dsimp only
    | with_reducible refine kept_boot_activation ?_
    | with_reducible refine kept_boot ?_

theorem execActivationRolledBack_kept {q₀ : List Instr} {type : Fin 6} {t1 : TileId} {s : State} (h : s.Kept q₀) : ResKept (execActivationRolledBack type t1 s) q₀ := by
  unfold execActivationRolledBack
  repeat' first
    | with_reducible assumption
    | with_reducible refine State.wr_kept ?_
    | with_reducible refine State.raise_kept ?_
    | with_reducible refine State.activationTo_kept ?_
    | with_reducible refine State.recosted_kept ?_
    | with_reducible refine State.endHandover_kept ?_
    | with_reducible refine resKept_next ?_
    | with_reducible refine kept_ite ?_ ?_
    | with_reducible refine resKept_ite ?_ ?_
    | split
    | dsimp only
    | with_reducible refine kept_trowel ?_

theorem State.rollbackDue_kept {q₀ : List Instr} {s : State} (h : s.Kept q₀) : (State.rollbackDue s).Kept q₀ := by
  unfold State.rollbackDue
  repeat' first
    | with_reducible assumption
    | with_reducible refine State.wr_kept ?_
    | with_reducible refine kept_ite ?_ ?_
    | split
    | dsimp only
    | with_reducible refine kept_activation ?_

theorem execFastWakeDigest_kept {q₀ : List Instr} {t1 : Fin 16} {digest : List Byte} {s : State} (h : s.Kept q₀) : ResKept (execFastWakeDigest t1 digest s) q₀ := by
  unfold execFastWakeDigest
  repeat' first
    | with_reducible assumption
    | with_reducible refine State.wr_kept ?_
    | with_reducible refine State.raise_kept ?_
    | with_reducible refine resKept_next ?_
    | with_reducible refine kept_ite ?_ ?_
    | with_reducible refine resKept_ite ?_ ?_
    | split
    | dsimp only

theorem execReloadComplete_kept {q₀ : List Instr} {t1 : Fin 16} {s : State} (h : s.Kept q₀) : ResKept (execReloadComplete t1 s) q₀ := by
  unfold execReloadComplete
  repeat' first
    | with_reducible assumption
    | with_reducible refine State.wr_kept ?_
    | with_reducible refine resKept_next ?_
    | with_reducible refine kept_ite ?_ ?_
    | with_reducible refine resKept_ite ?_ ?_
    | split
    | dsimp only
    | with_reducible refine kept_boot ?_

end Sys2Proof.Machine
end

