-- ==== Sys2Proof/Laws/KeptBoundary.lean ====
section
/-! SUPPORT. Laws/KeptBoundary.lean: every operation of Machine/Boundary.lean keeps the queue and the canonical form. -/

namespace Sys2Proof.Machine

theorem State.comeIntoForce_kept {q₀ : List Instr} {s : State} {signed : Bool} {i : Item} (h : s.Kept q₀) : (State.comeIntoForce s signed i).Kept q₀ := by
  unfold State.comeIntoForce
  repeat' first
    | with_reducible assumption
    | with_reducible refine State.applyItem_kept ?_
    | with_reducible refine State.applySigned_kept ?_
    | with_reducible refine kept_ite ?_ ?_
    | split
    | dsimp only

theorem State.deliverItem_kept {q₀ : List Instr} {s : State} {signed : Bool} {i : Item} (h : s.Kept q₀) : (State.deliverItem s signed i).Kept q₀ := by
  unfold State.deliverItem
  repeat' first
    | with_reducible assumption
    | with_reducible refine State.carry_kept ?_
    | with_reducible refine State.comeIntoForce_kept ?_
    | with_reducible refine kept_foldl ?_ (fun _ _ _ => ?_)
    | with_reducible refine kept_foldl_pair ?_ (fun _ _ _ _ => ?_)
    | with_reducible refine kept_ite ?_ ?_
    | split
    | refine kept_fst ‹_› ?_
    | dsimp only
    | with_reducible refine kept_agent ?_

theorem State.resendItem_kept {q₀ : List Instr} {s : State} {d : Delivery} (h : s.Kept q₀) : (State.resendItem s d).Kept q₀ := by
  unfold State.resendItem
  repeat' first
    | with_reducible assumption
    | with_reducible refine State.bump_kept ?_
    | with_reducible refine State.raiseLimited_kept ?_
    | with_reducible refine State.carry_kept ?_
    | with_reducible refine State.tileFault_kept ?_
    | with_reducible refine State.comeIntoForce_kept ?_
    | with_reducible refine kept_ite ?_ ?_
    | split
    | dsimp only
    | with_reducible refine kept_agent ?_

theorem State.resendLost_kept {q₀ : List Instr} {s : State} (h : s.Kept q₀) : (State.resendLost s).Kept q₀ := by
  unfold State.resendLost
  repeat' first
    | with_reducible assumption
    | with_reducible refine State.resendItem_kept ?_
    | with_reducible refine kept_foldl ?_ (fun _ _ _ => ?_)
    | with_reducible refine kept_foldl_pair ?_ (fun _ _ _ _ => ?_)
    | with_reducible refine kept_ite ?_ ?_
    | split
    | refine kept_fst ‹_› ?_
    | dsimp only
    | with_reducible refine kept_agent ?_

theorem State.shiftCourses_kept {q₀ : List Instr} {s0 : State} {d : ℕ} (h : s0.Kept q₀) : (State.shiftCourses s0 d).Kept q₀ := by
  unfold State.shiftCourses
  repeat' first
    | with_reducible assumption
    | with_reducible refine State.mapSeen_kept ?_
    | with_reducible refine kept_ite ?_ ?_
    | split
    | dsimp only
    | with_reducible refine kept_timers_agent_log_switch_modeChange_fwd_classify_trowel_host_slices_storage_rdma_keystone_activation ?_ rfl rfl rfl

theorem State.markDue_kept {q₀ : List Instr} {s : State} (h : s.Kept q₀) : (State.markDue s).Kept q₀ := by
  unfold State.markDue
  repeat' first
    | with_reducible assumption
    | with_reducible refine kept_ite ?_ ?_
    | split
    | dsimp only
    | with_reducible refine kept_agent ?_

theorem State.shiftEdges_kept {q₀ : List Instr} {s : State} {d : ℤ} (h : s.Kept q₀) : (State.shiftEdges s d).Kept q₀ := by
  unfold State.shiftEdges
  repeat' first
    | with_reducible assumption
    | with_reducible refine kept_ite ?_ ?_
    | split
    | dsimp only
    | with_reducible refine kept_pins ?_

theorem State.timeStep_kept {q₀ : List Instr} {s : State} (h : s.Kept q₀) : (State.timeStep s).Kept q₀ := by
  unfold State.timeStep
  repeat' first
    | with_reducible assumption
    | with_reducible refine State.servoHistory_kept ?_
    | with_reducible refine State.servoBoundary_kept ?_
    | with_reducible refine State.timeActions_kept ?_
    | with_reducible refine State.shiftCourses_kept ?_
    | with_reducible refine State.shiftEdges_kept ?_
    | with_reducible refine kept_ite ?_ ?_
    | split
    | dsimp only
    | with_reducible refine kept_clock ?_

theorem State.takeSnapshot_kept {q₀ : List Instr} {s : State} (h : s.Kept q₀) : (State.takeSnapshot s).Kept q₀ := by
  unfold State.takeSnapshot
  repeat' first
    | with_reducible assumption
    | with_reducible refine State.wr_kept ?_
    | with_reducible refine forEach_kept ?_ (fun _ _ _ => ?_)
    | with_reducible refine kept_foldl ?_ (fun _ _ _ => ?_)
    | with_reducible refine kept_foldl_pair ?_ (fun _ _ _ _ => ?_)
    | with_reducible refine kept_ite ?_ ?_
    | split
    | refine kept_fst ‹_› ?_
    | dsimp only
    | with_reducible refine kept_snapshot_snapshotDoms ?_
    | with_reducible refine kept_clock ?_

theorem execCounterSnapshot_kept {q₀ : List Instr} {s : State} (h : s.Kept q₀) : ResKept (execCounterSnapshot s) q₀ := by
  unfold execCounterSnapshot
  repeat' first
    | with_reducible assumption
    | with_reducible refine State.restartMaxima_kept ?_
    | with_reducible refine State.takeSnapshot_kept ?_
    | with_reducible refine resKept_next ?_
    | with_reducible refine kept_ite ?_ ?_
    | with_reducible refine resKept_ite ?_ ?_
    | split
    | dsimp only

theorem State.safeDue_kept {q₀ : List Instr} {s : State} (h : s.Kept q₀) : (State.safeDue s).Kept q₀ := by
  unfold State.safeDue
  repeat' first
    | with_reducible assumption
    | with_reducible refine kept_ite ?_ ?_
    | split
    | dsimp only
    | with_reducible refine kept_modeChange ?_

theorem State.patchStep_kept {q₀ : List Instr} {s : State} (h : s.Kept q₀) : (State.patchStep s).Kept q₀ := by
  unfold State.patchStep
  repeat' first
    | with_reducible assumption
    | with_reducible refine State.deliverItem_kept ?_
    | with_reducible refine kept_foldl ?_ (fun _ _ _ => ?_)
    | with_reducible refine kept_foldl_pair ?_ (fun _ _ _ _ => ?_)
    | with_reducible refine kept_ite ?_ ?_
    | split
    | refine kept_fst ‹_› ?_
    | dsimp only

theorem State.crsStep_kept {q₀ : List Instr} {s : State} (h : s.Kept q₀) : (State.crsStep s).Kept q₀ := by
  unfold State.crsStep
  repeat' first
    | with_reducible assumption
    | with_reducible refine State.deliverItem_kept ?_
    | with_reducible refine kept_foldl ?_ (fun _ _ _ => ?_)
    | with_reducible refine kept_foldl_pair ?_ (fun _ _ _ _ => ?_)
    | with_reducible refine kept_ite ?_ ?_
    | split
    | refine kept_fst ‹_› ?_
    | dsimp only
    | with_reducible refine kept_agent ?_

theorem State.commitApplies_kept {q₀ : List Instr} {s : State} {c : Commit} (h : s.Kept q₀) : (State.commitApplies s c).Kept q₀ := by
  unfold State.commitApplies
  repeat' first
    | with_reducible assumption
    | with_reducible refine State.raise_kept ?_
    | with_reducible refine State.leaveRecovery_kept ?_
    | with_reducible refine State.deliverItem_kept ?_
    | with_reducible refine kept_foldl ?_ (fun _ _ _ => ?_)
    | with_reducible refine kept_foldl_pair ?_ (fun _ _ _ _ => ?_)
    | with_reducible refine kept_ite ?_ ?_
    | split
    | refine kept_fst ‹_› ?_
    | dsimp only
    | with_reducible refine kept_keystone ?_

theorem State.commitStep_kept {q₀ : List Instr} {s : State} (h : s.Kept q₀) : (State.commitStep s).Kept q₀ := by
  unfold State.commitStep
  repeat' first
    | with_reducible assumption
    | with_reducible refine State.commitApplies_kept ?_
    | with_reducible refine kept_foldl ?_ (fun _ _ _ => ?_)
    | with_reducible refine kept_foldl_pair ?_ (fun _ _ _ _ => ?_)
    | with_reducible refine kept_ite ?_ ?_
    | split
    | refine kept_fst ‹_› ?_
    | dsimp only
    | with_reducible refine kept_agent ?_

theorem State.putBack_kept {q₀ : List Instr} {s : State} {fuel : Reload} (h : s.Kept q₀) : (State.putBack s fuel).Kept q₀ := by
  unfold State.putBack
  repeat' first
    | with_reducible assumption
    | with_reducible refine State.setDom_kept ?_
    | with_reducible refine State.setFdb_kept ?_
    | with_reducible refine State.setTernary_kept ?_
    | with_reducible refine State.setExact_kept ?_
    | with_reducible refine State.setPolicer_kept ?_
    | with_reducible refine kept_ite ?_ ?_
    | split
    | dsimp only

theorem State.reloadTables_kept {q₀ : List Instr} {s : State} (h : s.Kept q₀) : (State.reloadTables s).Kept q₀ := by
  unfold State.reloadTables
  repeat' first
    | with_reducible assumption
    | with_reducible refine State.bump_kept ?_
    | with_reducible refine State.raiseLimited_kept ?_
    | with_reducible refine State.putBack_kept ?_
    | with_reducible refine kept_foldl ?_ (fun _ _ _ => ?_)
    | with_reducible refine kept_foldl_pair ?_ (fun _ _ _ _ => ?_)
    | with_reducible refine kept_ite ?_ ?_
    | split
    | refine kept_fst ‹_› ?_
    | dsimp only
    | with_reducible refine kept_service ?_

theorem State.after_kept {q₀ : List Instr} {s : State} {r : Res} (h : s.Kept q₀) (hr : ResKept r q₀) :
    (State.after s r).Kept q₀ := by
  cases r with
  | next t => exact hr t rfl
  | fault _ => exact h
  | refused _ => exact h


theorem State.expire_kept {q₀ : List Instr} {s : State} {key : ℕ} (h : s.Kept q₀) : (State.expire s key).Kept q₀ := by
  unfold State.expire
  refine State.after_kept h ?_
  split
  all_goals with_reducible first
    | exact execSourceTimeout_kept h
    | exact execSourceQualified_kept h
    | exact execNegotiationTime_kept h
    | exact execNegotiationRetry_kept h
    | exact execAnnounceReceiptTimeout_kept h
    | exact execHoldOffTime_kept h
    | exact execWaitToRestore_kept h
    | exact execAnAttemptTimeout_kept h
    | exact execAnRetryInterval_kept h
    | exact execTrainingTimeout_kept h
    | exact execLldpTtlExpiry_kept h
    | exact execLldpTxInterval_kept h
    | exact execHelloInterval_kept h
    | exact execNeighbourLost_kept h
    | exact execNodeForgetTime_kept h
    | exact execRedundancyDegraded_kept h
    | exact execCompletionTimeout_kept h
    | exact execBackingTimeout_kept h
    | exact execApstIdleTimer_kept h
    | exact execLocalAckTimeout_kept h
    | exact execRnrTimer_kept h
    | exact execOpenFinishTimeout_kept h
    | exact execOpenBlockExpiry_kept h
    | exact execSessionIdleTimeout_kept h
    | exact execSessionLifetime_kept h
    | exact execTransferTimeout_kept h
    | exact execChallengeTimeout_kept h
    | exact execUnlockBackoffExpiry_kept h
    | exact execMonitorIdleTimeout_kept h
    | exact execBlockTimeout_kept h
    | exact execExpectTimeout_kept h
    | exact execLinkUpHold_kept h
    | exact execPfcStorm_kept h
    | exact execStormRestore_kept h
    | exact resKept_next (State.reconnectDue_kept h)
    | exact resKept_next h


theorem State.timerStep_kept {q₀ : List Instr} {s : State} (h : s.Kept q₀) : (State.timerStep s).Kept q₀ := by
  unfold State.timerStep
  repeat' first
    | with_reducible assumption
    | with_reducible refine State.lossChange_kept ?_
    | with_reducible refine State.expire_kept ?_
    | with_reducible refine kept_foldl ?_ (fun _ _ _ => ?_)
    | with_reducible refine kept_foldl_pair ?_ (fun _ _ _ _ => ?_)
    | with_reducible refine kept_ite ?_ ?_
    | split
    | refine kept_fst ‹_› ?_
    | dsimp only

theorem State.measureStep_kept {q₀ : List Instr} {s : State} (h : s.Kept q₀) : (State.measureStep s).Kept q₀ := by
  unfold State.measureStep
  repeat' first
    | with_reducible assumption
    | with_reducible refine forEach_kept ?_ (fun _ _ _ => ?_)
    | with_reducible refine State.resolveDcbx_kept ?_
    | with_reducible refine State.linksDownDue_kept ?_
    | with_reducible refine State.redBoundary_kept ?_
    | with_reducible refine State.wallBoundary_kept ?_
    | with_reducible refine State.sampleQueues_kept ?_
    | with_reducible refine State.restartMaxima_kept ?_
    | with_reducible refine State.rdmaBoundary_kept ?_
    | with_reducible refine State.takeSnapshot_kept ?_
    | with_reducible refine State.timerStep_kept ?_
    | with_reducible refine kept_ite ?_ ?_
    | split
    | dsimp only
    | with_reducible refine kept_clock ?_

theorem State.creditStep_kept {q₀ : List Instr} {s : State} (h : s.Kept q₀) : (State.creditStep s).Kept q₀ := by
  unfold State.creditStep
  repeat' first
    | with_reducible assumption
    | with_reducible refine State.exactCredit_kept ?_
    | with_reducible refine State.exceptionTokens_kept ?_
    | with_reducible refine State.fwdBoundary_kept ?_
    | with_reducible refine State.gateBoundary_kept ?_
    | with_reducible refine State.shaperBoundary_kept ?_
    | with_reducible refine kept_ite ?_ ?_
    | split
    | dsimp only
    | with_reducible refine kept_switch ?_
    | with_reducible refine kept_classify ?_

theorem State.releaseStep_kept {q₀ : List Instr} {s : State} (h : s.Kept q₀) : (State.releaseStep s).Kept q₀ := by
  unfold State.releaseStep
  repeat' first
    | with_reducible assumption
    | with_reducible refine forEach_kept ?_ (fun _ _ _ => ?_)
    | with_reducible refine State.releaseAligned_kept ?_
    | with_reducible refine kept_ite ?_ ?_
    | split
    | dsimp only

theorem State.eventStep_kept {q₀ : List Instr} {s : State} (h : s.Kept q₀) : (State.eventStep s).Kept q₀ := by
  unfold State.eventStep
  repeat' first
    | with_reducible assumption
    | with_reducible refine State.emit_kept ?_
    | with_reducible refine forEach_kept ?_ (fun _ _ _ => ?_)
    | with_reducible refine State.setPipe_kept ?_
    | with_reducible refine kept_ite ?_ ?_
    | split
    | dsimp only

theorem State.afterStep_kept {q₀ : List Instr} {s : State} (h : s.Kept q₀) : (State.afterStep s).Kept q₀ := by
  unfold State.afterStep
  repeat' first
    | with_reducible assumption
    | with_reducible refine forEach_kept ?_ (fun _ _ _ => ?_)
    | with_reducible refine State.helloCheck_kept ?_
    | with_reducible refine State.pinsOfAbsentLinks_kept ?_
    | with_reducible refine State.ssdPower_kept ?_
    | with_reducible refine State.notifyAll_kept ?_
    | with_reducible refine kept_ite ?_ ?_
    | split
    | dsimp only

theorem State.configStep_kept {q₀ : List Instr} {s : State} (h : s.Kept q₀) : (State.configStep s).Kept q₀ := by
  unfold State.configStep
  repeat' first
    | with_reducible assumption
    | with_reducible refine State.syncBoundary_kept ?_
    | with_reducible refine State.pinsBoundary_kept ?_
    | with_reducible refine State.dirtyBoundary_kept ?_
    | with_reducible refine State.modeBoundary_kept ?_
    | with_reducible refine State.startupCheck_kept ?_
    | with_reducible refine State.switchDue_kept ?_
    | with_reducible refine State.rollbackDue_kept ?_
    | with_reducible refine State.resendLost_kept ?_
    | with_reducible refine State.safeDue_kept ?_
    | with_reducible refine State.patchStep_kept ?_
    | with_reducible refine State.crsStep_kept ?_
    | with_reducible refine State.commitStep_kept ?_
    | with_reducible refine State.reloadTables_kept ?_
    | with_reducible refine kept_ite ?_ ?_
    | split
    | dsimp only

theorem State.boundary_kept {q₀ : List Instr} {s : State} (h : s.Kept q₀) : (State.boundary s).Kept q₀ := by
  unfold State.boundary
  repeat' first
    | with_reducible assumption
    | with_reducible refine State.peerBoundary_kept ?_
    | with_reducible refine State.gatesEnd_kept ?_
    | with_reducible refine State.markDue_kept ?_
    | with_reducible refine State.timeStep_kept ?_
    | with_reducible refine State.measureStep_kept ?_
    | with_reducible refine State.creditStep_kept ?_
    | with_reducible refine State.releaseStep_kept ?_
    | with_reducible refine State.eventStep_kept ?_
    | with_reducible refine State.afterStep_kept ?_
    | with_reducible refine State.configStep_kept ?_
    | with_reducible refine kept_ite ?_ ?_
    | split
    | dsimp only
    | with_reducible refine kept_agent ?_

theorem execCourseBoundary_kept {q₀ : List Instr} {s : State} (h : s.Kept q₀) : ResKept (execCourseBoundary s) q₀ := by
  unfold execCourseBoundary
  repeat' first
    | with_reducible assumption
    | with_reducible refine State.boundary_kept ?_
    | with_reducible refine resKept_next ?_
    | with_reducible refine kept_ite ?_ ?_
    | with_reducible refine resKept_ite ?_ ?_
    | split
    | dsimp only

end Sys2Proof.Machine
end

