-- ==== Sys2Proof/Laws/KeptTrowel.lean ====
section
/-! SUPPORT. Laws/KeptTrowel.lean: every operation of Machine/Trowel.lean keeps the queue and the canonical form. -/

namespace Sys2Proof.Machine

theorem execTrowelDispatch_kept {q₀ : List Instr} {e1 : EngineId} {off : ℕ} {s : State} (h : s.Kept q₀) : ResKept (execTrowelDispatch e1 off s) q₀ := by
  unfold execTrowelDispatch
  repeat' first
    | with_reducible assumption
    | with_reducible refine State.bump_kept ?_
    | with_reducible refine State.moveTo_kept ?_
    | with_reducible refine State.setPipe_kept ?_
    | with_reducible refine State.setRun_kept ?_
    | with_reducible refine resKept_next ?_
    | with_reducible refine kept_ite ?_ ?_
    | with_reducible refine resKept_ite ?_ ?_
    | split
    | dsimp only

theorem execCourseHandler_kept {q₀ : List Instr} {e1 : EngineId} {s : State} (h : s.Kept q₀) : ResKept (execCourseHandler e1 s) q₀ := by
  unfold execCourseHandler
  repeat' first
    | with_reducible assumption
    | with_reducible refine State.bump_kept ?_
    | with_reducible refine State.setPipe_kept ?_
    | with_reducible refine State.setRun_kept ?_
    | with_reducible refine resKept_next ?_
    | with_reducible refine kept_ite ?_ ?_
    | with_reducible refine resKept_ite ?_ ?_
    | split
    | dsimp only

theorem State.drain_kept {q₀ : List Instr} {s : State} {q1 : ℕ} (h : s.Kept q₀) : (State.drain s q1).Kept q₀ := by
  unfold State.drain
  repeat' first
    | with_reducible assumption
    | with_reducible refine State.drainPipe_kept ?_
    | with_reducible refine State.drainEgress_kept ?_
    | with_reducible refine kept_ite ?_ ?_
    | split
    | dsimp only

theorem State.withdraw_kept {q₀ : List Instr} {s : State} {q1 : ℕ} {j : Job} (h : s.Kept q₀) : (State.withdraw s q1 j).Kept q₀ := by
  unfold State.withdraw
  repeat' first
    | with_reducible assumption
    | with_reducible refine State.setPipe_kept ?_
    | with_reducible refine State.drain_kept ?_
    | with_reducible refine kept_ite ?_ ?_
    | split
    | dsimp only

theorem State.endDropped_kept {q₀ : List Instr} {s : State} {e1 : ℕ} {r : Run} (h : s.Kept q₀) : (State.endDropped s e1 r).Kept q₀ := by
  unfold State.endDropped
  repeat' first
    | with_reducible assumption
    | with_reducible refine State.setRun_kept ?_
    | with_reducible refine State.discardSelected_kept ?_
    | with_reducible refine State.withdraw_kept ?_
    | with_reducible refine kept_ite ?_ ?_
    | split
    | dsimp only

theorem State.programFault_kept {q₀ : List Instr} {s : State} {e1 : ℕ} {r : Run} (h : s.Kept q₀) : (State.programFault s e1 r).Kept q₀ := by
  unfold State.programFault
  repeat' first
    | with_reducible assumption
    | with_reducible refine State.bump_kept ?_
    | with_reducible refine State.raiseLimited_kept ?_
    | with_reducible refine State.endDropped_kept ?_
    | with_reducible refine kept_ite ?_ ?_
    | split
    | dsimp only

theorem State.endFrame_kept {q₀ : List Instr} {s : State} {e1 : ℕ} {r : Run} (h : s.Kept q₀) : (State.endFrame s e1 r).Kept q₀ := by
  unfold State.endFrame
  repeat' first
    | with_reducible assumption
    | with_reducible refine State.setPipe_kept ?_
    | with_reducible refine State.setRun_kept ?_
    | with_reducible refine State.drain_kept ?_
    | with_reducible refine kept_ite ?_ ?_
    | split
    | dsimp only

theorem State.runPatched_kept {q₀ : List Instr} {s : State} {e1 : ℕ} {p : Patch} {op : ℕ} {m : Macro} {r : Run} (h : s.Kept q₀) : (State.runPatched s e1 p op m r).Kept q₀ := by
  unfold State.runPatched
  repeat' first
    | with_reducible assumption
    | with_reducible refine State.bump_kept ?_
    | with_reducible refine forEach_kept ?_ (fun _ _ _ => ?_)
    | with_reducible refine State.setRun_kept ?_
    | with_reducible refine State.programFault_kept ?_
    | with_reducible refine kept_ite ?_ ?_
    | split
    | dsimp only
    | with_reducible refine kept_trowel ?_

theorem State.runNew_kept {q₀ : List Instr} {s : State} {e1 : ℕ} {fuel : ℕ} (h : s.Kept q₀) : (State.runNew s e1 fuel).Kept q₀ := by
  induction fuel generalizing s e1 with
  | zero =>
    unfold State.runNew
    repeat' first
      | with_reducible assumption
      | with_reducible refine State.runPatched_kept ?_
      | with_reducible refine kept_ite ?_ ?_
      | split
      | refine kept_fst ‹_› ?_
      | dsimp only
  | succ fuel ih =>
    unfold State.runNew
    repeat' first
      | with_reducible assumption
      | with_reducible refine ih ?_
      | with_reducible refine State.runPatched_kept ?_
      | with_reducible refine kept_ite ?_ ?_
      | split
      | refine kept_fst ‹_› ?_
      | dsimp only

theorem State.instr_kept {q₀ : List Instr} {s : State} {e1 : ℕ} {op : ℕ} {m : Macro} {go : State → Run → State} (h : s.Kept q₀) (hgo : ∀ a0 a1, a0.Kept q₀ → (go a0 a1).Kept q₀) : ResKept (State.instr s e1 op m go) q₀ := by
  unfold State.instr
  repeat' first
    | with_reducible assumption
    | with_reducible refine hgo _ _ ?_
    | with_reducible refine State.runPatched_kept ?_
    | with_reducible refine State.runNew_kept ?_
    | with_reducible refine resKept_next ?_
    | with_reducible refine kept_ite ?_ ?_
    | with_reducible refine resKept_ite ?_ ?_
    | split
    | dsimp only

theorem State.onward_kept {q₀ : List Instr} {s : State} {e1 : ℕ} {r : Run} (h : s.Kept q₀) : (State.onward s e1 r).Kept q₀ := by
  unfold State.onward
  repeat' first
    | with_reducible assumption
    | with_reducible refine State.setRun_kept ?_
    | with_reducible refine kept_ite ?_ ?_
    | split
    | dsimp only

theorem State.setsReg_kept {q₀ : List Instr} {s : State} {e1 : ℕ} {op : ℕ} {m : Macro} {v : Run → Word32} (h : s.Kept q₀) : ResKept (State.setsReg s e1 op m v) q₀ := by
  unfold State.setsReg
  repeat' first
    | with_reducible assumption
    | with_reducible refine State.instr_kept ?_ (fun _ _ _ => ?_)
    | with_reducible refine State.onward_kept ?_
    | with_reducible refine resKept_next ?_
    | with_reducible refine kept_ite ?_ ?_
    | with_reducible refine resKept_ite ?_ ?_
    | split
    | dsimp only

theorem State.onFrame_kept {q₀ : List Instr} {s : State} {e1 : ℕ} {op : ℕ} {m : Macro} {n : ℕ} {go : State → Run → Job → State} (h : s.Kept q₀) (hgo : ∀ a0 a1 a2, a0.Kept q₀ → (go a0 a1 a2).Kept q₀) : ResKept (State.onFrame s e1 op m n go) q₀ := by
  unfold State.onFrame
  repeat' first
    | with_reducible assumption
    | with_reducible refine hgo _ _ _ ?_
    | with_reducible refine State.programFault_kept ?_
    | with_reducible refine State.instr_kept ?_ (fun _ _ _ => ?_)
    | with_reducible refine resKept_next ?_
    | with_reducible refine kept_ite ?_ ?_
    | with_reducible refine resKept_ite ?_ ?_
    | split
    | dsimp only

theorem State.onMemory_kept {q₀ : List Instr} {s : State} {e1 : ℕ} {op : ℕ} {m : Macro} {go : State → Run → ℕ → State} (h : s.Kept q₀) (hgo : ∀ a0 a1 a2, a0.Kept q₀ → (go a0 a1 a2).Kept q₀) : ResKept (State.onMemory s e1 op m go) q₀ := by
  unfold State.onMemory
  repeat' first
    | with_reducible assumption
    | with_reducible refine hgo _ _ _ ?_
    | with_reducible refine State.programFault_kept ?_
    | with_reducible refine State.instr_kept ?_ (fun _ _ _ => ?_)
    | with_reducible refine resKept_next ?_
    | with_reducible refine kept_ite ?_ ?_
    | with_reducible refine resKept_ite ?_ ?_
    | split
    | dsimp only

theorem State.setMemWord_kept {q₀ : List Instr} {s : State} {k : ℕ} {v : ℕ} (h : s.Kept q₀) : (State.setMemWord s k v).Kept q₀ := by
  unfold State.setMemWord
  repeat' first
    | with_reducible assumption
    | with_reducible refine kept_ite ?_ ?_
    | split
    | dsimp only
    | with_reducible refine kept_trowel ?_

theorem execTrowelNop_kept {q₀ : List Instr} {e1 : EngineId} {m : Macro} {s : State} (h : s.Kept q₀) : ResKept (execTrowelNop e1 m s) q₀ := by
  unfold execTrowelNop
  repeat' first
    | with_reducible assumption
    | with_reducible refine State.instr_kept ?_ (fun _ _ _ => ?_)
    | with_reducible refine State.onward_kept ?_
    | with_reducible refine resKept_next ?_
    | with_reducible refine kept_ite ?_ ?_
    | with_reducible refine resKept_ite ?_ ?_
    | split
    | dsimp only

theorem execTrowelLdi_kept {q₀ : List Instr} {e1 : EngineId} {m : Macro} {s : State} (h : s.Kept q₀) : ResKept (execTrowelLdi e1 m s) q₀ := by
  unfold execTrowelLdi
  repeat' first
    | with_reducible assumption
    | with_reducible refine State.setsReg_kept ?_
    | with_reducible refine resKept_next ?_
    | with_reducible refine kept_ite ?_ ?_
    | with_reducible refine resKept_ite ?_ ?_
    | split
    | dsimp only

theorem execTrowelLdh_kept {q₀ : List Instr} {e1 : EngineId} {m : Macro} {s : State} (h : s.Kept q₀) : ResKept (execTrowelLdh e1 m s) q₀ := by
  unfold execTrowelLdh
  repeat' first
    | with_reducible assumption
    | with_reducible refine State.setsReg_kept ?_
    | with_reducible refine resKept_next ?_
    | with_reducible refine kept_ite ?_ ?_
    | with_reducible refine resKept_ite ?_ ?_
    | split
    | dsimp only

theorem execTrowelMov_kept {q₀ : List Instr} {e1 : EngineId} {m : Macro} {s : State} (h : s.Kept q₀) : ResKept (execTrowelMov e1 m s) q₀ := by
  unfold execTrowelMov
  repeat' first
    | with_reducible assumption
    | with_reducible refine State.setsReg_kept ?_
    | with_reducible refine resKept_next ?_
    | with_reducible refine kept_ite ?_ ?_
    | with_reducible refine resKept_ite ?_ ?_
    | split
    | dsimp only

theorem State.adds_kept {q₀ : List Instr} {s : State} {e1 : ℕ} {op : ℕ} {m : Macro} {b : Run → Word32} (h : s.Kept q₀) : ResKept (State.adds s e1 op m b) q₀ := by
  unfold State.adds
  repeat' first
    | with_reducible assumption
    | with_reducible refine State.instr_kept ?_ (fun _ _ _ => ?_)
    | with_reducible refine State.onward_kept ?_
    | with_reducible refine resKept_next ?_
    | with_reducible refine kept_ite ?_ ?_
    | with_reducible refine resKept_ite ?_ ?_
    | split
    | dsimp only

theorem execTrowelAdd_kept {q₀ : List Instr} {e1 : EngineId} {m : Macro} {s : State} (h : s.Kept q₀) : ResKept (execTrowelAdd e1 m s) q₀ := by
  unfold execTrowelAdd
  repeat' first
    | with_reducible assumption
    | with_reducible refine State.adds_kept ?_
    | with_reducible refine resKept_next ?_
    | with_reducible refine kept_ite ?_ ?_
    | with_reducible refine resKept_ite ?_ ?_
    | split
    | dsimp only

theorem execTrowelSub_kept {q₀ : List Instr} {e1 : EngineId} {m : Macro} {s : State} (h : s.Kept q₀) : ResKept (execTrowelSub e1 m s) q₀ := by
  unfold execTrowelSub
  repeat' first
    | with_reducible assumption
    | with_reducible refine State.instr_kept ?_ (fun _ _ _ => ?_)
    | with_reducible refine State.onward_kept ?_
    | with_reducible refine resKept_next ?_
    | with_reducible refine kept_ite ?_ ?_
    | with_reducible refine resKept_ite ?_ ?_
    | split
    | dsimp only

theorem execTrowelAddi_kept {q₀ : List Instr} {e1 : EngineId} {m : Macro} {s : State} (h : s.Kept q₀) : ResKept (execTrowelAddi e1 m s) q₀ := by
  unfold execTrowelAddi
  repeat' first
    | with_reducible assumption
    | with_reducible refine State.adds_kept ?_
    | with_reducible refine resKept_next ?_
    | with_reducible refine kept_ite ?_ ?_
    | with_reducible refine resKept_ite ?_ ?_
    | split
    | dsimp only

theorem execTrowelAnd_kept {q₀ : List Instr} {e1 : EngineId} {m : Macro} {s : State} (h : s.Kept q₀) : ResKept (execTrowelAnd e1 m s) q₀ := by
  unfold execTrowelAnd
  repeat' first
    | with_reducible assumption
    | with_reducible refine State.setsReg_kept ?_
    | with_reducible refine resKept_next ?_
    | with_reducible refine kept_ite ?_ ?_
    | with_reducible refine resKept_ite ?_ ?_
    | split
    | dsimp only

theorem execTrowelOr_kept {q₀ : List Instr} {e1 : EngineId} {m : Macro} {s : State} (h : s.Kept q₀) : ResKept (execTrowelOr e1 m s) q₀ := by
  unfold execTrowelOr
  repeat' first
    | with_reducible assumption
    | with_reducible refine State.setsReg_kept ?_
    | with_reducible refine resKept_next ?_
    | with_reducible refine kept_ite ?_ ?_
    | with_reducible refine resKept_ite ?_ ?_
    | split
    | dsimp only

theorem execTrowelXor_kept {q₀ : List Instr} {e1 : EngineId} {m : Macro} {s : State} (h : s.Kept q₀) : ResKept (execTrowelXor e1 m s) q₀ := by
  unfold execTrowelXor
  repeat' first
    | with_reducible assumption
    | with_reducible refine State.setsReg_kept ?_
    | with_reducible refine resKept_next ?_
    | with_reducible refine kept_ite ?_ ?_
    | with_reducible refine resKept_ite ?_ ?_
    | split
    | dsimp only

theorem execTrowelAndi_kept {q₀ : List Instr} {e1 : EngineId} {m : Macro} {s : State} (h : s.Kept q₀) : ResKept (execTrowelAndi e1 m s) q₀ := by
  unfold execTrowelAndi
  repeat' first
    | with_reducible assumption
    | with_reducible refine State.setsReg_kept ?_
    | with_reducible refine resKept_next ?_
    | with_reducible refine kept_ite ?_ ?_
    | with_reducible refine resKept_ite ?_ ?_
    | split
    | dsimp only

theorem execTrowelShl_kept {q₀ : List Instr} {e1 : EngineId} {m : Macro} {s : State} (h : s.Kept q₀) : ResKept (execTrowelShl e1 m s) q₀ := by
  unfold execTrowelShl
  repeat' first
    | with_reducible assumption
    | with_reducible refine State.setsReg_kept ?_
    | with_reducible refine resKept_next ?_
    | with_reducible refine kept_ite ?_ ?_
    | with_reducible refine resKept_ite ?_ ?_
    | split
    | dsimp only

theorem execTrowelShr_kept {q₀ : List Instr} {e1 : EngineId} {m : Macro} {s : State} (h : s.Kept q₀) : ResKept (execTrowelShr e1 m s) q₀ := by
  unfold execTrowelShr
  repeat' first
    | with_reducible assumption
    | with_reducible refine State.setsReg_kept ?_
    | with_reducible refine resKept_next ?_
    | with_reducible refine kept_ite ?_ ?_
    | with_reducible refine resKept_ite ?_ ?_
    | split
    | dsimp only

theorem State.compares_kept {q₀ : List Instr} {s : State} {e1 : ℕ} {op : ℕ} {m : Macro} {b : Run → Word32} (h : s.Kept q₀) : ResKept (State.compares s e1 op m b) q₀ := by
  unfold State.compares
  repeat' first
    | with_reducible assumption
    | with_reducible refine State.instr_kept ?_ (fun _ _ _ => ?_)
    | with_reducible refine State.onward_kept ?_
    | with_reducible refine resKept_next ?_
    | with_reducible refine kept_ite ?_ ?_
    | with_reducible refine resKept_ite ?_ ?_
    | split
    | dsimp only

theorem execTrowelCmp_kept {q₀ : List Instr} {e1 : EngineId} {m : Macro} {s : State} (h : s.Kept q₀) : ResKept (execTrowelCmp e1 m s) q₀ := by
  unfold execTrowelCmp
  repeat' first
    | with_reducible assumption
    | with_reducible refine State.compares_kept ?_
    | with_reducible refine resKept_next ?_
    | with_reducible refine kept_ite ?_ ?_
    | with_reducible refine resKept_ite ?_ ?_
    | split
    | dsimp only

theorem execTrowelCmpi_kept {q₀ : List Instr} {e1 : EngineId} {m : Macro} {s : State} (h : s.Kept q₀) : ResKept (execTrowelCmpi e1 m s) q₀ := by
  unfold execTrowelCmpi
  repeat' first
    | with_reducible assumption
    | with_reducible refine State.compares_kept ?_
    | with_reducible refine resKept_next ?_
    | with_reducible refine kept_ite ?_ ?_
    | with_reducible refine resKept_ite ?_ ?_
    | split
    | dsimp only

theorem execTrowelHash_kept {q₀ : List Instr} {e1 : EngineId} {m : Macro} {s : State} (h : s.Kept q₀) : ResKept (execTrowelHash e1 m s) q₀ := by
  unfold execTrowelHash
  repeat' first
    | with_reducible assumption
    | with_reducible refine State.setsReg_kept ?_
    | with_reducible refine resKept_next ?_
    | with_reducible refine kept_ite ?_ ?_
    | with_reducible refine resKept_ite ?_ ?_
    | split
    | dsimp only

theorem execTrowelLdf_kept {q₀ : List Instr} {e1 : EngineId} {m : Macro} {s : State} (h : s.Kept q₀) : ResKept (execTrowelLdf e1 m s) q₀ := by
  unfold execTrowelLdf
  repeat' first
    | with_reducible assumption
    | with_reducible refine State.onward_kept ?_
    | with_reducible refine State.onFrame_kept ?_ (fun _ _ _ _ => ?_)
    | with_reducible refine resKept_next ?_
    | with_reducible refine kept_ite ?_ ?_
    | with_reducible refine resKept_ite ?_ ?_
    | split
    | dsimp only

theorem execTrowelStf_kept {q₀ : List Instr} {e1 : EngineId} {m : Macro} {s : State} (h : s.Kept q₀) : ResKept (execTrowelStf e1 m s) q₀ := by
  unfold execTrowelStf
  repeat' first
    | with_reducible assumption
    | with_reducible refine State.onward_kept ?_
    | with_reducible refine State.onFrame_kept ?_ (fun _ _ _ _ => ?_)
    | with_reducible refine resKept_next ?_
    | with_reducible refine kept_ite ?_ ?_
    | with_reducible refine resKept_ite ?_ ?_
    | split
    | dsimp only

theorem execTrowelIns_kept {q₀ : List Instr} {e1 : EngineId} {m : Macro} {s : State} (h : s.Kept q₀) : ResKept (execTrowelIns e1 m s) q₀ := by
  unfold execTrowelIns
  repeat' first
    | with_reducible assumption
    | with_reducible refine State.programFault_kept ?_
    | with_reducible refine State.onward_kept ?_
    | with_reducible refine State.onFrame_kept ?_ (fun _ _ _ _ => ?_)
    | with_reducible refine resKept_next ?_
    | with_reducible refine kept_ite ?_ ?_
    | with_reducible refine resKept_ite ?_ ?_
    | split
    | dsimp only

theorem execTrowelDel_kept {q₀ : List Instr} {e1 : EngineId} {m : Macro} {s : State} (h : s.Kept q₀) : ResKept (execTrowelDel e1 m s) q₀ := by
  unfold execTrowelDel
  repeat' first
    | with_reducible assumption
    | with_reducible refine State.programFault_kept ?_
    | with_reducible refine State.onward_kept ?_
    | with_reducible refine State.onFrame_kept ?_ (fun _ _ _ _ => ?_)
    | with_reducible refine resKept_next ?_
    | with_reducible refine kept_ite ?_ ?_
    | with_reducible refine resKept_ite ?_ ?_
    | split
    | dsimp only

theorem execTrowelCsum_kept {q₀ : List Instr} {e1 : EngineId} {m : Macro} {s : State} (h : s.Kept q₀) : ResKept (execTrowelCsum e1 m s) q₀ := by
  unfold execTrowelCsum
  repeat' first
    | with_reducible assumption
    | with_reducible refine State.programFault_kept ?_
    | with_reducible refine State.instr_kept ?_ (fun _ _ _ => ?_)
    | with_reducible refine State.onward_kept ?_
    | with_reducible refine resKept_next ?_
    | with_reducible refine kept_ite ?_ ?_
    | with_reducible refine resKept_ite ?_ ?_
    | split
    | dsimp only

theorem execTrowelTsw_kept {q₀ : List Instr} {e1 : EngineId} {m : Macro} {s : State} (h : s.Kept q₀) : ResKept (execTrowelTsw e1 m s) q₀ := by
  unfold execTrowelTsw
  repeat' first
    | with_reducible assumption
    | with_reducible refine State.onward_kept ?_
    | with_reducible refine State.onFrame_kept ?_ (fun _ _ _ _ => ?_)
    | with_reducible refine resKept_next ?_
    | with_reducible refine kept_ite ?_ ?_
    | with_reducible refine resKept_ite ?_ ?_
    | split
    | dsimp only

theorem execTrowelLdm_kept {q₀ : List Instr} {e1 : EngineId} {m : Macro} {s : State} (h : s.Kept q₀) : ResKept (execTrowelLdm e1 m s) q₀ := by
  unfold execTrowelLdm
  repeat' first
    | with_reducible assumption
    | with_reducible refine State.openBits_kept ?_
    | with_reducible refine State.instr_kept ?_ (fun _ _ _ => ?_)
    | with_reducible refine State.onward_kept ?_
    | with_reducible refine resKept_next ?_
    | with_reducible refine kept_ite ?_ ?_
    | with_reducible refine resKept_ite ?_ ?_
    | with_reducible refine kept_ite_fst ?_ ?_
    | split
    | refine kept_fst ‹_› ?_
    | dsimp only

theorem execTrowelStm_kept {q₀ : List Instr} {e1 : EngineId} {m : Macro} {s : State} (h : s.Kept q₀) : ResKept (execTrowelStm e1 m s) q₀ := by
  unfold execTrowelStm
  repeat' first
    | with_reducible assumption
    | with_reducible refine State.bump_kept ?_
    | with_reducible refine State.instr_kept ?_ (fun _ _ _ => ?_)
    | with_reducible refine State.onward_kept ?_
    | with_reducible refine resKept_next ?_
    | with_reducible refine kept_ite ?_ ?_
    | with_reducible refine resKept_ite ?_ ?_
    | split
    | dsimp only

theorem execTrowelLds_kept {q₀ : List Instr} {e1 : EngineId} {m : Macro} {s : State} (h : s.Kept q₀) : ResKept (execTrowelLds e1 m s) q₀ := by
  unfold execTrowelLds
  repeat' first
    | with_reducible assumption
    | with_reducible refine State.onward_kept ?_
    | with_reducible refine State.onMemory_kept ?_ (fun _ _ _ _ => ?_)
    | with_reducible refine resKept_next ?_
    | with_reducible refine kept_ite ?_ ?_
    | with_reducible refine resKept_ite ?_ ?_
    | split
    | dsimp only

theorem execTrowelSts_kept {q₀ : List Instr} {e1 : EngineId} {m : Macro} {s : State} (h : s.Kept q₀) : ResKept (execTrowelSts e1 m s) q₀ := by
  unfold execTrowelSts
  repeat' first
    | with_reducible assumption
    | with_reducible refine State.onward_kept ?_
    | with_reducible refine State.onMemory_kept ?_ (fun _ _ _ _ => ?_)
    | with_reducible refine State.setMemWord_kept ?_
    | with_reducible refine resKept_next ?_
    | with_reducible refine kept_ite ?_ ?_
    | with_reducible refine resKept_ite ?_ ?_
    | split
    | dsimp only

theorem execTrowelAad_kept {q₀ : List Instr} {e1 : EngineId} {m : Macro} {s : State} (h : s.Kept q₀) : ResKept (execTrowelAad e1 m s) q₀ := by
  unfold execTrowelAad
  repeat' first
    | with_reducible assumption
    | with_reducible refine State.onward_kept ?_
    | with_reducible refine State.onMemory_kept ?_ (fun _ _ _ _ => ?_)
    | with_reducible refine State.setMemWord_kept ?_
    | with_reducible refine resKept_next ?_
    | with_reducible refine kept_ite ?_ ?_
    | with_reducible refine resKept_ite ?_ ?_
    | split
    | dsimp only

theorem execTrowelBr_kept {q₀ : List Instr} {e1 : EngineId} {m : Macro} {s : State} (h : s.Kept q₀) : ResKept (execTrowelBr e1 m s) q₀ := by
  unfold execTrowelBr
  repeat' first
    | with_reducible assumption
    | with_reducible refine State.setRun_kept ?_
    | with_reducible refine State.instr_kept ?_ (fun _ _ _ => ?_)
    | with_reducible refine resKept_next ?_
    | with_reducible refine kept_ite ?_ ?_
    | with_reducible refine resKept_ite ?_ ?_
    | split
    | dsimp only

theorem execTrowelFwd_kept {q₀ : List Instr} {e1 : EngineId} {m : Macro} {s : State} (h : s.Kept q₀) : ResKept (execTrowelFwd e1 m s) q₀ := by
  unfold execTrowelFwd
  repeat' first
    | with_reducible assumption
    | with_reducible refine State.programFault_kept ?_
    | with_reducible refine State.instr_kept ?_ (fun _ _ _ => ?_)
    | with_reducible refine State.onward_kept ?_
    | with_reducible refine resKept_next ?_
    | with_reducible refine kept_ite ?_ ?_
    | with_reducible refine resKept_ite ?_ ?_
    | split
    | dsimp only

theorem execTrowelEvt_kept {q₀ : List Instr} {e1 : EngineId} {m : Macro} {s : State} (h : s.Kept q₀) : ResKept (execTrowelEvt e1 m s) q₀ := by
  unfold execTrowelEvt
  repeat' first
    | with_reducible assumption
    | with_reducible refine State.bump_kept ?_
    | with_reducible refine State.openBits_kept ?_
    | with_reducible refine State.sendRecord_kept ?_
    | with_reducible refine State.instr_kept ?_ (fun _ _ _ => ?_)
    | with_reducible refine State.onward_kept ?_
    | with_reducible refine resKept_next ?_
    | with_reducible refine kept_ite ?_ ?_
    | with_reducible refine resKept_ite ?_ ?_
    | with_reducible refine kept_ite_fst ?_ ?_
    | split
    | refine kept_fst ‹_› ?_
    | dsimp only

theorem execTrowelTrap_kept {q₀ : List Instr} {e1 : EngineId} {m : Macro} {s : State} (h : s.Kept q₀) : ResKept (execTrowelTrap e1 m s) q₀ := by
  unfold execTrowelTrap
  repeat' first
    | with_reducible assumption
    | with_reducible refine State.exception_kept ?_
    | with_reducible refine State.setRun_kept ?_
    | with_reducible refine State.endDropped_kept ?_
    | with_reducible refine State.instr_kept ?_ (fun _ _ _ => ?_)
    | with_reducible refine resKept_next ?_
    | with_reducible refine kept_ite ?_ ?_
    | with_reducible refine resKept_ite ?_ ?_
    | split
    | dsimp only

theorem execTrowelDrop_kept {q₀ : List Instr} {e1 : EngineId} {m : Macro} {s : State} (h : s.Kept q₀) : ResKept (execTrowelDrop e1 m s) q₀ := by
  unfold execTrowelDrop
  repeat' first
    | with_reducible assumption
    | with_reducible refine State.endDropped_kept ?_
    | with_reducible refine State.instr_kept ?_ (fun _ _ _ => ?_)
    | with_reducible refine resKept_next ?_
    | with_reducible refine kept_ite ?_ ?_
    | with_reducible refine resKept_ite ?_ ?_
    | split
    | dsimp only

theorem execTrowelEnd_kept {q₀ : List Instr} {e1 : EngineId} {m : Macro} {s : State} (h : s.Kept q₀) : ResKept (execTrowelEnd e1 m s) q₀ := by
  unfold execTrowelEnd
  repeat' first
    | with_reducible assumption
    | with_reducible refine State.endFrame_kept ?_
    | with_reducible refine State.instr_kept ?_ (fun _ _ _ => ?_)
    | with_reducible refine resKept_next ?_
    | with_reducible refine kept_ite ?_ ?_
    | with_reducible refine resKept_ite ?_ ?_
    | split
    | dsimp only

theorem execPatchSwitch_kept {q₀ : List Instr} {e1 : EngineId} {s : State} (h : s.Kept q₀) : ResKept (execPatchSwitch e1 s) q₀ := by
  unfold execPatchSwitch
  repeat' first
    | with_reducible assumption
    | with_reducible refine State.wr_kept ?_
    | with_reducible refine State.raise_kept ?_
    | with_reducible refine resKept_next ?_
    | with_reducible refine kept_ite ?_ ?_
    | with_reducible refine resKept_ite ?_ ?_
    | split
    | dsimp only
    | with_reducible refine kept_trowel ?_

theorem State.engineFails_kept {q₀ : List Instr} {s : State} {e1 : ℕ} (h : s.Kept q₀) : (State.engineFails s e1).Kept q₀ := by
  unfold State.engineFails
  repeat' first
    | with_reducible assumption
    | with_reducible refine State.bump_kept ?_
    | with_reducible refine State.endDropped_kept ?_
    | with_reducible refine kept_ite ?_ ?_
    | split
    | dsimp only

theorem State.spareSubstituted_kept {q₀ : List Instr} {s : State} {e1 : EngineId} (h : s.Kept q₀) : (State.spareSubstituted s e1).Kept q₀ := by
  unfold State.spareSubstituted
  repeat' first
    | with_reducible assumption
    | with_reducible refine State.bump_kept ?_
    | with_reducible refine State.raise_kept ?_
    | with_reducible refine State.setPipe_kept ?_
    | with_reducible refine State.engineFails_kept ?_
    | with_reducible refine kept_ite ?_ ?_
    | split
    | dsimp only

theorem State.engineLost_kept {q₀ : List Instr} {s : State} {e1 : EngineId} (h : s.Kept q₀) : (State.engineLost s e1).Kept q₀ := by
  unfold State.engineLost
  repeat' first
    | with_reducible assumption
    | with_reducible refine State.raise_kept ?_
    | with_reducible refine State.setPipe_kept ?_
    | with_reducible refine State.engineFails_kept ?_
    | with_reducible refine kept_ite ?_ ?_
    | split
    | dsimp only
    | with_reducible refine kept_trowel ?_

theorem execSpareSubstitution_kept {q₀ : List Instr} {e1 : EngineId} {s : State} (h : s.Kept q₀) : ResKept (execSpareSubstitution e1 s) q₀ := by
  unfold execSpareSubstitution
  repeat' first
    | with_reducible assumption
    | with_reducible refine State.spareSubstituted_kept ?_
    | with_reducible refine resKept_next ?_
    | with_reducible refine kept_ite ?_ ?_
    | with_reducible refine resKept_ite ?_ ?_
    | split
    | dsimp only

theorem execTrowelEngineLost_kept {q₀ : List Instr} {e1 : EngineId} {s : State} (h : s.Kept q₀) : ResKept (execTrowelEngineLost e1 s) q₀ := by
  unfold execTrowelEngineLost
  repeat' first
    | with_reducible assumption
    | with_reducible refine State.engineLost_kept ?_
    | with_reducible refine resKept_next ?_
    | with_reducible refine kept_ite ?_ ?_
    | with_reducible refine resKept_ite ?_ ?_
    | split
    | dsimp only

end Sys2Proof.Machine
end

