-- ==== Sys2Proof/Laws/KeptFaults.lean ====
section
/-! SUPPORT. Laws/KeptFaults.lean: every operation of Machine/Faults.lean keeps the queue and the canonical form. -/

namespace Sys2Proof.Machine

theorem State.discardTransit_kept {q₀ : List Instr} {s : State} {t1 : ℕ} {id : ℕ} (h : s.Kept q₀) : (State.discardTransit s t1 id).Kept q₀ := by
  unfold State.discardTransit
  repeat' first
    | with_reducible assumption
    | with_reducible refine State.dropCopy_kept ?_
    | with_reducible refine kept_foldl ?_ (fun _ _ _ => ?_)
    | with_reducible refine kept_foldl_pair ?_ (fun _ _ _ _ => ?_)
    | with_reducible refine kept_ite ?_ ?_
    | split
    | refine kept_fst ‹_› ?_
    | dsimp only
    | with_reducible refine kept_switch ?_

theorem State.discardQueued_kept {q₀ : List Instr} {s : State} {t1 : ℕ} {id : ℕ} (h : s.Kept q₀) : (State.discardQueued s t1 id).Kept q₀ := by
  unfold State.discardQueued
  repeat' first
    | with_reducible assumption
    | with_reducible refine forEach_kept ?_ (fun _ _ _ => ?_)
    | with_reducible refine State.setEgress_kept ?_
    | with_reducible refine State.uncharge_kept ?_
    | with_reducible refine State.dropCopy_kept ?_
    | with_reducible refine State.takeHead_kept ?_
    | with_reducible refine kept_foldl ?_ (fun _ _ _ => ?_)
    | with_reducible refine kept_foldl_pair ?_ (fun _ _ _ _ => ?_)
    | with_reducible refine kept_ite ?_ ?_
    | split
    | refine kept_fst ‹_› ?_
    | dsimp only

theorem State.discardFrame_kept {q₀ : List Instr} {s : State} {t1 : ℕ} {id : ℕ} (h : s.Kept q₀) : (State.discardFrame s t1 id).Kept q₀ := by
  unfold State.discardFrame
  repeat' first
    | with_reducible assumption
    | with_reducible refine State.discardTransit_kept ?_
    | with_reducible refine State.discardQueued_kept ?_
    | with_reducible refine kept_ite ?_ ?_
    | split
    | dsimp only

theorem State.discardTransaction_kept {q₀ : List Instr} {s : State} {handle : ℕ} (h : s.Kept q₀) : (State.discardTransaction s handle).Kept q₀ := by
  unfold State.discardTransaction
  repeat' first
    | with_reducible assumption
    | with_reducible refine State.conclude_kept ?_
    | with_reducible refine kept_ite ?_ ?_
    | split
    | dsimp only

theorem State.trafficLost_kept {q₀ : List Instr} {s : State} {t1 : ℕ} {network : ℕ} {frame : Option ℕ} (h : s.Kept q₀) : (State.trafficLost s t1 network frame).Kept q₀ := by
  unfold State.trafficLost
  repeat' first
    | with_reducible assumption
    | with_reducible refine State.discardFrame_kept ?_
    | with_reducible refine State.discardTransaction_kept ?_
    | with_reducible refine kept_ite ?_ ?_
    | split
    | dsimp only
    | with_reducible refine kept_agent ?_
    | with_reducible refine kept_memory ?_

theorem execMortarUncorrectable_kept {q₀ : List Instr} {t1 : TileId} {network : Fin 6} {frame : Option ℕ} {s : State} (h : s.Kept q₀) : ResKept (execMortarUncorrectable t1 network frame s) q₀ := by
  unfold execMortarUncorrectable
  repeat' first
    | with_reducible assumption
    | with_reducible refine State.bump_kept ?_
    | with_reducible refine State.raise_kept ?_
    | with_reducible refine State.tileFault_kept ?_
    | with_reducible refine State.trafficLost_kept ?_
    | with_reducible refine resKept_next ?_
    | with_reducible refine kept_ite ?_ ?_
    | with_reducible refine resKept_ite ?_ ?_
    | split
    | dsimp only
    | with_reducible refine kept_keystone ?_

theorem State.quarantine_kept {q₀ : List Instr} {s : State} {pool : ℕ} {unit : ℕ} (h : s.Kept q₀) : (State.quarantine s pool unit).Kept q₀ := by
  unfold State.quarantine
  repeat' first
    | with_reducible assumption
    | with_reducible refine State.bump_kept ?_
    | with_reducible refine State.raise_kept ?_
    | with_reducible refine kept_ite ?_ ?_
    | split
    | dsimp only
    | with_reducible refine kept_hod ?_

theorem State.stopCore_kept {q₀ : List Instr} {s : State} {n : ℕ} (h : s.Kept q₀) : (State.stopCore s n).Kept q₀ := by
  unfold State.stopCore
  repeat' first
    | with_reducible assumption
    | with_reducible refine State.reclaim_kept ?_
    | with_reducible refine State.lookAbort_kept ?_
    | with_reducible refine State.dropContext_kept ?_
    | with_reducible refine State.setCoreWindow_kept ?_
    | with_reducible refine kept_ite ?_ ?_
    | split
    | dsimp only

theorem State.coreFails_kept {q₀ : List Instr} {s : State} {n : ℕ} (h : s.Kept q₀) : (State.coreFails s n).Kept q₀ := by
  unfold State.coreFails
  repeat' first
    | with_reducible assumption
    | with_reducible refine State.raise_kept ?_
    | with_reducible refine State.stopCore_kept ?_
    | with_reducible refine kept_ite ?_ ?_
    | split
    | dsimp only
    | with_reducible refine kept_service ?_

theorem execCoreUncorrectable_kept {q₀ : List Instr} {n : Fin 96} {s : State} (h : s.Kept q₀) : ResKept (execCoreUncorrectable n s) q₀ := by
  unfold execCoreUncorrectable
  repeat' first
    | with_reducible assumption
    | with_reducible refine State.coreFails_kept ?_
    | with_reducible refine resKept_next ?_
    | with_reducible refine kept_ite ?_ ?_
    | with_reducible refine resKept_ite ?_ ?_
    | split
    | dsimp only

theorem State.awaitReload_kept {q₀ : List Instr} {s : State} {t1 : ℕ} {r : Reload} (h : s.Kept q₀) : (State.awaitReload s t1 r).Kept q₀ := by
  unfold State.awaitReload
  repeat' first
    | with_reducible assumption
    | with_reducible refine kept_ite ?_ ?_
    | split
    | dsimp only
    | with_reducible refine kept_service ?_

theorem State.entryLost_kept {q₀ : List Instr} {s : State} {t1 : ℕ} {fuel : SramContent} (h : s.Kept q₀) : (State.entryLost s t1 fuel).Kept q₀ := by
  unfold State.entryLost
  repeat' first
    | with_reducible assumption
    | with_reducible refine State.setDom_kept ?_
    | with_reducible refine State.setFdb_kept ?_
    | with_reducible refine State.setTernary_kept ?_
    | with_reducible refine State.setExact_kept ?_
    | with_reducible refine State.setPolicer_kept ?_
    | with_reducible refine State.awaitReload_kept ?_
    | with_reducible refine kept_ite ?_ ?_
    | split
    | dsimp only

theorem execSramUncorrectable_kept {q₀ : List Instr} {t1 : TileId} {c : SramContent} {s0 : State} (h : s0.Kept q₀) :
    ResKept (execSramUncorrectable t1 c s0) q₀ := by
  unfold execSramUncorrectable
  extract_lets s
  have k : s.Kept q₀ := State.bump_kept h
  clear_value s
  refine resKept_next (kept_ite h ?_)
  cases c with
  | buffer network frame => exact State.trafficLost_kept k
  | freeList pool unit => exact State.quarantine_kept k
  | count pool unit => exact State.quarantine_kept k
  | store => exact State.bump_kept k
  | engine e => exact kept_ite (State.engineLost_kept k) (State.spareSubstituted_kept k)
  | core n => exact kept_ite (State.coreFails_kept k) k
  | keystone => exact State.fatal_kept k
  | _ => exact State.entryLost_kept k


theorem execHbmError_kept {q₀ : List Instr} {bank : Fin 512} {row : BitVec 20} {uncorrectable : Bool} {s : State} (h : s.Kept q₀) : ResKept (execHbmError bank row uncorrectable s) q₀ := by
  unfold execHbmError
  repeat' first
    | with_reducible assumption
    | with_reducible refine State.bump_kept ?_
    | with_reducible refine resKept_next ?_
    | with_reducible refine kept_ite ?_ ?_
    | with_reducible refine resKept_ite ?_ ?_
    | split
    | dsimp only
    | with_reducible refine kept_service ?_

theorem execHbmRowRepaired_kept {q₀ : List Instr} {bank : Fin 512} {row : BitVec 20} {addresses : List (BitVec 64)}
    {units : List (BitVec 40)} {s : State} (h : s.Kept q₀) : ResKept (execHbmRowRepaired bank row addresses units s) q₀ := by
  unfold execHbmRowRepaired
  extract_lets key used service s1 service2 us pages all s2 src s3
  have k1 : s1.Kept q₀ := kept_service h
  have k2 : s2.Kept q₀ := kept_foldl k1 (fun _ _ h => State.quarantine_kept h)
  have k3 : s3.Kept q₀ := kept_storeDomSet (State.setDom_kept k2)
  clear_value s3
  exact resKept_next (kept_ite (kept_ite (State.raiseLimited_kept (State.bump_kept (kept_service k1)))
    (kept_foldl k3 (fun _ _ h => State.raise_kept h))) h)


theorem execKeystoneRefused_kept {q₀ : List Instr} {t1 : TileId} {s : State} (h : s.Kept q₀) : ResKept (execKeystoneRefused t1 s) q₀ := by
  unfold execKeystoneRefused
  repeat' first
    | with_reducible assumption
    | with_reducible refine State.bump_kept ?_
    | with_reducible refine State.raiseLimited_kept ?_
    | with_reducible refine resKept_next ?_
    | with_reducible refine kept_ite ?_ ?_
    | with_reducible refine resKept_ite ?_ ?_
    | split
    | dsimp only

theorem execKeystoneLockstep_kept {q₀ : List Instr} {s : State} (h : s.Kept q₀) : ResKept (execKeystoneLockstep s) q₀ := by
  unfold execKeystoneLockstep
  repeat' first
    | with_reducible assumption
    | with_reducible refine State.fatal_kept ?_
    | with_reducible refine resKept_next ?_
    | with_reducible refine kept_ite ?_ ?_
    | with_reducible refine resKept_ite ?_ ?_
    | split
    | dsimp only
    | with_reducible refine kept_keystone ?_

theorem execKeystoneRestartComplete_kept {q₀ : List Instr} {s : State} (h : s.Kept q₀) : ResKept (execKeystoneRestartComplete s) q₀ := by
  unfold execKeystoneRestartComplete
  repeat' first
    | with_reducible assumption
    | with_reducible refine resKept_next ?_
    | with_reducible refine kept_ite ?_ ?_
    | with_reducible refine resKept_ite ?_ ?_
    | split
    | dsimp only
    | with_reducible refine kept_keystone ?_

theorem execTimeDistributionFault_kept {q₀ : List Instr} {t1 : TileId} {deviates : Bool} {s : State} (h : s.Kept q₀) : ResKept (execTimeDistributionFault t1 deviates s) q₀ := by
  unfold execTimeDistributionFault
  repeat' first
    | with_reducible assumption
    | with_reducible refine State.fatal_kept ?_
    | with_reducible refine resKept_next ?_
    | with_reducible refine kept_ite ?_ ?_
    | with_reducible refine resKept_ite ?_ ?_
    | split
    | dsimp only
    | with_reducible refine kept_keystone ?_

theorem execTileWatchdog_kept {q₀ : List Instr} {t1 : TileId} {s : State} (h : s.Kept q₀) : ResKept (execTileWatchdog t1 s) q₀ := by
  unfold execTileWatchdog
  repeat' first
    | with_reducible assumption
    | with_reducible refine State.bump_kept ?_
    | with_reducible refine State.raise_kept ?_
    | with_reducible refine forEach_kept ?_ (fun _ _ _ => ?_)
    | with_reducible refine State.fatal_kept ?_
    | with_reducible refine State.stopCore_kept ?_
    | with_reducible refine resKept_next ?_
    | with_reducible refine kept_ite ?_ ?_
    | with_reducible refine resKept_ite ?_ ?_
    | split
    | dsimp only
    | with_reducible refine kept_keystone ?_

end Sys2Proof.Machine
end

