-- ==== Sys2Proof/Laws/KeptHod.lean ====
section
/-! SUPPORT. Laws/KeptHod.lean: every operation of Machine/Hod.lean keeps the queue and the canonical form. -/

namespace Sys2Proof.Machine

theorem State.hodRefuse_kept {q₀ : List Instr} {s : State} {n : ℕ} {pool : ℕ} {status : ℕ} {gen : ℕ} {x1 : HodUnit} {address : ℕ} (h : s.Kept q₀) : (State.hodRefuse s n pool status gen x1 address).Kept q₀ := by
  unfold State.hodRefuse
  repeat' first
    | with_reducible assumption
    | with_reducible refine State.bump_kept ?_
    | with_reducible refine State.emit_kept ?_
    | with_reducible refine kept_ite ?_ ?_
    | split
    | dsimp only

theorem State.hodCommand_kept {q₀ : List Instr} {s : State} {n : ℕ} {op : ℕ} {c : HodCmd} (h : s.Kept q₀) : (State.hodCommand s n op c).Kept q₀ := by
  unfold State.hodCommand
  repeat' first
    | with_reducible assumption
    | with_reducible refine State.emit_kept ?_
    | with_reducible refine State.poolRefused_kept ?_
    | with_reducible refine State.takeUnit_kept ?_
    | with_reducible refine State.putUnit_kept ?_
    | with_reducible refine State.hodRefuse_kept ?_
    | with_reducible refine kept_ite ?_ ?_
    | with_reducible refine kept_ite_fst ?_ ?_
    | split
    | refine kept_fst ‹_› ?_
    | dsimp only

theorem execHodAlloc_kept {q₀ : List Instr} {n : Fin 96} {c : HodCmd} {s : State} (h : s.Kept q₀) : ResKept (execHodAlloc n c s) q₀ := by
  unfold execHodAlloc
  repeat' first
    | with_reducible assumption
    | with_reducible refine State.hodCommand_kept ?_
    | with_reducible refine resKept_next ?_
    | with_reducible refine kept_ite ?_ ?_
    | with_reducible refine resKept_ite ?_ ?_
    | split
    | dsimp only

theorem execHodRelease_kept {q₀ : List Instr} {n : Fin 96} {c : HodCmd} {s : State} (h : s.Kept q₀) : ResKept (execHodRelease n c s) q₀ := by
  unfold execHodRelease
  repeat' first
    | with_reducible assumption
    | with_reducible refine State.hodCommand_kept ?_
    | with_reducible refine resKept_next ?_
    | with_reducible refine kept_ite ?_ ?_
    | with_reducible refine resKept_ite ?_ ?_
    | split
    | dsimp only

theorem execHodFree_kept {q₀ : List Instr} {n : Fin 96} {c : HodCmd} {s : State} (h : s.Kept q₀) : ResKept (execHodFree n c s) q₀ := by
  unfold execHodFree
  repeat' first
    | with_reducible assumption
    | with_reducible refine State.hodCommand_kept ?_
    | with_reducible refine resKept_next ?_
    | with_reducible refine kept_ite ?_ ?_
    | with_reducible refine resKept_ite ?_ ?_
    | split
    | dsimp only

theorem execHodAddref_kept {q₀ : List Instr} {n : Fin 96} {c : HodCmd} {s : State} (h : s.Kept q₀) : ResKept (execHodAddref n c s) q₀ := by
  unfold execHodAddref
  repeat' first
    | with_reducible assumption
    | with_reducible refine State.hodCommand_kept ?_
    | with_reducible refine resKept_next ?_
    | with_reducible refine kept_ite ?_ ?_
    | with_reducible refine resKept_ite ?_ ?_
    | split
    | dsimp only

theorem execHodTransfer_kept {q₀ : List Instr} {n : Fin 96} {c : HodCmd} {s : State} (h : s.Kept q₀) : ResKept (execHodTransfer n c s) q₀ := by
  unfold execHodTransfer
  repeat' first
    | with_reducible assumption
    | with_reducible refine State.hodCommand_kept ?_
    | with_reducible refine resKept_next ?_
    | with_reducible refine kept_ite ?_ ?_
    | with_reducible refine resKept_ite ?_ ?_
    | split
    | dsimp only

theorem execHodQuery_kept {q₀ : List Instr} {n : Fin 96} {c : HodCmd} {s : State} (h : s.Kept q₀) : ResKept (execHodQuery n c s) q₀ := by
  unfold execHodQuery
  repeat' first
    | with_reducible assumption
    | with_reducible refine State.hodCommand_kept ?_
    | with_reducible refine resKept_next ?_
    | with_reducible refine kept_ite ?_ ?_
    | with_reducible refine resKept_ite ?_ ?_
    | split
    | dsimp only

end Sys2Proof.Machine
end

