-- ==== Sys2Proof/Laws/KeptPackage.lean ====
section
/-! SUPPORT. Laws/KeptPackage.lean: every operation of Machine/Package.lean keeps the queue and the canonical form. -/

namespace Sys2Proof.Machine

theorem execRefclkSysLost_kept {q₀ : List Instr} {s : State} (h : s.Kept q₀) : ResKept (execRefclkSysLost s) q₀ := by
  unfold execRefclkSysLost
  repeat' first
    | with_reducible assumption
    | with_reducible refine State.wr_kept ?_
    | with_reducible refine State.raise_kept ?_
    | with_reducible refine forEach_kept ?_ (fun _ _ _ => ?_)
    | with_reducible refine State.stopBringUp_kept ?_
    | with_reducible refine State.portDownNoRestart_kept ?_
    | with_reducible refine State.driveFault_kept ?_
    | with_reducible refine resKept_next ?_
    | with_reducible refine kept_ite ?_ ?_
    | with_reducible refine resKept_ite ?_ ?_
    | split
    | dsimp only

theorem execRefclkSysRestored_kept {q₀ : List Instr} {s : State} (h : s.Kept q₀) : ResKept (execRefclkSysRestored s) q₀ := by
  unfold execRefclkSysRestored
  repeat' first
    | with_reducible assumption
    | with_reducible refine State.wr_kept ?_
    | with_reducible refine forEach_kept ?_ (fun _ _ _ => ?_)
    | with_reducible refine State.bringUp_kept ?_
    | with_reducible refine State.driveFault_kept ?_
    | with_reducible refine State.startService_kept ?_
    | with_reducible refine resKept_next ?_
    | with_reducible refine kept_ite ?_ ?_
    | with_reducible refine resKept_ite ?_ ?_
    | split
    | dsimp only

theorem State.thermalAlert_kept {q₀ : List Instr} {s : State} {high : ℤ} (h : s.Kept q₀) : (State.thermalAlert s high).Kept q₀ := by
  unfold State.thermalAlert
  repeat' first
    | with_reducible assumption
    | with_reducible refine State.emit_kept ?_
    | with_reducible refine State.raiseLimited_kept ?_
    | with_reducible refine kept_ite ?_ ?_
    | split
    | dsimp only
    | with_reducible refine kept_package ?_

theorem execTemperatureRead_kept {q₀ : List Instr} {tiles : List (BitVec 16)} {hbm : BitVec 16} {s : State} (h : s.Kept q₀) : ResKept (execTemperatureRead tiles hbm s) q₀ := by
  unfold execTemperatureRead
  repeat' first
    | with_reducible assumption
    | with_reducible refine State.wr_kept ?_
    | with_reducible refine State.wrI_kept ?_
    | with_reducible refine State.setDom_kept ?_
    | with_reducible refine State.thermalAlert_kept ?_
    | with_reducible refine kept_foldl ?_ (fun _ _ _ => ?_)
    | with_reducible refine kept_foldl_pair ?_ (fun _ _ _ _ => ?_)
    | with_reducible refine resKept_next ?_
    | with_reducible refine kept_ite ?_ ?_
    | with_reducible refine resKept_ite ?_ ?_
    | split
    | refine kept_fst ‹_› ?_
    | dsimp only

theorem execThermalTrip_kept {q₀ : List Instr} {t1 : TileId} {s : State} (h : s.Kept q₀) : ResKept (execThermalTrip t1 s) q₀ := by
  unfold execThermalTrip
  repeat' first
    | with_reducible assumption
    | with_reducible refine State.emit_kept ?_
    | with_reducible refine State.raise_kept ?_
    | with_reducible refine resKept_next ?_
    | with_reducible refine kept_ite ?_ ?_
    | with_reducible refine resKept_ite ?_ ?_
    | split
    | dsimp only
    | with_reducible refine kept_package ?_

theorem execDspPerstRelease_kept {q₀ : List Instr} {n : Fin 4} {s : State} (h : s.Kept q₀) : ResKept (execDspPerstRelease n s) q₀ := by
  unfold execDspPerstRelease
  repeat' first
    | with_reducible assumption
    | with_reducible refine State.emit_kept ?_
    | with_reducible refine resKept_next ?_
    | with_reducible refine kept_ite ?_ ?_
    | with_reducible refine resKept_ite ?_ ?_
    | split
    | dsimp only
    | with_reducible refine kept_package ?_

theorem State.spdm_kept {q₀ : List Instr} {s : State} {link : ℕ} {request : ℕ} {response : ℕ} {data : List Byte} (h : s.Kept q₀) : (State.spdm s link request response data).Kept q₀ := by
  unfold State.spdm
  repeat' first
    | with_reducible assumption
    | with_reducible refine State.emit_kept ?_
    | with_reducible refine kept_ite ?_ ?_
    | split
    | dsimp only

theorem State.spdmError_kept {q₀ : List Instr} {s : State} {link : ℕ} {request : ℕ} {code : ℕ} (h : s.Kept q₀) : (State.spdmError s link request code).Kept q₀ := by
  unfold State.spdmError
  repeat' first
    | with_reducible assumption
    | with_reducible refine State.spdm_kept ?_
    | with_reducible refine kept_ite ?_ ?_
    | split
    | dsimp only

theorem execSpdmGetVersion_kept {q₀ : List Instr} {link : Fin 4} {s : State} (h : s.Kept q₀) : ResKept (execSpdmGetVersion link s) q₀ := by
  unfold execSpdmGetVersion
  repeat' first
    | with_reducible assumption
    | with_reducible refine State.spdm_kept ?_
    | with_reducible refine resKept_next ?_
    | with_reducible refine kept_ite ?_ ?_
    | with_reducible refine resKept_ite ?_ ?_
    | split
    | dsimp only

theorem execSpdmGetCapabilities_kept {q₀ : List Instr} {link : Fin 4} {s : State} (h : s.Kept q₀) : ResKept (execSpdmGetCapabilities link s) q₀ := by
  unfold execSpdmGetCapabilities
  repeat' first
    | with_reducible assumption
    | with_reducible refine State.spdm_kept ?_
    | with_reducible refine resKept_next ?_
    | with_reducible refine kept_ite ?_ ?_
    | with_reducible refine resKept_ite ?_ ?_
    | split
    | dsimp only

theorem execSpdmNegotiateAlgorithms_kept {q₀ : List Instr} {link : Fin 4} {offered : Bool} {s : State} (h : s.Kept q₀) : ResKept (execSpdmNegotiateAlgorithms link offered s) q₀ := by
  unfold execSpdmNegotiateAlgorithms
  repeat' first
    | with_reducible assumption
    | with_reducible refine State.spdm_kept ?_
    | with_reducible refine State.spdmError_kept ?_
    | with_reducible refine resKept_next ?_
    | with_reducible refine kept_ite ?_ ?_
    | with_reducible refine resKept_ite ?_ ?_
    | split
    | dsimp only

theorem execSpdmGetDigests_kept {q₀ : List Instr} {link : Fin 4} {s : State} (h : s.Kept q₀) : ResKept (execSpdmGetDigests link s) q₀ := by
  unfold execSpdmGetDigests
  repeat' first
    | with_reducible assumption
    | with_reducible refine State.spdm_kept ?_
    | with_reducible refine resKept_next ?_
    | with_reducible refine kept_ite ?_ ?_
    | with_reducible refine resKept_ite ?_ ?_
    | split
    | dsimp only

theorem execSpdmGetCertificate_kept {q₀ : List Instr} {link : Fin 4} {slot : BitVec 8} {offset : BitVec 16} {length : BitVec 16} {s : State} (h : s.Kept q₀) : ResKept (execSpdmGetCertificate link slot offset length s) q₀ := by
  unfold execSpdmGetCertificate
  repeat' first
    | with_reducible assumption
    | with_reducible refine State.spdm_kept ?_
    | with_reducible refine State.spdmError_kept ?_
    | with_reducible refine resKept_next ?_
    | with_reducible refine kept_ite ?_ ?_
    | with_reducible refine resKept_ite ?_ ?_
    | split
    | dsimp only

theorem State.spdmSigned_kept {q₀ : List Instr} {s : State} {link : ℕ} {request : ℕ} {response : ℕ} {nonce : BitVec 256} {data : List Byte} (h : s.Kept q₀) : (State.spdmSigned s link request response nonce data).Kept q₀ := by
  unfold State.spdmSigned
  repeat' first
    | with_reducible assumption
    | with_reducible refine State.emit_kept ?_
    | with_reducible refine State.openBits_kept ?_
    | with_reducible refine kept_ite ?_ ?_
    | with_reducible refine kept_ite_fst ?_ ?_
    | split
    | refine kept_fst ‹_› ?_
    | dsimp only

theorem execSpdmChallenge_kept {q₀ : List Instr} {link : Fin 4} {slot : BitVec 8} {nonce : BitVec 256} {s : State} (h : s.Kept q₀) : ResKept (execSpdmChallenge link slot nonce s) q₀ := by
  unfold execSpdmChallenge
  repeat' first
    | with_reducible assumption
    | with_reducible refine State.spdmError_kept ?_
    | with_reducible refine State.spdmSigned_kept ?_
    | with_reducible refine resKept_next ?_
    | with_reducible refine kept_ite ?_ ?_
    | with_reducible refine resKept_ite ?_ ?_
    | split
    | dsimp only

theorem execSpdmGetMeasurements_kept {q₀ : List Instr} {link : Fin 4} {index : BitVec 8} {nonce : BitVec 256} {s : State} (h : s.Kept q₀) : ResKept (execSpdmGetMeasurements link index nonce s) q₀ := by
  unfold execSpdmGetMeasurements
  repeat' first
    | with_reducible assumption
    | with_reducible refine State.spdmError_kept ?_
    | with_reducible refine State.spdmSigned_kept ?_
    | with_reducible refine resKept_next ?_
    | with_reducible refine kept_ite ?_ ?_
    | with_reducible refine resKept_ite ?_ ?_
    | split
    | dsimp only

theorem execSpdmUnsupportedRequest_kept {q₀ : List Instr} {link : Fin 4} {code : BitVec 8} {s : State} (h : s.Kept q₀) : ResKept (execSpdmUnsupportedRequest link code s) q₀ := by
  unfold execSpdmUnsupportedRequest
  repeat' first
    | with_reducible assumption
    | with_reducible refine State.spdmError_kept ?_
    | with_reducible refine resKept_next ?_
    | with_reducible refine kept_ite ?_ ?_
    | with_reducible refine resKept_ite ?_ ?_
    | split
    | dsimp only

end Sys2Proof.Machine
end

