-- ==== Sys2Proof/Laws/KeptWrites.lean ====
section
/-! SUPPORT. Laws/KeptWrites.lean: every operation of Machine/Writes.lean keeps the queue and the canonical form. -/

namespace Sys2Proof.Machine

theorem State.writes_kept {q₀ : List Instr} {s : State} {r : Req} {key : ℕ} {v : WireValue} {stopped : Bool} (h : s.Kept q₀) : (State.writes s r key v stopped).Kept q₀ := by
  unfold State.writes
  repeat' first
    | with_reducible assumption
    | with_reducible refine State.request_kept ?_
    | with_reducible refine kept_ite ?_ ?_
    | split
    | dsimp only

theorem State.writesBytes_kept {q₀ : List Instr} {s : State} {r : Req} {key : ℕ} {bs : List Byte} (h : s.Kept q₀) : (State.writesBytes s r key bs).Kept q₀ := by
  unfold State.writesBytes
  repeat' first
    | with_reducible assumption
    | with_reducible refine State.writes_kept ?_
    | with_reducible refine kept_ite ?_ ?_
    | split
    | dsimp only

theorem State.writesU8_kept {q₀ : List Instr} {s : State} {r : Req} {key : ℕ} {v : ℕ} {stopped : Bool} (h : s.Kept q₀) : (State.writesU8 s r key v stopped).Kept q₀ := by
  unfold State.writesU8
  repeat' first
    | with_reducible assumption
    | with_reducible refine State.writes_kept ?_
    | with_reducible refine kept_ite ?_ ?_
    | split
    | dsimp only

theorem execTimeStepOffset_kept {q₀ : List Instr} {r : Req} {v : WireValue} {s : State} (h : s.Kept q₀) : ResKept (execTimeStepOffset r v s) q₀ := by
  unfold execTimeStepOffset
  repeat' first
    | with_reducible assumption
    | with_reducible refine State.writes_kept ?_
    | with_reducible refine resKept_next ?_
    | with_reducible refine kept_ite ?_ ?_
    | with_reducible refine resKept_ite ?_ ?_
    | split
    | dsimp only

theorem execTimeSet_kept {q₀ : List Instr} {r : Req} {v : WireValue} {s : State} (h : s.Kept q₀) : ResKept (execTimeSet r v s) q₀ := by
  unfold execTimeSet
  repeat' first
    | with_reducible assumption
    | with_reducible refine State.writes_kept ?_
    | with_reducible refine resKept_next ?_
    | with_reducible refine kept_ite ?_ ?_
    | with_reducible refine resKept_ite ?_ ?_
    | split
    | dsimp only

theorem execGenCommit_kept {q₀ : List Instr} {r : Req} {n : Fin 32} {v : WireValue} {s : State} (h : s.Kept q₀) : ResKept (execGenCommit r n v s) q₀ := by
  unfold execGenCommit
  repeat' first
    | with_reducible assumption
    | with_reducible refine State.writes_kept ?_
    | with_reducible refine resKept_next ?_
    | with_reducible refine kept_ite ?_ ?_
    | with_reducible refine resKept_ite ?_ ?_
    | split
    | dsimp only

theorem execTioOwner_kept {q₀ : List Instr} {r : Req} {n : Fin 32} {v : WireValue} {s : State} (h : s.Kept q₀) : ResKept (execTioOwner r n v s) q₀ := by
  unfold execTioOwner
  repeat' first
    | with_reducible assumption
    | with_reducible refine State.writes_kept ?_
    | with_reducible refine resKept_next ?_
    | with_reducible refine kept_ite ?_ ?_
    | with_reducible refine resKept_ite ?_ ?_
    | split
    | dsimp only

theorem execCourseCommit_kept {q₀ : List Instr} {r : Req} {length : ℕ} {s : State} (h : s.Kept q₀) : ResKept (execCourseCommit r length s) q₀ := by
  unfold execCourseCommit
  repeat' first
    | with_reducible assumption
    | with_reducible refine State.writes_kept ?_
    | with_reducible refine resKept_next ?_
    | with_reducible refine kept_ite ?_ ?_
    | with_reducible refine resKept_ite ?_ ?_
    | split
    | dsimp only

theorem execOperatingMode_kept {q₀ : List Instr} {r : Req} {v : WireValue} {coresStopped : Bool} {s : State} (h : s.Kept q₀) : ResKept (execOperatingMode r v coresStopped s) q₀ := by
  unfold execOperatingMode
  repeat' first
    | with_reducible assumption
    | with_reducible refine State.writes_kept ?_
    | with_reducible refine resKept_next ?_
    | with_reducible refine kept_ite ?_ ?_
    | with_reducible refine resKept_ite ?_ ?_
    | split
    | dsimp only

theorem execSafeModeEnter_kept {q₀ : List Instr} {r : Req} {s : State} (h : s.Kept q₀) : ResKept (execSafeModeEnter r s) q₀ := by
  unfold execSafeModeEnter
  repeat' first
    | with_reducible assumption
    | with_reducible refine State.writesU8_kept ?_
    | with_reducible refine resKept_next ?_
    | with_reducible refine kept_ite ?_ ?_
    | with_reducible refine resKept_ite ?_ ?_
    | split
    | dsimp only

theorem execSafeModeLeave_kept {q₀ : List Instr} {r : Req} {target : BitVec 8} {coresStopped : Bool} {s : State} (h : s.Kept q₀) : ResKept (execSafeModeLeave r target coresStopped s) q₀ := by
  unfold execSafeModeLeave
  repeat' first
    | with_reducible assumption
    | with_reducible refine State.writesU8_kept ?_
    | with_reducible refine resKept_next ?_
    | with_reducible refine kept_ite ?_ ?_
    | with_reducible refine resKept_ite ?_ ?_
    | split
    | dsimp only

theorem execPortEnable_kept {q₀ : List Instr} {r : Req} {p : PortId} {v : WireValue} {s : State} (h : s.Kept q₀) : ResKept (execPortEnable r p v s) q₀ := by
  unfold execPortEnable
  repeat' first
    | with_reducible assumption
    | with_reducible refine State.writes_kept ?_
    | with_reducible refine resKept_next ?_
    | with_reducible refine kept_ite ?_ ?_
    | with_reducible refine resKept_ite ?_ ?_
    | split
    | dsimp only

theorem execLaneGrouping_kept {q₀ : List Instr} {r : Req} {t1 : Fin 32} {v : WireValue} {s : State} (h : s.Kept q₀) : ResKept (execLaneGrouping r t1 v s) q₀ := by
  unfold execLaneGrouping
  repeat' first
    | with_reducible assumption
    | with_reducible refine State.writes_kept ?_
    | with_reducible refine resKept_next ?_
    | with_reducible refine kept_ite ?_ ?_
    | with_reducible refine resKept_ite ?_ ?_
    | split
    | dsimp only

theorem execGateControlList_kept {q₀ : List Instr} {r : Req} {p : PortId} {bytes : List Byte} {s : State} (h : s.Kept q₀) : ResKept (execGateControlList r p bytes s) q₀ := by
  unfold execGateControlList
  repeat' first
    | with_reducible assumption
    | with_reducible refine State.writesBytes_kept ?_
    | with_reducible refine resKept_next ?_
    | with_reducible refine kept_ite ?_ ?_
    | with_reducible refine resKept_ite ?_ ?_
    | split
    | dsimp only

theorem execPolicerUpdate_kept {q₀ : List Instr} {r : Req} {t1 : Fin 32} {index : BitVec 16} {entry : BitVec 256} {s : State} (h : s.Kept q₀) : ResKept (execPolicerUpdate r t1 index entry s) q₀ := by
  unfold execPolicerUpdate
  repeat' first
    | with_reducible assumption
    | with_reducible refine State.writesBytes_kept ?_
    | with_reducible refine resKept_next ?_
    | with_reducible refine kept_ite ?_ ?_
    | with_reducible refine resKept_ite ?_ ?_
    | split
    | dsimp only

theorem execPolicerQuery_kept {q₀ : List Instr} {r : Req} {t1 : Fin 32} {index : BitVec 16} {s : State} (h : s.Kept q₀) : ResKept (execPolicerQuery r t1 index s) q₀ := by
  unfold execPolicerQuery
  repeat' first
    | with_reducible assumption
    | with_reducible refine State.writesBytes_kept ?_
    | with_reducible refine resKept_next ?_
    | with_reducible refine kept_ite ?_ ?_
    | with_reducible refine resKept_ite ?_ ?_
    | split
    | dsimp only

theorem execFdbInsertOrReplace_kept {q₀ : List Instr} {r : Req} {entry : BitVec 128} {s : State} (h : s.Kept q₀) : ResKept (execFdbInsertOrReplace r entry s) q₀ := by
  unfold execFdbInsertOrReplace
  repeat' first
    | with_reducible assumption
    | with_reducible refine State.writesBytes_kept ?_
    | with_reducible refine resKept_next ?_
    | with_reducible refine kept_ite ?_ ?_
    | with_reducible refine resKept_ite ?_ ?_
    | split
    | dsimp only

theorem execFdbDelete_kept {q₀ : List Instr} {r : Req} {entry : BitVec 128} {s : State} (h : s.Kept q₀) : ResKept (execFdbDelete r entry s) q₀ := by
  unfold execFdbDelete
  repeat' first
    | with_reducible assumption
    | with_reducible refine State.writesBytes_kept ?_
    | with_reducible refine resKept_next ?_
    | with_reducible refine kept_ite ?_ ?_
    | with_reducible refine resKept_ite ?_ ?_
    | split
    | dsimp only

theorem execFdbPurge_kept {q₀ : List Instr} {r : Req} {fid : BitVec 12} {gen : BitVec 16} {s : State} (h : s.Kept q₀) : ResKept (execFdbPurge r fid gen s) q₀ := by
  unfold execFdbPurge
  repeat' first
    | with_reducible assumption
    | with_reducible refine State.writesBytes_kept ?_
    | with_reducible refine resKept_next ?_
    | with_reducible refine kept_ite ?_ ?_
    | with_reducible refine resKept_ite ?_ ?_
    | split
    | dsimp only

theorem execFdbRestamp_kept {q₀ : List Instr} {r : Req} {fid : BitVec 12} {gen : BitVec 16} {s : State} (h : s.Kept q₀) : ResKept (execFdbRestamp r fid gen s) q₀ := by
  unfold execFdbRestamp
  repeat' first
    | with_reducible assumption
    | with_reducible refine State.writesBytes_kept ?_
    | with_reducible refine resKept_next ?_
    | with_reducible refine kept_ite ?_ ?_
    | with_reducible refine resKept_ite ?_ ?_
    | split
    | dsimp only

theorem execFdbQuery_kept {q₀ : List Instr} {r : Req} {key : BitVec 128} {s : State} (h : s.Kept q₀) : ResKept (execFdbQuery r key s) q₀ := by
  unfold execFdbQuery
  repeat' first
    | with_reducible assumption
    | with_reducible refine State.writesBytes_kept ?_
    | with_reducible refine resKept_next ?_
    | with_reducible refine kept_ite ?_ ?_
    | with_reducible refine resKept_ite ?_ ?_
    | split
    | dsimp only

theorem execFdbSweep_kept {q₀ : List Instr} {r : Req} {first : BitVec 32} {count : BitVec 16} {s : State} (h : s.Kept q₀) : ResKept (execFdbSweep r first count s) q₀ := by
  unfold execFdbSweep
  repeat' first
    | with_reducible assumption
    | with_reducible refine State.writesBytes_kept ?_
    | with_reducible refine resKept_next ?_
    | with_reducible refine kept_ite ?_ ?_
    | with_reducible refine resKept_ite ?_ ?_
    | split
    | dsimp only

theorem execTernaryInsert_kept {q₀ : List Instr} {r : Req} {t1 : Fin 32} {record : List Byte} {s : State} (h : s.Kept q₀) : ResKept (execTernaryInsert r t1 record s) q₀ := by
  unfold execTernaryInsert
  repeat' first
    | with_reducible assumption
    | with_reducible refine State.writesBytes_kept ?_
    | with_reducible refine resKept_next ?_
    | with_reducible refine kept_ite ?_ ?_
    | with_reducible refine resKept_ite ?_ ?_
    | split
    | dsimp only

theorem execTernaryReplace_kept {q₀ : List Instr} {r : Req} {t1 : Fin 32} {record : List Byte} {s : State} (h : s.Kept q₀) : ResKept (execTernaryReplace r t1 record s) q₀ := by
  unfold execTernaryReplace
  repeat' first
    | with_reducible assumption
    | with_reducible refine State.writesBytes_kept ?_
    | with_reducible refine resKept_next ?_
    | with_reducible refine kept_ite ?_ ?_
    | with_reducible refine resKept_ite ?_ ?_
    | split
    | dsimp only

theorem execTernaryDelete_kept {q₀ : List Instr} {r : Req} {t1 : Fin 32} {pipeline : Fin 2} {rule : BitVec 32} {s : State} (h : s.Kept q₀) : ResKept (execTernaryDelete r t1 pipeline rule s) q₀ := by
  unfold execTernaryDelete
  repeat' first
    | with_reducible assumption
    | with_reducible refine State.writesBytes_kept ?_
    | with_reducible refine resKept_next ?_
    | with_reducible refine kept_ite ?_ ?_
    | with_reducible refine resKept_ite ?_ ?_
    | split
    | dsimp only

theorem execTernaryQuery_kept {q₀ : List Instr} {r : Req} {t1 : Fin 32} {rule : BitVec 32} {s : State} (h : s.Kept q₀) : ResKept (execTernaryQuery r t1 rule s) q₀ := by
  unfold execTernaryQuery
  repeat' first
    | with_reducible assumption
    | with_reducible refine State.writesBytes_kept ?_
    | with_reducible refine resKept_next ?_
    | with_reducible refine kept_ite ?_ ?_
    | with_reducible refine resKept_ite ?_ ?_
    | split
    | dsimp only

theorem execExactInsertOrReplace_kept {q₀ : List Instr} {r : Req} {x1 : Fin 16} {key : BitVec 256} {action : BitVec 256} {s : State} (h : s.Kept q₀) : ResKept (execExactInsertOrReplace r x1 key action s) q₀ := by
  unfold execExactInsertOrReplace
  repeat' first
    | with_reducible assumption
    | with_reducible refine State.writesBytes_kept ?_
    | with_reducible refine resKept_next ?_
    | with_reducible refine kept_ite ?_ ?_
    | with_reducible refine resKept_ite ?_ ?_
    | split
    | dsimp only

theorem execExactDelete_kept {q₀ : List Instr} {r : Req} {x1 : Fin 16} {key : BitVec 256} {s : State} (h : s.Kept q₀) : ResKept (execExactDelete r x1 key s) q₀ := by
  unfold execExactDelete
  repeat' first
    | with_reducible assumption
    | with_reducible refine State.writesBytes_kept ?_
    | with_reducible refine resKept_next ?_
    | with_reducible refine kept_ite ?_ ?_
    | with_reducible refine resKept_ite ?_ ?_
    | split
    | dsimp only

theorem execExactQuery_kept {q₀ : List Instr} {r : Req} {x1 : Fin 16} {key : BitVec 256} {s : State} (h : s.Kept q₀) : ResKept (execExactQuery r x1 key s) q₀ := by
  unfold execExactQuery
  repeat' first
    | with_reducible assumption
    | with_reducible refine State.writesBytes_kept ?_
    | with_reducible refine resKept_next ?_
    | with_reducible refine kept_ite ?_ ?_
    | with_reducible refine resKept_ite ?_ ?_
    | split
    | dsimp only

theorem execExactSweep_kept {q₀ : List Instr} {r : Req} {x1 : Fin 16} {first : BitVec 32} {count : BitVec 16} {s : State} (h : s.Kept q₀) : ResKept (execExactSweep r x1 first count s) q₀ := by
  unfold execExactSweep
  repeat' first
    | with_reducible assumption
    | with_reducible refine State.writesBytes_kept ?_
    | with_reducible refine resKept_next ?_
    | with_reducible refine kept_ite ?_ ?_
    | with_reducible refine resKept_ite ?_ ?_
    | split
    | dsimp only

theorem execLoadOrReplace_kept {q₀ : List Instr} {r : Req} {t1 : Fin 32} {pipeline : Fin 2} {entry : Fin 256} {words : List (BitVec 32)} {s : State} (h : s.Kept q₀) : ResKept (execLoadOrReplace r t1 pipeline entry words s) q₀ := by
  unfold execLoadOrReplace
  repeat' first
    | with_reducible assumption
    | with_reducible refine State.writesBytes_kept ?_
    | with_reducible refine resKept_next ?_
    | with_reducible refine kept_ite ?_ ?_
    | with_reducible refine resKept_ite ?_ ?_
    | split
    | dsimp only

theorem execRemove_kept {q₀ : List Instr} {r : Req} {t1 : Fin 32} {pipeline : Fin 2} {entry : Fin 256} {s : State} (h : s.Kept q₀) : ResKept (execRemove r t1 pipeline entry s) q₀ := by
  unfold execRemove
  repeat' first
    | with_reducible assumption
    | with_reducible refine State.writesBytes_kept ?_
    | with_reducible refine resKept_next ?_
    | with_reducible refine kept_ite ?_ ?_
    | with_reducible refine resKept_ite ?_ ?_
    | split
    | dsimp only

theorem execMicrocodePatch_kept {q₀ : List Instr} {r : Req} {bytes : List Byte} {s : State} (h : s.Kept q₀) : ResKept (execMicrocodePatch r bytes s) q₀ := by
  unfold execMicrocodePatch
  repeat' first
    | with_reducible assumption
    | with_reducible refine State.writesBytes_kept ?_
    | with_reducible refine resKept_next ?_
    | with_reducible refine kept_ite ?_ ?_
    | with_reducible refine resKept_ite ?_ ?_
    | split
    | dsimp only

theorem execStateMemory_kept {q₀ : List Instr} {r : Req} {t1 : Fin 32} {pipeline : Fin 2} {address : BitVec 16} {words : List (BitVec 32)} {s : State} (h : s.Kept q₀) : ResKept (execStateMemory r t1 pipeline address words s) q₀ := by
  unfold execStateMemory
  repeat' first
    | with_reducible assumption
    | with_reducible refine State.writesBytes_kept ?_
    | with_reducible refine resKept_next ?_
    | with_reducible refine kept_ite ?_ ?_
    | with_reducible refine resKept_ite ?_ ?_
    | split
    | dsimp only

theorem execKeyLoad_kept {q₀ : List Instr} {r : Req} {record : List Byte} {s : State} (h : s.Kept q₀) : ResKept (execKeyLoad r record s) q₀ := by
  unfold execKeyLoad
  repeat' first
    | with_reducible assumption
    | with_reducible refine State.writesBytes_kept ?_
    | with_reducible refine resKept_next ?_
    | with_reducible refine kept_ite ?_ ?_
    | with_reducible refine resKept_ite ?_ ?_
    | split
    | dsimp only

theorem execKeyErase_kept {q₀ : List Instr} {r : Req} {slot : BitVec 16} {s : State} (h : s.Kept q₀) : ResKept (execKeyErase r slot s) q₀ := by
  unfold execKeyErase
  repeat' first
    | with_reducible assumption
    | with_reducible refine State.writes_kept ?_
    | with_reducible refine resKept_next ?_
    | with_reducible refine kept_ite ?_ ?_
    | with_reducible refine resKept_ite ?_ ?_
    | split
    | dsimp only

theorem execKeySlotOwner_kept {q₀ : List Instr} {r : Req} {slot : BitVec 16} {kind : BitVec 8} {slice : BitVec 16} {s : State} (h : s.Kept q₀) : ResKept (execKeySlotOwner r slot kind slice s) q₀ := by
  unfold execKeySlotOwner
  repeat' first
    | with_reducible assumption
    | with_reducible refine State.writesBytes_kept ?_
    | with_reducible refine resKept_next ?_
    | with_reducible refine kept_ite ?_ ?_
    | with_reducible refine resKept_ite ?_ ?_
    | split
    | dsimp only

theorem execKeySlotInfo_kept {q₀ : List Instr} {r : Req} {slot : BitVec 16} {s : State} (h : s.Kept q₀) : ResKept (execKeySlotInfo r slot s) q₀ := by
  unfold execKeySlotInfo
  repeat' first
    | with_reducible assumption
    | with_reducible refine State.writesBytes_kept ?_
    | with_reducible refine resKept_next ?_
    | with_reducible refine kept_ite ?_ ?_
    | with_reducible refine resKept_ite ?_ ?_
    | split
    | dsimp only

theorem execSliceResourceSet_kept {q₀ : List Instr} {r : Req} {slice : BitVec 16} {record : BitVec 512} {s : State} (h : s.Kept q₀) : ResKept (execSliceResourceSet r slice record s) q₀ := by
  unfold execSliceResourceSet
  repeat' first
    | with_reducible assumption
    | with_reducible refine State.writesBytes_kept ?_
    | with_reducible refine resKept_next ?_
    | with_reducible refine kept_ite ?_ ?_
    | with_reducible refine resKept_ite ?_ ?_
    | split
    | dsimp only

theorem execSliceQuery_kept {q₀ : List Instr} {r : Req} {slice : BitVec 16} {s : State} (h : s.Kept q₀) : ResKept (execSliceQuery r slice s) q₀ := by
  unfold execSliceQuery
  repeat' first
    | with_reducible assumption
    | with_reducible refine State.writesBytes_kept ?_
    | with_reducible refine resKept_next ?_
    | with_reducible refine kept_ite ?_ ?_
    | with_reducible refine resKept_ite ?_ ?_
    | split
    | dsimp only

theorem execSliceState_kept {q₀ : List Instr} {r : Req} {slice : BitVec 16} {link : BitVec 8} {fn : BitVec 8} {records : List Byte} {s : State} (h : s.Kept q₀) : ResKept (execSliceState r slice link fn records s) q₀ := by
  unfold execSliceState
  repeat' first
    | with_reducible assumption
    | with_reducible refine State.writesBytes_kept ?_
    | with_reducible refine resKept_next ?_
    | with_reducible refine kept_ite ?_ ?_
    | with_reducible refine resKept_ite ?_ ?_
    | split
    | dsimp only

theorem execNamespaceRecord_kept {q₀ : List Instr} {r : Req} {n : BitVec 16} {record : BitVec 384} {s : State} (h : s.Kept q₀) : ResKept (execNamespaceRecord r n record s) q₀ := by
  unfold execNamespaceRecord
  repeat' first
    | with_reducible assumption
    | with_reducible refine State.writesBytes_kept ?_
    | with_reducible refine resKept_next ?_
    | with_reducible refine kept_ite ?_ ?_
    | with_reducible refine resKept_ite ?_ ?_
    | split
    | dsimp only

theorem execQpCreate_kept {q₀ : List Instr} {r : Req} {record : List Byte} {s : State} (h : s.Kept q₀) : ResKept (execQpCreate r record s) q₀ := by
  unfold execQpCreate
  repeat' first
    | with_reducible assumption
    | with_reducible refine State.writesBytes_kept ?_
    | with_reducible refine resKept_next ?_
    | with_reducible refine kept_ite ?_ ?_
    | with_reducible refine resKept_ite ?_ ?_
    | split
    | dsimp only

theorem execQpModify_kept {q₀ : List Instr} {r : Req} {record : List Byte} {s : State} (h : s.Kept q₀) : ResKept (execQpModify r record s) q₀ := by
  unfold execQpModify
  repeat' first
    | with_reducible assumption
    | with_reducible refine State.writesBytes_kept ?_
    | with_reducible refine resKept_next ?_
    | with_reducible refine kept_ite ?_ ?_
    | with_reducible refine resKept_ite ?_ ?_
    | split
    | dsimp only

theorem execQpDestroy_kept {q₀ : List Instr} {r : Req} {record : List Byte} {s : State} (h : s.Kept q₀) : ResKept (execQpDestroy r record s) q₀ := by
  unfold execQpDestroy
  repeat' first
    | with_reducible assumption
    | with_reducible refine State.writesBytes_kept ?_
    | with_reducible refine resKept_next ?_
    | with_reducible refine kept_ite ?_ ?_
    | with_reducible refine resKept_ite ?_ ?_
    | split
    | dsimp only

theorem execCqCreate_kept {q₀ : List Instr} {r : Req} {record : List Byte} {s : State} (h : s.Kept q₀) : ResKept (execCqCreate r record s) q₀ := by
  unfold execCqCreate
  repeat' first
    | with_reducible assumption
    | with_reducible refine State.writesBytes_kept ?_
    | with_reducible refine resKept_next ?_
    | with_reducible refine kept_ite ?_ ?_
    | with_reducible refine resKept_ite ?_ ?_
    | split
    | dsimp only

theorem execCqDestroy_kept {q₀ : List Instr} {r : Req} {record : List Byte} {s : State} (h : s.Kept q₀) : ResKept (execCqDestroy r record s) q₀ := by
  unfold execCqDestroy
  repeat' first
    | with_reducible assumption
    | with_reducible refine State.writesBytes_kept ?_
    | with_reducible refine resKept_next ?_
    | with_reducible refine kept_ite ?_ ?_
    | with_reducible refine resKept_ite ?_ ?_
    | split
    | dsimp only

theorem execAhCreate_kept {q₀ : List Instr} {r : Req} {record : List Byte} {s : State} (h : s.Kept q₀) : ResKept (execAhCreate r record s) q₀ := by
  unfold execAhCreate
  repeat' first
    | with_reducible assumption
    | with_reducible refine State.writesBytes_kept ?_
    | with_reducible refine resKept_next ?_
    | with_reducible refine kept_ite ?_ ?_
    | with_reducible refine resKept_ite ?_ ?_
    | split
    | dsimp only

theorem execAhDestroy_kept {q₀ : List Instr} {r : Req} {record : List Byte} {s : State} (h : s.Kept q₀) : ResKept (execAhDestroy r record s) q₀ := by
  unfold execAhDestroy
  repeat' first
    | with_reducible assumption
    | with_reducible refine State.writesBytes_kept ?_
    | with_reducible refine resKept_next ?_
    | with_reducible refine kept_ite ?_ ?_
    | with_reducible refine resKept_ite ?_ ?_
    | split
    | dsimp only

theorem execRegionRegister_kept {q₀ : List Instr} {r : Req} {record : List Byte} {s : State} (h : s.Kept q₀) : ResKept (execRegionRegister r record s) q₀ := by
  unfold execRegionRegister
  repeat' first
    | with_reducible assumption
    | with_reducible refine State.writesBytes_kept ?_
    | with_reducible refine resKept_next ?_
    | with_reducible refine kept_ite ?_ ?_
    | with_reducible refine resKept_ite ?_ ?_
    | split
    | dsimp only

theorem execRegionDeregister_kept {q₀ : List Instr} {r : Req} {record : List Byte} {s : State} (h : s.Kept q₀) : ResKept (execRegionDeregister r record s) q₀ := by
  unfold execRegionDeregister
  repeat' first
    | with_reducible assumption
    | with_reducible refine State.writesBytes_kept ?_
    | with_reducible refine resKept_next ?_
    | with_reducible refine kept_ite ?_ ?_
    | with_reducible refine resKept_ite ?_ ?_
    | split
    | dsimp only

theorem execRdmaQuery_kept {q₀ : List Instr} {r : Req} {kind : BitVec 8} {number : BitVec 32} {s : State} (h : s.Kept q₀) : ResKept (execRdmaQuery r kind number s) q₀ := by
  unfold execRdmaQuery
  repeat' first
    | with_reducible assumption
    | with_reducible refine State.writesBytes_kept ?_
    | with_reducible refine resKept_next ?_
    | with_reducible refine kept_ite ?_ ?_
    | with_reducible refine resKept_ite ?_ ?_
    | split
    | dsimp only

theorem execSignedCommand_kept {q₀ : List Instr} {r : Req} {bytes : List Byte} {coresStopped : Bool} {s : State} (h : s.Kept q₀) : ResKept (execSignedCommand r bytes coresStopped s) q₀ := by
  unfold execSignedCommand
  repeat' first
    | with_reducible assumption
    | with_reducible refine State.writes_kept ?_
    | with_reducible refine resKept_next ?_
    | with_reducible refine kept_ite ?_ ?_
    | with_reducible refine resKept_ite ?_ ?_
    | split
    | dsimp only

theorem execImageDownload_kept {q₀ : List Instr} {r : Req} {first : Bool} {last : Bool} {offset : BitVec 32} {total : BitVec 32} {data : List Byte} {s : State} (h : s.Kept q₀) : ResKept (execImageDownload r first last offset total data s) q₀ := by
  unfold execImageDownload
  repeat' first
    | with_reducible assumption
    | with_reducible refine State.request_kept ?_
    | with_reducible refine resKept_next ?_
    | with_reducible refine kept_ite ?_ ?_
    | with_reducible refine resKept_ite ?_ ?_
    | split
    | dsimp only

theorem execImageCommit_kept {q₀ : List Instr} {r : Req} {slot : BitVec 8} {s : State} (h : s.Kept q₀) : ResKept (execImageCommit r slot s) q₀ := by
  unfold execImageCommit
  repeat' first
    | with_reducible assumption
    | with_reducible refine State.writesU8_kept ?_
    | with_reducible refine resKept_next ?_
    | with_reducible refine kept_ite ?_ ?_
    | with_reducible refine resKept_ite ?_ ?_
    | split
    | dsimp only

theorem execSlotErase_kept {q₀ : List Instr} {r : Req} {slot : BitVec 8} {s : State} (h : s.Kept q₀) : ResKept (execSlotErase r slot s) q₀ := by
  unfold execSlotErase
  repeat' first
    | with_reducible assumption
    | with_reducible refine State.writesU8_kept ?_
    | with_reducible refine resKept_next ?_
    | with_reducible refine kept_ite ?_ ?_
    | with_reducible refine resKept_ite ?_ ?_
    | split
    | dsimp only

theorem execActivateSlot_kept {q₀ : List Instr} {r : Req} {slot : BitVec 8} {s : State} (h : s.Kept q₀) : ResKept (execActivateSlot r slot s) q₀ := by
  unfold execActivateSlot
  repeat' first
    | with_reducible assumption
    | with_reducible refine State.writesU8_kept ?_
    | with_reducible refine resKept_next ?_
    | with_reducible refine kept_ite ?_ ?_
    | with_reducible refine resKept_ite ?_ ?_
    | split
    | dsimp only

theorem execTileSleep_kept {q₀ : List Instr} {r : Req} {t1 : Fin 16} {coresStopped : Bool} {s : State} (h : s.Kept q₀) : ResKept (execTileSleep r t1 coresStopped s) q₀ := by
  unfold execTileSleep
  repeat' first
    | with_reducible assumption
    | with_reducible refine State.writes_kept ?_
    | with_reducible refine resKept_next ?_
    | with_reducible refine kept_ite ?_ ?_
    | with_reducible refine resKept_ite ?_ ?_
    | split
    | dsimp only

theorem execTileWake_kept {q₀ : List Instr} {r : Req} {t1 : Fin 16} {s : State} (h : s.Kept q₀) : ResKept (execTileWake r t1 s) q₀ := by
  unfold execTileWake
  repeat' first
    | with_reducible assumption
    | with_reducible refine State.writes_kept ?_
    | with_reducible refine resKept_next ?_
    | with_reducible refine kept_ite ?_ ?_
    | with_reducible refine resKept_ite ?_ ?_
    | split
    | dsimp only

end Sys2Proof.Machine
end

