-- ==== Sys2Proof/Laws/KeptRegisters.lean ====
section
/-! SUPPORT. Laws/KeptRegisters.lean: every operation of Machine/Registers.lean keeps the queue and the canonical form. -/

namespace Sys2Proof.Machine

theorem State.does_kept {q₀ : List Instr} {s : State} {f : State → Res} (h : s.Kept q₀)
    (hf : ∀ t, t.Kept q₀ → ResKept (f t) q₀) : (State.does s f).Kept q₀ := by
  unfold State.does
  split
  · exact hf s h _ ‹_›
  all_goals exact h


theorem State.regValue_kept {q₀ : List Instr} {s : State} {f : ℕ} {r : Reg} (h : s.Kept q₀) : (State.regValue s f r).1.Kept q₀ := by
  unfold State.regValue
  repeat' first
    | with_reducible assumption
    | with_reducible refine State.openBits_kept ?_
    | with_reducible refine kept_ite ?_ ?_
    | with_reducible refine kept_ite_fst ?_ ?_
    | split
    | refine kept_fst ‹_› ?_
    | dsimp only

theorem State.pinStore_kept {q₀ : List Instr} {s : State} {link : ℕ} {n : ℕ} {at_ : ℕ} {i : ℕ} {bs : List Byte} (h : s.Kept q₀) : (State.pinStore s link n at_ i bs).1.Kept q₀ := by
  unfold State.pinStore
  repeat' first
    | with_reducible assumption
    | with_reducible refine State.bump_kept ?_
    | with_reducible refine State.agentWrite_kept ?_
    | with_reducible refine kept_ite ?_ ?_
    | with_reducible refine kept_ite_fst ?_ ?_
    | split
    | dsimp only

theorem execPinBlockWrite_kept {q₀ : List Instr} {link : Fin 4} {n : Fin 32} {offset : Fin 64} {bytes : List Byte} {off : ℕ} {s0 : State} (h : s0.Kept q₀) : ResKept (execPinBlockWrite link n offset bytes off s0) q₀ := by
  unfold execPinBlockWrite
  repeat' first
    | with_reducible assumption
    | with_reducible refine State.bump_kept ?_
    | with_reducible refine State.moveTo_kept ?_
    | with_reducible refine State.pinStore_kept ?_
    | with_reducible refine resKept_next ?_
    | with_reducible refine kept_ite ?_ ?_
    | with_reducible refine resKept_ite ?_ ?_
    | with_reducible refine kept_ite_fst ?_ ?_
    | split
    | refine kept_fst ‹_› ?_
    | dsimp only
    | with_reducible refine kept_host ?_ rfl

theorem State.enableCtrl_kept {q₀ : List Instr} {s : State} {link : ℕ} (h : s.Kept q₀) : (State.enableCtrl s link).Kept q₀ := by
  unfold State.enableCtrl
  repeat' first
    | with_reducible assumption
    | with_reducible refine State.setNvq_kept ?_
    | with_reducible refine State.setCtrl_kept ?_
    | with_reducible refine kept_ite ?_ ?_
    | split
    | dsimp only

theorem State.writeCc_kept {q₀ : List Instr} {s : State} {link : ℕ} {v : ℕ} (h : s.Kept q₀) : (State.writeCc s link v).Kept q₀ := by
  unfold State.writeCc
  repeat' first
    | with_reducible assumption
    | with_reducible refine State.abandonReads_kept ?_
    | with_reducible refine State.setCtrl_kept ?_
    | with_reducible refine State.resetCtrl_kept ?_
    | with_reducible refine State.enableCtrl_kept ?_
    | with_reducible refine kept_ite ?_ ?_
    | split
    | dsimp only

theorem State.nvmeWrite_kept {q₀ : List Instr} {s : State} {link : ℕ} {n : ℕ} {v : ℕ} (h : s.Kept q₀) : (State.nvmeWrite s link n v).Kept q₀ := by
  unfold State.nvmeWrite
  repeat' first
    | with_reducible assumption
    | with_reducible refine State.setCtrl_kept ?_
    | with_reducible refine State.writeCc_kept ?_
    | with_reducible refine kept_ite ?_ ?_
    | split
    | dsimp only

theorem State.sliceWrite_kept {q₀ : List Instr} {s : State} {k : SliceRef} {v : ℕ} {low : Bool} {off : ℕ} (h : s.Kept q₀) : (State.sliceWrite s k v low off).Kept q₀ := by
  unfold State.sliceWrite
  repeat' first
    | with_reducible assumption
    | with_reducible refine State.setBlock_kept ?_
    | with_reducible refine execBound_kept ?_
    | with_reducible refine execUnbind_kept ?_
    | with_reducible refine execQuiesce_kept ?_
    | with_reducible refine execDirtyLogEnable_kept ?_
    | with_reducible refine execDirtyFlip_kept ?_
    | with_reducible refine execSliceReset_kept ?_
    | with_reducible refine State.does_kept ?_ (fun _ _ => ?_)
    | with_reducible refine kept_ite ?_ ?_
    | split
    | dsimp only

theorem State.contextWrite_kept {q₀ : List Instr} {s : State} {k : QueueRef} {v : ℕ} (h : s.Kept q₀) : (State.contextWrite s k v).Kept q₀ := by
  unfold State.contextWrite
  repeat' first
    | with_reducible assumption
    | with_reducible refine State.setQp_kept ?_
    | with_reducible refine execQueueEnable_kept ?_
    | with_reducible refine execQueueDisable_kept ?_
    | with_reducible refine State.does_kept ?_ (fun _ _ => ?_)
    | with_reducible refine kept_ite ?_ ?_
    | split
    | dsimp only

theorem State.nvmeContextWrite_kept {q₀ : List Instr} {s : State} {k : QueueRef} {v : ℕ} (h : s.Kept q₀) : (State.nvmeContextWrite s k v).Kept q₀ := by
  unfold State.nvmeContextWrite
  repeat' first
    | with_reducible assumption
    | with_reducible refine State.setNvq_kept ?_
    | with_reducible refine execNvmeQueueEnable_kept ?_
    | with_reducible refine State.does_kept ?_ (fun _ _ => ?_)
    | with_reducible refine kept_ite ?_ ?_
    | split
    | dsimp only

theorem State.peerWrite_kept {q₀ : List Instr} {s : State} {link : Fin 4} {w : Fin 64} {v : ℕ} {i : ℕ} {n : ℕ} {off : ℕ} (h : s.Kept q₀) : (State.peerWrite s link w v i n off).Kept q₀ := by
  unfold State.peerWrite
  repeat' first
    | with_reducible assumption
    | with_reducible refine State.bump_kept ?_
    | with_reducible refine State.setWindow_kept ?_
    | with_reducible refine execPeerWindowCommit_kept ?_
    | with_reducible refine State.does_kept ?_ (fun _ _ => ?_)
    | with_reducible refine kept_ite ?_ ?_
    | split
    | dsimp only

theorem State.msixWrite_kept {q₀ : List Instr} {s : State} {f : ℕ} {n : ℕ} {v : ℕ} (h : s.Kept q₀) : (State.msixWrite s f n v).Kept q₀ := by
  unfold State.msixWrite
  repeat' first
    | with_reducible assumption
    | with_reducible refine State.setHostFn_kept ?_
    | with_reducible refine State.msixInterrupt_kept ?_
    | with_reducible refine kept_ite ?_ ?_
    | split
    | dsimp only

theorem State.storeWrite_kept {q₀ : List Instr} {s : State} {f : ℕ} {n : ℕ} {v : ℕ} (h : s.Kept q₀) : (State.storeWrite s f n v).Kept q₀ := by
  unfold State.storeWrite
  repeat' first
    | with_reducible assumption
    | with_reducible refine State.setHostFn_kept ?_
    | with_reducible refine State.message_kept ?_
    | with_reducible refine kept_ite ?_ ?_
    | with_reducible refine kept_ite_fst ?_ ?_
    | split
    | refine kept_fst ‹_› ?_
    | dsimp only

theorem State.doorbellWrite_kept {q₀ : List Instr} {s : State} {link : Fin 4} {fn : Fin 4} {slice : Fin 4096} {q1 : Fin 64} {at_ : ℕ} {v : ℕ} (h : s.Kept q₀) : (State.doorbellWrite s link fn slice q1 at_ v).Kept q₀ := by
  unfold State.doorbellWrite
  repeat' first
    | with_reducible assumption
    | with_reducible refine execTxTail_kept ?_
    | with_reducible refine execRxTail_kept ?_
    | with_reducible refine execCqHead_kept ?_
    | with_reducible refine execSqTail_kept ?_
    | with_reducible refine execNvmeCqHead_kept ?_
    | with_reducible refine execSendQueueTail_kept ?_
    | with_reducible refine execReceiveQueueTail_kept ?_
    | with_reducible refine execCompletionQueueHead_kept ?_
    | with_reducible refine execCompletionQueueHeadArmed_kept ?_
    | with_reducible refine State.does_kept ?_ (fun _ _ => ?_)
    | with_reducible refine kept_ite ?_ ?_
    | split
    | dsimp only

theorem State.nvmeDoorbellWrite_kept {q₀ : List Instr} {s : State} {link : Fin 4} {n : ℕ} {v : ℕ} (h : s.Kept q₀) : (State.nvmeDoorbellWrite s link n v).Kept q₀ := by
  unfold State.nvmeDoorbellWrite
  repeat' first
    | with_reducible assumption
    | with_reducible refine execSqTail_kept ?_
    | with_reducible refine execNvmeCqHead_kept ?_
    | with_reducible refine State.does_kept ?_ (fun _ _ => ?_)
    | with_reducible refine kept_ite ?_ ?_
    | split
    | dsimp only

theorem State.mailboxWrite_kept {q₀ : List Instr} {s : State} {link : Fin 4} {n : ℕ} {v : ℕ} (h : s.Kept q₀) : (State.mailboxWrite s link n v).Kept q₀ := by
  unfold State.mailboxWrite
  repeat' first
    | with_reducible assumption
    | with_reducible refine State.setMailbox_kept ?_
    | with_reducible refine execMailboxDoorbell_kept ?_
    | with_reducible refine State.does_kept ?_ (fun _ _ => ?_)
    | with_reducible refine kept_ite ?_ ?_
    | split
    | dsimp only

theorem State.regWrite_kept {q₀ : List Instr} {s : State} {link : Fin 4} {fn : Fin 4} {r : Reg} {i : ℕ} {bs : List Byte} {v : ℕ} {off : ℕ} (h : s.Kept q₀) : (State.regWrite s link fn r i bs v off).Kept q₀ := by
  unfold State.regWrite
  repeat' first
    | with_reducible assumption
    | with_reducible refine State.setHostFn_kept ?_
    | with_reducible refine State.setRing_kept ?_
    | with_reducible refine execEventRingEnable_kept ?_
    | with_reducible refine execEventHead_kept ?_
    | with_reducible refine State.setMailbox_kept ?_
    | with_reducible refine State.does_kept ?_ (fun _ _ => ?_)
    | with_reducible refine execPinBlockWrite_kept ?_
    | with_reducible refine State.nvmeWrite_kept ?_
    | with_reducible refine State.sliceWrite_kept ?_
    | with_reducible refine State.contextWrite_kept ?_
    | with_reducible refine State.nvmeContextWrite_kept ?_
    | with_reducible refine State.peerWrite_kept ?_
    | with_reducible refine State.msixWrite_kept ?_
    | with_reducible refine State.storeWrite_kept ?_
    | with_reducible refine State.doorbellWrite_kept ?_
    | with_reducible refine State.nvmeDoorbellWrite_kept ?_
    | with_reducible refine State.mailboxWrite_kept ?_
    | with_reducible refine kept_ite ?_ ?_
    | split
    | dsimp only

theorem State.readReg_kept {q₀ : List Instr} {s0 : State} {a : RegRef} {len : ℕ} {off : ℕ} (h : s0.Kept q₀) : (State.readReg s0 a len off).Kept q₀ := by
  unfold State.readReg
  repeat' first
    | with_reducible assumption
    | with_reducible refine State.bump_kept ?_
    | with_reducible refine State.emit_kept ?_
    | with_reducible refine State.moveTo_kept ?_
    | with_reducible refine State.unsupported_kept ?_
    | with_reducible refine execTimeLow_kept ?_
    | with_reducible refine execPeerApertureRequest_kept ?_
    | with_reducible refine State.does_kept ?_ (fun _ _ => ?_)
    | with_reducible refine State.regValue_kept ?_
    | with_reducible refine kept_ite ?_ ?_
    | with_reducible refine kept_ite_fst ?_ ?_
    | split
    | refine kept_fst ‹_› ?_
    | dsimp only

theorem State.writeReg_kept {q₀ : List Instr} {s0 : State} {a : RegRef} {bs : List Byte} {off : ℕ} (h : s0.Kept q₀) : (State.writeReg s0 a bs off).Kept q₀ := by
  unfold State.writeReg
  repeat' first
    | with_reducible assumption
    | with_reducible refine State.bump_kept ?_
    | with_reducible refine State.moveTo_kept ?_
    | with_reducible refine execPeerApertureRequest_kept ?_
    | with_reducible refine State.does_kept ?_ (fun _ _ => ?_)
    | with_reducible refine State.regValue_kept ?_
    | with_reducible refine State.regWrite_kept ?_
    | with_reducible refine kept_ite ?_ ?_
    | with_reducible refine kept_ite_fst ?_ ?_
    | split
    | refine kept_fst ‹_› ?_
    | dsimp only

theorem execBlpRead_kept {q₀ : List Instr} {target : ReadTarget} {s : State} (h : s.Kept q₀) : ResKept (execBlpRead target s) q₀ := by
  unfold execBlpRead
  repeat' first
    | with_reducible assumption
    | with_reducible refine State.request_kept ?_
    | with_reducible refine State.readReg_kept ?_
    | with_reducible refine resKept_next ?_
    | with_reducible refine kept_ite ?_ ?_
    | with_reducible refine resKept_ite ?_ ?_
    | split
    | dsimp only

theorem execBlpWrite_kept {q₀ : List Instr} {target : WriteTarget} {s : State} (h : s.Kept q₀) : ResKept (execBlpWrite target s) q₀ := by
  unfold execBlpWrite
  repeat' first
    | with_reducible assumption
    | with_reducible refine State.request_kept ?_
    | with_reducible refine State.writeReg_kept ?_
    | with_reducible refine resKept_next ?_
    | with_reducible refine kept_ite ?_ ?_
    | with_reducible refine resKept_ite ?_ ?_
    | split
    | dsimp only

end Sys2Proof.Machine
end

