-- ==== Sys2Proof/Laws/KeptDispatch.lean ====
section
/-! SUPPORT. Laws/KeptDispatch.lean: every operation of Machine/Dispatch.lean keeps the queue and the canonical form. -/

namespace Sys2Proof.Machine

theorem exec_kept {q₀ : List Instr} {i : Instr} {s : State} (h : s.Kept q₀) : ResKept (exec i s) q₀ := by
  unfold exec
  repeat' first
    | with_reducible assumption
    | with_reducible refine execSourceTimeout_kept ?_
    | with_reducible refine execSourceQualified_kept ?_
    | with_reducible refine execPpsEdge_kept ?_
    | with_reducible refine execHoldoverLimit_kept ?_
    | with_reducible refine execRefclkTimeLost_kept ?_
    | with_reducible refine execRefclkTimeReturn_kept ?_
    | with_reducible refine execPhaseDetectorReading_kept ?_
    | with_reducible refine execEsmc_kept ?_
    | with_reducible refine execHoldOffTime_kept ?_
    | with_reducible refine execWaitToRestore_kept ?_
    | with_reducible refine execLeapSecond_kept ?_
    | with_reducible refine execSync_kept ?_
    | with_reducible refine execFollowUp_kept ?_
    | with_reducible refine execDelayReq_kept ?_
    | with_reducible refine execDelayResp_kept ?_
    | with_reducible refine execPdelayReq_kept ?_
    | with_reducible refine execPdelayResp_kept ?_
    | with_reducible refine execPdelayRespFollowUp_kept ?_
    | with_reducible refine execAnnounce_kept ?_
    | with_reducible refine execSignaling_kept ?_
    | with_reducible refine execManagementMessage_kept ?_
    | with_reducible refine execSyncTransmit_kept ?_
    | with_reducible refine execAnnounceTransmit_kept ?_
    | with_reducible refine execDelayReqTransmit_kept ?_
    | with_reducible refine execAnnounceReceiptTimeout_kept ?_
    | with_reducible refine execNegotiationTime_kept ?_
    | with_reducible refine execNegotiationRetry_kept ?_
    | with_reducible refine execClause73Page_kept ?_
    | with_reducible refine execParallelDetection_kept ?_
    | with_reducible refine execAnAttemptTimeout_kept ?_
    | with_reducible refine execAnRetryInterval_kept ?_
    | with_reducible refine execTrainingComplete_kept ?_
    | with_reducible refine execLockAndAlignment_kept ?_
    | with_reducible refine execTrainingTimeout_kept ?_
    | with_reducible refine execLldpdu_kept ?_
    | with_reducible refine execLldpTxInterval_kept ?_
    | with_reducible refine execLldpTtlExpiry_kept ?_
    | with_reducible refine execPause_kept ?_
    | with_reducible refine execPfcRefresh_kept ?_
    | with_reducible refine execFirstBrickArrival_kept ?_
    | with_reducible refine execParkedFrameMove_kept ?_
    | with_reducible refine execLinkUpHold_kept ?_
    | with_reducible refine execLinkDownCondition_kept ?_
    | with_reducible refine execLinkDownHold_kept ?_
    | with_reducible refine execPfc_kept ?_
    | with_reducible refine execPfcPauseExpiry_kept ?_
    | with_reducible refine execEpochCleanup_kept ?_
    | with_reducible refine execNodeForgetTime_kept ?_
    | with_reducible refine execRedundancyDegraded_kept ?_
    | with_reducible refine execHelloInterval_kept ?_
    | with_reducible refine execWallHello_kept ?_
    | with_reducible refine execNeighbourLost_kept ?_
    | with_reducible refine execWallSync_kept ?_
    | with_reducible refine execSyncAcknowledgement_kept ?_
    | with_reducible refine execResyncRequest_kept ?_
    | with_reducible refine execFrameReceive_kept ?_
    | with_reducible refine execTioEdge_kept ?_
    | with_reducible refine execExpectTimeout_kept ?_
    | with_reducible refine execGeneratedEdge_kept ?_
    | with_reducible refine execQueueEnable_kept ?_
    | with_reducible refine execQueueDisable_kept ?_
    | with_reducible refine execTxTail_kept ?_
    | with_reducible refine execRxTail_kept ?_
    | with_reducible refine execCqHead_kept ?_
    | with_reducible refine execDescriptorFetch_kept ?_
    | with_reducible refine execHostReceiveDelivery_kept ?_
    | with_reducible refine execEventRingEnable_kept ?_
    | with_reducible refine execEventHead_kept ?_
    | with_reducible refine execTimeLow_kept ?_
    | with_reducible refine execAtomicOp_kept ?_
    | with_reducible refine execPoisonedWrite_kept ?_
    | with_reducible refine execVendorDefinedMessage_kept ?_
    | with_reducible refine execUnexpectedCompletion_kept ?_
    | with_reducible refine execPeerWindowCommit_kept ?_
    | with_reducible refine execPeerApertureRequest_kept ?_
    | with_reducible refine execBound_kept ?_
    | with_reducible refine execUnbind_kept ?_
    | with_reducible refine execQueueResetComplete_kept ?_
    | with_reducible refine execQuiesce_kept ?_
    | with_reducible refine execSliceQuiesced_kept ?_
    | with_reducible refine execDirtyLogEnable_kept ?_
    | with_reducible refine execDirtyFlip_kept ?_
    | with_reducible refine execFlipComplete_kept ?_
    | with_reducible refine execCipherResume_kept ?_
    | with_reducible refine execLookAsideCompletion_kept ?_
    | with_reducible refine execGcmEncrypt_kept ?_
    | with_reducible refine execGcmDecrypt_kept ?_
    | with_reducible refine execGmacGenerate_kept ?_
    | with_reducible refine execGmacVerify_kept ?_
    | with_reducible refine execXtsEncrypt_kept ?_
    | with_reducible refine execXtsDecrypt_kept ?_
    | with_reducible refine execCmacGenerate_kept ?_
    | with_reducible refine execCmacVerify_kept ?_
    | with_reducible refine execSha384_kept ?_
    | with_reducible refine execHmacGenerate_kept ?_
    | with_reducible refine execHmacVerify_kept ?_
    | with_reducible refine execUnwrapKey_kept ?_
    | with_reducible refine execSqTail_kept ?_
    | with_reducible refine execNvmeCqHead_kept ?_
    | with_reducible refine execNvmeQueueEnable_kept ?_
    | with_reducible refine execInterruptCoalesce_kept ?_
    | with_reducible refine execRangeLockGrant_kept ?_
    | with_reducible refine execCommandFetch_kept ?_
    | with_reducible refine execCreateIoCq_kept ?_
    | with_reducible refine execCreateIoSq_kept ?_
    | with_reducible refine execDeleteIoSq_kept ?_
    | with_reducible refine execDeleteIoCq_kept ?_
    | with_reducible refine execNvmeIdentify_kept ?_
    | with_reducible refine execGetLogPage_kept ?_
    | with_reducible refine execNvmeAbort_kept ?_
    | with_reducible refine execSetFeatures_kept ?_
    | with_reducible refine execGetFeatures_kept ?_
    | with_reducible refine execAsynchronousEventRequest_kept ?_
    | with_reducible refine execInvalidCommandOpcode_kept ?_
    | with_reducible refine execApstIdleTimer_kept ?_
    | with_reducible refine execNvmeWrite_kept ?_
    | with_reducible refine execNvmeRead_kept ?_
    | with_reducible refine execWriteZeroes_kept ?_
    | with_reducible refine execDatasetManagement_kept ?_
    | with_reducible refine execNvmeFlush_kept ?_
    | with_reducible refine execWriteBackComplete_kept ?_
    | with_reducible refine execBackingCompletion_kept ?_
    | with_reducible refine execBackingTimeout_kept ?_
    | with_reducible refine execSsdInboundRequest_kept ?_
    | with_reducible refine execSurpriseRemoval_kept ?_
    | with_reducible refine execSsdLinkUp_kept ?_
    | with_reducible refine execNamespaceReady_kept ?_
    | with_reducible refine execGateEvent_kept ?_
    | with_reducible refine execSelection_kept ?_
    | with_reducible refine execLaunchDue_kept ?_
    | with_reducible refine execTransmitEnd_kept ?_
    | with_reducible refine execSampleMessage_kept ?_
    | with_reducible refine execSendQueueTail_kept ?_
    | with_reducible refine execReceiveQueueTail_kept ?_
    | with_reducible refine execCompletionQueueHead_kept ?_
    | with_reducible refine execCompletionQueueHeadArmed_kept ?_
    | with_reducible refine execRegionFree_kept ?_
    | with_reducible refine execRocev2Packet_kept ?_
    | with_reducible refine execRdmaCnp_kept ?_
    | with_reducible refine execRdmaSend_kept ?_
    | with_reducible refine execSendWithImmediate_kept ?_
    | with_reducible refine execRdmaWrite_kept ?_
    | with_reducible refine execRdmaWriteWithImmediate_kept ?_
    | with_reducible refine execRdmaRead_kept ?_
    | with_reducible refine execCompareAndSwap_kept ?_
    | with_reducible refine execFetchAndAdd_kept ?_
    | with_reducible refine execRdmaFlush_kept ?_
    | with_reducible refine execRdmaWait_kept ?_
    | with_reducible refine execWaitRelease_kept ?_
    | with_reducible refine execRdmaAck_kept ?_
    | with_reducible refine execNakPsnSequenceError_kept ?_
    | with_reducible refine execRnrNak_kept ?_
    | with_reducible refine execRdmaNak_kept ?_
    | with_reducible refine execLocalAckTimeout_kept ?_
    | with_reducible refine execRnrTimer_kept ?_
    | with_reducible refine execDelayFallback_kept ?_
    | with_reducible refine execPfcStorm_kept ?_
    | with_reducible refine execStormRestore_kept ?_
    | with_reducible refine execCompletion_kept ?_
    | with_reducible refine execCompletionTimeout_kept ?_
    | with_reducible refine execBusMasterEnableClear_kept ?_
    | with_reducible refine execBusMasterEnableSet_kept ?_
    | with_reducible refine execInitiateFunctionLevelReset_kept ?_
    | with_reducible refine execFunctionResetComplete_kept ?_
    | with_reducible refine execSliceReset_kept ?_
    | with_reducible refine execSliceResetComplete_kept ?_
    | with_reducible refine execHostLinkReset_kept ?_
    | with_reducible refine execPerstRelease_kept ?_
    | with_reducible refine execHostLinkUp_kept ?_
    | with_reducible refine execConfigurationRequest_kept ?_
    | with_reducible refine execPcMigrationComplete_kept ?_
    | with_reducible refine execReleaseOfReset_kept ?_
    | with_reducible refine execWarmUpComplete_kept ?_
    | with_reducible refine execResetStart_kept ?_
    | with_reducible refine execResetGlitch_kept ?_
    | with_reducible refine execRailUndervoltage_kept ?_
    | with_reducible refine execThermalReset_kept ?_
    | with_reducible refine execBlpOpen_kept ?_
    | with_reducible refine execOpenFinish_kept ?_
    | with_reducible refine execOpenFinishTimeout_kept ?_
    | with_reducible refine execOpenBlockExpiry_kept ?_
    | with_reducible refine execBlpClose_kept ?_
    | with_reducible refine execBlpCommit_kept ?_
    | with_reducible refine execBlpDescribe_kept ?_
    | with_reducible refine execAbortStaged_kept ?_
    | with_reducible refine execSegWrite_kept ?_
    | with_reducible refine execSegRead_kept ?_
    | with_reducible refine execBlpSubscribe_kept ?_
    | with_reducible refine execBlpKeepalive_kept ?_
    | with_reducible refine execBlpNotify_kept ?_
    | with_reducible refine execSessionIdleTimeout_kept ?_
    | with_reducible refine execSessionLifetime_kept ?_
    | with_reducible refine execTransferTimeout_kept ?_
    | with_reducible refine execMailboxDoorbell_kept ?_
    | with_reducible refine execCoreWindowRequest_kept ?_
    | with_reducible refine execEventRead_kept ?_
    | with_reducible refine execEventSeverity_kept ?_
    | with_reducible refine execMgmtFrame_kept ?_
    | with_reducible refine execMgmtRedundancyDegraded_kept ?_
    | with_reducible refine execReconnectInterval_kept ?_
    | with_reducible refine execKeepAlive_kept ?_
    | with_reducible refine execMonCharacter_kept ?_
    | with_reducible refine execMonBreak_kept ?_
    | with_reducible refine execMonitorIdleTimeout_kept ?_
    | with_reducible refine execMonHelp_kept ?_
    | with_reducible refine execMonId_kept ?_
    | with_reducible refine execMonTime_kept ?_
    | with_reducible refine execMonMode_kept ?_
    | with_reducible refine execMonEvents_kept ?_
    | with_reducible refine execMonUnlock_kept ?_
    | with_reducible refine execMonLock_kept ?_
    | with_reducible refine execMonBlp_kept ?_
    | with_reducible refine execMonRd_kept ?_
    | with_reducible refine execMonTiles_kept ?_
    | with_reducible refine execMonPorts_kept ?_
    | with_reducible refine execMonBudget_kept ?_
    | with_reducible refine execMonCapture_kept ?_
    | with_reducible refine execMonEnrol_kept ?_
    | with_reducible refine execMonRecover_kept ?_
    | with_reducible refine execMonRecoverCancel_kept ?_
    | with_reducible refine execChallengeResponse_kept ?_
    | with_reducible refine execChallengeTimeout_kept ?_
    | with_reducible refine execUnlockBackoffExpiry_kept ?_
    | with_reducible refine execBinaryBlock_kept ?_
    | with_reducible refine execBlockTimeout_kept ?_
    | with_reducible refine execPreparationComplete_kept ?_
    | with_reducible refine execSwitchBoundary_kept ?_
    | with_reducible refine execTileHandoverComplete_kept ?_
    | with_reducible refine execKeystoneHandover_kept ?_
    | with_reducible refine execKeystoneHandoverEnd_kept ?_
    | with_reducible refine execActivationComplete_kept ?_
    | with_reducible refine execActivationRolledBack_kept ?_
    | with_reducible refine execFastWakeDigest_kept ?_
    | with_reducible refine execReloadComplete_kept ?_
    | with_reducible refine execCounterSnapshot_kept ?_
    | with_reducible refine execCourseBoundary_kept ?_
    | with_reducible refine execTrowelDispatch_kept ?_
    | with_reducible refine execCourseHandler_kept ?_
    | with_reducible refine execTrowelNop_kept ?_
    | with_reducible refine execTrowelLdi_kept ?_
    | with_reducible refine execTrowelLdh_kept ?_
    | with_reducible refine execTrowelMov_kept ?_
    | with_reducible refine execTrowelAdd_kept ?_
    | with_reducible refine execTrowelSub_kept ?_
    | with_reducible refine execTrowelAddi_kept ?_
    | with_reducible refine execTrowelAnd_kept ?_
    | with_reducible refine execTrowelOr_kept ?_
    | with_reducible refine execTrowelXor_kept ?_
    | with_reducible refine execTrowelAndi_kept ?_
    | with_reducible refine execTrowelShl_kept ?_
    | with_reducible refine execTrowelShr_kept ?_
    | with_reducible refine execTrowelCmp_kept ?_
    | with_reducible refine execTrowelCmpi_kept ?_
    | with_reducible refine execTrowelHash_kept ?_
    | with_reducible refine execTrowelLdf_kept ?_
    | with_reducible refine execTrowelStf_kept ?_
    | with_reducible refine execTrowelIns_kept ?_
    | with_reducible refine execTrowelDel_kept ?_
    | with_reducible refine execTrowelCsum_kept ?_
    | with_reducible refine execTrowelTsw_kept ?_
    | with_reducible refine execTrowelLdm_kept ?_
    | with_reducible refine execTrowelStm_kept ?_
    | with_reducible refine execTrowelLds_kept ?_
    | with_reducible refine execTrowelSts_kept ?_
    | with_reducible refine execTrowelAad_kept ?_
    | with_reducible refine execTrowelBr_kept ?_
    | with_reducible refine execTrowelFwd_kept ?_
    | with_reducible refine execTrowelEvt_kept ?_
    | with_reducible refine execTrowelTrap_kept ?_
    | with_reducible refine execTrowelDrop_kept ?_
    | with_reducible refine execTrowelEnd_kept ?_
    | with_reducible refine execPatchSwitch_kept ?_
    | with_reducible refine execSpareSubstitution_kept ?_
    | with_reducible refine execTrowelEngineLost_kept ?_
    | with_reducible refine execMortarUncorrectable_kept ?_
    | with_reducible refine execCoreUncorrectable_kept ?_
    | with_reducible refine execSramUncorrectable_kept ?_
    | with_reducible refine execHbmError_kept ?_
    | with_reducible refine execHbmRowRepaired_kept ?_
    | with_reducible refine execKeystoneRefused_kept ?_
    | with_reducible refine execKeystoneLockstep_kept ?_
    | with_reducible refine execKeystoneRestartComplete_kept ?_
    | with_reducible refine execTimeDistributionFault_kept ?_
    | with_reducible refine execTileWatchdog_kept ?_
    | with_reducible refine execHodAlloc_kept ?_
    | with_reducible refine execHodRelease_kept ?_
    | with_reducible refine execHodFree_kept ?_
    | with_reducible refine execHodAddref_kept ?_
    | with_reducible refine execHodTransfer_kept ?_
    | with_reducible refine execHodQuery_kept ?_
    | with_reducible refine execRefclkSysLost_kept ?_
    | with_reducible refine execRefclkSysRestored_kept ?_
    | with_reducible refine execTemperatureRead_kept ?_
    | with_reducible refine execThermalTrip_kept ?_
    | with_reducible refine execDspPerstRelease_kept ?_
    | with_reducible refine execSpdmGetVersion_kept ?_
    | with_reducible refine execSpdmGetCapabilities_kept ?_
    | with_reducible refine execSpdmNegotiateAlgorithms_kept ?_
    | with_reducible refine execSpdmGetDigests_kept ?_
    | with_reducible refine execSpdmGetCertificate_kept ?_
    | with_reducible refine execSpdmChallenge_kept ?_
    | with_reducible refine execSpdmGetMeasurements_kept ?_
    | with_reducible refine execSpdmUnsupportedRequest_kept ?_
    | with_reducible refine execTimeStepOffset_kept ?_
    | with_reducible refine execTimeSet_kept ?_
    | with_reducible refine execGenCommit_kept ?_
    | with_reducible refine execTioOwner_kept ?_
    | with_reducible refine execCourseCommit_kept ?_
    | with_reducible refine execOperatingMode_kept ?_
    | with_reducible refine execSafeModeEnter_kept ?_
    | with_reducible refine execSafeModeLeave_kept ?_
    | with_reducible refine execPortEnable_kept ?_
    | with_reducible refine execLaneGrouping_kept ?_
    | with_reducible refine execGateControlList_kept ?_
    | with_reducible refine execPolicerUpdate_kept ?_
    | with_reducible refine execPolicerQuery_kept ?_
    | with_reducible refine execFdbInsertOrReplace_kept ?_
    | with_reducible refine execFdbDelete_kept ?_
    | with_reducible refine execFdbPurge_kept ?_
    | with_reducible refine execFdbRestamp_kept ?_
    | with_reducible refine execFdbQuery_kept ?_
    | with_reducible refine execFdbSweep_kept ?_
    | with_reducible refine execTernaryInsert_kept ?_
    | with_reducible refine execTernaryReplace_kept ?_
    | with_reducible refine execTernaryDelete_kept ?_
    | with_reducible refine execTernaryQuery_kept ?_
    | with_reducible refine execExactInsertOrReplace_kept ?_
    | with_reducible refine execExactDelete_kept ?_
    | with_reducible refine execExactQuery_kept ?_
    | with_reducible refine execExactSweep_kept ?_
    | with_reducible refine execLoadOrReplace_kept ?_
    | with_reducible refine execRemove_kept ?_
    | with_reducible refine execMicrocodePatch_kept ?_
    | with_reducible refine execStateMemory_kept ?_
    | with_reducible refine execKeyLoad_kept ?_
    | with_reducible refine execKeyErase_kept ?_
    | with_reducible refine execKeySlotOwner_kept ?_
    | with_reducible refine execKeySlotInfo_kept ?_
    | with_reducible refine execSliceResourceSet_kept ?_
    | with_reducible refine execSliceQuery_kept ?_
    | with_reducible refine execSliceState_kept ?_
    | with_reducible refine execNamespaceRecord_kept ?_
    | with_reducible refine execQpCreate_kept ?_
    | with_reducible refine execQpModify_kept ?_
    | with_reducible refine execQpDestroy_kept ?_
    | with_reducible refine execCqCreate_kept ?_
    | with_reducible refine execCqDestroy_kept ?_
    | with_reducible refine execAhCreate_kept ?_
    | with_reducible refine execAhDestroy_kept ?_
    | with_reducible refine execRegionRegister_kept ?_
    | with_reducible refine execRegionDeregister_kept ?_
    | with_reducible refine execRdmaQuery_kept ?_
    | with_reducible refine execSignedCommand_kept ?_
    | with_reducible refine execImageDownload_kept ?_
    | with_reducible refine execImageCommit_kept ?_
    | with_reducible refine execSlotErase_kept ?_
    | with_reducible refine execActivateSlot_kept ?_
    | with_reducible refine execTileSleep_kept ?_
    | with_reducible refine execTileWake_kept ?_
    | with_reducible refine execPinBlockWrite_kept ?_
    | with_reducible refine execBlpRead_kept ?_
    | with_reducible refine execBlpWrite_kept ?_
    | with_reducible refine resKept_next ?_
    | with_reducible refine kept_ite ?_ ?_
    | with_reducible refine resKept_ite ?_ ?_
    | split
    | dsimp only

end Sys2Proof.Machine
end

