-- ==== Sys2Proof/Laws/State.lean ====
section
/-! SUPPORT. Laws/State.lean: what each named update of State leaves as it was, one lemma per update and field. -/

namespace Sys2Proof.Machine

/-! ### State.wr: only `dict` -/

@[simp] theorem State.wr_doms (s : State) (key : ℕ) (val : ℕ) :
    (s.wr key val).doms = s.doms := rfl

@[simp] theorem State.wr_store (s : State) (key : ℕ) (val : ℕ) :
    (s.wr key val).store = s.store := rfl

@[simp] theorem State.wr_storeDoms (s : State) (key : ℕ) (val : ℕ) :
    (s.wr key val).storeDoms = s.storeDoms := rfl

@[simp] theorem State.wr_storeSets (s : State) (key : ℕ) (val : ℕ) :
    (s.wr key val).storeSets = s.storeSets := rfl

@[simp] theorem State.wr_snapshot (s : State) (key : ℕ) (val : ℕ) :
    (s.wr key val).snapshot = s.snapshot := rfl

@[simp] theorem State.wr_snapshotDoms (s : State) (key : ℕ) (val : ℕ) :
    (s.wr key val).snapshotDoms = s.snapshotDoms := rfl

@[simp] theorem State.wr_timers (s : State) (key : ℕ) (val : ℕ) :
    (s.wr key val).timers = s.timers := rfl

@[simp] theorem State.wr_clock (s : State) (key : ℕ) (val : ℕ) :
    (s.wr key val).clock = s.clock := rfl

@[simp] theorem State.wr_servo (s : State) (key : ℕ) (val : ℕ) :
    (s.wr key val).servo = s.servo := rfl

@[simp] theorem State.wr_detectors (s : State) (key : ℕ) (val : ℕ) :
    (s.wr key val).detectors = s.detectors := rfl

@[simp] theorem State.wr_synce (s : State) (key : ℕ) (val : ℕ) :
    (s.wr key val).synce = s.synce := rfl

@[simp] theorem State.wr_ptp (s : State) (key : ℕ) (val : ℕ) :
    (s.wr key val).ptp = s.ptp := rfl

@[simp] theorem State.wr_pins (s : State) (key : ℕ) (val : ℕ) :
    (s.wr key val).pins = s.pins := rfl

@[simp] theorem State.wr_agent (s : State) (key : ℕ) (val : ℕ) :
    (s.wr key val).agent = s.agent := rfl

@[simp] theorem State.wr_log (s : State) (key : ℕ) (val : ℕ) :
    (s.wr key val).log = s.log := rfl

@[simp] theorem State.wr_mgmt (s : State) (key : ℕ) (val : ℕ) :
    (s.wr key val).mgmt = s.mgmt := rfl

@[simp] theorem State.wr_mortar (s : State) (key : ℕ) (val : ℕ) :
    (s.wr key val).mortar = s.mortar := rfl

@[simp] theorem State.wr_memory (s : State) (key : ℕ) (val : ℕ) :
    (s.wr key val).memory = s.memory := rfl

@[simp] theorem State.wr_ports (s : State) (key : ℕ) (val : ℕ) :
    (s.wr key val).ports = s.ports := rfl

@[simp] theorem State.wr_switch (s : State) (key : ℕ) (val : ℕ) :
    (s.wr key val).switch = s.switch := rfl

@[simp] theorem State.wr_modeChange (s : State) (key : ℕ) (val : ℕ) :
    (s.wr key val).modeChange = s.modeChange := rfl

@[simp] theorem State.wr_fwd (s : State) (key : ℕ) (val : ℕ) :
    (s.wr key val).fwd = s.fwd := rfl

@[simp] theorem State.wr_wall (s : State) (key : ℕ) (val : ℕ) :
    (s.wr key val).wall = s.wall := rfl

@[simp] theorem State.wr_redundancy (s : State) (key : ℕ) (val : ℕ) :
    (s.wr key val).redundancy = s.redundancy := rfl

@[simp] theorem State.wr_classify (s : State) (key : ℕ) (val : ℕ) :
    (s.wr key val).classify = s.classify := rfl

@[simp] theorem State.wr_trowel (s : State) (key : ℕ) (val : ℕ) :
    (s.wr key val).trowel = s.trowel := rfl

@[simp] theorem State.wr_cipher (s : State) (key : ℕ) (val : ℕ) :
    (s.wr key val).cipher = s.cipher := rfl

@[simp] theorem State.wr_hod (s : State) (key : ℕ) (val : ℕ) :
    (s.wr key val).hod = s.hod := rfl

@[simp] theorem State.wr_host (s : State) (key : ℕ) (val : ℕ) :
    (s.wr key val).host = s.host := rfl

@[simp] theorem State.wr_slices (s : State) (key : ℕ) (val : ℕ) :
    (s.wr key val).slices = s.slices := rfl

@[simp] theorem State.wr_storage (s : State) (key : ℕ) (val : ℕ) :
    (s.wr key val).storage = s.storage := rfl

@[simp] theorem State.wr_rdma (s : State) (key : ℕ) (val : ℕ) :
    (s.wr key val).rdma = s.rdma := rfl

@[simp] theorem State.wr_boot (s : State) (key : ℕ) (val : ℕ) :
    (s.wr key val).boot = s.boot := rfl

@[simp] theorem State.wr_keystone (s : State) (key : ℕ) (val : ℕ) :
    (s.wr key val).keystone = s.keystone := rfl

@[simp] theorem State.wr_activation (s : State) (key : ℕ) (val : ℕ) :
    (s.wr key val).activation = s.activation := rfl

@[simp] theorem State.wr_service (s : State) (key : ℕ) (val : ℕ) :
    (s.wr key val).service = s.service := rfl

@[simp] theorem State.wr_monitor (s : State) (key : ℕ) (val : ℕ) :
    (s.wr key val).monitor = s.monitor := rfl

@[simp] theorem State.wr_package (s : State) (key : ℕ) (val : ℕ) :
    (s.wr key val).package = s.package := rfl

@[simp] theorem State.wr_outputs (s : State) (key : ℕ) (val : ℕ) :
    (s.wr key val).outputs = s.outputs := rfl

@[simp] theorem State.wr_freeCtr (s : State) (key : ℕ) (val : ℕ) :
    (s.wr key val).freeCtr = s.freeCtr := rfl

@[simp] theorem State.wr_pending (s : State) (key : ℕ) (val : ℕ) :
    (s.wr key val).pending = s.pending := rfl

/-! ### State.setDom: only `doms` -/

@[simp] theorem State.setDom_dict (s : State) (key : ℕ) (bs : List Byte) :
    (s.setDom key bs).dict = s.dict := rfl

@[simp] theorem State.setDom_store (s : State) (key : ℕ) (bs : List Byte) :
    (s.setDom key bs).store = s.store := rfl

@[simp] theorem State.setDom_storeDoms (s : State) (key : ℕ) (bs : List Byte) :
    (s.setDom key bs).storeDoms = s.storeDoms := rfl

@[simp] theorem State.setDom_storeSets (s : State) (key : ℕ) (bs : List Byte) :
    (s.setDom key bs).storeSets = s.storeSets := rfl

@[simp] theorem State.setDom_snapshot (s : State) (key : ℕ) (bs : List Byte) :
    (s.setDom key bs).snapshot = s.snapshot := rfl

@[simp] theorem State.setDom_snapshotDoms (s : State) (key : ℕ) (bs : List Byte) :
    (s.setDom key bs).snapshotDoms = s.snapshotDoms := rfl

@[simp] theorem State.setDom_timers (s : State) (key : ℕ) (bs : List Byte) :
    (s.setDom key bs).timers = s.timers := rfl

@[simp] theorem State.setDom_clock (s : State) (key : ℕ) (bs : List Byte) :
    (s.setDom key bs).clock = s.clock := rfl

@[simp] theorem State.setDom_servo (s : State) (key : ℕ) (bs : List Byte) :
    (s.setDom key bs).servo = s.servo := rfl

@[simp] theorem State.setDom_detectors (s : State) (key : ℕ) (bs : List Byte) :
    (s.setDom key bs).detectors = s.detectors := rfl

@[simp] theorem State.setDom_synce (s : State) (key : ℕ) (bs : List Byte) :
    (s.setDom key bs).synce = s.synce := rfl

@[simp] theorem State.setDom_ptp (s : State) (key : ℕ) (bs : List Byte) :
    (s.setDom key bs).ptp = s.ptp := rfl

@[simp] theorem State.setDom_pins (s : State) (key : ℕ) (bs : List Byte) :
    (s.setDom key bs).pins = s.pins := rfl

@[simp] theorem State.setDom_agent (s : State) (key : ℕ) (bs : List Byte) :
    (s.setDom key bs).agent = s.agent := rfl

@[simp] theorem State.setDom_log (s : State) (key : ℕ) (bs : List Byte) :
    (s.setDom key bs).log = s.log := rfl

@[simp] theorem State.setDom_mgmt (s : State) (key : ℕ) (bs : List Byte) :
    (s.setDom key bs).mgmt = s.mgmt := rfl

@[simp] theorem State.setDom_mortar (s : State) (key : ℕ) (bs : List Byte) :
    (s.setDom key bs).mortar = s.mortar := rfl

@[simp] theorem State.setDom_memory (s : State) (key : ℕ) (bs : List Byte) :
    (s.setDom key bs).memory = s.memory := rfl

@[simp] theorem State.setDom_ports (s : State) (key : ℕ) (bs : List Byte) :
    (s.setDom key bs).ports = s.ports := rfl

@[simp] theorem State.setDom_switch (s : State) (key : ℕ) (bs : List Byte) :
    (s.setDom key bs).switch = s.switch := rfl

@[simp] theorem State.setDom_modeChange (s : State) (key : ℕ) (bs : List Byte) :
    (s.setDom key bs).modeChange = s.modeChange := rfl

@[simp] theorem State.setDom_fwd (s : State) (key : ℕ) (bs : List Byte) :
    (s.setDom key bs).fwd = s.fwd := rfl

@[simp] theorem State.setDom_wall (s : State) (key : ℕ) (bs : List Byte) :
    (s.setDom key bs).wall = s.wall := rfl

@[simp] theorem State.setDom_redundancy (s : State) (key : ℕ) (bs : List Byte) :
    (s.setDom key bs).redundancy = s.redundancy := rfl

@[simp] theorem State.setDom_classify (s : State) (key : ℕ) (bs : List Byte) :
    (s.setDom key bs).classify = s.classify := rfl

@[simp] theorem State.setDom_trowel (s : State) (key : ℕ) (bs : List Byte) :
    (s.setDom key bs).trowel = s.trowel := rfl

@[simp] theorem State.setDom_cipher (s : State) (key : ℕ) (bs : List Byte) :
    (s.setDom key bs).cipher = s.cipher := rfl

@[simp] theorem State.setDom_hod (s : State) (key : ℕ) (bs : List Byte) :
    (s.setDom key bs).hod = s.hod := rfl

@[simp] theorem State.setDom_host (s : State) (key : ℕ) (bs : List Byte) :
    (s.setDom key bs).host = s.host := rfl

@[simp] theorem State.setDom_slices (s : State) (key : ℕ) (bs : List Byte) :
    (s.setDom key bs).slices = s.slices := rfl

@[simp] theorem State.setDom_storage (s : State) (key : ℕ) (bs : List Byte) :
    (s.setDom key bs).storage = s.storage := rfl

@[simp] theorem State.setDom_rdma (s : State) (key : ℕ) (bs : List Byte) :
    (s.setDom key bs).rdma = s.rdma := rfl

@[simp] theorem State.setDom_boot (s : State) (key : ℕ) (bs : List Byte) :
    (s.setDom key bs).boot = s.boot := rfl

@[simp] theorem State.setDom_keystone (s : State) (key : ℕ) (bs : List Byte) :
    (s.setDom key bs).keystone = s.keystone := rfl

@[simp] theorem State.setDom_activation (s : State) (key : ℕ) (bs : List Byte) :
    (s.setDom key bs).activation = s.activation := rfl

@[simp] theorem State.setDom_service (s : State) (key : ℕ) (bs : List Byte) :
    (s.setDom key bs).service = s.service := rfl

@[simp] theorem State.setDom_monitor (s : State) (key : ℕ) (bs : List Byte) :
    (s.setDom key bs).monitor = s.monitor := rfl

@[simp] theorem State.setDom_package (s : State) (key : ℕ) (bs : List Byte) :
    (s.setDom key bs).package = s.package := rfl

@[simp] theorem State.setDom_outputs (s : State) (key : ℕ) (bs : List Byte) :
    (s.setDom key bs).outputs = s.outputs := rfl

@[simp] theorem State.setDom_freeCtr (s : State) (key : ℕ) (bs : List Byte) :
    (s.setDom key bs).freeCtr = s.freeCtr := rfl

@[simp] theorem State.setDom_pending (s : State) (key : ℕ) (bs : List Byte) :
    (s.setDom key bs).pending = s.pending := rfl

/-! ### State.emit: only `outputs` -/

@[simp] theorem State.emit_dict (s : State) (o : Out) :
    (s.emit o).dict = s.dict := rfl

@[simp] theorem State.emit_doms (s : State) (o : Out) :
    (s.emit o).doms = s.doms := rfl

@[simp] theorem State.emit_store (s : State) (o : Out) :
    (s.emit o).store = s.store := rfl

@[simp] theorem State.emit_storeDoms (s : State) (o : Out) :
    (s.emit o).storeDoms = s.storeDoms := rfl

@[simp] theorem State.emit_storeSets (s : State) (o : Out) :
    (s.emit o).storeSets = s.storeSets := rfl

@[simp] theorem State.emit_snapshot (s : State) (o : Out) :
    (s.emit o).snapshot = s.snapshot := rfl

@[simp] theorem State.emit_snapshotDoms (s : State) (o : Out) :
    (s.emit o).snapshotDoms = s.snapshotDoms := rfl

@[simp] theorem State.emit_timers (s : State) (o : Out) :
    (s.emit o).timers = s.timers := rfl

@[simp] theorem State.emit_clock (s : State) (o : Out) :
    (s.emit o).clock = s.clock := rfl

@[simp] theorem State.emit_servo (s : State) (o : Out) :
    (s.emit o).servo = s.servo := rfl

@[simp] theorem State.emit_detectors (s : State) (o : Out) :
    (s.emit o).detectors = s.detectors := rfl

@[simp] theorem State.emit_synce (s : State) (o : Out) :
    (s.emit o).synce = s.synce := rfl

@[simp] theorem State.emit_ptp (s : State) (o : Out) :
    (s.emit o).ptp = s.ptp := rfl

@[simp] theorem State.emit_pins (s : State) (o : Out) :
    (s.emit o).pins = s.pins := rfl

@[simp] theorem State.emit_agent (s : State) (o : Out) :
    (s.emit o).agent = s.agent := rfl

@[simp] theorem State.emit_log (s : State) (o : Out) :
    (s.emit o).log = s.log := rfl

@[simp] theorem State.emit_mgmt (s : State) (o : Out) :
    (s.emit o).mgmt = s.mgmt := rfl

@[simp] theorem State.emit_mortar (s : State) (o : Out) :
    (s.emit o).mortar = s.mortar := rfl

@[simp] theorem State.emit_memory (s : State) (o : Out) :
    (s.emit o).memory = s.memory := rfl

@[simp] theorem State.emit_ports (s : State) (o : Out) :
    (s.emit o).ports = s.ports := rfl

@[simp] theorem State.emit_switch (s : State) (o : Out) :
    (s.emit o).switch = s.switch := rfl

@[simp] theorem State.emit_modeChange (s : State) (o : Out) :
    (s.emit o).modeChange = s.modeChange := rfl

@[simp] theorem State.emit_fwd (s : State) (o : Out) :
    (s.emit o).fwd = s.fwd := rfl

@[simp] theorem State.emit_wall (s : State) (o : Out) :
    (s.emit o).wall = s.wall := rfl

@[simp] theorem State.emit_redundancy (s : State) (o : Out) :
    (s.emit o).redundancy = s.redundancy := rfl

@[simp] theorem State.emit_classify (s : State) (o : Out) :
    (s.emit o).classify = s.classify := rfl

@[simp] theorem State.emit_trowel (s : State) (o : Out) :
    (s.emit o).trowel = s.trowel := rfl

@[simp] theorem State.emit_cipher (s : State) (o : Out) :
    (s.emit o).cipher = s.cipher := rfl

@[simp] theorem State.emit_hod (s : State) (o : Out) :
    (s.emit o).hod = s.hod := rfl

@[simp] theorem State.emit_host (s : State) (o : Out) :
    (s.emit o).host = s.host := rfl

@[simp] theorem State.emit_slices (s : State) (o : Out) :
    (s.emit o).slices = s.slices := rfl

@[simp] theorem State.emit_storage (s : State) (o : Out) :
    (s.emit o).storage = s.storage := rfl

@[simp] theorem State.emit_rdma (s : State) (o : Out) :
    (s.emit o).rdma = s.rdma := rfl

@[simp] theorem State.emit_boot (s : State) (o : Out) :
    (s.emit o).boot = s.boot := rfl

@[simp] theorem State.emit_keystone (s : State) (o : Out) :
    (s.emit o).keystone = s.keystone := rfl

@[simp] theorem State.emit_activation (s : State) (o : Out) :
    (s.emit o).activation = s.activation := rfl

@[simp] theorem State.emit_service (s : State) (o : Out) :
    (s.emit o).service = s.service := rfl

@[simp] theorem State.emit_monitor (s : State) (o : Out) :
    (s.emit o).monitor = s.monitor := rfl

@[simp] theorem State.emit_package (s : State) (o : Out) :
    (s.emit o).package = s.package := rfl

@[simp] theorem State.emit_freeCtr (s : State) (o : Out) :
    (s.emit o).freeCtr = s.freeCtr := rfl

@[simp] theorem State.emit_pending (s : State) (o : Out) :
    (s.emit o).pending = s.pending := rfl

/-! ### State.drawn: only `freeCtr` -/

@[simp] theorem State.drawn_dict (s : State) :
    (s.drawn).dict = s.dict := rfl

@[simp] theorem State.drawn_doms (s : State) :
    (s.drawn).doms = s.doms := rfl

@[simp] theorem State.drawn_store (s : State) :
    (s.drawn).store = s.store := rfl

@[simp] theorem State.drawn_storeDoms (s : State) :
    (s.drawn).storeDoms = s.storeDoms := rfl

@[simp] theorem State.drawn_storeSets (s : State) :
    (s.drawn).storeSets = s.storeSets := rfl

@[simp] theorem State.drawn_snapshot (s : State) :
    (s.drawn).snapshot = s.snapshot := rfl

@[simp] theorem State.drawn_snapshotDoms (s : State) :
    (s.drawn).snapshotDoms = s.snapshotDoms := rfl

@[simp] theorem State.drawn_timers (s : State) :
    (s.drawn).timers = s.timers := rfl

@[simp] theorem State.drawn_clock (s : State) :
    (s.drawn).clock = s.clock := rfl

@[simp] theorem State.drawn_servo (s : State) :
    (s.drawn).servo = s.servo := rfl

@[simp] theorem State.drawn_detectors (s : State) :
    (s.drawn).detectors = s.detectors := rfl

@[simp] theorem State.drawn_synce (s : State) :
    (s.drawn).synce = s.synce := rfl

@[simp] theorem State.drawn_ptp (s : State) :
    (s.drawn).ptp = s.ptp := rfl

@[simp] theorem State.drawn_pins (s : State) :
    (s.drawn).pins = s.pins := rfl

@[simp] theorem State.drawn_agent (s : State) :
    (s.drawn).agent = s.agent := rfl

@[simp] theorem State.drawn_log (s : State) :
    (s.drawn).log = s.log := rfl

@[simp] theorem State.drawn_mgmt (s : State) :
    (s.drawn).mgmt = s.mgmt := rfl

@[simp] theorem State.drawn_mortar (s : State) :
    (s.drawn).mortar = s.mortar := rfl

@[simp] theorem State.drawn_memory (s : State) :
    (s.drawn).memory = s.memory := rfl

@[simp] theorem State.drawn_ports (s : State) :
    (s.drawn).ports = s.ports := rfl

@[simp] theorem State.drawn_switch (s : State) :
    (s.drawn).switch = s.switch := rfl

@[simp] theorem State.drawn_modeChange (s : State) :
    (s.drawn).modeChange = s.modeChange := rfl

@[simp] theorem State.drawn_fwd (s : State) :
    (s.drawn).fwd = s.fwd := rfl

@[simp] theorem State.drawn_wall (s : State) :
    (s.drawn).wall = s.wall := rfl

@[simp] theorem State.drawn_redundancy (s : State) :
    (s.drawn).redundancy = s.redundancy := rfl

@[simp] theorem State.drawn_classify (s : State) :
    (s.drawn).classify = s.classify := rfl

@[simp] theorem State.drawn_trowel (s : State) :
    (s.drawn).trowel = s.trowel := rfl

@[simp] theorem State.drawn_cipher (s : State) :
    (s.drawn).cipher = s.cipher := rfl

@[simp] theorem State.drawn_hod (s : State) :
    (s.drawn).hod = s.hod := rfl

@[simp] theorem State.drawn_host (s : State) :
    (s.drawn).host = s.host := rfl

@[simp] theorem State.drawn_slices (s : State) :
    (s.drawn).slices = s.slices := rfl

@[simp] theorem State.drawn_storage (s : State) :
    (s.drawn).storage = s.storage := rfl

@[simp] theorem State.drawn_rdma (s : State) :
    (s.drawn).rdma = s.rdma := rfl

@[simp] theorem State.drawn_boot (s : State) :
    (s.drawn).boot = s.boot := rfl

@[simp] theorem State.drawn_keystone (s : State) :
    (s.drawn).keystone = s.keystone := rfl

@[simp] theorem State.drawn_activation (s : State) :
    (s.drawn).activation = s.activation := rfl

@[simp] theorem State.drawn_service (s : State) :
    (s.drawn).service = s.service := rfl

@[simp] theorem State.drawn_monitor (s : State) :
    (s.drawn).monitor = s.monitor := rfl

@[simp] theorem State.drawn_package (s : State) :
    (s.drawn).package = s.package := rfl

@[simp] theorem State.drawn_outputs (s : State) :
    (s.drawn).outputs = s.outputs := rfl

@[simp] theorem State.drawn_pending (s : State) :
    (s.drawn).pending = s.pending := rfl

/-! ### State.moveTo: only `clock` -/

@[simp] theorem State.moveTo_dict (s : State) (off : ℕ) :
    (s.moveTo off).dict = s.dict := rfl

@[simp] theorem State.moveTo_doms (s : State) (off : ℕ) :
    (s.moveTo off).doms = s.doms := rfl

@[simp] theorem State.moveTo_store (s : State) (off : ℕ) :
    (s.moveTo off).store = s.store := rfl

@[simp] theorem State.moveTo_storeDoms (s : State) (off : ℕ) :
    (s.moveTo off).storeDoms = s.storeDoms := rfl

@[simp] theorem State.moveTo_storeSets (s : State) (off : ℕ) :
    (s.moveTo off).storeSets = s.storeSets := rfl

@[simp] theorem State.moveTo_snapshot (s : State) (off : ℕ) :
    (s.moveTo off).snapshot = s.snapshot := rfl

@[simp] theorem State.moveTo_snapshotDoms (s : State) (off : ℕ) :
    (s.moveTo off).snapshotDoms = s.snapshotDoms := rfl

@[simp] theorem State.moveTo_timers (s : State) (off : ℕ) :
    (s.moveTo off).timers = s.timers := rfl

@[simp] theorem State.moveTo_servo (s : State) (off : ℕ) :
    (s.moveTo off).servo = s.servo := rfl

@[simp] theorem State.moveTo_detectors (s : State) (off : ℕ) :
    (s.moveTo off).detectors = s.detectors := rfl

@[simp] theorem State.moveTo_synce (s : State) (off : ℕ) :
    (s.moveTo off).synce = s.synce := rfl

@[simp] theorem State.moveTo_ptp (s : State) (off : ℕ) :
    (s.moveTo off).ptp = s.ptp := rfl

@[simp] theorem State.moveTo_pins (s : State) (off : ℕ) :
    (s.moveTo off).pins = s.pins := rfl

@[simp] theorem State.moveTo_agent (s : State) (off : ℕ) :
    (s.moveTo off).agent = s.agent := rfl

@[simp] theorem State.moveTo_log (s : State) (off : ℕ) :
    (s.moveTo off).log = s.log := rfl

@[simp] theorem State.moveTo_mgmt (s : State) (off : ℕ) :
    (s.moveTo off).mgmt = s.mgmt := rfl

@[simp] theorem State.moveTo_mortar (s : State) (off : ℕ) :
    (s.moveTo off).mortar = s.mortar := rfl

@[simp] theorem State.moveTo_memory (s : State) (off : ℕ) :
    (s.moveTo off).memory = s.memory := rfl

@[simp] theorem State.moveTo_ports (s : State) (off : ℕ) :
    (s.moveTo off).ports = s.ports := rfl

@[simp] theorem State.moveTo_switch (s : State) (off : ℕ) :
    (s.moveTo off).switch = s.switch := rfl

@[simp] theorem State.moveTo_modeChange (s : State) (off : ℕ) :
    (s.moveTo off).modeChange = s.modeChange := rfl

@[simp] theorem State.moveTo_fwd (s : State) (off : ℕ) :
    (s.moveTo off).fwd = s.fwd := rfl

@[simp] theorem State.moveTo_wall (s : State) (off : ℕ) :
    (s.moveTo off).wall = s.wall := rfl

@[simp] theorem State.moveTo_redundancy (s : State) (off : ℕ) :
    (s.moveTo off).redundancy = s.redundancy := rfl

@[simp] theorem State.moveTo_classify (s : State) (off : ℕ) :
    (s.moveTo off).classify = s.classify := rfl

@[simp] theorem State.moveTo_trowel (s : State) (off : ℕ) :
    (s.moveTo off).trowel = s.trowel := rfl

@[simp] theorem State.moveTo_cipher (s : State) (off : ℕ) :
    (s.moveTo off).cipher = s.cipher := rfl

@[simp] theorem State.moveTo_hod (s : State) (off : ℕ) :
    (s.moveTo off).hod = s.hod := rfl

@[simp] theorem State.moveTo_host (s : State) (off : ℕ) :
    (s.moveTo off).host = s.host := rfl

@[simp] theorem State.moveTo_slices (s : State) (off : ℕ) :
    (s.moveTo off).slices = s.slices := rfl

@[simp] theorem State.moveTo_storage (s : State) (off : ℕ) :
    (s.moveTo off).storage = s.storage := rfl

@[simp] theorem State.moveTo_rdma (s : State) (off : ℕ) :
    (s.moveTo off).rdma = s.rdma := rfl

@[simp] theorem State.moveTo_boot (s : State) (off : ℕ) :
    (s.moveTo off).boot = s.boot := rfl

@[simp] theorem State.moveTo_keystone (s : State) (off : ℕ) :
    (s.moveTo off).keystone = s.keystone := rfl

@[simp] theorem State.moveTo_activation (s : State) (off : ℕ) :
    (s.moveTo off).activation = s.activation := rfl

@[simp] theorem State.moveTo_service (s : State) (off : ℕ) :
    (s.moveTo off).service = s.service := rfl

@[simp] theorem State.moveTo_monitor (s : State) (off : ℕ) :
    (s.moveTo off).monitor = s.monitor := rfl

@[simp] theorem State.moveTo_package (s : State) (off : ℕ) :
    (s.moveTo off).package = s.package := rfl

@[simp] theorem State.moveTo_outputs (s : State) (off : ℕ) :
    (s.moveTo off).outputs = s.outputs := rfl

@[simp] theorem State.moveTo_freeCtr (s : State) (off : ℕ) :
    (s.moveTo off).freeCtr = s.freeCtr := rfl

@[simp] theorem State.moveTo_pending (s : State) (off : ℕ) :
    (s.moveTo off).pending = s.pending := rfl

/-! ### State.arm: only `timers` -/

@[simp] theorem State.arm_dict (s : State) (key : ℕ) :
    (s.arm key).dict = s.dict := rfl

@[simp] theorem State.arm_doms (s : State) (key : ℕ) :
    (s.arm key).doms = s.doms := rfl

@[simp] theorem State.arm_store (s : State) (key : ℕ) :
    (s.arm key).store = s.store := rfl

@[simp] theorem State.arm_storeDoms (s : State) (key : ℕ) :
    (s.arm key).storeDoms = s.storeDoms := rfl

@[simp] theorem State.arm_storeSets (s : State) (key : ℕ) :
    (s.arm key).storeSets = s.storeSets := rfl

@[simp] theorem State.arm_snapshot (s : State) (key : ℕ) :
    (s.arm key).snapshot = s.snapshot := rfl

@[simp] theorem State.arm_snapshotDoms (s : State) (key : ℕ) :
    (s.arm key).snapshotDoms = s.snapshotDoms := rfl

@[simp] theorem State.arm_clock (s : State) (key : ℕ) :
    (s.arm key).clock = s.clock := rfl

@[simp] theorem State.arm_servo (s : State) (key : ℕ) :
    (s.arm key).servo = s.servo := rfl

@[simp] theorem State.arm_detectors (s : State) (key : ℕ) :
    (s.arm key).detectors = s.detectors := rfl

@[simp] theorem State.arm_synce (s : State) (key : ℕ) :
    (s.arm key).synce = s.synce := rfl

@[simp] theorem State.arm_ptp (s : State) (key : ℕ) :
    (s.arm key).ptp = s.ptp := rfl

@[simp] theorem State.arm_pins (s : State) (key : ℕ) :
    (s.arm key).pins = s.pins := rfl

@[simp] theorem State.arm_agent (s : State) (key : ℕ) :
    (s.arm key).agent = s.agent := rfl

@[simp] theorem State.arm_log (s : State) (key : ℕ) :
    (s.arm key).log = s.log := rfl

@[simp] theorem State.arm_mgmt (s : State) (key : ℕ) :
    (s.arm key).mgmt = s.mgmt := rfl

@[simp] theorem State.arm_mortar (s : State) (key : ℕ) :
    (s.arm key).mortar = s.mortar := rfl

@[simp] theorem State.arm_memory (s : State) (key : ℕ) :
    (s.arm key).memory = s.memory := rfl

@[simp] theorem State.arm_ports (s : State) (key : ℕ) :
    (s.arm key).ports = s.ports := rfl

@[simp] theorem State.arm_switch (s : State) (key : ℕ) :
    (s.arm key).switch = s.switch := rfl

@[simp] theorem State.arm_modeChange (s : State) (key : ℕ) :
    (s.arm key).modeChange = s.modeChange := rfl

@[simp] theorem State.arm_fwd (s : State) (key : ℕ) :
    (s.arm key).fwd = s.fwd := rfl

@[simp] theorem State.arm_wall (s : State) (key : ℕ) :
    (s.arm key).wall = s.wall := rfl

@[simp] theorem State.arm_redundancy (s : State) (key : ℕ) :
    (s.arm key).redundancy = s.redundancy := rfl

@[simp] theorem State.arm_classify (s : State) (key : ℕ) :
    (s.arm key).classify = s.classify := rfl

@[simp] theorem State.arm_trowel (s : State) (key : ℕ) :
    (s.arm key).trowel = s.trowel := rfl

@[simp] theorem State.arm_cipher (s : State) (key : ℕ) :
    (s.arm key).cipher = s.cipher := rfl

@[simp] theorem State.arm_hod (s : State) (key : ℕ) :
    (s.arm key).hod = s.hod := rfl

@[simp] theorem State.arm_host (s : State) (key : ℕ) :
    (s.arm key).host = s.host := rfl

@[simp] theorem State.arm_slices (s : State) (key : ℕ) :
    (s.arm key).slices = s.slices := rfl

@[simp] theorem State.arm_storage (s : State) (key : ℕ) :
    (s.arm key).storage = s.storage := rfl

@[simp] theorem State.arm_rdma (s : State) (key : ℕ) :
    (s.arm key).rdma = s.rdma := rfl

@[simp] theorem State.arm_boot (s : State) (key : ℕ) :
    (s.arm key).boot = s.boot := rfl

@[simp] theorem State.arm_keystone (s : State) (key : ℕ) :
    (s.arm key).keystone = s.keystone := rfl

@[simp] theorem State.arm_activation (s : State) (key : ℕ) :
    (s.arm key).activation = s.activation := rfl

@[simp] theorem State.arm_service (s : State) (key : ℕ) :
    (s.arm key).service = s.service := rfl

@[simp] theorem State.arm_monitor (s : State) (key : ℕ) :
    (s.arm key).monitor = s.monitor := rfl

@[simp] theorem State.arm_package (s : State) (key : ℕ) :
    (s.arm key).package = s.package := rfl

@[simp] theorem State.arm_outputs (s : State) (key : ℕ) :
    (s.arm key).outputs = s.outputs := rfl

@[simp] theorem State.arm_freeCtr (s : State) (key : ℕ) :
    (s.arm key).freeCtr = s.freeCtr := rfl

@[simp] theorem State.arm_pending (s : State) (key : ℕ) :
    (s.arm key).pending = s.pending := rfl

/-! ### State.disarm: only `timers` -/

@[simp] theorem State.disarm_dict (s : State) (key : ℕ) :
    (s.disarm key).dict = s.dict := rfl

@[simp] theorem State.disarm_doms (s : State) (key : ℕ) :
    (s.disarm key).doms = s.doms := rfl

@[simp] theorem State.disarm_store (s : State) (key : ℕ) :
    (s.disarm key).store = s.store := rfl

@[simp] theorem State.disarm_storeDoms (s : State) (key : ℕ) :
    (s.disarm key).storeDoms = s.storeDoms := rfl

@[simp] theorem State.disarm_storeSets (s : State) (key : ℕ) :
    (s.disarm key).storeSets = s.storeSets := rfl

@[simp] theorem State.disarm_snapshot (s : State) (key : ℕ) :
    (s.disarm key).snapshot = s.snapshot := rfl

@[simp] theorem State.disarm_snapshotDoms (s : State) (key : ℕ) :
    (s.disarm key).snapshotDoms = s.snapshotDoms := rfl

@[simp] theorem State.disarm_clock (s : State) (key : ℕ) :
    (s.disarm key).clock = s.clock := rfl

@[simp] theorem State.disarm_servo (s : State) (key : ℕ) :
    (s.disarm key).servo = s.servo := rfl

@[simp] theorem State.disarm_detectors (s : State) (key : ℕ) :
    (s.disarm key).detectors = s.detectors := rfl

@[simp] theorem State.disarm_synce (s : State) (key : ℕ) :
    (s.disarm key).synce = s.synce := rfl

@[simp] theorem State.disarm_ptp (s : State) (key : ℕ) :
    (s.disarm key).ptp = s.ptp := rfl

@[simp] theorem State.disarm_pins (s : State) (key : ℕ) :
    (s.disarm key).pins = s.pins := rfl

@[simp] theorem State.disarm_agent (s : State) (key : ℕ) :
    (s.disarm key).agent = s.agent := rfl

@[simp] theorem State.disarm_log (s : State) (key : ℕ) :
    (s.disarm key).log = s.log := rfl

@[simp] theorem State.disarm_mgmt (s : State) (key : ℕ) :
    (s.disarm key).mgmt = s.mgmt := rfl

@[simp] theorem State.disarm_mortar (s : State) (key : ℕ) :
    (s.disarm key).mortar = s.mortar := rfl

@[simp] theorem State.disarm_memory (s : State) (key : ℕ) :
    (s.disarm key).memory = s.memory := rfl

@[simp] theorem State.disarm_ports (s : State) (key : ℕ) :
    (s.disarm key).ports = s.ports := rfl

@[simp] theorem State.disarm_switch (s : State) (key : ℕ) :
    (s.disarm key).switch = s.switch := rfl

@[simp] theorem State.disarm_modeChange (s : State) (key : ℕ) :
    (s.disarm key).modeChange = s.modeChange := rfl

@[simp] theorem State.disarm_fwd (s : State) (key : ℕ) :
    (s.disarm key).fwd = s.fwd := rfl

@[simp] theorem State.disarm_wall (s : State) (key : ℕ) :
    (s.disarm key).wall = s.wall := rfl

@[simp] theorem State.disarm_redundancy (s : State) (key : ℕ) :
    (s.disarm key).redundancy = s.redundancy := rfl

@[simp] theorem State.disarm_classify (s : State) (key : ℕ) :
    (s.disarm key).classify = s.classify := rfl

@[simp] theorem State.disarm_trowel (s : State) (key : ℕ) :
    (s.disarm key).trowel = s.trowel := rfl

@[simp] theorem State.disarm_cipher (s : State) (key : ℕ) :
    (s.disarm key).cipher = s.cipher := rfl

@[simp] theorem State.disarm_hod (s : State) (key : ℕ) :
    (s.disarm key).hod = s.hod := rfl

@[simp] theorem State.disarm_host (s : State) (key : ℕ) :
    (s.disarm key).host = s.host := rfl

@[simp] theorem State.disarm_slices (s : State) (key : ℕ) :
    (s.disarm key).slices = s.slices := rfl

@[simp] theorem State.disarm_storage (s : State) (key : ℕ) :
    (s.disarm key).storage = s.storage := rfl

@[simp] theorem State.disarm_rdma (s : State) (key : ℕ) :
    (s.disarm key).rdma = s.rdma := rfl

@[simp] theorem State.disarm_boot (s : State) (key : ℕ) :
    (s.disarm key).boot = s.boot := rfl

@[simp] theorem State.disarm_keystone (s : State) (key : ℕ) :
    (s.disarm key).keystone = s.keystone := rfl

@[simp] theorem State.disarm_activation (s : State) (key : ℕ) :
    (s.disarm key).activation = s.activation := rfl

@[simp] theorem State.disarm_service (s : State) (key : ℕ) :
    (s.disarm key).service = s.service := rfl

@[simp] theorem State.disarm_monitor (s : State) (key : ℕ) :
    (s.disarm key).monitor = s.monitor := rfl

@[simp] theorem State.disarm_package (s : State) (key : ℕ) :
    (s.disarm key).package = s.package := rfl

@[simp] theorem State.disarm_outputs (s : State) (key : ℕ) :
    (s.disarm key).outputs = s.outputs := rfl

@[simp] theorem State.disarm_freeCtr (s : State) (key : ℕ) :
    (s.disarm key).freeCtr = s.freeCtr := rfl

@[simp] theorem State.disarm_pending (s : State) (key : ℕ) :
    (s.disarm key).pending = s.pending := rfl

/-! ### State.carry: only `mortar` -/

@[simp] theorem State.carry_dict (s : State) (src : ℕ) (dest : ℕ) (vn : ℕ) (len : ℕ) (cls : ℕ) (handle : ℕ) :
    (s.carry src dest vn len cls handle).dict = s.dict := rfl

@[simp] theorem State.carry_doms (s : State) (src : ℕ) (dest : ℕ) (vn : ℕ) (len : ℕ) (cls : ℕ) (handle : ℕ) :
    (s.carry src dest vn len cls handle).doms = s.doms := rfl

@[simp] theorem State.carry_store (s : State) (src : ℕ) (dest : ℕ) (vn : ℕ) (len : ℕ) (cls : ℕ) (handle : ℕ) :
    (s.carry src dest vn len cls handle).store = s.store := rfl

@[simp] theorem State.carry_storeDoms (s : State) (src : ℕ) (dest : ℕ) (vn : ℕ) (len : ℕ) (cls : ℕ) (handle : ℕ) :
    (s.carry src dest vn len cls handle).storeDoms = s.storeDoms := rfl

@[simp] theorem State.carry_storeSets (s : State) (src : ℕ) (dest : ℕ) (vn : ℕ) (len : ℕ) (cls : ℕ) (handle : ℕ) :
    (s.carry src dest vn len cls handle).storeSets = s.storeSets := rfl

@[simp] theorem State.carry_snapshot (s : State) (src : ℕ) (dest : ℕ) (vn : ℕ) (len : ℕ) (cls : ℕ) (handle : ℕ) :
    (s.carry src dest vn len cls handle).snapshot = s.snapshot := rfl

@[simp] theorem State.carry_snapshotDoms (s : State) (src : ℕ) (dest : ℕ) (vn : ℕ) (len : ℕ) (cls : ℕ) (handle : ℕ) :
    (s.carry src dest vn len cls handle).snapshotDoms = s.snapshotDoms := rfl

@[simp] theorem State.carry_timers (s : State) (src : ℕ) (dest : ℕ) (vn : ℕ) (len : ℕ) (cls : ℕ) (handle : ℕ) :
    (s.carry src dest vn len cls handle).timers = s.timers := rfl

@[simp] theorem State.carry_clock (s : State) (src : ℕ) (dest : ℕ) (vn : ℕ) (len : ℕ) (cls : ℕ) (handle : ℕ) :
    (s.carry src dest vn len cls handle).clock = s.clock := rfl

@[simp] theorem State.carry_servo (s : State) (src : ℕ) (dest : ℕ) (vn : ℕ) (len : ℕ) (cls : ℕ) (handle : ℕ) :
    (s.carry src dest vn len cls handle).servo = s.servo := rfl

@[simp] theorem State.carry_detectors (s : State) (src : ℕ) (dest : ℕ) (vn : ℕ) (len : ℕ) (cls : ℕ) (handle : ℕ) :
    (s.carry src dest vn len cls handle).detectors = s.detectors := rfl

@[simp] theorem State.carry_synce (s : State) (src : ℕ) (dest : ℕ) (vn : ℕ) (len : ℕ) (cls : ℕ) (handle : ℕ) :
    (s.carry src dest vn len cls handle).synce = s.synce := rfl

@[simp] theorem State.carry_ptp (s : State) (src : ℕ) (dest : ℕ) (vn : ℕ) (len : ℕ) (cls : ℕ) (handle : ℕ) :
    (s.carry src dest vn len cls handle).ptp = s.ptp := rfl

@[simp] theorem State.carry_pins (s : State) (src : ℕ) (dest : ℕ) (vn : ℕ) (len : ℕ) (cls : ℕ) (handle : ℕ) :
    (s.carry src dest vn len cls handle).pins = s.pins := rfl

@[simp] theorem State.carry_agent (s : State) (src : ℕ) (dest : ℕ) (vn : ℕ) (len : ℕ) (cls : ℕ) (handle : ℕ) :
    (s.carry src dest vn len cls handle).agent = s.agent := rfl

@[simp] theorem State.carry_log (s : State) (src : ℕ) (dest : ℕ) (vn : ℕ) (len : ℕ) (cls : ℕ) (handle : ℕ) :
    (s.carry src dest vn len cls handle).log = s.log := rfl

@[simp] theorem State.carry_mgmt (s : State) (src : ℕ) (dest : ℕ) (vn : ℕ) (len : ℕ) (cls : ℕ) (handle : ℕ) :
    (s.carry src dest vn len cls handle).mgmt = s.mgmt := rfl

@[simp] theorem State.carry_memory (s : State) (src : ℕ) (dest : ℕ) (vn : ℕ) (len : ℕ) (cls : ℕ) (handle : ℕ) :
    (s.carry src dest vn len cls handle).memory = s.memory := rfl

@[simp] theorem State.carry_ports (s : State) (src : ℕ) (dest : ℕ) (vn : ℕ) (len : ℕ) (cls : ℕ) (handle : ℕ) :
    (s.carry src dest vn len cls handle).ports = s.ports := rfl

@[simp] theorem State.carry_switch (s : State) (src : ℕ) (dest : ℕ) (vn : ℕ) (len : ℕ) (cls : ℕ) (handle : ℕ) :
    (s.carry src dest vn len cls handle).switch = s.switch := rfl

@[simp] theorem State.carry_modeChange (s : State) (src : ℕ) (dest : ℕ) (vn : ℕ) (len : ℕ) (cls : ℕ) (handle : ℕ) :
    (s.carry src dest vn len cls handle).modeChange = s.modeChange := rfl

@[simp] theorem State.carry_fwd (s : State) (src : ℕ) (dest : ℕ) (vn : ℕ) (len : ℕ) (cls : ℕ) (handle : ℕ) :
    (s.carry src dest vn len cls handle).fwd = s.fwd := rfl

@[simp] theorem State.carry_wall (s : State) (src : ℕ) (dest : ℕ) (vn : ℕ) (len : ℕ) (cls : ℕ) (handle : ℕ) :
    (s.carry src dest vn len cls handle).wall = s.wall := rfl

@[simp] theorem State.carry_redundancy (s : State) (src : ℕ) (dest : ℕ) (vn : ℕ) (len : ℕ) (cls : ℕ) (handle : ℕ) :
    (s.carry src dest vn len cls handle).redundancy = s.redundancy := rfl

@[simp] theorem State.carry_classify (s : State) (src : ℕ) (dest : ℕ) (vn : ℕ) (len : ℕ) (cls : ℕ) (handle : ℕ) :
    (s.carry src dest vn len cls handle).classify = s.classify := rfl

@[simp] theorem State.carry_trowel (s : State) (src : ℕ) (dest : ℕ) (vn : ℕ) (len : ℕ) (cls : ℕ) (handle : ℕ) :
    (s.carry src dest vn len cls handle).trowel = s.trowel := rfl

@[simp] theorem State.carry_cipher (s : State) (src : ℕ) (dest : ℕ) (vn : ℕ) (len : ℕ) (cls : ℕ) (handle : ℕ) :
    (s.carry src dest vn len cls handle).cipher = s.cipher := rfl

@[simp] theorem State.carry_hod (s : State) (src : ℕ) (dest : ℕ) (vn : ℕ) (len : ℕ) (cls : ℕ) (handle : ℕ) :
    (s.carry src dest vn len cls handle).hod = s.hod := rfl

@[simp] theorem State.carry_host (s : State) (src : ℕ) (dest : ℕ) (vn : ℕ) (len : ℕ) (cls : ℕ) (handle : ℕ) :
    (s.carry src dest vn len cls handle).host = s.host := rfl

@[simp] theorem State.carry_slices (s : State) (src : ℕ) (dest : ℕ) (vn : ℕ) (len : ℕ) (cls : ℕ) (handle : ℕ) :
    (s.carry src dest vn len cls handle).slices = s.slices := rfl

@[simp] theorem State.carry_storage (s : State) (src : ℕ) (dest : ℕ) (vn : ℕ) (len : ℕ) (cls : ℕ) (handle : ℕ) :
    (s.carry src dest vn len cls handle).storage = s.storage := rfl

@[simp] theorem State.carry_rdma (s : State) (src : ℕ) (dest : ℕ) (vn : ℕ) (len : ℕ) (cls : ℕ) (handle : ℕ) :
    (s.carry src dest vn len cls handle).rdma = s.rdma := rfl

@[simp] theorem State.carry_boot (s : State) (src : ℕ) (dest : ℕ) (vn : ℕ) (len : ℕ) (cls : ℕ) (handle : ℕ) :
    (s.carry src dest vn len cls handle).boot = s.boot := rfl

@[simp] theorem State.carry_keystone (s : State) (src : ℕ) (dest : ℕ) (vn : ℕ) (len : ℕ) (cls : ℕ) (handle : ℕ) :
    (s.carry src dest vn len cls handle).keystone = s.keystone := rfl

@[simp] theorem State.carry_activation (s : State) (src : ℕ) (dest : ℕ) (vn : ℕ) (len : ℕ) (cls : ℕ) (handle : ℕ) :
    (s.carry src dest vn len cls handle).activation = s.activation := rfl

@[simp] theorem State.carry_service (s : State) (src : ℕ) (dest : ℕ) (vn : ℕ) (len : ℕ) (cls : ℕ) (handle : ℕ) :
    (s.carry src dest vn len cls handle).service = s.service := rfl

@[simp] theorem State.carry_monitor (s : State) (src : ℕ) (dest : ℕ) (vn : ℕ) (len : ℕ) (cls : ℕ) (handle : ℕ) :
    (s.carry src dest vn len cls handle).monitor = s.monitor := rfl

@[simp] theorem State.carry_package (s : State) (src : ℕ) (dest : ℕ) (vn : ℕ) (len : ℕ) (cls : ℕ) (handle : ℕ) :
    (s.carry src dest vn len cls handle).package = s.package := rfl

@[simp] theorem State.carry_outputs (s : State) (src : ℕ) (dest : ℕ) (vn : ℕ) (len : ℕ) (cls : ℕ) (handle : ℕ) :
    (s.carry src dest vn len cls handle).outputs = s.outputs := rfl

@[simp] theorem State.carry_freeCtr (s : State) (src : ℕ) (dest : ℕ) (vn : ℕ) (len : ℕ) (cls : ℕ) (handle : ℕ) :
    (s.carry src dest vn len cls handle).freeCtr = s.freeCtr := rfl

@[simp] theorem State.carry_pending (s : State) (src : ℕ) (dest : ℕ) (vn : ℕ) (len : ℕ) (cls : ℕ) (handle : ℕ) :
    (s.carry src dest vn len cls handle).pending = s.pending := rfl

/-! ### State.setSource: only `servo` -/

@[simp] theorem State.setSource_dict (s : State) (src : ℕ) (x1 : Source) :
    (s.setSource src x1).dict = s.dict := rfl

@[simp] theorem State.setSource_doms (s : State) (src : ℕ) (x1 : Source) :
    (s.setSource src x1).doms = s.doms := rfl

@[simp] theorem State.setSource_store (s : State) (src : ℕ) (x1 : Source) :
    (s.setSource src x1).store = s.store := rfl

@[simp] theorem State.setSource_storeDoms (s : State) (src : ℕ) (x1 : Source) :
    (s.setSource src x1).storeDoms = s.storeDoms := rfl

@[simp] theorem State.setSource_storeSets (s : State) (src : ℕ) (x1 : Source) :
    (s.setSource src x1).storeSets = s.storeSets := rfl

@[simp] theorem State.setSource_snapshot (s : State) (src : ℕ) (x1 : Source) :
    (s.setSource src x1).snapshot = s.snapshot := rfl

@[simp] theorem State.setSource_snapshotDoms (s : State) (src : ℕ) (x1 : Source) :
    (s.setSource src x1).snapshotDoms = s.snapshotDoms := rfl

@[simp] theorem State.setSource_timers (s : State) (src : ℕ) (x1 : Source) :
    (s.setSource src x1).timers = s.timers := rfl

@[simp] theorem State.setSource_clock (s : State) (src : ℕ) (x1 : Source) :
    (s.setSource src x1).clock = s.clock := rfl

@[simp] theorem State.setSource_detectors (s : State) (src : ℕ) (x1 : Source) :
    (s.setSource src x1).detectors = s.detectors := rfl

@[simp] theorem State.setSource_synce (s : State) (src : ℕ) (x1 : Source) :
    (s.setSource src x1).synce = s.synce := rfl

@[simp] theorem State.setSource_ptp (s : State) (src : ℕ) (x1 : Source) :
    (s.setSource src x1).ptp = s.ptp := rfl

@[simp] theorem State.setSource_pins (s : State) (src : ℕ) (x1 : Source) :
    (s.setSource src x1).pins = s.pins := rfl

@[simp] theorem State.setSource_agent (s : State) (src : ℕ) (x1 : Source) :
    (s.setSource src x1).agent = s.agent := rfl

@[simp] theorem State.setSource_log (s : State) (src : ℕ) (x1 : Source) :
    (s.setSource src x1).log = s.log := rfl

@[simp] theorem State.setSource_mgmt (s : State) (src : ℕ) (x1 : Source) :
    (s.setSource src x1).mgmt = s.mgmt := rfl

@[simp] theorem State.setSource_mortar (s : State) (src : ℕ) (x1 : Source) :
    (s.setSource src x1).mortar = s.mortar := rfl

@[simp] theorem State.setSource_memory (s : State) (src : ℕ) (x1 : Source) :
    (s.setSource src x1).memory = s.memory := rfl

@[simp] theorem State.setSource_ports (s : State) (src : ℕ) (x1 : Source) :
    (s.setSource src x1).ports = s.ports := rfl

@[simp] theorem State.setSource_switch (s : State) (src : ℕ) (x1 : Source) :
    (s.setSource src x1).switch = s.switch := rfl

@[simp] theorem State.setSource_modeChange (s : State) (src : ℕ) (x1 : Source) :
    (s.setSource src x1).modeChange = s.modeChange := rfl

@[simp] theorem State.setSource_fwd (s : State) (src : ℕ) (x1 : Source) :
    (s.setSource src x1).fwd = s.fwd := rfl

@[simp] theorem State.setSource_wall (s : State) (src : ℕ) (x1 : Source) :
    (s.setSource src x1).wall = s.wall := rfl

@[simp] theorem State.setSource_redundancy (s : State) (src : ℕ) (x1 : Source) :
    (s.setSource src x1).redundancy = s.redundancy := rfl

@[simp] theorem State.setSource_classify (s : State) (src : ℕ) (x1 : Source) :
    (s.setSource src x1).classify = s.classify := rfl

@[simp] theorem State.setSource_trowel (s : State) (src : ℕ) (x1 : Source) :
    (s.setSource src x1).trowel = s.trowel := rfl

@[simp] theorem State.setSource_cipher (s : State) (src : ℕ) (x1 : Source) :
    (s.setSource src x1).cipher = s.cipher := rfl

@[simp] theorem State.setSource_hod (s : State) (src : ℕ) (x1 : Source) :
    (s.setSource src x1).hod = s.hod := rfl

@[simp] theorem State.setSource_host (s : State) (src : ℕ) (x1 : Source) :
    (s.setSource src x1).host = s.host := rfl

@[simp] theorem State.setSource_slices (s : State) (src : ℕ) (x1 : Source) :
    (s.setSource src x1).slices = s.slices := rfl

@[simp] theorem State.setSource_storage (s : State) (src : ℕ) (x1 : Source) :
    (s.setSource src x1).storage = s.storage := rfl

@[simp] theorem State.setSource_rdma (s : State) (src : ℕ) (x1 : Source) :
    (s.setSource src x1).rdma = s.rdma := rfl

@[simp] theorem State.setSource_boot (s : State) (src : ℕ) (x1 : Source) :
    (s.setSource src x1).boot = s.boot := rfl

@[simp] theorem State.setSource_keystone (s : State) (src : ℕ) (x1 : Source) :
    (s.setSource src x1).keystone = s.keystone := rfl

@[simp] theorem State.setSource_activation (s : State) (src : ℕ) (x1 : Source) :
    (s.setSource src x1).activation = s.activation := rfl

@[simp] theorem State.setSource_service (s : State) (src : ℕ) (x1 : Source) :
    (s.setSource src x1).service = s.service := rfl

@[simp] theorem State.setSource_monitor (s : State) (src : ℕ) (x1 : Source) :
    (s.setSource src x1).monitor = s.monitor := rfl

@[simp] theorem State.setSource_package (s : State) (src : ℕ) (x1 : Source) :
    (s.setSource src x1).package = s.package := rfl

@[simp] theorem State.setSource_outputs (s : State) (src : ℕ) (x1 : Source) :
    (s.setSource src x1).outputs = s.outputs := rfl

@[simp] theorem State.setSource_freeCtr (s : State) (src : ℕ) (x1 : Source) :
    (s.setSource src x1).freeCtr = s.freeCtr := rfl

@[simp] theorem State.setSource_pending (s : State) (src : ℕ) (x1 : Source) :
    (s.setSource src x1).pending = s.pending := rfl

/-! ### State.setDetector: only `detectors` -/

@[simp] theorem State.setDetector_dict (s : State) (lane : ℕ) (d : Detector) :
    (s.setDetector lane d).dict = s.dict := rfl

@[simp] theorem State.setDetector_doms (s : State) (lane : ℕ) (d : Detector) :
    (s.setDetector lane d).doms = s.doms := rfl

@[simp] theorem State.setDetector_store (s : State) (lane : ℕ) (d : Detector) :
    (s.setDetector lane d).store = s.store := rfl

@[simp] theorem State.setDetector_storeDoms (s : State) (lane : ℕ) (d : Detector) :
    (s.setDetector lane d).storeDoms = s.storeDoms := rfl

@[simp] theorem State.setDetector_storeSets (s : State) (lane : ℕ) (d : Detector) :
    (s.setDetector lane d).storeSets = s.storeSets := rfl

@[simp] theorem State.setDetector_snapshot (s : State) (lane : ℕ) (d : Detector) :
    (s.setDetector lane d).snapshot = s.snapshot := rfl

@[simp] theorem State.setDetector_snapshotDoms (s : State) (lane : ℕ) (d : Detector) :
    (s.setDetector lane d).snapshotDoms = s.snapshotDoms := rfl

@[simp] theorem State.setDetector_timers (s : State) (lane : ℕ) (d : Detector) :
    (s.setDetector lane d).timers = s.timers := rfl

@[simp] theorem State.setDetector_clock (s : State) (lane : ℕ) (d : Detector) :
    (s.setDetector lane d).clock = s.clock := rfl

@[simp] theorem State.setDetector_servo (s : State) (lane : ℕ) (d : Detector) :
    (s.setDetector lane d).servo = s.servo := rfl

@[simp] theorem State.setDetector_synce (s : State) (lane : ℕ) (d : Detector) :
    (s.setDetector lane d).synce = s.synce := rfl

@[simp] theorem State.setDetector_ptp (s : State) (lane : ℕ) (d : Detector) :
    (s.setDetector lane d).ptp = s.ptp := rfl

@[simp] theorem State.setDetector_pins (s : State) (lane : ℕ) (d : Detector) :
    (s.setDetector lane d).pins = s.pins := rfl

@[simp] theorem State.setDetector_agent (s : State) (lane : ℕ) (d : Detector) :
    (s.setDetector lane d).agent = s.agent := rfl

@[simp] theorem State.setDetector_log (s : State) (lane : ℕ) (d : Detector) :
    (s.setDetector lane d).log = s.log := rfl

@[simp] theorem State.setDetector_mgmt (s : State) (lane : ℕ) (d : Detector) :
    (s.setDetector lane d).mgmt = s.mgmt := rfl

@[simp] theorem State.setDetector_mortar (s : State) (lane : ℕ) (d : Detector) :
    (s.setDetector lane d).mortar = s.mortar := rfl

@[simp] theorem State.setDetector_memory (s : State) (lane : ℕ) (d : Detector) :
    (s.setDetector lane d).memory = s.memory := rfl

@[simp] theorem State.setDetector_ports (s : State) (lane : ℕ) (d : Detector) :
    (s.setDetector lane d).ports = s.ports := rfl

@[simp] theorem State.setDetector_switch (s : State) (lane : ℕ) (d : Detector) :
    (s.setDetector lane d).switch = s.switch := rfl

@[simp] theorem State.setDetector_modeChange (s : State) (lane : ℕ) (d : Detector) :
    (s.setDetector lane d).modeChange = s.modeChange := rfl

@[simp] theorem State.setDetector_fwd (s : State) (lane : ℕ) (d : Detector) :
    (s.setDetector lane d).fwd = s.fwd := rfl

@[simp] theorem State.setDetector_wall (s : State) (lane : ℕ) (d : Detector) :
    (s.setDetector lane d).wall = s.wall := rfl

@[simp] theorem State.setDetector_redundancy (s : State) (lane : ℕ) (d : Detector) :
    (s.setDetector lane d).redundancy = s.redundancy := rfl

@[simp] theorem State.setDetector_classify (s : State) (lane : ℕ) (d : Detector) :
    (s.setDetector lane d).classify = s.classify := rfl

@[simp] theorem State.setDetector_trowel (s : State) (lane : ℕ) (d : Detector) :
    (s.setDetector lane d).trowel = s.trowel := rfl

@[simp] theorem State.setDetector_cipher (s : State) (lane : ℕ) (d : Detector) :
    (s.setDetector lane d).cipher = s.cipher := rfl

@[simp] theorem State.setDetector_hod (s : State) (lane : ℕ) (d : Detector) :
    (s.setDetector lane d).hod = s.hod := rfl

@[simp] theorem State.setDetector_host (s : State) (lane : ℕ) (d : Detector) :
    (s.setDetector lane d).host = s.host := rfl

@[simp] theorem State.setDetector_slices (s : State) (lane : ℕ) (d : Detector) :
    (s.setDetector lane d).slices = s.slices := rfl

@[simp] theorem State.setDetector_storage (s : State) (lane : ℕ) (d : Detector) :
    (s.setDetector lane d).storage = s.storage := rfl

@[simp] theorem State.setDetector_rdma (s : State) (lane : ℕ) (d : Detector) :
    (s.setDetector lane d).rdma = s.rdma := rfl

@[simp] theorem State.setDetector_boot (s : State) (lane : ℕ) (d : Detector) :
    (s.setDetector lane d).boot = s.boot := rfl

@[simp] theorem State.setDetector_keystone (s : State) (lane : ℕ) (d : Detector) :
    (s.setDetector lane d).keystone = s.keystone := rfl

@[simp] theorem State.setDetector_activation (s : State) (lane : ℕ) (d : Detector) :
    (s.setDetector lane d).activation = s.activation := rfl

@[simp] theorem State.setDetector_service (s : State) (lane : ℕ) (d : Detector) :
    (s.setDetector lane d).service = s.service := rfl

@[simp] theorem State.setDetector_monitor (s : State) (lane : ℕ) (d : Detector) :
    (s.setDetector lane d).monitor = s.monitor := rfl

@[simp] theorem State.setDetector_package (s : State) (lane : ℕ) (d : Detector) :
    (s.setDetector lane d).package = s.package := rfl

@[simp] theorem State.setDetector_outputs (s : State) (lane : ℕ) (d : Detector) :
    (s.setDetector lane d).outputs = s.outputs := rfl

@[simp] theorem State.setDetector_freeCtr (s : State) (lane : ℕ) (d : Detector) :
    (s.setDetector lane d).freeCtr = s.freeCtr := rfl

@[simp] theorem State.setDetector_pending (s : State) (lane : ℕ) (d : Detector) :
    (s.setDetector lane d).pending = s.pending := rfl

/-! ### State.setPtp: only `ptp` -/

@[simp] theorem State.setPtp_dict (s : State) (p : ℕ) (x1 : PtpPort) :
    (s.setPtp p x1).dict = s.dict := rfl

@[simp] theorem State.setPtp_doms (s : State) (p : ℕ) (x1 : PtpPort) :
    (s.setPtp p x1).doms = s.doms := rfl

@[simp] theorem State.setPtp_store (s : State) (p : ℕ) (x1 : PtpPort) :
    (s.setPtp p x1).store = s.store := rfl

@[simp] theorem State.setPtp_storeDoms (s : State) (p : ℕ) (x1 : PtpPort) :
    (s.setPtp p x1).storeDoms = s.storeDoms := rfl

@[simp] theorem State.setPtp_storeSets (s : State) (p : ℕ) (x1 : PtpPort) :
    (s.setPtp p x1).storeSets = s.storeSets := rfl

@[simp] theorem State.setPtp_snapshot (s : State) (p : ℕ) (x1 : PtpPort) :
    (s.setPtp p x1).snapshot = s.snapshot := rfl

@[simp] theorem State.setPtp_snapshotDoms (s : State) (p : ℕ) (x1 : PtpPort) :
    (s.setPtp p x1).snapshotDoms = s.snapshotDoms := rfl

@[simp] theorem State.setPtp_timers (s : State) (p : ℕ) (x1 : PtpPort) :
    (s.setPtp p x1).timers = s.timers := rfl

@[simp] theorem State.setPtp_clock (s : State) (p : ℕ) (x1 : PtpPort) :
    (s.setPtp p x1).clock = s.clock := rfl

@[simp] theorem State.setPtp_servo (s : State) (p : ℕ) (x1 : PtpPort) :
    (s.setPtp p x1).servo = s.servo := rfl

@[simp] theorem State.setPtp_detectors (s : State) (p : ℕ) (x1 : PtpPort) :
    (s.setPtp p x1).detectors = s.detectors := rfl

@[simp] theorem State.setPtp_synce (s : State) (p : ℕ) (x1 : PtpPort) :
    (s.setPtp p x1).synce = s.synce := rfl

@[simp] theorem State.setPtp_pins (s : State) (p : ℕ) (x1 : PtpPort) :
    (s.setPtp p x1).pins = s.pins := rfl

@[simp] theorem State.setPtp_agent (s : State) (p : ℕ) (x1 : PtpPort) :
    (s.setPtp p x1).agent = s.agent := rfl

@[simp] theorem State.setPtp_log (s : State) (p : ℕ) (x1 : PtpPort) :
    (s.setPtp p x1).log = s.log := rfl

@[simp] theorem State.setPtp_mgmt (s : State) (p : ℕ) (x1 : PtpPort) :
    (s.setPtp p x1).mgmt = s.mgmt := rfl

@[simp] theorem State.setPtp_mortar (s : State) (p : ℕ) (x1 : PtpPort) :
    (s.setPtp p x1).mortar = s.mortar := rfl

@[simp] theorem State.setPtp_memory (s : State) (p : ℕ) (x1 : PtpPort) :
    (s.setPtp p x1).memory = s.memory := rfl

@[simp] theorem State.setPtp_ports (s : State) (p : ℕ) (x1 : PtpPort) :
    (s.setPtp p x1).ports = s.ports := rfl

@[simp] theorem State.setPtp_switch (s : State) (p : ℕ) (x1 : PtpPort) :
    (s.setPtp p x1).switch = s.switch := rfl

@[simp] theorem State.setPtp_modeChange (s : State) (p : ℕ) (x1 : PtpPort) :
    (s.setPtp p x1).modeChange = s.modeChange := rfl

@[simp] theorem State.setPtp_fwd (s : State) (p : ℕ) (x1 : PtpPort) :
    (s.setPtp p x1).fwd = s.fwd := rfl

@[simp] theorem State.setPtp_wall (s : State) (p : ℕ) (x1 : PtpPort) :
    (s.setPtp p x1).wall = s.wall := rfl

@[simp] theorem State.setPtp_redundancy (s : State) (p : ℕ) (x1 : PtpPort) :
    (s.setPtp p x1).redundancy = s.redundancy := rfl

@[simp] theorem State.setPtp_classify (s : State) (p : ℕ) (x1 : PtpPort) :
    (s.setPtp p x1).classify = s.classify := rfl

@[simp] theorem State.setPtp_trowel (s : State) (p : ℕ) (x1 : PtpPort) :
    (s.setPtp p x1).trowel = s.trowel := rfl

@[simp] theorem State.setPtp_cipher (s : State) (p : ℕ) (x1 : PtpPort) :
    (s.setPtp p x1).cipher = s.cipher := rfl

@[simp] theorem State.setPtp_hod (s : State) (p : ℕ) (x1 : PtpPort) :
    (s.setPtp p x1).hod = s.hod := rfl

@[simp] theorem State.setPtp_host (s : State) (p : ℕ) (x1 : PtpPort) :
    (s.setPtp p x1).host = s.host := rfl

@[simp] theorem State.setPtp_slices (s : State) (p : ℕ) (x1 : PtpPort) :
    (s.setPtp p x1).slices = s.slices := rfl

@[simp] theorem State.setPtp_storage (s : State) (p : ℕ) (x1 : PtpPort) :
    (s.setPtp p x1).storage = s.storage := rfl

@[simp] theorem State.setPtp_rdma (s : State) (p : ℕ) (x1 : PtpPort) :
    (s.setPtp p x1).rdma = s.rdma := rfl

@[simp] theorem State.setPtp_boot (s : State) (p : ℕ) (x1 : PtpPort) :
    (s.setPtp p x1).boot = s.boot := rfl

@[simp] theorem State.setPtp_keystone (s : State) (p : ℕ) (x1 : PtpPort) :
    (s.setPtp p x1).keystone = s.keystone := rfl

@[simp] theorem State.setPtp_activation (s : State) (p : ℕ) (x1 : PtpPort) :
    (s.setPtp p x1).activation = s.activation := rfl

@[simp] theorem State.setPtp_service (s : State) (p : ℕ) (x1 : PtpPort) :
    (s.setPtp p x1).service = s.service := rfl

@[simp] theorem State.setPtp_monitor (s : State) (p : ℕ) (x1 : PtpPort) :
    (s.setPtp p x1).monitor = s.monitor := rfl

@[simp] theorem State.setPtp_package (s : State) (p : ℕ) (x1 : PtpPort) :
    (s.setPtp p x1).package = s.package := rfl

@[simp] theorem State.setPtp_outputs (s : State) (p : ℕ) (x1 : PtpPort) :
    (s.setPtp p x1).outputs = s.outputs := rfl

@[simp] theorem State.setPtp_freeCtr (s : State) (p : ℕ) (x1 : PtpPort) :
    (s.setPtp p x1).freeCtr = s.freeCtr := rfl

@[simp] theorem State.setPtp_pending (s : State) (p : ℕ) (x1 : PtpPort) :
    (s.setPtp p x1).pending = s.pending := rfl

/-! ### State.setPort: only `ports` -/

@[simp] theorem State.setPort_dict (s : State) (p : ℕ) (x1 : Port) :
    (s.setPort p x1).dict = s.dict := rfl

@[simp] theorem State.setPort_doms (s : State) (p : ℕ) (x1 : Port) :
    (s.setPort p x1).doms = s.doms := rfl

@[simp] theorem State.setPort_store (s : State) (p : ℕ) (x1 : Port) :
    (s.setPort p x1).store = s.store := rfl

@[simp] theorem State.setPort_storeDoms (s : State) (p : ℕ) (x1 : Port) :
    (s.setPort p x1).storeDoms = s.storeDoms := rfl

@[simp] theorem State.setPort_storeSets (s : State) (p : ℕ) (x1 : Port) :
    (s.setPort p x1).storeSets = s.storeSets := rfl

@[simp] theorem State.setPort_snapshot (s : State) (p : ℕ) (x1 : Port) :
    (s.setPort p x1).snapshot = s.snapshot := rfl

@[simp] theorem State.setPort_snapshotDoms (s : State) (p : ℕ) (x1 : Port) :
    (s.setPort p x1).snapshotDoms = s.snapshotDoms := rfl

@[simp] theorem State.setPort_timers (s : State) (p : ℕ) (x1 : Port) :
    (s.setPort p x1).timers = s.timers := rfl

@[simp] theorem State.setPort_clock (s : State) (p : ℕ) (x1 : Port) :
    (s.setPort p x1).clock = s.clock := rfl

@[simp] theorem State.setPort_servo (s : State) (p : ℕ) (x1 : Port) :
    (s.setPort p x1).servo = s.servo := rfl

@[simp] theorem State.setPort_detectors (s : State) (p : ℕ) (x1 : Port) :
    (s.setPort p x1).detectors = s.detectors := rfl

@[simp] theorem State.setPort_synce (s : State) (p : ℕ) (x1 : Port) :
    (s.setPort p x1).synce = s.synce := rfl

@[simp] theorem State.setPort_ptp (s : State) (p : ℕ) (x1 : Port) :
    (s.setPort p x1).ptp = s.ptp := rfl

@[simp] theorem State.setPort_pins (s : State) (p : ℕ) (x1 : Port) :
    (s.setPort p x1).pins = s.pins := rfl

@[simp] theorem State.setPort_agent (s : State) (p : ℕ) (x1 : Port) :
    (s.setPort p x1).agent = s.agent := rfl

@[simp] theorem State.setPort_log (s : State) (p : ℕ) (x1 : Port) :
    (s.setPort p x1).log = s.log := rfl

@[simp] theorem State.setPort_mgmt (s : State) (p : ℕ) (x1 : Port) :
    (s.setPort p x1).mgmt = s.mgmt := rfl

@[simp] theorem State.setPort_mortar (s : State) (p : ℕ) (x1 : Port) :
    (s.setPort p x1).mortar = s.mortar := rfl

@[simp] theorem State.setPort_memory (s : State) (p : ℕ) (x1 : Port) :
    (s.setPort p x1).memory = s.memory := rfl

@[simp] theorem State.setPort_switch (s : State) (p : ℕ) (x1 : Port) :
    (s.setPort p x1).switch = s.switch := rfl

@[simp] theorem State.setPort_modeChange (s : State) (p : ℕ) (x1 : Port) :
    (s.setPort p x1).modeChange = s.modeChange := rfl

@[simp] theorem State.setPort_fwd (s : State) (p : ℕ) (x1 : Port) :
    (s.setPort p x1).fwd = s.fwd := rfl

@[simp] theorem State.setPort_wall (s : State) (p : ℕ) (x1 : Port) :
    (s.setPort p x1).wall = s.wall := rfl

@[simp] theorem State.setPort_redundancy (s : State) (p : ℕ) (x1 : Port) :
    (s.setPort p x1).redundancy = s.redundancy := rfl

@[simp] theorem State.setPort_classify (s : State) (p : ℕ) (x1 : Port) :
    (s.setPort p x1).classify = s.classify := rfl

@[simp] theorem State.setPort_trowel (s : State) (p : ℕ) (x1 : Port) :
    (s.setPort p x1).trowel = s.trowel := rfl

@[simp] theorem State.setPort_cipher (s : State) (p : ℕ) (x1 : Port) :
    (s.setPort p x1).cipher = s.cipher := rfl

@[simp] theorem State.setPort_hod (s : State) (p : ℕ) (x1 : Port) :
    (s.setPort p x1).hod = s.hod := rfl

@[simp] theorem State.setPort_host (s : State) (p : ℕ) (x1 : Port) :
    (s.setPort p x1).host = s.host := rfl

@[simp] theorem State.setPort_slices (s : State) (p : ℕ) (x1 : Port) :
    (s.setPort p x1).slices = s.slices := rfl

@[simp] theorem State.setPort_storage (s : State) (p : ℕ) (x1 : Port) :
    (s.setPort p x1).storage = s.storage := rfl

@[simp] theorem State.setPort_rdma (s : State) (p : ℕ) (x1 : Port) :
    (s.setPort p x1).rdma = s.rdma := rfl

@[simp] theorem State.setPort_boot (s : State) (p : ℕ) (x1 : Port) :
    (s.setPort p x1).boot = s.boot := rfl

@[simp] theorem State.setPort_keystone (s : State) (p : ℕ) (x1 : Port) :
    (s.setPort p x1).keystone = s.keystone := rfl

@[simp] theorem State.setPort_activation (s : State) (p : ℕ) (x1 : Port) :
    (s.setPort p x1).activation = s.activation := rfl

@[simp] theorem State.setPort_service (s : State) (p : ℕ) (x1 : Port) :
    (s.setPort p x1).service = s.service := rfl

@[simp] theorem State.setPort_monitor (s : State) (p : ℕ) (x1 : Port) :
    (s.setPort p x1).monitor = s.monitor := rfl

@[simp] theorem State.setPort_package (s : State) (p : ℕ) (x1 : Port) :
    (s.setPort p x1).package = s.package := rfl

@[simp] theorem State.setPort_outputs (s : State) (p : ℕ) (x1 : Port) :
    (s.setPort p x1).outputs = s.outputs := rfl

@[simp] theorem State.setPort_freeCtr (s : State) (p : ℕ) (x1 : Port) :
    (s.setPort p x1).freeCtr = s.freeCtr := rfl

@[simp] theorem State.setPort_pending (s : State) (p : ℕ) (x1 : Port) :
    (s.setPort p x1).pending = s.pending := rfl

/-! ### State.setHostFn: only `host` -/

@[simp] theorem State.setHostFn_dict (s : State) (f : ℕ) (x1 : HostFn) :
    (s.setHostFn f x1).dict = s.dict := rfl

@[simp] theorem State.setHostFn_doms (s : State) (f : ℕ) (x1 : HostFn) :
    (s.setHostFn f x1).doms = s.doms := rfl

@[simp] theorem State.setHostFn_store (s : State) (f : ℕ) (x1 : HostFn) :
    (s.setHostFn f x1).store = s.store := rfl

@[simp] theorem State.setHostFn_storeDoms (s : State) (f : ℕ) (x1 : HostFn) :
    (s.setHostFn f x1).storeDoms = s.storeDoms := rfl

@[simp] theorem State.setHostFn_storeSets (s : State) (f : ℕ) (x1 : HostFn) :
    (s.setHostFn f x1).storeSets = s.storeSets := rfl

@[simp] theorem State.setHostFn_snapshot (s : State) (f : ℕ) (x1 : HostFn) :
    (s.setHostFn f x1).snapshot = s.snapshot := rfl

@[simp] theorem State.setHostFn_snapshotDoms (s : State) (f : ℕ) (x1 : HostFn) :
    (s.setHostFn f x1).snapshotDoms = s.snapshotDoms := rfl

@[simp] theorem State.setHostFn_timers (s : State) (f : ℕ) (x1 : HostFn) :
    (s.setHostFn f x1).timers = s.timers := rfl

@[simp] theorem State.setHostFn_clock (s : State) (f : ℕ) (x1 : HostFn) :
    (s.setHostFn f x1).clock = s.clock := rfl

@[simp] theorem State.setHostFn_servo (s : State) (f : ℕ) (x1 : HostFn) :
    (s.setHostFn f x1).servo = s.servo := rfl

@[simp] theorem State.setHostFn_detectors (s : State) (f : ℕ) (x1 : HostFn) :
    (s.setHostFn f x1).detectors = s.detectors := rfl

@[simp] theorem State.setHostFn_synce (s : State) (f : ℕ) (x1 : HostFn) :
    (s.setHostFn f x1).synce = s.synce := rfl

@[simp] theorem State.setHostFn_ptp (s : State) (f : ℕ) (x1 : HostFn) :
    (s.setHostFn f x1).ptp = s.ptp := rfl

@[simp] theorem State.setHostFn_pins (s : State) (f : ℕ) (x1 : HostFn) :
    (s.setHostFn f x1).pins = s.pins := rfl

@[simp] theorem State.setHostFn_agent (s : State) (f : ℕ) (x1 : HostFn) :
    (s.setHostFn f x1).agent = s.agent := rfl

@[simp] theorem State.setHostFn_log (s : State) (f : ℕ) (x1 : HostFn) :
    (s.setHostFn f x1).log = s.log := rfl

@[simp] theorem State.setHostFn_mgmt (s : State) (f : ℕ) (x1 : HostFn) :
    (s.setHostFn f x1).mgmt = s.mgmt := rfl

@[simp] theorem State.setHostFn_mortar (s : State) (f : ℕ) (x1 : HostFn) :
    (s.setHostFn f x1).mortar = s.mortar := rfl

@[simp] theorem State.setHostFn_memory (s : State) (f : ℕ) (x1 : HostFn) :
    (s.setHostFn f x1).memory = s.memory := rfl

@[simp] theorem State.setHostFn_ports (s : State) (f : ℕ) (x1 : HostFn) :
    (s.setHostFn f x1).ports = s.ports := rfl

@[simp] theorem State.setHostFn_switch (s : State) (f : ℕ) (x1 : HostFn) :
    (s.setHostFn f x1).switch = s.switch := rfl

@[simp] theorem State.setHostFn_modeChange (s : State) (f : ℕ) (x1 : HostFn) :
    (s.setHostFn f x1).modeChange = s.modeChange := rfl

@[simp] theorem State.setHostFn_fwd (s : State) (f : ℕ) (x1 : HostFn) :
    (s.setHostFn f x1).fwd = s.fwd := rfl

@[simp] theorem State.setHostFn_wall (s : State) (f : ℕ) (x1 : HostFn) :
    (s.setHostFn f x1).wall = s.wall := rfl

@[simp] theorem State.setHostFn_redundancy (s : State) (f : ℕ) (x1 : HostFn) :
    (s.setHostFn f x1).redundancy = s.redundancy := rfl

@[simp] theorem State.setHostFn_classify (s : State) (f : ℕ) (x1 : HostFn) :
    (s.setHostFn f x1).classify = s.classify := rfl

@[simp] theorem State.setHostFn_trowel (s : State) (f : ℕ) (x1 : HostFn) :
    (s.setHostFn f x1).trowel = s.trowel := rfl

@[simp] theorem State.setHostFn_cipher (s : State) (f : ℕ) (x1 : HostFn) :
    (s.setHostFn f x1).cipher = s.cipher := rfl

@[simp] theorem State.setHostFn_hod (s : State) (f : ℕ) (x1 : HostFn) :
    (s.setHostFn f x1).hod = s.hod := rfl

@[simp] theorem State.setHostFn_slices (s : State) (f : ℕ) (x1 : HostFn) :
    (s.setHostFn f x1).slices = s.slices := rfl

@[simp] theorem State.setHostFn_storage (s : State) (f : ℕ) (x1 : HostFn) :
    (s.setHostFn f x1).storage = s.storage := rfl

@[simp] theorem State.setHostFn_rdma (s : State) (f : ℕ) (x1 : HostFn) :
    (s.setHostFn f x1).rdma = s.rdma := rfl

@[simp] theorem State.setHostFn_boot (s : State) (f : ℕ) (x1 : HostFn) :
    (s.setHostFn f x1).boot = s.boot := rfl

@[simp] theorem State.setHostFn_keystone (s : State) (f : ℕ) (x1 : HostFn) :
    (s.setHostFn f x1).keystone = s.keystone := rfl

@[simp] theorem State.setHostFn_activation (s : State) (f : ℕ) (x1 : HostFn) :
    (s.setHostFn f x1).activation = s.activation := rfl

@[simp] theorem State.setHostFn_service (s : State) (f : ℕ) (x1 : HostFn) :
    (s.setHostFn f x1).service = s.service := rfl

@[simp] theorem State.setHostFn_monitor (s : State) (f : ℕ) (x1 : HostFn) :
    (s.setHostFn f x1).monitor = s.monitor := rfl

@[simp] theorem State.setHostFn_package (s : State) (f : ℕ) (x1 : HostFn) :
    (s.setHostFn f x1).package = s.package := rfl

@[simp] theorem State.setHostFn_outputs (s : State) (f : ℕ) (x1 : HostFn) :
    (s.setHostFn f x1).outputs = s.outputs := rfl

@[simp] theorem State.setHostFn_freeCtr (s : State) (f : ℕ) (x1 : HostFn) :
    (s.setHostFn f x1).freeCtr = s.freeCtr := rfl

@[simp] theorem State.setHostFn_pending (s : State) (f : ℕ) (x1 : HostFn) :
    (s.setHostFn f x1).pending = s.pending := rfl

/-! ### State.setQp: only `host` -/

@[simp] theorem State.setQp_dict (s : State) (k : ℕ) (x1 : QueuePair) :
    (s.setQp k x1).dict = s.dict := rfl

@[simp] theorem State.setQp_doms (s : State) (k : ℕ) (x1 : QueuePair) :
    (s.setQp k x1).doms = s.doms := rfl

@[simp] theorem State.setQp_store (s : State) (k : ℕ) (x1 : QueuePair) :
    (s.setQp k x1).store = s.store := rfl

@[simp] theorem State.setQp_storeDoms (s : State) (k : ℕ) (x1 : QueuePair) :
    (s.setQp k x1).storeDoms = s.storeDoms := rfl

@[simp] theorem State.setQp_storeSets (s : State) (k : ℕ) (x1 : QueuePair) :
    (s.setQp k x1).storeSets = s.storeSets := rfl

@[simp] theorem State.setQp_snapshot (s : State) (k : ℕ) (x1 : QueuePair) :
    (s.setQp k x1).snapshot = s.snapshot := rfl

@[simp] theorem State.setQp_snapshotDoms (s : State) (k : ℕ) (x1 : QueuePair) :
    (s.setQp k x1).snapshotDoms = s.snapshotDoms := rfl

@[simp] theorem State.setQp_timers (s : State) (k : ℕ) (x1 : QueuePair) :
    (s.setQp k x1).timers = s.timers := rfl

@[simp] theorem State.setQp_clock (s : State) (k : ℕ) (x1 : QueuePair) :
    (s.setQp k x1).clock = s.clock := rfl

@[simp] theorem State.setQp_servo (s : State) (k : ℕ) (x1 : QueuePair) :
    (s.setQp k x1).servo = s.servo := rfl

@[simp] theorem State.setQp_detectors (s : State) (k : ℕ) (x1 : QueuePair) :
    (s.setQp k x1).detectors = s.detectors := rfl

@[simp] theorem State.setQp_synce (s : State) (k : ℕ) (x1 : QueuePair) :
    (s.setQp k x1).synce = s.synce := rfl

@[simp] theorem State.setQp_ptp (s : State) (k : ℕ) (x1 : QueuePair) :
    (s.setQp k x1).ptp = s.ptp := rfl

@[simp] theorem State.setQp_pins (s : State) (k : ℕ) (x1 : QueuePair) :
    (s.setQp k x1).pins = s.pins := rfl

@[simp] theorem State.setQp_agent (s : State) (k : ℕ) (x1 : QueuePair) :
    (s.setQp k x1).agent = s.agent := rfl

@[simp] theorem State.setQp_log (s : State) (k : ℕ) (x1 : QueuePair) :
    (s.setQp k x1).log = s.log := rfl

@[simp] theorem State.setQp_mgmt (s : State) (k : ℕ) (x1 : QueuePair) :
    (s.setQp k x1).mgmt = s.mgmt := rfl

@[simp] theorem State.setQp_mortar (s : State) (k : ℕ) (x1 : QueuePair) :
    (s.setQp k x1).mortar = s.mortar := rfl

@[simp] theorem State.setQp_memory (s : State) (k : ℕ) (x1 : QueuePair) :
    (s.setQp k x1).memory = s.memory := rfl

@[simp] theorem State.setQp_ports (s : State) (k : ℕ) (x1 : QueuePair) :
    (s.setQp k x1).ports = s.ports := rfl

@[simp] theorem State.setQp_switch (s : State) (k : ℕ) (x1 : QueuePair) :
    (s.setQp k x1).switch = s.switch := rfl

@[simp] theorem State.setQp_modeChange (s : State) (k : ℕ) (x1 : QueuePair) :
    (s.setQp k x1).modeChange = s.modeChange := rfl

@[simp] theorem State.setQp_fwd (s : State) (k : ℕ) (x1 : QueuePair) :
    (s.setQp k x1).fwd = s.fwd := rfl

@[simp] theorem State.setQp_wall (s : State) (k : ℕ) (x1 : QueuePair) :
    (s.setQp k x1).wall = s.wall := rfl

@[simp] theorem State.setQp_redundancy (s : State) (k : ℕ) (x1 : QueuePair) :
    (s.setQp k x1).redundancy = s.redundancy := rfl

@[simp] theorem State.setQp_classify (s : State) (k : ℕ) (x1 : QueuePair) :
    (s.setQp k x1).classify = s.classify := rfl

@[simp] theorem State.setQp_trowel (s : State) (k : ℕ) (x1 : QueuePair) :
    (s.setQp k x1).trowel = s.trowel := rfl

@[simp] theorem State.setQp_cipher (s : State) (k : ℕ) (x1 : QueuePair) :
    (s.setQp k x1).cipher = s.cipher := rfl

@[simp] theorem State.setQp_hod (s : State) (k : ℕ) (x1 : QueuePair) :
    (s.setQp k x1).hod = s.hod := rfl

@[simp] theorem State.setQp_slices (s : State) (k : ℕ) (x1 : QueuePair) :
    (s.setQp k x1).slices = s.slices := rfl

@[simp] theorem State.setQp_storage (s : State) (k : ℕ) (x1 : QueuePair) :
    (s.setQp k x1).storage = s.storage := rfl

@[simp] theorem State.setQp_rdma (s : State) (k : ℕ) (x1 : QueuePair) :
    (s.setQp k x1).rdma = s.rdma := rfl

@[simp] theorem State.setQp_boot (s : State) (k : ℕ) (x1 : QueuePair) :
    (s.setQp k x1).boot = s.boot := rfl

@[simp] theorem State.setQp_keystone (s : State) (k : ℕ) (x1 : QueuePair) :
    (s.setQp k x1).keystone = s.keystone := rfl

@[simp] theorem State.setQp_activation (s : State) (k : ℕ) (x1 : QueuePair) :
    (s.setQp k x1).activation = s.activation := rfl

@[simp] theorem State.setQp_service (s : State) (k : ℕ) (x1 : QueuePair) :
    (s.setQp k x1).service = s.service := rfl

@[simp] theorem State.setQp_monitor (s : State) (k : ℕ) (x1 : QueuePair) :
    (s.setQp k x1).monitor = s.monitor := rfl

@[simp] theorem State.setQp_package (s : State) (k : ℕ) (x1 : QueuePair) :
    (s.setQp k x1).package = s.package := rfl

@[simp] theorem State.setQp_outputs (s : State) (k : ℕ) (x1 : QueuePair) :
    (s.setQp k x1).outputs = s.outputs := rfl

@[simp] theorem State.setQp_freeCtr (s : State) (k : ℕ) (x1 : QueuePair) :
    (s.setQp k x1).freeCtr = s.freeCtr := rfl

@[simp] theorem State.setQp_pending (s : State) (k : ℕ) (x1 : QueuePair) :
    (s.setQp k x1).pending = s.pending := rfl

/-! ### State.setBlock: only `slices` -/

@[simp] theorem State.setBlock_dict (s : State) (f : ℕ) (slice : ℕ) (x1 : SliceBlock) :
    (s.setBlock f slice x1).dict = s.dict := rfl

@[simp] theorem State.setBlock_doms (s : State) (f : ℕ) (slice : ℕ) (x1 : SliceBlock) :
    (s.setBlock f slice x1).doms = s.doms := rfl

@[simp] theorem State.setBlock_store (s : State) (f : ℕ) (slice : ℕ) (x1 : SliceBlock) :
    (s.setBlock f slice x1).store = s.store := rfl

@[simp] theorem State.setBlock_storeDoms (s : State) (f : ℕ) (slice : ℕ) (x1 : SliceBlock) :
    (s.setBlock f slice x1).storeDoms = s.storeDoms := rfl

@[simp] theorem State.setBlock_storeSets (s : State) (f : ℕ) (slice : ℕ) (x1 : SliceBlock) :
    (s.setBlock f slice x1).storeSets = s.storeSets := rfl

@[simp] theorem State.setBlock_snapshot (s : State) (f : ℕ) (slice : ℕ) (x1 : SliceBlock) :
    (s.setBlock f slice x1).snapshot = s.snapshot := rfl

@[simp] theorem State.setBlock_snapshotDoms (s : State) (f : ℕ) (slice : ℕ) (x1 : SliceBlock) :
    (s.setBlock f slice x1).snapshotDoms = s.snapshotDoms := rfl

@[simp] theorem State.setBlock_timers (s : State) (f : ℕ) (slice : ℕ) (x1 : SliceBlock) :
    (s.setBlock f slice x1).timers = s.timers := rfl

@[simp] theorem State.setBlock_clock (s : State) (f : ℕ) (slice : ℕ) (x1 : SliceBlock) :
    (s.setBlock f slice x1).clock = s.clock := rfl

@[simp] theorem State.setBlock_servo (s : State) (f : ℕ) (slice : ℕ) (x1 : SliceBlock) :
    (s.setBlock f slice x1).servo = s.servo := rfl

@[simp] theorem State.setBlock_detectors (s : State) (f : ℕ) (slice : ℕ) (x1 : SliceBlock) :
    (s.setBlock f slice x1).detectors = s.detectors := rfl

@[simp] theorem State.setBlock_synce (s : State) (f : ℕ) (slice : ℕ) (x1 : SliceBlock) :
    (s.setBlock f slice x1).synce = s.synce := rfl

@[simp] theorem State.setBlock_ptp (s : State) (f : ℕ) (slice : ℕ) (x1 : SliceBlock) :
    (s.setBlock f slice x1).ptp = s.ptp := rfl

@[simp] theorem State.setBlock_pins (s : State) (f : ℕ) (slice : ℕ) (x1 : SliceBlock) :
    (s.setBlock f slice x1).pins = s.pins := rfl

@[simp] theorem State.setBlock_agent (s : State) (f : ℕ) (slice : ℕ) (x1 : SliceBlock) :
    (s.setBlock f slice x1).agent = s.agent := rfl

@[simp] theorem State.setBlock_log (s : State) (f : ℕ) (slice : ℕ) (x1 : SliceBlock) :
    (s.setBlock f slice x1).log = s.log := rfl

@[simp] theorem State.setBlock_mgmt (s : State) (f : ℕ) (slice : ℕ) (x1 : SliceBlock) :
    (s.setBlock f slice x1).mgmt = s.mgmt := rfl

@[simp] theorem State.setBlock_mortar (s : State) (f : ℕ) (slice : ℕ) (x1 : SliceBlock) :
    (s.setBlock f slice x1).mortar = s.mortar := rfl

@[simp] theorem State.setBlock_memory (s : State) (f : ℕ) (slice : ℕ) (x1 : SliceBlock) :
    (s.setBlock f slice x1).memory = s.memory := rfl

@[simp] theorem State.setBlock_ports (s : State) (f : ℕ) (slice : ℕ) (x1 : SliceBlock) :
    (s.setBlock f slice x1).ports = s.ports := rfl

@[simp] theorem State.setBlock_switch (s : State) (f : ℕ) (slice : ℕ) (x1 : SliceBlock) :
    (s.setBlock f slice x1).switch = s.switch := rfl

@[simp] theorem State.setBlock_modeChange (s : State) (f : ℕ) (slice : ℕ) (x1 : SliceBlock) :
    (s.setBlock f slice x1).modeChange = s.modeChange := rfl

@[simp] theorem State.setBlock_fwd (s : State) (f : ℕ) (slice : ℕ) (x1 : SliceBlock) :
    (s.setBlock f slice x1).fwd = s.fwd := rfl

@[simp] theorem State.setBlock_wall (s : State) (f : ℕ) (slice : ℕ) (x1 : SliceBlock) :
    (s.setBlock f slice x1).wall = s.wall := rfl

@[simp] theorem State.setBlock_redundancy (s : State) (f : ℕ) (slice : ℕ) (x1 : SliceBlock) :
    (s.setBlock f slice x1).redundancy = s.redundancy := rfl

@[simp] theorem State.setBlock_classify (s : State) (f : ℕ) (slice : ℕ) (x1 : SliceBlock) :
    (s.setBlock f slice x1).classify = s.classify := rfl

@[simp] theorem State.setBlock_trowel (s : State) (f : ℕ) (slice : ℕ) (x1 : SliceBlock) :
    (s.setBlock f slice x1).trowel = s.trowel := rfl

@[simp] theorem State.setBlock_cipher (s : State) (f : ℕ) (slice : ℕ) (x1 : SliceBlock) :
    (s.setBlock f slice x1).cipher = s.cipher := rfl

@[simp] theorem State.setBlock_hod (s : State) (f : ℕ) (slice : ℕ) (x1 : SliceBlock) :
    (s.setBlock f slice x1).hod = s.hod := rfl

@[simp] theorem State.setBlock_host (s : State) (f : ℕ) (slice : ℕ) (x1 : SliceBlock) :
    (s.setBlock f slice x1).host = s.host := rfl

@[simp] theorem State.setBlock_storage (s : State) (f : ℕ) (slice : ℕ) (x1 : SliceBlock) :
    (s.setBlock f slice x1).storage = s.storage := rfl

@[simp] theorem State.setBlock_rdma (s : State) (f : ℕ) (slice : ℕ) (x1 : SliceBlock) :
    (s.setBlock f slice x1).rdma = s.rdma := rfl

@[simp] theorem State.setBlock_boot (s : State) (f : ℕ) (slice : ℕ) (x1 : SliceBlock) :
    (s.setBlock f slice x1).boot = s.boot := rfl

@[simp] theorem State.setBlock_keystone (s : State) (f : ℕ) (slice : ℕ) (x1 : SliceBlock) :
    (s.setBlock f slice x1).keystone = s.keystone := rfl

@[simp] theorem State.setBlock_activation (s : State) (f : ℕ) (slice : ℕ) (x1 : SliceBlock) :
    (s.setBlock f slice x1).activation = s.activation := rfl

@[simp] theorem State.setBlock_service (s : State) (f : ℕ) (slice : ℕ) (x1 : SliceBlock) :
    (s.setBlock f slice x1).service = s.service := rfl

@[simp] theorem State.setBlock_monitor (s : State) (f : ℕ) (slice : ℕ) (x1 : SliceBlock) :
    (s.setBlock f slice x1).monitor = s.monitor := rfl

@[simp] theorem State.setBlock_package (s : State) (f : ℕ) (slice : ℕ) (x1 : SliceBlock) :
    (s.setBlock f slice x1).package = s.package := rfl

@[simp] theorem State.setBlock_outputs (s : State) (f : ℕ) (slice : ℕ) (x1 : SliceBlock) :
    (s.setBlock f slice x1).outputs = s.outputs := rfl

@[simp] theorem State.setBlock_freeCtr (s : State) (f : ℕ) (slice : ℕ) (x1 : SliceBlock) :
    (s.setBlock f slice x1).freeCtr = s.freeCtr := rfl

@[simp] theorem State.setBlock_pending (s : State) (f : ℕ) (slice : ℕ) (x1 : SliceBlock) :
    (s.setBlock f slice x1).pending = s.pending := rfl

/-! ### State.bumpSlice: only `slices` -/

@[simp] theorem State.bumpSlice_dict (s : State) (slice : ℕ) (i : ℕ) :
    (s.bumpSlice slice i).dict = s.dict := rfl

@[simp] theorem State.bumpSlice_doms (s : State) (slice : ℕ) (i : ℕ) :
    (s.bumpSlice slice i).doms = s.doms := rfl

@[simp] theorem State.bumpSlice_store (s : State) (slice : ℕ) (i : ℕ) :
    (s.bumpSlice slice i).store = s.store := rfl

@[simp] theorem State.bumpSlice_storeDoms (s : State) (slice : ℕ) (i : ℕ) :
    (s.bumpSlice slice i).storeDoms = s.storeDoms := rfl

@[simp] theorem State.bumpSlice_storeSets (s : State) (slice : ℕ) (i : ℕ) :
    (s.bumpSlice slice i).storeSets = s.storeSets := rfl

@[simp] theorem State.bumpSlice_snapshot (s : State) (slice : ℕ) (i : ℕ) :
    (s.bumpSlice slice i).snapshot = s.snapshot := rfl

@[simp] theorem State.bumpSlice_snapshotDoms (s : State) (slice : ℕ) (i : ℕ) :
    (s.bumpSlice slice i).snapshotDoms = s.snapshotDoms := rfl

@[simp] theorem State.bumpSlice_timers (s : State) (slice : ℕ) (i : ℕ) :
    (s.bumpSlice slice i).timers = s.timers := rfl

@[simp] theorem State.bumpSlice_clock (s : State) (slice : ℕ) (i : ℕ) :
    (s.bumpSlice slice i).clock = s.clock := rfl

@[simp] theorem State.bumpSlice_servo (s : State) (slice : ℕ) (i : ℕ) :
    (s.bumpSlice slice i).servo = s.servo := rfl

@[simp] theorem State.bumpSlice_detectors (s : State) (slice : ℕ) (i : ℕ) :
    (s.bumpSlice slice i).detectors = s.detectors := rfl

@[simp] theorem State.bumpSlice_synce (s : State) (slice : ℕ) (i : ℕ) :
    (s.bumpSlice slice i).synce = s.synce := rfl

@[simp] theorem State.bumpSlice_ptp (s : State) (slice : ℕ) (i : ℕ) :
    (s.bumpSlice slice i).ptp = s.ptp := rfl

@[simp] theorem State.bumpSlice_pins (s : State) (slice : ℕ) (i : ℕ) :
    (s.bumpSlice slice i).pins = s.pins := rfl

@[simp] theorem State.bumpSlice_agent (s : State) (slice : ℕ) (i : ℕ) :
    (s.bumpSlice slice i).agent = s.agent := rfl

@[simp] theorem State.bumpSlice_log (s : State) (slice : ℕ) (i : ℕ) :
    (s.bumpSlice slice i).log = s.log := rfl

@[simp] theorem State.bumpSlice_mgmt (s : State) (slice : ℕ) (i : ℕ) :
    (s.bumpSlice slice i).mgmt = s.mgmt := rfl

@[simp] theorem State.bumpSlice_mortar (s : State) (slice : ℕ) (i : ℕ) :
    (s.bumpSlice slice i).mortar = s.mortar := rfl

@[simp] theorem State.bumpSlice_memory (s : State) (slice : ℕ) (i : ℕ) :
    (s.bumpSlice slice i).memory = s.memory := rfl

@[simp] theorem State.bumpSlice_ports (s : State) (slice : ℕ) (i : ℕ) :
    (s.bumpSlice slice i).ports = s.ports := rfl

@[simp] theorem State.bumpSlice_switch (s : State) (slice : ℕ) (i : ℕ) :
    (s.bumpSlice slice i).switch = s.switch := rfl

@[simp] theorem State.bumpSlice_modeChange (s : State) (slice : ℕ) (i : ℕ) :
    (s.bumpSlice slice i).modeChange = s.modeChange := rfl

@[simp] theorem State.bumpSlice_fwd (s : State) (slice : ℕ) (i : ℕ) :
    (s.bumpSlice slice i).fwd = s.fwd := rfl

@[simp] theorem State.bumpSlice_wall (s : State) (slice : ℕ) (i : ℕ) :
    (s.bumpSlice slice i).wall = s.wall := rfl

@[simp] theorem State.bumpSlice_redundancy (s : State) (slice : ℕ) (i : ℕ) :
    (s.bumpSlice slice i).redundancy = s.redundancy := rfl

@[simp] theorem State.bumpSlice_classify (s : State) (slice : ℕ) (i : ℕ) :
    (s.bumpSlice slice i).classify = s.classify := rfl

@[simp] theorem State.bumpSlice_trowel (s : State) (slice : ℕ) (i : ℕ) :
    (s.bumpSlice slice i).trowel = s.trowel := rfl

@[simp] theorem State.bumpSlice_cipher (s : State) (slice : ℕ) (i : ℕ) :
    (s.bumpSlice slice i).cipher = s.cipher := rfl

@[simp] theorem State.bumpSlice_hod (s : State) (slice : ℕ) (i : ℕ) :
    (s.bumpSlice slice i).hod = s.hod := rfl

@[simp] theorem State.bumpSlice_host (s : State) (slice : ℕ) (i : ℕ) :
    (s.bumpSlice slice i).host = s.host := rfl

@[simp] theorem State.bumpSlice_storage (s : State) (slice : ℕ) (i : ℕ) :
    (s.bumpSlice slice i).storage = s.storage := rfl

@[simp] theorem State.bumpSlice_rdma (s : State) (slice : ℕ) (i : ℕ) :
    (s.bumpSlice slice i).rdma = s.rdma := rfl

@[simp] theorem State.bumpSlice_boot (s : State) (slice : ℕ) (i : ℕ) :
    (s.bumpSlice slice i).boot = s.boot := rfl

@[simp] theorem State.bumpSlice_keystone (s : State) (slice : ℕ) (i : ℕ) :
    (s.bumpSlice slice i).keystone = s.keystone := rfl

@[simp] theorem State.bumpSlice_activation (s : State) (slice : ℕ) (i : ℕ) :
    (s.bumpSlice slice i).activation = s.activation := rfl

@[simp] theorem State.bumpSlice_service (s : State) (slice : ℕ) (i : ℕ) :
    (s.bumpSlice slice i).service = s.service := rfl

@[simp] theorem State.bumpSlice_monitor (s : State) (slice : ℕ) (i : ℕ) :
    (s.bumpSlice slice i).monitor = s.monitor := rfl

@[simp] theorem State.bumpSlice_package (s : State) (slice : ℕ) (i : ℕ) :
    (s.bumpSlice slice i).package = s.package := rfl

@[simp] theorem State.bumpSlice_outputs (s : State) (slice : ℕ) (i : ℕ) :
    (s.bumpSlice slice i).outputs = s.outputs := rfl

@[simp] theorem State.bumpSlice_freeCtr (s : State) (slice : ℕ) (i : ℕ) :
    (s.bumpSlice slice i).freeCtr = s.freeCtr := rfl

@[simp] theorem State.bumpSlice_pending (s : State) (slice : ℕ) (i : ℕ) :
    (s.bumpSlice slice i).pending = s.pending := rfl

/-! ### State.opStart: only `slices` -/

@[simp] theorem State.opStart_dict (s : State) (slice : ℕ) :
    (s.opStart slice).dict = s.dict := rfl

@[simp] theorem State.opStart_doms (s : State) (slice : ℕ) :
    (s.opStart slice).doms = s.doms := rfl

@[simp] theorem State.opStart_store (s : State) (slice : ℕ) :
    (s.opStart slice).store = s.store := rfl

@[simp] theorem State.opStart_storeDoms (s : State) (slice : ℕ) :
    (s.opStart slice).storeDoms = s.storeDoms := rfl

@[simp] theorem State.opStart_storeSets (s : State) (slice : ℕ) :
    (s.opStart slice).storeSets = s.storeSets := rfl

@[simp] theorem State.opStart_snapshot (s : State) (slice : ℕ) :
    (s.opStart slice).snapshot = s.snapshot := rfl

@[simp] theorem State.opStart_snapshotDoms (s : State) (slice : ℕ) :
    (s.opStart slice).snapshotDoms = s.snapshotDoms := rfl

@[simp] theorem State.opStart_timers (s : State) (slice : ℕ) :
    (s.opStart slice).timers = s.timers := rfl

@[simp] theorem State.opStart_clock (s : State) (slice : ℕ) :
    (s.opStart slice).clock = s.clock := rfl

@[simp] theorem State.opStart_servo (s : State) (slice : ℕ) :
    (s.opStart slice).servo = s.servo := rfl

@[simp] theorem State.opStart_detectors (s : State) (slice : ℕ) :
    (s.opStart slice).detectors = s.detectors := rfl

@[simp] theorem State.opStart_synce (s : State) (slice : ℕ) :
    (s.opStart slice).synce = s.synce := rfl

@[simp] theorem State.opStart_ptp (s : State) (slice : ℕ) :
    (s.opStart slice).ptp = s.ptp := rfl

@[simp] theorem State.opStart_pins (s : State) (slice : ℕ) :
    (s.opStart slice).pins = s.pins := rfl

@[simp] theorem State.opStart_agent (s : State) (slice : ℕ) :
    (s.opStart slice).agent = s.agent := rfl

@[simp] theorem State.opStart_log (s : State) (slice : ℕ) :
    (s.opStart slice).log = s.log := rfl

@[simp] theorem State.opStart_mgmt (s : State) (slice : ℕ) :
    (s.opStart slice).mgmt = s.mgmt := rfl

@[simp] theorem State.opStart_mortar (s : State) (slice : ℕ) :
    (s.opStart slice).mortar = s.mortar := rfl

@[simp] theorem State.opStart_memory (s : State) (slice : ℕ) :
    (s.opStart slice).memory = s.memory := rfl

@[simp] theorem State.opStart_ports (s : State) (slice : ℕ) :
    (s.opStart slice).ports = s.ports := rfl

@[simp] theorem State.opStart_switch (s : State) (slice : ℕ) :
    (s.opStart slice).switch = s.switch := rfl

@[simp] theorem State.opStart_modeChange (s : State) (slice : ℕ) :
    (s.opStart slice).modeChange = s.modeChange := rfl

@[simp] theorem State.opStart_fwd (s : State) (slice : ℕ) :
    (s.opStart slice).fwd = s.fwd := rfl

@[simp] theorem State.opStart_wall (s : State) (slice : ℕ) :
    (s.opStart slice).wall = s.wall := rfl

@[simp] theorem State.opStart_redundancy (s : State) (slice : ℕ) :
    (s.opStart slice).redundancy = s.redundancy := rfl

@[simp] theorem State.opStart_classify (s : State) (slice : ℕ) :
    (s.opStart slice).classify = s.classify := rfl

@[simp] theorem State.opStart_trowel (s : State) (slice : ℕ) :
    (s.opStart slice).trowel = s.trowel := rfl

@[simp] theorem State.opStart_cipher (s : State) (slice : ℕ) :
    (s.opStart slice).cipher = s.cipher := rfl

@[simp] theorem State.opStart_hod (s : State) (slice : ℕ) :
    (s.opStart slice).hod = s.hod := rfl

@[simp] theorem State.opStart_host (s : State) (slice : ℕ) :
    (s.opStart slice).host = s.host := rfl

@[simp] theorem State.opStart_storage (s : State) (slice : ℕ) :
    (s.opStart slice).storage = s.storage := rfl

@[simp] theorem State.opStart_rdma (s : State) (slice : ℕ) :
    (s.opStart slice).rdma = s.rdma := rfl

@[simp] theorem State.opStart_boot (s : State) (slice : ℕ) :
    (s.opStart slice).boot = s.boot := rfl

@[simp] theorem State.opStart_keystone (s : State) (slice : ℕ) :
    (s.opStart slice).keystone = s.keystone := rfl

@[simp] theorem State.opStart_activation (s : State) (slice : ℕ) :
    (s.opStart slice).activation = s.activation := rfl

@[simp] theorem State.opStart_service (s : State) (slice : ℕ) :
    (s.opStart slice).service = s.service := rfl

@[simp] theorem State.opStart_monitor (s : State) (slice : ℕ) :
    (s.opStart slice).monitor = s.monitor := rfl

@[simp] theorem State.opStart_package (s : State) (slice : ℕ) :
    (s.opStart slice).package = s.package := rfl

@[simp] theorem State.opStart_outputs (s : State) (slice : ℕ) :
    (s.opStart slice).outputs = s.outputs := rfl

@[simp] theorem State.opStart_freeCtr (s : State) (slice : ℕ) :
    (s.opStart slice).freeCtr = s.freeCtr := rfl

@[simp] theorem State.opStart_pending (s : State) (slice : ℕ) :
    (s.opStart slice).pending = s.pending := rfl

/-! ### State.opEnd: only `slices` -/

@[simp] theorem State.opEnd_dict (s : State) (slice : ℕ) :
    (s.opEnd slice).dict = s.dict := rfl

@[simp] theorem State.opEnd_doms (s : State) (slice : ℕ) :
    (s.opEnd slice).doms = s.doms := rfl

@[simp] theorem State.opEnd_store (s : State) (slice : ℕ) :
    (s.opEnd slice).store = s.store := rfl

@[simp] theorem State.opEnd_storeDoms (s : State) (slice : ℕ) :
    (s.opEnd slice).storeDoms = s.storeDoms := rfl

@[simp] theorem State.opEnd_storeSets (s : State) (slice : ℕ) :
    (s.opEnd slice).storeSets = s.storeSets := rfl

@[simp] theorem State.opEnd_snapshot (s : State) (slice : ℕ) :
    (s.opEnd slice).snapshot = s.snapshot := rfl

@[simp] theorem State.opEnd_snapshotDoms (s : State) (slice : ℕ) :
    (s.opEnd slice).snapshotDoms = s.snapshotDoms := rfl

@[simp] theorem State.opEnd_timers (s : State) (slice : ℕ) :
    (s.opEnd slice).timers = s.timers := rfl

@[simp] theorem State.opEnd_clock (s : State) (slice : ℕ) :
    (s.opEnd slice).clock = s.clock := rfl

@[simp] theorem State.opEnd_servo (s : State) (slice : ℕ) :
    (s.opEnd slice).servo = s.servo := rfl

@[simp] theorem State.opEnd_detectors (s : State) (slice : ℕ) :
    (s.opEnd slice).detectors = s.detectors := rfl

@[simp] theorem State.opEnd_synce (s : State) (slice : ℕ) :
    (s.opEnd slice).synce = s.synce := rfl

@[simp] theorem State.opEnd_ptp (s : State) (slice : ℕ) :
    (s.opEnd slice).ptp = s.ptp := rfl

@[simp] theorem State.opEnd_pins (s : State) (slice : ℕ) :
    (s.opEnd slice).pins = s.pins := rfl

@[simp] theorem State.opEnd_agent (s : State) (slice : ℕ) :
    (s.opEnd slice).agent = s.agent := rfl

@[simp] theorem State.opEnd_log (s : State) (slice : ℕ) :
    (s.opEnd slice).log = s.log := rfl

@[simp] theorem State.opEnd_mgmt (s : State) (slice : ℕ) :
    (s.opEnd slice).mgmt = s.mgmt := rfl

@[simp] theorem State.opEnd_mortar (s : State) (slice : ℕ) :
    (s.opEnd slice).mortar = s.mortar := rfl

@[simp] theorem State.opEnd_memory (s : State) (slice : ℕ) :
    (s.opEnd slice).memory = s.memory := rfl

@[simp] theorem State.opEnd_ports (s : State) (slice : ℕ) :
    (s.opEnd slice).ports = s.ports := rfl

@[simp] theorem State.opEnd_switch (s : State) (slice : ℕ) :
    (s.opEnd slice).switch = s.switch := rfl

@[simp] theorem State.opEnd_modeChange (s : State) (slice : ℕ) :
    (s.opEnd slice).modeChange = s.modeChange := rfl

@[simp] theorem State.opEnd_fwd (s : State) (slice : ℕ) :
    (s.opEnd slice).fwd = s.fwd := rfl

@[simp] theorem State.opEnd_wall (s : State) (slice : ℕ) :
    (s.opEnd slice).wall = s.wall := rfl

@[simp] theorem State.opEnd_redundancy (s : State) (slice : ℕ) :
    (s.opEnd slice).redundancy = s.redundancy := rfl

@[simp] theorem State.opEnd_classify (s : State) (slice : ℕ) :
    (s.opEnd slice).classify = s.classify := rfl

@[simp] theorem State.opEnd_trowel (s : State) (slice : ℕ) :
    (s.opEnd slice).trowel = s.trowel := rfl

@[simp] theorem State.opEnd_cipher (s : State) (slice : ℕ) :
    (s.opEnd slice).cipher = s.cipher := rfl

@[simp] theorem State.opEnd_hod (s : State) (slice : ℕ) :
    (s.opEnd slice).hod = s.hod := rfl

@[simp] theorem State.opEnd_host (s : State) (slice : ℕ) :
    (s.opEnd slice).host = s.host := rfl

@[simp] theorem State.opEnd_storage (s : State) (slice : ℕ) :
    (s.opEnd slice).storage = s.storage := rfl

@[simp] theorem State.opEnd_rdma (s : State) (slice : ℕ) :
    (s.opEnd slice).rdma = s.rdma := rfl

@[simp] theorem State.opEnd_boot (s : State) (slice : ℕ) :
    (s.opEnd slice).boot = s.boot := rfl

@[simp] theorem State.opEnd_keystone (s : State) (slice : ℕ) :
    (s.opEnd slice).keystone = s.keystone := rfl

@[simp] theorem State.opEnd_activation (s : State) (slice : ℕ) :
    (s.opEnd slice).activation = s.activation := rfl

@[simp] theorem State.opEnd_service (s : State) (slice : ℕ) :
    (s.opEnd slice).service = s.service := rfl

@[simp] theorem State.opEnd_monitor (s : State) (slice : ℕ) :
    (s.opEnd slice).monitor = s.monitor := rfl

@[simp] theorem State.opEnd_package (s : State) (slice : ℕ) :
    (s.opEnd slice).package = s.package := rfl

@[simp] theorem State.opEnd_outputs (s : State) (slice : ℕ) :
    (s.opEnd slice).outputs = s.outputs := rfl

@[simp] theorem State.opEnd_freeCtr (s : State) (slice : ℕ) :
    (s.opEnd slice).freeCtr = s.freeCtr := rfl

@[simp] theorem State.opEnd_pending (s : State) (slice : ℕ) :
    (s.opEnd slice).pending = s.pending := rfl

/-! ### State.setRing: only `host` -/

@[simp] theorem State.setRing_dict (s : State) (link : ℕ) (x1 : EventRing) :
    (s.setRing link x1).dict = s.dict := rfl

@[simp] theorem State.setRing_doms (s : State) (link : ℕ) (x1 : EventRing) :
    (s.setRing link x1).doms = s.doms := rfl

@[simp] theorem State.setRing_store (s : State) (link : ℕ) (x1 : EventRing) :
    (s.setRing link x1).store = s.store := rfl

@[simp] theorem State.setRing_storeDoms (s : State) (link : ℕ) (x1 : EventRing) :
    (s.setRing link x1).storeDoms = s.storeDoms := rfl

@[simp] theorem State.setRing_storeSets (s : State) (link : ℕ) (x1 : EventRing) :
    (s.setRing link x1).storeSets = s.storeSets := rfl

@[simp] theorem State.setRing_snapshot (s : State) (link : ℕ) (x1 : EventRing) :
    (s.setRing link x1).snapshot = s.snapshot := rfl

@[simp] theorem State.setRing_snapshotDoms (s : State) (link : ℕ) (x1 : EventRing) :
    (s.setRing link x1).snapshotDoms = s.snapshotDoms := rfl

@[simp] theorem State.setRing_timers (s : State) (link : ℕ) (x1 : EventRing) :
    (s.setRing link x1).timers = s.timers := rfl

@[simp] theorem State.setRing_clock (s : State) (link : ℕ) (x1 : EventRing) :
    (s.setRing link x1).clock = s.clock := rfl

@[simp] theorem State.setRing_servo (s : State) (link : ℕ) (x1 : EventRing) :
    (s.setRing link x1).servo = s.servo := rfl

@[simp] theorem State.setRing_detectors (s : State) (link : ℕ) (x1 : EventRing) :
    (s.setRing link x1).detectors = s.detectors := rfl

@[simp] theorem State.setRing_synce (s : State) (link : ℕ) (x1 : EventRing) :
    (s.setRing link x1).synce = s.synce := rfl

@[simp] theorem State.setRing_ptp (s : State) (link : ℕ) (x1 : EventRing) :
    (s.setRing link x1).ptp = s.ptp := rfl

@[simp] theorem State.setRing_pins (s : State) (link : ℕ) (x1 : EventRing) :
    (s.setRing link x1).pins = s.pins := rfl

@[simp] theorem State.setRing_agent (s : State) (link : ℕ) (x1 : EventRing) :
    (s.setRing link x1).agent = s.agent := rfl

@[simp] theorem State.setRing_log (s : State) (link : ℕ) (x1 : EventRing) :
    (s.setRing link x1).log = s.log := rfl

@[simp] theorem State.setRing_mgmt (s : State) (link : ℕ) (x1 : EventRing) :
    (s.setRing link x1).mgmt = s.mgmt := rfl

@[simp] theorem State.setRing_mortar (s : State) (link : ℕ) (x1 : EventRing) :
    (s.setRing link x1).mortar = s.mortar := rfl

@[simp] theorem State.setRing_memory (s : State) (link : ℕ) (x1 : EventRing) :
    (s.setRing link x1).memory = s.memory := rfl

@[simp] theorem State.setRing_ports (s : State) (link : ℕ) (x1 : EventRing) :
    (s.setRing link x1).ports = s.ports := rfl

@[simp] theorem State.setRing_switch (s : State) (link : ℕ) (x1 : EventRing) :
    (s.setRing link x1).switch = s.switch := rfl

@[simp] theorem State.setRing_modeChange (s : State) (link : ℕ) (x1 : EventRing) :
    (s.setRing link x1).modeChange = s.modeChange := rfl

@[simp] theorem State.setRing_fwd (s : State) (link : ℕ) (x1 : EventRing) :
    (s.setRing link x1).fwd = s.fwd := rfl

@[simp] theorem State.setRing_wall (s : State) (link : ℕ) (x1 : EventRing) :
    (s.setRing link x1).wall = s.wall := rfl

@[simp] theorem State.setRing_redundancy (s : State) (link : ℕ) (x1 : EventRing) :
    (s.setRing link x1).redundancy = s.redundancy := rfl

@[simp] theorem State.setRing_classify (s : State) (link : ℕ) (x1 : EventRing) :
    (s.setRing link x1).classify = s.classify := rfl

@[simp] theorem State.setRing_trowel (s : State) (link : ℕ) (x1 : EventRing) :
    (s.setRing link x1).trowel = s.trowel := rfl

@[simp] theorem State.setRing_cipher (s : State) (link : ℕ) (x1 : EventRing) :
    (s.setRing link x1).cipher = s.cipher := rfl

@[simp] theorem State.setRing_hod (s : State) (link : ℕ) (x1 : EventRing) :
    (s.setRing link x1).hod = s.hod := rfl

@[simp] theorem State.setRing_slices (s : State) (link : ℕ) (x1 : EventRing) :
    (s.setRing link x1).slices = s.slices := rfl

@[simp] theorem State.setRing_storage (s : State) (link : ℕ) (x1 : EventRing) :
    (s.setRing link x1).storage = s.storage := rfl

@[simp] theorem State.setRing_rdma (s : State) (link : ℕ) (x1 : EventRing) :
    (s.setRing link x1).rdma = s.rdma := rfl

@[simp] theorem State.setRing_boot (s : State) (link : ℕ) (x1 : EventRing) :
    (s.setRing link x1).boot = s.boot := rfl

@[simp] theorem State.setRing_keystone (s : State) (link : ℕ) (x1 : EventRing) :
    (s.setRing link x1).keystone = s.keystone := rfl

@[simp] theorem State.setRing_activation (s : State) (link : ℕ) (x1 : EventRing) :
    (s.setRing link x1).activation = s.activation := rfl

@[simp] theorem State.setRing_service (s : State) (link : ℕ) (x1 : EventRing) :
    (s.setRing link x1).service = s.service := rfl

@[simp] theorem State.setRing_monitor (s : State) (link : ℕ) (x1 : EventRing) :
    (s.setRing link x1).monitor = s.monitor := rfl

@[simp] theorem State.setRing_package (s : State) (link : ℕ) (x1 : EventRing) :
    (s.setRing link x1).package = s.package := rfl

@[simp] theorem State.setRing_outputs (s : State) (link : ℕ) (x1 : EventRing) :
    (s.setRing link x1).outputs = s.outputs := rfl

@[simp] theorem State.setRing_freeCtr (s : State) (link : ℕ) (x1 : EventRing) :
    (s.setRing link x1).freeCtr = s.freeCtr := rfl

@[simp] theorem State.setRing_pending (s : State) (link : ℕ) (x1 : EventRing) :
    (s.setRing link x1).pending = s.pending := rfl

/-! ### State.setPin: only `pins` -/

@[simp] theorem State.setPin_dict (s : State) (n : ℕ) (x1 : Pin) :
    (s.setPin n x1).dict = s.dict := rfl

@[simp] theorem State.setPin_doms (s : State) (n : ℕ) (x1 : Pin) :
    (s.setPin n x1).doms = s.doms := rfl

@[simp] theorem State.setPin_store (s : State) (n : ℕ) (x1 : Pin) :
    (s.setPin n x1).store = s.store := rfl

@[simp] theorem State.setPin_storeDoms (s : State) (n : ℕ) (x1 : Pin) :
    (s.setPin n x1).storeDoms = s.storeDoms := rfl

@[simp] theorem State.setPin_storeSets (s : State) (n : ℕ) (x1 : Pin) :
    (s.setPin n x1).storeSets = s.storeSets := rfl

@[simp] theorem State.setPin_snapshot (s : State) (n : ℕ) (x1 : Pin) :
    (s.setPin n x1).snapshot = s.snapshot := rfl

@[simp] theorem State.setPin_snapshotDoms (s : State) (n : ℕ) (x1 : Pin) :
    (s.setPin n x1).snapshotDoms = s.snapshotDoms := rfl

@[simp] theorem State.setPin_timers (s : State) (n : ℕ) (x1 : Pin) :
    (s.setPin n x1).timers = s.timers := rfl

@[simp] theorem State.setPin_clock (s : State) (n : ℕ) (x1 : Pin) :
    (s.setPin n x1).clock = s.clock := rfl

@[simp] theorem State.setPin_servo (s : State) (n : ℕ) (x1 : Pin) :
    (s.setPin n x1).servo = s.servo := rfl

@[simp] theorem State.setPin_detectors (s : State) (n : ℕ) (x1 : Pin) :
    (s.setPin n x1).detectors = s.detectors := rfl

@[simp] theorem State.setPin_synce (s : State) (n : ℕ) (x1 : Pin) :
    (s.setPin n x1).synce = s.synce := rfl

@[simp] theorem State.setPin_ptp (s : State) (n : ℕ) (x1 : Pin) :
    (s.setPin n x1).ptp = s.ptp := rfl

@[simp] theorem State.setPin_agent (s : State) (n : ℕ) (x1 : Pin) :
    (s.setPin n x1).agent = s.agent := rfl

@[simp] theorem State.setPin_log (s : State) (n : ℕ) (x1 : Pin) :
    (s.setPin n x1).log = s.log := rfl

@[simp] theorem State.setPin_mgmt (s : State) (n : ℕ) (x1 : Pin) :
    (s.setPin n x1).mgmt = s.mgmt := rfl

@[simp] theorem State.setPin_mortar (s : State) (n : ℕ) (x1 : Pin) :
    (s.setPin n x1).mortar = s.mortar := rfl

@[simp] theorem State.setPin_memory (s : State) (n : ℕ) (x1 : Pin) :
    (s.setPin n x1).memory = s.memory := rfl

@[simp] theorem State.setPin_ports (s : State) (n : ℕ) (x1 : Pin) :
    (s.setPin n x1).ports = s.ports := rfl

@[simp] theorem State.setPin_switch (s : State) (n : ℕ) (x1 : Pin) :
    (s.setPin n x1).switch = s.switch := rfl

@[simp] theorem State.setPin_modeChange (s : State) (n : ℕ) (x1 : Pin) :
    (s.setPin n x1).modeChange = s.modeChange := rfl

@[simp] theorem State.setPin_fwd (s : State) (n : ℕ) (x1 : Pin) :
    (s.setPin n x1).fwd = s.fwd := rfl

@[simp] theorem State.setPin_wall (s : State) (n : ℕ) (x1 : Pin) :
    (s.setPin n x1).wall = s.wall := rfl

@[simp] theorem State.setPin_redundancy (s : State) (n : ℕ) (x1 : Pin) :
    (s.setPin n x1).redundancy = s.redundancy := rfl

@[simp] theorem State.setPin_classify (s : State) (n : ℕ) (x1 : Pin) :
    (s.setPin n x1).classify = s.classify := rfl

@[simp] theorem State.setPin_trowel (s : State) (n : ℕ) (x1 : Pin) :
    (s.setPin n x1).trowel = s.trowel := rfl

@[simp] theorem State.setPin_cipher (s : State) (n : ℕ) (x1 : Pin) :
    (s.setPin n x1).cipher = s.cipher := rfl

@[simp] theorem State.setPin_hod (s : State) (n : ℕ) (x1 : Pin) :
    (s.setPin n x1).hod = s.hod := rfl

@[simp] theorem State.setPin_host (s : State) (n : ℕ) (x1 : Pin) :
    (s.setPin n x1).host = s.host := rfl

@[simp] theorem State.setPin_slices (s : State) (n : ℕ) (x1 : Pin) :
    (s.setPin n x1).slices = s.slices := rfl

@[simp] theorem State.setPin_storage (s : State) (n : ℕ) (x1 : Pin) :
    (s.setPin n x1).storage = s.storage := rfl

@[simp] theorem State.setPin_rdma (s : State) (n : ℕ) (x1 : Pin) :
    (s.setPin n x1).rdma = s.rdma := rfl

@[simp] theorem State.setPin_boot (s : State) (n : ℕ) (x1 : Pin) :
    (s.setPin n x1).boot = s.boot := rfl

@[simp] theorem State.setPin_keystone (s : State) (n : ℕ) (x1 : Pin) :
    (s.setPin n x1).keystone = s.keystone := rfl

@[simp] theorem State.setPin_activation (s : State) (n : ℕ) (x1 : Pin) :
    (s.setPin n x1).activation = s.activation := rfl

@[simp] theorem State.setPin_service (s : State) (n : ℕ) (x1 : Pin) :
    (s.setPin n x1).service = s.service := rfl

@[simp] theorem State.setPin_monitor (s : State) (n : ℕ) (x1 : Pin) :
    (s.setPin n x1).monitor = s.monitor := rfl

@[simp] theorem State.setPin_package (s : State) (n : ℕ) (x1 : Pin) :
    (s.setPin n x1).package = s.package := rfl

@[simp] theorem State.setPin_outputs (s : State) (n : ℕ) (x1 : Pin) :
    (s.setPin n x1).outputs = s.outputs := rfl

@[simp] theorem State.setPin_freeCtr (s : State) (n : ℕ) (x1 : Pin) :
    (s.setPin n x1).freeCtr = s.freeCtr := rfl

@[simp] theorem State.setPin_pending (s : State) (n : ℕ) (x1 : Pin) :
    (s.setPin n x1).pending = s.pending := rfl

/-! ### State.setQueue: only `switch` -/

@[simp] theorem State.setQueue_dict (s : State) (p : ℕ) (c : ℕ) (q1 : Queue) :
    (s.setQueue p c q1).dict = s.dict := rfl

@[simp] theorem State.setQueue_doms (s : State) (p : ℕ) (c : ℕ) (q1 : Queue) :
    (s.setQueue p c q1).doms = s.doms := rfl

@[simp] theorem State.setQueue_store (s : State) (p : ℕ) (c : ℕ) (q1 : Queue) :
    (s.setQueue p c q1).store = s.store := rfl

@[simp] theorem State.setQueue_storeDoms (s : State) (p : ℕ) (c : ℕ) (q1 : Queue) :
    (s.setQueue p c q1).storeDoms = s.storeDoms := rfl

@[simp] theorem State.setQueue_storeSets (s : State) (p : ℕ) (c : ℕ) (q1 : Queue) :
    (s.setQueue p c q1).storeSets = s.storeSets := rfl

@[simp] theorem State.setQueue_snapshot (s : State) (p : ℕ) (c : ℕ) (q1 : Queue) :
    (s.setQueue p c q1).snapshot = s.snapshot := rfl

@[simp] theorem State.setQueue_snapshotDoms (s : State) (p : ℕ) (c : ℕ) (q1 : Queue) :
    (s.setQueue p c q1).snapshotDoms = s.snapshotDoms := rfl

@[simp] theorem State.setQueue_timers (s : State) (p : ℕ) (c : ℕ) (q1 : Queue) :
    (s.setQueue p c q1).timers = s.timers := rfl

@[simp] theorem State.setQueue_clock (s : State) (p : ℕ) (c : ℕ) (q1 : Queue) :
    (s.setQueue p c q1).clock = s.clock := rfl

@[simp] theorem State.setQueue_servo (s : State) (p : ℕ) (c : ℕ) (q1 : Queue) :
    (s.setQueue p c q1).servo = s.servo := rfl

@[simp] theorem State.setQueue_detectors (s : State) (p : ℕ) (c : ℕ) (q1 : Queue) :
    (s.setQueue p c q1).detectors = s.detectors := rfl

@[simp] theorem State.setQueue_synce (s : State) (p : ℕ) (c : ℕ) (q1 : Queue) :
    (s.setQueue p c q1).synce = s.synce := rfl

@[simp] theorem State.setQueue_ptp (s : State) (p : ℕ) (c : ℕ) (q1 : Queue) :
    (s.setQueue p c q1).ptp = s.ptp := rfl

@[simp] theorem State.setQueue_pins (s : State) (p : ℕ) (c : ℕ) (q1 : Queue) :
    (s.setQueue p c q1).pins = s.pins := rfl

@[simp] theorem State.setQueue_agent (s : State) (p : ℕ) (c : ℕ) (q1 : Queue) :
    (s.setQueue p c q1).agent = s.agent := rfl

@[simp] theorem State.setQueue_log (s : State) (p : ℕ) (c : ℕ) (q1 : Queue) :
    (s.setQueue p c q1).log = s.log := rfl

@[simp] theorem State.setQueue_mgmt (s : State) (p : ℕ) (c : ℕ) (q1 : Queue) :
    (s.setQueue p c q1).mgmt = s.mgmt := rfl

@[simp] theorem State.setQueue_mortar (s : State) (p : ℕ) (c : ℕ) (q1 : Queue) :
    (s.setQueue p c q1).mortar = s.mortar := rfl

@[simp] theorem State.setQueue_memory (s : State) (p : ℕ) (c : ℕ) (q1 : Queue) :
    (s.setQueue p c q1).memory = s.memory := rfl

@[simp] theorem State.setQueue_ports (s : State) (p : ℕ) (c : ℕ) (q1 : Queue) :
    (s.setQueue p c q1).ports = s.ports := rfl

@[simp] theorem State.setQueue_modeChange (s : State) (p : ℕ) (c : ℕ) (q1 : Queue) :
    (s.setQueue p c q1).modeChange = s.modeChange := rfl

@[simp] theorem State.setQueue_fwd (s : State) (p : ℕ) (c : ℕ) (q1 : Queue) :
    (s.setQueue p c q1).fwd = s.fwd := rfl

@[simp] theorem State.setQueue_wall (s : State) (p : ℕ) (c : ℕ) (q1 : Queue) :
    (s.setQueue p c q1).wall = s.wall := rfl

@[simp] theorem State.setQueue_redundancy (s : State) (p : ℕ) (c : ℕ) (q1 : Queue) :
    (s.setQueue p c q1).redundancy = s.redundancy := rfl

@[simp] theorem State.setQueue_classify (s : State) (p : ℕ) (c : ℕ) (q1 : Queue) :
    (s.setQueue p c q1).classify = s.classify := rfl

@[simp] theorem State.setQueue_trowel (s : State) (p : ℕ) (c : ℕ) (q1 : Queue) :
    (s.setQueue p c q1).trowel = s.trowel := rfl

@[simp] theorem State.setQueue_cipher (s : State) (p : ℕ) (c : ℕ) (q1 : Queue) :
    (s.setQueue p c q1).cipher = s.cipher := rfl

@[simp] theorem State.setQueue_hod (s : State) (p : ℕ) (c : ℕ) (q1 : Queue) :
    (s.setQueue p c q1).hod = s.hod := rfl

@[simp] theorem State.setQueue_host (s : State) (p : ℕ) (c : ℕ) (q1 : Queue) :
    (s.setQueue p c q1).host = s.host := rfl

@[simp] theorem State.setQueue_slices (s : State) (p : ℕ) (c : ℕ) (q1 : Queue) :
    (s.setQueue p c q1).slices = s.slices := rfl

@[simp] theorem State.setQueue_storage (s : State) (p : ℕ) (c : ℕ) (q1 : Queue) :
    (s.setQueue p c q1).storage = s.storage := rfl

@[simp] theorem State.setQueue_rdma (s : State) (p : ℕ) (c : ℕ) (q1 : Queue) :
    (s.setQueue p c q1).rdma = s.rdma := rfl

@[simp] theorem State.setQueue_boot (s : State) (p : ℕ) (c : ℕ) (q1 : Queue) :
    (s.setQueue p c q1).boot = s.boot := rfl

@[simp] theorem State.setQueue_keystone (s : State) (p : ℕ) (c : ℕ) (q1 : Queue) :
    (s.setQueue p c q1).keystone = s.keystone := rfl

@[simp] theorem State.setQueue_activation (s : State) (p : ℕ) (c : ℕ) (q1 : Queue) :
    (s.setQueue p c q1).activation = s.activation := rfl

@[simp] theorem State.setQueue_service (s : State) (p : ℕ) (c : ℕ) (q1 : Queue) :
    (s.setQueue p c q1).service = s.service := rfl

@[simp] theorem State.setQueue_monitor (s : State) (p : ℕ) (c : ℕ) (q1 : Queue) :
    (s.setQueue p c q1).monitor = s.monitor := rfl

@[simp] theorem State.setQueue_package (s : State) (p : ℕ) (c : ℕ) (q1 : Queue) :
    (s.setQueue p c q1).package = s.package := rfl

@[simp] theorem State.setQueue_outputs (s : State) (p : ℕ) (c : ℕ) (q1 : Queue) :
    (s.setQueue p c q1).outputs = s.outputs := rfl

@[simp] theorem State.setQueue_freeCtr (s : State) (p : ℕ) (c : ℕ) (q1 : Queue) :
    (s.setQueue p c q1).freeCtr = s.freeCtr := rfl

@[simp] theorem State.setQueue_pending (s : State) (p : ℕ) (c : ℕ) (q1 : Queue) :
    (s.setQueue p c q1).pending = s.pending := rfl

/-! ### State.setEgress: only `switch` -/

@[simp] theorem State.setEgress_dict (s : State) (p : ℕ) (x1 : Egress) :
    (s.setEgress p x1).dict = s.dict := rfl

@[simp] theorem State.setEgress_doms (s : State) (p : ℕ) (x1 : Egress) :
    (s.setEgress p x1).doms = s.doms := rfl

@[simp] theorem State.setEgress_store (s : State) (p : ℕ) (x1 : Egress) :
    (s.setEgress p x1).store = s.store := rfl

@[simp] theorem State.setEgress_storeDoms (s : State) (p : ℕ) (x1 : Egress) :
    (s.setEgress p x1).storeDoms = s.storeDoms := rfl

@[simp] theorem State.setEgress_storeSets (s : State) (p : ℕ) (x1 : Egress) :
    (s.setEgress p x1).storeSets = s.storeSets := rfl

@[simp] theorem State.setEgress_snapshot (s : State) (p : ℕ) (x1 : Egress) :
    (s.setEgress p x1).snapshot = s.snapshot := rfl

@[simp] theorem State.setEgress_snapshotDoms (s : State) (p : ℕ) (x1 : Egress) :
    (s.setEgress p x1).snapshotDoms = s.snapshotDoms := rfl

@[simp] theorem State.setEgress_timers (s : State) (p : ℕ) (x1 : Egress) :
    (s.setEgress p x1).timers = s.timers := rfl

@[simp] theorem State.setEgress_clock (s : State) (p : ℕ) (x1 : Egress) :
    (s.setEgress p x1).clock = s.clock := rfl

@[simp] theorem State.setEgress_servo (s : State) (p : ℕ) (x1 : Egress) :
    (s.setEgress p x1).servo = s.servo := rfl

@[simp] theorem State.setEgress_detectors (s : State) (p : ℕ) (x1 : Egress) :
    (s.setEgress p x1).detectors = s.detectors := rfl

@[simp] theorem State.setEgress_synce (s : State) (p : ℕ) (x1 : Egress) :
    (s.setEgress p x1).synce = s.synce := rfl

@[simp] theorem State.setEgress_ptp (s : State) (p : ℕ) (x1 : Egress) :
    (s.setEgress p x1).ptp = s.ptp := rfl

@[simp] theorem State.setEgress_pins (s : State) (p : ℕ) (x1 : Egress) :
    (s.setEgress p x1).pins = s.pins := rfl

@[simp] theorem State.setEgress_agent (s : State) (p : ℕ) (x1 : Egress) :
    (s.setEgress p x1).agent = s.agent := rfl

@[simp] theorem State.setEgress_log (s : State) (p : ℕ) (x1 : Egress) :
    (s.setEgress p x1).log = s.log := rfl

@[simp] theorem State.setEgress_mgmt (s : State) (p : ℕ) (x1 : Egress) :
    (s.setEgress p x1).mgmt = s.mgmt := rfl

@[simp] theorem State.setEgress_mortar (s : State) (p : ℕ) (x1 : Egress) :
    (s.setEgress p x1).mortar = s.mortar := rfl

@[simp] theorem State.setEgress_memory (s : State) (p : ℕ) (x1 : Egress) :
    (s.setEgress p x1).memory = s.memory := rfl

@[simp] theorem State.setEgress_ports (s : State) (p : ℕ) (x1 : Egress) :
    (s.setEgress p x1).ports = s.ports := rfl

@[simp] theorem State.setEgress_modeChange (s : State) (p : ℕ) (x1 : Egress) :
    (s.setEgress p x1).modeChange = s.modeChange := rfl

@[simp] theorem State.setEgress_fwd (s : State) (p : ℕ) (x1 : Egress) :
    (s.setEgress p x1).fwd = s.fwd := rfl

@[simp] theorem State.setEgress_wall (s : State) (p : ℕ) (x1 : Egress) :
    (s.setEgress p x1).wall = s.wall := rfl

@[simp] theorem State.setEgress_redundancy (s : State) (p : ℕ) (x1 : Egress) :
    (s.setEgress p x1).redundancy = s.redundancy := rfl

@[simp] theorem State.setEgress_classify (s : State) (p : ℕ) (x1 : Egress) :
    (s.setEgress p x1).classify = s.classify := rfl

@[simp] theorem State.setEgress_trowel (s : State) (p : ℕ) (x1 : Egress) :
    (s.setEgress p x1).trowel = s.trowel := rfl

@[simp] theorem State.setEgress_cipher (s : State) (p : ℕ) (x1 : Egress) :
    (s.setEgress p x1).cipher = s.cipher := rfl

@[simp] theorem State.setEgress_hod (s : State) (p : ℕ) (x1 : Egress) :
    (s.setEgress p x1).hod = s.hod := rfl

@[simp] theorem State.setEgress_host (s : State) (p : ℕ) (x1 : Egress) :
    (s.setEgress p x1).host = s.host := rfl

@[simp] theorem State.setEgress_slices (s : State) (p : ℕ) (x1 : Egress) :
    (s.setEgress p x1).slices = s.slices := rfl

@[simp] theorem State.setEgress_storage (s : State) (p : ℕ) (x1 : Egress) :
    (s.setEgress p x1).storage = s.storage := rfl

@[simp] theorem State.setEgress_rdma (s : State) (p : ℕ) (x1 : Egress) :
    (s.setEgress p x1).rdma = s.rdma := rfl

@[simp] theorem State.setEgress_boot (s : State) (p : ℕ) (x1 : Egress) :
    (s.setEgress p x1).boot = s.boot := rfl

@[simp] theorem State.setEgress_keystone (s : State) (p : ℕ) (x1 : Egress) :
    (s.setEgress p x1).keystone = s.keystone := rfl

@[simp] theorem State.setEgress_activation (s : State) (p : ℕ) (x1 : Egress) :
    (s.setEgress p x1).activation = s.activation := rfl

@[simp] theorem State.setEgress_service (s : State) (p : ℕ) (x1 : Egress) :
    (s.setEgress p x1).service = s.service := rfl

@[simp] theorem State.setEgress_monitor (s : State) (p : ℕ) (x1 : Egress) :
    (s.setEgress p x1).monitor = s.monitor := rfl

@[simp] theorem State.setEgress_package (s : State) (p : ℕ) (x1 : Egress) :
    (s.setEgress p x1).package = s.package := rfl

@[simp] theorem State.setEgress_outputs (s : State) (p : ℕ) (x1 : Egress) :
    (s.setEgress p x1).outputs = s.outputs := rfl

@[simp] theorem State.setEgress_freeCtr (s : State) (p : ℕ) (x1 : Egress) :
    (s.setEgress p x1).freeCtr = s.freeCtr := rfl

@[simp] theorem State.setEgress_pending (s : State) (p : ℕ) (x1 : Egress) :
    (s.setEgress p x1).pending = s.pending := rfl

/-! ### State.setIngress: only `switch` -/

@[simp] theorem State.setIngress_dict (s : State) (p : ℕ) (c : ℕ) (x1 : Ingress) :
    (s.setIngress p c x1).dict = s.dict := rfl

@[simp] theorem State.setIngress_doms (s : State) (p : ℕ) (c : ℕ) (x1 : Ingress) :
    (s.setIngress p c x1).doms = s.doms := rfl

@[simp] theorem State.setIngress_store (s : State) (p : ℕ) (c : ℕ) (x1 : Ingress) :
    (s.setIngress p c x1).store = s.store := rfl

@[simp] theorem State.setIngress_storeDoms (s : State) (p : ℕ) (c : ℕ) (x1 : Ingress) :
    (s.setIngress p c x1).storeDoms = s.storeDoms := rfl

@[simp] theorem State.setIngress_storeSets (s : State) (p : ℕ) (c : ℕ) (x1 : Ingress) :
    (s.setIngress p c x1).storeSets = s.storeSets := rfl

@[simp] theorem State.setIngress_snapshot (s : State) (p : ℕ) (c : ℕ) (x1 : Ingress) :
    (s.setIngress p c x1).snapshot = s.snapshot := rfl

@[simp] theorem State.setIngress_snapshotDoms (s : State) (p : ℕ) (c : ℕ) (x1 : Ingress) :
    (s.setIngress p c x1).snapshotDoms = s.snapshotDoms := rfl

@[simp] theorem State.setIngress_timers (s : State) (p : ℕ) (c : ℕ) (x1 : Ingress) :
    (s.setIngress p c x1).timers = s.timers := rfl

@[simp] theorem State.setIngress_clock (s : State) (p : ℕ) (c : ℕ) (x1 : Ingress) :
    (s.setIngress p c x1).clock = s.clock := rfl

@[simp] theorem State.setIngress_servo (s : State) (p : ℕ) (c : ℕ) (x1 : Ingress) :
    (s.setIngress p c x1).servo = s.servo := rfl

@[simp] theorem State.setIngress_detectors (s : State) (p : ℕ) (c : ℕ) (x1 : Ingress) :
    (s.setIngress p c x1).detectors = s.detectors := rfl

@[simp] theorem State.setIngress_synce (s : State) (p : ℕ) (c : ℕ) (x1 : Ingress) :
    (s.setIngress p c x1).synce = s.synce := rfl

@[simp] theorem State.setIngress_ptp (s : State) (p : ℕ) (c : ℕ) (x1 : Ingress) :
    (s.setIngress p c x1).ptp = s.ptp := rfl

@[simp] theorem State.setIngress_pins (s : State) (p : ℕ) (c : ℕ) (x1 : Ingress) :
    (s.setIngress p c x1).pins = s.pins := rfl

@[simp] theorem State.setIngress_agent (s : State) (p : ℕ) (c : ℕ) (x1 : Ingress) :
    (s.setIngress p c x1).agent = s.agent := rfl

@[simp] theorem State.setIngress_log (s : State) (p : ℕ) (c : ℕ) (x1 : Ingress) :
    (s.setIngress p c x1).log = s.log := rfl

@[simp] theorem State.setIngress_mgmt (s : State) (p : ℕ) (c : ℕ) (x1 : Ingress) :
    (s.setIngress p c x1).mgmt = s.mgmt := rfl

@[simp] theorem State.setIngress_mortar (s : State) (p : ℕ) (c : ℕ) (x1 : Ingress) :
    (s.setIngress p c x1).mortar = s.mortar := rfl

@[simp] theorem State.setIngress_memory (s : State) (p : ℕ) (c : ℕ) (x1 : Ingress) :
    (s.setIngress p c x1).memory = s.memory := rfl

@[simp] theorem State.setIngress_ports (s : State) (p : ℕ) (c : ℕ) (x1 : Ingress) :
    (s.setIngress p c x1).ports = s.ports := rfl

@[simp] theorem State.setIngress_modeChange (s : State) (p : ℕ) (c : ℕ) (x1 : Ingress) :
    (s.setIngress p c x1).modeChange = s.modeChange := rfl

@[simp] theorem State.setIngress_fwd (s : State) (p : ℕ) (c : ℕ) (x1 : Ingress) :
    (s.setIngress p c x1).fwd = s.fwd := rfl

@[simp] theorem State.setIngress_wall (s : State) (p : ℕ) (c : ℕ) (x1 : Ingress) :
    (s.setIngress p c x1).wall = s.wall := rfl

@[simp] theorem State.setIngress_redundancy (s : State) (p : ℕ) (c : ℕ) (x1 : Ingress) :
    (s.setIngress p c x1).redundancy = s.redundancy := rfl

@[simp] theorem State.setIngress_classify (s : State) (p : ℕ) (c : ℕ) (x1 : Ingress) :
    (s.setIngress p c x1).classify = s.classify := rfl

@[simp] theorem State.setIngress_trowel (s : State) (p : ℕ) (c : ℕ) (x1 : Ingress) :
    (s.setIngress p c x1).trowel = s.trowel := rfl

@[simp] theorem State.setIngress_cipher (s : State) (p : ℕ) (c : ℕ) (x1 : Ingress) :
    (s.setIngress p c x1).cipher = s.cipher := rfl

@[simp] theorem State.setIngress_hod (s : State) (p : ℕ) (c : ℕ) (x1 : Ingress) :
    (s.setIngress p c x1).hod = s.hod := rfl

@[simp] theorem State.setIngress_host (s : State) (p : ℕ) (c : ℕ) (x1 : Ingress) :
    (s.setIngress p c x1).host = s.host := rfl

@[simp] theorem State.setIngress_slices (s : State) (p : ℕ) (c : ℕ) (x1 : Ingress) :
    (s.setIngress p c x1).slices = s.slices := rfl

@[simp] theorem State.setIngress_storage (s : State) (p : ℕ) (c : ℕ) (x1 : Ingress) :
    (s.setIngress p c x1).storage = s.storage := rfl

@[simp] theorem State.setIngress_rdma (s : State) (p : ℕ) (c : ℕ) (x1 : Ingress) :
    (s.setIngress p c x1).rdma = s.rdma := rfl

@[simp] theorem State.setIngress_boot (s : State) (p : ℕ) (c : ℕ) (x1 : Ingress) :
    (s.setIngress p c x1).boot = s.boot := rfl

@[simp] theorem State.setIngress_keystone (s : State) (p : ℕ) (c : ℕ) (x1 : Ingress) :
    (s.setIngress p c x1).keystone = s.keystone := rfl

@[simp] theorem State.setIngress_activation (s : State) (p : ℕ) (c : ℕ) (x1 : Ingress) :
    (s.setIngress p c x1).activation = s.activation := rfl

@[simp] theorem State.setIngress_service (s : State) (p : ℕ) (c : ℕ) (x1 : Ingress) :
    (s.setIngress p c x1).service = s.service := rfl

@[simp] theorem State.setIngress_monitor (s : State) (p : ℕ) (c : ℕ) (x1 : Ingress) :
    (s.setIngress p c x1).monitor = s.monitor := rfl

@[simp] theorem State.setIngress_package (s : State) (p : ℕ) (c : ℕ) (x1 : Ingress) :
    (s.setIngress p c x1).package = s.package := rfl

@[simp] theorem State.setIngress_outputs (s : State) (p : ℕ) (c : ℕ) (x1 : Ingress) :
    (s.setIngress p c x1).outputs = s.outputs := rfl

@[simp] theorem State.setIngress_freeCtr (s : State) (p : ℕ) (c : ℕ) (x1 : Ingress) :
    (s.setIngress p c x1).freeCtr = s.freeCtr := rfl

@[simp] theorem State.setIngress_pending (s : State) (p : ℕ) (c : ℕ) (x1 : Ingress) :
    (s.setIngress p c x1).pending = s.pending := rfl

/-! ### State.setAligned: only `switch` -/

@[simp] theorem State.setAligned_dict (s : State) (q1 : ℕ) (x1 : Aligned) :
    (s.setAligned q1 x1).dict = s.dict := rfl

@[simp] theorem State.setAligned_doms (s : State) (q1 : ℕ) (x1 : Aligned) :
    (s.setAligned q1 x1).doms = s.doms := rfl

@[simp] theorem State.setAligned_store (s : State) (q1 : ℕ) (x1 : Aligned) :
    (s.setAligned q1 x1).store = s.store := rfl

@[simp] theorem State.setAligned_storeDoms (s : State) (q1 : ℕ) (x1 : Aligned) :
    (s.setAligned q1 x1).storeDoms = s.storeDoms := rfl

@[simp] theorem State.setAligned_storeSets (s : State) (q1 : ℕ) (x1 : Aligned) :
    (s.setAligned q1 x1).storeSets = s.storeSets := rfl

@[simp] theorem State.setAligned_snapshot (s : State) (q1 : ℕ) (x1 : Aligned) :
    (s.setAligned q1 x1).snapshot = s.snapshot := rfl

@[simp] theorem State.setAligned_snapshotDoms (s : State) (q1 : ℕ) (x1 : Aligned) :
    (s.setAligned q1 x1).snapshotDoms = s.snapshotDoms := rfl

@[simp] theorem State.setAligned_timers (s : State) (q1 : ℕ) (x1 : Aligned) :
    (s.setAligned q1 x1).timers = s.timers := rfl

@[simp] theorem State.setAligned_clock (s : State) (q1 : ℕ) (x1 : Aligned) :
    (s.setAligned q1 x1).clock = s.clock := rfl

@[simp] theorem State.setAligned_servo (s : State) (q1 : ℕ) (x1 : Aligned) :
    (s.setAligned q1 x1).servo = s.servo := rfl

@[simp] theorem State.setAligned_detectors (s : State) (q1 : ℕ) (x1 : Aligned) :
    (s.setAligned q1 x1).detectors = s.detectors := rfl

@[simp] theorem State.setAligned_synce (s : State) (q1 : ℕ) (x1 : Aligned) :
    (s.setAligned q1 x1).synce = s.synce := rfl

@[simp] theorem State.setAligned_ptp (s : State) (q1 : ℕ) (x1 : Aligned) :
    (s.setAligned q1 x1).ptp = s.ptp := rfl

@[simp] theorem State.setAligned_pins (s : State) (q1 : ℕ) (x1 : Aligned) :
    (s.setAligned q1 x1).pins = s.pins := rfl

@[simp] theorem State.setAligned_agent (s : State) (q1 : ℕ) (x1 : Aligned) :
    (s.setAligned q1 x1).agent = s.agent := rfl

@[simp] theorem State.setAligned_log (s : State) (q1 : ℕ) (x1 : Aligned) :
    (s.setAligned q1 x1).log = s.log := rfl

@[simp] theorem State.setAligned_mgmt (s : State) (q1 : ℕ) (x1 : Aligned) :
    (s.setAligned q1 x1).mgmt = s.mgmt := rfl

@[simp] theorem State.setAligned_mortar (s : State) (q1 : ℕ) (x1 : Aligned) :
    (s.setAligned q1 x1).mortar = s.mortar := rfl

@[simp] theorem State.setAligned_memory (s : State) (q1 : ℕ) (x1 : Aligned) :
    (s.setAligned q1 x1).memory = s.memory := rfl

@[simp] theorem State.setAligned_ports (s : State) (q1 : ℕ) (x1 : Aligned) :
    (s.setAligned q1 x1).ports = s.ports := rfl

@[simp] theorem State.setAligned_modeChange (s : State) (q1 : ℕ) (x1 : Aligned) :
    (s.setAligned q1 x1).modeChange = s.modeChange := rfl

@[simp] theorem State.setAligned_fwd (s : State) (q1 : ℕ) (x1 : Aligned) :
    (s.setAligned q1 x1).fwd = s.fwd := rfl

@[simp] theorem State.setAligned_wall (s : State) (q1 : ℕ) (x1 : Aligned) :
    (s.setAligned q1 x1).wall = s.wall := rfl

@[simp] theorem State.setAligned_redundancy (s : State) (q1 : ℕ) (x1 : Aligned) :
    (s.setAligned q1 x1).redundancy = s.redundancy := rfl

@[simp] theorem State.setAligned_classify (s : State) (q1 : ℕ) (x1 : Aligned) :
    (s.setAligned q1 x1).classify = s.classify := rfl

@[simp] theorem State.setAligned_trowel (s : State) (q1 : ℕ) (x1 : Aligned) :
    (s.setAligned q1 x1).trowel = s.trowel := rfl

@[simp] theorem State.setAligned_cipher (s : State) (q1 : ℕ) (x1 : Aligned) :
    (s.setAligned q1 x1).cipher = s.cipher := rfl

@[simp] theorem State.setAligned_hod (s : State) (q1 : ℕ) (x1 : Aligned) :
    (s.setAligned q1 x1).hod = s.hod := rfl

@[simp] theorem State.setAligned_host (s : State) (q1 : ℕ) (x1 : Aligned) :
    (s.setAligned q1 x1).host = s.host := rfl

@[simp] theorem State.setAligned_slices (s : State) (q1 : ℕ) (x1 : Aligned) :
    (s.setAligned q1 x1).slices = s.slices := rfl

@[simp] theorem State.setAligned_storage (s : State) (q1 : ℕ) (x1 : Aligned) :
    (s.setAligned q1 x1).storage = s.storage := rfl

@[simp] theorem State.setAligned_rdma (s : State) (q1 : ℕ) (x1 : Aligned) :
    (s.setAligned q1 x1).rdma = s.rdma := rfl

@[simp] theorem State.setAligned_boot (s : State) (q1 : ℕ) (x1 : Aligned) :
    (s.setAligned q1 x1).boot = s.boot := rfl

@[simp] theorem State.setAligned_keystone (s : State) (q1 : ℕ) (x1 : Aligned) :
    (s.setAligned q1 x1).keystone = s.keystone := rfl

@[simp] theorem State.setAligned_activation (s : State) (q1 : ℕ) (x1 : Aligned) :
    (s.setAligned q1 x1).activation = s.activation := rfl

@[simp] theorem State.setAligned_service (s : State) (q1 : ℕ) (x1 : Aligned) :
    (s.setAligned q1 x1).service = s.service := rfl

@[simp] theorem State.setAligned_monitor (s : State) (q1 : ℕ) (x1 : Aligned) :
    (s.setAligned q1 x1).monitor = s.monitor := rfl

@[simp] theorem State.setAligned_package (s : State) (q1 : ℕ) (x1 : Aligned) :
    (s.setAligned q1 x1).package = s.package := rfl

@[simp] theorem State.setAligned_outputs (s : State) (q1 : ℕ) (x1 : Aligned) :
    (s.setAligned q1 x1).outputs = s.outputs := rfl

@[simp] theorem State.setAligned_freeCtr (s : State) (q1 : ℕ) (x1 : Aligned) :
    (s.setAligned q1 x1).freeCtr = s.freeCtr := rfl

@[simp] theorem State.setAligned_pending (s : State) (q1 : ℕ) (x1 : Aligned) :
    (s.setAligned q1 x1).pending = s.pending := rfl

/-! ### State.setKeySlot: only `cipher` -/

@[simp] theorem State.setKeySlot_dict (s : State) (n : ℕ) (x1 : KeySlot) :
    (s.setKeySlot n x1).dict = s.dict := rfl

@[simp] theorem State.setKeySlot_doms (s : State) (n : ℕ) (x1 : KeySlot) :
    (s.setKeySlot n x1).doms = s.doms := rfl

@[simp] theorem State.setKeySlot_store (s : State) (n : ℕ) (x1 : KeySlot) :
    (s.setKeySlot n x1).store = s.store := rfl

@[simp] theorem State.setKeySlot_storeDoms (s : State) (n : ℕ) (x1 : KeySlot) :
    (s.setKeySlot n x1).storeDoms = s.storeDoms := rfl

@[simp] theorem State.setKeySlot_storeSets (s : State) (n : ℕ) (x1 : KeySlot) :
    (s.setKeySlot n x1).storeSets = s.storeSets := rfl

@[simp] theorem State.setKeySlot_snapshot (s : State) (n : ℕ) (x1 : KeySlot) :
    (s.setKeySlot n x1).snapshot = s.snapshot := rfl

@[simp] theorem State.setKeySlot_snapshotDoms (s : State) (n : ℕ) (x1 : KeySlot) :
    (s.setKeySlot n x1).snapshotDoms = s.snapshotDoms := rfl

@[simp] theorem State.setKeySlot_timers (s : State) (n : ℕ) (x1 : KeySlot) :
    (s.setKeySlot n x1).timers = s.timers := rfl

@[simp] theorem State.setKeySlot_clock (s : State) (n : ℕ) (x1 : KeySlot) :
    (s.setKeySlot n x1).clock = s.clock := rfl

@[simp] theorem State.setKeySlot_servo (s : State) (n : ℕ) (x1 : KeySlot) :
    (s.setKeySlot n x1).servo = s.servo := rfl

@[simp] theorem State.setKeySlot_detectors (s : State) (n : ℕ) (x1 : KeySlot) :
    (s.setKeySlot n x1).detectors = s.detectors := rfl

@[simp] theorem State.setKeySlot_synce (s : State) (n : ℕ) (x1 : KeySlot) :
    (s.setKeySlot n x1).synce = s.synce := rfl

@[simp] theorem State.setKeySlot_ptp (s : State) (n : ℕ) (x1 : KeySlot) :
    (s.setKeySlot n x1).ptp = s.ptp := rfl

@[simp] theorem State.setKeySlot_pins (s : State) (n : ℕ) (x1 : KeySlot) :
    (s.setKeySlot n x1).pins = s.pins := rfl

@[simp] theorem State.setKeySlot_agent (s : State) (n : ℕ) (x1 : KeySlot) :
    (s.setKeySlot n x1).agent = s.agent := rfl

@[simp] theorem State.setKeySlot_log (s : State) (n : ℕ) (x1 : KeySlot) :
    (s.setKeySlot n x1).log = s.log := rfl

@[simp] theorem State.setKeySlot_mgmt (s : State) (n : ℕ) (x1 : KeySlot) :
    (s.setKeySlot n x1).mgmt = s.mgmt := rfl

@[simp] theorem State.setKeySlot_mortar (s : State) (n : ℕ) (x1 : KeySlot) :
    (s.setKeySlot n x1).mortar = s.mortar := rfl

@[simp] theorem State.setKeySlot_memory (s : State) (n : ℕ) (x1 : KeySlot) :
    (s.setKeySlot n x1).memory = s.memory := rfl

@[simp] theorem State.setKeySlot_ports (s : State) (n : ℕ) (x1 : KeySlot) :
    (s.setKeySlot n x1).ports = s.ports := rfl

@[simp] theorem State.setKeySlot_switch (s : State) (n : ℕ) (x1 : KeySlot) :
    (s.setKeySlot n x1).switch = s.switch := rfl

@[simp] theorem State.setKeySlot_modeChange (s : State) (n : ℕ) (x1 : KeySlot) :
    (s.setKeySlot n x1).modeChange = s.modeChange := rfl

@[simp] theorem State.setKeySlot_fwd (s : State) (n : ℕ) (x1 : KeySlot) :
    (s.setKeySlot n x1).fwd = s.fwd := rfl

@[simp] theorem State.setKeySlot_wall (s : State) (n : ℕ) (x1 : KeySlot) :
    (s.setKeySlot n x1).wall = s.wall := rfl

@[simp] theorem State.setKeySlot_redundancy (s : State) (n : ℕ) (x1 : KeySlot) :
    (s.setKeySlot n x1).redundancy = s.redundancy := rfl

@[simp] theorem State.setKeySlot_classify (s : State) (n : ℕ) (x1 : KeySlot) :
    (s.setKeySlot n x1).classify = s.classify := rfl

@[simp] theorem State.setKeySlot_trowel (s : State) (n : ℕ) (x1 : KeySlot) :
    (s.setKeySlot n x1).trowel = s.trowel := rfl

@[simp] theorem State.setKeySlot_hod (s : State) (n : ℕ) (x1 : KeySlot) :
    (s.setKeySlot n x1).hod = s.hod := rfl

@[simp] theorem State.setKeySlot_host (s : State) (n : ℕ) (x1 : KeySlot) :
    (s.setKeySlot n x1).host = s.host := rfl

@[simp] theorem State.setKeySlot_slices (s : State) (n : ℕ) (x1 : KeySlot) :
    (s.setKeySlot n x1).slices = s.slices := rfl

@[simp] theorem State.setKeySlot_storage (s : State) (n : ℕ) (x1 : KeySlot) :
    (s.setKeySlot n x1).storage = s.storage := rfl

@[simp] theorem State.setKeySlot_rdma (s : State) (n : ℕ) (x1 : KeySlot) :
    (s.setKeySlot n x1).rdma = s.rdma := rfl

@[simp] theorem State.setKeySlot_boot (s : State) (n : ℕ) (x1 : KeySlot) :
    (s.setKeySlot n x1).boot = s.boot := rfl

@[simp] theorem State.setKeySlot_keystone (s : State) (n : ℕ) (x1 : KeySlot) :
    (s.setKeySlot n x1).keystone = s.keystone := rfl

@[simp] theorem State.setKeySlot_activation (s : State) (n : ℕ) (x1 : KeySlot) :
    (s.setKeySlot n x1).activation = s.activation := rfl

@[simp] theorem State.setKeySlot_service (s : State) (n : ℕ) (x1 : KeySlot) :
    (s.setKeySlot n x1).service = s.service := rfl

@[simp] theorem State.setKeySlot_monitor (s : State) (n : ℕ) (x1 : KeySlot) :
    (s.setKeySlot n x1).monitor = s.monitor := rfl

@[simp] theorem State.setKeySlot_package (s : State) (n : ℕ) (x1 : KeySlot) :
    (s.setKeySlot n x1).package = s.package := rfl

@[simp] theorem State.setKeySlot_outputs (s : State) (n : ℕ) (x1 : KeySlot) :
    (s.setKeySlot n x1).outputs = s.outputs := rfl

@[simp] theorem State.setKeySlot_freeCtr (s : State) (n : ℕ) (x1 : KeySlot) :
    (s.setKeySlot n x1).freeCtr = s.freeCtr := rfl

@[simp] theorem State.setKeySlot_pending (s : State) (n : ℕ) (x1 : KeySlot) :
    (s.setKeySlot n x1).pending = s.pending := rfl

/-! ### State.setInline: only `cipher` -/

@[simp] theorem State.setInline_dict (s : State) (t1 : ℕ) (x1 : InlineCluster) :
    (s.setInline t1 x1).dict = s.dict := rfl

@[simp] theorem State.setInline_doms (s : State) (t1 : ℕ) (x1 : InlineCluster) :
    (s.setInline t1 x1).doms = s.doms := rfl

@[simp] theorem State.setInline_store (s : State) (t1 : ℕ) (x1 : InlineCluster) :
    (s.setInline t1 x1).store = s.store := rfl

@[simp] theorem State.setInline_storeDoms (s : State) (t1 : ℕ) (x1 : InlineCluster) :
    (s.setInline t1 x1).storeDoms = s.storeDoms := rfl

@[simp] theorem State.setInline_storeSets (s : State) (t1 : ℕ) (x1 : InlineCluster) :
    (s.setInline t1 x1).storeSets = s.storeSets := rfl

@[simp] theorem State.setInline_snapshot (s : State) (t1 : ℕ) (x1 : InlineCluster) :
    (s.setInline t1 x1).snapshot = s.snapshot := rfl

@[simp] theorem State.setInline_snapshotDoms (s : State) (t1 : ℕ) (x1 : InlineCluster) :
    (s.setInline t1 x1).snapshotDoms = s.snapshotDoms := rfl

@[simp] theorem State.setInline_timers (s : State) (t1 : ℕ) (x1 : InlineCluster) :
    (s.setInline t1 x1).timers = s.timers := rfl

@[simp] theorem State.setInline_clock (s : State) (t1 : ℕ) (x1 : InlineCluster) :
    (s.setInline t1 x1).clock = s.clock := rfl

@[simp] theorem State.setInline_servo (s : State) (t1 : ℕ) (x1 : InlineCluster) :
    (s.setInline t1 x1).servo = s.servo := rfl

@[simp] theorem State.setInline_detectors (s : State) (t1 : ℕ) (x1 : InlineCluster) :
    (s.setInline t1 x1).detectors = s.detectors := rfl

@[simp] theorem State.setInline_synce (s : State) (t1 : ℕ) (x1 : InlineCluster) :
    (s.setInline t1 x1).synce = s.synce := rfl

@[simp] theorem State.setInline_ptp (s : State) (t1 : ℕ) (x1 : InlineCluster) :
    (s.setInline t1 x1).ptp = s.ptp := rfl

@[simp] theorem State.setInline_pins (s : State) (t1 : ℕ) (x1 : InlineCluster) :
    (s.setInline t1 x1).pins = s.pins := rfl

@[simp] theorem State.setInline_agent (s : State) (t1 : ℕ) (x1 : InlineCluster) :
    (s.setInline t1 x1).agent = s.agent := rfl

@[simp] theorem State.setInline_log (s : State) (t1 : ℕ) (x1 : InlineCluster) :
    (s.setInline t1 x1).log = s.log := rfl

@[simp] theorem State.setInline_mgmt (s : State) (t1 : ℕ) (x1 : InlineCluster) :
    (s.setInline t1 x1).mgmt = s.mgmt := rfl

@[simp] theorem State.setInline_mortar (s : State) (t1 : ℕ) (x1 : InlineCluster) :
    (s.setInline t1 x1).mortar = s.mortar := rfl

@[simp] theorem State.setInline_memory (s : State) (t1 : ℕ) (x1 : InlineCluster) :
    (s.setInline t1 x1).memory = s.memory := rfl

@[simp] theorem State.setInline_ports (s : State) (t1 : ℕ) (x1 : InlineCluster) :
    (s.setInline t1 x1).ports = s.ports := rfl

@[simp] theorem State.setInline_switch (s : State) (t1 : ℕ) (x1 : InlineCluster) :
    (s.setInline t1 x1).switch = s.switch := rfl

@[simp] theorem State.setInline_modeChange (s : State) (t1 : ℕ) (x1 : InlineCluster) :
    (s.setInline t1 x1).modeChange = s.modeChange := rfl

@[simp] theorem State.setInline_fwd (s : State) (t1 : ℕ) (x1 : InlineCluster) :
    (s.setInline t1 x1).fwd = s.fwd := rfl

@[simp] theorem State.setInline_wall (s : State) (t1 : ℕ) (x1 : InlineCluster) :
    (s.setInline t1 x1).wall = s.wall := rfl

@[simp] theorem State.setInline_redundancy (s : State) (t1 : ℕ) (x1 : InlineCluster) :
    (s.setInline t1 x1).redundancy = s.redundancy := rfl

@[simp] theorem State.setInline_classify (s : State) (t1 : ℕ) (x1 : InlineCluster) :
    (s.setInline t1 x1).classify = s.classify := rfl

@[simp] theorem State.setInline_trowel (s : State) (t1 : ℕ) (x1 : InlineCluster) :
    (s.setInline t1 x1).trowel = s.trowel := rfl

@[simp] theorem State.setInline_hod (s : State) (t1 : ℕ) (x1 : InlineCluster) :
    (s.setInline t1 x1).hod = s.hod := rfl

@[simp] theorem State.setInline_host (s : State) (t1 : ℕ) (x1 : InlineCluster) :
    (s.setInline t1 x1).host = s.host := rfl

@[simp] theorem State.setInline_slices (s : State) (t1 : ℕ) (x1 : InlineCluster) :
    (s.setInline t1 x1).slices = s.slices := rfl

@[simp] theorem State.setInline_storage (s : State) (t1 : ℕ) (x1 : InlineCluster) :
    (s.setInline t1 x1).storage = s.storage := rfl

@[simp] theorem State.setInline_rdma (s : State) (t1 : ℕ) (x1 : InlineCluster) :
    (s.setInline t1 x1).rdma = s.rdma := rfl

@[simp] theorem State.setInline_boot (s : State) (t1 : ℕ) (x1 : InlineCluster) :
    (s.setInline t1 x1).boot = s.boot := rfl

@[simp] theorem State.setInline_keystone (s : State) (t1 : ℕ) (x1 : InlineCluster) :
    (s.setInline t1 x1).keystone = s.keystone := rfl

@[simp] theorem State.setInline_activation (s : State) (t1 : ℕ) (x1 : InlineCluster) :
    (s.setInline t1 x1).activation = s.activation := rfl

@[simp] theorem State.setInline_service (s : State) (t1 : ℕ) (x1 : InlineCluster) :
    (s.setInline t1 x1).service = s.service := rfl

@[simp] theorem State.setInline_monitor (s : State) (t1 : ℕ) (x1 : InlineCluster) :
    (s.setInline t1 x1).monitor = s.monitor := rfl

@[simp] theorem State.setInline_package (s : State) (t1 : ℕ) (x1 : InlineCluster) :
    (s.setInline t1 x1).package = s.package := rfl

@[simp] theorem State.setInline_outputs (s : State) (t1 : ℕ) (x1 : InlineCluster) :
    (s.setInline t1 x1).outputs = s.outputs := rfl

@[simp] theorem State.setInline_freeCtr (s : State) (t1 : ℕ) (x1 : InlineCluster) :
    (s.setInline t1 x1).freeCtr = s.freeCtr := rfl

@[simp] theorem State.setInline_pending (s : State) (t1 : ℕ) (x1 : InlineCluster) :
    (s.setInline t1 x1).pending = s.pending := rfl

/-! ### State.setSa: only `cipher` -/

@[simp] theorem State.setSa_dict (s : State) (p : ℕ) (channel : ℕ) (an : ℕ) (x1 : MacsecSa) :
    (s.setSa p channel an x1).dict = s.dict := rfl

@[simp] theorem State.setSa_doms (s : State) (p : ℕ) (channel : ℕ) (an : ℕ) (x1 : MacsecSa) :
    (s.setSa p channel an x1).doms = s.doms := rfl

@[simp] theorem State.setSa_store (s : State) (p : ℕ) (channel : ℕ) (an : ℕ) (x1 : MacsecSa) :
    (s.setSa p channel an x1).store = s.store := rfl

@[simp] theorem State.setSa_storeDoms (s : State) (p : ℕ) (channel : ℕ) (an : ℕ) (x1 : MacsecSa) :
    (s.setSa p channel an x1).storeDoms = s.storeDoms := rfl

@[simp] theorem State.setSa_storeSets (s : State) (p : ℕ) (channel : ℕ) (an : ℕ) (x1 : MacsecSa) :
    (s.setSa p channel an x1).storeSets = s.storeSets := rfl

@[simp] theorem State.setSa_snapshot (s : State) (p : ℕ) (channel : ℕ) (an : ℕ) (x1 : MacsecSa) :
    (s.setSa p channel an x1).snapshot = s.snapshot := rfl

@[simp] theorem State.setSa_snapshotDoms (s : State) (p : ℕ) (channel : ℕ) (an : ℕ) (x1 : MacsecSa) :
    (s.setSa p channel an x1).snapshotDoms = s.snapshotDoms := rfl

@[simp] theorem State.setSa_timers (s : State) (p : ℕ) (channel : ℕ) (an : ℕ) (x1 : MacsecSa) :
    (s.setSa p channel an x1).timers = s.timers := rfl

@[simp] theorem State.setSa_clock (s : State) (p : ℕ) (channel : ℕ) (an : ℕ) (x1 : MacsecSa) :
    (s.setSa p channel an x1).clock = s.clock := rfl

@[simp] theorem State.setSa_servo (s : State) (p : ℕ) (channel : ℕ) (an : ℕ) (x1 : MacsecSa) :
    (s.setSa p channel an x1).servo = s.servo := rfl

@[simp] theorem State.setSa_detectors (s : State) (p : ℕ) (channel : ℕ) (an : ℕ) (x1 : MacsecSa) :
    (s.setSa p channel an x1).detectors = s.detectors := rfl

@[simp] theorem State.setSa_synce (s : State) (p : ℕ) (channel : ℕ) (an : ℕ) (x1 : MacsecSa) :
    (s.setSa p channel an x1).synce = s.synce := rfl

@[simp] theorem State.setSa_ptp (s : State) (p : ℕ) (channel : ℕ) (an : ℕ) (x1 : MacsecSa) :
    (s.setSa p channel an x1).ptp = s.ptp := rfl

@[simp] theorem State.setSa_pins (s : State) (p : ℕ) (channel : ℕ) (an : ℕ) (x1 : MacsecSa) :
    (s.setSa p channel an x1).pins = s.pins := rfl

@[simp] theorem State.setSa_agent (s : State) (p : ℕ) (channel : ℕ) (an : ℕ) (x1 : MacsecSa) :
    (s.setSa p channel an x1).agent = s.agent := rfl

@[simp] theorem State.setSa_log (s : State) (p : ℕ) (channel : ℕ) (an : ℕ) (x1 : MacsecSa) :
    (s.setSa p channel an x1).log = s.log := rfl

@[simp] theorem State.setSa_mgmt (s : State) (p : ℕ) (channel : ℕ) (an : ℕ) (x1 : MacsecSa) :
    (s.setSa p channel an x1).mgmt = s.mgmt := rfl

@[simp] theorem State.setSa_mortar (s : State) (p : ℕ) (channel : ℕ) (an : ℕ) (x1 : MacsecSa) :
    (s.setSa p channel an x1).mortar = s.mortar := rfl

@[simp] theorem State.setSa_memory (s : State) (p : ℕ) (channel : ℕ) (an : ℕ) (x1 : MacsecSa) :
    (s.setSa p channel an x1).memory = s.memory := rfl

@[simp] theorem State.setSa_ports (s : State) (p : ℕ) (channel : ℕ) (an : ℕ) (x1 : MacsecSa) :
    (s.setSa p channel an x1).ports = s.ports := rfl

@[simp] theorem State.setSa_switch (s : State) (p : ℕ) (channel : ℕ) (an : ℕ) (x1 : MacsecSa) :
    (s.setSa p channel an x1).switch = s.switch := rfl

@[simp] theorem State.setSa_modeChange (s : State) (p : ℕ) (channel : ℕ) (an : ℕ) (x1 : MacsecSa) :
    (s.setSa p channel an x1).modeChange = s.modeChange := rfl

@[simp] theorem State.setSa_fwd (s : State) (p : ℕ) (channel : ℕ) (an : ℕ) (x1 : MacsecSa) :
    (s.setSa p channel an x1).fwd = s.fwd := rfl

@[simp] theorem State.setSa_wall (s : State) (p : ℕ) (channel : ℕ) (an : ℕ) (x1 : MacsecSa) :
    (s.setSa p channel an x1).wall = s.wall := rfl

@[simp] theorem State.setSa_redundancy (s : State) (p : ℕ) (channel : ℕ) (an : ℕ) (x1 : MacsecSa) :
    (s.setSa p channel an x1).redundancy = s.redundancy := rfl

@[simp] theorem State.setSa_classify (s : State) (p : ℕ) (channel : ℕ) (an : ℕ) (x1 : MacsecSa) :
    (s.setSa p channel an x1).classify = s.classify := rfl

@[simp] theorem State.setSa_trowel (s : State) (p : ℕ) (channel : ℕ) (an : ℕ) (x1 : MacsecSa) :
    (s.setSa p channel an x1).trowel = s.trowel := rfl

@[simp] theorem State.setSa_hod (s : State) (p : ℕ) (channel : ℕ) (an : ℕ) (x1 : MacsecSa) :
    (s.setSa p channel an x1).hod = s.hod := rfl

@[simp] theorem State.setSa_host (s : State) (p : ℕ) (channel : ℕ) (an : ℕ) (x1 : MacsecSa) :
    (s.setSa p channel an x1).host = s.host := rfl

@[simp] theorem State.setSa_slices (s : State) (p : ℕ) (channel : ℕ) (an : ℕ) (x1 : MacsecSa) :
    (s.setSa p channel an x1).slices = s.slices := rfl

@[simp] theorem State.setSa_storage (s : State) (p : ℕ) (channel : ℕ) (an : ℕ) (x1 : MacsecSa) :
    (s.setSa p channel an x1).storage = s.storage := rfl

@[simp] theorem State.setSa_rdma (s : State) (p : ℕ) (channel : ℕ) (an : ℕ) (x1 : MacsecSa) :
    (s.setSa p channel an x1).rdma = s.rdma := rfl

@[simp] theorem State.setSa_boot (s : State) (p : ℕ) (channel : ℕ) (an : ℕ) (x1 : MacsecSa) :
    (s.setSa p channel an x1).boot = s.boot := rfl

@[simp] theorem State.setSa_keystone (s : State) (p : ℕ) (channel : ℕ) (an : ℕ) (x1 : MacsecSa) :
    (s.setSa p channel an x1).keystone = s.keystone := rfl

@[simp] theorem State.setSa_activation (s : State) (p : ℕ) (channel : ℕ) (an : ℕ) (x1 : MacsecSa) :
    (s.setSa p channel an x1).activation = s.activation := rfl

@[simp] theorem State.setSa_service (s : State) (p : ℕ) (channel : ℕ) (an : ℕ) (x1 : MacsecSa) :
    (s.setSa p channel an x1).service = s.service := rfl

@[simp] theorem State.setSa_monitor (s : State) (p : ℕ) (channel : ℕ) (an : ℕ) (x1 : MacsecSa) :
    (s.setSa p channel an x1).monitor = s.monitor := rfl

@[simp] theorem State.setSa_package (s : State) (p : ℕ) (channel : ℕ) (an : ℕ) (x1 : MacsecSa) :
    (s.setSa p channel an x1).package = s.package := rfl

@[simp] theorem State.setSa_outputs (s : State) (p : ℕ) (channel : ℕ) (an : ℕ) (x1 : MacsecSa) :
    (s.setSa p channel an x1).outputs = s.outputs := rfl

@[simp] theorem State.setSa_freeCtr (s : State) (p : ℕ) (channel : ℕ) (an : ℕ) (x1 : MacsecSa) :
    (s.setSa p channel an x1).freeCtr = s.freeCtr := rfl

@[simp] theorem State.setSa_pending (s : State) (p : ℕ) (channel : ℕ) (an : ℕ) (x1 : MacsecSa) :
    (s.setSa p channel an x1).pending = s.pending := rfl

/-! ### State.setEsp: only `cipher` -/

@[simp] theorem State.setEsp_dict (s : State) (slot : ℕ) (x1 : EspSa) :
    (s.setEsp slot x1).dict = s.dict := rfl

@[simp] theorem State.setEsp_doms (s : State) (slot : ℕ) (x1 : EspSa) :
    (s.setEsp slot x1).doms = s.doms := rfl

@[simp] theorem State.setEsp_store (s : State) (slot : ℕ) (x1 : EspSa) :
    (s.setEsp slot x1).store = s.store := rfl

@[simp] theorem State.setEsp_storeDoms (s : State) (slot : ℕ) (x1 : EspSa) :
    (s.setEsp slot x1).storeDoms = s.storeDoms := rfl

@[simp] theorem State.setEsp_storeSets (s : State) (slot : ℕ) (x1 : EspSa) :
    (s.setEsp slot x1).storeSets = s.storeSets := rfl

@[simp] theorem State.setEsp_snapshot (s : State) (slot : ℕ) (x1 : EspSa) :
    (s.setEsp slot x1).snapshot = s.snapshot := rfl

@[simp] theorem State.setEsp_snapshotDoms (s : State) (slot : ℕ) (x1 : EspSa) :
    (s.setEsp slot x1).snapshotDoms = s.snapshotDoms := rfl

@[simp] theorem State.setEsp_timers (s : State) (slot : ℕ) (x1 : EspSa) :
    (s.setEsp slot x1).timers = s.timers := rfl

@[simp] theorem State.setEsp_clock (s : State) (slot : ℕ) (x1 : EspSa) :
    (s.setEsp slot x1).clock = s.clock := rfl

@[simp] theorem State.setEsp_servo (s : State) (slot : ℕ) (x1 : EspSa) :
    (s.setEsp slot x1).servo = s.servo := rfl

@[simp] theorem State.setEsp_detectors (s : State) (slot : ℕ) (x1 : EspSa) :
    (s.setEsp slot x1).detectors = s.detectors := rfl

@[simp] theorem State.setEsp_synce (s : State) (slot : ℕ) (x1 : EspSa) :
    (s.setEsp slot x1).synce = s.synce := rfl

@[simp] theorem State.setEsp_ptp (s : State) (slot : ℕ) (x1 : EspSa) :
    (s.setEsp slot x1).ptp = s.ptp := rfl

@[simp] theorem State.setEsp_pins (s : State) (slot : ℕ) (x1 : EspSa) :
    (s.setEsp slot x1).pins = s.pins := rfl

@[simp] theorem State.setEsp_agent (s : State) (slot : ℕ) (x1 : EspSa) :
    (s.setEsp slot x1).agent = s.agent := rfl

@[simp] theorem State.setEsp_log (s : State) (slot : ℕ) (x1 : EspSa) :
    (s.setEsp slot x1).log = s.log := rfl

@[simp] theorem State.setEsp_mgmt (s : State) (slot : ℕ) (x1 : EspSa) :
    (s.setEsp slot x1).mgmt = s.mgmt := rfl

@[simp] theorem State.setEsp_mortar (s : State) (slot : ℕ) (x1 : EspSa) :
    (s.setEsp slot x1).mortar = s.mortar := rfl

@[simp] theorem State.setEsp_memory (s : State) (slot : ℕ) (x1 : EspSa) :
    (s.setEsp slot x1).memory = s.memory := rfl

@[simp] theorem State.setEsp_ports (s : State) (slot : ℕ) (x1 : EspSa) :
    (s.setEsp slot x1).ports = s.ports := rfl

@[simp] theorem State.setEsp_switch (s : State) (slot : ℕ) (x1 : EspSa) :
    (s.setEsp slot x1).switch = s.switch := rfl

@[simp] theorem State.setEsp_modeChange (s : State) (slot : ℕ) (x1 : EspSa) :
    (s.setEsp slot x1).modeChange = s.modeChange := rfl

@[simp] theorem State.setEsp_fwd (s : State) (slot : ℕ) (x1 : EspSa) :
    (s.setEsp slot x1).fwd = s.fwd := rfl

@[simp] theorem State.setEsp_wall (s : State) (slot : ℕ) (x1 : EspSa) :
    (s.setEsp slot x1).wall = s.wall := rfl

@[simp] theorem State.setEsp_redundancy (s : State) (slot : ℕ) (x1 : EspSa) :
    (s.setEsp slot x1).redundancy = s.redundancy := rfl

@[simp] theorem State.setEsp_classify (s : State) (slot : ℕ) (x1 : EspSa) :
    (s.setEsp slot x1).classify = s.classify := rfl

@[simp] theorem State.setEsp_trowel (s : State) (slot : ℕ) (x1 : EspSa) :
    (s.setEsp slot x1).trowel = s.trowel := rfl

@[simp] theorem State.setEsp_hod (s : State) (slot : ℕ) (x1 : EspSa) :
    (s.setEsp slot x1).hod = s.hod := rfl

@[simp] theorem State.setEsp_host (s : State) (slot : ℕ) (x1 : EspSa) :
    (s.setEsp slot x1).host = s.host := rfl

@[simp] theorem State.setEsp_slices (s : State) (slot : ℕ) (x1 : EspSa) :
    (s.setEsp slot x1).slices = s.slices := rfl

@[simp] theorem State.setEsp_storage (s : State) (slot : ℕ) (x1 : EspSa) :
    (s.setEsp slot x1).storage = s.storage := rfl

@[simp] theorem State.setEsp_rdma (s : State) (slot : ℕ) (x1 : EspSa) :
    (s.setEsp slot x1).rdma = s.rdma := rfl

@[simp] theorem State.setEsp_boot (s : State) (slot : ℕ) (x1 : EspSa) :
    (s.setEsp slot x1).boot = s.boot := rfl

@[simp] theorem State.setEsp_keystone (s : State) (slot : ℕ) (x1 : EspSa) :
    (s.setEsp slot x1).keystone = s.keystone := rfl

@[simp] theorem State.setEsp_activation (s : State) (slot : ℕ) (x1 : EspSa) :
    (s.setEsp slot x1).activation = s.activation := rfl

@[simp] theorem State.setEsp_service (s : State) (slot : ℕ) (x1 : EspSa) :
    (s.setEsp slot x1).service = s.service := rfl

@[simp] theorem State.setEsp_monitor (s : State) (slot : ℕ) (x1 : EspSa) :
    (s.setEsp slot x1).monitor = s.monitor := rfl

@[simp] theorem State.setEsp_package (s : State) (slot : ℕ) (x1 : EspSa) :
    (s.setEsp slot x1).package = s.package := rfl

@[simp] theorem State.setEsp_outputs (s : State) (slot : ℕ) (x1 : EspSa) :
    (s.setEsp slot x1).outputs = s.outputs := rfl

@[simp] theorem State.setEsp_freeCtr (s : State) (slot : ℕ) (x1 : EspSa) :
    (s.setEsp slot x1).freeCtr = s.freeCtr := rfl

@[simp] theorem State.setEsp_pending (s : State) (slot : ℕ) (x1 : EspSa) :
    (s.setEsp slot x1).pending = s.pending := rfl

/-! ### State.setTernary: only `classify` -/

@[simp] theorem State.setTernary_dict (s : State) (t1 : ℕ) (x1 : Ternary) :
    (s.setTernary t1 x1).dict = s.dict := rfl

@[simp] theorem State.setTernary_doms (s : State) (t1 : ℕ) (x1 : Ternary) :
    (s.setTernary t1 x1).doms = s.doms := rfl

@[simp] theorem State.setTernary_store (s : State) (t1 : ℕ) (x1 : Ternary) :
    (s.setTernary t1 x1).store = s.store := rfl

@[simp] theorem State.setTernary_storeDoms (s : State) (t1 : ℕ) (x1 : Ternary) :
    (s.setTernary t1 x1).storeDoms = s.storeDoms := rfl

@[simp] theorem State.setTernary_storeSets (s : State) (t1 : ℕ) (x1 : Ternary) :
    (s.setTernary t1 x1).storeSets = s.storeSets := rfl

@[simp] theorem State.setTernary_snapshot (s : State) (t1 : ℕ) (x1 : Ternary) :
    (s.setTernary t1 x1).snapshot = s.snapshot := rfl

@[simp] theorem State.setTernary_snapshotDoms (s : State) (t1 : ℕ) (x1 : Ternary) :
    (s.setTernary t1 x1).snapshotDoms = s.snapshotDoms := rfl

@[simp] theorem State.setTernary_timers (s : State) (t1 : ℕ) (x1 : Ternary) :
    (s.setTernary t1 x1).timers = s.timers := rfl

@[simp] theorem State.setTernary_clock (s : State) (t1 : ℕ) (x1 : Ternary) :
    (s.setTernary t1 x1).clock = s.clock := rfl

@[simp] theorem State.setTernary_servo (s : State) (t1 : ℕ) (x1 : Ternary) :
    (s.setTernary t1 x1).servo = s.servo := rfl

@[simp] theorem State.setTernary_detectors (s : State) (t1 : ℕ) (x1 : Ternary) :
    (s.setTernary t1 x1).detectors = s.detectors := rfl

@[simp] theorem State.setTernary_synce (s : State) (t1 : ℕ) (x1 : Ternary) :
    (s.setTernary t1 x1).synce = s.synce := rfl

@[simp] theorem State.setTernary_ptp (s : State) (t1 : ℕ) (x1 : Ternary) :
    (s.setTernary t1 x1).ptp = s.ptp := rfl

@[simp] theorem State.setTernary_pins (s : State) (t1 : ℕ) (x1 : Ternary) :
    (s.setTernary t1 x1).pins = s.pins := rfl

@[simp] theorem State.setTernary_agent (s : State) (t1 : ℕ) (x1 : Ternary) :
    (s.setTernary t1 x1).agent = s.agent := rfl

@[simp] theorem State.setTernary_log (s : State) (t1 : ℕ) (x1 : Ternary) :
    (s.setTernary t1 x1).log = s.log := rfl

@[simp] theorem State.setTernary_mgmt (s : State) (t1 : ℕ) (x1 : Ternary) :
    (s.setTernary t1 x1).mgmt = s.mgmt := rfl

@[simp] theorem State.setTernary_mortar (s : State) (t1 : ℕ) (x1 : Ternary) :
    (s.setTernary t1 x1).mortar = s.mortar := rfl

@[simp] theorem State.setTernary_memory (s : State) (t1 : ℕ) (x1 : Ternary) :
    (s.setTernary t1 x1).memory = s.memory := rfl

@[simp] theorem State.setTernary_ports (s : State) (t1 : ℕ) (x1 : Ternary) :
    (s.setTernary t1 x1).ports = s.ports := rfl

@[simp] theorem State.setTernary_switch (s : State) (t1 : ℕ) (x1 : Ternary) :
    (s.setTernary t1 x1).switch = s.switch := rfl

@[simp] theorem State.setTernary_modeChange (s : State) (t1 : ℕ) (x1 : Ternary) :
    (s.setTernary t1 x1).modeChange = s.modeChange := rfl

@[simp] theorem State.setTernary_fwd (s : State) (t1 : ℕ) (x1 : Ternary) :
    (s.setTernary t1 x1).fwd = s.fwd := rfl

@[simp] theorem State.setTernary_wall (s : State) (t1 : ℕ) (x1 : Ternary) :
    (s.setTernary t1 x1).wall = s.wall := rfl

@[simp] theorem State.setTernary_redundancy (s : State) (t1 : ℕ) (x1 : Ternary) :
    (s.setTernary t1 x1).redundancy = s.redundancy := rfl

@[simp] theorem State.setTernary_trowel (s : State) (t1 : ℕ) (x1 : Ternary) :
    (s.setTernary t1 x1).trowel = s.trowel := rfl

@[simp] theorem State.setTernary_cipher (s : State) (t1 : ℕ) (x1 : Ternary) :
    (s.setTernary t1 x1).cipher = s.cipher := rfl

@[simp] theorem State.setTernary_hod (s : State) (t1 : ℕ) (x1 : Ternary) :
    (s.setTernary t1 x1).hod = s.hod := rfl

@[simp] theorem State.setTernary_host (s : State) (t1 : ℕ) (x1 : Ternary) :
    (s.setTernary t1 x1).host = s.host := rfl

@[simp] theorem State.setTernary_slices (s : State) (t1 : ℕ) (x1 : Ternary) :
    (s.setTernary t1 x1).slices = s.slices := rfl

@[simp] theorem State.setTernary_storage (s : State) (t1 : ℕ) (x1 : Ternary) :
    (s.setTernary t1 x1).storage = s.storage := rfl

@[simp] theorem State.setTernary_rdma (s : State) (t1 : ℕ) (x1 : Ternary) :
    (s.setTernary t1 x1).rdma = s.rdma := rfl

@[simp] theorem State.setTernary_boot (s : State) (t1 : ℕ) (x1 : Ternary) :
    (s.setTernary t1 x1).boot = s.boot := rfl

@[simp] theorem State.setTernary_keystone (s : State) (t1 : ℕ) (x1 : Ternary) :
    (s.setTernary t1 x1).keystone = s.keystone := rfl

@[simp] theorem State.setTernary_activation (s : State) (t1 : ℕ) (x1 : Ternary) :
    (s.setTernary t1 x1).activation = s.activation := rfl

@[simp] theorem State.setTernary_service (s : State) (t1 : ℕ) (x1 : Ternary) :
    (s.setTernary t1 x1).service = s.service := rfl

@[simp] theorem State.setTernary_monitor (s : State) (t1 : ℕ) (x1 : Ternary) :
    (s.setTernary t1 x1).monitor = s.monitor := rfl

@[simp] theorem State.setTernary_package (s : State) (t1 : ℕ) (x1 : Ternary) :
    (s.setTernary t1 x1).package = s.package := rfl

@[simp] theorem State.setTernary_outputs (s : State) (t1 : ℕ) (x1 : Ternary) :
    (s.setTernary t1 x1).outputs = s.outputs := rfl

@[simp] theorem State.setTernary_freeCtr (s : State) (t1 : ℕ) (x1 : Ternary) :
    (s.setTernary t1 x1).freeCtr = s.freeCtr := rfl

@[simp] theorem State.setTernary_pending (s : State) (t1 : ℕ) (x1 : Ternary) :
    (s.setTernary t1 x1).pending = s.pending := rfl

/-! ### State.setExact: only `classify` -/

@[simp] theorem State.setExact_dict (s : State) (x1 : ℕ) (e1 : Exact) :
    (s.setExact x1 e1).dict = s.dict := rfl

@[simp] theorem State.setExact_doms (s : State) (x1 : ℕ) (e1 : Exact) :
    (s.setExact x1 e1).doms = s.doms := rfl

@[simp] theorem State.setExact_store (s : State) (x1 : ℕ) (e1 : Exact) :
    (s.setExact x1 e1).store = s.store := rfl

@[simp] theorem State.setExact_storeDoms (s : State) (x1 : ℕ) (e1 : Exact) :
    (s.setExact x1 e1).storeDoms = s.storeDoms := rfl

@[simp] theorem State.setExact_storeSets (s : State) (x1 : ℕ) (e1 : Exact) :
    (s.setExact x1 e1).storeSets = s.storeSets := rfl

@[simp] theorem State.setExact_snapshot (s : State) (x1 : ℕ) (e1 : Exact) :
    (s.setExact x1 e1).snapshot = s.snapshot := rfl

@[simp] theorem State.setExact_snapshotDoms (s : State) (x1 : ℕ) (e1 : Exact) :
    (s.setExact x1 e1).snapshotDoms = s.snapshotDoms := rfl

@[simp] theorem State.setExact_timers (s : State) (x1 : ℕ) (e1 : Exact) :
    (s.setExact x1 e1).timers = s.timers := rfl

@[simp] theorem State.setExact_clock (s : State) (x1 : ℕ) (e1 : Exact) :
    (s.setExact x1 e1).clock = s.clock := rfl

@[simp] theorem State.setExact_servo (s : State) (x1 : ℕ) (e1 : Exact) :
    (s.setExact x1 e1).servo = s.servo := rfl

@[simp] theorem State.setExact_detectors (s : State) (x1 : ℕ) (e1 : Exact) :
    (s.setExact x1 e1).detectors = s.detectors := rfl

@[simp] theorem State.setExact_synce (s : State) (x1 : ℕ) (e1 : Exact) :
    (s.setExact x1 e1).synce = s.synce := rfl

@[simp] theorem State.setExact_ptp (s : State) (x1 : ℕ) (e1 : Exact) :
    (s.setExact x1 e1).ptp = s.ptp := rfl

@[simp] theorem State.setExact_pins (s : State) (x1 : ℕ) (e1 : Exact) :
    (s.setExact x1 e1).pins = s.pins := rfl

@[simp] theorem State.setExact_agent (s : State) (x1 : ℕ) (e1 : Exact) :
    (s.setExact x1 e1).agent = s.agent := rfl

@[simp] theorem State.setExact_log (s : State) (x1 : ℕ) (e1 : Exact) :
    (s.setExact x1 e1).log = s.log := rfl

@[simp] theorem State.setExact_mgmt (s : State) (x1 : ℕ) (e1 : Exact) :
    (s.setExact x1 e1).mgmt = s.mgmt := rfl

@[simp] theorem State.setExact_mortar (s : State) (x1 : ℕ) (e1 : Exact) :
    (s.setExact x1 e1).mortar = s.mortar := rfl

@[simp] theorem State.setExact_memory (s : State) (x1 : ℕ) (e1 : Exact) :
    (s.setExact x1 e1).memory = s.memory := rfl

@[simp] theorem State.setExact_ports (s : State) (x1 : ℕ) (e1 : Exact) :
    (s.setExact x1 e1).ports = s.ports := rfl

@[simp] theorem State.setExact_switch (s : State) (x1 : ℕ) (e1 : Exact) :
    (s.setExact x1 e1).switch = s.switch := rfl

@[simp] theorem State.setExact_modeChange (s : State) (x1 : ℕ) (e1 : Exact) :
    (s.setExact x1 e1).modeChange = s.modeChange := rfl

@[simp] theorem State.setExact_fwd (s : State) (x1 : ℕ) (e1 : Exact) :
    (s.setExact x1 e1).fwd = s.fwd := rfl

@[simp] theorem State.setExact_wall (s : State) (x1 : ℕ) (e1 : Exact) :
    (s.setExact x1 e1).wall = s.wall := rfl

@[simp] theorem State.setExact_redundancy (s : State) (x1 : ℕ) (e1 : Exact) :
    (s.setExact x1 e1).redundancy = s.redundancy := rfl

@[simp] theorem State.setExact_trowel (s : State) (x1 : ℕ) (e1 : Exact) :
    (s.setExact x1 e1).trowel = s.trowel := rfl

@[simp] theorem State.setExact_cipher (s : State) (x1 : ℕ) (e1 : Exact) :
    (s.setExact x1 e1).cipher = s.cipher := rfl

@[simp] theorem State.setExact_hod (s : State) (x1 : ℕ) (e1 : Exact) :
    (s.setExact x1 e1).hod = s.hod := rfl

@[simp] theorem State.setExact_host (s : State) (x1 : ℕ) (e1 : Exact) :
    (s.setExact x1 e1).host = s.host := rfl

@[simp] theorem State.setExact_slices (s : State) (x1 : ℕ) (e1 : Exact) :
    (s.setExact x1 e1).slices = s.slices := rfl

@[simp] theorem State.setExact_storage (s : State) (x1 : ℕ) (e1 : Exact) :
    (s.setExact x1 e1).storage = s.storage := rfl

@[simp] theorem State.setExact_rdma (s : State) (x1 : ℕ) (e1 : Exact) :
    (s.setExact x1 e1).rdma = s.rdma := rfl

@[simp] theorem State.setExact_boot (s : State) (x1 : ℕ) (e1 : Exact) :
    (s.setExact x1 e1).boot = s.boot := rfl

@[simp] theorem State.setExact_keystone (s : State) (x1 : ℕ) (e1 : Exact) :
    (s.setExact x1 e1).keystone = s.keystone := rfl

@[simp] theorem State.setExact_activation (s : State) (x1 : ℕ) (e1 : Exact) :
    (s.setExact x1 e1).activation = s.activation := rfl

@[simp] theorem State.setExact_service (s : State) (x1 : ℕ) (e1 : Exact) :
    (s.setExact x1 e1).service = s.service := rfl

@[simp] theorem State.setExact_monitor (s : State) (x1 : ℕ) (e1 : Exact) :
    (s.setExact x1 e1).monitor = s.monitor := rfl

@[simp] theorem State.setExact_package (s : State) (x1 : ℕ) (e1 : Exact) :
    (s.setExact x1 e1).package = s.package := rfl

@[simp] theorem State.setExact_outputs (s : State) (x1 : ℕ) (e1 : Exact) :
    (s.setExact x1 e1).outputs = s.outputs := rfl

@[simp] theorem State.setExact_freeCtr (s : State) (x1 : ℕ) (e1 : Exact) :
    (s.setExact x1 e1).freeCtr = s.freeCtr := rfl

@[simp] theorem State.setExact_pending (s : State) (x1 : ℕ) (e1 : Exact) :
    (s.setExact x1 e1).pending = s.pending := rfl

/-! ### State.setPolicer: only `switch` -/

@[simp] theorem State.setPolicer_dict (s : State) (i : ℕ) (x1 : Policer) :
    (s.setPolicer i x1).dict = s.dict := rfl

@[simp] theorem State.setPolicer_doms (s : State) (i : ℕ) (x1 : Policer) :
    (s.setPolicer i x1).doms = s.doms := rfl

@[simp] theorem State.setPolicer_store (s : State) (i : ℕ) (x1 : Policer) :
    (s.setPolicer i x1).store = s.store := rfl

@[simp] theorem State.setPolicer_storeDoms (s : State) (i : ℕ) (x1 : Policer) :
    (s.setPolicer i x1).storeDoms = s.storeDoms := rfl

@[simp] theorem State.setPolicer_storeSets (s : State) (i : ℕ) (x1 : Policer) :
    (s.setPolicer i x1).storeSets = s.storeSets := rfl

@[simp] theorem State.setPolicer_snapshot (s : State) (i : ℕ) (x1 : Policer) :
    (s.setPolicer i x1).snapshot = s.snapshot := rfl

@[simp] theorem State.setPolicer_snapshotDoms (s : State) (i : ℕ) (x1 : Policer) :
    (s.setPolicer i x1).snapshotDoms = s.snapshotDoms := rfl

@[simp] theorem State.setPolicer_timers (s : State) (i : ℕ) (x1 : Policer) :
    (s.setPolicer i x1).timers = s.timers := rfl

@[simp] theorem State.setPolicer_clock (s : State) (i : ℕ) (x1 : Policer) :
    (s.setPolicer i x1).clock = s.clock := rfl

@[simp] theorem State.setPolicer_servo (s : State) (i : ℕ) (x1 : Policer) :
    (s.setPolicer i x1).servo = s.servo := rfl

@[simp] theorem State.setPolicer_detectors (s : State) (i : ℕ) (x1 : Policer) :
    (s.setPolicer i x1).detectors = s.detectors := rfl

@[simp] theorem State.setPolicer_synce (s : State) (i : ℕ) (x1 : Policer) :
    (s.setPolicer i x1).synce = s.synce := rfl

@[simp] theorem State.setPolicer_ptp (s : State) (i : ℕ) (x1 : Policer) :
    (s.setPolicer i x1).ptp = s.ptp := rfl

@[simp] theorem State.setPolicer_pins (s : State) (i : ℕ) (x1 : Policer) :
    (s.setPolicer i x1).pins = s.pins := rfl

@[simp] theorem State.setPolicer_agent (s : State) (i : ℕ) (x1 : Policer) :
    (s.setPolicer i x1).agent = s.agent := rfl

@[simp] theorem State.setPolicer_log (s : State) (i : ℕ) (x1 : Policer) :
    (s.setPolicer i x1).log = s.log := rfl

@[simp] theorem State.setPolicer_mgmt (s : State) (i : ℕ) (x1 : Policer) :
    (s.setPolicer i x1).mgmt = s.mgmt := rfl

@[simp] theorem State.setPolicer_mortar (s : State) (i : ℕ) (x1 : Policer) :
    (s.setPolicer i x1).mortar = s.mortar := rfl

@[simp] theorem State.setPolicer_memory (s : State) (i : ℕ) (x1 : Policer) :
    (s.setPolicer i x1).memory = s.memory := rfl

@[simp] theorem State.setPolicer_ports (s : State) (i : ℕ) (x1 : Policer) :
    (s.setPolicer i x1).ports = s.ports := rfl

@[simp] theorem State.setPolicer_modeChange (s : State) (i : ℕ) (x1 : Policer) :
    (s.setPolicer i x1).modeChange = s.modeChange := rfl

@[simp] theorem State.setPolicer_fwd (s : State) (i : ℕ) (x1 : Policer) :
    (s.setPolicer i x1).fwd = s.fwd := rfl

@[simp] theorem State.setPolicer_wall (s : State) (i : ℕ) (x1 : Policer) :
    (s.setPolicer i x1).wall = s.wall := rfl

@[simp] theorem State.setPolicer_redundancy (s : State) (i : ℕ) (x1 : Policer) :
    (s.setPolicer i x1).redundancy = s.redundancy := rfl

@[simp] theorem State.setPolicer_classify (s : State) (i : ℕ) (x1 : Policer) :
    (s.setPolicer i x1).classify = s.classify := rfl

@[simp] theorem State.setPolicer_trowel (s : State) (i : ℕ) (x1 : Policer) :
    (s.setPolicer i x1).trowel = s.trowel := rfl

@[simp] theorem State.setPolicer_cipher (s : State) (i : ℕ) (x1 : Policer) :
    (s.setPolicer i x1).cipher = s.cipher := rfl

@[simp] theorem State.setPolicer_hod (s : State) (i : ℕ) (x1 : Policer) :
    (s.setPolicer i x1).hod = s.hod := rfl

@[simp] theorem State.setPolicer_host (s : State) (i : ℕ) (x1 : Policer) :
    (s.setPolicer i x1).host = s.host := rfl

@[simp] theorem State.setPolicer_slices (s : State) (i : ℕ) (x1 : Policer) :
    (s.setPolicer i x1).slices = s.slices := rfl

@[simp] theorem State.setPolicer_storage (s : State) (i : ℕ) (x1 : Policer) :
    (s.setPolicer i x1).storage = s.storage := rfl

@[simp] theorem State.setPolicer_rdma (s : State) (i : ℕ) (x1 : Policer) :
    (s.setPolicer i x1).rdma = s.rdma := rfl

@[simp] theorem State.setPolicer_boot (s : State) (i : ℕ) (x1 : Policer) :
    (s.setPolicer i x1).boot = s.boot := rfl

@[simp] theorem State.setPolicer_keystone (s : State) (i : ℕ) (x1 : Policer) :
    (s.setPolicer i x1).keystone = s.keystone := rfl

@[simp] theorem State.setPolicer_activation (s : State) (i : ℕ) (x1 : Policer) :
    (s.setPolicer i x1).activation = s.activation := rfl

@[simp] theorem State.setPolicer_service (s : State) (i : ℕ) (x1 : Policer) :
    (s.setPolicer i x1).service = s.service := rfl

@[simp] theorem State.setPolicer_monitor (s : State) (i : ℕ) (x1 : Policer) :
    (s.setPolicer i x1).monitor = s.monitor := rfl

@[simp] theorem State.setPolicer_package (s : State) (i : ℕ) (x1 : Policer) :
    (s.setPolicer i x1).package = s.package := rfl

@[simp] theorem State.setPolicer_outputs (s : State) (i : ℕ) (x1 : Policer) :
    (s.setPolicer i x1).outputs = s.outputs := rfl

@[simp] theorem State.setPolicer_freeCtr (s : State) (i : ℕ) (x1 : Policer) :
    (s.setPolicer i x1).freeCtr = s.freeCtr := rfl

@[simp] theorem State.setPolicer_pending (s : State) (i : ℕ) (x1 : Policer) :
    (s.setPolicer i x1).pending = s.pending := rfl

/-! ### State.setPipe: only `trowel` -/

@[simp] theorem State.setPipe_dict (s : State) (q1 : ℕ) (x1 : Pipe) :
    (s.setPipe q1 x1).dict = s.dict := rfl

@[simp] theorem State.setPipe_doms (s : State) (q1 : ℕ) (x1 : Pipe) :
    (s.setPipe q1 x1).doms = s.doms := rfl

@[simp] theorem State.setPipe_store (s : State) (q1 : ℕ) (x1 : Pipe) :
    (s.setPipe q1 x1).store = s.store := rfl

@[simp] theorem State.setPipe_storeDoms (s : State) (q1 : ℕ) (x1 : Pipe) :
    (s.setPipe q1 x1).storeDoms = s.storeDoms := rfl

@[simp] theorem State.setPipe_storeSets (s : State) (q1 : ℕ) (x1 : Pipe) :
    (s.setPipe q1 x1).storeSets = s.storeSets := rfl

@[simp] theorem State.setPipe_snapshot (s : State) (q1 : ℕ) (x1 : Pipe) :
    (s.setPipe q1 x1).snapshot = s.snapshot := rfl

@[simp] theorem State.setPipe_snapshotDoms (s : State) (q1 : ℕ) (x1 : Pipe) :
    (s.setPipe q1 x1).snapshotDoms = s.snapshotDoms := rfl

@[simp] theorem State.setPipe_timers (s : State) (q1 : ℕ) (x1 : Pipe) :
    (s.setPipe q1 x1).timers = s.timers := rfl

@[simp] theorem State.setPipe_clock (s : State) (q1 : ℕ) (x1 : Pipe) :
    (s.setPipe q1 x1).clock = s.clock := rfl

@[simp] theorem State.setPipe_servo (s : State) (q1 : ℕ) (x1 : Pipe) :
    (s.setPipe q1 x1).servo = s.servo := rfl

@[simp] theorem State.setPipe_detectors (s : State) (q1 : ℕ) (x1 : Pipe) :
    (s.setPipe q1 x1).detectors = s.detectors := rfl

@[simp] theorem State.setPipe_synce (s : State) (q1 : ℕ) (x1 : Pipe) :
    (s.setPipe q1 x1).synce = s.synce := rfl

@[simp] theorem State.setPipe_ptp (s : State) (q1 : ℕ) (x1 : Pipe) :
    (s.setPipe q1 x1).ptp = s.ptp := rfl

@[simp] theorem State.setPipe_pins (s : State) (q1 : ℕ) (x1 : Pipe) :
    (s.setPipe q1 x1).pins = s.pins := rfl

@[simp] theorem State.setPipe_agent (s : State) (q1 : ℕ) (x1 : Pipe) :
    (s.setPipe q1 x1).agent = s.agent := rfl

@[simp] theorem State.setPipe_log (s : State) (q1 : ℕ) (x1 : Pipe) :
    (s.setPipe q1 x1).log = s.log := rfl

@[simp] theorem State.setPipe_mgmt (s : State) (q1 : ℕ) (x1 : Pipe) :
    (s.setPipe q1 x1).mgmt = s.mgmt := rfl

@[simp] theorem State.setPipe_mortar (s : State) (q1 : ℕ) (x1 : Pipe) :
    (s.setPipe q1 x1).mortar = s.mortar := rfl

@[simp] theorem State.setPipe_memory (s : State) (q1 : ℕ) (x1 : Pipe) :
    (s.setPipe q1 x1).memory = s.memory := rfl

@[simp] theorem State.setPipe_ports (s : State) (q1 : ℕ) (x1 : Pipe) :
    (s.setPipe q1 x1).ports = s.ports := rfl

@[simp] theorem State.setPipe_switch (s : State) (q1 : ℕ) (x1 : Pipe) :
    (s.setPipe q1 x1).switch = s.switch := rfl

@[simp] theorem State.setPipe_modeChange (s : State) (q1 : ℕ) (x1 : Pipe) :
    (s.setPipe q1 x1).modeChange = s.modeChange := rfl

@[simp] theorem State.setPipe_fwd (s : State) (q1 : ℕ) (x1 : Pipe) :
    (s.setPipe q1 x1).fwd = s.fwd := rfl

@[simp] theorem State.setPipe_wall (s : State) (q1 : ℕ) (x1 : Pipe) :
    (s.setPipe q1 x1).wall = s.wall := rfl

@[simp] theorem State.setPipe_redundancy (s : State) (q1 : ℕ) (x1 : Pipe) :
    (s.setPipe q1 x1).redundancy = s.redundancy := rfl

@[simp] theorem State.setPipe_classify (s : State) (q1 : ℕ) (x1 : Pipe) :
    (s.setPipe q1 x1).classify = s.classify := rfl

@[simp] theorem State.setPipe_cipher (s : State) (q1 : ℕ) (x1 : Pipe) :
    (s.setPipe q1 x1).cipher = s.cipher := rfl

@[simp] theorem State.setPipe_hod (s : State) (q1 : ℕ) (x1 : Pipe) :
    (s.setPipe q1 x1).hod = s.hod := rfl

@[simp] theorem State.setPipe_host (s : State) (q1 : ℕ) (x1 : Pipe) :
    (s.setPipe q1 x1).host = s.host := rfl

@[simp] theorem State.setPipe_slices (s : State) (q1 : ℕ) (x1 : Pipe) :
    (s.setPipe q1 x1).slices = s.slices := rfl

@[simp] theorem State.setPipe_storage (s : State) (q1 : ℕ) (x1 : Pipe) :
    (s.setPipe q1 x1).storage = s.storage := rfl

@[simp] theorem State.setPipe_rdma (s : State) (q1 : ℕ) (x1 : Pipe) :
    (s.setPipe q1 x1).rdma = s.rdma := rfl

@[simp] theorem State.setPipe_boot (s : State) (q1 : ℕ) (x1 : Pipe) :
    (s.setPipe q1 x1).boot = s.boot := rfl

@[simp] theorem State.setPipe_keystone (s : State) (q1 : ℕ) (x1 : Pipe) :
    (s.setPipe q1 x1).keystone = s.keystone := rfl

@[simp] theorem State.setPipe_activation (s : State) (q1 : ℕ) (x1 : Pipe) :
    (s.setPipe q1 x1).activation = s.activation := rfl

@[simp] theorem State.setPipe_service (s : State) (q1 : ℕ) (x1 : Pipe) :
    (s.setPipe q1 x1).service = s.service := rfl

@[simp] theorem State.setPipe_monitor (s : State) (q1 : ℕ) (x1 : Pipe) :
    (s.setPipe q1 x1).monitor = s.monitor := rfl

@[simp] theorem State.setPipe_package (s : State) (q1 : ℕ) (x1 : Pipe) :
    (s.setPipe q1 x1).package = s.package := rfl

@[simp] theorem State.setPipe_outputs (s : State) (q1 : ℕ) (x1 : Pipe) :
    (s.setPipe q1 x1).outputs = s.outputs := rfl

@[simp] theorem State.setPipe_freeCtr (s : State) (q1 : ℕ) (x1 : Pipe) :
    (s.setPipe q1 x1).freeCtr = s.freeCtr := rfl

@[simp] theorem State.setPipe_pending (s : State) (q1 : ℕ) (x1 : Pipe) :
    (s.setPipe q1 x1).pending = s.pending := rfl

/-! ### State.setWindow: only `host` -/

@[simp] theorem State.setWindow_dict (s : State) (port : ℕ) (w : ℕ) (x1 : PeerWindow) :
    (s.setWindow port w x1).dict = s.dict := rfl

@[simp] theorem State.setWindow_doms (s : State) (port : ℕ) (w : ℕ) (x1 : PeerWindow) :
    (s.setWindow port w x1).doms = s.doms := rfl

@[simp] theorem State.setWindow_store (s : State) (port : ℕ) (w : ℕ) (x1 : PeerWindow) :
    (s.setWindow port w x1).store = s.store := rfl

@[simp] theorem State.setWindow_storeDoms (s : State) (port : ℕ) (w : ℕ) (x1 : PeerWindow) :
    (s.setWindow port w x1).storeDoms = s.storeDoms := rfl

@[simp] theorem State.setWindow_storeSets (s : State) (port : ℕ) (w : ℕ) (x1 : PeerWindow) :
    (s.setWindow port w x1).storeSets = s.storeSets := rfl

@[simp] theorem State.setWindow_snapshot (s : State) (port : ℕ) (w : ℕ) (x1 : PeerWindow) :
    (s.setWindow port w x1).snapshot = s.snapshot := rfl

@[simp] theorem State.setWindow_snapshotDoms (s : State) (port : ℕ) (w : ℕ) (x1 : PeerWindow) :
    (s.setWindow port w x1).snapshotDoms = s.snapshotDoms := rfl

@[simp] theorem State.setWindow_timers (s : State) (port : ℕ) (w : ℕ) (x1 : PeerWindow) :
    (s.setWindow port w x1).timers = s.timers := rfl

@[simp] theorem State.setWindow_clock (s : State) (port : ℕ) (w : ℕ) (x1 : PeerWindow) :
    (s.setWindow port w x1).clock = s.clock := rfl

@[simp] theorem State.setWindow_servo (s : State) (port : ℕ) (w : ℕ) (x1 : PeerWindow) :
    (s.setWindow port w x1).servo = s.servo := rfl

@[simp] theorem State.setWindow_detectors (s : State) (port : ℕ) (w : ℕ) (x1 : PeerWindow) :
    (s.setWindow port w x1).detectors = s.detectors := rfl

@[simp] theorem State.setWindow_synce (s : State) (port : ℕ) (w : ℕ) (x1 : PeerWindow) :
    (s.setWindow port w x1).synce = s.synce := rfl

@[simp] theorem State.setWindow_ptp (s : State) (port : ℕ) (w : ℕ) (x1 : PeerWindow) :
    (s.setWindow port w x1).ptp = s.ptp := rfl

@[simp] theorem State.setWindow_pins (s : State) (port : ℕ) (w : ℕ) (x1 : PeerWindow) :
    (s.setWindow port w x1).pins = s.pins := rfl

@[simp] theorem State.setWindow_agent (s : State) (port : ℕ) (w : ℕ) (x1 : PeerWindow) :
    (s.setWindow port w x1).agent = s.agent := rfl

@[simp] theorem State.setWindow_log (s : State) (port : ℕ) (w : ℕ) (x1 : PeerWindow) :
    (s.setWindow port w x1).log = s.log := rfl

@[simp] theorem State.setWindow_mgmt (s : State) (port : ℕ) (w : ℕ) (x1 : PeerWindow) :
    (s.setWindow port w x1).mgmt = s.mgmt := rfl

@[simp] theorem State.setWindow_mortar (s : State) (port : ℕ) (w : ℕ) (x1 : PeerWindow) :
    (s.setWindow port w x1).mortar = s.mortar := rfl

@[simp] theorem State.setWindow_memory (s : State) (port : ℕ) (w : ℕ) (x1 : PeerWindow) :
    (s.setWindow port w x1).memory = s.memory := rfl

@[simp] theorem State.setWindow_ports (s : State) (port : ℕ) (w : ℕ) (x1 : PeerWindow) :
    (s.setWindow port w x1).ports = s.ports := rfl

@[simp] theorem State.setWindow_switch (s : State) (port : ℕ) (w : ℕ) (x1 : PeerWindow) :
    (s.setWindow port w x1).switch = s.switch := rfl

@[simp] theorem State.setWindow_modeChange (s : State) (port : ℕ) (w : ℕ) (x1 : PeerWindow) :
    (s.setWindow port w x1).modeChange = s.modeChange := rfl

@[simp] theorem State.setWindow_fwd (s : State) (port : ℕ) (w : ℕ) (x1 : PeerWindow) :
    (s.setWindow port w x1).fwd = s.fwd := rfl

@[simp] theorem State.setWindow_wall (s : State) (port : ℕ) (w : ℕ) (x1 : PeerWindow) :
    (s.setWindow port w x1).wall = s.wall := rfl

@[simp] theorem State.setWindow_redundancy (s : State) (port : ℕ) (w : ℕ) (x1 : PeerWindow) :
    (s.setWindow port w x1).redundancy = s.redundancy := rfl

@[simp] theorem State.setWindow_classify (s : State) (port : ℕ) (w : ℕ) (x1 : PeerWindow) :
    (s.setWindow port w x1).classify = s.classify := rfl

@[simp] theorem State.setWindow_trowel (s : State) (port : ℕ) (w : ℕ) (x1 : PeerWindow) :
    (s.setWindow port w x1).trowel = s.trowel := rfl

@[simp] theorem State.setWindow_cipher (s : State) (port : ℕ) (w : ℕ) (x1 : PeerWindow) :
    (s.setWindow port w x1).cipher = s.cipher := rfl

@[simp] theorem State.setWindow_hod (s : State) (port : ℕ) (w : ℕ) (x1 : PeerWindow) :
    (s.setWindow port w x1).hod = s.hod := rfl

@[simp] theorem State.setWindow_slices (s : State) (port : ℕ) (w : ℕ) (x1 : PeerWindow) :
    (s.setWindow port w x1).slices = s.slices := rfl

@[simp] theorem State.setWindow_storage (s : State) (port : ℕ) (w : ℕ) (x1 : PeerWindow) :
    (s.setWindow port w x1).storage = s.storage := rfl

@[simp] theorem State.setWindow_rdma (s : State) (port : ℕ) (w : ℕ) (x1 : PeerWindow) :
    (s.setWindow port w x1).rdma = s.rdma := rfl

@[simp] theorem State.setWindow_boot (s : State) (port : ℕ) (w : ℕ) (x1 : PeerWindow) :
    (s.setWindow port w x1).boot = s.boot := rfl

@[simp] theorem State.setWindow_keystone (s : State) (port : ℕ) (w : ℕ) (x1 : PeerWindow) :
    (s.setWindow port w x1).keystone = s.keystone := rfl

@[simp] theorem State.setWindow_activation (s : State) (port : ℕ) (w : ℕ) (x1 : PeerWindow) :
    (s.setWindow port w x1).activation = s.activation := rfl

@[simp] theorem State.setWindow_service (s : State) (port : ℕ) (w : ℕ) (x1 : PeerWindow) :
    (s.setWindow port w x1).service = s.service := rfl

@[simp] theorem State.setWindow_monitor (s : State) (port : ℕ) (w : ℕ) (x1 : PeerWindow) :
    (s.setWindow port w x1).monitor = s.monitor := rfl

@[simp] theorem State.setWindow_package (s : State) (port : ℕ) (w : ℕ) (x1 : PeerWindow) :
    (s.setWindow port w x1).package = s.package := rfl

@[simp] theorem State.setWindow_outputs (s : State) (port : ℕ) (w : ℕ) (x1 : PeerWindow) :
    (s.setWindow port w x1).outputs = s.outputs := rfl

@[simp] theorem State.setWindow_freeCtr (s : State) (port : ℕ) (w : ℕ) (x1 : PeerWindow) :
    (s.setWindow port w x1).freeCtr = s.freeCtr := rfl

@[simp] theorem State.setWindow_pending (s : State) (port : ℕ) (w : ℕ) (x1 : PeerWindow) :
    (s.setWindow port w x1).pending = s.pending := rfl

/-! ### State.setNvq: only `storage` -/

@[simp] theorem State.setNvq_dict (s : State) (k : ℕ) (x1 : NvmeQueue) :
    (s.setNvq k x1).dict = s.dict := rfl

@[simp] theorem State.setNvq_doms (s : State) (k : ℕ) (x1 : NvmeQueue) :
    (s.setNvq k x1).doms = s.doms := rfl

@[simp] theorem State.setNvq_store (s : State) (k : ℕ) (x1 : NvmeQueue) :
    (s.setNvq k x1).store = s.store := rfl

@[simp] theorem State.setNvq_storeDoms (s : State) (k : ℕ) (x1 : NvmeQueue) :
    (s.setNvq k x1).storeDoms = s.storeDoms := rfl

@[simp] theorem State.setNvq_storeSets (s : State) (k : ℕ) (x1 : NvmeQueue) :
    (s.setNvq k x1).storeSets = s.storeSets := rfl

@[simp] theorem State.setNvq_snapshot (s : State) (k : ℕ) (x1 : NvmeQueue) :
    (s.setNvq k x1).snapshot = s.snapshot := rfl

@[simp] theorem State.setNvq_snapshotDoms (s : State) (k : ℕ) (x1 : NvmeQueue) :
    (s.setNvq k x1).snapshotDoms = s.snapshotDoms := rfl

@[simp] theorem State.setNvq_timers (s : State) (k : ℕ) (x1 : NvmeQueue) :
    (s.setNvq k x1).timers = s.timers := rfl

@[simp] theorem State.setNvq_clock (s : State) (k : ℕ) (x1 : NvmeQueue) :
    (s.setNvq k x1).clock = s.clock := rfl

@[simp] theorem State.setNvq_servo (s : State) (k : ℕ) (x1 : NvmeQueue) :
    (s.setNvq k x1).servo = s.servo := rfl

@[simp] theorem State.setNvq_detectors (s : State) (k : ℕ) (x1 : NvmeQueue) :
    (s.setNvq k x1).detectors = s.detectors := rfl

@[simp] theorem State.setNvq_synce (s : State) (k : ℕ) (x1 : NvmeQueue) :
    (s.setNvq k x1).synce = s.synce := rfl

@[simp] theorem State.setNvq_ptp (s : State) (k : ℕ) (x1 : NvmeQueue) :
    (s.setNvq k x1).ptp = s.ptp := rfl

@[simp] theorem State.setNvq_pins (s : State) (k : ℕ) (x1 : NvmeQueue) :
    (s.setNvq k x1).pins = s.pins := rfl

@[simp] theorem State.setNvq_agent (s : State) (k : ℕ) (x1 : NvmeQueue) :
    (s.setNvq k x1).agent = s.agent := rfl

@[simp] theorem State.setNvq_log (s : State) (k : ℕ) (x1 : NvmeQueue) :
    (s.setNvq k x1).log = s.log := rfl

@[simp] theorem State.setNvq_mgmt (s : State) (k : ℕ) (x1 : NvmeQueue) :
    (s.setNvq k x1).mgmt = s.mgmt := rfl

@[simp] theorem State.setNvq_mortar (s : State) (k : ℕ) (x1 : NvmeQueue) :
    (s.setNvq k x1).mortar = s.mortar := rfl

@[simp] theorem State.setNvq_memory (s : State) (k : ℕ) (x1 : NvmeQueue) :
    (s.setNvq k x1).memory = s.memory := rfl

@[simp] theorem State.setNvq_ports (s : State) (k : ℕ) (x1 : NvmeQueue) :
    (s.setNvq k x1).ports = s.ports := rfl

@[simp] theorem State.setNvq_switch (s : State) (k : ℕ) (x1 : NvmeQueue) :
    (s.setNvq k x1).switch = s.switch := rfl

@[simp] theorem State.setNvq_modeChange (s : State) (k : ℕ) (x1 : NvmeQueue) :
    (s.setNvq k x1).modeChange = s.modeChange := rfl

@[simp] theorem State.setNvq_fwd (s : State) (k : ℕ) (x1 : NvmeQueue) :
    (s.setNvq k x1).fwd = s.fwd := rfl

@[simp] theorem State.setNvq_wall (s : State) (k : ℕ) (x1 : NvmeQueue) :
    (s.setNvq k x1).wall = s.wall := rfl

@[simp] theorem State.setNvq_redundancy (s : State) (k : ℕ) (x1 : NvmeQueue) :
    (s.setNvq k x1).redundancy = s.redundancy := rfl

@[simp] theorem State.setNvq_classify (s : State) (k : ℕ) (x1 : NvmeQueue) :
    (s.setNvq k x1).classify = s.classify := rfl

@[simp] theorem State.setNvq_trowel (s : State) (k : ℕ) (x1 : NvmeQueue) :
    (s.setNvq k x1).trowel = s.trowel := rfl

@[simp] theorem State.setNvq_cipher (s : State) (k : ℕ) (x1 : NvmeQueue) :
    (s.setNvq k x1).cipher = s.cipher := rfl

@[simp] theorem State.setNvq_hod (s : State) (k : ℕ) (x1 : NvmeQueue) :
    (s.setNvq k x1).hod = s.hod := rfl

@[simp] theorem State.setNvq_host (s : State) (k : ℕ) (x1 : NvmeQueue) :
    (s.setNvq k x1).host = s.host := rfl

@[simp] theorem State.setNvq_slices (s : State) (k : ℕ) (x1 : NvmeQueue) :
    (s.setNvq k x1).slices = s.slices := rfl

@[simp] theorem State.setNvq_rdma (s : State) (k : ℕ) (x1 : NvmeQueue) :
    (s.setNvq k x1).rdma = s.rdma := rfl

@[simp] theorem State.setNvq_boot (s : State) (k : ℕ) (x1 : NvmeQueue) :
    (s.setNvq k x1).boot = s.boot := rfl

@[simp] theorem State.setNvq_keystone (s : State) (k : ℕ) (x1 : NvmeQueue) :
    (s.setNvq k x1).keystone = s.keystone := rfl

@[simp] theorem State.setNvq_activation (s : State) (k : ℕ) (x1 : NvmeQueue) :
    (s.setNvq k x1).activation = s.activation := rfl

@[simp] theorem State.setNvq_service (s : State) (k : ℕ) (x1 : NvmeQueue) :
    (s.setNvq k x1).service = s.service := rfl

@[simp] theorem State.setNvq_monitor (s : State) (k : ℕ) (x1 : NvmeQueue) :
    (s.setNvq k x1).monitor = s.monitor := rfl

@[simp] theorem State.setNvq_package (s : State) (k : ℕ) (x1 : NvmeQueue) :
    (s.setNvq k x1).package = s.package := rfl

@[simp] theorem State.setNvq_outputs (s : State) (k : ℕ) (x1 : NvmeQueue) :
    (s.setNvq k x1).outputs = s.outputs := rfl

@[simp] theorem State.setNvq_freeCtr (s : State) (k : ℕ) (x1 : NvmeQueue) :
    (s.setNvq k x1).freeCtr = s.freeCtr := rfl

@[simp] theorem State.setNvq_pending (s : State) (k : ℕ) (x1 : NvmeQueue) :
    (s.setNvq k x1).pending = s.pending := rfl

/-! ### State.setCluster: only `cipher` -/

@[simp] theorem State.setCluster_dict (s : State) (t1 : ℕ) (x1 : Cluster) :
    (s.setCluster t1 x1).dict = s.dict := rfl

@[simp] theorem State.setCluster_doms (s : State) (t1 : ℕ) (x1 : Cluster) :
    (s.setCluster t1 x1).doms = s.doms := rfl

@[simp] theorem State.setCluster_store (s : State) (t1 : ℕ) (x1 : Cluster) :
    (s.setCluster t1 x1).store = s.store := rfl

@[simp] theorem State.setCluster_storeDoms (s : State) (t1 : ℕ) (x1 : Cluster) :
    (s.setCluster t1 x1).storeDoms = s.storeDoms := rfl

@[simp] theorem State.setCluster_storeSets (s : State) (t1 : ℕ) (x1 : Cluster) :
    (s.setCluster t1 x1).storeSets = s.storeSets := rfl

@[simp] theorem State.setCluster_snapshot (s : State) (t1 : ℕ) (x1 : Cluster) :
    (s.setCluster t1 x1).snapshot = s.snapshot := rfl

@[simp] theorem State.setCluster_snapshotDoms (s : State) (t1 : ℕ) (x1 : Cluster) :
    (s.setCluster t1 x1).snapshotDoms = s.snapshotDoms := rfl

@[simp] theorem State.setCluster_timers (s : State) (t1 : ℕ) (x1 : Cluster) :
    (s.setCluster t1 x1).timers = s.timers := rfl

@[simp] theorem State.setCluster_clock (s : State) (t1 : ℕ) (x1 : Cluster) :
    (s.setCluster t1 x1).clock = s.clock := rfl

@[simp] theorem State.setCluster_servo (s : State) (t1 : ℕ) (x1 : Cluster) :
    (s.setCluster t1 x1).servo = s.servo := rfl

@[simp] theorem State.setCluster_detectors (s : State) (t1 : ℕ) (x1 : Cluster) :
    (s.setCluster t1 x1).detectors = s.detectors := rfl

@[simp] theorem State.setCluster_synce (s : State) (t1 : ℕ) (x1 : Cluster) :
    (s.setCluster t1 x1).synce = s.synce := rfl

@[simp] theorem State.setCluster_ptp (s : State) (t1 : ℕ) (x1 : Cluster) :
    (s.setCluster t1 x1).ptp = s.ptp := rfl

@[simp] theorem State.setCluster_pins (s : State) (t1 : ℕ) (x1 : Cluster) :
    (s.setCluster t1 x1).pins = s.pins := rfl

@[simp] theorem State.setCluster_agent (s : State) (t1 : ℕ) (x1 : Cluster) :
    (s.setCluster t1 x1).agent = s.agent := rfl

@[simp] theorem State.setCluster_log (s : State) (t1 : ℕ) (x1 : Cluster) :
    (s.setCluster t1 x1).log = s.log := rfl

@[simp] theorem State.setCluster_mgmt (s : State) (t1 : ℕ) (x1 : Cluster) :
    (s.setCluster t1 x1).mgmt = s.mgmt := rfl

@[simp] theorem State.setCluster_mortar (s : State) (t1 : ℕ) (x1 : Cluster) :
    (s.setCluster t1 x1).mortar = s.mortar := rfl

@[simp] theorem State.setCluster_memory (s : State) (t1 : ℕ) (x1 : Cluster) :
    (s.setCluster t1 x1).memory = s.memory := rfl

@[simp] theorem State.setCluster_ports (s : State) (t1 : ℕ) (x1 : Cluster) :
    (s.setCluster t1 x1).ports = s.ports := rfl

@[simp] theorem State.setCluster_switch (s : State) (t1 : ℕ) (x1 : Cluster) :
    (s.setCluster t1 x1).switch = s.switch := rfl

@[simp] theorem State.setCluster_modeChange (s : State) (t1 : ℕ) (x1 : Cluster) :
    (s.setCluster t1 x1).modeChange = s.modeChange := rfl

@[simp] theorem State.setCluster_fwd (s : State) (t1 : ℕ) (x1 : Cluster) :
    (s.setCluster t1 x1).fwd = s.fwd := rfl

@[simp] theorem State.setCluster_wall (s : State) (t1 : ℕ) (x1 : Cluster) :
    (s.setCluster t1 x1).wall = s.wall := rfl

@[simp] theorem State.setCluster_redundancy (s : State) (t1 : ℕ) (x1 : Cluster) :
    (s.setCluster t1 x1).redundancy = s.redundancy := rfl

@[simp] theorem State.setCluster_classify (s : State) (t1 : ℕ) (x1 : Cluster) :
    (s.setCluster t1 x1).classify = s.classify := rfl

@[simp] theorem State.setCluster_trowel (s : State) (t1 : ℕ) (x1 : Cluster) :
    (s.setCluster t1 x1).trowel = s.trowel := rfl

@[simp] theorem State.setCluster_hod (s : State) (t1 : ℕ) (x1 : Cluster) :
    (s.setCluster t1 x1).hod = s.hod := rfl

@[simp] theorem State.setCluster_host (s : State) (t1 : ℕ) (x1 : Cluster) :
    (s.setCluster t1 x1).host = s.host := rfl

@[simp] theorem State.setCluster_slices (s : State) (t1 : ℕ) (x1 : Cluster) :
    (s.setCluster t1 x1).slices = s.slices := rfl

@[simp] theorem State.setCluster_storage (s : State) (t1 : ℕ) (x1 : Cluster) :
    (s.setCluster t1 x1).storage = s.storage := rfl

@[simp] theorem State.setCluster_rdma (s : State) (t1 : ℕ) (x1 : Cluster) :
    (s.setCluster t1 x1).rdma = s.rdma := rfl

@[simp] theorem State.setCluster_boot (s : State) (t1 : ℕ) (x1 : Cluster) :
    (s.setCluster t1 x1).boot = s.boot := rfl

@[simp] theorem State.setCluster_keystone (s : State) (t1 : ℕ) (x1 : Cluster) :
    (s.setCluster t1 x1).keystone = s.keystone := rfl

@[simp] theorem State.setCluster_activation (s : State) (t1 : ℕ) (x1 : Cluster) :
    (s.setCluster t1 x1).activation = s.activation := rfl

@[simp] theorem State.setCluster_service (s : State) (t1 : ℕ) (x1 : Cluster) :
    (s.setCluster t1 x1).service = s.service := rfl

@[simp] theorem State.setCluster_monitor (s : State) (t1 : ℕ) (x1 : Cluster) :
    (s.setCluster t1 x1).monitor = s.monitor := rfl

@[simp] theorem State.setCluster_package (s : State) (t1 : ℕ) (x1 : Cluster) :
    (s.setCluster t1 x1).package = s.package := rfl

@[simp] theorem State.setCluster_outputs (s : State) (t1 : ℕ) (x1 : Cluster) :
    (s.setCluster t1 x1).outputs = s.outputs := rfl

@[simp] theorem State.setCluster_freeCtr (s : State) (t1 : ℕ) (x1 : Cluster) :
    (s.setCluster t1 x1).freeCtr = s.freeCtr := rfl

@[simp] theorem State.setCluster_pending (s : State) (t1 : ℕ) (x1 : Cluster) :
    (s.setCluster t1 x1).pending = s.pending := rfl

/-! ### State.setCtrl: only `storage` -/

@[simp] theorem State.setCtrl_dict (s : State) (link : ℕ) (x1 : NvmeCtrl) :
    (s.setCtrl link x1).dict = s.dict := rfl

@[simp] theorem State.setCtrl_doms (s : State) (link : ℕ) (x1 : NvmeCtrl) :
    (s.setCtrl link x1).doms = s.doms := rfl

@[simp] theorem State.setCtrl_store (s : State) (link : ℕ) (x1 : NvmeCtrl) :
    (s.setCtrl link x1).store = s.store := rfl

@[simp] theorem State.setCtrl_storeDoms (s : State) (link : ℕ) (x1 : NvmeCtrl) :
    (s.setCtrl link x1).storeDoms = s.storeDoms := rfl

@[simp] theorem State.setCtrl_storeSets (s : State) (link : ℕ) (x1 : NvmeCtrl) :
    (s.setCtrl link x1).storeSets = s.storeSets := rfl

@[simp] theorem State.setCtrl_snapshot (s : State) (link : ℕ) (x1 : NvmeCtrl) :
    (s.setCtrl link x1).snapshot = s.snapshot := rfl

@[simp] theorem State.setCtrl_snapshotDoms (s : State) (link : ℕ) (x1 : NvmeCtrl) :
    (s.setCtrl link x1).snapshotDoms = s.snapshotDoms := rfl

@[simp] theorem State.setCtrl_timers (s : State) (link : ℕ) (x1 : NvmeCtrl) :
    (s.setCtrl link x1).timers = s.timers := rfl

@[simp] theorem State.setCtrl_clock (s : State) (link : ℕ) (x1 : NvmeCtrl) :
    (s.setCtrl link x1).clock = s.clock := rfl

@[simp] theorem State.setCtrl_servo (s : State) (link : ℕ) (x1 : NvmeCtrl) :
    (s.setCtrl link x1).servo = s.servo := rfl

@[simp] theorem State.setCtrl_detectors (s : State) (link : ℕ) (x1 : NvmeCtrl) :
    (s.setCtrl link x1).detectors = s.detectors := rfl

@[simp] theorem State.setCtrl_synce (s : State) (link : ℕ) (x1 : NvmeCtrl) :
    (s.setCtrl link x1).synce = s.synce := rfl

@[simp] theorem State.setCtrl_ptp (s : State) (link : ℕ) (x1 : NvmeCtrl) :
    (s.setCtrl link x1).ptp = s.ptp := rfl

@[simp] theorem State.setCtrl_pins (s : State) (link : ℕ) (x1 : NvmeCtrl) :
    (s.setCtrl link x1).pins = s.pins := rfl

@[simp] theorem State.setCtrl_agent (s : State) (link : ℕ) (x1 : NvmeCtrl) :
    (s.setCtrl link x1).agent = s.agent := rfl

@[simp] theorem State.setCtrl_log (s : State) (link : ℕ) (x1 : NvmeCtrl) :
    (s.setCtrl link x1).log = s.log := rfl

@[simp] theorem State.setCtrl_mgmt (s : State) (link : ℕ) (x1 : NvmeCtrl) :
    (s.setCtrl link x1).mgmt = s.mgmt := rfl

@[simp] theorem State.setCtrl_mortar (s : State) (link : ℕ) (x1 : NvmeCtrl) :
    (s.setCtrl link x1).mortar = s.mortar := rfl

@[simp] theorem State.setCtrl_memory (s : State) (link : ℕ) (x1 : NvmeCtrl) :
    (s.setCtrl link x1).memory = s.memory := rfl

@[simp] theorem State.setCtrl_ports (s : State) (link : ℕ) (x1 : NvmeCtrl) :
    (s.setCtrl link x1).ports = s.ports := rfl

@[simp] theorem State.setCtrl_switch (s : State) (link : ℕ) (x1 : NvmeCtrl) :
    (s.setCtrl link x1).switch = s.switch := rfl

@[simp] theorem State.setCtrl_modeChange (s : State) (link : ℕ) (x1 : NvmeCtrl) :
    (s.setCtrl link x1).modeChange = s.modeChange := rfl

@[simp] theorem State.setCtrl_fwd (s : State) (link : ℕ) (x1 : NvmeCtrl) :
    (s.setCtrl link x1).fwd = s.fwd := rfl

@[simp] theorem State.setCtrl_wall (s : State) (link : ℕ) (x1 : NvmeCtrl) :
    (s.setCtrl link x1).wall = s.wall := rfl

@[simp] theorem State.setCtrl_redundancy (s : State) (link : ℕ) (x1 : NvmeCtrl) :
    (s.setCtrl link x1).redundancy = s.redundancy := rfl

@[simp] theorem State.setCtrl_classify (s : State) (link : ℕ) (x1 : NvmeCtrl) :
    (s.setCtrl link x1).classify = s.classify := rfl

@[simp] theorem State.setCtrl_trowel (s : State) (link : ℕ) (x1 : NvmeCtrl) :
    (s.setCtrl link x1).trowel = s.trowel := rfl

@[simp] theorem State.setCtrl_cipher (s : State) (link : ℕ) (x1 : NvmeCtrl) :
    (s.setCtrl link x1).cipher = s.cipher := rfl

@[simp] theorem State.setCtrl_hod (s : State) (link : ℕ) (x1 : NvmeCtrl) :
    (s.setCtrl link x1).hod = s.hod := rfl

@[simp] theorem State.setCtrl_host (s : State) (link : ℕ) (x1 : NvmeCtrl) :
    (s.setCtrl link x1).host = s.host := rfl

@[simp] theorem State.setCtrl_slices (s : State) (link : ℕ) (x1 : NvmeCtrl) :
    (s.setCtrl link x1).slices = s.slices := rfl

@[simp] theorem State.setCtrl_rdma (s : State) (link : ℕ) (x1 : NvmeCtrl) :
    (s.setCtrl link x1).rdma = s.rdma := rfl

@[simp] theorem State.setCtrl_boot (s : State) (link : ℕ) (x1 : NvmeCtrl) :
    (s.setCtrl link x1).boot = s.boot := rfl

@[simp] theorem State.setCtrl_keystone (s : State) (link : ℕ) (x1 : NvmeCtrl) :
    (s.setCtrl link x1).keystone = s.keystone := rfl

@[simp] theorem State.setCtrl_activation (s : State) (link : ℕ) (x1 : NvmeCtrl) :
    (s.setCtrl link x1).activation = s.activation := rfl

@[simp] theorem State.setCtrl_service (s : State) (link : ℕ) (x1 : NvmeCtrl) :
    (s.setCtrl link x1).service = s.service := rfl

@[simp] theorem State.setCtrl_monitor (s : State) (link : ℕ) (x1 : NvmeCtrl) :
    (s.setCtrl link x1).monitor = s.monitor := rfl

@[simp] theorem State.setCtrl_package (s : State) (link : ℕ) (x1 : NvmeCtrl) :
    (s.setCtrl link x1).package = s.package := rfl

@[simp] theorem State.setCtrl_outputs (s : State) (link : ℕ) (x1 : NvmeCtrl) :
    (s.setCtrl link x1).outputs = s.outputs := rfl

@[simp] theorem State.setCtrl_freeCtr (s : State) (link : ℕ) (x1 : NvmeCtrl) :
    (s.setCtrl link x1).freeCtr = s.freeCtr := rfl

@[simp] theorem State.setCtrl_pending (s : State) (link : ℕ) (x1 : NvmeCtrl) :
    (s.setCtrl link x1).pending = s.pending := rfl

/-! ### State.setNspace: only `storage` -/

@[simp] theorem State.setNspace_dict (s : State) (n : ℕ) (x1 : Namespace) :
    (s.setNspace n x1).dict = s.dict := rfl

@[simp] theorem State.setNspace_doms (s : State) (n : ℕ) (x1 : Namespace) :
    (s.setNspace n x1).doms = s.doms := rfl

@[simp] theorem State.setNspace_store (s : State) (n : ℕ) (x1 : Namespace) :
    (s.setNspace n x1).store = s.store := rfl

@[simp] theorem State.setNspace_storeDoms (s : State) (n : ℕ) (x1 : Namespace) :
    (s.setNspace n x1).storeDoms = s.storeDoms := rfl

@[simp] theorem State.setNspace_storeSets (s : State) (n : ℕ) (x1 : Namespace) :
    (s.setNspace n x1).storeSets = s.storeSets := rfl

@[simp] theorem State.setNspace_snapshot (s : State) (n : ℕ) (x1 : Namespace) :
    (s.setNspace n x1).snapshot = s.snapshot := rfl

@[simp] theorem State.setNspace_snapshotDoms (s : State) (n : ℕ) (x1 : Namespace) :
    (s.setNspace n x1).snapshotDoms = s.snapshotDoms := rfl

@[simp] theorem State.setNspace_timers (s : State) (n : ℕ) (x1 : Namespace) :
    (s.setNspace n x1).timers = s.timers := rfl

@[simp] theorem State.setNspace_clock (s : State) (n : ℕ) (x1 : Namespace) :
    (s.setNspace n x1).clock = s.clock := rfl

@[simp] theorem State.setNspace_servo (s : State) (n : ℕ) (x1 : Namespace) :
    (s.setNspace n x1).servo = s.servo := rfl

@[simp] theorem State.setNspace_detectors (s : State) (n : ℕ) (x1 : Namespace) :
    (s.setNspace n x1).detectors = s.detectors := rfl

@[simp] theorem State.setNspace_synce (s : State) (n : ℕ) (x1 : Namespace) :
    (s.setNspace n x1).synce = s.synce := rfl

@[simp] theorem State.setNspace_ptp (s : State) (n : ℕ) (x1 : Namespace) :
    (s.setNspace n x1).ptp = s.ptp := rfl

@[simp] theorem State.setNspace_pins (s : State) (n : ℕ) (x1 : Namespace) :
    (s.setNspace n x1).pins = s.pins := rfl

@[simp] theorem State.setNspace_agent (s : State) (n : ℕ) (x1 : Namespace) :
    (s.setNspace n x1).agent = s.agent := rfl

@[simp] theorem State.setNspace_log (s : State) (n : ℕ) (x1 : Namespace) :
    (s.setNspace n x1).log = s.log := rfl

@[simp] theorem State.setNspace_mgmt (s : State) (n : ℕ) (x1 : Namespace) :
    (s.setNspace n x1).mgmt = s.mgmt := rfl

@[simp] theorem State.setNspace_mortar (s : State) (n : ℕ) (x1 : Namespace) :
    (s.setNspace n x1).mortar = s.mortar := rfl

@[simp] theorem State.setNspace_memory (s : State) (n : ℕ) (x1 : Namespace) :
    (s.setNspace n x1).memory = s.memory := rfl

@[simp] theorem State.setNspace_ports (s : State) (n : ℕ) (x1 : Namespace) :
    (s.setNspace n x1).ports = s.ports := rfl

@[simp] theorem State.setNspace_switch (s : State) (n : ℕ) (x1 : Namespace) :
    (s.setNspace n x1).switch = s.switch := rfl

@[simp] theorem State.setNspace_modeChange (s : State) (n : ℕ) (x1 : Namespace) :
    (s.setNspace n x1).modeChange = s.modeChange := rfl

@[simp] theorem State.setNspace_fwd (s : State) (n : ℕ) (x1 : Namespace) :
    (s.setNspace n x1).fwd = s.fwd := rfl

@[simp] theorem State.setNspace_wall (s : State) (n : ℕ) (x1 : Namespace) :
    (s.setNspace n x1).wall = s.wall := rfl

@[simp] theorem State.setNspace_redundancy (s : State) (n : ℕ) (x1 : Namespace) :
    (s.setNspace n x1).redundancy = s.redundancy := rfl

@[simp] theorem State.setNspace_classify (s : State) (n : ℕ) (x1 : Namespace) :
    (s.setNspace n x1).classify = s.classify := rfl

@[simp] theorem State.setNspace_trowel (s : State) (n : ℕ) (x1 : Namespace) :
    (s.setNspace n x1).trowel = s.trowel := rfl

@[simp] theorem State.setNspace_cipher (s : State) (n : ℕ) (x1 : Namespace) :
    (s.setNspace n x1).cipher = s.cipher := rfl

@[simp] theorem State.setNspace_hod (s : State) (n : ℕ) (x1 : Namespace) :
    (s.setNspace n x1).hod = s.hod := rfl

@[simp] theorem State.setNspace_host (s : State) (n : ℕ) (x1 : Namespace) :
    (s.setNspace n x1).host = s.host := rfl

@[simp] theorem State.setNspace_slices (s : State) (n : ℕ) (x1 : Namespace) :
    (s.setNspace n x1).slices = s.slices := rfl

@[simp] theorem State.setNspace_rdma (s : State) (n : ℕ) (x1 : Namespace) :
    (s.setNspace n x1).rdma = s.rdma := rfl

@[simp] theorem State.setNspace_boot (s : State) (n : ℕ) (x1 : Namespace) :
    (s.setNspace n x1).boot = s.boot := rfl

@[simp] theorem State.setNspace_keystone (s : State) (n : ℕ) (x1 : Namespace) :
    (s.setNspace n x1).keystone = s.keystone := rfl

@[simp] theorem State.setNspace_activation (s : State) (n : ℕ) (x1 : Namespace) :
    (s.setNspace n x1).activation = s.activation := rfl

@[simp] theorem State.setNspace_service (s : State) (n : ℕ) (x1 : Namespace) :
    (s.setNspace n x1).service = s.service := rfl

@[simp] theorem State.setNspace_monitor (s : State) (n : ℕ) (x1 : Namespace) :
    (s.setNspace n x1).monitor = s.monitor := rfl

@[simp] theorem State.setNspace_package (s : State) (n : ℕ) (x1 : Namespace) :
    (s.setNspace n x1).package = s.package := rfl

@[simp] theorem State.setNspace_outputs (s : State) (n : ℕ) (x1 : Namespace) :
    (s.setNspace n x1).outputs = s.outputs := rfl

@[simp] theorem State.setNspace_freeCtr (s : State) (n : ℕ) (x1 : Namespace) :
    (s.setNspace n x1).freeCtr = s.freeCtr := rfl

@[simp] theorem State.setNspace_pending (s : State) (n : ℕ) (x1 : Namespace) :
    (s.setNspace n x1).pending = s.pending := rfl

/-! ### State.nsCount: only `storage` -/

@[simp] theorem State.nsCount_dict (s : State) (n : ℕ) (i : ℕ) (k : ℕ) :
    (s.nsCount n i k).dict = s.dict := rfl

@[simp] theorem State.nsCount_doms (s : State) (n : ℕ) (i : ℕ) (k : ℕ) :
    (s.nsCount n i k).doms = s.doms := rfl

@[simp] theorem State.nsCount_store (s : State) (n : ℕ) (i : ℕ) (k : ℕ) :
    (s.nsCount n i k).store = s.store := rfl

@[simp] theorem State.nsCount_storeDoms (s : State) (n : ℕ) (i : ℕ) (k : ℕ) :
    (s.nsCount n i k).storeDoms = s.storeDoms := rfl

@[simp] theorem State.nsCount_storeSets (s : State) (n : ℕ) (i : ℕ) (k : ℕ) :
    (s.nsCount n i k).storeSets = s.storeSets := rfl

@[simp] theorem State.nsCount_snapshot (s : State) (n : ℕ) (i : ℕ) (k : ℕ) :
    (s.nsCount n i k).snapshot = s.snapshot := rfl

@[simp] theorem State.nsCount_snapshotDoms (s : State) (n : ℕ) (i : ℕ) (k : ℕ) :
    (s.nsCount n i k).snapshotDoms = s.snapshotDoms := rfl

@[simp] theorem State.nsCount_timers (s : State) (n : ℕ) (i : ℕ) (k : ℕ) :
    (s.nsCount n i k).timers = s.timers := rfl

@[simp] theorem State.nsCount_clock (s : State) (n : ℕ) (i : ℕ) (k : ℕ) :
    (s.nsCount n i k).clock = s.clock := rfl

@[simp] theorem State.nsCount_servo (s : State) (n : ℕ) (i : ℕ) (k : ℕ) :
    (s.nsCount n i k).servo = s.servo := rfl

@[simp] theorem State.nsCount_detectors (s : State) (n : ℕ) (i : ℕ) (k : ℕ) :
    (s.nsCount n i k).detectors = s.detectors := rfl

@[simp] theorem State.nsCount_synce (s : State) (n : ℕ) (i : ℕ) (k : ℕ) :
    (s.nsCount n i k).synce = s.synce := rfl

@[simp] theorem State.nsCount_ptp (s : State) (n : ℕ) (i : ℕ) (k : ℕ) :
    (s.nsCount n i k).ptp = s.ptp := rfl

@[simp] theorem State.nsCount_pins (s : State) (n : ℕ) (i : ℕ) (k : ℕ) :
    (s.nsCount n i k).pins = s.pins := rfl

@[simp] theorem State.nsCount_agent (s : State) (n : ℕ) (i : ℕ) (k : ℕ) :
    (s.nsCount n i k).agent = s.agent := rfl

@[simp] theorem State.nsCount_log (s : State) (n : ℕ) (i : ℕ) (k : ℕ) :
    (s.nsCount n i k).log = s.log := rfl

@[simp] theorem State.nsCount_mgmt (s : State) (n : ℕ) (i : ℕ) (k : ℕ) :
    (s.nsCount n i k).mgmt = s.mgmt := rfl

@[simp] theorem State.nsCount_mortar (s : State) (n : ℕ) (i : ℕ) (k : ℕ) :
    (s.nsCount n i k).mortar = s.mortar := rfl

@[simp] theorem State.nsCount_memory (s : State) (n : ℕ) (i : ℕ) (k : ℕ) :
    (s.nsCount n i k).memory = s.memory := rfl

@[simp] theorem State.nsCount_ports (s : State) (n : ℕ) (i : ℕ) (k : ℕ) :
    (s.nsCount n i k).ports = s.ports := rfl

@[simp] theorem State.nsCount_switch (s : State) (n : ℕ) (i : ℕ) (k : ℕ) :
    (s.nsCount n i k).switch = s.switch := rfl

@[simp] theorem State.nsCount_modeChange (s : State) (n : ℕ) (i : ℕ) (k : ℕ) :
    (s.nsCount n i k).modeChange = s.modeChange := rfl

@[simp] theorem State.nsCount_fwd (s : State) (n : ℕ) (i : ℕ) (k : ℕ) :
    (s.nsCount n i k).fwd = s.fwd := rfl

@[simp] theorem State.nsCount_wall (s : State) (n : ℕ) (i : ℕ) (k : ℕ) :
    (s.nsCount n i k).wall = s.wall := rfl

@[simp] theorem State.nsCount_redundancy (s : State) (n : ℕ) (i : ℕ) (k : ℕ) :
    (s.nsCount n i k).redundancy = s.redundancy := rfl

@[simp] theorem State.nsCount_classify (s : State) (n : ℕ) (i : ℕ) (k : ℕ) :
    (s.nsCount n i k).classify = s.classify := rfl

@[simp] theorem State.nsCount_trowel (s : State) (n : ℕ) (i : ℕ) (k : ℕ) :
    (s.nsCount n i k).trowel = s.trowel := rfl

@[simp] theorem State.nsCount_cipher (s : State) (n : ℕ) (i : ℕ) (k : ℕ) :
    (s.nsCount n i k).cipher = s.cipher := rfl

@[simp] theorem State.nsCount_hod (s : State) (n : ℕ) (i : ℕ) (k : ℕ) :
    (s.nsCount n i k).hod = s.hod := rfl

@[simp] theorem State.nsCount_host (s : State) (n : ℕ) (i : ℕ) (k : ℕ) :
    (s.nsCount n i k).host = s.host := rfl

@[simp] theorem State.nsCount_slices (s : State) (n : ℕ) (i : ℕ) (k : ℕ) :
    (s.nsCount n i k).slices = s.slices := rfl

@[simp] theorem State.nsCount_rdma (s : State) (n : ℕ) (i : ℕ) (k : ℕ) :
    (s.nsCount n i k).rdma = s.rdma := rfl

@[simp] theorem State.nsCount_boot (s : State) (n : ℕ) (i : ℕ) (k : ℕ) :
    (s.nsCount n i k).boot = s.boot := rfl

@[simp] theorem State.nsCount_keystone (s : State) (n : ℕ) (i : ℕ) (k : ℕ) :
    (s.nsCount n i k).keystone = s.keystone := rfl

@[simp] theorem State.nsCount_activation (s : State) (n : ℕ) (i : ℕ) (k : ℕ) :
    (s.nsCount n i k).activation = s.activation := rfl

@[simp] theorem State.nsCount_service (s : State) (n : ℕ) (i : ℕ) (k : ℕ) :
    (s.nsCount n i k).service = s.service := rfl

@[simp] theorem State.nsCount_monitor (s : State) (n : ℕ) (i : ℕ) (k : ℕ) :
    (s.nsCount n i k).monitor = s.monitor := rfl

@[simp] theorem State.nsCount_package (s : State) (n : ℕ) (i : ℕ) (k : ℕ) :
    (s.nsCount n i k).package = s.package := rfl

@[simp] theorem State.nsCount_outputs (s : State) (n : ℕ) (i : ℕ) (k : ℕ) :
    (s.nsCount n i k).outputs = s.outputs := rfl

@[simp] theorem State.nsCount_freeCtr (s : State) (n : ℕ) (i : ℕ) (k : ℕ) :
    (s.nsCount n i k).freeCtr = s.freeCtr := rfl

@[simp] theorem State.nsCount_pending (s : State) (n : ℕ) (i : ℕ) (k : ℕ) :
    (s.nsCount n i k).pending = s.pending := rfl

/-! ### State.setNvCmd: only `storage` -/

@[simp] theorem State.setNvCmd_dict (s : State) (c : NvmeCmd) :
    (s.setNvCmd c).dict = s.dict := rfl

@[simp] theorem State.setNvCmd_doms (s : State) (c : NvmeCmd) :
    (s.setNvCmd c).doms = s.doms := rfl

@[simp] theorem State.setNvCmd_store (s : State) (c : NvmeCmd) :
    (s.setNvCmd c).store = s.store := rfl

@[simp] theorem State.setNvCmd_storeDoms (s : State) (c : NvmeCmd) :
    (s.setNvCmd c).storeDoms = s.storeDoms := rfl

@[simp] theorem State.setNvCmd_storeSets (s : State) (c : NvmeCmd) :
    (s.setNvCmd c).storeSets = s.storeSets := rfl

@[simp] theorem State.setNvCmd_snapshot (s : State) (c : NvmeCmd) :
    (s.setNvCmd c).snapshot = s.snapshot := rfl

@[simp] theorem State.setNvCmd_snapshotDoms (s : State) (c : NvmeCmd) :
    (s.setNvCmd c).snapshotDoms = s.snapshotDoms := rfl

@[simp] theorem State.setNvCmd_timers (s : State) (c : NvmeCmd) :
    (s.setNvCmd c).timers = s.timers := rfl

@[simp] theorem State.setNvCmd_clock (s : State) (c : NvmeCmd) :
    (s.setNvCmd c).clock = s.clock := rfl

@[simp] theorem State.setNvCmd_servo (s : State) (c : NvmeCmd) :
    (s.setNvCmd c).servo = s.servo := rfl

@[simp] theorem State.setNvCmd_detectors (s : State) (c : NvmeCmd) :
    (s.setNvCmd c).detectors = s.detectors := rfl

@[simp] theorem State.setNvCmd_synce (s : State) (c : NvmeCmd) :
    (s.setNvCmd c).synce = s.synce := rfl

@[simp] theorem State.setNvCmd_ptp (s : State) (c : NvmeCmd) :
    (s.setNvCmd c).ptp = s.ptp := rfl

@[simp] theorem State.setNvCmd_pins (s : State) (c : NvmeCmd) :
    (s.setNvCmd c).pins = s.pins := rfl

@[simp] theorem State.setNvCmd_agent (s : State) (c : NvmeCmd) :
    (s.setNvCmd c).agent = s.agent := rfl

@[simp] theorem State.setNvCmd_log (s : State) (c : NvmeCmd) :
    (s.setNvCmd c).log = s.log := rfl

@[simp] theorem State.setNvCmd_mgmt (s : State) (c : NvmeCmd) :
    (s.setNvCmd c).mgmt = s.mgmt := rfl

@[simp] theorem State.setNvCmd_mortar (s : State) (c : NvmeCmd) :
    (s.setNvCmd c).mortar = s.mortar := rfl

@[simp] theorem State.setNvCmd_memory (s : State) (c : NvmeCmd) :
    (s.setNvCmd c).memory = s.memory := rfl

@[simp] theorem State.setNvCmd_ports (s : State) (c : NvmeCmd) :
    (s.setNvCmd c).ports = s.ports := rfl

@[simp] theorem State.setNvCmd_switch (s : State) (c : NvmeCmd) :
    (s.setNvCmd c).switch = s.switch := rfl

@[simp] theorem State.setNvCmd_modeChange (s : State) (c : NvmeCmd) :
    (s.setNvCmd c).modeChange = s.modeChange := rfl

@[simp] theorem State.setNvCmd_fwd (s : State) (c : NvmeCmd) :
    (s.setNvCmd c).fwd = s.fwd := rfl

@[simp] theorem State.setNvCmd_wall (s : State) (c : NvmeCmd) :
    (s.setNvCmd c).wall = s.wall := rfl

@[simp] theorem State.setNvCmd_redundancy (s : State) (c : NvmeCmd) :
    (s.setNvCmd c).redundancy = s.redundancy := rfl

@[simp] theorem State.setNvCmd_classify (s : State) (c : NvmeCmd) :
    (s.setNvCmd c).classify = s.classify := rfl

@[simp] theorem State.setNvCmd_trowel (s : State) (c : NvmeCmd) :
    (s.setNvCmd c).trowel = s.trowel := rfl

@[simp] theorem State.setNvCmd_cipher (s : State) (c : NvmeCmd) :
    (s.setNvCmd c).cipher = s.cipher := rfl

@[simp] theorem State.setNvCmd_hod (s : State) (c : NvmeCmd) :
    (s.setNvCmd c).hod = s.hod := rfl

@[simp] theorem State.setNvCmd_host (s : State) (c : NvmeCmd) :
    (s.setNvCmd c).host = s.host := rfl

@[simp] theorem State.setNvCmd_slices (s : State) (c : NvmeCmd) :
    (s.setNvCmd c).slices = s.slices := rfl

@[simp] theorem State.setNvCmd_rdma (s : State) (c : NvmeCmd) :
    (s.setNvCmd c).rdma = s.rdma := rfl

@[simp] theorem State.setNvCmd_boot (s : State) (c : NvmeCmd) :
    (s.setNvCmd c).boot = s.boot := rfl

@[simp] theorem State.setNvCmd_keystone (s : State) (c : NvmeCmd) :
    (s.setNvCmd c).keystone = s.keystone := rfl

@[simp] theorem State.setNvCmd_activation (s : State) (c : NvmeCmd) :
    (s.setNvCmd c).activation = s.activation := rfl

@[simp] theorem State.setNvCmd_service (s : State) (c : NvmeCmd) :
    (s.setNvCmd c).service = s.service := rfl

@[simp] theorem State.setNvCmd_monitor (s : State) (c : NvmeCmd) :
    (s.setNvCmd c).monitor = s.monitor := rfl

@[simp] theorem State.setNvCmd_package (s : State) (c : NvmeCmd) :
    (s.setNvCmd c).package = s.package := rfl

@[simp] theorem State.setNvCmd_outputs (s : State) (c : NvmeCmd) :
    (s.setNvCmd c).outputs = s.outputs := rfl

@[simp] theorem State.setNvCmd_freeCtr (s : State) (c : NvmeCmd) :
    (s.setNvCmd c).freeCtr = s.freeCtr := rfl

@[simp] theorem State.setNvCmd_pending (s : State) (c : NvmeCmd) :
    (s.setNvCmd c).pending = s.pending := rfl

/-! ### State.setRqp: only `rdma` -/

@[simp] theorem State.setRqp_dict (s : State) (n : ℕ) (x1 : RdmaQp) :
    (s.setRqp n x1).dict = s.dict := rfl

@[simp] theorem State.setRqp_doms (s : State) (n : ℕ) (x1 : RdmaQp) :
    (s.setRqp n x1).doms = s.doms := rfl

@[simp] theorem State.setRqp_store (s : State) (n : ℕ) (x1 : RdmaQp) :
    (s.setRqp n x1).store = s.store := rfl

@[simp] theorem State.setRqp_storeDoms (s : State) (n : ℕ) (x1 : RdmaQp) :
    (s.setRqp n x1).storeDoms = s.storeDoms := rfl

@[simp] theorem State.setRqp_storeSets (s : State) (n : ℕ) (x1 : RdmaQp) :
    (s.setRqp n x1).storeSets = s.storeSets := rfl

@[simp] theorem State.setRqp_snapshot (s : State) (n : ℕ) (x1 : RdmaQp) :
    (s.setRqp n x1).snapshot = s.snapshot := rfl

@[simp] theorem State.setRqp_snapshotDoms (s : State) (n : ℕ) (x1 : RdmaQp) :
    (s.setRqp n x1).snapshotDoms = s.snapshotDoms := rfl

@[simp] theorem State.setRqp_timers (s : State) (n : ℕ) (x1 : RdmaQp) :
    (s.setRqp n x1).timers = s.timers := rfl

@[simp] theorem State.setRqp_clock (s : State) (n : ℕ) (x1 : RdmaQp) :
    (s.setRqp n x1).clock = s.clock := rfl

@[simp] theorem State.setRqp_servo (s : State) (n : ℕ) (x1 : RdmaQp) :
    (s.setRqp n x1).servo = s.servo := rfl

@[simp] theorem State.setRqp_detectors (s : State) (n : ℕ) (x1 : RdmaQp) :
    (s.setRqp n x1).detectors = s.detectors := rfl

@[simp] theorem State.setRqp_synce (s : State) (n : ℕ) (x1 : RdmaQp) :
    (s.setRqp n x1).synce = s.synce := rfl

@[simp] theorem State.setRqp_ptp (s : State) (n : ℕ) (x1 : RdmaQp) :
    (s.setRqp n x1).ptp = s.ptp := rfl

@[simp] theorem State.setRqp_pins (s : State) (n : ℕ) (x1 : RdmaQp) :
    (s.setRqp n x1).pins = s.pins := rfl

@[simp] theorem State.setRqp_agent (s : State) (n : ℕ) (x1 : RdmaQp) :
    (s.setRqp n x1).agent = s.agent := rfl

@[simp] theorem State.setRqp_log (s : State) (n : ℕ) (x1 : RdmaQp) :
    (s.setRqp n x1).log = s.log := rfl

@[simp] theorem State.setRqp_mgmt (s : State) (n : ℕ) (x1 : RdmaQp) :
    (s.setRqp n x1).mgmt = s.mgmt := rfl

@[simp] theorem State.setRqp_mortar (s : State) (n : ℕ) (x1 : RdmaQp) :
    (s.setRqp n x1).mortar = s.mortar := rfl

@[simp] theorem State.setRqp_memory (s : State) (n : ℕ) (x1 : RdmaQp) :
    (s.setRqp n x1).memory = s.memory := rfl

@[simp] theorem State.setRqp_ports (s : State) (n : ℕ) (x1 : RdmaQp) :
    (s.setRqp n x1).ports = s.ports := rfl

@[simp] theorem State.setRqp_switch (s : State) (n : ℕ) (x1 : RdmaQp) :
    (s.setRqp n x1).switch = s.switch := rfl

@[simp] theorem State.setRqp_modeChange (s : State) (n : ℕ) (x1 : RdmaQp) :
    (s.setRqp n x1).modeChange = s.modeChange := rfl

@[simp] theorem State.setRqp_fwd (s : State) (n : ℕ) (x1 : RdmaQp) :
    (s.setRqp n x1).fwd = s.fwd := rfl

@[simp] theorem State.setRqp_wall (s : State) (n : ℕ) (x1 : RdmaQp) :
    (s.setRqp n x1).wall = s.wall := rfl

@[simp] theorem State.setRqp_redundancy (s : State) (n : ℕ) (x1 : RdmaQp) :
    (s.setRqp n x1).redundancy = s.redundancy := rfl

@[simp] theorem State.setRqp_classify (s : State) (n : ℕ) (x1 : RdmaQp) :
    (s.setRqp n x1).classify = s.classify := rfl

@[simp] theorem State.setRqp_trowel (s : State) (n : ℕ) (x1 : RdmaQp) :
    (s.setRqp n x1).trowel = s.trowel := rfl

@[simp] theorem State.setRqp_cipher (s : State) (n : ℕ) (x1 : RdmaQp) :
    (s.setRqp n x1).cipher = s.cipher := rfl

@[simp] theorem State.setRqp_hod (s : State) (n : ℕ) (x1 : RdmaQp) :
    (s.setRqp n x1).hod = s.hod := rfl

@[simp] theorem State.setRqp_host (s : State) (n : ℕ) (x1 : RdmaQp) :
    (s.setRqp n x1).host = s.host := rfl

@[simp] theorem State.setRqp_slices (s : State) (n : ℕ) (x1 : RdmaQp) :
    (s.setRqp n x1).slices = s.slices := rfl

@[simp] theorem State.setRqp_storage (s : State) (n : ℕ) (x1 : RdmaQp) :
    (s.setRqp n x1).storage = s.storage := rfl

@[simp] theorem State.setRqp_boot (s : State) (n : ℕ) (x1 : RdmaQp) :
    (s.setRqp n x1).boot = s.boot := rfl

@[simp] theorem State.setRqp_keystone (s : State) (n : ℕ) (x1 : RdmaQp) :
    (s.setRqp n x1).keystone = s.keystone := rfl

@[simp] theorem State.setRqp_activation (s : State) (n : ℕ) (x1 : RdmaQp) :
    (s.setRqp n x1).activation = s.activation := rfl

@[simp] theorem State.setRqp_service (s : State) (n : ℕ) (x1 : RdmaQp) :
    (s.setRqp n x1).service = s.service := rfl

@[simp] theorem State.setRqp_monitor (s : State) (n : ℕ) (x1 : RdmaQp) :
    (s.setRqp n x1).monitor = s.monitor := rfl

@[simp] theorem State.setRqp_package (s : State) (n : ℕ) (x1 : RdmaQp) :
    (s.setRqp n x1).package = s.package := rfl

@[simp] theorem State.setRqp_outputs (s : State) (n : ℕ) (x1 : RdmaQp) :
    (s.setRqp n x1).outputs = s.outputs := rfl

@[simp] theorem State.setRqp_freeCtr (s : State) (n : ℕ) (x1 : RdmaQp) :
    (s.setRqp n x1).freeCtr = s.freeCtr := rfl

@[simp] theorem State.setRqp_pending (s : State) (n : ℕ) (x1 : RdmaQp) :
    (s.setRqp n x1).pending = s.pending := rfl

/-! ### State.setPacing: only `rdma` -/

@[simp] theorem State.setPacing_dict (s : State) (n : ℕ) (x1 : Pacing) :
    (s.setPacing n x1).dict = s.dict := rfl

@[simp] theorem State.setPacing_doms (s : State) (n : ℕ) (x1 : Pacing) :
    (s.setPacing n x1).doms = s.doms := rfl

@[simp] theorem State.setPacing_store (s : State) (n : ℕ) (x1 : Pacing) :
    (s.setPacing n x1).store = s.store := rfl

@[simp] theorem State.setPacing_storeDoms (s : State) (n : ℕ) (x1 : Pacing) :
    (s.setPacing n x1).storeDoms = s.storeDoms := rfl

@[simp] theorem State.setPacing_storeSets (s : State) (n : ℕ) (x1 : Pacing) :
    (s.setPacing n x1).storeSets = s.storeSets := rfl

@[simp] theorem State.setPacing_snapshot (s : State) (n : ℕ) (x1 : Pacing) :
    (s.setPacing n x1).snapshot = s.snapshot := rfl

@[simp] theorem State.setPacing_snapshotDoms (s : State) (n : ℕ) (x1 : Pacing) :
    (s.setPacing n x1).snapshotDoms = s.snapshotDoms := rfl

@[simp] theorem State.setPacing_timers (s : State) (n : ℕ) (x1 : Pacing) :
    (s.setPacing n x1).timers = s.timers := rfl

@[simp] theorem State.setPacing_clock (s : State) (n : ℕ) (x1 : Pacing) :
    (s.setPacing n x1).clock = s.clock := rfl

@[simp] theorem State.setPacing_servo (s : State) (n : ℕ) (x1 : Pacing) :
    (s.setPacing n x1).servo = s.servo := rfl

@[simp] theorem State.setPacing_detectors (s : State) (n : ℕ) (x1 : Pacing) :
    (s.setPacing n x1).detectors = s.detectors := rfl

@[simp] theorem State.setPacing_synce (s : State) (n : ℕ) (x1 : Pacing) :
    (s.setPacing n x1).synce = s.synce := rfl

@[simp] theorem State.setPacing_ptp (s : State) (n : ℕ) (x1 : Pacing) :
    (s.setPacing n x1).ptp = s.ptp := rfl

@[simp] theorem State.setPacing_pins (s : State) (n : ℕ) (x1 : Pacing) :
    (s.setPacing n x1).pins = s.pins := rfl

@[simp] theorem State.setPacing_agent (s : State) (n : ℕ) (x1 : Pacing) :
    (s.setPacing n x1).agent = s.agent := rfl

@[simp] theorem State.setPacing_log (s : State) (n : ℕ) (x1 : Pacing) :
    (s.setPacing n x1).log = s.log := rfl

@[simp] theorem State.setPacing_mgmt (s : State) (n : ℕ) (x1 : Pacing) :
    (s.setPacing n x1).mgmt = s.mgmt := rfl

@[simp] theorem State.setPacing_mortar (s : State) (n : ℕ) (x1 : Pacing) :
    (s.setPacing n x1).mortar = s.mortar := rfl

@[simp] theorem State.setPacing_memory (s : State) (n : ℕ) (x1 : Pacing) :
    (s.setPacing n x1).memory = s.memory := rfl

@[simp] theorem State.setPacing_ports (s : State) (n : ℕ) (x1 : Pacing) :
    (s.setPacing n x1).ports = s.ports := rfl

@[simp] theorem State.setPacing_switch (s : State) (n : ℕ) (x1 : Pacing) :
    (s.setPacing n x1).switch = s.switch := rfl

@[simp] theorem State.setPacing_modeChange (s : State) (n : ℕ) (x1 : Pacing) :
    (s.setPacing n x1).modeChange = s.modeChange := rfl

@[simp] theorem State.setPacing_fwd (s : State) (n : ℕ) (x1 : Pacing) :
    (s.setPacing n x1).fwd = s.fwd := rfl

@[simp] theorem State.setPacing_wall (s : State) (n : ℕ) (x1 : Pacing) :
    (s.setPacing n x1).wall = s.wall := rfl

@[simp] theorem State.setPacing_redundancy (s : State) (n : ℕ) (x1 : Pacing) :
    (s.setPacing n x1).redundancy = s.redundancy := rfl

@[simp] theorem State.setPacing_classify (s : State) (n : ℕ) (x1 : Pacing) :
    (s.setPacing n x1).classify = s.classify := rfl

@[simp] theorem State.setPacing_trowel (s : State) (n : ℕ) (x1 : Pacing) :
    (s.setPacing n x1).trowel = s.trowel := rfl

@[simp] theorem State.setPacing_cipher (s : State) (n : ℕ) (x1 : Pacing) :
    (s.setPacing n x1).cipher = s.cipher := rfl

@[simp] theorem State.setPacing_hod (s : State) (n : ℕ) (x1 : Pacing) :
    (s.setPacing n x1).hod = s.hod := rfl

@[simp] theorem State.setPacing_host (s : State) (n : ℕ) (x1 : Pacing) :
    (s.setPacing n x1).host = s.host := rfl

@[simp] theorem State.setPacing_slices (s : State) (n : ℕ) (x1 : Pacing) :
    (s.setPacing n x1).slices = s.slices := rfl

@[simp] theorem State.setPacing_storage (s : State) (n : ℕ) (x1 : Pacing) :
    (s.setPacing n x1).storage = s.storage := rfl

@[simp] theorem State.setPacing_boot (s : State) (n : ℕ) (x1 : Pacing) :
    (s.setPacing n x1).boot = s.boot := rfl

@[simp] theorem State.setPacing_keystone (s : State) (n : ℕ) (x1 : Pacing) :
    (s.setPacing n x1).keystone = s.keystone := rfl

@[simp] theorem State.setPacing_activation (s : State) (n : ℕ) (x1 : Pacing) :
    (s.setPacing n x1).activation = s.activation := rfl

@[simp] theorem State.setPacing_service (s : State) (n : ℕ) (x1 : Pacing) :
    (s.setPacing n x1).service = s.service := rfl

@[simp] theorem State.setPacing_monitor (s : State) (n : ℕ) (x1 : Pacing) :
    (s.setPacing n x1).monitor = s.monitor := rfl

@[simp] theorem State.setPacing_package (s : State) (n : ℕ) (x1 : Pacing) :
    (s.setPacing n x1).package = s.package := rfl

@[simp] theorem State.setPacing_outputs (s : State) (n : ℕ) (x1 : Pacing) :
    (s.setPacing n x1).outputs = s.outputs := rfl

@[simp] theorem State.setPacing_freeCtr (s : State) (n : ℕ) (x1 : Pacing) :
    (s.setPacing n x1).freeCtr = s.freeCtr := rfl

@[simp] theorem State.setPacing_pending (s : State) (n : ℕ) (x1 : Pacing) :
    (s.setPacing n x1).pending = s.pending := rfl

/-! ### State.setRcq: only `rdma` -/

@[simp] theorem State.setRcq_dict (s : State) (n : ℕ) (x1 : RdmaCq) :
    (s.setRcq n x1).dict = s.dict := rfl

@[simp] theorem State.setRcq_doms (s : State) (n : ℕ) (x1 : RdmaCq) :
    (s.setRcq n x1).doms = s.doms := rfl

@[simp] theorem State.setRcq_store (s : State) (n : ℕ) (x1 : RdmaCq) :
    (s.setRcq n x1).store = s.store := rfl

@[simp] theorem State.setRcq_storeDoms (s : State) (n : ℕ) (x1 : RdmaCq) :
    (s.setRcq n x1).storeDoms = s.storeDoms := rfl

@[simp] theorem State.setRcq_storeSets (s : State) (n : ℕ) (x1 : RdmaCq) :
    (s.setRcq n x1).storeSets = s.storeSets := rfl

@[simp] theorem State.setRcq_snapshot (s : State) (n : ℕ) (x1 : RdmaCq) :
    (s.setRcq n x1).snapshot = s.snapshot := rfl

@[simp] theorem State.setRcq_snapshotDoms (s : State) (n : ℕ) (x1 : RdmaCq) :
    (s.setRcq n x1).snapshotDoms = s.snapshotDoms := rfl

@[simp] theorem State.setRcq_timers (s : State) (n : ℕ) (x1 : RdmaCq) :
    (s.setRcq n x1).timers = s.timers := rfl

@[simp] theorem State.setRcq_clock (s : State) (n : ℕ) (x1 : RdmaCq) :
    (s.setRcq n x1).clock = s.clock := rfl

@[simp] theorem State.setRcq_servo (s : State) (n : ℕ) (x1 : RdmaCq) :
    (s.setRcq n x1).servo = s.servo := rfl

@[simp] theorem State.setRcq_detectors (s : State) (n : ℕ) (x1 : RdmaCq) :
    (s.setRcq n x1).detectors = s.detectors := rfl

@[simp] theorem State.setRcq_synce (s : State) (n : ℕ) (x1 : RdmaCq) :
    (s.setRcq n x1).synce = s.synce := rfl

@[simp] theorem State.setRcq_ptp (s : State) (n : ℕ) (x1 : RdmaCq) :
    (s.setRcq n x1).ptp = s.ptp := rfl

@[simp] theorem State.setRcq_pins (s : State) (n : ℕ) (x1 : RdmaCq) :
    (s.setRcq n x1).pins = s.pins := rfl

@[simp] theorem State.setRcq_agent (s : State) (n : ℕ) (x1 : RdmaCq) :
    (s.setRcq n x1).agent = s.agent := rfl

@[simp] theorem State.setRcq_log (s : State) (n : ℕ) (x1 : RdmaCq) :
    (s.setRcq n x1).log = s.log := rfl

@[simp] theorem State.setRcq_mgmt (s : State) (n : ℕ) (x1 : RdmaCq) :
    (s.setRcq n x1).mgmt = s.mgmt := rfl

@[simp] theorem State.setRcq_mortar (s : State) (n : ℕ) (x1 : RdmaCq) :
    (s.setRcq n x1).mortar = s.mortar := rfl

@[simp] theorem State.setRcq_memory (s : State) (n : ℕ) (x1 : RdmaCq) :
    (s.setRcq n x1).memory = s.memory := rfl

@[simp] theorem State.setRcq_ports (s : State) (n : ℕ) (x1 : RdmaCq) :
    (s.setRcq n x1).ports = s.ports := rfl

@[simp] theorem State.setRcq_switch (s : State) (n : ℕ) (x1 : RdmaCq) :
    (s.setRcq n x1).switch = s.switch := rfl

@[simp] theorem State.setRcq_modeChange (s : State) (n : ℕ) (x1 : RdmaCq) :
    (s.setRcq n x1).modeChange = s.modeChange := rfl

@[simp] theorem State.setRcq_fwd (s : State) (n : ℕ) (x1 : RdmaCq) :
    (s.setRcq n x1).fwd = s.fwd := rfl

@[simp] theorem State.setRcq_wall (s : State) (n : ℕ) (x1 : RdmaCq) :
    (s.setRcq n x1).wall = s.wall := rfl

@[simp] theorem State.setRcq_redundancy (s : State) (n : ℕ) (x1 : RdmaCq) :
    (s.setRcq n x1).redundancy = s.redundancy := rfl

@[simp] theorem State.setRcq_classify (s : State) (n : ℕ) (x1 : RdmaCq) :
    (s.setRcq n x1).classify = s.classify := rfl

@[simp] theorem State.setRcq_trowel (s : State) (n : ℕ) (x1 : RdmaCq) :
    (s.setRcq n x1).trowel = s.trowel := rfl

@[simp] theorem State.setRcq_cipher (s : State) (n : ℕ) (x1 : RdmaCq) :
    (s.setRcq n x1).cipher = s.cipher := rfl

@[simp] theorem State.setRcq_hod (s : State) (n : ℕ) (x1 : RdmaCq) :
    (s.setRcq n x1).hod = s.hod := rfl

@[simp] theorem State.setRcq_host (s : State) (n : ℕ) (x1 : RdmaCq) :
    (s.setRcq n x1).host = s.host := rfl

@[simp] theorem State.setRcq_slices (s : State) (n : ℕ) (x1 : RdmaCq) :
    (s.setRcq n x1).slices = s.slices := rfl

@[simp] theorem State.setRcq_storage (s : State) (n : ℕ) (x1 : RdmaCq) :
    (s.setRcq n x1).storage = s.storage := rfl

@[simp] theorem State.setRcq_boot (s : State) (n : ℕ) (x1 : RdmaCq) :
    (s.setRcq n x1).boot = s.boot := rfl

@[simp] theorem State.setRcq_keystone (s : State) (n : ℕ) (x1 : RdmaCq) :
    (s.setRcq n x1).keystone = s.keystone := rfl

@[simp] theorem State.setRcq_activation (s : State) (n : ℕ) (x1 : RdmaCq) :
    (s.setRcq n x1).activation = s.activation := rfl

@[simp] theorem State.setRcq_service (s : State) (n : ℕ) (x1 : RdmaCq) :
    (s.setRcq n x1).service = s.service := rfl

@[simp] theorem State.setRcq_monitor (s : State) (n : ℕ) (x1 : RdmaCq) :
    (s.setRcq n x1).monitor = s.monitor := rfl

@[simp] theorem State.setRcq_package (s : State) (n : ℕ) (x1 : RdmaCq) :
    (s.setRcq n x1).package = s.package := rfl

@[simp] theorem State.setRcq_outputs (s : State) (n : ℕ) (x1 : RdmaCq) :
    (s.setRcq n x1).outputs = s.outputs := rfl

@[simp] theorem State.setRcq_freeCtr (s : State) (n : ℕ) (x1 : RdmaCq) :
    (s.setRcq n x1).freeCtr = s.freeCtr := rfl

@[simp] theorem State.setRcq_pending (s : State) (n : ℕ) (x1 : RdmaCq) :
    (s.setRcq n x1).pending = s.pending := rfl

/-! ### State.setRegion: only `rdma` -/

@[simp] theorem State.setRegion_dict (s : State) (n : ℕ) (x1 : Region) :
    (s.setRegion n x1).dict = s.dict := rfl

@[simp] theorem State.setRegion_doms (s : State) (n : ℕ) (x1 : Region) :
    (s.setRegion n x1).doms = s.doms := rfl

@[simp] theorem State.setRegion_store (s : State) (n : ℕ) (x1 : Region) :
    (s.setRegion n x1).store = s.store := rfl

@[simp] theorem State.setRegion_storeDoms (s : State) (n : ℕ) (x1 : Region) :
    (s.setRegion n x1).storeDoms = s.storeDoms := rfl

@[simp] theorem State.setRegion_storeSets (s : State) (n : ℕ) (x1 : Region) :
    (s.setRegion n x1).storeSets = s.storeSets := rfl

@[simp] theorem State.setRegion_snapshot (s : State) (n : ℕ) (x1 : Region) :
    (s.setRegion n x1).snapshot = s.snapshot := rfl

@[simp] theorem State.setRegion_snapshotDoms (s : State) (n : ℕ) (x1 : Region) :
    (s.setRegion n x1).snapshotDoms = s.snapshotDoms := rfl

@[simp] theorem State.setRegion_timers (s : State) (n : ℕ) (x1 : Region) :
    (s.setRegion n x1).timers = s.timers := rfl

@[simp] theorem State.setRegion_clock (s : State) (n : ℕ) (x1 : Region) :
    (s.setRegion n x1).clock = s.clock := rfl

@[simp] theorem State.setRegion_servo (s : State) (n : ℕ) (x1 : Region) :
    (s.setRegion n x1).servo = s.servo := rfl

@[simp] theorem State.setRegion_detectors (s : State) (n : ℕ) (x1 : Region) :
    (s.setRegion n x1).detectors = s.detectors := rfl

@[simp] theorem State.setRegion_synce (s : State) (n : ℕ) (x1 : Region) :
    (s.setRegion n x1).synce = s.synce := rfl

@[simp] theorem State.setRegion_ptp (s : State) (n : ℕ) (x1 : Region) :
    (s.setRegion n x1).ptp = s.ptp := rfl

@[simp] theorem State.setRegion_pins (s : State) (n : ℕ) (x1 : Region) :
    (s.setRegion n x1).pins = s.pins := rfl

@[simp] theorem State.setRegion_agent (s : State) (n : ℕ) (x1 : Region) :
    (s.setRegion n x1).agent = s.agent := rfl

@[simp] theorem State.setRegion_log (s : State) (n : ℕ) (x1 : Region) :
    (s.setRegion n x1).log = s.log := rfl

@[simp] theorem State.setRegion_mgmt (s : State) (n : ℕ) (x1 : Region) :
    (s.setRegion n x1).mgmt = s.mgmt := rfl

@[simp] theorem State.setRegion_mortar (s : State) (n : ℕ) (x1 : Region) :
    (s.setRegion n x1).mortar = s.mortar := rfl

@[simp] theorem State.setRegion_memory (s : State) (n : ℕ) (x1 : Region) :
    (s.setRegion n x1).memory = s.memory := rfl

@[simp] theorem State.setRegion_ports (s : State) (n : ℕ) (x1 : Region) :
    (s.setRegion n x1).ports = s.ports := rfl

@[simp] theorem State.setRegion_switch (s : State) (n : ℕ) (x1 : Region) :
    (s.setRegion n x1).switch = s.switch := rfl

@[simp] theorem State.setRegion_modeChange (s : State) (n : ℕ) (x1 : Region) :
    (s.setRegion n x1).modeChange = s.modeChange := rfl

@[simp] theorem State.setRegion_fwd (s : State) (n : ℕ) (x1 : Region) :
    (s.setRegion n x1).fwd = s.fwd := rfl

@[simp] theorem State.setRegion_wall (s : State) (n : ℕ) (x1 : Region) :
    (s.setRegion n x1).wall = s.wall := rfl

@[simp] theorem State.setRegion_redundancy (s : State) (n : ℕ) (x1 : Region) :
    (s.setRegion n x1).redundancy = s.redundancy := rfl

@[simp] theorem State.setRegion_classify (s : State) (n : ℕ) (x1 : Region) :
    (s.setRegion n x1).classify = s.classify := rfl

@[simp] theorem State.setRegion_trowel (s : State) (n : ℕ) (x1 : Region) :
    (s.setRegion n x1).trowel = s.trowel := rfl

@[simp] theorem State.setRegion_cipher (s : State) (n : ℕ) (x1 : Region) :
    (s.setRegion n x1).cipher = s.cipher := rfl

@[simp] theorem State.setRegion_hod (s : State) (n : ℕ) (x1 : Region) :
    (s.setRegion n x1).hod = s.hod := rfl

@[simp] theorem State.setRegion_host (s : State) (n : ℕ) (x1 : Region) :
    (s.setRegion n x1).host = s.host := rfl

@[simp] theorem State.setRegion_slices (s : State) (n : ℕ) (x1 : Region) :
    (s.setRegion n x1).slices = s.slices := rfl

@[simp] theorem State.setRegion_storage (s : State) (n : ℕ) (x1 : Region) :
    (s.setRegion n x1).storage = s.storage := rfl

@[simp] theorem State.setRegion_boot (s : State) (n : ℕ) (x1 : Region) :
    (s.setRegion n x1).boot = s.boot := rfl

@[simp] theorem State.setRegion_keystone (s : State) (n : ℕ) (x1 : Region) :
    (s.setRegion n x1).keystone = s.keystone := rfl

@[simp] theorem State.setRegion_activation (s : State) (n : ℕ) (x1 : Region) :
    (s.setRegion n x1).activation = s.activation := rfl

@[simp] theorem State.setRegion_service (s : State) (n : ℕ) (x1 : Region) :
    (s.setRegion n x1).service = s.service := rfl

@[simp] theorem State.setRegion_monitor (s : State) (n : ℕ) (x1 : Region) :
    (s.setRegion n x1).monitor = s.monitor := rfl

@[simp] theorem State.setRegion_package (s : State) (n : ℕ) (x1 : Region) :
    (s.setRegion n x1).package = s.package := rfl

@[simp] theorem State.setRegion_outputs (s : State) (n : ℕ) (x1 : Region) :
    (s.setRegion n x1).outputs = s.outputs := rfl

@[simp] theorem State.setRegion_freeCtr (s : State) (n : ℕ) (x1 : Region) :
    (s.setRegion n x1).freeCtr = s.freeCtr := rfl

@[simp] theorem State.setRegion_pending (s : State) (n : ℕ) (x1 : Region) :
    (s.setRegion n x1).pending = s.pending := rfl

/-! ### State.setStaged: only `agent` -/

@[simp] theorem State.setStaged_dict (s : State) (ctx : ℕ) (l : List Item) :
    (s.setStaged ctx l).dict = s.dict := rfl

@[simp] theorem State.setStaged_doms (s : State) (ctx : ℕ) (l : List Item) :
    (s.setStaged ctx l).doms = s.doms := rfl

@[simp] theorem State.setStaged_store (s : State) (ctx : ℕ) (l : List Item) :
    (s.setStaged ctx l).store = s.store := rfl

@[simp] theorem State.setStaged_storeDoms (s : State) (ctx : ℕ) (l : List Item) :
    (s.setStaged ctx l).storeDoms = s.storeDoms := rfl

@[simp] theorem State.setStaged_storeSets (s : State) (ctx : ℕ) (l : List Item) :
    (s.setStaged ctx l).storeSets = s.storeSets := rfl

@[simp] theorem State.setStaged_snapshot (s : State) (ctx : ℕ) (l : List Item) :
    (s.setStaged ctx l).snapshot = s.snapshot := rfl

@[simp] theorem State.setStaged_snapshotDoms (s : State) (ctx : ℕ) (l : List Item) :
    (s.setStaged ctx l).snapshotDoms = s.snapshotDoms := rfl

@[simp] theorem State.setStaged_timers (s : State) (ctx : ℕ) (l : List Item) :
    (s.setStaged ctx l).timers = s.timers := rfl

@[simp] theorem State.setStaged_clock (s : State) (ctx : ℕ) (l : List Item) :
    (s.setStaged ctx l).clock = s.clock := rfl

@[simp] theorem State.setStaged_servo (s : State) (ctx : ℕ) (l : List Item) :
    (s.setStaged ctx l).servo = s.servo := rfl

@[simp] theorem State.setStaged_detectors (s : State) (ctx : ℕ) (l : List Item) :
    (s.setStaged ctx l).detectors = s.detectors := rfl

@[simp] theorem State.setStaged_synce (s : State) (ctx : ℕ) (l : List Item) :
    (s.setStaged ctx l).synce = s.synce := rfl

@[simp] theorem State.setStaged_ptp (s : State) (ctx : ℕ) (l : List Item) :
    (s.setStaged ctx l).ptp = s.ptp := rfl

@[simp] theorem State.setStaged_pins (s : State) (ctx : ℕ) (l : List Item) :
    (s.setStaged ctx l).pins = s.pins := rfl

@[simp] theorem State.setStaged_log (s : State) (ctx : ℕ) (l : List Item) :
    (s.setStaged ctx l).log = s.log := rfl

@[simp] theorem State.setStaged_mgmt (s : State) (ctx : ℕ) (l : List Item) :
    (s.setStaged ctx l).mgmt = s.mgmt := rfl

@[simp] theorem State.setStaged_mortar (s : State) (ctx : ℕ) (l : List Item) :
    (s.setStaged ctx l).mortar = s.mortar := rfl

@[simp] theorem State.setStaged_memory (s : State) (ctx : ℕ) (l : List Item) :
    (s.setStaged ctx l).memory = s.memory := rfl

@[simp] theorem State.setStaged_ports (s : State) (ctx : ℕ) (l : List Item) :
    (s.setStaged ctx l).ports = s.ports := rfl

@[simp] theorem State.setStaged_switch (s : State) (ctx : ℕ) (l : List Item) :
    (s.setStaged ctx l).switch = s.switch := rfl

@[simp] theorem State.setStaged_modeChange (s : State) (ctx : ℕ) (l : List Item) :
    (s.setStaged ctx l).modeChange = s.modeChange := rfl

@[simp] theorem State.setStaged_fwd (s : State) (ctx : ℕ) (l : List Item) :
    (s.setStaged ctx l).fwd = s.fwd := rfl

@[simp] theorem State.setStaged_wall (s : State) (ctx : ℕ) (l : List Item) :
    (s.setStaged ctx l).wall = s.wall := rfl

@[simp] theorem State.setStaged_redundancy (s : State) (ctx : ℕ) (l : List Item) :
    (s.setStaged ctx l).redundancy = s.redundancy := rfl

@[simp] theorem State.setStaged_classify (s : State) (ctx : ℕ) (l : List Item) :
    (s.setStaged ctx l).classify = s.classify := rfl

@[simp] theorem State.setStaged_trowel (s : State) (ctx : ℕ) (l : List Item) :
    (s.setStaged ctx l).trowel = s.trowel := rfl

@[simp] theorem State.setStaged_cipher (s : State) (ctx : ℕ) (l : List Item) :
    (s.setStaged ctx l).cipher = s.cipher := rfl

@[simp] theorem State.setStaged_hod (s : State) (ctx : ℕ) (l : List Item) :
    (s.setStaged ctx l).hod = s.hod := rfl

@[simp] theorem State.setStaged_host (s : State) (ctx : ℕ) (l : List Item) :
    (s.setStaged ctx l).host = s.host := rfl

@[simp] theorem State.setStaged_slices (s : State) (ctx : ℕ) (l : List Item) :
    (s.setStaged ctx l).slices = s.slices := rfl

@[simp] theorem State.setStaged_storage (s : State) (ctx : ℕ) (l : List Item) :
    (s.setStaged ctx l).storage = s.storage := rfl

@[simp] theorem State.setStaged_rdma (s : State) (ctx : ℕ) (l : List Item) :
    (s.setStaged ctx l).rdma = s.rdma := rfl

@[simp] theorem State.setStaged_boot (s : State) (ctx : ℕ) (l : List Item) :
    (s.setStaged ctx l).boot = s.boot := rfl

@[simp] theorem State.setStaged_keystone (s : State) (ctx : ℕ) (l : List Item) :
    (s.setStaged ctx l).keystone = s.keystone := rfl

@[simp] theorem State.setStaged_activation (s : State) (ctx : ℕ) (l : List Item) :
    (s.setStaged ctx l).activation = s.activation := rfl

@[simp] theorem State.setStaged_service (s : State) (ctx : ℕ) (l : List Item) :
    (s.setStaged ctx l).service = s.service := rfl

@[simp] theorem State.setStaged_monitor (s : State) (ctx : ℕ) (l : List Item) :
    (s.setStaged ctx l).monitor = s.monitor := rfl

@[simp] theorem State.setStaged_package (s : State) (ctx : ℕ) (l : List Item) :
    (s.setStaged ctx l).package = s.package := rfl

@[simp] theorem State.setStaged_outputs (s : State) (ctx : ℕ) (l : List Item) :
    (s.setStaged ctx l).outputs = s.outputs := rfl

@[simp] theorem State.setStaged_freeCtr (s : State) (ctx : ℕ) (l : List Item) :
    (s.setStaged ctx l).freeCtr = s.freeCtr := rfl

@[simp] theorem State.setStaged_pending (s : State) (ctx : ℕ) (l : List Item) :
    (s.setStaged ctx l).pending = s.pending := rfl

/-! ### State.setSession: only `agent` -/

@[simp] theorem State.setSession_dict (s : State) (x1 : Session) :
    (s.setSession x1).dict = s.dict := rfl

@[simp] theorem State.setSession_doms (s : State) (x1 : Session) :
    (s.setSession x1).doms = s.doms := rfl

@[simp] theorem State.setSession_store (s : State) (x1 : Session) :
    (s.setSession x1).store = s.store := rfl

@[simp] theorem State.setSession_storeDoms (s : State) (x1 : Session) :
    (s.setSession x1).storeDoms = s.storeDoms := rfl

@[simp] theorem State.setSession_storeSets (s : State) (x1 : Session) :
    (s.setSession x1).storeSets = s.storeSets := rfl

@[simp] theorem State.setSession_snapshot (s : State) (x1 : Session) :
    (s.setSession x1).snapshot = s.snapshot := rfl

@[simp] theorem State.setSession_snapshotDoms (s : State) (x1 : Session) :
    (s.setSession x1).snapshotDoms = s.snapshotDoms := rfl

@[simp] theorem State.setSession_timers (s : State) (x1 : Session) :
    (s.setSession x1).timers = s.timers := rfl

@[simp] theorem State.setSession_clock (s : State) (x1 : Session) :
    (s.setSession x1).clock = s.clock := rfl

@[simp] theorem State.setSession_servo (s : State) (x1 : Session) :
    (s.setSession x1).servo = s.servo := rfl

@[simp] theorem State.setSession_detectors (s : State) (x1 : Session) :
    (s.setSession x1).detectors = s.detectors := rfl

@[simp] theorem State.setSession_synce (s : State) (x1 : Session) :
    (s.setSession x1).synce = s.synce := rfl

@[simp] theorem State.setSession_ptp (s : State) (x1 : Session) :
    (s.setSession x1).ptp = s.ptp := rfl

@[simp] theorem State.setSession_pins (s : State) (x1 : Session) :
    (s.setSession x1).pins = s.pins := rfl

@[simp] theorem State.setSession_log (s : State) (x1 : Session) :
    (s.setSession x1).log = s.log := rfl

@[simp] theorem State.setSession_mgmt (s : State) (x1 : Session) :
    (s.setSession x1).mgmt = s.mgmt := rfl

@[simp] theorem State.setSession_mortar (s : State) (x1 : Session) :
    (s.setSession x1).mortar = s.mortar := rfl

@[simp] theorem State.setSession_memory (s : State) (x1 : Session) :
    (s.setSession x1).memory = s.memory := rfl

@[simp] theorem State.setSession_ports (s : State) (x1 : Session) :
    (s.setSession x1).ports = s.ports := rfl

@[simp] theorem State.setSession_switch (s : State) (x1 : Session) :
    (s.setSession x1).switch = s.switch := rfl

@[simp] theorem State.setSession_modeChange (s : State) (x1 : Session) :
    (s.setSession x1).modeChange = s.modeChange := rfl

@[simp] theorem State.setSession_fwd (s : State) (x1 : Session) :
    (s.setSession x1).fwd = s.fwd := rfl

@[simp] theorem State.setSession_wall (s : State) (x1 : Session) :
    (s.setSession x1).wall = s.wall := rfl

@[simp] theorem State.setSession_redundancy (s : State) (x1 : Session) :
    (s.setSession x1).redundancy = s.redundancy := rfl

@[simp] theorem State.setSession_classify (s : State) (x1 : Session) :
    (s.setSession x1).classify = s.classify := rfl

@[simp] theorem State.setSession_trowel (s : State) (x1 : Session) :
    (s.setSession x1).trowel = s.trowel := rfl

@[simp] theorem State.setSession_cipher (s : State) (x1 : Session) :
    (s.setSession x1).cipher = s.cipher := rfl

@[simp] theorem State.setSession_hod (s : State) (x1 : Session) :
    (s.setSession x1).hod = s.hod := rfl

@[simp] theorem State.setSession_host (s : State) (x1 : Session) :
    (s.setSession x1).host = s.host := rfl

@[simp] theorem State.setSession_slices (s : State) (x1 : Session) :
    (s.setSession x1).slices = s.slices := rfl

@[simp] theorem State.setSession_storage (s : State) (x1 : Session) :
    (s.setSession x1).storage = s.storage := rfl

@[simp] theorem State.setSession_rdma (s : State) (x1 : Session) :
    (s.setSession x1).rdma = s.rdma := rfl

@[simp] theorem State.setSession_boot (s : State) (x1 : Session) :
    (s.setSession x1).boot = s.boot := rfl

@[simp] theorem State.setSession_keystone (s : State) (x1 : Session) :
    (s.setSession x1).keystone = s.keystone := rfl

@[simp] theorem State.setSession_activation (s : State) (x1 : Session) :
    (s.setSession x1).activation = s.activation := rfl

@[simp] theorem State.setSession_service (s : State) (x1 : Session) :
    (s.setSession x1).service = s.service := rfl

@[simp] theorem State.setSession_monitor (s : State) (x1 : Session) :
    (s.setSession x1).monitor = s.monitor := rfl

@[simp] theorem State.setSession_package (s : State) (x1 : Session) :
    (s.setSession x1).package = s.package := rfl

@[simp] theorem State.setSession_outputs (s : State) (x1 : Session) :
    (s.setSession x1).outputs = s.outputs := rfl

@[simp] theorem State.setSession_freeCtr (s : State) (x1 : Session) :
    (s.setSession x1).freeCtr = s.freeCtr := rfl

@[simp] theorem State.setSession_pending (s : State) (x1 : Session) :
    (s.setSession x1).pending = s.pending := rfl

/-! ### State.setMailbox: only `agent` -/

@[simp] theorem State.setMailbox_dict (s : State) (link : ℕ) (x1 : Mailbox) :
    (s.setMailbox link x1).dict = s.dict := rfl

@[simp] theorem State.setMailbox_doms (s : State) (link : ℕ) (x1 : Mailbox) :
    (s.setMailbox link x1).doms = s.doms := rfl

@[simp] theorem State.setMailbox_store (s : State) (link : ℕ) (x1 : Mailbox) :
    (s.setMailbox link x1).store = s.store := rfl

@[simp] theorem State.setMailbox_storeDoms (s : State) (link : ℕ) (x1 : Mailbox) :
    (s.setMailbox link x1).storeDoms = s.storeDoms := rfl

@[simp] theorem State.setMailbox_storeSets (s : State) (link : ℕ) (x1 : Mailbox) :
    (s.setMailbox link x1).storeSets = s.storeSets := rfl

@[simp] theorem State.setMailbox_snapshot (s : State) (link : ℕ) (x1 : Mailbox) :
    (s.setMailbox link x1).snapshot = s.snapshot := rfl

@[simp] theorem State.setMailbox_snapshotDoms (s : State) (link : ℕ) (x1 : Mailbox) :
    (s.setMailbox link x1).snapshotDoms = s.snapshotDoms := rfl

@[simp] theorem State.setMailbox_timers (s : State) (link : ℕ) (x1 : Mailbox) :
    (s.setMailbox link x1).timers = s.timers := rfl

@[simp] theorem State.setMailbox_clock (s : State) (link : ℕ) (x1 : Mailbox) :
    (s.setMailbox link x1).clock = s.clock := rfl

@[simp] theorem State.setMailbox_servo (s : State) (link : ℕ) (x1 : Mailbox) :
    (s.setMailbox link x1).servo = s.servo := rfl

@[simp] theorem State.setMailbox_detectors (s : State) (link : ℕ) (x1 : Mailbox) :
    (s.setMailbox link x1).detectors = s.detectors := rfl

@[simp] theorem State.setMailbox_synce (s : State) (link : ℕ) (x1 : Mailbox) :
    (s.setMailbox link x1).synce = s.synce := rfl

@[simp] theorem State.setMailbox_ptp (s : State) (link : ℕ) (x1 : Mailbox) :
    (s.setMailbox link x1).ptp = s.ptp := rfl

@[simp] theorem State.setMailbox_pins (s : State) (link : ℕ) (x1 : Mailbox) :
    (s.setMailbox link x1).pins = s.pins := rfl

@[simp] theorem State.setMailbox_log (s : State) (link : ℕ) (x1 : Mailbox) :
    (s.setMailbox link x1).log = s.log := rfl

@[simp] theorem State.setMailbox_mgmt (s : State) (link : ℕ) (x1 : Mailbox) :
    (s.setMailbox link x1).mgmt = s.mgmt := rfl

@[simp] theorem State.setMailbox_mortar (s : State) (link : ℕ) (x1 : Mailbox) :
    (s.setMailbox link x1).mortar = s.mortar := rfl

@[simp] theorem State.setMailbox_memory (s : State) (link : ℕ) (x1 : Mailbox) :
    (s.setMailbox link x1).memory = s.memory := rfl

@[simp] theorem State.setMailbox_ports (s : State) (link : ℕ) (x1 : Mailbox) :
    (s.setMailbox link x1).ports = s.ports := rfl

@[simp] theorem State.setMailbox_switch (s : State) (link : ℕ) (x1 : Mailbox) :
    (s.setMailbox link x1).switch = s.switch := rfl

@[simp] theorem State.setMailbox_modeChange (s : State) (link : ℕ) (x1 : Mailbox) :
    (s.setMailbox link x1).modeChange = s.modeChange := rfl

@[simp] theorem State.setMailbox_fwd (s : State) (link : ℕ) (x1 : Mailbox) :
    (s.setMailbox link x1).fwd = s.fwd := rfl

@[simp] theorem State.setMailbox_wall (s : State) (link : ℕ) (x1 : Mailbox) :
    (s.setMailbox link x1).wall = s.wall := rfl

@[simp] theorem State.setMailbox_redundancy (s : State) (link : ℕ) (x1 : Mailbox) :
    (s.setMailbox link x1).redundancy = s.redundancy := rfl

@[simp] theorem State.setMailbox_classify (s : State) (link : ℕ) (x1 : Mailbox) :
    (s.setMailbox link x1).classify = s.classify := rfl

@[simp] theorem State.setMailbox_trowel (s : State) (link : ℕ) (x1 : Mailbox) :
    (s.setMailbox link x1).trowel = s.trowel := rfl

@[simp] theorem State.setMailbox_cipher (s : State) (link : ℕ) (x1 : Mailbox) :
    (s.setMailbox link x1).cipher = s.cipher := rfl

@[simp] theorem State.setMailbox_hod (s : State) (link : ℕ) (x1 : Mailbox) :
    (s.setMailbox link x1).hod = s.hod := rfl

@[simp] theorem State.setMailbox_host (s : State) (link : ℕ) (x1 : Mailbox) :
    (s.setMailbox link x1).host = s.host := rfl

@[simp] theorem State.setMailbox_slices (s : State) (link : ℕ) (x1 : Mailbox) :
    (s.setMailbox link x1).slices = s.slices := rfl

@[simp] theorem State.setMailbox_storage (s : State) (link : ℕ) (x1 : Mailbox) :
    (s.setMailbox link x1).storage = s.storage := rfl

@[simp] theorem State.setMailbox_rdma (s : State) (link : ℕ) (x1 : Mailbox) :
    (s.setMailbox link x1).rdma = s.rdma := rfl

@[simp] theorem State.setMailbox_boot (s : State) (link : ℕ) (x1 : Mailbox) :
    (s.setMailbox link x1).boot = s.boot := rfl

@[simp] theorem State.setMailbox_keystone (s : State) (link : ℕ) (x1 : Mailbox) :
    (s.setMailbox link x1).keystone = s.keystone := rfl

@[simp] theorem State.setMailbox_activation (s : State) (link : ℕ) (x1 : Mailbox) :
    (s.setMailbox link x1).activation = s.activation := rfl

@[simp] theorem State.setMailbox_service (s : State) (link : ℕ) (x1 : Mailbox) :
    (s.setMailbox link x1).service = s.service := rfl

@[simp] theorem State.setMailbox_monitor (s : State) (link : ℕ) (x1 : Mailbox) :
    (s.setMailbox link x1).monitor = s.monitor := rfl

@[simp] theorem State.setMailbox_package (s : State) (link : ℕ) (x1 : Mailbox) :
    (s.setMailbox link x1).package = s.package := rfl

@[simp] theorem State.setMailbox_outputs (s : State) (link : ℕ) (x1 : Mailbox) :
    (s.setMailbox link x1).outputs = s.outputs := rfl

@[simp] theorem State.setMailbox_freeCtr (s : State) (link : ℕ) (x1 : Mailbox) :
    (s.setMailbox link x1).freeCtr = s.freeCtr := rfl

@[simp] theorem State.setMailbox_pending (s : State) (link : ℕ) (x1 : Mailbox) :
    (s.setMailbox link x1).pending = s.pending := rfl

/-! ### State.setCoreWindow: only `agent` -/

@[simp] theorem State.setCoreWindow_dict (s : State) (n : ℕ) (x1 : Mailbox) :
    (s.setCoreWindow n x1).dict = s.dict := rfl

@[simp] theorem State.setCoreWindow_doms (s : State) (n : ℕ) (x1 : Mailbox) :
    (s.setCoreWindow n x1).doms = s.doms := rfl

@[simp] theorem State.setCoreWindow_store (s : State) (n : ℕ) (x1 : Mailbox) :
    (s.setCoreWindow n x1).store = s.store := rfl

@[simp] theorem State.setCoreWindow_storeDoms (s : State) (n : ℕ) (x1 : Mailbox) :
    (s.setCoreWindow n x1).storeDoms = s.storeDoms := rfl

@[simp] theorem State.setCoreWindow_storeSets (s : State) (n : ℕ) (x1 : Mailbox) :
    (s.setCoreWindow n x1).storeSets = s.storeSets := rfl

@[simp] theorem State.setCoreWindow_snapshot (s : State) (n : ℕ) (x1 : Mailbox) :
    (s.setCoreWindow n x1).snapshot = s.snapshot := rfl

@[simp] theorem State.setCoreWindow_snapshotDoms (s : State) (n : ℕ) (x1 : Mailbox) :
    (s.setCoreWindow n x1).snapshotDoms = s.snapshotDoms := rfl

@[simp] theorem State.setCoreWindow_timers (s : State) (n : ℕ) (x1 : Mailbox) :
    (s.setCoreWindow n x1).timers = s.timers := rfl

@[simp] theorem State.setCoreWindow_clock (s : State) (n : ℕ) (x1 : Mailbox) :
    (s.setCoreWindow n x1).clock = s.clock := rfl

@[simp] theorem State.setCoreWindow_servo (s : State) (n : ℕ) (x1 : Mailbox) :
    (s.setCoreWindow n x1).servo = s.servo := rfl

@[simp] theorem State.setCoreWindow_detectors (s : State) (n : ℕ) (x1 : Mailbox) :
    (s.setCoreWindow n x1).detectors = s.detectors := rfl

@[simp] theorem State.setCoreWindow_synce (s : State) (n : ℕ) (x1 : Mailbox) :
    (s.setCoreWindow n x1).synce = s.synce := rfl

@[simp] theorem State.setCoreWindow_ptp (s : State) (n : ℕ) (x1 : Mailbox) :
    (s.setCoreWindow n x1).ptp = s.ptp := rfl

@[simp] theorem State.setCoreWindow_pins (s : State) (n : ℕ) (x1 : Mailbox) :
    (s.setCoreWindow n x1).pins = s.pins := rfl

@[simp] theorem State.setCoreWindow_log (s : State) (n : ℕ) (x1 : Mailbox) :
    (s.setCoreWindow n x1).log = s.log := rfl

@[simp] theorem State.setCoreWindow_mgmt (s : State) (n : ℕ) (x1 : Mailbox) :
    (s.setCoreWindow n x1).mgmt = s.mgmt := rfl

@[simp] theorem State.setCoreWindow_mortar (s : State) (n : ℕ) (x1 : Mailbox) :
    (s.setCoreWindow n x1).mortar = s.mortar := rfl

@[simp] theorem State.setCoreWindow_memory (s : State) (n : ℕ) (x1 : Mailbox) :
    (s.setCoreWindow n x1).memory = s.memory := rfl

@[simp] theorem State.setCoreWindow_ports (s : State) (n : ℕ) (x1 : Mailbox) :
    (s.setCoreWindow n x1).ports = s.ports := rfl

@[simp] theorem State.setCoreWindow_switch (s : State) (n : ℕ) (x1 : Mailbox) :
    (s.setCoreWindow n x1).switch = s.switch := rfl

@[simp] theorem State.setCoreWindow_modeChange (s : State) (n : ℕ) (x1 : Mailbox) :
    (s.setCoreWindow n x1).modeChange = s.modeChange := rfl

@[simp] theorem State.setCoreWindow_fwd (s : State) (n : ℕ) (x1 : Mailbox) :
    (s.setCoreWindow n x1).fwd = s.fwd := rfl

@[simp] theorem State.setCoreWindow_wall (s : State) (n : ℕ) (x1 : Mailbox) :
    (s.setCoreWindow n x1).wall = s.wall := rfl

@[simp] theorem State.setCoreWindow_redundancy (s : State) (n : ℕ) (x1 : Mailbox) :
    (s.setCoreWindow n x1).redundancy = s.redundancy := rfl

@[simp] theorem State.setCoreWindow_classify (s : State) (n : ℕ) (x1 : Mailbox) :
    (s.setCoreWindow n x1).classify = s.classify := rfl

@[simp] theorem State.setCoreWindow_trowel (s : State) (n : ℕ) (x1 : Mailbox) :
    (s.setCoreWindow n x1).trowel = s.trowel := rfl

@[simp] theorem State.setCoreWindow_cipher (s : State) (n : ℕ) (x1 : Mailbox) :
    (s.setCoreWindow n x1).cipher = s.cipher := rfl

@[simp] theorem State.setCoreWindow_hod (s : State) (n : ℕ) (x1 : Mailbox) :
    (s.setCoreWindow n x1).hod = s.hod := rfl

@[simp] theorem State.setCoreWindow_host (s : State) (n : ℕ) (x1 : Mailbox) :
    (s.setCoreWindow n x1).host = s.host := rfl

@[simp] theorem State.setCoreWindow_slices (s : State) (n : ℕ) (x1 : Mailbox) :
    (s.setCoreWindow n x1).slices = s.slices := rfl

@[simp] theorem State.setCoreWindow_storage (s : State) (n : ℕ) (x1 : Mailbox) :
    (s.setCoreWindow n x1).storage = s.storage := rfl

@[simp] theorem State.setCoreWindow_rdma (s : State) (n : ℕ) (x1 : Mailbox) :
    (s.setCoreWindow n x1).rdma = s.rdma := rfl

@[simp] theorem State.setCoreWindow_boot (s : State) (n : ℕ) (x1 : Mailbox) :
    (s.setCoreWindow n x1).boot = s.boot := rfl

@[simp] theorem State.setCoreWindow_keystone (s : State) (n : ℕ) (x1 : Mailbox) :
    (s.setCoreWindow n x1).keystone = s.keystone := rfl

@[simp] theorem State.setCoreWindow_activation (s : State) (n : ℕ) (x1 : Mailbox) :
    (s.setCoreWindow n x1).activation = s.activation := rfl

@[simp] theorem State.setCoreWindow_service (s : State) (n : ℕ) (x1 : Mailbox) :
    (s.setCoreWindow n x1).service = s.service := rfl

@[simp] theorem State.setCoreWindow_monitor (s : State) (n : ℕ) (x1 : Mailbox) :
    (s.setCoreWindow n x1).monitor = s.monitor := rfl

@[simp] theorem State.setCoreWindow_package (s : State) (n : ℕ) (x1 : Mailbox) :
    (s.setCoreWindow n x1).package = s.package := rfl

@[simp] theorem State.setCoreWindow_outputs (s : State) (n : ℕ) (x1 : Mailbox) :
    (s.setCoreWindow n x1).outputs = s.outputs := rfl

@[simp] theorem State.setCoreWindow_freeCtr (s : State) (n : ℕ) (x1 : Mailbox) :
    (s.setCoreWindow n x1).freeCtr = s.freeCtr := rfl

@[simp] theorem State.setCoreWindow_pending (s : State) (n : ℕ) (x1 : Mailbox) :
    (s.setCoreWindow n x1).pending = s.pending := rfl

/-! ### State.shiftEdges: only `pins` -/

@[simp] theorem State.shiftEdges_dict (s : State) (d : ℤ) :
    (s.shiftEdges d).dict = s.dict := rfl

@[simp] theorem State.shiftEdges_doms (s : State) (d : ℤ) :
    (s.shiftEdges d).doms = s.doms := rfl

@[simp] theorem State.shiftEdges_store (s : State) (d : ℤ) :
    (s.shiftEdges d).store = s.store := rfl

@[simp] theorem State.shiftEdges_storeDoms (s : State) (d : ℤ) :
    (s.shiftEdges d).storeDoms = s.storeDoms := rfl

@[simp] theorem State.shiftEdges_storeSets (s : State) (d : ℤ) :
    (s.shiftEdges d).storeSets = s.storeSets := rfl

@[simp] theorem State.shiftEdges_snapshot (s : State) (d : ℤ) :
    (s.shiftEdges d).snapshot = s.snapshot := rfl

@[simp] theorem State.shiftEdges_snapshotDoms (s : State) (d : ℤ) :
    (s.shiftEdges d).snapshotDoms = s.snapshotDoms := rfl

@[simp] theorem State.shiftEdges_timers (s : State) (d : ℤ) :
    (s.shiftEdges d).timers = s.timers := rfl

@[simp] theorem State.shiftEdges_clock (s : State) (d : ℤ) :
    (s.shiftEdges d).clock = s.clock := rfl

@[simp] theorem State.shiftEdges_servo (s : State) (d : ℤ) :
    (s.shiftEdges d).servo = s.servo := rfl

@[simp] theorem State.shiftEdges_detectors (s : State) (d : ℤ) :
    (s.shiftEdges d).detectors = s.detectors := rfl

@[simp] theorem State.shiftEdges_synce (s : State) (d : ℤ) :
    (s.shiftEdges d).synce = s.synce := rfl

@[simp] theorem State.shiftEdges_ptp (s : State) (d : ℤ) :
    (s.shiftEdges d).ptp = s.ptp := rfl

@[simp] theorem State.shiftEdges_agent (s : State) (d : ℤ) :
    (s.shiftEdges d).agent = s.agent := rfl

@[simp] theorem State.shiftEdges_log (s : State) (d : ℤ) :
    (s.shiftEdges d).log = s.log := rfl

@[simp] theorem State.shiftEdges_mgmt (s : State) (d : ℤ) :
    (s.shiftEdges d).mgmt = s.mgmt := rfl

@[simp] theorem State.shiftEdges_mortar (s : State) (d : ℤ) :
    (s.shiftEdges d).mortar = s.mortar := rfl

@[simp] theorem State.shiftEdges_memory (s : State) (d : ℤ) :
    (s.shiftEdges d).memory = s.memory := rfl

@[simp] theorem State.shiftEdges_ports (s : State) (d : ℤ) :
    (s.shiftEdges d).ports = s.ports := rfl

@[simp] theorem State.shiftEdges_switch (s : State) (d : ℤ) :
    (s.shiftEdges d).switch = s.switch := rfl

@[simp] theorem State.shiftEdges_modeChange (s : State) (d : ℤ) :
    (s.shiftEdges d).modeChange = s.modeChange := rfl

@[simp] theorem State.shiftEdges_fwd (s : State) (d : ℤ) :
    (s.shiftEdges d).fwd = s.fwd := rfl

@[simp] theorem State.shiftEdges_wall (s : State) (d : ℤ) :
    (s.shiftEdges d).wall = s.wall := rfl

@[simp] theorem State.shiftEdges_redundancy (s : State) (d : ℤ) :
    (s.shiftEdges d).redundancy = s.redundancy := rfl

@[simp] theorem State.shiftEdges_classify (s : State) (d : ℤ) :
    (s.shiftEdges d).classify = s.classify := rfl

@[simp] theorem State.shiftEdges_trowel (s : State) (d : ℤ) :
    (s.shiftEdges d).trowel = s.trowel := rfl

@[simp] theorem State.shiftEdges_cipher (s : State) (d : ℤ) :
    (s.shiftEdges d).cipher = s.cipher := rfl

@[simp] theorem State.shiftEdges_hod (s : State) (d : ℤ) :
    (s.shiftEdges d).hod = s.hod := rfl

@[simp] theorem State.shiftEdges_host (s : State) (d : ℤ) :
    (s.shiftEdges d).host = s.host := rfl

@[simp] theorem State.shiftEdges_slices (s : State) (d : ℤ) :
    (s.shiftEdges d).slices = s.slices := rfl

@[simp] theorem State.shiftEdges_storage (s : State) (d : ℤ) :
    (s.shiftEdges d).storage = s.storage := rfl

@[simp] theorem State.shiftEdges_rdma (s : State) (d : ℤ) :
    (s.shiftEdges d).rdma = s.rdma := rfl

@[simp] theorem State.shiftEdges_boot (s : State) (d : ℤ) :
    (s.shiftEdges d).boot = s.boot := rfl

@[simp] theorem State.shiftEdges_keystone (s : State) (d : ℤ) :
    (s.shiftEdges d).keystone = s.keystone := rfl

@[simp] theorem State.shiftEdges_activation (s : State) (d : ℤ) :
    (s.shiftEdges d).activation = s.activation := rfl

@[simp] theorem State.shiftEdges_service (s : State) (d : ℤ) :
    (s.shiftEdges d).service = s.service := rfl

@[simp] theorem State.shiftEdges_monitor (s : State) (d : ℤ) :
    (s.shiftEdges d).monitor = s.monitor := rfl

@[simp] theorem State.shiftEdges_package (s : State) (d : ℤ) :
    (s.shiftEdges d).package = s.package := rfl

@[simp] theorem State.shiftEdges_outputs (s : State) (d : ℤ) :
    (s.shiftEdges d).outputs = s.outputs := rfl

@[simp] theorem State.shiftEdges_freeCtr (s : State) (d : ℤ) :
    (s.shiftEdges d).freeCtr = s.freeCtr := rfl

@[simp] theorem State.shiftEdges_pending (s : State) (d : ℤ) :
    (s.shiftEdges d).pending = s.pending := rfl

/-! ### State.setMemWord: only `trowel` -/

@[simp] theorem State.setMemWord_dict (s : State) (k : ℕ) (v : ℕ) :
    (s.setMemWord k v).dict = s.dict := rfl

@[simp] theorem State.setMemWord_doms (s : State) (k : ℕ) (v : ℕ) :
    (s.setMemWord k v).doms = s.doms := rfl

@[simp] theorem State.setMemWord_store (s : State) (k : ℕ) (v : ℕ) :
    (s.setMemWord k v).store = s.store := rfl

@[simp] theorem State.setMemWord_storeDoms (s : State) (k : ℕ) (v : ℕ) :
    (s.setMemWord k v).storeDoms = s.storeDoms := rfl

@[simp] theorem State.setMemWord_storeSets (s : State) (k : ℕ) (v : ℕ) :
    (s.setMemWord k v).storeSets = s.storeSets := rfl

@[simp] theorem State.setMemWord_snapshot (s : State) (k : ℕ) (v : ℕ) :
    (s.setMemWord k v).snapshot = s.snapshot := rfl

@[simp] theorem State.setMemWord_snapshotDoms (s : State) (k : ℕ) (v : ℕ) :
    (s.setMemWord k v).snapshotDoms = s.snapshotDoms := rfl

@[simp] theorem State.setMemWord_timers (s : State) (k : ℕ) (v : ℕ) :
    (s.setMemWord k v).timers = s.timers := rfl

@[simp] theorem State.setMemWord_clock (s : State) (k : ℕ) (v : ℕ) :
    (s.setMemWord k v).clock = s.clock := rfl

@[simp] theorem State.setMemWord_servo (s : State) (k : ℕ) (v : ℕ) :
    (s.setMemWord k v).servo = s.servo := rfl

@[simp] theorem State.setMemWord_detectors (s : State) (k : ℕ) (v : ℕ) :
    (s.setMemWord k v).detectors = s.detectors := rfl

@[simp] theorem State.setMemWord_synce (s : State) (k : ℕ) (v : ℕ) :
    (s.setMemWord k v).synce = s.synce := rfl

@[simp] theorem State.setMemWord_ptp (s : State) (k : ℕ) (v : ℕ) :
    (s.setMemWord k v).ptp = s.ptp := rfl

@[simp] theorem State.setMemWord_pins (s : State) (k : ℕ) (v : ℕ) :
    (s.setMemWord k v).pins = s.pins := rfl

@[simp] theorem State.setMemWord_agent (s : State) (k : ℕ) (v : ℕ) :
    (s.setMemWord k v).agent = s.agent := rfl

@[simp] theorem State.setMemWord_log (s : State) (k : ℕ) (v : ℕ) :
    (s.setMemWord k v).log = s.log := rfl

@[simp] theorem State.setMemWord_mgmt (s : State) (k : ℕ) (v : ℕ) :
    (s.setMemWord k v).mgmt = s.mgmt := rfl

@[simp] theorem State.setMemWord_mortar (s : State) (k : ℕ) (v : ℕ) :
    (s.setMemWord k v).mortar = s.mortar := rfl

@[simp] theorem State.setMemWord_memory (s : State) (k : ℕ) (v : ℕ) :
    (s.setMemWord k v).memory = s.memory := rfl

@[simp] theorem State.setMemWord_ports (s : State) (k : ℕ) (v : ℕ) :
    (s.setMemWord k v).ports = s.ports := rfl

@[simp] theorem State.setMemWord_switch (s : State) (k : ℕ) (v : ℕ) :
    (s.setMemWord k v).switch = s.switch := rfl

@[simp] theorem State.setMemWord_modeChange (s : State) (k : ℕ) (v : ℕ) :
    (s.setMemWord k v).modeChange = s.modeChange := rfl

@[simp] theorem State.setMemWord_fwd (s : State) (k : ℕ) (v : ℕ) :
    (s.setMemWord k v).fwd = s.fwd := rfl

@[simp] theorem State.setMemWord_wall (s : State) (k : ℕ) (v : ℕ) :
    (s.setMemWord k v).wall = s.wall := rfl

@[simp] theorem State.setMemWord_redundancy (s : State) (k : ℕ) (v : ℕ) :
    (s.setMemWord k v).redundancy = s.redundancy := rfl

@[simp] theorem State.setMemWord_classify (s : State) (k : ℕ) (v : ℕ) :
    (s.setMemWord k v).classify = s.classify := rfl

@[simp] theorem State.setMemWord_cipher (s : State) (k : ℕ) (v : ℕ) :
    (s.setMemWord k v).cipher = s.cipher := rfl

@[simp] theorem State.setMemWord_hod (s : State) (k : ℕ) (v : ℕ) :
    (s.setMemWord k v).hod = s.hod := rfl

@[simp] theorem State.setMemWord_host (s : State) (k : ℕ) (v : ℕ) :
    (s.setMemWord k v).host = s.host := rfl

@[simp] theorem State.setMemWord_slices (s : State) (k : ℕ) (v : ℕ) :
    (s.setMemWord k v).slices = s.slices := rfl

@[simp] theorem State.setMemWord_storage (s : State) (k : ℕ) (v : ℕ) :
    (s.setMemWord k v).storage = s.storage := rfl

@[simp] theorem State.setMemWord_rdma (s : State) (k : ℕ) (v : ℕ) :
    (s.setMemWord k v).rdma = s.rdma := rfl

@[simp] theorem State.setMemWord_boot (s : State) (k : ℕ) (v : ℕ) :
    (s.setMemWord k v).boot = s.boot := rfl

@[simp] theorem State.setMemWord_keystone (s : State) (k : ℕ) (v : ℕ) :
    (s.setMemWord k v).keystone = s.keystone := rfl

@[simp] theorem State.setMemWord_activation (s : State) (k : ℕ) (v : ℕ) :
    (s.setMemWord k v).activation = s.activation := rfl

@[simp] theorem State.setMemWord_service (s : State) (k : ℕ) (v : ℕ) :
    (s.setMemWord k v).service = s.service := rfl

@[simp] theorem State.setMemWord_monitor (s : State) (k : ℕ) (v : ℕ) :
    (s.setMemWord k v).monitor = s.monitor := rfl

@[simp] theorem State.setMemWord_package (s : State) (k : ℕ) (v : ℕ) :
    (s.setMemWord k v).package = s.package := rfl

@[simp] theorem State.setMemWord_outputs (s : State) (k : ℕ) (v : ℕ) :
    (s.setMemWord k v).outputs = s.outputs := rfl

@[simp] theorem State.setMemWord_freeCtr (s : State) (k : ℕ) (v : ℕ) :
    (s.setMemWord k v).freeCtr = s.freeCtr := rfl

@[simp] theorem State.setMemWord_pending (s : State) (k : ℕ) (v : ℕ) :
    (s.setMemWord k v).pending = s.pending := rfl

/-! ### State.addTo: only `dict` -/

@[simp] theorem State.addTo_doms (s : State) (key : ℕ) (n : ℕ) :
    (s.addTo key n).doms = s.doms := rfl

@[simp] theorem State.addTo_store (s : State) (key : ℕ) (n : ℕ) :
    (s.addTo key n).store = s.store := rfl

@[simp] theorem State.addTo_storeDoms (s : State) (key : ℕ) (n : ℕ) :
    (s.addTo key n).storeDoms = s.storeDoms := rfl

@[simp] theorem State.addTo_storeSets (s : State) (key : ℕ) (n : ℕ) :
    (s.addTo key n).storeSets = s.storeSets := rfl

@[simp] theorem State.addTo_snapshot (s : State) (key : ℕ) (n : ℕ) :
    (s.addTo key n).snapshot = s.snapshot := rfl

@[simp] theorem State.addTo_snapshotDoms (s : State) (key : ℕ) (n : ℕ) :
    (s.addTo key n).snapshotDoms = s.snapshotDoms := rfl

@[simp] theorem State.addTo_timers (s : State) (key : ℕ) (n : ℕ) :
    (s.addTo key n).timers = s.timers := rfl

@[simp] theorem State.addTo_clock (s : State) (key : ℕ) (n : ℕ) :
    (s.addTo key n).clock = s.clock := rfl

@[simp] theorem State.addTo_servo (s : State) (key : ℕ) (n : ℕ) :
    (s.addTo key n).servo = s.servo := rfl

@[simp] theorem State.addTo_detectors (s : State) (key : ℕ) (n : ℕ) :
    (s.addTo key n).detectors = s.detectors := rfl

@[simp] theorem State.addTo_synce (s : State) (key : ℕ) (n : ℕ) :
    (s.addTo key n).synce = s.synce := rfl

@[simp] theorem State.addTo_ptp (s : State) (key : ℕ) (n : ℕ) :
    (s.addTo key n).ptp = s.ptp := rfl

@[simp] theorem State.addTo_pins (s : State) (key : ℕ) (n : ℕ) :
    (s.addTo key n).pins = s.pins := rfl

@[simp] theorem State.addTo_agent (s : State) (key : ℕ) (n : ℕ) :
    (s.addTo key n).agent = s.agent := rfl

@[simp] theorem State.addTo_log (s : State) (key : ℕ) (n : ℕ) :
    (s.addTo key n).log = s.log := rfl

@[simp] theorem State.addTo_mgmt (s : State) (key : ℕ) (n : ℕ) :
    (s.addTo key n).mgmt = s.mgmt := rfl

@[simp] theorem State.addTo_mortar (s : State) (key : ℕ) (n : ℕ) :
    (s.addTo key n).mortar = s.mortar := rfl

@[simp] theorem State.addTo_memory (s : State) (key : ℕ) (n : ℕ) :
    (s.addTo key n).memory = s.memory := rfl

@[simp] theorem State.addTo_ports (s : State) (key : ℕ) (n : ℕ) :
    (s.addTo key n).ports = s.ports := rfl

@[simp] theorem State.addTo_switch (s : State) (key : ℕ) (n : ℕ) :
    (s.addTo key n).switch = s.switch := rfl

@[simp] theorem State.addTo_modeChange (s : State) (key : ℕ) (n : ℕ) :
    (s.addTo key n).modeChange = s.modeChange := rfl

@[simp] theorem State.addTo_fwd (s : State) (key : ℕ) (n : ℕ) :
    (s.addTo key n).fwd = s.fwd := rfl

@[simp] theorem State.addTo_wall (s : State) (key : ℕ) (n : ℕ) :
    (s.addTo key n).wall = s.wall := rfl

@[simp] theorem State.addTo_redundancy (s : State) (key : ℕ) (n : ℕ) :
    (s.addTo key n).redundancy = s.redundancy := rfl

@[simp] theorem State.addTo_classify (s : State) (key : ℕ) (n : ℕ) :
    (s.addTo key n).classify = s.classify := rfl

@[simp] theorem State.addTo_trowel (s : State) (key : ℕ) (n : ℕ) :
    (s.addTo key n).trowel = s.trowel := rfl

@[simp] theorem State.addTo_cipher (s : State) (key : ℕ) (n : ℕ) :
    (s.addTo key n).cipher = s.cipher := rfl

@[simp] theorem State.addTo_hod (s : State) (key : ℕ) (n : ℕ) :
    (s.addTo key n).hod = s.hod := rfl

@[simp] theorem State.addTo_host (s : State) (key : ℕ) (n : ℕ) :
    (s.addTo key n).host = s.host := rfl

@[simp] theorem State.addTo_slices (s : State) (key : ℕ) (n : ℕ) :
    (s.addTo key n).slices = s.slices := rfl

@[simp] theorem State.addTo_storage (s : State) (key : ℕ) (n : ℕ) :
    (s.addTo key n).storage = s.storage := rfl

@[simp] theorem State.addTo_rdma (s : State) (key : ℕ) (n : ℕ) :
    (s.addTo key n).rdma = s.rdma := rfl

@[simp] theorem State.addTo_boot (s : State) (key : ℕ) (n : ℕ) :
    (s.addTo key n).boot = s.boot := rfl

@[simp] theorem State.addTo_keystone (s : State) (key : ℕ) (n : ℕ) :
    (s.addTo key n).keystone = s.keystone := rfl

@[simp] theorem State.addTo_activation (s : State) (key : ℕ) (n : ℕ) :
    (s.addTo key n).activation = s.activation := rfl

@[simp] theorem State.addTo_service (s : State) (key : ℕ) (n : ℕ) :
    (s.addTo key n).service = s.service := rfl

@[simp] theorem State.addTo_monitor (s : State) (key : ℕ) (n : ℕ) :
    (s.addTo key n).monitor = s.monitor := rfl

@[simp] theorem State.addTo_package (s : State) (key : ℕ) (n : ℕ) :
    (s.addTo key n).package = s.package := rfl

@[simp] theorem State.addTo_outputs (s : State) (key : ℕ) (n : ℕ) :
    (s.addTo key n).outputs = s.outputs := rfl

@[simp] theorem State.addTo_freeCtr (s : State) (key : ℕ) (n : ℕ) :
    (s.addTo key n).freeCtr = s.freeCtr := rfl

@[simp] theorem State.addTo_pending (s : State) (key : ℕ) (n : ℕ) :
    (s.addTo key n).pending = s.pending := rfl

/-! ### State.bump: only `dict` -/

@[simp] theorem State.bump_doms (s : State) (key : ℕ) :
    (s.bump key).doms = s.doms := rfl

@[simp] theorem State.bump_store (s : State) (key : ℕ) :
    (s.bump key).store = s.store := rfl

@[simp] theorem State.bump_storeDoms (s : State) (key : ℕ) :
    (s.bump key).storeDoms = s.storeDoms := rfl

@[simp] theorem State.bump_storeSets (s : State) (key : ℕ) :
    (s.bump key).storeSets = s.storeSets := rfl

@[simp] theorem State.bump_snapshot (s : State) (key : ℕ) :
    (s.bump key).snapshot = s.snapshot := rfl

@[simp] theorem State.bump_snapshotDoms (s : State) (key : ℕ) :
    (s.bump key).snapshotDoms = s.snapshotDoms := rfl

@[simp] theorem State.bump_timers (s : State) (key : ℕ) :
    (s.bump key).timers = s.timers := rfl

@[simp] theorem State.bump_clock (s : State) (key : ℕ) :
    (s.bump key).clock = s.clock := rfl

@[simp] theorem State.bump_servo (s : State) (key : ℕ) :
    (s.bump key).servo = s.servo := rfl

@[simp] theorem State.bump_detectors (s : State) (key : ℕ) :
    (s.bump key).detectors = s.detectors := rfl

@[simp] theorem State.bump_synce (s : State) (key : ℕ) :
    (s.bump key).synce = s.synce := rfl

@[simp] theorem State.bump_ptp (s : State) (key : ℕ) :
    (s.bump key).ptp = s.ptp := rfl

@[simp] theorem State.bump_pins (s : State) (key : ℕ) :
    (s.bump key).pins = s.pins := rfl

@[simp] theorem State.bump_agent (s : State) (key : ℕ) :
    (s.bump key).agent = s.agent := rfl

@[simp] theorem State.bump_log (s : State) (key : ℕ) :
    (s.bump key).log = s.log := rfl

@[simp] theorem State.bump_mgmt (s : State) (key : ℕ) :
    (s.bump key).mgmt = s.mgmt := rfl

@[simp] theorem State.bump_mortar (s : State) (key : ℕ) :
    (s.bump key).mortar = s.mortar := rfl

@[simp] theorem State.bump_memory (s : State) (key : ℕ) :
    (s.bump key).memory = s.memory := rfl

@[simp] theorem State.bump_ports (s : State) (key : ℕ) :
    (s.bump key).ports = s.ports := rfl

@[simp] theorem State.bump_switch (s : State) (key : ℕ) :
    (s.bump key).switch = s.switch := rfl

@[simp] theorem State.bump_modeChange (s : State) (key : ℕ) :
    (s.bump key).modeChange = s.modeChange := rfl

@[simp] theorem State.bump_fwd (s : State) (key : ℕ) :
    (s.bump key).fwd = s.fwd := rfl

@[simp] theorem State.bump_wall (s : State) (key : ℕ) :
    (s.bump key).wall = s.wall := rfl

@[simp] theorem State.bump_redundancy (s : State) (key : ℕ) :
    (s.bump key).redundancy = s.redundancy := rfl

@[simp] theorem State.bump_classify (s : State) (key : ℕ) :
    (s.bump key).classify = s.classify := rfl

@[simp] theorem State.bump_trowel (s : State) (key : ℕ) :
    (s.bump key).trowel = s.trowel := rfl

@[simp] theorem State.bump_cipher (s : State) (key : ℕ) :
    (s.bump key).cipher = s.cipher := rfl

@[simp] theorem State.bump_hod (s : State) (key : ℕ) :
    (s.bump key).hod = s.hod := rfl

@[simp] theorem State.bump_host (s : State) (key : ℕ) :
    (s.bump key).host = s.host := rfl

@[simp] theorem State.bump_slices (s : State) (key : ℕ) :
    (s.bump key).slices = s.slices := rfl

@[simp] theorem State.bump_storage (s : State) (key : ℕ) :
    (s.bump key).storage = s.storage := rfl

@[simp] theorem State.bump_rdma (s : State) (key : ℕ) :
    (s.bump key).rdma = s.rdma := rfl

@[simp] theorem State.bump_boot (s : State) (key : ℕ) :
    (s.bump key).boot = s.boot := rfl

@[simp] theorem State.bump_keystone (s : State) (key : ℕ) :
    (s.bump key).keystone = s.keystone := rfl

@[simp] theorem State.bump_activation (s : State) (key : ℕ) :
    (s.bump key).activation = s.activation := rfl

@[simp] theorem State.bump_service (s : State) (key : ℕ) :
    (s.bump key).service = s.service := rfl

@[simp] theorem State.bump_monitor (s : State) (key : ℕ) :
    (s.bump key).monitor = s.monitor := rfl

@[simp] theorem State.bump_package (s : State) (key : ℕ) :
    (s.bump key).package = s.package := rfl

@[simp] theorem State.bump_outputs (s : State) (key : ℕ) :
    (s.bump key).outputs = s.outputs := rfl

@[simp] theorem State.bump_freeCtr (s : State) (key : ℕ) :
    (s.bump key).freeCtr = s.freeCtr := rfl

@[simp] theorem State.bump_pending (s : State) (key : ℕ) :
    (s.bump key).pending = s.pending := rfl

/-! ### State.wrI: only `dict` -/

@[simp] theorem State.wrI_doms (s : State) (w : ℕ) (key : ℕ) (v : ℤ) :
    (s.wrI w key v).doms = s.doms := rfl

@[simp] theorem State.wrI_store (s : State) (w : ℕ) (key : ℕ) (v : ℤ) :
    (s.wrI w key v).store = s.store := rfl

@[simp] theorem State.wrI_storeDoms (s : State) (w : ℕ) (key : ℕ) (v : ℤ) :
    (s.wrI w key v).storeDoms = s.storeDoms := rfl

@[simp] theorem State.wrI_storeSets (s : State) (w : ℕ) (key : ℕ) (v : ℤ) :
    (s.wrI w key v).storeSets = s.storeSets := rfl

@[simp] theorem State.wrI_snapshot (s : State) (w : ℕ) (key : ℕ) (v : ℤ) :
    (s.wrI w key v).snapshot = s.snapshot := rfl

@[simp] theorem State.wrI_snapshotDoms (s : State) (w : ℕ) (key : ℕ) (v : ℤ) :
    (s.wrI w key v).snapshotDoms = s.snapshotDoms := rfl

@[simp] theorem State.wrI_timers (s : State) (w : ℕ) (key : ℕ) (v : ℤ) :
    (s.wrI w key v).timers = s.timers := rfl

@[simp] theorem State.wrI_clock (s : State) (w : ℕ) (key : ℕ) (v : ℤ) :
    (s.wrI w key v).clock = s.clock := rfl

@[simp] theorem State.wrI_servo (s : State) (w : ℕ) (key : ℕ) (v : ℤ) :
    (s.wrI w key v).servo = s.servo := rfl

@[simp] theorem State.wrI_detectors (s : State) (w : ℕ) (key : ℕ) (v : ℤ) :
    (s.wrI w key v).detectors = s.detectors := rfl

@[simp] theorem State.wrI_synce (s : State) (w : ℕ) (key : ℕ) (v : ℤ) :
    (s.wrI w key v).synce = s.synce := rfl

@[simp] theorem State.wrI_ptp (s : State) (w : ℕ) (key : ℕ) (v : ℤ) :
    (s.wrI w key v).ptp = s.ptp := rfl

@[simp] theorem State.wrI_pins (s : State) (w : ℕ) (key : ℕ) (v : ℤ) :
    (s.wrI w key v).pins = s.pins := rfl

@[simp] theorem State.wrI_agent (s : State) (w : ℕ) (key : ℕ) (v : ℤ) :
    (s.wrI w key v).agent = s.agent := rfl

@[simp] theorem State.wrI_log (s : State) (w : ℕ) (key : ℕ) (v : ℤ) :
    (s.wrI w key v).log = s.log := rfl

@[simp] theorem State.wrI_mgmt (s : State) (w : ℕ) (key : ℕ) (v : ℤ) :
    (s.wrI w key v).mgmt = s.mgmt := rfl

@[simp] theorem State.wrI_mortar (s : State) (w : ℕ) (key : ℕ) (v : ℤ) :
    (s.wrI w key v).mortar = s.mortar := rfl

@[simp] theorem State.wrI_memory (s : State) (w : ℕ) (key : ℕ) (v : ℤ) :
    (s.wrI w key v).memory = s.memory := rfl

@[simp] theorem State.wrI_ports (s : State) (w : ℕ) (key : ℕ) (v : ℤ) :
    (s.wrI w key v).ports = s.ports := rfl

@[simp] theorem State.wrI_switch (s : State) (w : ℕ) (key : ℕ) (v : ℤ) :
    (s.wrI w key v).switch = s.switch := rfl

@[simp] theorem State.wrI_modeChange (s : State) (w : ℕ) (key : ℕ) (v : ℤ) :
    (s.wrI w key v).modeChange = s.modeChange := rfl

@[simp] theorem State.wrI_fwd (s : State) (w : ℕ) (key : ℕ) (v : ℤ) :
    (s.wrI w key v).fwd = s.fwd := rfl

@[simp] theorem State.wrI_wall (s : State) (w : ℕ) (key : ℕ) (v : ℤ) :
    (s.wrI w key v).wall = s.wall := rfl

@[simp] theorem State.wrI_redundancy (s : State) (w : ℕ) (key : ℕ) (v : ℤ) :
    (s.wrI w key v).redundancy = s.redundancy := rfl

@[simp] theorem State.wrI_classify (s : State) (w : ℕ) (key : ℕ) (v : ℤ) :
    (s.wrI w key v).classify = s.classify := rfl

@[simp] theorem State.wrI_trowel (s : State) (w : ℕ) (key : ℕ) (v : ℤ) :
    (s.wrI w key v).trowel = s.trowel := rfl

@[simp] theorem State.wrI_cipher (s : State) (w : ℕ) (key : ℕ) (v : ℤ) :
    (s.wrI w key v).cipher = s.cipher := rfl

@[simp] theorem State.wrI_hod (s : State) (w : ℕ) (key : ℕ) (v : ℤ) :
    (s.wrI w key v).hod = s.hod := rfl

@[simp] theorem State.wrI_host (s : State) (w : ℕ) (key : ℕ) (v : ℤ) :
    (s.wrI w key v).host = s.host := rfl

@[simp] theorem State.wrI_slices (s : State) (w : ℕ) (key : ℕ) (v : ℤ) :
    (s.wrI w key v).slices = s.slices := rfl

@[simp] theorem State.wrI_storage (s : State) (w : ℕ) (key : ℕ) (v : ℤ) :
    (s.wrI w key v).storage = s.storage := rfl

@[simp] theorem State.wrI_rdma (s : State) (w : ℕ) (key : ℕ) (v : ℤ) :
    (s.wrI w key v).rdma = s.rdma := rfl

@[simp] theorem State.wrI_boot (s : State) (w : ℕ) (key : ℕ) (v : ℤ) :
    (s.wrI w key v).boot = s.boot := rfl

@[simp] theorem State.wrI_keystone (s : State) (w : ℕ) (key : ℕ) (v : ℤ) :
    (s.wrI w key v).keystone = s.keystone := rfl

@[simp] theorem State.wrI_activation (s : State) (w : ℕ) (key : ℕ) (v : ℤ) :
    (s.wrI w key v).activation = s.activation := rfl

@[simp] theorem State.wrI_service (s : State) (w : ℕ) (key : ℕ) (v : ℤ) :
    (s.wrI w key v).service = s.service := rfl

@[simp] theorem State.wrI_monitor (s : State) (w : ℕ) (key : ℕ) (v : ℤ) :
    (s.wrI w key v).monitor = s.monitor := rfl

@[simp] theorem State.wrI_package (s : State) (w : ℕ) (key : ℕ) (v : ℤ) :
    (s.wrI w key v).package = s.package := rfl

@[simp] theorem State.wrI_outputs (s : State) (w : ℕ) (key : ℕ) (v : ℤ) :
    (s.wrI w key v).outputs = s.outputs := rfl

@[simp] theorem State.wrI_freeCtr (s : State) (w : ℕ) (key : ℕ) (v : ℤ) :
    (s.wrI w key v).freeCtr = s.freeCtr := rfl

@[simp] theorem State.wrI_pending (s : State) (w : ℕ) (key : ℕ) (v : ℤ) :
    (s.wrI w key v).pending = s.pending := rfl

end Sys2Proof.Machine
end

