-- ==== Sys2Proof/Laws/Ops.lean ====
section
/-! SUPPORT. Laws/Ops.lean: the laws of the shared operations: the dictionary's read after its write, counters, timers,
the event log. -/

namespace Sys2Proof.Machine

/-! ### The dictionary -/

@[simp] theorem State.rd_wr_same (s : State) (k v : Nat) : (s.wr k v).rd k = v :=
  tblGet_tblSet_same (odDefault k) s.dict k v

theorem State.rd_wr_ne (s : State) {j k : Nat} (v : Nat) (h : j ≠ k) : (s.wr k v).rd j = s.rd j :=
  tblGet_tblSet_ne (odDefault k) (odDefault j) s.dict v h

theorem State.rd_wr (s : State) (j k v : Nat) : (s.wr k v).rd j = if j = k then v else s.rd j := by
  split
  · next h => subst h; exact s.rd_wr_same j v
  · next h => exact s.rd_wr_ne v h

@[simp] theorem State.dom_setDom_same (s : State) (k : Nat) (bs : List Byte) : (s.setDom k bs).dom k = bs :=
  tblGet_tblSet_same [] s.doms k bs

theorem State.dom_setDom_ne (s : State) {j k : Nat} (bs : List Byte) (h : j ≠ k) : (s.setDom k bs).dom j = s.dom j :=
  tblGet_tblSet_ne [] [] s.doms bs h

@[simp] theorem State.rd_addTo_same (s : State) (k n : Nat) : (s.addTo k n).rd k = (s.rd k + n) % 2 ^ 64 :=
  s.rd_wr_same k _

theorem State.rd_addTo_ne (s : State) {j k : Nat} (n : Nat) (h : j ≠ k) : (s.addTo k n).rd j = s.rd j := s.rd_wr_ne _ h

@[simp] theorem State.rd_bump_same (s : State) (k : Nat) : (s.bump k).rd k = (s.rd k + 1) % 2 ^ 64 := s.rd_addTo_same k 1

theorem State.rd_bump_ne (s : State) {j k : Nat} (h : j ≠ k) : (s.bump k).rd j = s.rd j := s.rd_addTo_ne 1 h

/-! ### Timers -/

theorem State.armed_arm (s : State) (k : Nat) : (s.arm k).armed k = true := by
  simp only [State.armed, State.arm, List.any_eq_true]
  generalize s.timers = t
  generalize (⟨s.course, 0⟩ : Timer) = x
  induction t with
  | nil => exact ⟨(k, x), by simp [tblPut], by simp⟩
  | cons e t ih =>
    obtain ⟨k', v'⟩ := e
    unfold tblPut
    split
    · exact ⟨(k, x), by simp, by simp⟩
    · split
      · exact ⟨(k, x), by simp, by simp⟩
      · obtain ⟨y, hy, hk⟩ := ih
        exact ⟨y, List.mem_cons_of_mem _ hy, hk⟩

theorem State.armed_disarm (s : State) (k : Nat) : (s.disarm k).armed k = false := by
  simp only [State.armed, State.disarm]
  generalize s.timers = t
  induction t with
  | nil => rfl
  | cons e t ih =>
    obtain ⟨k', v'⟩ := e
    unfold tblDel
    split
    · exact ih
    · next h => simp only [List.any_cons, ih, Bool.or_false, beq_eq_false_iff_ne]; exact fun hk => h hk.symm

@[simp] theorem State.rd_setDom (s : State) (key : ℕ) (bs : List Byte) (k₀ : ℕ) : (s.setDom key bs).rd k₀ = s.rd k₀ := rfl

@[simp] theorem State.rd_emit (s : State) (o : Out) (k₀ : ℕ) : (s.emit o).rd k₀ = s.rd k₀ := rfl

@[simp] theorem State.dom_emit (s : State) (o : Out) (k₀ : ℕ) : (s.emit o).dom k₀ = s.dom k₀ := rfl

@[simp] theorem State.rd_drawn (s : State) (k₀ : ℕ) : (s.drawn).rd k₀ = s.rd k₀ := rfl

@[simp] theorem State.dom_drawn (s : State) (k₀ : ℕ) : (s.drawn).dom k₀ = s.dom k₀ := rfl

@[simp] theorem State.rd_moveTo (s : State) (off : ℕ) (k₀ : ℕ) : (s.moveTo off).rd k₀ = s.rd k₀ := rfl

@[simp] theorem State.dom_moveTo (s : State) (off : ℕ) (k₀ : ℕ) : (s.moveTo off).dom k₀ = s.dom k₀ := rfl

@[simp] theorem State.rd_arm (s : State) (key : ℕ) (k₀ : ℕ) : (s.arm key).rd k₀ = s.rd k₀ := rfl

@[simp] theorem State.dom_arm (s : State) (key : ℕ) (k₀ : ℕ) : (s.arm key).dom k₀ = s.dom k₀ := rfl

@[simp] theorem State.rd_disarm (s : State) (key : ℕ) (k₀ : ℕ) : (s.disarm key).rd k₀ = s.rd k₀ := rfl

@[simp] theorem State.dom_disarm (s : State) (key : ℕ) (k₀ : ℕ) : (s.disarm key).dom k₀ = s.dom k₀ := rfl

@[simp] theorem State.rd_carry (s : State) (src : ℕ) (dest : ℕ) (vn : ℕ) (len : ℕ) (cls : ℕ) (handle : ℕ) (k₀ : ℕ) : (s.carry src dest vn len cls handle).rd k₀ = s.rd k₀ := rfl

@[simp] theorem State.dom_carry (s : State) (src : ℕ) (dest : ℕ) (vn : ℕ) (len : ℕ) (cls : ℕ) (handle : ℕ) (k₀ : ℕ) : (s.carry src dest vn len cls handle).dom k₀ = s.dom k₀ := rfl

@[simp] theorem State.rd_setSource (s : State) (src : ℕ) (x1 : Source) (k₀ : ℕ) : (s.setSource src x1).rd k₀ = s.rd k₀ := rfl

@[simp] theorem State.dom_setSource (s : State) (src : ℕ) (x1 : Source) (k₀ : ℕ) : (s.setSource src x1).dom k₀ = s.dom k₀ := rfl

@[simp] theorem State.rd_setDetector (s : State) (lane : ℕ) (d : Detector) (k₀ : ℕ) : (s.setDetector lane d).rd k₀ = s.rd k₀ := rfl

@[simp] theorem State.dom_setDetector (s : State) (lane : ℕ) (d : Detector) (k₀ : ℕ) : (s.setDetector lane d).dom k₀ = s.dom k₀ := rfl

@[simp] theorem State.rd_setPtp (s : State) (p : ℕ) (x1 : PtpPort) (k₀ : ℕ) : (s.setPtp p x1).rd k₀ = s.rd k₀ := rfl

@[simp] theorem State.dom_setPtp (s : State) (p : ℕ) (x1 : PtpPort) (k₀ : ℕ) : (s.setPtp p x1).dom k₀ = s.dom k₀ := rfl

@[simp] theorem State.rd_setPort (s : State) (p : ℕ) (x1 : Port) (k₀ : ℕ) : (s.setPort p x1).rd k₀ = s.rd k₀ := rfl

@[simp] theorem State.dom_setPort (s : State) (p : ℕ) (x1 : Port) (k₀ : ℕ) : (s.setPort p x1).dom k₀ = s.dom k₀ := rfl

@[simp] theorem State.rd_setHostFn (s : State) (f : ℕ) (x1 : HostFn) (k₀ : ℕ) : (s.setHostFn f x1).rd k₀ = s.rd k₀ := rfl

@[simp] theorem State.dom_setHostFn (s : State) (f : ℕ) (x1 : HostFn) (k₀ : ℕ) : (s.setHostFn f x1).dom k₀ = s.dom k₀ := rfl

@[simp] theorem State.rd_setQp (s : State) (k : ℕ) (x1 : QueuePair) (k₀ : ℕ) : (s.setQp k x1).rd k₀ = s.rd k₀ := rfl

@[simp] theorem State.dom_setQp (s : State) (k : ℕ) (x1 : QueuePair) (k₀ : ℕ) : (s.setQp k x1).dom k₀ = s.dom k₀ := rfl

@[simp] theorem State.rd_setBlock (s : State) (f : ℕ) (slice : ℕ) (x1 : SliceBlock) (k₀ : ℕ) : (s.setBlock f slice x1).rd k₀ = s.rd k₀ := rfl

@[simp] theorem State.dom_setBlock (s : State) (f : ℕ) (slice : ℕ) (x1 : SliceBlock) (k₀ : ℕ) : (s.setBlock f slice x1).dom k₀ = s.dom k₀ := rfl

@[simp] theorem State.rd_bumpSlice (s : State) (slice : ℕ) (i : ℕ) (k₀ : ℕ) : (s.bumpSlice slice i).rd k₀ = s.rd k₀ := rfl

@[simp] theorem State.dom_bumpSlice (s : State) (slice : ℕ) (i : ℕ) (k₀ : ℕ) : (s.bumpSlice slice i).dom k₀ = s.dom k₀ := rfl

@[simp] theorem State.rd_opStart (s : State) (slice : ℕ) (k₀ : ℕ) : (s.opStart slice).rd k₀ = s.rd k₀ := rfl

@[simp] theorem State.dom_opStart (s : State) (slice : ℕ) (k₀ : ℕ) : (s.opStart slice).dom k₀ = s.dom k₀ := rfl

@[simp] theorem State.rd_opEnd (s : State) (slice : ℕ) (k₀ : ℕ) : (s.opEnd slice).rd k₀ = s.rd k₀ := rfl

@[simp] theorem State.dom_opEnd (s : State) (slice : ℕ) (k₀ : ℕ) : (s.opEnd slice).dom k₀ = s.dom k₀ := rfl

@[simp] theorem State.rd_setRing (s : State) (link : ℕ) (x1 : EventRing) (k₀ : ℕ) : (s.setRing link x1).rd k₀ = s.rd k₀ := rfl

@[simp] theorem State.dom_setRing (s : State) (link : ℕ) (x1 : EventRing) (k₀ : ℕ) : (s.setRing link x1).dom k₀ = s.dom k₀ := rfl

@[simp] theorem State.rd_setPin (s : State) (n : ℕ) (x1 : Pin) (k₀ : ℕ) : (s.setPin n x1).rd k₀ = s.rd k₀ := rfl

@[simp] theorem State.dom_setPin (s : State) (n : ℕ) (x1 : Pin) (k₀ : ℕ) : (s.setPin n x1).dom k₀ = s.dom k₀ := rfl

@[simp] theorem State.rd_setQueue (s : State) (p : ℕ) (c : ℕ) (q1 : Queue) (k₀ : ℕ) : (s.setQueue p c q1).rd k₀ = s.rd k₀ := rfl

@[simp] theorem State.dom_setQueue (s : State) (p : ℕ) (c : ℕ) (q1 : Queue) (k₀ : ℕ) : (s.setQueue p c q1).dom k₀ = s.dom k₀ := rfl

@[simp] theorem State.rd_setEgress (s : State) (p : ℕ) (x1 : Egress) (k₀ : ℕ) : (s.setEgress p x1).rd k₀ = s.rd k₀ := rfl

@[simp] theorem State.dom_setEgress (s : State) (p : ℕ) (x1 : Egress) (k₀ : ℕ) : (s.setEgress p x1).dom k₀ = s.dom k₀ := rfl

@[simp] theorem State.rd_setIngress (s : State) (p : ℕ) (c : ℕ) (x1 : Ingress) (k₀ : ℕ) : (s.setIngress p c x1).rd k₀ = s.rd k₀ := rfl

@[simp] theorem State.dom_setIngress (s : State) (p : ℕ) (c : ℕ) (x1 : Ingress) (k₀ : ℕ) : (s.setIngress p c x1).dom k₀ = s.dom k₀ := rfl

@[simp] theorem State.rd_setAligned (s : State) (q1 : ℕ) (x1 : Aligned) (k₀ : ℕ) : (s.setAligned q1 x1).rd k₀ = s.rd k₀ := rfl

@[simp] theorem State.dom_setAligned (s : State) (q1 : ℕ) (x1 : Aligned) (k₀ : ℕ) : (s.setAligned q1 x1).dom k₀ = s.dom k₀ := rfl

@[simp] theorem State.rd_setKeySlot (s : State) (n : ℕ) (x1 : KeySlot) (k₀ : ℕ) : (s.setKeySlot n x1).rd k₀ = s.rd k₀ := rfl

@[simp] theorem State.dom_setKeySlot (s : State) (n : ℕ) (x1 : KeySlot) (k₀ : ℕ) : (s.setKeySlot n x1).dom k₀ = s.dom k₀ := rfl

@[simp] theorem State.rd_setInline (s : State) (t1 : ℕ) (x1 : InlineCluster) (k₀ : ℕ) : (s.setInline t1 x1).rd k₀ = s.rd k₀ := rfl

@[simp] theorem State.dom_setInline (s : State) (t1 : ℕ) (x1 : InlineCluster) (k₀ : ℕ) : (s.setInline t1 x1).dom k₀ = s.dom k₀ := rfl

@[simp] theorem State.rd_setSa (s : State) (p : ℕ) (channel : ℕ) (an : ℕ) (x1 : MacsecSa) (k₀ : ℕ) : (s.setSa p channel an x1).rd k₀ = s.rd k₀ := rfl

@[simp] theorem State.dom_setSa (s : State) (p : ℕ) (channel : ℕ) (an : ℕ) (x1 : MacsecSa) (k₀ : ℕ) : (s.setSa p channel an x1).dom k₀ = s.dom k₀ := rfl

@[simp] theorem State.rd_setEsp (s : State) (slot : ℕ) (x1 : EspSa) (k₀ : ℕ) : (s.setEsp slot x1).rd k₀ = s.rd k₀ := rfl

@[simp] theorem State.dom_setEsp (s : State) (slot : ℕ) (x1 : EspSa) (k₀ : ℕ) : (s.setEsp slot x1).dom k₀ = s.dom k₀ := rfl

@[simp] theorem State.rd_setTernary (s : State) (t1 : ℕ) (x1 : Ternary) (k₀ : ℕ) : (s.setTernary t1 x1).rd k₀ = s.rd k₀ := rfl

@[simp] theorem State.dom_setTernary (s : State) (t1 : ℕ) (x1 : Ternary) (k₀ : ℕ) : (s.setTernary t1 x1).dom k₀ = s.dom k₀ := rfl

@[simp] theorem State.rd_setExact (s : State) (x1 : ℕ) (e1 : Exact) (k₀ : ℕ) : (s.setExact x1 e1).rd k₀ = s.rd k₀ := rfl

@[simp] theorem State.dom_setExact (s : State) (x1 : ℕ) (e1 : Exact) (k₀ : ℕ) : (s.setExact x1 e1).dom k₀ = s.dom k₀ := rfl

@[simp] theorem State.rd_setPolicer (s : State) (i : ℕ) (x1 : Policer) (k₀ : ℕ) : (s.setPolicer i x1).rd k₀ = s.rd k₀ := rfl

@[simp] theorem State.dom_setPolicer (s : State) (i : ℕ) (x1 : Policer) (k₀ : ℕ) : (s.setPolicer i x1).dom k₀ = s.dom k₀ := rfl

@[simp] theorem State.rd_setPipe (s : State) (q1 : ℕ) (x1 : Pipe) (k₀ : ℕ) : (s.setPipe q1 x1).rd k₀ = s.rd k₀ := rfl

@[simp] theorem State.dom_setPipe (s : State) (q1 : ℕ) (x1 : Pipe) (k₀ : ℕ) : (s.setPipe q1 x1).dom k₀ = s.dom k₀ := rfl

@[simp] theorem State.rd_setWindow (s : State) (port : ℕ) (w : ℕ) (x1 : PeerWindow) (k₀ : ℕ) : (s.setWindow port w x1).rd k₀ = s.rd k₀ := rfl

@[simp] theorem State.dom_setWindow (s : State) (port : ℕ) (w : ℕ) (x1 : PeerWindow) (k₀ : ℕ) : (s.setWindow port w x1).dom k₀ = s.dom k₀ := rfl

@[simp] theorem State.rd_setNvq (s : State) (k : ℕ) (x1 : NvmeQueue) (k₀ : ℕ) : (s.setNvq k x1).rd k₀ = s.rd k₀ := rfl

@[simp] theorem State.dom_setNvq (s : State) (k : ℕ) (x1 : NvmeQueue) (k₀ : ℕ) : (s.setNvq k x1).dom k₀ = s.dom k₀ := rfl

@[simp] theorem State.rd_setCluster (s : State) (t1 : ℕ) (x1 : Cluster) (k₀ : ℕ) : (s.setCluster t1 x1).rd k₀ = s.rd k₀ := rfl

@[simp] theorem State.dom_setCluster (s : State) (t1 : ℕ) (x1 : Cluster) (k₀ : ℕ) : (s.setCluster t1 x1).dom k₀ = s.dom k₀ := rfl

@[simp] theorem State.rd_setCtrl (s : State) (link : ℕ) (x1 : NvmeCtrl) (k₀ : ℕ) : (s.setCtrl link x1).rd k₀ = s.rd k₀ := rfl

@[simp] theorem State.dom_setCtrl (s : State) (link : ℕ) (x1 : NvmeCtrl) (k₀ : ℕ) : (s.setCtrl link x1).dom k₀ = s.dom k₀ := rfl

@[simp] theorem State.rd_setNspace (s : State) (n : ℕ) (x1 : Namespace) (k₀ : ℕ) : (s.setNspace n x1).rd k₀ = s.rd k₀ := rfl

@[simp] theorem State.dom_setNspace (s : State) (n : ℕ) (x1 : Namespace) (k₀ : ℕ) : (s.setNspace n x1).dom k₀ = s.dom k₀ := rfl

@[simp] theorem State.rd_nsCount (s : State) (n : ℕ) (i : ℕ) (k : ℕ) (k₀ : ℕ) : (s.nsCount n i k).rd k₀ = s.rd k₀ := rfl

@[simp] theorem State.dom_nsCount (s : State) (n : ℕ) (i : ℕ) (k : ℕ) (k₀ : ℕ) : (s.nsCount n i k).dom k₀ = s.dom k₀ := rfl

@[simp] theorem State.rd_setNvCmd (s : State) (c : NvmeCmd) (k₀ : ℕ) : (s.setNvCmd c).rd k₀ = s.rd k₀ := rfl

@[simp] theorem State.dom_setNvCmd (s : State) (c : NvmeCmd) (k₀ : ℕ) : (s.setNvCmd c).dom k₀ = s.dom k₀ := rfl

@[simp] theorem State.rd_setRqp (s : State) (n : ℕ) (x1 : RdmaQp) (k₀ : ℕ) : (s.setRqp n x1).rd k₀ = s.rd k₀ := rfl

@[simp] theorem State.dom_setRqp (s : State) (n : ℕ) (x1 : RdmaQp) (k₀ : ℕ) : (s.setRqp n x1).dom k₀ = s.dom k₀ := rfl

@[simp] theorem State.rd_setPacing (s : State) (n : ℕ) (x1 : Pacing) (k₀ : ℕ) : (s.setPacing n x1).rd k₀ = s.rd k₀ := rfl

@[simp] theorem State.dom_setPacing (s : State) (n : ℕ) (x1 : Pacing) (k₀ : ℕ) : (s.setPacing n x1).dom k₀ = s.dom k₀ := rfl

@[simp] theorem State.rd_setRcq (s : State) (n : ℕ) (x1 : RdmaCq) (k₀ : ℕ) : (s.setRcq n x1).rd k₀ = s.rd k₀ := rfl

@[simp] theorem State.dom_setRcq (s : State) (n : ℕ) (x1 : RdmaCq) (k₀ : ℕ) : (s.setRcq n x1).dom k₀ = s.dom k₀ := rfl

@[simp] theorem State.rd_setRegion (s : State) (n : ℕ) (x1 : Region) (k₀ : ℕ) : (s.setRegion n x1).rd k₀ = s.rd k₀ := rfl

@[simp] theorem State.dom_setRegion (s : State) (n : ℕ) (x1 : Region) (k₀ : ℕ) : (s.setRegion n x1).dom k₀ = s.dom k₀ := rfl

@[simp] theorem State.rd_setStaged (s : State) (ctx : ℕ) (l : List Item) (k₀ : ℕ) : (s.setStaged ctx l).rd k₀ = s.rd k₀ := rfl

@[simp] theorem State.dom_setStaged (s : State) (ctx : ℕ) (l : List Item) (k₀ : ℕ) : (s.setStaged ctx l).dom k₀ = s.dom k₀ := rfl

@[simp] theorem State.rd_setSession (s : State) (x1 : Session) (k₀ : ℕ) : (s.setSession x1).rd k₀ = s.rd k₀ := rfl

@[simp] theorem State.dom_setSession (s : State) (x1 : Session) (k₀ : ℕ) : (s.setSession x1).dom k₀ = s.dom k₀ := rfl

@[simp] theorem State.rd_setMailbox (s : State) (link : ℕ) (x1 : Mailbox) (k₀ : ℕ) : (s.setMailbox link x1).rd k₀ = s.rd k₀ := rfl

@[simp] theorem State.dom_setMailbox (s : State) (link : ℕ) (x1 : Mailbox) (k₀ : ℕ) : (s.setMailbox link x1).dom k₀ = s.dom k₀ := rfl

@[simp] theorem State.rd_setCoreWindow (s : State) (n : ℕ) (x1 : Mailbox) (k₀ : ℕ) : (s.setCoreWindow n x1).rd k₀ = s.rd k₀ := rfl

@[simp] theorem State.dom_setCoreWindow (s : State) (n : ℕ) (x1 : Mailbox) (k₀ : ℕ) : (s.setCoreWindow n x1).dom k₀ = s.dom k₀ := rfl

@[simp] theorem State.rd_shiftEdges (s : State) (d : ℤ) (k₀ : ℕ) : (s.shiftEdges d).rd k₀ = s.rd k₀ := rfl

@[simp] theorem State.dom_shiftEdges (s : State) (d : ℤ) (k₀ : ℕ) : (s.shiftEdges d).dom k₀ = s.dom k₀ := rfl

@[simp] theorem State.rd_setMemWord (s : State) (k : ℕ) (v : ℕ) (k₀ : ℕ) : (s.setMemWord k v).rd k₀ = s.rd k₀ := rfl

@[simp] theorem State.dom_setMemWord (s : State) (k : ℕ) (v : ℕ) (k₀ : ℕ) : (s.setMemWord k v).dom k₀ = s.dom k₀ := rfl

@[simp] theorem State.dom_wr (s : State) (k v : ℕ) (k₀ : ℕ) : (s.wr k v).dom k₀ = s.dom k₀ := rfl

@[simp] theorem State.dom_addTo (s : State) (k v : ℕ) (k₀ : ℕ) : (s.addTo k v).dom k₀ = s.dom k₀ := rfl

@[simp] theorem State.dom_bump (s : State) (k : ℕ) (k₀ : ℕ) : (s.bump k).dom k₀ = s.dom k₀ := rfl

/-! ### The event log (R551, R552) -/

@[simp] theorem State.record_doms (s : State) (code param : Nat) : (s.record code param).doms = s.doms := by
  unfold State.record; dsimp only; split <;> rfl

@[simp] theorem State.raise_doms (s : State) (code param : Nat) : (s.raise code param).doms = s.doms := by
  unfold State.raise; split
  · exact s.record_doms code param
  · rfl

@[simp] theorem State.raiseLimited_doms (s : State) (code inst n param : Nat) :
    (s.raiseLimited code inst n param).doms = s.doms := by
  unfold State.raiseLimited; dsimp only; split
  · exact State.raise_doms _ code param
  · rfl

@[simp] theorem State.record_store (s : State) (code param : Nat) : (s.record code param).store = s.store := by
  unfold State.record; dsimp only; split <;> rfl

@[simp] theorem State.raise_store (s : State) (code param : Nat) : (s.raise code param).store = s.store := by
  unfold State.raise; split
  · exact s.record_store code param
  · rfl

@[simp] theorem State.raiseLimited_store (s : State) (code inst n param : Nat) :
    (s.raiseLimited code inst n param).store = s.store := by
  unfold State.raiseLimited; dsimp only; split
  · exact State.raise_store _ code param
  · rfl

@[simp] theorem State.record_storeDoms (s : State) (code param : Nat) : (s.record code param).storeDoms = s.storeDoms := by
  unfold State.record; dsimp only; split <;> rfl

@[simp] theorem State.raise_storeDoms (s : State) (code param : Nat) : (s.raise code param).storeDoms = s.storeDoms := by
  unfold State.raise; split
  · exact s.record_storeDoms code param
  · rfl

@[simp] theorem State.raiseLimited_storeDoms (s : State) (code inst n param : Nat) :
    (s.raiseLimited code inst n param).storeDoms = s.storeDoms := by
  unfold State.raiseLimited; dsimp only; split
  · exact State.raise_storeDoms _ code param
  · rfl

@[simp] theorem State.record_storeSets (s : State) (code param : Nat) : (s.record code param).storeSets = s.storeSets := by
  unfold State.record; dsimp only; split <;> rfl

@[simp] theorem State.raise_storeSets (s : State) (code param : Nat) : (s.raise code param).storeSets = s.storeSets := by
  unfold State.raise; split
  · exact s.record_storeSets code param
  · rfl

@[simp] theorem State.raiseLimited_storeSets (s : State) (code inst n param : Nat) :
    (s.raiseLimited code inst n param).storeSets = s.storeSets := by
  unfold State.raiseLimited; dsimp only; split
  · exact State.raise_storeSets _ code param
  · rfl

@[simp] theorem State.record_snapshot (s : State) (code param : Nat) : (s.record code param).snapshot = s.snapshot := by
  unfold State.record; dsimp only; split <;> rfl

@[simp] theorem State.raise_snapshot (s : State) (code param : Nat) : (s.raise code param).snapshot = s.snapshot := by
  unfold State.raise; split
  · exact s.record_snapshot code param
  · rfl

@[simp] theorem State.raiseLimited_snapshot (s : State) (code inst n param : Nat) :
    (s.raiseLimited code inst n param).snapshot = s.snapshot := by
  unfold State.raiseLimited; dsimp only; split
  · exact State.raise_snapshot _ code param
  · rfl

@[simp] theorem State.record_snapshotDoms (s : State) (code param : Nat) : (s.record code param).snapshotDoms = s.snapshotDoms := by
  unfold State.record; dsimp only; split <;> rfl

@[simp] theorem State.raise_snapshotDoms (s : State) (code param : Nat) : (s.raise code param).snapshotDoms = s.snapshotDoms := by
  unfold State.raise; split
  · exact s.record_snapshotDoms code param
  · rfl

@[simp] theorem State.raiseLimited_snapshotDoms (s : State) (code inst n param : Nat) :
    (s.raiseLimited code inst n param).snapshotDoms = s.snapshotDoms := by
  unfold State.raiseLimited; dsimp only; split
  · exact State.raise_snapshotDoms _ code param
  · rfl

@[simp] theorem State.record_timers (s : State) (code param : Nat) : (s.record code param).timers = s.timers := by
  unfold State.record; dsimp only; split <;> rfl

@[simp] theorem State.raise_timers (s : State) (code param : Nat) : (s.raise code param).timers = s.timers := by
  unfold State.raise; split
  · exact s.record_timers code param
  · rfl

@[simp] theorem State.raiseLimited_timers (s : State) (code inst n param : Nat) :
    (s.raiseLimited code inst n param).timers = s.timers := by
  unfold State.raiseLimited; dsimp only; split
  · exact State.raise_timers _ code param
  · rfl

@[simp] theorem State.record_clock (s : State) (code param : Nat) : (s.record code param).clock = s.clock := by
  unfold State.record; dsimp only; split <;> rfl

@[simp] theorem State.raise_clock (s : State) (code param : Nat) : (s.raise code param).clock = s.clock := by
  unfold State.raise; split
  · exact s.record_clock code param
  · rfl

@[simp] theorem State.raiseLimited_clock (s : State) (code inst n param : Nat) :
    (s.raiseLimited code inst n param).clock = s.clock := by
  unfold State.raiseLimited; dsimp only; split
  · exact State.raise_clock _ code param
  · rfl

@[simp] theorem State.record_servo (s : State) (code param : Nat) : (s.record code param).servo = s.servo := by
  unfold State.record; dsimp only; split <;> rfl

@[simp] theorem State.raise_servo (s : State) (code param : Nat) : (s.raise code param).servo = s.servo := by
  unfold State.raise; split
  · exact s.record_servo code param
  · rfl

@[simp] theorem State.raiseLimited_servo (s : State) (code inst n param : Nat) :
    (s.raiseLimited code inst n param).servo = s.servo := by
  unfold State.raiseLimited; dsimp only; split
  · exact State.raise_servo _ code param
  · rfl

@[simp] theorem State.record_detectors (s : State) (code param : Nat) : (s.record code param).detectors = s.detectors := by
  unfold State.record; dsimp only; split <;> rfl

@[simp] theorem State.raise_detectors (s : State) (code param : Nat) : (s.raise code param).detectors = s.detectors := by
  unfold State.raise; split
  · exact s.record_detectors code param
  · rfl

@[simp] theorem State.raiseLimited_detectors (s : State) (code inst n param : Nat) :
    (s.raiseLimited code inst n param).detectors = s.detectors := by
  unfold State.raiseLimited; dsimp only; split
  · exact State.raise_detectors _ code param
  · rfl

@[simp] theorem State.record_synce (s : State) (code param : Nat) : (s.record code param).synce = s.synce := by
  unfold State.record; dsimp only; split <;> rfl

@[simp] theorem State.raise_synce (s : State) (code param : Nat) : (s.raise code param).synce = s.synce := by
  unfold State.raise; split
  · exact s.record_synce code param
  · rfl

@[simp] theorem State.raiseLimited_synce (s : State) (code inst n param : Nat) :
    (s.raiseLimited code inst n param).synce = s.synce := by
  unfold State.raiseLimited; dsimp only; split
  · exact State.raise_synce _ code param
  · rfl

@[simp] theorem State.record_ptp (s : State) (code param : Nat) : (s.record code param).ptp = s.ptp := by
  unfold State.record; dsimp only; split <;> rfl

@[simp] theorem State.raise_ptp (s : State) (code param : Nat) : (s.raise code param).ptp = s.ptp := by
  unfold State.raise; split
  · exact s.record_ptp code param
  · rfl

@[simp] theorem State.raiseLimited_ptp (s : State) (code inst n param : Nat) :
    (s.raiseLimited code inst n param).ptp = s.ptp := by
  unfold State.raiseLimited; dsimp only; split
  · exact State.raise_ptp _ code param
  · rfl

@[simp] theorem State.record_pins (s : State) (code param : Nat) : (s.record code param).pins = s.pins := by
  unfold State.record; dsimp only; split <;> rfl

@[simp] theorem State.raise_pins (s : State) (code param : Nat) : (s.raise code param).pins = s.pins := by
  unfold State.raise; split
  · exact s.record_pins code param
  · rfl

@[simp] theorem State.raiseLimited_pins (s : State) (code inst n param : Nat) :
    (s.raiseLimited code inst n param).pins = s.pins := by
  unfold State.raiseLimited; dsimp only; split
  · exact State.raise_pins _ code param
  · rfl

@[simp] theorem State.record_mgmt (s : State) (code param : Nat) : (s.record code param).mgmt = s.mgmt := by
  unfold State.record; dsimp only; split <;> rfl

@[simp] theorem State.raise_mgmt (s : State) (code param : Nat) : (s.raise code param).mgmt = s.mgmt := by
  unfold State.raise; split
  · exact s.record_mgmt code param
  · rfl

@[simp] theorem State.raiseLimited_mgmt (s : State) (code inst n param : Nat) :
    (s.raiseLimited code inst n param).mgmt = s.mgmt := by
  unfold State.raiseLimited; dsimp only; split
  · exact State.raise_mgmt _ code param
  · rfl

@[simp] theorem State.record_mortar (s : State) (code param : Nat) : (s.record code param).mortar = s.mortar := by
  unfold State.record; dsimp only; split <;> rfl

@[simp] theorem State.raise_mortar (s : State) (code param : Nat) : (s.raise code param).mortar = s.mortar := by
  unfold State.raise; split
  · exact s.record_mortar code param
  · rfl

@[simp] theorem State.raiseLimited_mortar (s : State) (code inst n param : Nat) :
    (s.raiseLimited code inst n param).mortar = s.mortar := by
  unfold State.raiseLimited; dsimp only; split
  · exact State.raise_mortar _ code param
  · rfl

@[simp] theorem State.record_memory (s : State) (code param : Nat) : (s.record code param).memory = s.memory := by
  unfold State.record; dsimp only; split <;> rfl

@[simp] theorem State.raise_memory (s : State) (code param : Nat) : (s.raise code param).memory = s.memory := by
  unfold State.raise; split
  · exact s.record_memory code param
  · rfl

@[simp] theorem State.raiseLimited_memory (s : State) (code inst n param : Nat) :
    (s.raiseLimited code inst n param).memory = s.memory := by
  unfold State.raiseLimited; dsimp only; split
  · exact State.raise_memory _ code param
  · rfl

@[simp] theorem State.record_ports (s : State) (code param : Nat) : (s.record code param).ports = s.ports := by
  unfold State.record; dsimp only; split <;> rfl

@[simp] theorem State.raise_ports (s : State) (code param : Nat) : (s.raise code param).ports = s.ports := by
  unfold State.raise; split
  · exact s.record_ports code param
  · rfl

@[simp] theorem State.raiseLimited_ports (s : State) (code inst n param : Nat) :
    (s.raiseLimited code inst n param).ports = s.ports := by
  unfold State.raiseLimited; dsimp only; split
  · exact State.raise_ports _ code param
  · rfl

@[simp] theorem State.record_switch (s : State) (code param : Nat) : (s.record code param).switch = s.switch := by
  unfold State.record; dsimp only; split <;> rfl

@[simp] theorem State.raise_switch (s : State) (code param : Nat) : (s.raise code param).switch = s.switch := by
  unfold State.raise; split
  · exact s.record_switch code param
  · rfl

@[simp] theorem State.raiseLimited_switch (s : State) (code inst n param : Nat) :
    (s.raiseLimited code inst n param).switch = s.switch := by
  unfold State.raiseLimited; dsimp only; split
  · exact State.raise_switch _ code param
  · rfl

@[simp] theorem State.record_modeChange (s : State) (code param : Nat) : (s.record code param).modeChange = s.modeChange := by
  unfold State.record; dsimp only; split <;> rfl

@[simp] theorem State.raise_modeChange (s : State) (code param : Nat) : (s.raise code param).modeChange = s.modeChange := by
  unfold State.raise; split
  · exact s.record_modeChange code param
  · rfl

@[simp] theorem State.raiseLimited_modeChange (s : State) (code inst n param : Nat) :
    (s.raiseLimited code inst n param).modeChange = s.modeChange := by
  unfold State.raiseLimited; dsimp only; split
  · exact State.raise_modeChange _ code param
  · rfl

@[simp] theorem State.record_fwd (s : State) (code param : Nat) : (s.record code param).fwd = s.fwd := by
  unfold State.record; dsimp only; split <;> rfl

@[simp] theorem State.raise_fwd (s : State) (code param : Nat) : (s.raise code param).fwd = s.fwd := by
  unfold State.raise; split
  · exact s.record_fwd code param
  · rfl

@[simp] theorem State.raiseLimited_fwd (s : State) (code inst n param : Nat) :
    (s.raiseLimited code inst n param).fwd = s.fwd := by
  unfold State.raiseLimited; dsimp only; split
  · exact State.raise_fwd _ code param
  · rfl

@[simp] theorem State.record_wall (s : State) (code param : Nat) : (s.record code param).wall = s.wall := by
  unfold State.record; dsimp only; split <;> rfl

@[simp] theorem State.raise_wall (s : State) (code param : Nat) : (s.raise code param).wall = s.wall := by
  unfold State.raise; split
  · exact s.record_wall code param
  · rfl

@[simp] theorem State.raiseLimited_wall (s : State) (code inst n param : Nat) :
    (s.raiseLimited code inst n param).wall = s.wall := by
  unfold State.raiseLimited; dsimp only; split
  · exact State.raise_wall _ code param
  · rfl

@[simp] theorem State.record_redundancy (s : State) (code param : Nat) : (s.record code param).redundancy = s.redundancy := by
  unfold State.record; dsimp only; split <;> rfl

@[simp] theorem State.raise_redundancy (s : State) (code param : Nat) : (s.raise code param).redundancy = s.redundancy := by
  unfold State.raise; split
  · exact s.record_redundancy code param
  · rfl

@[simp] theorem State.raiseLimited_redundancy (s : State) (code inst n param : Nat) :
    (s.raiseLimited code inst n param).redundancy = s.redundancy := by
  unfold State.raiseLimited; dsimp only; split
  · exact State.raise_redundancy _ code param
  · rfl

@[simp] theorem State.record_classify (s : State) (code param : Nat) : (s.record code param).classify = s.classify := by
  unfold State.record; dsimp only; split <;> rfl

@[simp] theorem State.raise_classify (s : State) (code param : Nat) : (s.raise code param).classify = s.classify := by
  unfold State.raise; split
  · exact s.record_classify code param
  · rfl

@[simp] theorem State.raiseLimited_classify (s : State) (code inst n param : Nat) :
    (s.raiseLimited code inst n param).classify = s.classify := by
  unfold State.raiseLimited; dsimp only; split
  · exact State.raise_classify _ code param
  · rfl

@[simp] theorem State.record_trowel (s : State) (code param : Nat) : (s.record code param).trowel = s.trowel := by
  unfold State.record; dsimp only; split <;> rfl

@[simp] theorem State.raise_trowel (s : State) (code param : Nat) : (s.raise code param).trowel = s.trowel := by
  unfold State.raise; split
  · exact s.record_trowel code param
  · rfl

@[simp] theorem State.raiseLimited_trowel (s : State) (code inst n param : Nat) :
    (s.raiseLimited code inst n param).trowel = s.trowel := by
  unfold State.raiseLimited; dsimp only; split
  · exact State.raise_trowel _ code param
  · rfl

@[simp] theorem State.record_cipher (s : State) (code param : Nat) : (s.record code param).cipher = s.cipher := by
  unfold State.record; dsimp only; split <;> rfl

@[simp] theorem State.raise_cipher (s : State) (code param : Nat) : (s.raise code param).cipher = s.cipher := by
  unfold State.raise; split
  · exact s.record_cipher code param
  · rfl

@[simp] theorem State.raiseLimited_cipher (s : State) (code inst n param : Nat) :
    (s.raiseLimited code inst n param).cipher = s.cipher := by
  unfold State.raiseLimited; dsimp only; split
  · exact State.raise_cipher _ code param
  · rfl

@[simp] theorem State.record_hod (s : State) (code param : Nat) : (s.record code param).hod = s.hod := by
  unfold State.record; dsimp only; split <;> rfl

@[simp] theorem State.raise_hod (s : State) (code param : Nat) : (s.raise code param).hod = s.hod := by
  unfold State.raise; split
  · exact s.record_hod code param
  · rfl

@[simp] theorem State.raiseLimited_hod (s : State) (code inst n param : Nat) :
    (s.raiseLimited code inst n param).hod = s.hod := by
  unfold State.raiseLimited; dsimp only; split
  · exact State.raise_hod _ code param
  · rfl

@[simp] theorem State.record_host (s : State) (code param : Nat) : (s.record code param).host = s.host := by
  unfold State.record; dsimp only; split <;> rfl

@[simp] theorem State.raise_host (s : State) (code param : Nat) : (s.raise code param).host = s.host := by
  unfold State.raise; split
  · exact s.record_host code param
  · rfl

@[simp] theorem State.raiseLimited_host (s : State) (code inst n param : Nat) :
    (s.raiseLimited code inst n param).host = s.host := by
  unfold State.raiseLimited; dsimp only; split
  · exact State.raise_host _ code param
  · rfl

@[simp] theorem State.record_slices (s : State) (code param : Nat) : (s.record code param).slices = s.slices := by
  unfold State.record; dsimp only; split <;> rfl

@[simp] theorem State.raise_slices (s : State) (code param : Nat) : (s.raise code param).slices = s.slices := by
  unfold State.raise; split
  · exact s.record_slices code param
  · rfl

@[simp] theorem State.raiseLimited_slices (s : State) (code inst n param : Nat) :
    (s.raiseLimited code inst n param).slices = s.slices := by
  unfold State.raiseLimited; dsimp only; split
  · exact State.raise_slices _ code param
  · rfl

@[simp] theorem State.record_storage (s : State) (code param : Nat) : (s.record code param).storage = s.storage := by
  unfold State.record; dsimp only; split <;> rfl

@[simp] theorem State.raise_storage (s : State) (code param : Nat) : (s.raise code param).storage = s.storage := by
  unfold State.raise; split
  · exact s.record_storage code param
  · rfl

@[simp] theorem State.raiseLimited_storage (s : State) (code inst n param : Nat) :
    (s.raiseLimited code inst n param).storage = s.storage := by
  unfold State.raiseLimited; dsimp only; split
  · exact State.raise_storage _ code param
  · rfl

@[simp] theorem State.record_rdma (s : State) (code param : Nat) : (s.record code param).rdma = s.rdma := by
  unfold State.record; dsimp only; split <;> rfl

@[simp] theorem State.raise_rdma (s : State) (code param : Nat) : (s.raise code param).rdma = s.rdma := by
  unfold State.raise; split
  · exact s.record_rdma code param
  · rfl

@[simp] theorem State.raiseLimited_rdma (s : State) (code inst n param : Nat) :
    (s.raiseLimited code inst n param).rdma = s.rdma := by
  unfold State.raiseLimited; dsimp only; split
  · exact State.raise_rdma _ code param
  · rfl

@[simp] theorem State.record_boot (s : State) (code param : Nat) : (s.record code param).boot = s.boot := by
  unfold State.record; dsimp only; split <;> rfl

@[simp] theorem State.raise_boot (s : State) (code param : Nat) : (s.raise code param).boot = s.boot := by
  unfold State.raise; split
  · exact s.record_boot code param
  · rfl

@[simp] theorem State.raiseLimited_boot (s : State) (code inst n param : Nat) :
    (s.raiseLimited code inst n param).boot = s.boot := by
  unfold State.raiseLimited; dsimp only; split
  · exact State.raise_boot _ code param
  · rfl

@[simp] theorem State.record_keystone (s : State) (code param : Nat) : (s.record code param).keystone = s.keystone := by
  unfold State.record; dsimp only; split <;> rfl

@[simp] theorem State.raise_keystone (s : State) (code param : Nat) : (s.raise code param).keystone = s.keystone := by
  unfold State.raise; split
  · exact s.record_keystone code param
  · rfl

@[simp] theorem State.raiseLimited_keystone (s : State) (code inst n param : Nat) :
    (s.raiseLimited code inst n param).keystone = s.keystone := by
  unfold State.raiseLimited; dsimp only; split
  · exact State.raise_keystone _ code param
  · rfl

@[simp] theorem State.record_activation (s : State) (code param : Nat) : (s.record code param).activation = s.activation := by
  unfold State.record; dsimp only; split <;> rfl

@[simp] theorem State.raise_activation (s : State) (code param : Nat) : (s.raise code param).activation = s.activation := by
  unfold State.raise; split
  · exact s.record_activation code param
  · rfl

@[simp] theorem State.raiseLimited_activation (s : State) (code inst n param : Nat) :
    (s.raiseLimited code inst n param).activation = s.activation := by
  unfold State.raiseLimited; dsimp only; split
  · exact State.raise_activation _ code param
  · rfl

@[simp] theorem State.record_service (s : State) (code param : Nat) : (s.record code param).service = s.service := by
  unfold State.record; dsimp only; split <;> rfl

@[simp] theorem State.raise_service (s : State) (code param : Nat) : (s.raise code param).service = s.service := by
  unfold State.raise; split
  · exact s.record_service code param
  · rfl

@[simp] theorem State.raiseLimited_service (s : State) (code inst n param : Nat) :
    (s.raiseLimited code inst n param).service = s.service := by
  unfold State.raiseLimited; dsimp only; split
  · exact State.raise_service _ code param
  · rfl

@[simp] theorem State.record_monitor (s : State) (code param : Nat) : (s.record code param).monitor = s.monitor := by
  unfold State.record; dsimp only; split <;> rfl

@[simp] theorem State.raise_monitor (s : State) (code param : Nat) : (s.raise code param).monitor = s.monitor := by
  unfold State.raise; split
  · exact s.record_monitor code param
  · rfl

@[simp] theorem State.raiseLimited_monitor (s : State) (code inst n param : Nat) :
    (s.raiseLimited code inst n param).monitor = s.monitor := by
  unfold State.raiseLimited; dsimp only; split
  · exact State.raise_monitor _ code param
  · rfl

@[simp] theorem State.record_package (s : State) (code param : Nat) : (s.record code param).package = s.package := by
  unfold State.record; dsimp only; split <;> rfl

@[simp] theorem State.raise_package (s : State) (code param : Nat) : (s.raise code param).package = s.package := by
  unfold State.raise; split
  · exact s.record_package code param
  · rfl

@[simp] theorem State.raiseLimited_package (s : State) (code inst n param : Nat) :
    (s.raiseLimited code inst n param).package = s.package := by
  unfold State.raiseLimited; dsimp only; split
  · exact State.raise_package _ code param
  · rfl

@[simp] theorem State.record_outputs (s : State) (code param : Nat) : (s.record code param).outputs = s.outputs := by
  unfold State.record; dsimp only; split <;> rfl

@[simp] theorem State.raise_outputs (s : State) (code param : Nat) : (s.raise code param).outputs = s.outputs := by
  unfold State.raise; split
  · exact s.record_outputs code param
  · rfl

@[simp] theorem State.raiseLimited_outputs (s : State) (code inst n param : Nat) :
    (s.raiseLimited code inst n param).outputs = s.outputs := by
  unfold State.raiseLimited; dsimp only; split
  · exact State.raise_outputs _ code param
  · rfl

@[simp] theorem State.record_freeCtr (s : State) (code param : Nat) : (s.record code param).freeCtr = s.freeCtr := by
  unfold State.record; dsimp only; split <;> rfl

@[simp] theorem State.raise_freeCtr (s : State) (code param : Nat) : (s.raise code param).freeCtr = s.freeCtr := by
  unfold State.raise; split
  · exact s.record_freeCtr code param
  · rfl

@[simp] theorem State.raiseLimited_freeCtr (s : State) (code inst n param : Nat) :
    (s.raiseLimited code inst n param).freeCtr = s.freeCtr := by
  unfold State.raiseLimited; dsimp only; split
  · exact State.raise_freeCtr _ code param
  · rfl

@[simp] theorem State.record_pending (s : State) (code param : Nat) : (s.record code param).pending = s.pending := by
  unfold State.record; dsimp only; split <;> rfl

@[simp] theorem State.raise_pending (s : State) (code param : Nat) : (s.raise code param).pending = s.pending := by
  unfold State.raise; split
  · exact s.record_pending code param
  · rfl

@[simp] theorem State.raiseLimited_pending (s : State) (code inst n param : Nat) :
    (s.raiseLimited code inst n param).pending = s.pending := by
  unfold State.raiseLimited; dsimp only; split
  · exact State.raise_pending _ code param
  · rfl

/-- The entries of the dictionary that logging an event may write. -/
def logEntries : List Nat := [Od.newestEvent, Od.oldestEvent, Od.eventsOverwritten, Od.eventsSuppressed]

theorem State.record_rd (s : State) {k code param : Nat} (h : k ∉ logEntries) : (s.record code param).rd k = s.rd k := by
  simp only [logEntries, List.mem_cons, List.not_mem_nil, or_false, not_or] at h
  unfold State.record
  dsimp only
  split
  · rw [State.rd_bump_ne _ h.2.2.1, State.rd_wr_ne _ _ h.2.1, State.rd_wr_ne _ _ h.1]; rfl
  · rw [State.rd_wr_ne _ _ h.2.1, State.rd_wr_ne _ _ h.1]; rfl

theorem State.raise_rd (s : State) {k code param : Nat} (h : k ∉ logEntries) : (s.raise code param).rd k = s.rd k := by
  unfold State.raise
  split
  · exact s.record_rd h
  · simp only [logEntries, List.mem_cons, List.not_mem_nil, or_false, not_or] at h
    exact s.rd_bump_ne h.2.2.2

theorem State.raiseLimited_rd (s : State) {k code inst n param : Nat} (h : k ∉ logEntries) :
    (s.raiseLimited code inst n param).rd k = s.rd k := by
  unfold State.raiseLimited
  dsimp only
  split
  · rw [State.raise_rd _ h]; rfl
  · rfl

theorem State.record_dom (s : State) (code param k : Nat) : (s.record code param).dom k = s.dom k := by
  unfold State.dom; rw [State.record_doms]

theorem State.raise_dom (s : State) (code param k : Nat) : (s.raise code param).dom k = s.dom k := by
  unfold State.dom; rw [State.raise_doms]

/-- An event within the rate is recorded: the newest record of the ring is the event, its Sequence one higher than the
newest before (R551, R552). -/
theorem State.raise_records (s : State) (code param : Nat) (h : s.eventsInSecond < eventRateLimit) :
    ∃ e, (s.raise code param).log.ring.head? = some e ∧ e.code = code ∧ e.severity = eventSeverity code ∧
      e.timeValid = s.rdB Od.timeValid ∧ e.sequence = s.rd Od.newestEvent + 1 ∧ e.time = s.now ∧ e.param = param % 2 ^ 64 := by
  unfold State.raise State.record
  rw [if_pos h]
  dsimp only
  split <;> exact ⟨_, rfl, rfl, rfl, rfl, rfl, rfl, rfl⟩

end Sys2Proof.Machine
end

