-- ==== Sys2Proof/WellFormed.lean ====
section
/-! DEFINITION. WellFormed.lean: the shape a command's operands have when the device's surroundings can send it: what
their types leave open and the manual fixes. A command that is not well formed still has a meaning. -/

namespace Sys2Proof

/-- A record has the size its table gives it. -/
def recordOk (size : Nat) (record : List Byte) : Bool := record.length == size

/-- A PCIe memory access carries 1 to 4,096 bytes. -/
def accessLength (n : Nat) : Bool := decide (1 ≤ n ∧ n ≤ 4096)

/-- A host link's trained width (R389). -/
def linkWidths : List Nat := [1, 2, 4, 8, 16]

/-- Operands that fit the manual's records, widths and ranges, command by command; commands not named take every operand
of their types. -/
def Instr.wellFormed (i : Instr) : Bool :=
  match i with
  | .ternaryInsert _ _ record => recordOk 208 record
  | .ternaryReplace _ _ record => recordOk 208 record
  | .qpCreate _ record => recordOk 128 record
  | .qpModify _ record => recordOk 128 record
  | .qpDestroy _ record => recordOk 128 record
  | .cqCreate _ record => recordOk 32 record
  | .cqDestroy _ record => recordOk 32 record
  | .ahCreate _ record => recordOk 48 record
  | .ahDestroy _ record => recordOk 48 record
  | .regionRegister _ record => recordOk 48 record
  | .regionDeregister _ record => recordOk 48 record
  | .sliceState _ _ _ _ records => recordOk 512 records
  | .hostLinkUp _ rate width => decide (1 ≤ rate ∧ rate ≤ 6) && linkWidths.contains width
  | .temperatureRead tiles _ => tiles.length == 57
  | .monCapture _ _ n tags => decide (tags.length ≤ n)
  | .peerApertureRequest _ _ _ a => match a with
    | .read n => accessLength n
    | .write bs => accessLength bs.length
  | .blpRead (.reg _ len _) => accessLength len
  | .blpWrite (.reg _ bs _) => accessLength bs.length
  | .pfc _ _ _ _ quanta => quanta.length == 8
  | .pinBlockWrite _ _ _ bytes _ => accessLength bytes.length
  | _ => true

end Sys2Proof
end

