-- ==== Sys2Proof/Tests/Slice0.lean ====
section
/-! SUPPORT. Tests/Slice0.lean: the model's own tests: an ill-formed command for each check of WellFormed.lean, a few single
steps whose results are worked out from the manual, and for each statement with hypotheses a state that meets them. -/

set_option Elab.async false

namespace Sys2Proof.Tests
open Sys2Proof Sys2Proof.Machine

/-- A request of core 0 for the tests. -/
def wAsk : Req := ⟨.core 0 1, 0⟩

/-! ## An ill-formed command for each check -/

theorem test_ternary_insert_short : (Instr.ternaryInsert wAsk 0 (List.replicate 207 0)).wellFormed = false := by decide +kernel
theorem test_ternary_replace_long : (Instr.ternaryReplace wAsk 31 (List.replicate 209 0)).wellFormed = false := by decide +kernel
theorem test_qp_create_short : (Instr.qpCreate wAsk (List.replicate 127 0)).wellFormed = false := by decide +kernel
theorem test_qp_modify_long : (Instr.qpModify wAsk (List.replicate 129 0)).wellFormed = false := by decide +kernel
theorem test_qp_destroy_empty : (Instr.qpDestroy wAsk []).wellFormed = false := by decide
theorem test_cq_create_short : (Instr.cqCreate wAsk (List.replicate 31 0)).wellFormed = false := by decide
theorem test_cq_destroy_long : (Instr.cqDestroy wAsk (List.replicate 33 0)).wellFormed = false := by decide
theorem test_ah_create_short : (Instr.ahCreate wAsk (List.replicate 47 0)).wellFormed = false := by decide
theorem test_ah_destroy_empty : (Instr.ahDestroy wAsk []).wellFormed = false := by decide
theorem test_region_register_long : (Instr.regionRegister wAsk (List.replicate 49 0)).wellFormed = false := by decide
theorem test_region_deregister_empty : (Instr.regionDeregister wAsk []).wellFormed = false := by decide
theorem test_slice_state_short : (Instr.sliceState wAsk 0 0 0 (List.replicate 511 0)).wellFormed = false := by decide +kernel
theorem test_host_link_rate_zero : (Instr.hostLinkUp 0 0 8).wellFormed = false := by decide
theorem test_host_link_rate_seven : (Instr.hostLinkUp 0 7 8).wellFormed = false := by decide
theorem test_host_link_width_three : (Instr.hostLinkUp 0 6 3).wellFormed = false := by decide
theorem test_temperatures_of_56_tiles : (Instr.temperatureRead (List.replicate 56 0) 0).wellFormed = false := by decide
theorem test_capture_with_too_many_tags : (Instr.monCapture 0 0 0 [0]).wellFormed = false := by decide
theorem test_aperture_read_of_nothing : (Instr.peerApertureRequest 0 0 0 (.read 0)).wellFormed = false := by decide
theorem test_aperture_read_too_long : (Instr.peerApertureRequest 0 0 0 (.read 4097)).wellFormed = false := by decide
theorem test_aperture_write_of_nothing : (Instr.peerApertureRequest 0 0 0 (.write [])).wellFormed = false := by decide
theorem test_register_read_of_nothing : (Instr.blpRead (.reg ⟨0, 0, 0, 0⟩ 0 0)).wellFormed = false := by decide
theorem test_register_write_of_nothing : (Instr.blpWrite (.reg ⟨0, 0, 0, 0⟩ [] 0)).wellFormed = false := by decide
theorem test_pfc_of_seven_quanta : (Instr.pfc 0 0 ⟨64, true⟩ 0 (List.replicate 7 0)).wellFormed = false := by decide +kernel
theorem test_pin_block_write_of_nothing : (Instr.pinBlockWrite 0 0 0 [] 0).wellFormed = false := by decide
theorem test_well_formed_at_the_ends : (Instr.hostLinkUp 3 6 16).wellFormed = true ∧ (Instr.monCapture 0 0 1 [0]).wellFormed = true ∧
    (Instr.pfc 255 0 ⟨64, true⟩ 255 (List.replicate 8 0xFFFF)).wellFormed = true ∧ (Instr.releaseOfReset ⟨0, 0, [], false, true, false, [], []⟩).wellFormed = true := by decide +kernel

/-! ## States that meet the hypotheses of the statements -/

/-- A state in which these timers have counted 10^18 courses. -/
def wExpired (ks : List Nat) (s : State) : State := { s with timers := ks.map (fun k => (k, ⟨0, 10 ^ 18⟩)) }

/-- A state that reads these values at these entries. -/
def wSet (l : List (Nat × Nat)) (s : State) : State := l.foldl (fun s e => s.wr e.1 e.2) s

/-- A frame of 60 zero bytes. -/
def wFrame (id : Nat) : Frame :=
  { Frame.plain id (List.replicate 60 0) 0 0 with launch := if id = 6 then some 0 else none, cls := if id = 4 then 1 else 0 }

/-- SyncE lanes and a source whose timers are due. -/
def wDue : State := wExpired [tmHoldOff, tmRestore 255, tmSource 0x2000]
  { State.reset with synce := { State.reset.synce with holdOff := some 5, waiting := [255] } }

/-- A device in HOLDOVER beyond its limit, a source about to qualify, both PPS inputs enabled. -/
def wTime : State := wExpired [tmQualify 0x1000] (({ wSet [(Od.ppsEnable0, 1), (Od.ppsEnable1, 1), (Od.servoState, 3),
  (Od.holdoverElapsed, 10 ^ 15)] State.reset with servo := { State.reset.servo with
    sources := [(0x1000, ⟨false, false, true, 0, none, true⟩)] } } : State))

/-- A Keystone handover with one full and one empty list of held PTP messages. -/
def wHand : State := ({ wSet [(Od.linkState 0, 4), (Od.linkState 255, 4)] State.reset with agent := { State.reset.agent with handover := true } } : State).setPtp 0
  { PtpPort.fresh with held := List.replicate 64 (⟨true, 0, 0, 0, false, [], none⟩, .management, 0) }

/-- PTP ports that are masters, one under MACsec, and one whose timeouts are due. -/
def wPtp : State := wExpired [tmAnnounce 1, tmNegotiation 1, tmNegRetry 1] ((wSet [(Od.ptpEnable 0, 1), (Od.profileInUse 0, 2),
  (Od.portState 0, 6), (Od.ptpEnable 255, 1), (Od.profileInUse 255, 2), (Od.portState 255, 6), (Od.macsecEnable 255, 1),
  (Od.delayMechanism 255, 2)] State.reset).setPtp 1 { PtpPort.fresh with attempt := 1, failed := true })

/-- Pins in each mode. -/
def wPin : State := wExpired [tmExpect 0] ((wSet [(Od.tioMode 0, 1), (Od.tioMode 31, 2), (Od.expectTimeout 0, 1), (Od.tioMode 1, 6),
  (Od.glitchFilter 0, 0), (Od.glitchFilter 31, 0), (Od.tioMode 2, 4), (Od.tioMode 3, 5)] ((State.reset.setPin 2 { Pin.fresh with genArmed := true }).setPin 3
  { Pin.fresh with genArmed := true })).setPin 31 { Pin.fresh with lastEdge := some 0 })

/-- A sample due and a pseudo-channel copied. -/
def wSnap : State :=
  { wSet [(Od.sampleDest 0, 0)] State.reset with modeChange := { State.reset.modeChange with migrating := [(15, 5)], copied := true } }

/-- Ports in each state of bring-up. -/
def wPort : State := wExpired [tmAnAttempt 0, tmAnRetry 1, tmTraining 3, tmLinkUp 4]
  (((wSet [(Od.linkState 0, 1), (Od.linkState 1, 5), (Od.linkState 2, 2), (Od.speedInUse 2, 1), (Od.linkState 3, 2), (Od.mediaType 3, 1),
  (Od.linkState 4, 3), (Od.linkState 5, 2), (Od.speedInUse 5, 3)] State.reset).setPort 3 { Port.fresh with trained := true }))

/-- Ports that are up, one with a peer, its LLDPDUs of this second spent. -/
def wUp : State := wExpired [tmLinkDown 1, tmLldpTx 0, tmLldpTtl 1] ((wSet [(Od.linkState 0, 4), (Od.linkState 1, 4), (Od.linkDownHold 0, 1)] State.reset).setPort 1
  { Port.fresh with downCause := some 3, peer := some ⟨none, none, false, 0, 1⟩, lldpdus := 8, second := State.reset.second })

/-- A hello of this Wall from device 1. -/
def wHello : WallHeader := ⟨1, 0, 1, 0, 0, 0, 0, 0, 1, 0, 1000, 0, 0, 0, 5, 0⟩

/-- A switch with copies on their way, a frame parked and paused for, a launch list and a transmission that has ended. -/
def wSwitch : State :=
  let s := ((wSet [(Od.linkState 255, 4), (Od.pfcOper 0, 255)] State.reset).setEgress 255 { Egress.fresh with launch := [wFrame 6] }).setEgress 254
    { Egress.fresh with sending := some ⟨wFrame 5, List.replicate 60 0, 7, some 0⟩ }
  let t := s.setIngress 0 1 { Ingress.fresh with parked := [(wFrame 4, 255, 1)], xoff := true, sentAt := 10 ^ 20 }
  { t with switch := { t.switch with transit := [⟨wFrame 1, .port 255, 0, 1, none, false⟩, ⟨wFrame 2, .aligned 255, 0, 1, none, false⟩,
    ⟨wFrame 3, .queue 5, 0, 1, none, false⟩] } }

/-- A port whose gate of class 2 closes 500 ns into the course while a frame of that class is sent. -/
def wGate : State :=
  (wSet [(Od.gateEnable 3, 1), (Od.closingMode 3, 1)] State.reset).setEgress 3 { Egress.fresh with
    gate := some ⟨0, [(255, 500), (251, 500)]⟩, sending := some ⟨{ wFrame 7 with cls := 2 }, [], 0, some 99⟩ }

/-- Forwarding with an entry, silent nodes, and classification tables whose flip lies long back. -/
def wFwd : State :=
  let s := wExpired [tmNode 63 0xFFFFFFFFFFFE, tmPair 0] (wSet [(Od.courseCount, 10 ^ 6)] State.reset)
  let t := (s.setTernary 0 { Ternary.fresh with flipped := some 0 }).setExact 0 { Exact.fresh with flipped := some 0 }
  { t with clock := { t.clock with start := 65536000 * 10 ^ 6, finish := 65536000 * (10 ^ 6 + 1) },
           fwd := { t.fwd with fdb := [(fdbKey 1 2, ⟨false, false, true, false, 0, 0, 1, 2, 0, 0, 7, 0⟩)] } }

/-- A Wall with a neighbour whose hellos have stopped; the hellos of port 1 are spent. -/
def wWall : State :=
  let s := wExpired [tmNeighbour 255 511] (wSet [(Od.linkState 0, 4), (Od.wallPort 0, 1), (Od.linkState 1, 4), (Od.wallPort 1, 1)] State.reset)
  { s with wall := { s.wall with hellos := [(1, List.replicate 8 0)] } }

/-- A program of one ACC. -/
def wProgram : Program := ⟨[macroWord 0x71 ⟨0, 1, 0⟩], false, 0, 1⟩

/-- A frame of 300 bytes with its program. -/
def wJob : Job :=
  { frame := { wFrame 9 with bytes := List.replicate 300 0 }, egress := false, port := 0, order := 0, program := some wProgram, dsts := [],
    members := 0, copy := false, clear := false, appId := 0, packetType := 0, udf := [], dict := [], doms := [], done := false, mask := 0, rdma := false }

/-- An engine at a program of one macro-instruction; G2 holds 7. -/
def wEngine (op : Nat) (m : Macro) : Run :=
  { Run.start (some wJob) wProgram with words := [macroWord op m], regs := [0, 0, 7, 0, 0, 0, 0, 0, 0, 0, 0, 0, 0, 0, 0, 0] }

/-- Engine 255 runs it. -/
def wRun (op : Nat) (m : Macro) : State := State.reset.setRun 255 (some (wEngine op m))

/-- A frame waits in pipeline 0, the course handler in pipeline 63; pipeline 1 has used its spare. -/
def wIdle : State :=
  let s := ((State.reset.setPipe 0 { Pipe.fresh with high := [wJob] }).setPipe 63 { Pipe.fresh with courseEvent := true }).setPipe 1
    { Pipe.fresh with spareUsed := true }
  { s with trowel := { s.trowel with programs := [(63 * 256, wProgram)] } }

/-- A patch to which engine 5 has still to switch. -/
def wSwitching : State :=
  { State.reset with trowel := { State.reset.trowel with switching := some ⟨0, 0, [], []⟩, switched := [4] } }

/-- A look-aside request of core 0. -/
def wReq (id : Nat) (refused : Option Nat) : CipherReq := ⟨id, 1, 0, 0, 9 * 2 ^ 504, KeySlot.fresh, [], true, refused⟩

/-- Clusters with requests running, suspended and waiting. -/
def wCipher : State :=
  (((State.reset.setCluster 0 ⟨[wReq 0 (some 2)], [], []⟩).setCluster 1 ⟨[wReq 1 none], [], []⟩).setCluster 2 ⟨[], [wReq 2 none], []⟩).setCluster 3
    ⟨[], [], [wReq 3 none]⟩

/-- A unit of core 95 with no other hold. -/
def wUnit : HodUnit := { HodUnit.none_ with owner := coreOwner 95 }

/-- Unit 3 of compute tile 0x2F is held by core 95. -/
def wHod : State :=
  { State.reset with dict := [(Od.poolBase 0x2F, 0x100000)], hod := { State.reset.hod with units := [(0x2F * 2 ^ 32 + 3, wUnit)] } }

/-- A command on that unit; its new owner is core 0 of the tile. -/
def wHodCmd : HodCmd := ⟨0x2F, 1, 0, BitVec.ofNat 12 (0x2F * 64), BitVec.ofNat 64 (wHod.rd (Od.poolBase 0x2F) + 3 * poolUnit 0x2F)⟩

/-- Queue pairs of slice 5 on PF1 of link 0. -/
def wQ : QueueRef := ⟨0, 1, 5, 0⟩
def wQ2 : QueueRef := ⟨0, 1, 5, 2⟩
def wQ3 : QueueRef := ⟨0, 1, 5, 3⟩
def wQ63 : QueueRef := ⟨0, 1, 5, 63⟩

/-- A receive descriptor. -/
def wDesc : Nat := 0x1000

/-- Link 0 up, slice 5 bound on PF1: queue 0 in use with a frame for it, 2 disabled, 3 halted; window 5 opens the peer region. -/
def wHost : State :=
  let s := wSet [(Od.hostLinkStatus 0, 1), (Od.courseCount, 1)] State.reset
  let s := (s.setHostFn 1 { HostFn.fresh with command := 7 }).setBlock 1 5 { SliceBlock.fresh with bound := true }
  let s := { s with slices := { s.slices with sets := [(5, { SliceSet.fresh with ports := List.replicate 32 255, functions := 2, queuePairs := 4 })] } }
  let s := s.setQp (qrKey wQ) { QueuePair.fresh with enable := true, txLog := 4, rxLog := 4, cqLog := 4, rxTail := 1, rxDescs := [wDesc], armed := true, coalesceCourses := 1, unsignalled := [0] }
  let s := s.setNvq (qrKey ⟨0, 2, 5, 1⟩) { NvmeQueue.fresh with enable := true, armed := true, coalesceCourses := 1, coalesceCount := 1, unsignalled := [0] }
  let s := s.setQp (qrKey wQ3) { QueuePair.fresh with enable := true, cqLog := 4, halted := true }
  let s := s.setWindow 0 5 { PeerWindow.fresh with active := 13 * 2 ^ 186 + 2 ^ 184 + 3 * 2 ^ 182 }
  { s with dict := tblPut (tblPut s.dict (Od.bifurcation 0) 0) (Od.bifurcation 1) 0, switch := { s.switch with rx := [⟨64 * 5, wFrame 8, false, none⟩, ⟨64 * 5 + 3, wFrame 8, false, none⟩, ⟨64 * 5 + 2, wFrame 8, false, none⟩] } }

/-- Link 0 up, its slice 5 quiescing, no window enabled. -/
def wQuiet : State :=
  ({ wSet [(Od.hostLinkStatus 0, 1)] State.reset with dict := [(Od.bifurcation 0, 0), (Od.hostLinkStatus 0, 1)] } : State).setBlock 1 5 { SliceBlock.fresh with bound := true, quiesce := true }

/-- A read of PF1 of link 0 under tag 7. -/
def wRead : Dma := ⟨7, .txDescriptor, 1, none, qrKey wQ, 0, 0, 0, 32, true, 50, false, false⟩

/-- That read is outstanding beyond its time, and PF2 of the link is in reset. -/
def wReads : State :=
  let s := wExpired [tmCompletion 0 7] ((wSet [(Od.hostLinkStatus 0, 1)] State.reset).setHostFn 2 { HostFn.fresh with resetting := true })
  { s with host := { s.host with reads := [wRead] } }

/-- Slices 5 to 9 of link 0 on PF1: free, of no function, bound, quiescing and marked; a queue pair of each kind stopping. -/
def wSlice : State :=
  let b := SliceBlock.fresh
  let s := wSet [(Od.hostLinkStatus 0, 1)] State.reset
  let s := { s with slices := { s.slices with sets := [(5, { SliceSet.fresh with functions := 2 }), (6, SliceSet.fresh)] } }
  let s := (s.setBlock 1 7 { b with bound := true }).setBlock 1 8 { b with quiesce := true }
  let s := (s.setBlock 1 9 { b with flipped := true }).setBlock 3 9 { b with resetPending := true }
  (s.setQp (qpKey 1 5 0) { QueuePair.fresh with stopping := true }).setNvq (qpKey 2 5 0) { NvmeQueue.fresh with stopping := true }

/-- A bound slice without queues on PF3. -/
def wBound : State := (wSet [(Od.hostLinkStatus 0, 1)] State.reset).setBlock 3 5 { SliceBlock.fresh with bound := true }

/-- A submission entry: opcode, NSID 1, command dwords 10 and 11. -/
def wSq (op d10 d11 : Nat) : List Byte := leBytes 4 op ++ leBytes 4 1 ++ leBytes 32 0 ++ leBytes 4 d10 ++ leBytes 4 d11 ++ leBytes 16 0

/-- A command fetched by tile 0. -/
def wNv (queue : Nat) (e : List Byte) : NvmeCmd :=
  { id := 1, queue := queue, entry := e, tile := 0, lock := none, granted := true, phase := 0, pages := [], list := none, data := [], old := [],
    wants := [], waits := [], status := 0 }

/-- PF2 of link 0 with controller 0 ready, its queues 1 in use, and a slice's queues 0 (in use) and 1 (free). -/
def wStore (c : NvmeCmd) : State :=
  let s := wSet [(Od.hostLinkStatus 0, 1)] State.reset
  let s := (s.setCtrl 0 { NvmeCtrl.fresh with ready := true }).setBlock 2 5 { SliceBlock.fresh with bound := true }
  let s := { s with slices := { s.slices with sets := [(5, { SliceSet.fresh with functions := 4, queuePairs := 2 })] } }
  let s := (s.setNvq (ctrlCq 0 1) { NvmeQueue.fresh with enable := true, cqSize := 2 }).setNvq (ctrlSq 0 1)
    { NvmeQueue.fresh with enable := true, sqSize := 2, cq := ctrlCq 0 2 }
  let s := s.setNvq (qpKey 2 5 0) { NvmeQueue.fresh with enable := true, sqSize := 2, cqSize := 2 }
  { s with storage := { s.storage with cmds := [c] } }

/-- An admin command of controller 0. -/
def wAdmin (op d10 d11 : Nat) : State := wStore (wNv (ctrlSq 0 0) (wSq op d10 d11))

/-- An I/O command of the slice's queue. -/
def wIo (op d11 : Nat) : State := wStore (wNv (qpKey 2 5 0) (wSq op 0 d11))

/-- Controller 0 with an autonomous transition due. -/
def wApst : State :=
  wExpired [tmIdle 0] (State.reset.setCtrl 0 { NvmeCtrl.fresh with features := [(0xC, 1)], apst := leBytes 8 (1 * 256 + 1 * 8) })

/-- A backing command. -/
def wBack (retries : Nat) : BackingCmd :=
  { id := 9, target := 0, kind := 0, block := 0, data := [], cmd := some (1, 3), ns := 1, seq := 0, retries := retries, stranded := false }

/-- A backing command of a fetched command, its timeout due; a write-back whose journal is durable; namespace 2 on remote target 0. -/
def wBacking (retries : Nat) : State :=
  let s := wExpired [tmBacking 9] (wIo 2 0)
  let x := { s.storage with backing := [wBack retries], writeBacks := [⟨1, 4, [], [], [], 2, 0⟩] }
  { wSet [(Od.namespaceStatus 2, 1)] s with
    storage := { x with namespaces := [(2, { Namespace.none_ with record := leBytes 48 (1 + 2 * 256) })] } }

/-- An Abort of a command of queue 1 that has not started. -/
def wAbort : State :=
  { wAdmin 8 1 0 with storage := { (wAdmin 8 1 0).storage with cmds := (wAdmin 8 1 0).storage.cmds ++ [{ wNv (ctrlSq 0 1) (wSq 2 0 0) with id := 2 }] } }

/-- The record of a queue pair of slice 5 with completion queue 7, path MTU 256, a local ACK timeout and a retry count. -/
def wRecord : List Byte := overlay (overlay (overlay (leBytes 128 0) 8 (leBytes 2 5)) 11 [1]) 40 [1, 1, 1]

/-- A work request: opcode, length. -/
def wWork (op stage : Nat) : Work := ⟨op * 2 ^ 504, stage, 0, 1, [], 0, 1⟩

/-- A queue pair with these work requests. -/
def wQp (state : Nat) (l : List Work) : RdmaQp :=
  { record := wRecord, state := state, sqHead := 0, sqTail := 0, rqHead := 0, rqTail := 0, work := l, recv := [], nextPsn := 0, acked := 0,
    expected := 0, msn := 0, stamps := [], nakSent := false, retries := 0, rnrTries := 0, rnrTime := some 10000, inbound := none, replay := [],
    placed := [], responses := [], rate := 0, sample := none, window := [], lastValid := 0, fallback := false, echo := none }

/-- Slice 5 bound on PF1 of link 0, port 0 up, a tracker entry for the slice, queue pair 5 as given, completion queue 7, a region draining. -/
def wRdma (q : RdmaQp) : State :=
  let s := wSet [(Od.hostLinkStatus 0, 1), (Od.linkState 0, 4)] State.reset
  let s := (s.setHostFn 1 { HostFn.fresh with command := 7 }).setBlock 1 5 { SliceBlock.fresh with bound := true }
  let s := { s with slices := { s.slices with sets := [(5, { SliceSet.fresh with functions := 2, trackerMin := 1 })] } }
  let s := (s.setRqp 5 q).setRcq 7 ⟨overlay (leBytes 32 0) 2 (leBytes 2 5), 0, 0, 0, true, 0, false, false⟩
  { s with rdma := { s.rdma with regions := [(3, ⟨leBytes 48 0, 2⟩)] } }

/-- A queue pair in RTS that no RNR time holds. -/
def wSend (op stage : Nat) : State := wRdma { wQp 3 [wWork op stage] with rnrTime := none }

/-- A RoCEv2 packet over IPv4 for queue pair 5: opcode and the four bytes after the BTH. -/
def wPacket (op : Nat) (ext : List Byte) : List Byte :=
  let body := beBytes 1 op ++ [0, 0xFF, 0xFF, 0] ++ beBytes 3 5 ++ [0] ++ beBytes 3 0 ++ ext
  let ip := [0x45, 0] ++ beBytes 2 (32 + body.length) ++ leBytes 16 0
  let udp := beBytes 2 0 ++ beBytes 2 4791 ++ beBytes 2 (12 + body.length) ++ [0, 0]
  leBytes 12 0 ++ [8, 0] ++ ip ++ udp ++ body ++ icrc ip (udp ++ body)

/-- An acknowledgement packet with this syndrome. -/
def wAck (v : Nat) : List Byte := wPacket 0x11 (beBytes 1 v ++ [0, 0, 0])

/-- A request awaits its acknowledgement. -/
def wSent : State := wRdma (wQp 3 [wWork 0 2])

/-- Timers of queue pair 5 and of a paused class due. -/
def wStorm : State :=
  let s := wExpired [tmAck 5, tmRnr 5, tmStorm 0 3, tmRestored 0 4] (wSet [(Od.pfcWatchdogEnable 0, 1), (Od.pfcOper 0, 255), (Od.watchdogState 0, 16),
    (Od.courseCount, 10 ^ 6 * 64)] wSent)
  s.setQueue 0 3 { Queue.fresh with pausedUntil := 1 }

/-- An activation in this state, everything changing; firmware awaits the Keystone's handover. -/
def wActivation (state : Nat) : State :=
  let s := State.reset.wr Od.activationStatus (activationWord state 1 31 0)
  { s with activation := { s.activation with tiles := firmwareTiles } }

/-- Compute tiles that wake and reload. -/
def wWake : State := wSet [(Od.wakeState 0, 2), (Od.wakeState 1, 3)] State.reset

/-- A row in repair, and a tile whose watchdog has expired. -/
def wRepair : State :=
  { State.reset with service := { State.reset.service with repairing := [5] }, keystone := { State.reset.keystone with watchdogs := [(0, 0)] } }

/-- An open session whose last Sequence was 20, with an answer stored and 16 events waiting. -/
def wOpen : Session :=
  { id := 1, signer := 0, path := 0, version := 2, high := 20, stored := [(20, 0x0A, ⟨0, []⟩)], keys := [], opened := 0, last := 0, minSeverity := none,
    waiting := List.replicate 16 ⟨0x2A01, 0, false, 0, 0, 0⟩, notifySeq := 0, second := 1, sent := 0 }

/-- That session, its timers and those of a handshake, a block and a transfer due; session 2 has ended; link 0 up. -/
def wSession : State :=
  let s := wExpired [tmFinish 1, tmBlock 1, tmIdleSession 1, tmLifetime 1, tmTransfer 1] (wSet [(Od.hostLinkStatus 0, 1)] State.reset)
  { s with agent := { s.agent with sessions := [wOpen], ended := [2] } }

/-- The same session before any time has passed. -/
def wServed : State := { State.reset with agent := { State.reset.agent with sessions := [wOpen], ended := [2] } }

/-- A management frame. -/
def wMgmt (k : MgmtKind) : MgmtFrame := ⟨0, none, k⟩

/-- The monitor in text mode and in the states its timers end. -/
def wText : State :=
  let s := wExpired [tmChallenge, tmBackoff, tmMonBlock, tmChars] State.reset
  { s with monitor := { s.monitor with autoBaud := false, expects := 1, blocked := true, block := true } }

/-! ## The hypotheses of each statement are met -/

theorem hyp_EmptyQueueTurnsTheMortar : State.reset.pending = [] := rfl

theorem hyp_StepKeepsCanonicalForm : State.reset.Canonical ∧ step State.reset = .next State.reset.slotTick := by
  refine ⟨?_, rfl⟩; unfold State.Canonical; decide

theorem hyp_TrowelWordRoundTrip : (0xFF < 256) ∧ macroWord 0xFF ⟨15, 15, 0xFFFF⟩ = 0xFFFFFFFF ∧ (0xFFFFFFFF < 2 ^ 32) := by decide

theorem hyp_EventsAreLoggedInOrder : State.reset.eventsInSecond < 10000 ∧
    10000 ≤ ({ State.reset with log := { State.reset.log with second := State.reset.second, logged := 10000 } } : State).eventsInSecond := by decide +kernel

theorem hyp_PackageCommands : State.reset.boot.phase = 2 ∧ State.reset.course % 1024 = 0 ∧ State.reset.rd Od.refclkSysState ≠ 1 ∧
    (State.reset.wr Od.refclkSysState 1).rd Od.refclkSysState ≠ 0 ∧ (List.replicate 57 (0x7FFF : BitVec 16)).length = 57 ∧
    State.reset.package.thermTrip = false ∧ State.reset.package.dspReleased.contains 3 = false := by decide +kernel

theorem hyp_SpdmRequests : (1 ≤ (1 : BitVec 8).toNat ∧ (1 : BitVec 8).toNat ≤ 9) ∧ (1 ≤ (9 : BitVec 8).toNat ∧ (9 : BitVec 8).toNat ≤ 9) ∧
    ((0 : BitVec 8) = 0) ∧ (9 < (10 : BitVec 8).toNat ∧ (10 : BitVec 8) ≠ 0xFF) ∧ (9 < (0xFE : BitVec 8).toNat ∧ (0xFE : BitVec 8) ≠ 0xFF) ∧
    ((1 : BitVec 8) ≠ 0) := by decide

theorem hyp_ReferenceClockCommands : ((2 : Nat) = 1 ∨ (2 : Nat) = 2) ∧
    wDue.synce.holdOff = some 5 ∧ wDue.due tmHoldOff (wDue.msCourses (wDue.rd Od.holdOffTime)) = true ∧
    wDue.synce.waiting.contains 255 = true ∧ wDue.due (tmRestore 255) (wDue.secCourses (wDue.rd Od.waitToRestore)) = true := by decide +kernel

theorem hyp_SourceCommands : (wSet [(Od.utcOffset, 0)] State.reset).utcMidnight = true ∧
    (wSet [(Od.utcOffset, 1)] State.reset).utcMidnight = false := by decide +kernel

theorem hyp_PtpMessagesAreReceived : (State.reset.moveTo 0).agent.handover = false ∧ wHand.agent.handover = true ∧
    (wHand.moveTo 0).rd (Od.linkState 255) = 4 ∧ ((wHand.moveTo 0).ptpPort 255).held.length < 64 ∧
    (wHand.moveTo 0).rd (Od.linkState 0) = 4 ∧ 64 ≤ ((wHand.moveTo 0).ptpPort 0).held.length ∧
    (State.reset.moveTo 0).rd (Od.linkState 0) ≠ 4 := by decide +kernel

theorem hyp_PtpTransmissionAndTimeouts : ((wPtp.moveTo 0).rdB (Od.ptpEnable 0) = true ∧ 1 < (wPtp.moveTo 0).rd (Od.profileInUse 0) ∧
    (wPtp.moveTo 0).rd (Od.portState 0) = 6 ∧ (wPtp.moveTo 0).rdB (Od.macsecEnable 0) = false) ∧
    ((wPtp.moveTo 0).rdB (Od.ptpEnable 255) = true ∧ (wPtp.moveTo 0).rd (Od.profileInUse 255) ≠ 0 ∧
    (wPtp.moveTo 0).rd (Od.portState 255) = 6 ∧ (wPtp.moveTo 0).rdB (Od.macsecEnable 255) = true ∧ (wPtp.moveTo 0).agent.handover = false ∧
    (wPtp.moveTo 0).rd (Od.delayMechanism 255) = 2) ∧
    wPtp.due (tmAnnounce 1) (wPtp.announceCourses 1) = true ∧ (wPtp.ptpPort 1).attempt ≠ 0 ∧
    wPtp.due (tmNegotiation 1) (wPtp.msCourses (wPtp.rd (Od.negotiationTime 1))) = true ∧
    (wPtp.ptpPort 1).failed = true ∧ wPtp.due (tmNegRetry 1) (wPtp.secCourses 60) = true := by decide +kernel

theorem hyp_TimingPinCommands : (captures ((wPin.moveTo 0).rd (Od.tioMode 0)) true = true ∧ (wPin.moveTo 0).rd (Od.glitchFilter 0) ≤ 0 ∧
    ((wPin.moveTo 0).pin 0).lastEdge = none ∧ ((wPin.moveTo 0).pin 0).fifo.length < 64 ∧ (wPin.moveTo 0).rd (Od.tioOwner 0) = 0) ∧
    (captures ((wPin.moveTo 0).rd (Od.tioMode 31)) false = true ∧ (wPin.moveTo 0).rd (Od.glitchFilter 31) ≤ 0 ∧
    ((wPin.moveTo 0).pin 31).lastEdge = some 0 ∧ (wPin.moveTo 0).now < 0 + 20 * nsTicks) ∧
    (wPin.rd (Od.expectTimeout 0) ≠ 0 ∧ wPin.due (tmExpect 0) (wPin.rd (Od.expectTimeout 0)) = true) ∧
    ((wPin.moveTo 0).rd (Od.tioMode 1) = 6 ∧ (wPin.moveTo 0).rd (Od.tioMode 2) = 4 ∧ ((wPin.moveTo 0).pin 2).genArmed = true ∧ ((wPin.moveTo 0).pin 2).generated = 0 ∧
      (wPin.moveTo 0).rd (Od.tioMode 3) = 5 ∧ ((wPin.moveTo 0).pin 3).genArmed = true ∧ (wPin.moveTo 0).rd (Od.count 3) = 0) := by decide +kernel

theorem hyp_CourseCommands : 2 ≤ State.reset.boot.phase ∧ (State.reset.boot.phase = 2 ∧ State.reset.clock.snapshot = true) ∧ (wSnap.rd (Od.sampleDest 0) / 2 ^ 30 ≠ 3 ∧
    wSnap.course % max 1 (wSnap.rd (Od.sampleInterval 0)) = 0 ∧ wSnap.timers.any (fun e => e.1 == tmSample 0 && e.2.armed == wSnap.course) = false) ∧
    (wSnap.modeChange.migrating = [(15, 5)] ∧ wSnap.modeChange.stopping = false ∧ wSnap.modeChange.copied = true) := by decide +kernel
theorem hyp_CourseCommands_more : ({ wSnap with modeChange := { wSnap.modeChange with migrating := [(2, 4), (3, 5)] } } : State).modeChange.migrating
    = (2, 4) :: (3, 5) :: [] := rfl

theorem hyp_BringUpCommands : (wPort.rd (Od.linkState 0) = 1 ∧ 1 ∈ wPort.offered 0 ∧ wPort.due (tmAnAttempt 0) (wPort.msCourses 500) = true) ∧
    (wPort.rd (Od.linkState 1) = 5 ∧ wPort.due (tmAnRetry 1) (wPort.msCourses (wPort.rd (Od.anRetryInterval 1))) = true) ∧
    (wPort.rd (Od.linkState 2) = 2 ∧ (wPort.port 2).trained = false ∧ wPort.resolveFec 2 = some 0) ∧
    (wPort.rd (Od.linkState 3) = 2 ∧ (wPort.port 3).trained = true ∧
      wPort.due (tmTraining 3) (wPort.msCourses (wPort.rd (Od.trainingTimeout 3))) = true ∧ wPort.rd (Od.mediaType 3) ≠ 2) ∧
    (wPort.rd (Od.linkState 4) = 3 ∧ wPort.due (tmLinkUp 4) (wPort.rd (Od.linkUpHold 4)) = true) ∧
    (wPort.rd (Od.linkState 5) = 2 ∧ (wPort.port 5).trained = false ∧ wPort.resolveFec 5 = none) := by decide +kernel
theorem hyp_BringUpCommands_page : (((wPort.setPort 0 { wPort.port 0 with rsFec := true, rs544 := false }).wr (Od.partnerAbilities 0) 3).commonSpeed 0 3 = some 1) ∧
    (((wPort.setPort 0 { wPort.port 0 with rsFec := true, rs544 := false }).wr (Od.partnerAbilities 0) 0x80).commonSpeed 0 0x80 = none) := by decide +kernel

theorem hyp_FecAtTwentyFiveGigabit : (State.reset.wr (Od.speedInUse 0) 2).rd (Od.speedInUse 0) = 2 ∧
    ((State.reset.setPort 0 { State.reset.port 0 with rsFec := true }).port 0).rsFec = true ∧
    (State.reset.port 0).rsFec = false ∧ (State.reset.wr (Od.fecAllowNone 0) 1).rdB (Od.fecAllowNone 0) = true ∧
    (State.reset.wr (Od.fecAllowNone 0) 0).rdB (Od.fecAllowNone 0) = false ∧ (State.reset.wr (Od.speedInUse 0) 1).rd (Od.speedInUse 0) < 2 ∧
    2 < (State.reset.wr (Od.speedInUse 0) 3).rd (Od.speedInUse 0) := by decide +kernel

theorem hyp_LinkStateCommands : ((wUp.moveTo 0).rd (Od.linkState 0) = 4 ∧ ((wUp.moveTo 0).port 0).downCause = none ∧ (wUp.moveTo 0).rd (Od.linkDownHold 0) ≠ 0) ∧
    ((wUp.port 1).downCause = some 3 ∧ wUp.due (tmLinkDown 1) (wUp.rd (Od.linkDownHold 1)) = true) ∧
    (((wUp.moveTo 0).rxAccept 0 ⟨64, true⟩).2 = true ∧ (((wUp.moveTo 0).rxAccept 0 ⟨64, true⟩).1.countLldpdu 0).2 = true) ∧
    (((wUp.moveTo 0).rxAccept 1 ⟨64, true⟩).2 = true ∧ 8 ≤ ((wUp.moveTo 0).rxAccept 1 ⟨64, true⟩).1.lldpdusInSecond 1) ∧
    (State.reset.rxAccept 0 ⟨63, true⟩).2 = false ∧ (wUp.up 0 = true ∧ 64 ≤ 64 ∧ 64 ≤ wUp.rd (Od.maxFrameSize 0)) ∧
    wUp.due (tmLldpTx 0) (wUp.secCourses (wUp.rd (Od.lldpTxInterval 0))) = true ∧
    ((wUp.port 1).peer = some ⟨none, none, false, 0, 1⟩ ∧ wUp.due (tmLldpTtl 1) (wUp.secCourses 1) = true) ∧
    ((wUp.moveTo 0).queue 255 7).pausedUntil ≤ (wUp.moveTo 0).now := by decide +kernel

theorem hyp_FramesAreReceived : (State.reset.moveTo 0).up 0 = false ∧ ((wUp.moveTo 0).up 0 = true ∧ (List.replicate 59 (0 : Byte)).length + 4 < 64) ∧
    ((wUp.moveTo 0).up 0 = true ∧ 64 ≤ (List.replicate 60 (0 : Byte)).length + 4 ∧ (wUp.moveTo 0).rdB (Od.macsecEnable 0) = false ∧
      beAt (List.replicate 60 (0 : Byte)) 12 2 ≠ 0x8808) ∧
    (beAt (List.replicate 12 (0 : Byte) ++ [0x88, 0x08, 1, 1] ++ List.replicate 44 0) 12 2 = 0x8808 ∧
      beAt (List.replicate 12 (0 : Byte) ++ [0x88, 0x08, 1, 1] ++ List.replicate 44 0) 14 2 = 0x0101 ∧
      beAt (List.replicate 12 (0 : Byte) ++ [0x88, 0x08, 0, 1] ++ List.replicate 44 0) 14 2 = 0x0001 ∧
      (60 : Nat) + 4 ≤ (wUp.moveTo 0).rd (Od.maxFrameSize 0) ∧ (wUp.moveTo 0).rd (Od.maxFrameSize 0) < 20000 + 4) := by decide +kernel

theorem hyp_SwitchCommands : sameInstant 0 wSwitch.pending = [] ∧ ((wSwitch.moveTo 0).onTheWay (1, .port 255)).isSome = true ∧
    ((wSwitch.moveTo 0).onTheWay (2, .aligned 255)).isSome = true ∧ ((wSwitch.moveTo 0).onTheWay (3, .queue 5)).isSome = true ∧
    isCoreDest 5 = false ∧ isCoreDest (2 ^ 31 + 5) = true ∧ (wFrame 4).launch.isSome = false ∧
    (((wSwitch.moveTo 0).ingress 0 1).parked = [(wFrame 4, 255, 1)] ∧ (wSwitch.moveTo 0).up 255 = true ∧ (wSwitch.moveTo 0).fits 255 1 1 = true) ∧
    (wSwitch.lossless 0 1 = true ∧ (wSwitch.ingress 0 1).xoff = true ∧ wSwitch.xoffCause 0 1 = true ∧
      wSwitch.refreshAt 0 1 < wSwitch.clock.finish) := by decide +kernel

theorem hyp_AdmissionLimit : State.reset.rd (Od.class7ReserveBricks 0) = 0 ∧ wUp.tilePorts (0 / 8) ≠ [] ∧
    (State.reset.wr (Od.class7ReserveBricks 0) 1).rd (Od.class7ReserveBricks 0) ≠ 0 := by decide +kernel

theorem hyp_EgressCommands : ((wSwitch.moveTo 0).egress 255).launch = [wFrame 6] ∧ (wFrame 6).launch.getD 0 ≤ (wSwitch.moveTo 0).sendPoint 255 ∧
    (((wSwitch.moveTo 0).egress 254).sending = some ⟨wFrame 5, List.replicate 60 0, 7, some 0⟩ ∧ 0 ≤ (wSwitch.moveTo 0).now) ∧
    ((wGate.moveTo 32768000).rd (Od.closingMode 3) = 1 ∧ (wGate.moveTo 32768000).now ≠ (wGate.moveTo 32768000).clock.start ∧ (wGate.moveTo 32768000).gateOpen 3 2 ((wGate.moveTo 32768000).now - 1) = true ∧
      (wGate.moveTo 32768000).gateOpen 3 2 (wGate.moveTo 32768000).now = false ∧
      ((wGate.moveTo 32768000).egress 3).sending = some ⟨{ wFrame 7 with cls := 2 }, [], 0, some 99⟩) := by decide +kernel

theorem hyp_ForwardingTimers : wFwd.due (tmNode 63 0xFFFFFFFFFFFE) (wFwd.secCourses (wFwd.rd (Od.nodeForgetTime 63))) = true ∧
    wFwd.due (tmPair 0) (wFwd.secCourses (wFwd.rd (Od.nodeForgetTime 0))) = true ∧ wFwd.redundancy.reported.contains 0 = false ∧
    wFwd.cleanupDue (wFwd.ternary 0).flipped = true ∧ wFwd.cleanupDue (wFwd.exact 0).flipped = true := by decide +kernel

theorem hyp_WallCommands : (State.reset.moveTo 0).armed tmHello = false ∧ ((wWall.moveTo 0).up 0 = true ∧ (wWall.moveTo 0).rdB (Od.wallPort 0) = true ∧
    (wWall.moveTo 0).wallOurs { wHello with wallId := 9 } = false ∧ (wWall.moveTo 0).wallOurs wHello = true ∧ wHello.deviceId ≠ (wWall.moveTo 0).rd Od.wallDeviceId ∧
    ((tblGet [] (wWall.moveTo 0).wall.hellos 0).filter (fun (c : Int) => ((wWall.moveTo 0).course : Int) < c + (wWall.moveTo 0).msCourses ((wWall.moveTo 0).rd Od.helloInterval))).length < 8) ∧
    (8 ≤ ((tblGet [] (wWall.moveTo 0).wall.hellos 1).filter (fun (c : Int) => ((wWall.moveTo 0).course : Int) < c + (wWall.moveTo 0).msCourses ((wWall.moveTo 0).rd Od.helloInterval))).length ∧
      (wWall.moveTo 0).up 1 = true ∧ (wWall.moveTo 0).rdB (Od.wallPort 1) = true) ∧
    wWall.dueEvery (tmNeighbour 255 511) (wWall.msCourses (3 * wWall.rd Od.helloInterval)) wWall.helloGrain = true ∧
    (((State.reset.moveTo 0).wallDeliver 0 wHello []).1).rd Od.modeInForce ≠ 5 := by decide +kernel

theorem hyp_FdbVisibility : (wFwd.fdbFind 1 2).isSome = true ∧ wFwd.heldStatic 1 4 = false ∧ tblGet 0 wFwd.fwd.learned (0 / 8) < wFwd.learnLimit ∧ wFwd.rd (Od.maxLearned 0) = 0 ∧
    (placeEntry wFwd.mode wFwd.fdbWays { static := false, pinned := false, hit := true, hbm := false, origin := 0, destKind := 0, fid := 1, mac := 4, gen := wFwd.rd Od.fdbCurrentGen, owner := 0, dest := 0, time := wFwd.learnTime }).isSome = true := by decide +kernel

theorem hyp_TrowelArithmetic : ∀ op, 0x40 ≤ op → op < 0x80 → (wRun op ⟨15, 1, 0xFFFF⟩).runsNext 255 op ⟨15, 1, 0xFFFF⟩ (wEngine op ⟨15, 1, 0xFFFF⟩) := by
  intro op _ _
  refine ⟨rfl, rfl, rfl, rfl⟩

theorem hyp_TrowelFrameAndMemory : (∃ j, (wEngine 0x50 ⟨0, 1, 252⟩).job = some j ∧ frameAddr (wEngine 0x50 ⟨0, 1, 252⟩) ⟨0, 1, 252⟩ + Macro.width ⟨0, 1, 252⟩ ≤ j.window ∧
    frameAddr (wEngine 0x52 ⟨0, 1, 0x20FF⟩) ⟨0, 1, 0x20FF⟩ ≤ j.window ∧ j.frame.bytes.length + Macro.high ⟨0, 1, 0x20FF⟩ + 4 ≤
      (wRun 0x52 ⟨0, 1, 0x20FF⟩).egressMax (wEngine 0x52 ⟨0, 1, 0x20FF⟩) j) ∧
    Macro.low ⟨0, 1, 4⟩ = 4 ∧ Macro.low ⟨0, 1, 3⟩ ≠ 2 ∧ 16 ≤ Macro.low ⟨0, 1, 0x1D⟩ ∧
    memAddr (wEngine 0x60 ⟨0, 1, 0xEFFC⟩) ⟨0, 1, 0xEFFC⟩ % 4 = 0 ∧ memAddr (wEngine 0x60 ⟨0, 1, 0xEFFC⟩) ⟨0, 1, 0xEFFC⟩ < 0xF000 ∧
    memAddr (wEngine 0x61 ⟨0, 1, 3⟩) ⟨0, 1, 3⟩ % 4 ≠ 0 ∧
    ((wRun 0x70 ⟨0, 1, 1⟩).asOf (wEngine 0x70 ⟨0, 1, 1⟩)).destValid (Macro.kind ⟨0, 1, 1⟩) (regOf (wEngine 0x70 ⟨0, 1, 1⟩).regs 0).toNat = true :=
  ⟨⟨wJob, by decide +kernel⟩, by decide +kernel⟩
theorem hyp_TrowelFrameAndMemory_runs : (∀ op, 0x40 ≤ op → op < 0x80 → (wRun op ⟨0, 1, 252⟩).runsNext 255 op ⟨0, 1, 252⟩ (wEngine op ⟨0, 1, 252⟩)) ∧
    (Run.start none wProgram).job = none := by
  refine ⟨fun op _ _ => ⟨rfl, rfl, rfl, rfl⟩, rfl⟩

theorem hyp_TrowelClassWrite : Macro.low ⟨0, 1, 2⟩ = 2 ∧ (wEngine 0x59 ⟨0, 1, 2⟩).job = some wJob ∧
    (wRun 0x59 ⟨0, 1, 2⟩).runsNext 255 0x59 ⟨0, 1, 2⟩ (wEngine 0x59 ⟨0, 1, 2⟩) ∧ (wEngine 0x59 ⟨0, 1, 2⟩).keystone = false ∧
    (regOf (wEngine 0x59 ⟨2, 1, 2⟩).regs 2).toNat % 8 = 7 ∧ ((regOf (wEngine 0x59 ⟨0, 1, 2⟩).regs 0).toNat % 8 ≠ 7 ∧ wJob.frame.cls ≠ 7) := by
  refine ⟨by decide, rfl, ⟨rfl, rfl, rfl, rfl⟩, rfl, by decide, by decide⟩

theorem hyp_TrowelEngineCommands : ((wIdle.moveTo 0).engineFree 0 = true ∧ (wIdle.moveTo 0).mustSwitch 0 true = false ∧ (wIdle.moveTo 0).handlerDue (0 / 4) = false ∧
      ((wIdle.moveTo 0).pipe (0 / 4)).high = [wJob] ∧ wJob.program = some wProgram) ∧
    (wIdle.handler (255 / 4) = some wProgram ∧ (wIdle.pipe (255 / 4)).courseEvent = true ∧ wIdle.engineFree 255 = true ∧ wIdle.mustSwitch 255 true = false) ∧
    (State.reset.pipe 0).spareUsed = false ∧ State.reset.trowel.dead.contains 0 = false ∧ State.reset.run? 0 = none ∧
    ((wIdle.pipe 1).spareUsed = true ∧ (wIdle.pipe 1).lost = false ∧ wIdle.run? 4 = none) ∧
    ((wRun 0x71 ⟨0, 1, 0⟩).runsNext 255 0x71 ⟨0, 1, 0⟩ (wEngine 0x71 ⟨0, 1, 0⟩)) ∧ (wEngine 0x71 ⟨0, 1, 0⟩).job = some wJob ∧
    wSwitching.trowel.switching.isSome = true ∧ wSwitching.trowel.switched.contains 5 = false ∧ wSwitching.run? 5 = none ∧
    (List.range 256).all (fun n => (5 :: wSwitching.trowel.switched).contains n || wSwitching.trowel.dead.contains n) = false := by
  refine ⟨by decide +kernel, by decide +kernel, by decide +kernel, by decide +kernel, by decide +kernel, by decide +kernel, ⟨rfl, rfl, rfl, rfl⟩, rfl, by decide +kernel, by decide +kernel, by decide +kernel, by decide +kernel⟩

theorem hyp_LookAsideRequests : coreUsable (State.reset.rd Od.modeInForce) 0 = true ∧ coreUsable ((State.reset.moveTo 0).rd Od.modeInForce) 95 = true ∧
    laOp ((9 * 2 ^ 504 : BitVec 512)).toNat = 9 := by decide +kernel

theorem hyp_LookAsideProgress : ((wCipher.cluster 0).running.find? (fun x => x.id == 0) = some (wReq 0 (some 2)) ∧
      ((wCipher.cluster 0).running ++ (wCipher.cluster 0).suspended ++ (wCipher.cluster 0).waiting).any (fun y => y.kind == 1 && y.number == 0 && decide (y.id < 0)) = false) ∧
    ((wCipher.cluster 1).running.find? (fun x => x.id == 1) = some (wReq 1 none)) ∧
    ((wCipher.cluster 1).running ++ (wCipher.cluster 1).suspended ++ (wCipher.cluster 1).waiting).any (fun y => y.kind == 1 && y.number == 0 && decide (y.id < 1)) = false ∧
    ((wCipher.cluster 2).running.length < 8 ∧ firstUrgent (wCipher.cluster 2).suspended = some (wReq 2 none) ∧ firstUrgent (wCipher.cluster 2).waiting = none) ∧
    (laCompute (wReq 1 none)).1 = 0 ∧ ((wCipher.cluster 3).running.length < 8 ∧ firstUrgent (wCipher.cluster 3).suspended = none ∧ firstUrgent (wCipher.cluster 3).waiting = some (wReq 3 none)) := by
  decide +kernel

theorem hyp_BufferCommands : coreUsable (wHod.rd Od.modeInForce) 95 = true ∧ (0x2F = 0x20 + (95 : Fin 96).val / 6) ∧ wHod.overQuota 0x2F (coreOwner 95) = false ∧
    64 < wHod.poolFree 0x2F ∧ (wHodCmd.pool.toNat = 0x2F ∧ wHodCmd.address.toNat = wHod.poolBase 0x2F + 3 * poolUnit 0x2F) ∧ 3 < wHod.poolCapacity 0x2F ∧
    (wHod.hod.units.find? (fun e => e.1 == 0x2F * 2 ^ 32 + 3)).isSome = true ∧ tblGet 0 wHod.hod.gens (0x2F * 2 ^ 32 + 3) = wHodCmd.gen.toNat ∧
    (hodAct wHod 3 0x2F (coreOwner 95) wHodCmd wUnit).1 = 0 ∧ (hodAct wHod 5 0x2F (coreOwner 95) wHodCmd wUnit).1 = 0 ∧
    (hodAct wHod 6 0x2F (coreOwner 95) wHodCmd wUnit).1 = 0 ∧ ownerValid wHodCmd.newOwner.toNat = true ∧ wHodCmd.newOwner.toNat / 64 = 0x2F ∧
    (hodAct wHod 4 0x2F (coreOwner 95) wHodCmd wUnit).1 = 0 ∧ (hodAct wHod 2 0x2F (coreOwner 95) wHodCmd { wUnit with named := [coreOwner 95] }).1 = 0 := by decide +kernel

theorem hyp_HostQueueCommands : (wHost.areaOpen wQ = true ∧ (wHost.qp (qrKey wQ)).enable = true ∧ ringSize (wHost.qp (qrKey wQ)).txLog ≠ 0 ∧
      ringSize (wHost.qp (qrKey wQ)).rxLog ≠ 0 ∧ ringSize (wHost.qp (qrKey wQ)).cqLog ≠ 0 ∧ ((wHost.qp (qrKey wQ)).halted || (wHost.qp (qrKey wQ)).stopping) = false ∧
      wHost.mayFetch (qrKey wQ) = true ∧ wQ.fn.val = 1) ∧
    (wHost.areaOpen wQ2 = true ∧ (wHost.qp (qrKey wQ2)).enable = false ∧ wHost.enableRefused wQ2 (wHost.qp (qrKey wQ2)) = false) ∧
    (wHost.areaOpen wQ63 = true ∧ (wHost.qp (qrKey wQ63)).enable = false ∧ wHost.enableRefused wQ63 (wHost.qp (qrKey wQ63)) = true) ∧
    ((wHost.qp (qrKey wQ3)).enable = true ∧ wHost.areaOpen wQ3 = true ∧ ringSize (wHost.qp (qrKey wQ3)).cqLog ≠ 0 ∧ ((wHost.qp (qrKey wQ3)).halted || (wHost.qp (qrKey wQ3)).stopping) = true) := by
  decide +kernel

theorem hyp_HostDelivery : ((wHost.moveTo 0).switch.rx.find? (fun x => (wHost.moveTo 0).destQp x.dest == qrKey wQ)).isSome = true ∧
    ((wHost.moveTo 0).qp (qrKey wQ)).halted = false ∧ (wHost.moveTo 0).quiescing wQ.slice.val = false ∧ ((wHost.moveTo 0).qp (qrKey wQ)).enable = true ∧
    ((wHost.moveTo 0).qp (qrKey wQ)).stopping = false ∧ ((wHost.moveTo 0).qp (qrKey wQ)).rxHead ≠ ((wHost.moveTo 0).qp (qrKey wQ)).rxTail ∧
    ((wHost.moveTo 0).qp (qrKey wQ)).rxDescs = [wDesc] ∧ (wFrame 8).exc = none ∧
    ((wHost.moveTo 0).qp (qrKey wQ3)).halted = true ∧ ((wHost.moveTo 0).switch.rx.find? (fun x => (wHost.moveTo 0).destQp x.dest == qrKey wQ3)).isSome = true ∧
    (wQuiet.moveTo 0).quiescing wQ.slice.val = true ∧ ((wHost.moveTo 0).qp (qrKey wQ2)).rxHead = ((wHost.moveTo 0).qp (qrKey wQ2)).rxTail ∧
    ((wHost.moveTo 0).switch.rx.find? (fun x => (wHost.moveTo 0).destQp x.dest == qrKey wQ2)).isSome = true ∧
    (wQ.fn.val ≠ 2 ∧ (wHost.qp (qrKey wQ)).armed = true ∧ (wHost.qp (qrKey wQ)).coalesceCourses ≠ 0 ∧ (wHost.qp (qrKey wQ)).unsignalled = [0] ∧
      0 + (wHost.qp (qrKey wQ)).coalesceCourses ≤ wHost.course) ∧
    ((⟨0, 2, 5, 1⟩ : QueueRef).fn.val = 2 ∧ (wHost.nvq (qrKey ⟨0, 2, 5, 1⟩)).enable = true ∧ (wHost.nvq (qrKey ⟨0, 2, 5, 1⟩)).halted = false ∧
      (wHost.nvq (qrKey ⟨0, 2, 5, 1⟩)).armed = true ∧ (wHost.nvq (qrKey ⟨0, 2, 5, 1⟩)).coalesceCourses ≠ 0 ∧
      (wHost.nvq (qrKey ⟨0, 2, 5, 1⟩)).unsignalled = [0] ∧ (wHost.nvq (qrKey ⟨0, 2, 5, 1⟩)).coalesceCount ≤ [0].length ∧
      (wHost.nvq (qrKey ⟨0, 2, 5, 1⟩)).coalesceCount ≠ 0) := by decide +kernel

theorem hyp_HostFunctionCommands : wHost.answers (4 * (0 : Fin 4).val + 3) = true ∧ (wHost.ring 0).enable = false ∧ bitOf (0x80000004 : BitVec 32).toNat 31 = true ∧
    bitOf (4 : BitVec 32).toNat 31 = false ∧ ((wHost.setRing 0 { wHost.ring 0 with enable := true, log := 15 }).ring 0).enable = true ∧
    ringSize ((wHost.setRing 0 { wHost.ring 0 with enable := true, log := 15 }).ring 0).log ≠ 0 ∧
    (wHost.setRing 0 { wHost.ring 0 with enable := true, log := 15 }).answers (4 * (0 : Fin 4).val + 3) = true ∧ (wHost.moveTo 0).answers 3 = true ∧
    wHost.linkPresent 0 = true ∧ wHost.hostLinkUp 0 = true ∧ (wHost.tagsOut 0).contains 0 = false ∧ wHost.configurable 1 = true ∧
    wHost.configurable 2 = true ∧ wHost.rd Od.modeInForce ≠ 6 := by decide +kernel

theorem hyp_HostLinksAndResets : (wHost.boot.phase = 2 ∧ wHost.linkPresent 2 = true ∧ wHost.hostLinkUp 2 = false ∧ 16 ∈ [1, 2, 4, 8, 16] ∧ wHost.rd (Od.bifurcation (2 / 2)) ≠ 1) ∧
    (wHost.linkPresent 0 = true ∧ wHost.hostLinkUp 0 = true ∧ wHost.configurable 1 = true) ∧
    (((wReads.hostFn 2).resetting = true) ∧ wReads.host.reads.any (fun r => r.fn == 2) = false) ∧
    (wReads.readOf 0 1 7 = some wRead ∧ (List.replicate 32 (0 : Byte)).length = wRead.len ∧ wReads.linkPresent 0 = true ∧ wReads.hostLinkUp 0 = true) ∧
    (wReads.host.reads.find? (fun r => r.issued && r.fn / 4 == 0 && r.tag == 7) = some wRead ∧
      wReads.dueEvery (tmCompletion 0 7) (wReads.msCourses wRead.limit) wReads.completionGrain = true) := by decide +kernel

theorem hyp_PeerWindowCommands : ((wHost.moveTo 0).answers 1 = true ∧ ((wHost.moveTo 0).windowsOf 0).contains 63 = true ∧ ((wHost.moveTo 0).window 0 63).pending = false) ∧
    (wHost.linkPresent 0 = true ∧ wHost.hostLinkUp 0 = true ∧ wHost.answers 1 = true ∧ 5 ∈ wHost.windowsOf 0 ∧
      (wHost.windowsOf 0).all (fun x => x == 5 || !winEnabled (wHost.window 0 x).active) = true ∧ winTarget (wHost.window 0 5).active = 1 ∧ winEnabled (wHost.window 0 5).active = true ∧
      (0 ^^^ bitField (wHost.window 0 5).active 111 96) &&& bitField (wHost.window 0 5).active 95 80 = 0 ∧ bitOf (wHost.window 0 5).active 183 = true ∧
      bitOf (wHost.window 0 5).active 182 = true ∧ winBase (wHost.window 0 5).active ≤ 0x1000 ∧
      0x1000 + 4096 ≤ winBase (wHost.window 0 5).active + winSize (wHost.window 0 5).active) ∧
    (wQuiet.linkPresent 0 = true ∧ wQuiet.hostLinkUp 0 = true ∧ wQuiet.answers 1 = true ∧
      (wQuiet.windowsOf 0).all (fun x => !winEnabled (wQuiet.window 0 x).active) = true) := by decide +kernel

theorem hyp_SliceCommands : (wSlice.blockOpen ⟨0, 1, 5⟩ = true ∧ (wSlice.block (srFn ⟨0, 1, 5⟩) 5).bound = false ∧ (wSlice.sliceSet 5).link = 0 ∧
      bitOf (wSlice.sliceSet 5).functions 1 = true ∧
      (wSlice.slices.blocks.all fun e => !(e.1 / 4096 == srFn ⟨0, 1, 5⟩ && e.1 % 4096 != 5 && e.2.bound && e.2.pasid == 1)) = true) ∧
    (wSlice.blockOpen ⟨0, 1, 6⟩ = true ∧ bitOf (wSlice.sliceSet 6).functions 1 = false) ∧
    (wSlice.blockOpen ⟨0, 1, 7⟩ = true ∧ (wSlice.block (srFn ⟨0, 1, 7⟩) 7).bound = true) ∧
    ((wSlice.block (srFn ⟨0, 1, 8⟩) 8).quiesce = true ∧ (wSlice.block (srFn ⟨0, 1, 8⟩) 8).quiesced = false ∧ wSlice.ops 8 = 0 ∧ wSlice.marksOwed 8 = false) ∧
    ((wSlice.moveTo 7).blockOpen ⟨0, 1, 7⟩ = true ∧ ((wSlice.moveTo 7).block (srFn ⟨0, 1, 7⟩) 7).flipPending = false) ∧
    ((wSlice.block (srFn ⟨0, 1, 9⟩) 9).flipped = true ∧ wSlice.host.reads = []) ∧
    ((wSlice.qp (qrKey ⟨0, 1, 5, 0⟩)).stopping = true ∧ wSlice.queueReads (qrKey ⟨0, 1, 5, 0⟩) = false ∧ (wSlice.nvq (qrKey ⟨0, 2, 5, 0⟩)).stopping = true) ∧
    (wBound.blockOpen ⟨0, 3, 5⟩ = true ∧ (wBound.block (srFn ⟨0, 3, 5⟩) 5).bound = true ∧ (wBound.block (srFn ⟨0, 3, 5⟩) 5).resetPending = false ∧
      wBound.host.queues = [] ∧ wBound.storage.queues = []) ∧
    ((wSlice.block (srFn ⟨0, 3, 9⟩) 9).resetPending = true ∧ wSlice.host.reads.any (ofSlice (srFn ⟨0, 3, 9⟩) 9) = false) := by decide +kernel

theorem hyp_StorageQueueCommands : ((wIo 2 0).nvOpen (nvKey (.slice 0 5 0)) = true ∧ ((wIo 2 0).nvq (nvKey (.slice 0 5 0))).enable = true ∧
      ((wIo 2 0).nvq (nvKey (.slice 0 5 0))).sqSize ≠ 0 ∧ ((wIo 2 0).nvq (nvKey (.slice 0 5 0))).cqSize ≠ 0 ∧
      ((wIo 2 0).nvq (nvKey (.slice 0 5 0))).halted = false ∧ ((wIo 2 0).nvq (nvKey (.slice 0 5 0))).stopping = false) ∧
    ((wIo 2 0).nvOpen (ctrlCq 0 1) = true ∧ ((wIo 2 0).nvq (ctrlCq 0 1)).enable = true ∧ ((wIo 2 0).nvq (ctrlCq 0 1)).cqSize ≠ 0) ∧
    ((wIo 2 0).nvOpen (qpKey 2 5 1) = true ∧ ((wIo 2 0).nvq (qpKey 2 5 1)).enable = false ∧ 1 < ((wIo 2 0).sliceSet 5).queuePairs ∧
      (wIo 2 0).nvOpen (qpKey 2 5 63) = true ∧ ((wIo 2 0).nvq (qpKey 2 5 63)).enable = false ∧ ((wIo 2 0).sliceSet 5).queuePairs ≤ 63) ∧
    (((wIo 2 0).moveTo 0).storageOn = true ∧ 3 < serviceTiles ((wIo 2 0).moveTo 0).mode) ∧
    ((wStore { wNv (qpKey 2 5 0) (wSq 2 0 0) with granted := false }).storage.cmds.find? (fun c => c.id == 1) =
      some { wNv (qpKey 2 5 0) (wSq 2 0 0) with granted := false } ∧
      (wStore { wNv (qpKey 2 5 0) (wSq 2 0 0) with granted := false }).lockOk { wNv (qpKey 2 5 0) (wSq 2 0 0) with granted := false } = true) ∧
    (leAt (wApst.ctrl 0).apst (8 * (wApst.ctrl 0).ps) 8 = 264 ∧ tblGet 0 (wApst.ctrl 0).features 0xC = 1 ∧ bitField 264 31 8 ≠ 0 ∧ wApst.storage.cmds = [] ∧
      bitField 264 7 3 ≤ 2 ∧ (wApst.ctrl 0).ps < bitField 264 7 3 ∧ wApst.dueEvery (tmIdle 0) (wApst.msCourses (bitField 264 31 8)) (wApst.grainOf 1000000) = true) := by
  decide +kernel

theorem hyp_StorageAdminCommands : ((wAdmin 5 (2 + 65536) 1).nvCmd 1 true 5 = some (wNv (ctrlSq 0 0) (wSq 5 (2 + 65536) 1)) ∧
      ((wAdmin 5 (2 + 65536) 1).nvq (ctrlCq 0 2)).enable = false ∧ sqDw (wSq 5 (2 + 65536) 1) 10 / 65536 ≠ 0 ∧ sqDw (wSq 5 (2 + 65536) 1) 11 % 2 = 1) ∧
    ((wAdmin 1 (64 + 65536) 65537).nvCmd 1 true 1 = some (wNv (ctrlSq 0 0) (wSq 1 (64 + 65536) 65537)) ∧
      ((wAdmin 1 (64 + 65536) 65537).nvq (ctrlCq 0 1)).enable = true ∧ ((wAdmin 1 (64 + 65536) 65537).nvq (ctrlSq 0 64)).enable = false) ∧
    ((wAdmin 0 1 0).nvCmd 1 true 0 = some (wNv (ctrlSq 0 0) (wSq 0 1 0)) ∧ ((wAdmin 0 1 0).nvq (ctrlSq 0 1)).enable = true) ∧
    ((wAdmin 4 1 0).nvCmd 1 true 4 = some (wNv (ctrlSq 0 0) (wSq 4 1 0)) ∧ ((wAdmin 4 1 0).nvq (ctrlCq 0 1)).enable = true ∧
      ((List.range 65).all fun i => !((wAdmin 4 1 0).nvq (ctrlSq 0 i)).enable || ((wAdmin 4 1 0).nvq (ctrlSq 0 i)).cq != ctrlCq 0 1) = true) ∧
    ((wAdmin 6 1 0).nvCmd 1 true 6 = some (wNv (ctrlSq 0 0) (wSq 6 1 0)) ∧ (wAdmin 2 1 0).nvCmd 1 true 2 = some (wNv (ctrlSq 0 0) (wSq 2 1 0)) ∧
      sqDw (wSq 6 1 0) 10 % 256 = 1) ∧
    (wAbort.nvCmd 1 true 8 = some (wNv (ctrlSq 0 0) (wSq 8 1 0)) ∧ wAbort.storage.cmds.find? (fun d => d.queue == ctrlSq 0 1 && sqCid d.entry == 0 && d.phase == 0 && d.id != 1) =
        some { wNv (ctrlSq 0 1) (wSq 2 0 0) with id := 2 }) ∧
    ((wAdmin 9 2 1).nvCmd 1 true 9 = some (wNv (ctrlSq 0 0) (wSq 9 2 1)) ∧ featureOk 2 (sqDw (wSq 9 2 1) 11) = true ∧
      (wAdmin 0xA 2 0).nvCmd 1 true 0xA = some (wNv (ctrlSq 0 0) (wSq 0xA 2 0))) ∧
    ((wAdmin 0xC 0 0).nvCmd 1 true 0xC = some (wNv (ctrlSq 0 0) (wSq 0xC 0 0)) ∧ ((wAdmin 0xC 0 0).ctrl 0).events = [] ∧
      (((wAdmin 0xC 0 0).setCtrl 0 { NvmeCtrl.fresh with events := [(2, 0, 0)] }).ctrl 0).events = [(2, 0, 0)]) ∧
    ((wAdmin 0x7F 0 0).storage.cmds.find? (fun c => c.id == 1) = some (wNv (ctrlSq 0 0) (wSq 0x7F 0 0)) ∧ nvOffers (nvqAdmin (ctrlSq 0 0)) (sqOp (wSq 0x7F 0 0)) = false) := by
  decide +kernel

theorem hyp_StorageIoCommands : ((wIo 1 0).nvCmd 1 false 1 = some (wNv (qpKey 2 5 0) (wSq 1 0 0)) ∧ (wIo 1 0).storageOn = true ∧
      (wIo 1 0).rd (Od.namespaceStatus (sqNs (wSq 1 0 0))) ≠ 3 ∧ (wIo 1 0).stageNeed (wNv (qpKey 2 5 0) (wSq 1 0 0)) ≤ (wIo 1 0).poolFree 0x40) ∧
    (wIo 2 0).nvCmd 1 false 2 = some (wNv (qpKey 2 5 0) (wSq 2 0 0)) ∧ (wIo 8 0).nvCmd 1 false 8 = some (wNv (qpKey 2 5 0) (wSq 8 0 0)) ∧
    (bitOf (sqDw (wSq 9 0 4) 11) 2 = true ∧ bitOf (sqDw (wSq 9 0 0) 11) 2 = false) ∧
    ((wIo 0 0).nvCmd 1 false 0 = some (wNv (qpKey 2 5 0) (wSq 0 0 0)) ∧ (wIo 0 0).flushOk (wNv (qpKey 2 5 0) (wSq 0 0 0)) = true ∧
      nsBacking ((wIo 0 0).nspace 1) ≠ 3) ∧
    ({ wIo 0 0 with storage := { (wIo 0 0).storage with writeBacks := [⟨1, 1, [], [], [], 0, 0⟩] } } : State).flushOk (wNv (qpKey 2 5 0) (wSq 0 0 0)) = false ∧
    ((wIo 1 0).wr (Od.namespaceStatus 1) 3).rd (Od.namespaceStatus (sqNs (wSq 1 0 0))) = 3 := by decide +kernel

theorem hyp_BackingCommands : ((wIo 2 0).storage.backing.find? (fun b => b.id == 9 && b.target == 64) = none) ∧
    ((wBacking 0).storage.backing.find? (fun b => b.id == 9 && b.target == 0) = some (wBack 0) ∧
      ((wBacking 0).backingDrop 9).storage.cmds.find? (fun c => c.id == 1) = some (wNv (qpKey 2 5 0) (wSq 2 0 0))) ∧
    ((wBacking 0).unreachable 0 = false ∧ (wBacking 2).storage.backing.find? (fun b => b.id == 9) = some (wBack 2) ∧
      (wBacking 0).dueEvery (tmBacking 9) ((wBacking 0).msCourses ((wBacking 0).rd Od.backingTimeout)) ((wBacking 0).grainOf 1000000) = true) ∧
    ((wBacking 0).storage.writeBacks.find? (fun w => w.ns == 1 && w.seq == 4) = some ⟨1, 4, [], [], [], 2, 0⟩) ∧
    (State.reset.rd Od.dspBifurcation ≠ 0 ∨ (0 : Fin 4).val = 0) ∧
    (nsPresent ((wBacking 0).nspace 2) = true ∧ (wBacking 0).rd (Od.namespaceStatus 2) = 1) ∧
    ((wBacking 0).storage.connected.contains 0 = false ∧ (wBacking 0).tilesOn 0 ≠ [] ∧ (wBacking 0).storageOn = true ∧ (wBacking 0).armed (tmReconnect 0) = false ∧
      (wBacking 0).rdma.qps.length + 2 * ((wBacking 0).tilesOn 0).length ≤ qpLimit ((wBacking 0).rd Od.modeInForce)) ∧
    (({ wBacking 0 with storage := { (wBacking 0).storage with connected := [0] } } : State).storage.connected.contains 0 = true) := by decide +kernel

theorem hyp_RdmaDoorbells : (wSent.rdmaDoor 0 5 = true ∧ (wSent.rqp? 5).isSome = true ∧ ((wSent.rqp? 5).map RdmaQp.slice) = some 5 ∧
      (wSent.rqp? 6).isNone = true ∧ ((wSent.rcq? 7).map fun c => leAt c.record 2 2) = some 5 ∧ (wSent.rcq? 8).isNone = true) ∧
    ((wSent.region? 3).map Region.state = some 2 ∧ wSent.regionBusy 3 = false) := by decide +kernel

theorem hyp_RdmaWorkRequests : ((wSend 0 0).nextWork 5 = some ({ wQp 3 [wWork 0 0] with rnrTime := none }, 0, wWork 0 0) ∧ wqOp (wWork 0 0).wqe = 0 ∧
      (wSend 0 0).wqError { wQp 3 [wWork 0 0] with rnrTime := none } (wWork 0 0).wqe = 0 ∧ (wSend 0 0).mayStart 5 = true ∧
      ceilDiv (min (wqLen (wWork 0 0).wqe) 256 + 128) 256 ≤ (wSend 0 0).poolFree 0x30) ∧
    ((wSend 5 0).wqError { wQp 3 [wWork 5 0] with rnrTime := none } (wWork 5 0).wqe ≠ 0) ∧
    ({ wSend 7 0 with slices := { (wSend 7 0).slices with sets := [(5, SliceSet.fresh)], ops := [(5, 1)] } } : State).mayStart 5 = false ∧
    ((wSend 0x20 0).nextWork 5 = some ({ wQp 3 [wWork 0x20 0] with rnrTime := none }, 0, wWork 0x20 0) ∧
      (wSend 0x20 0).wqError { wQp 3 [wWork 0x20 0] with rnrTime := none } (wWork 0x20 0).wqe ≠ 0 ∧
      (wSend 0x20 0).wqError { wQp 3 [wWork 0x20 0] with rnrTime := none } (0x20 * 2 ^ 504 + 2 ^ 127) = 0) ∧
    (tblGet (0, 0) (wSend 0x20 2).rdma.released (rdmaTile 5) = (0, 0) ∧ (wSend 0x20 2).waitsDue (rdmaTile 5) = [(1, 5)] ∧
      ((wSend 0x20 2).waitsDue (rdmaTile 5)).take 64 = [(1, 5)] ∧ ((wSend 0x20 2).rqp? 5).isSome = true ∧ (wSend 0x20 2).rd Od.modeInForce ≠ 7) := by decide +kernel

/-- R346: an urgency-3 request that finds the 8 cores busy suspends one; by the end of its 300 bytes it has left the core. -/
theorem test_inline_suspends :
    let s := ((List.range 8).foldl (fun s _ => s.inlineRequest 0 2 9216) State.reset).inlineRequest 0 7 300
    let late : State := { s with clock.off := s.clock.off + 12 * nsTicks }
    s.rd (Od.suspensions 0) = 1 ∧ ((s.inlineCluster 0).running.map InlineJob.urgency) = [1, 1, 1, 1, 1, 1, 1, 3] ∧
      (InlineCluster.until late.now 10 (s.inlineCluster 0)).suspended = [] := by decide +kernel

/-- R497: at 1 Mb/s the second packet waits, and goes when the rate has room for it. -/
theorem test_pace_holds_back :
    let f := Frame.plain 0 (leBytes 976 0) 0 0
    let s := ((wRdma (wQp 3 [])).pace 5 65536 0 f).pace 5 65536 0 f
    (s.pacing 5).waiting.length = 1 ∧ (s.pacing 5).used = 8000000 * nsTicks := by decide +kernel

theorem hyp_RdmaPacketsArrive : ((wSent.roceArrive 0 0 (wPacket 0x81 (leBytes 16 0))).2.isSome = true ∧ roceOp (rocePacket (wPacket 0x81 (leBytes 16 0))).opcode = .cnp) ∧
    ((wSent.roceArrive 0 0 (wPacket 4 (leBytes 4 0))).2.isSome = true ∧ roceOp (rocePacket (wPacket 4 (leBytes 4 0))).opcode ∉ [RoceOp.ack, .readResponse, .atomicAck, .cnp] ∧
      (rocePacket (wPacket 4 (leBytes 4 0))).dest = 5 ∧ ((wSent.roceArrive 0 0 (wPacket 4 (leBytes 4 0))).1.rqp? 5).isSome = true ∧ (wRdma (wQp 0 [])).rqp? 6 = none) ∧
    (let u := (wSent.roceArrive 0 0 (wPacket 4 (leBytes 4 0))).1
     (u.rqp? 5).map RdmaQp.slice = some 5 ∧ u.quiescing 5 = false ∧ u.canMaster (u.rdmaFn 5) = true ∧
      ((u.takeDelay 5 (rocePacket (wPacket 4 (leBytes 4 0))) 0).rqp? 5).isSome = true) ∧
    (let v := (wSent.wr (Od.hostLinkStatus 0) 0).roceArrive 0 0 (wPacket 4 (leBytes 4 0))
     v.2.isSome = true ∧ v.1.quiescing 5 = false ∧ v.1.canMaster (v.1.rdmaFn 5) = false) ∧
    ((wSent.replyFor 0 0 (wAck 0)).2.isSome = true ∧ syndrome (wAck 0) wSent = some 0 ∧ syndrome (wAck 0x60) wSent = some 0x60 ∧
      syndrome (wAck 0x21) wSent = some 0x21 ∧ syndrome (wAck 0x62) wSent = some 0x62 ∧
      (((wSent.replyFor 0 0 (wAck 0x60)).1.acknowledge 5 (2 ^ 24 - 1) 0).1.rqp? 5).bind RdmaQp.oldest = some (wWork 0 2)) ∧
    ((wSent.replyFor 0 0 (wPacket 0x0F (leBytes 4 0))).2.isSome = true ∧ roceOp (rocePacket (wPacket 0x0F (leBytes 4 0))).opcode = .readResponse) := by decide +kernel

theorem hyp_RdmaTimersAndStorms : (wStorm.rqp? 5 = some (wQp 3 [wWork 0 2]) ∧ (wQp 3 [wWork 0 2]).oldest = some (wWork 0 2) ∧ leAt wRecord 40 1 ≠ 0 ∧
      wStorm.dueEvery (tmAck 5) (ceilDiv (4096 * 2 ^ leAt wRecord 40 1) wStorm.len) (wStorm.grainOf 1048576) = true ∧
      wStorm.due (tmRnr 5) (ceilDiv 10000 wStorm.len) = true ∧ wStorm.rd Od.modeInForce ≠ 7) ∧
    (({ wQp 3 [] with record := overlay wRecord 3 [1] } : RdmaQp).oneWay = true ∧ 0 + wStorm.rd Od.delayFallbackCourses + 1 ≤ wStorm.course) ∧
    (wStorm.rdB (Od.pfcWatchdogEnable 0) = true ∧ wStorm.lossless 0 3 = true ∧ wStorm.storm 0 3 = false ∧
      wStorm.dueEvery (tmStorm 0 3) (wStorm.rd (Od.watchdogTime 0)) 64 = true ∧ wStorm.now < (wStorm.queue 0 3).pausedUntil) ∧
    (wStorm.storm 0 4 = true ∧ wStorm.dueEvery (tmRestored 0 4) (wStorm.rd (Od.restoreTime 0)) 64 = true) := by decide +kernel

theorem hyp_StartUpCommands : ({ State.reset with boot := { State.reset.boot with phase := 0 } } : State).boot.phase = 0 ∧
    (({ State.reset with boot := { State.reset.boot with phase := 1, cold := true } } : State).boot.cold = true ∧ State.reset.rd Od.refclkSysState = 0 ∧
      (State.reset.wr Od.refclkSysState 1).rd Od.refclkSysState ≠ 0) := by decide +kernel

theorem hyp_UpgradeCommands : (State.reset.boot.phase = 2 ∧ (wActivation 1).activating = 1 ∧ (wActivation 1).preparationCode 1 true false ≠ 0) ∧
    ((wActivation 2).activating = 2 ∧ (wActivation 2).activation.switchCourse ≤ (wActivation 2).course) ∧
    (({ wActivation 3 with activation := { (wActivation 3).activation with tiles := [] } } : State).handingOver 0 = true) ∧
    ((wActivation 3).activating = 3 ∧ (wActivation 3).changes 2 = true ∧ (wActivation 3).activation.keystone = false ∧ (wActivation 3).tilesDone = true) ∧
    ((wActivation 4).activating = 4 ∧ ({ wActivation 3 with activation := { (wActivation 3).activation with keystone := true } } : State).allSwitched = true) ∧
    ((State.reset.wr Od.activationStatus (activationWord 3 1 2 0)).activating = 3 ∧ (State.reset.wr Od.activationStatus (activationWord 3 1 2 0)).changes 2 = true ∧
      (State.reset.wr Od.activationStatus (activationWord 3 1 2 0)).changes 5 = false) ∧
    (wWake.rd (Od.wakeState 0) = 2 ∧ [1] ≠ wWake.boot.retained ∧ wWake.rd (Od.wakeState 1) = 3) := by decide +kernel

theorem hyp_FaultCommands : 2 ≤ State.reset.boot.phase ∧ State.reset.service.repairing.contains (511 * 2 ^ 20 + (2 ^ 20 - 1)) = false ∧
    (State.reset.bump Od.hbmCorrected).rowErrors 0 = [] ∧ 1 < (State.reset.bump Od.hbmCorrected).rd Od.hbmRepairThreshold ∧
    (wRepair.service.repairing.contains (0 * 2 ^ 20 + 5) = true ∧ tblGet 0 wRepair.service.spares 0 < 4) ∧ State.reset.keystone.timeFaults.contains 56 = false ∧
    (wRepair.watched 0 = true ∧ firmwareTiles.contains 0 = true) ∧ (State.reset.watched 56 = false ∧ ((56 : Nat) < 0x20 ∨ 0x30 ≤ (56 : Nat))) := by decide +kernel

theorem hyp_SessionCommands : (2 ≤ State.reset.boot.phase ∧ State.reset.agent.handover = false ∧ wHand.agent.handover = true) ∧
    wSession.due (tmFinish 1) (wSession.secCourses 10) = true ∧ wSession.due (tmBlock 1) (wSession.secCourses 60) = true ∧
    (wSession.agent.sessions.find? (fun x => x.id == 1) = some wOpen ∧ 16 ≤ wOpen.waiting.length ∧ wOpen.second ≠ wSession.second) ∧
    wSession.due (tmIdleSession 1) (wSession.secCourses (wSession.rd Od.sessionIdleTimeout)) = true ∧
    wSession.due (tmLifetime 1) (wSession.secCourses (wSession.rd Od.sessionLifetime)) = true ∧
    (wSession.due (tmTransfer 1) (wSession.msCourses (wSession.rd Od.transferTimeout)) = true ∧
      wSession.due (tmCopy 1) (wSession.msCourses (wSession.rd Od.transferTimeout)) = false) ∧
    wSession.answers 0 = true ∧ (State.reset.coreRuns 95 = true ∧ (State.reset.coreWindow 95).busy = false) ∧
    ((State.reset.moveTo 0).mgmtRate true).isSome = true ∧ (wMgmt .arp).trailer = none ∧ State.reset.mgmt.degradedReported = false ∧
    (({ State.reset with mgmt := { State.reset.mgmt with framesB := 10 ^ 6 } } : State).mgmtRate true).isNone = true := by decide +kernel

theorem hyp_RequestCommands : 2 ≤ State.reset.boot.phase ∧ State.reset.agent.handover = false ∧ wHand.agent.handover = true ∧
    (wSession.answers 3 = true ∧ ((regAt 3 0 0x1000).map fun p => p.size) = some 4 ∧ (wSession.wr (Od.tioOwner 0) 1).rd (Od.tioOwner 0) = 1 ∧
      wSession.rd Od.modeInForce ≠ 7) := by decide +kernel

theorem hyp_RequestsAreServed : (wServed.sessionOver 1).agent.sessions.find? (fun x => x.id == 1) = some wOpen ∧
    (20 ≠ wOpen.high + 1 ∧ wOpen.stored.find? (fun e => e.1 == 20) = some (20, 0x0A, ⟨0, []⟩)) ∧
    (5 ≠ wOpen.high + 1 ∧ wOpen.stored.find? (fun e => e.1 == 5) = none) ∧
    ((wServed.sessionOver 2).agent.sessions.find? (fun x => x.id == 2) = none ∧ (wServed.sessionOver 2).agent.ended.contains 2 = true) ∧
    ((wServed.sessionOver 3).agent.sessions.find? (fun x => x.id == 3) = none ∧ (wServed.sessionOver 3).agent.ended.contains 3 = false) ∧
    0 ≤ State.reset.rd Od.commandCounter ∧ State.reset.rd Od.commandCounter < State.reset.rd Od.commandCounter + 1 ∧
    (State.reset.coreWindow 0).busy = false ∧ (State.reset.mailbox 0).busy = false := by decide +kernel

theorem hyp_WriteCommands : 2 ≤ State.reset.boot.phase ∧ State.reset.agent.handover = false ∧ wHand.agent.handover = true ∧
    (∀ c b, wAsk.via ≠ .signed c b) ∧ wAsk.via ≠ .firmware ∧ (⟨.signed 1 true, 0⟩ : Req).via = .signed 1 true := by
  refine ⟨by decide, by decide, by decide, ?_, ?_, rfl⟩
  · intro c b h; cases h
  · intro h; cases h

theorem hyp_MonitorCommands : (State.reset.monitorRuns = true ∧ State.reset.monitor.autoBaud = true) ∧ (wText.monitorRuns = true ∧ wText.monitor.autoBaud = false) ∧
    (wText.due tmChars (wText.secCourses (wText.rd Od.monitorIdleTimeout)) = true ∧ wText.due tmCommands (wText.secCourses (wText.rd Od.monitorIdleTimeout)) = false) ∧
    ((wExpired [tmCommands] wText).due tmCommands (wText.secCourses (wText.rd Od.monitorIdleTimeout)) = true ∧
      (wExpired [tmCommands] wText).due tmChars (wText.secCourses (wText.rd Od.monitorIdleTimeout)) = false) ∧
    ({ wText with monitor := { wText.monitor with expects := 0, block := false, blocked := false } } : State).textOpen = true ∧
    (wText.monitor.expects = 1 ∧ wText.agent.handover = false ∧ wText.due tmChallenge (wText.secCourses 60) = true) ∧
    (wText.monitor.blocked = true ∧ wText.due tmBackoff (wText.secCourses wText.monitor.backoff) = true) ∧
    ({ wText with monitor := { wText.monitor with blp := true } } : State).monitor.blp = true ∧
    (wText.monitor.block = true ∧ wText.due tmMonBlock (wText.secCourses 2) = true) := by decide +kernel

theorem hyp_ChecksComeInTheirOrder : odIndexKnown 0xFFFF = false ∧ (odIndexKnown 0x1000 = true ∧ (odRow? 0x1000FF).isNone = true) ∧
    ((odRow? Od.timeSet).map fun r => mayWrite r.access .m) = some false ∧
    ((odRow? Od.helloInterval).map fun r => (mayWrite r.access .m, (itemOf r Od.helloInterval ⟨0xFF, []⟩).isNone)) = some (true, true) ∧
    State.reset.keystoneOnly Od.helloInterval = false ∧
    ((odRow? Od.microcodePatch).map fun r => (mayWrite r.access .m, (itemOf r Od.microcodePatch ⟨0xFF, []⟩).isNone)) = some (true, true) ∧
    ({ State.reset with dict := (List.range 4).map fun i => (Od.microcodeKeyRevoked i, 1) } : State).patchSigned [] = false ∧ State.reset.keystoneOnly Od.microcodePatch = false ∧
    ((State.reset.wr (Od.ksEnable 0) 1).keystoneOnly 0x71000D = true) ∧ [3, 5] ≠ [] ∧ (∀ c ∈ [3, 5], c ∈ [8, 1, 2, 3, 9, 5, 7, 4, 0x0A, 6, 0x0B]) := by decide +kernel

theorem hyp_AcceptedWritesWaitForTheirBoundary : State.reset.clock.start + State.reset.clock.off + 200 * nsTicks < State.reset.clock.finish ∧
    (State.reset.moveTo (800 * nsTicks)).clock.finish ≤ (State.reset.moveTo (800 * nsTicks)).clock.start + (State.reset.moveTo (800 * nsTicks)).clock.off + 200 * nsTicks ∧
    ((odRow? Od.helloInterval).map fun r => ((itemOf r Od.helloInterval ⟨0x04, beBytes 4 100⟩).isSome, r.effect)) = some (true, .crs) ∧
    (State.reset.agentWrite 0 .m false Od.helloInterval ⟨0x04, beBytes 4 100⟩).status = 0 ∧ keyIs Od.helloInterval 0x2600 32 0x0E = false ∧
    ((odRow? Od.courseLength).map fun r => ((itemOf r Od.courseLength ⟨0x04, beBytes 4 1000⟩).isSome, r.effect)) = some (true, .set) ∧
    (State.reset.agentWrite 0 .keystone false Od.courseLength ⟨0x04, beBytes 4 1000⟩).status = 0 ∧
    (State.reset.agentWrite 0 .m false Od.courseLength ⟨0x04, beBytes 4 1000⟩).status = 3 := by decide +kernel

/-! ## Single steps and operations, with results of the manual's own examples -/

/-- Chapter "Tiles, Mortar and data paths": 64 bytes take 1 brick, 1,518 bytes 6 (a frame's bytes stand without its FCS). -/
theorem test_bricks : ({ wFrame 1 with bytes := List.replicate 60 0 } : Frame).bricks = 1 ∧
    ({ wFrame 1 with bytes := List.replicate 1514 0 } : Frame).bricks = 6 := by decide +kernel

/-- R30: every mode's slots of a link total 64. -/
theorem test_slots_total_64 : (∀ m ∈ [0, 1, 2, 3, 4, 5, 6, 7], (slotOwnership m).sum = 64) ∧ (∀ t ∈ [0x20, 0x30, 0x34, 0x36, 0x37, 0x38], (otherSlotOwnership t).sum = 64) := by
  decide

/-- Chapter "Lanes, ports and link negotiation": the LaneGrouping of PT12. -/
theorem test_lane_grouping : groupingValid 0xFFF411F2 = true := by decide

/-- Chapter "Trowel engines and microcode": the disturbance trigger's WorstPath is 48. -/
theorem test_worst_path : worstPath none [0x5810000A, 0x481000FF, 0x4B100002, 0x5020803A, 0x60310000, 0x4D230000, 0x68100005, 0x61210000, 0x41400001,
    0x62410400, 0x71240001, 0x7F000000] = some 48 := by decide +kernel

/-- Chapter "Switch core and output buffering": Dmax of the relay's stream is 540 ns (100 GbE is speed code 4). -/
theorem test_dmax : dmax 2 4 4 300 true = 540 := by decide +kernel

/-- R593: a glitch is counted, and the command leaves the queue. -/
theorem test_reset_glitch : step { State.reset with pending := [.resetGlitch, .resetStart] } =
    .next { State.reset.bump Od.resetGlitches with pending := [.resetStart] } ∧
    (State.reset.bump Od.resetGlitches).rd Od.resetGlitches = 1 := ⟨rfl, by decide +kernel⟩

/-- R20: an unknown subindex of a known index is 0x02, an unknown index 0x01. -/
theorem test_write_codes : (State.reset.agentWrite 0 .m false 0x1000FF ⟨0x02, [0]⟩).status = 2 ∧ (State.reset.agentWrite 0 .m false 0xFFFF01 ⟨0x02, [0]⟩).status = 1 := by
  decide +kernel

/-- R75: a value just below the present in its low 54 bits lies in the past. -/
theorem test_extension : extendTs 54 0 (2 ^ 54 + 5) = 2 ^ 54 ∧ extendTs 54 (2 ^ 54 - 1) (2 ^ 54 + 5) = 2 ^ 54 - 1 := by decide

end Sys2Proof.Tests
end

section
/-! PROOFS. Proofs/TimeBase.lean: truncated timestamps and the instants they stand for (R75, R76). -/

namespace Sys2Proof.Machine

/-- The rule of R75 is the present plus the balanced remainder of the distance from it to the value. -/
theorem extendTs_succ_eq_add_bmod (w v p : Nat) :
    extendTs (w + 1) v p = p + ((v : Int) - p).bmod (2 ^ (w + 1)) := by
  have half : ((2 ^ (w + 1) : Nat) + 1 : Int) / 2 = (2 ^ w : Nat) := by omega
  unfold extendTs Int.bmod
  simp only [Nat.add_sub_cancel, half]
  split <;> split <;> omega

/-- A value extends into the half-open window of its own width around the present. -/
theorem extendTs_succ_window (w v p : Nat) :
    (p : Int) - 2 ^ w ≤ extendTs (w + 1) v p ∧ extendTs (w + 1) v p < (p : Int) + 2 ^ w := by
  have modulus_pos : 0 < 2 ^ (w + 1) := by positivity
  have lower := Int.le_bmod (x := (v : Int) - p) modulus_pos
  have upper := Int.bmod_lt (x := (v : Int) - p) modulus_pos
  rw [extendTs_succ_eq_add_bmod]
  push_cast [pow_succ] at lower upper ⊢
  omega

/-- Extension changes only the bits above the width. -/
theorem extendTs_succ_emod (w v p : Nat) :
    extendTs (w + 1) v p % 2 ^ (w + 1) = (v : Int) % 2 ^ (w + 1) := by
  have distance : ((v : Int) - p).bmod (2 ^ (w + 1)) ≡ v - p [ZMOD (2 ^ (w + 1) : Nat)] := Int.bmod_emod
  calc extendTs (w + 1) v p % 2 ^ (w + 1)
      = (p + ((v : Int) - p).bmod (2 ^ (w + 1))) % 2 ^ (w + 1) := by rw [extendTs_succ_eq_add_bmod]
    _ = (p + ((v : Int) - p)) % 2 ^ (w + 1) := mod_cast distance.add_left p
    _ = (v : Int) % 2 ^ (w + 1) := by rw [add_sub_cancel]

/-- Settles O13: the window and the congruence hold at every width, here at the 54 bits of a TS64. -/
theorem timestampExtension : Obligations.TimestampExtension := by
  intro v p
  obtain ⟨lower, upper⟩ := extendTs_succ_window 53 v p
  exact ⟨lower, upper, extendTs_succ_emod 53 v p⟩

end Sys2Proof.Machine
end

section
/-! PROOFS. Proofs/TrowelClassWrite.lean: the instruction an engine runs next, and the write of a frame's class (R290,
R292, R293). -/

namespace Sys2Proof.Machine

/-- The word of a macro-instruction carries its opcode in bits 31 to 24 (R293). -/
theorem macroOp_macroWord {op : Nat} (m : Macro) (opcode_lt : op < 256) : macroOp (macroWord op m) = op := by
  have a_lt := m.a.isLt
  have b_lt := m.b.isLt
  have imm_lt := m.imm.isLt
  unfold macroOp macroWord bitField
  rw [Nat.shiftRight_eq_div_pow]
  omega

/-- No instruction of the patch's own comes before one that an engine runs next. -/
theorem State.runNew_of_runsNext {s : State} {e : EngineId} {op : Nat} {m : Macro} {r : Run}
    (opcode_lt : op < 256) (runs : s.runsNext e op m r) (fuel : Nat) : s.runNew e fuel = s := by
  obtain ⟨running, word, -, unpatched⟩ := runs
  cases fuel with
  | zero => rfl
  | succ fuel =>
    cases patch : s.enginePatch e with
    | none => simp [State.runNew, running, word, patch]
    | some p =>
      rw [patch] at unpatched
      simp [State.runNew, running, word, patch, macroOp_macroWord m opcode_lt, unpatched]

/-- The instruction that an engine runs next does what its opcode means, on the state as it is (R290). -/
theorem State.instr_of_runsNext {s : State} {e : EngineId} {op : Nat} {m : Macro} {r : Run}
    (opcode_lt : op < 256) (runs : s.runsNext e op m r) (go : State → Run → State) :
    s.instr e op m go = .next (go s r) := by
  have unchanged := State.runNew_of_runsNext opcode_lt runs 4096
  obtain ⟨running, word, noSwitch, unpatched⟩ := runs
  cases patch : s.enginePatch e with
  | none => simp [State.instr, unchanged, running, word, noSwitch, patch]
  | some p =>
    rw [patch] at unpatched
    simp [State.instr, unchanged, running, word, noSwitch, patch, unpatched]

/-- R292: neither a write of 7 nor a write to a frame of class 7 has a result for an ordinary program. -/
theorem Frame.setMeta_class_refused {f : Frame} {v : Nat} (touches_seven : v % 8 = 7 ∨ f.cls = 7) :
    f.setMeta false 2 v = none :=
  if_pos ⟨rfl, touches_seven⟩

/-- R292: a KeystoneOwned program writes every class, any other one between the classes below 7. -/
theorem Frame.setMeta_class_admitted {f : Frame} {keystone : Bool} {v : Nat}
    (admitted : keystone = true ∨ v % 8 ≠ 7 ∧ f.cls ≠ 7) :
    f.setMeta keystone 2 v = some { f with cls := v % 8 } := by
  refine if_neg ?_
  rintro ⟨ordinary, touches_seven⟩
  rcases admitted with owned | ⟨value_ne, class_ne⟩
  · exact Bool.noConfusion (owned.symm.trans ordinary)
  · exact touches_seven.elim value_ne class_ne

section
variable {e : EngineId} {m : Macro} {r : Run} {j : Job} {s : State}

/-- An STM whose write has no result counts it, and the program goes on. -/
theorem exec_trowelStm_of_setMeta_none (runs : s.runsNext e 0x59 m r) (job : r.job = some j)
    (refused : j.frame.setMeta r.keystone m.low (regOf r.regs m.a).toNat = none) :
    exec (.trowelStm e m) s =
      .next ((s.bump (Od.classWriteRefusedIngress (pipeTile (enginePipe e)) + enginePipe e % 2)).onward e r) := by
  change execTrowelStm e m s = _
  rw [execTrowelStm, State.instr_of_runsNext (by decide) runs]
  simp only [job, refused]

/-- An STM whose write has a result gives it to the job's frame, and the program goes on. -/
theorem exec_trowelStm_of_setMeta_some {f : Frame} (runs : s.runsNext e 0x59 m r) (job : r.job = some j)
    (written : j.frame.setMeta r.keystone m.low (regOf r.regs m.a).toNat = some f) :
    exec (.trowelStm e m) s = .next (s.onward e { r with job := some { j with frame := f } }) := by
  change execTrowelStm e m s = _
  rw [execTrowelStm, State.instr_of_runsNext (by decide) runs]
  simp only [job, written]

end

/-- Settles O32: R292's two cases of a refused write, then every other write of Class. -/
theorem trowelClassWrite : Obligations.TrowelClassWrite := by
  intro e m r j s field job runs
  constructor
  · intro ordinary touches_seven
    have refused : j.frame.setMeta r.keystone m.low (regOf r.regs m.a).toNat = none := by
      rw [ordinary, field]
      exact Frame.setMeta_class_refused touches_seven
    exact exec_trowelStm_of_setMeta_none runs job refused
  · intro admitted
    have written : j.frame.setMeta r.keystone m.low (regOf r.regs m.a).toNat =
        some { j.frame with cls := (regOf r.regs m.a).toNat % 8 } := by
      rw [field]
      exact Frame.setMeta_class_admitted admitted
    exact exec_trowelStm_of_setMeta_some runs job written

end Sys2Proof.Machine
end

section
/-! PROOFS. Proofs/CompletionTimeout.lean: the completion timeout that Device Control 2 selects (R394). -/

namespace Sys2Proof.Machine

/-- Settles O39: the table of R394, an encoding at a time; an encoding outside it takes the default of 0b0000. -/
theorem completionTimeoutValues : Obligations.CompletionTimeoutValues := by
  intro s f
  unfold State.completionTimeout
  generalize (s.hostFn f).deviceControl2 % 16 = encoding
  split
  case h_5 not_40 not_120 not_500 not_2000 =>
    rw [if_neg not_40, if_neg not_120, if_neg not_500, if_neg not_2000]
  all_goals rfl

end Sys2Proof.Machine
end

section
/-! PROOFS. Proofs/Steps.lean: what a step does to the queue, that it keeps the canonical form, and that it always answers a
next state (R8, R416, R537, R551, R552). -/

namespace Sys2Proof.Machine

/-- Settles O1: a step reads the front of the queue only. -/
theorem stepRunsFrontCommand : Obligations.StepRunsFrontCommand := fun _ _ _ => rfl

/-- Settles O2: with an empty queue a step is one slot time. -/
theorem emptyQueueTurnsTheMortar : Obligations.EmptyQueueTurnsTheMortar := by
  intro s empty
  simp only [step, empty]

/-- A step takes the front command and keeps the canonical form, whether a command waits or not. -/
theorem step_kept {s : State} (canonical : s.Canonical) : ResKept (step s) s.pending.tail := by
  unfold step
  cases waiting : s.pending with
  | nil => exact resKept_next (State.slotTick_kept ⟨waiting, canonical⟩)
  | cons c q => exact exec_kept ⟨rfl, canonical⟩

/-- Settles O4: `Kept` joins the two halves, and every command's meaning keeps it. -/
theorem stepKeepsCanonicalForm : Obligations.StepKeepsCanonicalForm := by
  intro s t canonical answers
  obtain ⟨tail, kept⟩ := step_kept canonical t answers
  exact ⟨kept, tail⟩

/-- Settles O5: the tables of the state after reset list nothing. -/
theorem resetIsCanonical : Obligations.ResetIsCanonical := by
  refine ⟨rfl, rfl, rfl, rfl, rfl, ?_, ?_⟩ <;> exact Nat.zero_le _

/-- After reset an entry reads its default. -/
theorem reset_rd (k : Nat) : State.reset.rd k = odDefault k := rfl

/-- The default of HostLinkStatus shows no link up (R421). -/
theorem reset_hostLinkUp : ∀ link : Fin 4, State.reset.hostLinkUp link = false := by
  simp only [State.hostLinkUp, reset_rd]
  decide

/-- Settles O6: an entry reads its default in an empty dictionary. -/
theorem resetReadsDefaults : Obligations.ResetReadsDefaults :=
  ⟨reset_rd, fun _ => rfl, fun _ => rfl, rfl, rfl, reset_hostLinkUp, by decide, by decide, rfl⟩

/-! ### Every command answers a next state (R8) -/

/-- An outcome is a next state. -/
def Answers (r : Res) : Prop := ∃ t, r = .next t

theorem answers_next (s : State) : Answers (.next s) := ⟨s, rfl⟩

theorem answers_ite {c : Prop} [Decidable c] {a b : Res} (ha : Answers a) (hb : Answers b) :
    Answers (if c then a else b) := by
  split <;> assumption

theorem execPause_answers (p : PortId) (rx : RxFrame) (s : State) : Answers (execPause p rx s) := ⟨_, rfl⟩

theorem execPfc_answers (p : PortId) (off : Nat) (rx : RxFrame) (enable : Nat) (quanta : List Nat) (s : State) :
    Answers (execPfc p off rx enable quanta s) := by
  unfold execPfc
  split <;> exact answers_next _

theorem execLldpdu_answers (p : PortId) (off : Nat) (rx : RxFrame) (body : LldpBody) (s : State) :
    Answers (execLldpdu p off rx body s) := by
  unfold execLldpdu
  split
  · exact answers_next _
  · split <;> exact answers_next _

/-- A MAC control frame is a PAUSE, a PFC frame or another (R258). -/
theorem State.macControl_answers (s : State) (p : PortId) (off : Nat) (bs : List Byte) : Answers (s.macControl p off bs) := by
  unfold State.macControl
  split
  · exact execPause_answers _ _ _
  · exact execPfc_answers _ _ _ _ _ _
  · exact answers_next _

/-- A doorbell reached through a window answers as the doorbell it names (R416). -/
theorem State.peerDoorbell_answers (s : State) (link : Fin 4) (a : Nat) (bs : List Byte) {d : Res} (miss : Answers d) :
    Answers ((s.peerDoorbell link a bs).getD d) := by
  unfold State.peerDoorbell
  dsimp only
  split
  · split
    · exact ⟨_, rfl⟩
    · exact ⟨_, rfl⟩
    · exact ⟨_, rfl⟩
    · exact miss
  · exact miss

theorem execPeerApertureRequest_answers (link : Fin 4) (offset requester : Nat) (a : PeerAccess) (s : State) :
    Answers (execPeerApertureRequest link offset requester a s) := by
  refine answers_ite (answers_next _) (answers_ite (answers_next _) ?_)
  split
  · exact answers_next _
  · refine answers_ite (answers_next _) ?_
    cases a with
    | read => exact answers_next _
    | write => exact State.peerDoorbell_answers _ _ _ _ (answers_next _)

theorem execRnrNak_answers (p : PortId) (off : Nat) (bytes : List Byte) (s : State) :
    Answers (execRnrNak p off bytes s) := by
  unfold execRnrNak
  split
  · exact answers_next _
  · exact answers_ite (answers_next _) (answers_next _)

theorem execRdmaNak_answers (p : PortId) (off : Nat) (bytes : List Byte) (s : State) :
    Answers (execRdmaNak p off bytes s) := by
  unfold execRdmaNak
  split
  · exact answers_next _
  · exact answers_ite (answers_next _) (answers_next _)

/-- Every command answers a next state: most meanings are one, the others branch into several. -/
theorem exec_answers (i : Instr) (s : State) : Answers (exec i s) := by
  cases i with
  | refclkTimeReturn => exact answers_ite (answers_next _) (answers_next _)
  | announceTransmit => exact answers_ite (answers_next _) (answers_ite (answers_next _) (answers_next _))
  | delayReqTransmit =>
    exact answers_ite (answers_next _) (answers_ite (answers_next _) (answers_ite (answers_next _) (answers_next _)))
  | generatedEdge => exact answers_ite (answers_next _) (answers_next _)
  | clause73Page => exact answers_ite (answers_next _) (answers_next _)
  | trainingComplete => exact answers_ite (answers_next _) (answers_next _)
  | trainingTimeout => exact answers_ite (answers_ite (answers_next _) (answers_next _)) (answers_next _)
  | linkDownCondition => exact answers_ite (answers_next _) (answers_ite (answers_next _) (answers_next _))
  | lldpdu => exact execLldpdu_answers _ _ _ _ _
  | pfc => exact execPfc_answers _ _ _ _ _ _
  | frameReceive =>
    exact answers_ite (answers_next _) (answers_ite (answers_next _)
      (answers_ite (State.macControl_answers _ _ _ _) (answers_ite (answers_next _) (answers_next _))))
  | trowelDispatch => exact answers_ite (answers_next _) (answers_next _)
  | peerApertureRequest => exact execPeerApertureRequest_answers _ _ _ _ _
  | rocev2Packet => exact answers_ite (answers_next _) (answers_next _)
  | rdmaAck => exact answers_ite (answers_next _) (answers_next _)
  | nakPsnSequenceError => exact answers_ite (answers_next _) (answers_next _)
  | rnrNak => exact execRnrNak_answers _ _ _ _
  | rdmaNak => exact execRdmaNak_answers _ _ _ _
  | rdmaCnp => exact answers_ite (answers_next _) (answers_next _)
  | _ => exact ⟨_, rfl⟩

/-- With or without a waiting command a step answers a next state. -/
theorem step_answers (s : State) : Answers (step s) := by
  unfold step
  split
  · exact answers_next _
  · exact exec_answers _ _

theorem State.safeFor_all (n : Nat) (s : State) : s.safeFor n := by
  induction n generalizing s with
  | zero => trivial
  | succ n ih =>
    obtain ⟨t, answers⟩ := step_answers s
    exact ⟨t, answers, ih t⟩

/-- Settles O3: a run goes on as long as each of its commands answers. -/
theorem everyRunGoesOn : Obligations.EveryRunGoesOn := ⟨exec_answers, State.safeFor_all⟩

end Sys2Proof.Machine
end

section
/-! PROOFS. Proofs/TrowelWord.lean: the word of a macro-instruction and its opcode and operand fields (R293). -/

namespace Sys2Proof.Machine

/-- A field of a word, as quotient and remainder. -/
theorem bitField_eq_div_mod (v hi lo : Nat) : bitField v hi lo = v / 2 ^ lo % 2 ^ (hi + 1 - lo) := by
  rw [bitField, Nat.shiftRight_eq_div_pow]

/-- The fields read from the word built of them. -/
theorem macroOf_macroWord {op : Nat} (m : Macro) (opcode_lt : op < 256) : macroOf (macroWord op m) = (op, m) := by
  obtain ⟨a, b, imm⟩ := m
  have a_lt := a.isLt
  have b_lt := b.isLt
  have imm_lt := imm.isLt
  unfold macroOf
  rw [macroOp_macroWord _ opcode_lt]
  simp only [bitField_eq_div_mod, macroWord, Prod.mk.injEq, Macro.mk.injEq, true_and]
  refine ⟨Fin.ext ?_, Fin.ext ?_, BitVec.eq_of_toNat_eq ?_⟩
  · simp only [Fin.ofNat]
    omega
  · simp only [Fin.ofNat]
    omega
  · rw [BitVec.toNat_ofNat]
    omega

/-- The word built of the fields read from it: its four fields cover it without overlap. -/
theorem macroWord_macroOf {w : Nat} (word_lt : w < 2 ^ 32) : macroWord (macroOf w).1 (macroOf w).2 = w := by
  simp only [macroOf, macroWord, macroOp, bitField_eq_div_mod, Fin.ofNat, BitVec.toNat_ofNat]
  omega

/-- Settles O7: the two directions of the round trip. -/
theorem trowelWordRoundTrip : Obligations.TrowelWordRoundTrip :=
  ⟨fun _ m opcode_lt => macroOf_macroWord m opcode_lt, fun _ word_lt => macroWord_macroOf word_lt⟩

end Sys2Proof.Machine
end

section
/-! PROOFS. Proofs/TrowelInstructions.lean: the macro-instruction an engine runs next has its effect on registers, flags,
frame, metadata and state memory, or faults (R290, R291, R294, R302). -/

namespace Sys2Proof.Machine

section
variable {e : EngineId} {m : Macro} {r : Run} {s : State} {op : Nat}

/-! ### The instruction forms -/

theorem State.setsReg_of_runsNext (opcode_lt : op < 256) (runs : s.runsNext e op m r) (v : Run → Word32) :
    s.setsReg e op m v = .next (s.setRun e (some { r with regs := r.regs.set m.a (v r), pc := r.pc + 1 })) :=
  State.instr_of_runsNext opcode_lt runs _

theorem State.adds_of_runsNext (opcode_lt : op < 256) (runs : s.runsNext e op m r) (b : Run → Word32) :
    s.adds e op m b = .next (s.setRun e (some { r with
      regs := r.regs.set m.a (regOf r.regs m.a + b r), z := regOf r.regs m.a + b r == 0,
      c := decide (2 ^ 32 ≤ (regOf r.regs m.a).toNat + (b r).toNat), pc := r.pc + 1 })) :=
  State.instr_of_runsNext opcode_lt runs _

theorem State.compares_of_runsNext (opcode_lt : op < 256) (runs : s.runsNext e op m r) (b : Run → Word32) :
    s.compares e op m b = .next (s.setRun e (some { r with
      z := regOf r.regs m.a - b r == 0, c := decide ((regOf r.regs m.a).toNat < (b r).toNat), pc := r.pc + 1 })) :=
  State.instr_of_runsNext opcode_lt runs _

theorem State.onFrame_of_runsNext {j : Job} (opcode_lt : op < 256) (runs : s.runsNext e op m r) (job : r.job = some j)
    (n : Nat) (go : State → Run → Job → State) :
    s.onFrame e op m n go =
      .next (if frameAddr r m + n ≤ j.window then go s r j else s.programFault e r) := by
  rw [State.onFrame, State.instr_of_runsNext opcode_lt runs]
  simp only [job]

theorem State.onFrame_of_no_job (opcode_lt : op < 256) (runs : s.runsNext e op m r) (noJob : r.job = none)
    (n : Nat) (go : State → Run → Job → State) : s.onFrame e op m n go = .next (s.programFault e r) := by
  rw [State.onFrame, State.instr_of_runsNext opcode_lt runs]
  simp only [noJob]

/-- R291: an address of state memory is aligned, at most 0xFFFF, and below the Keystone area for an ordinary program. -/
theorem State.onMemory_of_runsNext {ok : Bool} (opcode_lt : op < 256) (runs : s.runsNext e op m r)
    (reachable : ok = decide (memAddr r m % 4 = 0 ∧ memAddr r m ≤ 0xFFFF ∧ (memAddr r m < 0xF000 ∨ r.keystone = true)))
    (go : State → Run → Nat → State) :
    s.onMemory e op m go =
      .next (if ok = true then go s r (e / 4 * 16384 + memAddr r m / 4) else s.programFault e r) := by
  rw [State.onMemory, State.instr_of_runsNext opcode_lt runs, reachable]
  have refusal_iff : (memAddr r m % 4 ≠ 0 ∨ 0xFFFF < memAddr r m ∨ 0xF000 ≤ memAddr r m ∧ r.keystone = false) ↔
      ¬ (memAddr r m % 4 = 0 ∧ memAddr r m ≤ 0xFFFF ∧ (memAddr r m < 0xF000 ∨ r.keystone = true)) := by
    simp only [ne_eq, not_and_or, not_or, not_le, not_lt, Bool.not_eq_true]
  simp only [refusal_iff, ite_not, decide_eq_true_eq]
  rfl

/-! ### Branches -/

/-- The condition codes of BR (R294). -/
theorem condition_iff (a : Fin 16) (z c : Bool) :
    condition a z c = true ↔ a.val = 0 ∨ a.val = 1 ∧ z = true ∨ a.val = 2 ∧ z = false ∨ a.val = 3 ∧ c = true ∨
      a.val = 4 ∧ c = false := by
  revert a z c
  decide

/-! ### Metadata -/

/-- A metadata field at 16 or above is one of the user-defined fields (R291). -/
theorem State.metaField_udf {j : Job} {f : Nat} (beyond : 16 ≤ f) : s.metaField j f = j.udf.getD (f - 16) 0 := by
  obtain ⟨n, rfl⟩ := Nat.exists_eq_add_of_le' beyond
  rfl

/-- The table of the metadata fields below 16 (R291). -/
theorem State.metaField_of_mem {j : Job} {f v : Nat}
    (row : (f, v) ∈ [(0, j.frame.src % 256), (1, if j.egress then j.port else 255), (2, j.frame.cls), (3, j.frame.pcp),
      (4, j.frame.metaValue % 65536), (5, s.metaField j 5), (6, ts64 j.frame.stamp % 2 ^ 32),
      (7, ts64 j.frame.stamp / 2 ^ 32), (8, j.frame.course % 2 ^ 32), (9, j.frame.vid), (10, j.appId), (11, j.packetType),
      (12, j.frame.ruleId)]) : s.metaField j f = v := by
  simp only [List.mem_cons, Prod.mk.injEq, List.not_mem_nil, or_false] at row
  rcases row with ⟨rfl, rfl⟩ | ⟨rfl, rfl⟩ | ⟨rfl, rfl⟩ | ⟨rfl, rfl⟩ | ⟨rfl, rfl⟩ | ⟨rfl, rfl⟩ | ⟨rfl, rfl⟩ |
    ⟨rfl, rfl⟩ | ⟨rfl, rfl⟩ | ⟨rfl, rfl⟩ | ⟨rfl, rfl⟩ | ⟨rfl, rfl⟩ | ⟨rfl, rfl⟩ <;> rfl

/-- STM of a field other than Class: Pcp and Meta are set, a read-only field stays (R291). -/
theorem Frame.setMeta_of_ne_class (f : Frame) (keystone : Bool) {field : Nat} (v : Nat) (notClass : field ≠ 2) :
    f.setMeta keystone field v = some (
      if field = 3 then { f with pcp := v % 8, bytes := remarkTag f.bytes (v % 8) f.dei }
      else if field = 4 then { f with metaValue := v % 65536 } else f) := by
  unfold Frame.setMeta
  split
  · exact absurd rfl notClass
  · rfl
  · rfl
  · next notPcp notMeta => rw [if_neg notPcp, if_neg notMeta]

end

/-- Settles O30: each instruction through the rule of its form. -/
theorem trowelArithmetic : Obligations.TrowelArithmetic := by
  intro e m r s
  refine ⟨fun runs => ?nop, fun runs => ?ldi, fun runs => ?ldh, fun runs => ?mov, fun runs => ?add, fun runs => ?addi,
    fun runs => ?sub, fun runs => ?and, fun runs => ?andi, fun runs => ?or, fun runs => ?xor, fun runs => ?shl,
    fun runs => ?shr, fun runs => ?cmp, fun runs => ?cmpi, fun runs => ?hash, fun runs => ?br⟩
  case nop =>
    change execTrowelNop e m s = _
    rw [execTrowelNop, State.instr_of_runsNext (by decide) runs]
    rfl
  case sub =>
    change execTrowelSub e m s = _
    rw [execTrowelSub, State.instr_of_runsNext (by decide) runs]
    rfl
  case add | addi => exact State.adds_of_runsNext (by decide) runs _
  case cmp | cmpi => exact State.compares_of_runsNext (by decide) runs _
  case br =>
    change execTrowelBr e m s = _
    rw [execTrowelBr, State.instr_of_runsNext (by decide) runs]
    simp only [condition_iff]
  all_goals exact State.setsReg_of_runsNext (by decide) runs _

section
variable {e : EngineId} {m : Macro} {r : Run} {s : State}

/-- INS (R294, R302): a frame too long, too many bytes or an offset beyond the window faults. -/
theorem exec_trowelIns_of_runsNext {j : Job} (runs : s.runsNext e 0x52 m r) (job : r.job = some j) :
    exec (.trowelIns e m) s = .next (if frameAddr r m ≤ j.window ∧ frameAddr r m ≤ 255 ∧ r.inserted + m.high ≤ 32 ∧
        j.frame.bytes.length + m.high + 4 ≤ s.egressMax r j then
      s.onward e ({ r with inserted := r.inserted + m.high }.withBytes j
        (j.frame.bytes.take (frameAddr r m) ++ List.replicate m.high 0 ++ j.frame.bytes.drop (frameAddr r m)))
      else s.programFault e r) := by
  change execTrowelIns e m s = _
  rw [execTrowelIns, State.onFrame_of_runsNext (by decide) runs job]
  simp only [Nat.add_zero, ite_and, ← not_le, ← not_and_or, ite_not]

/-- DEL (R294, R302). -/
theorem exec_trowelDel_of_runsNext {j : Job} (runs : s.runsNext e 0x53 m r) (job : r.job = some j) :
    exec (.trowelDel e m) s = .next (if frameAddr r m + m.high ≤ j.window ∧ r.removed + m.high ≤ 32 then
      s.onward e ({ r with removed := r.removed + m.high }.withBytes j
        (j.frame.bytes.take (frameAddr r m) ++ j.frame.bytes.drop (frameAddr r m + m.high)))
      else s.programFault e r) := by
  change execTrowelDel e m s = _
  rw [execTrowelDel, State.onFrame_of_runsNext (by decide) runs job]
  simp only [ite_and, ← not_le, ite_not]

/-- LDM reads the metadata field of its number. -/
theorem exec_trowelLdm_of_runsNext {j : Job} (runs : s.runsNext e 0x58 m r) (job : r.job = some j) :
    exec (.trowelLdm e m) s =
      .next (s.onward e { r with regs := r.regs.set m.a (BitVec.ofNat 32 (s.metaField j m.low)) }) := by
  change execTrowelLdm e m s = _
  rw [execTrowelLdm, State.instr_of_runsNext (by decide) runs]
  simp only [job] <;> rfl

/-- CSUM needs no window: it finds the headers itself. -/
theorem exec_trowelCsum_of_runsNext {j : Job} (runs : s.runsNext e 0x54 m r) (job : r.job = some j) :
    exec (.trowelCsum e m) s = .next (s.onward e (r.withBytes j (
      if m.imm = 0 then
        match (parseFrame j.frame.bytes (s.rd Od.wallEthertype)).l3 with
        | some o => if (parseFrame j.frame.bytes (s.rd Od.wallEthertype)).ip = 4 then ipv4Checksum j.frame.bytes o
            else j.frame.bytes
        | none => j.frame.bytes
      else adjustL4 (s.rd Od.wallEthertype) r.original j.frame.bytes))) := by
  change execTrowelCsum e m s = _
  rw [execTrowelCsum, State.instr_of_runsNext (by decide) runs]
  simp only [job] <;> rfl

/-- FWD records a valid destination (R295). -/
theorem exec_trowelFwd_of_runsNext {j : Job} (runs : s.runsNext e 0x70 m r) (job : r.job = some j) :
    exec (.trowelFwd e m) s = .next (if (s.asOf r).destValid m.kind (regOf r.regs m.a).toNat = true then
      s.onward e { r with fwd := some (m.kind, (regOf r.regs m.a).toNat) } else s.programFault e r) := by
  change execTrowelFwd e m s = _
  rw [execTrowelFwd, State.instr_of_runsNext (by decide) runs]
  simp only [job, Option.isNone_some, Bool.false_or, Bool.not_eq_true', ← Bool.not_eq_true, ite_not]

end

/-- Without a frame an instruction on one faults (R302). -/
theorem exec_frameInstruction_of_no_job {e : EngineId} {m : Macro} {r : Run} {s : State} {op : Nat} {c : Instr}
    (noJob : r.job = none)
    (listed : (op, c) ∈ [(0x50, .trowelLdf e m), (0x51, .trowelStf e m), (0x52, .trowelIns e m), (0x53, .trowelDel e m),
      (0x54, .trowelCsum e m), (0x55, .trowelTsw e m), (0x70, Instr.trowelFwd e m)])
    (runs : s.runsNext e op m r) : exec c s = .next (s.programFault e r) := by
  simp only [List.mem_cons, Prod.mk.injEq, List.not_mem_nil, or_false] at listed
  rcases listed with ⟨rfl, rfl⟩ | ⟨rfl, rfl⟩ | ⟨rfl, rfl⟩ | ⟨rfl, rfl⟩ | ⟨rfl, rfl⟩ | ⟨rfl, rfl⟩ | ⟨rfl, rfl⟩
  · change execTrowelLdf e m s = _
    rw [execTrowelLdf, State.onFrame_of_no_job (by decide) runs noJob]
  · change execTrowelStf e m s = _
    rw [execTrowelStf, State.onFrame_of_no_job (by decide) runs noJob]
  · change execTrowelIns e m s = _
    rw [execTrowelIns, State.onFrame_of_no_job (by decide) runs noJob]
  · change execTrowelDel e m s = _
    rw [execTrowelDel, State.onFrame_of_no_job (by decide) runs noJob]
  · change execTrowelCsum e m s = _
    rw [execTrowelCsum, State.instr_of_runsNext (by decide) runs]
    simp only [noJob]
  · change execTrowelTsw e m s = _
    rw [execTrowelTsw, State.onFrame_of_no_job (by decide) runs noJob]
  · change execTrowelFwd e m s = _
    rw [execTrowelFwd, State.instr_of_runsNext (by decide) runs]
    simp only [noJob, Option.isNone_none, Bool.true_or, if_true]

/-- Settles O31: each instruction through the rule of its form. -/
theorem trowelFrameAndMemory : Obligations.TrowelFrameAndMemory := by
  intro e m r s
  refine ⟨fun j job => ⟨fun runs => ?ldf, fun runs => ?stf, fun runs => ?ins, fun runs => ?del, fun runs => ?csum,
    fun runs => ?tsw, fun v row runs => ?ldm, fun notClass runs => ?stm, fun runs => ?fwd⟩,
    fun noJob op c listed runs => exec_frameInstruction_of_no_job noJob listed runs,
    fun old ok word reachable => ⟨fun runs => ?lds, fun runs => ?sts, fun runs => ?aad⟩⟩
  case ldf =>
    change execTrowelLdf e m s = _
    rw [execTrowelLdf, State.onFrame_of_runsNext (by decide) runs job]
    rfl
  case stf =>
    change execTrowelStf e m s = _
    rw [execTrowelStf, State.onFrame_of_runsNext (by decide) runs job]
    rfl
  case tsw =>
    change execTrowelTsw e m s = _
    rw [execTrowelTsw, State.onFrame_of_runsNext (by decide) runs job]
    rfl
  case ins => exact exec_trowelIns_of_runsNext runs job
  case del => exact exec_trowelDel_of_runsNext runs job
  case csum =>
    rw [exec_trowelCsum_of_runsNext runs job, ite_not]
    rfl
  case ldm =>
    have field : s.metaField j m.low = v :=
      row.elim State.metaField_of_mem fun ⟨beyond, udf⟩ => (State.metaField_udf beyond).trans udf.symm
    rw [exec_trowelLdm_of_runsNext runs job, field]
    rfl
  case stm => exact exec_trowelStm_of_setMeta_some runs job (Frame.setMeta_of_ne_class _ _ _ notClass)
  case fwd => exact exec_trowelFwd_of_runsNext runs job
  case lds =>
    subst word
    change execTrowelLds e m s = _
    rw [execTrowelLds, State.onMemory_of_runsNext (by decide) runs reachable]
    rfl
  case sts =>
    subst word
    change execTrowelSts e m s = _
    rw [execTrowelSts, State.onMemory_of_runsNext (by decide) runs reachable]
    rfl
  case aad =>
    subst word
    change execTrowelAad e m s = _
    rw [execTrowelAad, State.onMemory_of_runsNext (by decide) runs reachable]
    rfl

end Sys2Proof.Machine
end

section
/-! PROOFS. Proofs/TrowelEngines.lean: dispatch, the course handler, the ends of a program, patches and spare engines (R295,
R300 to R304, R309, R310). -/

namespace Sys2Proof.Machine

section
variable {e : EngineId} {m : Macro} {r : Run} {s : State}

/-- A free engine takes the first urgent job (R300). -/
theorem exec_trowelDispatch_of_urgent {off : Nat} {j : Job} {l : List Job} {p : Program}
    (free : (s.moveTo off).engineFree e = true) (noSwitch : (s.moveTo off).mustSwitch e true = false)
    (noHandler : (s.moveTo off).handlerDue (e / 4) = false) (urgent : ((s.moveTo off).pipe (e / 4)).high = j :: l)
    (program : j.program = some p) :
    exec (.trowelDispatch e off) s = .next (((((s.moveTo off).setPipe (e / 4)
      { (s.moveTo off).pipe (e / 4) with high := l }).setRun e (some (Run.start (some j) p))).bump
      (Od.framesDispatchedIngress (e / 4 / 2) + e / 4 % 2))) := by
  change execTrowelDispatch e off s = _
  simp only [execTrowelDispatch, enginePipe, pipeTile, free, noSwitch, noHandler, urgent, program, Bool.not_true, Bool.or_false,
    Bool.false_eq_true, if_false]

/-- A free engine at a frame boundary runs the handler of its course event (R304). -/
theorem exec_courseHandler_of_event {p : Program} (handler : s.handler (e / 4) = some p)
    (event : (s.pipe (e / 4)).courseEvent = true) (free : s.engineFree e = true) (noSwitch : s.mustSwitch e true = false) :
    exec (.courseHandler e) s = .next (((s.setPipe (e / 4) { s.pipe (e / 4) with courseEvent := false }).setRun e
      (some (Run.start none p))).bump (Od.courseHandlerRunsIngress (e / 4 / 2) + e / 4 % 2)) := by
  change execCourseHandler e s = _
  simp only [execCourseHandler, enginePipe, pipeTile, handler, event, free, noSwitch, Bool.not_false, Bool.and_self, if_true]

/-- EVT sends its record and counts it, or its loss. -/
theorem exec_trowelEvt_of_runsNext {j : Job} {u : State} {sent : Bool} (job : r.job = some j) (runs : s.runsNext e 0x71 m r)
    (send : s.sendRecord (s.rd (Od.trowelEventDest (e / 4 / 2))) (leBytes 24 (m.imm.toNat * 2 ^ 176 +
        (if j.egress then j.port else j.frame.src % 256) * 2 ^ 168 + e / 4 % 2 * 2 ^ 167 + (regOf r.regs m.a).toNat * 2 ^ 96 +
        (regOf r.regs m.b).toNat * 2 ^ 64 + ts64 j.frame.stamp)) = (u, sent)) :
    exec (.trowelEvt e m) s = .next ((u.bump ((if sent then Od.eventsSentIngress (e / 4 / 2)
      else Od.eventDropsIngress (e / 4 / 2)) + e / 4 % 2)).setRun e (some { r with pc := r.pc + 1 })) := by
  have direction : boolNat (pipeEgress (enginePipe e)) = e / 4 % 2 := by
    unfold boolNat pipeEgress enginePipe
    rcases Nat.mod_two_eq_zero_or_one (e / 4) with h | h <;> simp [h]
  change execTrowelEvt e m s = _
  rw [execTrowelEvt, State.instr_of_runsNext (by decide) runs]
  simp only [job, direction]
  simp only [enginePipe, pipeTile, send]
  cases sent <;> simp [State.onward, job]

/-- An engine without a run fails without losing a frame. -/
theorem State.engineFails_of_no_run {e : Nat} (idle : s.run? e = none) : s.engineFails e = s := by
  simp only [State.engineFails, idle]

/-- The interrupt of a patch being switched marks an engine that is not the last to switch (R303). -/
theorem exec_patchSwitch_of_idle {p : Patch} (switching : s.trowel.switching = some p)
    (unswitched : s.trowel.switched.contains e.val = false) (idle : s.run? e = none)
    (others : (List.range 256).all (fun n => (e.val :: s.trowel.switched).contains n || s.trowel.dead.contains n) = false) :
    exec (.patchSwitch e) s = .next { s with trowel.switched := e.val :: s.trowel.switched } := by
  change execPatchSwitch e s = _
  simp only [execPatchSwitch, switching, unswitched, idle, others, Option.isSome_none, Bool.and_false, Bool.or_self,
    Bool.false_eq_true, if_false]

/-- A pipeline's spare takes a failed engine's place while it is not in use (R309). -/
theorem exec_spareSubstitution_of_spare (spare : (s.pipe (e / 4)).spareUsed = false)
    (alive : s.trowel.dead.contains e.val = false) (idle : s.run? e = none) :
    exec (.spareSubstitution e) s = .next (((s.setPipe (e / 4) { s.pipe (e / 4) with spareUsed := true }).bump
      (Od.engineSubstitutionsIngress (e / 4 / 2) + e / 4 % 2)).raise 0x5A0D e.val) := by
  change execSpareSubstitution e s = _
  simp only [execSpareSubstitution, State.spareSubstituted, State.engineFails_of_no_run idle, enginePipe, pipeTile, spare, alive,
    Bool.or_self, Bool.false_eq_true, if_false]

/-- A second failure leaves the pipeline three engines (R310). -/
theorem exec_trowelEngineLost_of_second (spareUsed : (s.pipe (e / 4)).spareUsed = true)
    (first : (s.pipe (e / 4)).lost = false) (idle : s.run? e = none) :
    exec (.trowelEngineLost e) s = .next (({ s.setPipe (e / 4) { s.pipe (e / 4) with lost := true } with
      trowel.dead := e.val :: (s.setPipe (e / 4) { s.pipe (e / 4) with lost := true }).trowel.dead } : State).raise
        0x5A0E e.val) := by
  change execTrowelEngineLost e s = _
  simp only [execTrowelEngineLost, State.engineLost, State.engineFails_of_no_run idle, enginePipe, spareUsed, first, Bool.not_true,
    Bool.or_self, Bool.false_eq_true, if_false]

end

/-- Settles O33: one rule per command. -/
theorem trowelEngineCommands : Obligations.TrowelEngineCommands := by
  refine ⟨?dispatch, fun e p s handler event free noSwitch => exec_courseHandler_of_event handler event free noSwitch,
    fun e m r j s job => ⟨fun runs u sent send => exec_trowelEvt_of_runsNext job runs send, fun runs => ?trap,
      fun runs => ?drop, fun runs => ?goesOn⟩,
    fun e p s switching unswitched idle others => exec_patchSwitch_of_idle switching unswitched idle others,
    fun e s spare alive idle => exec_spareSubstitution_of_spare spare alive idle,
    fun e s spareUsed first idle => exec_trowelEngineLost_of_second spareUsed first idle⟩
  case dispatch =>
    rintro e off j l p s _ rfl free noSwitch noHandler urgent program
    exact exec_trowelDispatch_of_urgent free noSwitch noHandler urgent program
  case trap =>
    change execTrowelTrap e m s = _
    rw [execTrowelTrap, State.instr_of_runsNext (by decide) runs]
    simp only [job, enginePipe, pipeTile]
  case drop =>
    change execTrowelDrop e m s = _
    rw [execTrowelDrop, State.instr_of_runsNext (by decide) runs]
  case goesOn =>
    change execTrowelEnd e m s = _
    rw [execTrowelEnd, State.instr_of_runsNext (by decide) runs]

end Sys2Proof.Machine
end

section
/-! PROOFS. Proofs/NamedUpdates.lean: the updates that the statements name change only their own place; an event is logged in
order (R551, R552). -/

namespace Sys2Proof.Machine

section
variable {α : Type} {t : List (Nat × α)} {j k : Nat}

/-- Which keys a table lists beside the one that is put. -/
theorem any_key_tblPut_ne (v : α) (ne : j ≠ k) : (tblPut t k v).any (fun e => e.1 == j) = t.any (fun e => e.1 == j) := by
  have not_listed : (k == j) = false := beq_eq_false_iff_ne.mpr ne.symm
  induction t with
  | nil => simp [tblPut, not_listed]
  | cons e t ih =>
    obtain ⟨k', v'⟩ := e
    unfold tblPut
    split
    · simp [not_listed]
    · split
      · next same => subst same; simp [not_listed]
      · simp [ih]

/-- Which keys a table lists beside the one that is deleted. -/
theorem any_key_tblDel_ne (ne : j ≠ k) : (tblDel t k).any (fun e => e.1 == j) = t.any (fun e => e.1 == j) := by
  induction t with
  | nil => rfl
  | cons e t ih =>
    obtain ⟨k', v'⟩ := e
    unfold tblDel
    split
    · next same =>
      subst same
      have not_listed : (k == j) = false := beq_eq_false_iff_ne.mpr ne.symm
      simp [ih, not_listed]
    · simp [ih]

end

theorem State.armed_arm_ne (s : State) {j k : Nat} (ne : j ≠ k) : (s.arm k).armed j = s.armed j := any_key_tblPut_ne _ ne

theorem State.armed_disarm_ne (s : State) {j k : Nat} (ne : j ≠ k) : (s.disarm k).armed j = s.armed j := any_key_tblDel_ne ne

/-- Settles O9: what each update reads as, and its frame. -/
theorem namedUpdatesChangeOnlyTheirPlace : Obligations.NamedUpdatesChangeOnlyTheirPlace :=
  ⟨fun s k v => ⟨s.rd_wr_same k v, fun _ ne => s.rd_wr_ne v ne, rfl⟩,
    fun s k v => ⟨s.dom_setDom_same k v, fun _ ne => s.dom_setDom_ne v ne, rfl⟩,
    fun s k n => ⟨s.rd_addTo_same k n, fun _ ne => s.rd_addTo_ne n ne, rfl, rfl⟩,
    fun s k => ⟨s.armed_arm k, s.armed_disarm k, fun _ ne => ⟨s.armed_arm_ne ne, s.armed_disarm_ne ne⟩, rfl, rfl⟩,
    fun _ _ => ⟨rfl, rfl⟩⟩

/-! ### One event -/

/-- The record that an event of code `code` puts into the ring (R551). -/
def State.eventRecord (s : State) (code param : Nat) : EventRec :=
  { code := code, severity := eventSeverity code, timeValid := s.rdB Od.timeValid, sequence := s.rd Od.newestEvent + 1,
    time := s.now, param := param % 2 ^ 64 }

section
variable (s : State) (code param : Nat)

/-- The ring after an event: its record before the others, cut to the ring's size. -/
theorem State.record_ring :
    (s.record code param).log.ring = (s.eventRecord code param :: s.log.ring).take eventRingSize := by
  unfold State.record
  dsimp only
  split <;> rfl

/-- NewestEvent shows the Sequence of the last record. -/
theorem State.record_newestEvent : (s.record code param).rd Od.newestEvent = s.rd Od.newestEvent + 1 := by
  unfold State.record
  dsimp only
  split
  · rw [State.rd_bump_ne _ (by decide), State.rd_wr_ne _ _ (by decide), State.rd_wr_same]
  · rw [State.rd_wr_ne _ _ (by decide), State.rd_wr_same]

/-- Logging an event writes three entries of the dictionary. -/
theorem State.record_rd_ne {k : Nat} (newest : k ≠ Od.newestEvent) (oldest : k ≠ Od.oldestEvent)
    (overwritten : k ≠ Od.eventsOverwritten) : (s.record code param).rd k = s.rd k := by
  unfold State.record
  dsimp only
  split
  · rw [State.rd_bump_ne _ overwritten, State.rd_wr_ne _ _ oldest, State.rd_wr_ne _ _ newest]
    rfl
  · rw [State.rd_wr_ne _ _ oldest, State.rd_wr_ne _ _ newest]
    rfl

/-- Logging an event changes the log, the dictionary and the sessions' waiting records. -/
theorem State.record_frame :
    { s.record code param with log := s.log, dict := s.dict, agent := s.agent } = s := by
  unfold State.record
  dsimp only
  split <;> rfl

theorem State.raise_of_lt (within : s.eventsInSecond < eventRateLimit) : s.raise code param = s.record code param :=
  if_pos within

theorem State.raise_of_le (beyond : eventRateLimit ≤ s.eventsInSecond) :
    s.raise code param = s.bump Od.eventsSuppressed :=
  if_neg (Nat.not_lt.mpr beyond)

/-- An event writes four entries of the dictionary at most. -/
theorem State.rd_raise_ne {k : Nat} (newest : k ≠ Od.newestEvent) (oldest : k ≠ Od.oldestEvent)
    (overwritten : k ≠ Od.eventsOverwritten) (suppressed : k ≠ Od.eventsSuppressed) :
    (s.raise code param).rd k = s.rd k := by
  unfold State.raise
  split
  · exact s.record_rd_ne code param newest oldest overwritten
  · exact s.rd_bump_ne suppressed

end

/-- Settles O10: within the rate the event is recorded, beyond it only counted. -/
theorem eventsAreLoggedInOrder : Obligations.EventsAreLoggedInOrder := by
  intro s code param
  refine ⟨fun within => ?_, fun beyond => s.raise_of_le code param beyond⟩
  rw [s.raise_of_lt code param within]
  exact ⟨⟨s.eventRecord code param, s.record_ring code param, rfl, rfl, rfl, rfl⟩, s.record_newestEvent code param,
    fun k newest oldest overwritten => s.record_rd_ne code param newest oldest overwritten, s.record_frame code param⟩

end Sys2Proof.Machine
end

section
/-! PROOFS. Proofs/StartUp.lean: start-up and reset commands, and what a reset keeps (R592 to R594, R600, R601). -/

namespace Sys2Proof.Machine

/-- The state a reset leaves before it records its cause and drives the package's outputs: `State.powerOff` without its
outputs (`State.powerOff_reads`). -/
def State.unpowered (s : State) : State :=
  let t := s.settledBy (s.course + 2 ^ 64)
  { State.reset.keptTables t with
    dict := t.dict.filter (fun e => keptEntry e.1)
    doms := t.doms.filter (fun e => keptEntry e.1)
    store := s.store
    storeDoms := s.storeDoms
    storeSets := s.storeSets
    log := { s.log with limits := [] }
    boot := ⟨0, s.boot.slotA, s.boot.slotB, false, [], [], s.boot.alias_, s.boot.rail, ⟨0, 0, [], false, false, false, [], []⟩⟩
    service := { State.reset.service with spares := s.service.spares }
    package := ⟨false, false, false, false, true, []⟩
    outputs := s.outputs
    freeCtr := s.freeCtr
    pending := s.pending }

section
variable {β : Type} {f : State → β}

/-- What does not look at the outputs does not see any number of them put out. -/
theorem reads_foldl_emit (unseen : ∀ s o, f (s.emit o) = f s) {α : Type} (out : α → Out) (l : List α) (s : State) :
    f (l.foldl (fun s a => s.emit (out a)) s) = f s := by
  induction l generalizing s with
  | nil => rfl
  | cons a l ih => rw [List.foldl_cons, ih, unseen]

theorem reads_ite_emit (unseen : ∀ s o, f (s.emit o) = f s) (c : Prop) [Decidable c] (o : Out) (s : State) :
    f (if c then s.emit o else s) = f s := by
  split
  · exact unseen s o
  · rfl

/-- What does not look at the outputs sees of a reset the unpowered state and its cause. -/
theorem State.powerOff_reads (unseen : ∀ s o, f (s.emit o) = f s) (s : State) (cause : Nat) :
    f (s.powerOff cause) = f (s.unpowered.wr Od.lastResetCause cause) := by
  unfold State.powerOff
  rw [reads_foldl_emit unseen (fun n => .pin "DSP_PERST_N" n false 0), reads_ite_emit unseen, reads_ite_emit unseen, unseen,
    unseen, unseen]
  rfl

end

/-- A reset has begun from `s` with a cause (R594): what is gone and what stays. -/
def State.ResetFrom (s : State) (cause : Nat) (t : State) : Prop :=
  t.boot.phase = 0 ∧ t.rd Od.lastResetCause = cause ∧ t.timers = [] ∧ t.host = State.reset.host ∧ t.slices.blocks = [] ∧
    t.storage.queues = [] ∧ t.storage.cmds = [] ∧ t.rdma.locks = [] ∧ t.trowel.runs = [] ∧ t.store = s.store ∧
    t.storeDoms = s.storeDoms ∧ t.boot.slotA = s.boot.slotA ∧ t.boot.slotB = s.boot.slotB ∧ t.log.ring = s.log.ring ∧
    t.pending = s.pending

theorem State.powerOff_resetFrom (s : State) (cause : Nat) : s.ResetFrom cause (s.powerOff cause) := by
  have seen : s.ResetFrom cause (s.powerOff cause) = s.ResetFrom cause (s.unpowered.wr Od.lastResetCause cause) :=
    State.powerOff_reads (f := s.ResetFrom cause) (fun _ _ => rfl) s cause
  rw [seen]
  exact ⟨rfl, State.rd_wr_same _ _ _, rfl, rfl, rfl, rfl, rfl, rfl, rfl, rfl, rfl, rfl, rfl, rfl, rfl⟩

/-- RAIL_UNDERVOLTAGE records its rail and cause 2 where VDD_KEY and VDD_MRAM hold, and cause 0 where not (R592). -/
theorem exec_railUndervoltage_resetFrom (rail : Fin 9) (held : Bool) (s : State) :
    ∃ t, exec (.railUndervoltage rail held) s = .next t ∧ s.ResetFrom (if held then 2 else 0) t := by
  obtain ⟨phase, lastCause, rest⟩ := s.powerOff_resetFrom 2
  have keepsCause (v : Nat) : ((s.powerOff 2).wr Od.railStatus v).rd Od.lastResetCause = 2 := by
    rw [State.rd_wr_ne _ _ (by decide), lastCause]
  cases held with
  | true => exact ⟨_, rfl, phase, keepsCause _, rest⟩
  | false => exact ⟨_, rfl, phase, State.rd_wr_same _ _ _, rest⟩

/-- Settles O8: the guards of the start-up commands, and the resets through what a reset leaves. -/
theorem startUpCommands : Obligations.StartUpCommands := by
  refine ⟨fun u s inReset => congrArg Host.Outcome.next (if_pos inReset), fun u s waits cold present => ?_,
    fun u s waits cold absent => ?_,
    fun s => ⟨_, rfl, State.rd_bump_same _ _, fun k ne => State.rd_bump_ne _ ne, rfl⟩, fun c cause s resets => ?_⟩
  · exact congrArg Host.Outcome.next ((if_pos ⟨waits, cold⟩).trans (if_pos present))
  · exact congrArg Host.Outcome.next ((if_pos ⟨waits, cold⟩).trans (if_neg absent))
  · rcases resets with ⟨rfl, rfl⟩ | ⟨rfl, rfl⟩ | ⟨rail, rfl, rfl⟩ | ⟨rail, rfl, rfl⟩
    · exact ⟨_, rfl, s.powerOff_resetFrom 1⟩
    · exact ⟨_, rfl, s.powerOff_resetFrom 3⟩
    · exact exec_railUndervoltage_resetFrom rail true s
    · exact exec_railUndervoltage_resetFrom rail false s

end Sys2Proof.Machine
end

section
/-! PROOFS. Proofs/CheckOrder.lean: the checks of a write in the order of R21: those of index, subindex, writer class,
signature and type come first, and the codes of all the others after them. -/

namespace Sys2Proof.Machine

/-! ### The first code of R21's order -/

/-- The first member of a list that passes a test stands no later than any other that passes it. -/
theorem idxOf_find?_le {l : List Nat} {p : Nat → Bool} {x c : Nat} (found : l.find? p = some x) (passes : p c = true) :
    l.idxOf x ≤ l.idxOf c := by
  induction l with
  | nil => exact Nat.le_refl _
  | cons a l ih =>
    cases first : p a with
    | true =>
      rw [List.find?_cons_of_pos first, Option.some.injEq] at found
      simp [found]
    | false =>
      rw [List.find?_cons_of_neg (by simp [first])] at found
      have a_ne_x : a ≠ x := fun same => by simpa [← same, first] using List.find?_some found
      have a_ne_c : a ≠ c := fun same => by simp [same, passes] at first
      rw [List.idxOf_cons_ne _ a_ne_x, List.idxOf_cons_ne _ a_ne_c]
      exact Nat.succ_le_succ (ih found)

/-- Of listed codes the one picked is among them and stands first in the order. -/
theorem pickCode_first {codes : List Nat} (listed : ∀ c ∈ codes, c ∈ codeOrder) (nonempty : codes ≠ []) :
    pickCode codes ∈ codes ∧ ∀ c ∈ codes, codeOrder.idxOf (pickCode codes) ≤ codeOrder.idxOf c := by
  unfold pickCode
  cases found : codeOrder.find? (fun c => codes.contains c) with
  | none =>
    obtain ⟨c, mem⟩ := List.exists_mem_of_ne_nil _ nonempty
    exact absurd (List.find?_eq_none.mp found c (listed c mem)) (by simpa using mem)
  | some x =>
    exact ⟨by simpa using List.find?_some found, fun c mem => idxOf_find?_le found (by simpa using mem)⟩

/-! ### Codes that stand after the writer class -/

theorem codeIf_false (c : Nat) : codeIf false c = [] := rfl

/-- The code does not stand before 0x03 in the order of R21. -/
def lateCode (c : Nat) : Bool := c != 8 && c != 1 && c != 2

/-- No code of the list stands before 0x03 in the order of R21. -/
def Late (codes : List Nat) : Prop := ∀ c ∈ codes, lateCode c = true

theorem pickCode_eq_three {codes : List Nat} (late : Late codes) (mem : 3 ∈ codes) : pickCode codes = 3 := by
  have eight : 8 ∉ codes := fun h => absurd (late 8 h) (by decide)
  have one : 1 ∉ codes := fun h => absurd (late 1 h) (by decide)
  have two : 2 ∉ codes := fun h => absurd (late 2 h) (by decide)
  simp [pickCode, codeOrder, eight, one, two, mem]

section
variable {a b : List Nat} {n : Nat}

@[simp] theorem late_nil : Late [] := fun _ mem => absurd mem List.not_mem_nil

@[simp] theorem late_append : Late (a ++ b) ↔ Late a ∧ Late b := List.forall_mem_append

@[simp] theorem late_cons : Late (n :: a) ↔ lateCode n = true ∧ Late a := List.forall_mem_cons

@[simp] theorem late_codeIf {b : Bool} : Late (codeIf b n) ↔ (b = true → lateCode n = true) := by
  cases b <;> simp [codeIf]

@[simp] theorem late_flatten {l : List (List Nat)} : Late l.flatten ↔ ∀ x ∈ l, Late x := by
  simp only [Late, List.mem_flatten]
  exact ⟨fun h x hx c hc => h c ⟨x, hx, hc⟩, fun h c ⟨x, hx, hc⟩ => h x hx c hc⟩

@[simp] theorem late_ite {p : Prop} [Decidable p] : Late (if p then a else b) ↔ (p → Late a) ∧ (¬ p → Late b) := by
  split <;> simp_all

theorem late_filter {q : Nat → Bool} (late : Late a) : Late (a.filter q) :=
  fun c mem => late c (List.mem_of_mem_filter mem)

@[simp] theorem lateCode_ite {p : Prop} [Decidable p] {m n : Nat} :
    lateCode (if p then m else n) = true ↔ (p → lateCode m = true) ∧ (¬ p → lateCode n = true) := by
  split <;> simp_all

end

@[simp] theorem lateCode_zero : lateCode 0 = true := rfl
@[simp] theorem lateCode_three : lateCode 3 = true := rfl
@[simp] theorem lateCode_four : lateCode 4 = true := rfl
@[simp] theorem lateCode_five : lateCode 5 = true := rfl
@[simp] theorem lateCode_six : lateCode 6 = true := rfl
@[simp] theorem lateCode_seven : lateCode 7 = true := rfl
@[simp] theorem lateCode_nine : lateCode 9 = true := rfl
@[simp] theorem lateCode_ten : lateCode 10 = true := rfl
@[simp] theorem lateCode_eleven : lateCode 11 = true := rfl

section
variable (s : State)

@[simp] theorem State.dspStateCode_late (second : Bool) (v : Nat) : lateCode (s.dspStateCode second v) = true := by
  simp [State.dspStateCode]

@[simp] theorem State.fuseCodes_late (key v : Nat) : Late (s.fuseCodes key v) := by
  simp [State.fuseCodes]

theorem State.numCodes_late (key v : Nat) : Late (s.numCodes key v) := by
  simp [State.numCodes]

theorem State.classCodes_late (w : Writer) (key v : Nat) : Late (s.classCodes w key v) := by
  simp [State.classCodes]

theorem State.meetsCodes_late (key v : Nat) : Late (s.meetsCodes key v) := by
  simp [State.meetsCodes]

@[simp] theorem State.keyLoadCode_late (bs : List Byte) : lateCode (s.keyLoadCode bs) = true := by
  unfold State.keyLoadCode
  cases s.keyOfLoad bs <;> simp

@[simp] theorem State.keySlotOwnerCode_late (bs : List Byte) : lateCode (s.keySlotOwnerCode bs) = true := by
  simp [State.keySlotOwnerCode]

@[simp] theorem State.sliceSetCode_late (n : Nat) (bs : List Byte) : lateCode (s.sliceSetCode n bs) = true := by
  simp [State.sliceSetCode]

@[simp] theorem State.sliceStateCode_late (bs : List Byte) : lateCode (s.sliceStateCode bs) = true := by
  simp [State.sliceStateCode]

@[simp] theorem State.namespaceCode_late (n : Nat) (bs : List Byte) : lateCode (s.namespaceCode n bs) = true := by
  simp [State.namespaceCode]

theorem State.qpCode_late (bs : List Byte) : lateCode (s.qpCode bs) = true := by
  unfold State.qpCode
  cases found : s.rqp? (leAt bs 4 4) <;> simp [found]

theorem State.cqCode_late (bs : List Byte) : lateCode (s.cqCode bs) = true := by
  simp [State.cqCode]

theorem State.regionCode_late (bs : List Byte) : lateCode (s.regionCode bs) = true := by
  unfold State.regionCode
  cases found : s.region? (leAt bs 4 4 / 1024) <;> simp [found]

theorem State.ahCode_late (bs : List Byte) : lateCode (s.ahCode bs) = true := by
  unfold State.ahCode
  cases s.ah? (leAt bs 4 2) <;> simp

/-- A code per record, each of a check whose codes are late. -/
theorem recordCodes_late {code : State → List Byte → Nat} (late : ∀ s r, lateCode (code s r) = true)
    (apply_ : State → List Byte → State) (records : List (List Byte)) : Late (recordCodes code apply_ s records) := by
  induction records generalizing s with
  | nil => exact late_nil
  | cons r rest ih => exact late_cons.mpr ⟨late s r, ih _⟩

@[simp] theorem State.rdmaCodes_late (kind : Nat) (bs : List Byte) : Late (s.rdmaCodes kind bs) := by
  unfold State.rdmaCodes
  split
  · simp [recordCodes_late s State.qpCode_late]
  · simp [recordCodes_late s State.cqCode_late]
  · simp [recordCodes_late s State.regionCode_late]
  · simp [recordCodes_late s State.ahCode_late]

theorem policerCodes_late (ks : Bool) (r : List Byte) : Late (policerCodes ks r) := by
  simp [policerCodes]

theorem State.saCodes_late (ks : Bool) (p : Nat) (r : List Byte) : Late (s.saCodes ks p r) := by
  simp [State.saCodes]

theorem State.rawCodes_late (w : Writer) (key : Nat) (bs : List Byte) : Late (s.rawCodes w key bs) := by
  simp [State.rawCodes, late_filter, policerCodes_late, State.saCodes_late]

theorem State.afterCodes_late (key : Nat) : Late (s.afterCodes key) := by
  simp [State.afterCodes]

theorem State.targetCodes_late (after : State) : Late (s.targetCodes after) := by
  unfold State.targetCodes
  cases s.modeChange.target <;> simp

theorem State.activateCodes_late (n : Nat) : Late (s.activateCodes n) := by
  simp [State.activateCodes]

/-- What a write fails beside class, signature, type and length comes after them (R21). -/
theorem State.itemCodes_late (h : State) (w : Writer) (r : OdRow) (i : Item) : Late (s.itemCodes h w r i) := by
  cases i with
  | num => simp [State.itemCodes, State.numCodes_late, State.classCodes_late, State.meetsCodes_late]
  | raw => simp [State.itemCodes, State.rawCodes_late]

theorem State.frontCodes_late (w : Writer) (r : OdRow) (key : Nat) (v : WireValue) : Late (s.frontCodes w r key v) := by
  unfold State.frontCodes
  cases itemOf r key v <;> simp

/-- The code of a download or an image commit, the only ones of applying an Imm write. -/
theorem State.applyNow_late (ctx : Nat) (w : Writer) (i : Item) : lateCode (s.applyNow ctx w i).2 = true := by
  unfold State.applyNow State.imageCommitted State.downloadCode
  cases i <;> dsimp only <;> split_ifs <;> simp

end

/-! ### Refusals -/

/-- A refusal other than for the budget only counts (R20). -/
theorem State.refuseAt_of_ne (s : State) {code : Nat} (x : Option Load) (notBudget : code ≠ 0x0B) :
    s.refuseAt code x = s.bump Od.refusedWrites :=
  if_neg notBudget

theorem State.refuse_of_ne (s after : State) {code : Nat} (notBudget : code ≠ 0x0B) :
    s.refuse code after = s.bump Od.refusedWrites :=
  s.refuseAt_of_ne _ notBudget

section
variable (s : State) (ctx : Nat) (w : Writer) (st : Bool) (key : Nat) (v : WireValue)

theorem State.agentWrite_of_unknown_index (unknown : odIndexKnown (key / 256) = false) :
    s.agentWrite ctx w st key v = ⟨s.bump Od.refusedWrites, 1, 0⟩ := by
  rw [State.agentWrite, if_pos unknown, State.refuse_of_ne s s (by decide)]

theorem State.agentWrite_of_no_row (known : odIndexKnown (key / 256) = true) (noRow : odRow? key = none) :
    s.agentWrite ctx w st key v = ⟨s.bump Od.refusedWrites, 2, 0⟩ := by
  simp only [State.agentWrite, known, noRow, Bool.true_eq_false, if_false, State.refuse_of_ne s s (by decide : 2 ≠ 0x0B)]

variable {s key v} {r : OdRow}

theorem State.agentWrite_of_no_item (known : odIndexKnown (key / 256) = true) (row : odRow? key = some r)
    (noItem : itemOf r key v = none) :
    s.agentWrite ctx w st key v =
      ⟨s.refuse (pickCode (s.frontCodes w r key v)) s, pickCode (s.frontCodes w r key v), 0⟩ := by
  simp only [State.agentWrite, known, row, noItem, Bool.true_eq_false, if_false]

theorem State.agentWrite_of_item {i : Item} (known : odIndexKnown (key / 256) = true) (row : odRow? key = some r)
    (item : itemOf r key v = some i) :
    s.agentWrite ctx w st key v = s.writeItem ctx w r st (s.frontCodes w r key v) i := by
  simp only [State.agentWrite, known, row, item, Bool.true_eq_false, if_false]

end

/-! ### A write of effect Crs or Set -/

section
variable (s : State) (ctx : Nat) (w : Writer) (st : Bool)

/-- The item that a Crs write puts in force: a GenCommit brings its pin's generation set (R91). -/
def State.crsItem (i : Item) : Item :=
  if keyIs i.key 0x2600 32 0x0E then .raw i.key (s.genSet ctx (i.key / 256 - 0x2600)) else i

/-- The state in which a Crs write of an item is judged: with it in force beside everything accepted for its boundary. -/
def State.crsAfter (i : Item) : State := (s.settledBy s.applyCourse).applyItem (w == .keystone) (s.crsItem ctx i)

/-- The codes of a Crs write that its boundary and the sets around it give. -/
def State.crsCodes (i : Item) : List Nat :=
  (s.crsAfter ctx w i).afterCodes i.key ++ (s.settledBy s.applyCourse).targetCodes (s.crsAfter ctx w i)
    ++ (match s.crsItem ctx i with
        | .raw k bs => codeIf (keyIs k 0x2600 32 0x0E && decide (beAt bs 12 8 < (beAt bs 20 4 + 5) * nsTicks)) 0x0A
        | .num k v => if k = Od.activateSlot then s.activateCodes v
          else codeIf (keyIs k 0xB300 16 1 && v == 1 && !st) 0x0A)
    ++ codeIf (s.inCommit i.key) 6 ++ codeIf (s.crsAfter ctx w i).overloaded.isSome 0x0B

theorem State.crsCodes_late (i : Item) : Late (s.crsCodes ctx w st i) := by
  unfold State.crsCodes
  cases s.crsItem ctx i <;> simp [State.afterCodes_late, State.targetCodes_late, State.activateCodes_late]

variable {s ctx w st} {r : OdRow} {i : Item} {front : List Nat}

/-- A Crs write that is no mode entry's, or that fails a check of its own, is judged by all its codes together. -/
theorem State.writeItem_crs (effect : r.effect = .crs)
    (ordinary : pickCode (front ++ s.itemCodes (s.settledBy s.applyCourse) w r i) ≠ 0 ∨
      i.key ≠ Od.operatingMode ∧ i.key ≠ Od.safeModeCommand) :
    s.writeItem ctx w r st front i =
      (let c := pickCode (front ++ s.itemCodes (s.settledBy s.applyCourse) w r i ++ s.crsCodes ctx w st i)
      if c ≠ 0 then ⟨s.refuse c (s.crsAfter ctx w i), c, 0⟩
      else
        let accepted := (if keyIs i.key 0x2600 32 0x0E then s.dropGen ctx (i.key / 256 - 0x2600) else s).acceptCrs ctx
          (s.crsItem ctx i)
        ⟨accepted.1, 0, accepted.2⟩) := by
  unfold State.writeItem
  simp only [effect, beq_self_eq_true, if_true]
  cases i with
  | raw => rfl
  | num k v =>
    rcases ordinary with failed | ⟨notMode, notSafe⟩
    · simp only [if_pos failed]
      rfl
    · simp only [Item.key] at notMode notSafe
      simp only [if_neg notMode, if_neg notSafe, ite_self]
      rfl

/-- The codes of a write of a set entry: at its staging, those of its commit do not count (R533). -/
def State.stageCodes (s : State) (ctx : Nat) (w : Writer) (r : OdRow) (front : List Nat) (i : Item) : List Nat :=
  (front ++ s.itemCodes s w r i).filter (fun c => c != 0x0A && c != 0x0B && c != 6)
    ++ codeIf (s.pinOwned w i.key) 0x0A ++ codeIf (s.activating != 0 && activationHolds i.key) 6
    ++ codeIf (s.inCommit i.key) 6
    ++ codeIf (decide (stagingLimit < ((s.stagedBy ctx).map Item.size).sum + i.size)) 6
    ++ codeIf (match i with
        | .raw _ bs => keyIs i.key 0x6000 256 4 && (gateListOf bs).isSome && (s.applyItem (w == .keystone) i).overloaded.isSome
        | .num .. => false) 0x0B

theorem State.writeItem_set (effect : r.effect = .set) (notCommit : i.key ≠ Od.courseCommit) :
    s.writeItem ctx w r st front i =
      (let c := pickCode (s.stageCodes ctx w r front i)
      if c ≠ 0 then ⟨s.refuse c (s.applyItem (w == .keystone) i), c, 0⟩
      else ⟨s.setStaged ctx (s.stagedBy ctx ++ [i]), 0, 0⟩) := by
  unfold State.writeItem
  simp only [effect, if_neg notCommit]
  rfl

/-- A known item whose front codes hold 0x03 is refused with it, whatever the entry's effect. -/
theorem State.writeItem_of_three (late : Late front) (three : 3 ∈ front) :
    s.writeItem ctx w r st front i = ⟨s.bump Od.refusedWrites, 3, 0⟩ := by
  have pick {more : List Nat} (h : Late more) : pickCode (front ++ more) = 3 :=
    pickCode_eq_three (late_append.mpr ⟨late, h⟩) (List.mem_append_left _ three)
  have refuses (after : State) : s.refuse 3 after = s.bump Od.refusedWrites := s.refuse_of_ne after (by decide)
  cases effect : r.effect
  case none => simp [State.writeItem, effect, refuses]
  case imm =>
    have both : pickCode ([3, (s.applyNow ctx w i).2].filter (· != 0)) = 3 :=
      pickCode_eq_three (late_filter (by simp [State.applyNow_late])) (by simp)
    simp only [State.writeItem, effect, List.append_assoc, pick, late_append, State.itemCodes_late, late_codeIf, lateCode_six,
      implies_true, and_self, both, refuses, OfNat.ofNat_ne_zero, if_false, if_true]
  case start => simp [State.writeItem, effect, List.append_assoc, pick, State.itemCodes_late, refuses]
  case crs =>
    have failed : pickCode (front ++ s.itemCodes (s.settledBy s.applyCourse) w r i) ≠ 0 := by
      rw [pick (s.itemCodes_late _ w r i)]
      decide
    rw [State.writeItem_crs effect (.inl failed)]
    simp [List.append_assoc, pick, State.itemCodes_late, State.crsCodes_late, refuses]
  case set =>
    by_cases commit : i.key = Od.courseCommit
    · simp [State.writeItem, effect, commit, pick, State.itemCodes_late, refuses]
    · have staged : pickCode (s.stageCodes ctx w r front i) = 3 := by
        refine pickCode_eq_three ?_ ?_
        · simp [State.stageCodes, late_filter, late, State.itemCodes_late]
        · simp [State.stageCodes, three]
      simp [State.writeItem_set effect commit, staged, refuses]

/-! ### The checks in their order -/

variable {key : Nat} {v : WireValue}

theorem State.three_mem_frontCodes
    (refused : mayWrite r.access w = false ∨ w ≠ .keystone ∧ s.keystoneOnly key = true) :
    3 ∈ s.frontCodes w r key v := by
  have holds : (!mayWrite r.access w || (w != .keystone && s.keystoneOnly key)) = true := by
    rcases refused with h | ⟨h1, h2⟩
    · simp [h]
    · simp [h1, h2]
  simp [State.frontCodes, codeIf, holds]

/-- A writer that may not write is refused whatever else fails. -/
theorem State.agentWrite_of_class (known : odIndexKnown (key / 256) = true) (row : odRow? key = some r)
    (refused : mayWrite r.access w = false ∨ w ≠ .keystone ∧ s.keystoneOnly key = true) :
    s.agentWrite ctx w st key v = ⟨s.bump Od.refusedWrites, 3, 0⟩ := by
  have three : 3 ∈ s.frontCodes w r key v := State.three_mem_frontCodes refused
  have late := s.frontCodes_late w r key v
  cases item : itemOf r key v with
  | none =>
    rw [State.agentWrite_of_no_item ctx w st known row item, pickCode_eq_three late three, s.refuse_of_ne s (by decide)]
  | some i => rw [State.agentWrite_of_item ctx w st known row item, State.writeItem_of_three late three]

/-- The front codes of a value of another type or length from a writer that may write. -/
theorem State.frontCodes_of_no_item (may : mayWrite r.access w = true) (admitted : w = .keystone ∨ s.keystoneOnly key = false)
    (noItem : itemOf r key v = none) :
    ∃ l, s.frontCodes w r key v = codeIf (key == Od.microcodePatch && !s.patchSigned v.bytes) 9 ++ 5 :: codeIf l 7 := by
  have class_ok : (!mayWrite r.access w || (w != .keystone && s.keystoneOnly key)) = false := by
    rw [may]
    rcases admitted with h | h <;> simp [h]
  simp only [State.frontCodes, class_ok, noItem, codeIf_false, List.nil_append, List.append_assoc, List.singleton_append]
  exact ⟨_, rfl⟩

end

/-- Settles O59: the checks of index, subindex and class, then the signature before type and length, and the first code of
any list. -/
theorem checksComeInTheirOrder : Obligations.ChecksComeInTheirOrder := by
  refine ⟨fun s ctx w st key v => ⟨s.agentWrite_of_unknown_index ctx w st key v, s.agentWrite_of_no_row ctx w st key v,
    fun r known row => ⟨State.agentWrite_of_class known row, fun may admitted noItem => ?_⟩⟩,
    fun codes listed nonempty => pickCode_first listed nonempty⟩
  obtain ⟨l, front⟩ := State.frontCodes_of_no_item may admitted noItem
  rw [State.agentWrite_of_no_item ctx w st known row noItem, front]
  constructor
  · intro signed
    have passes : (key == Od.microcodePatch && !s.patchSigned v.bytes) = false := by
      rcases signed with h | h <;> simp [h]
    have five : pickCode (codeIf false 9 ++ 5 :: codeIf l 7) = 5 := by cases l <;> rfl
    rw [passes, five, s.refuse_of_ne s (by decide)]
  · intro patch unsigned
    have fails : (key == Od.microcodePatch && !s.patchSigned v.bytes) = true := by simp [patch, unsigned]
    have nine : pickCode (codeIf true 9 ++ 5 :: codeIf l 7) = 9 := by cases l <;> rfl
    rw [fails, nine, s.refuse_of_ne s (by decide)]

/-! ### Acceptance (R119, R532, R533) -/

section
variable {s : State} {ctx : Nat} {w : Writer} {st : Bool} {r : OdRow} {i : Item} {front : List Nat}

/-- A deregister's acceptance only marks its region. -/
theorem State.deregister_agent (s : State) (bs : List Byte) : (s.deregister bs).agent = s.agent := by
  unfold State.deregister
  split
  · split <;> rfl
  · rfl

theorem State.regionsAccepted_agent (s : State) (bs : List Byte) : (s.regionsAccepted bs).agent = s.agent := by
  unfold State.regionsAccepted
  generalize recordsOf 48 bs = records
  induction records generalizing s with
  | nil => rfl
  | cons r rest ih => rw [List.foldl_cons, ih, State.deregister_agent]

theorem State.persist_agent (s : State) (i : Item) : (s.persist i).agent = s.agent := by
  unfold State.persist
  split
  · rfl
  · split
    · rfl
    · split
      · rfl
      · split <;> rfl

theorem State.persistGen_agent (s : State) (n : Nat) (bs : List Byte) : (s.persistGen n bs).agent = s.agent := by
  simp only [State.persistGen, State.persist_agent]

/-- An accepted Crs write waits behind those before it with the course it applies in. -/
theorem State.acceptCrs_crs (s : State) (ctx : Nat) (i : Item) :
    (s.acceptCrs ctx i).1.agent.crs = s.agent.crs ++ [⟨ctx, i, s.applyCourse⟩] := by
  unfold State.acceptCrs
  cases i with
  | num => simp only [State.persist_agent]
  | raw =>
    dsimp only
    split_ifs <;> simp only [State.regionsAccepted_agent, State.persistGen_agent, State.persist_agent]

/-- The course a write accepted now applies in (R119). -/
theorem State.applyCourse_cases (s : State) :
    (s.clock.start + s.clock.off + 200 * nsTicks < s.clock.finish → s.applyCourse = s.course + 1) ∧
      (s.clock.finish ≤ s.clock.start + s.clock.off + 200 * nsTicks → s.applyCourse = s.course + 2) :=
  ⟨fun time => if_pos time, fun late => if_neg (Nat.not_lt.mpr late)⟩

theorem State.writeItem_crs_accepted (effect : r.effect = .crs) (notMode : i.key ≠ Od.operatingMode)
    (notSafe : i.key ≠ Od.safeModeCommand) (notGen : keyIs i.key 0x2600 32 0x0E = false)
    (accepted : (s.writeItem ctx w r st front i).status = 0) :
    (s.writeItem ctx w r st front i).course = s.applyCourse ∧
      (s.writeItem ctx w r st front i).state.agent.crs = s.agent.crs ++ [⟨ctx, i, s.applyCourse⟩] := by
  have item : s.crsItem ctx i = i := by simp only [State.crsItem, notGen, Bool.false_eq_true, if_false]
  rw [State.writeItem_crs effect (.inr ⟨notMode, notSafe⟩)] at accepted ⊢
  simp only [item, notGen, Bool.false_eq_true, if_false] at accepted ⊢
  split at accepted
  · next fails => exact absurd accepted fails
  · next passes =>
    rw [if_neg passes]
    exact ⟨rfl, s.acceptCrs_crs ctx i⟩

theorem State.writeItem_set_accepted (effect : r.effect = .set) (notCommit : i.key ≠ Od.courseCommit)
    (accepted : (s.writeItem ctx w r st front i).status = 0) :
    (s.writeItem ctx w r st front i).state = s.setStaged ctx (s.stagedBy ctx ++ [i]) := by
  rw [State.writeItem_set effect notCommit] at accepted ⊢
  dsimp only at accepted ⊢
  split at accepted
  · next fails => exact absurd accepted fails
  · next passes => rw [if_neg passes]

/-- A write's outcome refuses by counting, the budget apart. -/
def State.CountsRefusal (s : State) (x : Written) : Prop :=
  x.status ≠ 0 → x.status ≠ 0x0B → x.state = s.bump Od.refusedWrites

theorem State.countsRefusal_accepted (s t : State) (n : Nat) : s.CountsRefusal ⟨t, 0, n⟩ := fun refused => absurd rfl refused

theorem State.countsRefusal_refuseAt (s : State) (c n : Nat) (x : Option Load) : s.CountsRefusal ⟨s.refuseAt c x, c, n⟩ :=
  fun _ notBudget => s.refuseAt_of_ne x notBudget

theorem State.countsRefusal_ite {p : Prop} [Decidable p] {x y : Written} (hx : s.CountsRefusal x) (hy : s.CountsRefusal y) :
    s.CountsRefusal (if p then x else y) := by
  split <;> assumption

/-- A write that is not Imm is accepted, or refused by a count. -/
theorem State.writeItem_countsRefusal (notImm : r.effect ≠ .imm) :
    s.CountsRefusal (s.writeItem ctx w r st front i) := by
  unfold State.writeItem
  cases effect : r.effect
  case none => exact s.countsRefusal_refuseAt _ _ _
  case imm => exact absurd effect notImm
  case start => exact State.countsRefusal_ite (s.countsRefusal_refuseAt _ _ _) (s.countsRefusal_accepted _ _)
  case crs =>
    dsimp only
    split
    · exact State.countsRefusal_ite (s.countsRefusal_refuseAt _ _ _) (s.countsRefusal_accepted _ _)
    · exact State.countsRefusal_ite (s.countsRefusal_refuseAt _ _ _) (s.countsRefusal_accepted _ _)
  case set =>
    refine State.countsRefusal_ite (State.countsRefusal_ite (s.countsRefusal_refuseAt _ _ _)
      (State.countsRefusal_ite (s.countsRefusal_refuseAt _ _ _) (s.countsRefusal_accepted _ _))) ?_
    exact State.countsRefusal_ite (s.countsRefusal_refuseAt _ _ _) (s.countsRefusal_accepted _ _)

theorem State.agentWrite_countsRefusal {key : Nat} {v : WireValue} (row : odRow? key = some r) (item : itemOf r key v = some i)
    (notImm : r.effect ≠ .imm) : s.CountsRefusal (s.agentWrite ctx w st key v) := by
  cases known : odIndexKnown (key / 256) with
  | false =>
    rw [s.agentWrite_of_unknown_index ctx w st key v known]
    exact fun _ _ => rfl
  | true =>
    rw [State.agentWrite_of_item ctx w st known row item]
    exact State.writeItem_countsRefusal notImm

/-- An item writes the key it was read for. -/
theorem key_of_itemOf {key : Nat} {v : WireValue} (item : itemOf r key v = some i) : i.key = key := by
  unfold itemOf at item
  rw [ite_eq_iff] at item
  simp only [reduceCtorEq, and_false, false_or] at item
  obtain ⟨-, item⟩ := item
  split at item
  case h_3 => cases item
  all_goals
    split at item
    · cases item
      rfl
    · cases item

end

/-- Settles O60: the item of an accepted write, and the count of a refused one. -/
theorem acceptedWritesWaitForTheirBoundary : Obligations.AcceptedWritesWaitForTheirBoundary := by
  refine ⟨State.applyCourse_cases, fun s ctx w st key v r i row item => ⟨?_, ?_, ?_⟩⟩
  · intro effect accepted known notMode notSafe notGen
    rw [State.agentWrite_of_item ctx w st known row item] at accepted ⊢
    obtain rfl := key_of_itemOf item
    exact State.writeItem_crs_accepted effect notMode notSafe notGen accepted
  · intro effect accepted known notCommit
    rw [State.agentWrite_of_item ctx w st known row item] at accepted ⊢
    obtain rfl := key_of_itemOf item
    exact State.writeItem_set_accepted effect notCommit accepted
  · intro notImm
    exact State.agentWrite_countsRefusal row item notImm

end Sys2Proof.Machine
end

section
/-! PROOFS. Proofs/Buffers.lean: a core's commands on the buffers of its pools (R371 to R378). -/

namespace Sys2Proof.Machine

/-- What of a command is refused with 6 whatever it names (R378): an unknown operation, ADDREF of none, TRANSFER to no owner
of the pool. -/
def illFormed (c : HodCmd) (op : Nat) : Prop :=
  op < 1 ∨ 6 < op ∨ (op = 4 ∧ c.count = 0) ∨
    (op = 5 ∧ (!ownerValid c.newOwner.toNat || (c.pool.toNat ≠ 0x41 && c.newOwner.toNat / 64 ≠ c.pool.toNat)))

section
variable {s : State} {n : Nat} {c : HodCmd}

/-- The pools a core may command (R378). -/
theorem corePool_of_mem (mine : c.pool.toNat = 0x41 ∨ c.pool.toNat = 0x20 + n / 6) : corePool n c.pool.toNat = true := by
  rcases mine with h | h <;> simp [corePool, h]

/-- ALLOC with no quota in the way and more free units than are reserved hands one out (R377). -/
theorem State.hodCommand_alloc {u : State} {v : Nat} (pool : corePool n c.pool.toNat = true)
    (usable : coreUsable (s.rd Od.modeInForce) n = true) (quota : s.overQuota c.pool.toNat (coreOwner n) = false)
    (free : (if c.pool.toNat = 0x41 then 0 else 64) < s.poolFree c.pool.toNat)
    (taken : s.takeUnit c.pool.toNat (coreOwner n) = (u, v)) :
    s.hodCommand n 1 c = u.emit (.core n "hod" (leBytes 16 (hodResponse 0
      (tblGet 0 u.hod.gens (c.pool.toNat * 2 ^ 32 + v)) { HodUnit.none_ with owner := coreOwner n }
      (s.poolBase c.pool.toNat + v * poolUnit c.pool.toNat)))) := by
  simp [State.hodCommand, pool, usable, quota, Nat.not_le.mpr free, taken]

/-- The address of a unit of a pool names that unit. -/
theorem State.hodCommand_unit {op u : Nat} {x : HodUnit} (pool : corePool n c.pool.toNat = true)
    (usable : coreUsable (s.rd Od.modeInForce) n = true)
    (address : c.address.toNat = s.poolBase c.pool.toNat + u * poolUnit c.pool.toNat)
    (inPool : u < s.poolCapacity c.pool.toNat)
    (found : s.hod.units.find? (fun e => e.1 == c.pool.toNat * 2 ^ 32 + u) = some (c.pool.toNat * 2 ^ 32 + u, x))
    (wellFormed : ¬ illFormed c op)
    (notAlloc : op ≠ 1) :
    s.hodCommand n op c =
      if tblGet 0 s.hod.gens (c.pool.toNat * 2 ^ 32 + u) ≠ c.gen.toNat then
        s.hodRefuse n c.pool.toNat 4 0 HodUnit.none_ c.address.toNat
      else
        match hodAct s op c.pool.toNat (coreOwner n) c x with
        | (0, y) =>
          let s1 := if op = 6 then s else s.putUnit (c.pool.toNat * 2 ^ 32 + u) y
          s1.emit (.core n "hod" (leBytes 16 (hodResponse 0 (tblGet 0 s1.hod.gens (c.pool.toNat * 2 ^ 32 + u)) y
            c.address.toNat)))
        | (status, _) => s.hodRefuse n c.pool.toNat status (tblGet 0 s.hod.gens (c.pool.toNat * 2 ^ 32 + u)) x
            c.address.toNat := by
  have unit_pos : 0 < poolUnit c.pool.toNat := by unfold poolUnit; split <;> decide
  have number : (c.address.toNat - s.poolBase c.pool.toNat) / poolUnit c.pool.toNat = u := by
    rw [address, Nat.add_sub_cancel_left, Nat.mul_div_cancel _ unit_pos]
  have aligned : (c.address.toNat - s.poolBase c.pool.toNat) % poolUnit c.pool.toNat = 0 := by
    rw [address, Nat.add_sub_cancel_left, Nat.mul_mod_left]
  have inside : ¬ (c.address.toNat < s.poolBase c.pool.toNat ∨
      s.poolBase c.pool.toNat + s.poolCapacity c.pool.toNat * poolUnit c.pool.toNat ≤ c.address.toNat) := by
    have below := Nat.mul_lt_mul_of_pos_right inPool unit_pos
    omega
  have admitted : (!corePool n c.pool.toNat || !coreUsable (s.rd Od.modeInForce) n) = false := by simp [pool, usable]
  unfold illFormed at wellFormed
  unfold State.hodCommand
  simp only [number, admitted, Bool.false_eq_true, if_false, if_neg wellFormed, if_neg notAlloc, if_neg inside, aligned, ne_eq,
    not_true_eq_false, found] <;> rfl

/-- A command on a unit its address names, at another generation than the unit's, is refused with 4. -/
theorem State.hodCommand_stale {op u : Nat} {x : HodUnit} (pool : corePool n c.pool.toNat = true)
    (usable : coreUsable (s.rd Od.modeInForce) n = true)
    (address : c.address.toNat = s.poolBase c.pool.toNat + u * poolUnit c.pool.toNat)
    (inPool : u < s.poolCapacity c.pool.toNat)
    (found : s.hod.units.find? (fun e => e.1 == c.pool.toNat * 2 ^ 32 + u) = some (c.pool.toNat * 2 ^ 32 + u, x))
    (wellFormed : ¬ illFormed c op)
    (notAlloc : op ≠ 1) (stale : tblGet 0 s.hod.gens (c.pool.toNat * 2 ^ 32 + u) ≠ c.gen.toNat) :
    s.hodCommand n op c = s.hodRefuse n c.pool.toNat 4 0 HodUnit.none_ c.address.toNat :=
  (State.hodCommand_unit pool usable address inPool found wellFormed notAlloc).trans (if_pos stale)

/-- A command whose act on the unit succeeds stores the unit and answers it. -/
theorem State.hodCommand_done {op u : Nat} {x y : HodUnit} (pool : corePool n c.pool.toNat = true)
    (usable : coreUsable (s.rd Od.modeInForce) n = true)
    (address : c.address.toNat = s.poolBase c.pool.toNat + u * poolUnit c.pool.toNat)
    (inPool : u < s.poolCapacity c.pool.toNat)
    (found : s.hod.units.find? (fun e => e.1 == c.pool.toNat * 2 ^ 32 + u) = some (c.pool.toNat * 2 ^ 32 + u, x))
    (wellFormed : ¬ illFormed c op)
    (notAlloc : op ≠ 1) (current : tblGet 0 s.hod.gens (c.pool.toNat * 2 ^ 32 + u) = c.gen.toNat)
    (act : hodAct s op c.pool.toNat (coreOwner n) c x = (0, y)) :
    s.hodCommand n op c =
      (if op = 6 then s else s.putUnit (c.pool.toNat * 2 ^ 32 + u) y).emit (.core n "hod" (leBytes 16 (hodResponse 0
        (tblGet 0 (if op = 6 then s else s.putUnit (c.pool.toNat * 2 ^ 32 + u) y).hod.gens (c.pool.toNat * 2 ^ 32 + u)) y
        c.address.toNat))) := by
  rw [State.hodCommand_unit pool usable address inPool found wellFormed notAlloc, if_neg (not_not.mpr current), act]
  rfl

end

/-- A unit that returns to its pool is one generation on, modulo 256 (R374). -/
theorem State.gen_returnUnit (s : State) (key : Nat) :
    tblGet 0 (s.returnUnit key).hod.gens key = (tblGet 0 s.hod.gens key + 1) % 256 :=
  tblGet_tblSet_same ..

/-- Settles O36: an admitted command runs through the address it names to the unit's act. -/
theorem bufferCommands : Obligations.BufferCommands := by
  unfold Obligations.BufferCommands
  intro n c s mine usable
  have pool := corePool_of_mem mine
  refine ⟨fun quota free => ⟨_, _, rfl, ?_⟩, ?_, State.gen_returnUnit s⟩
  · exact congrArg Host.Outcome.next (State.hodCommand_alloc pool usable quota free rfl)
  · rintro u _ x y op cmd address inPool rfl found which
    have wellFormed : ¬ illFormed c op := by
      unfold illFormed
      rcases which with ⟨rfl, -⟩ | ⟨rfl, -⟩ | ⟨rfl, -, count⟩ | ⟨rfl, -, owner, place⟩ | ⟨rfl, -⟩
      · simp
      · simp
      · simpa using count
      · rcases place with place | place <;> simp [owner, place]
      · simp
    have notAlloc : op ≠ 1 := by omega
    have runs : exec cmd s = .next (s.hodCommand n op c) := by
      rcases which with ⟨rfl, rfl⟩ | ⟨rfl, rfl⟩ | ⟨rfl, rfl, -⟩ | ⟨rfl, rfl, -⟩ | ⟨rfl, rfl⟩ <;> rfl
    constructor
    · rintro current act _ rfl
      rw [runs, State.hodCommand_done pool usable address inPool found wellFormed notAlloc current act]
      rfl
    · intro stale
      rw [runs, State.hodCommand_stale pool usable address inPool found wellFormed notAlloc stale]
      rfl

end Sys2Proof.Machine
end

section
/-! PROOFS. Proofs/Sources.lean: the frequency reference and the sources of time (R55, R59 to R68, R78). -/

namespace Sys2Proof.Machine

/-! ### The frequency reference -/

/-- A turn of the detector is 6.4 ns, its readings steps of 4 ps: the phase nearest the last agrees modulo the turn (R67). -/
theorem Detector.phaseOf_emod (d : Detector) (steps : Nat) : (d.phaseOf steps - 4 * (steps : Int)) % 6400 = 0 := by
  unfold Detector.phaseOf
  cases d.readings.head? with
  | none => simp
  | some last => dsimp only; omega

/-- Settles O14: each command's own condition, and the reference as the raised event leaves it. -/
theorem referenceClockCommands : Obligations.ReferenceClockCommands := by
  unfold Obligations.ReferenceClockCommands
  refine ⟨fun s => ?_, fun f s fast => ?_, fun l r s => ⟨rfl, Detector.phaseOf_emod _ _⟩, fun p q s => rfl,
    fun l s held due => ?_, fun l s waiting due => ?_⟩
  · change execRefclkTimeLost s = _
    simp [execRefclkTimeLost]
  · exact (if_pos fast :)
  · change execHoldOffTime s = _
    simp only [execHoldOffTime, held, due, if_true]
    rfl
  · exact congrArg Host.Outcome.next (if_pos (by rw [waiting, due]; rfl))

/-! ### Sources -/

/-- The nearest whole second: every instant is a whole number of seconds and its offset, at most half a second either way. -/
theorem offsetFromSecond_nearest (t : Nat) : ∃ k : Int, (t : Int) = k * (secTicks : Int) + offsetFromSecond t ∧
    -(secTicks : Int) < 2 * offsetFromSecond t ∧ 2 * offsetFromSecond t ≤ (secTicks : Int) := by
  have split_at : (t : Int) = (t / secTicks : Nat) * (secTicks : Int) + (t % secTicks : Nat) := by
    exact_mod_cast (Nat.div_add_mod' t secTicks).symm
  have below : t % secTicks < secTicks := Nat.mod_lt _ (by decide)
  unfold offsetFromSecond
  dsimp only
  split
  · exact ⟨(t / secTicks : Nat), split_at, by omega, by omega⟩
  · refine ⟨(t / secTicks : Nat) + 1, ?_, by omega, by omega⟩
    rw [add_mul]
    omega

/-- A leap second writes UtcOffset, here and in MRAM, and clears LeapPending (R78). -/
theorem State.leapSecond_reads (s : State) (v : Nat) :
    let t := (s.wrPersist Od.utcOffset v).wr Od.leapPending 0
    t.rd Od.utcOffset = v ∧ t.rd Od.leapPending = 0 ∧ (∀ k, k ≠ Od.utcOffset → k ≠ Od.leapPending → t.rd k = s.rd k) := by
  intro t
  refine ⟨?_, State.rd_wr_same _ _ _, fun k offset pending => ?_⟩
  · exact ((s.wrPersist Od.utcOffset v).rd_wr_ne 0 (by decide)).trans (s.rd_wr_same _ v)
  · exact ((s.wrPersist Od.utcOffset v).rd_wr_ne 0 pending).trans (s.rd_wr_ne v offset)

/-- Settles O15: each command's own conditions, and the frame of a leap second. -/
theorem sourceCommands : Obligations.SourceCommands := by
  unfold Obligations.SourceCommands
  refine ⟨fun n off held s => ⟨?_, offsetFromSecond_nearest _⟩, fun k s => ?_, fun k s => ?_, fun s => ?_, fun s => ?_⟩
  · change execPpsEdge n off held s = _
    unfold execPpsEdge
    dsimp only
    generalize s.moveTo off = u
    generalize offsetFromSecond _ = o
    refine congrArg Host.Outcome.next ?_
    cases u.rdB (if n = 0 then Od.ppsEnable0 else Od.ppsEnable1) with
    | false => simp
    | true =>
      by_cases short : held < 10
      · simp [short, Nat.not_le.mpr short]
      · by_cases far : u.rd Od.ppsWindow * nsTicks < o.natAbs <;> simp [short, Nat.not_lt.mp short, far]
  · change execSourceTimeout k s = _
    unfold execSourceTimeout
    cases s.due (tmSource k) (s.msCourses (s.rd Od.sourceTimeout)) <;> rfl
  · refine congrArg Host.Outcome.next (if_congr ?_ rfl rfl)
    simp [State.mayQualify, and_assoc]
    cases isPps k <;> simp
  · rfl
  · refine ⟨_, rfl, fun day => ?_, fun midnight => ?_⟩
    · simp [day]
    · rw [if_pos midnight]
      obtain ⟨offset, pending, others⟩ := s.leapSecond_reads (ofSigned 16 (s.rdI 16 Od.utcOffset + s.rdI 8 Od.leapPending))
      exact ⟨congrArg (toSigned 16) offset, pending, rfl, others, rfl⟩

end Sys2Proof.Machine
end

section
/-! PROOFS. Proofs/Ptp.lean: PTP messages, their transmission and timeouts (R58, R79 to R86, R168, R560). -/

namespace Sys2Proof.Machine

/-- Each of the ten messages is received alike, by its port, its header and what it carries. -/
theorem exec_ptpMessage {p : PortId} {off : Nat} {h : PtpHeader} {s : State} {c : Instr} {m : PtpMsg}
    (message : (∃ o e, c = .sync p off h o e ∧ m = .sync o e) ∨ (∃ o, c = .followUp p off h o ∧ m = .followUp o) ∨
     (∃ e, c = .delayReq p off h e ∧ m = .delayReq e) ∨ (∃ r, c = .delayResp p off h r ∧ m = .delayResp r) ∨
     (∃ e, c = .pdelayReq p off h e ∧ m = .pdelayReq e) ∨ (∃ r e, c = .pdelayResp p off h r e ∧ m = .pdelayResp r e) ∨
     (∃ r, c = .pdelayRespFollowUp p off h r ∧ m = .pdelayRespFollowUp r) ∨ (∃ b, c = .announce p off h b ∧ m = .announce b) ∨
     (∃ b, c = .signaling p off h b ∧ m = .signaling b) ∨ (c = .managementMessage p off h ∧ m = .management)) :
    exec c s = .next (s.ptpReceive p off h m) := by
  rcases message with ⟨_, _, rfl, rfl⟩ | ⟨_, rfl, rfl⟩ | ⟨_, rfl, rfl⟩ | ⟨_, rfl, rfl⟩ | ⟨_, rfl, rfl⟩ | ⟨_, _, rfl, rfl⟩ |
    ⟨_, rfl, rfl⟩ | ⟨_, rfl, rfl⟩ | ⟨_, rfl, rfl⟩ | ⟨rfl, rfl⟩ <;> rfl

/-- Settles O16: the cases of a received message, by the port's link, a Keystone handover and the room of its held messages. -/
theorem ptpMessagesAreReceived : Obligations.PtpMessagesAreReceived := by
  unfold Obligations.PtpMessagesAreReceived
  intro p off h s c m message u
  rw [exec_ptpMessage message, State.ptpReceive]
  refine ⟨fun down => ?_, fun up served => ?_, fun up handover room => ?_, fun up handover full => ?_, fun invalid => ?_⟩
  · exact congrArg Host.Outcome.next (if_pos down)
  · rw [if_neg (not_not.mpr up), if_neg (ne_true_of_eq_false served)]
  · rw [if_neg (not_not.mpr up), if_pos handover, if_pos room]
  · rw [if_neg (not_not.mpr up), if_pos handover, if_neg (Nat.not_lt.mpr full)]
  · simp [State.ptpProcess, invalid]

/-- Settles O17: each transmission and timeout under its own condition. -/
theorem ptpTransmissionAndTimeouts : Obligations.PtpTransmissionAndTimeouts := by
  unfold Obligations.PtpTransmissionAndTimeouts
  refine ⟨fun p off s enabled profile master oneStep => ?_, fun p off s enabled profile master twoStep served => ?_,
    fun p off s enabled profile master => ?_, fun p off s enabled peer => ?_, fun p s due => ?_, fun p s attempt due => ?_,
    fun p s failed due => ?_⟩
  · change execSyncTransmit p off s = _
    simp only [execSyncTransmit, enabled, bne_iff_ne.mpr profile, master, oneStep]
    rfl
  · change execSyncTransmit p off s = _
    have idle : ((((s.moveTo off).ptpNext p).ptpSend p "Sync two-step" ((s.moveTo off).ptpPort p).nextSeq [] [])).agent.handover =
        false := served
    simp only [execSyncTransmit, enabled, bne_iff_ne.mpr profile, master, twoStep, idle]
    rfl
  · change execAnnounceTransmit p off s = _
    have notLocal : ((s.moveTo off).rd (Od.profileInUse p) == 1) = false := beq_eq_false_iff_ne.mpr (by omega)
    have used : ((s.moveTo off).rd (Od.profileInUse p) != 0) = true := bne_iff_ne.mpr (by omega)
    simp only [execAnnounceTransmit, enabled, notLocal, used, master]
    rfl
  · change execDelayReqTransmit p off s = _
    simp only [execDelayReqTransmit, enabled, peer]
    rfl
  · exact congrArg Host.Outcome.next (if_pos due)
  · exact congrArg Host.Outcome.next (if_pos ⟨attempt, due⟩)
  · exact congrArg Host.Outcome.next (if_pos ⟨failed, due⟩)

end Sys2Proof.Machine
end

section
/-! PROOFS. Proofs/TimingPins.lean: captures, expectations and generated edges of the timing pins (R88 to R92). -/

namespace Sys2Proof.Machine

theorem State.pin_setPin_same (s : State) (n : Nat) (x : Pin) : (s.setPin n x).pin n = x := tblGet_tblSet_same _ _ n x

theorem State.pin_setPin_ne (s : State) {m n : Nat} (x : Pin) (ne : m ≠ n) : (s.setPin n x).pin m = s.pin m :=
  tblGet_tblSet_ne _ _ _ x ne

/-- The expectation changes the timers alone. -/
theorem State.rd_expectEdge (s : State) (n k : Nat) : (s.expectEdge n).rd k = s.rd k := by
  unfold State.expectEdge
  split <;> rfl

theorem State.expectEdge_pin (s : State) (n m : Nat) : (s.expectEdge n).pin m = s.pin m := by
  unfold State.expectEdge
  split <;> rfl

theorem State.expectEdge_frame (s : State) (n : Nat) : ∃ timers, s.expectEdge n = { s with timers := timers } := by
  unfold State.expectEdge
  split
  · exact ⟨_, rfl⟩
  · exact ⟨s.timers, rfl⟩

/-- A count and a write change the dictionary alone. -/
theorem State.bump_wr_frame (s : State) (j k v : Nat) : ∃ dict, (s.bump j).wr k v = { s with dict := dict } := ⟨_, rfl⟩

/-- The state after an edge of a pin is captured, as far as the pin itself goes. -/
def State.captured (s : State) (n stamp : Nat) (rising : Bool) : State :=
  (((s.bump (Od.captureCount n)).wr (Od.lastCapture n) (ts96 stamp)).expectEdge n).setPin n
    { s.pin n with lastEdge := some s.now, reported := false, fifo := (s.pin n).fifo ++ [(stamp, rising)] }

section
variable (s : State) (n stamp : Nat) (rising : Bool)

theorem State.captured_rd_captureCount :
    (s.captured n stamp rising).rd (Od.captureCount n) = (s.rd (Od.captureCount n) + 1) % 2 ^ 64 := by
  have ne : Od.captureCount n ≠ Od.lastCapture n := by unfold Od.captureCount Od.lastCapture; omega
  rw [State.captured, State.rd_setPin, State.rd_expectEdge, State.rd_wr_ne _ _ ne, State.rd_bump_same]

theorem State.captured_rd_lastCapture : (s.captured n stamp rising).rd (Od.lastCapture n) = ts96 stamp := by
  rw [State.captured, State.rd_setPin, State.rd_expectEdge, State.rd_wr_same]

theorem State.captured_rd_tioOwner : (s.captured n stamp rising).rd (Od.tioOwner n) = s.rd (Od.tioOwner n) := by
  have count : Od.tioOwner n ≠ Od.captureCount n := by unfold Od.tioOwner Od.captureCount; omega
  have last : Od.tioOwner n ≠ Od.lastCapture n := by unfold Od.tioOwner Od.lastCapture; omega
  rw [State.captured, State.rd_setPin, State.rd_expectEdge, State.rd_wr_ne _ _ last, State.rd_bump_ne _ count]

theorem State.captured_frame :
    ∃ dict timers pins, s.captured n stamp rising = { s with dict := dict, timers := timers, pins := pins } := by
  obtain ⟨dict, counted⟩ := s.bump_wr_frame (Od.captureCount n) (Od.lastCapture n) (ts96 stamp)
  obtain ⟨timers, expected⟩ := State.expectEdge_frame { s with dict := dict } n
  rw [State.captured, counted, expected]
  exact ⟨dict, timers, _, rfl⟩

theorem State.captured_pin_ne {m : Nat} (ne : m ≠ n) : (s.captured n stamp rising).pin m = s.pin m := by
  rw [State.captured, State.pin_setPin_ne _ _ ne, State.expectEdge_pin]
  obtain ⟨dict, counted⟩ := s.bump_wr_frame (Od.captureCount n) (Od.lastCapture n) (ts96 stamp)
  rw [counted]
  rfl

end

/-- An edge that is captured, of a pin that no function owns, is `captured` (R89). -/
theorem exec_tioEdge_captured {n : Fin 32} {off held : Nat} {rising : Bool} {s u : State} (moved : u = s.moveTo off)
    (polarity : captures (u.rd (Od.tioMode n)) rising = true) (filtered : u.rd (Od.glitchFilter n) ≤ held)
    (apart : ∀ e, (u.pin n).lastEdge = some e → e + 20 * nsTicks ≤ u.now) (room : (u.pin n).fifo.length < 64)
    (unowned : u.rd (Od.tioOwner n) = 0) :
    exec (.tioEdge n off held rising) s = .next (u.captured n
      ((u.now : Int) - (u.pinConst n).1 * 64 - u.rdI 32 (Od.inputDelay n) * 64).toNat rising) := by
  subst moved
  have far : (match ((s.moveTo off).pin n).lastEdge with
      | some e => decide ((s.moveTo off).now < e + 20 * nsTicks) | none => false) = false := by
    cases last : ((s.moveTo off).pin n).lastEdge with
    | none => rfl
    | some e => exact decide_eq_false (Nat.not_lt.mpr (apart e last))
  change execTioEdge n off held rising s = _
  unfold execTioEdge
  generalize s.moveTo off = u at *
  have open' : (!captures (u.rd (Od.tioMode n)) rising || decide (held < u.rd (Od.glitchFilter n))) = false := by
    simp [polarity, filtered]
  have owner := u.captured_rd_tioOwner n
    ((u.now : Int) - (u.pinConst n).1 * 64 - u.rdI 32 (Od.inputDelay n) * 64).toNat rising
  dsimp only
  exact congrArg Host.Outcome.next ((if_neg (ne_true_of_eq_false open')).trans ((if_neg (ne_true_of_eq_false far)).trans
    ((if_pos room).trans (if_pos (owner.trans unowned)))))

/-- An edge nearer than 20 ns to the last is lost (R89). -/
theorem exec_tioEdge_close {n : Fin 32} {off held e : Nat} {rising : Bool} {s u : State} (moved : u = s.moveTo off)
    (polarity : captures (u.rd (Od.tioMode n)) rising = true) (filtered : u.rd (Od.glitchFilter n) ≤ held)
    (last : (u.pin n).lastEdge = some e) (near : u.now < e + 20 * nsTicks) :
    exec (.tioEdge n off held rising) s = .next (u.captureLost n) := by
  subst moved
  change execTioEdge n off held rising s = _
  unfold execTioEdge
  generalize s.moveTo off = u at *
  have open' : (!captures (u.rd (Od.tioMode n)) rising || decide (held < u.rd (Od.glitchFilter n))) = false := by
    simp [polarity, filtered]
  simp only [open', last, near, decide_true, if_true, Bool.false_eq_true, if_false]

/-- Settles O18: captures, lost edges, expectations, and the edges each mode generates. -/
theorem timingPinCommands : Obligations.TimingPinCommands := by
  unfold Obligations.TimingPinCommands
  refine ⟨fun n off held rising s polarity filtered apart room unowned stamp stamped => ?_,
    fun n off held e rising s polarity filtered last near => exec_tioEdge_close rfl polarity filtered last near,
    fun n s set due => congrArg Host.Outcome.next (if_pos ⟨set, due⟩), fun n off m t ball s u moved mode edge balled => ?_⟩
  · subst stamped
    refine ⟨_, exec_tioEdge_captured rfl polarity filtered apart room unowned, State.captured_rd_captureCount ..,
      State.captured_rd_lastCapture .., congrArg Pin.fifo (State.pin_setPin_same ..),
      congrArg Pin.lastEdge (State.pin_setPin_same ..), fun m ne => State.captured_pin_ne _ _ _ _ (Fin.val_ne_of_ne ne), ?_⟩
    obtain ⟨dict, timers, pins, captured⟩ := State.captured_frame (s.moveTo off) n
      (((s.moveTo off).now : Int) - ((s.moveTo off).pinConst n).1 * 64 - (s.moveTo off).rdI 32 (Od.inputDelay n) * 64).toNat rising
    rw [captured]
    rfl
  · subst moved balled
    change execGeneratedEdge n off s = _
    unfold execGeneratedEdge
    generalize s.moveTo off = u at *
    rcases edge with ⟨rfl, armed, first, rfl⟩ | ⟨rfl, armed, more, rfl⟩ | ⟨rfl, rfl⟩
    · simp [← mode, armed, first, State.genStart]
    · simp [← mode, armed, more, State.genStart]
    · simp [← mode]

end Sys2Proof.Machine
end

section
/-! PROOFS. Proofs/Package.lean: the clocks and temperatures of the package (R594, R598 to R600) and SPDM (R517). -/

namespace Sys2Proof.Machine

/-- With all 57 values given, none is filled up and none cut off. -/
theorem padTemperatures {ts : List (BitVec 16)} (all : ts.length = 57) : (ts ++ List.replicate 57 0).take 57 = ts :=
  all ▸ List.take_left ..

/-- Settles O11: each command under its own condition. -/
theorem packageCommands : Obligations.PackageCommands := by
  unfold Obligations.PackageCommands
  refine ⟨fun s running present => congrArg Host.Outcome.next (if_neg (not_or.mpr ⟨running, present⟩)),
    fun s waiting warm lost => congrArg Host.Outcome.next ((if_neg lost).trans (if_pos ⟨waiting, warm⟩)),
    fun s serving lost => congrArg Host.Outcome.next ((if_neg lost).trans ((if_neg ?_).trans (if_pos serving))),
    fun ts hbm s t high serving sampled all highest read => ?_, fun n s running first => ?_, fun n s serving held => ?_⟩
  · have notWaiting : s.boot.phase ≠ 1 := by omega
    exact fun h => notWaiting h.1
  · subst highest read
    change execTemperatureRead ts hbm s = _
    rw [execTemperatureRead, padTemperatures all, if_pos ⟨serving, sampled⟩]
    refine congrArg Host.Outcome.next (congrArg (fun u => State.thermalAlert u _) (if_congr ?_ rfl rfl))
    simp
  · change execThermalTrip n s = _
    rw [execThermalTrip, if_neg running, first]
    rfl
  · refine congrArg Host.Outcome.next (if_neg (not_or.mpr ⟨by omega, ne_true_of_eq_false held⟩))

/-- Settles O12: each request takes its answer, every other slot, index or code the error answer. -/
theorem spdmRequests : Obligations.SpdmRequests := by
  unfold Obligations.SpdmRequests
  refine ⟨fun _ _ => rfl, fun _ _ => rfl, fun _ _ => rfl, fun _ _ => rfl, fun _ _ _ _ => rfl, fun _ _ _ => rfl,
    fun k i x s low high => ?_, fun _ _ _ => ⟨_, rfl⟩, fun k i x s outside => ?_, fun _ _ _ => rfl,
    fun k i o n x s other => ⟨congrArg Host.Outcome.next (if_pos ?_), congrArg Host.Outcome.next (if_pos ?_)⟩⟩
  · exact congrArg Host.Outcome.next ((if_neg (by omega)).trans (if_pos ⟨low, high⟩))
  · have notAll : i.toNat ≠ 0xFF := by
      rcases outside with rfl | ⟨-, ne⟩
      · decide
      · exact fun h => ne (BitVec.eq_of_toNat_eq h)
    have notOne : ¬ (1 ≤ i.toNat ∧ i.toNat ≤ 9) := by
      rcases outside with rfl | ⟨beyond, -⟩
      · decide
      · omega
    exact congrArg Host.Outcome.next ((if_neg notAll).trans (if_neg notOne))
  all_goals exact fun h => other (BitVec.eq_of_toNat_eq h)

end Sys2Proof.Machine
end

section
/-! PROOFS. Proofs/Courses.lean: boundaries, snapshots, samples and migration (R112, R113, R140, R332, R333). -/

namespace Sys2Proof.Machine

/-- A loop over a list keeps what each of its rounds keeps. -/
theorem forEach_preserves {α : Type} (field : State → α) (l : List Nat) (f : Nat → State → State)
    (round : ∀ n s, field (f n s) = field s) (s : State) : field (forEach l f s) = field s := by
  induction l generalizing s with
  | nil => rfl
  | cons n l ih => exact (ih (f n s)).trans (round n s)

theorem State.rd_withClock (s : State) (c : Clock) (k : Nat) : ({ s with clock := c } : State).rd k = s.rd k := rfl

/-- A snapshot holds the counters of the dictionary as they stand (R112). -/
theorem State.takeSnapshot_snapshot (s : State) :
    s.takeSnapshot.snapshot = s.dict.filter (fun e => odIsCounter e.1) := by
  unfold State.takeSnapshot
  dsimp only
  rw [State.wr_snapshot, forEach_preserves State.snapshot]
  intro n t
  split
  · rfl
  · exact State.wr_snapshot _ _ _

theorem State.takeSnapshot_rd_snapshotCourse (s : State) : s.takeSnapshot.rd Od.snapshotCourse = s.course := by
  unfold State.takeSnapshot
  dsimp only
  rw [State.rd_withClock, State.rd_wr_same]

/-- The end of a change of modes leaves the activities of the pseudo-channels. -/
theorem State.rd_changeIdle_pcActivity (s : State) (pc : Fin 16) :
    s.changeIdle.rd (Od.pcActivity pc) = s.rd (Od.pcActivity pc) := by
  have status : Od.pcActivity pc ≠ Od.modeChangeStatus := by unfold Od.pcActivity Od.modeChangeStatus; omega
  have bound : Od.pcActivity pc ≠ Od.repartitionBound := by unfold Od.pcActivity Od.repartitionBound; omega
  exact (State.rd_wr_ne _ 0 bound).trans (State.rd_wr_ne _ 0 status)

/-- A copied pseudo-channel passes to its new activity. -/
def State.passed (s : State) (pc a : Nat) : State :=
  { s with modeChange := { s.modeChange with copied := false } }.wr (Od.pcActivity pc) a

/-- The last pseudo-channel of the list ends the change with its event (R140). -/
theorem State.migrationPass_last (s : State) {pc a : Nat} (copied : s.modeChange.copied = true)
    (last : s.modeChange.migrating = [(pc, a)]) (goes : s.modeChange.stopping = false) :
    s.migrationPass = (s.passed pc a).changeIdle.raise 0x1A21
      (bitField ((s.passed pc a).rd Od.modeChangeStatus) 23 20) := by
  have goes' : (s.passed pc a).modeChange.stopping = false := goes
  unfold State.migrationPass
  simp only [copied, last]
  exact (if_neg (by decide)).trans ((if_pos (by simp)).trans (if_neg (ne_true_of_eq_false goes')))

/-- Another pseudo-channel of the list is the next to be copied (R140). -/
theorem State.migrationPass_more (s : State) {pc a : Nat} {next : Nat × Nat} {l : List (Nat × Nat)}
    (copied : s.modeChange.copied = true) (more : s.modeChange.migrating = (pc, a) :: next :: l)
    (goes : s.modeChange.stopping = false) :
    s.migrationPass = ({ s.wr (Od.pcActivity pc) a with modeChange := { s.modeChange with
      copied := false, migrating := next :: l } } : State).wr Od.modeChangeStatus
      (changeStatus 2 (bitField ((s.passed pc a).rd Od.modeChangeStatus) 27 24)
        (bitField ((s.passed pc a).rd Od.modeChangeStatus) 23 20) next.1 (next :: l).length) := by
  unfold State.migrationPass
  simp only [copied, more]
  exact (if_neg (by decide)).trans (if_neg (by simpa using goes))

/-- Settles O19: each command's own condition, and the two ends of a pass of the migration. -/
theorem courseCommands : Obligations.CourseCommands := by
  unfold Obligations.CourseCommands
  refine ⟨fun s started => congrArg Host.Outcome.next (if_pos started), fun s serving owed => ?_,
    fun p s dest sampled unsent msg u sent written recorded => ?_,
    fun s migrating => congrArg Host.Outcome.next (if_neg migrating), fun pc a s copied last goes => ?_,
    fun pc a pc2 a2 l s copied more goes => ?_⟩
  · exact ⟨_, congrArg Host.Outcome.next (if_pos ⟨serving, owed⟩), rfl, s.takeSnapshot_snapshot,
      s.takeSnapshot_rd_snapshotCourse⟩
  · subst written
    change execSampleMessage p s = _
    unfold execSampleMessage
    dsimp only
    rw [if_neg (not_or.mpr ⟨dest, not_or.mpr ⟨not_not.mpr sampled, ne_true_of_eq_false unsent⟩⟩), recorded]
    cases sent <;> rfl
  · rw [s.migrationPass_last copied last goes]
    exact ⟨_, _, rfl, (State.rd_changeIdle_pcActivity _ pc).trans (State.rd_wr_same _ _ _)⟩
  · exact ⟨_, s.migrationPass_more copied more goes⟩

end Sys2Proof.Machine
end

section
/-! PROOFS. Proofs/BringUp.lean: the bring-up of a port and its FEC (R155, R157 to R162). -/

namespace Sys2Proof.Machine

/-- Settles O20: each command under its own condition. -/
theorem bringUpCommands : Obligations.BringUpCommands := by
  unfold Obligations.BringUpCommands
  refine ⟨fun p a rs rs5 s u negotiating recorded => ?_,
    fun p v s negotiating offered => congrArg Host.Outcome.next (if_pos ⟨negotiating, List.contains_iff_mem.mpr offered⟩),
    fun p s negotiating due => congrArg Host.Outcome.next (if_pos ⟨negotiating, due⟩),
    fun p s failed due => congrArg Host.Outcome.next (if_pos ⟨failed, due⟩), fun p s training first => ?_,
    fun p s training trained => congrArg Host.Outcome.next (if_pos ⟨training, trained⟩),
    fun p s training due media => (if_pos (⟨training, due⟩ : _ ∧ _)).trans (if_neg media),
    fun p s aligned due => congrArg Host.Outcome.next (if_pos ⟨aligned, due⟩)⟩
  · subst recorded
    change (∀ v, _ → execClause73Page p a rs rs5 s = _) ∧ (_ → execClause73Page p a rs rs5 s = _)
    rw [execClause73Page, if_pos negotiating]
    dsimp only
    constructor
    · intro v common
      rw [common]
    · intro none
      rw [none]
  · change (∀ f, _ → execTrainingComplete p s = _) ∧ (_ → execTrainingComplete p s = _)
    rw [execTrainingComplete, if_pos ⟨training, first⟩]
    constructor
    · intro f resolved
      rw [resolved]
    · intro none
      rw [none]

section
variable {s : State} {p : Nat}

/-- Up to 10 GbE there is no FEC (R159). -/
theorem State.resolveFec_slow (slow : s.rd (Od.speedInUse p) < 2) : s.resolveFec p = some 0 := by
  unfold State.resolveFec
  rcases (by omega : s.rd (Od.speedInUse p) = 0 ∨ s.rd (Od.speedInUse p) = 1) with speed | speed <;> simp [speed]

/-- At 25 GbE RS(528,514), or none where that is allowed (R155, R159). -/
theorem State.resolveFec_25 (speed : s.rd (Od.speedInUse p) = 2) :
    s.resolveFec p = if (s.port p).rsFec then some 1 else if s.rdB (Od.fecAllowNone p) then some 0 else none := by
  simp [State.resolveFec, speed]

/-- Above 25 GbE RS(544,514) or failure (R159). -/
theorem State.resolveFec_fast (fast : 2 < s.rd (Od.speedInUse p)) :
    s.resolveFec p = if (s.port p).rs544 then some 2 else none := by
  unfold State.resolveFec
  split
  · omega
  · omega
  · omega
  · rfl

end

/-- Settles O21: by the speed in use. -/
theorem fecAtTwentyFiveGigabit : Obligations.FecAtTwentyFiveGigabit := by
  unfold Obligations.FecAtTwentyFiveGigabit
  intro s p
  refine ⟨fun speed rs => ?_, fun speed rs allowed => ?_, fun speed rs refused => ?_, State.resolveFec_slow,
    State.resolveFec_fast⟩
  · rw [State.resolveFec_25 speed, if_pos rs]
  · rw [State.resolveFec_25 speed, if_neg (ne_true_of_eq_false rs), if_pos allowed]
  · rw [State.resolveFec_25 speed, if_neg (ne_true_of_eq_false rs), if_neg (ne_true_of_eq_false refused)]

end Sys2Proof.Machine
end

section
/-! PROOFS. Proofs/LinkFrames.lean: faults of a link, and LLDP, PAUSE, PFC and other frames of a wire port (R164, R168 to
R175, R191, R258). -/

namespace Sys2Proof.Machine

/-- A frame that is not accepted is only counted (R168). -/
theorem State.rxAccept_refused {s u : State} {p : Nat} {rx : RxFrame} (refused : s.rxAccept p rx = (u, false)) :
    u = s.bump (Od.rxNotUp p) ∨ u = s.bump (Od.rxRunts p) ∨ u = s.bump (Od.rxOversize p) ∨ u = s.bump (Od.rxFcsErrors p) := by
  unfold State.rxAccept at refused
  split at refused
  · exact .inl (congrArg Prod.fst refused).symm
  · split at refused
    · exact .inr (.inl (congrArg Prod.fst refused).symm)
    · split at refused
      · exact .inr (.inr (.inl (congrArg Prod.fst refused).symm))
      · split at refused
        · exact .inr (.inr (.inr (congrArg Prod.fst refused).symm))
        · simp at refused

/-- A good frame of legal length is accepted and counted (R168). -/
theorem State.rxAccept_good {s : State} {p n : Nat} (up : s.up p = true) (runt : 64 ≤ n) (long : n ≤ s.rd (Od.maxFrameSize p)) :
    s.rxAccept p ⟨n, true⟩ = (s.countRx p n, true) := by
  simp [State.rxAccept, up, Nat.not_lt.mpr runt, Nat.not_lt.mpr long]

/-- Beyond 8 in a second an LLDPDU is only counted (R169). -/
theorem State.countLldpdu_full {s : State} {p : Nat} (full : 8 ≤ s.lldpdusInSecond p) :
    s.countLldpdu p = (s.bump (Od.rxLldpDiscarded p), false) := if_pos full

/-- Settles O22: each command under its own condition. -/
theorem linkStateCommands : Obligations.LinkStateCommands := by
  unfold Obligations.LinkStateCommands
  refine ⟨fun p off cause s u moved notLocal notRemote up first hold => ?_, fun p cause s faulty due => ?_,
    fun p off rx b s u v accepted counted => ?_, fun p off rx b s u accepted full => ?_,
    fun p rx s u refused => State.rxAccept_refused refused, fun p n s up runt long => State.rxAccept_good up runt long,
    fun p s up due => congrArg Host.Outcome.next (if_pos ⟨up, due⟩), fun p b s peer due => ?_, fun p rx s u accepted => ?_,
    fun p off en rx qs s u accepted => ?_, fun p c off s u moved ended => ?_⟩
  · subst moved
    change execLinkDownCondition p off cause s = _
    unfold execLinkDownCondition
    generalize s.moveTo off = u at *
    have isUp : u.up p = true := beq_iff_eq.mpr up
    have notAligned : u.rd (Od.linkState p) ≠ 3 := by omega
    simp only [if_neg notLocal, if_neg notRemote, if_neg notAligned]
    exact (if_pos (⟨isUp, first⟩ : _ ∧ _)).trans (congrArg Host.Outcome.next (if_neg hold))
  · change execLinkDownHold p false s = _ ∧ execLinkDownHold p true s = _
    unfold execLinkDownHold
    simp only [faulty]
    exact ⟨congrArg Host.Outcome.next (if_pos due), congrArg Host.Outcome.next (if_pos due)⟩
  · change execLldpdu p off rx b s = _
    rw [execLldpdu, accepted]
    dsimp only
    rw [counted]
  · change execLldpdu p off rx b s = _
    rw [execLldpdu, accepted]
    dsimp only
    rw [State.countLldpdu_full full]
  · change execLldpTtlExpiry p s = _
    rw [execLldpTtlExpiry, peer]
    exact congrArg Host.Outcome.next (if_pos due)
  · change execPause p rx s = _
    rw [execPause, accepted]
  · change execPfc p off rx en qs s = _
    rw [execPfc, accepted]
  · subst moved
    exact congrArg Host.Outcome.next (if_pos ended)

/-! ### Frames -/

/-- Counting in another entry leaves the mode. -/
theorem State.mode_addTo {s : State} {k n : Nat} (mode : Od.modeInForce ≠ k) (before : Od.modeBeforeSafe ≠ k) :
    (s.addTo k n).mode = s.mode := by
  rw [State.mode, State.mode, State.rd_addTo_ne _ _ mode, State.rd_addTo_ne _ _ before]

/-- The state after a frame is counted as received, over-long or damaged (R168). -/
def State.countFrame (s : State) (p len : Nat) (good : Bool) : State :=
  if s.rd (Od.maxFrameSize p) < len then s.bump (Od.rxOversize p)
  else if good then s.countRx p len else s.bump (Od.rxFcsErrors p)

/-- What is no counter of received frames reads as before. -/
theorem State.rd_countFrame {s : State} {p len k : Nat} {good : Bool} (outside : k < 0xD00000) :
    (s.countFrame p len good).rd k = s.rd k := by
  have oversize : k ≠ Od.rxOversize p := by unfold Od.rxOversize; omega
  have frames : k ≠ Od.rxFrames p := by unfold Od.rxFrames; omega
  have octets : k ≠ Od.rxOctets p := by unfold Od.rxOctets; omega
  have errors : k ≠ Od.rxFcsErrors p := by unfold Od.rxFcsErrors; omega
  unfold State.countFrame
  split
  · exact State.rd_bump_ne _ oversize
  · split
    · exact (State.rd_addTo_ne _ _ octets).trans (State.rd_bump_ne _ frames)
    · exact State.rd_bump_ne _ errors

theorem State.mode_countFrame {s : State} {p len : Nat} {good : Bool} : (s.countFrame p len good).mode = s.mode := by
  rw [State.mode, State.mode, State.rd_countFrame (by decide), State.rd_countFrame (by decide)]

/-- A port without MACsec takes every frame in the clear. -/
theorem State.macsecRx_clear {s : State} {p : Nat} (bs : List Byte) (plain : s.rdB (Od.macsecEnable p) = false) :
    s.macsecRx p bs = (s, .clear) := if_pos (by simp [plain])

section
variable {p : PortId} {off : Nat} {bs : List Byte} {good : Bool} {s u : State}

/-- A frame of legal least length on a port that is up without MACsec, by its EtherType and what is wrong with it. -/
theorem exec_frameReceive (moved : u = s.moveTo off) (up : u.up p = true) (runt : 64 ≤ bs.length + 4)
    (plain : u.rdB (Od.macsecEnable p) = false) :
    exec (.frameReceive p off bs good) s =
      if beAt bs 12 2 = 0x8808 then
        if u.rd (Od.maxFrameSize p) < bs.length + 4 then .next (u.bump (Od.rxOversize p))
        else if good then u.macControl p off bs else .next (u.bump (Od.rxFcsErrors p))
      else .next ((u.countFrame p (bs.length + 4) good).received p (u.rxStamp p)
        (decide (u.rd (Od.maxFrameSize p) < bs.length + 4) || !good) bs none false
        (u.mode == 4 && !uncontrolled (frameDa bs) (beAt bs 12 2) (u.rd Od.wallEthertype))) := by
  subst moved
  change execFrameReceive p off bs good s = _
  unfold execFrameReceive
  generalize s.moveTo off = u at *
  have counted : (if u.rd (Od.maxFrameSize p) < bs.length + 4 then u.bump (Od.rxOversize p)
      else if good = false then u.bump (Od.rxFcsErrors p) else u.countRx p (bs.length + 4)) =
      u.countFrame p (bs.length + 4) good := by cases good <;> rfl
  have below : Od.macsecEnable p < 0xD00000 := by
    have inRange := p.isLt
    unfold Od.macsecEnable
    omega
  have clear : (u.countFrame p (bs.length + 4) good).macsecRx p bs = (u.countFrame p (bs.length + 4) good, .clear) :=
    State.macsecRx_clear bs (by rwa [State.rdB, State.rd_countFrame below])
  simp only [plain, Bool.false_and, Bool.false_eq_true, if_false, Nat.add_zero, up, Bool.not_true,
    if_neg (Nat.not_lt.mpr runt), beq_iff_eq, Bool.and_eq_true, decide_eq_true_eq, Bool.not_eq_true', counted]
  by_cases control : beAt bs 12 2 = 0x8808
  · by_cases long : u.rd (Od.maxFrameSize p) < bs.length + 4 <;> cases good <;> simp [control, long]
  · rw [if_neg (fun h => control h.2), if_neg control, if_neg control, clear]
    dsimp only
    rw [State.mode_countFrame, State.rd_countFrame (by decide)]

/-- A MAC control frame is taken as its opcode says (R168, R258). -/
theorem State.macControl_other (pause : beAt bs 14 2 ≠ 0x0001) (pfc : beAt bs 14 2 ≠ 0x0101) :
    s.macControl p off bs = .next ((s.countRx p (bs.length + 4)).bump (Od.rxMacControlDiscarded p)) := by
  unfold State.macControl
  split
  · contradiction
  · contradiction
  · rfl

end

/-- Settles O23: by the link, the length, the EtherType and, of MAC control frames, the opcode. -/
theorem framesAreReceived : Obligations.FramesAreReceived := by
  unfold Obligations.FramesAreReceived
  intro p off bs good s u moved
  refine ⟨fun down => ?_, fun up runt => ?_, fun up whole plain other => ?_, fun up whole plain control =>
    ⟨fun long => ?_, fun short bad => ?_, fun short sound => ⟨fun pause => ?_, fun pfc => ?_, fun pause pfc => ?_⟩⟩⟩
  · subst moved
    have isDown : (!(s.moveTo off).up p) = true := by simp [down]
    exact (if_pos isDown :)
  · subst moved
    have isUp : ¬ (!(s.moveTo off).up p) = true := by simp [up]
    exact ((if_neg isUp).trans (if_pos runt) :)
  · rw [exec_frameReceive moved up whole plain, if_neg other]
    rfl
  · rw [exec_frameReceive moved up whole plain, if_pos control, if_pos long]
  · rw [exec_frameReceive moved up whole plain, if_pos control, if_neg (Nat.not_lt.mpr short), bad]
    rfl
  · rw [exec_frameReceive moved up whole plain, if_pos control, if_neg (Nat.not_lt.mpr short), if_pos sound,
      State.macControl, pause]
    rfl
  · rw [exec_frameReceive moved up whole plain, if_pos control, if_neg (Nat.not_lt.mpr short), if_pos sound,
      State.macControl, pfc]
    rfl
  · rw [exec_frameReceive moved up whole plain, if_pos control, if_neg (Nat.not_lt.mpr short), if_pos sound,
      State.macControl_other pause pfc]

end Sys2Proof.Machine
end

section
/-! PROOFS. Proofs/SwitchCore.lean: arrivals, admission, parked frames and the transmitter of a port (R183 to R188, R202, R317,
R318, R330). -/

namespace Sys2Proof.Machine

/-! ### The order of arrivals -/

/-- `arrivalBefore` orders by source, then by handle (log entry 133). -/
theorem arrivalBefore_iff (a b : Transit) :
    arrivalBefore a b = true ↔ a.src < b.src ∨ a.src = b.src ∧ a.frame.id ≤ b.frame.id := by
  unfold arrivalBefore
  by_cases same : a.src = b.src
  · simp [same]
  · simp [same]

theorem arrivalBefore_trans (a b c : Transit) (ab : arrivalBefore a b = true) (bc : arrivalBefore b c = true) :
    arrivalBefore a c = true := by
  rw [arrivalBefore_iff] at *
  omega

theorem arrivalBefore_total (a b : Transit) : (arrivalBefore a b || arrivalBefore b a) = true := by
  rw [Bool.or_eq_true, arrivalBefore_iff, arrivalBefore_iff]
  omega

/-! ### Arrivals -/

section
variable (s : State) (x : Transit)

/-- A frame for a core arrives behind those of its source that set out before it for it (R185). -/
theorem State.arrive_core {d : Nat} (dst : x.dst = .queue d) (core : isCoreDest d = true) :
    s.arrive x = (((s.switch.transit.takeWhile (· != x)).filter (fun y => y.src == x.src && y.dst == x.dst &&
      y.relay == x.relay)).foldl State.arriveOne s).arriveOne x := by
  rw [State.arrive, dst]
  exact if_pos core

/-- Any other arrives by itself. -/
theorem State.arrive_other (other : ∀ d, x.dst = .queue d → isCoreDest d = false) : s.arrive x = s.arriveOne x := by
  unfold State.arrive
  dsimp only
  split
  · next d dst => exact if_neg (ne_true_of_eq_false (other d dst))
  · rfl

/-- The state once the first brick of a copy is written at its tile. -/
def State.landed : State :=
  ({ s with switch := { s.switch with transit := s.switch.transit.erase x } } : State).firstWritten x.src
    (x.relay.getD (s.dstTile x.dst)) x.vn x.frame.id

theorem State.arriveOne_port {p : PortId} (dst : x.dst = .port p) :
    s.arriveOne x = ((s.landed x).handedOver p x.frame).arriveAtPort p (unlessStamped x.frame) := by
  obtain ⟨frame, _, src, vn, relay, late⟩ := x
  subst dst
  cases relay <;> rfl

theorem State.arriveOne_aligned {q : Fin 256} (dst : x.dst = .aligned q) :
    s.arriveOne x = (s.landed x).arriveAligned q.val x.frame := by
  obtain ⟨frame, _, src, vn, relay, late⟩ := x
  subst dst
  cases relay <;> rfl

theorem State.arriveOne_queue {d : Nat} (dst : x.dst = .queue d) (relay : x.relay = none) :
    s.arriveOne x = if x.frame.bad then (s.landed x).dropCopy x.frame else (s.landed x).toQueue d x.frame x.late none := by
  obtain ⟨frame, _, src, vn, _, late⟩ := x
  subst dst relay
  rfl

theorem State.arriveOne_relay {d r : Nat} (dst : x.dst = .queue d) (relay : x.relay = some r) :
    s.arriveOne x =
      if (s.landed x).coreRoom ((s.landed x).dstTile x.dst) x.frame.bricks x.frame.cls then
        (s.landed x).setOut { x with
          src := r, vn := frameVn x.frame.cls r ((s.landed x).dstTile x.dst) false, relay := none }
      else ((s.landed x).coreDrop (d % 2 ^ 30)).dropCopy x.frame := by
  obtain ⟨frame, _, src, vn, _, late⟩ := x
  subst dst relay
  rfl

end

/-- A parked frame moves to an egress queue that is up and takes it (R187, R188). -/
theorem exec_parkedFrameMove {p : PortId} {c : ClassId} {off q n : Nat} {f : Frame} {l : List (Frame × Nat × Nat)} {s u : State}
    (moved : u = s.moveTo off) (parked : (u.ingress p c).parked = (f, q, n) :: l) (up : u.up q = true)
    (fits : u.fits q c n = true) (room : f.launch.isSome = true → (u.egress q).launch.length < 4096) :
    exec (.parkedFrameMove p c off) s =
      .next ((((((u.setIngress p c { u.ingress p c with parked := l }).wr (Od.headroomHeld (p / 8))
        (u.rd (Od.headroomHeld (p / 8)) - n)).poolGave (p / 8) n).carryFrame (p / 8) (q / 8) 1 f.len f.cls f.id).takeIn q f
          (u.mode == 2)).pfcCheck p c) := by
  subst moved
  change execParkedFrameMove p c off s = _
  unfold execParkedFrameMove
  generalize s.moveTo off = u at *
  have listed : (f.launch.isSome && decide (4096 ≤ (u.egress q).launch.length)) = false := by
    cases launch : f.launch.isSome with
    | false => rfl
    | true => simpa using room launch
  simp only [parked]
  exact congrArg Host.Outcome.next ((if_pos (by rw [up, fits]; rfl)).trans (if_neg (ne_true_of_eq_false listed)))

/-- Settles O24: the arrivals of an instant in their order, each arrival by its destination, parked frames and refreshes. -/
theorem switchCommands : Obligations.SwitchCommands := by
  unfold Obligations.SwitchCommands
  refine ⟨fun id off d x s alone found => ?_, fun id off d s => ⟨_, rfl, ?_, ?_, fun x => ?_⟩,
    fun x s => ⟨s.arrive_other x, fun d => s.arrive_core x⟩, fun x s u landed => ?_,
    fun p c off f q n l s u moved parked up fits room => exec_parkedFrameMove moved parked up fits room,
    fun p c s lossless xoff cause inCourse => ?_⟩
  · change execFirstBrickArrival id d off s = _
    simp [execFirstBrickArrival, alone, found]
  · exact (List.pairwise_mergeSort arrivalBefore_trans arrivalBefore_total _).imp (fun h => (arrivalBefore_iff _ _).mp h)
  · exact (List.mergeSort_perm _ _).nodup_iff.mpr (List.nodup_dedup _)
  · rw [(List.mergeSort_perm _ _).mem_iff, List.mem_dedup, List.mem_filterMap]
    rfl
  · subst landed
    exact ⟨fun p => s.arriveOne_port x, fun q => s.arriveOne_aligned x, fun d => s.arriveOne_queue x,
      fun d r => s.arriveOne_relay x⟩
  · exact congrArg Host.Outcome.next (if_pos (by rw [lossless, xoff, cause, decide_eq_true inCourse]; rfl))

/-! ### Admission -/

/-- Settles O25: the definitions of the limit, the test and the share, with at least one port of the tile. -/
theorem admissionLimit : Obligations.AdmissionLimit := by
  unfold Obligations.AdmissionLimit
  refine ⟨fun s p c => rfl, fun s p c n => ?_, fun s p set => if_neg set, fun s p unset ports => ?_⟩
  · simp [State.fits]
  · have some_port : max 1 (s.tilePorts (p / 8)).length = (s.tilePorts (p / 8)).length :=
      Nat.max_eq_right (List.length_pos_of_ne_nil ports)
    exact (if_pos unset).trans (by rw [some_port])

/-! ### The transmitter -/

/-- Settles O26: each command under its own condition. -/
theorem egressCommands : Obligations.EgressCommands := by
  unfold Obligations.EgressCommands
  refine ⟨fun _ _ _ => rfl, fun p off f l s u moved list due => ?_, fun p off x e s u moved sending ends ended v counted => ?_,
    fun p off x s u moved sending mode ends was now => ?_⟩
  · subst moved
    change execLaunchDue p off s = _
    simp only [execLaunchDue, list, List.head?_cons]
    exact congrArg Host.Outcome.next (if_pos due)
  · subst moved counted
    change execTransmitEnd p off s = _
    unfold execTransmitEnd
    generalize s.moveTo off = u at *
    simp only [sending, ends]
    exact congrArg Host.Outcome.next (if_neg (Nat.not_lt.mpr ended))
  · subst moved
    change execGateEvent p off s = _
    unfold execGateEvent
    generalize s.moveTo off = u at *
    simp only [sending]
    exact congrArg Host.Outcome.next (if_pos ⟨mode, ends, was, now⟩)

end Sys2Proof.Machine
end

section
/-! PROOFS. Proofs/Wall.lean: timers of forwarding and classification (R250, R280) and the Wall (R243 to R249). -/

namespace Sys2Proof.Machine

/-- Settles O27: each timer under its own condition. -/
theorem forwardingTimers : Obligations.ForwardingTimers := by
  unfold Obligations.ForwardingTimers
  refine ⟨fun r m s due => congrArg Host.Outcome.next (if_pos due), fun r s due unreported => ?_,
    fun n s due => congrArg Host.Outcome.next (if_pos due), fun n s due => congrArg Host.Outcome.next (if_pos due)⟩
  exact congrArg Host.Outcome.next (if_pos (by rw [due, unreported]; rfl))

/-- The value that is put is the one listed under its key. -/
theorem tblGet_map_some_tblPut {α : Type} (t : List (Nat × α)) (k : Nat) (v : α) :
    tblGet none ((tblPut t k v).map (fun e => (e.1, some e.2))) k = some v := by
  induction t with
  | nil => simp [tblPut, tblGet]
  | cons e t ih =>
    obtain ⟨j, w⟩ := e
    unfold tblPut
    split
    · simp [tblGet]
    · split
      · simp [tblGet]
      · next ne => simpa [tblGet, ne] using ih

/-- A hop delay counts a stamp that is not valid, and changes nothing else. -/
theorem State.rd_hopDelay (s : State) {p k : Nat} {h : WallHeader} (ne : k ≠ Od.hopStampInvalid) :
    (s.hopDelay p h).1.rd k = s.rd k := by
  unfold State.hopDelay
  dsimp only
  split
  · exact s.rd_bump_ne ne
  · rfl

/-- The courses of a port's hellos within the last interval (R249). -/
def State.recentHellos (s : State) (p : Nat) : List Int :=
  (tblGet [] s.wall.hellos p).filter (fun c => (s.course : Int) < c + s.msCourses (s.rd Od.helloInterval))

/-- The state in which a hello has set its neighbour's entry and armed its timer (R243). -/
def State.heard (s : State) (p : Nat) (h : WallHeader) : State :=
  let s1 := (s.hopDelay p h).1
  ({ s1 with wall.hellos := tblPut s1.wall.hellos p (s1.course :: s.recentHellos p),
             wall.neighbours := tblPut s1.wall.neighbours (512 * p + h.deviceId % 512) ⟨h, (s.hopDelay p h).2⟩,
             wall.changed := true } : State).arm (tmNeighbour p (h.deviceId % 512))

/-- What a hello of the own DeviceId and another clock brings (R247). -/
def State.clash (t : State) (p : Nat) (h : WallHeader) : State :=
  let clash := h.deviceId == t.rd Od.wallDeviceId && h.clockIdentity != t.clockIdentity
  let k := 512 * p + h.deviceId % 512
  let s4 := if clash && !t.wall.conflicts.contains k then
      ({ t with wall.conflicts := k :: t.wall.conflicts }).raise 0x5A05 k else t
  if clash && h.clockIdentity < s4.clockIdentity then
    { s4 with wall.yielded := some (s4.rd Od.wallDeviceId) } else s4

theorem State.clash_of_ne {t : State} (p : Nat) {h : WallHeader} (other : h.deviceId ≠ t.rd Od.wallDeviceId) :
    t.clash p h = t := by
  simp [State.clash, other]

section
variable {p : PortId} {off : Nat} {h : WallHeader} {s u : State}

/-- A hello of this Wall within the rate, of another device, is heard and judged (R243 to R245). -/
theorem exec_wallHello_heard (moved : u = s.moveTo off) (up : u.up p = true) (port : u.rdB (Od.wallPort p) = true)
    (ours : u.wallOurs h = true) (rate : (u.recentHellos p).length < 8) (other : h.deviceId ≠ u.rd Od.wallDeviceId) :
    exec (.wallHello p off h) s = .next (u.heard p h).wallJudge.helloCheck := by
  subst moved
  change execWallHello p off h s = _
  unfold execWallHello
  generalize s.moveTo off = u at *
  have device : (u.heard p h).rd Od.wallDeviceId = u.rd Od.wallDeviceId := u.rd_hopDelay (by decide)
  have calm := State.clash_of_ne (t := u.heard p h) p (h := h) (device ▸ other)
  simp only [up, port, ours, Bool.not_true, Bool.false_eq_true, if_false]
  exact congrArg Host.Outcome.next ((if_neg (Nat.not_le.mpr rate)).trans
    (congrArg (fun t => t.wallJudge.helloCheck) calm))

/-- Any other hello on such a port is counted. -/
theorem exec_wallHello_counted (moved : u = s.moveTo off) (up : u.up p = true) (port : u.rdB (Od.wallPort p) = true) :
    (u.wallOurs h = false → exec (.wallHello p off h) s = .next (u.bump Od.wallForeign)) ∧
    (u.wallOurs h = true → 8 ≤ (u.recentHellos p).length → exec (.wallHello p off h) s = .next (u.bump Od.helloDiscarded)) := by
  subst moved
  change (_ → execWallHello p off h s = _) ∧ (_ → _ → execWallHello p off h s = _)
  unfold execWallHello
  generalize s.moveTo off = u at *
  simp only [up, port, Bool.not_true, Bool.false_eq_true, if_false]
  constructor
  · intro foreign
    exact congrArg Host.Outcome.next (if_pos (by rw [foreign]; rfl))
  · intro ours rate
    exact congrArg Host.Outcome.next ((if_neg (by simp [ours])).trans (if_pos rate))

end

/-- Settles O28: each command under its own condition. -/
theorem wallCommands : Obligations.WallCommands := by
  unfold Obligations.WallCommands
  refine ⟨fun off s u moved unarmed => ?_, fun p off h s u moved up port => ?_,
    fun p d s due => congrArg Host.Outcome.next (if_pos due), fun p off h s => ⟨rfl, rfl⟩,
    fun p off h l s u taken delivered mode => ?_⟩
  · subst moved
    exact congrArg Host.Outcome.next (if_pos (by rw [unarmed]; rfl))
  · obtain ⟨foreign, discarded⟩ := exec_wallHello_counted (h := h) moved up port
    exact ⟨foreign, discarded, fun ours rate other => ⟨u.heard p h, exec_wallHello_heard moved up port ours rate other,
      tblGet_map_some_tblPut _ _ _, State.armed_arm _ _, rfl⟩⟩
  · change execWallSync p off h l s = _
    have notFive : (u.rd Od.modeInForce == 5) = false := beq_eq_false_iff_ne.mpr mode
    simp only [execWallSync, delivered, notFive, Bool.and_false, Bool.false_eq_true, if_false]

end Sys2Proof.Machine
end

section
/-! PROOFS. Proofs/Learning.lean: which entries of the filtering database are seen and learnt (R229, R230, R235). -/

namespace Sys2Proof.Machine

/-! ### What a notification of learning leaves as it is

A learn limit is entry 4 of its port, and no counter on the way of a record to its queue has that place. -/

/-- What both branches read, the choice reads. -/
theorem State.rd_ite {c : Prop} [Decidable c] {s t : State} {k v : Nat} (pos : s.rd k = v) (neg : t.rd k = v) :
    (if c then s else t).rd k = v := by
  split
  · exact pos
  · exact neg

section
variable {s : State} {k : Nat} (place : k % 256 = 4) (high : 0x530000 ≤ k)
include place high

theorem State.rd_raise_place4 (code param : Nat) : (s.raise code param).rd k = s.rd k := by
  have newest : k ≠ Od.newestEvent := by unfold Od.newestEvent; omega
  have oldest : k ≠ Od.oldestEvent := by unfold Od.oldestEvent; omega
  have overwritten : k ≠ Od.eventsOverwritten := by unfold Od.eventsOverwritten; omega
  have suppressed : k ≠ Od.eventsSuppressed := by unfold Od.eventsSuppressed; omega
  exact s.rd_raise_ne code param newest oldest overwritten suppressed

theorem State.rd_raiseLimited_place4 (code inst n param : Nat) : (s.raiseLimited code inst n param).rd k = s.rd k := by
  unfold State.raiseLimited
  dsimp only
  split
  · exact State.rd_raise_place4 place high code param
  · rfl

theorem State.rd_poolRefused_place4 (pool : Nat) : (s.poolRefused pool).rd k = s.rd k := by
  have failures : k ≠ Od.allocFailures pool := by unfold Od.allocFailures; omega
  exact (State.rd_raiseLimited_place4 place high _ _ _ _).trans (s.rd_bump_ne failures)

theorem State.rd_poolTook_place4 (pool n : Nat) : (s.poolTook pool n).rd k = s.rd k := by
  have took : k ≠ Od.allocations pool := by unfold Od.allocations; omega
  have low : k ≠ Od.freeMin pool := by unfold Od.freeMin; omega
  have counted : ((s.addTo (Od.allocations pool) n).wr (Od.freeMin pool) (min (s.rd (Od.freeMin pool)) (s.poolFree pool))).rd k =
      s.rd k := (State.rd_wr_ne _ _ low).trans (s.rd_addTo_ne n took)
  unfold State.poolTook
  dsimp only
  split
  · exact (State.rd_raiseLimited_place4 place high _ _ _ _).trans counted
  · exact counted

theorem State.rd_poolTake_place4 (pool n : Nat) : (s.poolTake pool n).rd k = s.rd k :=
  State.rd_poolTook_place4 place high pool n

theorem State.rd_takeUnit_place4 (pool owner : Nat) : (s.takeUnit pool owner).1.rd k = s.rd k :=
  State.rd_poolTook_place4 place high pool 1

theorem State.rd_takeUnits_place4 (pool owner n : Nat) : (s.takeUnits pool owner n).1.rd k = s.rd k := by
  induction n generalizing s with
  | zero => rfl
  | succ n ih => exact ih.trans (State.rd_takeUnit_place4 place high pool owner)

theorem State.rd_toCore_place4 (n : Nat) (bytes : List Byte) (cls : Nat) (kind : String) :
    (s.toCore n bytes cls kind).rd k = s.rd k := by
  unfold State.toCore
  exact State.rd_ite (State.rd_poolRefused_place4 place high _) (State.rd_takeUnits_place4 place high _ _ _)

omit place high in
/-- A record of the device itself owes no completion and is charged to no port. -/
theorem State.rd_dropCopy_plain (id : Nat) (bytes : List Byte) (stamp course : Nat) :
    (s.dropCopy (Frame.plain id bytes stamp course)).rd k = s.rd k := by
  unfold State.dropCopy
  dsimp only
  rw [if_neg (fun h => absurd h.2 (by decide : ¬ 0x400 < 256))]
  rfl

omit place high in
theorem State.rd_holdCopy_plain (id : Nat) (bytes : List Byte) (stamp course : Nat) :
    (s.holdCopy (Frame.plain id bytes stamp course)).rd k = s.rd k := by
  unfold State.holdCopy
  dsimp only
  rw [if_neg (fun h => absurd h.2 (by decide : ¬ 0x400 < 256))]
  rfl

theorem State.rd_toHostQueue_place4 (dest id : Nat) (bytes : List Byte) (stamp course : Nat) (late : Bool) (via : Option Nat) :
    (s.toHostQueue dest (Frame.plain id bytes stamp course) late via).rd k = s.rd k := by
  have halted : k ≠ Od.rxHalted (s.destFn dest) := by unfold Od.rxHalted; omega
  have drops : k ≠ Od.hodRxDrops (0x34 + s.destFn dest / 8) := by unfold Od.hodRxDrops; omega
  unfold State.toHostQueue
  dsimp only
  split
  · exact State.rd_dropCopy_plain ..
  · split
    · exact (State.rd_dropCopy_plain ..).trans (s.rd_bump_ne halted)
    · split
      · exact (State.rd_dropCopy_plain ..).trans ((State.rd_bump_ne _ drops).trans (State.rd_poolRefused_place4 place high _))
      · split
        · exact State.rd_poolTake_place4 place high _ _
        · rfl

theorem State.rd_toQueue_place4 (dest id : Nat) (bytes : List Byte) (stamp course : Nat) (late : Bool) (via : Option Nat) :
    (s.toQueue dest (Frame.plain id bytes stamp course) late via).rd k = s.rd k := by
  unfold State.toQueue
  split
  · exact State.rd_toHostQueue_place4 place high ..
  · split
    · exact (State.rd_dropCopy_plain ..).trans (State.rd_toCore_place4 place high _ _ _ _)
    · exact State.rd_dropCopy_plain ..

theorem State.rd_sendRecord_place4 (dest : Nat) (bytes : List Byte) : (s.sendRecord dest bytes).1.rd k = s.rd k := by
  unfold State.sendRecord
  split
  · rfl
  · exact (State.rd_toQueue_place4 place high ..).trans (State.rd_holdCopy_plain ..)

theorem State.rd_learnNotify_place4 (kind fid mac old new : Nat) : (s.learnNotify kind fid mac old new).rd k = s.rd k := by
  have drops : k ≠ Od.notifyDrops := by unfold Od.notifyDrops; omega
  unfold State.learnNotify
  dsimp only
  split
  · rfl
  · split
    · exact s.rd_bump_ne drops
    · exact State.rd_sendRecord_place4 place high _ _

theorem State.rd_setFdb_place4 (t : List (Nat × FdbEntry)) : (s.setFdb t).rd k = s.rd k := by
  have die : k ≠ Od.fdbOccupancyDie := by unfold Od.fdbOccupancyDie; omega
  have hbm : k ≠ Od.fdbOccupancyHbm := by unfold Od.fdbOccupancyHbm; omega
  have oldest : k ≠ Od.fdbOldestGen := by unfold Od.fdbOldestGen; omega
  unfold State.setFdb
  dsimp only
  split
  · exact (State.rd_wr_ne _ _ hbm).trans (State.rd_wr_ne _ _ die)
  · exact (State.rd_wr_ne _ _ oldest).trans ((State.rd_wr_ne _ _ hbm).trans (State.rd_wr_ne _ _ die))

end

/-! ### Visibility -/

/-- The serial order of generations (R229). -/
theorem serialAfter_iff (a b : Nat) :
    serialAfter a b = true ↔ 1 ≤ (a + 65536 - b % 65536) % 65536 ∧ (a + 65536 - b % 65536) % 65536 ≤ 32767 := by
  simp [serialAfter]

/-- An entry that is found is not of a later generation (R235). -/
theorem State.fdbFind_visible {s : State} {fid mac : Nat} {e : FdbEntry} (found : s.fdbFind fid mac = some e) :
    serialAfter e.gen (s.rd Od.fdbCurrentGen) = false := by
  obtain ⟨⟨key, x⟩, listed, rfl⟩ := Option.map_eq_some_iff.mp found
  have seen := List.find?_some listed
  simp only [Bool.and_eq_true, Bool.not_eq_true'] at seen
  exact seen.2

/-- A port without a learn limit never reaches it. -/
theorem State.limitReached_of_none {s : State} {p a fid mac : Nat} (unlimited : s.rd (Od.maxLearned a) = 0) :
    s.limitReached p a fid mac = s := if_neg (fun h => h.1 unlimited)

/-- Settles O29: by `fdbFind_visible`; a learnt entry on a port without a limit is placed and notified, no more. -/
theorem fdbVisibility : Obligations.FdbVisibility := by
  unfold Obligations.FdbVisibility
  refine ⟨fun s fid mac e found later => ?_, serialAfter_iff, fun s p a fid mac notStatic rate unlimited x placed => ?_⟩
  · exact absurd ((serialAfter_iff _ _).mpr later) (ne_true_of_eq_false (State.fdbFind_visible found))
  · have place : Od.maxLearned a % 256 = 4 := by unfold Od.maxLearned; omega
    have high : 0x530000 ≤ Od.maxLearned a := by unfold Od.maxLearned; omega
    have limit : (((s.countLearn (p / 8)).setFdb (tblPut s.fwd.fdb (fdbKey fid mac) x)).learnNotify 1 fid mac p p).rd
        (Od.maxLearned a) = 0 :=
      (State.rd_learnNotify_place4 place high _ _ _ _ _).trans ((State.rd_setFdb_place4 place high _).trans unlimited)
    rw [← State.limitReached_of_none (p := p) (fid := fid) (mac := mac) limit]
    unfold State.learnNew
    simp only [notStatic, Bool.false_eq_true, if_false, if_neg (Nat.not_le.mpr rate), unlimited, State.fdbGen, placed]
    exact if_neg (fun h => h.1 rfl)

end Sys2Proof.Machine
end

section
/-! PROOFS. Proofs/LookAside.lean: look-aside requests and their progress (R345, R346, R355 to R364). -/

namespace Sys2Proof.Machine

/-! ### Requests -/

/-- Each of the twelve requests of its operation fetches its descriptor for that operation. -/
theorem exec_lookAside {c : Instr} {op : Nat} {q : LookReq} (s : State)
    (request : (c = .gcmEncrypt q ∧ op = 1) ∨ (c = .gcmDecrypt q ∧ op = 2) ∨ (c = .gmacGenerate q ∧ op = 3) ∨
      (c = .gmacVerify q ∧ op = 4) ∨ (c = .xtsEncrypt q ∧ op = 5) ∨ (c = .xtsDecrypt q ∧ op = 6) ∨
      (c = .cmacGenerate q ∧ op = 7) ∨ (c = .cmacVerify q ∧ op = 8) ∨ (c = .sha384 q ∧ op = 9) ∨
      (c = .hmacGenerate q ∧ op = 10) ∨ (c = .hmacVerify q ∧ op = 11) ∨ (c = .unwrapKey q ∧ op = 12)) :
    exec c s = .next (s.lookAside op q) := by
  rcases request with ⟨rfl, rfl⟩ | ⟨rfl, rfl⟩ | ⟨rfl, rfl⟩ | ⟨rfl, rfl⟩ | ⟨rfl, rfl⟩ | ⟨rfl, rfl⟩ | ⟨rfl, rfl⟩ | ⟨rfl, rfl⟩ |
    ⟨rfl, rfl⟩ | ⟨rfl, rfl⟩ | ⟨rfl, rfl⟩ | ⟨rfl, rfl⟩ <;> rfl

/-- The entry into its cluster of a request of a core or of the Keystone, whose operands come with it. -/
def State.ownRequest (u : State) (op kind number link : Nat) (q : LookReq) : CipherReq :=
  { id := u.cipher.nextReq, kind := kind, number := number, link := link, descriptor := q.descriptor.toNat,
    slot := u.keySlot (if op = 0xC then laKek q.descriptor.toNat else laSlot q.descriptor.toNat),
    parts := [(0, q.source.take (laLength q.descriptor.toNat)), (2 ^ 32, q.aad.take (laAad q.descriptor.toNat))]
      ++ (if laVerifies q.descriptor.toNat then [(2 ^ 33, q.tag.take (laTag q.descriptor.toNat))] else []),
    ready := true, refused := u.laRefused kind number q.descriptor.toNat }

/-- A request of a core that may run, or of the Keystone, enters its cluster ready (R346, R364). -/
theorem State.lookAside_own {s u : State} {op k n link : Nat} {q : LookReq} (moved : u = s.moveTo q.off)
    (origin : lookKind q.origin = (k, n, link)) (own : k ≠ 0)
    (usable : k = 1 → coreUsable (u.rd Od.modeInForce) n = true) (operation : laOp q.descriptor.toNat = op) :
    s.lookAside op q = (({ u with cipher := { u.cipher with nextReq := u.cipher.nextReq + 1 } } : State).addTo
      (Od.requestsAtUrgency (0x30 + q.tile.val) (laUrgency q.descriptor.toNat)) 1).enterCluster q.tile.val
        (u.ownRequest op k n link q) := by
  subst moved
  have runs : (k == 1 && !coreUsable ((s.moveTo q.off).rd Od.modeInForce) n) = false := by
    by_cases core : k = 1
    · rw [usable core, Bool.not_true, Bool.and_false]
    · simp [core]
  have notHost : (k != 0) = true := bne_iff_ne.mpr own
  unfold State.lookAside
  simp only [origin, operation, runs, notHost, if_neg own, Bool.true_or, if_true]
  rw [if_neg (by simp), if_neg (fun host => own host.1)]
  rfl

/-- Settles O34: `exec_lookAside`, and `State.lookAside_own` for cores and the Keystone. -/
theorem lookAsideRequests : Obligations.LookAsideRequests := by
  unfold Obligations.LookAsideRequests
  intro c op q s u moved request
  refine ⟨exec_lookAside s request, fun k n source operation => ?_⟩
  have origin : lookKind q.origin = (k, n, 0) ∧ k ≠ 0 ∧ (k = 1 → coreUsable (u.rd Od.modeInForce) n = true) := by
    rcases source with ⟨rfl, usable, core, rfl, from'⟩ | ⟨rfl, rfl, from'⟩
    · exact ⟨by rw [from']; rfl, by decide, fun _ => usable⟩
    · exact ⟨by rw [from']; rfl, by decide, fun h => absurd h (by decide)⟩
  obtain ⟨kind, own, usable⟩ := origin
  have entered := State.lookAside_own moved kind own usable operation
  have number : u.cipher.nextReq = s.cipher.nextReq := by rw [moved]; rfl
  exact ⟨u.ownRequest op k n 0 q, _, (exec_lookAside s request).trans (congrArg Host.Outcome.next entered), number, rfl, rfl,
    rfl, rfl, rfl, rfl, rfl⟩

/-! ### Progress -/

/-- A free core of a cluster takes the most urgent request, a suspended one before a waiting one (R346). -/
theorem State.freeCore_suspended {s : State} {t : Nat} {a : CipherReq} (free : (s.cluster t).running.length < 8)
    (suspended : firstUrgent (s.cluster t).suspended = some a)
    (urgent : ∀ b, firstUrgent (s.cluster t).waiting = some b → laUrgency b.descriptor ≤ laUrgency a.descriptor) :
    s.freeCore t = s.setCluster t { s.cluster t with
      running := (s.cluster t).running ++ [a], suspended := (s.cluster t).suspended.filter (fun y => y.id != a.id) } := by
  unfold State.freeCore
  dsimp only
  rw [if_neg (Nat.not_le.mpr free), suspended]
  cases waiting : firstUrgent (s.cluster t).waiting with
  | none => rfl
  | some b => exact if_pos (decide_eq_true (urgent b waiting))

theorem State.freeCore_waiting {s : State} {t : Nat} {b : CipherReq} (free : (s.cluster t).running.length < 8)
    (suspended : firstUrgent (s.cluster t).suspended = none) (waiting : firstUrgent (s.cluster t).waiting = some b) :
    s.freeCore t = s.setCluster t { s.cluster t with
      running := (s.cluster t).running ++ [b], waiting := (s.cluster t).waiting.filter (fun y => y.id != b.id) } := by
  unfold State.freeCore
  dsimp only
  rw [if_neg (Nat.not_le.mpr free), suspended, waiting]

/-- The slot a request takes its key from. -/
def CipherReq.slotNumber (x : CipherReq) : Nat := if laOp x.descriptor = 0xC then laKek x.descriptor else laSlot x.descriptor

/-- The use of a request's slot is counted while it still holds the key of the decision point. -/
def State.laUsed (s : State) (x : CipherReq) : State :=
  if laOp x.descriptor = 0x9 ||
      !((s.keySlot x.slotNumber).key == x.slot.key && (s.keySlot x.slotNumber).algorithm == x.slot.algorithm) then s
  else s.useSlot x.slotNumber

theorem State.laUsed_eq (s : State) (x : CipherReq) :
    s.laUsed x = if laOp x.descriptor ≠ 9 ∧ (s.keySlot x.slotNumber).key = x.slot.key ∧
      (s.keySlot x.slotNumber).algorithm = x.slot.algorithm then s.useSlot x.slotNumber else s := by
  by_cases sha : laOp x.descriptor = 9
  · simp [State.laUsed, sha]
  · by_cases held : (s.keySlot x.slotNumber).key = x.slot.key ∧ (s.keySlot x.slotNumber).algorithm = x.slot.algorithm
    · simp [State.laUsed, sha, held]
    · rw [if_neg (fun h => held h.2)]
      exact if_pos (by simpa [sha] using not_and_or.mp held)

/-- The data and the tag of a request are written. -/
def State.laWritten (s : State) (t : Nat) (x : CipherReq) (out tag : Option (List Byte)) : State :=
  (s.laWrite t x "look-aside data" (bitField x.descriptor 191 128) (bitOf x.descriptor 501) (out.getD [])).laWrite t x
    "look-aside tag" (bitField x.descriptor 127 64) (bitOf x.descriptor 501) (tag.getD [])

/-- An unwrapped key is loaded at the next course. -/
def State.laLoaded (s : State) (x : CipherReq) : Option (List Byte) → State
  | some k => { s with agent := { s.agent with crs := s.agent.crs ++ [CrsWrite.mk 0 (Item.raw Od.keyLoad
      (beBytes 2 (laSlot x.descriptor) ++ beBytes 1 (laAlgorithm x.descriptor) ++ beBytes 1 0 ++ beBytes 2 0
        ++ beBytes 2 k.length ++ k)) s.applyCourse] } }
  | none => s

/-- The end of a request that was computed, by what its operation gives. -/
def State.laCompleted (s : State) (t : Nat) (x : CipherReq) :
    Nat × Option (List Byte) × Option (List Byte) × Option (List Byte) → State
  | (status, out, tag, key) =>
    let v := ((s.laUsed x).laWritten t x out tag).laLoaded x key
    (if status = 8 then v.raise 0x7A05 (laSlot x.descriptor) else v).laFinish t x status

/-- A completion by the request that runs, an older one of its source and a refusal (R345). -/
theorem exec_lookAsideCompletion (t : Fin 4) (id : Nat) (s : State) :
    exec (.lookAsideCompletion t id) s = .next (match (s.cluster t).running.find? (fun x => x.id == id) with
      | none => s
      | some x =>
        if ((s.cluster t).running ++ (s.cluster t).suspended ++ (s.cluster t).waiting).any
            (fun y => y.kind == x.kind && y.number == x.number && decide (y.id < x.id)) = true then s
        else match x.refused with
          | some status => s.laFinish t x status
          | none => s.laCompleted t x (laCompute x)) := rfl

/-- Settles O35: `exec_lookAsideCompletion` for the request that runs, `State.freeCore` for a free core. -/
theorem lookAsideProgress : Obligations.LookAsideProgress := by
  unfold Obligations.LookAsideProgress
  refine ⟨fun t id status x s running refused first => ?_,
    fun t id n status out tag key x s used u running accepted first computed slot counted written => ?_,
    fun t a s free suspended urgent => congrArg Host.Outcome.next (State.freeCore_suspended free suspended urgent),
    fun t b s free suspended waiting => congrArg Host.Outcome.next (State.freeCore_waiting free suspended waiting)⟩
  · rw [exec_lookAsideCompletion, running]
    dsimp only
    rw [if_neg (ne_true_of_eq_false first), refused]
  · have completed : exec (.lookAsideCompletion t id) s = .next (s.laCompleted t x (status, out, tag, key)) := by
      rw [exec_lookAsideCompletion, running]
      dsimp only
      rw [if_neg (ne_true_of_eq_false first), accepted, computed]
    have wrote : u = (s.laUsed x).laWritten t x out tag := by
      rw [written, counted, slot, State.laUsed_eq]
      rfl
    constructor
    · rintro rfl
      rw [completed, wrote]
      rfl
    · rintro k v rfl loaded
      rw [completed, loaded, wrote]
      rfl

end Sys2Proof.Machine
end

section
/-! PROOFS. Proofs/HostQueues.lean: host queue pairs and delivery to a host (R399 to R404, R412, R418, R433). -/

namespace Sys2Proof.Machine

/-! ### Queue pairs -/

section
variable {k : QueueRef} {s : State}

/-- Enabling a queue pair of an open area that is not enabled: refused, or from the restored state, or from 0 (R399). -/
theorem exec_queueEnable (opened : s.areaOpen k = true) (off : (s.qp (qrKey k)).enable = false) :
    exec (.queueEnable k) s = .next (if s.enableRefused k (s.qp (qrKey k)) = true then
      s.setQp (qrKey k) { s.qp (qrKey k) with refused := true }
    else
      let (t, r, c, ph) := (s.qp (qrKey k)).restored.getD (0, 0, 0, true)
      s.setQp (qrKey k) { s.qp (qrKey k) with
        enable := true, refused := false, restored := none, txHead := t, txTail := t, rxHead := r, rxTail := r, rxFetch := r,
        rxDescs := [], cqTail := c, cqHead := c, phase := ph, cqUsed := 0, cqWaiting := [], armed := false, unsignalled := [],
        building := [] }) :=
  congrArg Host.Outcome.next (if_neg (by rw [opened, off]; decide))

/-- A tail of an enabled queue pair with a ring is admitted. -/
theorem tail_admitted {log : Nat} (opened : s.areaOpen k = true) (on : (s.qp (qrKey k)).enable = true) (ring : ringSize log ≠ 0) :
    (s.areaOpen k && (s.qp (qrKey k)).enable && ringSize log != 0) = true := by
  rw [opened, on, bne_iff_ne.mpr ring]; rfl

/-- Settles O37: each command under its own condition. -/
theorem hostQueueCommands : Obligations.HostQueueCommands := by
  unfold Obligations.HostQueueCommands
  intro k s opened
  refine ⟨fun off refused => (exec_queueEnable opened off).trans (congrArg Host.Outcome.next (if_pos refused)),
    fun off accepted t r c ph restored => ?_, congrArg Host.Outcome.next (if_pos opened),
    fun i on ring => congrArg Host.Outcome.next (if_pos (tail_admitted opened on ring)),
    fun i on ring => congrArg Host.Outcome.next (if_pos (tail_admitted opened on ring)),
    fun i arm on ring h used q head slots freed => ⟨fun stopped => ?_, fun runs => ?_⟩,
    fun may => ⟨congrArg Host.Outcome.next (if_neg (by rw [may]; decide)), fun pf1 => congrArg Host.Outcome.next
      ((if_neg (by rw [may]; decide)).trans ((if_neg (by decide)).trans (if_pos pf1)))⟩⟩
  · have from' : (s.qp (qrKey k)).restored.getD (0, 0, 0, true) = (t, r, c, ph) := by
      rcases restored with restored | ⟨restored, rfl, rfl, rfl, rfl⟩ <;> rw [restored] <;> rfl
    rw [exec_queueEnable opened off, if_neg (ne_true_of_eq_false accepted), from']
  · subst head slots freed
    exact congrArg Host.Outcome.next ((if_pos (tail_admitted opened on ring)).trans (if_pos stopped))
  · subst head slots freed
    exact congrArg Host.Outcome.next ((if_pos (tail_admitted opened on ring)).trans (if_neg (ne_true_of_eq_false runs)))

end

/-! ### Delivery -/

/-- The oldest frame for a queue pair has left its host tile with its bricks (R418). -/
def State.rxLeft (u : State) (k : QueueRef) (x : Rx) : State :=
  (if x.via.isNone then ({ u with switch := { u.switch with rx := u.switch.rx.erase x } } : State).poolGive (0x34 + qrFn k / 8)
      x.frame.bricks
    else { u with switch := { u.switch with rx := u.switch.rx.erase x } }).dropCopy x.frame

/-- The frame is written behind its exception header to the buffer of a descriptor (R403). -/
def State.rxWritten (u : State) (k : QueueRef) (poisoned : Bool) (x : Rx) (d : Nat) (rest : List Nat) (all : List Byte) : State :=
  ((u.rxLeft k x).setQp (qrKey k) { u.qp (qrKey k) with
    rxDescs := rest, rxHead := ((u.qp (qrKey k)).rxHead + 1) % max 1 (ringSize (u.qp (qrKey k)).rxLog) }).hostWrite (qrFn k)
    (some k.slice.val) (bitField d 127 64) (u.relaxedOk (qrFn k) (bitOf d 31)) poisoned (all.take (bitField d 63 48))

/-- The completion of a delivered frame (R403, R412). -/
def State.rxCompleted (w : State) (k : QueueRef) (poisoned : Bool) (x : Rx) (d length : Nat) : State :=
  (if poisoned then (w.bump (Od.poisonForwarded (qrFn k))).raiseLimited 0x8A06 (qrFn k) 1 (qrFn k) else w).cqWrite (qrKey k)
    (cqRecord (if x.frame.exc.isSome then 3 else 2) (if poisoned then 3 else 0) x.late (decide (x.frame.src < 256))
      x.frame.decrypted x.frame.cls x.via (bitField d 47 32) length x.frame.src x.frame.metaValue x.frame.ruleId x.frame.stamp)

/-- The bytes of a delivered frame, its exception header first. -/
def Rx.all (x : Rx) : List Byte := (match x.frame.exc with | some e => leBytes 16 e | none => []) ++ x.frame.bytes

/-- A delivery by what keeps it from a descriptor. -/
theorem exec_hostReceiveDelivery (k : QueueRef) (off : Nat) (poisoned : Bool) (s : State) :
    exec (.hostReceiveDelivery k off poisoned) s =
      .next (match (s.moveTo off).switch.rx.find? (fun x => (s.moveTo off).destQp x.dest == qrKey k) with
        | none => s.moveTo off
        | some x =>
          if ((s.moveTo off).qp (qrKey k)).halted = true then ((s.moveTo off).rxLeft k x).bump (Od.rxHalted (qrFn k))
          else if (s.moveTo off).quiescing k.slice.val = true then ((s.moveTo off).rxLeft k x).bumpSlice k.slice.val 0
          else if (!((s.moveTo off).qp (qrKey k)).enable || ((s.moveTo off).qp (qrKey k)).stopping ||
              ((s.moveTo off).qp (qrKey k)).rxHead == ((s.moveTo off).qp (qrKey k)).rxTail) = true then
            ((s.moveTo off).rxLeft k x).bump (Od.rxNoBuffer (qrFn k))
          else match ((s.moveTo off).qp (qrKey k)).rxDescs with
            | [] => s.moveTo off
            | d :: rest => ((s.moveTo off).rxWritten k poisoned x d rest (Rx.all x)).rxCompleted k poisoned x d (Rx.all x).length) := rfl

/-- A queue with coalescing is due once its oldest completion is old enough, or enough of them wait (R404). -/
def coalesceDue (now : Nat) (list : List Nat) (courses count : Nat) : Bool :=
  courses != 0 && (match list with
    | [] => false
    | c :: _ => decide (c + courses ≤ now) || (count != 0 && decide (count ≤ list.length)))

theorem coalesceDue_cons {c courses count now : Nat} {l : List Nat} (on : courses ≠ 0)
    (due : c + courses ≤ now ∨ count ≠ 0 ∧ count ≤ (c :: l).length) : coalesceDue now (c :: l) courses count = true := by
  simpa [coalesceDue, on] using due

/-- The interrupt of a due queue of storage (function 2) or of a host. -/
theorem exec_interruptCoalesce (k : QueueRef) (s : State) :
    exec (.interruptCoalesce k) s = .next (if k.fn.val = 2 then
      if ((s.nvq (qrKey k)).enable && !(s.nvq (qrKey k)).halted && (s.nvq (qrKey k)).armed && coalesceDue s.course
          (s.nvq (qrKey k)).unsignalled (s.nvq (qrKey k)).coalesceCourses (s.nvq (qrKey k)).coalesceCount) = true then
        (s.setNvq (qrKey k) { s.nvq (qrKey k) with armed := false, unsignalled := [] }).sliceInterrupt (qrFn k) k.slice.val
          (s.nvq (qrKey k)).vector
      else s
    else
      if ((s.qp (qrKey k)).enable && !(s.qp (qrKey k)).halted && (s.qp (qrKey k)).armed && coalesceDue s.course
          (s.qp (qrKey k)).unsignalled (s.qp (qrKey k)).coalesceCourses (s.qp (qrKey k)).coalesceCount) = true then
        (s.setQp (qrKey k) { s.qp (qrKey k) with armed := false, unsignalled := [] }).sliceInterrupt (qrFn k) k.slice.val
          (s.qp (qrKey k)).vector
      else s) := rfl

/-- Settles O38: `exec_hostReceiveDelivery`, and the condition of a due interrupt. -/
theorem hostDelivery : Obligations.HostDelivery := by
  unfold Obligations.HostDelivery
  refine ⟨fun k off poisoned x s u v moved found left => ?_, fun k c l s fn on halted armed set waiting due => ?_,
    fun k c l s fn on halted armed set waiting due => ?_⟩
  · rw [exec_hostReceiveDelivery, ← moved, found]
    have left' : u.rxLeft k x = v := left.symm
    dsimp only
    rw [left']
    refine ⟨fun halted => ?_, fun runs quiescing => ?_, fun runs serving none => ?_,
      fun d rest runs serving on goes some posted all w bytes written => ?_⟩
    · rw [if_pos halted]
    · rw [if_neg (ne_true_of_eq_false runs), if_pos quiescing]
    · rw [if_neg (ne_true_of_eq_false runs), if_neg (ne_true_of_eq_false serving), if_pos]
      rcases none with off | stopping | empty
      · simp [off]
      · simp [stopping]
      · simp [empty]
    · rw [if_neg (ne_true_of_eq_false runs), if_neg (ne_true_of_eq_false serving), if_neg (by simp [on, goes, some]), posted]
      subst written bytes left
      rfl
  · rw [exec_interruptCoalesce, if_neg fn, if_pos]
    rw [on, halted, armed, waiting, coalesceDue_cons set due]
    rfl
  · rw [exec_interruptCoalesce, if_pos fn, if_pos]
    rw [on, halted, armed, waiting, coalesceDue_cons set due]
    rfl

end Sys2Proof.Machine
end

section
/-! PROOFS. Proofs/HostFunctions.lean: the functions of a host link, its links, resets and completions (R389 to R394, R405 to
R414). -/

namespace Sys2Proof.Machine

section
variable {k f : Fin 4} {s : State}

/-- A present link that is up. -/
theorem link_present_and_up (present : s.linkPresent k = true) (up : s.hostLinkUp k = true) :
    (s.linkPresent k && s.hostLinkUp k) = true := by rw [present, up]; rfl

/-- What `configurable` says of its function and of its link. -/
theorem State.configurable_iff : s.configurable (4 * k.val + f.val) = true ↔
    s.boot.phase = 2 ∧ s.linkPresent k = true ∧ s.hostLinkUp k = true ∧ (s.hostFn (4 * k.val + f.val)).resetting = false ∧
      (f.val = 2 → s.rd Od.modeInForce ≠ 6) := by
  have link : (4 * k.val + f.val) / 4 = k.val := by omega
  have fn : (4 * k.val + f.val) % 4 = f.val := by omega
  simp [State.configurable, link, fn, and_assoc, imp_iff_not_or]

/-- A configuration request of a configurable function is answered with the register or does the write (R393). -/
theorem exec_configurationRequest (reg : CfgReg) (value : Option (BitVec 64))
    (able : s.configurable (4 * k.val + f.val) = true) :
    exec (.configurationRequest k (f.castLE (by decide : 4 ≤ 8)) reg value) s = .next (match value with
      | none => (s.configRead (4 * k.val + f.val) reg).1.emit (.completion k (f.castLE (by decide : 4 ≤ 8)) 0
          (leBytes (if reg = .serial then 8 else 4) (s.configRead (4 * k.val + f.val) reg).2))
      | some v => (s.configWrite (4 * k.val + f.val) reg v.toNat).emit (.completion k (f.castLE (by decide : 4 ≤ 8)) 0 [])) := by
  obtain ⟨serving, present, up, ready, mode⟩ := State.configurable_iff.mp able
  have fn : 4 * k.val + (f.castLE (by decide : 4 ≤ 8)).val % 4 = 4 * k.val + f.val := by
    rw [Fin.val_castLE]; omega
  have inRange : ¬ (4 ≤ (f.castLE (by decide : 4 ≤ 8)).val ∨
      ((f.castLE (by decide : 4 ≤ 8)).val = 2 ∧ s.rd Od.modeInForce = 6)) := by
    rintro (beyond | ⟨two, six⟩)
    · rw [Fin.val_castLE] at beyond; omega
    · exact mode two six
  change execConfigurationRequest k _ reg value s = _
  unfold execConfigurationRequest
  dsimp only
  rw [fn, if_neg (by rw [present, up]; decide), if_neg inRange, if_neg (by rw [serving, ready]; decide)] <;>
    cases value <;> rfl

end

/-- Settles O40: each command under its own condition. -/
theorem hostFunctionCommands : Obligations.HostFunctionCommands := by
  unfold Obligations.HostFunctionCommands
  refine ⟨fun k v s answers enable off => congrArg Host.Outcome.next ((if_neg (by rw [answers]; decide)).trans
      ((if_pos enable).trans (if_neg (ne_true_of_eq_false off)))),
    fun k v s answers disable => congrArg Host.Outcome.next ((if_neg (by rw [answers]; decide)).trans
      (if_neg (ne_true_of_eq_false disable))),
    fun k v s answers on ring i index => ?_, fun k off s u moved answers => ?_,
    fun k f tag s present up => ⟨congrArg Host.Outcome.next (if_pos (link_present_and_up present up)),
      congrArg Host.Outcome.next (if_pos (link_present_and_up present up)),
      congrArg Host.Outcome.next (if_pos (link_present_and_up present up)), fun stray => ?_⟩,
    fun k f reg v s able mode => ⟨⟨_, _, rfl, exec_configurationRequest reg none able⟩,
      exec_configurationRequest reg (some v) able⟩⟩
  · subst index
    exact congrArg Host.Outcome.next (if_pos (by rw [answers, on, bne_iff_ne.mpr ring]; rfl))
  · subst moved
    exact congrArg Host.Outcome.next (if_pos answers)
  · exact congrArg Host.Outcome.next (if_pos (by rw [present, up, stray]; rfl))

/-! ### Links, resets and completions -/

theorem State.hostFn_setHostFn_same (s : State) (f : Nat) (x : HostFn) : (s.setHostFn f x).hostFn f = x :=
  tblGet_tblSet_same _ _ f x

/-- A bit that is not set reads as set once it is. -/
theorem bitOf_withBit_true {v n : Nat} (clear : bitOf v n = false) : bitOf (withBit v n true) n = true := by
  have even : v / 2 ^ n % 2 = 0 := by
    have odd : v / 2 ^ n % 2 ≠ 1 := by simpa [bitOf, Nat.shiftRight_eq_div_pow] using clear
    omega
  have next : (v + 2 ^ n) / 2 ^ n = v / 2 ^ n + 1 := Nat.add_div_right v (Nat.two_pow_pos n)
  simp [withBit, bitOf, Nat.shiftRight_eq_div_pow, next, even, Nat.add_mod]

/-- Setting Bus Master Enable lets the waiting reads of the link go (R391). -/
theorem State.setBusMaster_on {s : State} {f : Nat} (off : bitOf (s.hostFn f).command 2 = false) :
    s.setBusMaster f true =
      (s.setHostFn f { s.hostFn f with command := withBit (s.hostFn f).command 2 true }).pumpReads (f / 4)
        (s.setHostFn f { s.hostFn f with command := withBit (s.hostFn f).command 2 true }).host.reads.length :=
  (if_neg (by rw [off]; decide)).trans (if_pos rfl)

/-- A completion of an outstanding read by its status, its poison and its length (R410 to R412). -/
theorem exec_completion {k f : Fin 4} {tag status : Nat} {poisoned : Bool} {bs : List Byte} {r : Dma} {s : State}
    (present : s.linkPresent k = true) (up : s.hostLinkUp k = true) (out : s.readOf k f tag = some r) :
    exec (.completion k f tag status poisoned bs) s =
      .next (s.conclude r poisoned (if status = 0 ∧ poisoned = false ∧ bs.length = r.len then some bs else none)) := by
  change execCompletion k f tag status poisoned bs s = _
  rw [execCompletion, if_neg (by rw [present, up]; decide), out]

/-- Settles O41: each command under its own condition. -/
theorem hostLinksAndResets : Obligations.HostLinksAndResets := by
  unfold Obligations.HostLinksAndResets
  refine ⟨fun k rate width s serving present down slow fast legal wide => ?_,
    fun k s present up => congrArg Host.Outcome.next (if_pos (link_present_and_up present up)),
    fun p strap s serving => congrArg Host.Outcome.next (if_pos serving),
    fun k f s able => ⟨congrArg Host.Outcome.next (if_pos able), congrArg Host.Outcome.next (if_pos able),
      congrArg Host.Outcome.next (if_pos able), fun off => ⟨_, State.setBusMaster_on off, ?_⟩⟩,
    fun k f s resetting none => congrArg Host.Outcome.next (if_pos (by rw [resetting, none]; rfl)),
    fun k f tag bs r s present up out length => ⟨?_, fun status failed => ?_⟩, fun k tag r s out due => ?_⟩
  · have fits : width ≤ if s.rd (Od.bifurcation (k.val / 2)) = 1 then 8 else 16 := by
      simp only [List.mem_cons, List.not_mem_nil, or_false] at legal
      split
      · next split_ => have narrow : width ≠ 16 := fun w => wide w split_
                       omega
      · omega
    change execHostLinkUp k rate width s = _
    rw [execHostLinkUp, if_pos ⟨serving, present, down, slow, fast, List.contains_iff_mem.mpr legal, fits⟩]
    dsimp only
    rw [State.wr_host]
  · rw [State.hostFn_setHostFn_same]
    exact bitOf_withBit_true off
  · rw [exec_completion present up out, if_pos ⟨rfl, rfl, length⟩]
  · rw [exec_completion present up out, if_neg (fun h => failed h.1)]
  · change execCompletionTimeout k tag s = _
    rw [execCompletionTimeout, out]
    exact congrArg Host.Outcome.next (if_pos due)

end Sys2Proof.Machine
end

section
/-! PROOFS. Proofs/PeerWindows.lean: peer windows and aperture (R409, R415 to R417). -/

namespace Sys2Proof.Machine

/-! ### The peer region -/

/-- A byte stored in the peer region is read there, and the others as before (R416). -/
theorem State.peerByte_peerStore_one (s : State) (a : Nat) (b : Byte) :
    (s.peerStore a [b]).peerByte a = b ∧ ∀ x, x ≠ a → (s.peerStore a [b]).peerByte x = s.peerByte x :=
  ⟨tblGet_tblSet_same 0 _ a b, fun _ ne => tblGet_tblSet_ne 0 0 _ b ne⟩

/-! ### Which window admits a request -/

/-- The bytes a request covers. -/
def accessLength : PeerAccess → Nat
  | .read n => n
  | .write bs => bs.length

/-- The kind of access a window allows. -/
def accessAllowed (v : Nat) : PeerAccess → Bool
  | .read _ => bitOf v 183 && winTarget v == 1
  | .write _ => bitOf v 182

/-- A window in force as `v` admits a request: enabled, in its range, of its requester, and of a kind it allows (R409). -/
def windowAdmits (v offset requester : Nat) (a : PeerAccess) : Bool :=
  winEnabled v && decide (winBase v ≤ offset) && decide (offset + accessLength a ≤ winBase v + winSize v)
    && (requester ^^^ bitField v 111 96) &&& bitField v 95 80 == 0 && accessAllowed v a

/-- What a request does by the window that admits it (R409, R415). -/
def State.peerReach (s : State) (k : Fin 4) (v offset : Nat) (a : PeerAccess) : Res :=
  if winTarget v = 1 then
    let base := s.rd (Od.peerRegionBase (k.val / 2)) + (winOffset v + (offset - winBase v))
    let t := s.hbmRequest (0x34 + k.val / 2) 5 (base / 64)
    .next (match a with
      | .read n => t.emit (.completion k 1 0 ((List.range n).map (fun i => t.peerByte (base + i))))
      | .write bs => t.peerStore base bs)
  else
    match a with
    | .read _ => .next (s.peerMiss (4 * k.val + 1) a)
    | .write bs => (s.peerDoorbell k (winOffset v + (offset - winBase v)) bs).getD (.next (s.peerMiss (4 * k.val + 1) a))

section
variable {k : Fin 4} {offset requester : Nat} {s : State}

/-- An aperture request on a link that is up, of a function that answers, by the first window that admits it. -/
theorem exec_peerApertureRequest (a : PeerAccess) (present : s.linkPresent k = true) (up : s.hostLinkUp k = true)
    (answers : s.answers (4 * k.val + 1) = true) :
    exec (.peerApertureRequest k offset requester a) s =
      match (s.windowsOf k).find? (fun w => windowAdmits (s.window (k.val / 2) w).active offset requester a) with
      | none => .next (s.peerMiss (4 * k.val + 1) a)
      | some w => s.peerReach k (s.window (k.val / 2) w).active offset a := by
  have shape : exec (.peerApertureRequest k offset requester a) s =
      if (!s.linkPresent k || !s.hostLinkUp k) = true then .next s
      else if (!s.answers (4 * k.val + 1)) = true then
        .next (match a with | .read _ => s.unsupported (4 * k.val + 1) | .write _ => s)
      else
        match (s.windowsOf k).find? (fun w => windowAdmits (s.window (k.val / 2) w).active offset requester a) with
        | none => .next (s.peerMiss (4 * k.val + 1) a)
        | some w => s.peerReach k (s.window (k.val / 2) w).active offset a := by
    cases a <;> rfl
  rw [shape, if_neg (by rw [present, up]; decide), if_neg (by rw [answers]; decide)]

/-- A window that is the only enabled one is the one that admits a request it admits. -/
theorem find_onlyWindow {w : Nat} {a : PeerAccess} (listed : w ∈ s.windowsOf k)
    (only : ∀ x ∈ s.windowsOf k, x ≠ w → winEnabled (s.window (k.val / 2) x).active = false)
    (admits : windowAdmits (s.window (k.val / 2) w).active offset requester a = true) :
    (s.windowsOf k).find? (fun w => windowAdmits (s.window (k.val / 2) w).active offset requester a) = some w := by
  cases found : (s.windowsOf k).find? (fun w => windowAdmits (s.window (k.val / 2) w).active offset requester a) with
  | none => exact absurd admits (List.find?_eq_none.mp found w listed)
  | some x =>
    by_contra other
    have off := only x (List.mem_of_find?_eq_some found) (fun same => other (congrArg some same))
    have admitted := List.find?_some found
    simp [windowAdmits, off] at admitted

/-- Where no window is enabled none admits a request. -/
theorem find_noWindow {a : PeerAccess} (off : ∀ w ∈ s.windowsOf k, winEnabled (s.window (k.val / 2) w).active = false) :
    (s.windowsOf k).find? (fun w => windowAdmits (s.window (k.val / 2) w).active offset requester a) = none :=
  List.find?_eq_none.mpr (fun w listed => by simp [windowAdmits, off w listed])

end

/-- Settles O42: the commit, the requests by the window that admits them, and the bytes of the region. -/
theorem peerWindowCommands : Obligations.PeerWindowCommands := by
  unfold Obligations.PeerWindowCommands
  refine ⟨fun k w off s u moved answers listed idle => ?_, fun k offset req len bs s present up answers =>
    ⟨fun w v base t listed only active enabled requester from' reached => ?_, fun off => ⟨?_, ?_⟩⟩,
    fun s a b => s.peerByte_peerStore_one a b⟩
  · subst moved
    exact congrArg Host.Outcome.next (if_pos (by rw [answers, listed, idle]; rfl))
  · subst active
    refine ⟨fun hbm readable low high => ?_, fun hbm writable low high => ?_, fun bells writable low high => ?_⟩
    · rw [exec_peerApertureRequest _ present up answers, find_onlyWindow listed only
        (by simp [windowAdmits, accessLength, accessAllowed, enabled, low, high, requester, readable, hbm])]
      dsimp only
      rw [State.peerReach, if_pos hbm, reached, from']
    · rw [exec_peerApertureRequest _ present up answers, find_onlyWindow listed only
        (by simp [windowAdmits, accessLength, accessAllowed, enabled, low, high, requester, writable])]
      dsimp only
      rw [State.peerReach, if_pos hbm, reached, from']
    · rw [exec_peerApertureRequest _ present up answers, find_onlyWindow listed only
        (by simp [windowAdmits, accessLength, accessAllowed, enabled, low, high, requester, writable])]
      dsimp only
      rw [State.peerReach, if_neg bells]
  · rw [exec_peerApertureRequest _ present up answers, find_noWindow off]
  · rw [exec_peerApertureRequest _ present up answers, find_noWindow off]

end Sys2Proof.Machine
end

section
/-! PROOFS. Proofs/Slices.lean: the control blocks of slices (R426 to R436). -/

namespace Sys2Proof.Machine

/-- Another slice bound to a function has the PASID (R427). -/
def State.pasidTaken (s : State) (k : SliceRef) (pasid : BitVec 20) : Bool :=
  s.slices.blocks.any (fun e => e.1 / 4096 == srFn k && e.1 % 4096 != k.slice.val && e.2.bound && e.2.pasid == pasid.toNat)

theorem State.pasidTaken_iff (s : State) (k : SliceRef) (pasid : BitVec 20) : s.pasidTaken k pasid = true ↔
    ∃ e ∈ s.slices.blocks, e.1 / 4096 = srFn k ∧ e.1 % 4096 ≠ k.slice.val ∧ e.2.bound = true ∧ e.2.pasid = pasid.toNat := by
  simp [State.pasidTaken, and_assoc]

/-- A bind of an open block that is not bound is refused, or binds it (R427). -/
theorem exec_bound {k : SliceRef} {pasid : BitVec 20} {s : State} (opened : s.blockOpen k = true)
    (unbound : (s.block (srFn k) k.slice).bound = false) :
    exec (.bound k pasid) s = .next (if (s.sliceSet k.slice).link ≠ k.link.val ∨
        bitOf (s.sliceSet k.slice).functions k.fn.val = false ∨ s.pasidTaken k pasid = true then
      s.setBlock (srFn k) k.slice { s.block (srFn k) k.slice with pasid := pasid.toNat, bindRefused := true }
    else s.setBlock (srFn k) k.slice
      { s.block (srFn k) k.slice with pasid := pasid.toNat, bound := true, bindRefused := false }) :=
  congrArg Host.Outcome.next (if_neg (by rw [opened, unbound]; decide))

/-- No read of a function's slice marks its old dirty log. -/
theorem noMark_of_forall {reads : List Dma} {old : Nat} (none : ∀ r ∈ reads, r.kind = .dirtyMark → r.id ≠ old) :
    reads.any (fun r => r.kind == .dirtyMark && r.id == old) = false := by
  simpa using none

/-- Settles O43: each command under its own condition. -/
theorem sliceCommands : Obligations.SliceCommands := by
  unfold Obligations.SliceCommands
  refine ⟨fun k pasid s opened unbound link fn free => ?_, fun k pasid s opened unbound refused => ?_,
    fun k s opened bound => congrArg Host.Outcome.next (if_pos (by rw [opened, bound]; rfl)),
    fun k on s opened => congrArg Host.Outcome.next (if_pos opened), fun k s quiesce running done marks => ?_,
    fun k on off s u moved opened => ?_, fun k off s u moved opened idle => ?_, fun k s flipped marked => ?_,
    fun k s fn stopping none => ?_, fun k s fn stopping none => ?_, fun k s u v opened bound idle pending stopped => ?_,
    fun k s pending none => ?_⟩
  · rw [exec_bound opened unbound, if_neg]
    rintro (other | refused | taken)
    · exact other link
    · exact absurd fn (ne_true_of_eq_false refused)
    · obtain ⟨e, listed, fn, slice, bound, same⟩ := (s.pasidTaken_iff k pasid).mp taken
      exact free e listed fn slice bound same
  · rw [exec_bound opened unbound, if_pos (by rwa [State.pasidTaken_iff])]
  · exact congrArg Host.Outcome.next (if_pos (by rw [quiesce, running, done, marks]; rfl))
  · subst moved
    exact congrArg Host.Outcome.next (if_pos opened)
  · subst moved
    exact congrArg Host.Outcome.next (if_pos (by rw [opened, idle]; rfl))
  · exact congrArg Host.Outcome.next (if_pos (by rw [flipped, noMark_of_forall marked]; rfl))
  · exact congrArg Host.Outcome.next ((if_neg fn).trans (if_pos (by rw [stopping, none]; rfl)))
  · have noRead : s.host.reads.any (fun r => r.queue == qrKey k && r.kind == .storage) = false := by simpa using none
    exact congrArg Host.Outcome.next ((if_pos fn).trans (if_pos (by rw [stopping, noRead]; rfl)))
  · subst pending stopped
    exact congrArg Host.Outcome.next (if_neg (by rw [opened, bound, idle]; decide))
  · exact ⟨_, congrArg Host.Outcome.next (if_pos (by rw [pending, none]; rfl)), rfl⟩

end Sys2Proof.Machine
end

section
/-! PROOFS. Proofs/StorageQueues.lean: the queues of the storage engine (R442, R444, R458 to R460, R469, R471). -/

namespace Sys2Proof.Machine

/-- A head written to a completion queue that is enabled and has a size (R444). -/
theorem exec_nvmeCqHead {q : NvmeQ} {i : BitVec 16} {arm : Bool} {s : State} {k : Nat}
    (key : (∀ l j, q = .ctrl l j → k = ctrlCq l j) ∧ (∀ l n j, q = .slice l n j → k = nvKey q)) (opened : s.nvOpen k = true)
    (on : (s.nvq k).enable = true) (size : (s.nvq k).cqSize ≠ 0) :
    exec (.nvmeCqHead q i arm) s = .next (
      let x := s.nvq k
      let h := i.toNat % x.cqSize
      let used := x.cqUsed - (h + x.cqSize - x.cqHead % x.cqSize) % x.cqSize
      let s1 := s.setNvq k { x with
        cqHead := h, cqUsed := used, armed := x.armed || arm, unsignalled := x.unsignalled.drop (x.unsignalled.length - used) }
      if x.halted || x.stopping then s1 else s1.nvDrain k x.cqWaiting.length) := by
  have admitted : (s.nvOpen k && (s.nvq k).enable && (s.nvq k).cqSize != 0) = true := by
    rw [opened, on, bne_iff_ne.mpr size]; rfl
  obtain ⟨ctrl, slice⟩ := key
  cases q with
  | ctrl l j => cases ctrl l j rfl; exact congrArg Host.Outcome.next (if_pos admitted)
  | slice l n j => cases slice l n j rfl; exact congrArg Host.Outcome.next (if_pos admitted)

/-- Settles O44: each command under its own condition. -/
theorem storageQueueCommands : Obligations.StorageQueueCommands := by
  unfold Obligations.StorageQueueCommands
  refine ⟨fun q i s opened on size => ?_, fun q i arm s k h used x y key read opened on size head slots freed => ?_,
    fun k s key named opened => ⟨fun off granted => ?_, fun off beyond => ?_, ?_⟩, fun t off s u moved on tile => ?_,
    fun id c s found waiting free => ?_, fun l s e entry on timed idle deep deeper due => ?_⟩
  · exact congrArg Host.Outcome.next (if_pos (by rw [opened, on, bne_iff_ne.mpr size]; rfl))
  · subst read
    rw [exec_nvmeCqHead key opened on size]
    subst freed slots head
    rfl
  · subst named
    exact congrArg Host.Outcome.next ((if_neg (by rw [opened]; decide)).trans ((if_pos rfl).trans
      ((if_neg (ne_true_of_eq_false off)).trans (if_neg (Nat.not_le.mpr granted)))))
  · subst named
    exact congrArg Host.Outcome.next ((if_neg (by rw [opened]; decide)).trans ((if_pos rfl).trans
      ((if_neg (ne_true_of_eq_false off)).trans (if_pos beyond))))
  · subst named
    exact congrArg Host.Outcome.next ((if_neg (by rw [opened]; decide)).trans (if_neg (by decide)))
  · subst moved
    exact congrArg Host.Outcome.next (if_neg (by rw [on, decide_eq_false (Nat.not_le.mpr tile)]; decide))
  · change execRangeLockGrant id s = _
    rw [execRangeLockGrant, found]
    exact congrArg Host.Outcome.next (if_pos (by rw [waiting, free]; rfl))
  · subst entry
    have none : (!s.storage.cmds.any (fun c => decide (2 ^ 40 ≤ c.queue) && nvqLink c.queue == l.val)) = true := by
      simpa using idle
    exact congrArg Host.Outcome.next (if_pos ⟨on, timed, none, deep, deeper, due⟩)

end Sys2Proof.Machine
end

section
/-! PROOFS. Proofs/StorageCommands.lean: admin and I/O commands of the storage engine (R443, R445, R446, R452 to R469). -/

namespace Sys2Proof.Machine

section
variable {s : State} {id op : Nat} {c : NvmeCmd}

/-- The admin command next in turn takes its effect. -/
theorem State.nvAdmin_of_found (found : s.nvCmd id true op = some c) (sound : c.status = 0) (f : NvmeCmd → State) :
    s.nvAdmin id op f = f c := by
  rw [State.nvAdmin, found]
  exact if_neg (not_not.mpr sound)

/-- Create I/O CQ of a free number with a legal size and vector (R443). -/
theorem exec_createIoCq {qid size vec : Nat} (found : s.nvCmd id true 5 = some c) (sound : c.status = 0)
    (number : qid = sqDw c.entry 10 % 65536) (slots : size = sqDw c.entry 10 / 65536) (vector : vec = sqDw c.entry 11 / 65536)
    (low : 1 ≤ qid) (high : qid ≤ 64) (free : (s.nvq (ctrlCq (nvqLink c.queue) qid)).enable = false) (sized : size ≠ 0)
    (contiguous : sqDw c.entry 11 % 2 = 1) (legal : vec ≤ 2047) :
    exec (.createIoCq id) s = .next ((s.setNvq (ctrlCq (nvqLink c.queue) qid) { NvmeQueue.fresh with
      enable := true, cqBase := sqPrp1 c.entry, cqSize := size + 1, vector := vec,
      signals := bitOf (sqDw c.entry 11) 1 }).nvDone c 0 0 0) := by
  subst number slots vector
  refine congrArg Host.Outcome.next ((State.nvAdmin_of_found found sound _).trans
    ((if_neg ?_).trans ((if_neg sized).trans ((if_neg ?_).trans (if_neg (Nat.not_lt.mpr legal))))))
  · rintro (zero | beyond | used)
    · omega
    · omega
    · exact absurd used (ne_true_of_eq_false free)
  · omega

/-- Create I/O SQ of a free number on an existing completion queue (R443). -/
theorem exec_createIoSq {qid size cq : Nat} (found : s.nvCmd id true 1 = some c) (sound : c.status = 0)
    (number : qid = sqDw c.entry 10 % 65536) (slots : size = sqDw c.entry 10 / 65536) (queue : cq = sqDw c.entry 11 / 65536)
    (low : 1 ≤ qid) (high : qid ≤ 64) (cqLow : 1 ≤ cq) (cqHigh : cq ≤ 64)
    (there : (s.nvq (ctrlCq (nvqLink c.queue) cq)).enable = true)
    (free : (s.nvq (ctrlSq (nvqLink c.queue) qid)).enable = false) (sized : size ≠ 0) (contiguous : sqDw c.entry 11 % 2 = 1) :
    exec (.createIoSq id) s = .next ((s.setNvq (ctrlSq (nvqLink c.queue) qid) { NvmeQueue.fresh with
      enable := true, sqBase := sqPrp1 c.entry, sqSize := size + 1, cq := ctrlCq (nvqLink c.queue) cq }).nvDone c 0 0 0) := by
  subst number slots queue
  refine congrArg Host.Outcome.next ((State.nvAdmin_of_found found sound _).trans
    ((if_neg ?_).trans ((if_neg ?_).trans ((if_neg sized).trans (if_neg ?_)))))
  · rintro (zero | beyond | absent)
    · omega
    · omega
    · exact absurd there (ne_true_of_eq_false absent)
  · rintro (zero | beyond | used)
    · omega
    · omega
    · exact absurd used (ne_true_of_eq_false free)
  · omega

/-- A queue to be deleted that exists has a legal number. -/
theorem deletable {qid k : Nat} (low : 1 ≤ qid) (high : qid ≤ 64) (there : (s.nvq k).enable = true) :
    ¬ (qid = 0 ∨ 64 < qid ∨ (s.nvq k).enable = false) := by
  rintro (zero | beyond | absent)
  · omega
  · omega
  · exact absurd there (ne_true_of_eq_false absent)

end

/-- Settles O45: each admin command next in turn, by `State.nvAdmin_of_found`. -/
theorem storageAdminCommands : Obligations.StorageAdminCommands := by
  unfold Obligations.StorageAdminCommands
  refine ⟨fun id op c s found sound => ⟨?_, ?_, ?_, ?_, ?_, ?_, ?_, ?_, ?_, ?_, ?_⟩, fun id c s found fresh unknown => ?_⟩
  · rintro qid size vec rfl number slots vector low high free sized contiguous legal
    exact exec_createIoCq found sound number slots vector low high free sized contiguous legal
  · rintro qid size cq rfl number slots queue low high cqLow cqHigh there free sized contiguous
    exact exec_createIoSq found sound number slots queue low high cqLow cqHigh there free sized contiguous
  · rintro qid k rfl rfl rfl low high there
    exact congrArg Host.Outcome.next ((State.nvAdmin_of_found found sound _).trans (if_neg (deletable low high there)))
  · rintro qid k rfl rfl rfl low high there unused
    refine congrArg Host.Outcome.next ((State.nvAdmin_of_found found sound _).trans
      ((if_neg (deletable low high there)).trans (if_neg ?_)))
    simpa using unused
  · rintro rfl controller
    refine congrArg Host.Outcome.next ((State.nvAdmin_of_found found sound _).trans ?_)
    dsimp only
    rw [controller]
    rfl
  · rintro rfl errors
    refine congrArg Host.Outcome.next ((State.nvAdmin_of_found found sound _).trans ?_)
    dsimp only
    rw [errors]
    rfl
  · rintro d rfl waiting
    refine congrArg Host.Outcome.next ((State.nvAdmin_of_found found sound _).trans ?_)
    dsimp only
    rw [waiting]
  · rintro rfl power legal
    refine congrArg Host.Outcome.next ((State.nvAdmin_of_found found sound _).trans ?_)
    dsimp only
    rw [power, if_neg (by rw [legal]; decide)]
    rfl
  · rintro rfl power
    refine congrArg Host.Outcome.next ((State.nvAdmin_of_found found sound _).trans ?_)
    dsimp only
    rw [power, if_neg (by decide)]
    rfl
  · rintro rfl none
    refine congrArg Host.Outcome.next ((State.nvAdmin_of_found found sound _).trans ?_)
    dsimp only
    rw [none]
  · rintro t i p l rfl waiting
    refine congrArg Host.Outcome.next ((State.nvAdmin_of_found found sound _).trans ?_)
    dsimp only
    rw [waiting]
  · change execInvalidCommandOpcode id s = _
    rw [execInvalidCommandOpcode, found]
    exact congrArg Host.Outcome.next (if_pos ⟨fresh, unknown⟩)

section
variable {s : State} {id op : Nat} {c : NvmeCmd}

/-- The I/O command next in turn, its lock granted, its namespace not Failed or the command a Read, takes its effect. -/
theorem State.nvIo_of_found (found : s.nvCmd id false op = some c) (sound : c.status = 0) (granted : c.granted = true)
    (on : s.storageOn = true) (serves : ¬ (s.rd (Od.namespaceStatus (sqNs c.entry)) = 3 ∧ op ≠ 2)) (f : NvmeCmd → State) :
    s.nvIo id op f = f c := by
  rw [State.nvIo, found]
  exact (if_neg (not_not.mpr sound)).trans ((if_neg (by rw [granted, on]; decide)).trans (if_neg serves))

/-- Any other of a Failed namespace completes with 6 (R453). -/
theorem State.nvIo_of_failed (found : s.nvCmd id false op = some c) (sound : c.status = 0) (granted : c.granted = true)
    (on : s.storageOn = true) (failed : s.rd (Od.namespaceStatus (sqNs c.entry)) = 3) (notRead : op ≠ 2) (f : NvmeCmd → State) :
    s.nvIo id op f = s.nvDone c 0 0x06 0 := by
  rw [State.nvIo, found]
  exact (if_neg (not_not.mpr sound)).trans ((if_neg (by rw [granted, on]; decide)).trans (if_pos ⟨failed, notRead⟩))

end

/-- Settles O46: by `State.nvIo_of_found` and `State.nvIo_of_failed`. -/
theorem storageIoCommands : Obligations.StorageIoCommands := by
  unfold Obligations.StorageIoCommands
  intro id op c s found sound granted on
  refine ⟨fun serves => ?_, fun failed => ?_⟩
  · have does (f : NvmeCmd → State) : s.nvIo id op f = f c :=
      State.nvIo_of_found found sound granted on (fun h => serves h.1) f
    refine ⟨?_, ?_, ?_, ?_, ?_, ?_, ?_, ?_, ?_⟩
    · rintro rfl full
      exact congrArg Host.Outcome.next ((does _).trans (if_pos full))
    · rintro rfl room some
      exact congrArg Host.Outcome.next ((does _).trans ((if_neg (Nat.not_lt.mpr room)).trans
        (congrArg (fun t => State.nvBegin t c) (if_neg some))))
    · rintro rfl none
      have room : ¬ s.poolFree 0x40 < s.stageNeed c := by omega
      exact congrArg Host.Outcome.next ((does _).trans ((if_neg room).trans (congrArg (fun t => State.nvBegin t c) (if_pos none))))
    · rintro rfl
      exact congrArg Host.Outcome.next ((does _).trans (if_neg (fun h => serves h.1)))
    · rintro rfl
      exact congrArg Host.Outcome.next (does _)
    · rintro rfl deallocate
      exact congrArg Host.Outcome.next ((does _).trans (if_pos deallocate))
    · rintro rfl other
      exact congrArg Host.Outcome.next ((does _).trans (if_neg (ne_true_of_eq_false other)))
    · rintro rfl durable
      exact congrArg Host.Outcome.next ((does _).trans (if_pos durable))
    · rintro rfl backing waits
      exact congrArg Host.Outcome.next ((does _).trans (if_neg (not_or.mpr ⟨backing, ne_true_of_eq_false waits⟩)))
  · have fails (f : NvmeCmd → State) (notRead : op ≠ 2) : s.nvIo id op f = s.nvDone c 0 0x06 0 :=
      State.nvIo_of_failed found sound granted on failed notRead f
    refine ⟨?_, ?_, ?_, ?_⟩
    all_goals
      rintro rfl
      exact congrArg Host.Outcome.next (fails _ (by decide))

end Sys2Proof.Machine
end

section
/-! PROOFS. Proofs/Backings.lean: SSDs, remote targets and the write-backs to them (R454, R463 to R468). -/

namespace Sys2Proof.Machine

/-- A due timeout of a backing command that can be reached: abort, and a new send or the failure (R465). -/
theorem exec_backingTimeout {id : Nat} {b : BackingCmd} {s : State}
    (found : s.storage.backing.find? (fun b => b.id == id) = some b) (reached : s.unreachable b.target = false)
    (on : s.storageOn = true)
    (due : s.dueEvery (tmBacking id) (s.msCourses (s.rd Od.backingTimeout)) (s.grainOf 1000000) = true) :
    exec (.backingTimeout id) s = .next (if b.retries < 2 then
      (({ s.emit (.backing b.target "abort" [id]) with storage := { s.storage with
        backing := s.storage.backing.map (fun x => if x.id = id then { x with retries := x.retries + 1 } else x) } }
        : State).backingSend b).arm (tmBacking id)
    else (s.emit (.backing b.target "abort" [id])).backingFailed b 0x06) := by
  have waits : ¬ (s.dueEvery (tmBacking id) (s.msCourses (s.rd Od.backingTimeout)) (s.grainOf 1000000) = false ∨
      s.storageOn = false) := by rw [due, on]; decide
  change execBackingTimeout id s = _
  rw [execBackingTimeout, found]
  exact congrArg Host.Outcome.next ((if_neg waits).trans (if_neg (ne_true_of_eq_false reached)))

/-- A slot that the bifurcation gives (R463). -/
theorem ssd_slot_there {s : State} {n : Fin 4} (there : s.rd Od.dspBifurcation ≠ 0 ∨ n.val = 0) :
    ¬ (s.rd Od.dspBifurcation = 0 ∧ n.val ≠ 0) := by
  rintro ⟨one, other⟩
  exact there.elim (fun h => h one) other

/-- A target that is not connected, has tiles and no timer running is tried (R466). -/
theorem target_connects {s : State} {k : Fin 64} (off : s.storage.connected.contains k.val = false) (some : s.tilesOn k ≠ [])
    (on : s.storageOn = true) (unarmed : s.armed (tmReconnect k) = false) :
    ¬ (s.storage.connected.contains k.val || (s.tilesOn k).isEmpty || !s.storageOn || s.armed (tmReconnect k)) = true := by
  rw [off, List.isEmpty_eq_false_iff.mpr some, on, unarmed]
  decide

/-- Settles O47: each command under its own condition. -/
theorem backingCommands : Obligations.BackingCommands := by
  unfold Obligations.BackingCommands
  refine ⟨fun t target id good bs s none => ?_, fun t target id u cid bs b c s found cmd kind length waiting => ?_,
    fun id b s found reached on due => ⟨fun last => ?_, fun again => ?_⟩, fun n seq w s u found durable on mapped => ?_,
    fun n s => rfl, fun n np s => rfl, fun n s => rfl, fun n ps s u there accepted => ⟨?_, ?_⟩,
    fun n s present starting => congrArg Host.Outcome.next (if_pos (by rw [present, starting]; rfl)),
    fun k s off some on unarmed => ⟨fun room => ?_, ?_⟩, fun k s connected on => ⟨?_, ?_⟩⟩
  · change execBackingCompletion t target id good bs s = _
    rw [execBackingCompletion, none]
  · change execBackingCompletion t target id true bs s = _
    rw [execBackingCompletion, found]
    dsimp only
    rw [if_neg (by rw [kind, length]; decide), cmd]
    dsimp only
    rw [waiting]
  · rw [exec_backingTimeout found reached on due, if_neg (Nat.not_lt.mpr last)]
  · exact ⟨_, (exec_backingTimeout found reached on due).trans (congrArg Host.Outcome.next (if_pos again)), rfl, rfl⟩
  · subst mapped
    change execWriteBackComplete n seq s = _
    rw [execWriteBackComplete, found]
    exact congrArg Host.Outcome.next (if_neg (by rw [durable, on]; decide))
  · subst accepted
    have slot := ssd_slot_there there
    exact congrArg Host.Outcome.next ((if_neg slot).trans (if_neg (by decide)))
  · have slot := ssd_slot_there there
    exact congrArg Host.Outcome.next ((if_neg slot).trans (if_pos rfl))
  · have enters := target_connects off some on unarmed
    exact congrArg Host.Outcome.next ((if_neg enters).trans (if_pos (by rw [decide_eq_true room]; rfl)))
  · have enters := target_connects off some on unarmed
    exact congrArg Host.Outcome.next ((if_neg enters).trans (if_neg (by rw [Bool.false_and]; decide)))
  · exact congrArg Host.Outcome.next ((if_pos (by rw [connected, on]; rfl)).trans (if_pos rfl))
  · exact congrArg Host.Outcome.next ((if_pos (by rw [connected, on]; rfl)).trans (if_neg (by decide)))

end Sys2Proof.Machine
end

section
/-! PROOFS. Proofs/RdmaQueues.lean: RDMA doorbells, regions and work requests (R479 to R484, R492, R499). -/

namespace Sys2Proof.Machine

/-! ### Doorbells -/

section
variable {l : Fin 4} {n : Fin 4096} {num : BitVec 24} {i : BitVec 16} {s : State}

/-- A tail of a queue pair the slice owns (R479). -/
theorem exec_queueTail_owned {q : RdmaQp} (door : s.rdmaDoor l n = true) (found : s.rqp? num.toNat = some q)
    (owned : q.slice = n.val) :
    exec (.sendQueueTail l n num i) s =
      .next ((s.setRqp num.toNat { q with sqTail := i.toNat % max 1 q.sqSize }).rdmaFetch num.toNat) ∧
    exec (.receiveQueueTail l n num i) s =
      .next ((s.setRqp num.toNat { q with rqTail := i.toNat % max 1 q.rqSize }).rdmaFetch num.toNat) := by
  change execSendQueueTail l n num i s = _ ∧ execReceiveQueueTail l n num i s = _
  rw [execSendQueueTail, execReceiveQueueTail, found]
  have opened : ¬ (!s.rdmaDoor l n) = true := by rw [door]; decide
  exact ⟨congrArg Host.Outcome.next ((if_neg opened).trans (if_pos owned)),
    congrArg Host.Outcome.next ((if_neg opened).trans (if_pos owned))⟩

/-- Any other number is counted. -/
theorem exec_queueTail_other (door : s.rdmaDoor l n = true) (other : ∀ q, s.rqp? num.toNat = some q → q.slice ≠ n.val) :
    exec (.sendQueueTail l n num i) s = .next (s.doorRefused num.toNat) ∧
    exec (.receiveQueueTail l n num i) s = .next (s.doorRefused num.toNat) := by
  change execSendQueueTail l n num i s = _ ∧ execReceiveQueueTail l n num i s = _
  rw [execSendQueueTail, execReceiveQueueTail]
  have opened : ¬ (!s.rdmaDoor l n) = true := by rw [door]; decide
  cases found : s.rqp? num.toNat with
  | none => exact ⟨congrArg Host.Outcome.next (if_neg opened), congrArg Host.Outcome.next (if_neg opened)⟩
  | some q =>
    have foreign := other q found
    exact ⟨congrArg Host.Outcome.next ((if_neg opened).trans (if_neg foreign)),
      congrArg Host.Outcome.next ((if_neg opened).trans (if_neg foreign))⟩

/-- A head of a completion queue the slice owns frees its slots (R479). -/
theorem State.rcqHead_owned {c : RdmaCq} {k : Nat} {arm : Bool} (door : s.rdmaDoor l n = true) (found : s.rcq? k = some c)
    (owned : leAt c.record 2 2 = n.val) (index : Nat) :
    s.rcqHead l n k index arm = s.setRcq k { c with
      head := index % max 1 (rdmaRing (leAt c.record 8 1)),
      used := c.used - (index % max 1 (rdmaRing (leAt c.record 8 1)) + max 1 (rdmaRing (leAt c.record 8 1)) - c.head) %
        max 1 (rdmaRing (leAt c.record 8 1)),
      armed := c.armed || arm } := by
  rw [State.rcqHead, if_neg (by rw [door]; decide), found]
  exact if_neg (not_not.mpr owned)

theorem State.rcqHead_other {k : Nat} {arm : Bool} (door : s.rdmaDoor l n = true)
    (other : ∀ c, s.rcq? k = some c → leAt c.record 2 2 ≠ n.val) (index : Nat) :
    s.rcqHead l n k index arm = s.doorRefused k := by
  rw [State.rcqHead, if_neg (by rw [door]; decide)]
  cases found : s.rcq? k with
  | none => rfl
  | some c => exact if_pos (other c found)

end

/-- Settles O48: each doorbell by who owns its object, and a drained region. -/
theorem rdmaDoorbells : Obligations.RdmaDoorbells := by
  unfold Obligations.RdmaDoorbells
  refine ⟨fun l n num i s door => ⟨fun q found owned => exec_queueTail_owned door found owned,
    fun other => exec_queueTail_other door other, fun c size j found owned sized index => ?_,
    fun other => ⟨congrArg Host.Outcome.next (State.rcqHead_other door other _),
      congrArg Host.Outcome.next (State.rcqHead_other door other _)⟩⟩, fun i r s found draining unused => ?_⟩
  · subst index sized
    refine ⟨congrArg Host.Outcome.next ((State.rcqHead_owned door found owned _).trans ?_),
      congrArg Host.Outcome.next ((State.rcqHead_owned door found owned _).trans ?_)⟩
    · rw [Bool.or_false]
    · rw [Bool.or_true]
  · change execRegionFree i s = _
    rw [execRegionFree, found]
    exact congrArg Host.Outcome.next (if_pos ⟨draining, unused⟩)

/-! ### Work requests -/

/-- Each of the eight commands starts the next request of its operation. -/
theorem exec_startWork {qpn op : Nat} {c : Instr} (s : State)
    (request : (op, c) ∈ [(0, Instr.rdmaSend qpn), (1, .sendWithImmediate qpn), (2, .rdmaWrite qpn),
      (3, .rdmaWriteWithImmediate qpn), (4, .rdmaRead qpn), (5, .compareAndSwap qpn), (6, .fetchAndAdd qpn),
      (7, .rdmaFlush qpn)]) : exec c s = .next (s.startWork qpn op) := by
  simp only [List.mem_cons, Prod.mk.injEq, List.not_mem_nil, or_false] at request
  rcases request with ⟨rfl, rfl⟩ | ⟨rfl, rfl⟩ | ⟨rfl, rfl⟩ | ⟨rfl, rfl⟩ | ⟨rfl, rfl⟩ | ⟨rfl, rfl⟩ | ⟨rfl, rfl⟩ |
    ⟨rfl, rfl⟩ <;> rfl

/-- Settles O49, an opcode at a time. -/
theorem rdmaWorkRequests : Obligations.RdmaWorkRequests := by
  unfold Obligations.RdmaWorkRequests
  refine ⟨fun qpn op s q i w c request next operation => ⟨fun fails => ?_, fun sound held => ?_, fun sound may room => ?_⟩,
    fun qpn s q i w next wait => ⟨fun sound => ?_, fun fails => ?_⟩,
    fun qpn s q i c k a w mode counted already due found first waiting => ?_⟩
  · rw [exec_startWork s request, State.startWork, next]
    exact congrArg Host.Outcome.next ((if_neg (not_not.mpr operation)).trans (if_pos fails))
  · rw [exec_startWork s request, State.startWork, next]
    exact congrArg Host.Outcome.next ((if_neg (not_not.mpr operation)).trans ((if_neg (not_not.mpr sound)).trans
      (if_pos (by rw [held]; rfl))))
  · refine ⟨_, _, rfl, rfl, ?_⟩
    rw [exec_startWork s request, State.startWork, next]
    exact congrArg Host.Outcome.next ((if_neg (not_not.mpr operation)).trans ((if_neg (not_not.mpr sound)).trans
      ((if_neg (by rw [may]; decide)).trans (if_neg (Nat.not_lt.mpr room)))))
  · change execRdmaWait qpn s = _
    rw [execRdmaWait, next]
    exact congrArg Host.Outcome.next ((if_neg (not_not.mpr wait)).trans (if_neg (not_not.mpr sound)))
  · change execRdmaWait qpn s = _
    rw [execRdmaWait, next]
    exact congrArg Host.Outcome.next ((if_neg (not_not.mpr wait)).trans (if_pos fails))
  · subst already
    change execWaitRelease qpn s = _
    rw [execWaitRelease, State.releaseWait, counted]
    dsimp only
    rw [if_pos ⟨mode, due⟩, found]
    dsimp only
    rw [first]
    dsimp only
    rw [waiting]

end Sys2Proof.Machine
end

section
/-! PROOFS. Proofs/RdmaPackets.lean: RoCEv2 packets, the timers of a queue pair and PFC storms (R482, R485, R489 to R496,
R501). -/

namespace Sys2Proof.Machine

/-! ### Requests -/

/-- An operation of a reply, which a command of its own takes. -/
def RoceOp.isReply : RoceOp → Bool
  | .ack => true
  | .readResponse => true
  | .atomicAck => true
  | .cnp => true
  | _ => false

theorem RoceOp.isReply_iff (o : RoceOp) :
    RoceOp.isReply o = true ↔ o ∈ [RoceOp.ack, .readResponse, .atomicAck, .cnp] := by
  cases o <;> simp [RoceOp.isReply]

/-- What a packet to a queue pair that is no UD one of the storage engine does there (R482, R489, R501). -/
def State.rcPacket (u : State) (q : RdmaQp) (x : RocePacket) (stamp : Nat) : State :=
  if u.quiescing q.slice then u.bump (Od.quiesceDiscards (rdmaTile x.dest))
  else if !u.canMaster (u.rdmaFn q.slice) then u.dmaLost (u.rdmaFn q.slice)
  else
    match (u.takeDelay x.dest x stamp).rqp? x.dest with
    | some q1 => (u.takeDelay x.dest x stamp).rcRequest x.dest q1 x stamp
    | none => u.takeDelay x.dest x stamp

section
variable {p : PortId} {off : Nat} {bs : List Byte} {s u : State} {x : RocePacket} {stamp : Nat}

/-- A request packet that has arrived, to another queue pair than 1, by that queue pair. -/
theorem exec_rocev2Packet (arrived : s.roceArrive p off bs = (u, some (x, stamp)))
    (request : roceOp (rocePacket bs).opcode ∉ [RoceOp.ack, .readResponse, .atomicAck, .cnp]) (other : x.dest ≠ 1) :
    exec (.rocev2Packet p off bs) s = .next (match u.rqp? x.dest with
      | none => u.bump (Od.unknownQp (rdmaTile x.dest))
      | some q =>
        if q.state ≠ 2 ∧ q.state ≠ 3 then u.bump (Od.unknownQp (rdmaTile x.dest))
        else if q.slice = 0xFFFF then u
        else if q.ud then
          match roceOp x.opcode, x.split false with
          | .udSend imm, some (h, body) =>
            if beAt h 0 4 ≠ leAt q.record 36 4 then u.bump (Od.unknownQp (rdmaTile x.dest))
            else if u.quiescing q.slice then u.bump (Od.quiesceDiscards (rdmaTile x.dest))
            else u.placeUd x.dest q x imm h body stamp
          | _, _ => u
        else u.rcPacket q x stamp) := by
  have notReply : ¬ RoceOp.isReply (roceOp (rocePacket bs).opcode) = true := fun h => request ((RoceOp.isReply_iff _).mp h)
  change execRocev2Packet p off bs s = _
  rw [execRocev2Packet, arrived]
  exact (if_neg notReply).trans (congrArg Host.Outcome.next (if_neg other))

/-- A request to a ready queue pair of a slice is handled by its transport, discarded or lost. -/
theorem exec_rocev2Packet_rc {q : RdmaQp} (arrived : s.roceArrive p off bs = (u, some (x, stamp)))
    (request : roceOp (rocePacket bs).opcode ∉ [RoceOp.ack, .readResponse, .atomicAck, .cnp]) (other : x.dest ≠ 1)
    (found : u.rqp? x.dest = some q) (ready : q.state = 2 ∨ q.state = 3) (slice : q.slice ≠ 0xFFFF) (rc : q.ud = false) :
    exec (.rocev2Packet p off bs) s = .next (u.rcPacket q x stamp) := by
  have isReady : ¬ (q.state ≠ 2 ∧ q.state ≠ 3) := by omega
  rw [exec_rocev2Packet arrived request other, found]
  exact congrArg Host.Outcome.next ((if_neg isReady).trans ((if_neg slice).trans (if_neg (ne_true_of_eq_false rc))))

end

/-! ### Replies -/

section
variable {p : PortId} {off n stamp v : Nat} {bs h body : List Byte} {s u : State} {q : RdmaQp} {x : RocePacket}

/-- A positive acknowledgement (R485). -/
theorem exec_rdmaAck_ack (reply : s.replyFor p off bs = (u, some (n, q, x, h, body, stamp)))
    (ack : roceOp (rocePacket bs).opcode = .ack) (code : syndrome bs s = some v) (positive : v / 32 = 0) :
    exec (.rdmaAck p off bs) s = .next (if (u.acknowledge n x.psn stamp).2 then (u.acknowledge n x.psn stamp).1
      else (u.acknowledge n x.psn stamp).1.lateResponse n) := by
  change execRdmaAck p off bs s = _
  rw [execRdmaAck, code, reply]
  dsimp only
  rw [if_neg (not_not.mpr (.inr (.inr ⟨ack, beq_iff_eq.mpr positive⟩))), if_pos ack]

/-- A READ or atomic response (R490). -/
theorem exec_rdmaAck_response (reply : s.replyFor p off bs = (u, some (n, q, x, h, body, stamp)))
    (response : roceOp (rocePacket bs).opcode = .readResponse ∨ roceOp (rocePacket bs).opcode = .atomicAck) :
    exec (.rdmaAck p off bs) s = .next (u.takeResponse n x h body stamp) := by
  have notAck : roceOp (rocePacket bs).opcode ≠ .ack := by
    rcases response with op | op <;> rw [op] <;> decide
  change execRdmaAck p off bs s = _
  rw [execRdmaAck, reply]
  dsimp only
  rw [if_neg (not_not.mpr (response.elim .inl (fun op => .inr (.inl op)))), if_neg notAck]

section
variable {s2 : State} {q2 : RdmaQp} {w : Work}
  (reply : s.replyFor p off bs = (u, some (n, q, x, h, body, stamp))) (code : syndrome bs s = some v)
  (acknowledged : s2 = (u.acknowledge n ((x.psn + 2 ^ 24 - 1) % 2 ^ 24) stamp).1) (found : s2.rqp? n = some q2)
include reply code acknowledged found

/-- A sequence-error NAK retries from its PSN (R489). -/
theorem exec_nakPsnSequenceError (sequence : v = 0x60) (oldest : q2.oldest = some w) :
    exec (.nakPsnSequenceError p off bs) s = .next (s2.retry n x.psn) := by
  subst acknowledged sequence
  change execNakPsnSequenceError p off bs s = _
  rw [execNakPsnSequenceError, if_neg (not_not.mpr code), reply]
  dsimp only
  rw [found]
  exact congrArg Host.Outcome.next (if_pos (by rw [oldest]; rfl))

/-- An RNR NAK waits the time of its code, or fails the oldest request beyond the retries (R491). -/
theorem exec_rnrNak (rnr : v / 32 = 1) (oldest : q2.oldest = some w) :
    exec (.rnrNak p off bs) s = .next (
      if leAt q2.record 42 1 ≠ 7 ∧ leAt q2.record 42 1 ≤ q2.rnrTries then
        (s2.raiseLimited 0xAA02 (rdmaTile n) 1 n).workFails n w 8
      else ((s2.setRqp n { q2 with
          rnrTries := q2.rnrTries + 1, rnrTime := some (10000 * rnrTimes.getD (v % 32) 1) }).disarm (tmAck n)).arm (tmRnr n)) := by
  subst acknowledged
  change execRnrNak p off bs s = _
  rw [execRnrNak, code]
  dsimp only
  rw [if_neg (not_not.mpr rnr), reply]
  dsimp only
  rw [found]
  dsimp only
  rw [oldest]

/-- Another NAK fails the request it names (R482). -/
theorem exec_rdmaNak {y : Work} (nak : v / 32 = 3) (other : v ≠ 0x60)
    (named : q2.work.find? (fun w => w.stage == 2 && wqOp w.wqe != 0x20 && decide (psnAfter x.psn w.psn < w.count)) = some y) :
    exec (.rdmaNak p off bs) s = .next (s2.workFails n y (if v = 0x62 then 4 else if v = 0x61 then 5 else 6)) := by
  subst acknowledged
  change execRdmaNak p off bs s = _
  rw [execRdmaNak, code]
  dsimp only
  rw [if_neg (not_or.mpr ⟨not_not.mpr nak, other⟩), reply]
  dsimp only
  rw [found]
  dsimp only
  rw [named]

end
end

/-- Settles O50: CNPs, requests by their queue pair, acknowledgements and NAKs by their syndrome. -/
theorem rdmaPacketsArrive : Obligations.RdmaPacketsArrive := by
  unfold Obligations.RdmaPacketsArrive
  refine ⟨fun p off bs s u x stamp arrived packet cnp => ?_, fun p off bs s u x stamp arrived request other =>
      ⟨fun unknown => ?_, fun q found notInit notReady => ?_, fun q q1 found ready slice rc =>
        ⟨fun quiescing => ?_, fun serving lost => ?_, fun serving may sampled => ?_⟩⟩,
    fun p off n stamp v bs h body s u q x reply ack code => ⟨exec_rdmaAck_ack reply ack code,
      fun s2 q2 w acknowledged found oldest => ⟨fun sequence => exec_nakPsnSequenceError reply code acknowledged found sequence oldest,
        fun rnr tries => ?_, fun rnr limited used => ?_,
        fun y nak other named => exec_rdmaNak reply code acknowledged found nak other named⟩⟩,
    fun p off n stamp bs h body s u q x reply response => exec_rdmaAck_response reply response⟩
  · subst packet
    change execRdmaCnp p off bs s = _
    rw [execRdmaCnp, if_neg (not_not.mpr cnp), arrived]
  · rw [exec_rocev2Packet arrived request other, unknown]
  · rw [exec_rocev2Packet arrived request other, found]
    exact congrArg Host.Outcome.next (if_pos ⟨notInit, notReady⟩)
  · rw [exec_rocev2Packet_rc arrived request other found ready slice rc, State.rcPacket, if_pos quiescing]
  · rw [exec_rocev2Packet_rc arrived request other found ready slice rc, State.rcPacket,
      if_neg (ne_true_of_eq_false serving), if_pos (by rw [lost]; rfl)]
  · rw [exec_rocev2Packet_rc arrived request other found ready slice rc, State.rcPacket,
      if_neg (ne_true_of_eq_false serving), if_neg (by rw [may]; decide), sampled]
  · rw [exec_rnrNak reply code acknowledged found rnr oldest, if_neg]
    rintro ⟨limited, used⟩
    omega
  · rw [exec_rnrNak reply code acknowledged found rnr oldest, if_pos ⟨limited, used⟩]

/-! ### Timers and storms -/

/-- Settles O51: each timer under its own condition. -/
theorem rdmaTimersAndStorms : Obligations.RdmaTimersAndStorms := by
  unfold Obligations.RdmaTimersAndStorms
  refine ⟨fun n q w s found oldest timed mode due => ?_, fun n t q w s u found waits oldest mode due resent => ?_,
    fun n q s found oneWay first ready old => ?_, fun p c s u enabled lossless calm due paused stormy => ?_,
    fun p c s storm due => congrArg Host.Outcome.next (if_pos (by rw [storm, due]; rfl))⟩
  · change execLocalAckTimeout n s = _
    rw [execLocalAckTimeout, found]
    dsimp only
    rw [oldest]
    exact congrArg Host.Outcome.next (if_pos ⟨timed, mode, due⟩)
  · subst resent
    change execRnrTimer n s = _
    rw [execRnrTimer, found]
    dsimp only
    rw [waits, oldest]
    exact congrArg Host.Outcome.next (if_pos ⟨mode, due⟩)
  · change execDelayFallback n s = _
    rw [execDelayFallback, State.delayFallback, found]
    refine congrArg Host.Outcome.next (if_pos ?_)
    simpa [oneWay, first, old] using ready
  · subst stormy
    exact congrArg Host.Outcome.next (if_pos (by rw [enabled, lossless, calm, due, decide_eq_true paused]; rfl))

end Sys2Proof.Machine
end

section
/-! PROOFS. Proofs/Upgrade.lean: activation, handover and wake (R518, R519, R558 to R562). -/

namespace Sys2Proof.Machine

/-! ### The end of an activation -/

/-- The versions of the parts are shown in entries of their own. -/
theorem State.showVersions_boot (s : State) : s.showVersions.boot = s.boot := by
  unfold State.showVersions
  dsimp only
  split <;> split <;> split <;> simp

theorem State.showVersions_activation (s : State) : s.showVersions.activation = s.activation := by
  unfold State.showVersions
  dsimp only
  split <;> split <;> split <;> simp

/-- The state of a completed activation before its event: the parts of the new image, its versions and the active slot. -/
def State.activated (s : State) : State :=
  let n := s.activationSlot
  let bs := s.slotBytes n
  let base := (((imageParts bs).find? (fun x => x.1 == 5)).map (fun x => x.2.1)).getD 0
  let s1 := { s with boot := { s.boot with parts := imageParts bs }, activation := State.reset.activation }
  let s2 := { s1 with boot := { s1.boot with retained := s1.partDigest 3 } }
  let s3 := ((s2.showVersions.wr Od.microcodeVersion (base % 65536 * 65536 + s2.rd Od.microcodeVersion % 65536)).wr
    Od.supportedLevel (imageLevel bs)).wr Od.activeSlot n
  (s3.wr Od.activationStatus (activationWord 0 n 0 (bitField (s.rd Od.activationStatus) 15 8))).renewAlias

/-- A renewed alias changes the dictionary by its event alone. -/
theorem State.rd_renewAlias (s : State) {k : Nat} (newest : k ≠ Od.newestEvent) (oldest : k ≠ Od.oldestEvent)
    (overwritten : k ≠ Od.eventsOverwritten) (suppressed : k ≠ Od.eventsSuppressed) : s.renewAlias.rd k = s.rd k :=
  State.rd_raise_ne _ _ _ newest oldest overwritten suppressed

theorem State.renewAlias_parts (s : State) : s.renewAlias.boot.parts = s.boot.parts := by
  rw [State.renewAlias, State.raise_boot]

theorem State.renewAlias_activation (s : State) : s.renewAlias.activation = s.activation := by
  rw [State.renewAlias, State.raise_activation]

theorem State.activated_parts (s : State) : s.activated.boot.parts = imageParts (s.slotBytes s.activationSlot) := by
  rw [State.activated]
  dsimp only
  rw [State.renewAlias_parts, State.wr_boot, State.wr_boot, State.wr_boot, State.wr_boot, State.showVersions_boot]

theorem State.activated_activation (s : State) : s.activated.activation = State.reset.activation := by
  rw [State.activated]
  dsimp only
  rw [State.renewAlias_activation, State.wr_activation, State.wr_activation, State.wr_activation, State.wr_activation,
    State.showVersions_activation]

theorem State.activated_rd_activationStatus (s : State) : s.activated.rd Od.activationStatus =
    activationWord 0 s.activationSlot 0 (bitField (s.rd Od.activationStatus) 15 8) := by
  rw [State.activated]
  dsimp only
  rw [State.rd_renewAlias _ (by decide) (by decide) (by decide) (by decide), State.rd_wr_same]

theorem State.activated_rd_activeSlot (s : State) : s.activated.rd Od.activeSlot = s.activationSlot := by
  rw [State.activated]
  dsimp only
  rw [State.rd_renewAlias _ (by decide) (by decide) (by decide) (by decide), State.rd_wr_ne _ _ (by decide), State.rd_wr_same]

/-- Settles O52: each command under its own condition. -/
theorem upgradeCommands : Obligations.UpgradeCommands := by
  unfold Obligations.UpgradeCommands
  refine ⟨fun rb lb s n code serving preparing slot checked => ⟨fun bad => ?_, fun good => ?_⟩,
    fun s serving due reached => congrArg Host.Outcome.next ((if_pos serving).trans (if_pos ⟨due, reached⟩)),
    fun t s handing => congrArg Host.Outcome.next (if_pos handing), fun s u switching changed waits tiles handed => ?_,
    fun s u handing ended => ?_,
    fun s switching all => ⟨s.activated, congrArg Host.Outcome.next (if_pos ⟨switching, all⟩), s.activated_parts,
      s.activated_activation, s.activated_rd_activeSlot, s.activated_rd_activationStatus⟩,
    fun ty t s u running changed notKiln rolled noBase => ?_, fun t s waking => ?_, fun t d s waking other => ?_,
    fun t s reloading => congrArg Host.Outcome.next (if_pos reloading)⟩
  · subst checked slot
    exact congrArg Host.Outcome.next ((if_pos ⟨serving, preparing⟩).trans (if_pos bad))
  · subst checked slot
    refine ⟨_, _, congrArg Host.Outcome.next ((if_pos ⟨serving, preparing⟩).trans (if_neg (not_not.mpr good))), rfl, rfl, rfl,
      rfl, rfl, rfl⟩
  · subst handed
    exact congrArg Host.Outcome.next (if_pos ⟨switching, changed, waits, tiles⟩)
  · subst ended
    exact congrArg Host.Outcome.next (if_pos handing)
  · subst rolled
    exact congrArg Host.Outcome.next ((if_pos ⟨running, changed, notKiln⟩).trans (if_neg (ne_true_of_eq_false noBase)))
  · exact congrArg Host.Outcome.next ((if_pos waking).trans (if_pos rfl))
  · exact congrArg Host.Outcome.next ((if_pos waking).trans (if_neg other))

end Sys2Proof.Machine
end

section
/-! PROOFS. Proofs/Faults.lean: errors of the Mortar, cores, SRAM, HBM, the Keystone and tiles (R41, R42, R506, R566 to R569). -/

namespace Sys2Proof.Machine

/-- What an uncorrectable SRAM error does by what the lost word held (R566). -/
def State.sramLoses (u : State) (t : TileId) : SramContent → State
  | .buffer network frame => u.trafficLost t network frame
  | .freeList pool unit => u.quarantine pool.toNat unit.toNat
  | .count pool unit => u.quarantine pool.toNat unit.toNat
  | .store => u.bump (Od.correctedErrors t)
  | .engine e => if (u.pipe (enginePipe e)).spareUsed then u.engineLost e else u.spareSubstituted e
  | .core n => if u.boot.phase = 2 then u.coreFails n else u
  | .keystone => u.fatal 0xBA11 0
  | other => u.entryLost t other

theorem exec_sramUncorrectable {t : TileId} (c : SramContent) {s : State} (started : 2 ≤ s.boot.phase) :
    exec (.sramUncorrectable t c) s = .next ((s.bump Od.sramUncorrected).sramLoses t c) := by
  have runs : ¬ (s.bump Od.sramUncorrected).boot.phase < 2 := by rw [State.bump_boot]; omega
  change execSramUncorrectable t c s = _
  unfold execSramUncorrectable
  dsimp only
  rw [if_neg runs]
  cases c <;> rfl

section
variable {b : Fin 512} {row : BitVec 20} {s : State}

/-- An uncorrectable error of HBM begins the repair of its row (R568). -/
theorem exec_hbmError_uncorrectable (started : 2 ≤ s.boot.phase)
    (idle : (s.bump Od.hbmUncorrected).service.repairing.contains (b.val * 2 ^ 20 + row.toNat) = false) :
    exec (.hbmError b row true) s = .next { s.bump Od.hbmUncorrected with service := { (s.bump Od.hbmUncorrected).service with
      repairing := (b.val * 2 ^ 20 + row.toNat) :: (s.bump Od.hbmUncorrected).service.repairing } } :=
  congrArg Host.Outcome.next ((if_neg (Nat.not_lt.mpr started)).trans
    (if_pos (by rw [if_pos rfl, if_pos rfl, idle]; rfl)))

/-- A corrected error of HBM below the threshold is only noted (R568). -/
theorem exec_hbmError_corrected (started : 2 ≤ s.boot.phase)
    (few : ((s.bump Od.hbmCorrected).now :: (s.bump Od.hbmCorrected).rowErrors (b.val * 2 ^ 20 + row.toNat)).length
      < (s.bump Od.hbmCorrected).rd Od.hbmRepairThreshold) :
    exec (.hbmError b row false) s = .next { s.bump Od.hbmCorrected with service := { (s.bump Od.hbmCorrected).service with
      rows := tblSet [] (s.bump Od.hbmCorrected).service.rows (b.val * 2 ^ 20 + row.toNat)
        ((s.bump Od.hbmCorrected).now :: (s.bump Od.hbmCorrected).rowErrors (b.val * 2 ^ 20 + row.toNat)) } } :=
  congrArg Host.Outcome.next ((if_neg (Nat.not_lt.mpr started)).trans
    (if_neg (by
      rw [Bool.and_eq_true, Bool.or_eq_true, decide_eq_true_eq]
      exact fun h => h.1.elim (fun absurd => nomatch absurd) (Nat.not_le.mpr few))))

end

/-- Settles O53: each command under its own condition. -/
theorem faultCommands : Obligations.FaultCommands := by
  unfold Obligations.FaultCommands
  refine ⟨fun t vn fr s u started lost => ?_, fun n s serving => congrArg Host.Outcome.next (if_pos serving),
    fun t s u started counted => ?_, fun t c s u started counted => ?_, fun b row s u key started named => ⟨?_, ?_⟩,
    fun b row as us s key used named repairing spares room => ?_,
    fun t s started => congrArg Host.Outcome.next (if_neg (Nat.not_lt.mpr started)),
    fun s started => congrArg Host.Outcome.next (if_neg (Nat.not_lt.mpr started)), fun s => rfl,
    fun t s started first => ?_, fun t s started => ?_, fun t s k started noted => ⟨fun watched firmware => ?_, fun first other => ?_⟩⟩
  · subst lost
    exact ⟨_, rfl, congrArg Host.Outcome.next (if_neg (Nat.not_lt.mpr started))⟩
  · subst counted
    exact ⟨exec_sramUncorrectable _ started, exec_sramUncorrectable _ started⟩
  · subst counted
    refine ⟨?_, ?_, ?_, ?_, ?_, ?_, ?_, ?_, ?_, ?_⟩
    · rintro vn fr rfl; exact exec_sramUncorrectable _ started
    · rintro p n (rfl | rfl) <;> exact exec_sramUncorrectable _ started
    · rintro e rfl; exact exec_sramUncorrectable _ started
    · rintro tile i id rfl; exact exec_sramUncorrectable _ started
    · rintro x k rfl; exact exec_sramUncorrectable _ started
    · rintro v rfl; exact exec_sramUncorrectable _ started
    · rintro v rfl; exact exec_sramUncorrectable _ started
    · rintro n rfl serving
      have serving' : (s.bump Od.sramUncorrected).boot.phase = 2 := by rw [State.bump_boot]; exact serving
      exact (exec_sramUncorrectable _ started).trans (congrArg Host.Outcome.next (if_pos serving'))
    · rintro tile n rfl; exact exec_sramUncorrectable _ started
    · rintro f m rfl; exact exec_sramUncorrectable _ started
  · rintro rfl idle
    subst named
    exact exec_hbmError_uncorrectable started idle
  · rintro rfl few
    subst named
    exact exec_hbmError_corrected started few
  · subst named spares
    exact congrArg Host.Outcome.next ((if_pos repairing).trans (if_pos room))
  · exact congrArg Host.Outcome.next ((if_neg (Nat.not_lt.mpr started)).trans ((if_pos rfl).trans (if_neg (ne_true_of_eq_false first))))
  · exact congrArg Host.Outcome.next ((if_neg (Nat.not_lt.mpr started)).trans (if_neg (by decide)))
  · subst noted
    exact congrArg Host.Outcome.next ((if_neg (Nat.not_lt.mpr started)).trans (if_pos (by rw [watched, firmware]; rfl)))
  · subst noted
    have noCores : ¬ (0x20 ≤ t.val ∧ t.val < 0x30) := by omega
    exact congrArg Host.Outcome.next ((if_neg (Nat.not_lt.mpr started)).trans ((if_neg (by rw [first, Bool.false_and]; decide)).trans (if_neg noCores)))

end Sys2Proof.Machine
end

section
/-! PROOFS. Proofs/Sessions.lean: openings, timeouts and notices of sessions, the windows of hosts and cores, and management frames (R540, R541, R544 to R550, R553, R560). -/

namespace Sys2Proof.Machine

/-- What the device does with a management frame of a kind (R553). -/
def State.takeMgmt (u : State) : MgmtKind → State
  | .arp => u.mgmtAnswer (beBytes 2 0x0806 ++ beBytes 6 (u.rd Od.mgmtMac))
  | .neighbour => u.mgmtAnswer (beBytes 2 0x86DD ++ beBytes 6 (u.rd Od.mgmtMac))
  | .echo => u.mgmtAnswer (beBytes 2 0x0800)
  | .udp port source =>
    if port.toNat = u.rd Od.blpUdpPort ∧ u.mgmtAllows source.toNat = true then u else u.bump Od.mgmtDiscarded
  | .other => u.bump Od.mgmtDiscarded

/-- Both links up again end the report of a degraded redundancy (R553). -/
def State.mgmtHealed (w : State) : State :=
  { w with mgmt := { w.mgmt with degradedReported := w.mgmt.degradedReported && !(w.mgmt.linkA && w.mgmt.linkB) } }

section
variable {b : Bool} {f : MgmtFrame} {off : Nat} {s w : State}

theorem exec_mgmtFrame_dropped (started : 2 ≤ (s.moveTo off).boot.phase) (busy : (s.moveTo off).mgmtRate b = none) :
    exec (.mgmtFrame b f off) s = .next ((s.moveTo off).bump Od.mgmtRateDrops) := by
  refine congrArg Host.Outcome.next ((if_neg (Nat.not_lt.mpr started)).trans ?_)
  rw [busy]

theorem exec_mgmtFrame_taken (started : 2 ≤ (s.moveTo off).boot.phase) (admitted : (s.moveTo off).mgmtRate b = some w)
    (plain : f.trailer = none) : exec (.mgmtFrame b f off) s = .next (w.mgmtHealed.takeMgmt f.kind) := by
  obtain ⟨kind, source, trailer⟩ := f
  cases plain
  refine congrArg Host.Outcome.next ((if_neg (Nat.not_lt.mpr started)).trans ?_)
  rw [admitted]
  cases kind <;> rfl

end

/-- Settles O54: each command under its own condition. -/
theorem sessionCommands : Obligations.SessionCommands := by
  unfold Obligations.SessionCommands
  refine ⟨fun f g s started => ⟨fun idle => ⟨?_, ?_⟩, fun moving => ⟨?_, ?_⟩⟩,
    fun sid s due => congrArg Host.Outcome.next (if_pos due), fun a s due => congrArg Host.Outcome.next (if_pos due),
    fun sid x s found many later => ?_, fun sid s idle due => congrArg Host.Outcome.next (if_pos ⟨idle, due⟩),
    fun sid s due => congrArg Host.Outcome.next (if_pos due),
    fun x s due uncopied => congrArg Host.Outcome.next ((if_neg (ne_true_of_eq_false uncopied)).trans (if_pos due)),
    fun k s serving answers => congrArg Host.Outcome.next (if_pos ⟨serving, answers⟩),
    fun n len s x serving runs free rung => ?_, fun b f off s u v moved started => ⟨fun busy => ?_, fun w admitted plain healed => ?_⟩,
    fun b s started unreported => ?_⟩
  · exact congrArg Host.Outcome.next ((if_neg (Nat.not_lt.mpr started)).trans (if_neg (ne_true_of_eq_false idle)))
  · exact congrArg Host.Outcome.next ((if_neg (Nat.not_lt.mpr started)).trans (if_neg (ne_true_of_eq_false idle)))
  · exact congrArg Host.Outcome.next ((if_neg (Nat.not_lt.mpr started)).trans (if_pos moving))
  · exact congrArg Host.Outcome.next ((if_neg (Nat.not_lt.mpr started)).trans (if_pos moving))
  · have waits : x.waiting.isEmpty = false := by
      cases empty : x.waiting with
      | nil => rw [empty] at many; exact absurd many (by decide)
      | cons e l => rfl
    change execBlpNotify sid s = _
    rw [execBlpNotify, found]
    dsimp only
    rw [if_pos many, State.notifyOnce, found]
    dsimp only
    rw [if_neg (ne_true_of_eq_false waits), if_neg later]
    rfl
  · subst rung
    refine congrArg Host.Outcome.next ((if_pos ⟨serving, runs⟩).trans ?_)
    rw [if_neg (ne_true_of_eq_false free)]
  · subst moved
    exact exec_mgmtFrame_dropped started busy
  · subst moved healed
    have taken := exec_mgmtFrame_taken started admitted plain
    exact ⟨fun kind => by rw [taken, kind]; rfl, fun kind => by rw [taken, kind]; rfl, fun kind => by rw [taken, kind]; rfl,
      fun kind => by rw [taken, kind]; rfl, fun port src kind => by rw [taken, kind]; rfl⟩
  · exact congrArg Host.Outcome.next (if_neg (not_or.mpr ⟨Nat.not_lt.mpr started, ne_true_of_eq_false unreported⟩))

end Sys2Proof.Machine
end

section
/-! PROOFS. Proofs/Requests.lean: requests of the dictionary, accesses to registers, and how a request is served (R395, R420, R530 to R533, R542, R546, R547, R549, R550, R560). -/

namespace Sys2Proof.Machine

section
variable {r : Req} {a : Ask} {s : State}

theorem State.request_idle (started : 2 ≤ s.boot.phase) (idle : s.agent.handover = false) : s.request r a = s.ask r a :=
  (if_neg (Nat.not_lt.mpr started)).trans (if_neg (ne_true_of_eq_false idle))

theorem State.request_held (started : 2 ≤ s.boot.phase) (moving : s.agent.handover = true) :
    s.request r a = { s with agent := { s.agent with held := s.agent.held ++ [.ask r a] } } :=
  (if_neg (Nat.not_lt.mpr started)).trans (if_pos moving)

end

/-- Settles O55: each command is a request of its question, or an access to its register. -/
theorem requestCommands : Obligations.RequestCommands := by
  unfold Obligations.RequestCommands
  refine ⟨fun c a r s asks started => ?_, fun a n off bs s => ⟨rfl, rfl⟩,
    fun k n o bs off m at_ base size s u moved answers place whole notStatus notResult owner running => ?_⟩
  · have request : exec c s = .next (s.request r a) := by
      rcases asks with ⟨rfl, rfl⟩ | ⟨k, rfl, rfl⟩ | ⟨k, v, rfl, rfl⟩ | ⟨t, rfl, rfl⟩ | ⟨k, rfl, rfl⟩ | ⟨rfl, rfl⟩ |
        ⟨k, f, l, o, n, bs, st, rfl, rfl⟩ | ⟨k, o, rfl, rfl⟩ | ⟨m, rfl, rfl⟩ | ⟨rfl, rfl⟩ <;> rfl
    exact ⟨fun idle => request.trans (congrArg _ (State.request_idle started idle)),
      fun moving => request.trans (congrArg _ (State.request_held started moving))⟩
  · subst moved
    refine ⟨_, _, rfl, ?_⟩
    change execPinBlockWrite k n o bs off s = _
    unfold execPinBlockWrite
    dsimp only
    rw [answers, place]
    dsimp only
    rw [whole]
    exact congrArg Host.Outcome.next ((if_neg (by decide)).trans ((if_neg (by decide)).trans
      ((if_neg (not_or.mpr ⟨notStatus, notResult⟩)).trans ((if_neg (not_not.mpr owner)).trans (if_neg running)))))

theorem State.id_of_find?_session {u : State} {sid : Nat} {x : Session}
    (found : u.agent.sessions.find? (fun z => z.id == sid) = some x) : x.id = sid :=
  beq_iff_eq.mp (List.find?_some (p := fun z : Session => z.id == sid) found)

/-- The session found by its number after it is stored is the one stored. -/
theorem State.find?_setSession {u : State} {sid : Nat} {x y : Session}
    (found : u.agent.sessions.find? (fun z => z.id == sid) = some x) (same : y.id = sid) :
    (u.setSession y).agent.sessions.find? (fun z => z.id == sid) = some y := by
  have keyed := State.id_of_find?_session found
  have kept : (fun z : Session => z.id == sid) ∘ (fun z => if z.id = y.id then y else z) = fun z => z.id == sid := by
    funext z
    by_cases hit : z.id = y.id
    · rw [Function.comp_apply, if_pos hit, hit]
    · rw [Function.comp_apply, if_neg hit]
  change (u.agent.sessions.map fun z => if z.id = y.id then y else z).find? _ = _
  rw [List.find?_map, kept, found, Option.map_some, if_pos (keyed.trans same.symm)]

section
variable {s : State} {sid seq : Nat} {a : Ask} {x : Session}

/-- A request whose tag fails is discarded (R546). -/
theorem State.serveSession_spoilt : s.serveSession sid seq false a = (s.sessionOver sid).bump Od.blpFramesDiscarded := by
  unfold State.serveSession
  exact if_pos (by decide)

/-- A repeated request is answered from the store (R547). -/
theorem State.serveSession_repeated {m : Nat} {y : Resp} (found : (s.sessionOver sid).agent.sessions.find? (fun x => x.id == sid) = some x)
    (old : seq ≠ x.high + 1) (stored : x.stored.find? (fun e => e.1 == seq) = some (seq, m, y)) :
    s.serveSession sid seq true a = ((s.sessionOver sid).emit (.blp (sessionCtx sid) m seq y.status y.data)).bump Od.retransmitted := by
  unfold State.serveSession
  dsimp only
  rw [found]
  dsimp only
  rw [if_neg (by decide), if_neg old, stored]

/-- A request that is neither the next one nor stored is dropped (R547). -/
theorem State.serveSession_outOfOrder (found : (s.sessionOver sid).agent.sessions.find? (fun x => x.id == sid) = some x)
    (old : seq ≠ x.high + 1) (unknown : x.stored.find? (fun e => e.1 == seq) = none) :
    s.serveSession sid seq true a = (s.sessionOver sid).bump Od.outOfOrderDiscarded := by
  unfold State.serveSession
  dsimp only
  rw [found]
  dsimp only
  rw [if_neg (by decide), if_neg old, unknown]

/-- The next request of a session, when it is a KEEPALIVE, is answered and its answer stored (R546, R547). -/
theorem State.serveSession_keepAlive (found : (s.sessionOver sid).agent.sessions.find? (fun x => x.id == sid) = some x)
    (next : seq = x.high + 1) :
    s.serveSession sid seq true .keepAlive = (((((s.sessionOver sid).setSession { x with high := seq, last := (s.sessionOver sid).now }).arm
      (tmIdleSession sid)).setSession { x with high := seq, last := (s.sessionOver sid).now, stored := ((seq, 0x3F, ⟨0, []⟩) :: x.stored).take 16 }).emit
      (.blp (sessionCtx sid) 0x3F seq 0 [])) := by
  have keyed := State.id_of_find?_session found
  have held : (((s.sessionOver sid).setSession { x with high := seq, last := (s.sessionOver sid).now }).arm (tmIdleSession sid)).agent.sessions.find?
      (fun z => z.id == sid) = some { x with high := seq, last := (s.sessionOver sid).now } := State.find?_setSession found keyed
  unfold State.serveSession
  dsimp only
  rw [found]
  dsimp only
  rw [if_neg (by decide), if_pos next]
  dsimp only [State.answer]
  rw [held]
  rfl

end

/-- A request of a session that is gone is answered 0x08 when the session has ended, else dropped (R546). -/
theorem State.serveSession_gone {s : State} {sid seq : Nat} {a : Ask}
    (gone : (s.sessionOver sid).agent.sessions.find? (fun x => x.id == sid) = none) :
    s.serveSession sid seq true a = if (s.sessionOver sid).agent.ended.contains sid then
      (if a.isWrite then (s.sessionOver sid).bump Od.refusedWrites else s.sessionOver sid).emit (.blp (sessionCtx sid) a.msg seq 8 [])
    else (s.sessionOver sid).bump Od.blpFramesDiscarded := by
  unfold State.serveSession
  dsimp only
  rw [gone]
  exact if_neg (by decide)

/-- A write by a signed command answers with what the command came to (R549). -/
theorem State.ask_signed_write (s : State) (counter off k : Nat) (auth st : Bool) (x : WireValue) :
    s.ask ⟨.signed counter auth, off⟩ (.write k x st) =
      (((s.moveTo off).signedAlone st counter auth (signedEntriesOf k x)).state.emit
        (.blp 0 0x11 0 ((s.moveTo off).signedAlone st counter auth (signedEntriesOf k x)).status
          (beBytes 7 0 ++ beBytes 8 ((s.moveTo off).signedAlone st counter auth (signedEntriesOf k x)).course))).afterAnswer (.write k x st)
        ((s.moveTo off).signedAlone st counter auth (signedEntriesOf k x)).status := rfl

theorem State.signedAlone_refused {s : State} {st auth : Bool} {counter : Nat} {es : List SignedEntry}
    (refused : auth = false ∨ counter ≤ s.rd Od.commandCounter) : s.signedAlone st counter auth es = s.signedFails 9 0 none true := by
  refine if_pos ?_
  rw [Bool.or_eq_true, Bool.not_eq_true', decide_eq_true_eq]
  exact refused

theorem State.signedAlone_accepted {s : State} {st : Bool} {counter : Nat} {es : List SignedEntry}
    (fresh : s.rd Od.commandCounter < counter) : s.signedAlone st counter true es = s.signedBody st counter es := by
  refine if_neg ?_
  rw [Bool.or_eq_true, decide_eq_true_eq]
  exact fun h => h.elim (fun absurd => nomatch absurd) (Nat.not_le.mpr fresh)

/-- Settles O56: a request by its Sequence, and each other path. -/
theorem requestsAreServed : Obligations.RequestsAreServed := by
  unfold Obligations.RequestsAreServed
  refine ⟨fun sid seq a s u named => ?_, fun a off s => rfl, fun k counter off auth st x s u moved => ⟨fun refused => ?_, fun auth' fresh => ?_⟩,
    fun n version a s free => if_pos (Or.inl free), fun k version a s free => if_pos free⟩
  · subst named
    refine ⟨State.serveSession_spoilt, fun x found => ⟨fun m y old stored => State.serveSession_repeated found old stored,
      fun old unknown => State.serveSession_outOfOrder found old unknown, ?_⟩, fun gone ended => ?_, fun gone unknown => ?_⟩
    · rintro next rfl
      exact ⟨_, _, rfl, State.serveSession_keepAlive found next, Or.inr ⟨_, rfl, rfl⟩⟩
    · exact (State.serveSession_gone gone).trans (if_pos ended)
    · exact (State.serveSession_gone gone).trans (if_neg (ne_true_of_eq_false unknown))
  · subst moved
    rw [State.ask_signed_write, State.signedAlone_refused refused]
  · subst moved auth'
    rw [State.ask_signed_write, State.signedAlone_accepted fresh]

end Sys2Proof.Machine
end

section
/-! PROOFS. Proofs/Writes.lean: the commands that are a write of one entry (R531, R542 and the rule of each entry). -/

namespace Sys2Proof.Machine

theorem State.writes_idle {s : State} {r : Req} {k : Nat} {v : WireValue} {st : Bool} (started : 2 ≤ s.boot.phase)
    (idle : s.agent.handover = false) : s.writes r k v st = s.ask r (.write k v st) :=
  State.request_idle started idle

/-- COURSE_COMMIT by a session, a mailbox or a core window writes CourseCommit alone (R119). -/
theorem exec_courseCommit_by_window {r : Req} {n : Nat} {s : State} (unsigned : ∀ c b, r.via ≠ .signed c b) (other : r.via ≠ .firmware) :
    exec (.courseCommit r n) s = .next (s.writes r Od.courseCommit ⟨0x01, [1]⟩ false) := by
  obtain ⟨via, off⟩ := r
  cases via with
  | signed c b => exact absurd rfl (unsigned c b)
  | firmware => exact absurd rfl other
  | session sid seq intact => rfl
  | mailbox link version => rfl
  | core m version => rfl

theorem exec_courseCommit_by_signed {r : Req} {n : Nat} {s : State} {c : Nat} {b : Bool} (signed : r.via = .signed c b) :
    exec (.courseCommit r n) s = .next (s.writes r Od.courseLength ⟨0x04, beBytes 4 n⟩ false) := by
  obtain ⟨via, off⟩ := r
  cases signed
  rfl

theorem exec_courseCommit_by_firmware {r : Req} {n : Nat} {s : State} (firmware : r.via = .firmware) :
    exec (.courseCommit r n) s = .next ((s.writes r Od.courseLength ⟨0x04, beBytes 4 n⟩ false).writes r Od.courseCommit ⟨0x01, [1]⟩ false) := by
  obtain ⟨via, off⟩ := r
  cases firmware
  rfl

/-- Settles O57: each command of the table is a request to write its entry, and a request is asked or held. -/
theorem writeCommands : Obligations.WriteCommands := by
  unfold Obligations.WriteCommands
  refine ⟨fun c r k v st s which started => ?_, fun r n s started idle => ⟨fun unsigned other => ?_, fun c b signed => ?_,
    fun u firmware named started' idle' => ?_⟩,
    fun r f l o n bs s started idle => congrArg Host.Outcome.next (State.request_idle started idle)⟩
  · have writes : exec c s = .next (s.request r (.write k v st)) := by
      rcases which with
        ⟨w, rfl, rfl, rfl, rfl⟩ | ⟨w, rfl, rfl, rfl, rfl⟩ | ⟨n, w, rfl, rfl, rfl, rfl⟩ | ⟨n, w, rfl, rfl, rfl, rfl⟩ |
        ⟨w, coresStopped, rfl, rfl, rfl, rfl⟩ | ⟨rfl, rfl, rfl, rfl⟩ | ⟨target, coresStopped, rfl, rfl, rfl, rfl⟩ |
        ⟨p, w, rfl, rfl, rfl, rfl⟩ | ⟨t, w, rfl, rfl, rfl, rfl⟩ | ⟨p, bytes, rfl, rfl, rfl, rfl⟩ |
        ⟨t, index, entry, rfl, rfl, rfl, rfl⟩ | ⟨t, index, rfl, rfl, rfl, rfl⟩ | ⟨entry, rfl, rfl, rfl, rfl⟩ |
        ⟨entry, rfl, rfl, rfl, rfl⟩ | ⟨fid, gen, rfl, rfl, rfl, rfl⟩ | ⟨fid, gen, rfl, rfl, rfl, rfl⟩ | ⟨k₁, rfl, rfl, rfl, rfl⟩ |
        ⟨first, count, rfl, rfl, rfl, rfl⟩ | ⟨t, record, rfl, rfl, rfl, rfl⟩ | ⟨t, record, rfl, rfl, rfl, rfl⟩ |
        ⟨t, pipeline, rule, rfl, rfl, rfl, rfl⟩ | ⟨t, rule, rfl, rfl, rfl, rfl⟩ | ⟨x, k₁, action, rfl, rfl, rfl, rfl⟩ |
        ⟨x, k₁, rfl, rfl, rfl, rfl⟩ | ⟨x, k₁, rfl, rfl, rfl, rfl⟩ | ⟨x, first, count, rfl, rfl, rfl, rfl⟩ |
        ⟨t, pipeline, entry, words, rfl, rfl, rfl, rfl⟩ | ⟨t, pipeline, entry, rfl, rfl, rfl, rfl⟩ | ⟨bytes, rfl, rfl, rfl, rfl⟩ |
        ⟨t, pipeline, address, words, rfl, rfl, rfl, rfl⟩ | ⟨record, rfl, rfl, rfl, rfl⟩ | ⟨slot, rfl, rfl, rfl, rfl⟩ |
        ⟨slot, kind, slice, rfl, rfl, rfl, rfl⟩ | ⟨slot, rfl, rfl, rfl, rfl⟩ | ⟨slice, record, rfl, rfl, rfl, rfl⟩ |
        ⟨slice, rfl, rfl, rfl, rfl⟩ | ⟨slice, link, fn, records, rfl, rfl, rfl, rfl⟩ | ⟨n, record, rfl, rfl, rfl, rfl⟩ |
        ⟨record, rfl, rfl, rfl, rfl⟩ | ⟨record, rfl, rfl, rfl, rfl⟩ | ⟨record, rfl, rfl, rfl, rfl⟩ | ⟨record, rfl, rfl, rfl, rfl⟩ |
        ⟨record, rfl, rfl, rfl, rfl⟩ | ⟨record, rfl, rfl, rfl, rfl⟩ | ⟨record, rfl, rfl, rfl, rfl⟩ | ⟨record, rfl, rfl, rfl, rfl⟩ |
        ⟨record, rfl, rfl, rfl, rfl⟩ | ⟨kind, number, rfl, rfl, rfl, rfl⟩ | ⟨bytes, coresStopped, rfl, rfl, rfl, rfl⟩ |
        ⟨sequence, rfl, rfl, rfl, rfl⟩ | ⟨code, rfl, rfl, rfl, rfl⟩ | ⟨slot, rfl, rfl, rfl, rfl⟩ | ⟨slot, rfl, rfl, rfl, rfl⟩ |
        ⟨slot, rfl, rfl, rfl, rfl⟩ | ⟨t, coresStopped, rfl, rfl, rfl, rfl⟩ | ⟨t, rfl, rfl, rfl, rfl⟩ <;> rfl
    exact ⟨fun idle => writes.trans (congrArg _ (State.request_idle started idle)),
      fun moving => writes.trans (congrArg _ (State.request_held started moving))⟩
  · exact (exec_courseCommit_by_window unsigned other).trans (congrArg _ (State.writes_idle started idle))
  · exact (exec_courseCommit_by_signed signed).trans (congrArg _ (State.writes_idle started idle))
  · subst named
    refine (exec_courseCommit_by_firmware firmware).trans (congrArg _ ?_)
    rw [State.writes_idle started idle, State.writes_idle started' idle']

end Sys2Proof.Machine
end

section
/-! PROOFS. Proofs/Monitor.lean: the commands of the Lamil monitor (R575 to R584). -/

namespace Sys2Proof.Machine

/-- A command of text mode runs after both idle times start anew (R577). -/
theorem State.command_textOpen {s : State} (f : State → State) (text : s.textOpen = true) :
    s.command f = f ((s.arm tmCommands).arm tmChars) := if_pos text

section
variable {s : State}

theorem exec_monCharacter (ch : BitVec 8) (ms : Nat) (bad : Bool) (running : s.monitorRuns = true) :
    exec (.monCharacter ch ms bad) s = .next (if s.monitor.autoBaud then s.tryBaud ch ms bad
      else if bad then s.bump Od.monFramingErrors else (s.drainChars.charIn ch).arm tmChars) :=
  congrArg Host.Outcome.next (if_neg (by rw [running]; decide))

theorem exec_monitorIdleTimeout_commands {n : Nat} (named : n = s.secCourses (s.rd Od.monitorIdleTimeout))
    (commands : s.due tmCommands n = true) (chars : s.due tmChars n = false) :
    exec .monitorIdleTimeout s = .next ((s.wr Od.monitorLevel 0).disarm tmCommands) := by
  subst named
  exact congrArg Host.Outcome.next ((if_neg (by rw [chars, Bool.and_false]; decide)).trans (if_pos commands))

theorem exec_monitorIdleTimeout_chars {n : Nat} (named : n = s.secCourses (s.rd Od.monitorIdleTimeout))
    (commands : s.due tmCommands n = false) (running : s.monitorRuns = true) (chars : s.due tmChars n = true) :
    exec .monitorIdleTimeout s = .next s.enterAutoBaud := by
  subst named
  refine congrArg Host.Outcome.next ((if_pos (by rw [running, chars]; rfl)).trans ?_)
  rw [if_neg (ne_true_of_eq_false commands)]

end

/-- Settles O58: each command under its own condition. -/
theorem monitorCommands : Obligations.MonitorCommands := by
  unfold Obligations.MonitorCommands
  refine ⟨fun ch ms bad s running => ⟨fun trying => ?_, fun fixed => ⟨?_, ?_⟩⟩,
    fun ms s running long => congrArg Host.Outcome.next (if_pos (by rw [running, decide_eq_true long]; rfl)),
    fun s n named => ⟨exec_monitorIdleTimeout_commands named, exec_monitorIdleTimeout_chars named⟩,
    fun c f s text which => ?_,
    fun raw s running expected idle => congrArg Host.Outcome.next (if_pos (by rw [running, expected, idle]; rfl)),
    fun s expected due => congrArg Host.Outcome.next (if_pos ⟨expected, due⟩),
    fun s blocked due => congrArg Host.Outcome.next (if_pos ⟨blocked, due⟩),
    fun raw s running fixed blp idle => congrArg Host.Outcome.next (if_pos (by rw [running, fixed, blp, idle]; rfl)),
    fun s block due => congrArg Host.Outcome.next (if_pos ⟨block, due⟩)⟩
  · exact (exec_monCharacter ch ms bad running).trans (congrArg Host.Outcome.next (if_pos trying))
  · exact (exec_monCharacter ch ms true running).trans (congrArg Host.Outcome.next (if_neg (ne_true_of_eq_false fixed)))
  · exact (exec_monCharacter ch ms false running).trans (congrArg Host.Outcome.next (if_neg (ne_true_of_eq_false fixed)))
  · have command : exec c s = .next (s.command f) := by
      rcases which with ⟨rfl, rfl⟩ | ⟨rfl, rfl⟩ | ⟨rfl, rfl⟩ | ⟨rfl, rfl⟩ | ⟨n, rfl, rfl⟩ | ⟨n, rfl, rfl⟩ | ⟨rfl, rfl⟩ |
        ⟨rfl, rfl⟩ | ⟨k, rfl, rfl⟩ | ⟨rfl, rfl⟩ | ⟨a, b, rfl, rfl⟩ | ⟨rfl, rfl⟩ | ⟨id, vn, n, tags, rfl, rfl⟩ | ⟨rfl, rfl⟩ |
        ⟨bs, rfl, rfl⟩ | ⟨rfl, rfl⟩ <;> rfl
    exact command.trans (congrArg Host.Outcome.next (State.command_textOpen f text))

end Sys2Proof.Machine
end
